-- ==== Sys2Proof/Word.lean ====
section
/-! DEFINITION. The word types every layer shares: bytes, byte strings and the 64-bit word of the
configuration space. R7 (little-endian) and R8 (bit numbering) are applied in Machine/Bytes.lean. -/

namespace Sys2Proof

/-- One byte (R7). -/
abbrev Byte := BitVec 8

/-- A byte string, lowest offset first (R7). -/
abbrev Bytes := List Byte

/-- A register slot of the configuration space (R405). -/
abbrev Word := BitVec 64

end Sys2Proof
end

