-- ==== Sys2Proof/Syntax.lean ====
section
/-! DEFINITION. The commands of the block: one constructor of `Instr` per row of spec/opcode_table.json,
with the row's operands. Operand records hold the fields of the spec's operand tables as natural numbers
(each below 2 to its width: WellFormed.lean). A field whose upper bits are rsvd is cut to its width where it is
used. What the module reads from companion memory (a tail, a descriptor, a policy block, an image set) is an
operand of the command that reads it, since the table has no row by which the companion writes its own memory. -/

namespace Sys2Proof

/-- An instant of federation time: whole nanoseconds and 1/256 ns (R229). -/
structure Instant where
  ns : Nat
  frac : Nat
deriving DecidableEq, Repr

/-- What every descriptor carries beside its operands (Table 8.8), with the partition and ring it was read
from, the entry it stood in and the stamp of its batch (R205, R211). -/
structure DescHdr where
  p : Fin 16
  ring : Fin 8
  slot : Nat
  gen : Nat
  hflags : BitVec 8
  tag : Nat
  stamp : Instant
deriving DecidableEq, Repr

/-- Table 8.10. -/
structure FenceOps where
  ringMask : BitVec 8
deriving DecidableEq, Repr

/-- Table 8.10. -/
structure WaitFtOps where
  target : Nat
deriving DecidableEq, Repr

/-- Table 8.10. -/
structure HintOps where
  cls : BitVec 8
  level : Nat
  lead : Nat
  duration : Nat
deriving DecidableEq, Repr

/-- Table 8.11; `src` is the pattern of a FILL. -/
structure MoveOps where
  src : Nat
  dst : Nat
  len : Nat
  width : Nat
  flags : BitVec 8
deriving DecidableEq, Repr

/-- Table 9.3; `kind` is kept as the raw byte so that an unknown kind is refused by R215. -/
structure WindowOpenOps where
  roundId : Nat
  opens : Nat
  closes : Nat
  landingAddr : Nat
  paramAddr : Nat
  slotCount : Nat
  kind : Nat
deriving DecidableEq, Repr

/-- R243. -/
structure WindowCloseOps where
  roundId : Nat
  kind : Nat
  closeAt : Nat
  listAddr : Nat
deriving DecidableEq, Repr

/-- Table 8.12. -/
structure IngestOps where
  roundId : Nat
  listAddr : Nat
  count : Nat
  resultAddr : Nat
deriving DecidableEq, Repr

/-- Table 3.4; `src` is the round id or the list address, `first` the first number or the pass tag, `count` the
number or list count. -/
structure AccOps where
  dstTile : Nat
  tileCount : Nat
  width : Nat
  mode : Nat
  srcKind : Nat
  srcWidth : Nat
  coordTile : Nat
  src : Nat
  first : Nat
  count : Nat
  modulus : Nat
  splitWays : Nat
  flags : BitVec 8
deriving DecidableEq, Repr

/-- Table 3.6. -/
structure DrainOps where
  srcTile : Nat
  tileCount : Nat
  dst : Nat
  scale : BitVec 32
  bias : BitVec 32
  actParam : BitVec 32
  activation : Nat
  outFormat : Nat
  fracBits : Nat
  flags : BitVec 8
  elemCount : Nat
deriving DecidableEq, Repr

/-- Table 3.7 without its subop, which the command names. -/
structure StatsOps where
  srcKind : Nat
  srcWidth : Nat
  flags : BitVec 8
  tileA : Nat
  tileB : Nat
  tileCount : Nat
  src : Nat
  first : Nat
  count : Nat
  resultAddr : Nat
  eps : BitVec 32
  fracBits : Nat
deriving DecidableEq, Repr

/-- Table 3.9. -/
structure RankOps where
  srcTile : Nat
  tileCount : Nat
  elemCount : Nat
  k : Nat
  lapelSleeve : Nat
  flags : BitVec 8
  dstAddr : Nat
deriving DecidableEq, Repr

/-- R92. -/
structure ZipSendOps where
  declAddr : Nat
  roundId : Nat
  srcTile : Nat
  tileCount : Nat
  deadline : Nat
deriving DecidableEq, Repr

/-- Table 3.11. -/
structure ZipRecvOps where
  declAddr : Nat
  roundId : Nat
  ownTile : Nat
  dstTile : Nat
  deadline : Nat
  landingTile : Nat
  landingDepth : Nat
  flags : BitVec 8
deriving DecidableEq, Repr

/-- Table 4.6. -/
structure MaskOps where
  roundId : Nat
  dstTile : Nat
  tileCount : Nat
  coordTile : Nat
  seedFirst : Nat
  seedCount : Nat
  flags : BitVec 8
deriving DecidableEq, Repr

/-- Table 4.5. -/
structure ShareOps where
  roundId : Nat
  reportAddr : Nat
deriving DecidableEq, Repr

/-- Table 4.2; `recTile` is the recovery tile (GRAPH) or the transcript count (DERIVE). -/
structure SeedOps where
  roundId : Nat
  srcAddr : Nat
  graphAddr : Nat
  recTile : Nat
  recUnits : Nat
deriving DecidableEq, Repr

/-- Table 5.5. -/
structure NttOps where
  src : Nat
  dst : Nat
  limbStride : Nat
  limbCount : Nat
  log2N : Nat
  laneMode : Nat
  modAddr : Nat
  flags : BitVec 8
deriving DecidableEq, Repr

/-- Table 5.7 without its subop, which the command names. -/
structure PmulOps where
  a : Nat
  b : Nat
  dst : Nat
  limbStride : Nat
  elemCount : Nat
  limbCount : Nat
  laneMode : Nat
  modAddr : Nat
  scalar : Nat
  fracBits : Nat
  flags : BitVec 8
deriving DecidableEq, Repr

/-- Table 5.8. -/
structure BaseOps where
  src : Nat
  dst : Nat
  limbStride : Nat
  inLimbs : Nat
  outLimbs : Nat
  log2N : Nat
  flags : BitVec 8
  inMod : Nat
  outMod : Nat
deriving DecidableEq, Repr

/-- Table 6.6 without its subop; `a` is the round id (FOLD) or a's record, `b` the weights or b's record. -/
structure CtAddOps where
  flags : BitVec 8
  limbStride : Nat
  paramAddr : Nat
  dstRef : Nat
  a : Nat
  b : Nat
  seqFirst : Nat
  seqCount : Nat
deriving DecidableEq, Repr

/-- Table 6.7. -/
structure KsOps where
  inList : Nat
  outList : Nat
  keyAddr : Nat
  paramAddr : Nat
  limbStride : Nat
  galois : Nat
  workTile : Nat
  ctCount : Nat
  flags : BitVec 8
deriving DecidableEq, Repr

/-- Table 6.9. -/
structure RescaleOps where
  inList : Nat
  outList : Nat
  paramAddr : Nat
  limbStride : Nat
  ctCount : Nat
  drop : Nat
  flags : BitVec 8
deriving DecidableEq, Repr

/-- Table 6.10. -/
structure PartialOps where
  ctRef : Nat
  outRef : Nat
  paramAddr : Nat
  roundId : Nat
  lambdaAddr : Nat
  limbStride : Nat
deriving DecidableEq, Repr

/-- Table 6.11 without its kind, which the command names. -/
structure KemOps where
  roundId : Nat
  seqFirst : Nat
  seqCount : Nat
  resultAddr : Nat
deriving DecidableEq, Repr

/-- Table 6.13 (SEALED_OPEN and CLIP). -/
structure SealedOps where
  roundId : Nat
  seqFirst : Nat
  seqCount : Nat
  stageTile : Nat
  stageSlots : Nat
  resultAddr : Nat
deriving DecidableEq, Repr

/-- Table 14.6. -/
structure NoiseOps where
  srcTile : Nat
  dstTile : Nat
  tileCount : Nat
  param : Nat
  mech : Nat
  rounding : Nat
  flags : BitVec 8
deriving DecidableEq, Repr

/-- Table 14.7 without its kind, which the command names. -/
structure ReleaseOps where
  roundId : Nat
  flags : BitVec 8
  srcTile : Nat
  srcRef : Nat
  dst : Nat
  count : Nat
  stageTile : Nat
  paramAddr : Nat
deriving DecidableEq, Repr

/-- Table 11.8. -/
structure RmaOps where
  qpn : Nat
  len : Nat
  loc : Nat
  remote : Nat
  width : Nat
  flags : BitVec 8
  timeoutUs : Nat
deriving DecidableEq, Repr

/-- R334. -/
structure AttestOps where
  nonce : Bytes
  dst : Nat
deriving DecidableEq, Repr

/-- R331. -/
structure KeyImportOps where
  msgAddr : Nat
  msgLen : Nat
deriving DecidableEq, Repr

/-- R332. -/
structure KeyDestroyOps where
  kind : Nat
  linkKeyId : Nat
deriving DecidableEq, Repr

/-- Table 13.14. -/
structure ModelOps where
  src : Nat
  dst : Nat
  len : Nat
  segBytes : Nat
  elemFormat : Nat
  fracBits : Nat
  labelAddr : Nat
deriving DecidableEq, Repr

/-- What a descriptor asks for: its opcode, with the subop or kind the table splits it by, and its operands
(Table 8.9). `badSub` is a known opcode with an unknown subop or kind; `unknown` an opcode Table 8.9 lacks. -/
inductive DescBody where
  | nop
  | fence (o : FenceOps)
  | waitFt (o : WaitFtOps)
  | hint (o : HintOps)
  | copy (o : MoveOps)
  | fill (o : MoveOps)
  | windowOpen (o : WindowOpenOps)
  | windowClose (o : WindowCloseOps)
  | ingest (o : IngestOps)
  | accumulate (o : AccOps)
  | accDrain (o : DrainOps)
  | statsSumsq (o : StatsOps)
  | statsMoments (o : StatsOps)
  | statsFinish (o : StatsOps)
  | statsRsqrt (o : StatsOps)
  | rank (o : RankOps)
  | zipSend (o : ZipSendOps)
  | zipRecv (o : ZipRecvOps)
  | maskExpand (o : MaskOps)
  | shareRecon (o : ShareOps)
  | seedGraph (o : SeedOps)
  | seedDerive (o : SeedOps)
  | ntt (o : NttOps)
  | intt (o : NttOps)
  | pmulMul (o : PmulOps)
  | pmulMac (o : PmulOps)
  | pmulSmul (o : PmulOps)
  | pmulFxmul (o : PmulOps)
  | baseconv (o : BaseOps)
  | ctAddFold (o : CtAddOps)
  | ctAddAdd (o : CtAddOps)
  | ctAddSub (o : CtAddOps)
  | keyswitch (o : KsOps)
  | rotate (o : KsOps)
  | rescale (o : RescaleOps)
  | modswitch (o : RescaleOps)
  | partialDec (o : PartialOps)
  | kemSealed (o : KemOps)
  | kemBundle (o : KemOps)
  | sealedOpen (o : SealedOps)
  | clip (o : SealedOps)
  | dpNoise (o : NoiseOps)
  | releaseAggregate (o : ReleaseOps)
  | releaseShare (o : ReleaseOps)
  | rmaWrite (o : RmaOps)
  | rmaRead (o : RmaOps)
  | rmaAdd (o : RmaOps)
  | attest (o : AttestOps)
  | keyImport (o : KeyImportOps)
  | keyDestroy (o : KeyDestroyOps)
  | modelUnseal (o : ModelOps)
  | modelSeal (o : ModelOps)
  | badSub (opcode : Nat)
  | unknown (opcode : Nat)
deriving DecidableEq, Repr

/-- A Shawl packet as it stands on the link: the header of Table 10.5, `body` its 16 body bytes, the payload
(encrypted when `enc`) and the tag (R259). -/
structure Packet where
  ptype : Nat
  vc : Nat
  gen : Nat
  dst : Nat
  src : Nat
  first : Bool
  last : Bool
  enc : Bool
  body : Bytes
  keyId : Nat
  ctr : Nat
  payload : Bytes
  tag : Bytes
deriving DecidableEq, Repr

/-- A packet at the head of an ingress queue of this module: the port it came in by (6 stands for the module's
own router, R280), the nanoseconds since the previous arrival and the fraction its stamp unit measured (R238). -/
structure Arrival where
  port : Fin 7
  dt : Nat
  frac : Nat
  pkt : Packet
deriving DecidableEq, Repr

/-- A TIME message (R232, Table 10.6): the sender's rank and quality, whether it follows this module, the sender's two stamps that its
payload carries, lettered as R232 does with this module as B (t1 the departure of its message before, t4 the arrival of this module's),
and the stamp of this message's own arrival. -/
structure TimeMsg where
  hops : Nat
  quality : Nat
  moduleId : Nat
  follows : Bool
  t1 : Instant
  t4 : Instant
  arrival : Instant
deriving DecidableEq, Repr

/-- Which kind of window (R37). -/
inductive WinKind where
  | submit
  | recover
deriving DecidableEq, Repr

/-- Where an uncorrectable or class-4 fault struck (Table 7.6, Table 16.1, Table 18.10): in a granule, the burst of 64 bytes. -/
inductive FaultSite where
  | pocketUnit (sleeve : Fin 16) (unit : Fin 24576)
  | granule (g : Fin 256) (burst : Fin 33554432)
  | poisonedLine (p : Fin 16)
  | cipherContext (sleeve : Fin 16)
  | privateWire (sleeve : Fin 16)
deriving DecidableEq, Repr

/-- A pass that ends on an engine: the Cuff words it met with a correctable error (R129), and whether its check residue mismatched
(R145). -/
structure PassEnd where
  engine : Fin 128
  corrected : Nat := 0
  mismatch : Bool := false
deriving DecidableEq, Repr

/-- What the sensors read: the junction sensors in 1/8 °C (R364) and the LPDDR5X devices' own readouts in °C (R193, Table 7.3). -/
structure SensorReadings where
  junctions : List Nat
  devices : List Nat
deriving DecidableEq, Repr

/-- What a patrol-scrub read found (R202, R203); `link n` is a burst that met n link-ECC errors, each corrected or re-issued. -/
inductive ScrubResult where
  | clean
  | corrected
  | uncorrectable
  | link (n : Nat)
deriving DecidableEq, Repr

/-- The line or burst a patrol scrub reads (R202). -/
inductive ScrubTarget where
  | lining (sleeve : Fin 16) (line : Fin 98304)
  | dram (device : Fin 16) (burst : Fin 536870912)
deriving DecidableEq, Repr

/-- One credit entry of an ACK (Table 10.2). -/
structure CreditEntry where
  vc : Fin 8
  queue : Nat
  cells : Nat
deriving DecidableEq, Repr

/-- The commands, one constructor per row of spec/opcode_table.json, in the table's order. -/
inductive Instr where
  | nop (h : DescHdr)
  | fence (h : DescHdr) (o : FenceOps)
  | waitFt (h : DescHdr) (o : WaitFtOps)
  | waitFtExpiry (p : Fin 16) (ring : Fin 8)
  | hint (h : DescHdr) (o : HintOps)
  | hintRampStart (p : Fin 16)
  | hintHoldEnd (p : Fin 16)
  | copy (h : DescHdr) (o : MoveOps)
  | fill (h : DescHdr) (o : MoveOps)
  | windowOpen (h : DescHdr) (o : WindowOpenOps)
  | recoverOpenResume (p : Fin 16)
  | windowOpenInstant (p : Fin 16) (k : WinKind)
  | windowCloseInstant (p : Fin 16) (k : WinKind)
  | windowClosed (p : Fin 16) (k : WinKind)
  | windowClose (h : DescHdr) (o : WindowCloseOps)
  | ingest (h : DescHdr) (o : IngestOps)
  | ingestSlotResume (p : Fin 16)
  | acceptNumberAssign (p : Fin 16)
  | accumulate (h : DescHdr) (o : AccOps)
  | tilePassEnd (pass : PassEnd)
  | tileCommit (engine : Fin 128)
  | accDrain (h : DescHdr) (o : DrainOps)
  | statsSumsq (h : DescHdr) (o : StatsOps)
  | statsMoments (h : DescHdr) (o : StatsOps)
  | statsFinish (h : DescHdr) (o : StatsOps)
  | statsRsqrt (h : DescHdr) (o : StatsOps)
  | rank (h : DescHdr) (o : RankOps)
  | zipSend (h : DescHdr) (o : ZipSendOps)
  | zipRecv (h : DescHdr) (o : ZipRecvOps)
  | zipTileReceive (a : Arrival)
  | zipCreditReceive (a : Arrival)
  | zipReplyReceive (a : Arrival)
  | zipperDeadlineExpiry (p : Fin 16)
  | maskExpand (h : DescHdr) (o : MaskOps)
  | shareRecon (h : DescHdr) (o : ShareOps)
  | seedDeriveGraph (h : DescHdr) (o : SeedOps)
  | seedDeriveDerive (h : DescHdr) (o : SeedOps)
  | ntt (h : DescHdr) (o : NttOps)
  | intt (h : DescHdr) (o : NttOps)
  | pmulMul (h : DescHdr) (o : PmulOps)
  | pmulMac (h : DescHdr) (o : PmulOps)
  | pmulSmul (h : DescHdr) (o : PmulOps)
  | pmulFxmul (h : DescHdr) (o : PmulOps)
  | baseconv (h : DescHdr) (o : BaseOps)
  | ctAddFold (h : DescHdr) (o : CtAddOps)
  | ctAddAdd (h : DescHdr) (o : CtAddOps)
  | ctAddSub (h : DescHdr) (o : CtAddOps)
  | keyswitch (h : DescHdr) (o : KsOps)
  | rotate (h : DescHdr) (o : KsOps)
  | rescale (h : DescHdr) (o : RescaleOps)
  | modswitch (h : DescHdr) (o : RescaleOps)
  | partialDec (h : DescHdr) (o : PartialOps)
  | kemDecapSealed (h : DescHdr) (o : KemOps)
  | kemDecapBundle (h : DescHdr) (o : KemOps)
  | sealedOpen (h : DescHdr) (o : SealedOps)
  | clip (h : DescHdr) (o : SealedOps)
  | dpNoise (h : DescHdr) (o : NoiseOps)
  | releaseAggregate (h : DescHdr) (o : ReleaseOps)
  | releaseShare (h : DescHdr) (o : ReleaseOps)
  | releaseOutputPhase (p : Fin 16)
  | rmaWrite (h : DescHdr) (o : RmaOps)
  | rmaRead (h : DescHdr) (o : RmaOps)
  | rmaAdd (h : DescHdr) (o : RmaOps)
  | attest (h : DescHdr) (o : AttestOps)
  | keyImport (h : DescHdr) (o : KeyImportOps)
  | keyDestroy (h : DescHdr) (o : KeyDestroyOps)
  | modelUnseal (h : DescHdr) (o : ModelOps)
  | modelSeal (h : DescHdr) (o : ModelOps)
  | doorbellInvalidation (p : Fin 16) (ring : Fin 8) (dt : Nat) (frac : Nat)
  | doorbellReadReturn (p : Fin 16) (ring : Fin 8) (tail : Nat) (descs : List Bytes)
  | descriptorBurstFetch (p : Fin 16) (ring : Fin 8) (descs : List Bytes)
  | dispatchSlot (p : Fin 16) (dt : Nat) (frac : Nat)
  | descriptorCompletion (p : Fin 16)
  | cqModTimerExpiry (p : Fin 16) (cq : Fin 8)
  | creditLineInvalidation (p : Fin 16) (cq : Fin 8) (consumed : Nat)
  | submitReceive (a : Arrival)
  | submitReplyReceive (a : Arrival)
  | submissionGapTimeout (p : Fin 16)
  | fecBlockReceive (port : Fin 6) (number : Nat) (block : Bytes) (lossLane : Option (Fin 32)) (frac : Nat)
  | linkAckReceive (port : Fin 6) (block : Nat) (entries : List CreditEntry)
  | linkNakReceive (port : Fin 6) (block : Nat)
  | linkRemapReceive (port : Fin 6) (lane : Fin 32) (spare : Fin 2) (echo : Bool) (block : Nat)
  | linkAckTimerExpiry (port : Fin 6)
  | portTrainingComplete (port : Fin 6) (partnerType : Nat) (partnerId : Nat) (partnerPort : Nat)
  | portTrainingAttemptFail (port : Fin 6)
  | portRetrainEnd (port : Fin 6) (lanes : Option Nat)
  | cableChange (port : Fin 6) (connected : Bool)
  | egressSlot (port : Fin 6)
  | timeExchangeTimer (port : Fin 6) (frac : Nat)
  | timeReceive (port : Fin 6) (m : TimeMsg)
  | ftPpsEdge (dt : Nat) (frac : Nat)
  | ftTodNextWrite (value : Word)
  | ftCtrlSrcWrite (value : Word)
  | ftSnapGo (frac : Nat)
  | ppsLossTimeout
  | shawlTimeLossTimeout
  | holdoverErrorLimit
  | jobTearReceive (a : Arrival)
  | tearEntryExpiry (keyId : Nat) (src : Nat) (tearId : Nat)
  | rmaWritePacket (a : Arrival)
  | rmaReadReqPacket (a : Arrival)
  | rmaReadRespPacket (a : Arrival)
  | rmaAddPacket (a : Arrival)
  | rmaReplyPacket (a : Arrival)
  | contextFetchComplete (p : Fin 16) (qpn : Nat) (record : Bytes)
  | contextFetchTimeout (p : Fin 16) (qpn : Nat)
  | rmaResponseTimeout (p : Fin 16) (qpn : Nat)
  | rmaTargetGapTimeout (p : Fin 16) (qpn : Nat)
  | qpCreate (p : Fin 16) (qpn : Nat)
  | qpReinitialise (p : Fin 16) (qpn : Nat)
  | qpDestroy (p : Fin 16) (qpn : Nat)
  | pdBind (p : Fin 16) (pd : Fin 16) (value : Word)
  | spaceEnable (p : Fin 16) (k : Fin 4) (value : Word)
  | spaceRevoke (p : Fin 16) (k : Fin 4)
  | spaceRevokeDone (p : Fin 16) (k : Fin 4)
  | spaceRelease (p : Fin 16) (k : Fin 4)
  | ptnCreate (p : Fin 16) (policy : Option Bytes)
  | ptnScrub (p : Fin 16)
  | ptnDestroy (p : Fin 16)
  | ptnReset (p : Fin 16)
  | ptnResetComplete (p : Fin 16)
  | partitionFault (site : FaultSite)
  | engineSlotFailure (sleeve : Fin 16) (slot : Fin 9)
  | keystreamUnitFailure (sleeve : Fin 16) (unit : Fin 8)
  | lapelParityError (lapel : Fin 4)
  | liningRowThreshold (sleeve : Fin 16) (row : Nat)
  | bondLaneFailure (sleeve : Fin 16) (lane : Nat)
  | seamLaneFailure (dir : Fin 2) (lane : Nat)
  | cclLaneFailure (lane : Nat)
  | cclRetrain (success : Bool)
  | deviceFailed (d : Fin 16)
  | patrolScrub (t : ScrubTarget) (r : ScrubResult)
  | clearFill (d : Fin 16) (block : Fin 524288)
  | computeReset
  | computeResetComplete (failedSlots : List Nat) (imagesMatch : Bool)
  | moduleFaultEntry (code : Nat)
  | moduleResetCommand
  | thermalTrip
  | tripCooldown
  | powerUp
  | resetNPulse (lowNs : Nat)
  | moduleReset
  | powerDown
  | railFault (rail : Fin 7)
  | collarSlotStart (slot : Fin 17) (signatureOk : Bool)
  | collarSlotEnd
  | colBootGo (image : Bytes) (signatureOk : Bool) (followerOk : Bool)
  | colUpdGo (message : Bytes)
  | colAttGo (nonce : Bytes)
  | lcArm (op : Nat)
  | lcArmTimeout
  | lcProvision (checkOk : Bool)
  | lcRetire
  | keyExpiry (p : Fin 16) (kind : Nat) (linkKeyId : Nat)
  | meterMinuteEnd
  | meterMsSample
  | entropyBlock (source : Fin 16) (raw : Bytes)
  | healthTestFail (source : Fin 16) (test : Fin 3)
  | sourceRetryTimer (source : Fin 16)
  | sourceWarmupDone (source : Fin 16)
  | poolBlock
  | drbgReseed
  | entropyStallTimeout (p : Fin 16)
  | entDataRead
  | entTpEnable (value : Word)
  | powerInterval (rails : List (Option Nat))
  | thermalSensorRead (readings : SensorReadings)
  | pwrOpWrite (value : Word)
  | freqStepCommit
  | railSettled
  | slotFreqSwitch (slot : Fin 144)
  | droopDetect (detector : Fin 32)
  | droopClear
  | ageingRead (slot : Fin 144) (reading : Nat)
  | eolPrediction (engines : Nat) (lanes : Nat) (em : Nat)
  | bstStart (kind : Nat) (index : Nat) (bootTime : Bool)
  | bstComplete (failedUnits : List Nat)
  | glbLockWrite (value : Word)
  | ringLockWrite (p : Fin 16) (value : Word)
  | ringEnableWrite (p : Fin 16) (completionRing : Bool) (ring : Fin 8) (value : Word)
  | shwPortEnable (port : Fin 6)
  | shwPortRetrain (port : Fin 6)
  | shwRtSwap
  | shwDimWrite (value : Word)
  | shwQueueFlush (die : Fin 2) (queue : Fin 408)
  | dbgCntWrite (index : Fin 16) (value : Word)
  | sidebandFrame
  | registerWrite (offset : Nat) (size : Nat) (value : Word)
  | cclWindowAccess (addr : Nat) (data : Option Bytes) (uncorrectable : Bool)
  | blockLockLost (port : Fin 6)
deriving DecidableEq, Repr

end Sys2Proof
end

