-- ==== Sys2Proof/Decode.lean ====
section
/-! DEFINITION. Words of the command table. -/

namespace Sys2Proof

/-- The command that a word of the command table spells. The table gives no row bits: every command reaches the
block as an access to a register, a packet, a line invalidation or an event, not as a word. So no word spells one. -/
def decodeTableWord (_nbits _w : Nat) : Option Instr :=
  none

end Sys2Proof
end

