-- ==== Sys2Proof/Machine/Bytes.lean ====
section
/-! DEFINITION. Byte strings: little-endian fields, cutting and joining (R7: every field of the module is
little-endian with the low byte at the lower address). -/

namespace Sys2Proof.Machine

/-- The number that bytes spell, low byte first (R7). -/
def leNat : Bytes → Nat
  | [] => 0
  | b :: t => b.toNat + 256 * leNat t

/-- The `n` low bytes of a number, low byte first. -/
def natLe : Nat → Nat → Bytes
  | 0, _ => []
  | n + 1, v => BitVec.ofNat 8 v :: natLe n (v / 256)

/-- The number that bytes spell, high byte first. -/
def beNat (b : Bytes) : Nat :=
  leNat b.reverse

/-- The `n` low bytes of a number, high byte first. -/
def natBe (n v : Nat) : Bytes :=
  (natLe n v).reverse

/-- `n` zero bytes. -/
def zeros (n : Nat) : Bytes :=
  List.replicate n 0#8

/-- The bytes cut or filled with zeros to exactly `n`. -/
def fit (n : Nat) (b : Bytes) : Bytes :=
  b.take n ++ zeros (n - b.length)

/-- `n` bytes from offset `off`, as far as there are bytes. -/
def slice (b : Bytes) (off n : Nat) : Bytes :=
  (b.drop off).take n

/-- The little-endian field of `n` bytes at offset `off`. -/
def field (b : Bytes) (off n : Nat) : Nat :=
  leNat (slice b off n)

/-- Bytes with `v` stored over them at offset `off`. -/
def patch (b : Bytes) (off : Nat) (v : Bytes) : Bytes :=
  b.take off ++ v ++ b.drop (off + v.length)

/-- The bytes in `count` pieces of `n`. -/
def pieces (n : Nat) : Nat → Bytes → List Bytes
  | 0, _ => []
  | c + 1, b => b.take n :: pieces n c (b.drop n)

/-- The bytes in pieces of `n`, the last one perhaps short. -/
def chunksOf (n : Nat) (b : Bytes) : List Bytes :=
  pieces n ((b.length + n - 1) / n) b

/-- Byte by byte exclusive or, as long as the shorter. -/
def xorBytes (a b : Bytes) : Bytes :=
  List.zipWith (fun x y => x ^^^ y) a b

/-- The elements of `n` bytes each that a string holds, low byte first. -/
def elems (n : Nat) (b : Bytes) : List Nat :=
  (pieces n (b.length / n) b).map leNat

/-- Elements of `n` bytes each as a string. -/
def packElems (n : Nat) (vs : List Nat) : Bytes :=
  vs.flatMap (natLe n)

/-- Bits `lo` up to `lo + n - 1` of a number. -/
def bitsOf (v lo n : Nat) : Nat :=
  v / 2 ^ lo % 2 ^ n

/-- A number with bits `lo` up to `lo + n - 1` replaced by `x`. -/
def setBits (v lo n x : Nat) : Nat :=
  v - bitsOf v lo n * 2 ^ lo + x % 2 ^ n * 2 ^ lo

/-- The ASCII bytes of a string. -/
def ascii (t : String) : Bytes :=
  t.toList.map (fun c => BitVec.ofNat 8 c.toNat)

/-- A Bool as a bit. -/
def bit (b : Bool) : Nat :=
  if b then 1 else 0

end Sys2Proof.Machine
end

