-- ==== Sys2Proof/Machine/Gf256.lean ====
section
/-! DEFINITION. Arithmetic in GF(2^8) with a stated reduction polynomial. -/

namespace Sys2Proof.Machine

/-- Multiply a field element by x: `poly` is the low byte of the reduction polynomial. -/
def gfDouble (poly a : Byte) : Byte :=
  if a.getLsbD 7 then (a <<< 1) ^^^ poly else a <<< 1

/-- The product, one bit of the second factor after another. -/
def gfMulFrom (poly : Byte) : Nat → Byte → Byte → Byte
  | 0, _, _ => 0#8
  | n + 1, a, b => (if b.getLsbD 0 then a else 0#8) ^^^ gfMulFrom poly n (gfDouble poly a) (b >>> 1)

/-- The product of two field elements. -/
def gfMul (poly a b : Byte) : Byte :=
  gfMulFrom poly 8 a b

/-- A power of a field element. -/
def gfPow (poly a : Byte) : Nat → Byte
  | 0 => 1#8
  | n + 1 => gfMul poly a (gfPow poly a n)

/-- The inverse of a field element (zero for zero): its 254th power, by squares. -/
def gfInv (poly a : Byte) : Byte :=
  let a2 := gfMul poly a a
  let a4 := gfMul poly a2 a2
  let a8 := gfMul poly a4 a4
  let a16 := gfMul poly a8 a8
  let a32 := gfMul poly a16 a16
  let a64 := gfMul poly a32 a32
  let a128 := gfMul poly a64 a64
  gfMul poly a2 (gfMul poly a4 (gfMul poly a8 (gfMul poly a16 (gfMul poly a32 (gfMul poly a64 a128)))))

/-- The field of AES and of Shamir shares (R109): x^8 + x^4 + x^3 + x + 1. -/
def aesPoly : Byte := 0x1b#8

/-- The field of the Shawl's Reed-Solomon code (R256): x^8 + x^4 + x^3 + x^2 + 1. -/
def rsPoly : Byte := 0x1d#8

end Sys2Proof.Machine
end

