-- ==== Sys2Proof/Machine/Aes.lean ====
section
/-! DEFINITION. AES-256 with its counter mode, its Galois counter mode and the CTR_DRBG without a derivation function
(R112, R262, R324, R345: the spec names them; FIPS 197, SP 800-38A, SP 800-38D and SP 800-90A give them; log entry 6). -/

namespace Sys2Proof.Machine

/-- One entry of the S-box: the inverse and an affine map. -/
def sboxAt (b : Byte) : Byte :=
  let i := gfInv aesPoly b
  i ^^^ i.rotateLeft 1 ^^^ i.rotateLeft 2 ^^^ i.rotateLeft 3 ^^^ i.rotateLeft 4 ^^^ 0x63#8

/-- The S-box. -/
def sbox : List Byte :=
  (List.range 256).map (fun n => sboxAt (BitVec.ofNat 8 n))

/-- A byte through the S-box. -/
def subByte (b : Byte) : Byte :=
  sbox.getD b.toNat 0#8

/-- The next key word of the AES-256 schedule, from the last eight (newest first). -/
def nextKeyWord (i : Nat) (prev : List Bytes) : Bytes :=
  let t := prev.getD 0 []
  let u :=
    if i % 8 = 0 then
      let r := (t.drop 1 ++ t.take 1).map subByte
      xorBytes r [gfPow aesPoly 2#8 (i / 8 - 1), 0#8, 0#8, 0#8]
    else if i % 8 = 4 then t.map subByte
    else t
  xorBytes u (prev.getD 7 [])

/-- `n` further key words, newest first. -/
def keyWordsFrom : Nat → Nat → List Bytes → List Bytes
  | 0, _, ws => ws
  | n + 1, i, ws => keyWordsFrom n (i + 1) (nextKeyWord i ws :: ws)

/-- The fifteen round keys of an AES-256 key. -/
def aesSchedule (key : Bytes) : List Bytes :=
  pieces 16 15 (keyWordsFrom 52 8 (pieces 4 8 key).reverse).reverse.flatten

/-- Shift the rows of a state held column by column. -/
def shiftRows (st : Bytes) : Bytes :=
  (List.range 16).map (fun i => st.getD ((i + 4 * (i % 4)) % 16) 0#8)

/-- Mix one column. -/
def mixColumn (c : Bytes) : Bytes :=
  (List.range 4).map (fun i =>
    let a := c.getD i 0#8
    let b := c.getD ((i + 1) % 4) 0#8
    gfDouble aesPoly a ^^^ gfDouble aesPoly b ^^^ b ^^^ c.getD ((i + 2) % 4) 0#8 ^^^ c.getD ((i + 3) % 4) 0#8)

/-- Encrypt one block with a key schedule. -/
def aesBlockWith (sched : List Bytes) (block : Bytes) : Bytes :=
  let s0 := xorBytes block (sched.getD 0 [])
  let s13 := ((sched.drop 1).take 13).foldl
    (fun st k => xorBytes ((pieces 4 4 (shiftRows (st.map subByte))).flatMap mixColumn) k) s0
  xorBytes (shiftRows (s13.map subByte)) (sched.getD 14 [])

/-- Encrypt one block. -/
def aesBlock (key block : Bytes) : Bytes :=
  aesBlockWith (aesSchedule key) block

/-- Blocks `n`, `n + 1`, ... of a keystream: the encryption of a prefix and a big-endian 32-bit counter. -/
def ctr32Blocks (sched : List Bytes) (pre : Bytes) : Nat → Nat → Bytes
  | 0, _ => []
  | k + 1, n => aesBlockWith sched (pre ++ natBe 4 n) ++ ctr32Blocks sched pre k (n + 1)

/-- Blocks of a keystream whose whole block is a big-endian 128-bit counter. -/
def ctr128Blocks (sched : List Bytes) : Nat → Nat → Bytes
  | 0, _ => []
  | k + 1, n => aesBlockWith sched (natBe 16 n) ++ ctr128Blocks sched k (n + 1)

/-- Product in the field of GHASH, both factors as numbers whose high bit is the block's first bit. -/
def ghashMulFrom (x : Nat) : Nat → Nat → Nat → Nat
  | 0, _, z => z
  | k + 1, v, z =>
    let z' := if x.testBit k then Nat.xor z v else z
    let v' := if v % 2 = 1 then Nat.xor (v / 2) 0xe1000000000000000000000000000000 else v / 2
    ghashMulFrom x k v' z'

/-- GHASH of whole blocks. -/
def ghash (h : Nat) (blocks : List Bytes) : Nat :=
  blocks.foldl (fun y b => ghashMulFrom (Nat.xor y (beNat b)) 128 h 0) 0

/-- Bytes filled with zeros to whole blocks of 16. -/
def pad16 (b : Bytes) : Bytes :=
  fit ((b.length + 15) / 16 * 16) b

/-- Encrypt or decrypt with AES-256-GCM's keystream (96-bit nonce, counter from 2). -/
def gcmStream (key nonce text : Bytes) : Bytes :=
  xorBytes text (ctr32Blocks (aesSchedule key) nonce ((text.length + 15) / 16) 2)

/-- The 16-byte GCM tag over associated data and ciphertext. -/
def gcmTag (key nonce aad cipher : Bytes) : Bytes :=
  let sched := aesSchedule key
  let h := beNat (aesBlockWith sched (zeros 16))
  let g := ghash h (chunksOf 16 (pad16 aad ++ pad16 cipher ++ natBe 8 (8 * aad.length) ++ natBe 8 (8 * cipher.length)))
  xorBytes (natBe 16 g) (aesBlockWith sched (nonce ++ natBe 4 1))

/-- AES-256-GCM: ciphertext and tag. -/
def gcmSeal (key nonce aad plain : Bytes) : Bytes × Bytes :=
  let c := gcmStream key nonce plain
  (c, gcmTag key nonce aad c)

/-- AES-256-GCM: the plaintext where the tag agrees. -/
def gcmOpen (key nonce aad cipher tag : Bytes) : Option Bytes :=
  if gcmTag key nonce aad cipher = tag then some (gcmStream key nonce cipher) else none

/-- The update function of a CTR_DRBG: key and V from 48 bytes of provided data. -/
def drbgUpdate (data key v : Bytes) : Bytes × Bytes :=
  let t := xorBytes ((ctr128Blocks (aesSchedule key) 3 ((beNat v + 1) % 2 ^ 128))) (fit 48 data)
  (t.take 32, t.drop 32)

end Sys2Proof.Machine
end

