-- ==== Sys2Proof/Config.lean ====
section
/-! DEFINITION. What the spec leaves open or draws at random: free values, constants without a body. `freeByte c i`
is byte i of the c-th free value; the state's counter `freeCtr` makes every draw a fresh one (log entry 4). -/

namespace Sys2Proof

/-- Byte `i` of the free value number `c`: keys, instance ids and seeds drawn from the entropy pool (R301, R345),
hedged signatures (R314, R334) and values the spec does not state. -/
opaque Config.freeByte (c i : Nat) : Byte

/-- The noise value of index `i` in draw `c`, a signed integer in 1/256 steps before its bound is applied (R350). -/
opaque Config.freeNoise (c i : Nat) : Int

/-- The ML-DSA-44 public key of a seed (R317, R323): the spec names the algorithm, and the model computes none. -/
opaque Config.dsaPublic (seed : Bytes) : Bytes

/-- The code a scratchpad sample gives a value of Table 3.1: field 0 a state, 1 a width, 2 a mode beyond Table 3.3, 3 a chain
role (R390). The spec states no codes. -/
opaque Config.metaCode (field value : Nat) : Byte

/-- What D1's counter reads beside D0's after `n` nanoseconds of the oscillator, before it is brought into its bound of 0.25 ns (R229).
The spec states the bound and no law. -/
opaque Config.followerError (n : Nat) : Byte

/-- The row of a Lining that a line of 2,048 bytes lies in (R203). The spec counts errors per row and states no geometry. -/
opaque Config.liningRow (line : Nat) : Nat

end Sys2Proof
end

