-- ==== Sys2Proof/Machine/Keccak.lean ====
section
/-! DEFINITION. SHA3-256, SHA3-512, SHAKE128 and SHAKE256 (R35, R107, R109, R324: the spec names the functions and FIPS 202
gives them; log entry 6). -/

namespace Sys2Proof.Machine

/-- The 24 round constants of Keccak-f[1600]. -/
def keccakRounds : List Word :=
  [0x0000000000000001#64, 0x0000000000008082#64, 0x800000000000808a#64, 0x8000000080008000#64,
   0x000000000000808b#64, 0x0000000080000001#64, 0x8000000080008081#64, 0x8000000000008009#64,
   0x000000000000008a#64, 0x0000000000000088#64, 0x0000000080008009#64, 0x000000008000000a#64,
   0x000000008000808b#64, 0x800000000000008b#64, 0x8000000000008089#64, 0x8000000000008003#64,
   0x8000000000008002#64, 0x8000000000000080#64, 0x000000000000800a#64, 0x800000008000000a#64,
   0x8000000080008081#64, 0x8000000000008080#64, 0x0000000080000001#64, 0x8000000080008008#64]

/-- The rotation of lane (x, y), at x + 5y. -/
def keccakOffsets : List Nat :=
  [0, 1, 62, 28, 27, 36, 44, 6, 55, 20, 3, 10, 43, 25, 39, 41, 45, 15, 21, 8, 18, 2, 61, 56, 14]

/-- Lane `i` of a Keccak state. -/
def lane (a : List Word) (i : Nat) : Word :=
  a.getD i 0#64

/-- One round: theta, rho and pi, chi, iota. -/
def keccakRound (a : List Word) (rc : Word) : List Word :=
  let c := (List.range 5).map (fun x => lane a x ^^^ lane a (x + 5) ^^^ lane a (x + 10) ^^^ lane a (x + 15) ^^^ lane a (x + 20))
  let d := (List.range 5).map (fun x => lane c ((x + 4) % 5) ^^^ (lane c ((x + 1) % 5)).rotateLeft 1)
  let t := (List.range 25).map (fun i => (lane a i ^^^ lane d (i % 5)).rotateLeft (keccakOffsets.getD i 0))
  let b := (List.range 25).map (fun i => lane t ((i % 5 + 3 * (i / 5)) % 5 + 5 * (i % 5)))
  let e := (List.range 25).map (fun i =>
    lane b i ^^^ (~~~ lane b (i / 5 * 5 + (i % 5 + 1) % 5) &&& lane b (i / 5 * 5 + (i % 5 + 2) % 5)))
  (lane e 0 ^^^ rc) :: e.drop 1

/-- The Keccak-f[1600] permutation. -/
def keccakF (a : List Word) : List Word :=
  keccakRounds.foldl keccakRound a

/-- Fold one rate-sized block into a state and permute. -/
def keccakAbsorb (a : List Word) (block : Bytes) : List Word :=
  let w := (elems 8 (fit 200 block)).map (BitVec.ofNat 64)
  keccakF (List.zipWith (fun x y => x ^^^ y) a w)

/-- The message padded with the suffix byte to whole blocks of `rate` bytes. -/
def keccakPad (rate suffix : Nat) (m : Bytes) : Bytes :=
  let n := (m.length / rate + 1) * rate
  let p := fit n (m ++ [BitVec.ofNat 8 suffix])
  p.take (n - 1) ++ [p.getD (n - 1) 0#8 ||| 0x80#8]

/-- The state after a whole message. -/
def keccakState (rate suffix : Nat) (m : Bytes) : List Word :=
  (chunksOf rate (keccakPad rate suffix m)).foldl keccakAbsorb (List.replicate 25 0#64)

/-- The bytes of a state. -/
def keccakBytes (a : List Word) : Bytes :=
  packElems 8 (a.map BitVec.toNat)

/-- `n` blocks of output from a state. -/
def keccakSqueeze (rate : Nat) : Nat → List Word → Bytes
  | 0, _ => []
  | n + 1, a => (keccakBytes a).take rate ++ keccakSqueeze rate n (keccakF a)

/-- A sponge with `len` bytes of output. -/
def sponge (rate suffix : Nat) (m : Bytes) (len : Nat) : Bytes :=
  (keccakSqueeze rate ((len + rate - 1) / rate) (keccakState rate suffix m)).take len

/-- SHA3-256. -/
def sha3 (m : Bytes) : Bytes := sponge 136 0x06 m 32

/-- SHA3-512. -/
def sha3Wide (m : Bytes) : Bytes := sponge 72 0x06 m 64

/-- `len` bytes of SHAKE128. -/
def shake128 (m : Bytes) (len : Nat) : Bytes := sponge 168 0x1f m len

/-- `len` bytes of SHAKE256. -/
def shake256 (m : Bytes) (len : Nat) : Bytes := sponge 136 0x1f m len

end Sys2Proof.Machine
end

