-- ==== Sys2Proof/Machine/Memory.lean ====
section
/-! DEFINITION. Byte-addressed memory: a list of (address, byte) cells with strictly rising addresses and no cell
that holds zero. An unlisted address reads as zero: module reset writes every Pocket to zero and sets every clear
bit, and a read of a clear block returns zeros (R200, R201). -/

namespace Sys2Proof.Machine

/-- Memory contents: the cells that differ from zero. -/
abbrev Memory := List Host.Cell

/-- What an unlisted address reads as (R200, R201). -/
def memDefault : Byte := 0#8

/-- The byte at an address. -/
def memRead : Memory → Nat → Byte
  | [], _ => memDefault
  | (j, b) :: t, a => if j = a then b else memRead t a

/-- The cells at or above `a`. -/
def memFrom (m : Memory) (a : Nat) : Memory :=
  m.dropWhile (fun c => c.1 < a)

/-- `n` bytes from `a` on, from cells that all lie at or above `a`. -/
def memTake : Nat → Memory → Nat → Bytes
  | 0, _, _ => []
  | n + 1, [], a => memDefault :: memTake n [] (a + 1)
  | n + 1, (j, b) :: t, a =>
    if j = a then b :: memTake n t (a + 1) else memDefault :: memTake n ((j, b) :: t) (a + 1)

/-- `n` bytes from `a` on. -/
def memReadRange (m : Memory) (a n : Nat) : Bytes :=
  memTake n (memFrom m a) a

/-- The cells that bytes stored at `a` make: one for each byte other than zero. -/
def memCells : Nat → Bytes → Memory
  | _, [] => []
  | a, b :: bs => if b = memDefault then memCells (a + 1) bs else (a, b) :: memCells (a + 1) bs

/-- Store bytes from `a` on: one change of the cells below, at and above them. -/
def memWriteRange (m : Memory) (a : Nat) (bs : Bytes) : Memory :=
  m.takeWhile (fun c => c.1 < a) ++ memCells a bs ++ m.dropWhile (fun c => c.1 < a + bs.length)

/-- Store one byte. -/
def memWrite (m : Memory) (a : Nat) (b : Byte) : Memory :=
  memWriteRange m a [b]

/-- Set `n` bytes from `a` on to zero. -/
def memZero (m : Memory) (a n : Nat) : Memory :=
  m.filter (fun c => c.1 < a || a + n ≤ c.1)

/-- Keys rise strictly from `lo` on and no cell holds the default. -/
def memWfFrom : Nat → Memory → Bool
  | _, [] => true
  | lo, (j, b) :: t => decide (lo ≤ j) && (b != memDefault) && memWfFrom (j + 1) t

/-- The canonical form of memory contents. -/
def Memory.wf (m : Memory) : Bool :=
  memWfFrom 0 m

end Sys2Proof.Machine
end

