-- ==== Sys2Proof/Machine/State.lean ====
section
/-! DEFINITION. The state of the BA-16 as plain data: registers, memories, tile metadata, rings, descriptors in
flight, windows, rounds, keys, the Shawl, time, entropy, power and faults, the queue of waiting commands and what
has left the module. Each structure's docstring names the rules that give it; notes/assumptions says what a value
at reset rests on where the spec gives none. -/

namespace Sys2Proof.Machine

/-- The time states of Table 9.2. -/
inductive TimeMode where
  | unset
  | acquiring
  | locked
  | holdover
  | freerun
deriving DecidableEq, Repr

/-- The states of a partition, Table 12.5. -/
inductive PtnState where
  | free
  | creating
  | live
  | resetting
  | scrubbing
  | faulted
  | dead
  | destroying
deriving DecidableEq, Repr

/-- The module states of Table 16.7. -/
inductive ModuleMode where
  | boot
  | run
  | computeReset
  | tripped
  | moduleFault
  | transitOnly
deriving DecidableEq, Repr

/-- The life-cycle states of Table 13.1. -/
inductive LifeCycle where
  | blank
  | provisioned
  | field
  | retired
deriving DecidableEq, Repr

/-- A tile's state (Table 3.1). -/
inductive TileState where
  | free
  | plain
  | round
deriving DecidableEq, Repr

/-- A tile's mode (Table 3.1, Table 3.3). -/
inductive TileMode where
  | mod2k
  | modq
  | sats
  | f64
deriving DecidableEq, Repr

/-- A tile's role in a Zipper chain (Table 3.1). -/
inductive ChainRole where
  | none
  | partialSum
  | total
deriving DecidableEq, Repr

/-- Tile metadata (Table 3.1) with the release record of R178. Each unit of a wide tile carries its tile's. -/
structure TileMeta where
  state : TileState := .free
  width : Nat := 16
  mode : TileMode := .mod2k
  modulus : Nat := 0
  roundId : Nat := 0
  seqNext : Nat := 0
  passTag : Nat := 0
  count : Nat := 0
  saturated : Bool := false
  mark : Bool := false
  model : Bool := false
  chain : ChainRole := .none
  chainDigest : Bytes := []
  release : Option Nat := none
deriving DecidableEq, Repr

/-- A run of DRAM bytes that carries a mark (R53, R66). -/
structure MarkedArea where
  lo : Nat
  len : Nat
  mark : Bool
  model : Bool
deriving DecidableEq, Repr

/-- A resident range of an engine's Cuff (R130): a partition's units and their count, most recent first in its list. -/
structure Resident where
  p : Nat
  first : Nat
  units : Nat
deriving DecidableEq, Repr

/-- What the constant region of an engine's Cuff holds (R134, R144): the twiddle set of (q, psi) for its lane mode, or the basis set
of two lists of moduli. -/
inductive ConstSet where
  | twiddle (laneMode q psi : Nat)
  | basis (ins outs : List Nat)
deriving DecidableEq, Repr

/-- One physical engine slot (R18, R19, R147 to R149, R368, Table 15.7). `op` is the operating point it runs under, `overCount`
the consecutive readings that called for a lower ceiling; `resident` and `consts` are what its Cuff keeps, most recent first
(R128, R130, R134). A slot fused off at test is never in the map (R149). -/
structure Slot where
  c0 : Nat := 300
  ceiling : Nat := 300
  pendingCeiling : Option Nat := none
  op : Nat := 300
  pendingOp : Option Nat := none
  retired : Bool := false
  logical : Option Nat := none
  r0 : Nat := 1000000
  overCount : Nat := 0
  corrected : Nat := 0
  resident : List Resident := []
  consts : List ConstSet := []
  fusedOff : Bool := false
deriving DecidableEq, Repr

/-- One Sleeve's own state beside its slots (R18, R114, R150, R186, R203, R359, R395, Table 18.8); `rowEvents` counts the correctable
errors of each Lining row (Table 7.6). -/
structure Sleeve where
  usable : Bool := true
  fusedSpare : Nat := 8
  lapelRetired : Bool := false
  ksRetired : BitVec 8 := 0#8
  ksFailures : Nat := 0
  corrected : Nat := 0
  rowEvents : Tab Nat := []
  scrubPasses : Nat := 0
  rowsPending : Nat := 0
  rowsSpared : Nat := 0
  bondFailed : Nat := 0
  bondSpares : Nat := 2
  unusableNext : Bool := false
  keysLoaded : Bool := true
deriving DecidableEq, Repr

/-- The states of an LPDDR5X device (Table 18.7). -/
inductive DevMode where
  | untrained
  | training
  | ready
  | failed
  | unusable
deriving DecidableEq, Repr

/-- One LPDDR5X device (R191 to R204, Table 18.7). `filled` lists the 64 KiB blocks whose clear bit is not set. -/
structure Device where
  mode : DevMode := .untrained
  linkEcc : Nat := 0
  corrected : Nat := 0
  temp : Nat := 0
  filled : List Nat := []
deriving DecidableEq, Repr

/-- The completion status codes of Table 8.14 as numbers. -/
abbrev Status := Nat

/-- What a descriptor completes with. -/
structure Done where
  status : Status
  result : Nat
  faultRef : Nat
  ft : Nat
deriving DecidableEq, Repr

/-- One pass an engine runs, from dispatch to commit (R78): the partition address and bytes it will write (a tile's
with its metadata, or a byte range with its marks), the engine and when its pass began, the other engines of its group
where its summands are split (R79), and what the commit changes beside: mask_next of R119, the coordinate tile that window
summands are consumed for (R196), a summand CLIP scaled. `more` are the other targets that commit with it (R145), `sources` the
source ranges it reads and `hold` the range it leaves in the Cuff (R130), `consts` the constant sets it uses (R134, R144); `item`
is the limb, tile, ciphertext or submission it works on, `last` says that no later pass of the item follows, `mismatched`
that its first run failed the check residue (R145). -/
structure TileJob where
  engine : Nat
  startFt : Nat
  addr : Nat
  bytes : Bytes
  tmeta : Option TileMeta
  mark : Bool
  model : Bool
  passDone : Bool
  replays : Nat
  maskNext : Option (Nat × Nat)
  coord : Option Nat
  summands : List Nat
  clipOf : Option Nat
  group : List Nat := []
  more : List (Nat × Bytes × TileMeta) := []
  sources : List (Nat × Nat) := []
  hold : Option (Nat × Nat) := none
  consts : List ConstSet := []
  item : Nat := 0
  last : Bool := true
  mismatched : Bool := false
deriving DecidableEq, Repr

/-- A Zipper stream's sender half (R92, R260); `gen` is the generation its credits carry, which its tiles answer with (R388). -/
structure ZipTx where
  digest : Bytes
  nextDst : Nat
  keyId : Nat
  width : Nat
  firstTile : Nat
  tiles : Nat
  sentBytes : Nat
  credits : Nat
  depth : Nat
  gen : Nat := 0
deriving DecidableEq, Repr

/-- A Zipper stream's receiver half (R93): `tiles` is the declaration's count, `tail` says that the member ends the chain. -/
structure ZipRx where
  digest : Bytes
  prevDst : Nat
  keyId : Nat
  width : Nat
  mode : TileMode
  modulus : Nat
  received : Nat
  buffer : Bytes
  combined : Nat
  mark : Bool
  model : Bool
  tiles : Nat
  tail : Bool
deriving DecidableEq, Repr

/-- A key in a partition's store (Table 13.9): kind as in Table 13.10. -/
structure StoredKey where
  kind : Nat
  keyId : Nat
  key : Bytes
  smudge : Nat
  expiry : Nat
  dying : Bool
deriving DecidableEq, Repr

/-- How far a dispatched descriptor has come: what it waits for; `chained` holds the pieces that a chained one
has still to take (R76), `noiseStall` holds the key of the release or share that waits for its noise. -/
inductive Phase where
  | running
  | fence (awaited : List Nat)
  | waitFt (target : Nat)
  | recoverWait
  | closeWait
  | numbers
  | ingest (items : List Nat)
  | collar (slotsDone : Nat)
  | zipSend (t : ZipTx)
  | zipRecv (r : ZipRx) (t : Option ZipTx)
  | rma (qpn : Nat) (acked : Nat)
  | noiseStall (key : Option StoredKey)
  | chained (left : List Nat)
  | output (header : Bytes) (key : Bytes)
  | keyWait
  | headers (ws : List (Nat × Bytes))
  | dying (kind : Nat)
deriving DecidableEq, Repr

/-- A descriptor dispatched and not completed (R223). `reserved` are the unit ranges R76 reserved for it, `admitted` the instant at
which the release gate admitted it (R56), `failed` the status with which a piece of a chained descriptor was refused (R76), `passed` the
submissions whose pass has ended and `dropped` the items that a lost engine kept from completing (R101, R181, R183), `key` the key of
its operator that the store held at dispatch (R331, R332). -/
structure InFlight where
  id : Nat
  h : DescHdr
  body : DescBody
  opcode : Nat
  dispatchFt : Instant
  phase : Phase
  reserved : List (Nat × Nat)
  jobs : List TileJob
  committed : Nat
  replays : Nat
  skipped : Nat
  saturated : Bool
  lost : Bool
  touched : List Nat
  stallFrom : Option Nat
  faultRef : Nat
  result : Nat
  verdicts : List Nat
  done : Option Done
  admitted : Nat := 0
  failed : Option Status := none
  passed : List Nat := []
  dropped : List Nat := []
  key : Option StoredKey := none
deriving DecidableEq, Repr

/-- A completion record (Table 8.13) before it is given its phase and fetch count; `flight` is the descriptor it completes. -/
structure Record where
  tag : Nat
  slot : Nat
  status : Status
  gen : Nat
  result : Nat
  ftDone : Nat
  opcode : Nat
  ring : Nat
  irq : Bool
  faultRef : Nat
  flight : Option Nat := none
deriving DecidableEq, Repr

/-- The states of a submission ring (Table 8.6). -/
inductive SqMode where
  | disabled
  | idle
  | fetch
  | stopped
deriving DecidableEq, Repr

/-- A descriptor in a ring's fetch buffer (R223): whether it has waited for a reservation, and the ranges it names then (R76). -/
structure Fetched where
  h : DescHdr
  body : DescBody
  waited : Bool
  names : List (Nat × Nat) := []
deriving DecidableEq, Repr

/-- A batch: the stamp its descriptors carry and the tail that ends it (R211). -/
structure Batch where
  stamp : Instant
  tail : Nat
deriving DecidableEq, Repr

/-- A submission ring beside its registers (R205 to R213); `burst` descriptors are being read in a further burst. -/
structure SqRing where
  mode : SqMode := .disabled
  fetched : Nat := 0
  lastTail : Nat := 0
  reads : List Instant := []
  batches : List Batch := []
  buffer : List Fetched := []
  lost : Nat := 0
  burst : Nat := 0
deriving DecidableEq, Repr

/-- A completion ring beside its registers (R223, R224, R226). -/
structure CqRing where
  count : Nat := 0
  consumed : Nat := 0
  held : List Record := []
  sinceIrq : Nat := 0
  timerFrom : Option Nat := none
deriving DecidableEq, Repr

/-- The verdicts of Table 2.3. -/
inductive Verdict where
  | accepted
  | malformed
  | wrongRound
  | notOpen
  | late
  | authFail
  | notSurvivor
  | wrongKind
  | duplicate
  | capacity
deriving DecidableEq, Repr

/-- How far CLIP has come with a summand (R184): the root r = sqrt(clip_sq ÷ Q) as binary64 mantissa and exponent,
or within the bound, and the coordinate tiles scaled. -/
structure ClipState where
  within : Bool
  rm : Nat
  re : Int
  scaled : List Nat
deriving DecidableEq, Repr

/-- A submission or bundle (R38 to R41, R196): its key (stamp, ingress rank, order), its bytes while they are not landed, and what
became of it; `provisional` says that its number was given with ACCEPTED, which a final verdict leaves (R41). One from the Shawl also
has its stream and entry (R261), the bytes received, the cells it holds in a queue of the pool, and the generation its packets carry. -/
structure Submission where
  clientId : Nat
  stamp : Instant
  rank : Nat
  order : Nat
  header : Bytes
  bytes : Bytes
  length : Nat
  complete : Bool
  srcAddr : Nat
  ingestId : Option Nat
  item : Nat
  stream : Nat
  entry : Nat
  lastPacket : Nat
  number : Option Nat
  verdict : Option Verdict
  landed : Bool
  slotFree : Bool
  consumed : List Nat
  sharedKey : Option Bytes
  decapsulated : Bool
  final : Bool
  stage : Option Nat
  clip : Option ClipState
  provisional : Bool := false
  received : Nat := 0
  cells : Nat := 0
  queue : Option Nat := none
  gen : Nat := 0
deriving DecidableEq, Repr

/-- The window states of Table 9.4. -/
inductive WinMode where
  | scheduled
  | opened
  | closing
  | closed
  | aborted
deriving DecidableEq, Repr

/-- A window record (R241 to R243). `subs` holds the numbered submissions in number order, `waiting` those that
have passed the checks up to LATE and wait for a number; `lost` says that a reset released areas that held them. -/
structure Window where
  kind : WinKind
  roundId : Nat
  mode : WinMode
  opens : Nat
  closes : Nat
  landingAddr : Nat
  slotCount : Nat
  slotSize : Nat
  paramAddr : Nat
  paramBlock : Bytes
  assigned : Nat
  subs : List Submission
  waiting : List Submission
  acceptedAtClose : Nat
  stageFirst : Option Nat
  stageSlots : Nat
  stageUnits : Nat
  lost : Bool := false
deriving DecidableEq, Repr

/-- A window's submissions may be read: it is not ABORTED (R79), and no reset has taken them (log entry 117). -/
def Window.readable (w : Window) : Bool := w.mode != .aborted && !w.lost

/-- The recovery states of a round (Table 4.8). -/
inductive RoundMode where
  | collecting
  | closed
  | recovering
  | recoverClosed
  | reconstructed
  | derived
  | unmasked
  | unrecoverable
deriving DecidableEq, Repr

/-- A bound neighbour table and its recovery area (R103 to R106). -/
structure Graph where
  degree : Nat
  graphId : Nat
  records : List (Nat × List Nat)
  recTile : Nat
  recUnits : Nat
deriving DecidableEq, Repr

/-- An accepted share entry (Table 2.7) with its responder. -/
structure ShareEntry where
  owner : Nat
  kind : Nat
  index : Nat
  share : Bytes
deriving DecidableEq, Repr

/-- One seed of the seed list (R111): its bytes and whether the mask is added. -/
structure Seed where
  bytes : Bytes
  plus : Bool
deriving DecidableEq, Repr

/-- A masked-regime round's recovery state (R121) and the contents of its recovery area (R106). -/
structure Round where
  roundId : Nat
  mode : RoundMode
  survivors : List Nat
  graph : Option Graph
  bundleOpened : Bool
  entries : List ShareEntry
  secrets : List ShareEntry
  seeds : List Seed
  selfCount : Nat
  edgeCount : Nat
  maskNext : Tab Nat
deriving DecidableEq, Repr

/-- A pin-table entry (R190). -/
structure PinEntry where
  first : Nat
  units : Nat
  header : Bytes
deriving DecidableEq, Repr

/-- A link-key entry of the module's pool (R273). -/
structure LinkKey where
  p : Nat
  keyId : Nat
  key : Bytes
  ctr : Nat
  torn : Bool
  expiry : Nat
  dying : Bool
deriving DecidableEq, Repr

/-- A packet a requester has sent and not had acknowledged (R293): its descriptor, the bytes of the message it carries
or asks for from `off` on, and the nanosecond it left the requester's egress, once it has (R294). -/
structure SentPacket where
  psn : Nat
  pkt : Packet
  desc : Nat
  off : Nat
  bytes : Nat
  left : Option Nat := none
deriving DecidableEq, Repr

/-- A packet that waits inside a target: the pool queue whose cells it holds, its stamp, and itself with its payload in
plain text (R286, R290); `addr` is the partition address an admitted one lands at. -/
structure HeldPacket where
  queue : Option Nat
  stamp : Instant
  pkt : Packet
  addr : Nat := 0
deriving DecidableEq, Repr

/-- A queue pair's context in the cache (Table 11.7) with the requester's progress, whether a SEQUENCE reply stands
(R293), and the stamp of the newest packet of the message it is receiving (R295). -/
structure Qp where
  qpn : Nat
  spaceId : Nat
  pd : Nat
  ready : Bool
  errStatus : Status
  peer : Nat
  peerQpn : Nat
  timeoutUs : Nat
  txPsn : Nat
  unaPsn : Nat
  rxPsn : Nat
  lastEndPsn : Nat
  lastStatus : Nat
  sent : List SentPacket
  seqSent : Bool
  msg : Option Instant
deriving DecidableEq, Repr

/-- A pending context fetch and the packets it holds (R286). -/
structure Miss where
  qpn : Nat
  stamp : Instant
  held : List HeldPacket
deriving DecidableEq, Repr

/-- The states of a space slot (Table 11.1). -/
inductive SpaceMode where
  | free
  | live
  | revoking
  | revoked
deriving DecidableEq, Repr

/-- A space slot beside its registers (R281, R296). -/
structure SpaceSlot where
  mode : SpaceMode := .free
  tR : Option Nat := none
deriving DecidableEq, Repr

/-- The usage counters of Table 12.9 since `ftStart`, whether that lies inside its minute (Table 12.8), and the count of
shared-resource events and the millisecond counts of R312 at it. -/
structure Usage where
  ftStart : Nat := 0
  startsInside : Bool := false
  sharedFrom : Nat := 0
  thermalFrom : Nat := 0
  droopFrom : Nat := 0
  engineNs : Nat := 0
  keystreamBytes : Nat := 0
  dramBytes : Nat := 0
  shawlTx : Nat := 0
  shawlRx : Nat := 0
  cclOut : Nat := 0
  cclIn : Nat := 0
  liningUnitMs : Nat := 0
deriving DecidableEq, Repr

/-- A HINT in force (R360). -/
structure HintRamp where
  units : Nat
  rampAt : Nat
  phaseAt : Nat
  endAt : Nat
  filler : Nat
  ramping : Bool
  holding : Bool
deriving DecidableEq, Repr

/-- A partition command that runs in the background of PTN_CMD or a fault (Table 12.5, Table 16.5). -/
inductive PtnOp where
  | create
  | scrub
  | destroy
  | reset
deriving DecidableEq, Repr

/-- One partition (R299 to R306): its state, the layout creation fixed, its policy, its rings, windows, rounds, keys, queue pairs and
records. `backed` holds the queue pairs whose context was written back to companion memory, `retry` the psn each queue pair's
RETRY_LATER named, `chains` the digests of the chains a ZIP_RECV has been admitted for (R95), `ringCache` the digests of the parameter
blocks whose derived constants are cached, most recent first (R152), `modelGen` and `modelSealed` the highest generation unsealed and
sealed (R64), `landings` the remote packets that wait for a reservation (R76, R286, R287). `background` holds partition-manager work:
`reset` when the Collar's part of a reset is done, `scrub` when a compute reset covers a scrub's reset, `destroy` when a destruction
waits for what runs (R303, R305). `resetCause` is 1 for a commanded reset and 2 for one that a fault started; `faultRef` is the log
entry that made it FAULTED or DEAD; `bad` lists the physical Pocket units that hold an uncorrectable error (R389). -/
structure Partition where
  mode : PtnState := .free
  gen : Nat := 0
  instanceId : Nat := 0
  sleeves : BitVec 16 := 0#16
  dram : List Nat := []
  host : List Nat := []
  pinBase : Nat := 0
  pinUnits : Nat := 0
  cclSlots : Nat := 0
  policy : Bytes := []
  sq : Tab SqRing := []
  cq : Tab CqRing := []
  lastRing : Nat := 7
  submit : Option Window := none
  recover : Option Window := none
  rounds : List Round := []
  released : List (Nat × Nat) := []
  epochs : Tab Nat := []
  shared : List Nat := []
  pins : List PinEntry := []
  keys : List StoredKey := []
  ek : Bytes := []
  dk : Bytes := []
  contextKey : Bytes := []
  evictCount : Nat := 1
  importSeq : Nat := 0
  authority : Option Bytes := none
  modelGen : Nat := 0
  modelSealed : Nat := 0
  dumpCtr : Nat := 1
  wiresLoaded : Bool := true
  qps : List Qp := []
  misses : List Miss := []
  backed : List Qp := []
  retry : List (Nat × Nat) := []
  landings : List HeldPacket := []
  spaces : Tab SpaceSlot := []
  zipCredits : List (Bytes × Nat × Nat × Nat) := []
  chains : List Bytes := []
  ringCache : List Bytes := []
  usage : Usage := {}
  hint : Option HintRamp := none
  background : List PtnOp := []
  resetCause : Nat := 0
  faultRef : Nat := 0
  bad : List Nat := []
deriving DecidableEq, Repr

/-- What a Collar slot runs (R311): a partition's command or module work. -/
inductive CollarJob where
  | descriptor (id : Nat)
  | create (p : Nat)
  | scrub (p : Nat)
  | destroy (p : Nat)
  | reset (p : Nat)
  | reload (p : Nat)
  | expire (p kind link : Nat)
  | update
  | attest
  | usage (p instance_ : Nat) (body : Bytes) (last : Bool)
deriving DecidableEq, Repr

/-- The OTP and fuse array (R317 to R319, Table 13.13); `d1Failed` holds D1 unusable after a failed self-test (Table 17.2). -/
structure Otp where
  lifeCycle : LifeCycle := .provisioned
  root : Bytes := List.replicate 32 0#8
  securityVersion : Nat := 0
  bootCount : Nat := 0
  updateCount : Nat := 0
  signerRevoked : BitVec 4 := 0#4
  testPattern : Bool := true
  testAccess : Bool := true
  portFailed : BitVec 6 := 0#6
  d1Failed : Bool := false
deriving DecidableEq, Repr

/-- The Collar (R311, R317 to R339). `waiting` lists commands with the slot they run in, `running` what the current slot
runs; `signatureOk` is the outcome of the signature check in it. `provisioning` is a confirmed provision that waits for the pool, with
the outcome its check will have (R318). -/
structure Collar where
  slot : Nat := 0
  running : List CollarJob := []
  waiting : List (Nat × CollarJob) := []
  bootStatus : Nat := 1
  d1Usable : Bool := true
  romDigest : Bytes := List.replicate 32 0#8
  setDigest : Bytes := List.replicate 32 0#8
  followerDigest : Bytes := List.replicate 32 0#8
  imageDigests : List Bytes := []
  label : Bytes := List.replicate 16 0#8
  bootNonce : Bytes := List.replicate 32 0#8
  kreg : Bytes := List.replicate 32 0#8
  romSigners : List Bytes := List.replicate 4 (List.replicate 32 0#8)
  aliasPk : Bytes := []
  aliasCert : Bytes := []
  updBusy : Bool := false
  updReason : Nat := 0
  updMessage : Bytes := []
  attGo : Bool := false
  attNonce : Bytes := []
  arm : Option (Nat × Nat) := none
  signatureOk : Bool := false
  provisioning : Option Bool := none
  selfTested : Bool := false
deriving DecidableEq, Repr

/-- The states of an entropy source (Table 14.2). -/
inductive SourceMode where
  | off
  | warmup
  | healthy
  | failed
  | retired
  | absent
deriving DecidableEq, Repr

/-- One entropy source (R340 to R343): `blocks` are conditioned blocks that wait for the combiner, `joins` the pool
block it contributes from. -/
structure Source where
  mode : SourceMode := .off
  failures : Nat := 0
  lastTest : BitVec 3 := 0#3
  blockCounter : Nat := 0
  warmBlocks : Nat := 0
  failedAt : Nat := 0
  blocks : List Bytes := []
  joins : Nat := 0
deriving DecidableEq, Repr

/-- One CTR_DRBG instance (R345): key, V and whether it runs. -/
structure Drbg where
  key : Bytes := List.replicate 32 0#8
  v : Bytes := List.replicate 16 0#8
  seeded : Bool := false
  running : Bool := false
deriving DecidableEq, Repr

/-- The pool states of Table 14.4. -/
inductive PoolMode where
  | off
  | startup
  | delivering
  | stalled
  | test
deriving DecidableEq, Repr

/-- The entropy system (R340 to R349). `ready` counts the words of ENT_DATA's buffer at `readyFrom`; another becomes ready every
10 ns while instance 17 runs. -/
structure Entropy where
  sources : Tab Source := []
  pool : PoolMode := .off
  poolIndex : Nat := 0
  poolBytes : Bytes := []
  nextInstance : Nat := 0
  drbgs : Tab Drbg := []
  ready : Nat := 0
  readyFrom : Nat := 0
deriving DecidableEq, Repr

/-- A port that a module may take time from, as its last TIME message showed it (R233): with the instant of its last valid
exchange, and the stamps of the last arrival and departure on its port with their quality and order, which its next message sends back
(R229, R232); `heard` and `sent` say that there has been one. -/
structure Neighbour where
  hops : Nat := 31
  moduleId : Nat := 0
  locked : Bool := false
  follows : Bool := false
  exchanges : Nat := 0
  usedAt : Nat := 0
  arrived : Instant := ⟨0, 0⟩
  arrivedQuality : Nat := 0
  arrivedOrder : Nat := 0
  heard : Bool := false
  departed : Instant := ⟨0, 0⟩
  departedQuality : Nat := 0
  sent : Bool := false
deriving DecidableEq, Repr

/-- Federation time (R228 to R236, Table 18.4). `ns` and `sub` are the counter, in ns and 1/256 ns; `frac` is the fraction measured
at the edge of the present instant (R229); `osc` counts nanoseconds of the OCXO since module reset; `slew` is the correction still to
be applied, in 1/256 ns, `learned` the frequency correction that HOLDOVER freezes, in 1/2,560,000 (R236). -/
structure FedTime where
  mode : TimeMode := .unset
  ns : Nat := 0
  sub : Nat := 0
  frac : Nat := 0
  osc : Nat := 0
  slew : Int := 0
  slewDebt : Nat := 0
  learned : Int := 0
  source : Nat := 3
  port : Nat := 7
  hops : Nat := 31
  rejected : Nat := 0
  bound : Option Nat := none
  lastEdge : Option Nat := none
  goodRun : Nat := 0
  lastUsable : Nat := 0
  neighbours : Tab Neighbour := []
  timeSeq : Tab Nat := []
  snapNs : Nat := 0
  snapFrac : Nat := 0
  snapQuality : Nat := 0
deriving DecidableEq, Repr

/-- The states of a Shawl port (Table 10.3, Table 18.5). -/
inductive PortMode where
  | disabled
  | training
  | up
  | degraded
  | upHalf
  | retrain
  | miscabled
  | failed
deriving DecidableEq, Repr

/-- A remap that takes effect at a block (R258). -/
structure Remap where
  lane : Nat
  spare : Nat
  block : Nat
deriving DecidableEq, Repr

/-- One Shawl port and its link (R248 to R258, R266, R270, Table 18.5). `replay` holds blocks sent and not acknowledged
with the nanosecond they were sent; `remaps`, `timeOut` (with the fraction of its departure's
stamp), `controlOut` and `half` what waits for control units; `returned`
the credits for the next ACK; `owners` the egress table of the frame that runs; `nakFor` the bad copies that have no NAK yet (R255);
`onSpare` the lanes whose bytes leave on a spare (R258); `flushing` that the packet still arriving is to be discarded (R272);
`corrected` the lanes of the symbols corrected in the last blocks. -/
structure Port where
  mode : PortMode := .disabled
  attempts : Nat := 0
  partnerType : Nat := 0
  partnerId : Nat := 0
  partnerPort : Nat := 0
  erasures : Nat := 0
  sparesUsed : Nat := 0
  erased : Option Nat := none
  remapRx : Option Remap := none
  remapTx : Option Remap := none
  rxNext : Nat := 0
  txNext : Nat := 0
  una : Nat := 0
  replay : List (Nat × Nat × Bytes) := []
  resends : Nat := 0
  resendOf : Nat := 0
  nakFor : List Nat := []
  onSpare : List (Nat × Nat) := []
  flushing : Bool := false
  remaps : List Bytes := []
  timeOut : List (Nat × Bytes) := []
  half : Option Bytes := none
  lastAck : Nat := 0
  owners : List Nat := []
  unitPos : Nat := 0
  unitBytes : Bytes := []
  headStamp : Option Instant := none
  txBytes : Bytes := []
  sinceAck : Nat := 0
  lastHead : Option (Instant × Nat) := none
  order : Nat := 0
  frameSlot : Nat := 0
  nextVc : Nat := 0
  cable : Bool := true
  credits : Tab Nat := []
  returned : List (Nat × Nat × Nat) := []
  controlOut : List Bytes := []
  egress : List (Nat × Packet) := []
  corrected : List (List Nat) := []
deriving DecidableEq, Repr

/-- An ingress queue of the cell pool (R269 to R272): its packets with their cells and stamps. -/
structure CellQueue where
  cells : Nat := 0
  granted : Nat := 0
  packets : List (Nat × Instant × Packet) := []
deriving DecidableEq, Repr

/-- An entry of the tear table (R276). -/
structure TearEntry where
  keyId : Nat
  src : Nat
  tearId : Nat
  expiry : Nat
deriving DecidableEq, Repr

/-- The Shawl (R248 to R277, Table 18.5, Table 18.6). `tables` holds the two routing copies, keyed by copy × 4096 + id. -/
structure Shawl where
  ports : Tab Port := []
  queues : Tab CellQueue := []
  tables : Tab Nat := []
  active : Nat := 0
  drops : Tab Nat := []
  keys : List LinkKey := []
  tears : List TearEntry := []
  lastTear : Nat := 0
deriving DecidableEq, Repr

/-- A fault-log entry (Table 16.3). -/
structure FaultEntry where
  seq : Nat
  cls : Nat
  code : Nat
  p : Nat
  gen : Nat
  stamp : Instant
  quality : Nat
  unitKind : Nat
  unitIndex : Nat
  tag : Nat
  opcode : Nat
  ring : Nat
  passes : Nat
  count : Nat
  detail : Nat
deriving DecidableEq, Repr

/-- A ring in the operator record: 8p + ring, its counts and state, its head's opcode and tag, and whether that is held (Table 16.9). -/
structure OpRing where
  ring : Nat
  fetched : Nat
  lastTail : Nat
  mode : SqMode
  head : Option (Nat × Nat)
  held : Bool
deriving DecidableEq, Repr

/-- A descriptor in flight in the operator record (Table 16.9). -/
structure OpFlight where
  p : Nat
  opcode : Nat
  tag : Nat
  ring : Nat
  entry : Nat
  dispatchFt : Nat
  engines : List Nat
  committed : Nat
deriving DecidableEq, Repr

/-- A window in the operator record with the recovery state of its round (Table 16.9). -/
structure OpWindow where
  p : Nat
  kind : WinKind
  mode : WinMode
  roundId : Nat
  opens : Nat
  closes : Nat
  assigned : Nat
  accepted : Nat
  recovery : Option RoundMode
deriving DecidableEq, Repr

/-- An engine slot in the operator record: its logical number, and the opcode, ended passes and nanoseconds of what it runs
(Table 16.9). -/
structure OpEngine where
  slot : Nat
  logical : Option Nat
  opcode : Option Nat
  passes : Nat
  ns : Nat
deriving DecidableEq, Repr

/-- A space slot in the operator record: its state, its queue pairs READY and ERROR, and messages being received (Table 16.9). -/
structure OpSpace where
  p : Nat
  slot : Nat
  mode : SpaceMode
  ready : Nat
  errors : Nat
  messages : Nat
deriving DecidableEq, Repr

/-- The operator record of R391 as the control-plane state it was taken from. `reservations` holds the descriptor, its first unit and
unit count, and whether it waits; `queues` the die's queue, its cells and its credits outstanding; `token` names the free value that
stands for the layout the spec does not give. -/
structure OpRecord where
  trigger : Nat
  mode : ModuleMode
  faultRef : Nat
  stamp : Instant
  rings : List OpRing
  inflight : List OpFlight
  reservations : List (Nat × Nat × Nat × Bool)
  windows : List OpWindow
  engines : List OpEngine
  queues : List (Nat × Nat × Nat)
  spaces : List OpSpace
  token : Nat
deriving DecidableEq, Repr

/-- The fault system (R373 to R393, Table 16.10). `log` is newest first and holds at most 4,096 entries; `entry` is the one that put
the module into TRIPPED, MODULE_FAULT or TRANSIT_ONLY; `computing` says that
a compute reset is in its steps, which a thermal trip does not stop (Table 16.7). -/
structure Faults where
  mode : ModuleMode := .boot
  log : List FaultEntry := []
  head : Nat := 0
  entry : Nat := 0
  computing : Bool := false
  resetBusy : Bool := false
  resetResult : Nat := 0
  starts : List Nat := []
  stale : Nat := 0
  opRecord : Option OpRecord := none
  seamSpares : Tab Nat := []
  cclSpares : Nat := 1
  cclFails : Nat := 0
  resetCause : Nat := 1
  shared : Nat := 0
deriving DecidableEq, Repr

/-- The power and thermal manager (R354 to R371, Table 15.6). `railPower` holds each rail's last reading and `sample` their sum,
in 0.1 W; `history` the sums before it, newest first; `tj8` the highest junction reading in 1/8 °C; `droopClearAt` the
instant from which a step may commit (R363); `rampFrom` a ramp value with the instant it had it, from which it rises (R359);
`issued` the Sleeves that issued work since the last interval boundary and `shares` what that boundary gave each Sleeve of the
compute allowance, in 1/64 W; no entry stands for A ÷ 16 (R310). -/
structure Power where
  rails : List Bool := List.replicate 7 true
  pwrGood : Bool := true
  railFault : Bool := false
  thermTrip : Bool := false
  railPower : List Nat := List.replicate 7 0
  sample : Nat := 0
  intervals : Nat := 0
  history : List Nat := []
  energy : Nat := 0
  stageMem : Nat := 0
  stageLink : Nat := 0
  stageComp : Nat := 0
  phi : Nat := 16
  tj8 : Nat := 0
  current : Nat := 300
  step : Option Nat := none
  stepUp : Bool := false
  railsSettled : Bool := true
  voutMv : Nat := 750
  droop : Bool := false
  droopClearAt : Nat := 0
  rampFrom : Nat × Nat := (64, 0)
  active : BitVec 9 := 0#9
  times : Tab Nat := []
  lastTick : Nat := 0
  eolEngines : Nat := 0xFFFFFFFF
  eolLanes : Nat := 0xFFFFFFFF
  eolEm : Nat := 0xFFFFFFFF
  issued : List Nat := []
  shares : List Nat := []
deriving DecidableEq, Repr

/-- Built-in self-test (R394 to R400, Table 17.3). -/
structure SelfTest where
  busy : Bool := false
  result : Nat := 0
  kind : Nat := 0
  index : Nat := 0
  failed : Nat := 0
  run : Nat := 0
  held : Bool := false
deriving DecidableEq, Repr

/-- Control-plane debug (R401 to R403). -/
structure Debug where
  counts : Tab Nat := []
  traced : Bool := false
  traceWr : Nat := 0
  traceDrop : Nat := 0
deriving DecidableEq, Repr

/-- The chain of a partition instance's usage records (R314, R316). -/
structure RecordChain where
  p : Nat
  instance_ : Nat
  seq : Nat
  prevDigest : Bytes
  missing : Bool
deriving DecidableEq, Repr

/-- The partition manager and the metering of R300, R314 to R316. `held` holds signed records with their partition and
instance, `thermalMs` and `droopMs` count milliseconds since module reset, `msThermal` and `msDroop` are the events seen
in the current millisecond, `lastMs` and `lastMinute` the newest boundaries of R247 that have been taken. -/
structure Manager where
  busy : Bool := false
  result : Nat := 0
  current : Nat := 0
  written : Nat := 0
  held : List (Nat × Nat × Bytes) := []
  chains : List RecordChain := []
  thermalMs : Nat := 0
  droopMs : Nat := 0
  msThermal : Bool := false
  msDroop : Bool := false
  lastMs : Nat := 0
  lastMinute : Nat := 0
deriving DecidableEq, Repr

/-- What leaves the module: a CCL write, an interrupt write, a packet or control unit on a port, a packet to a
partition of the same module, a link message, a block with the lanes whose bytes go on a spare (R258), the sideband frame, a window
line returned to the companion. -/
inductive Output where
  | cclWrite (addr : Nat) (data : Bytes)
  | msi (addr : Nat) (data : Nat)
  | packet (port : Nat) (pkt : Packet)
  | tear (port : Nat) (pkt : Packet)
  | link (port : Nat) (message : Bytes)
  | block (port : Nat) (number : Nat) (data : Bytes) (onSpare : List (Nat × Nat))
  | timeMsg (port : Nat) (hops : Nat) (seq : Nat) (departure : Instant)
  | line (data : Bytes) (poisoned : Bool)
  | refusedAccess
  | readData (value : Word)
  | sideband (frame : Bytes)
  | contextRead (p : Nat) (addr : Nat)
  | lineRead (addr : Nat)
  | descRead (addr : Nat) (count : Nat)
deriving DecidableEq, Repr

/-- No command stops the machine with a fault: every fault the spec names is a change of state (R373). -/
inductive Fault where
deriving DecidableEq, Repr

/-- Why a command is turned away without a meaning. -/
inductive Refusal where
  /-- The command named has no meaning yet (raised by Dispatch alone; safe: the model stops where the block goes on). -/
  | notModelled (mnemonic : String)
deriving DecidableEq, Repr

/-- The state of the block. `regs` lists the registers that differ from their reset value (Machine/Regs.lean);
`freeCtr` counts the free values drawn and `pending` is the queue of waiting commands, both the model's own. -/
structure State where
  pending : List Instr := []
  out : List Output := []
  freeCtr : Nat := 0
  nextId : Nat := 0
  regs : Tab Nat := []
  lining : Memory := []
  tiles : Tab TileMeta := []
  dram : Memory := []
  areas : List MarkedArea := []
  slots : Tab Slot := []
  sleeves : Tab Sleeve := []
  devices : Tab Device := []
  parts : Tab Partition := []
  inflight : List InFlight := []
  otp : Otp := {}
  collar : Collar := {}
  entropy : Entropy := {}
  time : FedTime := {}
  shawl : Shawl := {}
  faults : Faults := {}
  power : Power := {}
  bst : SelfTest := {}
  dbg : Debug := {}
  manager : Manager := {}
deriving DecidableEq, Repr

/-- The block right after module reset: the Collar waits for an image set (boot status 1, R320), the module state is
BOOT, time is UNSET, every register is at the reset value of its field map and every memory reads as zero (R201,
R407). The values the spec leaves to fuses and OTP are those of a unit as shipped (R435) and the log's entry 2. -/
def State.reset : State := {}

end Sys2Proof.Machine
end

