-- ==== Sys2Proof/Machine/Regs.lean ====
section
/-! DEFINITION. The register map: which register lies at an offset (Tables 18.1 and 18.2), the fields software can
write with their access codes, and the reset values (Tables 8.1 to 8.5, 10.7, 11.1 to 11.4, 12.2, 13.15, 14.5, 15.6, 15.7,
16.10, 17.3, 17.5, 17.7, 18.3 to 18.9). -/

namespace Sys2Proof.Machine

/-- A register of the configuration space, named as its block and field map name it. -/
inductive Reg where
  | glbId | glbStat | glbLock | glbCclAper | glbIrqAddr | glbIrqData | glbIrqSrc
  | ftCtrl | ftStat | ftTodNext | ftSnapCtrl | ftSnap0 | ftSnap1 | ftAsym (i : Nat)
  | colStat | colBootAddr | colBootCtrl | colOtp | colUpd | colUpdCtrl | colAtt | colLcCmd | colId (word : Nat)
  | entData | entStat | entTpCtrl | entSrc (s : Nat)
  | pwrCap | pwrOp | pwrDroop | pwrStat | pwrEnergy | pwrThrStat | pwrThrSticky | pwrThrTime (i : Nat)
  | ageSlot (n : Nat) | ageEol0 | ageEol1
  | bstCtrl | bstStat | bstFails
  | dbgCntSel (i : Nat) | dbgCnt (i : Nat) | dbgTraceBase | dbgTraceCtrl | dbgTraceWr | dbgTraceRd | dbgTraceDrop
  | ptnCmd | ptnModes | ptnMeterBase | ptnMeterCtrl | ptnMeterWr | ptnMeterRd
  | ptnSleeves (p : Nat) | ptnDgran (p i : Nat) | ptnHgran (p i : Nat) | ptnPin (p : Nat) | ptnCcl (p : Nat)
  | ptnPolicy (p : Nat) | ptnStat (p : Nat)
  | linPocketStat (s : Nat) | linBondStat (d : Nat) | accSleeve (s : Nat) | ksuSleeve (s : Nat)
  | drmSlot (d k : Nat) | drmDevStat (d : Nat)
  | fltStat | fltHead | fltCtrl | fltReset | fltEsc (i : Nat) | fltBeat | fltStale | fltNotice (p : Nat)
  | fltDump (p : Nat) | fltLog (word : Nat) | fltOpdump (word : Nat)
  | sqBase (p r : Nat) | sqDb (p r : Nat) | sqHeadln (p r : Nat) | sqCtrl (p r : Nat)
  | cqBase (p r : Nat) | cqCredit (p r : Nat) | cqCtrl (p r : Nat) | cqMod (p r : Nat) | cqMsiAddr (p r : Nat)
  | cqMsiData (p r : Nat) | ringLock (p : Nat)
  | rmaCtBase (p : Nat) | rmaCtLimit (p : Nat) | rmaCcCfg (p : Nat) | rmaMissCfg (p : Nat)
  | rmaQpArg0 (p : Nat) | rmaQpArg1 (p : Nat) | rmaQpCmd (p : Nat) | rmaPdKey (p q : Nat) | rmaPdCtrl (p q : Nat)
  | spId (p k : Nat) | spKey (p k : Nat) | spCtrl (p k : Nat) | spRevokeFt (p k : Nat)
  | spExpLo (p k i : Nat) | spExpHi (p k i : Nat)
  | shwDim | shwRtSwap | shwPortCtrl (i : Nat) | shwPortStat (i : Nat) | shwDrop (j : Nat) | shwEgr (i k : Nat)
  | shwRt (n : Nat) | shwRtAct (n : Nat) | shwQcfg (d q : Nat) | shwQocc (d q : Nat)
deriving DecidableEq, Repr

/-- A register's offset in the configuration space (Tables 18.1, 18.2). -/
def Reg.offset : Reg → Nat
  | .glbId => 0x0 | .glbStat => 0x8 | .glbLock => 0x10 | .glbCclAper => 0x18 | .glbIrqAddr => 0x20
  | .glbIrqData => 0x28 | .glbIrqSrc => 0x30
  | .ftCtrl => 0x10000 | .ftStat => 0x10008 | .ftTodNext => 0x10010 | .ftSnapCtrl => 0x10018
  | .ftSnap0 => 0x10020 | .ftSnap1 => 0x10028 | .ftAsym i => 0x10040 + 8 * i
  | .colStat => 0x20000 | .colBootAddr => 0x20008 | .colBootCtrl => 0x20010 | .colOtp => 0x20018
  | .colUpd => 0x20020 | .colUpdCtrl => 0x20028 | .colAtt => 0x20030 | .colLcCmd => 0x20038
  | .colId w => 0x21000 + 8 * w
  | .entData => 0x30000 | .entStat => 0x30008 | .entTpCtrl => 0x30010 | .entSrc s => 0x30100 + 8 * s
  | .pwrCap => 0x40000 | .pwrOp => 0x40008 | .pwrDroop => 0x40010 | .pwrStat => 0x40018 | .pwrEnergy => 0x40020
  | .pwrThrStat => 0x40028 | .pwrThrSticky => 0x40030 | .pwrThrTime i => 0x40040 + 8 * i
  | .ageSlot n => 0x50000 + 8 * n | .ageEol0 => 0x50800 | .ageEol1 => 0x50808
  | .bstCtrl => 0x60000 | .bstStat => 0x60008 | .bstFails => 0x60010
  | .dbgCntSel i => 0x70000 + 8 * i | .dbgCnt i => 0x70100 + 8 * i | .dbgTraceBase => 0x70200
  | .dbgTraceCtrl => 0x70208 | .dbgTraceWr => 0x70210 | .dbgTraceRd => 0x70218 | .dbgTraceDrop => 0x70220
  | .ptnCmd => 0x80000 | .ptnModes => 0x80008 | .ptnMeterBase => 0x80010 | .ptnMeterCtrl => 0x80018
  | .ptnMeterWr => 0x80020 | .ptnMeterRd => 0x80028
  | .ptnSleeves p => 0x81000 + 0x100 * p | .ptnDgran p i => 0x81008 + 0x100 * p + 8 * i
  | .ptnHgran p i => 0x81028 + 0x100 * p + 8 * i | .ptnPin p => 0x81048 + 0x100 * p
  | .ptnCcl p => 0x81050 + 0x100 * p | .ptnPolicy p => 0x81058 + 0x100 * p | .ptnStat p => 0x81060 + 0x100 * p
  | .linPocketStat s => 0x90000 + 8 * s | .linBondStat d => 0x90100 + 8 * d
  | .accSleeve s => 0xA0000 + 8 * s | .ksuSleeve s => 0xB0000 + 8 * s
  | .drmSlot d k => 0xC0000 + 0x40 * d + 8 * k | .drmDevStat d => 0xC0400 + 8 * d
  | .fltStat => 0x100000 | .fltHead => 0x100008 | .fltCtrl => 0x100010 | .fltReset => 0x100018
  | .fltEsc i => 0x100020 + 8 * i | .fltBeat => 0x100038 | .fltStale => 0x100040
  | .fltNotice p => 0x100100 + 8 * p | .fltDump p => 0x100200 + 8 * p
  | .fltLog w => 0x140000 + 8 * w | .fltOpdump w => 0x180000 + 8 * w
  | .sqBase p r => 0x200000 + 0x1000 * p + 0x40 * r | .sqDb p r => 0x200008 + 0x1000 * p + 0x40 * r
  | .sqHeadln p r => 0x200010 + 0x1000 * p + 0x40 * r | .sqCtrl p r => 0x200018 + 0x1000 * p + 0x40 * r
  | .cqBase p r => 0x200200 + 0x1000 * p + 0x40 * r | .cqCredit p r => 0x200208 + 0x1000 * p + 0x40 * r
  | .cqCtrl p r => 0x200210 + 0x1000 * p + 0x40 * r | .cqMod p r => 0x200218 + 0x1000 * p + 0x40 * r
  | .cqMsiAddr p r => 0x200220 + 0x1000 * p + 0x40 * r | .cqMsiData p r => 0x200228 + 0x1000 * p + 0x40 * r
  | .ringLock p => 0x200400 + 0x1000 * p
  | .rmaCtBase p => 0x310000 + 0x1000 * p | .rmaCtLimit p => 0x310008 + 0x1000 * p
  | .rmaCcCfg p => 0x310010 + 0x1000 * p | .rmaMissCfg p => 0x310018 + 0x1000 * p
  | .rmaQpArg0 p => 0x310020 + 0x1000 * p | .rmaQpArg1 p => 0x310028 + 0x1000 * p | .rmaQpCmd p => 0x310030 + 0x1000 * p
  | .rmaPdKey p q => 0x310100 + 0x1000 * p + 0x10 * q | .rmaPdCtrl p q => 0x310108 + 0x1000 * p + 0x10 * q
  | .spId p k => 0x310400 + 0x1000 * p + 0x200 * k | .spKey p k => 0x310408 + 0x1000 * p + 0x200 * k
  | .spCtrl p k => 0x310410 + 0x1000 * p + 0x200 * k | .spRevokeFt p k => 0x310418 + 0x1000 * p + 0x200 * k
  | .spExpLo p k i => 0x310420 + 0x1000 * p + 0x200 * k + 0x10 * i
  | .spExpHi p k i => 0x310428 + 0x1000 * p + 0x200 * k + 0x10 * i
  | .shwDim => 0x400000 | .shwRtSwap => 0x400008 | .shwPortCtrl i => 0x400100 + 8 * i
  | .shwPortStat i => 0x400200 + 8 * i | .shwDrop j => 0x400300 + 8 * j | .shwEgr i k => 0x401000 + 0x40 * i + 8 * k
  | .shwRt n => 0x402000 + 8 * n | .shwRtAct n => 0x403000 + 8 * n
  | .shwQcfg d q => 0x410000 + 0x1000 * d + 8 * q | .shwQocc d q => 0x412000 + 0x1000 * d + 8 * q

/-- The registers of a run of `n` slots that begins at `base`. -/
def inRun (o base n : Nat) (f : Nat → Reg) : Option Reg :=
  if base ≤ o ∧ o < base + 8 * n then some (f ((o - base) / 8)) else none

/-- The per-partition part of the PTN_ block. -/
def ptnRegOf (p o : Nat) : Option Reg :=
  match o / 8 with
  | 0 => some (.ptnSleeves p)
  | 1 => some (.ptnDgran p 0) | 2 => some (.ptnDgran p 1) | 3 => some (.ptnDgran p 2) | 4 => some (.ptnDgran p 3)
  | 5 => some (.ptnHgran p 0) | 6 => some (.ptnHgran p 1) | 7 => some (.ptnHgran p 2) | 8 => some (.ptnHgran p 3)
  | 9 => some (.ptnPin p) | 10 => some (.ptnCcl p) | 11 => some (.ptnPolicy p) | 12 => some (.ptnStat p)
  | _ => none

/-- The RING_ registers of one partition. -/
def ringRegOf (p o : Nat) : Option Reg :=
  if o < 0x200 then
    match o % 0x40 / 8 with
    | 0 => some (.sqBase p (o / 0x40)) | 1 => some (.sqDb p (o / 0x40))
    | 2 => some (.sqHeadln p (o / 0x40)) | 3 => some (.sqCtrl p (o / 0x40))
    | _ => none
  else if o < 0x400 then
    let r := (o - 0x200) / 0x40
    match o % 0x40 / 8 with
    | 0 => some (.cqBase p r) | 1 => some (.cqCredit p r) | 2 => some (.cqCtrl p r)
    | 3 => some (.cqMod p r) | 4 => some (.cqMsiAddr p r) | 5 => some (.cqMsiData p r)
    | _ => none
  else if o = 0x400 then some (.ringLock p)
  else none

/-- The RMA_ registers of one partition. -/
def rmaRegOf (p o : Nat) : Option Reg :=
  if o < 0x38 then
    match o / 8 with
    | 0 => some (.rmaCtBase p) | 1 => some (.rmaCtLimit p) | 2 => some (.rmaCcCfg p) | 3 => some (.rmaMissCfg p)
    | 4 => some (.rmaQpArg0 p) | 5 => some (.rmaQpArg1 p) | _ => some (.rmaQpCmd p)
  else if 0x100 ≤ o ∧ o < 0x200 then
    if o % 0x10 = 0 then some (.rmaPdKey p ((o - 0x100) / 0x10)) else some (.rmaPdCtrl p ((o - 0x100) / 0x10))
  else if 0x400 ≤ o ∧ o < 0xC00 then
    let k := (o - 0x400) / 0x200
    let w := (o - 0x400) % 0x200
    if w < 0x20 then
      match w / 8 with
      | 0 => some (.spId p k) | 1 => some (.spKey p k) | 2 => some (.spCtrl p k) | _ => some (.spRevokeFt p k)
    else if w < 0x120 then
      if w % 0x10 = 0 then some (.spExpLo p k ((w - 0x20) / 0x10)) else some (.spExpHi p k ((w - 0x20) / 0x10))
    else none
  else none

/-- The register at an aligned offset, if one is assigned there (R405, R409, R410). -/
def regAt (o : Nat) : Option Reg :=
  if o % 8 ≠ 0 then none
  else if o < 0x10000 then
    match o / 8 with
    | 0 => some .glbId | 1 => some .glbStat | 2 => some .glbLock | 3 => some .glbCclAper
    | 4 => some .glbIrqAddr | 5 => some .glbIrqData | 6 => some .glbIrqSrc | _ => none
  else if o < 0x20000 then
    match (o - 0x10000) / 8 with
    | 0 => some .ftCtrl | 1 => some .ftStat | 2 => some .ftTodNext | 3 => some .ftSnapCtrl
    | 4 => some .ftSnap0 | 5 => some .ftSnap1 | _ => inRun o 0x10040 6 .ftAsym
  else if o < 0x30000 then
    match (o - 0x20000) / 8 with
    | 0 => some .colStat | 1 => some .colBootAddr | 2 => some .colBootCtrl | 3 => some .colOtp
    | 4 => some .colUpd | 5 => some .colUpdCtrl | 6 => some .colAtt | 7 => some .colLcCmd
    | _ => inRun o 0x21000 164 .colId
  else if o < 0x40000 then
    match (o - 0x30000) / 8 with
    | 0 => some .entData | 1 => some .entStat | 2 => some .entTpCtrl | _ => inRun o 0x30100 16 .entSrc
  else if o < 0x50000 then
    match (o - 0x40000) / 8 with
    | 0 => some .pwrCap | 1 => some .pwrOp | 2 => some .pwrDroop | 3 => some .pwrStat | 4 => some .pwrEnergy
    | 5 => some .pwrThrStat | 6 => some .pwrThrSticky | _ => inRun o 0x40040 9 .pwrThrTime
  else if o < 0x60000 then
    if o = 0x50800 then some .ageEol0
    else if o = 0x50808 then some .ageEol1
    else inRun o 0x50000 144 .ageSlot
  else if o < 0x70000 then
    match (o - 0x60000) / 8 with
    | 0 => some .bstCtrl | 1 => some .bstStat | 2 => some .bstFails | _ => none
  else if o < 0x80000 then
    if o = 0x70200 then some .dbgTraceBase
    else if o = 0x70208 then some .dbgTraceCtrl
    else if o = 0x70210 then some .dbgTraceWr
    else if o = 0x70218 then some .dbgTraceRd
    else if o = 0x70220 then some .dbgTraceDrop
    else (inRun o 0x70000 16 .dbgCntSel).orElse (fun _ => inRun o 0x70100 16 .dbgCnt)
  else if o < 0x90000 then
    if o < 0x81000 then
      match (o - 0x80000) / 8 with
      | 0 => some .ptnCmd | 1 => some .ptnModes | 2 => some .ptnMeterBase | 3 => some .ptnMeterCtrl
      | 4 => some .ptnMeterWr | 5 => some .ptnMeterRd | _ => none
    else if o < 0x82000 then ptnRegOf ((o - 0x81000) / 0x100) ((o - 0x81000) % 0x100)
    else none
  else if o < 0xA0000 then (inRun o 0x90000 16 .linPocketStat).orElse (fun _ => inRun o 0x90100 2 .linBondStat)
  else if o < 0xB0000 then inRun o 0xA0000 16 .accSleeve
  else if o < 0xC0000 then inRun o 0xB0000 16 .ksuSleeve
  else if o < 0xD0000 then
    if o < 0xC0400 then some (.drmSlot ((o - 0xC0000) / 0x40) (o % 0x40 / 8)) else inRun o 0xC0400 16 .drmDevStat
  else if o < 0x100000 then none
  else if o < 0x140000 then
    match (o - 0x100000) / 8 with
    | 0 => some .fltStat | 1 => some .fltHead | 2 => some .fltCtrl | 3 => some .fltReset
    | 4 => some (.fltEsc 0) | 5 => some (.fltEsc 1) | 6 => some (.fltEsc 2) | 7 => some .fltBeat | 8 => some .fltStale
    | _ => (inRun o 0x100100 16 .fltNotice).orElse (fun _ => inRun o 0x100200 16 .fltDump)
  else if o < 0x180000 then inRun o 0x140000 32768 .fltLog
  else if o < 0x200000 then inRun o 0x180000 32768 .fltOpdump
  else if o < 0x210000 then ringRegOf ((o - 0x200000) / 0x1000) (o % 0x1000)
  else if o < 0x310000 then none
  else if o < 0x320000 then rmaRegOf ((o - 0x310000) / 0x1000) (o % 0x1000)
  else if o < 0x400000 then none
  else if o < 0x410000 then
    if o = 0x400000 then some .shwDim
    else if o = 0x400008 then some .shwRtSwap
    else if 0x401000 ≤ o ∧ o < 0x401180 then some (.shwEgr ((o - 0x401000) / 0x40) (o % 0x40 / 8))
    else ((((inRun o 0x400100 6 .shwPortCtrl).orElse (fun _ => inRun o 0x400200 6 .shwPortStat)).orElse
      (fun _ => inRun o 0x400300 5 .shwDrop)).orElse (fun _ => inRun o 0x402000 256 .shwRt)).orElse
      (fun _ => inRun o 0x403000 256 .shwRtAct)
  else (((inRun o 0x410000 408 (.shwQcfg 0)).orElse (fun _ => inRun o 0x411000 408 (.shwQcfg 1))).orElse
      (fun _ => inRun o 0x412000 408 (.shwQocc 0))).orElse (fun _ => inRun o 0x413000 408 (.shwQocc 1))

/-- How software may write a field (Table 0.4); a field not listed for a register is RO or WO. -/
inductive Access where
  | rw
  | rwl
  | w1c
deriving DecidableEq, Repr

/-- A writable field: its high and low bits and its access code. -/
structure FieldMap where
  hi : Nat
  lo : Nat
  acc : Access
deriving DecidableEq, Repr

/-- The fields of a register that hold a value software writes. -/
def Reg.fields : Reg → List FieldMap
  | .glbLock => [⟨0, 0, .rw⟩]
  | .glbCclAper => [⟨63, 40, .rwl⟩]
  | .glbIrqAddr => [⟨63, 2, .rwl⟩]
  | .glbIrqData => [⟨31, 0, .rwl⟩]
  | .glbIrqSrc => [⟨7, 0, .w1c⟩]
  | .ftCtrl => [⟨1, 0, .rw⟩]
  | .ftTodNext => [⟨63, 0, .rw⟩]
  | .ftAsym _ => [⟨15, 0, .rw⟩]
  | .colBootAddr => [⟨63, 6, .rw⟩]
  | .colUpd => [⟨63, 6, .rw⟩]
  | .colAtt => [⟨63, 6, .rw⟩]
  | .entStat => [⟨2, 1, .w1c⟩]
  | .entTpCtrl => [⟨63, 8, .rw⟩, ⟨0, 0, .rw⟩]
  | .pwrCap => [⟨42, 32, .rw⟩, ⟨20, 16, .rw⟩, ⟨10, 0, .rw⟩]
  | .pwrOp => [⟨7, 0, .rw⟩]
  | .pwrDroop => [⟨6, 0, .rwl⟩]
  | .pwrThrSticky => [⟨8, 0, .w1c⟩]
  | .bstCtrl => [⟨31, 31, .rwl⟩]
  | .bstStat => [⟨30, 30, .w1c⟩]
  | .dbgCntSel _ => [⟨31, 31, .rw⟩, ⟨23, 16, .rw⟩, ⟨15, 12, .rw⟩, ⟨7, 0, .rw⟩]
  | .dbgTraceBase => [⟨63, 12, .rw⟩]
  | .dbgTraceCtrl => [⟨31, 16, .rw⟩, ⟨12, 8, .rw⟩, ⟨0, 0, .rw⟩]
  | .dbgTraceRd => [⟨31, 0, .rw⟩]
  | .ptnCmd => [⟨30, 30, .w1c⟩]
  | .ptnModes => [⟨2, 0, .rw⟩]
  | .ptnMeterBase => [⟨63, 12, .rwl⟩]
  | .ptnMeterCtrl => [⟨20, 16, .rwl⟩, ⟨0, 0, .rwl⟩]
  | .ptnMeterRd => [⟨31, 0, .rw⟩]
  | .ptnSleeves _ => [⟨15, 0, .rw⟩]
  | .ptnDgran _ _ => [⟨63, 0, .rw⟩]
  | .ptnHgran _ _ => [⟨63, 0, .rw⟩]
  | .ptnPin _ => [⟨55, 32, .rw⟩, ⟨23, 0, .rw⟩]
  | .ptnCcl _ => [⟨6, 0, .rw⟩]
  | .ptnPolicy _ => [⟨63, 6, .rw⟩]
  | .drmSlot _ _ => [⟨63, 0, .rw⟩]
  | .fltStat => [⟨7, 6, .w1c⟩]
  | .fltCtrl => [⟨2, 0, .rwl⟩]
  | .fltNotice _ => [⟨4, 0, .rw⟩]
  | .fltDump _ => [⟨63, 40, .rw⟩, ⟨35, 12, .rw⟩]
  | .sqBase _ _ => [⟨63, 12, .rwl⟩]
  | .sqDb _ _ => [⟨63, 6, .rwl⟩]
  | .sqHeadln _ _ => [⟨63, 6, .rwl⟩]
  | .sqCtrl _ _ => [⟨20, 16, .rwl⟩, ⟨10, 8, .rwl⟩, ⟨0, 0, .rwl⟩]
  | .cqBase _ _ => [⟨63, 12, .rwl⟩]
  | .cqCredit _ _ => [⟨63, 6, .rwl⟩]
  | .cqCtrl _ _ => [⟨20, 16, .rwl⟩, ⟨2, 0, .rwl⟩]
  | .cqMod _ _ => [⟨31, 0, .rwl⟩]
  | .cqMsiAddr _ _ => [⟨63, 2, .rwl⟩]
  | .cqMsiData _ _ => [⟨31, 0, .rwl⟩]
  | .ringLock _ => [⟨0, 0, .rw⟩]
  | .rmaCtBase _ => [⟨63, 12, .rw⟩]
  | .rmaCtLimit _ => [⟨23, 0, .rw⟩]
  | .rmaCcCfg _ => [⟨15, 0, .rw⟩]
  | .rmaMissCfg _ => [⟨27, 16, .rw⟩, ⟨6, 0, .rw⟩]
  | .rmaQpArg0 _ => [⟨63, 48, .rw⟩, ⟨43, 0, .rw⟩]
  | .rmaQpArg1 _ => [⟨63, 0, .rw⟩]
  | .rmaPdCtrl _ _ => [⟨7, 7, .rw⟩, ⟨4, 0, .rw⟩]
  | .spId _ _ => [⟨63, 0, .rw⟩]
  | .spKey _ _ => [⟨63, 0, .rw⟩]
  | .rmaPdKey _ _ => [⟨63, 0, .rw⟩]
  | .spCtrl _ _ => [⟨29, 29, .w1c⟩, ⟨28, 28, .rw⟩, ⟨15, 0, .rw⟩]
  | .spExpLo _ _ _ => [⟨63, 8, .rw⟩, ⟨2, 0, .rw⟩]
  | .spExpHi _ _ _ => [⟨63, 60, .rw⟩, ⟨39, 16, .rw⟩, ⟨0, 0, .rw⟩]
  | .shwDim => [⟨27, 16, .rwl⟩, ⟨11, 0, .rwl⟩]
  | .shwEgr _ _ => [⟨63, 0, .rw⟩]
  | .shwQcfg _ _ => [⟨62, 62, .w1c⟩, ⟨61, 61, .rw⟩, ⟨50, 17, .rw⟩, ⟨16, 0, .rwl⟩]
  | _ => []

/-- The reset value of what a register stores (field maps' reset columns; Table 15.6 for PWR_, Table 10.7 for SHW_QCFG). -/
def Reg.reset : Reg → Nat
  | .ftCtrl => 2
  | .pwrCap => 0x29B * 2 ^ 32 + 4 * 2 ^ 16 + 0x47E
  | .pwrOp => 0x2C
  | .pwrDroop => 0x5E
  | .fltCtrl => 7
  | .drmSlot _ _ => 0x1F1F1F1F1F1F1F1F
  | .shwEgr _ _ => 0x1010101010101010
  | .rmaQpArg0 _ => 0x14 * 2 ^ 48
  | .shwQcfg _ _ => 0x800 * 2 ^ 34 + 0x1000 * 2 ^ 17 + 0x11
  | _ => 0

/-- What a register stores. -/
def reg (s : State) (r : Reg) : Nat :=
  tabGet r.reset s.regs r.offset

/-- Store a register's value. -/
def setReg (s : State) (r : Reg) (v : Nat) : State :=
  { s with regs := if v = r.reset then tabErase s.regs r.offset else tabSet s.regs r.offset v }

/-- A field of what a register stores. -/
def regField (s : State) (r : Reg) (hi lo : Nat) : Nat :=
  bitsOf (reg s r) lo (hi + 1 - lo)

end Sys2Proof.Machine
end

