-- ==== Sys2Proof/Machine/Ops.lean ====
section
/-! DEFINITION. The named operations over the state: federation time, free values, what leaves the module, interrupts,
the fault log with its notices, completion records, partitions and their memory, marks and tile metadata. -/

namespace Sys2Proof.Machine

/-- The outcome of a command. -/
abbrev Out := Host.Outcome State Fault Refusal

/-! Free values -/

/-- `n` bytes of the next free value. -/
def freeBytes (s : State) (n : Nat) : Bytes :=
  (List.range n).map (Config.freeByte s.freeCtr)

/-- The next free value as a number of `n` bytes. -/
def freeNat (s : State) (n : Nat) : Nat :=
  leNat (freeBytes s n)

/-- One free value used up. -/
def spendFree (s : State) : State :=
  { s with freeCtr := s.freeCtr + 1 }

/-! Federation time -/

/-- Federation time in whole nanoseconds (R228). -/
def now (s : State) : Nat := s.time.ns

/-- `a` lies before `b` (R229). -/
def before (a b : Instant) : Bool :=
  a.ns < b.ns || (a.ns == b.ns && a.frac < b.frac)

/-- The present instant: the counter, with the fraction measured at the edge that the present command stamps, 0 where it measures
none (R229; log entry 112). -/
def instant (s : State) : Instant := ⟨s.time.ns, s.time.frac⟩

/-- An instant rounded up to a whole nanosecond (R241). -/
def ceilNs (i : Instant) : Nat :=
  if i.frac = 0 then i.ns else i.ns + 1

/-- Let `dt` nanoseconds of the oscillator pass: the counter follows it and slews by at most 50 ppm (R235). In HOLDOVER and FREERUN it
runs at the frequency learned before (R236). -/
def FedTime.pass (t : FedTime) (dt : Nat) : FedTime :=
  let free := t.mode == .holdover || t.mode == .freerun
  let budget := t.slewDebt + (if free then t.learned.natAbs else 128) * dt
  let room := if free then budget / 10000 else min (budget / 10000) t.slew.natAbs
  let down := if free then decide (t.learned < 0) else decide (t.slew < 0)
  let part : Int := if down then -(room : Nat) else (room : Nat)
  let total := ((t.ns * 256 + t.sub + dt * 256 : Nat) + part).toNat
  let slew := if free then t.slew else t.slew - part
  { t with
    ns := total / 256, sub := total % 256, frac := if dt = 0 then t.frac else 0, osc := t.osc + dt, slew := slew,
    slewDebt := if !free && slew == 0 then 0 else budget % 10000 }

/-- The counter has 64 bits (R228; log entry 31). -/
def FedTime.wrap (t : FedTime) : FedTime := { t with ns := t.ns % 2 ^ 64 }

/-- Let `dt` nanoseconds pass. -/
def elapse (s : State) (dt : Nat) : State :=
  { s with time := (s.time.pass dt).wrap }

/-- Let `dt` nanoseconds pass up to an edge that a stamp unit measures `frac` 1/256 ns into its nanosecond; the measurement moves no
counter (R229, R238). -/
def elapseTo (s : State) (dt frac : Nat) : State :=
  let s1 := elapse s dt
  { s1 with time := { s1.time with frac := frac % 256 } }

/-- The greatest number of nanoseconds of the oscillator, of `lo` and `k` further bits, that leave the counter below `t`. -/
def FedTime.below (c : FedTime) (t : Nat) : Nat → Nat → Nat
  | 0, lo => lo
  | k + 1, lo => if (c.pass (lo + 2 ^ k)).ns < t then c.below t k (lo + 2 ^ k) else c.below t k lo

/-- Bring the counter to the instant `t` where it has not passed it: the instant of an event has come. A counter of 64 bits never shows
an instant from 2^64 on (R228). -/
def reach (s : State) (t : Nat) : State :=
  if t ≤ s.time.ns ∨ 2 ^ 64 ≤ t then s else elapse s (s.time.below t 66 0 + 1)

/-- The number of a time state (Table 9.1). -/
def TimeMode.code : TimeMode → Nat
  | .unset => 0
  | .acquiring => 1
  | .locked => 2
  | .holdover => 3
  | .freerun => 4

/-- A stamp of 16 bytes (Table 9.1). -/
def stampBytes (s : State) (i : Instant) (ingress order : Nat) : Bytes :=
  natLe 8 i.ns ++ natLe 1 i.frac ++ natLe 1 ingress ++ natLe 1 s.time.mode.code ++ [0#8] ++ natLe 4 order

/-! What leaves the module -/

/-- Something leaves the module. -/
def emit (s : State) (o : Output) : State :=
  { s with out := s.out ++ [o] }

/-- The operator interrupt (R412): bits of GLB_IRQ_SRC become set; a rising bit sends the interrupt while an address is
set. -/
def raiseIrq (s : State) (bits : Nat) : State :=
  let old := reg s .glbIrqSrc
  let new := Nat.lor old bits
  let s1 := setReg s .glbIrqSrc new
  if new = old then s1
  else if reg s .glbIrqAddr = 0 then s1
  else emit s1 (.msi (reg s .glbIrqAddr) (reg s .glbIrqData))

/-- Set bits in a W1C register (R10). -/
def setStatusBits (s : State) (r : Reg) (bits : Nat) : State :=
  setReg s r (Nat.lor (reg s r) bits)

/-! Partitions -/

/-- Partition `p`. -/
def part (s : State) (p : Nat) : Partition := tabGet {} s.parts p

/-- Replace partition `p`. -/
def setPart (s : State) (p : Nat) (x : Partition) : State :=
  { s with parts := tabSet s.parts p x }

/-- Change partition `p`. -/
def modPart (s : State) (p : Nat) (f : Partition → Partition) : State :=
  setPart s p (f (part s p))

/-- The number of a partition state (Table 12.5). -/
def PtnState.code : PtnState → Nat
  | .free => 0
  | .creating => 1
  | .live => 2
  | .resetting => 3
  | .scrubbing => 4
  | .faulted => 5
  | .dead => 6
  | .destroying => 7

/-- A numbered flag of a bit vector. -/
def bvBit {w : Nat} (v : BitVec w) (i : Nat) : Bool := v.toNat.testBit i

/-- The numbers below `n` whose bit is set in `v`. -/
def bitList (v n : Nat) : List Nat :=
  (List.range n).filter (fun i => v.testBit i)

/-- A partition's Sleeves in ascending number (R67). -/
def Partition.sleeveList (x : Partition) : List Nat :=
  bitList x.sleeves.toNat 16

/-- A partition's Pocket units (R67). -/
def Partition.units (x : Partition) : Nat :=
  24576 * x.sleeveList.length

/-- The partition that owns Sleeve `v`. -/
def sleeveOwner (s : State) (v : Nat) : Option Nat :=
  (List.range 16).find? (fun p => (part s p).mode != .free && (part s p).mode != .creating && bvBit (part s p).sleeves v)

/-- The partition that holds granule `g` in either set. -/
def granuleOwner (s : State) (g : Nat) : Option Nat :=
  (List.range 16).find? (fun p => (part s p).mode != .free && (part s p).mode != .creating &&
    ((part s p).dram.contains g || (part s p).host.contains g))

/-- A partition runs on D1's command processors only when all its Sleeves lie there (R24). -/
def Partition.onD1 (x : Partition) : Bool :=
  x.sleeveList.all (fun v => decide (8 ≤ v))

/-- The next generation (R227). -/
def nextGen (g : Nat) : Nat :=
  if 255 ≤ g then 1 else g + 1

/-- Add to a counter that saturates at 2^64 - 1 (R315). -/
def satAdd (a b : Nat) : Nat :=
  min (2 ^ 64 - 1) (a + b)

/-! Debug counters (R402) -/

/-- Counter `i` counts an event in one of the scopes given, or in the module (Tables 17.4, 17.5). -/
def counterHit (s : State) (ev : Nat) (scopes : List (Nat × Nat)) (i : Nat) : Bool :=
  let sel := reg s (.dbgCntSel i)
  sel.testBit 31 && sel % 256 == ev && (sel / 4096 % 16 == 0 || scopes.contains (sel / 4096 % 16, sel / 65536 % 256))

/-- An event adds `n` to every counter that counts it; counters saturate (R402). -/
def countEvent (s : State) (ev : Nat) (scopes : List (Nat × Nat)) (n : Nat) : State :=
  let hits := (List.range 16).filter (counterHit s ev scopes)
  if hits.isEmpty || n == 0 then s
  else { s with dbg := { s.dbg with counts := hits.foldl (fun t i => tabMap 0 t i (fun c => satAdd c n)) s.dbg.counts } }

/-- Change a partition's usage counters (Table 12.9); the debug counters of keystream and CCL bytes go with them. -/
def modUsage (s : State) (p : Nat) (f : Usage → Usage) : State :=
  let u := (part s p).usage
  let v := f u
  let s1 := modPart s p (fun x => { x with usage := v })
  countEvent (countEvent s1 6 [(1, p)] (v.keystreamBytes - u.keystreamBytes)) 13 [(1, p)]
    (v.cclOut + v.cclIn - (u.cclOut + u.cclIn))

/-! Policy fields (Table 2.2) -/

/-- The policy's regime. -/
def Partition.regime (x : Partition) : Nat := field x.policy 2 1

/-- The policy's element format. -/
def Partition.elemFormat (x : Partition) : Nat := field x.policy 3 1

/-- The policy's dimension. -/
def Partition.dimension (x : Partition) : Nat := field x.policy 4 4

/-- The policy's modulus q. -/
def Partition.modulusQ (x : Partition) : Nat := field x.policy 8 8

/-- The policy digest (R35). -/
def Partition.digest (x : Partition) : Bytes := sha3 x.policy

/-- The digest prefix that submissions carry (R35). -/
def Partition.digestPrefix (x : Partition) : Bytes := x.digest.take 16

/-- Bytes of an element of the policy's format (Table 2.2, R43, R51). -/
def elemBytes (fmt : Nat) : Nat :=
  match fmt with
  | 1 => 2
  | 2 => 4
  | 3 => 8
  | 4 => 8
  | 5 => 2
  | 6 => 4
  | _ => 8

/-! Completion records -/

/-- A completion ring of a partition. -/
def cqOf (s : State) (p c : Nat) : CqRing := tabGet {} (part s p).cq c

/-- Change a completion ring. -/
def modCq (s : State) (p c : Nat) (f : CqRing → CqRing) : State :=
  modPart s p (fun x => { x with cq := tabMap {} x.cq c f })

/-- A submission ring of a partition. -/
def sqOf (s : State) (p r : Nat) : SqRing := tabGet {} (part s p).sq r

/-- Change a submission ring. -/
def modSq (s : State) (p r : Nat) (f : SqRing → SqRing) : State :=
  modPart s p (fun x => { x with sq := tabMap {} x.sq r f })

/-- Entries of a completion ring. -/
def cqSize (s : State) (p c : Nat) : Nat :=
  2 ^ regField s (.cqCtrl p c) 20 16

/-- The completion ring that a submission ring names (R205). -/
def cqOfRing (s : State) (p r : Nat) : Nat :=
  regField s (.sqCtrl p r) 10 8

/-- The ring number that marks a record as a notice (R376). -/
def noticeRing : Nat := 255

/-- A record's bytes at count `c` of a ring of `size` entries (Table 8.13): its phase bit, and the fetch count of its
submission ring. A notice has no submission ring: its sq_fetched field is a free value (log entry 5). -/
def recordBytes (s : State) (p c size : Nat) (r : Record) : Bytes :=
  let phase := 1 - c / size % 2
  let ringByte := (if r.ring = noticeRing then 127 else r.ring) + 128 * phase
  let fetched := if r.ring = noticeRing then freeNat s 2 else (sqOf s p r.ring).fetched % 65536
  natLe 4 r.tag ++ natLe 2 r.slot ++ natLe 1 r.status ++ natLe 1 r.gen ++ natLe 8 r.result ++ natLe 8 r.ftDone
    ++ natLe 1 r.opcode ++ natLe 1 ringByte ++ natLe 2 fetched ++ natLe 4 r.faultRef

/-- An interrupt of a completion ring; count and timer restart (R226). Its 4 bytes count as CCL bytes out (R207). -/
def cqInterrupt (s : State) (p c : Nat) : State :=
  let s1 := emit s (.msi (reg s (.cqMsiAddr p c)) (reg s (.cqMsiData p c)))
  modCq (modUsage s1 p (fun u => { u with cclOut := satAdd u.cclOut 4 })) p c
    (fun q => { q with sinceIrq := 0, timerFrom := none })

/-- The interrupt conditions of R226 after a record has been written. -/
def cqAfterRecord (s : State) (p c : Nat) (r : Record) : State :=
  if regField s (.cqCtrl p c) 1 1 = 0 then s
  else
    let count := regField s (.cqMod p c) 15 0
    let n := (cqOf s p c).sinceIrq + 1
    if r.irq ∨ (16 ≤ r.status ∧ regField s (.cqCtrl p c) 2 2 = 1) ∨ (count ≠ 0 ∧ count ≤ n) then cqInterrupt s p c
    else modCq s p c (fun q => { q with sinceIrq := n, timerFrom := some (q.timerFrom.getD (now s)) })

/-- A completion ring has a free entry (R224); the consumed count is free-running in 32 bits like a tail (R210). -/
def cqRoom (s : State) (p c : Nat) : Bool :=
  regField s (.cqCtrl p c) 0 0 == 1 && decide (((cqOf s p c).count + 2 ^ 32 - (cqOf s p c).consumed % 2 ^ 32) % 2 ^ 32 < cqSize s p c)

/-- Write a record into the next entry of a completion ring (R224). -/
def cqWrite (s : State) (p c : Nat) (r : Record) : State :=
  let n := (cqOf s p c).count
  let addr := reg s (.cqBase p c) + 32 * (n % cqSize s p c)
  let s1 := emit s (.cclWrite addr (recordBytes s p n (cqSize s p c) r))
  let s2 := if r.ring = noticeRing then spendFree s1 else s1
  let s3 := modCq s2 p c (fun q => { q with count := q.count + 1 })
  let s4 := modUsage s3 p (fun u => { u with cclOut := satAdd u.cclOut 32 })
  cqAfterRecord s4 p c r

/-- A completion ring takes a record: it has a free entry with nothing waiting, or its pending buffer has room (R223). -/
def cqTakes (s : State) (p c : Nat) : Bool :=
  (cqRoom s p c && (cqOf s p c).held.isEmpty) || decide ((cqOf s p c).held.length < 256)

/-- Post a record: into the ring, or into its pending buffer of 256. One that finds no room is lost, which only a reset's records
(R227) and notices do: a descriptor completes only when its ring takes its record (log entry 105). -/
def postRecord (s : State) (p c : Nat) (r : Record) : State :=
  if cqRoom s p c && (cqOf s p c).held.isEmpty then cqWrite s p c r
  else if (cqOf s p c).held.length < 256 then modCq s p c (fun q => { q with held := q.held ++ [r] })
  else if r.ring = noticeRing then s
  else modSq s p r.ring (fun q => { q with lost := q.lost + 1 })

/-- Write held records while the ring has room (R224). -/
def drainHeld (s : State) (p c : Nat) : Nat → State
  | 0 => s
  | n + 1 =>
    match (cqOf s p c).held with
    | [] => s
    | r :: rest =>
      if cqRoom s p c then drainHeld (cqWrite (modCq s p c (fun q => { q with held := rest })) p c r) p c n else s

/-! The fault log -/

/-- What a fault-log entry says beside its number, stamp and generation (Table 16.3). -/
structure Report where
  cls : Nat
  code : Nat
  p : Nat := 255
  unitKind : Nat := 0
  unitIndex : Nat := 0
  tag : Nat := 0
  opcode : Nat := 0
  ring : Nat := 255
  passes : Nat := 0
  detail : Nat := 0
deriving DecidableEq, Repr

/-- The fault log runs: boot has finished (R407). -/
def logRuns (s : State) : Bool :=
  s.collar.bootStatus == 0 || s.collar.bootStatus == 10 || s.collar.bootStatus == 11

/-- Registers outside the GLB_ and COL_ blocks respond once boot has finished (R407). -/
def gate (s t : State) : State := if logRuns s then t else s

/-- A report repeats the newest entry within 1 ms of its stamp (R374). -/
def repeatsNewest (s : State) (r : Report) (e : FaultEntry) : Bool :=
  e.cls == r.cls && e.code == r.code && e.unitKind == r.unitKind && e.unitIndex == r.unitIndex &&
    before (instant s) ⟨e.stamp.ns + 1000000, e.stamp.frac⟩

/-- The notice of R376 for an entry that names a partition. -/
def noticeStatus (r : Report) : Nat :=
  match r.cls with
  | 2 => 0x01
  | 3 => if r.unitKind = 10 then 0x51 else 0x50
  | 4 => 0x71
  | 5 => 0x71
  | 6 => 0x71
  | _ => 0x00

/-- Write a notice record where the partition's notices are on (R376). -/
def notice (s : State) (r : Report) (seq : Nat) : State :=
  if r.p < 16 ∧ regField s (.fltNotice r.p) 3 3 = 1 ∧
      ((r.cls ≠ 1 ∧ r.cls ≠ 7) ∨ regField s (.fltNotice r.p) 4 4 = 1) then
    postRecord s r.p (regField s (.fltNotice r.p) 2 0)
      { tag := 0, slot := 0xFFFF, status := noticeStatus r, gen := (part s r.p).gen,
        result := r.cls + 256 * r.unitKind + 65536 * r.unitIndex + 2 ^ 32 * r.passes, ftDone := now s, opcode := 0,
        ring := noticeRing, irq := false, faultRef := seq }
  else s

/-- Record a fault, refusal or reset in the fault log (R373, R374, R376). -/
def logFault (s : State) (r : Report) : State :=
  if logRuns s = false then s
  else
    match s.faults.log with
    | e :: rest =>
      if repeatsNewest s r e then
        { s with faults := { s.faults with log := { e with count := e.count + 1 } :: rest } }
      else logNew s r
    | [] => logNew s r
where
  logNew (s : State) (r : Report) : State :=
    let seq := if (s.faults.head + 1) % 2 ^ 32 = 0 then 1 else (s.faults.head + 1) % 2 ^ 32
    let e : FaultEntry :=
      { seq := seq, cls := r.cls, code := r.code, p := r.p, gen := if r.p < 16 then (part s r.p).gen else 0,
        stamp := instant s, quality := s.time.mode.code, unitKind := r.unitKind, unitIndex := r.unitIndex,
        tag := r.tag, opcode := r.opcode, ring := r.ring, passes := r.passes, count := 1, detail := r.detail }
    let full := decide (4096 ≤ s.faults.log.length)
    let s1 := { s with faults := { s.faults with head := seq, log := (e :: s.faults.log).take 4096 } }
    let s2 := setStatusBits s1 .fltStat (if full then 0xC0 else 0x40)
    let s3 := if regField s .fltCtrl 2 2 = 1 then raiseIrq s2 1 else s2
    notice s3 r seq

/-- The newest entry's number, which a completion or record may name. -/
def faultRef (s : State) : Nat := s.faults.head

/-- A refused register access or command op (R405, R300, R381). -/
def refuseAccess (s : State) : State :=
  logFault s { cls := 7, code := 0x63 }

/-- A shared-resource event of Table 12.7. -/
def sharedEvent (s : State) : State :=
  { s with faults := { s.faults with shared := s.faults.shared + 1 } }

/-! Partition memory -/

/-- The regions of a partition address (Table 7.4). -/
inductive Region where
  | dram
  | window
  | pocket
deriving DecidableEq, Repr

/-- The region and offset of a partition address. -/
def regionOf (a : Nat) : Option (Region × Nat) :=
  match a / 2 ^ 60 with
  | 0 => some (.dram, a % 2 ^ 60)
  | 1 => some (.window, a % 2 ^ 60)
  | 2 => some (.pocket, a % 2 ^ 60)
  | _ => none

/-- The partition address of Pocket unit `u`. -/
def pocketAddr (u : Nat) : Nat := 2 * 2 ^ 60 + 8192 * u

/-- The bytes of a region of a partition. -/
def regionSize (x : Partition) : Region → Nat
  | .dram => x.dram.length * 2 ^ 31
  | .window => x.host.length * 2 ^ 31
  | .pocket => x.units * 8192

/-- The physical unit of Pocket unit `u` (R67): Sleeve × 24,576 + unit in its Pocket. -/
def physUnit (x : Partition) (u : Nat) : Nat :=
  let n := x.sleeveList.length
  x.sleeveList.getD (u / 64 % n) 0 * 24576 + u / (64 * n) * 64 + u % 64

/-- The physical DRAM byte of an offset in a set of granules (R194, R195). -/
def physDram (set : List Nat) (off : Nat) : Nat :=
  let n := set.length
  set.getD (off / 4096 % n) 0 * 2 ^ 31 + off / 4096 / n * 4096 + off % 4096

/-- One contiguous piece of memory that a range of partition addresses covers: in the Lining or in DRAM. -/
structure Piece where
  lining : Bool
  phys : Nat
  len : Nat
deriving DecidableEq, Repr

/-- The pieces of a range: cut at 8 KiB in the Pocket and at 4 KiB in DRAM. -/
def piecesFrom (x : Partition) (rg : Region) : Nat → Nat → Nat → List Piece
  | 0, _, _ => []
  | fuel + 1, off, len =>
    if len = 0 then []
    else
      let block := if rg = .pocket then 8192 else 4096
      let n := min len (block - off % block)
      let piece : Piece :=
        match rg with
        | .pocket => { lining := true, phys := physUnit x (off / 8192) * 8192 + off % 8192, len := n }
        | .dram => { lining := false, phys := physDram x.dram off, len := n }
        | .window => { lining := false, phys := physDram x.host off, len := n }
      piece :: piecesFrom x rg fuel (off + n) (len - n)

/-- The pieces of `len` bytes from a partition address on. -/
def rangePieces (x : Partition) (a len : Nat) : List Piece :=
  match regionOf a with
  | none => []
  | some (rg, off) => piecesFrom x rg (len / 4096 + 2) off len

/-- The bytes of one piece. -/
def readPiece (s : State) (c : Piece) : Bytes :=
  memReadRange (if c.lining then s.lining else s.dram) c.phys c.len

/-- `len` bytes from a partition address on. -/
def pread (s : State) (p a len : Nat) : Bytes :=
  (rangePieces (part s p) a len).flatMap (readPiece s)

/-- A 64 KiB block of a device is written: its clear bit is not set any longer (R200). -/
def touchBlocks (s : State) (phys len : Nat) : State :=
  let d := phys / 2 ^ 35
  let b0 := phys % 2 ^ 35 / 65536
  let b1 := (phys % 2 ^ 35 + len - 1) / 65536
  let dev := tabGet {} s.devices d
  let fresh := ((List.range (b1 - b0 + 1)).map (fun i => b0 + i)).filter (fun b => !dev.filled.contains b)
  if fresh.isEmpty then s
  else { s with devices := tabSet s.devices d { dev with filled := dev.filled ++ fresh } }

/-- Store bytes at one piece. -/
def writePiece (s : State) (c : Piece) (bs : Bytes) : State :=
  if c.lining then { s with lining := memWriteRange s.lining c.phys bs }
  else touchBlocks { s with dram := memWriteRange s.dram c.phys bs } c.phys c.len

/-- Store bytes at a list of pieces. -/
def writePieces (s : State) : List Piece → Bytes → State
  | [], _ => s
  | c :: cs, bs => writePieces (writePiece s c (bs.take c.len)) cs (bs.drop c.len)

/-- Count the Pocket bytes written at a piece (Table 17.4). -/
def countPiece (p : Nat) (s : State) (c : Piece) : State :=
  if c.lining then countEvent s 8 [(1, p), (2, c.phys / 201326592), (5, c.phys / 1610612736)] c.len else s

/-- Store bytes from a partition address on. -/
def pwrite (s : State) (p a : Nat) (bs : Bytes) : State :=
  let cs := rangePieces (part s p) a bs.length
  cs.foldl (countPiece p) (writePieces s cs bs)

/-- Bursts of 64 bytes that a range of DRAM touches, those written in part counted twice (R192, Table 12.9). -/
def burstBytes (a len : Nat) (write : Bool) : Nat :=
  if len = 0 then 0
  else
    let n := (a + len - 1) / 64 - a / 64 + 1
    let cut := if a % 64 = 0 then 0 else 1
    let tail := if (a + len) % 64 = 0 then 0 else 1
    64 * (if write then n + min n (cut + tail) else n)

/-- Count a range's bursts in a partition's dram_bytes where it lies in DRAM. -/
def countDram (s : State) (p a len : Nat) (write : Bool) : State :=
  match regionOf a with
  | some (.pocket, _) => s
  | none => s
  | _ =>
    (rangePieces (part s p) a len).foldl (fun t c =>
      countEvent t 9 [(1, p), (4, c.phys / 2 ^ 35), (5, c.phys / 2 ^ 38)] (burstBytes c.phys c.len write / 64))
      (modUsage s p (fun u => { u with dramBytes := satAdd u.dramBytes (burstBytes a len write) }))

/-! Tile metadata and marks -/

/-- The metadata of Pocket unit `u` of partition `p`. -/
def unitMeta (s : State) (p u : Nat) : TileMeta :=
  tabGet {} s.tiles (physUnit (part s p) u)

/-- Set the metadata of a Pocket unit; a FREE unit is not listed. -/
def setUnitMeta (s : State) (p u : Nat) (m : TileMeta) : State :=
  { s with tiles := if m = {} then tabErase s.tiles (physUnit (part s p) u)
                    else tabSet s.tiles (physUnit (part s p) u) m }

/-- Set the metadata of `n` units from `u` on. -/
def setUnitMetas (s : State) (p u : Nat) (m : TileMeta) : Nat → State
  | 0 => s
  | n + 1 => setUnitMetas (setUnitMeta s p u m) p (u + 1) m n

/-- The marks (pre-gate, model) of a run of DRAM bytes. -/
def areaMarks (areas : List MarkedArea) (lo len : Nat) : Bool × Bool :=
  let hit := areas.filter (fun r => decide (r.lo < lo + len) && decide (lo < r.lo + r.len))
  (hit.any (fun r => r.mark), hit.any (fun r => r.model))

/-- Marked runs without the bytes from `lo` on. -/
def cutArea (lo len : Nat) (r : MarkedArea) : List MarkedArea :=
  if r.lo + r.len ≤ lo ∨ lo + len ≤ r.lo then [r]
  else
    (if r.lo < lo then [{ r with len := lo - r.lo }] else []) ++
      (if lo + len < r.lo + r.len then [{ r with lo := lo + len, len := r.lo + r.len - (lo + len) }] else [])

/-- Marked runs with the bytes from `lo` on given these marks. -/
def setAreaMarks (areas : List MarkedArea) (lo len : Nat) (mark model : Bool) : List MarkedArea :=
  let rest := areas.flatMap (cutArea lo len)
  if mark || model then { lo := lo, len := len, mark := mark, model := model } :: rest else rest

/-- The marks of one piece. -/
def pieceMarks (s : State) (c : Piece) : Bool × Bool :=
  if c.lining then
    let m := tabGet {} s.tiles (c.phys / 8192)
    (m.mark, m.model)
  else areaMarks s.areas c.phys c.len

/-- The marks of a range of partition addresses: set where any part carries one (R53, R66). -/
def marksOf (s : State) (p a len : Nat) : Bool × Bool :=
  let ms := (rangePieces (part s p) a len).map (pieceMarks s)
  (ms.any (fun m => m.1), ms.any (fun m => m.2))

/-- Give one written piece its marks and, in the Pocket, its metadata: the marks of a unit written in part are joined
with those it had (R436). -/
def markPiece (s : State) (m : TileMeta) (mark model : Bool) (c : Piece) : State :=
  if c.lining then
    let old := tabGet {} s.tiles (c.phys / 8192)
    let whole := decide (8192 ≤ c.len)
    let new := { m with mark := mark || (!whole && old.mark), model := model || (!whole && old.model) }
    { s with tiles := tabSet s.tiles (c.phys / 8192) new }
  else { s with areas := setAreaMarks s.areas c.phys c.len mark model }

/-- Write bytes from a partition address on with their marks; Pocket units take the metadata `m` (R70, R436). -/
def writeMarked (s : State) (p a : Nat) (bs : Bytes) (m : TileMeta) (mark model : Bool) : State :=
  let s1 := countDram (pwrite s p a bs) p a bs.length true
  (rangePieces (part s p) a bs.length).foldl (fun t c => markPiece t m mark model c) s1

/-- The code of a width operand as bits (Tables 3.4, 8.11). -/
def widthBits (w : Nat) : Nat := 16 * 2 ^ w

/-- Units of a tile whose elements have `w` bits (R68). -/
def tileUnits (w : Nat) : Nat := w / 16

/-- The metadata that COPY, FILL and other byte writes give (R70). -/
def plainMeta (w : Nat) : TileMeta :=
  { state := .plain, width := w }

/-- Write one whole tile from unit `u` on with its metadata. -/
def writeTile (s : State) (p u : Nat) (bs : Bytes) (m : TileMeta) : State :=
  setUnitMetas (pwrite s p (pocketAddr u) bs) p u m (tileUnits m.width)

/-- The elements of the tile at unit `u` whose elements have `w` bits. -/
def readTile (s : State) (p u w : Nat) : List Nat :=
  elems (w / 8) (pread s p (pocketAddr u) (512 * w))

/-- Set units to zero and FREE (R189). -/
def freeUnits (s : State) (p u : Nat) : Nat → State
  | 0 => s
  | n + 1 =>
    let ph := physUnit (part s p) u
    freeUnits { s with lining := memZero s.lining (8192 * ph) 8192, tiles := tabErase s.tiles ph } p (u + 1) n

/-- Write every Pocket of a list of Sleeves to zero and set its tiles FREE (R70, R201). -/
def clearPockets (s : State) (sl : List Nat) : State :=
  { s with
    lining := s.lining.filter (fun c => !sl.contains (c.1 / 201326592)),
    tiles := s.tiles.filter (fun c => !sl.contains (c.1 / 24576)) }

/-- Set the clear bits of granules: they read as zeros and carry no mark (R200). -/
def clearGranules (s : State) (gs : List Nat) : State :=
  { s with
    dram := s.dram.filter (fun c => !gs.contains (c.1 / 2 ^ 31)),
    areas := s.areas.filter (fun r => !gs.contains (r.lo / 2 ^ 31)),
    devices := s.devices.map (fun e =>
      (e.1, { e.2 with filled := e.2.filled.filter (fun b => !gs.contains (e.1 * 16 + b / 32768)) })) }

/-! Slots and engines -/

/-- Engine slot `n` = 9s + e. -/
def slotOf (s : State) (n : Nat) : Slot := tabGet {} s.slots n

/-- The slot that holds logical engine `l`, if any (R19). -/
def slotOfEngine (s : State) (l : Nat) : Option Nat :=
  ((List.range 9).map (fun e => 9 * (l / 8) + e)).find? (fun n => (slotOf s n).logical == some l)

/-- The logical engines present in Sleeve `v`, ascending (R149). -/
def enginesOf (s : State) (v : Nat) : List Nat :=
  ((List.range 8).map (fun i => 8 * v + i)).filter (fun l => (slotOfEngine s l).isSome)

/-- A Sleeve's state. -/
def sleeveOf (s : State) (v : Nat) : Sleeve := tabGet {} s.sleeves v

/-- A Sleeve is usable: not for good unusable, and not of a D1 held in reset (R17). -/
def sleeveUsable (s : State) (v : Nat) : Bool :=
  (sleeveOf s v).usable && (decide (v < 8) || s.collar.d1Usable)

/-- The Lapel ranking unit of a Sleeve is usable (R20, R150). -/
def lapelUsable (s : State) (v : Nat) : Bool :=
  v % 4 == 0 && decide (v < 16) && !(sleeveOf s v).lapelRetired && (slotOf s (9 * v)).logical.isSome

/-- An expiry still lies ahead, or there is none (R333, Table 13.11, reason 10). -/
def expiryOk (s : State) (t : Nat) : Bool := t == 0 || decide (now s < t)

end Sys2Proof.Machine
end

