-- ==== Sys2Proof/Machine/Operands.lean ====
section
/-! DEFINITION. Operand forms: a descriptor's opcode, which regimes allow it, what it needs (Tables 2.1, 8.9, 16.7), the
address checks of R215 step 5 and the tile ranges it names (R68, R189). -/

namespace Sys2Proof.Machine

/-- The opcode byte of a descriptor (Table 8.9). -/
def opcodeOf : DescBody → Nat
  | .nop => 0x01
  | .fence _ => 0x02
  | .waitFt _ => 0x03
  | .hint _ => 0x04
  | .copy _ => 0x08
  | .fill _ => 0x09
  | .windowOpen _ => 0x10
  | .windowClose _ => 0x11
  | .ingest _ => 0x12
  | .accumulate _ => 0x20
  | .accDrain _ => 0x21
  | .statsSumsq _ => 0x22
  | .statsMoments _ => 0x22
  | .statsFinish _ => 0x22
  | .statsRsqrt _ => 0x22
  | .rank _ => 0x23
  | .zipSend _ => 0x24
  | .zipRecv _ => 0x25
  | .maskExpand _ => 0x30
  | .shareRecon _ => 0x31
  | .seedGraph _ => 0x32
  | .seedDerive _ => 0x32
  | .ntt _ => 0x40
  | .intt _ => 0x41
  | .pmulMul _ => 0x42
  | .pmulMac _ => 0x42
  | .pmulSmul _ => 0x42
  | .pmulFxmul _ => 0x42
  | .baseconv _ => 0x48
  | .ctAddFold _ => 0x43
  | .ctAddAdd _ => 0x43
  | .ctAddSub _ => 0x43
  | .keyswitch _ => 0x44
  | .rotate _ => 0x45
  | .rescale _ => 0x46
  | .modswitch _ => 0x47
  | .partialDec _ => 0x49
  | .kemSealed _ => 0x51
  | .kemBundle _ => 0x51
  | .sealedOpen _ => 0x50
  | .clip _ => 0x52
  | .dpNoise _ => 0x58
  | .releaseAggregate _ => 0x59
  | .releaseShare _ => 0x59
  | .rmaWrite _ => 0x60
  | .rmaRead _ => 0x61
  | .rmaAdd _ => 0x62
  | .attest _ => 0x70
  | .keyImport _ => 0x71
  | .keyDestroy _ => 0x72
  | .modelUnseal _ => 0x73
  | .modelSeal _ => 0x74
  | .badSub o => o
  | .unknown o => o

/-- The opcode is in Table 8.9. -/
def opcodeKnown : DescBody → Bool
  | .unknown _ => false
  | _ => true

/-- Table 2.1: the regime admits the opcode. -/
def regimeAdmits (regime op : Nat) : Bool :=
  if op = 0x22 ∨ op = 0x50 ∨ op = 0x52 then regime == 3
  else if op = 0x23 then regime == 1 || regime == 3
  else if 0x30 ≤ op ∧ op ≤ 0x32 then regime == 1
  else if 0x43 ≤ op ∧ op ≤ 0x49 then regime == 2
  else if op = 0x51 then regime == 1 || regime == 3
  else true

/-- NOP, FENCE, ATTEST and KEY_DESTROY run in every state of a partition and module (R387, R438). -/
def alwaysRuns (op : Nat) : Bool :=
  op == 0x01 || op == 0x02 || op == 0x70 || op == 0x72

/-- The opcode needs an engine, keystream unit or sampler: the list under Table 16.7. -/
def needsUnits (op : Nat) : Bool :=
  op == 0x20 || op == 0x21 || op == 0x22 || op == 0x23 || op == 0x25 || (decide (0x30 ≤ op) && decide (op ≤ 0x32)) ||
    (decide (0x40 ≤ op) && decide (op ≤ 0x52)) || op == 0x58 || op == 0x59 || op == 0x73 || op == 0x74

/-- The opcodes that UNSET refuses (R237). -/
def needsTime (op : Nat) : Bool :=
  op == 0x03 || op == 0x10 || op == 0x59

/-- The reserved uses of Pocket units (Table 7.2). -/
inductive Use where
  | pin
  | recovery
  | staging
  | landing
deriving DecidableEq, Repr

/-- A run of Pocket units in a reserved use. -/
structure UseRange where
  use : Use
  first : Nat
  units : Nat
deriving DecidableEq, Repr

/-- Two runs of units or bytes meet. -/
def overlaps (a n b m : Nat) : Bool :=
  decide (a < b + m) && decide (b < a + n) && decide (0 < n) && decide (0 < m)

/-- The Pocket landing area of a window (Table 7.2). -/
def landingUse (w : Window) : List UseRange :=
  if w.landingAddr / 2 ^ 60 = 2 then
    [{ use := .landing, first := w.landingAddr % 2 ^ 60 / 8192,
       units := (w.landingAddr % 8192 + w.slotCount * w.slotSize + 8191) / 8192 }] else []

/-- The staging area of a window (Table 7.2). -/
def stagingUse (w : Window) : List UseRange :=
  match w.stageFirst with
  | some u => [{ use := .staging, first := u, units := w.stageUnits }]
  | none => []

/-- The reserved uses that one window holds (Table 7.2). -/
def windowUses (w : Window) : List UseRange := landingUse w ++ stagingUse w

/-- Every reserved use of a partition. -/
def usesOf (x : Partition) : List UseRange :=
  (if x.pinUnits = 0 then [] else [{ use := .pin, first := x.pinBase, units := x.pinUnits }]) ++
  (x.rounds.filterMap (fun r => r.graph.map (fun g =>
    ({ use := .recovery, first := g.recTile, units := g.recUnits } : UseRange)))) ++
  (x.submit.map windowUses).getD [] ++ (x.recover.map windowUses).getD []

/-- A tile range a descriptor names: units, the unit multiple its first unit must have, and the reserved use it may
touch. -/
structure Claim where
  first : Nat
  units : Nat
  align : Nat := 1
  use : Option Use := none
deriving DecidableEq, Repr

/-- The range lies within the partition's units, is aligned, and touches no reserved use but its own (R68, R189). -/
def claimOk (x : Partition) (c : Claim) : Bool :=
  decide (c.first + c.units ≤ x.units) && decide (c.first % c.align = 0) &&
    (usesOf x).all (fun u => !overlaps c.first c.units u.first u.units || some u.use == c.use)

/-- `len` bytes from `a` on lie within a region, and `a` is a multiple of `align` (Table 7.4, R195). -/
def addrFits (x : Partition) (a len align : Nat) : Bool :=
  match regionOf a with
  | none => false
  | some (rg, off) => decide (off + len ≤ regionSize x rg) && decide (a % align = 0)

/-- The address lies in the host-visible window. -/
def inWindow (a : Nat) : Bool := a / 2 ^ 60 == 1

/-- The address lies in the Pocket. -/
def inPocket (a : Nat) : Bool := a / 2 ^ 60 == 2

/-- The range of units that a byte range covers in the Pocket, where it lies there. -/
def byteClaims (a len : Nat) (use : Option Use) : List Claim :=
  if inPocket a ∧ len ≠ 0 then
    let off := a % 2 ^ 60
    [{ first := off / 8192, units := (off + len + 8191) / 8192 - off / 8192, use := use }]
  else []

/-- A claim on `count` tiles of elements of `w` bits from index `t` (bits [31:24] of the operand are rsvd, R68). -/
def tileClaim (t count w : Nat) : Claim :=
  { first := t % 2 ^ 24, units := count * tileUnits w, align := tileUnits w }

/-- A tile index operand without its rsvd bits (R68). -/
def tileIx (t : Nat) : Nat := t % 2 ^ 24

/-- A binary32 that is neither infinite nor NaN (R36, Table 3.6). -/
def f32Finite (v : Nat) : Bool := v / 2 ^ 23 % 256 != 255

/-- A finite binary32 that is not negative; minus zero counts as zero (log entry 8). -/
def f32NonNeg (v : Nat) : Bool := f32Finite v && (v / 2 ^ 31 == 0 || v % 2 ^ 31 == 0)

end Sys2Proof.Machine
end

