-- ==== Sys2Proof/Machine/Shawl.lean ====
section
/-! DEFINITION. Packets of the Shawl: header bytes, link keys and their seal, the ingress cell pool with its credits,
routing, and what a packet meets on arrival (R253, R259 to R273, R279, R280, R304, R415, R417). -/

namespace Sys2Proof.Machine

/-- This module's id (R264): SHW_DIM's id field, 0 until it is written. -/
def ownId (s : State) : Nat := regField s .shwDim 11 0

/-- The address of a partition of this module as a packet names it (Table 10.5). -/
def ownAddr (s : State) (p : Nat) : Nat := ownId s + 4096 * p

/-- The module a packet address names. -/
def addrModule (a : Nat) : Nat := a % 4096

/-- The partition a packet address names. -/
def addrPart (a : Nat) : Nat := a / 4096 % 16

/-- A packet's 32 header bytes (Table 10.5). -/
def headerBytes (k : Packet) : Bytes :=
  natLe 1 (k.ptype * 8 + k.vc) ++ natLe 1 k.gen ++ natLe 2 k.dst ++ natLe 2 k.src ++
    natLe 2 (k.payload.length % 8192 + 8192 * bit k.first + 16384 * bit k.last + 32768 * bit k.enc) ++
    fit 16 k.body ++ natLe 2 k.keyId ++ natLe 6 k.ctr

/-- A packet's bytes on the link: header, payload and tag. -/
def packetBytes (k : Packet) : Bytes :=
  headerBytes k ++ k.payload ++ (if k.enc then fit 16 k.tag else [])

/-- The additional data of a packet's tag: its header as its sender builds it, without the dateline bit that
forwarding sets (R262, R264; log entry 12). -/
def packetAad (k : Packet) : Bytes := headerBytes { k with vc := 2 * (k.vc / 2) }

/-- The nonce of a packet (R262). -/
def packetNonce (k : Packet) : Bytes := natLe 2 k.src ++ natLe 6 k.ctr ++ zeros 4

/-- Units a packet occupies (R253). -/
def packetUnits (k : Packet) : Nat := (32 + k.payload.length + 16 * bit k.enc + 31) / 32

/-- Cells a packet takes in the pool (R269). -/
def packetCells (k : Packet) : Nat := (32 * packetUnits k + 255) / 256

/-- Header, payload and tag bytes (Table 12.9). -/
def packetLength (k : Packet) : Nat := 32 + k.payload.length + 16 * bit k.enc

/-- The class of a packet type (Table 10.6). -/
def packetClass (ptype : Nat) : Nat :=
  if ptype = 5 ∨ ptype = 10 ∨ ptype = 12 ∨ ptype = 17 ∨ ptype = 18 then 1 else if ptype = 16 then 2 else 0

/-- Count a dropped packet in SHW_DROP (Table 18.5), saturating. -/
def dropPacket (s : State) (j : Nat) : State :=
  { s with shawl := { s.shawl with drops := tabMap 0 s.shawl.drops j (fun n => satAdd n 1) } }

/-- A port. -/
def portOf (s : State) (i : Nat) : Port := tabGet {} s.shawl.ports i

/-- Change a port. -/
def modPort (s : State) (i : Nat) (f : Port → Port) : State :=
  { s with shawl := { s.shawl with ports := tabMap {} s.shawl.ports i f } }

/-- A port that carries packets (Table 10.3). -/
def PortMode.carries : PortMode → Bool
  | .up => true
  | .degraded => true
  | .upHalf => true
  | _ => false

/-- A port is an edge port: its partner is a bridge (R256). -/
def Port.edge (x : Port) : Bool := x.partnerType == 2

/-- What D1's counter reads beside D0's: within ±64/256 ns (R229). -/
def followerError (s : State) : Int := (Config.followerError s.time.osc).toNat % 129 - 64

/-- The die of a port (Table 10.1). -/
def portDie (i : Nat) : Nat := if i = 2 ∨ i = 3 ∨ i = 5 then 1 else 0

/-- The stamp of an edge at a port, measured `frac` 1/256 ns into D0's nanosecond: the stamp units of D1 read D1's counter (R229). -/
def portStamp (s : State) (i frac : Nat) : Instant :=
  if i < 6 ∧ portDie i = 1 then
    let t := ((256 * now s + frac % 256 : Nat) + followerError s).toNat
    ⟨t / 256, t % 256⟩
  else ⟨now s, frac % 256⟩

/-! Link keys -/

/-- The entry that holds a partition's key of a number (R273). -/
def linkKey (s : State) (p keyId : Nat) : Option LinkKey :=
  s.shawl.keys.find? (fun e => e.p == p && e.keyId == keyId)

/-- Change a partition's link-key entry. -/
def modLinkKey (s : State) (p keyId : Nat) (f : LinkKey → LinkKey) : State :=
  { s with shawl := { s.shawl with keys := s.shawl.keys.map (fun e => if e.p = p ∧ e.keyId = keyId then f e else e) } }

/-- The key may still send: its counter has not reached 2^48 - 1 (R273). -/
def keySends (s : State) (p keyId : Nat) : Bool :=
  match linkKey s p keyId with
  | some e => decide (e.ctr < 2 ^ 48 - 1)
  | none => false

/-- The key is marked dying, or has expired: what is dispatched now may not use it (R332, R333). -/
def keyDying (s : State) (p keyId : Nat) : Bool := ((linkKey s p keyId).map (fun e => e.dying || !expiryOk s e.expiry)).getD false

/-! The ingress pool -/

/-- A port's position on its die (R417). -/
def portSpot (i : Nat) : Nat := if i = 0 ∨ i = 2 then 0 else if i = 1 ∨ i = 3 then 1 else 2

/-- The queue number on the die (R417). -/
def queueOnDie (port vc idx : Nat) : Nat := (8 * portSpot port + vc) * 17 + idx

/-- A queue's key in the table of both dies' queues. -/
def queueKey (port vc idx : Nat) : Nat := 408 * portDie port + queueOnDie port vc idx

/-- The set-up register of a queue. -/
def queueReg (key : Nat) : Reg := .shwQcfg (key / 408) (key % 408)

/-- The ports of a queue on die `d` in the order of their positions. -/
def portAt (d spot : Nat) : Nat :=
  if d = 0 then (if spot = 0 then 0 else if spot = 1 then 1 else 4) else (if spot = 0 then 2 else if spot = 1 then 3 else 5)

/-- The port of a queue. -/
def queuePort (key : Nat) : Nat := portAt (key / 408) (key % 408 / 136)

/-- The virtual channel of a queue. -/
def queueVc (key : Nat) : Nat := key % 408 / 17 % 8

/-- The index of a queue: the destination partition, or 16 for transit (R269). -/
def queueIdx (key : Nat) : Nat := key % 408 % 17

/-- A queue. -/
def queueOf (s : State) (key : Nat) : CellQueue := tabGet {} s.shawl.queues key

/-- Change a queue. -/
def modQueue (s : State) (key : Nat) (f : CellQueue → CellQueue) : State :=
  { s with shawl := { s.shawl with queues := tabMap {} s.shawl.queues key f } }

/-- Cells of a die that no queue holds, has granted or reserves (R269). -/
def sharedFree (s : State) (d : Nat) : Nat :=
  65536 - ((List.range 408).map (fun q =>
    let x := queueOf s (408 * d + q)
    max (regField s (.shwQcfg d q) 16 0) (x.cells + x.granted))).sum

/-- The most cells a queue may hold: in isolation mode a partition's queue is held to its minimum (R269, R307). -/
def queueMax (s : State) (key : Nat) : Nat :=
  if queueIdx key < 16 ∧ regField s .ptnModes 2 2 = 0 then regField s (queueReg key) 16 0
  else regField s (queueReg key) 33 17

/-- Return credits to the sender in the next ACK (R270). -/
def giveCredits (s : State) (key cells : Nat) : State :=
  let s1 := modQueue s key (fun q => { q with granted := q.granted + cells })
  modPort s1 (queuePort key) (fun x =>
    { x with returned := x.returned ++ [(queueVc key, queueIdx key, cells)] })

/-- How many grants of 17 cells a queue gets while it is below its maximum and 1,024 shared cells are free (R270): from its cells with
what is granted, its reserved minimum, its maximum and the shared cells. -/
def growth (least most : Nat) : Nat → Nat → Nat → Nat
  | 0, _, _ => 0
  | n + 1, used, free =>
    if used < most ∧ 1024 ≤ free then growth least most n (used + 17) (free - (max least (used + 17) - max least used)) + 1 else 0

/-- A queue of a trained port grows while the rule of R270 lets it; `e` pairs the state with the die's free shared cells. -/
def growQueue (e : State × Nat) (key : Nat) : State × Nat :=
  let (s, free) := e
  if (portOf s (queuePort key)).mode.carries = false then e
  else
    let q := queueOf s key
    let used := q.cells + q.granted
    let least := regField s (queueReg key) 16 0
    let n := growth least (queueMax s key) 4096 used free
    if n = 0 then e else (giveCredits s key (17 * n), free - (max least (used + 17 * n) - max least used))

/-- Every queue of a die grows as far as R270 lets it, in the order of their numbers (log entry 114). -/
def growDie (s : State) (d : Nat) : State :=
  ((List.range 408).foldl (fun e n => growQueue e (408 * d + n)) (s, sharedFree s d)).1

/-- Cells enter a queue: its credits are used and a level crossing may be raised (R270, R271). -/
def enterQueue (s : State) (key cells : Nat) : State :=
  let q := queueOf s key
  let level := regField s (queueReg key) 50 34
  let s1 := modQueue s key (fun x => { x with cells := x.cells + cells, granted := x.granted - cells })
  if level ≠ 0 ∧ q.cells < level ∧ level ≤ q.cells + cells then
    let s2 := setStatusBits s1 (queueReg key) (2 ^ 62)
    if regField s (queueReg key) 61 61 = 1 then raiseIrq s2 2 else s2
  else s1

/-- Cells leave a queue and their credits return; the room they leave lets queues grow (R270). -/
def leaveQueue (s : State) (key cells : Nat) : State :=
  growDie (giveCredits (modQueue s key (fun x => { x with cells := x.cells - cells })) key cells) (key / 408)

/-! Routing -/

/-- A routing table entry of a copy (R415). -/
def routeEntry (s : State) (copy dst : Nat) : Nat := tabGet 0xF s.shawl.tables (4096 * copy + dst)

/-- The coordinate of a module id in dimension 0, 1 or 2 (R264). -/
def coord (id dim : Nat) : Nat := id / 16 ^ dim % 16

/-- The size of a dimension (Table 18.5). -/
def dimSize (s : State) (dim : Nat) : Nat := regField s .shwDim (19 + 4 * dim) (16 + 4 * dim) + 1

/-- The packet's virtual channel on the hop out of port `out`: the dateline bit is set when the hop wraps round the
dimension, kept while it goes on in the dimension and cleared when it turns into another (R263, R264). -/
def hopVc (s : State) (inPort out : Nat) (k : Packet) : Nat :=
  let dim := out / 2
  let c := coord (ownId s) dim
  let wraps := if out % 2 = 0 then c + 1 == dimSize s dim else c == 0
  let goesOn := decide (inPort < 6) && inPort / 2 == dim && k.vc % 2 == 1
  2 * (k.vc / 2) + bit (wraps || goesOn)

/-- Where a packet goes: its output port, 6 for this module, or none where the entry is UNREACHABLE (R264, R280). The module's own id
has an entry like any other, which is 0xF until SHW_DIM is written (R415; log entry 110). -/
def routeOf (s : State) (dst : Nat) : Option Nat :=
  let e := routeEntry s s.shawl.active (addrModule dst)
  if e ≤ 5 then some e else if e = 0xE then some 6 else none

/-- A packet may leave by a port: an edge port carries no types but SUBMIT and SUBMIT_REPLY (R256). -/
def portCarries (s : State) (out ptype : Nat) : Bool := decide (6 ≤ out) || !(portOf s out).edge || ptype == 4 || ptype == 5

/-- A packet of partition `p` is ready to leave: it joins the queue of its egress port, or the module's own router
(R264, R266, R280). One that its port does not carry is dropped and counted as if it had no way (R256; log entry 111). -/
def sendPacket (s : State) (p : Nat) (k : Packet) : State :=
  let s1 := modUsage s p (fun u => { u with shawlTx := satAdd u.shawlTx (packetLength k) })
  match routeOf s1 k.dst with
  | none => dropPacket s1 2
  | some out =>
    let s2 := countEvent s1 10 [(1, p), (3, out)] (packetLength k)
    if !portCarries s1 out k.ptype then dropPacket s1 2
    else if out = 6 then emit s2 (.packet 6 k)
    else modPort s2 out (fun x => { x with egress := x.egress ++ [(p, { k with vc := hopVc s1 6 out k })] })

/-- What a packet is before it has its counter and tag. -/
structure Draft where
  ptype : Nat
  gen : Nat
  dst : Nat
  body : Bytes
  payload : Bytes := []
  first : Bool := true
  last : Bool := true
deriving DecidableEq, Repr

/-- Seal a packet of partition `p` under a link key of its own with the next value of its counter (R262, R273). -/
def sealPacket (s : State) (p : Nat) (e : LinkKey) (d : Draft) : State × Packet :=
  let k : Packet :=
    { ptype := d.ptype, vc := 2 * packetClass d.ptype, gen := d.gen, dst := d.dst, src := ownAddr s p, first := d.first,
      last := d.last, enc := true, body := fit 16 d.body, keyId := e.keyId, ctr := e.ctr, payload := d.payload, tag := [] }
  let r := gcmSeal e.key (packetNonce k) (packetAad k) k.payload
  let s1 := modLinkKey s p e.keyId (fun x => { x with ctr := x.ctr + 1 })
  (modUsage s1 p (fun u => { u with keystreamBytes := satAdd u.keystreamBytes k.payload.length }),
    { k with payload := r.1, tag := r.2 })

/-- Send a packet under a link key; none where the key is missing, torn or may send no more (R273, R276). -/
def sendSealed (s : State) (p keyId : Nat) (d : Draft) : Option State :=
  match linkKey s p keyId with
  | none => none
  | some e =>
    if e.torn || !keySends s p keyId then none
    else
      let r := sealPacket s p e d
      some (sendPacket r.1 p r.2)

/-- Send a packet where it may be sent, and nothing otherwise. -/
def trySend (s : State) (p keyId : Nat) (d : Draft) : State := (sendSealed s p keyId d).getD s

/-! Arrival -/

/-- The partition's state lets packets reach it: a FREE or DESTROYING destination drops them (R304). -/
def takesPackets (m : PtnState) : Bool := m != .free && m != .destroying

/-- The enc bit that a packet type requires (Table 10.6). -/
def encRequired (ptype : Nat) : Bool := ptype == 3 || decide (8 ≤ ptype)

/-- Bits [51:48] of the Shawl address in a packet's body are zero (R280). -/
def addressRsvd (k : Packet) : Bool := field k.body 6 1 % 16 == 0

/-- The reserved body bytes of a packet type are zero (Table 10.6, R260), in a Shawl address bits [51:48] among them (R280). -/
def bodyOk (k : Packet) : Bool :=
  let zero := fun off n => (slice k.body off n).all (fun b => b == 0#8)
  match k.ptype with
  | 3 => zero 5 11
  | 4 => zero 6 2
  | 5 => zero 14 2
  | 8 => field k.body 11 1 / 32 == 0 && addressRsvd k
  | 9 => field k.body 11 1 / 64 == 0 && addressRsvd k
  | 10 => field k.body 11 1 / 32 == 0 && field k.body 11 1 % 4 == 0 && addressRsvd k
  | 11 => field k.body 11 1 / 32 == 0 && addressRsvd k
  | 12 => zero 1 1 && zero 7 1 && zero 12 4
  | _ => true

/-- The receiver's checks of a packet's form (R260). -/
def packetFormOk (k : Packet) (ptype : Nat) : Bool :=
  k.ptype == ptype && k.enc == encRequired ptype && bodyOk k && decide (k.payload.length ≤ 4096)

/-- The plain text of a sealed packet under its destination's key, which must not be torn (R262, R276). -/
def openPacket (s : State) (k : Packet) : Option Bytes :=
  match linkKey s (addrPart k.dst) k.keyId with
  | none => none
  | some e => if e.torn then none else gcmOpen e.key (packetNonce k) (packetAad k) k.payload k.tag

/-- The key of a packet is torn at its destination: all but JOB_TEAR are dropped (R276). -/
def keyTorn (s : State) (k : Packet) : Bool :=
  ((linkKey s (addrPart k.dst) k.keyId).map (fun e => e.torn)).getD false

/-- The packet that waits in the pool for this arrival, where a FEC block has brought it in. -/
def pooled (s : State) (a : Arrival) (key : Nat) : Option (Nat × Instant × Packet) :=
  if a.port.val = 6 then none else (queueOf s key).packets.find? (fun e => e.1 == 7 && e.2.2 == a.pkt)

/-- A packet has arrived: time has passed, and it has its ingress stamp, of now or of its block, and its order on the port
(R229, R238). -/
def stampArrival (s : State) (a : Arrival) : State × Instant :=
  let s1 := elapse s a.dt
  let st : Instant :=
    match pooled s1 a (queueKey a.port.val a.pkt.vc (addrPart a.pkt.dst)) with
    | some e => e.2.1
    | none => portStamp s1 a.port.val a.frac
  if a.port.val = 6 then (s1, st)
  else (modPort s1 a.port.val (fun x => { x with lastHead := some (st, x.order), order := x.order + 1 }), st)

/-- What became of a packet that arrived: where it went on its way or was dropped, the state; where a partition of this
module receives it, also its stamp, its plain payload and the pool queue that held it. -/
inductive Admitted where
  | gone (s : State)
  | here (s : State) (stamp : Instant) (payload : Bytes) (key : Option Nat)
deriving DecidableEq, Repr

/-- The queue that holds a packet's cells on arrival (R269): of the partition it is addressed to in this module, else transit. -/
def arrivalKey (s : State) (port : Nat) (k : Packet) : Nat :=
  queueKey port k.vc (if addrModule k.dst = ownId s then addrPart k.dst else 16)

/-- A packet that came in by a port is dropped and counted: the cells it took leave its queue again (R270). -/
def dropArrival (s : State) (port : Nat) (k : Packet) (j : Nat) : State :=
  let s1 := dropPacket s j
  if port < 6 then leaveQueue (enterQueue s1 (arrivalKey s1 port k) (packetCells k)) (arrivalKey s1 port k) (packetCells k) else s1

/-- A packet bound for another module waits in its transit queue for its output port (R264, R270). -/
def transit (s : State) (a : Arrival) (stamp : Instant) : State :=
  match routeOf s a.pkt.dst with
  | none => dropArrival s a.port.val a.pkt 2
  | some out =>
    let key := queueKey a.port.val a.pkt.vc 16
    let k := { a.pkt with vc := hopVc s a.port.val out a.pkt }
    let s := countEvent s 12 [(3, out)] (packetLength k)
    if out = 6 ∨ !portCarries s out k.ptype then dropArrival s a.port.val a.pkt 2
    else if a.port.val = 6 then modPort s out (fun x => { x with egress := x.egress ++ [(16, k)] })
    else modQueue (enterQueue s key (packetCells a.pkt)) key (fun q => { q with packets := q.packets ++ [(out, stamp, k)] })

/-- A packet that waits in the pool is dropped and counted, and its cells leave. -/
def dropPooled (s : State) (a : Arrival) (j : Nat) : State :=
  let key := queueKey a.port.val a.pkt.vc (addrPart a.pkt.dst)
  match pooled s a key with
  | some e => leaveQueue (modQueue (dropPacket s j) key (fun q => { q with packets := q.packets.erase e })) key (packetCells a.pkt)
  | none => dropPacket s j

/-- A packet at the head of an ingress queue is taken (R260, R262, R269, R304): the tests of its form, its destination's
state, its key and its tag, each with its counter of dropped packets. -/
def arrivalVerdict (s : State) (a : Arrival) (ptype : Nat) : Admitted :=
  let r := stampArrival s a
  let s1 := r.1
  let p := addrPart a.pkt.dst
  let edge := decide (a.port.val < 6) && (portOf s1 a.port.val).edge
  let held := (pooled s1 a (queueKey a.port.val a.pkt.vc p)).isSome
  let drop := fun (j : Nat) => if held then dropPooled s1 a j else dropArrival s1 a.port.val a.pkt j
  if !packetFormOk a.pkt ptype || (edge && !(ptype == 4 || ptype == 5)) then .gone (drop 0)
  else if routeOf s1 a.pkt.dst ≠ some 6 then .gone (transit s1 a r.2)
  else if !takesPackets (part s1 p).mode then .gone (drop 4)
  else
    let s2 := countEvent (modUsage s1 p (fun u => { u with shawlRx := satAdd u.shawlRx (packetLength a.pkt) })) 11
      [(1, p), (3, a.port.val)] (packetLength a.pkt)
    let key := queueKey a.port.val a.pkt.vc p
    let entered :=
      if a.port.val = 6 then (s2, r.2)
      else
        match pooled s2 a key with
        | some e => (modQueue s2 key (fun q => { q with packets := q.packets.erase e }), e.2.1)
        | none => (enterQueue s2 key (packetCells a.pkt), r.2)
    let place := if a.port.val = 6 then none else some key
    let leave := fun (t : State) => match place with | some q => leaveQueue t q (packetCells a.pkt) | none => t
    if a.pkt.enc = false then .here entered.1 entered.2 a.pkt.payload place
    else if keyTorn entered.1 a.pkt then .gone (leave entered.1)
    else
      match openPacket entered.1 a.pkt with
      | none => .gone (leave (dropPacket entered.1 1))
      | some t =>
        .here (modUsage entered.1 p (fun u => { u with keystreamBytes := satAdd u.keystreamBytes t.length })) entered.2 t place

/-- A packet that has been used leaves the pool. -/
def releaseCells (s : State) (key : Option Nat) (k : Packet) : State :=
  match key with
  | some q => leaveQueue s q (packetCells k)
  | none => s

/-- Put a packet of a draft without a seal on its way (SUBMIT_REPLY: R261). -/
def sendPlain (s : State) (p : Nat) (d : Draft) : State :=
  sendPacket s p
    { ptype := d.ptype, vc := 2 * packetClass d.ptype, gen := d.gen, dst := d.dst, src := ownAddr s p, first := d.first,
      last := d.last, enc := false, body := fit 16 d.body, keyId := 0, ctr := 0, payload := d.payload, tag := [] }

end Sys2Proof.Machine
end

