-- ==== Sys2Proof/Machine/Clock.lean ====
section
/-! DEFINITION. Federation time: its sources, estimates and states (R230 to R236), the FT_ registers (R413), and the clock's
tick. -/

namespace Sys2Proof.Machine

/-- The present instant in 1/256 ns. -/
def total256 (s : State) : Nat := 256 * s.time.ns + s.time.frac

/-- Change the time state; a change sends the operator interrupt (Table 18.3). -/
def setTimeMode (s : State) (m : TimeMode) : State :=
  if s.time.mode = m then s else raiseIrq { s with time := { s.time with mode := m } } 32

/-- FT_CTRL.src (R230). -/
def timeSource (s : State) : Nat := regField s .ftCtrl 1 0

/-! A step of the counter (R235, R246)

The timers of Table 9.5 count FT and are never stretched or shortened but by the slew: what they count from moves with the counter. -/

/-- A whole-nanosecond instant moved by `d` 1/256 ns. -/
def shiftNs (d : Int) (t : Nat) : Nat := (((256 * t : Nat) : Int) + d).toNat / 256

/-- A stamp moved by `d` 1/256 ns. -/
def shiftStamp (d : Int) (i : Instant) : Instant :=
  let t := (((256 * i.ns + i.frac : Nat) : Int) + d).toNat
  ⟨t / 256, t % 256⟩

/-- The timers of a descriptor in flight: the pass that each engine runs, and an entropy stall. -/
def shiftFlight (d : Int) (f : InFlight) : InFlight :=
  { f with jobs := f.jobs.map (fun j => { j with startFt := shiftNs d j.startFt }), stallFrom := f.stallFrom.map (shiftNs d) }

/-- The timers of a queue pair: response timeouts and the gap of a message. -/
def shiftQp (d : Int) (q : Qp) : Qp :=
  { q with sent := q.sent.map (fun e => { e with left := e.left.map (shiftNs d) }), msg := q.msg.map (shiftStamp d) }

/-- The timers of a partition: interrupt moderation, contexts on the way, queue pairs, a hint. -/
def shiftPart (d : Int) (x : Partition) : Partition :=
  { x with
    cq := x.cq.map (fun e => (e.1, { e.2 with timerFrom := e.2.timerFrom.map (shiftNs d) })),
    qps := x.qps.map (shiftQp d),
    misses := x.misses.map (fun m => { m with stamp := shiftStamp d m.stamp }),
    hint := x.hint.map (fun g =>
      { g with rampAt := shiftNs d g.rampAt, phaseAt := shiftNs d g.phaseAt, endAt := shiftNs d g.endAt }) }

/-- The stamps that the time exchange of a port has taken, and its timer. -/
def shiftNeighbour (d : Int) (n : Neighbour) : Neighbour :=
  { n with usedAt := shiftNs d n.usedAt, arrived := shiftStamp d n.arrived, departed := shiftStamp d n.departed }

/-- The timers of the links. -/
def shiftShawl (d : Int) (w : Shawl) : Shawl :=
  { w with
    ports := w.ports.map (fun e => (e.1, { e.2 with replay := e.2.replay.map (fun b => (b.1, shiftNs d b.2.1, b.2.2)) })),
    tears := w.tears.map (fun e => { e with expiry := shiftNs d e.expiry }) }

/-- Every timer that runs moves with the counter. -/
def shiftTimers (s : State) (d : Int) : State :=
  { s with
    parts := s.parts.map (fun e => (e.1, shiftPart d e.2)),
    inflight := s.inflight.map (shiftFlight d),
    shawl := shiftShawl d s.shawl,
    time := { s.time with neighbours := s.time.neighbours.map (fun e => (e.1, shiftNeighbour d e.2)) },
    entropy := { s.entropy with
      sources := s.entropy.sources.map (fun e => (e.1, { e.2 with failedAt := shiftNs d e.2.failedAt })),
      readyFrom := shiftNs d s.entropy.readyFrom },
    collar := { s.collar with arm := s.collar.arm.map (fun a => (a.1, shiftNs d a.2)) },
    faults := { s.faults with starts := s.faults.starts.map (shiftNs d) },
    power := { s.power with
      droopClearAt := shiftNs d s.power.droopClearAt, rampFrom := (s.power.rampFrom.1, shiftNs d s.power.rampFrom.2),
      lastTick := shiftNs d s.power.lastTick } }

/-- Step the counter by `d` 1/256 ns: only on leaving UNSET (R235). What counts from before moves with it, throttle times among them
(R246, R367). -/
def stepCounter (s : State) (d : Int) : State :=
  let t := (((total256 s : Nat) + d).toNat) % 2 ^ 72
  let s1 := shiftTimers s d
  { s1 with time := { s1.time with ns := t / 256, sub := 0, frac := t % 256, slew := 0, slewDebt := 0 } }

/-- The counter is to be corrected by `d` 1/256 ns, by slewing (R235); the frequency correction that estimates teach is a free value of
at most 50 ppm (R236; log entry 115). -/
def slewBy (s : State) (d : Int) : State :=
  spendFree { s with time := { s.time with slew := d, slewDebt := 0, learned := (freeNat s 2 % 257 : Nat) - 128 } }

/-- An estimate of the counter's error in 1/256 ns, from FT_PPS (source 0) or a port of the Shawl (source 1) whose neighbour
announces `hops` (Table 9.2). -/
def useEstimate (s : State) (source port hops : Nat) (err : Int) : State :=
  let near := decide (err.natAbs ≤ 4 * 256)
  let s1 := if s.time.mode = .unset then stepCounter s (-err) else slewBy s (-err)
  let run := if s.time.mode = .acquiring ∧ near then s.time.goodRun + 1 else 0
  let s2 := { s1 with time := { s1.time with source := source, port := port, lastUsable := now s1, goodRun := run } }
  let s3 :=
    match s.time.mode with
    | .acquiring => if 16 ≤ run then setTimeMode s2 .locked else s2
    | .locked => s2
    | _ => setTimeMode s2 .acquiring
  { s3 with time := { s3.time with hops := if s3.time.mode = .locked then (if source = 0 then 0 else hops + 1) else 31 } }

/-- The counter no longer follows a source: it runs on at the learned frequency, with no correction outstanding (R236). -/
def loseSource (s : State) (m : TimeMode) : State :=
  let s1 := setTimeMode s m
  { s1 with time := { s1.time with hops := 31, source := 3, port := 7, goodRun := 0, slew := 0, slewDebt := 0 } }

/-! FT_PPS (R231) -/

/-- An edge that is not used is counted, saturating (Table 18.4). -/
def rejectEdge (s : State) : State :=
  { s with time := { s.time with
      rejected := min (2 ^ 32 - 1) (s.time.rejected + 1), bound := none, lastEdge := some (total256 s) } }

/-- The nanoseconds without a usable edge that end LOCKED (R236). -/
def ppsLossNs : Nat := 1500000000

/-- LOCKED depends on FT_PPS: the counter follows it, or it is the only source (R230, R236). -/
def needsPps (s : State) : Bool := s.time.mode == .locked && (s.time.source == 0 || timeSource s == 0)

/-- No usable edge for 1.5 s (Table 9.2). -/
def ppsLost (s : State) : State :=
  if needsPps s then loseSource (reach s (s.time.lastUsable + ppsLossNs)) .holdover else s

/-- A rising edge of FT_PPS (R230, R231). One that comes when the loss timer has expired comes after the expiry (R244). -/
def ppsEdge (s : State) (dt frac : Nat) : State :=
  let s0 := elapseTo s dt frac
  let s1 := if needsPps s0 && decide (s0.time.lastUsable + ppsLossNs ≤ now s0) then ppsLost s0 else s0
  if timeSource s1 = 1 then s1
  else
    match s1.time.bound with
    | none => rejectEdge s1
    | some tod =>
      let err : Int := (total256 s1 : Nat) - (256 * tod : Nat)
      let far := decide (256 * 100000 < err.natAbs)
      if (s1.time.mode = .locked ∨ s1.time.mode = .holdover) ∧ far then rejectEdge s1
      else
        let s2 := useEstimate s1 0 7 0 err
        { s2 with time := { s2.time with bound := none, lastEdge := some (total256 s2) } }

/-- A write of FT_TOD_NEXT binds to the next edge from 100 to 900 ms after the one before, or where there is none (R231). -/
def writeTod (s : State) (v : Nat) : State :=
  let s1 := setReg s .ftTodNext v
  let binds :=
    match s.time.lastEdge with
    | none => true
    | some e => decide (256 * 100000000 + e ≤ total256 s) && decide (total256 s ≤ 256 * 900000000 + e)
  { s1 with time := { s1.time with bound := if binds then some v else none } }

/-- A write of FT_CTRL.src: 3 is ignored; after a change there is no preceding edge (R230, R231). -/
def writeSource (s : State) (v : Nat) : State :=
  let n := v % 4
  if n = 3 ∨ n = timeSource s then s
  else
    let s1 := setReg s .ftCtrl n
    { s1 with time := { s1.time with lastEdge := none } }

/-- FT_SNAP_CTRL.go captures the counter, with the fraction measured then (R229, R413). -/
def snapTime (s : State) (frac : Nat) : State :=
  { s with time := { s.time with snapNs := now s, snapFrac := frac % 256, snapQuality := s.time.mode.code } }

/-! Shawl transfer (R232, R233) -/

/-- A port's neighbour. -/
def neighbour (s : State) (i : Nat) : Neighbour := tabGet {} s.time.neighbours i

/-- Change a port's neighbour. -/
def modNeighbour (s : State) (i : Nat) (f : Neighbour → Neighbour) : State :=
  { s with time := { s.time with neighbours := tabMap {} s.time.neighbours i f } }

/-- Time may be taken from a port's neighbour: LOCKED, at most 23 hops, not following this module, and heard within 10 ms
(R233, R236). -/
def eligible (s : State) (i : Nat) : Bool :=
  let n := neighbour s i
  (portOf s i).mode.carries && n.locked && decide (n.hops ≤ 23) && !n.follows && decide (0 < n.exchanges) &&
    decide (now s < n.usedAt + 10000000)

/-- The rank of a neighbour as one number: hops first, then module id (R233). -/
def rankOf (n : Neighbour) : Nat := 4096 * n.hops + n.moduleId

/-- The least ranked of the eligible ports in a list. -/
def bestPort (s : State) : List Nat → Option Nat
  | [] => none
  | i :: is =>
    match bestPort s is with
    | none => if eligible s i then some i else none
    | some j => if eligible s i && decide (rankOf (neighbour s i) ≤ rankOf (neighbour s j)) then some i else some j

/-- The port whose neighbour is to be followed. -/
def chosenPort (s : State) : Option Nat := bestPort s (List.range 6)

/-- FT_PPS is valid: the source in use, with a usable edge within 1.5 s (R230). -/
def ppsValid (s : State) : Bool := s.time.source == 0 && decide (now s < s.time.lastUsable + ppsLossNs)

/-- Shawl transfer is in use (R230). -/
def followsShawl (s : State) : Bool := timeSource s == 1 || (timeSource s == 2 && !ppsValid s)

/-- A time stamp as an integer of 1/256 ns. -/
def stamp256 (t : Instant) : Int := ((256 * t.ns + t.frac : Nat) : Int)

/-- A signed number of 16 bits. -/
def signed16 (n : Nat) : Int := if n < 32768 then (n : Int) else (n : Int) - 65536

/-- This module's offset from the sender of a TIME message, with the port's calibrated asymmetry (R232): t1 and t4 are the sender's,
t2 and t3 are what this module stamped at its arrival and departure before. -/
def exchangeOffset (s : State) (i : Nat) (m : TimeMsg) : Int :=
  let n := neighbour s i
  ((stamp256 n.arrived - stamp256 m.t1) - (stamp256 m.t4 - stamp256 n.departed) - signed16 (regField s (.ftAsym i) 15 0)) / 2

/-- The nanoseconds without a valid exchange that end LOCKED (R236). -/
def exchangeLossNs : Nat := 10000000

/-- The chosen neighbour has been silent for 10 ms (Table 9.2): another eligible one is followed, or the counter holds over. -/
def shawlTimeLost (s : State) : State :=
  if s.time.mode = .locked ∧ s.time.source = 1 then
    let s1 := reach s ((neighbour s s.time.port).usedAt + exchangeLossNs)
    match bestPort s1 ((List.range 6).filter (fun i => i != s.time.port)) with
    | some j => { s1 with time := { s1.time with port := j, hops := (neighbour s1 j).hops + 1 } }
    | none => loseSource s1 .holdover
  else s

/-- An exchange at or after the loss timer's expiry comes after it (R244). -/
def beforeExchange (s : State) : State :=
  if s.time.mode = .locked ∧ s.time.source = 1 ∧ (neighbour s s.time.port).usedAt + exchangeLossNs ≤ now s then shawlTimeLost s else s

/-- A TIME message completes a valid exchange (R233, R236): messages have gone both ways before, and its sender is LOCKED, within 23
hops and does not follow this module. -/
def exchangeValid (n : Neighbour) (m : TimeMsg) : Bool :=
  n.heard && n.sent && m.quality == 2 && decide (m.hops ≤ 23) && !m.follows

/-- A TIME message is received (R232, R233); its arrival is stamped with the quality and the port's order then (R229, R239). -/
def timeArrives (s0 : State) (i : Nat) (m : TimeMsg) : State :=
  if (portOf s0 i).mode.carries = false then s0
  else
    let s := beforeExchange s0
    let valid := exchangeValid (neighbour s i) m
    let err := exchangeOffset s i m
    let s1 := modNeighbour s i (fun n =>
      { n with hops := m.hops, moduleId := m.moduleId, locked := m.quality == 2, follows := m.follows,
               exchanges := if valid then n.exchanges + 1 else n.exchanges, usedAt := if valid then now s else n.usedAt,
               arrived := m.arrival, arrivedQuality := s.time.mode.code, arrivedOrder := (portOf s i).order, heard := true })
    let s2 := modPort s1 i (fun x => { x with order := x.order + 1 })
    if valid ∧ followsShawl s2 ∧ chosenPort s2 = some i then useEstimate s2 1 i m.hops err else s2

/-- A stamp of 16 bytes with the quality of its own time (Table 9.1). -/
def stampAs (i : Instant) (ingress quality order : Nat) : Bytes :=
  natLe 8 i.ns ++ natLe 1 i.frac ++ natLe 1 ingress ++ natLe 1 quality ++ [0#8] ++ natLe 4 order

/-- The 64 bytes of a TIME message (Tables 10.5, 10.6): the stamps of the partner's last message and of this module's answer to the one
before. A departure has no place in an ingress point's order: 0. -/
def timeBytes (s : State) (i seq : Nat) : Bytes :=
  let n := neighbour s i
  let k : Packet :=
    { ptype := 2, vc := 0, gen := 0, dst := (portOf s i).partnerId, src := ownId s, first := false, last := false, enc := false,
      body := natLe 1 s.time.hops ++ natLe 1 s.time.mode.code ++ zeros 2 ++ natLe 4 seq ++ zeros 8, keyId := 0, ctr := 0,
      payload := stampAs n.arrived i n.arrivedQuality n.arrivedOrder ++ stampAs n.departed i n.departedQuality 0, tag := [] }
  fit 64 (packetBytes k)

/-- The millisecond of a port has come: a TIME message goes to its control units (R232, R254). Its departure is stamped when it goes
out, with the fraction `frac` that is measured then (log entry 113). -/
def timeTimer (s : State) (i frac : Nat) : State :=
  if (portOf s i).mode.carries = false then s
  else
    let seq := tabGet 0 s.time.timeSeq i
    let s1 := { s with time := { s.time with timeSeq := tabSet s.time.timeSeq i ((seq + 1) % 2 ^ 32) } }
    modPort s1 i (fun x => { x with timeOut := x.timeOut ++ [(frac % 256, timeBytes s i seq)] })

/-- The estimated error of holdover exceeds 1 µs (Table 9.2). The spec gives the entry's class and code no value. -/
def holdoverEnds (s : State) : State :=
  if s.time.mode = .holdover then
    spendFree (logFault (loseSource s .freerun) { cls := freeNat s 1, code := leNat ((freeBytes s 2).drop 1) })
  else s

/-! The tick -/

/-- One nanosecond passes: what an empty queue of commands leaves the block to do (log entry 3). -/
def tick (s : State) : State := elapse s 1

end Sys2Proof.Machine
end

