-- ==== Sys2Proof/Machine/Modular.lean ====
section
/-! DEFINITION. Modular arithmetic on numbers: powers, inverses, the primality test of R36 and R132, the negacyclic
transform of R137 and its inverse, and the fast base conversion of R143. -/

namespace Sys2Proof.Machine

/-- b^e mod q for exponents of at most `k` bits. -/
def powModFrom : Nat → Nat → Nat → Nat → Nat
  | 0, _, _, q => 1 % q
  | k + 1, b, e, q =>
    let r := powModFrom k (b * b % q) (e / 2) q
    if e % 2 = 1 then b * r % q else r

/-- b^e mod q for exponents below 2^128. -/
def powMod (b e q : Nat) : Nat :=
  powModFrom 128 (b % q) e q

/-- The inverse modulo a prime. -/
def invMod (a q : Nat) : Nat :=
  powMod a (q - 2) q

/-- The power of two in a number and its odd part. -/
def oddPart : Nat → Nat → Nat → Nat × Nat
  | 0, r, d => (r, d)
  | k + 1, r, d => if d % 2 = 0 then oddPart k (r + 1) (d / 2) else (r, d)

/-- One of x, x², x⁴, ... up to r of them is n - 1. -/
def reachesMinusOne (n : Nat) : Nat → Nat → Bool
  | 0, _ => false
  | r + 1, x => x == n - 1 || reachesMinusOne n r (x * x % n)

/-- One round of the Miller-Rabin test. -/
def strongProbable (n a : Nat) : Bool :=
  let rd := oddPart 64 0 (n - 1)
  let x := powMod a rd.2 n
  x == 1 || reachesMinusOne n rd.1 x

/-- The bases that make the test exact below 2^64. -/
def primeBases : List Nat := [2, 3, 5, 7, 11, 13, 17, 19, 23, 29, 31, 37]

/-- Primality, exact for all 64-bit numbers (R36, R132). -/
def isPrime64 (n : Nat) : Bool :=
  if n < 2 then false
  else if primeBases.contains n then true
  else if primeBases.any (fun p => n % p == 0) then false
  else primeBases.all (strongProbable n)

/-- The transform of 2^n coefficients modulo X^(2^n) - ψ^e, where `size` is the whole transform's size: the outputs
stand in bit-reversed order of the evaluation points (R137). -/
def nttRec (q psi size : Nat) : Nat → Nat → List Nat → List Nat
  | 0, _, a => a
  | n + 1, e, a =>
    let lo := a.take (2 ^ n)
    let hi := (a.drop (2 ^ n)).map (fun x => powMod psi (e / 2) q * x % q)
    nttRec q psi size n (e / 2) (List.zipWith (fun x y => (x + y) % q) lo hi) ++
      nttRec q psi size n (e / 2 + size) (List.zipWith (fun x y => (x + (q - y)) % q) lo hi)

/-- The negacyclic transform of 2^n coefficients (R137). -/
def nttFwd (q psi n : Nat) (a : List Nat) : List Nat :=
  nttRec q psi (2 ^ n) n (2 ^ n) (a.map (fun x => x % q))

/-- The inverse of `nttRec`. -/
def inttRec (q psi size : Nat) : Nat → Nat → List Nat → List Nat
  | 0, _, a => a
  | n + 1, e, a =>
    let l := inttRec q psi size n (e / 2) (a.take (2 ^ n))
    let r := inttRec q psi size n (e / 2 + size) (a.drop (2 ^ n))
    let half := (q + 1) / 2
    let w := invMod (powMod psi (e / 2) q) q * half % q
    List.zipWith (fun x y => (x + y) * half % q) l r ++ List.zipWith (fun x y => (x + (q - y)) * w % q) l r

/-- The inverse transform, scaled (R137). -/
def nttInv (q psi n : Nat) (a : List Nat) : List Nat :=
  inttRec q psi (2 ^ n) n (2 ^ n) (a.map (fun x => x % q))

/-- The v_i of R143 for one coefficient. -/
def convDigits (qs xs : List Nat) : List Nat :=
  let bigQ := qs.foldl (fun a b => a * b) 1
  List.zipWith (fun q x => x % q * invMod (bigQ / q % q) q % q) qs xs

/-- One coefficient in the target basis (R143). -/
def convCoefficient (qs ps xs : List Nat) : List Nat :=
  let bigQ := qs.foldl (fun a b => a * b) 1
  let vs := convDigits qs xs
  ps.map (fun p => (List.zipWith (fun q v => v * (bigQ / q % p)) qs vs).sum % p)

/-- A list of rows as a list of columns of `n` entries. -/
def columns (n : Nat) (rows : List (List Nat)) : List (List Nat) :=
  let arrays := rows.map List.toArray
  (List.range n).map (fun i => arrays.map (fun r => r.getD i 0))

/-- Base conversion of limbs of `n` coefficients (R143). -/
def baseConvert (n : Nat) (qs ps : List Nat) (limbs : List (List Nat)) : List (List Nat) :=
  let out := (columns n limbs).map (convCoefficient qs ps)
  columns ps.length out

/-- A residue as the signed number of least magnitude (R55 step 1). -/
def centred (q a : Nat) : Int :=
  if a ≤ (q - 1) / 2 then (a : Int) else (a : Int) - q

/-- A word of `w` bits as a signed number. -/
def signed (w a : Nat) : Int :=
  if a < 2 ^ (w - 1) then (a : Int) else (a : Int) - 2 ^ w

/-- A signed number as a word of `w` bits. -/
def toWord (w : Nat) (x : Int) : Nat :=
  (x % (2 ^ w : Nat)).toNat

/-- A number clamped to a range. -/
def clampInt (lo hi x : Int) : Int :=
  if x < lo then lo else if hi < x then hi else x

/-- A signed number clamped to `w` bits, and whether it was (R73). -/
def clampWord (w : Nat) (x : Int) : Int × Bool :=
  let y := clampInt (-(2 ^ (w - 1) : Nat)) ((2 ^ (w - 1) : Nat) - 1) x
  (y, y != x)

/-- A quotient by a positive number, to nearest with ties to even. -/
def divEven (x : Int) (d : Nat) : Int :=
  let f := x / (d : Int)
  let r := x - f * d
  if 2 * r < d then f
  else if (d : Int) < 2 * r then f + 1
  else if f % 2 = 0 then f else f + 1

end Sys2Proof.Machine
end

