-- ==== Sys2Proof/Machine/Float.lean ====
section
/-! DEFINITION. Binary floating point by exact arithmetic and one rounding: binary64 for the fused steps (R57, R85, R184)
and the output formats binary32, bfloat16 and binary16, to nearest with ties to even. -/

namespace Sys2Proof.Machine

/-- A finite floating-point value: sign and magnitude m × 2^e. -/
structure Fl where
  neg : Bool
  m : Nat
  e : Int
deriving DecidableEq, Repr

/-- A format: precision, least exponent of the last place, and greatest exponent of the last place. -/
structure FlFormat where
  prec : Nat
  emin : Int
  emax : Int
deriving DecidableEq, Repr

/-- binary64. -/
def binary64 : FlFormat := ⟨53, -1074, 971⟩
/-- binary32. -/
def binary32 : FlFormat := ⟨24, -149, 104⟩
/-- bfloat16. -/
def bfloat16 : FlFormat := ⟨8, -133, 120⟩
/-- binary16. -/
def binary16 : FlFormat := ⟨11, -24, 5⟩

/-- Zero. -/
def flZero : Fl := ⟨false, 0, 0⟩

/-- 2^k as a natural number for k that is not negative. -/
def pow2 (k : Int) : Nat := 2 ^ k.toNat

/-- num/den rounded to an integer, ties to even. -/
def roundNat (num den : Nat) : Nat :=
  let q := num / den
  let r := num % den
  if 2 * r < den then q else if den < 2 * r then q + 1 else if q % 2 = 0 then q else q + 1

/-- num/den × 2^(-e) as a fraction. -/
def scaled (num den : Nat) (e : Int) : Nat × Nat :=
  if 0 ≤ e then (num, den * pow2 e) else (num * pow2 (-e), den)

/-- The fraction num/den rounded to a format, to nearest with ties to even (exponents above the format's are kept). -/
def roundFrac (f : FlFormat) (neg : Bool) (num den : Nat) : Fl :=
  if num = 0 then ⟨neg, 0, f.emin⟩
  else
    let e0 : Int := (Nat.log2 num : Int) - (Nat.log2 den : Int) - (f.prec : Int)
    let fr0 := scaled num den e0
    let big := decide (2 ^ f.prec ≤ fr0.1 / fr0.2)
    let e1 := if big then e0 + 1 else e0
    let e := if e1 < f.emin then f.emin else e1
    let fr := scaled num den e
    let q := roundNat fr.1 fr.2
    if q = 2 ^ f.prec then ⟨neg, 2 ^ (f.prec - 1), e + 1⟩ else ⟨neg, q, e⟩

/-- A value as a fraction. -/
def Fl.frac (x : Fl) : Nat × Nat :=
  if 0 ≤ x.e then (x.m * pow2 x.e, 1) else (x.m, pow2 (-x.e))

/-- A value rounded to a format. -/
def Fl.round (f : FlFormat) (x : Fl) : Fl :=
  roundFrac f x.neg x.frac.1 x.frac.2

/-- An integer times 2^e. -/
def flInt (n : Int) (e : Int) : Fl := ⟨decide (n < 0), n.natAbs, e⟩

/-- A value as an integer at a smaller exponent. -/
def Fl.at (x : Fl) (e : Int) : Int :=
  let n : Nat := x.m * pow2 (x.e - e)
  if x.neg then -(n : Int) else n

/-- The exact sum; a zero is negative only where both are. -/
def Fl.add (x y : Fl) : Fl :=
  let e := min x.e y.e
  let n := x.at e + y.at e
  if n = 0 then ⟨x.neg && y.neg, 0, e⟩ else flInt n e

/-- The exact product. -/
def Fl.mul (x y : Fl) : Fl := ⟨x.neg != y.neg, x.m * y.m, x.e + y.e⟩

/-- The value with its sign changed. -/
def Fl.negate (x : Fl) : Fl := ⟨!x.neg, x.m, x.e⟩

/-- x < y. -/
def Fl.lt (x y : Fl) : Bool :=
  let e := min x.e y.e
  decide (x.at e < y.at e)

/-- fma in binary64 with one rounding (R57). -/
def fma64 (x s c : Fl) : Fl := ((x.mul s).add c).round binary64

/-- The square root of num/den rounded to binary64. -/
def sqrtFrac (num den : Nat) : Fl :=
  if num = 0 then flZero
  else
    let k : Nat := 128 + (if Nat.log2 num < Nat.log2 den then Nat.log2 den - Nat.log2 num else 0)
    let n := num * 4 ^ k / den
    let r := Nat.sqrt n
    let sticky := if r * r = n ∧ num * 4 ^ k % den = 0 then 0 else 1
    roundFrac binary64 false (2 * r + sticky) (2 * 2 ^ k)

/-- A quotient in binary64. -/
def div64 (x y : Fl) : Fl :=
  roundFrac binary64 (x.neg != y.neg) (x.frac.1 * y.frac.2) (x.frac.2 * y.frac.1)

/-- The value of an encoding with the given format and exponent width. -/
def flDecode (f : FlFormat) (ebits v : Nat) : Fl :=
  let frac := v % 2 ^ (f.prec - 1)
  let ex := v / 2 ^ (f.prec - 1) % 2 ^ ebits
  let neg := v / 2 ^ (f.prec - 1 + ebits) % 2 == 1
  if ex = 0 then ⟨neg, frac, f.emin⟩ else ⟨neg, 2 ^ (f.prec - 1) + frac, f.emin + (ex : Int) - 1⟩

/-- The encoding of a value already rounded to a format; beyond the largest finite value it is that value (R57). -/
def flEncode (f : FlFormat) (ebits : Nat) (x : Fl) : Nat :=
  let sign := if x.neg then 2 ^ (f.prec - 1 + ebits) else 0
  if x.m = 0 then sign
  else if f.emax < x.e then sign + (2 ^ ebits - 2) * 2 ^ (f.prec - 1) + (2 ^ (f.prec - 1) - 1)
  else if x.m < 2 ^ (f.prec - 1) then sign + x.m
  else sign + (x.e - f.emin + 1).toNat * 2 ^ (f.prec - 1) + (x.m - 2 ^ (f.prec - 1))

/-- The value of a binary32 word. -/
def ofF32 (v : Nat) : Fl := flDecode binary32 8 v
/-- The value of a binary64 word. -/
def ofF64 (v : Nat) : Fl := flDecode binary64 11 v
/-- A binary64 value as its word. -/
def toF64 (x : Fl) : Nat := flEncode binary64 11 x

/-- A value rounded to an integer, ties to even. -/
def Fl.toInt (x : Fl) : Int :=
  let n := roundNat x.frac.1 x.frac.2
  if x.neg then -(n : Int) else n

/-- A value toward zero as an integer. -/
def Fl.trunc (x : Fl) : Int :=
  let n := x.frac.1 / x.frac.2
  if x.neg then -(n : Int) else n

/-- Whether a value is zero. -/
def Fl.isZero (x : Fl) : Bool := x.m == 0

/-- Step 3 of R57: 0 none, 1 clamp, 2 sign, 3 soft-threshold. -/
def activate (kind : Nat) (theta t : Fl) : Fl :=
  match kind with
  | 1 =>
    let lo := if t.lt theta.negate then theta.negate else t
    if theta.lt lo then theta else lo
  | 2 => if t.isZero then flZero else ⟨t.neg, 1, 0⟩
  | 3 =>
    if t.isZero then flZero
    else
      let d := ({ t with neg := false }.add theta.negate).round binary64
      if d.neg || d.isZero then ⟨t.neg, 0, 0⟩ else ⟨t.neg, d.m, d.e⟩
  | _ => t

/-- Bytes of an output element (Table 2.2's out_format; 0 is the native integer of `native` bytes). -/
def formatBytes (fmt native : Nat) : Nat :=
  match fmt with
  | 0 => native
  | 1 => 4
  | 2 => 2
  | 3 => 2
  | _ => 1

/-- Step 4 of R57 for formats 1 to 4. -/
def convertOut (fmt : Nat) (x : Fl) : Nat :=
  match fmt with
  | 1 => flEncode binary32 8 (x.round binary32)
  | 2 => flEncode bfloat16 8 (x.round bfloat16)
  | 3 => flEncode binary16 5 (x.round binary16)
  | _ => toWord 8 (clampInt (-128) 127 x.toInt)

/-- The parameters of the fused steps (R57). -/
structure Fused where
  opt : Nat
  scale : Nat
  bias : Nat
  activation : Nat
  theta : Nat
  fmt : Nat
deriving DecidableEq, Repr

/-- Steps 2 to 4 of R57 on x. -/
def fusedFrom (k : Fused) (x : Fl) : Nat :=
  let s := if k.opt.testBit 0 then ofF32 k.scale else ⟨false, 1, 0⟩
  let c := if k.opt.testBit 1 then ofF32 k.bias else flZero
  let t := fma64 x s c
  let a := if k.opt.testBit 2 then activate k.activation (ofF32 k.theta) t else t
  convertOut k.fmt a

/-- The fused steps on the integer y with f fraction bits (R57 step 1 rounds to binary64). -/
def fusedInt (k : Fused) (f : Nat) (y : Int) : Nat :=
  fusedFrom k ((flInt y (-(f : Int))).round binary64)

end Sys2Proof.Machine
end

