-- ==== Sys2Proof/Machine/Flags.lean ====
section
/-! DEFINITION. Completion status codes and their precedence (Table 8.14, R80), verdict codes (Table 2.3), and the
result fields of Table 3.5. -/

namespace Sys2Proof.Machine

/-- OK. -/
def stOk : Status := 0x00
/-- OK_REPLAYED. -/
def stReplayed : Status := 0x01
/-- OK_SATURATED. -/
def stSaturated : Status := 0x02
/-- LEVEL_EXHAUSTED. -/
def stLevel : Status := 0x10
/-- HEADROOM_EXHAUSTED. -/
def stHeadroom : Status := 0x11
/-- KEY_TAG_MISMATCH. -/
def stKeyTag : Status := 0x12
/-- LATE. -/
def stLate : Status := 0x20
/-- WINDOW_NOT_OPEN. -/
def stNotOpen : Status := 0x21
/-- SPACE_REVOKED. -/
def stRevoked : Status := 0x30
/-- ACCESS_DENIED. -/
def stAccess : Status := 0x31
/-- RETRY_LATER. -/
def stRetry : Status := 0x32
/-- ENTROPY_UNAVAILABLE. -/
def stEntropy : Status := 0x40
/-- ENGINE_LOST. -/
def stEngineLost : Status := 0x50
/-- RANK_UNAVAILABLE. -/
def stRank : Status := 0x51
/-- POLICY_DENIED. -/
def stPolicy : Status := 0x60
/-- JOB_TORN. -/
def stTorn : Status := 0x70
/-- PARTITION_RESET. -/
def stReset : Status := 0x71
/-- STALE_GENERATION. -/
def stStale : Status := 0x7F

/-- The status of a descriptor that has committed what it could: an error first, then OK_SATURATED, then OK_REPLAYED,
then OK (R80). -/
def precedence (error : Option Status) (saturated : Bool) (replays : Nat) : Status :=
  match error with
  | some e => e
  | none => if saturated then stSaturated else if replays ≠ 0 then stReplayed else stOk

/-- A counted result (Table 3.5): its fields keep their low 24, 16 and 24 bits (R80 gives the widths; log entry 7). -/
def resultWord (low mid high : Nat) : Nat :=
  low % 2 ^ 24 + mid % 2 ^ 16 * 2 ^ 24 + high % 2 ^ 24 * 2 ^ 40

/-- The result of the opcodes that report accepted and not accepted submissions (R221, R181, R183). -/
def verdictWord (accepted other : Nat) : Nat :=
  accepted % 2 ^ 24 + other % 2 ^ 24 * 2 ^ 24

/-- The code of a verdict (Table 2.3). -/
def Verdict.code : Verdict → Nat
  | .accepted => 0x0
  | .malformed => 0x1
  | .wrongRound => 0x2
  | .notOpen => 0x3
  | .late => 0x4
  | .authFail => 0x5
  | .notSurvivor => 0x6
  | .wrongKind => 0x7
  | .duplicate => 0x8
  | .capacity => 0x9

/-- The reply status a Shawl submission draws for its verdict (R40). -/
def Verdict.reply : Verdict → Status
  | .accepted => stOk
  | .notOpen => stNotOpen
  | .late => stLate
  | _ => stPolicy

end Sys2Proof.Machine
end

