-- ==== Sys2Proof/Machine/Flight.lean ====
section
/-! DEFINITION. Descriptors in flight: how one is entered at dispatch, waits, is finished, and how an engine's passes
are assigned, ended and committed (R76, R78, R79, R100, R222 to R224). -/

namespace Sys2Proof.Machine

/-- Descriptors of partition `p` that have been dispatched and have not completed (R223). -/
def flying (s : State) (p : Nat) : List InFlight :=
  s.inflight.filter (fun f => f.h.p.val == p)

/-- The descriptor in flight with a number. -/
def flight (s : State) (id : Nat) : Option InFlight :=
  s.inflight.find? (fun f => f.id == id)

/-- Change a descriptor in flight. -/
def modFlight (s : State) (id : Nat) (f : InFlight → InFlight) : State :=
  { s with inflight := s.inflight.map (fun x => if x.id = id then f x else x) }

/-- The kind of stored key that an operator works with: RELEASE, PARTIAL_DEC, MODEL_UNSEAL and MODEL_SEAL (Table 13.9). -/
def keyKind (op : Nat) : Option Nat :=
  if op = 0x59 then some 1 else if op = 0x49 then some 5 else if op = 0x73 ∨ op = 0x74 then some 2 else none

/-- The key of a kind in a partition's store, where it is held, not dying and not expired (R332, R333). -/
def storedKey (s : State) (p kind : Nat) : Option StoredKey :=
  (part s p).keys.find? (fun k => k.kind == kind && !k.dying && expiryOk s k.expiry)

/-- The key that a descriptor works with: the one held at its dispatch, which it keeps when that is replaced or marked dying (R331,
R332); else the one held now. -/
def keyFor (s : State) (id p kind : Nat) : Option StoredKey :=
  match (flight s id).bind (fun f => f.key) with
  | some k => if k.kind = kind then some k else none
  | none => storedKey s p kind

/-- Enter a descriptor in flight with the units it reserves (R76) and the key it works with (R331). -/
def enter (s : State) (h : DescHdr) (b : DescBody) (claims : List (Nat × Nat)) : State :=
  let f : InFlight :=
    { id := s.nextId, h := h, body := b, opcode := opcodeOf b, dispatchFt := instant s, phase := .running,
      reserved := claims, jobs := [], committed := 0, replays := 0, skipped := 0,
      saturated := false, lost := false, touched := [], stallFrom := none, faultRef := 0, result := 0, verdicts := [], done := none,
      key := (keyKind (opcodeOf b)).bind (storedKey s h.p.val) }
  { s with inflight := s.inflight ++ [f], nextId := s.nextId + 1 }

/-- The last effect of a descriptor is done: its status, result and instant are fixed and its units released (R224). -/
def finishRef (s : State) (id : Nat) (st : Status) (result ref : Nat) : State :=
  modFlight s id (fun f =>
    { f with done := some { status := st, result := result, faultRef := ref, ft := now s }, jobs := [], reserved := [],
             phase := .running })

/-- A descriptor completes without a fault behind its status. -/
def finish (s : State) (id : Nat) (st : Status) (result : Nat) : State :=
  finishRef s id st result 0

/-- A descriptor is refused: nothing is written and the result is 0 (R225). -/
def refuse (s : State) (id : Nat) (st : Status) : State :=
  finish s id st 0

/-- Put a descriptor in flight into a waiting phase. -/
def waitIn (s : State) (id : Nat) (ph : Phase) : State :=
  modFlight s id (fun f => { f with phase := ph })

/-- Units reserved by descriptors of the partition that are still at work (R76). -/
def reservedBy (s : State) (p : Nat) : List (Nat × Nat) :=
  ((flying s p).filter (fun f => f.done.isNone)).flatMap (fun f => f.reserved)

/-- The unit ranges of claims. -/
def claimRanges (cs : List Claim) : List (Nat × Nat) := cs.map (fun c => (c.first, c.units))

/-- Some range of a list meets some range of another. -/
def rangesMeet (a b : List (Nat × Nat)) : Bool := a.any (fun c => b.any (fun r => overlaps c.1 c.2 r.1 r.2))

/-- Two lists hold the same ranges. -/
def sameRanges (a b : List (Nat × Nat)) : Bool := a.all b.contains && b.all a.contains

/-- The ranges that waiting ring heads of a partition name (R76). -/
def headNames (s : State) (p : Nat) : List (Nat × Nat) :=
  (part s p).sq.flatMap (fun e =>
    match e.2.buffer.head? with
    | some f => if f.waited then f.names else []
    | none => [])

/-- The result word of an operator that counts its tiles (Table 3.5). -/
def flightResult (f : InFlight) : Nat :=
  resultWord f.committed f.replays f.skipped

/-- The status of a descriptor whose work is done: that of a refused piece (R76), ENGINE_LOST where passes were lost, else by what
its tiles show (R80, R142). -/
def doneStatus (f : InFlight) : Status :=
  precedence (if f.lost then some stEngineLost else f.failed) f.saturated f.replays

/-- Engine `i` mod the engines present of the Sleeve that holds unit `u`, in logical order (R79). -/
def engineFor (s : State) (p u i : Nat) : Nat :=
  let v := physUnit (part s p) u / 24576
  let es := enginesOf s v
  es.getD (i % es.length) (8 * v)

/-- The Sleeve that holds unit `u` has an engine. -/
def engineAt (s : State) (p u : Nat) : Bool :=
  !(enginesOf s (physUnit (part s p) u / 24576)).isEmpty

/-- A job that writes a whole tile. -/
def tileJob (s : State) (engine unit : Nat) (bs : Bytes) (m : TileMeta) : TileJob :=
  { engine := engine, startFt := now s, addr := pocketAddr unit, bytes := bs, tmeta := some m, mark := m.mark,
    model := m.model, passDone := false, replays := 0, maskNext := none, coord := none, summands := [], clipOf := none }

/-- A job that writes a byte range. -/
def byteJob (s : State) (engine addr : Nat) (bs : Bytes) (mark model : Bool) : TileJob :=
  { engine := engine, startFt := now s, addr := addr, bytes := bs, tmeta := none, mark := mark,
    model := model, passDone := false, replays := 0, maskNext := none, coord := none, summands := [], clipOf := none }

/-- Give a descriptor its passes. With none it is done at once. -/
def setJobs (s : State) (id : Nat) (jobs : List TileJob) (st : Status) (result : Nat) : State :=
  if jobs.isEmpty then finish s id st result
  else modFlight s id (fun f => { f with jobs := jobs, phase := .running })

/-- Write the bytes of one target of a pass: a whole tile with its metadata, or a byte range. -/
def writeTarget (p : Nat) (j : TileJob) (s : State) (t : Nat × Bytes × Option TileMeta) : State :=
  match t.2.2 with
  | some m =>
    if inPocket t.1 ∧ t.2.1.length = 512 * m.width then
      setUnitMetas (pwrite s p t.1 t.2.1) p (t.1 % 2 ^ 60 / 8192) m (tileUnits m.width)
    else writeMarked s p t.1 t.2.1 m j.mark j.model
  | none => writeMarked s p t.1 t.2.1 (plainMeta 16) j.mark j.model

/-- The targets of a pass: its own, and those that commit with it (R145). -/
def TileJob.targets (j : TileJob) : List (Nat × Bytes × Option TileMeta) :=
  (j.addr, j.bytes, j.tmeta) :: j.more.map (fun t => (t.1, t.2.1, some t.2.2))

/-- Write what a pass has computed (R78: the whole tile with its metadata, at once). -/
def writeJob (s : State) (p : Nat) (j : TileJob) : State :=
  j.targets.foldl (writeTarget p j) s

end Sys2Proof.Machine
end

