-- ==== Sys2Proof/Machine/Engines.lean ====
section
/-! DEFINITION. Engine slots and resident ranges: the slot map of R19 and R149, what a slot keeps in its Cuff (R130),
the constant sets beside them (R128, R134, R144), and the passes an engine has in flight and begins. -/

namespace Sys2Proof.Machine

/-- Change an engine slot. -/
def modSlot (s : State) (n : Nat) (f : Slot → Slot) : State :=
  { s with slots := tabMap {} s.slots n f }

/-- The usable slots of a Sleeve, ascending: those neither retired nor fused off (R149). -/
def usableSlots (s : State) (v : Nat) : List Nat :=
  ((List.range 9).map (fun e => 9 * v + e)).filter (fun n => !(slotOf s n).retired && !(slotOf s n).fusedOff)

/-- The slots of a Sleeve that take logical numbers when the map is built (R149). -/
def mappedSlots (s : State) (v : Nat) : List Nat :=
  let u := usableSlots s v
  if u.length = 9 then u.filter (fun n => n != 9 * v + (sleeveOf s v).fusedSpare) else u

/-- The operating point a slot at rest takes: that of the committed step once slots may switch, else the one in effect (R361). -/
def signalledOp (s : State) : Nat :=
  match s.power.step with
  | some t => if s.power.stepUp && !s.power.railsSettled then s.power.current else t
  | none => s.power.current

/-- A slot at rest takes a logical number and the operating point signalled. -/
def giveNumber (s : State) (n l : Nat) : State :=
  modSlot s n (fun x => { x with logical := some l, resident := [], consts := [], op := signalledOp s, pendingOp := none })

/-- Give the slots of a list their logical numbers from `l` on. -/
def giveNumbers (s : State) : List Nat → Nat → State
  | [], _ => s
  | n :: ns, l => giveNumbers (giveNumber s n l) ns (l + 1)

/-- Rebuild one Sleeve's slot map from the fuses; an unusable Sleeve has no engine (R149). -/
def mapSleeve (s : State) (v : Nat) : State :=
  let bare := (List.range 9).foldl (fun t e =>
    modSlot t (9 * v + e) (fun x => { x with logical := none, resident := [], consts := [] })) s
  if sleeveUsable s v then giveNumbers bare (mappedSlots bare v) (8 * v) else bare

/-- Rebuild the slot map of every Sleeve (R149, R383). -/
def mapAll (s : State) : State :=
  (List.range 16).foldl mapSleeve s

/-- The free spare of a Sleeve: a usable slot that holds no logical number (R19, R149). -/
def freeSpare (s : State) (v : Nat) : Option Nat :=
  (usableSlots s v).find? (fun n => (slotOf s n).logical.isNone)

/-- Drop the resident ranges that a write to units of partition `p` touches (R130). -/
def dropResident (s : State) (p first units : Nat) : State :=
  if s.slots.any (fun e => e.2.resident.any (fun r => r.p == p && overlaps r.first r.units first units)) then
    { s with slots := s.slots.map (fun e =>
        (e.1, { e.2 with resident := e.2.resident.filter (fun r => !(r.p == p && overlaps r.first r.units first units)) })) }
  else s

/-- Drop the resident ranges that a write of bytes touches. -/
def dropResidentAt (s : State) (p a len : Nat) : State :=
  if inPocket a ∧ len ≠ 0 then
    dropResident s p (a % 2 ^ 60 / 8192) ((a % 2 ^ 60 + len + 8191) / 8192 - a % 2 ^ 60 / 8192)
  else s

/-- A range is resident in an engine's Cuff. -/
def isResident (s : State) (l p first units : Nat) : Bool :=
  match slotOfEngine s l with
  | none => false
  | some n => (slotOf s n).resident.any (fun r => r.p == p && r.first == first && r.units == units)

/-- Keep the newest resident ranges: at most four, at most 64 units of 8 KiB together (R130). -/
def trimResident : Nat → Nat → List Resident → List Resident
  | 0, _, _ => []
  | _, _, [] => []
  | n + 1, room, r :: rs => if r.units ≤ room then r :: trimResident n (room - r.units) rs else []

/-- Use or make a resident range: it becomes the most recent one (R130). -/
def keepResident (s : State) (l p first units : Nat) : State :=
  match slotOfEngine s l with
  | none => s
  | some n =>
    modSlot s n (fun x =>
      let rest := x.resident.filter (fun r => !(r.p == p && r.first == first && r.units == units))
      { x with resident := trimResident 4 64 ({ p := p, first := first, units := units } :: rest) })

/-- The first job of a list that meets a test is changed. -/
def modFirst (test : TileJob → Bool) (f : TileJob → TileJob) : List TileJob → List TileJob
  | [] => []
  | j :: js => if test j then f j :: js else j :: modFirst test f js

/-- The list without the first job that meets a test. -/
def dropFirst (test : TileJob → Bool) : List TileJob → List TileJob
  | [] => []
  | j :: js => if test j then js else j :: dropFirst test js

/-! Groups and plans (R79) -/

/-- Groups of engines in the Sleeve of a unit (R79). -/
def groupsAt (s : State) (p u split : Nat) : Nat :=
  (enginesOf s (physUnit (part s p) u / 24576)).length / split

/-- The first engine of the group that runs the j-th tile of a range in its Sleeve (R79). -/
def groupEngine (s : State) (p u split j : Nat) : Nat :=
  let v := physUnit (part s p) u / 24576
  (enginesOf s v).getD (j % groupsAt s p u split * split) (8 * v)

/-- The other engines of the group that an engine leads (R79). -/
def groupRest (s : State) (l split : Nat) : List Nat :=
  (((enginesOf s (l / 8)).dropWhile (fun k => k != l)).drop 1).take (split - 1)

/-- How many tiles of a range before tile `i` lie in the same Sleeve (R79). -/
def rankInSleeve (s : State) (p first units i : Nat) : Nat :=
  let v := physUnit (part s p) (first + i * units) / 24576
  ((List.range i).filter (fun k => physUnit (part s p) (first + k * units) / 24576 == v)).length

/-- Each tile of a range with its unit and engine (R79). -/
def tilePlan (s : State) (p first units count split : Nat) : List (Nat × Nat × Nat) :=
  (List.range count).map (fun i =>
    let u := first + i * units
    (i, u, groupEngine s p u split (rankInSleeve s p first units i)))

/-- Every Sleeve of a range has enough engines for its split (R79). -/
def planOk (s : State) (p first units count split : Nat) : Bool :=
  (List.range count).all (fun i => decide (1 ≤ groupsAt s p (first + i * units) split))

/-! Constant sets (R128, R134, R144) -/

/-- The room a constant set takes, in KiB (R134, R144). -/
def ConstSet.size : ConstSet → Nat
  | .twiddle _ _ _ => 16
  | .basis ins outs => (8 * ins.length * (outs.length + 2) + 1023) / 1024

/-- The most recent constant sets that a room holds: the least recently used go first. -/
def trimConsts : Nat → List ConstSet → List ConstSet
  | _, [] => []
  | room, c :: cs => if c.size ≤ room then c :: trimConsts (room - c.size) cs else []

/-- Use or derive a constant set: it becomes the most recent one of the 64 KiB region (R128, R134). -/
def useConst (cs : List ConstSet) (c : ConstSet) : List ConstSet :=
  trimConsts 64 (c :: cs.filter (fun d => d != c))

/-- The operators of the chapter of R130: NTT, INTT, PMUL and BASECONV. -/
def polyOp (op : Nat) : Bool := op == 0x40 || op == 0x41 || op == 0x42 || op == 0x48

/-- The operators whose passes take the accumulator sets, which are the constant region (R128); which ciphertext operators do is
the model's choice: all (log entry 89). -/
def accumulatorOp (op : Nat) : Bool :=
  [0x20, 0x21, 0x22, 0x25, 0x30, 0x43, 0x44, 0x45, 0x46, 0x47, 0x49].contains op

/-- What a beginning pass does to the Cuff of engine `l` (R128, R130, R134): a pass of the polynomial chapter uses its resident
sources and constant sets; one of another chapter ends what is resident, and the constants where it takes the accumulator sets. -/
def loadPass (f : InFlight) (j : TileJob) (s : State) (l : Nat) : State :=
  match slotOfEngine s l with
  | none => s
  | some n =>
    if polyOp f.opcode then
      let s1 := modSlot s n (fun x => { x with consts := j.consts.foldl useConst x.consts })
      (j.sources.filter (fun r => isResident s l f.h.p.val r.1 r.2)).foldl (fun t r => keepResident t l f.h.p.val r.1 r.2) s1
    else
      modSlot s n (fun x => { x with resident := [], consts := if accumulatorOp f.opcode then [] else x.consts })

/-! Passes (R78, R125) -/

/-- An engine takes part in a pass: as the first of its group or as another (R79). -/
def TileJob.uses (j : TileJob) (l : Nat) : Bool := j.engine == l || j.group.contains l

/-- The engines of a pass. -/
def TileJob.engines (j : TileJob) : List Nat := j.engine :: j.group

/-- A chained descriptor that has not taken all of its pieces (R76). -/
def InFlight.chaining (f : InFlight) : Bool :=
  match f.phase with
  | .chained _ => f.done.isNone
  | _ => false

/-- The descriptors whose passes may run, in dispatch order: none behind a chained one of its partition that has still pieces to
take, since what reaches an engine runs in the order of R76 (R125; log entry 90). -/
def runnable (held : List Nat) : List InFlight → List InFlight
  | [] => []
  | f :: fs =>
    if held.contains f.h.p.val then runnable held fs
    else f :: runnable (if f.chaining then f.h.p.val :: held else held) fs

/-- The first pass an engine takes part in that meets a test, with its descriptor. -/
def firstPass (s : State) (l : Nat) (test : TileJob → Bool) : Option (InFlight × TileJob) :=
  (runnable [] s.inflight).findSome? (fun f =>
    if f.done.isSome then none else (f.jobs.find? (fun j => j.uses l && test j)).map (fun j => (f, j)))

/-- The pass at hand of engine `k` is this one. -/
def atPass (s : State) (f : InFlight) (j : TileJob) (k : Nat) : Bool :=
  match firstPass s k (fun i => !i.passDone) with
  | some (g, i) => g.id == f.id && i.engine == j.engine && i.addr == j.addr
  | none => false

/-- The first pass of an engine's that has not ended is changed in its descriptor. -/
def modPass (s : State) (id l : Nat) (f : TileJob → TileJob) : State :=
  modFlight s id (fun g => { g with jobs := modFirst (fun j => j.engine == l && !j.passDone) f g.jobs })

/-- A Sleeve issues work in the present interval of 100 µs (R310). -/
def noteIssue (s : State) (v : Nat) : State :=
  { s with power := { s.power with issued := if s.power.issued.contains v then s.power.issued else v :: s.power.issued } }

/-- The next pass of an engine begins at the current instant, once every engine of its group has come to it (R78, R79, R130). -/
def beginNext (s : State) (l : Nat) : State :=
  match firstPass s l (fun j => !j.passDone) with
  | none => s
  | some (f, j) =>
    if j.engines.all (atPass s f j) then
      let hits := if polyOp f.opcode then (j.sources.filter (fun r => isResident s j.engine f.h.p.val r.1 r.2)).length else 0
      let s1 := j.engines.foldl (loadPass f j) s
      let s2 := modPass (modFlight s1 f.id (fun g => { g with skipped := g.skipped + hits })) f.id j.engine
        (fun j => { j with startFt := now s })
      noteIssue s2 (j.engine / 8)
    else s

/-- Engines of a list that run no pass. -/
def idleEngines (s : State) (ls : List Nat) : List Nat :=
  ls.eraseDups.filter (fun l => (firstPass s l (fun j => !j.passDone)).isNone)

/-- Give a descriptor its passes on engines; an idle engine begins its first at once. -/
def startJobs (s : State) (id : Nat) (jobs : List TileJob) (result : Nat) : State :=
  (idleEngines s (jobs.flatMap TileJob.engines)).foldl beginNext
    (setJobs (modFlight s id (fun f => { f with result := result })) id jobs stOk result)

end Sys2Proof.Machine
end

