-- ==== Sys2Proof/Machine/Poly.lean ====
section
/-! DEFINITION. The polynomial operators NTT, INTT, PMUL and BASECONV (R125 to R146). -/

namespace Sys2Proof.Machine

/-- The element width of a lane configuration (Table 5.2). -/
def laneBits (mode : Nat) : Nat :=
  match mode with
  | 0 => 64
  | 1 => 32
  | _ => 16

/-- A modulus record's q is admitted in a configuration (Table 5.2); 0 stands for 2^w. -/
def laneModulus (mode q : Nat) : Bool :=
  q == 0 || (q % 2 == 1 &&
    (match mode with
     | 0 => decide (2 ^ 16 < q) && decide (q < 2 ^ 62)
     | 1 => decide (2 ^ 8 < q) && decide (q < 2 ^ 30)
     | _ => decide (2 ^ 8 < q) && decide (q < 2 ^ 14)))

/-- The modulus a record stands for. -/
def modulusOf (mode q : Nat) : Nat :=
  if q = 0 then 2 ^ laneBits mode else q

/-- `n` modulus records as pairs of q and ψ (Table 5.4). -/
def modRecords (s : State) (p a n : Nat) : List (Nat × Nat) :=
  (pieces 16 n (pread s p a (16 * n))).map (fun b => (field b 0 8, field b 8 8))

/-- An array in DRAM or the host-visible window (R131). -/
def bulkFits (x : Partition) (a len : Nat) : Bool :=
  addrFits x a len 1 && !inPocket a

/-- The units of a limb (R135). -/
def limbUnits (elems bits : Nat) : Nat := elems * (bits / 8) / 8192

/-- The first unit of limb `i` (R135). -/
def limbUnit (base stride u i : Nat) : Nat :=
  tileIx base + i * (if stride = 0 then u else stride)

/-- The claims of an operand's limbs: each begins at a multiple of its units (R135). -/
def limbClaims (base stride u count : Nat) : List Claim :=
  (List.range count).map (fun i => { first := limbUnit base stride u i, units := u, align := u })

/-- Claims do not overlap one another (R135). -/
def apart (a b : List Claim) : Bool :=
  a.all (fun x => b.all (fun y => !overlaps x.first x.units y.first y.units))

/-- The limbs of one operand do not overlap (R135). -/
def limbsApart (stride u count : Nat) : Bool :=
  count == 1 || stride == 0 || decide (u ≤ stride)

/-- The engine that runs a limb at unit `u0` of `u` units; one of 1 MiB runs where its first 512 KiB would (R135). -/
def limbEngine (s : State) (p u0 u : Nat) : Nat :=
  let ph := physUnit (part s p) u0
  let es := enginesOf s (ph / 24576)
  es.getD (ph % 24576 / min u 64 % es.length) (8 * (ph / 24576))

/-- The elements of `n` bytes-wide words of a limb. -/
def limbElems (s : State) (p u0 count bits : Nat) : List Nat :=
  elems (bits / 8) (pread s p (pocketAddr u0) (count * (bits / 8)))

/-- The metadata of a transform's or product's output (R138, R140). -/
def modMeta (bits q : Nat) (marks : Bool × Bool) : TileMeta :=
  { state := .plain, width := bits, mode := if q = 0 then .mod2k else .modq, modulus := q, mark := marks.1,
    model := marks.2 }

/-- Table 5.5's operand ranges (R133). -/
def nttRange (o : NttOps) : Bool :=
  decide (1 ≤ o.limbCount) && decide (o.limbCount ≤ 64) && decide (12 ≤ o.log2N) && decide (o.log2N ≤ 17) &&
    decide (o.laneMode ≤ 1)

/-- The units of a transform's limb. -/
def nttUnits (o : NttOps) : Nat := limbUnits (2 ^ o.log2N) (laneBits o.laneMode)

/-- The tiles a transform names. -/
def nttClaims (o : NttOps) : List Claim :=
  limbClaims o.src o.limbStride (nttUnits o) o.limbCount ++ limbClaims o.dst o.limbStride (nttUnits o) o.limbCount

/-- The address checks of a transform: limbs apart, no overlap of source and destination, records readable (R135, R136). -/
def nttAddress (x : Partition) (o : NttOps) : Bool :=
  limbsApart o.limbStride (nttUnits o) o.limbCount &&
    apart (limbClaims o.src o.limbStride (nttUnits o) o.limbCount)
      (limbClaims o.dst o.limbStride (nttUnits o) o.limbCount) &&
    bulkFits x o.modAddr (16 * o.limbCount)

/-- A transform's modulus record is admitted (R132, R133). -/
def nttRecordOk (o : NttOps) (r : Nat × Nat) : Bool :=
  r.1 != 0 && laneModulus o.laneMode r.1 && isPrime64 r.1 && r.1 % (2 * 2 ^ o.log2N) == 1 && decide (0 < r.2) &&
    decide (r.2 < r.1) && powMod r.2 (2 ^ o.log2N) r.1 == r.1 - 1

/-- Every Sleeve that holds one of the units has an engine. -/
def enginesThere (s : State) (p : Nat) (us : List Nat) : Bool :=
  us.all (engineAt s p)

/-- Every Sleeve that holds a unit of a limb has an engine. -/
def limbThere (s : State) (p u0 u : Nat) : Bool := enginesThere s p ((List.range u).map (fun i => u0 + i))

/-- NTT and INTT (R137, R138): `f` is the transform for (q, ψ, n). A limb is one pass, on the engine that its source chooses: which
operand's placement counts is the model's choice (R135; log entry 98). Its output commits whole, and a replay starts from the
source (R136, R149). -/
def startTransform (f : Nat → Nat → Nat → List Nat → List Nat) (s : State) (id : Nat) (h : DescHdr) (o : NttOps) :
    State :=
  let p := h.p.val
  let recs := modRecords s p o.modAddr o.limbCount
  let u := nttUnits o
  let bits := laneBits o.laneMode
  if !recs.all (nttRecordOk o) then refuse s id stPolicy
  else if !(List.range o.limbCount).all (fun i => limbThere s p (limbUnit o.src o.limbStride u i) u) then refuse s id stEngineLost
  else
    let jobs := (List.range o.limbCount).map (fun i =>
      let src := limbUnit o.src o.limbStride u i
      let dst := limbUnit o.dst o.limbStride u i
      let r := recs.getD i (0, 0)
      let out := f r.1 r.2 o.log2N (limbElems s p src (2 ^ o.log2N) bits)
      let m := modMeta bits r.1 (marksOf s p (pocketAddr src) (8192 * u))
      { tileJob s (limbEngine s p src u) dst (packElems (bits / 8) out) m with
          item := i, sources := [(src, u)], hold := if bvBit o.flags 0 then some (dst, u) else none,
          consts := [.twiddle o.laneMode r.1 r.2] })
    startJobs s id jobs 0

/-- NTT (R137). -/
def startNtt (s : State) (id : Nat) (h : DescHdr) (o : NttOps) : State :=
  startTransform nttFwd s id h o

/-- INTT (R137). -/
def startIntt (s : State) (id : Nat) (h : DescHdr) (o : NttOps) : State :=
  startTransform nttInv s id h o

/-- The sub-operations of PMUL (Table 5.6). -/
inductive PmulSub where
  | mul
  | mac
  | smul
  | fxmul
deriving DecidableEq, Repr

/-- Table 5.7's operand ranges (R140). -/
def pmulRange (k : PmulSub) (o : PmulOps) : Bool :=
  decide (4096 ≤ o.elemCount) && decide (o.elemCount ≤ 2 ^ 28) && o.elemCount % 4096 == 0 &&
    decide (1 ≤ o.limbCount) && decide (o.limbCount ≤ 64) && (decide (o.elemCount ≤ 2 ^ 17) || o.limbCount == 1) &&
    (match k with
     | .fxmul => o.laneMode == 1 && decide (o.fracBits ≤ 24) && o.scalar == 0
     | .smul => decide (o.laneMode ≤ 2) && o.fracBits == 0
     | _ => decide (o.laneMode ≤ 2) && o.fracBits == 0 && o.scalar == 0)

/-- The units of a product's limb. -/
def pmulUnits (o : PmulOps) : Nat := limbUnits o.elemCount (laneBits o.laneMode)

/-- The tiles a PMUL names. -/
def pmulClaims (k : PmulSub) (o : PmulOps) : List Claim :=
  limbClaims o.a o.limbStride (pmulUnits o) o.limbCount ++
    (if k = .smul then [] else limbClaims o.b o.limbStride (pmulUnits o) o.limbCount) ++
    limbClaims o.dst o.limbStride (pmulUnits o) o.limbCount

/-- The address checks of a PMUL (R135, R136). The spec says that it may write in place and not what another overlap does: the model
computes from the values at dispatch (log entry 9). -/
def pmulAddress (x : Partition) (k : PmulSub) (o : PmulOps) : Bool :=
  limbsApart o.limbStride (pmulUnits o) o.limbCount &&
    (k == .fxmul || bulkFits x o.modAddr (16 * o.limbCount))

/-- One element of a product modulo `q` (Table 5.6). -/
def pmulElem (k : PmulSub) (q scalar a b d : Nat) : Nat :=
  match k with
  | .mac => (d + a * b) % q
  | .smul => a * (scalar % q) % q
  | _ => a * b % q

/-- One element of FXMUL and whether it was clamped (R140). -/
def fxmulElem (f a b : Nat) : Nat × Bool :=
  let c := clampWord 32 (divEven (signed 32 a * signed 32 b) (2 ^ f))
  (toWord 32 c.1, c.2)

/-- Element by element over three lists. -/
def zip3 {α : Type} (f : Nat → Nat → Nat → α) : List Nat → List Nat → List Nat → List α
  | a :: as, b :: bs, d :: ds => f a b d :: zip3 f as bs ds
  | _, _, _ => []

/-- The output of a run of PMUL elements: its bytes and metadata. In place, and in MAC, the tile keeps its saturated field (R73). -/
def pmulRun (s : State) (p : Nat) (k : PmulSub) (o : PmulOps) (q a b d count : Nat) : Bytes × TileMeta :=
  let bits := laneBits o.laneMode
  let n := count * (bits / 8)
  let xs := limbElems s p a count bits
  let ys := if k = .smul then xs else limbElems s p b count bits
  let zs := limbElems s p d count bits
  let ma := marksOf s p (pocketAddr a) n
  let mb := if k = .smul then (false, false) else marksOf s p (pocketAddr b) n
  let md := if k = .mac then marksOf s p (pocketAddr d) n else (false, false)
  let marks := (ma.1 || mb.1 || md.1, ma.2 || mb.2 || md.2)
  let kept := (k == .mac || d == a || (k != .smul && d == b)) && (unitMeta s p d).saturated
  if k = .fxmul then
    let rs := List.zipWith (fxmulElem o.fracBits) xs ys
    (packElems 4 (rs.map (fun r => r.1)),
      { state := .plain, width := 32, mode := .sats, saturated := rs.any (fun r => r.2) || kept, mark := marks.1, model := marks.2 })
  else
    (packElems (bits / 8) (zip3 (pmulElem k (modulusOf o.laneMode q) o.scalar) xs ys zs),
      { modMeta bits q marks with saturated := kept })

/-- The pass of tile `t` of limb `i` of a PMUL, each tile a pass of its own, so that a replay starts at the first uncommitted one
(R136, R149; log entry 98). A limb of up to 2^16 elements runs on one engine, a longer one tile by tile (R135); the destination's
placement counts, as the model chooses (log entry 98). -/
def pmulJob (s : State) (p : Nat) (k : PmulSub) (o : PmulOps) (recs : List (Nat × Nat)) (i t : Nat) : TileJob :=
  let u := pmulUnits o
  let tu := limbUnits 4096 (laneBits o.laneMode)
  let n := o.elemCount / 4096
  let limb := fun base => limbUnit base o.limbStride u i
  let at_ := fun base => limb base + t * tu
  let long := decide (2 ^ 16 < o.elemCount)
  let out := pmulRun s p k o (recs.getD i (0, 0)).1 (at_ o.a) (at_ o.b) (at_ o.dst) 4096
  let e := if long then groupEngine s p (at_ o.dst) 1 (rankInSleeve s p (limb o.dst) tu t) else limbEngine s p (limb o.dst) u
  let named := [o.a] ++ (if k = .smul then [] else [o.b]) ++ (if k = .mac then [o.dst] else [])
  { tileJob s e (at_ o.dst) out.1 out.2 with
      item := if long then i * n + t else i, last := long || t + 1 == n,
      sources := if long then named.map (fun b => (at_ b, tu)) else if t = 0 then named.map (fun b => (limb b, u)) else [],
      hold := if !bvBit o.flags 0 then none else if long then some (at_ o.dst, tu)
              else if t + 1 = n then some (limb o.dst, u) else none }

/-- PMUL (R140). -/
def startPmul (k : PmulSub) (s : State) (id : Nat) (h : DescHdr) (o : PmulOps) : State :=
  let p := h.p.val
  let u := pmulUnits o
  let recs := if k = .fxmul then List.replicate o.limbCount (0, 0) else modRecords s p o.modAddr o.limbCount
  if !(k == .fxmul || recs.all (fun r => laneModulus o.laneMode r.1 && r.2 == 0)) then refuse s id stPolicy
  else if !(List.range o.limbCount).all (fun i => limbThere s p (limbUnit o.dst o.limbStride u i) u) then refuse s id stEngineLost
  else
    startJobs s id ((List.range o.limbCount).flatMap (fun i =>
      (List.range (o.elemCount / 4096)).map (pmulJob s p k o recs i))) 0

/-- Table 5.8's operand ranges. -/
def baseRange (o : BaseOps) : Bool :=
  decide (1 ≤ o.inLimbs) && decide (o.inLimbs ≤ 64) && decide (1 ≤ o.outLimbs) && decide (o.outLimbs ≤ 64) &&
    decide (12 ≤ o.log2N) && decide (o.log2N ≤ 17)

/-- The units of a BASECONV limb. -/
def baseUnits (o : BaseOps) : Nat := limbUnits (2 ^ o.log2N) 64

/-- The tiles a BASECONV names. -/
def baseClaims (o : BaseOps) : List Claim :=
  limbClaims o.src o.limbStride (baseUnits o) o.inLimbs ++ limbClaims o.dst o.limbStride (baseUnits o) o.outLimbs

/-- The address checks of a BASECONV (R135, R136). -/
def baseAddress (x : Partition) (o : BaseOps) : Bool :=
  limbsApart o.limbStride (baseUnits o) (max o.inLimbs o.outLimbs) &&
    apart (limbClaims o.src o.limbStride (baseUnits o) o.inLimbs)
      (limbClaims o.dst o.limbStride (baseUnits o) o.outLimbs) &&
    bulkFits x o.inMod (16 * o.inLimbs) && bulkFits x o.outMod (16 * o.outLimbs)

/-- Every unit of a claim lies in the Pocket of Sleeve `v`. -/
def inSleeve (x : Partition) (v : Nat) (c : Claim) : Bool :=
  (List.range c.units).all (fun i => physUnit x (c.first + i) / 24576 == v)

/-- The pass of coefficient tile `c` of a BASECONV: its targets commit together, after the tile has passed the check residue
(R144, R145). -/
def baseJob (s : State) (o : BaseOps) (es qs ps : List Nat) (v : Nat) (outs : List (List Nat)) (marks : Bool × Bool) (c : Nat) :
    TileJob :=
  let target := fun (j : Nat) =>
    (pocketAddr (limbUnit o.dst o.limbStride (baseUnits o) j + 4 * c),
      packElems 8 (((outs.getD j []).drop (4096 * c)).take 4096), modMeta 64 (ps.getD j 0) marks)
  { tileJob s (es.getD (c % es.length) (8 * v)) (limbUnit o.dst o.limbStride (baseUnits o) 0 + 4 * c) (target 0).2.1 (target 0).2.2 with
      item := c, consts := [.basis qs ps], more := (List.range (o.outLimbs - 1)).map (fun j => target (j + 1)) }

/-- BASECONV (R143, R144). -/
def startBaseconv (s : State) (id : Nat) (h : DescHdr) (o : BaseOps) : State :=
  let p := h.p.val
  let u := baseUnits o
  let n := 2 ^ o.log2N
  let rin := modRecords s p o.inMod o.inLimbs
  let rout := modRecords s p o.outMod o.outLimbs
  let qs := rin.map (fun r => r.1)
  let ps := rout.map (fun r => r.1)
  let ok := fun (r : Nat × Nat) => r.1 != 0 && laneModulus 0 r.1 && isPrime64 r.1 && r.2 == 0
  let v := physUnit (part s p) (tileIx o.src) / 24576
  if !(rin ++ rout).all ok || !decide (qs ++ ps).Nodup then refuse s id stPolicy
  else if !(baseClaims o).all (inSleeve (part s p) v) then refuse s id stPolicy
  else if (enginesOf s v).isEmpty then refuse s id stEngineLost
  else
    let limbs := (List.range o.inLimbs).map (fun i => limbElems s p (limbUnit o.src o.limbStride u i) n 64)
    let outs := baseConvert n qs ps limbs
    let srcMarks := (List.range o.inLimbs).map (fun i => marksOf s p (pocketAddr (limbUnit o.src o.limbStride u i)) (8192 * u))
    let marks := (srcMarks.any (fun m => m.1), srcMarks.any (fun m => m.2))
    startJobs s id ((List.range (n / 4096)).map (baseJob s o (enginesOf s v) qs ps v outs marks)) 0

end Sys2Proof.Machine
end

