-- ==== Sys2Proof/Machine/Params.lean ====
section
/-! DEFINITION. Ring parameter blocks, ciphertext headers, reference records and key-stream headers
(R151 to R157, R160, R161). -/

namespace Sys2Proof.Machine

/-- A ring parameter block with its moduli (Table 6.1). -/
structure RingParams where
  fmt : Nat
  scheme : Nat
  log2N : Nat
  chain : Nat
  special : Nat
  dnum : Nat
  rsvd : Nat
  plain : Nat
  budget : Nat
  tailZero : Bool
  recs : List (Nat × Nat)
  pre : Bytes
deriving DecidableEq, Repr

/-- The parameter block in bytes: 64 of header and 16 for each modulus. -/
def ringLen (hdr : Bytes) : Nat :=
  64 + 16 * (field hdr 4 1 + field hdr 5 1)

/-- A parameter block from its bytes (R151). -/
def ringOf (b : Bytes) : RingParams :=
  let n := field b 4 1 + field b 5 1
  { fmt := field b 0 2, scheme := field b 2 1, log2N := field b 3 1, chain := field b 4 1, special := field b 5 1,
    dnum := field b 6 1, rsvd := field b 7 1, plain := field b 8 8, budget := field b 16 4,
    tailZero := (slice b 20 44).all (fun x => x == 0#8),
    recs := (pieces 16 n (b.drop 64)).map (fun r => (field r 0 8, field r 8 8)),
    pre := (sha3 b).take 16 }

/-- The parameter block at an address (R151). -/
def ringAt (s : State) (p a : Nat) : RingParams :=
  ringOf (pread s p a (ringLen (pread s p a 64)))

/-- A partition uses the constants it derives from a block: it caches those of the 8 blocks used last, by digest (R152). -/
def useRing (s : State) (p a : Nat) : State :=
  let d := sha3 (pread s p a (ringLen (pread s p a 64)))
  modPart s p (fun x => { x with ringCache := (d :: x.ringCache.filter (fun e => e != d)).take 8 })

/-- The block lies in DRAM or the host-visible window. -/
def ringFits (s : State) (p a : Nat) : Bool :=
  bulkFits (part s p) a 64 && bulkFits (part s p) a (ringLen (pread s p a 64))

/-- α: limbs per digit (R152). -/
def RingParams.alpha (r : RingParams) : Nat := (r.chain + r.dnum - 1) / r.dnum

/-- The block's degree N. -/
def RingParams.size (r : RingParams) : Nat := 2 ^ r.log2N

/-- The chain moduli. -/
def RingParams.qs (r : RingParams) : List Nat := (r.recs.take r.chain).map (fun x => x.1)

/-- The special moduli. -/
def RingParams.ps (r : RingParams) : List Nat := (r.recs.drop r.chain).map (fun x => x.1)

/-- The ψ of limb `i` of chain and special moduli together. -/
def RingParams.psi (r : RingParams) (i : Nat) : Nat := (r.recs.getD i (0, 0)).2

/-- The modulus of limb `i` of chain and special moduli together. -/
def RingParams.q (r : RingParams) (i : Nat) : Nat := (r.recs.getD i (0, 0)).1

/-- Units of one limb (R135). -/
def RingParams.limbUnits (r : RingParams) : Nat := r.size * 8 / 8192

/-- A parameter block is valid (Table 6.1, R152). -/
def RingParams.valid (r : RingParams) : Bool :=
  r.fmt == 0x0111 && decide (1 ≤ r.scheme) && decide (r.scheme ≤ 3) && decide (12 ≤ r.log2N) && decide (r.log2N ≤ 17) &&
    decide (1 ≤ r.chain) && decide (r.chain ≤ 64) && decide (r.special ≤ 64 - r.chain) && decide (1 ≤ r.dnum) &&
    decide (r.dnum ≤ r.chain) && r.rsvd == 0 && r.tailZero && decide (1 ≤ r.budget) &&
    (if r.scheme = 3 then r.plain == 0 else decide (2 ≤ r.plain) && decide (r.plain < r.q 0)) &&
    r.recs.all (fun x => x.1 != 0 && laneModulus 0 x.1 && isPrime64 x.1 && x.1 % (2 * r.size) == 1 && decide (0 < x.2) &&
      decide (x.2 < x.1) && powMod x.2 r.size x.1 == x.1 - 1) &&
    decide (r.recs.map (fun x => x.1)).Nodup && decide (r.alpha ≤ r.special ∨ r.special = 0)

/-- A ciphertext header (Tables 6.2, 6.3). -/
structure CtHeader where
  fmt : Nat
  parts : Nat
  share : Nat
  seqNext : Nat
  headroom : Nat
  scaleExp : Nat
  log2N : Nat
  incomplete : Bool
  ntt : Bool
  scheme : Nat
  level : Nat
  tag : Nat
  dataLen : Nat
  pre : Bytes
  roundId : Nat
  rsvdZero : Bool
deriving DecidableEq, Repr

/-- A header from its 64 bytes. -/
def ctOf (b : Bytes) : CtHeader :=
  let w := field b 8 8
  { fmt := field b 0 2, parts := field b 2 1, share := field b 3 1, seqNext := field b 4 4, headroom := bitsOf w 32 32,
    scaleExp := bitsOf w 24 8, log2N := bitsOf w 16 5, incomplete := w.testBit 15, ntt := w.testBit 12,
    scheme := bitsOf w 8 4, level := bitsOf w 0 6, tag := field b 16 8, dataLen := field b 24 8,
    pre := slice b 32 16, roundId := field b 48 8,
    rsvdZero := bitsOf w 21 3 == 0 && bitsOf w 13 2 == 0 && bitsOf w 6 2 == 0 && field b 56 8 == 0 }

/-- A header's 64 bytes. -/
def CtHeader.bytes (c : CtHeader) : Bytes :=
  let w := c.headroom * 2 ^ 32 + c.scaleExp * 2 ^ 24 + c.log2N * 2 ^ 16 + bit c.incomplete * 2 ^ 15 + bit c.ntt * 2 ^ 12 +
    c.scheme * 2 ^ 8 + c.level
  natLe 2 c.fmt ++ natLe 1 c.parts ++ natLe 1 c.share ++ natLe 4 c.seqNext ++ natLe 8 w ++ natLe 8 c.tag ++
    natLe 8 c.dataLen ++ fit 16 c.pre ++ natLe 8 c.roundId ++ zeros 8

/-- A ciphertext's data bytes (R154). -/
def CtHeader.len (c : CtHeader) : Nat := c.parts * (c.level + 1) * 2 ^ c.log2N * 8

/-- A reference record (R155). -/
structure CtRef where
  hdr : Nat
  c0 : Nat
  c1 : Nat
deriving DecidableEq, Repr

/-- A reference record from its 16 bytes. -/
def refOf (b : Bytes) : CtRef :=
  { hdr := field b 0 8, c0 := tileIx (field b 8 4), c1 := tileIx (field b 12 4) }

/-- `n` reference records at an address. -/
def refsAt (s : State) (p a n : Nat) : List CtRef :=
  (pieces 16 n (pread s p a (16 * n))).map refOf

/-- The header that a reference names. -/
def headerAt (s : State) (p : Nat) (r : CtRef) : CtHeader := ctOf (pread s p r.hdr 64)

/-- A header address: 64-byte aligned, in the Pocket or in partition DRAM (R155). -/
def headerFits (x : Partition) (r : CtRef) : Bool :=
  addrFits x r.hdr 64 64 && !inWindow r.hdr

/-- The tiles that `limbs` limbs of each part of a ciphertext take (R155). -/
def ctTiles (r : CtRef) (parts stride u limbs : Nat) : List Claim :=
  limbClaims r.c0 stride u limbs ++ (if parts = 2 then limbClaims r.c1 stride u limbs else [])

/-- The units of headers that lie in the Pocket. -/
def hdrClaims (rs : List CtRef) : List Claim := rs.flatMap (fun c => byteClaims c.hdr 64 none)

/-- The tiles and the header of a ciphertext (R155). -/
def ctClaims (r : CtRef) (parts stride u limbs : Nat) : List Claim :=
  ctTiles r parts stride u limbs ++ hdrClaims [r]

/-- Outputs overlap no input and no other claim named: limb tiles by their units, headers by their 64 bytes (R155, R167). -/
def refsApart (outTiles inTiles : List Claim) (outs ins : List CtRef) : Bool :=
  apart outTiles (inTiles ++ hdrClaims ins) && apart (hdrClaims outs) inTiles &&
    outs.all (fun c => ins.all (fun d => c.hdr != d.hdr))

/-- The place of a DRAM range among what R76 reserves: its 64-byte lines, numbered past every Pocket unit. A header in DRAM is
reserved as one in the Pocket is (R155; log entry 100). -/
def dramLines (a len : Nat) : List (Nat × Nat) :=
  if inPocket a ∨ len = 0 then [] else [(2 ^ 32 + a / 64, (a + len + 63) / 64 - a / 64)]

/-- Largest data of a ciphertext submission: prefix, header and data at level L - 1 (R196). -/
def ctSubmissionLen (r : RingParams) : Nat :=
  32 + 64 + 2 * r.chain * r.size * 8

/-- A key-stream header (Table 6.5). -/
structure KeyStream where
  fmt : Nat
  kind : Nat
  dnum : Nat
  galois : Nat
  src : Nat
  dst : Nat
  len : Nat
  pre : Bytes
  cost : Nat
  rsvdZero : Bool
deriving DecidableEq, Repr

/-- A key-stream header from its 64 bytes. -/
def keyStreamOf (b : Bytes) : KeyStream :=
  { fmt := field b 0 2, kind := field b 2 1, dnum := field b 3 1, galois := field b 4 4, src := field b 8 8,
    dst := field b 16 8, len := field b 24 8, pre := slice b 32 16, cost := field b 48 2,
    rsvdZero := (slice b 50 14).all (fun x => x == 0#8) }

/-- The header is consistent by itself: kind, Galois element, tags, cost and length (R161, Table 6.5). A header that is
pinned names no parameter block by address, so N and the limb counts are checked only at use (log entry 10). -/
def KeyStream.selfOk (k : KeyStream) : Bool :=
  k.fmt == 0x0120 && (k.kind == 1 || k.kind == 2) && decide (1 ≤ k.dnum) && decide (1 ≤ k.cost) && k.src != 0 &&
    (if k.kind = 2 then k.galois % 2 == 1 && decide (1 < k.galois) && k.dst == k.src else k.galois == 0 && k.dst != 0) &&
    k.len % (k.dnum * 2 * 8 * 4096) == 0 && k.len != 0

end Sys2Proof.Machine
end

