-- ==== Sys2Proof/Machine/Windows.lean ====
section
/-! DEFINITION. Windows and the recovery state of rounds (R37 to R44, R121, R196, R239 to R245). -/

namespace Sys2Proof.Machine

/-- The window of a kind. -/
def windowOf (x : Partition) : WinKind → Option Window
  | .submit => x.submit
  | .recover => x.recover

/-- Set the window of a kind. -/
def setWindow (s : State) (p : Nat) (k : WinKind) (w : Option Window) : State :=
  modPart s p (fun x =>
    match k with
    | .submit => { x with submit := w }
    | .recover => { x with recover := w })

/-- Change a partition's window. -/
def modWindow (s : State) (p : Nat) (k : WinKind) (f : Window → Window) : State :=
  setWindow s p k ((windowOf (part s p) k).map f)

/-- The window of a kind bound to a round. -/
def windowFor (x : Partition) (k : WinKind) (round : Nat) : Option Window :=
  (windowOf x k).filter (fun w => w.roundId == round)

/-- A window is scheduled, open or closing. -/
def Window.active (w : Window) : Bool :=
  w.mode == .scheduled || w.mode == .opened || w.mode == .closing

/-- The kind of an operand byte (Table 9.3). -/
def kindOf (k : Nat) : WinKind := if k = 0 then .submit else .recover

/-- The round's recovery record. -/
def roundOf (x : Partition) (round : Nat) : Option Round :=
  x.rounds.find? (fun r => r.roundId == round)

/-- Change a round's recovery record. -/
def modRound (s : State) (p round : Nat) (f : Round → Round) : State :=
  modPart s p (fun x => { x with rounds := x.rounds.map (fun r => if r.roundId = round then f r else r) })

/-- Erase a round's recovery area: its contents go and its units return FREE (R123, Table 4.8). -/
def eraseArea (s : State) (p round : Nat) : State :=
  let units := ((roundOf (part s p) round).bind (fun r => r.graph)).map (fun g => (g.recTile, g.recUnits))
  let s1 := modRound s p round (fun r =>
    { r with graph := none, entries := [], secrets := [], seeds := [], maskNext := [] })
  match units with
  | some (u, n) => freeUnits s1 p u n
  | none => s1

/-- A number rounded up to 4 KiB. -/
def round4k (n : Nat) : Nat := (n + 4095) / 4096 * 4096

/-- The largest submission a window admits (R196). -/
def largestSubmission (x : Partition) (k : WinKind) (ring : Bytes) : Nat :=
  match k with
  | .recover => 64 + 1088 + 40 * field x.policy 16 1 + 16
  | .submit =>
    match x.regime with
    | 1 => 64 + x.dimension * elemBytes x.elemFormat
    | 2 => ctSubmissionLen (ringOf ring)
    | _ => 64 + 1088 + x.dimension * elemBytes x.elemFormat + 16

/-- The address of landing slot `n mod slot count` (R196). -/
def landingAddr (w : Window) (n : Nat) : Nat :=
  w.landingAddr + n % w.slotCount * w.slotSize

/-- The landing area of a WINDOW_OPEN. -/
def openArea (s : State) (h : DescHdr) (o : WindowOpenOps) : Nat :=
  let x := part s h.p.val
  let ring := if x.regime = 2 ∧ o.kind = 0 then pread s h.p.val o.paramAddr (ringLen (pread s h.p.val o.paramAddr 64)) else []
  o.slotCount * round4k (largestSubmission x (kindOf o.kind) ring)

/-- Operand ranges of WINDOW_OPEN (Table 9.3, R241); paramAddr must be 0 outside ciphertext SUBMIT windows. -/
def windowOpenRange (x : Partition) (o : WindowOpenOps) : Bool :=
  decide (o.roundId < 2 ^ 56) && decide (o.kind ≤ 1) && decide (1 ≤ o.slotCount) && decide (o.slotCount ≤ 65536) &&
    decide (o.opens + 1000 ≤ o.closes) && decide (o.closes ≤ o.opens + 2 ^ 48) &&
    ((x.regime == 2 && o.kind == 0) || o.paramAddr == 0) && (o.kind == 0 || x.regime == 1)

/-- The landing area is 4 KiB-aligned in DRAM or the Pocket, and the parameter block is readable (R196, R156). -/
def windowOpenAddress (s : State) (h : DescHdr) (o : WindowOpenOps) : Bool :=
  let x := part s h.p.val
  (x.regime != 2 || o.kind != 0 || ringFits s h.p.val o.paramAddr) &&
    addrFits x o.landingAddr (openArea s h o) 4096 && !inWindow o.landingAddr

/-- A RECOVER window's WINDOW_OPEN waits while its round's SUBMIT window is not CLOSED or ABORTED (R241). -/
def recoverWaits (x : Partition) (round : Nat) : Bool :=
  match windowFor x .submit round with
  | some w => w.active
  | none => false

/-- The other rounds that a WINDOW_OPEN of a round's RECOVER window makes UNRECOVERABLE (Table 4.8). -/
def displaced (x : Partition) (round : Nat) : List Round :=
  x.rounds.filter (fun r => r.roundId != round &&
    (r.mode == .closed || r.mode == .recovering || r.mode == .recoverClosed || r.mode == .reconstructed ||
      r.mode == .derived))

/-- A SHARE_RECON, SEED_DERIVE or MASK_EXPAND of a round is in flight (Table 4.8). -/
def recoveryInFlight (s : State) (p round : Nat) : Bool :=
  (flying s p).any (fun f =>
    match f.body with
    | .shareRecon o => o.roundId == round
    | .seedGraph o => o.roundId == round
    | .seedDerive o => o.roundId == round
    | .maskExpand o => o.roundId == round
    | _ => false)

/-- The new window record of an admitted WINDOW_OPEN (R241, R242). -/
def newWindow (s : State) (h : DescHdr) (o : WindowOpenOps) (eff : Nat) (raised : Bool) : Window :=
  let x := part s h.p.val
  let ring :=
    if x.regime = 2 ∧ o.kind = 0 then pread s h.p.val o.paramAddr (ringLen (pread s h.p.val o.paramAddr 64)) else []
  { kind := kindOf o.kind, roundId := o.roundId, mode := if raised then .opened else .scheduled, opens := eff,
    closes := o.closes, landingAddr := o.landingAddr, slotCount := o.slotCount,
    slotSize := round4k (largestSubmission x (kindOf o.kind) ring), paramAddr := o.paramAddr, paramBlock := ring,
    assigned := 0, subs := [], waiting := [], acceptedAtClose := 0, stageFirst := none, stageSlots := 0,
    stageUnits := 0 }

/-- The Pocket areas that a window record still holds: its landing area and its staging area (Table 7.2). -/
def windowAreas (w : Window) : List (Nat × Nat) :=
  ((if inPocket w.landingAddr then landingUse w else []) ++ (if w.stageFirst.isSome then stagingUse w else [])).map
    (fun u => (u.first, u.units))

/-- Put a new window in place: the round begins or moves on (Table 4.8, Table 9.4). What the record it replaces still holds of the
Pocket is released: the spec does not say when slots that no descriptor can free any more are (R189; log entry 95). -/
def bindWindow (s : State) (p : Nat) (w : Window) : State :=
  let old := ((windowOf (part s p) w.kind).map windowAreas).getD []
  let s1 := setWindow (old.foldl (fun t u => freeUnits t p u.1 u.2) s) p w.kind (some w)
  match w.kind with
  | .submit =>
    if (part s p).regime = 1 then
      modPart s1 p (fun x =>
        { x with rounds := x.rounds.filter (fun r => r.roundId != w.roundId) ++
            [{ roundId := w.roundId, mode := .collecting, survivors := [], graph := none, bundleOpened := false,
               entries := [], secrets := [], seeds := [], selfCount := 0, edgeCount := 0, maskNext := [] }] })
    else s1
  | .recover => modRound s1 p w.roundId (fun r => { r with mode := .recovering })

/-- The conditions of R37, R121 and R241 on a WINDOW_OPEN decided at the instant `dispatch`. -/
def openAdmitted (s : State) (p : Nat) (o : WindowOpenOps) (dispatch : Nat) : Bool :=
  let x := part s p
  let k := kindOf o.kind
  let busy := ((windowOf x k).map Window.active).getD false
  let other := match k with | .submit => WinKind.recover | .recover => WinKind.submit
  let sameOther := ((windowFor x other o.roundId).map Window.active).getD false
  let roundOk := k == .submit || ((roundOf x o.roundId).map (fun r => r.mode == .closed)).getD false
  let ringOk := x.regime != 2 || k != .submit || (ringAt s p o.paramAddr).valid
  decide (dispatch < o.closes) && !busy && !sameOther && roundOk && ringOk

/-- Other rounds in recovery become UNRECOVERABLE and their recovery areas are erased (Table 4.8). -/
def displaceRounds (s : State) (p round : Nat) : State :=
  (displaced (part s p) round).foldl (fun t r =>
    eraseArea (modRound t p r.roundId (fun y => { y with mode := .unrecoverable })) p r.roundId) s

/-- WINDOW_OPEN is decided (R37, R121, R241): one of kind RECOVER in the state that the transition of Table 4.8 has left, which
takes place whether or not it is then admitted (log entry 23). -/
def decideOpen (s : State) (id : Nat) (h : DescHdr) (o : WindowOpenOps) : State :=
  let p := h.p.val
  let dispatch := ceilNs (instant s)
  let eff := max o.opens dispatch
  let s1 := if kindOf o.kind = .recover then displaceRounds s p o.roundId else s
  if !openAdmitted s1 p o dispatch then refuse s1 id stPolicy
  else finish (bindWindow s1 p (newWindow s1 h o eff (decide (o.opens ≤ dispatch)))) id stOk eff

/-- WINDOW_OPEN (R241): one of kind RECOVER first waits for its round's SUBMIT window, and then for the recovery work of
the other rounds that it makes UNRECOVERABLE (R121). -/
def startWindowOpen (s : State) (id : Nat) (h : DescHdr) (o : WindowOpenOps) : State :=
  let p := h.p.val
  if kindOf o.kind = .submit then decideOpen s id h o
  else if recoverWaits (part s p) o.roundId || (displaced (part s p) o.roundId).any (fun r => recoveryInFlight s p r.roundId) then
    waitIn s id .recoverWait
  else decideOpen s id h o

/-- The survivor list of R44 with its preamble. -/
def survivorList (x : Partition) (round : Nat) : Bytes :=
  let ids := ((roundOf x round).map (fun r => r.survivors)).getD []
  natLe 8 round ++ natLe 4 ids.length ++ zeros 4 ++ packElems 4 ids

/-- The list or summary that WINDOW_CLOSE writes (R243). -/
def closeList (x : Partition) (w : Window) : Bytes :=
  if x.regime = 1 ∧ w.kind = .submit then survivorList x w.roundId
  else natLe 8 w.roundId ++ natLe 4 w.acceptedAtClose ++ natLe 4 w.assigned

/-- The result of WINDOW_CLOSE (R243). -/
def closeResult (w : Window) : Nat :=
  w.acceptedAtClose % 2 ^ 32 + w.assigned % 2 ^ 32 * 2 ^ 32

/-- WINDOW_CLOSE completes: the window is CLOSED and the list is written (R243). -/
def completeClose (s : State) (id : Nat) (p : Nat) (k : WinKind) (o : WindowCloseOps) : State :=
  match windowFor (part s p) k o.roundId with
  | none => refuse s id stPolicy
  | some w =>
    let bs := closeList (part s p) w
    if addrFits (part s p) o.listAddr bs.length 1 then
      finish (writeMarked s p o.listAddr bs (plainMeta 16) false false) id stOk (closeResult w)
    else refuse s id stAccess

/-- Submissions that hold accepted numbers. -/
def acceptedSubs (w : Window) : List Submission :=
  w.subs.filter (fun b => b.verdict == some .accepted)

/-- The stamps and ranks of doorbell invalidations whose batch is not wholly fetched or holds an INGEST not yet
dispatched (R240). -/
def pendingInvalidations (x : Partition) : List (Instant × Nat) :=
  x.sq.flatMap (fun e =>
    let unread := e.2.reads.map (fun i => (i, 8 + e.1))
    let partly := (e.2.batches.filter (fun b => e.2.fetched != b.tail)).map (fun b => (b.stamp, 8 + e.1))
    let waiting := (e.2.buffer.filter (fun f => opcodeOf f.body == 0x12)).map (fun f => (f.h.stamp, 8 + e.1))
    if e.2.mode = .disabled then [] else unread ++ partly ++ waiting)

/-- No ingress point of a partition presents a key below the instant `t` any more: the frontier of every one has passed it (R240). -/
def frontiersPast (s : State) (p t : Nat) : Bool :=
  let portOk := (List.range 6).all (fun i =>
    decide (t + 200 ≤ now s) ||
      (match (tabGet {} s.shawl.ports i).lastHead with
       | some (st, _) => decide (t ≤ st.ns)
       | none => false))
  let pend := pendingInvalidations (part s p)
  portOk && (if pend.isEmpty then decide (t + 64 ≤ now s) else pend.all (fun e => decide (t ≤ e.1.ns)))

/-- A CLOSING window has every verdict and every accepted submission has landed (R242). -/
def closingDone (w : Window) : Bool :=
  w.subs.all (fun b => b.verdict.isSome && (b.verdict != some .accepted || b.landed)) && w.waiting.isEmpty

/-- A window becomes CLOSED: the counts are fixed and the round moves on (R44, Table 4.8). -/
def closeWindow (s : State) (p : Nat) (k : WinKind) : State :=
  match windowOf (part s p) k with
  | none => s
  | some w =>
    let acc := acceptedSubs w
    let s1 := setWindow s p k (some { w with mode := .closed, acceptedAtClose := (w.subs.filter (fun b => b.provisional)).length })
    if (part s p).regime ≠ 1 then s1
    else
      match k with
      | .submit =>
        modRound s1 p w.roundId (fun r =>
          { r with mode := if acc.isEmpty then .unrecoverable else .closed, survivors := acc.map (fun b => b.clientId) })
      | .recover => modRound s1 p w.roundId (fun r => { r with mode := if r.mode = .recovering then .recoverClosed else r.mode })

/-- A window has closed and its landing slots are all free (Table 7.2). -/
def landingIdle (w : Window) : Bool :=
  (w.mode == .closed || w.mode == .aborted) && w.subs.all (fun b => b.slotFree)

/-- A window has closed and its staging slots are all free (Table 7.2). -/
def stagingIdle (w : Window) : Bool :=
  (w.mode == .closed || w.mode == .aborted) && w.subs.all (fun b => b.stage.isNone)

/-- Release the landing area and the staging area of a window, each once the window has closed and its slots are free
(Table 7.2, R189). -/
def releaseUses (s : State) (p : Nat) (k : WinKind) : State :=
  match windowOf (part s p) k with
  | none => s
  | some w =>
    let landing := landingIdle w && inPocket w.landingAddr
    let staging := stagingIdle w && w.stageFirst.isSome
    let freed := (if landing then landingUse w else []) ++ (if staging then stagingUse w else [])
    if freed.isEmpty then s
    else
      freed.foldl (fun t u => freeUnits t p u.first u.units) (setWindow s p k (some { w with
        landingAddr := if landing then 0 else w.landingAddr, stageFirst := if staging then none else w.stageFirst }))

/-- The effective close of R243. -/
def effectiveClose (w : Window) (closeAt dispatch : Nat) : Nat :=
  if closeAt = 0 then w.closes else min w.closes (max closeAt (max dispatch w.opens))

/-- Every WINDOW_CLOSE that waits for a CLOSED window completes (R243). -/
def finishCloses (s : State) (p : Nat) : State :=
  (flying s p).foldl (fun t f =>
    match f.body, f.phase with
    | .windowClose o, .closeWait =>
      match windowFor (part t p) (kindOf o.kind) o.roundId with
      | some w => if w.mode = .closed then completeClose t f.id p (kindOf o.kind) o else t
      | none => t
    | _, _ => t) s

/-- Federation time reaches a window's open instant (Table 9.4). -/
def reachOpen (s : State) (p : Nat) (k : WinKind) : State :=
  match windowOf (part s p) k with
  | some w =>
    if w.mode = .scheduled then setWindow (reach s w.opens) p k (some { w with mode := .opened }) else s
  | none => s

/-- Federation time reaches a window's close instant (Table 9.4). -/
def reachClose (s : State) (p : Nat) (k : WinKind) : State :=
  match windowOf (part s p) k with
  | some w =>
    if w.mode = .opened then setWindow (reach s w.closes) p k (some { w with mode := .closing }) else s
  | none => s

/-- A CLOSING window with nothing outstanding becomes CLOSED, and what waited for it goes on (Table 9.4). A key below the close that has
no number yet is outstanding: the frontiers have passed the close (Table 9.6; DEDUCED, log entry 96). -/
def reachClosed (s : State) (p : Nat) (k : WinKind) : State :=
  match windowOf (part s p) k with
  | some w =>
    if w.mode = .closing ∧ closingDone w ∧ frontiersPast s p w.closes then releaseUses (finishCloses (closeWindow s p k) p) p k else s
  | none => s

end Sys2Proof.Machine
end

