-- ==== Sys2Proof/Machine/Ingest.lean ====
section
/-! DEFINITION. INGEST, the checks of submissions and bundles, acceptance numbers and landing (R38 to R45, R49, R51,
R156, R196, R221, R239, R240). -/

namespace Sys2Proof.Machine

/-- The kind of window a submission's format belongs to (R221). -/
def formatKind (fmt : Nat) : WinKind := if fmt = 0x0104 then .recover else .submit

/-- A run of bytes is zero. -/
def zeroAt (b : Bytes) (off n : Nat) : Bool := (slice b off n).all (fun x => x == 0#8)

/-- The header bytes of a submission: a ciphertext's prefix and header take 96 (R49). -/
def headerLen (b : Bytes) : Nat := if field b 0 2 = 0x0102 then 96 else 64

/-- The length a submission's header gives it (Tables 2.5, 2.6, 2.8, 2.9). -/
def statedLen (b : Bytes) : Nat :=
  if field b 0 2 = 0x0102 then 96 + field b (32 + 24) 8 else 64 + field b 24 8

/-- The round id of a submission's header. -/
def subRound (b : Bytes) : Nat := field b 8 8

/-- A masked submission's header agrees with the policy (Table 2.5). -/
def maskedOk (x : Partition) (b : Bytes) : Bool :=
  x.regime == 1 && field b 2 1 == 1 && field b 3 1 == x.elemFormat && field b 16 4 == x.dimension && zeroAt b 20 4 &&
    field b 24 8 == x.dimension * elemBytes x.elemFormat && slice b 32 16 == x.digestPrefix && zeroAt b 48 16

/-- A sealed submission's header agrees with the policy (Table 2.9). -/
def sealedOk (x : Partition) (b : Bytes) : Bool :=
  x.regime == 3 && field b 2 1 == 3 && field b 3 1 == x.elemFormat && field b 16 4 == x.dimension && zeroAt b 20 4 &&
    field b 24 8 == 1088 + x.dimension * elemBytes x.elemFormat + 16 && slice b 32 16 == x.digestPrefix && zeroAt b 48 16

/-- A bundle's header agrees with the policy (Table 2.6). -/
def bundleOk (x : Partition) (b : Bytes) : Bool :=
  x.regime == 1 && field b 2 1 == 1 && zeroAt b 3 1 && decide (1 ≤ field b 16 2) &&
    decide (field b 16 2 ≤ field x.policy 16 1) && zeroAt b 18 6 && field b 24 8 == 1088 + 40 * field b 16 2 + 16 &&
    slice b 32 16 == x.digestPrefix && zeroAt b 48 16

/-- A ciphertext submission's prefix and header are well formed as far as no parameter block is needed (R49, R156, Table 2.3). -/
def ctHeadOk (x : Partition) (b : Bytes) : Bool :=
  let c := ctOf (slice b 32 64)
  x.regime == 2 && field b 2 1 == 2 && zeroAt b 3 1 && slice b 16 16 == x.digestPrefix && c.fmt == 0x0110 &&
    c.parts == 2 && c.rsvdZero && c.ntt && c.dataLen == c.len && c.tag == field x.policy 0x60 8

/-- A ciphertext submission's header agrees with the round's parameter block (R156). -/
def ctSubOk (ring : RingParams) (b : Bytes) : Bool :=
  let c := ctOf (slice b 32 64)
  c.level + 1 == ring.chain && c.scheme == ring.scheme && c.log2N == ring.log2N && c.pre == ring.pre &&
    decide (c.headroom ≤ ring.budget)

/-- The check MALFORMED of Table 2.3. A ciphertext is held against the block of the window bound to the round it names: R156 calls it
the round's, and another round's INGEST gives it WRONG_ROUND; without a window there is no block to hold it against. -/
def wellFormedSub (x : Partition) (b : Bytes) : Bool :=
  if field b 0 2 = 0x0101 then maskedOk x b
  else if field b 0 2 = 0x0103 then sealedOk x b
  else if field b 0 2 = 0x0104 then bundleOk x b
  else if field b 0 2 = 0x0102 then
    ctHeadOk x b && ((windowFor x .submit (subRound b)).map (fun w => ctSubOk (ringOf w.paramBlock) b)).getD true
  else false

/-- The checks of Table 2.3 from MALFORMED to LATE; `none` where the submission passes them (R39, R41). A window that has reached
CLOSED gives no further number (R242, R243). One that is judged then with a stamp before the close comes from below a frontier that has
passed it, which R240 does not let happen: that it gets LATE is the model's choice (log entry 96). -/
def headVerdict (x : Partition) (b : Bytes) (stamp : Instant) (operand : Option Nat) : Option Verdict :=
  if wellFormedSub x b = false then some .malformed
  else
    match windowFor x (formatKind (field b 0 2)) (subRound b) with
    | none => some .wrongRound
    | some w =>
      if w.mode = .aborted ∨ (operand.isSome ∧ operand ≠ some (subRound b)) then some .wrongRound
      else if stamp.ns < w.opens then some .notOpen
      else if w.closes ≤ stamp.ns ∨ w.mode = .closed then some .late
      else none

/-- A key comes before another: stamp, ingress rank, order (R239). -/
def keyBefore (s1 : Instant) (r1 o1 : Nat) (s2 : Instant) (r2 o2 : Nat) : Bool :=
  before s1 s2 || (s1 == s2 && (decide (r1 < r2) || (r1 == r2 && decide (o1 < o2))))

/-- A submission's key lies before another's. -/
def subBefore (a b : Submission) : Bool :=
  keyBefore a.stamp a.rank a.order b.stamp b.rank b.order

/-- The order that stands for every descriptor still to be dispatched: it comes after those dispatched. -/
def laterOrder : Nat := 2 ^ 64

/-- A key lies below the frontier of every ingress point (R240). -/
def belowFrontiers (s : State) (p : Nat) (b : Submission) : Bool :=
  let t := now s
  let portOk := (List.range 6).all (fun i =>
    let byTime := decide (200 ≤ t) && keyBefore b.stamp b.rank b.order ⟨t - 200, 0⟩ i 0
    let byHead :=
      match (tabGet {} s.shawl.ports i).lastHead with
      | some (st, o) => keyBefore b.stamp b.rank b.order st i (o + 1)
      | none => false
    byTime || byHead)
  let pend := pendingInvalidations (part s p)
  let cclOk :=
    if pend.isEmpty then decide (64 ≤ t) && keyBefore b.stamp b.rank b.order ⟨t - 64, 0⟩ 8 0
    else pend.all (fun e => keyBefore b.stamp b.rank b.order e.1 e.2 laterOrder)
  portOk && cclOk

/-- The least of the submissions that wait for a number. -/
def leastWaiting : List Submission → Option Submission
  | [] => none
  | b :: bs =>
    match leastWaiting bs with
    | none => some b
    | some c => if subBefore c b then some c else some b

/-- The landing slot of number `n` is free: no earlier number holds it (R196). -/
def slotFree (w : Window) (n : Nat) : Bool :=
  w.subs.all (fun b => b.slotFree || (b.number.map (fun m => decide (m < n) && m % w.slotCount == n % w.slotCount)) != some true)

/-- The verdict given at numbering: provisional ACCEPTED for sealed submissions and bundles, otherwise DUPLICATE and
CAPACITY in acceptance order (R39, R41). -/
def numberVerdict (x : Partition) (w : Window) (client : Nat) : Verdict :=
  if x.regime = 3 ∨ w.kind = .recover then .accepted
  else if (acceptedSubs w).any (fun b => b.clientId == client) then .duplicate
  else if field x.policy 0x14 4 ≤ (acceptedSubs w).length then .capacity
  else .accepted

/-- A 16-byte result record (Table 2.4). -/
def resultRecord (client verdict seq stampNs : Nat) : Bytes :=
  natLe 4 client ++ natLe 1 verdict ++ zeros 3 ++ natLe 4 seq ++ natLe 4 stampNs

/-- Write an INGEST item's result record and count its verdict (R40). -/
def decideItem (s : State) (id item client : Nat) (v : Verdict) (seq stampNs : Nat) : State :=
  match flight s id with
  | none => s
  | some f =>
    match f.body with
    | .ingest o =>
      let s1 := writeMarked s f.h.p.val (o.resultAddr + 16 * item) (resultRecord client v.code seq stampNs) (plainMeta 16)
        false false
      modFlight s1 id (fun g => { g with verdicts := g.verdicts ++ [v.code] })
    | _ => s

/-- Change the numbered submission `n` of a window. -/
def modSub (s : State) (p : Nat) (k : WinKind) (n : Nat) (f : Submission → Submission) : State :=
  modWindow s p k (fun w => { w with subs := w.subs.map (fun b => if b.number = some n then f b else b) })

/-- Land a submission's bytes in its slot (R196). -/
def landSub (s : State) (p : Nat) (k : WinKind) (n : Nat) : State :=
  match windowOf (part s p) k with
  | none => s
  | some w =>
    match w.subs.find? (fun b => b.number == some n) with
    | none => s
    | some b =>
      let data := if b.ingestId.isSome then pread s p b.srcAddr b.length else b.bytes
      let s0 := if b.ingestId.isSome then countDram s p b.srcAddr b.length false else s
      let s1 := writeMarked s0 p (landingAddr w n) data (plainMeta 16) false false
      modSub s1 p k n (fun c => { c with landed := true, bytes := [] })

/-- An INGEST whose items are all decided and landed completes (R40, R221). -/
def settleIngest (s : State) (id : Nat) : State :=
  match flight s id with
  | none => s
  | some f =>
    match f.body with
    | .ingest o =>
      let x := part s f.h.p.val
      let held := [WinKind.submit, WinKind.recover].any (fun k =>
        ((windowOf x k).map (fun w => w.subs.any (fun b =>
          b.ingestId == some id && b.verdict == some .accepted && !b.landed))).getD false)
      if f.verdicts.length < o.count ∨ held ∨ f.done.isSome then s
      else
        let acc := (f.verdicts.filter (fun v => v == 0)).length
        let st :=
          if f.verdicts.all (fun v => v == Verdict.notOpen.code) then stNotOpen
          else if f.verdicts.all (fun v => v == Verdict.late.code) then stLate else stOk
        finish s id st (verdictWord acc (f.verdicts.length - acc))
    | _ => s

/-- INGEST items that were accepted and wait for their slot land where it has become free (R196). -/
def resumeLanding (s : State) (p : Nat) (k : WinKind) : State :=
  match windowOf (part s p) k with
  | none => s
  | some w =>
    w.subs.foldl (fun t b =>
      match b.number, b.ingestId with
      | some n, some id =>
        if b.verdict = some .accepted ∧ !b.landed ∧ slotFree w n then settleIngest (landSub t p k n) id else t
      | _, _ => t) s

/-- Operand ranges of INGEST (Table 8.12). -/
def ingestRange (o : IngestOps) : Bool :=
  decide (1 ≤ o.count) && decide (o.count ≤ 4096)

/-- The addresses an INGEST's list holds. -/
def ingestList (s : State) (p : Nat) (o : IngestOps) : List Nat :=
  elems 8 (pread s p o.listAddr (8 * o.count))

/-- The list, the result area and the header of every listed submission lie in the host-visible window (R221). -/
def ingestAddress (s : State) (p : Nat) (o : IngestOps) : Bool :=
  let x := part s p
  inWindow o.listAddr && addrFits x o.listAddr (8 * o.count) 1 && inWindow o.resultAddr &&
    addrFits x o.resultAddr (16 * o.count) 1 &&
    (ingestList s p o).all (fun a => inWindow a && addrFits x a 64 1)

/-- The listed submission at an address: its bytes as far as its header says, where they lie in the window. -/
def listedBytes (s : State) (p a : Nat) : Bytes :=
  let hd := pread s p a 64
  let n := if field hd 0 2 = 0x0102 then 96 else 64
  if addrFits (part s p) a n 1 then pread s p a n else hd

/-- Judge one listed submission: a verdict at once, or a place among those that wait for a number. One whose stated length runs past
the window gets MALFORMED after the checks up to LATE: the spec does not say in which place (R39; log entry 96). -/
def judgeItem (s : State) (id : Nat) (h : DescHdr) (o : IngestOps) (item a : Nat) : State :=
  let p := h.p.val
  let b := listedBytes s p a
  let len := statedLen b
  let v :=
    match headVerdict (part s p) b h.stamp (some o.roundId) with
    | none => if addrFits (part s p) a len 1 then none else some .malformed
    | some y => some y
  match v with
  | some y => decideItem s id item (field b 4 4) y 0xFFFFFFFF h.stamp.ns
  | none =>
    let sub : Submission :=
      { clientId := field b 4 4, stamp := h.stamp, rank := 8 + h.ring.val, order := id * 4096 + item, header := b,
        bytes := [], length := len, complete := true, srcAddr := a, ingestId := some id, item := item, stream := 0,
        entry := 0, lastPacket := 0, number := none, verdict := none, landed := false, slotFree := false,
        consumed := [], sharedKey := none, decapsulated := false, final := false, stage := none, clip := none,
        received := len, cells := 0, queue := none, gen := 0 }
    modWindow s p (formatKind (field b 0 2)) (fun w => { w with waiting := w.waiting ++ [sub] })

/-- Judge listed submissions from item `i` on. -/
def judgeItems (s : State) (id : Nat) (h : DescHdr) (o : IngestOps) : Nat → List Nat → State
  | _, [] => s
  | i, a :: rest => judgeItems (judgeItem s id h o i a) id h o (i + 1) rest

/-- INGEST (R221). -/
def startIngest (s : State) (id : Nat) (h : DescHdr) (o : IngestOps) : State :=
  let s1 := waitIn (countDram s h.p.val o.listAddr (8 * o.count) false) id (.ingest (List.range o.count))
  settleIngest (judgeItems s1 id h o 0 (ingestList s h.p.val o)) id

/-- The landed bytes of a numbered submission, `len` bytes from offset `off`. -/
def landedBytes (s : State) (p : Nat) (w : Window) (n off len : Nat) : Bytes :=
  pread s p (landingAddr w n + off) len

/-- A summand has been consumed: its slot is free (R196). -/
def freeSlot (s : State) (p : Nat) (k : WinKind) (n : Nat) : State :=
  releaseUses (modSub s p k n (fun b => { b with slotFree := true })) p k

/-- Every number of a range is assigned, and what is accepted has landed; or the window is closed (R79). -/
def rangeReady (w : Window) (first count : Nat) : Bool :=
  w.mode == .closed || w.mode == .aborted ||
    (decide (first + count ≤ w.assigned) &&
      w.subs.all (fun b =>
        match b.number with
        | some n => decide (n < first) || decide (first + count ≤ n) || (b.verdict.isSome && (b.verdict != some .accepted || b.landed))
        | none => true))

end Sys2Proof.Machine
end

