-- ==== Sys2Proof/Machine/Accumulate.lean ====
section
/-! DEFINITION. ACCUMULATE, ACC_DRAIN, STATS and RANK (R68 to R88). -/

namespace Sys2Proof.Machine

/-- The mode a code names (Table 3.3). -/
def modeOf (c : Nat) : TileMode :=
  match c with
  | 0 => .mod2k
  | 1 => .modq
  | _ => .sats

/-- Bits of the policy's elements. -/
def policyBits (x : Partition) : Nat := 8 * elemBytes x.elemFormat

/-- The modulus operand is an odd q of the M64 range (R72). -/
def modqOk (q : Nat) : Bool := q % 2 == 1 && decide (2 ^ 16 < q) && decide (q < 2 ^ 62)

/-- Table 3.3: the combination of width, mode, source and modulus is admitted (R72). -/
def comboOk (x : Partition) (window : Bool) (width mode srcWidth modulus : Nat) : Bool :=
  let w := widthBits width
  let sw := widthBits srcWidth
  match mode with
  | 0 => modulus == 0 && sw == w &&
      (!window || (x.regime == 1 && decide (x.elemFormat ≤ 3) && policyBits x == w))
  | 1 => w == 64 && sw == 64 && modqOk modulus &&
      (!window || (x.regime == 1 && x.elemFormat == 4 && modulus == x.modulusQ))
  | 2 => modulus == 0 && decide (sw ≤ w) &&
      (!window || (x.regime == 3 && policyBits x == sw && decide (policyBits x ≤ w)))
  | _ => false

/-- Operand ranges of ACCUMULATE (Table 3.4, R72, R75). -/
def accRange (x : Partition) (o : AccOps) : Bool :=
  decide (1 ≤ o.tileCount) && decide (o.tileCount ≤ 2 ^ 22) && decide (o.width ≤ 2) && decide (o.srcWidth ≤ 2) &&
    decide (o.mode ≤ 2) && decide (o.srcKind ≤ 1) && decide (1 ≤ o.count) && decide (o.count ≤ 2 ^ 24) &&
    (o.splitWays == 1 || o.splitWays == 2 || o.splitWays == 4 || o.splitWays == 8) &&
    (o.srcKind == 0 || o.first != 0) && comboOk x (o.srcKind == 0) o.width o.mode o.srcWidth o.modulus

/-- The addresses of a list source (Table 3.4). -/
def listAddrs (s : State) (p a n : Nat) : List Nat := elems 8 (pread s p a (8 * n))

/-- Byte offset and length of the coordinates a range reads in each summand. -/
def coordSpan (coord tiles srcBits : Nat) : Nat × Nat := (coord * 512 * srcBits, tiles * 512 * srcBits)

/-- The tiles an ACCUMULATE names: its destination, and what its list and summands touch in the Pocket. -/
def accClaims (s : State) (p : Nat) (o : AccOps) : List Claim :=
  tileClaim o.dstTile o.tileCount (widthBits o.width) ::
    (if o.srcKind = 0 then []
     else
       let sp := coordSpan o.coordTile o.tileCount (widthBits o.srcWidth)
       byteClaims o.src (8 * o.count) none ++
         (listAddrs s p o.src o.count).flatMap (fun a => byteClaims (a + sp.1) sp.2 none))

/-- A list source lies within the partition's memory. -/
def accAddress (s : State) (p : Nat) (o : AccOps) : Bool :=
  let x := part s p
  let sp := coordSpan o.coordTile o.tileCount (widthBits o.srcWidth)
  o.srcKind == 0 || (addrFits x o.src (8 * o.count) 1 &&
    (listAddrs s p o.src o.count).all (fun a => addrFits x (a + sp.1) sp.2 1))

/-- A source element as a number of the accumulator's mode (R43, R72). -/
def sourceElem (mode : TileMode) (q srcBits a : Nat) : Int :=
  match mode with
  | .modq => (a % q : Nat)
  | .sats => signed srcBits a
  | _ => (a : Nat)

/-- One addition of a mode and whether it clamped (Table 3.3, R73). -/
def addElem (mode : TileMode) (w q : Nat) (a b : Int) : Int × Bool :=
  match mode with
  | .modq => (if (q : Int) ≤ a + b then a + b - q else a + b, false)
  | .sats => clampWord w (a + b)
  | _ => ((a + b) % (2 ^ w : Nat), false)

/-- One addition of two tiles. -/
def addTiles (mode : TileMode) (w q : Nat) (a b : List Int × Bool) : List Int × Bool :=
  let r := List.zipWith (addElem mode w q) a.1 b.1
  (r.map (fun e => e.1), a.2 || b.2 || r.any (fun e => e.2))

/-- The left fold of R74. -/
def foldTiles (mode : TileMode) (w q : Nat) (start : List Int) (summands : List (List Int)) : List Int × Bool :=
  summands.foldl (fun acc b => addTiles mode w q acc (b, false)) (start, false)

/-- A tile of zeros. -/
def zeroTile : List Int := List.replicate 4096 0

/-- The fold of a tile's summands split over `e` engines: block 0 starts from the committed value, the others from
zero, and blocks combine in ascending order (R74). -/
def splitFold (mode : TileMode) (w q e : Nat) (committed : List Int) (summands : List (List Int)) : List Int × Bool :=
  let b := (summands.length + e - 1) / e
  let block := fun j => foldTiles mode w q (if j = 0 then committed else zeroTile) ((summands.drop (j * b)).take b)
  (List.range (e - 1)).foldl (fun acc j => addTiles mode w q acc (block (j + 1))) (block 0)

/-- The committed elements of a tile as numbers of its mode. -/
def tileInts (mode : TileMode) (w : Nat) (vs : List Nat) : List Int :=
  match mode with
  | .sats => vs.map (fun v => signed w v)
  | _ => vs.map Int.ofNat

/-- Numbers as the bytes of a tile of width `w`. -/
def intBytes (w : Nat) (vs : List Int) : Bytes := packElems (w / 8) (vs.map (toWord w))

/-- Units of one opened vector in a staging area (R183). -/
def vectorUnits (x : Partition) : Nat := (x.dimension + 4095) / 4096 * tileUnits (policyBits x)

/-- The unit of the staging slot that holds an opened submission. -/
def stageUnit (x : Partition) (w : Window) (b : Submission) : Nat :=
  w.stageFirst.getD 0 + b.stage.getD 0 * vectorUnits x

/-- The elements of a window summand for coordinate tile `c`: those beyond the dimension are zero (R79). -/
def windowElems (s : State) (p : Nat) (w : Window) (b : Submission) (c : Nat) : List Nat :=
  let x := part s p
  let eb := elemBytes x.elemFormat
  let n := min 4096 (x.dimension - 4096 * c)
  let bs :=
    if x.regime = 3 then pread s p (pocketAddr (stageUnit x w b) + 4096 * c * eb) (n * eb)
    else landedBytes s p w (b.number.getD 0) (64 + 4096 * c * eb) (n * eb)
  elems eb bs ++ List.replicate (4096 - n) 0

/-- The window numbers between `lo` and `hi` leave a gap: one of them was accepted or is not decided (R41, R75). -/
def leavesGap (w : Window) (lo hi : Nat) : Bool :=
  (decide (w.assigned < hi) && decide (max lo w.assigned < hi) && w.mode != .closed) ||
    w.subs.any (fun b =>
      match b.number with
      | some n => decide (lo ≤ n) && decide (n < hi) && (b.verdict == some .accepted || b.verdict.isNone)
      | none => false)

/-- The state a tile must be in when ACCUMULATE does not initialise it (R75, R79). -/
def accTileOk (m : TileMeta) (o : AccOps) (w : Option Window) : Bool :=
  m.width == widthBits o.width && m.mode == modeOf o.mode && m.modulus == o.modulus &&
    (match w with
     | some win => m.state == .round && m.roundId == o.src && !leavesGap win m.seqNext o.first
     | none => m.state == .plain)

/-- The accepted submissions of a number range, in number order (R41, R75). -/
def acceptedRange (w : Window) (first count : Nat) : List Submission :=
  (acceptedSubs w).filter (fun b =>
    match b.number with
    | some n => decide (first ≤ n) && decide (n < first + count)
    | none => false)

/-- CLIP has fully clipped a summand, or found it within the bound (R184). -/
def clipDone (x : Partition) (b : Submission) : Bool :=
  match b.clip with
  | some c => c.within || decide ((x.dimension + 4095) / 4096 ≤ c.scaled.length)
  | none => false

/-- A sealed summand has been opened and clipped (R79). -/
def sealedReady (x : Partition) (b : Submission) : Bool := b.final && clipDone x b

/-- ACCUMULATE from a window once its range is ready (R74, R75, R79); what it writes carries no release record (R178). -/
def accWindow (s : State) (id : Nat) (h : DescHdr) (o : AccOps) (w : Window) : State :=
  let p := h.p.val
  let x := part s p
  let bits := widthBits o.width
  let md := modeOf o.mode
  let init := bvBit o.flags 0
  let first := tileIx o.dstTile
  let subs := acceptedRange w o.first o.count
  if x.regime = 3 ∧ subs.any (fun b => !sealedReady x b) then refuse s id stPolicy
  else
    let work := (tilePlan s p first (tileUnits bits) o.tileCount o.splitWays).map (fun t =>
      let m := unitMeta s p t.2.1
      let base := if init then o.first else m.seqNext
      let use := subs.filter (fun b => decide (base ≤ b.number.getD 0))
      let vals := use.map (fun b =>
        (windowElems s p w b (o.coordTile + t.1)).map (sourceElem md o.modulus (widthBits o.srcWidth)))
      let start := if init then zeroTile else tileInts md bits (readTile s p t.2.1 bits)
      let r := splitFold md bits o.modulus o.splitWays start vals
      let endSeq := o.first + o.count
      let nm : TileMeta :=
        { state := .round, width := bits, mode := md, modulus := o.modulus, roundId := o.src,
          seqNext := if init then endSeq else max m.seqNext endSeq, passTag := 0,
          count := (if init then 0 else m.count) + use.length, saturated := r.2 || (!init && m.saturated),
          mark := true, model := !init && m.model, chain := if init then .none else m.chain,
          chainDigest := if init then [] else m.chainDigest }
      ({ tileJob s t.2.2 t.2.1 (intBytes bits r.1) nm with
          coord := some (o.coordTile + t.1), summands := use.map (fun b => b.number.getD 0), item := t.1,
          group := groupRest s t.2.2 o.splitWays },
       subs.length - use.length))
    let skipped := (work.map (fun r => r.2)).sum
    startJobs (modFlight s id (fun f => { f with skipped := skipped })) id (work.map (fun r => r.1)) (resultWord 0 0 skipped)

/-- ACCUMULATE from a list of addresses (R74, R75, R79). -/
def accList (s : State) (id : Nat) (h : DescHdr) (o : AccOps) : State :=
  let p := h.p.val
  let bits := widthBits o.width
  let sb := widthBits o.srcWidth
  let md := modeOf o.mode
  let init := bvBit o.flags 0
  let addrs := listAddrs s p o.src o.count
  let plan := tilePlan s p (tileIx o.dstTile) (tileUnits bits) o.tileCount o.splitWays
  let isDone := fun (t : Nat × Nat × Nat) =>
    let m := unitMeta s p t.2.1
    m.state == .plain && m.passTag == o.first && m.width == bits
  let jobs := (plan.filter (fun t => !isDone t)).map (fun t =>
    let m := unitMeta s p t.2.1
    let at_ := fun a => a + (o.coordTile + t.1) * 512 * sb
    let vals := addrs.map (fun a => (elems (sb / 8) (pread s p (at_ a) (512 * sb))).map (sourceElem md o.modulus sb))
    let marks := addrs.map (fun a => marksOf s p (at_ a) (512 * sb))
    let start := if init then zeroTile else tileInts md bits (readTile s p t.2.1 bits)
    let r := splitFold md bits o.modulus o.splitWays start vals
    let nm : TileMeta :=
      { state := .plain, width := bits, mode := md, modulus := o.modulus, passTag := o.first,
        count := (if init then 0 else m.count) + vals.length, saturated := r.2 || (!init && m.saturated),
        mark := marks.any (fun k => k.1) || (!init && m.mark), model := marks.any (fun k => k.2) || (!init && m.model),
        chain := if init then .none else m.chain, chainDigest := if init then [] else m.chainDigest }
    { tileJob s t.2.2 t.2.1 (intBytes bits r.1) nm with item := t.1, group := groupRest s t.2.2 o.splitWays })
  let skipped := o.count * (plan.filter isDone).length
  startJobs (modFlight s id (fun f => { f with skipped := skipped })) id jobs (resultWord 0 0 skipped)

/-- ACCUMULATE (R79): the state checks at dispatch, then the fold, or the wait for numbers. -/
def startAccumulate (s : State) (id : Nat) (h : DescHdr) (o : AccOps) : State :=
  let p := h.p.val
  let bits := widthBits o.width
  let first := tileIx o.dstTile
  let w := if o.srcKind = 0 then (windowFor (part s p) .submit o.src).filter Window.readable else none
  let metas := (List.range o.tileCount).map (fun i => unitMeta s p (first + i * tileUnits bits))
  if o.srcKind = 0 ∧ w.isNone then refuse s id stPolicy
  else if !bvBit o.flags 0 && !metas.all (fun m => accTileOk m o w) then refuse s id stPolicy
  else if !planOk s p first (tileUnits bits) o.tileCount o.splitWays then refuse s id stEngineLost
  else
    match w with
    | none => accList s id h o
    | some win => if rangeReady win o.first o.count then accWindow s id h o win else waitIn s id .numbers

/-- Operand ranges of ACC_DRAIN (Table 3.6, R82). -/
def drainRange (o : DrainOps) : Bool :=
  decide (1 ≤ o.tileCount) && decide (o.tileCount ≤ 2 ^ 22) && f32Finite o.scale.toNat && f32Finite o.bias.toNat &&
    f32NonNeg o.actParam.toNat && decide (o.activation ≤ 3) && decide (o.outFormat ≤ 4) && decide (o.fracBits ≤ 24) &&
    decide (o.elemCount ≤ o.tileCount * 4096)

/-- The width of the tiles a range holds: that of its first unit. -/
def rangeWidth (s : State) (p first : Nat) : Nat := (unitMeta s p first).width

/-- Bytes of one output tile of a drain. -/
def drainTileBytes (s : State) (p : Nat) (o : DrainOps) : Nat :=
  4096 * formatBytes o.outFormat (rangeWidth s p (tileIx o.srcTile) / 8)

/-- Units between the output tiles of a drain; an int8 tile takes a whole unit (R82). -/
def drainUnits (s : State) (p : Nat) (o : DrainOps) : Nat :=
  (drainTileBytes s p o + 8191) / 8192

/-- The tiles an ACC_DRAIN names. -/
def drainClaims (s : State) (p : Nat) (o : DrainOps) : List Claim :=
  let w := rangeWidth s p (tileIx o.srcTile)
  let n := (o.elemCount + 4095) / 4096
  tileClaim o.srcTile o.tileCount w ::
    (if bvBit o.flags 3 then []
     else [{ first := tileIx o.dst, units := n * drainUnits s p o, align := drainUnits s p o }])

/-- A DRAM destination lies in partition DRAM; the window is never a destination (R82). -/
def drainAddress (s : State) (p : Nat) (o : DrainOps) : Bool :=
  let bytes := o.elemCount * formatBytes o.outFormat (rangeWidth s p (tileIx o.srcTile) / 8)
  !bvBit o.flags 3 || (o.dst / 2 ^ 60 == 0 && addrFits (part s p) o.dst bytes 1)

/-- A tile's elements as signed integers (R55 step 1). -/
def signedElems (m : TileMeta) (vs : List Nat) : List Int :=
  match m.mode with
  | .modq => vs.map (centred m.modulus)
  | _ => vs.map (signed m.width)

/-- The output words of a drained tile: the element's own word for format 0, else the fused steps (R57, R82). A binary64
tile drained as a native integer has no stated word: the output is a free value (log entry 11). -/
def drainWords (s : State) (k : Fused) (f : Nat) (m : TileMeta) (vs : List Nat) : List Nat :=
  if m.mode = .f64 then
    if k.fmt = 0 then (List.range vs.length).map (fun i => leNat ((List.range 8).map (fun j => Config.freeByte s.freeCtr (8 * i + j))))
    else vs.map (fun v => fusedFrom k (ofF64 v))
  else if k.fmt = 0 then vs
  else (signedElems m vs).map (fusedInt k f)

/-- ACC_DRAIN (R82). The steps of R57 scale by frac_bits in the sealed regime alone; that the ciphertext regime's do not is the
model's choice, and so are the output's mode, modulus and width, which the rule leaves open beside PLAIN (log entries 91, 92). -/
def startDrain (s : State) (id : Nat) (h : DescHdr) (o : DrainOps) : State :=
  let p := h.p.val
  let first := tileIx o.srcTile
  let w := rangeWidth s p first
  let k : Fused :=
    { opt := o.flags.toNat, scale := o.scale.toNat, bias := o.bias.toNat, activation := o.activation,
      theta := o.actParam.toNat, fmt := o.outFormat }
  let n := (o.elemCount + 4095) / 4096
  let ob := formatBytes o.outFormat (w / 8)
  if !planOk s p first (tileUnits w) n 1 then refuse s id stEngineLost
  else
    let jobs := (tilePlan s p first (tileUnits w) n 1).map (fun t =>
      let m := unitMeta s p t.2.1
      let count := min 4096 (o.elemCount - 4096 * t.1)
      let vs := (readTile s p t.2.1 w).take count
      let bs := packElems ob (drainWords s k (if (part s p).regime = 3 then o.fracBits else 0) m vs)
      let nm : TileMeta :=
        { state := .plain, width := max 16 (8 * ob), mode := if o.outFormat = 0 then m.mode else .mod2k,
          modulus := if o.outFormat = 0 then m.modulus else 0, saturated := m.saturated, mark := m.mark, model := m.model }
      if bvBit o.flags 3 then { byteJob s t.2.2 (o.dst + 4096 * ob * t.1) bs m.mark m.model with item := t.1 }
      else { tileJob s t.2.2 (tileIx o.dst + drainUnits s p o * t.1) bs nm with item := t.1 })
    startJobs (spendFree s) id jobs 0

/-- The sub-operations of STATS (Table 3.8). -/
inductive StatsSub where
  | sumsq
  | moments
  | finishing
  | rsqrt
deriving DecidableEq, Repr

/-- Operand ranges of STATS (Table 3.7). -/
def statsRange (k : StatsSub) (x : Partition) (o : StatsOps) : Bool :=
  decide (1 ≤ o.tileCount) && decide (o.tileCount ≤ 2 ^ 22) &&
    (match k with
     | .sumsq => decide (o.srcKind ≤ 1) && decide (o.srcWidth ≤ 2) && decide (1 ≤ o.count) && decide (o.count ≤ 2 ^ 24) &&
         (o.srcKind == 1 || policyBits x == widthBits o.srcWidth) && (o.srcKind == 0 || o.first != 0)
     | .moments => decide (o.srcKind ≤ 1) && decide (o.srcWidth ≤ 2) && decide (1 ≤ o.count) && decide (o.count ≤ 2 ^ 24) &&
         (o.srcKind == 1 || policyBits x == widthBits o.srcWidth) && (o.srcKind == 0 || o.first != 0)
     | .finishing => true
     | .rsqrt => f32NonNeg o.eps.toNat)

/-- The tiles a STATS names. SUMSQ names none: its operands tile_a and tile_b are not used, and tile_count gives how much
of each summand is read. -/
def statsClaims (s : State) (p : Nat) (k : StatsSub) (o : StatsOps) : List Claim :=
  let list :=
    if o.srcKind = 0 then []
    else
      let sp := coordSpan 0 o.tileCount (widthBits o.srcWidth)
      byteClaims o.src (8 * o.count) none ++ (listAddrs s p o.src o.count).flatMap (fun a => byteClaims (a + sp.1) sp.2 none)
  match k with
  | .sumsq => list ++ byteClaims o.resultAddr (16 * o.count) none
  | .moments => [tileClaim o.tileA o.tileCount 64, tileClaim o.tileB o.tileCount 64] ++ list
  | .finishing => [tileClaim o.tileA o.tileCount 64, tileClaim o.tileB o.tileCount 64]
  | .rsqrt => [tileClaim o.tileA o.tileCount 32, tileClaim o.tileB o.tileCount 32]

/-- The addresses of a STATS lie in the partition; its two tile ranges do not overlap unless RSQRT works in place. That an overlap
of tile_a and tile_b ends ACCESS_DENIED is the model's choice: the spec names no status (log entry 93). -/
def statsAddress (s : State) (p : Nat) (k : StatsSub) (o : StatsOps) : Bool :=
  let x := part s p
  let list := o.srcKind == 0 || (addrFits x o.src (8 * o.count) 1 &&
    (listAddrs s p o.src o.count).all (fun a => addrFits x a (o.tileCount * 512 * widthBits o.srcWidth) 1))
  match k with
  | .sumsq => list && addrFits x o.resultAddr (16 * o.count) 1
  | .moments => list && !overlaps (tileIx o.tileA) (4 * o.tileCount) (tileIx o.tileB) (4 * o.tileCount)
  | .finishing => !overlaps (tileIx o.tileA) (4 * o.tileCount) (tileIx o.tileB) (4 * o.tileCount)
  | .rsqrt => true

/-- The summands of a STATS: each as the function from a coordinate tile to its elements, with its marks. -/
def statsSummand (s : State) (p : Nat) (o : StatsOps) (w : Option Window) (i c : Nat) : List Int × (Bool × Bool) :=
  let sb := widthBits o.srcWidth
  match w with
  | some win =>
    match (acceptedRange win o.first o.count)[i]? with
    | some b => ((windowElems s p win b c).map (signed sb), (true, false))
    | none => (zeroTile, (false, false))
  | none =>
    let a := (listAddrs s p o.src o.count).getD i 0 + c * 512 * sb
    ((elems (sb / 8) (pread s p a (512 * sb))).map (signed sb), marksOf s p a (512 * sb))

/-- SUMSQ: one 16-byte sum of squares for each summand (R84). Which engine runs a summand whose tiles span several is not
stated: the model takes the first engine of the first Sleeve (log entry 93). -/
def statsSums (s : State) (id : Nat) (h : DescHdr) (o : StatsOps) (w : Option Window) (n : Nat) : State :=
  let p := h.p.val
  let first := (enginesOf s ((part s p).sleeveList.getD 0 0)).getD 0 0
  let jobs := (List.range n).map (fun i =>
    let parts := (List.range o.tileCount).map (statsSummand s p o w i)
    let sum := (parts.map (fun t => (t.1.map (fun v => v * v)).sum)).sum
    let marks := (parts.any (fun t => t.2.1), parts.any (fun t => t.2.2))
    { byteJob s first (o.resultAddr + 16 * i) (natLe 16 sum.toNat) marks.1 marks.2 with item := i })
  let toWindow := inWindow o.resultAddr && jobs.any (fun j => j.mark || j.model)
  if toWindow then refuse s id stPolicy else startJobs s id jobs 0

/-- The state a tile of MOMENTS must be in without init (R75, R79, R84). -/
def momentsTileOk (m : TileMeta) (o : StatsOps) (w : Option Window) : Bool :=
  m.width == 64 && m.mode == .sats &&
    (match w with
     | some win => m.state == .round && m.roundId == o.src && !leavesGap win m.seqNext o.first
     | none => m.state == .plain)

/-- Add a square to a second moment, clamped to [0, 2^63 - 1] (Table 3.8). -/
def addSquare (a b : Int) : Int × Bool :=
  let y := clampInt 0 (2 ^ 63 - 1) (a + b * b)
  (y, y != a + b * b)

/-- MOMENTS: sums and sums of squares (R84), each tile under its own seq_next or pass_tag (R75); `c0` is the coordinate tile of
the first. -/
def statsMoments (c0 : Nat) (s : State) (id : Nat) (h : DescHdr) (o : StatsOps) (w : Option Window) (n : Nat) : State :=
  let p := h.p.val
  let init := bvBit o.flags 0
  let numbers := (w.map (fun win => (acceptedRange win o.first o.count).map (fun b => b.number.getD 0))).getD (List.replicate n 0)
  let isDone := fun (u : Nat) =>
    let m := unitMeta s p u
    w.isNone && m.state == .plain && m.passTag == o.first && m.width == 64
  let one : Bool → Nat → Nat → Nat → List TileJob := fun square c e u =>
    if isDone u then []
    else
      let m := unitMeta s p u
      let base := if init then o.first else m.seqNext
      let use := (List.range n).filter (fun i => w.isNone || decide (base ≤ numbers.getD i 0))
      let parts := use.map (fun i => statsSummand s p o w i (c0 + c))
      let start := if init then zeroTile else tileInts .sats 64 (readTile s p u 64)
      let r :=
        if square then
          (parts.map (fun q => q.1)).foldl (fun (acc : List Int × Bool) v =>
            let r := List.zipWith addSquare acc.1 v
            (r.map (fun e => e.1), acc.2 || r.any (fun e => e.2))) (start, false)
        else foldTiles .sats 64 0 start (parts.map (fun q => q.1))
      let endSeq := o.first + o.count
      let nm : TileMeta :=
        { state := if w.isSome then .round else .plain, width := 64, mode := .sats,
          roundId := if w.isSome then o.src else 0,
          seqNext := if w.isSome then (if init then endSeq else max m.seqNext endSeq) else 0,
          passTag := if w.isSome then 0 else o.first, count := (if init then 0 else m.count) + use.length,
          saturated := r.2 || (!init && m.saturated),
          mark := parts.any (fun q => q.2.1) || (!init && m.mark),
          model := parts.any (fun q => q.2.2) || (!init && m.model),
          chain := if init then .none else m.chain, chainDigest := if init then [] else m.chainDigest }
      [{ tileJob s e u (intBytes 64 r.1) nm with item := c }]
  let jobs := (tilePlan s p (tileIx o.tileA) 4 o.tileCount 1).flatMap (fun t =>
    one false t.1 t.2.2 t.2.1 ++ one true t.1 t.2.2 (tileIx o.tileB + 4 * t.1))
  startJobs s id jobs 0

/-- FINISH of one element: mean and variance as binary64 words (R85). -/
def finishElem (n : Nat) (sat : Bool) (s1 s2 : Int) : Nat × Nat :=
  let d := (n : Int) * s2 - s1 * s1
  let d' := if d < 0 ∧ sat then 0 else d
  (toF64 (roundFrac binary64 (decide (s1 < 0)) s1.natAbs n),
    toF64 (roundFrac binary64 (decide (d' < 0)) d'.natAbs (n * n)))

/-- FINISH: mean and population variance (R84, R85). -/
def statsFinish (s : State) (id : Nat) (h : DescHdr) (o : StatsOps) : State :=
  let p := h.p.val
  let a0 := tileIx o.tileA
  let b0 := tileIx o.tileB
  let jobs := (tilePlan s p a0 4 o.tileCount 1).flatMap (fun t =>
    let ma := unitMeta s p t.2.1
    let mb := unitMeta s p (b0 + 4 * t.1)
    let xs := List.zipWith (finishElem ma.count mb.saturated)
      (tileInts .sats 64 (readTile s p t.2.1 64)) (tileInts .sats 64 (readTile s p (b0 + 4 * t.1) 64))
    let nm : TileMeta :=
      { state := .plain, width := 64, mode := .f64, count := ma.count, mark := ma.mark || mb.mark,
        model := ma.model || mb.model }
    [{ tileJob s t.2.2 t.2.1 (packElems 8 (xs.map (fun e => e.1))) { nm with saturated := ma.saturated } with item := t.1 },
     { tileJob s t.2.2 (b0 + 4 * t.1) (packElems 8 (xs.map (fun e => e.2))) { nm with saturated := mb.saturated } with item := t.1 }])
  startJobs s id jobs 0

/-- RSQRT of one element and whether it clamped (R84, R85). -/
def rsqrtElem (f : Nat) (eps : Fl) (v : Nat) : Nat × Bool :=
  let y := max 0 (signed 32 v)
  let a := ((flInt y (-(f : Int))).add eps).round binary64
  if a.isZero then (2 ^ 31 - 1, true)
  else
    let fr := a.frac
    let r := div64 ⟨false, 1, 0⟩ (sqrtFrac fr.1 fr.2)
    let n := ({ r with e := r.e + (f : Int) } : Fl).toInt
    let c := clampInt (-(2 ^ 31)) (2 ^ 31 - 1) n
    (toWord 32 c, c != n)

/-- RSQRT (R84, R85); in place the tile keeps its saturated field (R73). -/
def statsRsqrt (s : State) (id : Nat) (h : DescHdr) (o : StatsOps) : State :=
  let p := h.p.val
  let jobs := (tilePlan s p (tileIx o.tileA) 2 o.tileCount 1).map (fun t =>
    let m := unitMeta s p t.2.1
    let rs := (readTile s p t.2.1 32).map (rsqrtElem o.fracBits (ofF32 o.eps.toNat))
    let nm : TileMeta :=
      { state := .plain, width := 32, mode := .sats, mark := m.mark, model := m.model,
        saturated := rs.any (fun e => e.2) || (tileIx o.tileA == tileIx o.tileB && m.saturated) }
    { tileJob s t.2.2 (tileIx o.tileB + 2 * t.1) (packElems 4 (rs.map (fun e => e.1))) nm with item := t.1 })
  startJobs s id jobs 0

/-- STATS (R84) from coordinate tile `c0` on. That FINISH of tiles that are not 64-bit SATS ends POLICY_DENIED is the model's
choice: the spec names no status (log entry 93). -/
def startStatsAt (c0 : Nat) (k : StatsSub) (s : State) (id : Nat) (h : DescHdr) (o : StatsOps) : State :=
  let p := h.p.val
  let w := if o.srcKind = 0 then (windowFor (part s p) .submit o.src).filter Window.readable else none
  let metas := fun t u => (List.range o.tileCount).map (fun i => unitMeta s p (tileIx t + i * u))
  let fromWindow := (k == .sumsq || k == .moments) && o.srcKind == 0
  let subs := (w.map (fun win => acceptedRange win o.first o.count)).getD []
  let n := if o.srcKind = 0 then subs.length else o.count
  if fromWindow && w.isNone then refuse s id stPolicy
  else if fromWindow && !(w.map (fun win => rangeReady win o.first o.count)).getD true then waitIn s id .numbers
  else if fromWindow && subs.any (fun b => !sealedReady (part s p) b) then refuse s id stPolicy
  else
    match k with
    | .sumsq => statsSums s id h o w n
    | .moments =>
      if !bvBit o.flags 0 && !(metas o.tileA 4 ++ metas o.tileB 4).all (fun m => momentsTileOk m o w) then
        refuse s id stPolicy
      else if !planOk s p (tileIx o.tileA) 4 o.tileCount 1 then refuse s id stEngineLost
      else statsMoments c0 s id h o w n
    | .finishing =>
      if !(metas o.tileA 4 ++ metas o.tileB 4).all (fun m => m.width == 64 && m.mode == .sats && m.count != 0) then
        refuse s id stPolicy
      else if !planOk s p (tileIx o.tileA) 4 o.tileCount 1 then refuse s id stEngineLost
      else statsFinish s id h o
    | .rsqrt =>
      if !planOk s p (tileIx o.tileA) 2 o.tileCount 1 then refuse s id stEngineLost
      else statsRsqrt s id h o

/-- STATS (R84). -/
def startStats (k : StatsSub) (s : State) (id : Nat) (h : DescHdr) (o : StatsOps) : State := startStatsAt 0 k s id h o

/-- Operand ranges of RANK (Table 3.9). -/
def rankRange (o : RankOps) : Bool :=
  decide (1 ≤ o.tileCount) && decide (o.tileCount ≤ 2 ^ 16) && decide (o.elemCount ≤ o.tileCount * 4096) &&
    decide (1 ≤ o.k) && decide (o.k ≤ 1024) && (o.lapelSleeve == 0 || o.lapelSleeve == 4 || o.lapelSleeve == 8 || o.lapelSleeve == 12)

/-- The tiles a RANK names. -/
def rankClaims (s : State) (p : Nat) (o : RankOps) : List Claim :=
  tileClaim o.srcTile o.tileCount (rangeWidth s p (tileIx o.srcTile)) :: byteClaims o.dstAddr (16 * min o.k o.elemCount) none

/-- The destination lies in the partition's memory and the named Sleeve is the partition's (R86). -/
def rankAddress (x : Partition) (o : RankOps) : Bool :=
  addrFits x o.dstAddr (16 * min o.k o.elemCount) 1 && x.sleeveList.contains o.lapelSleeve

/-- The key of a ranked value (Table 3.9). -/
def rankKey (magnitude : Bool) (v : Int) : Int := if magnitude then (v.natAbs : Int) else v

/-- Put an entry (position, value) into a list in descending key, equal keys in ascending position (R87). -/
def rankInsert (magnitude : Bool) (e : Nat × Int) : List (Nat × Int) → List (Nat × Int)
  | [] => [e]
  | x :: xs => if rankKey magnitude x.2 < rankKey magnitude e.2 then e :: x :: xs else x :: rankInsert magnitude e xs

/-- The k entries of greatest key (R87). -/
def rankList (magnitude : Bool) (k : Nat) (vs : List Int) : List (Nat × Int) :=
  ((List.range vs.length).zip vs).foldl (fun acc e => (rankInsert magnitude e acc).take k) []

/-- RANK (R86, R87). -/
def startRank (s : State) (id : Nat) (h : DescHdr) (o : RankOps) : State :=
  let p := h.p.val
  let first := tileIx o.srcTile
  let w := rangeWidth s p first
  if lapelUsable s o.lapelSleeve = false then refuse s id stRank
  else
    let units := (List.range o.tileCount).map (fun i => first + i * tileUnits w)
    let vals := (units.flatMap (fun u => signedElems (unitMeta s p u) (readTile s p u w))).take o.elemCount
    let entries := rankList (bvBit o.flags 0) o.k vals
    let marks := marksOf s p (pocketAddr first) (o.tileCount * 512 * w)
    let bs := entries.flatMap (fun e => natLe 4 e.1 ++ zeros 4 ++ natLe 8 (toWord 64 e.2))
    if inWindow o.dstAddr && (marks.1 || marks.2) then refuse s id stPolicy
    else
      let e := (slotOf s (9 * o.lapelSleeve)).logical.getD (8 * o.lapelSleeve)
      startJobs s id [byteJob s e o.dstAddr bs marks.1 marks.2] entries.length

end Sys2Proof.Machine
end

