-- ==== Sys2Proof/Machine/MlKem.lean ====
section
/-! DEFINITION. ML-KEM-768 (R45, R108, R109, R181: the spec names it; FIPS 203 gives it; log entry 6). Polynomials are lists of
256 numbers below 3,329. -/

namespace Sys2Proof.Machine

/-- The modulus of ML-KEM. -/
def kemQ : Nat := 3329

/-- The seven low bits of a number, reversed. -/
def bitRev7 (i : Nat) : Nat :=
  (List.range 7).foldl (fun a k => a + i / 2 ^ k % 2 * 2 ^ (6 - k)) 0

/-- The powers 17^bitRev7(i). -/
def kemZetas : List Nat :=
  (List.range 128).map (fun i => 17 ^ bitRev7 i % kemQ)

/-- The twiddles 17^(2·bitRev7(i) + 1) of the base multiplication. -/
def kemGammas : List Nat :=
  (List.range 128).map (fun i => 17 ^ (2 * bitRev7 i + 1) % kemQ)

/-- A coefficient of a polynomial. -/
def coef (f : List Nat) (i : Nat) : Nat :=
  f.getD i 0

/-- One layer of the transform: blocks of 2·len, the first with twiddle number k. -/
def kemNttLayer (f : List Nat) (len k : Nat) : List Nat :=
  let a := f.toArray
  let z := kemZetas.toArray
  (List.range 256).map (fun i =>
    let b := i / (2 * len)
    let zeta := z.getD (k + b) 0
    if i % (2 * len) < len then (a.getD i 0 + zeta * a.getD (i + len) 0) % kemQ
    else (a.getD (i - len) 0 + (kemQ - zeta) * a.getD i 0) % kemQ)

/-- The number-theoretic transform. -/
def kemNtt (f : List Nat) : List Nat :=
  [(128, 1), (64, 2), (32, 4), (16, 8), (8, 16), (4, 32), (2, 64)].foldl (fun g p => kemNttLayer g p.1 p.2) f

/-- One layer of the inverse transform: blocks of 2·len, the first with twiddle number k, counting down. -/
def kemInvLayer (f : List Nat) (len k : Nat) : List Nat :=
  let a := f.toArray
  let z := kemZetas.toArray
  (List.range 256).map (fun i =>
    let b := i / (2 * len)
    if i % (2 * len) < len then (a.getD i 0 + a.getD (i + len) 0) % kemQ
    else z.getD (k - b) 0 * (a.getD i 0 + (kemQ - a.getD (i - len) 0)) % kemQ)

/-- The inverse transform; 3,303 is the inverse of 128. -/
def kemInv (f : List Nat) : List Nat :=
  ([(2, 127), (4, 63), (8, 31), (16, 15), (32, 7), (64, 3), (128, 1)].foldl (fun g p => kemInvLayer g p.1 p.2) f).map
    (fun x => x * 3303 % kemQ)

/-- The product of two transformed polynomials. -/
def kemMul (f g : List Nat) : List Nat :=
  let a := f.toArray
  let b := g.toArray
  let w := kemGammas.toArray
  (List.range 256).map (fun i =>
    let j := i / 2
    if i % 2 = 0 then (a.getD i 0 * b.getD i 0 + a.getD (i + 1) 0 * b.getD (i + 1) 0 % kemQ * w.getD j 0) % kemQ
    else (a.getD (i - 1) 0 * b.getD i 0 + a.getD i 0 * b.getD (i - 1) 0) % kemQ)

/-- Sum of two polynomials. -/
def kemAdd (f g : List Nat) : List Nat :=
  List.zipWith (fun a b => (a + b) % kemQ) f g

/-- Difference of two polynomials. -/
def kemSub (f g : List Nat) : List Nat :=
  List.zipWith (fun a b => (a + (kemQ - b)) % kemQ) f g

/-- A dot product of transformed vectors. -/
def kemDot (u v : List (List Nat)) : List Nat :=
  (List.zipWith kemMul u v).foldl kemAdd (List.replicate 256 0)

/-- The candidates of three bytes each, below the modulus. -/
def kemCandidates : Nat → Bytes → List Nat
  | 0, _ => []
  | n + 1, b =>
    let c := leNat (b.take 3)
    (if c % 4096 < kemQ then [c % 4096] else []) ++ (if c / 4096 < kemQ then [c / 4096] else [])
      ++ kemCandidates n (b.drop 3)

/-- Candidates from up to `n` further blocks of SHAKE128 until there are 256. -/
def kemSampleFrom : Nat → List Word → List Nat → List Nat
  | 0, _, acc => acc
  | n + 1, st, acc =>
    if 256 ≤ acc.length then acc
    else kemSampleFrom n (keccakF st) (acc ++ kemCandidates 56 ((keccakBytes st).take 168))

/-- The matrix entry in row i and column j. -/
def kemSampleNtt (rho : Bytes) (i j : Nat) : List Nat :=
  (kemSampleFrom 280 (keccakState 168 0x1f (rho ++ [BitVec.ofNat 8 j, BitVec.ofNat 8 i])) []).take 256

/-- A polynomial from the centred binomial distribution with eta 2. -/
def kemCbd (s : Bytes) (n : Nat) : List Nat :=
  (shake256 (s ++ [BitVec.ofNat 8 n]) 128).flatMap (fun b =>
    let v := b.toNat
    let x (k : Nat) : Nat := (v / 2 ^ k % 2 + v / 2 ^ (k + 1) % 2 + kemQ - v / 2 ^ (k + 2) % 2 - v / 2 ^ (k + 3) % 2) % kemQ
    [x 0, x 4])

/-- Coefficients of `d` bits as bytes. -/
def kemEncode (d : Nat) (f : List Nat) : Bytes :=
  natLe (32 * d) (f.foldr (fun c acc => c + 2 ^ d * acc) 0)

/-- `n` numbers of `d` bits from the low end of a number. -/
def digitsFrom (d : Nat) : Nat → Nat → List Nat
  | 0, _ => []
  | n + 1, v => v % 2 ^ d :: digitsFrom d n (v / 2 ^ d)

/-- Bytes as coefficients of `d` bits; with d = 12 reduced by the modulus. -/
def kemDecode (d : Nat) (b : Bytes) : List Nat :=
  (digitsFrom d 256 (leNat b)).map (fun c => if d = 12 then c % kemQ else c)

/-- Compression to `d` bits, to nearest with halves up. -/
def kemCompress (d x : Nat) : Nat :=
  (2 * x * 2 ^ d + kemQ) / (2 * kemQ) % 2 ^ d

/-- Decompression from `d` bits. -/
def kemDecompress (d y : Nat) : Nat :=
  (2 * y * kemQ + 2 ^ d) / 2 ^ (d + 1)

/-- The matrix, row by row. -/
def kemMatrix (rho : Bytes) : List (List (List Nat)) :=
  (List.range 3).map (fun i => (List.range 3).map (fun j => kemSampleNtt rho i j))

/-- Key generation from the seeds d and z: encapsulation key (1,184 bytes) and decapsulation key (2,400 bytes). -/
def kemKeyGen (d z : Bytes) : Bytes × Bytes :=
  let g := sha3Wide (d ++ [3#8])
  let rho := g.take 32
  let sigma := g.drop 32
  let s := (List.range 3).map (fun i => kemNtt (kemCbd sigma i))
  let e := (List.range 3).map (fun i => kemNtt (kemCbd sigma (i + 3)))
  let t := List.zipWith (fun row ei => kemAdd (kemDot row s) ei) (kemMatrix rho) e
  let ek := t.flatMap (kemEncode 12) ++ rho
  (ek, s.flatMap (kemEncode 12) ++ ek ++ sha3 ek ++ z)

/-- The public-key encryption of a 32-byte message. -/
def kemEncrypt (ek m r : Bytes) : Bytes :=
  let t := (List.range 3).map (fun i => kemDecode 12 (slice ek (384 * i) 384))
  let a := kemMatrix (ek.drop 1152)
  let y := (List.range 3).map (fun i => kemNtt (kemCbd r i))
  let u := (List.range 3).map (fun j =>
    kemAdd (kemInv (kemDot (a.map (fun row => row.getD j [])) y)) (kemCbd r (3 + j)))
  let mu := (kemDecode 1 m).map (kemDecompress 1)
  let v := kemAdd (kemAdd (kemInv (kemDot t y)) (kemCbd r 6)) mu
  u.flatMap (fun f => kemEncode 10 (f.map (kemCompress 10))) ++ kemEncode 4 (v.map (kemCompress 4))

/-- The decryption of a 1,088-byte ciphertext. -/
def kemDecrypt (dk c : Bytes) : Bytes :=
  let u := (List.range 3).map (fun i => (kemDecode 10 (slice c (320 * i) 320)).map (kemDecompress 10))
  let v := (kemDecode 4 (c.drop 960)).map (kemDecompress 4)
  let s := (List.range 3).map (fun i => kemDecode 12 (slice dk (384 * i) 384))
  let w := kemSub v (kemInv (kemDot s (u.map kemNtt)))
  kemEncode 1 (w.map (kemCompress 1))

/-- Encapsulation with the message m: shared key and ciphertext. -/
def kemEncaps (ek m : Bytes) : Bytes × Bytes :=
  let g := sha3Wide (m ++ sha3 ek)
  (g.take 32, kemEncrypt ek m (g.drop 32))

/-- Decapsulation: the shared key, with the implicit rejection of a ciphertext that does not match. -/
def kemDecaps (dk c : Bytes) : Bytes :=
  let ek := slice dk 1152 1184
  let m := kemDecrypt (dk.take 1152) c
  let g := sha3Wide (m ++ slice dk 2336 32)
  if kemEncrypt ek m (g.drop 32) = c then g.take 32 else shake256 (dk.drop 2368 ++ c) 32

end Sys2Proof.Machine
end

