-- ==== Sys2Proof/Machine/Masking.lean ====
section
/-! DEFINITION. SEED_DERIVE, SHARE_RECON and MASK_EXPAND (R102 to R124). -/

namespace Sys2Proof.Machine

/-! The neighbour graph -/

/-- A neighbour table (R103). -/
structure GraphTable where
  fmt : Nat
  degree : Nat
  rsvdZero : Bool
  count : Nat
  graphId : Nat
  pre : Bytes
  len : Nat
  records : List (Nat × List Nat)
deriving DecidableEq, Repr

/-- A neighbour table's bytes in all, by its header. -/
def graphLen (b : Bytes) : Nat := 64 + 4 * field b 4 4 * (field b 2 1 + 1)

/-- A neighbour table from its bytes (Table 4.1). -/
def graphOf (b : Bytes) : GraphTable :=
  let d := field b 2 1
  let n := field b 4 4
  { fmt := field b 0 2, degree := d, rsvdZero := field b 3 1 == 0 && (slice b 0x28 24).all (fun x => x == 0#8),
    count := n, graphId := field b 8 8, pre := slice b 0x10 16, len := field b 0x20 8,
    records := (pieces (4 * (d + 1)) n (b.drop 64)).map (fun r => (field r 0 4, elems 4 (r.drop 4))) }

/-- The neighbours of a client in a list of records. -/
def neighboursOf (rs : List (Nat × List Nat)) (id : Nat) : Option (List Nat) :=
  (rs.find? (fun r => r.1 == id)).map (fun r => r.2)

/-- Numbers rise strictly. -/
def rising : List Nat → Bool
  | a :: b :: t => decide (a < b) && rising (b :: t)
  | _ => true

/-- The checks of a neighbour table (R104). -/
def graphOk (x : Partition) (t : GraphTable) : Bool :=
  t.fmt == 0x0105 && t.degree == field x.policy 16 1 && t.rsvdZero && decide (t.degree + 1 ≤ t.count) &&
    decide (t.count ≤ 2 ^ 24) && t.pre == x.digestPrefix && t.len == 64 + 4 * t.count * (t.degree + 1) &&
    rising (t.records.map (fun r => r.1)) &&
    t.records.all (fun r => decide r.2.Nodup && r.2.all (fun j =>
      j != r.1 && ((neighboursOf t.records j).map (fun ns => ns.contains r.1)).getD false))

/-- Coordinate tiles of the policy's dimension. -/
def coordTiles (x : Partition) : Nat := (x.dimension + 4095) / 4096

/-- Bytes that the recovery area must hold (R106). -/
def areaBytes (x : Partition) (n d : Nat) : Nat := 60 * n * d + 80 * n + 4 * coordTiles x

/-- The units of a recovery area (R106): the area may overlap the one it replaces. -/
def seedGraphClaims (o : SeedOps) : List Claim :=
  [{ first := tileIx o.recTile, units := o.recUnits, use := some .recovery }]

/-- The table lies in the window, the copy goes to partition DRAM, and the area is large enough and not another round's (R104, R106,
R189). -/
def seedGraphAddress (s : State) (p : Nat) (o : SeedOps) : Bool :=
  let x := part s p
  let hd := pread s p o.srcAddr 64
  inWindow o.srcAddr && addrFits x o.srcAddr 64 1 && addrFits x o.srcAddr (graphLen hd) 1 && o.graphAddr / 2 ^ 60 == 0 &&
    addrFits x o.graphAddr (graphLen hd) 1 && decide (areaBytes x (field hd 4 4) (field hd 2 1) ≤ o.recUnits * 8192) &&
    x.rounds.all (fun r => r.roundId == o.roundId ||
      !(r.graph.map (fun g => overlaps g.recTile g.recUnits (tileIx o.recTile) o.recUnits)).getD false)

/-- The round's state admits GRAPH (R105). -/
def graphState (x : Partition) (round : Nat) : Bool :=
  (match roundOf x round with
   | some r => !r.bundleOpened &&
       (r.mode == .collecting || r.mode == .closed || r.mode == .recovering || r.mode == .recoverClosed)
   | none => false) &&
    x.rounds.all (fun r => r.roundId == round || r.graph.isNone)

/-- Units of an old area that the new one does not cover return FREE (R105). -/
def dropOldArea (s : State) (p : Nat) (old : Graph) (first units : Nat) : State :=
  (List.range old.recUnits).foldl (fun t i =>
    let u := old.recTile + i
    if first ≤ u ∧ u < first + units then t else freeUnits t p u 1) s

/-- SEED_DERIVE GRAPH (R104 to R106). -/
def startSeedGraph (s : State) (id : Nat) (h : DescHdr) (o : SeedOps) : State :=
  let p := h.p.val
  let x := part s p
  let b := pread s p o.srcAddr (graphLen (pread s p o.srcAddr 64))
  let t := graphOf b
  if !graphState x o.roundId || !graphOk x t then refuse s id stPolicy
  else
    let g : Graph :=
      { degree := t.degree, graphId := t.graphId, records := t.records, recTile := tileIx o.recTile, recUnits := o.recUnits }
    let s1 :=
      match (roundOf x o.roundId).bind (fun r => r.graph) with
      | some old => dropOldArea s p old g.recTile g.recUnits
      | none => s
    let s2 := dropResident (modRound s1 p o.roundId (fun r => { r with graph := some g })) p g.recTile g.recUnits
    let s3 := countDram (writeMarked s2 p o.graphAddr b (plainMeta 16) false false) p o.srcAddr (2 * b.length) false
    finish s3 id stOk 0

/-! Shamir reconstruction -/

/-- λ of index `x` at the point `at_` over the index set `xs` (R115, R116). -/
def shamirCoefficient (xs : List Byte) (x at_ : Byte) : Byte :=
  (xs.filter (fun y => y != x)).foldl (fun acc y =>
    gfMul aesPoly acc (gfMul aesPoly (at_ ^^^ y) (gfInv aesPoly (x ^^^ y)))) 1#8

/-- The value at a point of the polynomials through shares (index, 32 bytes). -/
def shamirAt (shares : List (Byte × Bytes)) (at_ : Byte) : Bytes :=
  let xs := shares.map (fun e => e.1)
  shares.foldl (fun acc e =>
    xorBytes acc (e.2.map (gfMul aesPoly (shamirCoefficient xs e.1 at_)))) (zeros 32)

/-- Share entries in ascending index. -/
def insertShare (e : ShareEntry) : List ShareEntry → List ShareEntry
  | [] => [e]
  | x :: xs => if e.index ≤ x.index then e :: x :: xs else x :: insertShare e xs

/-- What reconstruction finds for an owner: accepted shares, status (0 OK, 1 SHORT, 2 INCONSISTENT) and the secret
(R115 to R117). -/
structure Recon where
  owner : Nat
  kind : Nat
  accepted : Nat
  status : Nat
  secret : Bytes
deriving DecidableEq, Repr

/-- Reconstruct an owner's secret of a kind with threshold `t`. -/
def reconOwner (entries : List ShareEntry) (t owner kind : Nat) : Recon :=
  let es := (entries.filter (fun e => e.owner == owner && e.kind == kind)).foldr insertShare []
  let shares := es.map (fun e => (BitVec.ofNat 8 e.index, e.share))
  let base := shares.take t
  if es.length < t then { owner := owner, kind := kind, accepted := es.length, status := 1, secret := [] }
  else
    let ok := (shares.drop t).all (fun e => shamirAt base e.1 == e.2)
    { owner := owner, kind := kind, accepted := es.length, status := if ok then 0 else 2, secret := shamirAt base 0#8 }

/-- An element put before the first one of a greater or equal key. -/
def insertBy {α : Type} (key : α → Nat) (a : α) : List α → List α
  | [] => [a]
  | x :: xs => if key a ≤ key x then a :: x :: xs else x :: insertBy key a xs

/-- Elements in ascending order of a key; those of one key keep their order. -/
def ascending {α : Type} (key : α → Nat) (l : List α) : List α := l.foldr (insertBy key) []

/-- The owners whose secrets SHARE_RECON rebuilds (R117): every survivor's self-seed, and the pairwise secret of every
dropped client with a survivor neighbour, in ascending id. -/
def reconOwners (r : Round) : List (Nat × Nat) :=
  let recs := (r.graph.map (fun g => g.records)).getD []
  let dropped := (recs.filter (fun e => !r.survivors.contains e.1 && e.2.any r.survivors.contains)).map (fun e => (e.1, 2))
  ascending (fun e => e.1) (r.survivors.map (fun i => (i, 1)) ++ dropped)

/-- The report's record for an owner (R117). -/
def reconRecord (k : Recon) : Bytes :=
  natLe 4 k.owner ++ natLe 1 k.kind ++ natLe 1 k.accepted ++ natLe 1 k.status ++ zeros 1

/-- A KEM_DECAP kind 1 of the round is in flight: its record has not been written (R117, R223). -/
def bundleWork (s : State) (p round : Nat) : Bool :=
  (flying s p).any (fun f => match f.body with | .kemBundle o => o.roundId == round | _ => false)

/-- Every accepted bundle of the round has been opened by a completed KEM_DECAP (R117). -/
def bundlesOpened (x : Partition) (round : Nat) : Bool :=
  match windowFor x .recover round with
  | some w => (acceptedSubs w).all (fun b => b.final)
  | none => true

/-- Where the report goes: partition DRAM or the window (Table 4.5). -/
def reconAddress (s : State) (p : Nat) (o : ShareOps) : Bool :=
  let n := ((roundOf (part s p) o.roundId).map (fun r => (reconOwners r).length)).getD 0
  bulkFits (part s p) o.reportAddr (8 * n)

/-- SHARE_RECON (R115 to R117, Table 4.8). -/
def startShareRecon (s : State) (id : Nat) (h : DescHdr) (o : ShareOps) : State :=
  let p := h.p.val
  let x := part s p
  match roundOf x o.roundId with
  | none => refuse s id stPolicy
  | some r =>
    if r.mode ≠ .recoverClosed ∨ !bundlesOpened x o.roundId ∨ bundleWork s p o.roundId then refuse s id stPolicy
    else
      let found := (reconOwners r).map (fun w => reconOwner r.entries (field x.policy 17 1) w.1 w.2)
      let short := (found.filter (fun k => k.status == 1)).length
      let bad := (found.filter (fun k => k.status == 2)).length
      let s1 := writeMarked s p o.reportAddr (found.flatMap reconRecord) (plainMeta 16) false false
      let s2 :=
        if short = 0 then
          modRound s1 p o.roundId (fun y =>
            { y with mode := .reconstructed, entries := [],
                     secrets := found.map (fun k => { owner := k.owner, kind := k.kind, index := 0, share := k.secret }) })
        else eraseArea (modRound s1 p o.roundId (fun y => { y with mode := .unrecoverable })) p o.roundId
      finish s2 id stOk ((found.length - short) % 2 ^ 24 + short % 2 ^ 24 * 2 ^ 24 + min bad 0xFFFF * 2 ^ 48)

/-! Seed derivation -/

/-- Self-mask seed (Table 4.3). -/
def selfSeed (b : Bytes) (round id : Nat) : Bytes := sha3 (ascii "BA16/self/v1" ++ b ++ natLe 8 round ++ natLe 4 id)

/-- Pair KEM seed (Table 4.3). -/
def pairKemSeed (sec : Bytes) (graphId id : Nat) : Bytes :=
  shake256 (ascii "BA16/pkem/v1" ++ sec ++ natLe 8 graphId ++ natLe 4 id) 64

/-- Encapsulation randomness (Table 4.3). -/
def pairRandom (sec : Bytes) (graphId lo : Nat) : Bytes :=
  sha3 (ascii "BA16/penc/v1" ++ sec ++ natLe 8 graphId ++ natLe 4 lo)

/-- Pair seed (Table 4.3). -/
def pairSeed (k : Bytes) (round lo hi : Nat) : Bytes :=
  sha3 (ascii "BA16/pair/v1" ++ k ++ natLe 8 round ++ natLe 4 lo ++ natLe 4 hi)

/-- The input check of an encapsulation key (R109, FIPS 203): every coefficient below q. -/
def ekOk (ek : Bytes) : Bool :=
  (List.range 3).all (fun i => (digitsFrom 12 256 (leNat (slice ek (384 * i) 384))).all (fun c => decide (c < kemQ)))

/-- The survivor–dropped edges in ascending (dropped id, survivor id) (R110, R111). -/
def droppedEdges (r : Round) : List (Nat × Nat) :=
  let recs := (r.graph.map (fun g => g.records)).getD []
  (recs.filter (fun e => !r.survivors.contains e.1)).flatMap (fun e =>
    (ascending (fun i => i) (e.2.filter r.survivors.contains)).map (fun i => (e.1, i)))

/-- A reconstructed secret. -/
def secretOf (r : Round) (owner kind : Nat) : Bytes :=
  ((r.secrets.find? (fun e => e.owner == owner && e.kind == kind)).map (fun e => e.share)).getD []

/-- A transcript record fits its edge (R110). -/
def transcriptOk (e : Nat × Nat) (b : Bytes) : Bool :=
  field b 0 4 == e.1 && field b 4 4 == e.2 && field b 8 1 == (if e.2 < e.1 then 1 else 2) && zeroAt b 9 7 &&
    (if e.2 < e.1 then ekOk (slice b 16 1184) else zeroAt b (16 + 1088) 96)

/-- The seed of an edge between the dropped client `e.1` and the survivor `e.2`, with its sign (R111). -/
def edgeSeed (r : Round) (graphId : Nat) (e : Nat × Nat) (b : Bytes) : Seed :=
  let sec := secretOf r e.1 2
  let k :=
    if e.2 < e.1 then (kemEncaps (slice b 16 1184) (pairRandom sec graphId e.2)).1
    else
      let dz := pairKemSeed sec graphId e.1
      kemDecaps (kemKeyGen (dz.take 32) (dz.drop 32)).2 (slice b 16 1088)
  { bytes := pairSeed k r.roundId (min e.1 e.2) (max e.1 e.2), plus := decide (e.1 < e.2) }

/-- The transcript lies in the host-visible window (Table 4.2). -/
def seedDeriveAddress (s : State) (p : Nat) (o : SeedOps) : Bool :=
  inWindow o.srcAddr && addrFits (part s p) o.srcAddr (1200 * o.recTile) 1

/-- A seed list entry (R111): the seed, its sign as a signed byte, 7 rsvd bytes. -/
def seedEntry (g : Seed) : Bytes := fit 32 g.bytes ++ [if g.plus then 1#8 else 255#8] ++ zeros 7

/-- Where the seed list stands in its recovery area: behind the 40-byte share entries and secrets that R106 counts before it (log
entry 35). -/
def seedArea (g : Graph) : Nat :=
  pocketAddr g.recTile + 40 * (g.records.length * g.degree) + 40 * g.records.length

/-- SEED_DERIVE DERIVE (R110, R111). -/
def startSeedDerive (s : State) (id : Nat) (h : DescHdr) (o : SeedOps) : State :=
  let p := h.p.val
  match roundOf (part s p) o.roundId with
  | none => refuse s id stPolicy
  | some r =>
    let edges := droppedEdges r
    let recs := pieces 1200 o.recTile (pread s p o.srcAddr (1200 * o.recTile))
    if r.mode ≠ .reconstructed ∨ o.recTile ≠ edges.length ∨
        !(List.zipWith transcriptOk edges recs).all (fun ok => ok) then refuse s id stPolicy
    else
      let gid := (r.graph.map (fun g => g.graphId)).getD 0
      let selfs := r.survivors.map (fun i => ({ bytes := selfSeed (secretOf r i 1) r.roundId i, plus := false } : Seed))
      let pairs := List.zipWith (edgeSeed r gid) edges recs
      let s1 := modRound s p o.roundId (fun y =>
        { y with mode := .derived, seeds := selfs ++ pairs, secrets := [], selfCount := selfs.length,
                 edgeCount := pairs.length })
      let s2 := countDram s1 p o.srcAddr (1200 * o.recTile) false
      let s3 :=
        match r.graph with
        | some g => pwrite s2 p (seedArea g) ((selfs ++ pairs).flatMap seedEntry)
        | none => s2
      finish s3 id stOk (selfs.length % 2 ^ 24 + pairs.length % 2 ^ 24 * 2 ^ 24)

/-! Mask expansion -/

/-- The first `n` bytes of a seed's stream for coordinate tile `c` (R112). -/
def maskStream (mode : Nat) (seed : Bytes) (c n : Nat) : Bytes :=
  if mode = 0 then (ctr128Blocks (aesSchedule seed) ((n + 15) / 16) (c * 2 ^ 64)).take n
  else shake128 (seed ++ natLe 4 c) n

/-- The accepted words of a stream for a modulus with `l` bits (R113). -/
def acceptedWords (q l : Nat) (b : Bytes) : List Nat :=
  ((elems 8 b).map (fun w => w % 2 ^ l)).filter (fun v => decide (v < q))

/-- 4,096 accepted words, the stream read further and further. -/
def zqElems (mode : Nat) (seed : Bytes) (c q l : Nat) : Nat → Nat → List Nat
  | 0, _ => []
  | fuel + 1, n =>
    let vs := acceptedWords q l (maskStream mode seed c n)
    if 4096 ≤ vs.length then vs.take 4096 else zqElems mode seed c q l fuel (2 * n)

/-- The bit length of a modulus. -/
def bitLength (q : Nat) : Nat := (List.range 64).foldl (fun acc i => if q.testBit i then i + 1 else acc) 0

/-- The 4,096 mask elements of a seed for coordinate tile `c` (R113). -/
def maskElems (x : Partition) (seed : Bytes) (c : Nat) : List Nat :=
  let mode := field x.policy 18 1
  if x.elemFormat = 4 then zqElems mode seed c x.modulusQ (bitLength x.modulusQ) 40 65536
  else elems (elemBytes x.elemFormat) (maskStream mode seed c (4096 * elemBytes x.elemFormat))

/-- One seed applied to the elements of a tile (R119). -/
def applySeed (x : Partition) (c : Nat) (vs : List Nat) (g : Seed) : List Nat :=
  let q := if x.elemFormat = 4 then x.modulusQ else 2 ^ policyBits x
  List.zipWith (fun a m => if g.plus then (a + m) % q else (a + (q - m)) % q) vs (maskElems x g.bytes c)

/-- Operand ranges of MASK_EXPAND (Table 4.6). -/
def maskRange (o : MaskOps) : Bool :=
  decide (1 ≤ o.tileCount) && decide (o.tileCount ≤ 2 ^ 22) && decide (1 ≤ o.seedCount) && decide (o.seedCount ≤ 2 ^ 24)

/-- The tiles a MASK_EXPAND names. -/
def maskClaims (x : Partition) (o : MaskOps) : List Claim :=
  [tileClaim o.dstTile o.tileCount (policyBits x)]

/-- A tile may be unmasked (R118). -/
def maskTileOk (x : Partition) (r : Round) (m : TileMeta) : Bool :=
  m.state == .round && m.roundId == r.roundId && m.width == policyBits x &&
    (if x.elemFormat = 4 then m.mode == .modq && m.modulus == x.modulusQ else m.mode == .mod2k) &&
    m.count == r.survivors.length

/-- The passes of one tile: batches of at most 64 seeds, each committed with its mask_next (R119). -/
def maskPasses (s : State) (x : Partition) (engine unit c item : Nat) (m : TileMeta) :
    Nat → Nat → List Seed → List Nat → List TileJob
  | 0, _, _, _ => []
  | fuel + 1, next, seeds, vs =>
    if seeds.isEmpty then []
    else
      let batch := seeds.take 64
      let out := batch.foldl (applySeed x c) vs
      let n := next + batch.length
      { tileJob s engine unit (packElems (m.width / 8) out) { m with release := none } with
          maskNext := some (c, n), item := item, last := (seeds.drop 64).isEmpty } ::
        maskPasses s x engine unit c item m fuel n (seeds.drop 64) out

/-- MASK_EXPAND (R118, R119). A range that runs past the dimension's coordinate tiles is admitted: the spec gives no check of it (log
entry 97). -/
def startMaskExpand (s : State) (id : Nat) (h : DescHdr) (o : MaskOps) : State :=
  let p := h.p.val
  let x := part s p
  let w := policyBits x
  let first := tileIx o.dstTile
  match roundOf x o.roundId with
  | none => refuse s id stPolicy
  | some r =>
    let tiles := (List.range o.tileCount).map (fun i => (o.coordTile + i, first + i * tileUnits w))
    let next := fun c => tabGet 0 r.maskNext c
    if r.mode ≠ .derived ∨ r.seeds.length < o.seedFirst + o.seedCount ∨
        !tiles.all (fun t => maskTileOk x r (unitMeta s p t.2)) ∨ tiles.any (fun t => next t.1 < o.seedFirst) then
      refuse s id stPolicy
    else if !planOk s p first (tileUnits w) o.tileCount 1 then refuse s id stEngineLost
    else
      let endSeed := o.seedFirst + o.seedCount
      let work := (tilePlan s p first (tileUnits w) o.tileCount 1).map (fun t =>
        let c := o.coordTile + t.1
        let from_ := min endSeed (next c)
        let seeds := (r.seeds.drop from_).take (endSeed - from_)
        (maskPasses s x t.2.2 t.2.1 c t.1 (unitMeta s p t.2.1) (seeds.length / 64 + 1) from_ seeds (readTile s p t.2.1 w),
          from_ - o.seedFirst, seeds.length))
      let skipped := (work.map (fun t => t.2.1)).sum
      let stream := (work.map (fun t => t.2.2)).sum * 512 * w
      let s1 := modUsage s p (fun u => { u with keystreamBytes := satAdd u.keystreamBytes stream })
      startJobs (modFlight s1 id (fun f => { f with skipped := skipped })) id (work.flatMap (fun t => t.1)) (resultWord 0 0 skipped)

/-- mask_next of a coordinate tile is written with its tile; when every one reaches the end of the seed list the round
is UNMASKED and its area is erased (R119, Table 4.8). -/
def commitMask (s : State) (p round c n : Nat) : State :=
  let s1 := modRound s p round (fun r => { r with maskNext := tabSet r.maskNext c n })
  match roundOf (part s1 p) round with
  | none => s1
  | some r =>
    if (List.range (coordTiles (part s1 p))).all (fun i => tabGet 0 r.maskNext i == r.seeds.length) then
      eraseArea (modRound s1 p round (fun y => { y with mode := .unmasked })) p round
    else s1

end Sys2Proof.Machine
end

