-- ==== Sys2Proof/Machine/Cipher.lean ====
section
/-! DEFINITION. Ciphertext operators: CT_ADD, KEYSWITCH, ROTATE, RESCALE, MODSWITCH and PARTIAL_DEC
(R151 to R180, R345 to R347). -/

namespace Sys2Proof.Machine

/-! Shared parts -/

/-- Limb `i` of a part whose first unit is `base`, reduced on load (R127, R155). -/
def ctLimb (s : State) (p : Nat) (r : RingParams) (base stride i : Nat) : List Nat :=
  (limbElems s p (limbUnit base stride r.limbUnits i) r.size 64).map (fun x => x % r.q i)

/-- The limbs 0 to `n` - 1 of a part. -/
def ctLimbs (s : State) (p : Nat) (r : RingParams) (base stride n : Nat) : List (List Nat) :=
  (List.range n).map (ctLimb s p r base stride)

/-- The marks of `n` limbs of a part. -/
def ctMarks (s : State) (p : Nat) (r : RingParams) (base stride n : Nat) : Bool × Bool :=
  let ms := (List.range n).map (fun i => marksOf s p (pocketAddr (limbUnit base stride r.limbUnits i)) (8192 * r.limbUnits))
  (ms.any (fun m => m.1), ms.any (fun m => m.2))

/-- Either of two pairs of marks. -/
def joinMarks (a b : Bool × Bool) : Bool × Bool := (a.1 || b.1, a.2 || b.2)

/-- The pass that writes limb `i` of a part of ciphertext `k` of the descriptor's list, on the engine that its placement chooses
(R135). -/
def limbJob (k : Nat) (s : State) (p : Nat) (r : RingParams) (base stride i : Nat) (vs : List Nat) (marks : Bool × Bool) : TileJob :=
  let u := limbUnit base stride r.limbUnits i
  { tileJob s (limbEngine s p u r.limbUnits) u (packElems 8 vs) (modMeta 64 (r.q i) marks) with item := k }

/-- The passes that write a part. -/
def partJobs (k : Nat) (s : State) (p : Nat) (r : RingParams) (base stride : Nat) (limbs : List (List Nat)) (marks : Bool × Bool) :
    List TileJob :=
  (List.range limbs.length).map (fun i => limbJob k s p r base stride i (limbs.getD i []) marks)

/-- Write headers as control data without a mark (R155). -/
def writeHeaders (s : State) (p : Nat) (ws : List (Nat × Bytes)) : State :=
  ws.foldl (fun t w => dropResidentAt (writeMarked t p w.1 w.2 (plainMeta 16) false false) p w.1 w.2.length) s

/-- Give a ciphertext descriptor its passes; its headers are written when the last has committed (R165). The result counts the
ciphertexts (R159). -/
def startCt (s : State) (id p : Nat) (jobs : List TileJob) (headers : List (Nat × Bytes)) (count : Nat) : State :=
  if jobs.isEmpty then finish (writeHeaders s p headers) id stOk (resultWord count 0 0)
  else
    (idleEngines s (jobs.flatMap TileJob.engines)).foldl beginNext
      (modFlight s id (fun f => { f with jobs := jobs, phase := .headers headers, result := resultWord count 0 0 }))

/-- The operators of this chapter need a valid parameter block (R152). -/
def ringValid (s : State) (p a : Nat) : Bool := (ringAt s p a).valid

/-- A header's form agrees with the parameter block (R154, R159). -/
def ctFormOk (r : RingParams) (c : CtHeader) : Bool :=
  c.fmt == 0x0110 && c.parts == 2 && c.scheme == r.scheme && c.log2N == r.log2N &&
    decide (c.level + 1 ≤ r.chain) && c.dataLen == c.len && c.pre == r.pre && !c.incomplete

/-- The Sleeves of the ranges' first units all have an engine. -/
def enginesAt (s : State) (p : Nat) (jobs : List TileJob) : Bool :=
  jobs.all (fun j => engineAt s p (j.addr % 2 ^ 60 / 8192))

/-! CT_ADD -/

/-- Operand ranges of CT_ADD FOLD (Table 6.6). -/
def ctFoldRange (o : CtAddOps) : Bool := decide (1 ≤ o.seqCount) && decide (o.seqCount ≤ 2 ^ 24)

/-- The three reference records of an ADD or SUB: destination, a and b. -/
def ctPairRefs (s : State) (p : Nat) (o : CtAddOps) : CtRef × CtRef × CtRef :=
  (refOf (pread s p o.dstRef 16), refOf (pread s p o.a 16), refOf (pread s p o.b 16))

/-- The tiles an ADD or SUB names. -/
def ctPairClaims (s : State) (p : Nat) (o : CtAddOps) : List Claim :=
  let u := (ringAt s p o.paramAddr).limbUnits
  let rs := ctPairRefs s p o
  let n := (headerAt s p rs.2.1).level + 1
  ctClaims rs.1 2 o.limbStride u n ++ ctClaims rs.2.1 2 o.limbStride u n ++ ctClaims rs.2.2 2 o.limbStride u n

/-- The addresses of an ADD or SUB (R155). -/
def ctPairAddress (s : State) (p : Nat) (o : CtAddOps) : Bool :=
  let x := part s p
  let rs := ctPairRefs s p o
  ringFits s p o.paramAddr && addrFits x o.dstRef 16 1 && addrFits x o.a 16 1 && addrFits x o.b 16 1 &&
    headerFits x rs.1 && headerFits x rs.2.1 && headerFits x rs.2.2 &&
    limbsApart o.limbStride (ringAt s p o.paramAddr).limbUnits ((headerAt s p rs.2.1).level + 1)

/-- CT_ADD ADD and SUB (R157 to R159, R164): `sub` subtracts. -/
def startCtPair (sub : Bool) (s : State) (id : Nat) (h : DescHdr) (o : CtAddOps) : State :=
  let p := h.p.val
  let r := ringAt s p o.paramAddr
  let rs := ctPairRefs s p o
  let a := headerAt s p rs.2.1
  let b := headerAt s p rs.2.2
  if !r.valid || !ctFormOk r a || !ctFormOk r b || a.level != b.level || a.ntt != b.ntt ||
      (r.scheme == 3 && a.scaleExp != b.scaleExp) then refuse s id stPolicy
  else if a.tag ≠ b.tag then refuse s id stKeyTag
  else if a.level = 0 then refuse s id stLevel
  else if a.headroom + b.headroom < r.budget then refuse s id stHeadroom
  else
    let n := a.level + 1
    let comb := fun (xs ys : Nat) =>
      List.zipWith (List.zipWith (fun u v => (u, v))) (ctLimbs s p r xs o.limbStride n) (ctLimbs s p r ys o.limbStride n)
    let out := fun (xs ys : Nat) => (List.range n).map (fun i =>
      ((comb xs ys).getD i []).map (fun e => if sub then (e.1 + (r.q i - e.2)) % r.q i else (e.1 + e.2) % r.q i))
    let m0 := joinMarks (ctMarks s p r rs.2.1.c0 o.limbStride n) (ctMarks s p r rs.2.2.c0 o.limbStride n)
    let m1 := joinMarks (ctMarks s p r rs.2.1.c1 o.limbStride n) (ctMarks s p r rs.2.2.c1 o.limbStride n)
    let jobs := partJobs 0 s p r rs.1.c0 o.limbStride (out rs.2.1.c0 rs.2.2.c0) m0 ++
      partJobs 0 s p r rs.1.c1 o.limbStride (out rs.2.1.c1 rs.2.2.c1) m1
    let hd : CtHeader := { a with
      headroom := a.headroom + b.headroom - r.budget, share := 0, seqNext := 0, roundId := if a.roundId = b.roundId then a.roundId else 0 }
    if !enginesAt s p jobs then refuse s id stEngineLost
    else startCt (useRing s p o.paramAddr) id p jobs [(rs.1.hdr, hd.bytes)] 1

/-- The tiles a FOLD names. -/
def ctFoldClaims (s : State) (p : Nat) (o : CtAddOps) : List Claim :=
  let r := ringAt s p o.paramAddr
  ctClaims (refOf (pread s p o.dstRef 16)) 2 o.limbStride r.limbUnits r.chain ++
    byteClaims (o.b + 4 * o.seqFirst) (if o.b = 0 then 0 else 4 * o.seqCount) none

/-- The addresses of a FOLD (R155, R164). -/
def ctFoldAddress (s : State) (p : Nat) (o : CtAddOps) : Bool :=
  let x := part s p
  let r := ringAt s p o.paramAddr
  ringFits s p o.paramAddr && addrFits x o.dstRef 16 1 && headerFits x (refOf (pread s p o.dstRef 16)) &&
    limbsApart o.limbStride r.limbUnits r.chain && (o.b == 0 || addrFits x (o.b + 4 * o.seqFirst) (4 * o.seqCount) 1)

/-- A summand's weight (R164). -/
def foldWeight (s : State) (p : Nat) (o : CtAddOps) (n : Nat) : Nat :=
  if o.b = 0 then 1 else leNat (pread s p (o.b + 4 * n) 4)

/-- A landed ciphertext's header. -/
def landedHeader (s : State) (p : Nat) (w : Window) (n : Nat) : CtHeader := ctOf (landedBytes s p w n 32 64)

/-- The header a FOLD starts from: the zero ciphertext with init, whose scale the spec does not state for CKKS (R165; log
entry 16). -/
def foldBase (s : State) (p : Nat) (r : RingParams) (o : CtAddOps) (old : CtHeader) : CtHeader :=
  if bvBit o.flags 0 then
    { fmt := 0x0110, parts := 2, share := 0, seqNext := o.seqFirst, headroom := r.budget,
      scaleExp := if r.scheme = 3 then freeNat s 1 else 0, log2N := r.log2N, incomplete := true, ntt := true,
      scheme := r.scheme, level := r.chain - 1, tag := field (part s p).policy 0x60 8, dataLen := 2 * r.chain * r.size * 8,
      pre := r.pre, roundId := o.a, rsvdZero := true }
  else { old with share := 0, incomplete := true }

/-- A stored header while a FOLD into it is in flight: its incomplete bit is set, and with init it names the round, so that only a
FOLD of that round is admitted on it; its other fields stand (R165; log entry 101). -/
def heldHeader (init : Bool) (round : Nat) (b : Bytes) : Bytes :=
  b.take 9 ++ (slice b 9 1).map (fun x => x ||| 0x80#8) ++ slice b 10 38 ++
    (if init then natLe 8 round else slice b 48 8) ++ slice b 56 8

/-- A FOLD's charge on the headroom (R157, R165). -/
def foldCharge (s : State) (p : Nat) (r : RingParams) (o : CtAddOps) (w : Window) (base : Nat) : Nat :=
  (((acceptedSubs w).map (fun b => b.number.getD 0)).filter (fun n =>
    decide (base ≤ n) && decide (n < o.seqFirst + o.seqCount))).foldl (fun acc n =>
      acc + foldWeight s p o n * (r.budget - (landedHeader s p w n).headroom)) 0

/-- The marks of the weights that the summands of a FOLD take (R66). -/
def weightMarks (s : State) (p : Nat) (o : CtAddOps) (use : List Submission) : Bool :=
  o.b != 0 && use.any (fun b => (marksOf s p (o.b + 4 * b.number.getD 0) 4).2)

/-- One pass of a FOLD: limb tile `t` of limb `i` of part `c` (R164, R75). -/
def foldJob (s : State) (p : Nat) (r : RingParams) (o : CtAddOps) (w : Window) (subs : List Submission) (dst c i t : Nat) :
    TileJob × Nat :=
  let u := limbUnit dst o.limbStride r.limbUnits i + 4 * t
  let m := unitMeta s p u
  let init := bvBit o.flags 0
  let base := if init then o.seqFirst else m.seqNext
  let use := subs.filter (fun b => decide (base ≤ b.number.getD 0))
  let off := 96 + ((c * r.chain + i) * r.size + 4096 * t) * 8
  let q := r.q i
  let start := if init then List.replicate 4096 0 else (readTile s p u 64).map (fun x => x % q)
  let out := use.foldl (fun acc b =>
    let n := b.number.getD 0
    let k := foldWeight s p o n
    List.zipWith (fun x y => (x + k * (y % q)) % q) acc (elems 8 (landedBytes s p w n off 32768))) start
  let endSeq := o.seqFirst + o.seqCount
  let nm : TileMeta :=
    { state := .round, width := 64, mode := .modq, modulus := q, roundId := o.a,
      seqNext := if init then endSeq else max m.seqNext endSeq, count := (if init then 0 else m.count) + use.length,
      mark := true, model := weightMarks s p o use || (!init && m.model), chain := if init then .none else m.chain,
      chainDigest := if init then [] else m.chainDigest }
  ({ tileJob s (limbEngine s p (limbUnit dst o.limbStride r.limbUnits i) r.limbUnits) u (packElems 8 out) nm with
      coord := some ((c * r.chain + i) * (r.size / 4096) + t), summands := use.map (fun b => b.number.getD 0) },
    subs.length - use.length)

/-- A tile that FOLD adds to without init is a ROUND tile of its round with no gap (R75, R164). -/
def foldTileOk (o : CtAddOps) (w : Window) (q : Nat) (m : TileMeta) : Bool :=
  m.state == .round && m.roundId == o.a && m.width == 64 && m.mode == .modq && m.modulus == q && !leavesGap w m.seqNext o.seqFirst

/-- FOLD once every number of its range is assigned (R165): the charge is refused or admitted as a whole, and only then does an
init write the zero ciphertext's header. -/
def foldReady (s : State) (id : Nat) (h : DescHdr) (o : CtAddOps) (w : Window) : State :=
  let p := h.p.val
  let r := ringOf w.paramBlock
  let d := refOf (pread s p o.dstRef 16)
  let hd := foldBase s p r o (headerAt s p d)
  let charge := foldCharge s p r o w hd.seqNext
  if hd.headroom < charge then refuse s id stHeadroom
  else
    let subs := acceptedRange w o.seqFirst o.seqCount
    let work := [(d.c0, 0), (d.c1, 1)].flatMap (fun pc =>
      (List.range r.chain).flatMap (fun i => (List.range (r.size / 4096)).map (foldJob s p r o w subs pc.1 pc.2 i)))
    let jobs := work.map (fun e => e.1)
    let done : CtHeader := { hd with headroom := hd.headroom - charge, seqNext := o.seqFirst + o.seqCount, incomplete := false }
    if !enginesAt s p jobs then refuse s id stEngineLost
    else
      let s1 := if bvBit o.flags 0 then writeHeaders (spendFree s) p [(d.hdr, hd.bytes)] else s
      startCt s1 id p jobs [(d.hdr, done.bytes)] 1

/-- CT_ADD FOLD (R164, R165): the checks at dispatch, the incomplete bit, then the sum or the wait for numbers. -/
def startCtFold (s : State) (id : Nat) (h : DescHdr) (o : CtAddOps) : State :=
  let p := h.p.val
  let r := ringAt s p o.paramAddr
  let d := refOf (pread s p o.dstRef 16)
  let old := headerAt s p d
  let init := bvBit o.flags 0
  let heldByOther := old.fmt == 0x0110 && old.incomplete && old.roundId != o.a
  match (windowFor (part s p) .submit o.a).filter Window.readable with
  | none => refuse s id stPolicy
  | some w =>
    let metas := [d.c0, d.c1].flatMap (fun c => (List.range r.chain).flatMap (fun i =>
      (List.range (r.size / 4096)).map (fun t => (r.q i, unitMeta s p (limbUnit c o.limbStride r.limbUnits i + 4 * t)))))
    let formOk := init || (ctFormOk r { old with incomplete := false } && old.ntt && old.level + 1 == r.chain &&
      old.roundId == o.a && metas.all (fun e => foldTileOk o w e.1 e.2))
    if !r.valid || heldByOther || !formOk || ringOf w.paramBlock ≠ r then refuse s id stPolicy
    else if !init && old.tag != field (part s p).policy 0x60 8 then refuse s id stKeyTag
    else if r.chain = 1 then refuse s id stLevel
    else
      let held := heldHeader init o.a (pread s p d.hdr 64)
      let s1 := writeHeaders (useRing s p o.paramAddr) p [(d.hdr, held)]
      if rangeReady w o.seqFirst o.seqCount then foldReady s1 id h o w else waitIn s1 id .numbers

/-! KEYSWITCH and ROTATE -/

/-- Operand ranges of KEYSWITCH and ROTATE (Table 6.7). -/
def ksRange (rotate : Bool) (o : KsOps) : Bool :=
  decide (1 ≤ o.ctCount) && decide (o.ctCount ≤ 16) && (rotate || o.galois == 0)

/-- Input and output references of a list operator. -/
def ksRefs (s : State) (p inList outList n : Nat) : List (CtRef × CtRef) :=
  (refsAt s p inList n).zip (refsAt s p outList n)

/-- Units of the working area (R167). -/
def ksWorkUnits (s : State) (p : Nat) (r : RingParams) (o : KsOps) : Nat :=
  let ms := (refsAt s p o.inList o.ctCount).map (fun c => (headerAt s p c).level + 1)
  (ms.map (fun m => (3 * (m + r.special) - r.alpha) * r.limbUnits)).sum

/-- The working area's units. -/
def ksWork (s : State) (p : Nat) (o : KsOps) : Claim :=
  { first := tileIx o.workTile, units := ksWorkUnits s p (ringAt s p o.paramAddr) o }

/-- The tiles of the inputs of a list operator. -/
def inClaims (s : State) (p : Nat) (r : RingParams) (refs : List (CtRef × CtRef)) (stride : Nat) : List Claim :=
  refs.flatMap (fun e => ctClaims e.1 2 stride r.limbUnits ((headerAt s p e.1).level + 1))

/-- The tiles of the outputs of a list operator that drops limbs: it names those it writes (R172). -/
def outClaims (s : State) (p : Nat) (r : RingParams) (refs : List (CtRef × CtRef)) (stride drop : Nat) : List Claim :=
  refs.flatMap (fun e => ctClaims e.2 2 stride r.limbUnits ((headerAt s p e.1).level + 1 - drop))

/-- The units of the pinned key that a descriptor names (R190). -/
def pinnedKey (x : Partition) (o : KsOps) : Option PinEntry :=
  x.pins.find? (fun e => e.first == tileIx o.keyAddr)

/-- The tiles a KEYSWITCH or ROTATE names; a pinned key's units too (R190). -/
def ksClaims (s : State) (p : Nat) (o : KsOps) : List Claim :=
  let r := ringAt s p o.paramAddr
  let refs := ksRefs s p o.inList o.outList o.ctCount
  inClaims s p r refs o.limbStride ++ outClaims s p r refs o.limbStride 0 ++ [ksWork s p o] ++
    (if bvBit o.flags 0 then
       match pinnedKey (part s p) o with
       | some e => [{ first := e.first, units := e.units, use := some .pin }]
       | none => []
     else [])

/-- The key-stream header a descriptor names, and whether there is one (R161, R190). -/
def ksHeader (s : State) (p : Nat) (o : KsOps) : Option KeyStream :=
  if bvBit o.flags 0 then (pinnedKey (part s p) o).map (fun e => keyStreamOf e.header)
  else some (keyStreamOf (pread s p o.keyAddr 64))

/-- The addresses of a list operator: lists, parameter block and headers (R155). -/
def listAddress (s : State) (p inList outList n paramAddr : Nat) : Bool :=
  let x := part s p
  ringFits s p paramAddr && addrFits x inList (16 * n) 1 && addrFits x outList (16 * n) 1 &&
    (ksRefs s p inList outList n).all (fun e => headerFits x e.1 && headerFits x e.2)

/-- The length of a key stream agrees with the parameter block (Table 6.5). -/
def keyLenOk (r : RingParams) (k : KeyStream) : Bool :=
  k.len == r.dnum * 2 * (r.chain + r.special) * r.size * 8

/-- The addresses and overlaps of a KEYSWITCH or ROTATE (R167): outputs overlap neither inputs nor the working area. A stream whose
key_len is inconsistent is refused for that (R161), not for where it would end. -/
def ksAddress (s : State) (p : Nat) (o : KsOps) : Bool :=
  let x := part s p
  let r := ringAt s p o.paramAddr
  let refs := ksRefs s p o.inList o.outList o.ctCount
  let tiles := fun (pick : CtRef × CtRef → CtRef) => refs.flatMap (fun e =>
    ctTiles (pick e) 2 o.limbStride r.limbUnits ((headerAt s p e.1).level + 1))
  let k := keyStreamOf (pread s p o.keyAddr 64)
  listAddress s p o.inList o.outList o.ctCount o.paramAddr &&
    refsApart (tiles (fun e => e.2)) (tiles (fun e => e.1) ++ [ksWork s p o]) (refs.map (fun e => e.2)) (refs.map (fun e => e.1)) &&
    limbsApart o.limbStride r.limbUnits r.chain &&
    (bvBit o.flags 0 || (o.keyAddr / 2 ^ 60 == 0 && addrFits x o.keyAddr 64 1 &&
      (!keyLenOk r k || addrFits x o.keyAddr (64 + k.len) 1)))

/-- Limb `l` of part `part_` of digit `j` of a key (R160). -/
def keyLimb (s : State) (p : Nat) (r : RingParams) (o : KsOps) (j part_ l : Nat) : List Nat :=
  let off := ((j * 2 + part_) * (r.chain + r.special) + l) * r.size * 8
  let a := if bvBit o.flags 0 then pocketAddr (tileIx o.keyAddr) + off else o.keyAddr + 64 + off
  (elems 8 (pread s p a (r.size * 8))).map (fun x => x % r.q l)

/-- Two polynomials multiplied point by point and added to a third. -/
def mulAdd (q : Nat) (acc a b : List Nat) : List Nat := zip3 (fun x y z => (z + x * y) % q) a b acc

/-- The limb numbers of the extended basis at `m` limbs: chain limbs below m, then the special limbs. -/
def extended (r : RingParams) (m : Nat) : List Nat := List.range m ++ (List.range r.special).map (fun k => r.chain + k)

/-- Digit `j` of c1 raised to the extended basis, limb by limb in NTT form (R168 steps 1 and 2). -/
def raiseDigit (r : RingParams) (m j : Nat) (c1 coeffs : List (List Nat)) : List (List Nat) :=
  let own := (List.range m).filter (fun i => decide (r.alpha * j ≤ i) && decide (i < r.alpha * (j + 1)))
  let others := (extended r m).filter (fun i => !own.contains i)
  let conv := baseConvert r.size (own.map r.q) (others.map r.q) (own.map (fun i => coeffs.getD i []))
  (extended r m).map (fun i =>
    if own.contains i then c1.getD i []
    else nttFwd (r.q i) (r.psi i) r.log2N (conv.getD (others.idxOf i) []))

/-- The switched polynomials d_b and d_a before the combine step (R168 steps 1 to 4): `key` gives a key limb. -/
def switchKey (r : RingParams) (m : Nat) (c1 : List (List Nat)) (key : Nat → Nat → Nat → List Nat) :
    List (List Nat) × List (List Nat) :=
  let coeffs := (List.range m).map (fun i => nttInv (r.q i) (r.psi i) r.log2N (c1.getD i []))
  let digits := (m + r.alpha - 1) / r.alpha
  let ext := extended r m
  let raised := (List.range digits).map (fun j => raiseDigit r m j c1 coeffs)
  let inner := fun (part_ : Nat) => (List.range ext.length).map (fun e =>
    let l := ext.getD e 0
    (List.range digits).foldl (fun acc j => mulAdd (r.q l) acc ((raised.getD j []).getD e []) (key j part_ l))
      (List.replicate r.size 0))
  let bigP := r.ps.foldl (fun a b => a * b) 1
  let reduce := fun (x : List (List Nat)) =>
    let specials := (List.range r.special).map (fun k =>
      nttInv (r.q (r.chain + k)) (r.psi (r.chain + k)) r.log2N (x.getD (m + k) []))
    let conv := baseConvert r.size r.ps (r.qs.take m) specials
    (List.range m).map (fun i =>
      let q := r.q i
      let inv := invMod (bigP % q) q
      List.zipWith (fun a b => (a + (q - b)) * inv % q) (x.getD i []) (nttFwd q (r.psi i) r.log2N (conv.getD i [])))
  (reduce (inner 1), reduce (inner 0))

/-- X ↦ X^g on coefficients modulo X^N + 1 (R169). -/
def automorph (q size g : Nat) (a : List Nat) : List Nat :=
  let inv := (List.range size).map (fun i => (i * g % (2 * size), a.getD i 0))
  let t : Tab Nat := inv.foldl (fun acc e =>
    if e.1 < size then tabSet acc e.1 e.2 else tabSet acc (e.1 - size) ((q - e.2) % q)) []
  (List.range size).map (tabGet 0 t)

/-- The automorphism on an NTT-form limb (R169). -/
def rotateLimb (r : RingParams) (g i : Nat) (a : List Nat) : List Nat :=
  nttFwd (r.q i) (r.psi i) r.log2N (automorph (r.q i) r.size g (nttInv (r.q i) (r.psi i) r.log2N a))

/-- Limb by limb sums. -/
def addLimbs (r : RingParams) (a b : List (List Nat)) : List (List Nat) :=
  (List.range a.length).map (fun i => List.zipWith (fun x y => (x + y) % r.q i) (a.getD i []) (b.getD i []))

/-- The two parts of one output (R168, R169). -/
def ksOutput (s : State) (p : Nat) (r : RingParams) (rotate : Bool) (o : KsOps) (c : CtRef) (m : Nat) :
    List (List Nat) × List (List Nat) :=
  let c0 := ctLimbs s p r c.c0 o.limbStride m
  let c1 := ctLimbs s p r c.c1 o.limbStride m
  let turn := fun (x : List (List Nat)) =>
    if rotate then (List.range m).map (fun i => rotateLimb r o.galois i (x.getD i [])) else x
  let d := switchKey r m (turn c1) (keyLimb s p r o)
  let y0 := addLimbs r (turn c0) d.1
  if rotate && bvBit o.flags 2 then (addLimbs r c0 y0, addLimbs r c1 d.2) else (y0, d.2)

/-- The checks of one listed ciphertext from step 3 of R159 on. -/
def ksCheck (r : RingParams) (k : KeyStream) (rotate : Bool) (o : KsOps) (c : CtHeader) : Option Status :=
  let sum := rotate && bvBit o.flags 2
  let need := if sum then r.budget + k.cost else k.cost
  let have_ := if sum then 2 * c.headroom else c.headroom
  let kindOk := k.kind == (if rotate then 2 else 1) && k.galois == o.galois && k.dnum == r.dnum &&
    keyLenOk r k && k.fmt == 0x0120 && decide (1 ≤ k.cost) &&
    (if rotate then k.dst == k.src && o.galois % 2 == 1 && decide (1 < o.galois) && decide (o.galois < 2 * r.size) else true)
  if !ctFormOk r c || !c.ntt || !kindOk then some stPolicy
  else if k.src ≠ c.tag ∨ k.pre ≠ c.pre then some stKeyTag
  else if c.level = 0 then some stLevel
  else if have_ < need then some stHeadroom
  else none

/-- The working area holds scratch values the spec does not state after the descriptor: free values under the inputs'
marks (R167; log entry 17). -/
def scratch (s : State) (p : Nat) (c : Claim) (marks : Bool × Bool) : State :=
  let s1 := pwrite s p (pocketAddr c.first) (freeBytes s (8192 * c.units))
  spendFree (setUnitMetas (dropResident s1 p c.first c.units) p c.first { plainMeta 16 with mark := marks.1, model := marks.2 } c.units)

/-- KEYSWITCH and ROTATE (R157 to R163, R167 to R169). -/
def startSwitch (rotate : Bool) (s : State) (id : Nat) (h : DescHdr) (o : KsOps) : State :=
  let p := h.p.val
  let r := ringAt s p o.paramAddr
  let refs := ksRefs s p o.inList o.outList o.ctCount
  match ksHeader s p o with
  | none => refuse s id stPolicy
  | some k =>
    if !r.valid || r.special == 0 then refuse s id stPolicy
    else
      match refs.findSome? (fun e => ksCheck r k rotate o (headerAt s p e.1)) with
      | some st => refuse s id st
      | none =>
        let work := refs.zipIdx.map (fun ei =>
          let e := ei.1
          let c := headerAt s p e.1
          let m := c.level + 1
          let out := ksOutput s p r rotate o e.1 m
          let marks := joinMarks (ctMarks s p r e.1.c0 o.limbStride m) (ctMarks s p r e.1.c1 o.limbStride m)
          let room := if rotate && bvBit o.flags 2 then 2 * c.headroom - r.budget - k.cost else c.headroom - k.cost
          (partJobs ei.2 s p r e.2.c0 o.limbStride out.1 marks ++ partJobs ei.2 s p r e.2.c1 o.limbStride out.2 marks,
            (e.2.hdr, ({ c with share := 0, headroom := room, tag := k.dst } : CtHeader).bytes), marks))
        let jobs := work.flatMap (fun w => w.1)
        let marks := (work.any (fun w => w.2.2.1), work.any (fun w => w.2.2.2))
        if !enginesAt s p jobs then refuse s id stEngineLost
        else startCt (scratch (useRing s p o.paramAddr) p (ksWork s p o) marks) id p jobs (work.map (fun w => w.2.1)) o.ctCount

/-! RESCALE and MODSWITCH -/

/-- Operand ranges of RESCALE and MODSWITCH (Table 6.9). -/
def rescaleRange (mod_ : Bool) (o : RescaleOps) : Bool :=
  decide (1 ≤ o.ctCount) && decide (o.ctCount ≤ 64) &&
    (if mod_ then decide (1 ≤ o.drop) && decide (o.drop ≤ 63) else o.drop == 1)

/-- The tiles a RESCALE or MODSWITCH names. -/
def rescaleClaims (mod_ : Bool) (s : State) (p : Nat) (o : RescaleOps) : List Claim :=
  let r := ringAt s p o.paramAddr
  let refs := ksRefs s p o.inList o.outList o.ctCount
  inClaims s p r refs o.limbStride ++ outClaims s p r refs o.limbStride (if mod_ then o.drop else 1)

/-- The addresses of a RESCALE or MODSWITCH; the output may be in place (R172). -/
def rescaleAddress (s : State) (p : Nat) (o : RescaleOps) : Bool :=
  let r := ringAt s p o.paramAddr
  listAddress s p o.inList o.outList o.ctCount o.paramAddr && limbsApart o.limbStride r.limbUnits r.chain

/-- The integer nearest to log2 q for an odd q (R173). -/
def nearestLog2 (q : Nat) : Nat :=
  let k := Nat.log2 q
  if q * q < 2 ^ (2 * k + 1) then k else k + 1

/-- One rounding step on coefficient limbs 0 to l (R173): limb l is dropped. -/
def roundStep (r : RingParams) (limbs : List (List Nat)) : List (List Nat) :=
  let l := limbs.length - 1
  let ql := r.q l
  let last := limbs.getD l []
  (List.range l).map (fun i =>
    let q := r.q i
    let inv := invMod (ql % q) q
    List.zipWith (fun c cl => (c + ql / 2 % q + (q - (cl + ql / 2) % ql % q)) * inv % q) (limbs.getD i []) last)

/-- One BGV step on coefficient limbs 0 to l (R174). -/
def bgvStep (r : RingParams) (limbs : List (List Nat)) : List (List Nat) :=
  let l := limbs.length - 1
  let ql := r.q l
  let tinv := invMod (r.plain % ql) ql
  let last := limbs.getD l []
  (List.range l).map (fun i =>
    let q := r.q i
    let inv := invMod (ql % q) q
    List.zipWith (fun (c cl : Nat) =>
      let d : Int := (r.plain : Int) * centred ql (tinv * cl % ql)
      (((c : Int) - d) % (q : Int)).toNat * inv % q) (limbs.getD i []) last)

/-- `d` steps of a kind. -/
def dropSteps (step : List (List Nat) → List (List Nat)) : Nat → List (List Nat) → List (List Nat)
  | 0, x => x
  | d + 1, x => dropSteps step d (step x)

/-- Limbs brought to coefficient form where they are in NTT form. -/
def toCoeffs (r : RingParams) (ntt : Bool) (x : List (List Nat)) : List (List Nat) :=
  if ntt then (List.range x.length).map (fun i => nttInv (r.q i) (r.psi i) r.log2N (x.getD i [])) else x

/-- Limbs brought back to their form. -/
def fromCoeffs (r : RingParams) (ntt : Bool) (x : List (List Nat)) : List (List Nat) :=
  if ntt then (List.range x.length).map (fun i => nttFwd (r.q i) (r.psi i) r.log2N (x.getD i [])) else x

/-- One part after dropping `d` limbs (R173, R174): RESCALE rounds, MODSWITCH as its scheme gives. -/
def dropLimbs (r : RingParams) (mod_ : Bool) (d : Nat) (ntt : Bool) (x : List (List Nat)) : List (List Nat) :=
  if mod_ && r.scheme == 3 then x.take (x.length - d)
  else fromCoeffs r ntt (dropSteps (if mod_ && r.scheme == 2 then bgvStep r else roundStep r) d (toCoeffs r ntt x))

/-- The checks of one listed ciphertext from step 3 of R159 on (R158, R173); `tag` is that of the first one listed. -/
def rescaleCheck (r : RingParams) (mod_ : Bool) (d tag : Nat) (c : CtHeader) : Option Status :=
  if !ctFormOk r c || (!mod_ && (r.scheme != 3 || decide (c.scaleExp < nearestLog2 (r.q c.level)))) then some stPolicy
  else if c.tag ≠ tag then some stKeyTag
  else if c.level = 0 ∨ c.level < d then some stLevel
  else if c.headroom < d then some stHeadroom
  else none

/-- RESCALE and MODSWITCH (R157 to R159, R172 to R174). -/
def startRescale (mod_ : Bool) (s : State) (id : Nat) (h : DescHdr) (o : RescaleOps) : State :=
  let p := h.p.val
  let r := ringAt s p o.paramAddr
  let refs := ksRefs s p o.inList o.outList o.ctCount
  let d := if mod_ then o.drop else 1
  if !r.valid then refuse s id stPolicy
  else
    let tag := ((refs.head?).map (fun e => (headerAt s p e.1).tag)).getD 0
    match refs.findSome? (fun e => rescaleCheck r mod_ d tag (headerAt s p e.1)) with
    | some st => refuse s id st
    | none =>
      let work := refs.zipIdx.map (fun ei =>
        let e := ei.1
        let c := headerAt s p e.1
        let n := c.level + 1
        let one := fun (src dst : Nat) =>
          if mod_ && r.scheme == 3 && src == dst then []
          else partJobs ei.2 s p r dst o.limbStride (dropLimbs r mod_ d c.ntt (ctLimbs s p r src o.limbStride n)) (ctMarks s p r src o.limbStride n)
        let scale := if mod_ then c.scaleExp else c.scaleExp - nearestLog2 (r.q c.level)
        let hd : CtHeader := { c with share := 0, level := c.level - d, headroom := c.headroom - d, scaleExp := scale }
        (one e.1.c0 e.2.c0 ++ one e.1.c1 e.2.c1, (e.2.hdr, { hd with dataLen := hd.len }.bytes)))
      let jobs := work.flatMap (fun w => w.1)
      if !enginesAt s p jobs then refuse s id stEngineLost
      else startCt (useRing s p o.paramAddr) id p jobs (work.map (fun w => w.2)) o.ctCount

/-! PARTIAL_DEC -/

/-- Every Sleeve sampler of a partition is served by its generator (R345, R347). -/
def samplersRun (s : State) (p : Nat) : Bool :=
  (part s p).sleeveList.all (fun v => (tabGet {} s.entropy.drbgs v).running)

/-- A descriptor that draws noise finds its sampler empty: its 100 ms begin (R347). It keeps the key it was dispatched with
(R331, R332). -/
def stallNoise (s : State) (id : Nat) (key : Option StoredKey) : State :=
  modFlight s id (fun f => { f with phase := .noiseStall key, stallFrom := some (f.stallFrom.getD (now s)) })

/-- The tiles a PARTIAL_DEC names. -/
def partialClaims (s : State) (p : Nat) (o : PartialOps) : List Claim :=
  let r := ringAt s p o.paramAddr
  let src := refOf (pread s p o.ctRef 16)
  let out := refOf (pread s p o.outRef 16)
  let n := (headerAt s p src).level + 1
  ctClaims src 2 o.limbStride r.limbUnits n ++ ctClaims out 1 o.limbStride r.limbUnits n

/-- The addresses of a PARTIAL_DEC; its output must not overlap its input (R155, R179). -/
def partialAddress (s : State) (p : Nat) (o : PartialOps) : Bool :=
  let x := part s p
  let r := ringAt s p o.paramAddr
  let src := refOf (pread s p o.ctRef 16)
  let out := refOf (pread s p o.outRef 16)
  let n := (headerAt s p src).level + 1
  ringFits s p o.paramAddr && addrFits x o.ctRef 16 1 && addrFits x o.outRef 16 1 && headerFits x src && headerFits x out &&
    limbsApart o.limbStride r.limbUnits n && (o.lambdaAddr == 0 || addrFits x o.lambdaAddr (8 * n) 1) &&
    refsApart (ctTiles out 1 o.limbStride r.limbUnits n) (ctTiles src 2 o.limbStride r.limbUnits n) [out] [src]

/-- The committee share for a tag that a descriptor works with (R177, R331, Table 13.10). -/
def shareFor (s : State) (id p tag : Nat) : Option StoredKey :=
  (keyFor s id p 5).filter (fun k => k.keyId == tag)

/-- Accepted words of an endless stream, further and further (R113). -/
def streamWords (read : Nat → Bytes) (q l count : Nat) : Nat → Nat → List Nat
  | 0, _ => []
  | fuel + 1, n =>
    let vs := acceptedWords q l (read n)
    if count ≤ vs.length then vs.take count else streamWords read q l count fuel (2 * n)

/-- Limb `i` of the share polynomial in NTT form (R177). -/
def shareLimb (r : RingParams) (k : StoredKey) (i : Nat) : List Nat :=
  let seed := ascii "BA16/cshare/v1" ++ k.key ++ natLe 8 k.keyId ++ natLe 1 i
  streamWords (shake128 seed) (r.q i) (bitLength (r.q i)) r.size 40 (16 * r.size)

/-- Smudging noise: `n` free integers in [-2^b, 2^b] (R179, R350). -/
def smudge (s : State) (b n : Nat) : List Int :=
  (List.range n).map (fun i => Config.freeNoise s.freeCtr i % (2 ^ (b + 1) + 1 : Nat) - (2 ^ b : Nat))

/-- Every source tile carries the release record of a round (R178). -/
def ctReleased (s : State) (p : Nat) (r : RingParams) (c : CtRef) (stride n round : Nat) : Bool :=
  [c.c0, c.c1].all (fun base => (List.range n).all (fun i => (List.range r.limbUnits).all (fun u =>
    (unitMeta s p (limbUnit base stride r.limbUnits i + u)).release == some round)))

/-- The share of PARTIAL_DEC with its noise (R179). A round whose share was made while this one waited for noise is refused: only one
share per round is produced (R178). -/
def partialShare (s : State) (id : Nat) (h : DescHdr) (o : PartialOps) (k : StoredKey) : State :=
  let p := h.p.val
  let r := ringAt s p o.paramAddr
  let src := refOf (pread s p o.ctRef 16)
  let out := refOf (pread s p o.outRef 16)
  let c := headerAt s p src
  let n := c.level + 1
  let lambda := fun (i : Nat) => if o.lambdaAddr = 0 then 1 else leNat (pread s p (o.lambdaAddr + 8 * i) 8)
  let e := smudge s k.smudge r.size
  let limbs := (List.range n).map (fun i =>
    let q := r.q i
    let x := ctLimb s p r src.c1 o.limbStride i
    let xn := if c.ntt then x else nttFwd q (r.psi i) r.log2N x
    let d := List.zipWith (fun a b => lambda i * a % q * b % q) xn (shareLimb r k i)
    List.zipWith (fun (a : Nat) (b : Int) => (((a : Int) + b) % (q : Int)).toNat) (nttInv q (r.psi i) r.log2N d) e)
  let hd : CtHeader :=
    { c with parts := 1, share := field (part s p).policy 0x6C 1, ntt := false, seqNext := 0 }
  let lambdaMark := o.lambdaAddr != 0 && (marksOf s p o.lambdaAddr (8 * n)).2
  let jobs := partJobs 0 s p r out.c0 o.limbStride limbs (true, (ctMarks s p r src.c1 o.limbStride n).2 || lambdaMark)
  if (part s p).shared.contains o.roundId then refuse s id stPolicy
  else if !enginesAt s p jobs then refuse s id stEngineLost
  else startCt (modPart (spendFree (useRing s p o.paramAddr)) p (fun x => { x with shared := x.shared ++ [o.roundId] })) id p jobs
    [(out.hdr, { hd with dataLen := hd.len }.bytes)] 1

/-- PARTIAL_DEC (R53, R158, R178, R179). -/
def startPartial (s : State) (id : Nat) (h : DescHdr) (o : PartialOps) : State :=
  let p := h.p.val
  let x := part s p
  let r := ringAt s p o.paramAddr
  let src := refOf (pread s p o.ctRef 16)
  let c := headerAt s p src
  let n := c.level + 1
  let marks := joinMarks (ctMarks s p r src.c0 o.limbStride n) (ctMarks s p r src.c1 o.limbStride n)
  let lambdaOk := o.lambdaAddr == 0 || (List.range n).all (fun i => decide (leNat (pread s p (o.lambdaAddr + 8 * i) 8) < r.q i))
  match shareFor s id p c.tag with
  | none => refuse s id stPolicy
  | some k =>
    if !r.valid || !ctFormOk r c || field x.policy 0x6C 1 == 0 || marks.1 || !ctReleased s p r src o.limbStride n o.roundId ||
        x.shared.contains o.roundId || !lambdaOk then refuse s id stPolicy
    else if !samplersRun s p then stallNoise s id (some k)
    else partialShare s id h o k

end Sys2Proof.Machine
end

