-- ==== Sys2Proof/Machine/Zipper.lean ====
section
/-! DEFINITION. The Zipper: chain declarations, ZIP_SEND, ZIP_RECV, and the packets and deadlines of a chain
(R89 to R96, R122, R260). -/

namespace Sys2Proof.Machine

/-- A chain declaration (Table 3.10). -/
structure ChainDecl where
  fmt : Nat
  count : Nat
  roundId : Nat
  tiles : Nat
  width : Nat
  mode : Nat
  modulus : Nat
  spaceId : Nat
  members : List Nat
  digest : Bytes
deriving DecidableEq, Repr

/-- A declaration from its bytes (R89). Its rsvd fields are ignored: R90 lists no check of them (R9). -/
def declOf (b : Bytes) : ChainDecl :=
  let entries := elems 4 (b.drop 64)
  { fmt := field b 0 2, count := field b 4 2, roundId := field b 8 8, tiles := field b 0x10 4, width := field b 0x14 1,
    mode := field b 0x15 1, modulus := field b 0x18 8, spaceId := field b 0x20 8,
    members := entries.map (fun e => e % 65536), digest := (sha3 b).take 16 }

/-- The declaration's bytes in all. -/
def declLen (hdr : Bytes) : Nat := 64 + 4 * field hdr 4 2

/-- The declaration at an address. -/
def declAt (s : State) (p a : Nat) : ChainDecl := declOf (pread s p a (declLen (pread s p a 64)))

/-- The declaration lies in the host-visible window (R89). -/
def declFits (s : State) (p a : Nat) : Bool :=
  inWindow a && addrFits (part s p) a 64 1 && addrFits (part s p) a (declLen (pread s p a 64)) 1

/-- The space slot of a partition that is LIVE for a space, whose link key the chain uses (log entry 13). -/
def chainKey (s : State) (p space : Nat) : Option Nat :=
  ((List.range 4).find? (fun k =>
    (tabGet {} (part s p).spaces k).mode == .live && reg s (.spId p k) == space)).map (fun k => regField s (.spCtrl p k) 15 0)

/-- This member's place in the chain. -/
def chainPlace (s : State) (p : Nat) (d : ChainDecl) : Nat := d.members.idxOf (ownAddr s p)

/-- The declaration names each member once, this partition among them (R90). That another format, or a member count, tile count,
width, mode or modulus outside Table 3.10, ends POLICY_DENIED as well is the model's choice: R90 does not list it (log entry 94). -/
def declOk (s : State) (p : Nat) (d : ChainDecl) : Bool :=
  d.fmt == 0x0401 && decide (1 ≤ d.count) && decide (d.count ≤ 4096) && decide (1 ≤ d.tiles) &&
    decide (d.width ≤ 2) && decide (d.mode ≤ 2) && (if d.mode = 1 then modqOk d.modulus else d.modulus == 0) &&
    decide d.members.Nodup && d.members.contains (ownAddr s p)

/-- A tile agrees with the declaration (R90). -/
def chainTileOk (d : ChainDecl) (m : TileMeta) : Bool :=
  m.state != .free && m.roundId == d.roundId && m.width == widthBits d.width && m.mode == modeOf d.mode && m.modulus == d.modulus

/-- In the masked regime a round's tiles leave only when the round is UNMASKED (R122). -/
def roundUnmasked (x : Partition) (round : Nat) : Bool :=
  x.regime != 1 || ((roundOf x round).map (fun r => r.mode == .unmasked)).getD false

/-- The metadata of the tiles of a range. -/
def rangeMetas (s : State) (p first units count : Nat) : List TileMeta :=
  (List.range count).map (fun i => unitMeta s p (first + i * units))

/-! ZIP_SEND -/

/-- Operand ranges of ZIP_SEND (R92). -/
def zipSendRange (o : ZipSendOps) : Bool := decide (1 ≤ o.tileCount) && decide (o.tileCount ≤ 2 ^ 22)

/-- The tiles a ZIP_SEND names. -/
def zipSendClaims (s : State) (p : Nat) (o : ZipSendOps) : List Claim :=
  [tileClaim o.srcTile o.tileCount (widthBits (declAt s p o.declAddr).width)]

/-- Bytes of a tile of `w` bits. -/
def tileBytes (w : Nat) : Nat := 512 * w

/-- The next piece of a stream: its length, and its last tile (R260). -/
def pieceLen (t : ZipTx) : Nat := min 4080 (t.tiles * tileBytes t.width - t.sentBytes)

/-- Send the pieces for which credits are held and whose tiles are ready (R92, R260). The flag says that a packet could
not be sent because the key's counter is used up (R273). -/
def pumpZip (p ready : Nat) : Nat → State × ZipTx × Bool → State × ZipTx × Bool
  | 0, r => r
  | fuel + 1, (s, t, stuck) =>
    let n := pieceLen t
    let lastTile := (t.sentBytes + n - 1) / tileBytes t.width
    if n = 0 ∨ t.credits ≤ lastTile ∨ ready ≤ lastTile ∨ stuck then (s, t, stuck)
    else
      let a := pocketAddr t.firstTile + t.sentBytes
      let marks := marksOf s p a n
      let payload := natLe 8 t.sentBytes ++ natLe 1 (bit marks.1 + 2 * bit marks.2) ++ zeros 7 ++ pread s p a n
      match sendSealed s p t.keyId { ptype := 16, gen := t.gen, dst := t.nextDst, body := t.digest, payload := payload } with
      | none => (s, t, true)
      | some s1 => pumpZip p ready fuel (s1, { t with sentBytes := t.sentBytes + n }, false)

/-- Tiles of a stream wholly sent. -/
def tilesSent (t : ZipTx) : Nat := t.sentBytes / tileBytes t.width

/-- Tiles whose commit at the receiver has been credited: every credit beyond the first grant (log entry 14). -/
def tilesTaken (t : ZipTx) : Nat := t.credits - t.depth

/-- Enough steps to send a whole stream. -/
def pumpFuel (t : ZipTx) : Nat := t.tiles * tileBytes t.width / 4080 + 1

/-- Mark the tiles of a range as PARTIAL of a chain (R92, R93). -/
def markPartial (s : State) (p first units count : Nat) (digest : Bytes) : State :=
  (List.range count).foldl (fun t i =>
    let u := first + i * units
    setUnitMetas t p u { unitMeta t p u with chain := .partialSum, chainDigest := digest } units) s

/-- Take the credits held for a chain before its sender started. -/
def takeCredits (s : State) (p : Nat) (digest : Bytes) : State × (Nat × Nat × Nat) :=
  match (part s p).zipCredits.find? (fun e => e.1 == digest) with
  | none => (s, (0, 0, 0))
  | some e => (modPart s p (fun x => { x with zipCredits := x.zipCredits.filter (fun y => y.1 != digest) }), e.2)

/-- A ZIP_SEND goes on: pieces leave, its tiles become PARTIAL with the first commit, and it completes once every tile
has been taken (R92; log entry 14). -/
def runZipSend (s : State) (id : Nat) (f : InFlight) (t : ZipTx) : State :=
  let p := f.h.p.val
  let r := pumpZip p t.tiles (pumpFuel t) (s, t, false)
  let s1 := if tilesTaken r.2.1 = 0 then r.1 else markPartial r.1 p t.firstTile (tileUnits t.width) t.tiles t.digest
  if r.2.2 then finish s1 id stPolicy (resultWord (tilesSent r.2.1) f.replays 0)
  else if t.tiles ≤ tilesTaken r.2.1 then finish s1 id (precedence none f.saturated f.replays) (resultWord (tilesSent r.2.1) f.replays 0)
  else waitIn s1 id (.zipSend r.2.1)

/-- ZIP_SEND (R90, R92). -/
def startZipSend (s : State) (id : Nat) (h : DescHdr) (o : ZipSendOps) : State :=
  let p := h.p.val
  let d := declAt s p o.declAddr
  let w := widthBits d.width
  let first := tileIx o.srcTile
  let j := chainPlace s p d
  if !declOk s p d || d.roundId != o.roundId || d.tiles != o.tileCount || decide (d.count ≤ j + 1) ||
      !(rangeMetas s p first (tileUnits w) o.tileCount).all (chainTileOk d) || !roundUnmasked (part s p) o.roundId then
    refuse s id stPolicy
  else
    match chainKey s p d.spaceId with
    | none => refuse s id stPolicy
    | some key =>
      if ((linkKey s p key).map (fun e => e.torn)).getD false then refuse s id stTorn
      else if !keySends s p key || keyDying s p key then refuse s id stPolicy
      else if o.deadline ≠ 0 ∧ o.deadline ≤ now s then refuse s id stLate
      else
        let c := takeCredits s p d.digest
        let t : ZipTx :=
          { digest := d.digest, nextDst := d.members.getD (j + 1) 0, keyId := key, width := w, firstTile := first,
            tiles := o.tileCount, sentBytes := 0, credits := c.2.2.1, depth := c.2.1, gen := c.2.2.2 }
        let s1 := waitIn c.1 id (.zipSend t)
        match flight s1 id with
        | none => s1
        | some f => runZipSend s1 id f t

/-! ZIP_RECV -/

/-- Operand ranges of ZIP_RECV (Table 3.11). -/
def zipRecvRange (o : ZipRecvOps) : Bool := decide (2 ≤ o.landingDepth) && decide (o.landingDepth ≤ 256)

/-- The tiles a ZIP_RECV names: its partial, its destination and its landing area. -/
def zipRecvClaims (s : State) (p : Nat) (o : ZipRecvOps) : List Claim :=
  let d := declAt s p o.declAddr
  let w := widthBits d.width
  [tileClaim o.ownTile d.tiles w, tileClaim o.dstTile d.tiles w, tileClaim o.landingTile o.landingDepth w]

/-- ZIP_RECV (R90, R93): it grants landing_depth credits to the member before it; it cannot where the key's counter is used up (R273). -/
def startZipRecv (s : State) (id : Nat) (h : DescHdr) (o : ZipRecvOps) : State :=
  let p := h.p.val
  let d := declAt s p o.declAddr
  let w := widthBits d.width
  let own := tileIx o.ownTile
  let j := chainPlace s p d
  let tail := decide (d.count ≤ j + 1)
  let forward := bvBit o.flags 0
  if !declOk s p d || d.roundId != o.roundId || j == 0 || (tail && forward) ||
      !(rangeMetas s p own (tileUnits w) d.tiles).all (chainTileOk d) ||
      (forward && !roundUnmasked (part s p) o.roundId) then refuse s id stPolicy
  else if !planOk s p own (tileUnits w) d.tiles 1 then refuse s id stEngineLost
  else
    match chainKey s p d.spaceId with
    | none => refuse s id stPolicy
    | some key =>
      if ((linkKey s p key).map (fun e => e.torn)).getD false then refuse s id stTorn
      else if !keySends s p key || keyDying s p key then refuse s id stPolicy
      else if o.deadline ≠ 0 ∧ o.deadline ≤ now s then refuse s id stLate
      else
        let c := if forward then takeCredits s p d.digest else (s, (0, 0, 0))
        let tx : ZipTx :=
          { digest := d.digest, nextDst := d.members.getD (j + 1) 0, keyId := key, width := w, firstTile := tileIx o.dstTile,
            tiles := d.tiles, sentBytes := 0, credits := c.2.2.1, depth := c.2.1, gen := c.2.2.2 }
        let r : ZipRx :=
          { digest := d.digest, prevDst := d.members.getD (j - 1) 0, keyId := key, width := w, mode := modeOf d.mode,
            modulus := d.modulus, received := 0, buffer := [], combined := 0, mark := false, model := false,
            tiles := d.tiles, tail := tail }
        let s0 := modPart c.1 p (fun x => { x with chains := if x.chains.contains d.digest then x.chains else x.chains ++ [d.digest] })
        match sendSealed s0 p key
          { ptype := 17, gen := h.gen, dst := r.prevDst, body := d.digest, payload := natLe 4 o.landingDepth ++ zeros 12 } with
        | none => refuse s id stPolicy
        | some s1 => waitIn s1 id (.zipRecv r (if forward then some tx else none))

/-- The tile metadata of a combined tile: that of the member's own partial, PARTIAL until the chain is done (R93). -/
def combinedMeta (own : TileMeta) (r : ZipRx) (sat : Bool) : TileMeta :=
  { own with saturated := own.saturated || sat, mark := own.mark || r.mark, model := own.model || r.model,
             chain := .partialSum, chainDigest := r.digest, release := none }

/-- A whole received tile lands and its combination with the member's own partial is given to an engine (R91, R93). What metadata
a tile in the landing area has beside the sender's marks is the model's choice: PLAIN in the chain's width and mode (log entry 94). -/
def combineTile (s : State) (id : Nat) (f : InFlight) (o : ZipRecvOps) (r : ZipRx) (i : Nat) (bytes : Bytes) : State :=
  let p := f.h.p.val
  let tu := tileUnits r.width
  let own := tileIx o.ownTile + i * tu
  let land := tileIx o.landingTile + i % o.landingDepth * tu
  let landed : TileMeta :=
    { state := .plain, width := r.width, mode := r.mode, modulus := r.modulus, mark := r.mark, model := r.model }
  let s1 := writeTile (dropResident s p land tu) p land bytes landed
  let prev := tileInts r.mode r.width (elems (r.width / 8) bytes)
  let mine := tileInts r.mode r.width (readTile s p own r.width)
  let sum := addTiles r.mode r.width r.modulus (prev, false) (mine, false)
  let e := groupEngine s p own 1 (rankInSleeve s p (tileIx o.ownTile) tu i)
  let job := { tileJob s e (tileIx o.dstTile + i * tu) (intBytes r.width sum.1) (combinedMeta (unitMeta s p own) r sum.2) with item := i }
  (idleEngines s [e]).foldl beginNext (modFlight s1 id (fun g => { g with jobs := g.jobs ++ [job] }))

/-- The tiles that a longer buffer completes, one after another. -/
def landTiles (s : State) (id : Nat) (f : InFlight) (o : ZipRecvOps) : Nat → ZipRx → State × ZipRx
  | 0, r => (s, r)
  | fuel + 1, r =>
    let tb := tileBytes r.width
    if r.buffer.length < tb then (s, r)
    else
      let i := (r.received - r.buffer.length) / tb
      let s1 := combineTile s id f o r i (r.buffer.take tb)
      let rest := r.buffer.drop tb
      landTiles s1 id f o fuel { r with buffer := rest, mark := !rest.isEmpty && r.mark, model := !rest.isEmpty && r.model }

/-- A reply of a chain: its status, to the sender of a packet (R95, R260). -/
def zipReply (s : State) (k : Packet) (status : Nat) : State :=
  trySend s (addrPart k.dst) k.keyId
    { ptype := 18, gen := k.gen, dst := k.src, body := k.body, payload := natLe 1 status ++ zeros 15 }

/-- The ZIP_RECV in flight of a partition for a chain. -/
def receiverOf (s : State) (p : Nat) (digest : Bytes) : Option (InFlight × ZipRecvOps × ZipRx × Option ZipTx) :=
  (flying s p).findSome? (fun f =>
    match f.body, f.phase with
    | .zipRecv o, .zipRecv r t => if r.digest = digest ∧ f.done.isNone then some (f, o, r, t) else none
    | _, _ => none)

/-- A ZIP_RECV in flight takes tiles from a sender under another declaration (R90). -/
def otherChain (s : State) (p src : Nat) : Bool :=
  (flying s p).any (fun f =>
    match f.phase with
    | .zipRecv r _ => r.prevDst == src && f.done.isNone
    | _ => false)

/-- A packet or reply of another generation is dropped and counted (R388). -/
def dropStale (s : State) : State := { s with faults := { s.faults with stale := satAdd s.faults.stale 1 } }

/-- The reply to a tile that finds no receiver: LATE where its ZIP_RECV has ended (R95); POLICY_DENIED where the partition takes
tiles from its sender under another declaration (R90). -/
def unreceived (s : State) (p : Nat) (k : Packet) : Status :=
  if (part s p).chains.contains k.body then stLate else if otherChain s p k.src then stPolicy else stLate

/-- A ZIP_TILE packet is received (R93, R95, R260): in order and before the deadline its bytes land. A tile answers a credit and
carries its generation, so one of an earlier generation is dropped (R388; log entry 40); one without a receiver is answered. A
piece out of its place is dropped (log entry 15). -/
def receiveZipTile (s : State) (k : Packet) (stamp : Instant) (payload : Bytes) : State :=
  let p := addrPart k.dst
  if k.gen ≠ (part s p).gen then dropStale s
  else
    match receiverOf s p k.body with
    | none => zipReply s k (unreceived s p k)
    | some (f, o, r, t) =>
      let data := payload.drop 16
      let flags := field payload 8 1
      if o.deadline ≠ 0 ∧ o.deadline ≤ stamp.ns then zipReply s k stLate
      else if k.src ≠ r.prevDst then zipReply s k stPolicy
      else if field payload 0 8 ≠ r.received ∨ r.tiles * tileBytes r.width < r.received + data.length ∨ 4 ≤ flags then s
      else
        let r1 : ZipRx := { r with
          received := r.received + data.length, buffer := r.buffer ++ data, mark := r.mark || flags.testBit 0,
          model := r.model || flags.testBit 1 }
        let x := landTiles s f.id f o (data.length / tileBytes r.width + 2) r1
        waitIn x.1 f.id (.zipRecv x.2 t)

/-- Tiles of a ZIP_RECV that have committed without one before them that has not: what it may send on (R93). -/
def zipReady (f : InFlight) (r : ZipRx) : Nat :=
  (f.jobs.map (fun j => j.item) ++ f.dropped).foldl min ((r.received - r.buffer.length) / tileBytes r.width)

/-- The status of a ZIP_RECV whose tiles have committed, but for those a lost engine dropped (R80, R101). -/
def zipStatus (f : InFlight) : Status := precedence (if f.lost then some stEngineLost else none) f.saturated f.replays

/-- A ZIP_RECV is done: every tile is combined, and where it forwards every tile has been taken; at the tail its tiles
become TOTAL (R93). That those of a member which is not the tail and does not forward stay PARTIAL is the model's choice (log entry
94). Tiles that a lost engine dropped are not waited for (R101). -/
def settleZipRecv (s : State) (id : Nat) (f : InFlight) (o : ZipRecvOps) (r : ZipRx) (t : Option ZipTx) : State :=
  let p := f.h.p.val
  let n := r.tiles
  let tu := tileUnits r.width
  if f.lost ∧ n ≤ r.combined + f.dropped.length then finishRef s id (zipStatus f) (resultWord r.combined f.replays 0) f.faultRef
  else
    match t with
    | none =>
      if n ≤ r.combined then
        let s1 := if r.tail then
            (List.range n).foldl (fun u i =>
              let a := tileIx o.dstTile + i * tu
              setUnitMetas u p a { unitMeta u p a with chain := .total } tu) s
          else s
        finishRef s1 id (zipStatus f) (resultWord r.combined f.replays 0) f.faultRef
      else waitIn s id (.zipRecv r none)
    | some tx =>
      let x := pumpZip p (zipReady f r) (pumpFuel tx) (s, tx, false)
      if x.2.2 then finish x.1 id stPolicy (resultWord r.combined f.replays 0)
      else if n ≤ r.combined ∧ n ≤ tilesTaken x.2.1 then
        finishRef x.1 id (zipStatus f) (resultWord r.combined f.replays 0) f.faultRef
      else waitIn x.1 id (.zipRecv r (some x.2.1))

/-- A combined tile of a ZIP_RECV has committed: a credit returns and the tile may go on (R93); without a counter value left it ends
POLICY_DENIED (R273). -/
def zipCommitted (s : State) (id : Nat) : State :=
  match flight s id with
  | none => s
  | some f =>
    match f.body, f.phase with
    | .zipRecv o, .zipRecv r t =>
      let r1 := { r with combined := r.combined + 1 }
      match sendSealed s f.h.p.val r.keyId
        { ptype := 17, gen := f.h.gen, dst := r.prevDst, body := r.digest, payload := natLe 4 1 ++ zeros 12 } with
      | none => finish s id stPolicy (resultWord r1.combined f.replays 0)
      | some s1 => settleZipRecv s1 id f o r1 t
    | _, _ => s

/-- The sender in flight of a partition for a chain: a ZIP_SEND or a ZIP_RECV that forwards. -/
def senderOf (s : State) (p : Nat) (digest : Bytes) : Option (InFlight × ZipTx) :=
  (flying s p).findSome? (fun f =>
    match f.phase with
    | .zipSend t => if t.digest = digest ∧ f.done.isNone then some (f, t) else none
    | .zipRecv _ (some t) => if t.digest = digest ∧ f.done.isNone then some (f, t) else none
    | _ => none)

/-- A ZIP_CREDIT is received (R92): the first grant is the landing depth, each later one tells of a commit. Without a
sender in flight the credits are held for it (log entry 14). -/
def receiveZipCredit (s : State) (k : Packet) (payload : Bytes) : State :=
  let p := addrPart k.dst
  let n := field payload 0 4
  match senderOf s p k.body with
  | none =>
    modPart s p (fun x =>
      match x.zipCredits.find? (fun e => e.1 == k.body) with
      | none => { x with zipCredits := x.zipCredits ++ [(k.body, n, n, k.gen)] }
      | some _ => { x with zipCredits := x.zipCredits.map (fun e =>
          if e.1 = k.body then (e.1, e.2.1, e.2.2.1 + n, k.gen) else e) })
  | some (f, t) =>
    if k.src ≠ t.nextDst then s
    else
      let t1 := { t with credits := t.credits + n, depth := if t.depth = 0 then n else t.depth, gen := k.gen }
      match f.body, f.phase with
      | .zipRecv o, .zipRecv r _ => settleZipRecv s f.id f o r (some t1)
      | _, _ => runZipSend s f.id f t1

/-- What a Zipper descriptor reports so far. -/
def zipResult (f : InFlight) : Nat :=
  match f.phase with
  | .zipSend t => resultWord (tilesSent t) f.replays 0
  | .zipRecv r _ => resultWord r.combined f.replays 0
  | _ => flightResult f

/-- A ZIP_REPLY is received: the sender completes with its status (R90, R95). A reply to a tile of another
generation is dropped and counted (R388; log entry 40). -/
def receiveZipReply (s : State) (k : Packet) (payload : Bytes) : State :=
  let p := addrPart k.dst
  match senderOf s p k.body with
  | none => s
  | some (f, t) =>
    if k.gen ≠ t.gen then dropStale s
    else if k.src ≠ t.nextDst then s
    else finish s f.id (field payload 0 1) (zipResult f)

/-- A stream has tiles that are not wholly sent. -/
def holdsUnsent (t : ZipTx) : Bool := decide (tilesSent t < t.tiles)

/-- The deadline of a Zipper descriptor that would end LATE at it: a ZIP_SEND that holds unsent tiles, a ZIP_RECV that lacks tiles,
or holds unsent ones where it forwards as a ZIP_SEND would (R93, R95). -/
def zipDeadline (f : InFlight) : Option Nat :=
  match f.body, f.phase with
  | .zipSend o, .zipSend t => if o.deadline ≠ 0 ∧ holdsUnsent t ∧ f.done.isNone then some o.deadline else none
  | .zipRecv o, .zipRecv r t =>
    if o.deadline ≠ 0 ∧ f.done.isNone ∧ (r.received < r.tiles * tileBytes r.width ∨ t.any holdsUnsent) then some o.deadline else none
  | _, _ => none

/-- The earliest deadline of a list. -/
def earliest (l : List Nat) : Option Nat := l.min?

/-- What is still incomplete at a Zipper deadline completes LATE (R95). -/
def expireAt (s : State) (p d : Nat) : State :=
  ((flying s p).filter (fun f => zipDeadline f == some d)).foldl (fun t f => finish t f.id stLate (zipResult f)) s

/-- The earliest Zipper deadline of a partition comes (R95). -/
def expireZippers (s : State) (p : Nat) : State :=
  match earliest ((flying s p).filterMap zipDeadline) with
  | none => s
  | some d => expireAt (reach s d) p d

end Sys2Proof.Machine
end

