-- ==== Sys2Proof/Machine/Release.lean ====
section
/-! DEFINITION. DP_NOISE and RELEASE: the release gate (R53 to R61, R66, R94, R122, R176, R350 to R353). -/

namespace Sys2Proof.Machine

/-! Noise and rounding -/

/-- The `i`-th noise value of a draw, 0 without a mechanism (R55, R350). -/
def noiseAt (s : State) (mech i : Nat) : Int := if mech = 0 then 0 else Config.freeNoise s.freeCtr i

/-- V ÷ 256 under a rounding (R55, Table 2.2): 0 to nearest even, 1 toward zero, 2 toward minus infinity. -/
def roundStep256 (mode : Nat) (v : Int) : Int :=
  if mode = 0 then divEven v 256 else if mode = 1 then Int.tdiv v 256 else Int.fdiv v 256

/-- Step 4 of R55: the representative of y in the tile's format, and whether a saturating one clamped. -/
def reduceElem (m : TileMeta) (y : Int) : Int × Bool :=
  match m.mode with
  | .modq => (centred m.modulus (y % (m.modulus : Int)).toNat, false)
  | .sats => clampWord m.width y
  | _ => (signed m.width (y % (2 ^ m.width : Nat)).toNat, false)

/-- The canonical word of y in the tile's format (R55, out_format 0). -/
def canonicalWord (m : TileMeta) (y : Int) : Nat :=
  match m.mode with
  | .modq => (y % (m.modulus : Int)).toNat
  | _ => toWord m.width y

/-- Steps 1 to 4 of R55 on a tile's elements, the first of them number `base` of the draw. -/
def noisedElems (s : State) (mech rounding base : Nat) (m : TileMeta) (vs : List Nat) : List (Int × Bool) :=
  (List.range vs.length).zipWith (fun i a => reduceElem m (roundStep256 rounding (256 * a + noiseAt s mech (base + i))))
    (signedElems m vs)

/-- The tiles of a range share the first one's width, mode and modulus, and none is binary64 (R352, R353). -/
def uniformTiles (s : State) (p first count : Nat) : Bool :=
  let m := unitMeta s p first
  m.mode != .f64 && (rangeMetas s p first (tileUnits m.width) count).all (fun t =>
    t.width == m.width && t.mode == m.mode && t.modulus == m.modulus)

/-! DP_NOISE -/

/-- Operand ranges of DP_NOISE (Table 14.6). -/
def noiseRange (o : NoiseOps) : Bool :=
  decide (1 ≤ o.tileCount) && decide (o.tileCount ≤ 2 ^ 22) && decide (1 ≤ o.param) && decide (o.param ≤ 2 ^ 20) &&
    (o.mech == 1 || o.mech == 2) && decide (o.rounding ≤ 2)

/-- The tiles a DP_NOISE names. -/
def noiseClaims (s : State) (p : Nat) (o : NoiseOps) : List Claim :=
  let w := rangeWidth s p (tileIx o.srcTile)
  [tileClaim o.srcTile o.tileCount w, tileClaim o.dstTile o.tileCount w]

/-- Destination and source do not overlap (R352). -/
def noiseAddress (s : State) (p : Nat) (o : NoiseOps) : Bool :=
  let n := o.tileCount * tileUnits (rangeWidth s p (tileIx o.srcTile))
  !overlaps (tileIx o.srcTile) n (tileIx o.dstTile) n

/-- DP_NOISE with its samplers served: one pass for each tile (R352). -/
def noiseReady (s : State) (id : Nat) (h : DescHdr) (o : NoiseOps) : State :=
  let p := h.p.val
  let first := tileIx o.srcTile
  let w := rangeWidth s p first
  let tu := tileUnits w
  let jobs := (tilePlan s p first tu o.tileCount 1).map (fun t =>
    let m := unitMeta s p t.2.1
    let ys := noisedElems s o.mech o.rounding (4096 * t.1) m (readTile s p t.2.1 w)
    let nm := { m with saturated := m.saturated || ys.any (fun y => y.2), release := none }
    tileJob s t.2.2 (tileIx o.dstTile + tu * t.1) (packElems (w / 8) (ys.map (fun y => canonicalWord m y.1))) nm)
  startJobs (spendFree s) id jobs o.tileCount

/-- DP_NOISE (R347, R352): source tiles are marked and alike. -/
def startNoise (s : State) (id : Nat) (h : DescHdr) (o : NoiseOps) : State :=
  let p := h.p.val
  let first := tileIx o.srcTile
  let tu := tileUnits (rangeWidth s p first)
  if !uniformTiles s p first o.tileCount || !(rangeMetas s p first tu o.tileCount).all (fun m => m.mark) then
    refuse s id stPolicy
  else if !planOk s p first tu o.tileCount 1 then refuse s id stEngineLost
  else if !samplersRun s p then stallNoise s id none
  else noiseReady s id h o

/-! RELEASE -/

/-- The policy of a partition seals releases to its output key. -/
def Partition.sealsOutput (x : Partition) : Bool := field x.policy 0x40 1 == 0

/-- RELEASE writes to the host-visible window. -/
def toWindow (o : ReleaseOps) : Bool := !bvBit o.flags 0

/-- Operand ranges of RELEASE (Table 14.7); a share is released in the ciphertext regime only. -/
def releaseRange (share : Bool) (x : Partition) (o : ReleaseOps) : Bool :=
  if x.regime = 2 then o.count == 1
  else !share && decide (1 ≤ o.count) && decide (o.count ≤ 2 ^ 28) && o.paramAddr == 0

/-- Bytes of an output element of a masked or sealed release. -/
def releaseElem (s : State) (p : Nat) (o : ReleaseOps) : Nat :=
  formatBytes (field (part s p).policy 0x43 1) (rangeWidth s p (tileIx o.srcTile) / 8)

/-- Source tiles of a masked or sealed release. -/
def releaseTiles (o : ReleaseOps) : Nat := (o.count + 4095) / 4096

/-- Units of an output tile of a release to the Pocket. -/
def releaseUnits (s : State) (p : Nat) (o : ReleaseOps) : Nat := (4096 * releaseElem s p o + 8191) / 8192

/-- Parts and limbs of a released ciphertext or share, with its ring (Table 14.7 gives no limb stride: its limbs follow one
another; log entry 18). -/
def releaseCt (s : State) (p : Nat) (o : ReleaseOps) : RingParams × CtRef × CtHeader :=
  let r := ringAt s p o.paramAddr
  let c := refOf (pread s p o.srcRef 16)
  (r, c, headerAt s p c)

/-- The tiles a RELEASE names. -/
def releaseClaims (s : State) (p : Nat) (o : ReleaseOps) : List Claim :=
  if (part s p).regime = 2 then
    let k := releaseCt s p o
    let n := k.2.2.level + 1
    let u := k.1.limbUnits
    ctClaims k.2.1 (min 2 k.2.2.parts) 0 u n ++
      (if toWindow o then [{ first := tileIx o.stageTile, units := n * u }]
       else [{ first := tileIx o.dst, units := min 2 k.2.2.parts * n * u }])
  else
    tileClaim o.srcTile (releaseTiles o) (rangeWidth s p (tileIx o.srcTile)) ::
      (if toWindow o then byteClaims o.srcRef (o.count * releaseElem s p o) none
       else [{ first := tileIx o.dst, units := releaseTiles o * releaseUnits s p o, align := releaseUnits s p o }])

/-- Bytes that a release to the window writes (R58). -/
def releaseBytes (s : State) (p : Nat) (o : ReleaseOps) : Nat :=
  if (part s p).regime = 2 then 64 + 64 + (releaseCt s p o).2.2.len
  else 64 + o.count * releaseElem s p o + (if (part s p).sealsOutput then 16 else 0)

/-- The addresses and overlaps of a RELEASE (R353). -/
def releaseAddress (s : State) (p : Nat) (o : ReleaseOps) : Bool :=
  let x := part s p
  let cl := releaseClaims s p o
  let dstOk := !toWindow o || (inWindow o.dst && addrFits x o.dst (releaseBytes s p o) 64)
  if x.regime = 2 then
    let k := releaseCt s p o
    let n := (min 2 k.2.2.parts) * 1
    ringFits s p o.paramAddr && addrFits x o.srcRef 16 1 && headerFits x k.2.1 && dstOk &&
      apart (cl.drop (cl.length - 1)) (ctClaims k.2.1 n 0 k.1.limbUnits (k.2.2.level + 1))
  else
    let stageOk := !toWindow o ||
      (addrFits x o.srcRef (o.count * releaseElem s p o) 64 && !inWindow o.srcRef)
    stageOk && dstOk && apart (cl.take 1) (cl.drop 1)

/-- The DP epoch of an instant, none before epoch 0 (R56). -/
def epochOf (x : Partition) (t : Nat) : Option Nat :=
  let origin := field x.policy 0x38 8
  if t < origin then none else some ((t - origin) / field x.policy 0x30 8)

/-- The admission of R56: once per round and kind, and within the epoch's count. -/
def gateAdmits (x : Partition) (share : Bool) (round t : Nat) : Bool :=
  !x.released.contains (round, bit share) &&
    (share ||
      match epochOf x t with
      | none => false
      | some e => decide (tabGet 0 x.epochs e < field x.policy 0x28 4))

/-- Record an admitted release (R56). -/
def gateRecord (s : State) (p : Nat) (share : Bool) (round t : Nat) : State :=
  modPart s p (fun x =>
    { x with released := x.released ++ [(round, bit share)],
             epochs := if share then x.epochs else tabMap 0 x.epochs ((epochOf x t).getD 0) (fun n => n + 1) })

/-- A release that stalled does not use up the round's release (R59). -/
def gateUndo (s : State) (p : Nat) (share : Bool) (round t : Nat) : State :=
  modPart s p (fun x =>
    { x with released := x.released.filter (fun e => e != (round, bit share)),
             epochs := if share then x.epochs else tabMap 0 x.epochs ((epochOf x t).getD 0) (fun n => n - 1) })

/-- The output key of the policy that a release works with (Table 2.2, R331, Table 13.10). -/
def outputKey (s : State) (id p : Nat) : Option StoredKey :=
  (keyFor s id p 1).filter (fun k => k.keyId == field (part s p).policy 0x50 8)

/-- The nonce of a release (R58). -/
def releaseNonce (s : State) (p round : Nat) (share : Bool) : Bytes :=
  natLe 2 (ownId s) ++ natLe 1 p ++ natLe 7 round ++ natLe 1 (bit share) ++ zeros 1

/-- The header of a release (Table 2.11). -/
def releaseHeader (s : State) (p : Nat) (share : Bool) (o : ReleaseOps) (admitted : Nat) (saturated : Bool) : Bytes :=
  let x := part s p
  let flags := bit (!x.sealsOutput) + 2 * bit saturated + 4 * bit (!share && field x.policy 0x20 1 != 0)
  natLe 2 0x0201 ++ natLe 1 x.regime ++ natLe 1 (field x.policy 0x43 1) ++ natLe 4 o.count ++ natLe 8 o.roundId ++
    natLe 8 admitted ++ natLe 4 ((epochOf x admitted).getD 0) ++ natLe 1 (bit share) ++ natLe 1 flags ++ zeros 6 ++
    (if x.sealsOutput then releaseNonce s p o.roundId share else zeros 12) ++ x.digestPrefix

/-- The output words of a masked or sealed release, tile by tile (R55, R57). -/
def releaseWords (s : State) (p : Nat) (o : ReleaseOps) : List (List Nat) :=
  let x := part s p
  let first := tileIx o.srcTile
  let m := unitMeta s p first
  let f : Fused :=
    { opt := field x.policy 0x41 1, scale := field x.policy 0x44 4, bias := field x.policy 0x48 4,
      activation := field x.policy 0x42 1, theta := field x.policy 0x4C 4, fmt := field x.policy 0x43 1 }
  let frac := if x.regime = 3 then field x.policy 0x13 1 else 0
  (List.range (releaseTiles o)).map (fun i =>
    let vs := (readTile s p (first + i * tileUnits m.width) m.width).take (min 4096 (o.count - 4096 * i))
    (noisedElems s (field x.policy 0x20 1) (field x.policy 0x21 1) (4096 * i) m vs).map (fun y =>
      if f.fmt = 0 then canonicalWord m y.1 else fusedInt f frac y.1))

/-- The plaintext encoding of one noise value for limb `i` (R176). -/
def encodeNoise (r : RingParams) (c : CtHeader) (rounding i : Nat) (n : Int) : Int :=
  let y := roundStep256 rounding n
  if r.scheme = 3 then
    let v : Int := n * (2 ^ c.scaleExp : Nat)
    roundStep256 rounding v
  else if r.scheme = 1 then
    let bigQ := (r.qs.take (c.level + 1)).foldl (fun a b => a * b) 1
    ((bigQ / r.plain % r.q i : Nat) : Int) * y
  else y

/-- The limbs of c0 with the noise added (R176); a share goes out as it stands (R60). -/
def noisedPart (s : State) (p : Nat) (share : Bool) (r : RingParams) (c : CtRef) (h : CtHeader) : List (List Nat) :=
  let x := part s p
  let mech := if share then 0 else field x.policy 0x20 1
  (List.range (h.level + 1)).map (fun i =>
    let q := r.q i
    let enc := (List.range r.size).map (fun j =>
      (encodeNoise r h (field x.policy 0x21 1) i (noiseAt s mech j) % (q : Int)).toNat)
    let e := if h.ntt then nttFwd q (r.psi i) r.log2N enc else enc
    List.zipWith (fun a b => (a + b) % q) (ctLimb s p r c.c0 0 i) e)

/-- The header that leaves with a released ciphertext: one unit of headroom is used (R157, Table 2.10). -/
def releasedCtHeader (share : Bool) (h : CtHeader) : CtHeader :=
  if share then h else { h with headroom := h.headroom - 1 }

/-- Write the output of a masked or sealed release to Pocket tiles: unmarked, with the round's release record (R54, R178). -/
def writeReleasedTiles (s : State) (p : Nat) (o : ReleaseOps) (words : List (List Nat)) : State :=
  let ob := releaseElem s p o
  let m := unitMeta s p (tileIx o.srcTile)
  let fmt := field (part s p).policy 0x43 1
  let nm : TileMeta :=
    { state := .plain, width := max 16 (8 * ob), mode := if fmt = 0 then m.mode else .mod2k,
      modulus := if fmt = 0 then m.modulus else 0, release := some o.roundId }
  (List.range words.length).foldl (fun t i =>
    let u := tileIx o.dst + i * releaseUnits s p o
    writeMarked (dropResident t p u (releaseUnits s p o)) p (pocketAddr u) (packElems ob (words.getD i [])) nm false false) s

/-- Write a released ciphertext to Pocket tiles: c0, then c1 (log entry 19). Kind 0 leaves the round's release record (R178). -/
def writeReleasedCt (s : State) (p : Nat) (share : Bool) (o : ReleaseOps) : State :=
  let k := releaseCt s p o
  let r := k.1
  let n := k.2.2.level + 1
  let parts := noisedPart s p share r k.2.1 k.2.2 ++ (if k.2.2.parts = 2 then ctLimbs s p r k.2.1.c1 0 n else [])
  (List.range parts.length).foldl (fun t i =>
    let u := tileIx o.dst + i * r.limbUnits
    let nm := { modMeta 64 (r.q (i % n)) (false, false) with release := if share then none else some o.roundId }
    writeMarked (dropResident t p u r.limbUnits) p (pocketAddr u) (packElems 8 (parts.getD i [])) nm false false) s

/-- The noise phase (R54): to the Pocket it is the whole release; to the window its values are staged under the mark, and
the output phase follows. -/
def releaseNoise (share : Bool) (s : State) (id : Nat) (h : DescHdr) (o : ReleaseOps) (admitted : Nat) (key : Bytes) : State :=
  let p := h.p.val
  let x := part s p
  let first := tileIx o.srcTile
  let metas := rangeMetas s p first (tileUnits (rangeWidth s p first)) (releaseTiles o)
  let saturated := x.regime != 2 && metas.any (fun m => m.saturated)
  let st := if saturated then stSaturated else stOk
  if toWindow o then
    let head := releaseHeader s p share o admitted saturated
    let s1 :=
      if x.regime = 2 then
        let k := releaseCt s p o
        let u := tileIx o.stageTile
        writeMarked (dropResident s p u ((k.2.2.level + 1) * k.1.limbUnits)) p (pocketAddr u)
          ((noisedPart s p share k.1 k.2.1 k.2.2).flatMap (packElems 8)) (plainMeta 64) true false
      else
        let bs := (releaseWords s p o).flatMap (packElems (releaseElem s p o))
        writeMarked (dropResidentAt s p o.srcRef bs.length) p o.srcRef bs (plainMeta 16) true false
    modFlight (spendFree s1) id (fun f => { f with phase := .output head key, stallFrom := none, saturated := saturated })
  else if x.regime = 2 then finish (spendFree (writeReleasedCt s p share o)) id st 0
  else finish (spendFree (writeReleasedTiles s p o (releaseWords s p o))) id st 0

/-- The release draws noise (R55, R60). -/
def drawsNoise (x : Partition) (share : Bool) : Bool := !share && field x.policy 0x20 1 != 0

/-- The state checks of a masked or sealed release (R53, R66, R94, R122, R353): a tile that is ROUND names its round itself, and that
round too must be UNMASKED, so that a tile of another round never leaves under this one's name (R48). -/
def releaseTilesOk (s : State) (p : Nat) (o : ReleaseOps) : Bool :=
  let first := tileIx o.srcTile
  let metas := rangeMetas s p first (tileUnits (rangeWidth s p first)) (releaseTiles o)
  uniformTiles s p first (releaseTiles o) && metas.all (fun m => m.chain != .partialSum && !m.model &&
    (m.state != .round || roundUnmasked (part s p) m.roundId)) && roundUnmasked (part s p) o.roundId

/-- No unit of `n` limbs of a part has the chain role PARTIAL (R61, R94). -/
def noPartial (s : State) (p : Nat) (r : RingParams) (base n : Nat) : Bool :=
  (List.range n).all (fun i => (List.range r.limbUnits).all (fun u =>
    (unitMeta s p (limbUnit base 0 r.limbUnits i + u)).chain != .partialSum))

/-- The state checks of a ciphertext release (R50, R61, R66, R94, R152, R154). -/
def releaseCtOk (s : State) (p : Nat) (share : Bool) (o : ReleaseOps) : Bool :=
  let k := releaseCt s p o
  let n := k.2.2.level + 1
  let h := k.2.2
  let form :=
    if share then h.parts == 1 && ctFormOk k.1 { h with parts := 2, dataLen := 2 * h.dataLen }
    else ctFormOk k.1 h
  let both := h.parts == 2
  let marks := joinMarks (ctMarks s p k.1 k.2.1.c0 0 n) (if both then ctMarks s p k.1 k.2.1.c1 0 n else (false, false))
  k.1.valid && form && !marks.2 && (share || (noPartial s p k.1 k.2.1.c0 n && (!both || noPartial s p k.1 k.2.1.c1 n)))

/-- RELEASE (R54 to R61, R353): the gate admits it, then its noise. -/
def startRelease (share : Bool) (s : State) (id : Nat) (h : DescHdr) (o : ReleaseOps) : State :=
  let p := h.p.val
  let x := part s p
  let t := now s
  let keyOk := !toWindow o || x.regime == 2 || !x.sealsOutput || (outputKey s id p).isSome
  let stateOk := if x.regime = 2 then releaseCtOk s p share o else releaseTilesOk s p o
  if !gateAdmits x share o.roundId t || !stateOk || !keyOk then refuse s id stPolicy
  else if x.regime = 2 ∧ !share ∧ (releaseCt s p o).2.2.headroom = 0 then refuse s id stHeadroom
  else
    let s0 := if x.regime = 2 then useRing s p o.paramAddr else s
    let s1 := modFlight (gateRecord s0 p share o.roundId t) id (fun f => { f with admitted := t })
    if drawsNoise x share && !samplersRun s p then stallNoise s1 id (outputKey s id p)
    else releaseNoise share s1 id h o t (((outputKey s id p).map (fun k => k.key)).getD [])

/-- The data of an output phase: what stands in the staging area, under the output key where the policy seals it
(R54, R58). A ciphertext goes out as it stands (Table 2.10). -/
def releaseData (s : State) (p : Nat) (share : Bool) (o : ReleaseOps) (head key : Bytes) : Bytes :=
  let x := part s p
  if x.regime = 2 then
    let k := releaseCt s p o
    let n := k.2.2.level + 1
    (releasedCtHeader share k.2.2).bytes ++ pread s p (pocketAddr (tileIx o.stageTile)) (8192 * n * k.1.limbUnits) ++
      (if k.2.2.parts = 2 then (ctLimbs s p k.1 k.2.1.c1 0 n).flatMap (packElems 8) else [])
  else
    let plain := pread s p o.srcRef (o.count * releaseElem s p o)
    if x.sealsOutput then
      let r := gcmSeal key (slice head 0x24 12) head plain
      r.1 ++ r.2
    else plain

/-- The header as it is written: its nonce takes the module id that SHW_DIM has then (R58). -/
def headerNow (s : State) (p : Nat) (share : Bool) (o : ReleaseOps) (head : Bytes) : Bytes :=
  if (part s p).sealsOutput then head.take 0x24 ++ releaseNonce s p o.roundId share ++ head.drop 0x30 else head

/-- The output phase of one release (R54): header and output go to the window and the release completes. -/
def outputRelease (share : Bool) (s : State) (f : InFlight) (o : ReleaseOps) (head0 key : Bytes) : State :=
  let p := f.h.p.val
  let head := headerNow s p share o head0
  let bs := head ++ releaseData s p share o head key
  let s1 := writeMarked s p o.dst bs (plainMeta 16) false false
  let s2 := modUsage s1 p (fun u =>
    { u with keystreamBytes := satAdd u.keystreamBytes (if (part s p).sealsOutput then o.count * releaseElem s p o else 0) })
  finish s2 f.id (if f.saturated then stSaturated else stOk) 0

/-- The first release of a partition whose noise is complete has its output phase. -/
def releaseOutput (s : State) (p : Nat) : State :=
  match (flying s p).findSome? (fun f =>
    match f.body, f.phase with
    | .releaseAggregate o, .output head key => some (f, o, head, key, false)
    | .releaseShare o, .output head key => some (f, o, head, key, true)
    | _, _ => none) with
  | none => s
  | some (f, o, head, key, share) => outputRelease share s f o head key

/-- The staging area of a release that ends without its output is set to zero (R54). -/
def zeroStaging (s : State) (f : InFlight) : State :=
  let p := f.h.p.val
  let wipe := fun (o : ReleaseOps) =>
    if !toWindow o then s
    else if (part s p).regime = 2 then
      let k := releaseCt s p o
      freeUnits (dropResident s p (tileIx o.stageTile) ((k.2.2.level + 1) * k.1.limbUnits)) p (tileIx o.stageTile)
        ((k.2.2.level + 1) * k.1.limbUnits)
    else
      let n := o.count * releaseElem s p o
      writeMarked (dropResidentAt s p o.srcRef n) p o.srcRef (zeros n) (plainMeta 16) false false
  match f.body with
  | .releaseAggregate o => wipe o
  | .releaseShare o => wipe o
  | _ => s

/-- The 100 ms of a noise stall have passed: nothing written remains, and no release or share is used up (R59, R347). -/
def entropyExpired (s : State) (f : InFlight) : State :=
  let p := f.h.p.val
  match f.body with
  | .releaseAggregate o =>
    let s1 := gateUndo s p false o.roundId f.admitted
    let s2 :=
      if toWindow o then zeroStaging s1 f
      else ((releaseClaims s1 p o).drop ((releaseClaims s1 p o).length - 1)).foldl (fun (t : State) (c : Claim) =>
        freeUnits (dropResident t p c.first c.units) p c.first c.units) s1
    finish s2 f.id stEntropy 0
  | .dpNoise o =>
    let n := o.tileCount * tileUnits (rangeWidth s p (tileIx o.srcTile))
    finish (freeUnits (dropResident s p (tileIx o.dstTile) n) p (tileIx o.dstTile) n) f.id stEntropy 0
  | _ => finish s f.id stEntropy 0

/-- The samplers of a partition are served again: what stalled goes on (R347). -/
def resumeNoise (s : State) (f : InFlight) : State :=
  let cleared := modFlight s f.id (fun g => { g with stallFrom := none, phase := .running })
  match f.body, f.phase with
  | .releaseAggregate o, .noiseStall key =>
    releaseNoise false cleared f.id f.h o f.admitted ((key.map (fun k => k.key)).getD [])
  | .dpNoise o, .noiseStall _ => noiseReady cleared f.id f.h o
  | .partialDec o, .noiseStall (some k) => partialShare cleared f.id f.h o k
  | _, _ => s

end Sys2Proof.Machine
end

