-- ==== Sys2Proof/Machine/Rma.lean ====
section
/-! DEFINITION. Remote memory spaces: space slots, protection domains, queue pairs with their context cache, RMA_WRITE,
RMA_READ, RMA_ADD, and what their packets, timeouts and revocations do (R280 to R297). -/

namespace Sys2Proof.Machine

/-! Sequence numbers -/

/-- How far psn `a` lies above `b`, modulo 2^32. -/
def psnAbove (a b : Nat) : Nat := (a + 2 ^ 32 - b % 2 ^ 32) % 2 ^ 32

/-- The psn comes at or after another one (serial order). -/
def psnFrom (a b : Nat) : Bool := decide (psnAbove a b < 2 ^ 31)

/-- The next psn. -/
def psnNext (a : Nat) : Nat := (a + 1) % 2 ^ 32

/-! Queue pairs and their cache -/

/-- The cached context of a queue pair. -/
def qpOf (s : State) (p n : Nat) : Option Qp := (part s p).qps.find? (fun q => q.qpn == n)

/-- Change a cached context; it becomes the most recently used (R286). -/
def modQp (s : State) (p n : Nat) (f : Qp → Qp) : State :=
  modPart s p (fun x =>
    match x.qps.find? (fun q => q.qpn == n) with
    | none => x
    | some q => { x with qps := f q :: x.qps.filter (fun y => y.qpn != n) })

/-- Drop a context from the cache. -/
def dropQp (s : State) (p n : Nat) : State :=
  modPart s p (fun x => { x with qps := x.qps.filter (fun q => q.qpn != n), backed := x.backed.filter (fun q => q.qpn != n) })

/-- The queue pair a descriptor names. -/
def rmaQpn : DescBody → Option Nat
  | .rmaWrite o => some o.qpn
  | .rmaRead o => some o.qpn
  | .rmaAdd o => some o.qpn
  | _ => none

/-- The RMA operands of a descriptor. -/
def rmaOps : DescBody → Option RmaOps
  | .rmaWrite o => some o
  | .rmaRead o => some o
  | .rmaAdd o => some o
  | _ => none

/-- The RMA descriptors of a queue pair in flight, in dispatch order. -/
def qpFlights (s : State) (p n : Nat) : List InFlight :=
  (flying s p).filter (fun f => f.done.isNone && rmaQpn f.body == some n)

/-- An entry that cannot be evicted (R286). -/
def qpLocked (s : State) (p : Nat) (q : Qp) : Bool :=
  q.msg.isSome || !q.sent.isEmpty || !(qpFlights s p q.qpn).isEmpty || (part s p).landings.any (fun l => field l.pkt.body 8 3 == q.qpn)

/-- Entries of a partition's region of the cache (R286). -/
def cacheSize (s : State) (p : Nat) : Nat := 64 * regField s (.rmaCcCfg p) 15 8

/-- The address of a context record (R283). -/
def recordAddr (s : State) (p n : Nat) : Nat := reg s (.rmaCtBase p) + 128 * n

/-- The sealed part of a context record (Table 11.7). -/
def contextPlain (q : Qp) : Bytes :=
  natLe 8 q.spaceId ++ natLe 1 q.pd ++ natLe 1 (if q.ready then 1 else 2) ++ natLe 1 q.errStatus ++ zeros 1 ++
    natLe 2 q.peer ++ natLe 2 q.timeoutUs ++ natLe 3 q.peerQpn ++ zeros 1 ++ natLe 4 q.txPsn ++ natLe 4 q.unaPsn ++
    natLe 4 q.rxPsn ++ natLe 4 q.lastEndPsn ++ natLe 1 q.lastStatus ++ zeros 59

/-- The clear part of a context record (Table 11.7). -/
def contextHead (count n : Nat) : Bytes := natLe 8 count ++ natLe 3 n ++ natLe 1 1 ++ zeros 4

/-- The nonce of a context record (R285). -/
def contextNonce (count n : Nat) : Bytes := natLe 8 count ++ natLe 3 n ++ zeros 1

/-- Write a context back to companion memory, sealed with the next counter (R285). -/
def writeBack (s : State) (p : Nat) (q : Qp) : State :=
  let x := part s p
  let head := contextHead x.evictCount q.qpn
  let r := gcmSeal x.contextKey (contextNonce x.evictCount q.qpn) head (contextPlain q)
  let s1 := emit s (.cclWrite (recordAddr s p q.qpn) (head ++ r.1 ++ r.2))
  let s2 := modPart s1 p (fun y => { y with
    evictCount := y.evictCount + 1, qps := y.qps.filter (fun c => c.qpn != q.qpn),
    backed := y.backed.filter (fun c => c.qpn != q.qpn) ++ [q] })
  modUsage s2 p (fun u => { u with cclOut := satAdd u.cclOut 128 })

/-- The context in a record, where its tag and format hold (R286 step 3). -/
def contextOf (x : Partition) (n : Nat) (b : Bytes) : Option Qp :=
  let head := b.take 16
  let count := field b 0 8
  if head != contextHead count n || b.length != 128 then none
  else
    (gcmOpen x.contextKey (contextNonce count n) head (slice b 16 96) (slice b 112 16)).map (fun t =>
      { qpn := n, spaceId := field t 0 8, pd := field t 8 1 % 16, ready := field t 9 1 == 1, errStatus := field t 10 1,
        peer := field t 12 2, timeoutUs := field t 14 2, peerQpn := field t 16 3, txPsn := field t 20 4,
        unaPsn := field t 24 4, rxPsn := field t 28 4, lastEndPsn := field t 32 4, lastStatus := field t 36 1, sent := [],
        seqSent := false, msg := none })

/-- Make room for one more context: the least recently used entry that is not locked is written back (R286). The flag says
whether there is room. -/
def makeRoom (s : State) (p : Nat) : State × Bool :=
  let x := part s p
  if x.qps.length < cacheSize s p then (s, true)
  else
    match x.qps.reverse.find? (fun q => !qpLocked s p q) with
    | some q => (writeBack s p q, true)
    | none => (s, false)

/-- Put a context into the cache; without room in its region it goes to companion memory (log entry 20). -/
def installQp (s : State) (p : Nat) (q : Qp) : State :=
  let r := makeRoom s p
  if r.2 then
    modPart r.1 p (fun x => { x with
      qps := q :: x.qps.filter (fun c => c.qpn != q.qpn), backed := x.backed.filter (fun c => c.qpn != q.qpn) })
  else writeBack r.1 p q

/-! Spaces and protection domains -/

/-- The space slot a protection domain binds to (Table 11.3). -/
def pdSlot (s : State) (p pd : Nat) : Nat := regField s (.rmaPdCtrl p pd) 4 3

/-- The domain is bound and holds a right: bit 0 write, bit 1 read, bit 2 add (Table 11.3). -/
def pdRight (s : State) (p pd bit_ : Nat) : Bool :=
  regField s (.rmaPdCtrl p pd) 7 7 == 1 && (regField s (.rmaPdCtrl p pd) 2 0).testBit bit_

/-- A space slot. -/
def slotState (s : State) (p k : Nat) : SpaceSlot := tabGet {} (part s p).spaces k

/-- Change a space slot. -/
def modSpace (s : State) (p k : Nat) (f : SpaceSlot → SpaceSlot) : State :=
  modPart s p (fun x => { x with spaces := tabMap {} x.spaces k f })

/-- The link key of a queue pair's space (Table 11.1). -/
def qpKey (s : State) (p : Nat) (q : Qp) : Nat := regField s (.spCtrl p (pdSlot s p q.pd)) 15 0

/-- A packet's range lies in export entry `i` of a slot with the right; its partition address (R281). The add right is one of Pocket
exports only (Table 11.2). -/
def exportAt (s : State) (p k i off len bit_ : Nat) : Option Nat :=
  let lo := reg s (.spExpLo p k i)
  let hi := reg s (.spExpHi p k i)
  let first := bitsOf lo 32 32 * 65536
  let size := bitsOf lo 8 24 * 65536
  let region := bitsOf hi 60 4
  if hi % 2 = 1 ∧ (region = 2 ∨ (region = 0 ∧ bit_ ≠ 2)) ∧ first ≤ off ∧ off + len ≤ first + size ∧ (bitsOf lo 0 3).testBit bit_ then
    some (region * 2 ^ 60 + bitsOf hi 16 24 * 65536 + (off - first))
  else none

/-- The partition address of a range of space offsets: by the lowest-numbered entry that covers it (R281). -/
def exportAddr (s : State) (p k off len bit_ : Nat) : Option Nat :=
  (List.range 16).findSome? (fun i => exportAt s p k i off len bit_)

/-- Move a queue pair to ERROR (Table 11.5): its descriptors that have sent nothing complete with the status (R283). -/
def errorQp (s : State) (p n : Nat) (st : Status) : State :=
  match qpOf s p n with
  | none => s
  | some q =>
    if q.ready then
      let s1 := modQp s p n (fun c => { c with ready := false, errStatus := st })
      ((qpFlights s1 p n).filter (fun f => f.committed == 0)).foldl (fun t f => finish t f.id st 0) s1
    else s

/-- Every queue pair whose domain meets a test goes to ERROR, the contexts written back among them. -/
def errorQps (s : State) (p : Nat) (test : Qp → Bool) (st : Status) : State :=
  let s1 := ((part s p).qps.filter test).foldl (fun t q => errorQp t p q.qpn st) s
  modPart s1 p (fun x => { x with backed := x.backed.map (fun q =>
    if test q ∧ q.ready then { q with ready := false, errStatus := st } else q) })

/-! The requester -/

/-- Operand ranges of an RMA descriptor (Table 11.8). -/
def rmaRange (o : RmaOps) : Bool :=
  decide (o.qpn < 2 ^ 24) && decide (64 ≤ o.len) && decide (o.len ≤ 2 ^ 24) && o.len % 64 == 0 && decide (o.width ≤ 2) &&
    decide (o.timeoutUs ≤ 65535)

/-- The tiles an RMA descriptor names. -/
def rmaClaims (o : RmaOps) : List Claim := byteClaims o.loc o.len none

/-- The addresses of an RMA descriptor (R280, R288): a READ does not land in the host-visible window. R288 refuses that with
ACCESS_DENIED, where R53 and R66 say POLICY_DENIED: the model follows R288 (log entry 103). -/
def rmaAddress (read : Bool) (x : Partition) (o : RmaOps) : Bool :=
  addrFits x o.loc o.len 1 && bitsOf o.remote 48 4 == 0 && o.remote % 64 == 0 && !(read && inWindow o.loc)

/-- The release record that every unit of a local source carries, if one does (R178, R289). -/
def sourceRelease (s : State) (p a len : Nat) : Option Nat :=
  if inPocket a then
    let u := a % 2 ^ 60 / 8192
    let n := (a % 2 ^ 60 + len + 8191) / 8192 - u
    let r := (unitMeta s p u).release
    if (List.range n).all (fun i => (unitMeta s p (u + i)).release == r) then r else none
  else none

/-- Bytes of a message that one packet carries or asks for (R289, R291). -/
def rmaChunk (s : State) (f : InFlight) : Nat :=
  match f.body with
  | .rmaWrite o => if (sourceRelease s f.h.p.val o.loc o.len).isSome then 4032 else 4096
  | _ => 4096

/-- The draft of the `k`-th packet of a message (Tables 10.6, 11.9), with its offset and length. -/
def rmaDraft (s : State) (f : InFlight) (q : Qp) (o : RmaOps) (k : Nat) : Draft × Nat × Nat :=
  let p := f.h.p.val
  let chunk := rmaChunk s f
  let off := k * chunk
  let len := min chunk (o.len - off)
  let marks := marksOf s p (o.loc + off) len
  let rel := sourceRelease s p o.loc o.len
  let body := fun (aux : Nat) => natLe 8 (o.remote + off) ++ natLe 3 q.peerQpn ++ natLe 1 aux ++ natLe 4 q.txPsn
  let mk := fun (pt aux : Nat) (payload : Bytes) =>
    ({ ptype := pt, gen := f.h.gen, dst := q.peer, body := body aux, payload := payload, first := k == 0,
       last := decide (o.len ≤ off + len) } : Draft)
  let d :=
    match f.body with
    | .rmaRead _ => mk 9 (len / 64 - 1) []
    | .rmaAdd _ =>
      let modq := (unitMeta s p ((o.loc + off) % 2 ^ 60 / 8192)).mode == .modq && inPocket o.loc
      mk 11 (o.width + 4 * bit modq + 8 * bit marks.1 + 16 * bit marks.2) (pread s p (o.loc + off) len)
    | _ =>
      mk 8 (o.width + 4 * bit marks.2 + 8 * bit marks.1 + 16 * bit rel.isSome)
        ((match rel with | some r => natLe 8 r ++ zeros 56 | none => []) ++ pread s p (o.loc + off) len)
  (d, off, len)

/-- Packets of a message. -/
def rmaPackets (s : State) (f : InFlight) (o : RmaOps) : Nat := (o.len + rmaChunk s f - 1) / rmaChunk s f

/-- The queue pair may send one more packet of a message: 4,096 unacknowledged packets, 32 outstanding reads (R291, R293). -/
def windowOpen (q : Qp) (b : DescBody) : Bool :=
  decide (q.sent.length < 4096) &&
    (match b with
     | .rmaRead _ => decide ((q.sent.filter (fun e => e.pkt.ptype == 9)).length < 32)
     | _ => true)

/-- The first descriptor of a queue pair with packets to send, where it may send them: messages go in dispatch order, so that one
which cannot begin yet holds those behind it (R288), and in ERROR only one that has begun goes on. -/
def nextSender (s : State) (p n : Nat) (q : Qp) : Option (InFlight × RmaOps) :=
  ((qpFlights s p n).findSome? (fun f =>
    (rmaOps f.body).bind (fun o => if f.committed < rmaPackets s f o then some (f, o) else none))).filter (fun e =>
      (match e.1.phase with
       | .rma _ _ => true
       | _ => false) && (q.ready || e.1.committed != 0))

/-- The partial result of an RMA descriptor: bytes acknowledged or landed and the back-off hint (R288). -/
def rmaResult (f : InFlight) (hint : Nat) : Nat :=
  (match f.phase with | .rma _ acked => acked | _ => 0) + hint % 2 ^ 16 * 2 ^ 40

/-- When a packet leaves the requester's egress at its sending: at once into the module's own router, and where it is dropped, for then
too its timeout recovers it (R264, R294); one that waits for a port leaves in a slot. -/
def leftAtOnce (s : State) (k : Packet) : Option Nat :=
  match routeOf s k.dst with
  | some out => if out < 6 ∧ portCarries s out k.ptype then none else some (now s)
  | none => some (now s)

/-- Send what a queue pair may send, message by message (R288, R289, R291). -/
def pumpQp (p n : Nat) : Nat → State → State
  | 0, s => s
  | fuel + 1, s =>
    match qpOf s p n with
    | none => s
    | some q =>
      match nextSender s p n q with
      | none => s
      | some (f, o) =>
        if windowOpen q f.body then
          let d := rmaDraft s f q o f.committed
          match linkKey s p (qpKey s p q) with
          | none => pumpQp p n fuel (finish s f.id stPolicy (rmaResult f 0))
          | some e =>
            if e.torn then pumpQp p n fuel (finish s f.id stTorn (rmaResult f 0))
            else if !keySends s p e.keyId then pumpQp p n fuel (finish s f.id stPolicy (rmaResult f 0))
            else
              let r := sealPacket s p e d.1
              let s1 := sendPacket r.1 p r.2
              let ent : SentPacket :=
                { psn := q.txPsn, pkt := r.2, desc := f.id, off := d.2.1, bytes := d.2.2,
                  left := leftAtOnce s r.2 }
              let s2 := modQp s1 p n (fun c => { c with txPsn := psnNext c.txPsn, sent := c.sent ++ [ent] })
              pumpQp p n fuel (modFlight (countDram s2 p (o.loc + d.2.1) d.2.2 false) f.id
                (fun g => { g with committed := g.committed + 1 }))
        else s

/-- Enough steps for one filling of the window. -/
def pumpSteps : Nat := 8192

/-- Ask for the context of a queue pair from companion memory (R286). -/
def fetchContext (s : State) (p n : Nat) (stamp : Instant) (held : List HeldPacket) : State :=
  emit (modPart (countEvent s 15 [(1, p)] 1) p (fun x =>
    { x with misses := x.misses ++ [{ qpn := n, stamp := stamp, held := held }] })) (.contextRead p (recordAddr s p n))

/-- The partition's share of pending context fetches has room (R286). -/
def missRoom (s : State) (p : Nat) : Bool := decide ((part s p).misses.length < regField s (.rmaMissCfg p) 6 0)

/-- The requester's checks from the queue pair on (R288), and the first packets. `right` is the right's bit. A context that is not
in the cache is fetched within the partition's share; a descriptor that finds it full waits (R286; log entry 51). -/
def rmaStart (right : Nat) (s : State) (id : Nat) (h : DescHdr) (o : RmaOps) : State :=
  let p := h.p.val
  match qpOf s p o.qpn with
  | none =>
    if regField s (.rmaCtLimit p) 23 0 < o.qpn then refuse s id stPolicy
    else if (part s p).misses.any (fun m => m.qpn == o.qpn) || !missRoom s p then waitIn s id .keyWait
    else waitIn (fetchContext s p o.qpn (instant s) []) id .keyWait
  | some q =>
    let slot := slotState s p (pdSlot s p q.pd)
    if !q.ready then refuse s id q.errStatus
    else if !pdRight s p q.pd right || keyDying s p (qpKey s p q) then refuse s id stPolicy
    else if slot.mode ≠ .live ∨ (slot.tR.map (fun t => decide (t ≤ now s))).getD false then refuse s id stRevoked
    else pumpQp p o.qpn pumpSteps (waitIn s id (.rma o.qpn 0))

/-- RMA_WRITE (R288, R289). -/
def startRmaWrite (s : State) (id : Nat) (h : DescHdr) (o : RmaOps) : State := rmaStart 0 s id h o

/-- RMA_READ (R288, R291). -/
def startRmaRead (s : State) (id : Nat) (h : DescHdr) (o : RmaOps) : State := rmaStart 1 s id h o

/-- RMA_ADD (R288, R292). -/
def startRmaAdd (s : State) (id : Nat) (h : DescHdr) (o : RmaOps) : State := rmaStart 2 s id h o

/-- Start an RMA descriptor again once its context has come. -/
def rmaAgain (s : State) (f : InFlight) : State :=
  match f.body with
  | .rmaWrite o => rmaStart 0 s f.id f.h o
  | .rmaRead o => rmaStart 1 s f.id f.h o
  | .rmaAdd o => rmaStart 2 s f.id f.h o
  | _ => s

/-- Bytes of a descriptor are acknowledged or landed; with its last ones it completes (R288). -/
def creditBytes (s : State) (id n : Nat) : State :=
  let s1 := modFlight s id (fun f =>
    match f.phase with
    | .rma q acked => { f with phase := .rma q (acked + n) }
    | _ => f)
  match flight s1 id with
  | none => s1
  | some f =>
    match f.phase, rmaOps f.body with
    | .rma _ acked, some o => if o.len ≤ acked then finish s1 id stOk (rmaResult f 0) else s1
    | _, _ => s1

/-- The response time of a descriptor (R288). -/
def responseUs (q : Qp) (o : RmaOps) : Nat := if o.timeoutUs = 0 then q.timeoutUs else o.timeoutUs

/-- The instant at which a descriptor's response timer expires: of its oldest outstanding request for a READ, otherwise of
its last packet once that has left (R294). -/
def responseDeadline (s : State) (q : Qp) (f : InFlight) : Option Nat :=
  match rmaOps f.body with
  | none => none
  | some o =>
    let mine := q.sent.filter (fun e => e.desc == f.id)
    let from_ :=
      match f.body with
      | .rmaRead _ => (mine.filterMap (fun (e : SentPacket) => e.left)).min?
      | _ =>
        if rmaPackets s f o ≤ f.committed ∧ mine.all (fun e => e.left.isSome) then
          (mine.filterMap (fun (e : SentPacket) => e.left)).max?
        else none
    from_.map (fun t => t + 1000 * responseUs q o)

/-- The earliest response deadline of a queue pair. -/
def qpDeadline (s : State) (p : Nat) (q : Qp) : Option Nat :=
  ((qpFlights s p q.qpn).filterMap (responseDeadline s q)).min?

/-- The response timer of a queue pair expires (R294). -/
def responseExpired (s : State) (p n : Nat) : State :=
  match qpOf s p n with
  | none => s
  | some q =>
    match qpDeadline s p q with
    | none => s
    | some t =>
      let s1 := modQp (reach s t) p n (fun c => { c with ready := false, errStatus := stLate, sent := [] })
      (qpFlights s1 p n).foldl (fun u f => finish u f.id stLate (rmaResult f 0)) s1

/-- Everything up to a psn is acknowledged: packets of WRITE and ADD (R290). -/
def ackUpTo (s : State) (p n psn : Nat) : State :=
  match qpOf s p n with
  | none => s
  | some q =>
    let done := q.sent.filter (fun e => e.pkt.ptype != 9 && psnFrom psn e.psn)
    let s1 := modQp s p n (fun c => { c with
      sent := c.sent.filter (fun e => e.pkt.ptype == 9 || !psnFrom psn e.psn),
      unaPsn := if psnFrom psn c.unaPsn then psnNext psn else c.unaPsn })
    done.foldl (fun t e => creditBytes t e.desc e.bytes) s1

/-- Send one unacknowledged packet again: the same message bytes, read from the local source again, under the same psn and the next
value of the key's counter (R273, R293). One that may not be sent completes its descriptor as at its first sending. -/
def resendOne (p n : Nat) (s : State) (e : SentPacket) : State :=
  match qpOf s p n, flight s e.desc with
  | some q, some f =>
    match rmaOps f.body, linkKey s p (qpKey s p q) with
    | some o, some k =>
      if f.done.isSome then s
      else if k.torn then finish s f.id stTorn (rmaResult f 0)
      else if !keySends s p k.keyId then finish s f.id stPolicy (rmaResult f 0)
      else
        let d := (rmaDraft s f { q with txPsn := e.psn } o (e.off / rmaChunk s f)).1
        let r := sealPacket s p k d
        modQp (sendPacket r.1 p r.2) p n (fun c => { c with sent := c.sent.map (fun y =>
          if y.psn = e.psn then { y with pkt := r.2, left := leftAtOnce s r.2 } else y) })
    | _, _ => s
  | _, _ => s

/-- Send the unacknowledged packets again from a psn on (R293). -/
def resendFrom (s : State) (p n psn : Nat) : State :=
  match qpOf s p n with
  | none => s
  | some q => (q.sent.filter (fun e => psnFrom e.psn psn)).foldl (resendOne p n) s

/-- A packet leaves the requester's egress: its response timer may run from now on (R294). -/
def noteLeft (s : State) (p : Nat) (k : Packet) : State :=
  modPart s p (fun x => { x with qps := x.qps.map (fun q => { q with sent := q.sent.map (fun e =>
    if e.pkt = { k with vc := 2 * (k.vc / 2) } then { e with left := some (now s) } else e) }) })

/-- Descriptors of a queue pair that have a packet at or after a psn. -/
def flightsFrom (s : State) (p n psn : Nat) (q : Qp) : List InFlight :=
  (qpFlights s p n).filter (fun f => q.sent.any (fun e => e.desc == f.id && psnFrom e.psn psn))

/-- RETRY_LATER at a psn (R287). -/
def retryFrom (s : State) (p n psn hint : Nat) : State :=
  match qpOf s p n with
  | none => s
  | some q =>
    let hit := flightsFrom s p n psn q
    let s1 := hit.foldl (fun t f => finish t f.id stRetry (rmaResult f hint)) s
    modQp s1 p n (fun c => { c with txPsn := psn, sent := c.sent.filter (fun e => !psnFrom e.psn psn) })

/-- An error reply at a psn (Table 11.10): its descriptor and all later ones of the queue pair complete with the status. -/
def failFrom (s : State) (p n psn : Nat) (st : Status) : State :=
  match qpOf s p n with
  | none => s
  | some q =>
    let hit := flightsFrom s p n psn q
    let first := (hit.map (fun f => f.id)).min?
    let all := (qpFlights s p n).filter (fun f =>
      match first with | some i => decide (i ≤ f.id) | none => f.committed == 0)
    let s1 := modQp s p n (fun c => { c with
      ready := false, errStatus := st, sent := c.sent.filter (fun e => !all.any (fun f => f.id == e.desc)) })
    all.foldl (fun t f => finish t f.id st (rmaResult f 0)) s1

/-- A reply or response is late: stamped at or after the queue pair's response deadline (R294). -/
def replyLate (s : State) (p : Nat) (q : Qp) (stamp : Instant) : Bool :=
  match qpDeadline s p q with
  | some t => decide (t ≤ stamp.ns)
  | none => false

/-- Count a message of another generation (R388). -/
def countStale (s : State) : State :=
  { s with faults := { s.faults with stale := satAdd s.faults.stale 1 } }

/-- An RMA_REPLY at the requester (Table 11.10, R287, R290, R293). -/
def receiveReply (s : State) (k : Packet) (stamp : Instant) : State :=
  let p := addrPart k.dst
  let st := field k.body 0 1
  let hint := field k.body 2 2
  let n := field k.body 4 3
  let psn := field k.body 8 4
  if k.gen ≠ (part s p).gen then countStale s
  else
    match qpOf s p n with
    | none => s
    | some q =>
      if k.src ≠ q.peer ∨ replyLate s p q stamp then s
      else
        let s1 :=
          if st = 0 then ackUpTo s p n psn
          else if st = 0x80 then resendFrom s p n psn
          else if st = stRetry then retryFrom s p n psn hint
          else failFrom s p n psn st
        pumpQp p n pumpSteps s1

/-- An RMA_READ_RESP at the requester: its data lands with its marks and release record (R291). -/
def receiveResponse (s : State) (k : Packet) (stamp : Instant) (payload : Bytes) : State :=
  let p := addrPart k.dst
  let n := field k.body 8 3
  let aux := field k.body 11 1
  let psn := field k.body 12 4
  if k.gen ≠ (part s p).gen then countStale s
  else
    match qpOf s p n with
    | none => s
    | some q =>
      match q.sent.find? (fun e => e.psn == psn && e.pkt.ptype == 9) with
      | none => s
      | some e =>
        match (flight s e.desc).bind (fun f => rmaOps f.body) with
        | none => s
        | some o =>
          let rel := if aux.testBit 4 then some (field payload 0 8) else none
          let data := if aux.testBit 4 then payload.drop 64 else payload
          if k.src ≠ q.peer ∨ replyLate s p q stamp ∨ data.length ≠ e.bytes then s
          else
            let m := { plainMeta (widthBits o.width) with release := rel }
            let a := o.loc + e.off
            let s1 := writeMarked (dropResidentAt s p a data.length) p a data m (aux.testBit 3) (aux.testBit 2)
            let s2 := modQp s1 p n (fun c => { c with
              sent := c.sent.filter (fun y => y.psn != psn), unaPsn := if c.unaPsn = psn then psnNext psn else c.unaPsn })
            pumpQp p n pumpSteps (creditBytes s2 e.desc e.bytes)

/-! The target -/

/-- A reply to a packet: `peer` is the requester's queue pair number. -/
def rmaReply (s : State) (k : Packet) (peer status hint psn : Nat) : State :=
  trySend s (addrPart k.dst) k.keyId
    { ptype := 12, gen := k.gen, dst := k.src,
      body := natLe 1 status ++ zeros 1 ++ natLe 2 hint ++ natLe 3 peer ++ zeros 1 ++ natLe 4 psn ++ zeros 4 }

/-- A reply about a queue pair whose context is not at hand: it carries the number of the requester's queue pair (R283), which for
one that was written back is its context's, and for one that does not exist a free value (log entry 21). -/
def blindReply (s : State) (k : Packet) (status hint psn : Nat) : State :=
  match (part s (addrPart k.dst)).backed.find? (fun q => q.qpn == field k.body 8 3) with
  | some q => rmaReply s k q.peerQpn status hint psn
  | none => spendFree (rmaReply s k (freeNat s 3) status hint psn)

/-- The psn of a request packet. -/
def packetPsn (k : Packet) : Nat := field k.body 12 4

/-- The qpn a request packet names. -/
def packetQpn (k : Packet) : Nat := field k.body 8 3

/-- The bytes a request covers at the target, and its data without a release prefix (Table 11.9). -/
def packetRange (k : Packet) : Nat × Bytes :=
  let aux := field k.body 11 1
  if k.ptype = 9 then ((aux % 64 + 1) * 64, [])
  else if k.ptype = 8 ∧ aux.testBit 4 then (k.payload.length - 64, k.payload.drop 64)
  else (k.payload.length, k.payload)

/-- Units that a byte range covers in the Pocket. -/
def rangeUnits (a len : Nat) : List (Nat × Nat) := (byteClaims a len none).map (fun c => (c.first, c.units))

/-- The range touches a unit that an in-flight descriptor of the partition has reserved, one that a waiting ring head names, or one
that an earlier landing waits for (R76, R77, R290). -/
def landingBlocked (s : State) (p a len : Nat) (earlier : List HeldPacket) : Bool :=
  rangesMeet (rangeUnits a len) (reservedBy s p ++ headNames s p ++
    earlier.flatMap (fun l => rangeUnits l.addr (packetRange l.pkt).1))

/-- The range touches a reserved use of the Pocket (R189). -/
def landingReserved (s : State) (p a len : Nat) : Bool :=
  (rangeUnits a len).any (fun r => (usesOf (part s p)).any (fun u => overlaps r.1 r.2 u.first u.units))

/-- The tile that an RMA_ADD packet adds to, where its conditions hold (R292): first unit and metadata. -/
def addTarget (s : State) (p a len aux : Nat) : Option (Nat × TileMeta) :=
  let w := widthBits (aux % 4)
  let tu := tileUnits w
  let u := a % 2 ^ 60 / 8192 / tu * tu
  let m := unitMeta s p u
  let inside := decide ((a % 2 ^ 60 + len + 8191) / 8192 ≤ u + tu)
  if aux % 4 ≤ 2 ∧ inPocket a ∧ inside ∧ m.state ≠ .free ∧ m.width = w ∧
      ((m.mode = .mod2k ∧ !aux.testBit 2) ∨ (m.mode = .modq ∧ aux.testBit 2)) then some (u, m)
  else none

/-- The bytes of a tile's range after the addends (R292, Table 3.3). -/
def addedBytes (m : TileMeta) (old add : Bytes) : Bytes :=
  let eb := m.width / 8
  let es := List.zipWith (fun a b =>
    (addElem m.mode m.width m.modulus a (sourceElem m.mode m.modulus m.width b)).1) (tileInts m.mode m.width (elems eb old))
    (elems eb add)
  intBytes m.width es

/-- The right's bit a request type needs. -/
def packetRight (k : Packet) : Nat := if k.ptype = 9 then 1 else if k.ptype = 11 then 2 else 0

/-- Land a WRITE or ADD packet at its partition address (R290, R292). -/
def landPacket (s : State) (p a : Nat) (k : Packet) : State :=
  let aux := field k.body 11 1
  let r := packetRange k
  let s1 := dropResidentAt s p a r.1
  if k.ptype = 11 then
    match addTarget s p a r.1 aux with
    | none => s
    | some (u, m) =>
      let nm := { m with count := m.count + 1, mark := m.mark || aux.testBit 3, model := m.model || aux.testBit 4, release := none }
      setUnitMetas (pwrite s1 p a (addedBytes m (pread s p a r.1) r.2)) p u nm (tileUnits m.width)
  else
    let m := { plainMeta (widthBits (aux % 4)) with release := if aux.testBit 4 then some (field k.payload 0 8) else none }
    writeMarked s1 p a r.2 m (aux.testBit 3) (aux.testBit 2)

/-- After a message's last packet has committed the target replies OK (R290). -/
def endMessage (s : State) (p : Nat) (k : Packet) : State :=
  match qpOf s p (packetQpn k) with
  | none => s
  | some q =>
    if k.last then
      rmaReply (modQp s p q.qpn (fun c => { c with lastEndPsn := packetPsn k, lastStatus := 0, msg := none })) k q.peerQpn 0 0
        (packetPsn k)
    else s

/-- The response to a read: the last committed bytes with their marks; the release record goes along where the packet holds
it beside the data (R291; log entry 22). -/
def answerRead (s : State) (p a : Nat) (q : Qp) (k : Packet) : State :=
  let len := (packetRange k).1
  let marks := marksOf s p a len
  let rel := if len ≤ 4032 then sourceRelease s p a len else none
  let aux := 4 * bit marks.2 + 8 * bit marks.1 + 16 * bit rel.isSome
  let payload := (match rel with | some r => natLe 8 r ++ zeros 56 | none => []) ++ pread s p a len
  let s1 := countDram s p a len false
  let s2 := trySend s1 p k.keyId
    { ptype := 10, gen := k.gen, dst := k.src, body := k.body.take 8 ++ natLe 3 q.peerQpn ++ natLe 1 aux ++ natLe 4 (packetPsn k),
      payload := payload, first := k.first, last := k.last }
  if k.last then modQp s2 p q.qpn (fun c => { c with lastEndPsn := packetPsn k, lastStatus := 0, msg := none }) else s2

/-- The partition address of a request: space offset through the exports of the queue pair's slot (R281). -/
def requestAddr (s : State) (p : Nat) (q : Qp) (k : Packet) : Option Nat :=
  exportAddr s p (pdSlot s p q.pd) (bitsOf (field k.body 0 8) 0 48) (packetRange k).1 (packetRight k)

/-- A refused request: the queue pair goes to ERROR and the reply says why (Table 11.6). -/
def refuseRequest (s : State) (p : Nat) (q : Qp) (k : Packet) (st : Status) : State :=
  rmaReply (errorQp (modQp s p q.qpn (fun c => { c with msg := none })) p q.qpn st) k q.peerQpn st 0 (packetPsn k)

/-- An earlier landing of the same queue pair waits. -/
def landingQueued (ls : List HeldPacket) (n : Nat) : Bool := ls.any (fun l => packetQpn l.pkt == n)

/-- An RMA_ADD packet meets the conditions of R292 (step 6 of Table 11.6). -/
def addAdmitted (s : State) (p a : Nat) (k : Packet) : Bool :=
  let len := (packetRange k).1
  k.ptype != 11 || ((addTarget s p a len (field k.body 11 1)).isSome && len % (2 * 2 ^ (field k.body 11 1 % 4)) == 0)

/-- A WRITE or ADD takes its tiles and lands. An ADD that had to wait meets the conditions of R292 when it takes its tile (log entry
102). -/
def landAdmitted (s : State) (p : Nat) (l : HeldPacket) : State :=
  let t :=
    if addAdmitted s p l.addr l.pkt then endMessage (landPacket s p l.addr l.pkt) p l.pkt
    else
      match qpOf s p (packetQpn l.pkt) with
      | some q => refuseRequest s p q l.pkt stPolicy
      | none => s
  releaseCells t l.queue l.pkt

/-- An admitted request has its effect, or waits for a reservation (R290 to R292). -/
def admitRequest (s : State) (p : Nat) (q : Qp) (l : HeldPacket) (a : Nat) : State :=
  let k := l.pkt
  let s1 := modQp s p q.qpn (fun c => { c with rxPsn := psnNext c.rxPsn, seqSent := false, msg := some l.stamp })
  if k.ptype = 9 then releaseCells (answerRead s1 p a q k) l.queue k
  else if landingBlocked s p a (packetRange k).1 (part s p).landings ∨ landingQueued (part s p).landings q.qpn then
    modPart s1 p (fun x => { x with landings := x.landings ++ [{ l with addr := a }] })
  else landAdmitted s1 p { l with addr := a }

/-- Step 4 of Table 11.6, for the first packet of a message: it is stamped before the slot's T_r and the slot holds the
context's space. -/
def spaceAdmits (s : State) (p : Nat) (q : Qp) (stamp : Instant) : Bool :=
  let k := pdSlot s p q.pd
  reg s (.spId p k) == q.spaceId &&
    (match (slotState s p k).tR with | some t => decide (stamp.ns < t) | none => true)

/-- Steps 2 to 6 of Table 11.6 for a queue pair whose context is at hand (R284, R293). -/
def checkRequest (s : State) (p : Nat) (q : Qp) (l : HeldPacket) : State :=
  let k := l.pkt
  let psn := packetPsn k
  let free := fun (t : State) => releaseCells t l.queue k
  if k.src ≠ q.peer then free (refuseRequest s p q k stPolicy)
  else if !q.ready then free (if k.first then rmaReply s k q.peerQpn q.errStatus 0 psn else s)
  else if psn ≠ q.rxPsn then
    if psnFrom psn q.rxPsn then
      free (if q.seqSent then s
        else rmaReply (modQp s p q.qpn (fun c => { c with seqSent := true })) k q.peerQpn 0x80 0 q.rxPsn)
    else free (if psn = q.lastEndPsn then rmaReply s k q.peerQpn q.lastStatus 0 psn else s)
  else if k.first ∧ !spaceAdmits s p q l.stamp then free (refuseRequest s p q k stRevoked)
  else
    match requestAddr s p q k with
    | none => free (refuseRequest s p q k stAccess)
    | some a =>
      let len := (packetRange k).1
      if !pdRight s p q.pd (packetRight k) || !addrFits (part s p) a len 1 || landingReserved s p a len then
        free (refuseRequest s p q k stAccess)
      else if !addAdmitted s p a k then
        free (refuseRequest s p q k stPolicy)
      else admitRequest s p q l a

/-- Held packets of all misses of a partition. -/
def heldCount (x : Partition) : Nat := (x.misses.map (fun m => m.held.length)).sum

/-- The back-off of a full miss share, in µs (R287). -/
def missHint (s : State) (x : Partition) : Nat :=
  match (x.misses.map (fun m => m.stamp.ns + 5000)).min? with
  | some t => max 1 ((t - now s + 999) / 1000)
  | none => 1

/-- What a pending fetch holds before the message that packet `l` belongs to, and that message's packets (R287). -/
def splitHeld (held : List HeldPacket) (l : HeldPacket) : List HeldPacket × List HeldPacket :=
  if l.pkt.first then (held, [l])
  else
    let tail := held.reverse.takeWhile (fun m => !m.pkt.first)
    let rest := held.take (held.length - tail.length)
    match rest.reverse with
    | m :: before => (before.reverse, m :: tail.reverse ++ [l])
    | [] => ([], tail.reverse ++ [l])

/-- RETRY_LATER to a miss (R287): it names the first psn of the message that packet `l` belongs to, whose packets that a fetch
holds are discarded with it. -/
def refuseMiss (s : State) (p : Nat) (l : HeldPacket) (hint : Nat) : State :=
  let n := packetQpn l.pkt
  let held := (((part s p).misses.find? (fun m => m.qpn == n)).map (fun m => m.held)).getD []
  let c := splitHeld held l
  let head := c.2.head?.getD l
  let s1 := modPart s p (fun y => { y with
    retry := y.retry.filter (fun e => e.1 != n) ++ [(n, packetPsn head.pkt)],
    misses := y.misses.map (fun m => if m.qpn = n then { m with held := c.1 } else m) })
  c.2.foldl (fun t m => releaseCells t m.queue m.pkt) (blindReply s1 head.pkt stRetry hint (packetPsn head.pkt))

/-- A request whose context is not in the cache (R286, R287). -/
def missRequest (s : State) (p : Nat) (l : HeldPacket) : State :=
  let x := part s p
  let n := packetQpn l.pkt
  let pending := x.misses.any (fun m => m.qpn == n)
  let room := decide (heldCount x < regField s (.rmaMissCfg p) 27 16)
  if pending && room then
    modPart s p (fun y => { y with misses := y.misses.map (fun m => if m.qpn = n then { m with held := m.held ++ [l] } else m) })
  else if regField s (.rmaCtLimit p) 23 0 < n then releaseCells (blindReply s l.pkt stPolicy 0 (packetPsn l.pkt)) l.queue l.pkt
  else if pending || !missRoom s p || !room then refuseMiss s p l (missHint s x)
  else fetchContext s p n l.stamp [l]

/-- A request at its target (R284, R287): packets behind a RETRY_LATER wait for the psn it named. -/
def receiveRequest (s : State) (l : HeldPacket) : State :=
  let p := addrPart l.pkt.dst
  let n := packetQpn l.pkt
  let psn := packetPsn l.pkt
  let named := ((part s p).retry.find? (fun e => e.1 == n)).map (fun e => e.2)
  match named with
  | some r =>
    if psn ≠ r ∧ psnFrom psn r then releaseCells s l.queue l.pkt
    else
      let s1 := if psn = r then modPart s p (fun x => { x with retry := x.retry.filter (fun e => e.1 != n) }) else s
      match qpOf s1 p n with
      | some q => checkRequest s1 p q l
      | none => missRequest s1 p l
  | none =>
    match qpOf s p n with
    | some q => checkRequest s p q l
    | none => missRequest s p l

/-- The first of the waiting landings that no reservation, waiting ring head or earlier landing stands before (R76, R77, R290). -/
def nextLanding (s : State) (p : Nat) : List HeldPacket → List HeldPacket → Option HeldPacket
  | _, [] => none
  | earlier, l :: ls =>
    if landingBlocked s p l.addr (packetRange l.pkt).1 earlier || landingQueued earlier (packetQpn l.pkt) then
      nextLanding s p (earlier ++ [l]) ls
    else some l

/-- Remote landings that waited land, in ingress order, once nothing stands before them (R76, R77, R290). -/
def retryLandings (p : Nat) : Nat → State → State
  | 0, s => s
  | fuel + 1, s =>
    match nextLanding s p [] (part s p).landings with
    | none => s
    | some l =>
      retryLandings p fuel (landAdmitted (modPart s p (fun y => { y with landings := y.landings.erase l })) p l)

/-- The miss of a queue pair. -/
def missOf (x : Partition) (n : Nat) : Option Miss := x.misses.find? (fun m => m.qpn == n)

/-- The packets a fetch holds have waited 5 µs: the first draws RETRY_LATER, the others are dropped (R287). -/
def missExpired (s : State) (p n : Nat) : State :=
  match missOf (part s p) n with
  | none => s
  | some m =>
    match m.held with
    | [] => s
    | l :: rest =>
      let s1 := reach s (l.stamp.ns + 5000)
      let s2 := modPart s1 p (fun x => { x with
        misses := x.misses.map (fun y => if y.qpn = n then { y with held := [] } else y),
        retry := x.retry.filter (fun e => e.1 != n) ++ [(n, packetPsn l.pkt)] })
      let s3 := blindReply s2 l.pkt stRetry 1 (packetPsn l.pkt)
      (l :: rest).foldl (fun t y => releaseCells t y.queue y.pkt) s3

/-- Descriptors that wait for a context go on. -/
def wakeRma (s : State) (p n : Nat) (found : Bool) : State :=
  ((qpFlights s p n).filter (fun f => f.phase == .keyWait)).foldl (fun t f =>
    if found then rmaAgain t f else refuse t f.id stPolicy) s

/-- Descriptors that waited for the partition's share of fetches ask for their contexts as it has room (R286). -/
def fetchWaiting (s : State) (p : Nat) : State :=
  ((flying s p).filter (fun f => f.done.isNone && f.phase == .keyWait)).foldl (fun t f =>
    match rmaQpn f.body with
    | some n =>
      if (qpOf t p n).isNone && !(part t p).misses.any (fun m => m.qpn == n) && missRoom t p then
        fetchContext t p n (instant t) []
      else t
    | none => t) s

/-- A context as it is installed: one whose queue pair has gone to ERROR since it was written back is in ERROR (Table 11.5). -/
def fetchedQp (x : Partition) (q : Qp) : Qp :=
  match x.backed.find? (fun y => y.qpn == q.qpn) with
  | some y => if y.ready then q else { q with ready := false, errStatus := y.errStatus }
  | none => q

/-- A context record has come (R286 steps 3 and 4): one that fails its tag names no queue pair. Without an unlocked entry the
fetch waits. -/
def contextArrived (s : State) (p n : Nat) (record : Bytes) : State :=
  match missOf (part s p) n with
  | none => s
  | some m =>
    let late := match m.held with | l :: _ => decide (l.stamp.ns + 5000 ≤ now s) | [] => false
    let s0 := if late then missExpired s p n else s
    let held := if late then [] else m.held
    let drop := fun (t : State) => modPart t p (fun x => { x with misses := x.misses.filter (fun y => y.qpn != n) })
    match contextOf (part s p) n record with
    | none =>
      let s1 := held.foldl (fun t l => releaseCells (blindReply t l.pkt stPolicy 0 (packetPsn l.pkt)) l.queue l.pkt) (drop s0)
      fetchWaiting (wakeRma s1 p n false) p
    | some q0 =>
      let q := fetchedQp (part s p) q0
      let r := makeRoom s0 p
      if r.2 then
        let s1 := modPart (drop r.1) p (fun x => { x with
          qps := q :: x.qps, backed := x.backed.filter (fun y => y.qpn != n) })
        let s2 := modUsage s1 p (fun u => { u with cclIn := satAdd u.cclIn 128 })
        fetchWaiting (wakeRma (held.foldl receiveRequest s2) p n true) p
      else s0

/-- A target abandons a message whose next packet has not come in time (R295). -/
def gapExpired (s : State) (p n : Nat) : State :=
  match qpOf s p n with
  | none => s
  | some q =>
    match q.msg with
    | none => s
    | some t => modQp (reach s (t.ns + 1000 * q.timeoutUs)) p n (fun c => { c with msg := none })

/-! Commands of the registers -/

/-- The result of a queue pair command (Table 11.4). -/
def qpResult (s : State) (p r : Nat) : State := setReg s (.rmaQpCmd p) (r * 2 ^ 28)

/-- A partition that exists (Table 12.5): queue pairs are made at any time while it does. -/
def PtnState.exists : PtnState → Bool
  | .free => false
  | .creating => false
  | .destroying => false
  | _ => true

/-- The queue pair exists, in the cache or written back. -/
def knownQp (x : Partition) (n : Nat) : Option Qp :=
  (x.qps.find? (fun q => q.qpn == n)).orElse (fun _ => x.backed.find? (fun q => q.qpn == n))

/-- RMA_QP_CMD create (R283, Tables 11.4, 11.5). -/
def createQp (s : State) (p n : Nat) : State :=
  let pd := regField s (.rmaQpArg0 p) 43 40
  let t := regField s (.rmaQpArg0 p) 63 48
  if !(part s p).mode.exists then refuseAccess s
  else if regField s (.rmaCtLimit p) 23 0 < n % 2 ^ 24 then qpResult s p 3
  else if (knownQp (part s p) (n % 2 ^ 24)).isSome then qpResult s p 1
  else if regField s (.rmaPdCtrl p pd) 7 7 = 0 then qpResult s p 2
  else
    qpResult (installQp s p
      { qpn := n % 2 ^ 24, spaceId := reg s (.spId p (pdSlot s p pd)), pd := pd, ready := true, errStatus := 0,
        peer := regField s (.rmaQpArg0 p) 15 0, peerQpn := regField s (.rmaQpArg0 p) 39 16,
        timeoutUs := if t = 0 then 20 else t, txPsn := regField s (.rmaQpArg1 p) 31 0,
        unaPsn := regField s (.rmaQpArg1 p) 31 0, rxPsn := regField s (.rmaQpArg1 p) 63 32, lastEndPsn := 0,
        lastStatus := 0, sent := [], seqSent := false, msg := none }) p 0

/-- RMA_QP_CMD re-initialise (Table 11.5): a queue pair in ERROR is READY with new psns. -/
def reinitQp (s : State) (p n : Nat) : State :=
  if !(part s p).mode.exists then refuseAccess s
  else if regField s (.rmaCtLimit p) 23 0 < n % 2 ^ 24 then qpResult s p 3
  else
    match knownQp (part s p) (n % 2 ^ 24) with
    | none => qpResult s p 4
    | some q =>
      if regField s (.rmaPdCtrl p q.pd) 7 7 = 0 then qpResult s p 2
      else if q.ready then qpResult s p 0
      else
        let s1 := modPart s p (fun x => { x with qps := x.qps.filter (fun c => c.qpn != q.qpn), retry := x.retry.filter (fun e => e.1 != q.qpn) })
        qpResult (installQp s1 p { q with
          ready := true, errStatus := 0, txPsn := regField s (.rmaQpArg1 p) 31 0, unaPsn := regField s (.rmaQpArg1 p) 31 0,
          rxPsn := regField s (.rmaQpArg1 p) 63 32, sent := [], seqSent := false, msg := none }) p 0

/-- RMA_QP_CMD destroy (Table 11.5): cache entry and companion record are made invalid. -/
def destroyQp (s : State) (p n : Nat) : State :=
  if !(part s p).mode.exists then refuseAccess s
  else
    match knownQp (part s p) (n % 2 ^ 24) with
    | none => qpResult s p (if regField s (.rmaCtLimit p) 23 0 < n % 2 ^ 24 then 3 else 4)
    | some q =>
      let s1 := (qpFlights s p q.qpn).foldl (fun t f => finish t f.id stPolicy (rmaResult f 0)) s
      qpResult (emit (dropQp s1 p q.qpn) (.cclWrite (recordAddr s p q.qpn) (zeros 128))) p 0

/-- A write of RMA_PD_CTRL (R282, Table 11.3). -/
def bindPd (s : State) (p pd : Nat) (v : Nat) : State :=
  let slot := bitsOf v 3 2
  let fields := bitsOf v 0 5
  let keyOk := reg s (.rmaPdKey p pd) == reg s (.spKey p slot) && (slotState s p slot).mode == .live
  let unbind := fun (t : State) =>
    if regField s (.rmaPdCtrl p pd) 7 7 = 1 then errorQps t p (fun q => q.pd == pd) stPolicy else t
  if v.testBit 7 = false then unbind (setReg s (.rmaPdCtrl p pd) fields)
  else if keyOk then setReg s (.rmaPdCtrl p pd) (128 + fields)
  else unbind (logFault (setReg s (.rmaPdCtrl p pd) fields) { cls := 7, code := 0x61, p := p })

/-- The fields of RMA_SP_CTRL that every write of it sets (Table 11.1). -/
def writeSpCtrl (s : State) (p k v : Nat) : State :=
  let old := reg s (.spCtrl p k)
  let key := if (slotState s p k).mode = .free then bitsOf v 0 16 else bitsOf old 0 16
  let done := bitsOf old 29 1 * (1 - bitsOf v 29 1)
  setReg s (.spCtrl p k) (key + bitsOf v 28 1 * 2 ^ 28 + done * 2 ^ 29)

/-- RMA_SP_CTRL.enable: FREE to LIVE where key_id names a link key of the partition (R281). -/
def enableSpace (s : State) (p k v : Nat) : State :=
  let s1 := writeSpCtrl s p k v
  if v.testBit 16 ∧ (slotState s p k).mode = .free ∧ (linkKey s1 p (bitsOf v 0 16)).isSome then
    modSpace s1 p k (fun _ => { mode := .live, tR := none })
  else s1

/-- RMA_SP_CTRL.revoke: LIVE to REVOKING at T_r (R296). -/
def revokeSpace (s : State) (p k : Nat) : State :=
  if (slotState s p k).mode = .live then
    setReg (modSpace s p k (fun _ => { mode := .revoking, tR := some (now s) })) (.spRevokeFt p k) (now s)
  else s

/-- A slot's admitted messages have all ended (R297). -/
def slotDrained (s : State) (p k : Nat) : Bool :=
  (part s p).qps.all (fun q => pdSlot s p q.pd != k || q.msg.isNone) &&
    (part s p).landings.all (fun l =>
      match qpOf s p (packetQpn l.pkt) with | some q => pdSlot s p q.pd != k | none => true)

/-- REVOKING ends (R297). -/
def revokeDone (s : State) (p k : Nat) : State :=
  if (slotState s p k).mode = .revoking ∧ slotDrained s p k then
    let s1 := modSpace s p k (fun x => { x with mode := .revoked })
    let s2 := setStatusBits s1 (.spCtrl p k) (2 ^ 29)
    let s3 := errorQps s2 p (fun q => pdSlot s p q.pd == k) stRevoked
    if regField s (.spCtrl p k) 28 28 = 1 then raiseIrq s3 4 else s3
  else s

/-- The export entries of a slot are cleared. -/
def clearExports (s : State) (p k : Nat) : State :=
  (List.range 16).foldl (fun t i => setReg (setReg t (.spExpLo p k i) 0) (.spExpHi p k i) 0) s

/-- RMA_SP_CTRL.release: REVOKED to FREE (R281). -/
def releaseSpace (s : State) (p k : Nat) : State :=
  if (slotState s p k).mode = .revoked then clearExports (modSpace s p k (fun _ => {})) p k else s

end Sys2Proof.Machine
end

