-- ==== Sys2Proof/Machine/Sealed.lean ====
section
/-! DEFINITION. KEM_DECAP, SEALED_OPEN and CLIP: sealed submissions and share bundles (R39, R41, R45, R46, R51, R52, R105,
R181 to R184). -/

namespace Sys2Proof.Machine

/-- The numbered submission `n` of a window. -/
def subAt (w : Window) (n : Nat) : Option Submission :=
  w.subs.find? (fun b => b.number == some n)

/-- The record of an acceptance number that no submission holds (R181, R183). -/
def emptyRecord : Bytes := resultRecord 0 0xF 0xFFFFFFFF 0

/-- The record of number `n` of a window, as it stands (Table 2.4). -/
def recordOf (w : Window) (n : Nat) : Bytes :=
  match subAt w n with
  | some b => resultRecord b.clientId ((b.verdict.map Verdict.code).getD 0xF) n b.stamp.ns
  | none => emptyRecord

/-- The submissions of a number range. -/
def rangeSubs (w : Window) (first count : Nat) : List Submission :=
  w.subs.filter (fun b =>
    match b.number with
    | some n => decide (first ≤ n) && decide (n < first + count)
    | none => false)

/-- The result word over a range: those that ended ACCEPTED and those with another verdict (R181, R183). -/
def rangeVerdicts (w : Window) (first count : Nat) : Nat :=
  let subs := rangeSubs w first count
  let acc := (subs.filter (fun b => b.verdict == some .accepted)).length
  verdictWord acc (subs.length - acc)

/-! Passes of submissions (R181, R183) -/

/-- The Sleeve of a partition that submission `n` runs on (R181). -/
def subSleeve (x : Partition) (n : Nat) : Nat := x.sleeveList.getD (n % x.sleeveList.length) 0

/-- That Sleeve has an engine. -/
def subHasEngine (s : State) (p n : Nat) : Bool := !(enginesOf s (subSleeve (part s p) n)).isEmpty

/-- The pass of submission `n`, on the Sleeve of rank n mod S and its engine of rank n ÷ S mod E_s (R181). It writes nothing itself:
what it found is taken when its descriptor comes to it, in acceptance order. -/
def subPass (s : State) (p n : Nat) : TileJob :=
  let x := part s p
  let v := subSleeve x n
  let es := enginesOf s v
  { byteJob s (es.getD (n / x.sleeveList.length % es.length) (8 * v)) n [] false false with item := n, summands := [n] }

/-- Give a descriptor the passes of the submissions it works on; with none it goes on at once by `run`. -/
def startPasses (run : State → State) (s : State) (id p : Nat) (ns : List Nat) : State :=
  if !ns.all (subHasEngine s p) then refuse s id stEngineLost
  else if ns.isEmpty then run s
  else startJobs s id (ns.map (subPass s p)) 0

/-- The numbers of a list of submissions. -/
def numbersOf (bs : List Submission) : List Nat := bs.map (fun b => b.number.getD 0)

/-- A descriptor's numbers that are still to be taken: not decided and not lost with an engine. -/
def stillOpen (f : InFlight) (bs : List Submission) : List Submission :=
  bs.filter (fun b => !f.dropped.contains (b.number.getD 0))

/-! KEM_DECAP -/

/-- Operand ranges of KEM_DECAP (Table 6.11). -/
def kemRange (o : KemOps) : Bool :=
  decide (1 ≤ o.seqCount) && decide (o.seqCount ≤ 2 ^ 24)

/-- The tiles a KEM_DECAP of bundles names: its records, where they lie in the Pocket. -/
def kemClaims (o : KemOps) : List Claim :=
  if o.resultAddr = 0 then [] else byteClaims o.resultAddr (16 * o.seqCount) none

/-- The records lie in the partition's memory. -/
def kemAddress (x : Partition) (o : KemOps) : Bool :=
  o.resultAddr == 0 || addrFits x o.resultAddr (16 * o.seqCount) 1

/-- The submission key or bundle key of a shared secret (R45, R51). -/
def sealedKey (domain : String) (ss header : Bytes) : Bytes := sha3 (ascii domain ++ ss ++ header)

/-- Keys that the cipher context of the Sleeve of rank `k` holds for the partition (R181). -/
def contextKeys (x : Partition) (w : Window) (k : Nat) : Nat :=
  (w.subs.filter (fun b => b.sharedKey.isSome && (b.number.getD 0) % x.sleeveList.length == k)).length

/-- One submission is decapsulated and its key held (R51, R181). -/
def decapOne (s : State) (p : Nat) (w : Window) (b : Submission) : State :=
  let n := b.number.getD 0
  let ss := kemDecaps (part s p).dk (landedBytes s p w n 64 1088)
  let key := sealedKey "BA16/sealed/v1" ss (landedBytes s p w n 0 64)
  modSub s p .submit n (fun c => { c with sharedKey := some key, decapsulated := true })

/-- A submission that KEM_DECAP still has to decapsulate. -/
def toDecap (b : Submission) : Bool := !b.decapsulated && b.verdict == some .accepted

/-- Take the decapsulations whose passes have ended, in ascending number; one whose Sleeve's context is full waits (R181). -/
def decapAll (p : Nat) (passed : List Nat) : List Submission → State → State
  | [], s => s
  | b :: bs, s =>
    match windowOf (part s p) .submit with
    | none => s
    | some w =>
      let x := part s p
      let n := b.number.getD 0
      if toDecap b && passed.contains n && decide (contextKeys x w (n % x.sleeveList.length) < 4096) then
        decapAll p passed bs (decapOne s p w b)
      else decapAll p passed bs s

/-- KEM_DECAP kind 0 goes on: it holds keys as passes end and contexts have room, and completes when every number of its range has
one or has lost its engine (R101, R181). -/
def runDecap (s : State) (id : Nat) (h : DescHdr) (o : KemOps) : State :=
  let p := h.p.val
  match windowFor (part s p) .submit o.roundId, flight s id with
  | some w, some f =>
    let s1 := decapAll p f.passed (rangeSubs w o.seqFirst o.seqCount) s
    let subs := rangeSubs ((windowFor (part s1 p) .submit o.roundId).getD w) o.seqFirst o.seqCount
    if (stillOpen f (subs.filter toDecap)).isEmpty then
      finishRef s1 id (doneStatus f) (verdictWord ((subs.filter (fun b => b.decapsulated)).length) 0) f.faultRef
    else s1
  | _, _ => refuse s id stPolicy

/-- KEM_DECAP kind 0 over its ready range: one pass for each submission. -/
def decapReady (s : State) (id : Nat) (h : DescHdr) (o : KemOps) (w : Window) : State :=
  startPasses (fun t => runDecap t id h o) s id h.p.val (numbersOf ((rangeSubs w o.seqFirst o.seqCount).filter toDecap))

/-- KEM_DECAP kind 0 (R181): the window rule of R79, then the wait for its numbers. -/
def startKemSealed (s : State) (id : Nat) (h : DescHdr) (o : KemOps) : State :=
  match (windowFor (part s h.p.val) .submit o.roundId).filter Window.readable with
  | none => refuse s id stPolicy
  | some w => if rangeReady w o.seqFirst o.seqCount then decapReady s id h o w else waitIn s id .numbers

/-- The entries of an opened bundle (Table 2.7) and whether each one's rsvd field is zero. -/
def bundleEntries (b : Bytes) (n : Nat) : List (ShareEntry × Bool) :=
  (pieces 40 n b).map (fun e =>
    ({ owner := field e 0 4, kind := field e 4 1, index := field e 5 1, share := slice e 8 32 }, field e 6 2 == 0))

/-- The entry agrees with its owner's survival and with the responder's place in the owner's list (R46, R105). -/
def entryOk (r : Round) (responder : Nat) (e : ShareEntry) : Bool :=
  let recs := (r.graph.map (fun g => g.records)).getD []
  match neighboursOf recs e.owner with
  | none => false
  | some ns =>
    (if r.survivors.contains e.owner then e.kind == 1 else e.kind == 2) && ns.contains responder &&
      e.index == ns.idxOf responder + 1

/-- The verdict of a bundle from AUTH_FAIL on and the entries it adds (R39, R46, R105, Table 2.3). -/
def bundleVerdict (r : Round) (w : Window) (b : Submission) (opened : Option Bytes) (count : Nat) :
    Verdict × List ShareEntry :=
  match opened with
  | none => (.authFail, [])
  | some plain =>
    let es := bundleEntries plain count
    let entries : List ShareEntry := es.map (fun e => e.1)
    if es.any (fun e => !e.2) then (.malformed, [])
    else if !r.survivors.contains b.clientId then (.notSurvivor, [])
    else if !entries.all (entryOk r b.clientId) || !decide (entries.map ShareEntry.owner).Nodup then (.wrongKind, [])
    else if w.subs.any (fun c => c.final && c.verdict == some .accepted && c.clientId == b.clientId) then (.duplicate, [])
    else (.accepted, entries)

/-- One bundle is decapsulated, opened and judged; its landing slot is free (R45, R181, R196). -/
def openBundle (s : State) (p round : Nat) (b : Submission) : State :=
  match windowFor (part s p) .recover round, roundOf (part s p) round with
  | some w, some r =>
    if b.final || b.verdict != some .accepted then s
    else
      let n := b.number.getD 0
      let header := landedBytes s p w n 0 64
      let count := field header 16 2
      let ss := kemDecaps (part s p).dk (landedBytes s p w n 64 1088)
      let key := sealedKey "BA16/bundle/v1" ss header
      let opened := gcmOpen key (zeros 12) header (landedBytes s p w n 1152 (40 * count)) (landedBytes s p w n (1152 + 40 * count) 16)
      let v := bundleVerdict r w b opened count
      let s1 := modRound s p round (fun y => { y with entries := y.entries ++ v.2, bundleOpened := true })
      freeSlot (modSub s1 p .recover n (fun c => { c with verdict := some v.1, final := true, decapsulated := true })) p .recover n
  | _, _ => s

/-- Write the records of a number range. -/
def writeRecords (s : State) (p a : Nat) (w : Window) (first count : Nat) : State :=
  let bs := (List.range count).flatMap (fun i => recordOf w (first + i))
  dropResidentAt (writeMarked s p a bs (plainMeta 16) false false) p a bs.length

/-- A submission or bundle that is still to be opened. -/
def toOpen (b : Submission) : Bool := !b.final && b.verdict == some .accepted

/-- Open the bundles whose passes have ended in acceptance order, up to the first whose pass has not (R41, R181). -/
def openBundles (p round : Nat) (f : InFlight) : List Submission → State → State
  | [], s => s
  | b :: bs, s =>
    if !toOpen b || f.dropped.contains (b.number.getD 0) then openBundles p round f bs s
    else if f.passed.contains (b.number.getD 0) then openBundles p round f bs (openBundle s p round b)
    else s

/-- KEM_DECAP kind 1 goes on (R181): it opens bundles as their passes end, and writes its records when none is left. -/
def runBundles (s : State) (id : Nat) (h : DescHdr) (o : KemOps) : State :=
  let p := h.p.val
  match windowFor (part s p) .recover o.roundId, flight s id with
  | some w, some f =>
    let s1 := openBundles p o.roundId f (rangeSubs w o.seqFirst o.seqCount) s
    let w1 := (windowFor (part s1 p) .recover o.roundId).getD w
    if (stillOpen f ((rangeSubs w1 o.seqFirst o.seqCount).filter toOpen)).isEmpty then
      let s2 := if o.resultAddr = 0 then s1 else writeRecords s1 p o.resultAddr w1 o.seqFirst o.seqCount
      finishRef s2 id (doneStatus f) (rangeVerdicts w1 o.seqFirst o.seqCount) f.faultRef
    else s1
  | _, _ => refuse s id stPolicy

/-- KEM_DECAP kind 1 over its ready range: one pass for each bundle. -/
def bundlesReady (s : State) (id : Nat) (h : DescHdr) (o : KemOps) (w : Window) : State :=
  startPasses (fun t => runBundles t id h o) s id h.p.val (numbersOf ((rangeSubs w o.seqFirst o.seqCount).filter toOpen))

/-- KEM_DECAP kind 1 (R105, R181): a round without a bound neighbour table is refused and its bundles stay unopened. -/
def startKemBundle (s : State) (id : Nat) (h : DescHdr) (o : KemOps) : State :=
  let x := part s h.p.val
  match (windowFor x .recover o.roundId).filter Window.readable with
  | none => refuse s id stPolicy
  | some w =>
    if ((roundOf x o.roundId).bind (fun r => r.graph)).isNone then refuse s id stPolicy
    else if rangeReady w o.seqFirst o.seqCount then bundlesReady s id h o w
    else waitIn s id .numbers

/-! SEALED_OPEN -/

/-- Operand ranges of SEALED_OPEN (Table 6.13). -/
def sealedRange (o : SealedOps) : Bool :=
  decide (1 ≤ o.seqCount) && decide (o.seqCount ≤ 2 ^ 24) && decide (1 ≤ o.stageSlots) && decide (o.stageSlots ≤ 4096)

/-- The staging area and the records of a SEALED_OPEN (R183, Table 7.2). -/
def sealedClaims (x : Partition) (o : SealedOps) : List Claim :=
  { first := tileIx o.stageTile, units := o.stageSlots * vectorUnits x, align := tileUnits (policyBits x), use := some .staging } ::
    byteClaims o.resultAddr (16 * o.seqCount) none

/-- The records lie in the partition's memory. -/
def sealedAddress (x : Partition) (o : SealedOps) : Bool := addrFits x o.resultAddr (16 * o.seqCount) 1

/-- The verdict of an opened submission (R183). -/
def openVerdict (x : Partition) (w : Window) (b : Submission) (authentic : Bool) : Verdict :=
  let taken := w.subs.filter (fun c => c.final && c.verdict == some .accepted)
  if !authentic then .authFail
  else if taken.any (fun c => c.clientId == b.clientId) then .duplicate
  else if field x.policy 0x14 4 ≤ taken.length then .capacity
  else .accepted

/-- Open one submission into its staging slot (R51, R183): the key is consumed and erased, the plaintext written under
the pre-gate mark, and the landing slot is free. -/
def openSub (s : State) (p round : Nat) (b : Submission) : State :=
  match windowFor (part s p) .submit round with
  | none => s
  | some w =>
    let x := part s p
    let n := b.number.getD 0
    let size := x.dimension * elemBytes x.elemFormat
    let header := landedBytes s p w n 0 64
    let opened := gcmOpen (b.sharedKey.getD []) (zeros 12) header (landedBytes s p w n 1152 size) (landedBytes s p w n (1152 + size) 16)
    let v := openVerdict x w b opened.isSome
    let slot := n % w.stageSlots
    let unit := w.stageFirst.getD 0 + slot * vectorUnits x
    let m : TileMeta := { state := .plain, width := policyBits x, mode := .sats, mark := true }
    let s1 :=
      match opened with
      | none => s
      | some t =>
        writeMarked (dropResident s p unit (vectorUnits x)) p (pocketAddr unit) (fit (8192 * vectorUnits x) t) m true false
    let s2 := modUsage s1 p (fun u => { u with keystreamBytes := satAdd u.keystreamBytes size })
    let s3 := modSub s2 p .submit n (fun c => { c with
      sharedKey := none, verdict := some v, final := true, stage := if v = .accepted then some slot else none })
    freeSlot s3 p .submit n

/-- The staging slot of number `n` is free. -/
def stageFree (w : Window) (n : Nat) : Bool :=
  w.subs.all (fun b => b.stage != some (n % w.stageSlots))

/-- Open submissions in acceptance order, up to the first whose pass has not ended or whose staging slot is taken (R183). -/
def openAll (p round : Nat) (f : InFlight) : List Submission → State → State
  | [], s => s
  | b :: bs, s =>
    match windowFor (part s p) .submit round with
    | none => s
    | some w =>
      if !toOpen b || f.dropped.contains (b.number.getD 0) then openAll p round f bs s
      else if f.passed.contains (b.number.getD 0) && stageFree w (b.number.getD 0) then openAll p round f bs (openSub s p round b)
      else s

/-- SEALED_OPEN goes on: it opens as passes end and staging slots are free, and writes its records when every number is judged. -/
def runOpen (s : State) (id : Nat) (h : DescHdr) (o : SealedOps) : State :=
  let p := h.p.val
  match windowFor (part s p) .submit o.roundId, flight s id with
  | some w, some f =>
    let s1 := openAll p o.roundId f (rangeSubs w o.seqFirst o.seqCount) s
    let w1 := (windowFor (part s1 p) .submit o.roundId).getD w
    if (stillOpen f ((rangeSubs w1 o.seqFirst o.seqCount).filter toOpen)).isEmpty then
      finishRef (releaseUses (writeRecords s1 p o.resultAddr w1 o.seqFirst o.seqCount) p .submit) id (doneStatus f)
        (rangeVerdicts w1 o.seqFirst o.seqCount) f.faultRef
    else s1
  | _, _ => refuse s id stPolicy

/-- The staging area that a SEALED_OPEN names is not the one established for its round (R189). -/
def otherStaging (w : Window) (o : SealedOps) : Bool :=
  w.stageFirst.isSome && (w.stageFirst != some (tileIx o.stageTile) || w.stageSlots != o.stageSlots)

/-- A ready range: refused where a number has not been decapsulated or another staging area has been established, else the staging
area is established and each submission has its pass (R183, R189). -/
def openReady (s : State) (id : Nat) (h : DescHdr) (o : SealedOps) (w : Window) : State :=
  let p := h.p.val
  let subs := (rangeSubs w o.seqFirst o.seqCount).filter toOpen
  if otherStaging w o || subs.any (fun b => !b.decapsulated) then refuse s id stPolicy
  else if !(numbersOf subs).all (subHasEngine s p) then refuse s id stEngineLost
  else
    startPasses (fun t => runOpen t id h o) (modWindow s p .submit (fun y => { y with
      stageFirst := some (tileIx o.stageTile), stageSlots := o.stageSlots,
      stageUnits := o.stageSlots * vectorUnits (part s p) })) id p (numbersOf subs)

/-- SEALED_OPEN (R79, R183). -/
def startSealedOpen (s : State) (id : Nat) (h : DescHdr) (o : SealedOps) : State :=
  match (windowFor (part s h.p.val) .submit o.roundId).filter Window.readable with
  | none => refuse s id stPolicy
  | some w =>
    if otherStaging w o then refuse s id stPolicy
    else if rangeReady w o.seqFirst o.seqCount then openReady s id h o w
    else waitIn s id .numbers

/-- The descriptors whose passes are submissions take what has ended. -/
def runPassed (s : State) (f : InFlight) : State :=
  match f.body with
  | .kemSealed o => runDecap s f.id f.h o
  | .kemBundle o => runBundles s f.id f.h o
  | .sealedOpen o => runOpen s f.id f.h o
  | _ => s

/-- The opcodes whose passes are submissions. -/
def subPasses (op : Nat) : Bool := op == 0x50 || op == 0x51

/-! CLIP -/

/-- Operand ranges of CLIP; what it does not use is reserved and ignored (Table 6.13, R215). -/
def clipRange (o : SealedOps) : Bool :=
  decide (1 ≤ o.seqCount) && decide (o.seqCount ≤ 2 ^ 24)

/-- num/den as a 53-bit significand and exponent, rounded toward zero (R184). -/
def truncFrac (num den : Nat) : Nat × Int :=
  let e0 : Int := (Nat.log2 num : Int) - (Nat.log2 den : Int) - 53
  let fr0 := scaled num den e0
  let e := if 2 ^ 53 ≤ fr0.1 / fr0.2 then e0 + 1 else e0
  let fr := scaled num den e
  (fr.1 / fr.2, e)

/-- The square root of m × 2^e, m of 53 bits, rounded toward zero (R184). -/
def truncSqrt (m : Nat) (e : Int) : Nat × Int :=
  let k : Nat := if (e - 52) % 2 = 0 then 52 else 53
  (Nat.sqrt (m * 2 ^ k), (e - k) / 2)

/-- The scale r of a vector with sum of squares `q` (R184 step 3). -/
def clipScale (clipSq q : Nat) : Nat × Int :=
  let rho := truncFrac clipSq q
  truncSqrt rho.1 rho.2

/-- x times r, the exact product rounded once toward zero (R184). -/
def clipElem (rm : Nat) (re : Int) (x : Int) : Int :=
  let fr := scaled (x.natAbs * rm) 1 (-re)
  let y : Nat := fr.1 / fr.2
  if x < 0 then -(y : Int) else y

/-- The elements of coordinate tile `c` of a staged vector, the fill after the dimension among them. -/
def stagedTile (s : State) (p : Nat) (w : Window) (b : Submission) (c : Nat) : List Int :=
  let x := part s p
  (readTile s p (stageUnit x w b + c * tileUnits (policyBits x)) (policyBits x)).map (signed (policyBits x))

/-- The sum of squares of a staged vector (R184 step 1). -/
def clipSum (s : State) (p : Nat) (w : Window) (b : Submission) : Nat :=
  ((List.range (coordTiles (part s p))).map (fun c =>
    ((stagedTile s p w b c).map (fun v => v.natAbs * v.natAbs)).sum)).sum

/-- What CLIP finds for a summand: its state, with Q and r fixed where they were not (R184). -/
def clipState (s : State) (p : Nat) (w : Window) (b : Submission) : ClipState :=
  match b.clip with
  | some c => c
  | none =>
    let q := clipSum s p w b
    let bound := field (part s p).policy 0x18 8
    if q ≤ bound then { within := true, rm := 0, re := 0, scaled := [] }
    else { within := false, rm := (clipScale bound q).1, re := (clipScale bound q).2, scaled := [] }

/-- Where tile `t` of a staged summand lies, and the engine it runs on (R79, R185). -/
def clipPlace (s : State) (p : Nat) (w : Window) (b : Submission) (t : Nat) : Nat × Nat :=
  let x := part s p
  let tu := tileUnits (policyBits x)
  let first := stageUnit x w b
  (first + t * tu, groupEngine s p (first + t * tu) 1 (rankInSleeve s p first tu t))

/-- The first pass over a summand's tiles, which sums the squares and writes nothing (R184 step 1). -/
def sumJobs (s : State) (p : Nat) (w : Window) (b : Submission) : List TileJob :=
  (List.range (coordTiles (part s p))).map (fun t =>
    let e := clipPlace s p w b t
    { byteJob s e.2 (pocketAddr e.1) [] false false with coord := some t, clipOf := b.number, item := b.number.getD 0 })

/-- The passes that scale the tiles of a summand that are not scaled yet (R184). -/
def clipJobs (s : State) (p : Nat) (w : Window) (b : Submission) (c : ClipState) : List TileJob :=
  let x := part s p
  if c.within then []
  else
    ((List.range (coordTiles x)).filter (fun t => !c.scaled.contains t)).map (fun t =>
      let e := clipPlace s p w b t
      { tileJob s e.2 e.1 (intBytes (policyBits x) ((stagedTile s p w b t).map (clipElem c.rm c.re))) (unitMeta s p e.1) with
          coord := some t, clipOf := b.number, item := b.number.getD 0 })

/-- The result of a CLIP (R184): `f.verdicts` lists the summands it works on, `f.result` how many were clipped before. -/
def clipResult (s : State) (f : InFlight) : Nat :=
  match f.body with
  | .clip o =>
    match windowFor (part s f.h.p.val) .submit o.roundId with
    | none => f.result
    | some w =>
      let subs := f.verdicts.filterMap (subAt w)
      let full := subs.filter (clipDone (part s f.h.p.val))
      let within := (full.filter (fun b => (b.clip.map (fun c => c.within)).getD false)).length
      resultWord (full.length - within) 0 0 + (f.result + within) % 2 ^ 24 * 2 ^ 24 + (subs.length - full.length) % 2 ^ 16 * 2 ^ 48
  | _ => f.result

/-- CLIP over a ready range (R184): a summand whose Q was never fixed begins with the first pass, one partly clipped goes on. -/
def clipReady (s : State) (id : Nat) (h : DescHdr) (o : SealedOps) (w : Window) : State :=
  let p := h.p.val
  let x := part s p
  let subs := acceptedRange w o.seqFirst o.seqCount
  let tu := tileUnits (policyBits x)
  if subs.any (fun b => !b.final) then refuse s id stPolicy
  else if !subs.all (fun b => planOk s p (stageUnit x w b) tu (coordTiles x) 1) then refuse s id stEngineLost
  else
    let work := subs.filter (fun b => !clipDone x b)
    let already := subs.length - work.length
    let s1 := modFlight s id (fun f => { f with verdicts := numbersOf work, result := already })
    let jobs := work.flatMap (fun b =>
      match b.clip with
      | none => sumJobs s p w b
      | some c => clipJobs s p w b c)
    if jobs.isEmpty then finish s1 id stOk (already % 2 ^ 24 * 2 ^ 24) else startJobs s1 id jobs already

/-- CLIP (R79, R184). -/
def startClip (s : State) (id : Nat) (h : DescHdr) (o : SealedOps) : State :=
  match (windowFor (part s h.p.val) .submit o.roundId).filter Window.readable with
  | none => refuse s id stPolicy
  | some w => if rangeReady w o.seqFirst o.seqCount then clipReady s id h o w else waitIn s id .numbers

/-- Tile `t` of summand `n` has been scaled (R184). -/
def clipScaled (s : State) (p n t : Nat) : Bool :=
  ((((part s p).submit.bind (fun w => subAt w n)).bind (fun b => b.clip)).map (fun c => c.scaled.contains t)).getD false

/-- A scaled tile of a summand has committed (R184). -/
def clipCommitted (s : State) (p n t : Nat) : State :=
  if clipScaled s p n t then s
  else modSub s p .submit n (fun b => { b with clip := b.clip.map (fun c => { c with scaled := c.scaled ++ [t] }) })

/-- A pass of the first kind has ended for a tile of summand `n`: with the last, unless one was lost, Q and r are fixed and
recorded, and the passes that scale begin (R101, R184). -/
def clipSummed (s : State) (id n : Nat) : State :=
  match flight s id with
  | none => s
  | some f =>
    let p := f.h.p.val
    if f.dropped.contains n || f.jobs.any (fun j => j.clipOf == some n && j.bytes.isEmpty) then s
    else
      match f.body with
      | .clip o =>
        match (windowFor (part s p) .submit o.roundId).bind (fun w => (subAt w n).map (fun b => (w, b))) with
        | none => s
        | some (w, b) =>
          let c := clipState s p w b
          let s1 := modSub s p .submit n (fun y => { y with clip := some c })
          let jobs := clipJobs s p w b c
          (idleEngines s1 (jobs.flatMap TileJob.engines)).foldl beginNext (modFlight s1 id (fun g => { g with jobs := g.jobs ++ jobs }))
      | _ => s

end Sys2Proof.Machine
end

