-- ==== Sys2Proof/Machine/Submissions.lean ====
section
/-! DEFINITION. Submissions on the Shawl: their packets, their numbers and replies, and the numbering of both paths (R39
to R41, R196, R240, R242, R261). -/

namespace Sys2Proof.Machine

/-- The status that a reply carries for a verdict (R40). -/
def replyStatus (v : Verdict) : Status :=
  match v with
  | .accepted => stOk
  | .notOpen => stNotOpen
  | .late => stLate
  | _ => stPolicy

/-- The body of a SUBMIT_REPLY (Table 10.6). -/
def replyBody (b : Submission) (status verdict hint seq : Nat) : Bytes :=
  natLe 3 b.stream ++ natLe 3 b.entry ++ natLe 1 status ++ natLe 1 verdict ++ natLe 2 hint ++ natLe 4 seq ++ zeros 2

/-- The destination answers with one SUBMIT_REPLY to the entry module (R261). -/
def submitReply (s : State) (p : Nat) (b : Submission) (status verdict hint : Nat) : State :=
  sendPlain s p { ptype := 5, gen := b.gen, dst := b.entry / 256 % 4096,
                  body := replyBody b status verdict hint (b.number.getD 0xFFFFFFFF) }

/-- A submission's reply carries its verdict. -/
def replyVerdict (s : State) (p : Nat) (b : Submission) (v : Verdict) : State :=
  submitReply s p b (replyStatus v) v.code 0

/-- RETRY_LATER: no number, the stamp is discarded. The hint and the verdict byte are free values (R196, R261). -/
def replyRetry (s : State) (p : Nat) (b : Submission) : State :=
  spendFree (submitReply s p b stRetry (freeNat s 1) (leNat ((freeBytes s 3).drop 1)))

/-- The packets of a submission that waits leave the pool. -/
def leavePool (s : State) (b : Submission) : State :=
  match b.queue with
  | some q => leaveQueue s q b.cells
  | none => s

/-- A submission no longer waits for a number. -/
def unwait (s : State) (p : Nat) (k : WinKind) (b : Submission) : State :=
  modWindow s p k (fun w => { w with waiting := w.waiting.filter (fun y => y != b) })

/-- The status of RETRY_LATER and a submission from the Shawl that can take no number now. -/
def retryShawl (s : State) (p : Nat) (k : WinKind) (b : Submission) : State :=
  replyRetry (unwait (leavePool s b) p k b) p b

/-- A numbered submission of the Shawl that is whole: it has landed and its reply goes out. -/
def settleShawl (s : State) (p : Nat) (k : WinKind) (n : Nat) : State :=
  match (windowOf (part s p) k).bind (fun w => w.subs.find? (fun b => b.number == some n)) with
  | none => s
  | some b =>
    if b.complete ∧ !b.landed ∧ b.ingestId.isNone then
      let s1 := modSub s p k n (fun c => { c with landed := true, bytes := [] })
      replyVerdict s1 p b (b.verdict.getD .accepted)
    else s

/-- The next number goes to a submission of the Shawl: what has arrived of it lands, and it leaves the pool. A number
without acceptance is answered at once. -/
def numberShawl (s : State) (p : Nat) (k : WinKind) (w : Window) (b : Submission) : State :=
  let n := w.assigned
  let v := if b.verdict = some .malformed then .malformed else numberVerdict (part s p) w b.clientId
  let c := { b with number := some n, verdict := some v, provisional := decide (v = .accepted), slotFree := decide (v ≠ .accepted), queue := none, cells := 0 }
  let s1 := setWindow (leavePool s b) p k (some { w with
    assigned := n + 1, subs := w.subs ++ [{ c with bytes := [] }], waiting := w.waiting.filter (fun y => y != b) })
  if v = .accepted then settleShawl (writeMarked s1 p (landingAddr w n) b.bytes (plainMeta 16) false false) p k n
  else replyVerdict (modSub s1 p k n (fun y => { y with landed := true, complete := true })) p c v

/-- The next number goes to a submission that an INGEST lists: it lands at once where its slot is free (R41, R196). -/
def numberListed (s : State) (p : Nat) (k : WinKind) (w : Window) (b : Submission) (id : Nat) : State :=
  let n := w.assigned
  let v := numberVerdict (part s p) w b.clientId
  let c := { b with number := some n, verdict := some v, provisional := decide (v = .accepted), slotFree := decide (v ≠ .accepted) }
  let s1 := setWindow s p k (some { w with
    assigned := n + 1, subs := w.subs ++ [c], waiting := w.waiting.filter (fun y => y != b) })
  let s2 := decideItem s1 id b.item b.clientId v n b.stamp.ns
  settleIngest (if v = .accepted ∧ slotFree w n then landSub s2 p k n else s2) id

/-- A waiting submission fails a check of Table 2.3 from MALFORMED to LATE: it takes no number and is answered (R41). -/
def dismissSub (s : State) (p : Nat) (k : WinKind) (b : Submission) (v : Verdict) : State :=
  match b.ingestId with
  | some id => settleIngest (decideItem (unwait s p k b) id b.item b.clientId v 0xFFFFFFFF b.stamp.ns) id
  | none => replyVerdict (unwait (leavePool s b) p k b) p b v

/-- The checks up to LATE for a submission that waits for its number; one spoilt while it waited takes it as MALFORMED (R41). -/
def turnVerdict (s : State) (p : Nat) (b : Submission) : Option Verdict :=
  if b.verdict.isSome then none else headVerdict (part s p) b.header b.stamp none

/-- The submissions that wait for a number and would get none are answered: a window has closed before their stamps (R242, R243). -/
def judgeWaiting (s : State) (p : Nat) (k : WinKind) : State :=
  (((windowOf (part s p) k).map (fun w => w.waiting)).getD []).foldl (fun t b =>
    match headVerdict (part t p) b.header b.stamp none with
    | some v => dismissSub t p k b v
    | none => t) s

/-- Give the submission `b` the next number of its window, and its verdict, if it passes the checks up to LATE in its turn. One of the
Shawl takes it only while its slot is free (R41, R196, R240). -/
def assignNumber (s : State) (p : Nat) (k : WinKind) (b : Submission) : State :=
  match windowOf (part s p) k with
  | none => s
  | some w =>
    match turnVerdict s p b with
    | some v => dismissSub s p k b v
    | none =>
      match b.ingestId with
      | some id => numberListed s p k w b id
      | none => if slotFree w w.assigned then numberShawl s p k w b else retryShawl s p k b

/-- The next number (R240): to the least waiting key of the partition's windows, once it lies below every frontier. -/
def assignNext (s : State) (p : Nat) : State :=
  let x := part s p
  let ws := ((x.submit.map (fun w => w.waiting)).getD []) ++ ((x.recover.map (fun w => w.waiting)).getD [])
  match leastWaiting ws with
  | none => s
  | some b =>
    let k := if ((x.submit.map (fun w => w.waiting.contains b)).getD false) then WinKind.submit else WinKind.recover
    if belowFrontiers s p b then assignNumber s p k b else s

/-! Packets -/

/-- A SUBMIT that comes in from a bridge gets its edge port and entry module (R261). -/
def fillEntry (s : State) (port : Nat) (k : Packet) : Packet :=
  if k.ptype = 4 ∧ port < 6 ∧ (portOf s port).edge then
    { k with body := patch (fit 16 k.body) 3 (natLe 1 port ++ natLe 2 (ownId s)) }
  else k

/-- A submission is the one a packet belongs to: from the Shawl, of its stream and entry, and not whole. -/
def ofStream (k : Packet) (b : Submission) : Bool :=
  b.ingestId.isNone && !b.complete && b.stream == field k.body 0 3 && b.entry == field k.body 3 3

/-- The byte offset a SUBMIT packet carries (Table 10.6). -/
def packetOffset (k : Packet) : Nat := field k.body 8 8

/-- A packet of a submission does not fit the length its header gives (R39). -/
def packetBreaks (b : Submission) (k : Packet) : Bool :=
  decide (b.length < packetOffset k + k.payload.length) || (k.last && decide (packetOffset k + k.payload.length < b.length))

/-- A submission with one more packet: its bytes where they wait, the count, and whether it is whole. -/
def withPacket (s : State) (b : Submission) (k : Packet) : Submission :=
  if packetBreaks b k then { b with verdict := some .malformed, complete := true, lastPacket := now s }
  else
    { b with
      bytes := if b.number.isNone then patch (fit (packetOffset k) b.bytes) (packetOffset k) k.payload else b.bytes,
      received := b.received + k.payload.length, lastPacket := now s,
      complete := decide (b.length ≤ b.received + k.payload.length) }

/-- A packet of a submission that waits for its number: it stays in the pool with those before it. -/
def addWaiting (s : State) (p : Nat) (wk : WinKind) (b : Submission) (k : Packet) : State :=
  let c := { withPacket s b k with cells := b.cells + (if b.queue.isSome then packetCells k else 0) }
  modWindow s p wk (fun w => { w with waiting := w.waiting.map (fun y => if y = b then c else y) })

/-- A numbered submission turns out malformed, or its packets stop: its slot is free and its reply goes out (R242). -/
def spoilNumbered (s : State) (p : Nat) (wk : WinKind) (n : Nat) (b : Submission) : State :=
  let v := if b.verdict = some .accepted then Verdict.malformed else b.verdict.getD .malformed
  let s1 := modSub s p wk n (fun c => { c with verdict := some v, provisional := false, slotFree := true, landed := true, complete := true })
  releaseUses (replyVerdict s1 p b v) p wk

/-- A packet of a numbered submission lands; the last one brings the reply. -/
def addNumbered (s : State) (p : Nat) (wk : WinKind) (w : Window) (b : Submission) (n : Nat) (k : Packet) : State :=
  if packetBreaks b k then spoilNumbered s p wk n b
  else
    let s1 :=
      if b.verdict = some .accepted then
        writeMarked s p (landingAddr w n + packetOffset k) k.payload (plainMeta 16) false false
      else s
    settleShawl (modSub s1 p wk n (fun c => withPacket s c k)) p wk n

/-- The window and submission that a further packet belongs to, the newest of its stream. -/
def streamOf (x : Partition) (k : Packet) : Option (WinKind × Window × Submission) :=
  [WinKind.submit, WinKind.recover].findSome? (fun wk =>
    (windowOf x wk).bind (fun w =>
      (((w.subs ++ w.waiting).filter (ofStream k)).getLast?).map (fun b => (wk, w, b))))

/-- The first packet of a submission: its header is judged (R39). One that passes the checks up to LATE waits for its
number in the pool; any other is answered. -/
def firstPacket (s : State) (p : Nat) (k : Packet) (stamp : Instant) (port : Nat) (order : Nat) (key : Option Nat) : State :=
  let b := k.payload
  let sub : Submission :=
    { clientId := field b 4 4, stamp := stamp, rank := port, order := order, header := b.take (headerLen b), bytes := b,
      length := statedLen b, complete := decide (statedLen b ≤ b.length), srcAddr := 0, ingestId := none, item := 0,
      stream := field k.body 0 3, entry := field k.body 3 3, lastPacket := now s, number := none, verdict := none,
      landed := false, slotFree := false, consumed := [], sharedKey := none, decapsulated := false, final := false,
      stage := none, clip := none, received := b.length, cells := if key.isSome then packetCells k else 0, queue := key,
      gen := k.gen }
  let v :=
    if b.length < 64 ∨ b.length < headerLen b ∨ packetOffset k ≠ 0 ∨ packetBreaks sub k then some Verdict.malformed
    else headVerdict (part s p) b stamp none
  match v with
  | some y => replyVerdict (releaseCells s key k) p sub y
  | none => modWindow s p (formatKind (field b 0 2)) (fun w => { w with waiting := w.waiting ++ [sub] })

/-- The nanoseconds between packets of a submission (R242). -/
def packetGap : Nat := 20000

/-- The packets of a submission have stopped (R242): with a number it is MALFORMED and its slot is free; without one it
will be when its turn comes (R41). -/
def gapOne (s : State) (p : Nat) (e : WinKind × Submission) : State :=
  match e.2.number with
  | some n => spoilNumbered s p e.1 n e.2
  | none =>
    modWindow s p e.1 (fun w =>
      { w with waiting := w.waiting.map (fun y => if y = e.2 then { y with verdict := some .malformed, complete := true } else y) })

/-- A SUBMIT packet that has reached its partition. One of no submission that is being received is discarded, and one that comes when
the gap's timer has expired comes after the expiry (R244). -/
def receiveSubmit (s : State) (p : Nat) (k : Packet) (stamp : Instant) (port order : Nat) (key : Option Nat) : State :=
  if k.first then firstPacket s p k stamp port order key
  else
    match streamOf (part s p) k with
    | none => releaseCells s key k
    | some (wk, w, b) =>
      if b.lastPacket + packetGap ≤ now s then releaseCells (gapOne s p (wk, b)) key k
      else
        match b.number with
        | none => addWaiting s p wk b k
        | some n => addNumbered (releaseCells s key k) p wk w b n k

/-- A SUBMIT packet at the head of its queue (R261). -/
def submitArrives (s : State) (a : Arrival) : State :=
  let k := fillEntry s a.port.val a.pkt
  if routeOf s k.dst ≠ some 6 then
    match arrivalVerdict s { a with pkt := k } 4 with
    | .gone t => t
    | .here t _ _ _ => t
  else
    match arrivalVerdict s a 4 with
    | .gone t => t
    | .here t stamp _ key =>
      receiveSubmit t (addrPart k.dst) k stamp a.port.val ((portOf t a.port.val).order - 1) key

/-- A SUBMIT_REPLY goes out of a port: one of this module's own in its partition's slots (R266, R268), one that this module forwards
in transit, in order of its arrival. -/
def replyOut (s : State) (a : Arrival) (stamp : Instant) (port : Nat) : State :=
  let k := { a.pkt with vc := 2 * (a.pkt.vc / 2) }
  let p := addrPart a.pkt.dst
  if a.port.val = 6 then modPort s port (fun x => { x with egress := x.egress ++ [(addrPart a.pkt.src, k)] })
  else
    let key := queueKey a.port.val a.pkt.vc p
    let s1 :=
      match pooled s a key with
      | some e => modQueue s key (fun q => { q with packets := q.packets.erase e })
      | none => enterQueue s key (packetCells k)
    modQueue s1 key (fun q => { q with packets := q.packets ++ [(port, stamp, k)] })

/-- The module's port that a SUBMIT_REPLY names is an edge port that sends, or will once RETRAIN, which holds queues, is over
(R256, Table 10.3). -/
def replyPort (s : State) (port : Nat) : Bool :=
  decide (port < 6) && (portOf s port).edge && ((portOf s port).mode.carries || (portOf s port).mode == .retrain)

/-- A SUBMIT_REPLY at its entry module leaves by the edge port it names; elsewhere it goes on (R261). One that names no such port is
discarded. -/
def submitReplyArrives (s : State) (a : Arrival) : State :=
  let r := stampArrival s a
  let s1 := r.1
  let p := addrPart a.pkt.dst
  let held := (pooled s1 a (queueKey a.port.val a.pkt.vc p)).isSome
  if !packetFormOk a.pkt 5 then if held then dropPooled s1 a 0 else dropArrival s1 a.port.val a.pkt 0
  else if routeOf s1 a.pkt.dst ≠ some 6 then transit s1 a r.2
  else
    let port := field a.pkt.body 3 1
    if replyPort s1 port then replyOut s1 a r.2 port
    else if a.port.val = 6 then s1
    else
      let key := queueKey a.port.val a.pkt.vc p
      match pooled s1 a key with
      | some e => leaveQueue (modQueue s1 key (fun q => { q with packets := q.packets.erase e })) key (packetCells a.pkt)
      | none => leaveQueue (enterQueue s1 key (packetCells a.pkt)) key (packetCells a.pkt)

/-! Submissions whose packets stop, and windows that end -/

/-- Submissions of a partition's windows that are being received. -/
def unfinished (x : Partition) : List (WinKind × Submission) :=
  [WinKind.submit, WinKind.recover].flatMap (fun wk =>
    ((windowOf x wk).map (fun w => ((w.subs ++ w.waiting).filter (fun b => b.ingestId.isNone && !b.complete)).map
      (fun b => (wk, b)))).getD [])

/-- The one whose last packet came first. -/
def oldestUnfinished : List (WinKind × Submission) → Option (WinKind × Submission)
  | [] => none
  | e :: es =>
    match oldestUnfinished es with
    | none => some e
    | some f => if f.2.lastPacket < e.2.lastPacket then some f else some e

/-- The gap's timer of the submission whose last packet came first expires (R242). -/
def gapSubmission (s : State) (p : Nat) : State :=
  match oldestUnfinished (unfinished (part s p)) with
  | none => s
  | some e => gapOne (reach s (e.2.lastPacket + packetGap)) p e

/-- WINDOW_CLOSE (R243). An empty window closes at once, with every WINDOW_CLOSE that waits for it. -/
def startWindowClose (s : State) (id : Nat) (h : DescHdr) (o : WindowCloseOps) : State :=
  let p := h.p.val
  let k := kindOf o.kind
  match windowFor (part s p) k o.roundId with
  | none => refuse s id stPolicy
  | some w =>
    if w.mode = .aborted then refuse s id stPolicy
    else if w.mode = .closed then completeClose s id p k o
    else
      let eff := effectiveClose w o.closeAt (ceilNs (instant s))
      let s1 := waitIn (setWindow s p k (some { w with closes := eff })) id .closeWait
      if eff = w.opens ∧ (w.mode = .scheduled ∨ w.mode = .opened) then
        releaseUses (finishCloses (judgeWaiting (closeWindow s1 p k) p k) p) p k
      else s1

/-- Submissions of the Shawl that wait when their window is ABORTED are answered WRONG_ROUND (Table 2.3); those being
received are answered so when they end. -/
def dismissShawl (s : State) (p : Nat) (wk : WinKind) : State :=
  match windowOf (part s p) wk with
  | none => s
  | some w =>
    let gone := w.waiting.filter (fun b => b.ingestId.isNone)
    let s1 := gone.foldl (fun t b => replyVerdict (leavePool t b) p b .wrongRound) s
    modWindow s1 p wk (fun y =>
      { y with waiting := [],
               subs := y.subs.map (fun b => if b.ingestId.isNone ∧ !b.complete then { b with verdict := some .wrongRound } else b) })

end Sys2Proof.Machine
end

