-- ==== Sys2Proof/Machine/Tear.lean ====
section
/-! DEFINITION. How an event ends descriptors in flight and aborts windows (R79, R227, R242), and job tears: their
origin, their way through the module and what a member does (R275, R276). -/

namespace Sys2Proof.Machine

/-- What a descriptor that an event ends reports of its work so far (Table 3.5, R184, R221): counts of what it has
committed or judged; 0 for an opcode that defines none. -/
def partialResult (s : State) (f : InFlight) : Nat :=
  match f.opcode with
  | 0x12 => verdictWord ((f.verdicts.filter (fun v => v == 0)).length) ((f.verdicts.filter (fun v => v != 0)).length)
  | 0x20 => flightResult f
  | 0x21 => flightResult f
  | 0x22 => flightResult f
  | 0x24 => zipResult f
  | 0x25 => zipResult f
  | 0x30 => flightResult f
  | 0x52 => clipResult s f
  | 0x60 => rmaResult f 0
  | 0x61 => rmaResult f 0
  | 0x62 => rmaResult f 0
  | _ => 0

/-- An event ends a descriptor with a status: its commits stand, a release's staging area is zeroed, its units are
released (R54, R227). -/
def endFlight (s : State) (f : InFlight) (st : Status) (ref : Nat) : State :=
  finishRef (if f.done.isNone then zeroStaging s f else s) f.id st (partialResult s f) ref

/-- End those descriptors in flight of a partition that meet a test and are not done. -/
def endFlights (s : State) (p : Nat) (test : InFlight → Bool) (st : Status) (ref : Nat) : State :=
  ((flying s p).filter (fun f => f.done.isNone && test f)).foldl (fun t f => endFlight t f st ref) s

/-! Windows that an event aborts -/

/-- The window a descriptor reads, fills or waits for (R79, R242). -/
def windowNeed : DescBody → Option (WinKind × Nat)
  | .windowClose o => some (kindOf o.kind, o.roundId)
  | .ingest o => some (.submit, o.roundId)
  | .accumulate o => if o.srcKind = 0 then some (.submit, o.src) else none
  | .statsSumsq o => if o.srcKind = 0 then some (.submit, o.src) else none
  | .statsMoments o => if o.srcKind = 0 then some (.submit, o.src) else none
  | .ctAddFold o => some (.submit, o.a)
  | .kemSealed o => some (.submit, o.roundId)
  | .kemBundle o => some (.recover, o.roundId)
  | .sealedOpen o => some (.submit, o.roundId)
  | .clip o => some (.submit, o.roundId)
  | _ => none

/-- A descriptor depends on a window: an INGEST on the window of either kind of its round. -/
def needsWindow (k : WinKind) (round : Nat) (f : InFlight) : Bool :=
  match f.body with
  | .ingest o => o.roundId == round
  | b => windowNeed b == some (k, round)

/-- A window becomes ABORTED: nothing waits for a number, every slot is free, and the descriptors that depend on it
end (R79, R196, R242). -/
def abortWindow (s : State) (p : Nat) (k : WinKind) (st : Status) (ref : Nat) : State :=
  match windowOf (part s p) k with
  | none => s
  | some w =>
    if w.active then
      let s1 := dismissShawl (endFlights s p (needsWindow k w.roundId) st ref) p k
      let s2 := modWindow s1 p k (fun y =>
        { y with mode := .aborted, waiting := [], subs := y.subs.map (fun b => { b with slotFree := true, sharedKey := none, stage := none }) })
      releaseUses s2 p k
    else s

/-- Every window of a partition that has not closed becomes ABORTED. -/
def abortWindows (s : State) (p : Nat) (st : Status) (ref : Nat) : State :=
  abortWindow (abortWindow s p .submit st ref) p .recover st ref

/-! Job tears -/

/-- The reasons of a tear (R275). -/
inductive TearReason where
  | reset
  | fault
  | destruction
  | keyDestruction
  | transitOnly
  | moduleReset
deriving DecidableEq, Repr

/-- The reason byte (R275). -/
def TearReason.code : TearReason → Nat
  | .reset => 1
  | .fault => 2
  | .destruction => 3
  | .keyDestruction => 4
  | .transitOnly => 5
  | .moduleReset => 6

/-- A descriptor sends or receives under a link key of its partition. -/
def underKey (s : State) (keyId : Nat) (f : InFlight) : Bool :=
  match f.phase with
  | .zipSend t => t.keyId == keyId
  | .zipRecv r _ => r.keyId == keyId
  | _ =>
    match (rmaQpn f.body).bind (qpOf s f.h.p.val) with
    | some q => qpKey s f.h.p.val q == keyId
    | none => false

/-- What a member does on a valid tear (R276): its key is torn, descriptors under it end JOB_TORN, its queue pairs go to
ERROR (Table 11.5) and its windows are ABORTED. -/
def tearMember (s : State) (p keyId : Nat) : State :=
  let s1 := modLinkKey s p keyId (fun e => { e with torn := true })
  let s2 := endFlights s1 p (underKey s1 keyId) stTorn 0
  let s3 := errorQps s2 p (fun q => qpKey s2 p q == keyId) stTorn
  abortWindows s3 p stTorn 0

/-- The members of this module to which a tear's tag is valid, and whose key is not torn yet (R262, R276). -/
def tearMembers (s : State) (k : Packet) : List Nat :=
  (s.shawl.keys.filter (fun e =>
    e.keyId == k.keyId && !e.torn && (gcmOpen e.key (packetNonce k) (packetAad k) k.payload k.tag).isSome)).map
    (fun e => e.p)

/-- Every member of this module acts on a tear. -/
def actTear (s : State) (k : Packet) : State :=
  (tearMembers s k).foldl (fun t p => tearMember t p k.keyId) s

/-- A tear is handed to a port: it leaves in the port's next control units (R276). -/
def tearOut (k : Packet) (s : State) (i : Nat) : State :=
  emit (modPort s i (fun x => { x with controlOut := x.controlOut ++ [fit 64 (packetBytes k)] })) (.tear i k)

/-- The ports a tear goes out by: trained, no edge port, and not the one it came in by. -/
def tearPorts (s : State) (inPort : Nat) : List Nat :=
  (List.range 6).filter (fun i => i != inPort && (portOf s i).mode.carries && !(portOf s i).edge)

/-- The packet of a tear (Table 10.6, R275). -/
def tearDraft (gen tearId : Nat) (r : TearReason) : Draft :=
  { ptype := 3, gen := gen, dst := 0xFFFF, body := natLe 4 tearId ++ natLe 1 r.code ++ zeros 11 }

/-- A member partition originates a tear for one of its link keys (R275); the other members on this module act on it
too. A key whose counter is used up sends nothing (R273). -/
def originateTear (s : State) (p keyId : Nat) (r : TearReason) : State :=
  match linkKey s p keyId with
  | none => s
  | some e =>
    if !keySends s p keyId then s
    else
      let n := (s.shawl.lastTear + 1) % 2 ^ 32
      let x := sealPacket { s with shawl := { s.shawl with lastTear := n } } p e (tearDraft (part s p).gen n r)
      let s1 := (tearPorts x.1 7).foldl (tearOut x.2) x.1
      ((tearMembers s1 x.2).filter (fun q => q != p)).foldl (fun t q => tearMember t q keyId) s1

/-- The link keys of a partition, by number. -/
def keysHeld (s : State) (p : Nat) : List Nat :=
  (s.shawl.keys.filter (fun e => e.p == p)).map (fun e => e.keyId)

/-- A tear for every link key of a partition. -/
def tearAll (s : State) (p : Nat) (r : TearReason) : State :=
  (keysHeld s p).foldl (fun t k => originateTear t p k r) s

/-- A tear has been seen before, within 1 ms (R276). -/
def tearKnown (s : State) (k : Packet) : Bool :=
  s.shawl.tears.any (fun e => e.keyId == k.keyId && e.src == k.src && e.tearId == field k.body 0 4 && decide (now s < e.expiry))

/-- A JOB_TEAR is received (R276): forwarded once, and acted on where its tag is valid. One of a wrong form, or on an
edge port, is dropped and counted (R260). -/
def receiveTear (s : State) (a : Arrival) : State :=
  let s1 := elapse s a.dt
  let k := a.pkt
  if !packetFormOk k 3 || (portOf s1 a.port.val).edge then dropPacket s1 0
  else if tearKnown s1 k then actTear s1 k
  else
    let live := s1.shawl.tears.filter (fun e => decide (now s1 < e.expiry))
    if 256 ≤ live.length then actTear (dropPacket s1 3) k
    else
      let e : TearEntry := { keyId := k.keyId, src := k.src, tearId := field k.body 0 4, expiry := now s1 + 1000000 }
      let s2 := { s1 with shawl := { s1.shawl with tears := live ++ [e] } }
      actTear ((tearPorts s2 a.port.val).foldl (tearOut k) s2) k

/-- An entry of the table of tears expires 1 ms after its tear (R276). -/
def expireTear (s : State) (keyId src tearId : Nat) : State :=
  match s.shawl.tears.find? (fun e => e.keyId == keyId && e.src == src && e.tearId == tearId) with
  | none => s
  | some e =>
    let s1 := reach s e.expiry
    { s1 with shawl := { s1.shawl with tears := s1.shawl.tears.filter (fun x => x != e) } }

end Sys2Proof.Machine
end

