-- ==== Sys2Proof/Machine/Collar.lean ====
section
/-! DEFINITION. The Collar's commands of a partition: attestation, key import, destruction and expiry, model state, and
the module-level report and update messages (R311, R328 to R339). -/

namespace Sys2Proof.Machine

/-- A command waits for the next start of its slot (R311). -/
def collarQueue (s : State) (slot : Nat) (j : CollarJob) : State :=
  { s with collar := { s.collar with waiting := s.collar.waiting ++ [(slot, j)] } }

/-- A descriptor that runs in its partition's Collar slot waits for it (R311). -/
def startCollar (s : State) (id p : Nat) : State :=
  collarQueue (waitIn s id (.collar 0)) p (.descriptor id)

/-- The root secret is present (Table 13.1). -/
def hasRoot (s : State) : Bool := s.otp.lifeCycle == .provisioned || s.otp.lifeCycle == .field

/-- The identity public key; zeros in BLANK and RETIRED (R324, R327). -/
def identityPk (s : State) : Bytes :=
  if hasRoot s then fit 1312 (Config.dsaPublic (sha3 (ascii "BA16/ident/v1" ++ s.otp.root))) else zeros 1312

/-- The number of a life-cycle state (Table 13.1). -/
def LifeCycle.code : LifeCycle → Nat
  | .blank => 1
  | .provisioned => 2
  | .field => 3
  | .retired => 4

/-! Attestation -/

/-- The debug byte (Table 13.13). -/
def debugByte (s : State) : Nat :=
  let blank := s.otp.lifeCycle == .blank
  bit (blank && !s.otp.testAccess) + 2 * bit (blank && s.entropy.pool == .test) + 4 * bit s.collar.selfTested +
    8 * bit s.dbg.traced

/-- A number whose bits are given. -/
def bitsNat : List Bool → Nat
  | [] => 0
  | b :: bs => bit b + 2 * bitsNat bs

/-- The fuse word (Table 13.13); no Sleeve is usable in TRANSIT_ONLY. -/
def fuseWord (s : State) : Nat :=
  let alive := s.faults.mode != .transitOnly
  bitsNat ((List.range 16).map (fun v => alive && sleeveUsable s v)) +
    2 ^ 16 * bitsNat ((List.range 16).map (fun d => (tabGet {} s.devices d).mode != .unusable)) +
    2 ^ 32 * bitsNat ([0, 4, 8, 12].map (fun v => lapelUsable s v)) + 2 ^ 36 * bit s.collar.d1Usable +
    2 ^ 37 * bit s.otp.testPattern + 2 ^ 38 * bit s.otp.testAccess +
    2 ^ 48 * min 255 ((List.range 144).filter (fun n => (slotOf s n).retired)).length + 2 ^ 56 * s.otp.signerRevoked.toNat

/-- The highest generation of model state unsealed or sealed (R64). -/
def Partition.topGen (x : Partition) : Nat := max x.modelGen x.modelSealed

/-- The partition fields of a report (Table 13.12, 0x0C8 to 0x1AF); zeros in a module-level report. -/
def reportFields (s : State) (p : Nat) : Bytes :=
  let x := part s p
  let has := fun k => x.keys.any (fun e => e.kind == k)
  let links := (keysHeld s p).length
  let share := x.keys.find? (fun e => e.kind == 5)
  natLe 8 x.instanceId ++ natLe 2 x.sleeves.toNat ++ natLe 1 (x.dram.length - 1) ++ natLe 1 x.host.length ++
    natLe 4 x.pinUnits ++ natLe 1 x.cclSlots ++
    natLe 1 (bitsNat [has 1, has 2, has 3, has 5, decide (links ≠ 0)]) ++ natLe 1 ((share.map (fun e => e.smudge)).getD 0) ++
    natLe 1 links ++ natLe 4 x.importSeq ++ natLe 8 ((share.map (fun e => e.keyId)).getD 0) ++ natLe 8 x.topGen ++
    x.authority.getD (zeros 32) ++ fit 128 x.policy ++ x.digest

/-- A report without its signature (Table 13.12); `p` is 255 for the module's own. -/
def reportBody (s : State) (p : Nat) (nonce : Bytes) : Bytes :=
  natLe 2 0x0601 ++ natLe 1 s.otp.lifeCycle.code ++ natLe 1 (debugByte s) ++ natLe 2 (ownId s) ++ natLe 1 p ++
    natLe 1 (regField s .ptnModes 2 0) ++ stampBytes s (instant s) 0xFF 0 ++ fit 32 nonce ++ sha3 (identityPk s) ++
    fit 32 s.collar.romDigest ++ fit 32 s.collar.setDigest ++ fit 32 s.collar.followerDigest ++
    natLe 4 s.otp.securityVersion ++ natLe 4 s.otp.bootCount ++ natLe 8 (fuseWord s) ++
    (if p < 16 then reportFields s p else zeros 232) ++ zeros 80 ++ (if p < 16 then fit 1184 (part s p).ek else zeros 1184) ++
    fit 1312 s.collar.aliasPk ++ fit 2420 s.collar.aliasCert

/-- A report with its hedged signature, a free value (R334). -/
def report (s : State) (p : Nat) (nonce : Bytes) : Bytes :=
  reportBody s p nonce ++ freeBytes s 2420

/-- The address of an ATTEST leaves room for the report (R334). -/
def attestAddress (x : Partition) (o : AttestOps) : Bool := inWindow o.dst && addrFits x o.dst 7848 64

/-- ATTEST in its slot (R334). -/
def runAttest (s : State) (id : Nat) (h : DescHdr) (o : AttestOps) : State :=
  if s.otp.lifeCycle ≠ .field then refuse s id stPolicy
  else
    finish (spendFree (writeMarked s h.p.val o.dst (report s h.p.val o.nonce) (plainMeta 16) false false)) id stOk 0

/-- The module-level report in slot 16 (R334, R339): it follows the nonce in companion memory, in FIELD only; the request
is done either way. -/
def runModuleAttest (s : State) : State :=
  let a := reg s .colAtt
  let s1 := { s with collar := { s.collar with attGo := false } }
  if s.otp.lifeCycle ≠ .field then s1
  else spendFree (emit s1 (.cclWrite (a + 32) (report s 255 s.collar.attNonce)))

/-! Messages (R329) -/

/-- The parts of an update message (Table 13.10). -/
structure Message where
  fmt : Nat
  scope : Nat
  kind : Nat
  counter : Nat
  identity : Bytes
  instance_ : Nat
  partition : Nat
  link : Nat
  seq : Nat
  keyId : Nat
  expiry : Nat
  bodyLen : Nat
  rsvdZero : Bool
  signer : Bytes
  header : Bytes
  body : Bytes
  pk : Bytes
deriving DecidableEq, Repr

/-- A message from its bytes. -/
def messageOf (b : Bytes) : Message :=
  let n := field b 0x48 4
  { fmt := field b 0 2, scope := field b 2 1, kind := field b 3 1, counter := field b 4 4, identity := slice b 8 32,
    instance_ := field b 0x28 8, partition := field b 0x30 1, link := field b 0x32 2, seq := field b 0x34 4,
    keyId := field b 0x38 8, expiry := field b 0x40 8, bodyLen := n,
    rsvdZero := zeroAt b 0x31 1 && zeroAt b 0x4C 4 && zeroAt b 0x70 16, signer := slice b 0x50 32, header := b.take 128,
    body := slice b 128 n, pk := slice b (128 + n) 1312 }

/-- Key material of a scope-1 body, where it can be opened (R329). -/
def messageKey (dk : Bytes) (m : Message) : Option Bytes :=
  let ss := kemDecaps dk (m.body.take 1088)
  gcmOpen (sha3 (ascii "BA16/import/v1" ++ ss ++ m.header)) (zeros 12) m.header (slice m.body 1088 48) (slice m.body 1136 16)

/-- The kind of a scope-1 message is admitted (Table 13.11, reason 9). -/
def kindAdmitted (s : State) (p : Nat) (m : Message) (material : Bytes) : Bool :=
  let x := part s p
  if m.kind = 1 then m.keyId == field x.policy 0x50 8
  else if m.kind = 2 then m.keyId == field x.policy 0x58 8 && m.keyId != 0
  else if m.kind = 3 then true
  else if m.kind = 4 then m.link != 0 && (linkKey s p m.link).isNone && decide (s.shawl.keys.length < 64)
  else if m.kind = 5 then
    x.regime == 2 && field x.policy 0x6C 1 != 0 && decide (16 ≤ field material 32 1) && decide (field material 32 1 ≤ 60)
  else false

/-- The reason of the first failing check of an import, 0 where it is accepted (Table 13.11). The rsvd bytes of the key material are
tested once it is open (log entry 118). -/
def importReason (s : State) (p len : Nat) (m : Message) (sigOk : Bool) : Nat :=
  let x := part s p
  let material := messageKey x.dk m
  let shape := m.fmt == 0x0701 && m.scope == 1 && m.bodyLen == 1152 && len == 5012 && m.rsvdZero &&
    (m.kind == 4 || m.link == 0) && (m.kind != 4 || m.keyId == 0)
  if !shape then 2
  else if m.identity ≠ sha3 (identityPk s) then 3
  else if m.signer ≠ sha3 m.pk ∨ (x.authority.isSome ∧ x.authority ≠ some m.signer) then 4
  else if !sigOk then 5
  else if m.counter ≠ s.otp.bootCount then 6
  else if m.instance_ ≠ x.instanceId ∨ m.partition ≠ p ∨ m.seq ≠ x.importSeq + 1 then 7
  else
    match material with
    | none => 8
    | some k =>
      if !zeroAt k 33 15 then 2
      else if !kindAdmitted s p m k then 9
      else if !expiryOk s m.expiry then 10 else 0

/-- An accepted key goes into the partition's store or the pool of link keys (R273, R328, R331). -/
def installKey (s : State) (p : Nat) (m : Message) (material : Bytes) : State :=
  let s1 := modPart s p (fun x => { x with importSeq := x.importSeq + 1, authority := some (x.authority.getD m.signer) })
  if m.kind = 4 then
    let e : LinkKey :=
      { p := p, keyId := m.link, key := material.take 32, ctr := 0, torn := false, expiry := m.expiry, dying := false }
    { s1 with shawl := { s1.shawl with keys := s1.shawl.keys ++ [e] } }
  else
    modPart s1 p (fun x =>
      { x with keys := x.keys.filter (fun k => k.kind != m.kind) ++
          [{ kind := m.kind, keyId := m.keyId, key := material.take 32, smudge := field material 32 1, expiry := m.expiry,
             dying := false }] })

/-- KEY_IMPORT in its slot (R331): the reason stands in the result. -/
def runImport (s : State) (id : Nat) (h : DescHdr) (o : KeyImportOps) : State :=
  let p := h.p.val
  let x := part s p
  if !(inWindow o.msgAddr && addrFits x o.msgAddr o.msgLen 64) then finish s id stAccess 1
  else
    let m := messageOf (pread s p o.msgAddr o.msgLen)
    let s1 := countDram s p o.msgAddr o.msgLen false
    let r := importReason s1 p o.msgLen m s.collar.signatureOk
    if r ≠ 0 then finish s1 id stPolicy r
    else finish (installKey s1 p m ((messageKey x.dk m).getD [])) id stOk 0

/-! Destruction and expiry of keys -/

/-- KEY_DESTROY names an imported kind, or all of them (R332). -/
def destroyRange (o : KeyDestroyOps) : Bool := (decide (1 ≤ o.kind) && decide (o.kind ≤ 5)) || o.kind == 0xFF

/-- A stored key of a kind. -/
def kindHit (kind k : Nat) : Bool := kind == k || kind == 0xFF

/-- The link keys of a partition that a destruction of a kind and number covers. -/
def linkHit (kind link : Nat) (p : Nat) (e : LinkKey) : Bool :=
  e.p == p && (kind == 0xFF || (kind == 4 && e.keyId == link))

/-- Keys of a kind are marked dying (R332, R333). -/
def markDying (s : State) (p kind link : Nat) : State :=
  let s1 := modPart s p (fun x =>
    { x with keys := x.keys.map (fun k => if kindHit kind k.kind then { k with dying := true } else k) })
  { s1 with shawl := { s1.shawl with keys := s1.shawl.keys.map (fun e => if linkHit kind link p e then { e with dying := true } else e) } }

/-- A descriptor in flight uses a key of a kind (R332). -/
def usesKey (s : State) (kind link : Nat) (f : InFlight) : Bool :=
  let p := f.h.p.val
  (kindHit kind 1 && (f.opcode == 0x59)) || (kindHit kind 2 && (f.opcode == 0x73 || f.opcode == 0x74)) ||
    (kindHit kind 5 && f.opcode == 0x49) ||
    ((keysHeld s p).any (fun k => (kind == 0xFF || (kind == 4 && k == link)) && underKey s k f))

/-- Descriptors dispatched before a bound that still use a dying key. -/
def keyUsers (s : State) (p bound kind link : Nat) : Bool :=
  (flying s p).any (fun f => f.done.isNone && decide (f.id < bound) && usesKey s kind link f)

/-- The dying keys of a kind are overwritten, and a link key's job is torn (R332, R275). -/
def wipeKeys (s : State) (p kind link : Nat) (r : TearReason) : State :=
  let gone := s.shawl.keys.filter (fun e => linkHit kind link p e && e.dying)
  let s1 := gone.foldl (fun t e => originateTear t p e.keyId r) s
  let s2 := { s1 with shawl := { s1.shawl with keys := s1.shawl.keys.filter (fun e => !(linkHit kind link p e && e.dying)) } }
  modPart s2 p (fun x => { x with keys := x.keys.filter (fun k => !(kindHit kind k.kind && k.dying)) })

/-- KEY_DESTROY marks its keys dying at dispatch and waits for its slot (R332). -/
def startDestroy (s : State) (id : Nat) (h : DescHdr) (o : KeyDestroyOps) : State :=
  startCollar (markDying s h.p.val o.kind o.linkKeyId) id h.p.val

/-- KEY_DESTROY in a slot of its partition (R332): it goes on in the next one while earlier users are in flight. -/
def runDestroy (s : State) (id : Nat) (h : DescHdr) (o : KeyDestroyOps) : State :=
  let p := h.p.val
  if keyUsers s p id o.kind o.linkKeyId then collarQueue s p (.descriptor id)
  else finish (wipeKeys s p o.kind o.linkKeyId .keyDestruction) id stOk 0

/-- The expiry instant of a key (R333). -/
def keyExpiryOf (s : State) (p kind link : Nat) : Option Nat :=
  let e :=
    if kind = 4 then ((linkKey s p link).filter (fun k => !k.dying)).map (fun k => k.expiry)
    else ((part s p).keys.find? (fun k => k.kind == kind && !k.dying)).map (fun k => k.expiry)
  e.filter (fun t => t != 0)

/-- A key expires (R333): it is marked dying and its destruction waits for the partition's slot. -/
def expireKey (s : State) (p kind link : Nat) : State :=
  match keyExpiryOf s p kind link with
  | none => s
  | some t => collarQueue (markDying (reach s t) p kind link) p (.expire p kind link)

/-- The destruction of an expired key in a slot. -/
def runExpire (s : State) (p kind link : Nat) : State :=
  if keyUsers s p s.nextId kind link then collarQueue s p (.expire p kind link)
  else wipeKeys s p kind link .keyDestruction

/-! Model state (R63, R64, R337, R338) -/

/-- Bytes of an element of model state (Table 2.12). -/
def modelElem (fmt : Nat) : Nat := if fmt = 2 ∨ fmt = 3 then 2 else 4

/-- Plaintext bytes of the segment at an address. -/
def segmentBytes (s : State) (p a : Nat) : Nat :=
  let hd := pread s p a 64
  field hd 0x18 8 * modelElem (field hd 2 1)

/-- The tiles a MODEL_UNSEAL names. -/
def unsealClaims (s : State) (p : Nat) (o : ModelOps) : List Claim := byteClaims o.dst (segmentBytes s p o.src) none

/-- The segment lies in the host-visible window and its plaintext goes elsewhere (R63). -/
def unsealAddress (s : State) (p : Nat) (o : ModelOps) : Bool :=
  let x := part s p
  inWindow o.src && addrFits x o.src 64 1 && addrFits x o.src (64 + segmentBytes s p o.src + 16) 1 && !inWindow o.dst &&
    addrFits x o.dst (segmentBytes s p o.src) 1

/-- The model key that a descriptor works with: one dispatched before the key was marked dying still has it (R331, R332, R337; log
entry 109). -/
def modelKey (s : State) (id p : Nat) : Option StoredKey := keyFor s id p 2

/-- The header of a segment is in order and of a generation that may be opened: not below the highest unsealed (R64, R337, Table
2.12). That the format, the element format and the length are tested too is the model's choice (log entry 108). -/
def segmentOk (x : Partition) (hd : Bytes) : Bool :=
  field hd 0 2 == 0x0301 && decide (1 ≤ field hd 2 1) && decide (field hd 2 1 ≤ 4) &&
    field hd 8 8 == field x.policy 0x58 8 && decide (x.modelGen ≤ field hd 0x10 8) &&
    decide (field hd 0x18 8 * modelElem (field hd 2 1) ≤ 2 ^ 36 - 32)

/-- MODEL_UNSEAL: the Collar's checks and the opening (R337). A tag that fails leaves zeros. -/
def runUnseal (s : State) (id : Nat) (h : DescHdr) (o : ModelOps) : State :=
  let p := h.p.val
  let x := part s p
  let hd := pread s p o.src 64
  let n := segmentBytes s p o.src
  match modelKey s id p with
  | none => refuse s id stPolicy
  | some k =>
    if !segmentOk x hd then refuse s id stPolicy
    else
      let s1 := modUsage (countDram s p o.src (80 + n) false) p (fun u => { u with keystreamBytes := satAdd u.keystreamBytes n })
      let meta_ := { plainMeta (8 * modelElem (field hd 2 1)) with model := true }
      match gcmOpen k.key (slice hd 0x20 12) hd (pread s p (o.src + 64) n) (pread s p (o.src + 64 + n) 16) with
      | none => refuse (dropResidentAt (writeMarked s1 p o.dst (zeros n) (plainMeta 16) false false) p o.dst n) id stPolicy
      | some plain =>
        let s2 := dropResidentAt (writeMarked s1 p o.dst plain meta_ false true) p o.dst n
        finish (modPart s2 p (fun y => { y with modelGen := max y.modelGen (field hd 0x10 8) })) id stOk 0

/-- Operand ranges of MODEL_SEAL (Table 13.14, R64, R338). -/
def sealRange (o : ModelOps) : Bool :=
  decide (64 ≤ o.len) && o.len % 64 == 0 && decide (64 ≤ o.segBytes) && o.segBytes % 64 == 0 && decide (o.segBytes ≤ 2 ^ 36 - 32) &&
    decide ((o.len + o.segBytes - 1) / o.segBytes ≤ 256) && decide (1 ≤ o.elemFormat) && decide (o.elemFormat ≤ 4)

/-- Segments of a MODEL_SEAL. -/
def sealCount (o : ModelOps) : Nat := (o.len + o.segBytes - 1) / o.segBytes

/-- The tiles a MODEL_SEAL names. -/
def sealClaims (o : ModelOps) : List Claim := byteClaims o.src o.len none

/-- The source lies in the Pocket or DRAM, the segments go to the window (R63). The label may lie in any region: the spec names none
(R338; DESIGN CHOICE, log entry 108). -/
def sealAddress (x : Partition) (o : ModelOps) : Bool :=
  !inWindow o.src && addrFits x o.src o.len 1 && inWindow o.dst && addrFits x o.dst (o.len + 80 * sealCount o) 1 &&
    (o.labelAddr == 0 || addrFits x o.labelAddr 16 1)

/-- The header of segment `i` (Table 2.12). -/
def segmentHeader (s : State) (p : Nat) (o : ModelOps) (gen i n : Nat) (label : Bytes) : Bytes :=
  natLe 2 0x0301 ++ natLe 1 o.elemFormat ++ natLe 1 o.fracBits ++ natLe 4 i ++ natLe 8 (field (part s p).policy 0x58 8) ++
    natLe 8 gen ++ natLe 8 (n / modelElem o.elemFormat) ++ (natLe 8 gen ++ natLe 2 (ownId s) ++ natLe 1 p ++ natLe 1 i) ++
    zeros 4 ++ fit 16 label

/-- Segment `i` of a MODEL_SEAL: header, ciphertext and tag. -/
def sealSegment (s : State) (p : Nat) (o : ModelOps) (key : Bytes) (gen i : Nat) (label plain : Bytes) : Bytes :=
  let part_ := slice plain (i * o.segBytes) o.segBytes
  let hd := segmentHeader s p o gen i part_.length label
  let r := gcmSeal key (slice hd 0x20 12) hd part_
  hd ++ r.1 ++ r.2

/-- What a MODEL_SEAL would put into the window in clear or seal against its mark: pre-gate source bytes, or a label that carries
either mark (R53, R66). -/
def sealMarked (s : State) (p : Nat) (o : ModelOps) : Bool :=
  let l := marksOf s p o.labelAddr 16
  (marksOf s p o.src o.len).1 || (o.labelAddr != 0 && (l.1 || l.2))

/-- MODEL_SEAL: all segments under one new generation (R64, R338). -/
def runSeal (s : State) (id : Nat) (h : DescHdr) (o : ModelOps) : State :=
  let p := h.p.val
  let x := part s p
  match modelKey s id p with
  | none => refuse s id stPolicy
  | some k =>
    if sealMarked s p o then refuse s id stPolicy
    else
      let gen := x.topGen + 1
      let plain := pread s p o.src o.len
      let label := if o.labelAddr = 0 then zeros 16 else pread s p o.labelAddr 16
      let bs := (List.range (sealCount o)).flatMap (fun i => sealSegment s p o k.key gen i label plain)
      let s1 := modUsage (countDram s p o.src o.len false) p (fun u => { u with keystreamBytes := satAdd u.keystreamBytes o.len })
      let s2 := writeMarked s1 p o.dst bs (plainMeta 16) false false
      finish (modPart s2 p (fun y => { y with modelSealed := gen })) id stOk 0

/-! Update messages of scope 0 (R329, R330) -/

/-- The kind of a scope-0 message is admitted: a field transition from PROVISIONED, or a signer 0 to 3 to revoke. -/
def updateAdmitted (s : State) (m : Message) : Bool :=
  if m.kind = 0x10 then s.otp.lifeCycle == .provisioned
  else m.kind == 0x11 && decide (field m.body 0 1 ≤ 3)

/-- A signer is one of the ROM's list and not revoked (R330). -/
def romSigner (s : State) (digest : Bytes) : Bool :=
  (List.range 4).any (fun i => s.collar.romSigners.getD i [] == digest && !bvBit s.otp.signerRevoked i)

/-- The reason of the first failing check of a scope-0 message (Table 13.11, R329, R330). -/
def updateReason (s : State) (len : Nat) (m : Message) (sigOk : Bool) : Nat :=
  let shape := m.fmt == 0x0701 && m.scope == 0 && m.bodyLen == 64 && len == 3924 && m.rsvdZero && m.link == 0 && m.keyId == 0
  if !shape then 2
  else if m.identity ≠ sha3 (identityPk s) then 3
  else if m.signer ≠ sha3 m.pk ∨ romSigner s m.signer = false then 4
  else if !sigOk then 5
  else if m.counter ≠ s.otp.updateCount + 1 ∨ 1023 ≤ s.otp.updateCount then 6
  else if m.instance_ ≠ 0 ∨ m.partition ≠ 0 ∨ m.seq ≠ 0 then 7
  else if !updateAdmitted s m then 9
  else if !expiryOk s m.expiry then 10 else 0

/-- An update message in slot 16 (R317, R319, R339). -/
def runUpdate (s : State) : State :=
  let b := s.collar.updMessage
  let m := messageOf b
  let r := updateReason s b.length m s.collar.signatureOk
  let s1 := { s with collar := { s.collar with updBusy := false, updReason := r, updMessage := [] } }
  if r ≠ 0 then s1
  else
    let o := { s.otp with updateCount := s.otp.updateCount + 1 }
    if m.kind = 0x10 then { s1 with otp := { o with lifeCycle := .field } }
    else { s1 with otp := { o with signerRevoked := s.otp.signerRevoked ||| BitVec.ofNat 4 (2 ^ field m.body 0 1) } }

/-! What a slot does with a descriptor -/

/-- A descriptor's work in its partition's slot is done and its result posted (R311). A result for a descriptor that a
reset has ended is dropped and counted (R388). -/
def runCollarDescriptor (s : State) (id : Nat) : State :=
  match (flight s id).filter (fun f => f.done.isNone) with
  | none => countStale s
  | some f =>
    match f.body with
    | .attest o => runAttest s id f.h o
    | .keyImport o => runImport s id f.h o
    | .keyDestroy o => runDestroy s id f.h o
    | .modelUnseal o => runUnseal s id f.h o
    | .modelSeal o => runSeal s id f.h o
    | _ => s

end Sys2Proof.Machine
end

