-- ==== Sys2Proof/Machine/Control.lean ====
section
/-! DEFINITION. NOP, FENCE, WAIT_FT and HINT (R216 to R219, R360). -/

namespace Sys2Proof.Machine

/-- NOP completes OK with a result of 0 (R216). -/
def startNop (s : State) (id : Nat) : State :=
  finish s id stOk 0

/-- Descriptors of the rings of a set whose records wait in a pending buffer. -/
def unwritten (s : State) (p : Nat) (rings : Nat → Bool) : List Nat :=
  (part s p).cq.flatMap (fun e => (e.2.held.filter (fun r => rings r.ring)).filterMap (fun r => r.flight))

/-- A descriptor has not completed, or its record has not been written (R217). -/
def outstanding (s : State) (p id : Nat) : Bool :=
  (flight s id).isSome || (unwritten s p (fun _ => true)).contains id

/-- What a FENCE waits for: the descriptors of the masked rings, its own ring among them, dispatched before it whose records are
not written (R217). -/
def fenceAwaits (s : State) (id : Nat) (h : DescHdr) (o : FenceOps) : List Nat :=
  ((flying s h.p.val).filter (fun f => f.id != id && (f.h.ring == h.ring || bvBit o.ringMask f.h.ring.val))).map
    (fun f => f.id) ++
    unwritten s h.p.val (fun r => r == h.ring.val || (decide (r < 8) && bvBit o.ringMask r))

/-- The FENCEs of a partition no longer wait for what has completed; one that waits for none completes (R217). -/
def settleFences (s : State) (p : Nat) : State :=
  (flying s p).foldl (fun t f =>
    match f.phase with
    | .fence w =>
      if f.done.isSome then t
      else
        let rest := w.filter (outstanding t p)
        if rest.isEmpty then finish t f.id stOk 0 else waitIn t f.id (.fence rest)
    | _ => t) s

/-- FENCE (R217). -/
def startFence (s : State) (id : Nat) (h : DescHdr) (o : FenceOps) : State :=
  let w := fenceAwaits s id h o
  if w.isEmpty then finish s id stOk 0 else waitIn s id (.fence w)

/-- WAIT_FT: a target at or before the current instant is met at once (R218). -/
def startWaitFt (s : State) (id : Nat) (o : WaitFtOps) : State :=
  if o.target ≤ now s then finish s id stOk (now s - o.target) else waitIn s id (.waitFt o.target)

/-- The expiry of a ring's WAIT_FT at its target (R218). -/
def expireWaits (s : State) (p r : Nat) : State :=
  s.inflight.foldl (fun t f =>
    match f.phase with
    | .waitFt target =>
      if f.h.p.val = p ∧ f.h.ring.val = r ∧ f.done.isNone then
        let t1 := reach t target
        finish t1 f.id stOk (now t1 - target)
      else t
    | _ => t) s

/-- The pre-ramp that a HINT asks for (R360): its target in units, the instants of its ramp, phase and end. The ramp
takes 188 Sleeve cycles, 376/3 ns, for each unit. -/
def hintRamp (t0 : Nat) (o : HintOps) : HintRamp :=
  let u := (min o.level 100 * 64 + 99) / 100
  let phase := t0 + o.lead
  { units := u, rampAt := max t0 (phase - u * 376 / 3), phaseAt := phase,
    endAt := phase + (if o.duration = 0 then 50000 else 1000 * o.duration), filler := 0, ramping := false,
    holding := false }

/-- HINT completes OK at dispatch; class bits 0 and 1 set the partition's pre-ramp (R219, R360). -/
def startHint (s : State) (id : Nat) (h : DescHdr) (o : HintOps) : State :=
  let s1 :=
    if bvBit o.cls 0 || bvBit o.cls 1 then
      modPart s h.p.val (fun x => { x with hint := some (hintRamp (now s) o) })
    else s
  finish s1 id stOk 0

/-- The instant at which filler starts to rise has come (R360). -/
def hintRampStart (s : State) (p : Nat) : State :=
  match (part s p).hint with
  | none => s
  | some g =>
    if g.ramping then s
    else modPart (reach s g.rampAt) p (fun x =>
      { x with hint := some { g with ramping := true, holding := true, filler := g.units } })

/-- The hold of a hinted level ends: filler falls (R360). -/
def hintHoldEnd (s : State) (p : Nat) : State :=
  match (part s p).hint with
  | none => s
  | some g =>
    if g.holding then modPart (reach s g.endAt) p (fun x => { x with hint := none }) else s

end Sys2Proof.Machine
end

