-- ==== Sys2Proof/Machine/Move.lean ====
section
/-! DEFINITION. COPY and FILL (R53, R66, R190, R220, R436). -/

namespace Sys2Proof.Machine

/-- Operand ranges of COPY and FILL (Table 8.11); the width counts only for a Pocket destination. -/
def moveRange (o : MoveOps) : Bool :=
  decide (64 ≤ o.len) && decide (o.len ≤ 2 ^ 36) && o.len % 64 == 0 && (!inPocket o.dst || decide (o.width ≤ 2))

/-- Units that `len` bytes at a unit boundary touch. -/
def unitsOf (len : Nat) : Nat := (len + 8191) / 8192

/-- `len` bytes at a Pocket destination lie wholly within the pin region (R190). -/
def inPin (x : Partition) (dst len : Nat) : Bool :=
  let u := dst % 2 ^ 60 / 8192
  inPocket dst && decide (x.pinBase ≤ u) && decide (u < x.pinBase + x.pinUnits) &&
    decide (u + unitsOf len ≤ x.pinBase + x.pinUnits)

/-- A COPY asks for the pin table: its key data, which are its bytes less the 64 of the header, lie wholly within the pin region
from a multiple of 64 units on, and its source begins with the format of a key stream (R190). -/
def wantsPin (s : State) (p : Nat) (o : MoveOps) : Bool :=
  inPin (part s p) o.dst (o.len - 64) && o.dst % 2 ^ 60 / 8192 % 64 == 0 && field (pread s p o.src 2) 0 2 == 0x0120

/-- The bytes a COPY writes at its destination: the header of a key that is pinned goes into the pin table (R190). -/
def copyLen (s : State) (p : Nat) (o : MoveOps) : Nat :=
  if wantsPin s p o then o.len - 64 else o.len

/-- The units that `len` bytes at a destination name: those of the pin region only where they lie wholly within it (R190). -/
def moveDstClaims (x : Partition) (dst len : Nat) : List Claim :=
  byteClaims dst len (if inPin x dst len then some .pin else none)

/-- The units a COPY names; its source may lie in the pin region (Table 7.2). -/
def copyClaims (s : State) (p : Nat) (o : MoveOps) : List Claim :=
  byteClaims o.src o.len (some .pin) ++ moveDstClaims (part s p) o.dst (copyLen s p o)

/-- A destination is 64-byte aligned, in the Pocket at a unit boundary, within the partition (R220). -/
def moveDstFits (x : Partition) (dst len : Nat) : Bool :=
  addrFits x dst len 64 && (!inPocket dst || dst % 8192 == 0)

/-- The address checks of COPY: source and destination do not overlap (R220). -/
def copyAddress (s : State) (p : Nat) (o : MoveOps) : Bool :=
  let n := copyLen s p o
  addrFits (part s p) o.src o.len 64 && moveDstFits (part s p) o.dst n &&
    !(o.src / 2 ^ 60 == o.dst / 2 ^ 60 && overlaps o.src o.len o.dst n)

/-- Pin entries whose units a write of `len` bytes touches become invalid (R190). -/
def unpin (s : State) (p dst len : Nat) : State :=
  if inPocket dst then
    modPart s p (fun x =>
      { x with pins := x.pins.filter (fun e => !overlaps e.first e.units (dst % 2 ^ 60 / 8192) (unitsOf len)) })
  else s

/-- Bytes written at a destination, with what a write does to the units of the Pocket. -/
def moveWrite (s : State) (p : Nat) (o : MoveOps) (bs : Bytes) (marks : Bool × Bool) : State :=
  dropResidentAt (writeMarked s p o.dst bs (plainMeta (widthBits o.width)) marks.1 marks.2) p o.dst bs.length

/-- COPY (R190, R220). -/
def startCopy (s : State) (id : Nat) (h : DescHdr) (o : MoveOps) : State :=
  let p := h.p.val
  let marks := marksOf s p o.src o.len
  let s1 := unpin s p o.dst (copyLen s p o)
  let data := pread s p o.src o.len
  let s2 := countDram s1 p o.src o.len false
  if inWindow o.dst && (marks.1 || marks.2) then refuse s id stPolicy
  else if wantsPin s p o then
    let hd := keyStreamOf (data.take 64)
    let u := o.dst % 2 ^ 60 / 8192
    let bs := data.drop 64
    if 16 ≤ (part s1 p).pins.length ∨ hd.len ≠ o.len - 64 ∨ !hd.selfOk then refuse s id stPolicy
    else
      let s3 := moveWrite s2 p o bs marks
      let s4 := modPart s3 p (fun x =>
        { x with pins := x.pins ++ [{ first := u, units := unitsOf bs.length, header := data.take 64 }] })
      finish s4 id stOk o.len
  else finish (moveWrite s2 p o data marks) id stOk o.len

/-- The bytes of a FILL: its 8-byte pattern again and again. -/
def fillBytes (pattern len : Nat) : Bytes := (List.replicate (len / 8) (natLe 8 pattern)).flatten

/-- FILL (R190, R220). -/
def startFill (s : State) (id : Nat) (h : DescHdr) (o : MoveOps) : State :=
  let p := h.p.val
  finish (moveWrite (unpin s p o.dst o.len) p o (fillBytes o.src o.len) (false, false)) id stOk o.len

end Sys2Proof.Machine
end

