-- ==== Sys2Proof/Machine/Descriptors.lean ====
section
/-! DEFINITION. Dispatch: the tests of R215 in order, what holds a descriptor back (R222, R223, R396), reservations (R76),
and how descriptors that wait go on. -/

namespace Sys2Proof.Machine

/-- Step 4 of R215: every operand lies in the range or set its table gives. -/
def rangeOk (x : Partition) : DescBody → Bool
  | .nop => true
  | .fence _ => true
  | .waitFt _ => true
  | .hint _ => true
  | .copy o => moveRange o
  | .fill o => moveRange o
  | .windowOpen o => windowOpenRange x o
  | .windowClose o => decide (o.kind ≤ 1)
  | .ingest o => ingestRange o
  | .accumulate o => accRange x o
  | .accDrain o => drainRange o
  | .statsSumsq o => statsRange .sumsq x o
  | .statsMoments o => statsRange .moments x o
  | .statsFinish o => statsRange .finishing x o
  | .statsRsqrt o => statsRange .rsqrt x o
  | .rank o => rankRange o
  | .zipSend o => zipSendRange o
  | .zipRecv o => zipRecvRange o
  | .maskExpand o => maskRange o
  | .shareRecon _ => true
  | .seedGraph _ => true
  | .seedDerive _ => true
  | .ntt o => nttRange o
  | .intt o => nttRange o
  | .pmulMul o => pmulRange .mul o
  | .pmulMac o => pmulRange .mac o
  | .pmulSmul o => pmulRange .smul o
  | .pmulFxmul o => pmulRange .fxmul o
  | .baseconv o => baseRange o
  | .ctAddFold o => ctFoldRange o
  | .ctAddAdd _ => true
  | .ctAddSub _ => true
  | .keyswitch o => ksRange false o
  | .rotate o => ksRange true o
  | .rescale o => rescaleRange false o
  | .modswitch o => rescaleRange true o
  | .partialDec _ => true
  | .kemSealed o => x.regime == 3 && kemRange o
  | .kemBundle o => x.regime == 1 && kemRange o
  | .sealedOpen o => sealedRange o
  | .clip o => clipRange o
  | .dpNoise o => noiseRange o
  | .releaseAggregate o => releaseRange false x o
  | .releaseShare o => releaseRange true x o
  | .rmaWrite o => rmaRange o
  | .rmaRead o => rmaRange o
  | .rmaAdd o => rmaRange o
  | .attest _ => true
  | .keyImport _ => true
  | .keyDestroy o => destroyRange o
  | .modelUnseal _ => true
  | .modelSeal o => sealRange o
  | .badSub _ => false
  | .unknown _ => false

/-- The tile ranges a descriptor names (R76). -/
def claimsOf (s : State) (h : DescHdr) (b : DescBody) : List Claim :=
  let p := h.p.val
  let x := part s p
  match b with
  | .copy o => copyClaims s p o
  | .fill o => moveDstClaims x o.dst o.len
  | .windowOpen o => byteClaims o.landingAddr (openArea s h o) none
  | .windowClose o => byteClaims o.listAddr 16 none
  | .accumulate o => accClaims s p o
  | .accDrain o => drainClaims s p o
  | .statsSumsq o => statsClaims s p .sumsq o
  | .statsMoments o => statsClaims s p .moments o
  | .statsFinish o => statsClaims s p .finishing o
  | .statsRsqrt o => statsClaims s p .rsqrt o
  | .rank o => rankClaims s p o
  | .zipSend o => zipSendClaims s p o
  | .zipRecv o => zipRecvClaims s p o
  | .maskExpand o => maskClaims x o
  | .seedGraph o => seedGraphClaims o
  | .ntt o => nttClaims o
  | .intt o => nttClaims o
  | .pmulMul o => pmulClaims .mul o
  | .pmulMac o => pmulClaims .mac o
  | .pmulSmul o => pmulClaims .smul o
  | .pmulFxmul o => pmulClaims .fxmul o
  | .baseconv o => baseClaims o
  | .ctAddFold o => ctFoldClaims s p o
  | .ctAddAdd o => ctPairClaims s p o
  | .ctAddSub o => ctPairClaims s p o
  | .keyswitch o => ksClaims s p o
  | .rotate o => ksClaims s p o
  | .rescale o => rescaleClaims false s p o
  | .modswitch o => rescaleClaims true s p o
  | .partialDec o => partialClaims s p o
  | .kemBundle o => kemClaims o
  | .sealedOpen o => sealedClaims x o
  | .clip _ => []
  | .dpNoise o => noiseClaims s p o
  | .releaseAggregate o => releaseClaims s p o
  | .releaseShare o => releaseClaims s p o
  | .rmaWrite o => rmaClaims o
  | .rmaRead o => rmaClaims o
  | .rmaAdd o => rmaClaims o
  | .modelUnseal o => unsealClaims s p o
  | .modelSeal o => sealClaims o
  | _ => []

/-- The ciphertext headers a descriptor names (R155). -/
def headersOf (s : State) (h : DescHdr) (b : DescBody) : List CtRef :=
  let p := h.p.val
  let at_ := fun a => refOf (pread s p a 16)
  let list := fun i o n => (ksRefs s p i o n).flatMap (fun e => [e.1, e.2])
  match b with
  | .ctAddFold o => [at_ o.dstRef]
  | .ctAddAdd o => [at_ o.dstRef, at_ o.a, at_ o.b]
  | .ctAddSub o => [at_ o.dstRef, at_ o.a, at_ o.b]
  | .keyswitch o => list o.inList o.outList o.ctCount
  | .rotate o => list o.inList o.outList o.ctCount
  | .rescale o => list o.inList o.outList o.ctCount
  | .modswitch o => list o.inList o.outList o.ctCount
  | .partialDec o => [at_ o.ctRef, at_ o.outRef]
  | .releaseAggregate o => if (part s p).regime = 2 then [at_ o.srcRef] else []
  | .releaseShare o => if (part s p).regime = 2 then [at_ o.srcRef] else []
  | _ => []

/-- What R76 reserves for a descriptor: the tiles it names, and the headers in DRAM that R155 reserves with them. -/
def reserveOf (s : State) (h : DescHdr) (b : DescBody) (cs : List Claim) : List (Nat × Nat) :=
  claimRanges cs ++ (headersOf s h b).flatMap (fun c => dramLines c.hdr 64)

/-- The DRAM bytes that COPY, FILL and the RMA operators name: they wait for a header reserved there, and reserve none (R155; log
entry 100). -/
def dramTouched (s : State) (h : DescHdr) (b : DescBody) : List (Nat × Nat) :=
  match b with
  | .copy o => dramLines o.src o.len ++ dramLines o.dst (copyLen s h.p.val o)
  | .fill o => dramLines o.dst o.len
  | .rmaWrite o => dramLines o.loc o.len
  | .rmaRead o => dramLines o.loc o.len
  | .rmaAdd o => dramLines o.loc o.len
  | _ => []

/-- Step 5 of R215 beside the tile ranges: addresses and overlaps. -/
def addressOk (s : State) (h : DescHdr) (b : DescBody) : Bool :=
  let p := h.p.val
  let x := part s p
  match b with
  | .copy o => copyAddress s p o
  | .fill o => moveDstFits x o.dst o.len
  | .windowOpen o => windowOpenAddress s h o
  | .windowClose o => addrFits x o.listAddr 16 1
  | .ingest o => ingestAddress s p o
  | .accumulate o => accAddress s p o
  | .accDrain o => drainAddress s p o
  | .statsSumsq o => statsAddress s p .sumsq o
  | .statsMoments o => statsAddress s p .moments o
  | .statsFinish o => statsAddress s p .finishing o
  | .statsRsqrt o => statsAddress s p .rsqrt o
  | .rank o => rankAddress x o
  | .zipSend o => declFits s p o.declAddr
  | .zipRecv o => declFits s p o.declAddr
  | .shareRecon o => reconAddress s p o
  | .seedGraph o => seedGraphAddress s p o
  | .seedDerive o => seedDeriveAddress s p o
  | .ntt o => nttAddress x o
  | .intt o => nttAddress x o
  | .pmulMul o => pmulAddress x .mul o
  | .pmulMac o => pmulAddress x .mac o
  | .pmulSmul o => pmulAddress x .smul o
  | .pmulFxmul o => pmulAddress x .fxmul o
  | .baseconv o => baseAddress x o
  | .ctAddFold o => ctFoldAddress s p o
  | .ctAddAdd o => ctPairAddress s p o
  | .ctAddSub o => ctPairAddress s p o
  | .keyswitch o => ksAddress s p o
  | .rotate o => ksAddress s p o
  | .rescale o => rescaleAddress s p o
  | .modswitch o => rescaleAddress s p o
  | .partialDec o => partialAddress s p o
  | .kemBundle o => kemAddress x o
  | .sealedOpen o => sealedAddress x o
  | .dpNoise o => noiseAddress s p o
  | .releaseAggregate o => releaseAddress s p o
  | .releaseShare o => releaseAddress s p o
  | .rmaWrite o => rmaAddress false x o
  | .rmaRead o => rmaAddress true x o
  | .rmaAdd o => rmaAddress false x o
  | .attest o => attestAddress x o
  | .modelUnseal o => unsealAddress s p o
  | .modelSeal o => sealAddress x o
  | _ => true

/-- The opcode needs a key that a private wire brings to the Sleeves' cipher contexts (Table 13.9). -/
def needsKey (x : Partition) (op : Nat) : Bool :=
  op == 0x49 || op == 0x50 || op == 0x51 || (op == 0x59 && x.sealsOutput)

/-- The partition's private wires are loaded (R328, R396). -/
def keysReady (s : State) (x : Partition) : Bool :=
  x.wiresLoaded && x.sleeveList.all (fun v => (sleeveOf s v).keysLoaded)

/-- Step 6 of R215 and the work of each opcode. -/
def runBody (s : State) (id : Nat) (h : DescHdr) : DescBody → State
  | .nop => startNop s id
  | .fence o => startFence s id h o
  | .waitFt o => startWaitFt s id o
  | .hint o => startHint s id h o
  | .copy o => startCopy s id h o
  | .fill o => startFill s id h o
  | .windowOpen o => startWindowOpen s id h o
  | .windowClose o => startWindowClose s id h o
  | .ingest o => startIngest s id h o
  | .accumulate o => startAccumulate s id h o
  | .accDrain o => startDrain s id h o
  | .statsSumsq o => startStats .sumsq s id h o
  | .statsMoments o => startStats .moments s id h o
  | .statsFinish o => startStats .finishing s id h o
  | .statsRsqrt o => startStats .rsqrt s id h o
  | .rank o => startRank s id h o
  | .zipSend o => startZipSend s id h o
  | .zipRecv o => startZipRecv s id h o
  | .maskExpand o => startMaskExpand s id h o
  | .shareRecon o => startShareRecon s id h o
  | .seedGraph o => startSeedGraph s id h o
  | .seedDerive o => startSeedDerive s id h o
  | .ntt o => startNtt s id h o
  | .intt o => startIntt s id h o
  | .pmulMul o => startPmul .mul s id h o
  | .pmulMac o => startPmul .mac s id h o
  | .pmulSmul o => startPmul .smul s id h o
  | .pmulFxmul o => startPmul .fxmul s id h o
  | .baseconv o => startBaseconv s id h o
  | .ctAddFold o => startCtFold s id h o
  | .ctAddAdd o => startCtPair false s id h o
  | .ctAddSub o => startCtPair true s id h o
  | .keyswitch o => startSwitch false s id h o
  | .rotate o => startSwitch true s id h o
  | .rescale o => startRescale false s id h o
  | .modswitch o => startRescale true s id h o
  | .partialDec o => startPartial s id h o
  | .kemSealed o => startKemSealed s id h o
  | .kemBundle o => startKemBundle s id h o
  | .sealedOpen o => startSealedOpen s id h o
  | .clip o => startClip s id h o
  | .dpNoise o => startNoise s id h o
  | .releaseAggregate o => startRelease false s id h o
  | .releaseShare o => startRelease true s id h o
  | .rmaWrite o => startRmaWrite s id h o
  | .rmaRead o => startRmaRead s id h o
  | .rmaAdd o => startRmaAdd s id h o
  | .attest _ => startCollar s id h.p.val
  | .keyImport _ => startCollar s id h.p.val
  | .keyDestroy o => startDestroy s id h o
  | .modelUnseal _ => startCollar s id h.p.val
  | .modelSeal _ => startCollar s id h.p.val
  | .badSub _ => refuse s id stPolicy
  | .unknown _ => refuse s id stPolicy

/-- Start a dispatched descriptor; one that needs a key waits until it is loaded (R328). -/
def startBody (s : State) (id : Nat) (h : DescHdr) (b : DescBody) : State :=
  let x := part s h.p.val
  if needsKey x (opcodeOf b) && !keysReady s x then waitIn s id .keyWait else runBody s id h b

/-! What holds a descriptor back -/

/-- Descriptors of a ring that have been dispatched and have not completed. -/
def ringFlights (s : State) (h : DescHdr) : List InFlight :=
  (flying s h.p.val).filter (fun f => f.h.ring == h.ring)

/-- A FENCE or WAIT_FT of the ring has not completed (R217, R218). -/
def ringWaits (s : State) (h : DescHdr) : Bool :=
  (ringFlights s h).any (fun f => f.done.isNone && (f.opcode == 0x02 || f.opcode == 0x03))

/-- A self-test holds a unit that the opcode needs (R396). -/
def testHolds (s : State) (x : Partition) (op : Nat) : Bool :=
  s.bst.busy &&
    (if s.bst.kind = 1 ∨ s.bst.kind = 2 then needsUnits op && x.sleeveList.contains (s.bst.index / 9)
     else if s.bst.kind = 6 then op == 0x23 && x.sleeveList.contains (4 * s.bst.index)
     else if 3 ≤ s.bst.kind ∧ s.bst.kind ≤ 5 then needsUnits op && x.sleeveList.contains s.bst.index
     else false)

/-- The ring is held before its head descriptor (R222, R223). -/
def heldBack (s : State) (h : DescHdr) (b : DescBody) : Bool :=
  let p := h.p.val
  ringWaits s h || (bvBit h.hflags 0 && !(ringFlights s h).isEmpty) || decide (256 ≤ (flying s p).length) ||
    decide (256 ≤ (cqOf s p (cqOfRing s p h.ring.val)).held.length) || testHolds s (part s p) (opcodeOf b)

/-- Dispatch goes on in this state of the partition and the module (R381, R438, R387). -/
def dispatchOpen (s : State) (p : Nat) : Bool :=
  let m := (part s p).mode
  (m == .live || m == .faulted || m == .dead) && s.faults.mode != .boot && s.faults.mode != .computeReset

/-- A descriptor stays at the head of its ring's fetch buffer; one that waits for a reservation names its ranges there (R76). -/
def holdHead (s : State) (h : DescHdr) (b : DescBody) (waited : Bool) (names : List (Nat × Nat)) : State :=
  modSq s h.p.val h.ring.val (fun q =>
    { q with buffer := { h := h, body := b, waited := waited, names := names } :: q.buffer })

/-! Chained descriptors (R76) -/

/-- The chain flag of a descriptor, in the bit its table gives. -/
def chainFlag : DescBody → Bool
  | .copy o => bvBit o.flags 0
  | .fill o => bvBit o.flags 0
  | .accumulate o => bvBit o.flags 1
  | .accDrain o => bvBit o.flags 4
  | .statsSumsq o => bvBit o.flags 1
  | .statsMoments o => bvBit o.flags 1
  | .statsFinish o => bvBit o.flags 1
  | .statsRsqrt o => bvBit o.flags 1
  | .maskExpand o => bvBit o.flags 0
  | .ntt o => bvBit o.flags 1
  | .intt o => bvBit o.flags 1
  | .pmulMul o => bvBit o.flags 1
  | .pmulMac o => bvBit o.flags 1
  | .pmulSmul o => bvBit o.flags 1
  | .pmulFxmul o => bvBit o.flags 1
  | .baseconv o => bvBit o.flags 0
  | .ctAddFold o => bvBit o.flags 1
  | .ctAddAdd o => bvBit o.flags 1
  | .ctAddSub o => bvBit o.flags 1
  | .keyswitch o => bvBit o.flags 1
  | .rotate o => bvBit o.flags 1
  | .rescale o => bvBit o.flags 0
  | .modswitch o => bvBit o.flags 0
  | .dpNoise o => bvBit o.flags 0
  | .releaseAggregate o => bvBit o.flags 1
  | .releaseShare o => bvBit o.flags 1
  | .rmaWrite o => bvBit o.flags 0
  | .rmaRead o => bvBit o.flags 0
  | .rmaAdd o => bvBit o.flags 0
  | _ => false

/-- The descriptors of a ring in flight that have reserved exactly these ranges and are at work. -/
def sameTiles (s : State) (h : DescHdr) (rs : List (Nat × Nat)) : List InFlight :=
  (flying s h.p.val).filter (fun f => f.h.ring == h.ring && f.done.isNone && !f.reserved.isEmpty && sameRanges f.reserved rs)

/-- Entries of a submission ring. -/
def sqSize (s : State) (p r : Nat) : Nat := 2 ^ regField s (.sqCtrl p r) 20 16

/-- A descriptor is chained: its flag is set, and the one before it in its ring is at work on exactly the tiles it names (R76). -/
def isChained (s : State) (h : DescHdr) (b : DescBody) (rs : List (Nat × Nat)) : Bool :=
  chainFlag b &&
    (match (sameTiles s h rs).getLast? with
     | some f => f.h.slot == (h.slot + sqSize s h.p.val h.ring.val - 1) % sqSize s h.p.val h.ring.val
     | none => false)

/-- The reservations that stand before a descriptor: all of its partition's but, where it is chained, those of its chain (R76). -/
def standing (s : State) (h : DescHdr) (b : DescBody) (rs : List (Nat × Nat)) : List (Nat × Nat) :=
  ((flying s h.p.val).filter (fun f =>
    f.done.isNone && !(isChained s h b rs && f.h.ring == h.ring && sameRanges f.reserved rs))).flatMap (fun f => f.reserved)

/-! The tests of R215 -/

/-- What the tests of R215 and the module's state make of a descriptor: it runs with what it reserves, piece by piece where it is
chained (R76). -/
inductive Decision where
  | refused (st : Status)
  | waits (names : List (Nat × Nat))
  | runs (ranges : List (Nat × Nat)) (chained : Bool)
deriving DecidableEq, Repr

/-- The tests of R215 up to the reservation and, first of step 6, that of R237 (R215, R237, R438, R387, Table 16.7). -/
def decideDesc (s : State) (h : DescHdr) (b : DescBody) : Decision :=
  let x := part s h.p.val
  let op := opcodeOf b
  let limited := x.mode == .faulted || x.mode == .dead || s.faults.mode == .transitOnly || s.faults.mode == .moduleFault
  if h.gen ≠ x.gen then .refused stStale
  else if !opcodeKnown b then .refused stPolicy
  else if limited && !alwaysRuns op then .refused stReset
  else if !regimeAdmits x.regime op then .refused stPolicy
  else if s.faults.mode == .tripped && needsUnits op then .refused stReset
  else if !rangeOk x b then .refused stPolicy
  else
    let cs := claimsOf s h b
    let rs := reserveOf s h b cs
    if !(cs.all (claimOk x) && addressOk s h b) then .refused stAccess
    else if rangesMeet (rs ++ dramTouched s h b) (standing s h b rs) then .waits rs
    else if s.time.mode == .unset && needsTime op then .refused stPolicy
    else .runs rs (isChained s h b rs)

/-- A refused descriptor names memory of another partition only where a RANK names another's Sleeve; that is logged
(Table 18.10, code 0x69). -/
def logForeign (s : State) (h : DescHdr) (b : DescBody) (st : Status) : State :=
  match b with
  | .rank o =>
    if st = stAccess ∧ ((sleeveOwner s o.lapelSleeve).map (fun q => q != h.p.val)).getD false then
      logFault s { cls := 7, code := 0x69, p := h.p.val, tag := h.tag, opcode := 0x23, ring := h.ring.val }
    else s
  | _ => s

/-- The log entry behind the state that refuses descriptors: the partition's, else the module's (Table 8.13, R438, R387). -/
def stateRef (s : State) (p : Nat) : Nat :=
  if (part s p).mode = .faulted ∨ (part s p).mode = .dead then (part s p).faultRef else s.faults.entry

/-- The scopes that an event of a partition's command processor counts in: the partition, and the die whose command-processor block
serves it (R24, Table 17.5). -/
def servedBy (s : State) (p : Nat) : List (Nat × Nat) := [(1, p), (5, bit (part s p).onD1)]

/-! The end of a descriptor's passes -/

/-- The result of a descriptor whose passes are done (Table 3.5, R142, R158, R159, R184, R352). A ciphertext of which a pass was lost
is not completed. -/
def doneResult (s : State) (f : InFlight) : Nat :=
  if f.opcode = 0x20 ∨ f.opcode = 0x21 ∨ f.opcode = 0x22 ∨ f.opcode = 0x30 ∨ polyOp f.opcode then flightResult f
  else if f.opcode = 0x23 then f.result
  else if f.opcode = 0x52 then clipResult s f
  else if f.opcode = 0x58 then resultWord f.committed 0 0
  else resultWord (f.result - f.dropped.eraseDups.length) f.replays f.skipped

/-- A descriptor whose last pass has committed completes; a ciphertext descriptor writes its headers first, unless a pass was lost
(R101, R165). Those whose passes are submissions take what has ended (R181, R183). -/
def settlePasses (s : State) (id : Nat) : State :=
  match flight s id with
  | none => s
  | some f =>
    if f.done.isSome then s
    else
      match f.phase with
      | .running =>
        if subPasses f.opcode then runPassed s f
        else if !f.jobs.isEmpty then s
        else finishRef s id (doneStatus f) (doneResult s f) f.faultRef
      | .headers ws =>
        if !f.jobs.isEmpty then s
        else
          let s1 := if f.lost then s else writeHeaders s f.h.p.val ws
          finishRef s1 id (doneStatus f) (doneResult s f) f.faultRef
      | .zipRecv r t =>
        match f.body with
        | .zipRecv o => settleZipRecv s id f o r t
        | _ => s
      | _ => s

/-! Pieces of a chained descriptor (R76; log entry 90) -/

/-- How a chained descriptor is cut into pieces: one for each tile of a tile operator, each limb of a transform or product, each
tile of a product's long limb, each coefficient tile of a base conversion; any other is one piece. -/
def pieceCount : DescBody → Nat
  | .accumulate o => o.tileCount
  | .accDrain o => (o.elemCount + 4095) / 4096
  | .statsMoments o => o.tileCount
  | .statsFinish o => o.tileCount
  | .statsRsqrt o => o.tileCount
  | .maskExpand o => o.tileCount
  | .ntt o => o.limbCount
  | .intt o => o.limbCount
  | .pmulMul o => if 2 ^ 16 < o.elemCount then o.elemCount / 4096 else o.limbCount
  | .pmulMac o => if 2 ^ 16 < o.elemCount then o.elemCount / 4096 else o.limbCount
  | .pmulSmul o => if 2 ^ 16 < o.elemCount then o.elemCount / 4096 else o.limbCount
  | .pmulFxmul o => if 2 ^ 16 < o.elemCount then o.elemCount / 4096 else o.limbCount
  | .baseconv o => 2 ^ o.log2N / 4096
  | _ => 1

/-- Piece `i` of a tile operator as a descriptor of its own, with the tile range its engines are dealt over: first unit, units of a
tile and split (R79). -/
def tilePiece (s : State) (p : Nat) (b : DescBody) (i : Nat) : Option (DescBody × Nat × Nat × Nat) :=
  let stats := fun (o : StatsOps) (u : Nat) => { o with tileA := tileIx o.tileA + u * i, tileB := tileIx o.tileB + u * i, tileCount := 1 }
  match b with
  | .accumulate o =>
    let u := tileUnits (widthBits o.width)
    some (.accumulate { o with dstTile := tileIx o.dstTile + u * i, tileCount := 1, coordTile := o.coordTile + i },
      tileIx o.dstTile, u, o.splitWays)
  | .accDrain o =>
    let u := tileUnits (rangeWidth s p (tileIx o.srcTile))
    let dst := if bvBit o.flags 3 then o.dst + drainTileBytes s p o * i else tileIx o.dst + drainUnits s p o * i
    some (.accDrain { o with srcTile := tileIx o.srcTile + u * i, tileCount := 1, dst := dst, elemCount := min 4096 (o.elemCount - 4096 * i) },
      tileIx o.srcTile, u, 1)
  | .statsMoments o => some (.statsMoments (stats o 4), tileIx o.tileA, 4, 1)
  | .statsFinish o => some (.statsFinish (stats o 4), tileIx o.tileA, 4, 1)
  | .statsRsqrt o => some (.statsRsqrt (stats o 2), tileIx o.tileA, 2, 1)
  | .maskExpand o =>
    let u := tileUnits (policyBits (part s p))
    some (.maskExpand { o with dstTile := tileIx o.dstTile + u * i, tileCount := 1, coordTile := o.coordTile + i }, tileIx o.dstTile, u, 1)
  | _ => none

/-- The limbs' ranges that piece `i` of a polynomial operator names. -/
def limbPiece (b : DescBody) (i : Nat) : List (Nat × Nat) :=
  let pmul := fun (o : PmulOps) (bs : List Nat) =>
    let u := pmulUnits o
    let tu := limbUnits 4096 (laneBits o.laneMode)
    if 2 ^ 16 < o.elemCount then bs.map (fun a => (tileIx a + i * tu, tu)) else bs.map (fun a => (limbUnit a o.limbStride u i, u))
  match b with
  | .ntt o => [o.src, o.dst].map (fun a => (limbUnit a o.limbStride (nttUnits o) i, nttUnits o))
  | .intt o => [o.src, o.dst].map (fun a => (limbUnit a o.limbStride (nttUnits o) i, nttUnits o))
  | .pmulMul o => pmul o [o.a, o.b, o.dst]
  | .pmulMac o => pmul o [o.a, o.b, o.dst]
  | .pmulSmul o => pmul o [o.a, o.dst]
  | .pmulFxmul o => pmul o [o.a, o.b, o.dst]
  | .baseconv o =>
    (List.range o.inLimbs).map (fun j => (limbUnit o.src o.limbStride (baseUnits o) j + 4 * i, 4)) ++
      (List.range o.outLimbs).map (fun j => (limbUnit o.dst o.limbStride (baseUnits o) j + 4 * i, 4))
  | _ => []

/-- The units that piece `i` of a chained descriptor names. -/
def pieceUnits (s : State) (f : InFlight) (i : Nat) : List (Nat × Nat) :=
  if pieceCount f.body ≤ 1 then f.reserved
  else
    match tilePiece s f.h.p.val f.body i with
    | some e => claimRanges (claimsOf s f.h e.1)
    | none => limbPiece f.body i

/-- The units that a pass reads or has still to write. -/
def jobUnits (j : TileJob) : List (Nat × Nat) :=
  j.sources ++ j.targets.flatMap (fun t => claimRanges (byteClaims t.1 t.2.1.length none))

/-- The units that an earlier descriptor of the chain still holds: those of its passes and pieces, or all of them while it is not at
its passes. -/
def heldUnits (s : State) (f : InFlight) : List (Nat × Nat) :=
  match f.phase with
  | .running => f.jobs.flatMap jobUnits
  | .headers ws => f.jobs.flatMap jobUnits ++ ws.flatMap (fun w => claimRanges (byteClaims w.1 w.2.length none) ++ dramLines w.1 w.2.length)
  | .chained left => f.jobs.flatMap jobUnits ++ left.flatMap (pieceUnits s f)
  | _ => f.reserved

/-- An earlier descriptor of its chain still holds a tile of piece `i`. -/
def pieceWaits (s : State) (f : InFlight) (i : Nat) : Bool :=
  rangesMeet (pieceUnits s f i)
    (((sameTiles s f.h f.reserved).filter (fun g => decide (g.id < f.id))).flatMap (heldUnits s))

/-- The work of a piece: a tile operator's as a descriptor of its own, any other's among that of the whole. -/
def runPiece (s : State) (id : Nat) (h : DescHdr) (b : DescBody) (i : Nat) : State :=
  match tilePiece s h.p.val b i with
  | some (.statsMoments o, _) => startStatsAt i .moments s id h o
  | some (b', _) => runBody s id h b'
  | none => runBody s id h b

/-- A pass of piece `i` of a descriptor: a tile operator's goes to the engines that the whole range gives it (R79). -/
def pieceJobs (s : State) (f : InFlight) (i : Nat) (js : List TileJob) : List TileJob :=
  match tilePiece s f.h.p.val f.body i with
  | some (_, first, units, split) =>
    let e := groupEngine s f.h.p.val (first + i * units) split (rankInSleeve s f.h.p.val first units i)
    js.map (fun j => { j with engine := e, group := groupRest s e split, item := i })
  | none => js.filter (fun j => j.item == i)

/-- A chained descriptor's passes are added to its own, and idle engines begin them. -/
def addPiece (s t : State) (f g : InFlight) (i : Nat) : State :=
  let js := pieceJobs s f i g.jobs
  let s1 := { s with parts := t.parts, dbg := t.dbg, freeCtr := t.freeCtr }
  let skips := if polyOp f.opcode then 0 else g.skipped
  let s2 := modFlight s1 f.id (fun x => { x with
    jobs := x.jobs ++ js, skipped := x.skipped + skips,
    phase := match x.phase with
             | .chained left => .chained (left.erase i)
             | ph => ph })
  (idleEngines s (js.flatMap TileJob.engines)).foldl beginNext s2

/-- A chained descriptor takes piece `i` where no earlier descriptor of its chain holds a tile of it: the state checks are made on
what has been committed, and one that fails ends the descriptor with that status once the pieces taken have committed. -/
def takePiece (id : Nat) (s : State) (i : Nat) : State :=
  match flight s id with
  | none => s
  | some f =>
    if f.chaining = false ∨ pieceWaits s f i then s
    else if pieceCount f.body ≤ 1 then startBody (waitIn s id .running) id f.h f.body
    else
      let t := runPiece (modFlight s id (fun x => { x with jobs := [], skipped := 0, phase := .running })) id f.h f.body i
      match flight t id with
      | none => s
      | some g =>
        match g.done with
        | some d => if d.status = stOk then addPiece s t f { g with jobs := [] } i
                    else modFlight s id (fun x => { x with failed := some d.status, phase := .chained [] })
        | none => if g.phase = .running then addPiece s t f g i else s

/-- Engines of a partition's passes. -/
def flightEngines (s : State) (p : Nat) : List Nat := ((flying s p).flatMap (fun f => f.jobs.flatMap TileJob.engines)).eraseDups

/-- A chained descriptor that has taken its last piece holds no later one back any longer: idle engines go on (R125). -/
def endChain (s : State) (id p : Nat) : State :=
  let idle := idleEngines s (flightEngines s p)
  idle.foldl beginNext (settlePasses (waitIn s id .running) id)

/-- A chained descriptor takes what it can (R76). -/
def takePieces (s : State) (id : Nat) : State :=
  match flight s id with
  | none => s
  | some f =>
    match f.phase with
    | .chained left =>
      let s1 := left.foldl (takePiece id) s
      match flight s1 id with
      | some g => if g.phase = .chained [] then endChain s1 id f.h.p.val else s1
      | none => s1
    | _ => s

/-! Dispatch -/

/-- One descriptor at its dispatch slot (R76, R215, R222, R223). -/
def dispatchDesc (h : DescHdr) (b : DescBody) (s : State) : State :=
  let p := h.p.val
  if !dispatchOpen s p then s
  else if heldBack s h b then holdHead s h b false []
  else
    let id := s.nextId
    match decideDesc s h b with
    | .waits rs => holdHead (countEvent s 14 (servedBy s p) 1) h b true rs
    | .refused st =>
      let s1 := logForeign s h b st
      let ref := if s1.faults.head ≠ s.faults.head then faultRef s1 else if st = stReset then stateRef s p else 0
      finishRef (enter (countEvent s1 1 (servedBy s p) 1) h b []) id st 0 ref
    | .runs rs chained =>
      let s1 := enter (countEvent s 1 (servedBy s p) 1) h b rs
      if chained then takePieces (waitIn s1 id (.chained (List.range (pieceCount b)))) id
      else startBody s1 id h b

/-! Going on -/

/-- A descriptor that waited for its numbers, or for what fills them, goes on (R79, R164, R181, R183, R184). -/
def resumeNumbers (s : State) (f : InFlight) : State :=
  let x := part s f.h.p.val
  let ready := fun (k : WinKind) (round first count : Nat) =>
    (windowFor x k round).filter (fun w => rangeReady w first count)
  match f.body with
  | .accumulate o =>
    match ready .submit o.src o.first o.count with
    | some w => accWindow s f.id f.h o w
    | none => s
  | .statsSumsq o => if (ready .submit o.src o.first o.count).isSome then startStats .sumsq s f.id f.h o else s
  | .statsMoments o => if (ready .submit o.src o.first o.count).isSome then startStats .moments s f.id f.h o else s
  | .ctAddFold o =>
    match ready .submit o.a o.seqFirst o.seqCount with
    | some w => foldReady s f.id f.h o w
    | none => s
  | .kemSealed o =>
    match ready .submit o.roundId o.seqFirst o.seqCount with
    | some w => decapReady s f.id f.h o w
    | none => s
  | .kemBundle o =>
    match ready .recover o.roundId o.seqFirst o.seqCount with
    | some w => bundlesReady s f.id f.h o w
    | none => s
  | .sealedOpen o =>
    match ready .submit o.roundId o.seqFirst o.seqCount with
    | some w => openReady s f.id f.h o w
    | none => s
  | .clip o =>
    match ready .submit o.roundId o.seqFirst o.seqCount with
    | some w => clipReady s f.id f.h o w
    | none => s
  | _ => s

/-- A waiting descriptor goes on where what it waits for is there. -/
def resumeOne (s : State) (f : InFlight) : State :=
  if f.done.isSome then s
  else
    match f.phase with
    | .numbers => resumeNumbers s f
    | .keyWait => if (rmaOps f.body).isSome then s else startBody s f.id f.h f.body
    | .noiseStall _ => if samplersRun s f.h.p.val then resumeNoise s f else s
    | .chained _ => takePieces s f.id
    | .running => if subPasses f.opcode then runPassed s f else s
    | _ => s

/-- Every waiting descriptor of a partition, in dispatch order. -/
def resumeAll (s : State) (p : Nat) : State :=
  ((flying s p).map (fun f => f.id)).foldl (fun t id =>
    match flight t id with
    | some f => resumeOne t f
    | none => t) s

/-- A RECOVER WINDOW_OPEN that waited is decided once nothing stands before it (R121, R241). -/
def resumeOpens (s : State) (p : Nat) : State :=
  ((flying s p).map (fun f => f.id)).foldl (fun t id =>
    match flight t id with
    | some f =>
      match f.body, f.phase with
      | .windowOpen o, .recoverWait => startWindowOpen t id f.h o
      | _, _ => t
    | none => t) s

end Sys2Proof.Machine
end

