-- ==== Sys2Proof/Machine/DescriptorRows.lean ====
section
/-! DEFINITION. The commands that are descriptors: each is dispatched with its operands (R214, R215). -/

namespace Sys2Proof.Machine

/-- NOP at its dispatch slot (R216). -/
def execNop (h : DescHdr) (s : State) : Out := .next (dispatchDesc h .nop s)

/-- FENCE at its dispatch slot (R217). -/
def execFence (h : DescHdr) (o : FenceOps) (s : State) : Out := .next (dispatchDesc h (.fence o) s)

/-- WAIT_FT at its dispatch slot (R218). -/
def execWaitFt (h : DescHdr) (o : WaitFtOps) (s : State) : Out := .next (dispatchDesc h (.waitFt o) s)

/-- HINT at its dispatch slot (R219). -/
def execHint (h : DescHdr) (o : HintOps) (s : State) : Out := .next (dispatchDesc h (.hint o) s)

/-- COPY at its dispatch slot (R220). -/
def execCopy (h : DescHdr) (o : MoveOps) (s : State) : Out := .next (dispatchDesc h (.copy o) s)

/-- FILL at its dispatch slot (R220). -/
def execFill (h : DescHdr) (o : MoveOps) (s : State) : Out := .next (dispatchDesc h (.fill o) s)

/-- WINDOW_OPEN at its dispatch slot (R241). -/
def execWindowOpen (h : DescHdr) (o : WindowOpenOps) (s : State) : Out := .next (dispatchDesc h (.windowOpen o) s)

/-- WINDOW_CLOSE at its dispatch slot (R243). -/
def execWindowClose (h : DescHdr) (o : WindowCloseOps) (s : State) : Out := .next (dispatchDesc h (.windowClose o) s)

/-- INGEST at its dispatch slot (R221). -/
def execIngest (h : DescHdr) (o : IngestOps) (s : State) : Out := .next (dispatchDesc h (.ingest o) s)

/-- ACCUMULATE at its dispatch slot (R79). -/
def execAccumulate (h : DescHdr) (o : AccOps) (s : State) : Out := .next (dispatchDesc h (.accumulate o) s)

/-- ACC_DRAIN at its dispatch slot (R82). -/
def execAccDrain (h : DescHdr) (o : DrainOps) (s : State) : Out := .next (dispatchDesc h (.accDrain o) s)

/-- STATS_SUMSQ at its dispatch slot (R84). -/
def execStatsSumsq (h : DescHdr) (o : StatsOps) (s : State) : Out := .next (dispatchDesc h (.statsSumsq o) s)

/-- STATS_MOMENTS at its dispatch slot (R84). -/
def execStatsMoments (h : DescHdr) (o : StatsOps) (s : State) : Out := .next (dispatchDesc h (.statsMoments o) s)

/-- STATS_FINISH at its dispatch slot (R85). -/
def execStatsFinish (h : DescHdr) (o : StatsOps) (s : State) : Out := .next (dispatchDesc h (.statsFinish o) s)

/-- STATS_RSQRT at its dispatch slot (R85). -/
def execStatsRsqrt (h : DescHdr) (o : StatsOps) (s : State) : Out := .next (dispatchDesc h (.statsRsqrt o) s)

/-- RANK at its dispatch slot (R86). -/
def execRank (h : DescHdr) (o : RankOps) (s : State) : Out := .next (dispatchDesc h (.rank o) s)

/-- ZIP_SEND at its dispatch slot (R92). -/
def execZipSend (h : DescHdr) (o : ZipSendOps) (s : State) : Out := .next (dispatchDesc h (.zipSend o) s)

/-- ZIP_RECV at its dispatch slot (R93). -/
def execZipRecv (h : DescHdr) (o : ZipRecvOps) (s : State) : Out := .next (dispatchDesc h (.zipRecv o) s)

/-- MASK_EXPAND at its dispatch slot (R119). -/
def execMaskExpand (h : DescHdr) (o : MaskOps) (s : State) : Out := .next (dispatchDesc h (.maskExpand o) s)

/-- SHARE_RECON at its dispatch slot (R117). -/
def execShareRecon (h : DescHdr) (o : ShareOps) (s : State) : Out := .next (dispatchDesc h (.shareRecon o) s)

/-- SEED_DERIVE_GRAPH at its dispatch slot (R104). -/
def execSeedDeriveGraph (h : DescHdr) (o : SeedOps) (s : State) : Out := .next (dispatchDesc h (.seedGraph o) s)

/-- SEED_DERIVE_DERIVE at its dispatch slot (R111). -/
def execSeedDeriveDerive (h : DescHdr) (o : SeedOps) (s : State) : Out := .next (dispatchDesc h (.seedDerive o) s)

/-- NTT at its dispatch slot (R137). -/
def execNtt (h : DescHdr) (o : NttOps) (s : State) : Out := .next (dispatchDesc h (.ntt o) s)

/-- INTT at its dispatch slot (R137). -/
def execIntt (h : DescHdr) (o : NttOps) (s : State) : Out := .next (dispatchDesc h (.intt o) s)

/-- PMUL_MUL at its dispatch slot (R140). -/
def execPmulMul (h : DescHdr) (o : PmulOps) (s : State) : Out := .next (dispatchDesc h (.pmulMul o) s)

/-- PMUL_MAC at its dispatch slot (R140). -/
def execPmulMac (h : DescHdr) (o : PmulOps) (s : State) : Out := .next (dispatchDesc h (.pmulMac o) s)

/-- PMUL_SMUL at its dispatch slot (R140). -/
def execPmulSmul (h : DescHdr) (o : PmulOps) (s : State) : Out := .next (dispatchDesc h (.pmulSmul o) s)

/-- PMUL_FXMUL at its dispatch slot (R140). -/
def execPmulFxmul (h : DescHdr) (o : PmulOps) (s : State) : Out := .next (dispatchDesc h (.pmulFxmul o) s)

/-- BASECONV at its dispatch slot (R143). -/
def execBaseconv (h : DescHdr) (o : BaseOps) (s : State) : Out := .next (dispatchDesc h (.baseconv o) s)

/-- CT_ADD_FOLD at its dispatch slot (R165). -/
def execCtAddFold (h : DescHdr) (o : CtAddOps) (s : State) : Out := .next (dispatchDesc h (.ctAddFold o) s)

/-- CT_ADD_ADD at its dispatch slot (R164). -/
def execCtAddAdd (h : DescHdr) (o : CtAddOps) (s : State) : Out := .next (dispatchDesc h (.ctAddAdd o) s)

/-- CT_ADD_SUB at its dispatch slot (R164). -/
def execCtAddSub (h : DescHdr) (o : CtAddOps) (s : State) : Out := .next (dispatchDesc h (.ctAddSub o) s)

/-- KEYSWITCH at its dispatch slot (R168). -/
def execKeyswitch (h : DescHdr) (o : KsOps) (s : State) : Out := .next (dispatchDesc h (.keyswitch o) s)

/-- ROTATE at its dispatch slot (R169). -/
def execRotate (h : DescHdr) (o : KsOps) (s : State) : Out := .next (dispatchDesc h (.rotate o) s)

/-- RESCALE at its dispatch slot (R173). -/
def execRescale (h : DescHdr) (o : RescaleOps) (s : State) : Out := .next (dispatchDesc h (.rescale o) s)

/-- MODSWITCH at its dispatch slot (R174). -/
def execModswitch (h : DescHdr) (o : RescaleOps) (s : State) : Out := .next (dispatchDesc h (.modswitch o) s)

/-- PARTIAL_DEC at its dispatch slot (R178). -/
def execPartialDec (h : DescHdr) (o : PartialOps) (s : State) : Out := .next (dispatchDesc h (.partialDec o) s)

/-- KEM_DECAP_SEALED at its dispatch slot (R181). -/
def execKemDecapSealed (h : DescHdr) (o : KemOps) (s : State) : Out := .next (dispatchDesc h (.kemSealed o) s)

/-- KEM_DECAP_BUNDLE at its dispatch slot (R181). -/
def execKemDecapBundle (h : DescHdr) (o : KemOps) (s : State) : Out := .next (dispatchDesc h (.kemBundle o) s)

/-- SEALED_OPEN at its dispatch slot (R183). -/
def execSealedOpen (h : DescHdr) (o : SealedOps) (s : State) : Out := .next (dispatchDesc h (.sealedOpen o) s)

/-- CLIP at its dispatch slot (R184). -/
def execClip (h : DescHdr) (o : SealedOps) (s : State) : Out := .next (dispatchDesc h (.clip o) s)

/-- DP_NOISE at its dispatch slot (R352). -/
def execDpNoise (h : DescHdr) (o : NoiseOps) (s : State) : Out := .next (dispatchDesc h (.dpNoise o) s)

/-- RELEASE_AGGREGATE at its dispatch slot (R54). -/
def execReleaseAggregate (h : DescHdr) (o : ReleaseOps) (s : State) : Out := .next (dispatchDesc h (.releaseAggregate o) s)

/-- RELEASE_SHARE at its dispatch slot (R60). -/
def execReleaseShare (h : DescHdr) (o : ReleaseOps) (s : State) : Out := .next (dispatchDesc h (.releaseShare o) s)

/-- RMA_WRITE at its dispatch slot (R289). -/
def execRmaWrite (h : DescHdr) (o : RmaOps) (s : State) : Out := .next (dispatchDesc h (.rmaWrite o) s)

/-- RMA_READ at its dispatch slot (R291). -/
def execRmaRead (h : DescHdr) (o : RmaOps) (s : State) : Out := .next (dispatchDesc h (.rmaRead o) s)

/-- RMA_ADD at its dispatch slot (R292). -/
def execRmaAdd (h : DescHdr) (o : RmaOps) (s : State) : Out := .next (dispatchDesc h (.rmaAdd o) s)

/-- ATTEST at its dispatch slot (R334). -/
def execAttest (h : DescHdr) (o : AttestOps) (s : State) : Out := .next (dispatchDesc h (.attest o) s)

/-- KEY_IMPORT at its dispatch slot (R331). -/
def execKeyImport (h : DescHdr) (o : KeyImportOps) (s : State) : Out := .next (dispatchDesc h (.keyImport o) s)

/-- KEY_DESTROY at its dispatch slot (R332). -/
def execKeyDestroy (h : DescHdr) (o : KeyDestroyOps) (s : State) : Out := .next (dispatchDesc h (.keyDestroy o) s)

/-- MODEL_UNSEAL at its dispatch slot (R337). -/
def execModelUnseal (h : DescHdr) (o : ModelOps) (s : State) : Out := .next (dispatchDesc h (.modelUnseal o) s)

/-- MODEL_SEAL at its dispatch slot (R338). -/
def execModelSeal (h : DescHdr) (o : ModelOps) (s : State) : Out := .next (dispatchDesc h (.modelSeal o) s)

end Sys2Proof.Machine
end

