-- ==== Sys2Proof/Machine/Pool.lean ====
section
/-! DEFINITION. The entropy sources, the pool and its generators (R340 to R349, R437), and the draw of the root secret that waits
for them (R318). -/

namespace Sys2Proof.Machine

/-- A source. -/
def sourceOf (s : State) (v : Nat) : Source := tabGet {} s.entropy.sources v

/-- Change a source. -/
def modSource (s : State) (v : Nat) (f : Source → Source) : State :=
  { s with entropy := { s.entropy with sources := tabMap {} s.entropy.sources v f } }

/-- A generator instance (Table 14.3). -/
def drbgOf (s : State) (i : Nat) : Drbg := tabGet {} s.entropy.drbgs i

/-- The sources that are HEALTHY. -/
def healthySources (s : State) : List Nat := (List.range 16).filter (fun v => (sourceOf s v).mode == .healthy)

/-- The pool changes state: pool_change sets and the operator interrupt is sent (R348). -/
def poolTo (s : State) (m : PoolMode) : State :=
  if s.entropy.pool = m then s
  else raiseIrq (setStatusBits { s with entropy := { s.entropy with pool := m } } .entStat 4) 8

/-! Words of ENT_DATA (R348) -/

/-- The words ready before this instant: one that becomes ready at it is not yet (R348). -/
def readyWords (s : State) : Nat :=
  if (drbgOf s 17).running then min 64 (s.entropy.ready + (now s - s.entropy.readyFrom - 1) / 10) else s.entropy.ready

/-- The count of ready words is taken at this instant. -/
def settleWords (s : State) : State :=
  let n := if (drbgOf s 17).running then min 64 (s.entropy.ready + (now s - s.entropy.readyFrom) / 10) else s.entropy.ready
  { s with entropy := { s.entropy with ready := n, readyFrom := now s } }

/-! Instances (R345, R346) -/

/-- Change a generator instance. -/
def setDrbg (s : State) (i : Nat) (d : Drbg) : State :=
  { s with entropy := { s.entropy with drbgs := tabSet s.entropy.drbgs i d } }

/-- Every instance stops at once (Table 14.4). -/
def stopInstances (s : State) : State :=
  let s1 := settleWords s
  { s1 with entropy := { s1.entropy with drbgs := s1.entropy.drbgs.map (fun e => (e.1, { e.2 with running := false })) } }

/-- Every instance that is seeded serves its consumer. -/
def startInstances (s : State) : State :=
  let s1 := settleWords s
  { s1 with entropy := { s1.entropy with drbgs := s1.entropy.drbgs.map (fun e => (e.1, { e.2 with running := e.2.seeded })) } }

/-- The personalization string of an instance: its number in byte 0 (R345). -/
def personalization (i : Nat) : Bytes := natLe 48 i

/-! The root secret (R318) -/

/-- The provision command goes on: the root secret is drawn and programmed, and checked. -/
def drawRoot (s : State) (checkOk : Bool) : State :=
  let root := freeBytes s 32
  let s1 := { s with collar := { s.collar with provisioning := none } }
  spendFree
    (if checkOk then { s1 with otp := { s1.otp with root := root, lifeCycle := .provisioned, testAccess := true } }
    else { s1 with otp := { s1.otp with root := root }, collar := { s1.collar with bootStatus := 12 } })

/-- The pool delivers from live sources: a provision that waited goes on. -/
def finishProvision (s : State) : State :=
  match s.collar.provisioning with
  | some ok => if s.entropy.pool = .delivering ∧ s.otp.lifeCycle = .blank then drawRoot s ok else s
  | none => s

/-- The sources, the combiner and the instances start again as from OFF; a source that is ABSENT or RETIRED stays so (R346, R349). -/
def restartEntropy (s : State) : State :=
  let s1 := stopInstances s
  let src := s1.entropy.sources.map (fun e =>
    (e.1, if e.2.mode = .absent ∨ e.2.mode = .retired then e.2
          else ({ failures := e.2.failures, lastTest := e.2.lastTest, mode := .warmup } : Source)))
  { s1 with entropy := { s1.entropy with sources := src, drbgs := [], poolIndex := 0, poolBytes := [], nextInstance := 0 } }

/-- The test-pattern fuse is blown: a pattern in use ends, and the sources warm up again (Table 14.4). -/
def endPattern (s : State) : State :=
  if s.entropy.pool = .test then
    poolTo (restartEntropy s) .startup
  else s

/-! Starting and resuming -/

/-- Start-up is over (Table 14.4): no source is in WARMUP, four are HEALTHY and every instance is seeded. -/
def poolReady (s : State) : Bool :=
  !(List.range 16).any (fun v => (sourceOf s v).mode == .warmup || (sourceOf s v).mode == .off) &&
    decide (4 ≤ (healthySources s).length) && (List.range 18).all (fun i => (drbgOf s i).seeded)

/-- What waits for noise goes on where its samplers are served again (R347). -/
def resumeNoises (s : State) : State := (List.range 16).foldl resumeAll s

/-- The pool leaves STARTUP once its conditions hold. -/
def poolAdvance (s : State) : State :=
  if s.entropy.pool = .startup ∧ poolReady s then finishProvision (resumeNoises (startInstances (poolTo s .delivering))) else s

/-! Sources (R341 to R343) -/

/-- The 256 bytes of raw block `n` of source `v` under the test pattern (R349). -/
def patternBlock (s : State) (v n : Nat) : Bytes :=
  slice (shake128 (ascii "BA16/tp/v1" ++ natLe 7 (regField s .entTpCtrl 63 8) ++ natLe 1 v) (256 * n + 256)) (256 * n) 256

/-- A conditioned block (R341). -/
def conditioned (v n : Nat) (raw : Bytes) : Bytes := sha3 (ascii "BA16/cond/v1" ++ natLe 1 v ++ natLe 8 n ++ fit 256 raw)

/-- A source conditions a raw block: in WARMUP it is counted and discarded, from a HEALTHY one it waits for the combiner from the
pool block on that the source joins (R341, R343, R344). -/
def sourceBlock (s : State) (v : Nat) (raw : Bytes) : State :=
  let x := sourceOf s v
  let b := conditioned v x.blockCounter (if s.entropy.pool = .test then patternBlock s v x.blockCounter else raw)
  match x.mode with
  | .warmup => modSource s v (fun y => { y with blockCounter := y.blockCounter + 1, warmBlocks := y.warmBlocks + 1 })
  | .healthy =>
    modSource s v (fun y =>
      { y with blockCounter := y.blockCounter + 1, blocks := if y.joins ≤ s.entropy.poolIndex then y.blocks ++ [b] else y.blocks })
  | _ => s

/-- Healthy sources have fallen below four: every instance stops (Table 14.4, R437). -/
def stallPool (s : State) (v : Nat) : State :=
  if s.entropy.pool = .delivering ∧ (healthySources s).length < 4 then
    logFault (poolTo (stopInstances s) .stalled) { cls := 3, code := 0x25, unitKind := 9, unitIndex := v }
  else s

/-- A health test fails (R342, R343, R437): the source goes FAILED, or RETIRED at its third failure, and its undelivered blocks are
discarded. -/
def sourceFails (s : State) (v test : Nat) : State :=
  let x := sourceOf s v
  if x.mode ≠ .warmup ∧ x.mode ≠ .healthy then s
  else
    let third := decide (3 ≤ x.failures + 1)
    let s1 := modSource s v (fun y =>
      { y with mode := if third then .retired else .failed, failures := y.failures + 1, lastTest := BitVec.ofNat 3 (2 ^ test),
               blocks := [], warmBlocks := 0, failedAt := now s })
    let s2 := logFault s1 { cls := if third then 3 else 2, code := if third then 0x24 else 0x16, unitKind := 9, unitIndex := v }
    poolAdvance (stallPool s2 v)

/-- One second after its failure a source with fewer than three warms up again (Table 14.2). -/
def retrySource (s : State) (v : Nat) : State :=
  let x := sourceOf s v
  if x.mode = .failed ∧ x.failures < 3 then
    modSource (reach s (x.failedAt + 1000000000)) v (fun y => { y with mode := .warmup, warmBlocks := 0 })
  else s

/-- A source with 16 warm-up blocks is HEALTHY: it contributes from the next pool block (R343, R344), and the fourth of a stalled
pool restarts the rotation (Table 14.4). -/
def sourceWarm (s : State) (v : Nat) : State :=
  let x := sourceOf s v
  if x.mode ≠ .warmup ∨ x.warmBlocks < 16 then s
  else
    let runs := decide (4 ≤ (healthySources s).length)
    let s1 := modSource s v (fun y =>
      { y with mode := .healthy, warmBlocks := 0, joins := if runs then s.entropy.poolIndex + 1 else s.entropy.poolIndex })
    if s1.entropy.pool = .stalled ∧ 4 ≤ (healthySources s1).length then
      finishProvision (poolTo { s1 with entropy := { s1.entropy with nextInstance := 0 } } .delivering)
    else poolAdvance s1

/-! The combiner and the rotation (R344, R345) -/

/-- The combiner forms the next pool block once each source that was HEALTHY at its start has delivered its block (R344). -/
def poolBlock (s : State) : State :=
  let vs := (healthySources s).filter (fun v => decide ((sourceOf s v).joins ≤ s.entropy.poolIndex))
  if (healthySources s).length < 4 ∨ vs.isEmpty ∨ vs.any (fun v => (sourceOf s v).blocks.isEmpty) then s
  else
    let b := vs.foldl (fun acc v => xorBytes acc ((sourceOf s v).blocks.headD [])) (zeros 32)
    let s1 := vs.foldl (fun t v => modSource t v (fun y => { y with blocks := y.blocks.drop 1 })) s
    { s1 with entropy := { s1.entropy with poolIndex := s1.entropy.poolIndex + 1, poolBytes := s1.entropy.poolBytes ++ b } }

/-- A generator after its (re)seed (R345): instantiated from 384 bits of the pool and its personalization string. How much an
instance has generated since is given by nothing, so its state after a reseed is free. -/
def seeded (s : State) (i : Nat) (material : Bytes) (serves : Bool) : Drbg :=
  if (drbgOf s i).seeded then
    { key := freeBytes s 32, v := (freeBytes s 48).drop 32, seeded := true, running := serves }
  else
    let r := drbgUpdate (xorBytes material (personalization i)) (zeros 32) (zeros 16)
    { key := r.1, v := r.2, seeded := true, running := serves }

/-- The next instance of the rotation is reseeded from 1.5 pool blocks (R345); after a stall it serves its consumer again. -/
def reseed (s : State) : State :=
  let i := s.entropy.nextInstance
  let serves := s.entropy.pool == .delivering || s.entropy.pool == .test
  if s.entropy.poolBytes.length < 48 ∨ s.entropy.pool = .off ∨ s.entropy.pool = .stalled then s
  else
    let s1 := settleWords s
    let s2 := setDrbg s1 i (seeded s1 i (s1.entropy.poolBytes.take 48) serves)
    let s3 := spendFree { s2 with entropy := { s2.entropy with
      poolBytes := s2.entropy.poolBytes.drop 48, nextInstance := (i + 1) % 18 } }
    poolAdvance (resumeNoises s3)

/-! Registers (R348, R349) -/

/-- A read of ENT_DATA: a word, a free value, or 0 with err set (R348). -/
def readWord (s : State) : State :=
  if s.entropy.pool = .delivering ∧ 0 < readyWords s then
    let s1 := settleWords s
    spendFree (emit { s1 with entropy := { s1.entropy with ready := s1.entropy.ready - 1 } }
      (.readData (BitVec.ofNat 64 (freeNat s 8))))
  else emit (setStatusBits s .entStat 2) (.readData 0#64)

/-- A write of ENT_TP_CTRL in BLANK with the fuse intact; else it is ignored (R349). Setting enable starts every present source
again from OFF on the pattern, clearing it starts them on live bits. -/
def writePattern (s : State) (v : Nat) : State :=
  if s.otp.lifeCycle ≠ .blank ∨ s.otp.testPattern then s
  else
    let s1 := setReg s .entTpCtrl (v / 256 * 256 + v % 2)
    if v % 2 = 0 then endPattern s1
    else if s1.entropy.pool = .test then s1
    else
      poolTo (restartEntropy s1) .test

end Sys2Proof.Machine
end

