-- ==== Sys2Proof/Machine/EntropyRows.lean ====
section
/-! DEFINITION. The commands of the entropy sources, the pool and the ENT_ registers (R341 to R349). -/

namespace Sys2Proof.Machine

/-- The first descriptor of a partition whose noise has stalled: 100 ms after it began, it ends (R347). -/
def stallExpires (s : State) (p : Nat) : State :=
  match (flying s p).find? (fun f => f.done.isNone && (match f.phase with | .noiseStall _ => f.stallFrom.isSome | _ => false)) with
  | none => s
  | some f => entropyExpired (reach s (f.stallFrom.getD 0 + 100000000)) f

/-- ENTROPY_BLOCK (R341). -/
def execEntropyBlock (source : Fin 16) (raw : Bytes) (s : State) : Out := .next (sourceBlock s source.val raw)

/-- HEALTH_TEST_FAIL (R343). -/
def execHealthTestFail (source : Fin 16) (test : Fin 3) (s : State) : Out := .next (sourceFails s source.val test.val)

/-- SOURCE_RETRY_TIMER (R343). -/
def execSourceRetryTimer (source : Fin 16) (s : State) : Out := .next (retrySource s source.val)

/-- SOURCE_WARMUP_DONE (R343). -/
def execSourceWarmupDone (source : Fin 16) (s : State) : Out := .next (sourceWarm s source.val)

/-- POOL_BLOCK (R344). -/
def execPoolBlock (s : State) : Out := .next (poolBlock s)

/-- DRBG_RESEED (R345). -/
def execDrbgReseed (s : State) : Out := .next (reseed s)

/-- ENTROPY_STALL_TIMEOUT (R347). -/
def execEntropyStallTimeout (p : Fin 16) (s : State) : Out := .next (stallExpires s p.val)

/-- ENT_DATA_READ (R348). -/
def execEntDataRead (s : State) : Out := .next (gate s (readWord s))

/-- ENT_TP_ENABLE (R349). -/
def execEntTpEnable (value : Word) (s : State) : Out := .next (gate s (writePattern s value.toNat))

end Sys2Proof.Machine
end

