-- ==== Sys2Proof/Machine/Completion.lean ====
section
/-! DEFINITION. Passes, commits and completions (R78, R80, R100, R142, R196, R224, R226, R403). -/

namespace Sys2Proof.Machine

/-! Passes -/

/-- Count what a pass took: engine time in the partition's record (Table 12.9), and the debug counters. Cycles are those
of the slot's running frequency code, in 10 MHz; stalls, Pocket reads and filler are free values (Table 17.4). -/
def countPass (p : Nat) (j : TileJob) (s : State) (l : Nat) : State :=
  let ns := now s - j.startFt
  let n := (slotOfEngine s l).getD 0
  let scopes := [(1, p), (2, l / 8), (5, l / 64)]
  let s1 := if j.replays = 0 then modUsage s p (fun u => { u with engineNs := satAdd u.engineNs ns }) else s
  let s2 := countEvent s1 3 scopes (ns * min (slotOf s n).op (slotOf s n).ceiling / 100)
  spendFree ([4, 5, 7, 16].foldl (fun t ev => countEvent t ev scopes (freeNat t 4)) s2)

/-- Errors that ECC corrected in the Cuff of an engine's slot during a pass: each is counted and logged (R129, Table 18.10). -/
def correctCuff (s : State) (l corrected : Nat) : State :=
  match slotOfEngine s l with
  | none => s
  | some n =>
    (List.range corrected).foldl (fun t _ =>
      logFault (modSlot t n (fun x => { x with corrected := x.corrected + 1 })) { cls := 1, code := 0x01, unitKind := 1, unitIndex := n }) s

/-- The pass that engine `l` runs as the first of its group, with its descriptor: every engine of the group has come to it, and none
still stalls on a tile that has not committed (R78, R79). -/
def runningPass (s : State) (l : Nat) : Option (InFlight × TileJob) :=
  (firstPass s l (fun j => !j.passDone)).filter (fun e =>
    e.2.engine == l && e.2.engines.all (fun k => atPass s e.1 e.2 k && (firstPass s k (fun i => i.passDone)).isNone))

/-- The slots that run a pass. -/
def passSlots (s : State) (j : TileJob) : List Nat := j.engines.filterMap (slotOfEngine s)

/-- The pass of an engine ends (R78): the sets of each engine of its group swap roles and their next passes begin. One that ran again
after a mismatch counts as a replayed pass (R145). -/
def endPass (s : State) (f : InFlight) (j : TileJob) : State :=
  let s1 := j.engines.foldl (countPass f.h.p.val j) s
  let s2 := modPass (modFlight s1 f.id (fun g =>
      { g with replays := g.replays + bit j.mismatched,
               touched := g.touched ++ (passSlots s j).filter (fun n => !g.touched.contains n) }))
    f.id j.engine (fun i => { i with passDone := true })
  j.engines.foldl beginNext s2

/-- A pass whose check residues differ for the first time: its outputs are discarded, the mismatch is logged and counted, and the
pass runs again on the same slot (R145). Table 18.10 has no code for it: the code is a free value (log entry 107). -/
def rerunPass (s : State) (f : InFlight) (j : TileJob) : State :=
  let s1 := j.engines.foldl (countPass f.h.p.val j) s
  let r : Report :=
    { cls := 1, code := freeNat s1 1, p := f.h.p.val, unitKind := 1, unitIndex := (slotOfEngine s j.engine).getD 0, tag := f.h.tag,
      opcode := f.opcode, ring := f.h.ring.val, detail := j.engine }
  modPass (modFlight (logFault (spendFree s1) r) f.id (fun g => { g with skipped := g.skipped + 1 })) f.id j.engine
    (fun i => { i with mismatched := true, replays := i.replays + 1, startFt := now s })

/-- The operators whose passes form base conversions under the check residue (R145, R159). -/
def checksResidue (op : Nat) : Bool := op == 0x48 || op == 0x44 || op == 0x45

/-! Commits -/

/-- Coordinate tiles of a submission of a window: those of the policy's dimension, or of a ciphertext's two parts (R196). -/
def wholeTiles (x : Partition) (w : Window) : Nat :=
  if x.regime = 2 then
    let r := ringOf w.paramBlock
    2 * r.chain * (r.size / 4096)
  else coordTiles x

/-- A summand of a round has been folded into one more coordinate tile: with the last its landing slot, or in the sealed regime its
staging slot, is free (R183, R196). The window of another round has its own summands. -/
def consumeOne (p round coordinate : Nat) (s : State) (n : Nat) : State :=
  match (part s p).submit.filter (fun w => w.roundId == round) with
  | none => s
  | some w =>
    let s1 := modSub s p .submit n (fun b =>
      { b with consumed := if b.consumed.contains coordinate then b.consumed else b.consumed ++ [coordinate] })
    match ((part s1 p).submit).bind (fun y => subAt y n) with
    | none => s1
    | some b =>
      if b.consumed.length < wholeTiles (part s1 p) w then s1
      else freeSlot (modSub s1 p .submit n (fun c => { c with stage := none })) p .submit n

/-- The bytes of a target that lie in the Pocket end what was resident there (R130). -/
def dropTarget (p : Nat) (s : State) (t : Nat × Bytes × Option TileMeta) : State := dropResidentAt s p t.1 t.2.1.length

/-- What a committed pass changes in the Cuffs: ranges it overwrites are no longer resident, the one it holds is (R130). -/
def residentAfter (s : State) (p : Nat) (j : TileJob) : State :=
  let s1 := j.targets.foldl (dropTarget p) s
  match j.hold with
  | some r => keepResident s1 j.engine p r.1 r.2
  | none => s1

/-- What a committed pass changes beside its tile and the Cuffs: summands consumed, mask_next, CLIP's passes, a submission's pass, a
Zipper tile (R93, R119, R181, R184, R196). -/
def afterCommit (s : State) (f : InFlight) (j : TileJob) : State :=
  let p := f.h.p.val
  let s1 :=
    match j.coord, j.clipOf with
    | some t, some n => if j.bytes.isEmpty then clipSummed s f.id n else clipCommitted s p n t
    | some t, none => j.summands.foldl (consumeOne p ((j.tmeta.map (fun m => m.roundId)).getD 0) t) s
    | none, _ => modFlight s f.id (fun g => { g with passed := g.passed ++ j.summands })
  let s2 :=
    match f.body, j.maskNext with
    | .maskExpand o, some (c, n) => commitMask s1 p o.roundId c n
    | _, _ => s1
  match f.body with
  | .zipRecv _ => zipCommitted s2 f.id
  | _ => s2

/-- A tile that another CLIP has scaled already is not written again (R184). -/
def alreadyScaled (s : State) (p : Nat) (j : TileJob) : Bool :=
  match j.coord, j.clipOf with
  | some t, some n => !j.bytes.isEmpty && clipScaled s p n t
  | _, _ => false

/-- The oldest finished tile of an engine is written with its metadata, at once (R78); the first engine of a group commits for it. -/
def commitTile (s : State) (l : Nat) : State :=
  match (firstPass s l (fun j => j.passDone)).filter (fun e => e.2.engine == l) with
  | none => s
  | some (f, j) =>
    let p := f.h.p.val
    let s1 := residentAfter (if alreadyScaled s p j then s else writeJob s p j) p j
    let s2 := modFlight s1 f.id (fun g =>
      { g with jobs := dropFirst (fun y => y.engine == l && y.passDone) g.jobs, committed := g.committed + bit j.last,
               saturated := g.saturated || j.targets.any (fun t => (t.2.2.map (fun m => m.saturated)).getD false) })
    let s3 := settlePasses (afterCommit s2 f j) f.id
    let s4 := resumeLanding s3 p .submit
    retryLandings p 256 (resumeAll s4 p)

/-! Completion -/

/-- The first of a list of descriptors in order of completion: by ft_done, then by dispatch. -/
def firstDone : List InFlight → Option InFlight
  | [] => none
  | f :: fs =>
    match firstDone fs with
    | none => if f.done.isSome then some f else none
    | some g =>
      match f.done, g.done with
      | some a, some b => if a.ft ≤ b.ft then some f else some g
      | _, _ => some g

/-- The completion record of a descriptor (Table 8.13). -/
def recordFor (s : State) (f : InFlight) (d : Done) : Record :=
  { tag := f.h.tag, slot := f.h.slot, status := d.status, gen := (part s f.h.p.val).gen, result := d.result, ftDone := d.ft,
    opcode := f.opcode, ring := f.h.ring.val, irq := bvBit f.h.hflags 1, faultRef := d.faultRef, flight := some f.id }

/-- A trace record (Table 17.6). -/
def traceBytes (f : InFlight) (r : Record) : Bytes :=
  natLe 4 r.tag ++ natLe 1 r.opcode ++ natLe 1 (f.h.p.val + 16 * f.h.ring.val) ++ natLe 1 r.status ++ natLe 1 r.gen ++
    natLe 8 f.dispatchFt.ns ++ natLe 4 (min (2 ^ 32 - 1) (f.dispatchFt.ns - f.h.stamp.ns)) ++
    natLe 4 (min (2 ^ 32 - 1) (r.ftDone - f.dispatchFt.ns)) ++ natLe 2 f.h.slot ++ natLe 2 f.touched.length ++ zeros 4

/-- CCL frame slots that partitions own (Table 12.1). -/
def cclOwned (s : State) : Nat := (s.parts.map (fun e => if e.2.mode = .free then 0 else e.2.cclSlots)).sum

/-- Write a trace record of a completed descriptor (R403). -/
def traceRecord (s : State) (f : InFlight) (r : Record) : State :=
  if regField s .dbgTraceCtrl 0 0 = 0 ∨ (regField s .dbgTraceCtrl 31 16).testBit f.h.p.val = false then s
  else
    let size := 2 ^ regField s .dbgTraceCtrl 12 8
    let used := (s.dbg.traceWr + 2 ^ 32 - reg s .dbgTraceRd % 2 ^ 32) % 2 ^ 32
    if size ≤ used ∨ 64 ≤ cclOwned s then
      { s with dbg := { s.dbg with traceDrop := (s.dbg.traceDrop + 1) % 2 ^ 32 } }
    else
      let s1 := emit s (.cclWrite (reg s .dbgTraceBase + 32 * (s.dbg.traceWr % size)) (traceBytes f r))
      { s1 with dbg := { s1.dbg with traceWr := (s1.dbg.traceWr + 1) % 2 ^ 32 } }

/-- A descriptor that ends quietly has no record (R214). -/
def quietOk (f : InFlight) (d : Done) : Bool := bvBit f.h.hflags 2 && d.status == stOk

/-- A descriptor that is done may complete: its completion ring takes its record, or it has none (R214, R223). -/
def postable (s : State) (f : InFlight) : Bool :=
  match f.done with
  | none => false
  | some d => quietOk f d || cqTakes s f.h.p.val (cqOfRing s f.h.p.val f.h.ring.val)

/-- Write the record of a descriptor that is done and forget it; a quiet one that ended OK is only counted (R214, R224). -/
def completeFlight (s : State) (f : InFlight) (d : Done) : State :=
  let p := f.h.p.val
  let r := recordFor s f d
  let s1 := { s with inflight := s.inflight.filter (fun g => g.id != f.id) }
  let s2 := if quietOk f d then s1 else postRecord s1 p (cqOfRing s p f.h.ring.val) r
  traceRecord (countEvent s2 2 (servedBy s p) 1) f r

/-- The next descriptor of a partition completes (R224). -/
def completeNext (s : State) (p : Nat) : State :=
  match firstDone ((flying s p).filter (postable s)) with
  | none => s
  | some f =>
    match f.done with
    | none => s
    | some d => retryLandings p 256 (resumeOpens (resumeAll (settleFences (completeFlight s f d) p) p) p)

end Sys2Proof.Machine
end

