-- ==== Sys2Proof/Machine/Metering.lean ====
section
/-! DEFINITION. Metering: what a partition's usage counters take at a boundary, and the body of a usage record (R247, R312,
R314 to R316). -/

namespace Sys2Proof.Machine

/-- Nanoseconds of a metering minute (R247). -/
def minuteNs : Nat := 60000000000

/-- Charge the time that the pass led by an engine has run on its engines to its partition, and count it from now on (R315). A
replayed pass counts nothing. -/
def chargeEngine (s : State) (l : Nat) : State :=
  match (firstPass s l (fun j => !j.passDone)).filter (fun e => e.2.engine == l && e.2.engines.all (atPass s e.1 e.2)) with
  | none => s
  | some (f, j) =>
    let ns := if j.replays = 0 then j.engines.length * (now s - j.startFt) else 0
    modPass (modUsage s f.h.p.val (fun u => { u with engineNs := satAdd u.engineNs ns })) f.id l (fun y => { y with startFt := now s })

/-- The engines that lead passes of a partition. -/
def busyEngines (s : State) (p : Nat) : List Nat :=
  (((flying s p).filter (fun f => f.done.isNone)).flatMap (fun f => f.jobs.map (fun j => j.engine))).eraseDups

/-- Divide the passes of a partition at this instant (R315). -/
def chargePasses (s : State) (p : Nat) : State :=
  (busyEngines s p).foldl chargeEngine s

/-- A partition's metering begins, or goes on at a boundary. -/
def freshUsage (s : State) (start : Nat) (inside : Bool) : Usage :=
  { ftStart := start, startsInside := inside, sharedFrom := s.faults.shared, thermalFrom := s.manager.thermalMs,
    droopFrom := s.manager.droopMs }

/-- Metering begins when a partition is created (R301). -/
def startMeter (s : State) (p : Nat) : State :=
  modPart s p (fun x => { x with usage := freshUsage s (now s) (now s % minuteNs != 0) })

/-- A usage record's body at `ftEnd` (Table 12.8). Flag bits 2 and 3, seq and prev_digest are set when it is signed. -/
def usageBody (s : State) (p ftEnd : Nat) (inside : Bool) : Bytes :=
  let x := part s p
  let u := x.usage
  natLe 2 0x0501 ++ natLe 1 p ++ natLe 1 (bit u.startsInside + 2 * bit inside) ++ natLe 2 (regField s .shwDim 11 0) ++
    natLe 1 x.gen ++ natLe 1 (regField s .ptnModes 2 0) ++ natLe 8 (u.ftStart / minuteNs) ++ natLe 8 u.ftStart ++
    natLe 8 ftEnd ++ natLe 8 0 ++ zeros 32 ++ x.digest.take 16 ++ natLe 8 x.instanceId ++ natLe 8 u.engineNs ++
    natLe 8 u.keystreamBytes ++ natLe 8 u.dramBytes ++ natLe 8 u.shawlTx ++ natLe 8 u.shawlRx ++ natLe 8 u.cclOut ++
    natLe 8 u.cclIn ++ natLe 8 u.liningUnitMs ++ natLe 4 (s.manager.thermalMs - u.thermalFrom) ++
    natLe 4 (s.manager.droopMs - u.droopFrom) ++ natLe 4 (s.faults.shared - u.sharedFrom) ++ natLe 2 x.sleeves.toNat ++
    zeros 2 ++ (sha3 s.collar.aliasPk).take 16 ++ zeros 64

/-- A record waits for its signature in slot 16 (R316). -/
def queueUsage (s : State) (p ftEnd : Nat) (inside last : Bool) : State :=
  collarQueue s 16 (.usage p (part s p).instanceId (usageBody s p ftEnd inside) last)

/-- A metering minute ends for one partition (R316). -/
def closeMinute (s : State) (p ftEnd : Nat) : State :=
  let s1 := queueUsage (chargePasses s p) p ftEnd false false
  modPart s1 p (fun x => { x with usage := freshUsage s1 ftEnd false })

/-- The partition is metered: it exists and is not being created (R301, R304). -/
def metered (m : PtnState) : Bool := m != .free && m != .creating

/-- The next boundary of a grid of `step` nanoseconds after the one last taken (R247). -/
def nextMark (s : State) (step last : Nat) : Nat :=
  if last < now s / step then now s / step
  else if last = now s / step then last + 1 else now s / step + 1

/-- The metering minute up to boundary `m` ends, which has come (R247, R316). -/
def minuteEnd (s : State) (m : Nat) : State :=
  let s1 := { s with manager := { s.manager with lastMinute := m } }
  ((List.range 16).filter (fun p => metered (part s1 p).mode)).foldl (fun t p => closeMinute t p (m * minuteNs)) s1

/-- A physical Pocket unit as a partition's unit (R67). -/
def logicalUnit (x : Partition) (ph : Nat) : Nat :=
  let n := x.sleeveList.length
  let k := (x.sleeveList.takeWhile (fun v => v != ph / 24576)).length
  ph % 24576 / 64 * (64 * n) + 64 * k + ph % 64

/-- Pocket units of a partition that are not FREE or belong to a reserved use (Table 12.9). -/
def unitsInUse (s : State) (p : Nat) : Nat :=
  let x := part s p
  let busy := s.tiles.filter (fun e => e.2.state != .free && bvBit x.sleeves (e.1 / 24576))
  let uses := usesOf x
  let out := busy.filter (fun e =>
    !uses.any (fun r => decide (r.first ≤ logicalUnit x e.1) && decide (logicalUnit x e.1 < r.first + r.units)))
  (uses.map (fun r => r.units)).sum + out.length

/-- A chip-wide reason of Table 15.4 that counts in thermal_ms is active. -/
def thermalActive (s : State) : Bool :=
  s.power.active.toNat &&& 0x5E != 0

/-- Droop response is active. -/
def droopActive (s : State) : Bool := bvBit s.power.active 5

/-- An FT millisecond ends and the next begins (R247, R312, R315). -/
def msSample (s : State) : State :=
  let j := nextMark s 1000000 s.manager.lastMs
  let s1 := reach s (j * 1000000)
  let m := s1.manager
  let s2 := { s1 with manager := { m with
    lastMs := j, thermalMs := m.thermalMs + bit m.msThermal, droopMs := m.droopMs + bit m.msDroop,
    msThermal := thermalActive s1, msDroop := droopActive s1 } }
  ((List.range 16).filter (fun p => metered (part s2 p).mode)).foldl (fun t p =>
    modUsage t p (fun u => { u with liningUnitMs := satAdd u.liningUnitMs (unitsInUse t p) })) s2

/-! Signed records (R316) -/

/-- Write held records to the metering ring while it has room, each at the start of a 4 KiB entry. -/
def drainMeter (s : State) : Nat → State
  | 0 => s
  | n + 1 =>
    let size := 2 ^ regField s .ptnMeterCtrl 20 16
    let used := (s.manager.written + 2 ^ 32 - reg s .ptnMeterRd % 2 ^ 32) % 2 ^ 32
    match s.manager.held with
    | [] => s
    | (_, _, r) :: rest =>
      if regField s .ptnMeterCtrl 0 0 = 1 ∧ used < size then
        let s1 := emit s (.cclWrite (reg s .ptnMeterBase + 4096 * (s.manager.written % size)) (fit 4096 r))
        drainMeter { s1 with manager := { s1.manager with held := rest, written := (s1.manager.written + 1) % 2 ^ 32 } } n
      else s

/-- Change a partition's record chain. -/
def modChain (s : State) (p : Nat) (f : RecordChain → RecordChain) : State :=
  { s with manager := { s.manager with chains := s.manager.chains.map (fun c => if c.p = p then f c else c) } }

/-- More than 64 held records: the oldest is discarded, and its partition's next record says so. -/
def trimHeld (s : State) : State :=
  match s.manager.held with
  | (p, i, _) :: rest =>
    if 64 < s.manager.held.length then
      modChain { s with manager := { s.manager with held := rest } } p
        (fun c => if c.instance_ = i then { c with missing := true } else c)
    else s
  | [] => s

/-- The Collar signs a record (R314, R316): flags, seq and prev_digest are filled in from the instance's chain, and the
hedged signature is a free value. The last record of an instance ends its chain. -/
def signUsage (s : State) (p inst : Nat) (body : Bytes) (last : Bool) : State :=
  let fresh : RecordChain := { p := p, instance_ := inst, seq := 0, prevDigest := zeros 32, missing := false }
  let c := (s.manager.chains.find? (fun d => d.p == p && d.instance_ == inst)).getD fresh
  let flags := field body 3 1 + 4 * bit (c.seq == 0) + 8 * bit c.missing
  let b := patch (patch (patch body 3 (natLe 1 flags)) 0x20 (natLe 8 c.seq)) 0x28 c.prevDigest
  let r := b ++ freeBytes s 2420
  let next : RecordChain := { c with seq := c.seq + 1, prevDigest := sha3 r, missing := false }
  let rest := s.manager.chains.filter (fun d => !(d.p == p && d.instance_ == inst))
  let s1 := spendFree { s with manager := { s.manager with
    chains := if last then rest else rest ++ [next], held := s.manager.held ++ [(p, inst, r)] } }
  trimHeld (drainMeter s1 65)

end Sys2Proof.Machine
end

