-- ==== Sys2Proof/Machine/Order.lean ====
section
/-! DEFINITION. Scheduled instants that fall on one nanosecond (R245): expiries before beginnings, and among them windows, deadlines,
Collar events and metering, in that order, whichever command brings the instant first. -/

namespace Sys2Proof.Machine

/-- An open window closes at `t`. -/
def closesAt (s : State) (p : Nat) (k : WinKind) (t : Nat) : Bool :=
  ((windowOf (part s p) k).map (fun w => w.mode == .opened && w.closes == t)).getD false

/-- The windows that close at `t` are CLOSING. -/
def settleCloses (s : State) (t : Nat) : State :=
  (List.range 16).foldl (fun u p =>
    [WinKind.submit, WinKind.recover].foldl (fun v k => if closesAt v p k t then reachClose v p k else v) u) s

/-- The Zipper deadlines at `t` expire. -/
def settleDeadlines (s : State) (t : Nat) : State := (List.range 16).foldl (fun u p => expireAt u p t) s

/-- The keys of a partition that expire at `t`: kind and link key. -/
def keysAt (s : State) (p t : Nat) : List (Nat × Nat) :=
  (((part s p).keys.filter (fun k => !k.dying && k.expiry == t)).map (fun k => (k.kind, 0))) ++
    ((s.shawl.keys.filter (fun e => e.p == p && !e.dying && e.expiry == t)).map (fun e => (4, e.keyId)))

/-- The keys that expire at `t` are dying (R333). -/
def settleKeys (s : State) (t : Nat) : State :=
  if t = 0 then s
  else (List.range 16).foldl (fun u p => (keysAt u p t).foldl (fun v k => expireKey v p k.1 k.2) u) s

/-- A metering minute that ends at `t` ends (R247). -/
def settleMinute (s : State) (t : Nat) : State :=
  if t % minuteNs = 0 ∧ s.manager.lastMinute < t / minuteNs then minuteEnd s (t / minuteNs) else s

/-- The expiries at the instant `t` that come before an event of a rank: windows (rank 0), deadlines (1), Collar events (2),
metering (3), and beginnings (4) (R245). -/
def settleTies (s : State) (t rank : Nat) : State :=
  let s0 := reach s t
  let s1 := if 1 ≤ rank then settleCloses s0 t else s0
  let s2 := if 2 ≤ rank then settleDeadlines s1 t else s1
  let s3 := if 3 ≤ rank then settleKeys s2 t else s2
  if 4 ≤ rank then settleMinute s3 t else s3

/-- A window opens, after every expiry of its instant (R242, R245). -/
def openInstant (s : State) (p : Nat) (k : WinKind) : State :=
  match windowOf (part s p) k with
  | some w => if w.mode = .scheduled then reachOpen (settleTies s w.opens 4) p k else s
  | none => s

/-- The earliest Zipper deadline of a partition, after the windows that close at it (R95, R245). -/
def deadlineInstant (s : State) (p : Nat) : State :=
  match earliest ((flying s p).filterMap zipDeadline) with
  | none => s
  | some d => expireZippers (settleTies s d 1) p

/-- A key expires, after the windows and deadlines of its instant (R333, R245). -/
def keyInstant (s : State) (p kind link : Nat) : State :=
  match keyExpiryOf s p kind link with
  | none => s
  | some t => expireKey (settleTies s t 2) p kind link

/-- A metering minute ends, after the other expiries of its instant (R247, R245). -/
def minuteInstant (s : State) : State :=
  let m := nextMark s minuteNs s.manager.lastMinute
  minuteEnd (settleTies s (m * minuteNs) 3) m

end Sys2Proof.Machine
end

