-- ==== Sys2Proof/Machine/FabricRows.lean ====
section
/-! DEFINITION. The commands of Zipper and remote-memory packets, job tears, queue pairs, protection domains and spaces
(R92 to R96, R275, R276, R281 to R297). -/

namespace Sys2Proof.Machine

/-- What may go on once a packet has been used: waiting landings and descriptors of its partition. -/
def packetUsed (s : State) (k : Packet) : State :=
  retryLandings (addrPart k.dst) 256 (resumeAll s (addrPart k.dst))

/-- Take a packet at the head of a queue, use it, and let it leave the pool. -/
def takePacket (s : State) (a : Arrival) (ptype : Nat) (use : State → Instant → Bytes → State) : State :=
  match arrivalVerdict s a ptype with
  | .gone t => t
  | .here t stamp payload key => packetUsed (releaseCells (use t stamp payload) key a.pkt) a.pkt

/-- Take a request of remote memory: the target keeps its cells while it holds it (R290). -/
def takeRequest (s : State) (a : Arrival) (ptype : Nat) : State :=
  match arrivalVerdict s a ptype with
  | .gone t => t
  | .here t stamp payload key =>
    packetUsed (receiveRequest t { queue := key, stamp := stamp, pkt := { a.pkt with payload := payload } }) a.pkt

/-- ZIP_TILE_RECEIVE (R93). -/
def execZipTileReceive (a : Arrival) (s : State) : Out :=
  .next (takePacket s a 16 (fun t stamp payload => receiveZipTile t a.pkt stamp payload))

/-- ZIP_CREDIT_RECEIVE (R92). -/
def execZipCreditReceive (a : Arrival) (s : State) : Out :=
  .next (takePacket s a 17 (fun t _ payload => receiveZipCredit t a.pkt payload))

/-- ZIP_REPLY_RECEIVE (R95). -/
def execZipReplyReceive (a : Arrival) (s : State) : Out :=
  .next (takePacket s a 18 (fun t _ payload => receiveZipReply t a.pkt payload))

/-- ZIPPER_DEADLINE_EXPIRY (R95). -/
def execZipperDeadlineExpiry (p : Fin 16) (s : State) : Out := .next (deadlineInstant s p.val)

/-- JOB_TEAR_RECEIVE (R276). -/
def execJobTearReceive (a : Arrival) (s : State) : Out := .next (receiveTear s a)

/-- TEAR_ENTRY_EXPIRY (R276). -/
def execTearEntryExpiry (keyId src tearId : Nat) (s : State) : Out := .next (expireTear s keyId src tearId)

/-- RMA_WRITE_PACKET (R290). -/
def execRmaWritePacket (a : Arrival) (s : State) : Out := .next (takeRequest s a 8)

/-- RMA_READ_REQ_PACKET (R291). -/
def execRmaReadReqPacket (a : Arrival) (s : State) : Out := .next (takeRequest s a 9)

/-- RMA_READ_RESP_PACKET (R291). -/
def execRmaReadRespPacket (a : Arrival) (s : State) : Out :=
  .next (takePacket s a 10 (fun t stamp payload => receiveResponse t a.pkt stamp payload))

/-- RMA_ADD_PACKET (R292). -/
def execRmaAddPacket (a : Arrival) (s : State) : Out := .next (takeRequest s a 11)

/-- RMA_REPLY_PACKET (R293). -/
def execRmaReplyPacket (a : Arrival) (s : State) : Out :=
  .next (takePacket s a 12 (fun t stamp _ => receiveReply t a.pkt stamp))

/-- CONTEXT_FETCH_COMPLETE (R286). -/
def execContextFetchComplete (p : Fin 16) (qpn : Nat) (record : Bytes) (s : State) : Out :=
  .next (contextArrived s p.val qpn record)

/-- CONTEXT_FETCH_TIMEOUT (R287). -/
def execContextFetchTimeout (p : Fin 16) (qpn : Nat) (s : State) : Out := .next (missExpired s p.val qpn)

/-- RMA_RESPONSE_TIMEOUT (R294). -/
def execRmaResponseTimeout (p : Fin 16) (qpn : Nat) (s : State) : Out := .next (responseExpired s p.val qpn)

/-- RMA_TARGET_GAP_TIMEOUT (R295). -/
def execRmaTargetGapTimeout (p : Fin 16) (qpn : Nat) (s : State) : Out := .next (gapExpired s p.val qpn)

/-- QP_CREATE (R283). -/
def execQpCreate (p : Fin 16) (qpn : Nat) (s : State) : Out := .next (gate s (createQp s p.val qpn))

/-- QP_REINITIALISE (R283). -/
def execQpReinitialise (p : Fin 16) (qpn : Nat) (s : State) : Out := .next (gate s (reinitQp s p.val qpn))

/-- QP_DESTROY (R283). -/
def execQpDestroy (p : Fin 16) (qpn : Nat) (s : State) : Out := .next (gate s (destroyQp s p.val qpn))

/-- PD_BIND (R282). -/
def execPdBind (p : Fin 16) (pd : Fin 16) (value : Word) (s : State) : Out := .next (gate s (bindPd s p.val pd.val value.toNat))

/-- SPACE_ENABLE (R281). -/
def execSpaceEnable (p : Fin 16) (k : Fin 4) (value : Word) (s : State) : Out := .next (gate s (enableSpace s p.val k.val value.toNat))

/-- SPACE_REVOKE (R296). -/
def execSpaceRevoke (p : Fin 16) (k : Fin 4) (s : State) : Out := .next (gate s (revokeSpace s p.val k.val))

/-- SPACE_REVOKE_DONE (R297). -/
def execSpaceRevokeDone (p : Fin 16) (k : Fin 4) (s : State) : Out := .next (revokeDone s p.val k.val)

/-- SPACE_RELEASE (R281). -/
def execSpaceRelease (p : Fin 16) (k : Fin 4) (s : State) : Out := .next (gate s (releaseSpace s p.val k.val))

end Sys2Proof.Machine
end

