-- ==== Sys2Proof/Machine/Fetch.lean ====
section
/-! DEFINITION. Descriptors as 64 bytes (R214, Table 8.9 and the operand tables), and the rings that bring them: doorbells,
batches, fetch buffers and head lines (R205 to R213, R240). -/

namespace Sys2Proof.Machine

/-- A flag byte of a descriptor. -/
def byteAt (b : Bytes) (off : Nat) : BitVec 8 := b.getD off 0#8

/-- Table 8.11. -/
def moveOps (b : Bytes) : MoveOps :=
  { src := field b 0x10 8, dst := field b 0x18 8, len := field b 0x20 8, width := field b 0x28 1, flags := byteAt b 0x29 }

/-- Table 3.4. -/
def accOps (b : Bytes) : AccOps :=
  { dstTile := field b 0x10 4, tileCount := field b 0x14 4, width := field b 0x18 1, mode := field b 0x19 1,
    srcKind := field b 0x1A 1, srcWidth := field b 0x1B 1, coordTile := field b 0x1C 4, src := field b 0x20 8,
    first := field b 0x28 4, count := field b 0x2C 4, modulus := field b 0x30 8, splitWays := field b 0x38 1,
    flags := byteAt b 0x39 }

/-- Table 3.6. -/
def drainOps (b : Bytes) : DrainOps :=
  { srcTile := field b 0x10 4, tileCount := field b 0x14 4, dst := field b 0x18 8, scale := BitVec.ofNat 32 (field b 0x20 4),
    bias := BitVec.ofNat 32 (field b 0x24 4), actParam := BitVec.ofNat 32 (field b 0x28 4), activation := field b 0x2C 1,
    outFormat := field b 0x2D 1, fracBits := field b 0x2E 1, flags := byteAt b 0x2F, elemCount := field b 0x30 4 }

/-- Table 3.7. -/
def statsOps (b : Bytes) : StatsOps :=
  { srcKind := field b 0x11 1, srcWidth := field b 0x12 1, flags := byteAt b 0x13, tileA := field b 0x14 4,
    tileB := field b 0x18 4, tileCount := field b 0x1C 4, src := field b 0x20 8, first := field b 0x28 4,
    count := field b 0x2C 4, resultAddr := field b 0x30 8, eps := BitVec.ofNat 32 (field b 0x38 4), fracBits := field b 0x3C 1 }

/-- Table 3.9. -/
def rankOps (b : Bytes) : RankOps :=
  { srcTile := field b 0x10 4, tileCount := field b 0x14 4, elemCount := field b 0x18 4, k := field b 0x1C 2,
    lapelSleeve := field b 0x1E 1, flags := byteAt b 0x1F, dstAddr := field b 0x20 8 }

/-- The operands of R92. -/
def zipSendOps (b : Bytes) : ZipSendOps :=
  { declAddr := field b 0x10 8, roundId := field b 0x18 8, srcTile := field b 0x20 4, tileCount := field b 0x24 4,
    deadline := field b 0x28 8 }

/-- Table 3.11. -/
def zipRecvOps (b : Bytes) : ZipRecvOps :=
  { declAddr := field b 0x10 8, roundId := field b 0x18 8, ownTile := field b 0x20 4, dstTile := field b 0x24 4,
    deadline := field b 0x28 8, landingTile := field b 0x30 4, landingDepth := field b 0x34 2, flags := byteAt b 0x36 }

/-- Table 4.6. -/
def maskOps (b : Bytes) : MaskOps :=
  { roundId := field b 0x10 8, dstTile := field b 0x18 4, tileCount := field b 0x1C 4, coordTile := field b 0x20 4,
    seedFirst := field b 0x24 4, seedCount := field b 0x28 4, flags := byteAt b 0x2C }

/-- Table 4.2. -/
def seedOps (b : Bytes) : SeedOps :=
  { roundId := field b 0x18 8, srcAddr := field b 0x20 8, graphAddr := field b 0x28 8, recTile := field b 0x30 4,
    recUnits := field b 0x34 4 }

/-- Table 5.5. -/
def nttOps (b : Bytes) : NttOps :=
  { src := field b 0x10 4, dst := field b 0x14 4, limbStride := field b 0x18 4, limbCount := field b 0x1C 2,
    log2N := field b 0x1E 1, laneMode := field b 0x1F 1, modAddr := field b 0x20 8, flags := byteAt b 0x28 }

/-- Table 5.7. -/
def pmulOps (b : Bytes) : PmulOps :=
  { a := field b 0x10 4, b := field b 0x14 4, dst := field b 0x18 4, limbStride := field b 0x1C 4, elemCount := field b 0x20 4,
    limbCount := field b 0x24 2, laneMode := field b 0x27 1, modAddr := field b 0x28 8, scalar := field b 0x30 8,
    fracBits := field b 0x38 1, flags := byteAt b 0x39 }

/-- Table 5.8. -/
def baseOps (b : Bytes) : BaseOps :=
  { src := field b 0x10 4, dst := field b 0x14 4, limbStride := field b 0x18 4, inLimbs := field b 0x1C 1,
    outLimbs := field b 0x1D 1, log2N := field b 0x1E 1, flags := byteAt b 0x1F, inMod := field b 0x20 8,
    outMod := field b 0x28 8 }

/-- Table 6.6. -/
def ctAddOps (b : Bytes) : CtAddOps :=
  { flags := byteAt b 0x11, limbStride := field b 0x14 4, paramAddr := field b 0x18 8, dstRef := field b 0x20 8,
    a := field b 0x28 8, b := field b 0x30 8, seqFirst := field b 0x38 4, seqCount := field b 0x3C 4 }

/-- Table 6.7. -/
def ksOps (b : Bytes) : KsOps :=
  { inList := field b 0x10 8, outList := field b 0x18 8, keyAddr := field b 0x20 8, paramAddr := field b 0x28 8,
    limbStride := field b 0x30 4, galois := field b 0x34 4, workTile := field b 0x38 4, ctCount := field b 0x3C 1,
    flags := byteAt b 0x3D }

/-- Table 6.9. -/
def rescaleOps (b : Bytes) : RescaleOps :=
  { inList := field b 0x10 8, outList := field b 0x18 8, paramAddr := field b 0x20 8, limbStride := field b 0x28 4,
    ctCount := field b 0x2C 1, drop := field b 0x2D 1, flags := byteAt b 0x2E }

/-- Table 6.10. -/
def partialOps (b : Bytes) : PartialOps :=
  { ctRef := field b 0x10 8, outRef := field b 0x18 8, paramAddr := field b 0x20 8, roundId := field b 0x28 8,
    lambdaAddr := field b 0x30 8, limbStride := field b 0x38 4 }

/-- Table 6.11. -/
def kemOps (b : Bytes) : KemOps :=
  { roundId := field b 0x10 8, seqFirst := field b 0x18 4, seqCount := field b 0x1C 4, resultAddr := field b 0x28 8 }

/-- Table 6.13. -/
def sealedOps (b : Bytes) : SealedOps :=
  { roundId := field b 0x10 8, seqFirst := field b 0x18 4, seqCount := field b 0x1C 4, stageTile := field b 0x20 4,
    stageSlots := field b 0x24 4, resultAddr := field b 0x28 8 }

/-- Table 14.6. -/
def noiseOps (b : Bytes) : NoiseOps :=
  { srcTile := field b 0x10 4, dstTile := field b 0x14 4, tileCount := field b 0x18 4, param := field b 0x1C 4,
    mech := field b 0x20 1, rounding := field b 0x21 1, flags := byteAt b 0x22 }

/-- Table 14.7. -/
def releaseOps (b : Bytes) : ReleaseOps :=
  { roundId := field b 0x10 8, flags := byteAt b 0x19, srcTile := field b 0x1C 4, srcRef := field b 0x20 8,
    dst := field b 0x28 8, count := field b 0x30 4, stageTile := field b 0x34 4, paramAddr := field b 0x38 8 }

/-- Table 11.8. -/
def rmaOpsOf (b : Bytes) : RmaOps :=
  { qpn := field b 0x10 4, len := field b 0x14 4, loc := field b 0x18 8, remote := field b 0x20 8, width := field b 0x28 1,
    flags := byteAt b 0x29, timeoutUs := field b 0x2C 4 }

/-- Table 13.14. -/
def modelOps (b : Bytes) : ModelOps :=
  { src := field b 0x10 8, dst := field b 0x18 8, len := field b 0x20 8, segBytes := field b 0x28 8, elemFormat := field b 0x30 1,
    fracBits := field b 0x31 1, labelAddr := field b 0x38 8 }

/-- What 64 bytes ask for (Table 8.9). -/
def bodyOf (b : Bytes) : DescBody :=
  let op := field b 0 1
  match op with
  | 0x01 => .nop
  | 0x02 => .fence { ringMask := byteAt b 0x10 }
  | 0x03 => .waitFt { target := field b 0x10 8 }
  | 0x04 => .hint { cls := byteAt b 0x10, level := field b 0x11 1, lead := field b 0x14 4, duration := field b 0x18 4 }
  | 0x08 => .copy (moveOps b)
  | 0x09 => .fill (moveOps b)
  | 0x10 => .windowOpen { roundId := field b 0x10 8, opens := field b 0x18 8, closes := field b 0x20 8,
                          landingAddr := field b 0x28 8, paramAddr := field b 0x30 8, slotCount := field b 0x38 4,
                          kind := field b 0x3C 1 }
  | 0x11 => .windowClose { roundId := field b 0x10 8, kind := field b 0x18 1, closeAt := field b 0x20 8, listAddr := field b 0x28 8 }
  | 0x12 => .ingest { roundId := field b 0x10 8, listAddr := field b 0x18 8, count := field b 0x20 4, resultAddr := field b 0x28 8 }
  | 0x20 => .accumulate (accOps b)
  | 0x21 => .accDrain (drainOps b)
  | 0x22 =>
    match field b 0x10 1 with
    | 0 => .statsSumsq (statsOps b)
    | 1 => .statsMoments (statsOps b)
    | 2 => .statsFinish (statsOps b)
    | 3 => .statsRsqrt (statsOps b)
    | _ => .badSub op
  | 0x23 => .rank (rankOps b)
  | 0x24 => .zipSend (zipSendOps b)
  | 0x25 => .zipRecv (zipRecvOps b)
  | 0x30 => .maskExpand (maskOps b)
  | 0x31 => .shareRecon { roundId := field b 0x10 8, reportAddr := field b 0x18 8 }
  | 0x32 =>
    match field b 0x10 1 with
    | 0 => .seedGraph (seedOps b)
    | 1 => .seedDerive (seedOps b)
    | _ => .badSub op
  | 0x40 => .ntt (nttOps b)
  | 0x41 => .intt (nttOps b)
  | 0x42 =>
    match field b 0x26 1 with
    | 0 => .pmulMul (pmulOps b)
    | 1 => .pmulMac (pmulOps b)
    | 2 => .pmulSmul (pmulOps b)
    | 3 => .pmulFxmul (pmulOps b)
    | _ => .badSub op
  | 0x43 =>
    match field b 0x10 1 with
    | 0 => .ctAddFold (ctAddOps b)
    | 1 => .ctAddAdd (ctAddOps b)
    | 2 => .ctAddSub (ctAddOps b)
    | _ => .badSub op
  | 0x44 => .keyswitch (ksOps b)
  | 0x45 => .rotate (ksOps b)
  | 0x46 => .rescale (rescaleOps b)
  | 0x47 => .modswitch (rescaleOps b)
  | 0x48 => .baseconv (baseOps b)
  | 0x49 => .partialDec (partialOps b)
  | 0x50 => .sealedOpen (sealedOps b)
  | 0x51 =>
    match field b 0x20 1 with
    | 0 => .kemSealed (kemOps b)
    | 1 => .kemBundle (kemOps b)
    | _ => .badSub op
  | 0x52 => .clip (sealedOps b)
  | 0x58 => .dpNoise (noiseOps b)
  | 0x59 =>
    match field b 0x18 1 with
    | 0 => .releaseAggregate (releaseOps b)
    | 1 => .releaseShare (releaseOps b)
    | _ => .badSub op
  | 0x60 => .rmaWrite (rmaOpsOf b)
  | 0x61 => .rmaRead (rmaOpsOf b)
  | 0x62 => .rmaAdd (rmaOpsOf b)
  | 0x70 => .attest { nonce := slice b 0x10 32, dst := field b 0x30 8 }
  | 0x71 => .keyImport { msgAddr := field b 0x10 8, msgLen := field b 0x18 4 }
  | 0x72 => .keyDestroy { kind := field b 0x10 1, linkKeyId := field b 0x12 2 }
  | 0x73 => .modelUnseal (modelOps b)
  | 0x74 => .modelSeal (modelOps b)
  | _ => .unknown op

/-- The header of a descriptor read from entry `slot` of a ring (Table 8.8). -/
def headOf (p : Fin 16) (ring : Fin 8) (slot : Nat) (stamp : Instant) (b : Bytes) : DescHdr :=
  { p := p, ring := ring, slot := slot, gen := field b 3 1, hflags := byteAt b 1, tag := field b 4 4, stamp := stamp }

/-! Rings -/

/-- Free-running 32-bit difference of two counts (R210). -/
def countDiff (a b : Nat) : Nat := (a + 2 ^ 32 - b % 2 ^ 32) % 2 ^ 32

/-- CCL bytes of a partition, in and out (R207, Table 12.9). -/
def countCcl (s : State) (p inB outB : Nat) : State :=
  modUsage s p (fun u => { u with cclIn := satAdd u.cclIn inB, cclOut := satAdd u.cclOut outB })

/-- The head line of a ring (Table 8.7). -/
def headLine (s : State) (p r : Nat) : Bytes :=
  let q := sqOf s p r
  let state := match q.mode with | .disabled => 0 | .idle => 0 | .fetch => 1 | .stopped => 2
  natLe 4 q.fetched ++ natLe 1 (part s p).gen ++ natLe 1 state ++ zeros 2 ++ natLe 4 q.lost ++ zeros 52

/-- Write a ring's head line (R212). -/
def writeHead (s : State) (p r : Nat) : State :=
  countCcl (emit s (.cclWrite (reg s (.sqHeadln p r)) (headLine s p r))) p 0 64

/-- Room in a ring's fetch buffer of 32 (R223). -/
def bufferRoom (q : SqRing) : Nat := 32 - q.buffer.length

/-- Descriptors that belong to the batches read so far and are not fetched (R211). -/
def unfetched (q : SqRing) : Nat := countDiff q.lastTail q.fetched

/-- Read `n` descriptors of a ring from count `c` on: up to the ring's end, and the rest from its start. -/
def readDescs (s : State) (p r c n : Nat) : State :=
  let size := sqSize s p r
  let first := min n (size - c % size)
  let s1 := if first = 0 then s else emit s (.descRead (reg s (.sqBase p r) + 64 * (c % size)) first)
  if n ≤ first then s1 else emit s1 (.descRead (reg s (.sqBase p r)) (n - first))

/-- A doorbell line is invalidated: the instant is stamped, and reads of the line and of up to four descriptors go out, no more than
the buffer takes (R211, R212, Table 8.6). A STOPPED or DISABLED ring reads nothing. -/
def invalidate (s : State) (p r : Nat) (i : Instant) : State :=
  let q := sqOf s p r
  if q.mode = .disabled ∨ q.mode = .stopped then s
  else
    let s1 := modSq s p r (fun y => { y with mode := .fetch, reads := y.reads ++ [i] })
    readDescs (emit s1 (.lineRead (reg s (.sqDb p r)))) p r q.fetched (min 4 (bufferRoom q))

/-- A further burst is issued whenever the buffer has room and descriptors up to the last tail read are not fetched (R211): one at a
time, sized to the room, of at most 32. -/
def askBurst (s : State) (p r : Nat) : State :=
  let q := sqOf s p r
  let n := min 32 (min (bufferRoom q) (unfetched q))
  if q.mode = .disabled ∨ q.mode = .stopped ∨ q.burst ≠ 0 ∨ n = 0 ∨ dispatchOpen s p = false then s
  else readDescs (modSq s p r (fun y => { y with burst := n })) p r q.fetched n

/-- Put fetched descriptors into a ring's buffer, each with the stamp of its batch, up to a number. -/
def takeDescs (s : State) (p : Fin 16) (r : Fin 8) : Nat → List Bytes → State
  | 0, _ => s
  | _, [] => s
  | n + 1, b :: bs =>
    let q := sqOf s p.val r.val
    if unfetched q = 0 ∨ bufferRoom q = 0 then s
    else
      match q.batches with
      | [] => s
      | a :: rest =>
        let h := headOf p r (q.fetched % sqSize s p.val r.val) a.stamp b
        let c := (q.fetched + 1) % 2 ^ 32
        let s1 := modSq s p.val r.val (fun y =>
          { y with fetched := c, buffer := y.buffer ++ [{ h := h, body := bodyOf b, waited := false }],
                   batches := if c = a.tail then rest else y.batches })
        takeDescs (countCcl s1 p.val 64 0) p r n bs

/-- Fetching stops while the partition or the module is being reset (R381 to R383); what is not fetched stays in the ring. -/
def fetchDescs (s : State) (p : Fin 16) (r : Fin 8) (n : Nat) (descs : List Bytes) : State :=
  if dispatchOpen s p.val then takeDescs s p r n descs else s

/-- A ring with everything fetched and no read outstanding is IDLE (Table 8.6). -/
def settleRing (s : State) (p r : Nat) : State :=
  let q := sqOf s p r
  if q.mode = .fetch ∧ q.reads.isEmpty ∧ q.batches.isEmpty then modSq s p r (fun y => { y with mode := .idle }) else s

/-- A doorbell line returns with its tail (R211 to R213): the batch is formed, its first descriptors are fetched and the head line
written. A batch longer than the ring stops it. -/
def doorbellReturn (s : State) (p : Fin 16) (r : Fin 8) (tail : Nat) (descs : List Bytes) : State :=
  let q := sqOf s p.val r.val
  match q.reads with
  | [] => s
  | i :: rest =>
    if q.mode = .disabled then s
    else
      let t := tail % 2 ^ 32
      let s1 := countCcl (modSq s p.val r.val (fun y => { y with reads := rest })) p.val 64 0
      let n := countDiff t q.lastTail
      if sqSize s p.val r.val < countDiff t q.fetched then
        let s2 := modSq s1 p.val r.val (fun y => { y with mode := .stopped, reads := [], batches := [], lastTail := t, burst := 0 })
        writeHead (logFault s2 { cls := 7, code := 0x62, p := p.val, unitKind := 14, unitIndex := 8 * p.val + r.val, ring := r.val }) p.val r.val
      else
        let s2 := if n = 0 then s1
          else modSq s1 p.val r.val (fun y => { y with mode := .fetch, lastTail := t, batches := y.batches ++ [{ stamp := i, tail := t }] })
        let s3 := settleRing (fetchDescs s2 p r 4 descs) p.val r.val
        askBurst (writeHead s3 p.val r.val) p.val r.val

/-- A further burst of descriptors is in the command processor (R211, R212). -/
def burstFetch (s : State) (p : Fin 16) (r : Fin 8) (descs : List Bytes) : State :=
  let q := sqOf s p.val r.val
  if q.mode = .stopped ∨ q.mode = .disabled ∨ unfetched q = 0 ∨ bufferRoom q = 0 ∨ descs.isEmpty ∨ dispatchOpen s p.val = false then s
  else
    let s1 := modSq s p.val r.val (fun y => { y with burst := 0 })
    askBurst (writeHead (settleRing (fetchDescs s1 p r 32 descs) p.val r.val) p.val r.val) p.val r.val

/-! Dispatch slots -/

/-- The head of a ring is fetched and not held (R222). -/
def headReady (s : State) (p r : Nat) : Bool :=
  match (sqOf s p r).buffer with
  | [] => false
  | f :: _ =>
    !heldBack s f.h f.body &&
      (match decideDesc s f.h f.body with
       | .waits _ => false
       | _ => true)

/-- The head of a ring waited for a reservation. -/
def headWaited (s : State) (p r : Nat) : Bool :=
  (((sqOf s p r).buffer.head?).map (fun f => f.waited)).getD false

/-- A head that finds a unit reserved now waits for it (R76); it counts once as a reservation wait. -/
def markWaiting (s : State) (p r : Nat) : State :=
  match (sqOf s p r).buffer with
  | [] => s
  | f :: rest =>
    if f.waited || heldBack s f.h f.body then s
    else
      match decideDesc s f.h f.body with
      | .waits rs =>
        modSq (countEvent s 14 (servedBy s p) 1) p r (fun q => { q with buffer := { f with waited := true, names := rs } :: rest })
      | _ => s

/-- The ring a dispatch slot serves: a ready head that waited for a reservation first, in ascending ring number, then
the rotation from the ring after the one last served (R76, R222). -/
def pickRing (s : State) (p : Nat) : Option Nat :=
  let waiting := (List.range 8).find? (fun r => headWaited s p r && headReady s p r)
  match waiting with
  | some r => some r
  | none => ((List.range 8).map (fun i => ((part s p).lastRing + 1 + i) % 8)).find? (fun r => headReady s p r)

/-- A partition's dispatch slot (R222): the rotation does not move on for a head that waited for a reservation. -/
def dispatchSlot (s : State) (p : Nat) : State :=
  let s0 := (List.range 8).foldl (fun t r => markWaiting t p r) s
  if !dispatchOpen s0 p then s
  else
    match pickRing s0 p with
    | none => s0
    | some r =>
      match (sqOf s0 p r).buffer with
      | [] => s0
      | f :: rest =>
        let s1 := modSq s0 p r (fun q => { q with buffer := rest })
        let s2 := if f.waited then s1 else modPart s1 p (fun x => { x with lastRing := r })
        askBurst (retryLandings p 256 (dispatchDesc f.h f.body s2)) p r

end Sys2Proof.Machine
end

