-- ==== Sys2Proof/Machine/Fec.lean ====
section
/-! DEFINITION. The FEC block of a link: four interleaved codewords of the Reed-Solomon code RS(136,128) over GF(2^8) with
0x11D (R250, R251). Symbol 0 of a codeword is the coefficient of the highest power. -/

namespace Sys2Proof.Machine

/-! The field -/

/-- Multiplication by α = 0x02. -/
def fecDouble (a : Nat) : Nat :=
  if 128 ≤ a then Nat.xor (2 * a) 0x11D else 2 * a

/-- The product over the low `n` bits of `b`. -/
def fecMulBits : Nat → Nat → Nat → Nat
  | 0, _, _ => 0
  | n + 1, a, b => Nat.xor (if b % 2 = 1 then a else 0) (fecMulBits n (fecDouble a) (b / 2))

/-- The product of two field elements. -/
def fecMul (a b : Nat) : Nat := fecMulBits 8 a b

/-- A power, over the low `n` bits of its exponent. -/
def fecPowBits : Nat → Nat → Nat → Nat
  | 0, _, _ => 1
  | n + 1, a, e => fecMul (if e % 2 = 1 then a else 1) (fecPowBits n (fecMul a a) (e / 2))

/-- The inverse of a nonzero element. -/
def fecInv (a : Nat) : Nat := fecPowBits 8 a 254

/-- A power of α. -/
def fecAlpha (e : Nat) : Nat := fecPowBits 8 2 (e % 255)

/-! Polynomials, lowest power first -/

/-- The sum of two polynomials. -/
def polySum : List Nat → List Nat → List Nat
  | [], q => q
  | p, [] => p
  | a :: p, b :: q => Nat.xor a b :: polySum p q

/-- A polynomial times a constant. -/
def polyScale (c : Nat) (p : List Nat) : List Nat := p.map (fecMul c)

/-- The product of two polynomials. -/
def polyTimes : List Nat → List Nat → List Nat
  | [], _ => []
  | a :: p, q => polySum (polyScale a q) (0 :: polyTimes p q)

/-- The value of a polynomial at a point. -/
def polyAt (x : Nat) : List Nat → Nat
  | [] => 0
  | a :: p => Nat.xor a (fecMul x (polyAt x p))

/-- The formal derivative over a field of characteristic 2: coefficients of odd powers, moved down one. -/
def polyDeriv : List Nat → List Nat
  | _ :: a :: p => a :: 0 :: polyDeriv p
  | _ => []

/-- Cut to powers below `n`. -/
def polyCut (n : Nat) (p : List Nat) : List Nat := p.take n

/-- The degree, 0 for the zero polynomial. -/
def polyDegree (p : List Nat) : Nat := (p.reverse.dropWhile (fun a => a == 0)).length - 1

/-! Codewords -/

/-- The generator polynomial with roots α^0 to α^7. -/
def fecGenerator : List Nat := (List.range 8).foldl (fun g i => polyTimes g [fecAlpha i, 1]) [1]

/-- One step of the division by the generator: `reg` is the remainder, highest power first. -/
def fecShift (gen : List Nat) (reg : List Nat) (d : Nat) : List Nat :=
  let fb := Nat.xor d (reg.headD 0)
  List.zipWith (fun r g => Nat.xor r (fecMul fb g)) (reg.drop 1 ++ [0]) gen

/-- The 8 parity symbols of 128 data symbols. -/
def fecParity (data : List Nat) : List Nat :=
  let gen := (fecGenerator.reverse).drop 1
  data.foldl (fecShift gen) (List.replicate 8 0)

/-- The 8 syndromes of a received word. -/
def fecSyndromes (r : List Nat) : List Nat :=
  (List.range 8).map (fun i => r.foldl (fun acc x => Nat.xor (fecMul acc (fecAlpha i)) x) 0)

/-- The locator of symbol `j`: α to the power that the symbol is the coefficient of. -/
def fecLocator (j : Nat) : Nat := fecAlpha (135 - j)

/-- Berlekamp and Massey's iteration from an erasure locator of degree `f`: the locator polynomial, the correction
polynomial and the length, for syndromes `n` to 7. -/
def fecSearch (synd : List Nat) (f : Nat) : Nat → Nat → List Nat → List Nat → Nat → List Nat
  | 0, _, loc, _, _ => loc
  | fuel + 1, n, loc, cor, len =>
    let d := ((List.range (len + 1)).map (fun i => fecMul (loc.getD i 0) (if i ≤ n then synd.getD (n - i) 0 else 0))).foldl Nat.xor 0
    let shifted := 0 :: cor
    if d = 0 then fecSearch synd f fuel (n + 1) loc shifted len
    else
      let next := polySum loc (polyScale d shifted)
      if 2 * len ≤ n + f then fecSearch synd f fuel (n + 1) next (polyScale (fecInv d) loc) (n + 1 + f - len)
      else fecSearch synd f fuel (n + 1) next shifted len

/-- The symbols that the locator polynomial points at. -/
def fecRoots (loc : List Nat) : List Nat :=
  (List.range 136).filter (fun j => polyAt (fecInv (fecLocator j)) loc == 0)

/-- The value to add at symbol `j` (Forney, first root α^0). -/
def fecValue (loc omega : List Nat) (j : Nat) : Nat :=
  let x := fecLocator j
  let xi := fecInv x
  fecMul (fecMul x (polyAt xi omega)) (fecInv (polyAt xi (polyDeriv loc)))

/-- Correct a received word whose symbols at `erased` are not to be trusted (R251): the word and the symbols changed, where
2e + f ≤ 8 suffices. -/
def fecCorrect (r : List Nat) (erased : List Nat) : Option (List Nat × List Nat) :=
  let synd := fecSyndromes r
  if synd.all (fun x => x == 0) then some (r, [])
  else
    let f := erased.length
    if 8 < f then none
    else
      let gam := erased.foldl (fun p j => polyTimes p [1, fecLocator j]) [1]
      let loc := fecSearch synd f (8 - f) f gam gam f
      let omega := polyCut 8 (polyTimes synd loc)
      let hits := fecRoots loc
      let fixed := (List.range 136).map (fun j =>
        if hits.contains j then Nat.xor (r.getD j 0) (fecValue loc omega j) else r.getD j 0)
      let changed := hits.filter (fun j => fixed.getD j 0 != r.getD j 0)
      let errors := (changed.filter (fun j => !erased.contains j)).length
      if (fecSyndromes fixed).all (fun x => x == 0) ∧ 2 * errors + f ≤ 8 then some (fixed, changed) else none

/-! Blocks -/

/-- The symbols of codeword `c` of a block. -/
def fecWord (block : List Nat) (c : Nat) : List Nat :=
  (List.range 136).map (fun j => block.getD (4 * j + c) 0)

/-- The lane that carries block byte `b` (R250). -/
def laneOf (b : Nat) : Nat := b / 17

/-- The lane of UP_HALF that carries the bytes of a lane of a full block: its lane l carries bytes 34l to 34l + 33 (R257). -/
def halfLane (l : Nat) : Nat := l / 2

/-- The symbols of codeword `c` that lie in a lane's bytes. -/
def laneSymbols (lane c : Nat) : List Nat :=
  (List.range 136).filter (fun j => laneOf (4 * j + c) == lane)

/-- The 544 bytes of a block with 512 bytes of link payload. -/
def fecEncode (data : Bytes) : Bytes :=
  let ns := (fit 512 data).map (fun b => b.toNat)
  let parity := (List.range 4).map (fun c => fecParity ((List.range 128).map (fun j => ns.getD (4 * j + c) 0)))
  fit 512 data ++ (List.range 32).map (fun b => BitVec.ofNat 8 ((parity.getD (b % 4) []).getD (b / 4) 0))

/-- Decode a block whose lanes in `erased` are erased: its payload, and the lanes of the symbols corrected; none where the
block is bad (R251). -/
def fecDecode (block : Bytes) (erased : List Nat) : Option (Bytes × List Nat) :=
  let ns := (fit 544 block).map (fun b => b.toNat)
  let words := (List.range 4).map (fun c => fecCorrect (fecWord ns c) (erased.flatMap (fun l => laneSymbols l c)))
  if words.all Option.isSome then
    let ws := words.map (fun w => w.getD ([], []))
    some ((List.range 512).map (fun b => BitVec.ofNat 8 (((ws.getD (b % 4) ([], [])).1).getD (b / 4) 0)),
      (List.range 4).flatMap (fun c => ((ws.getD c ([], [])).2).map (fun j => laneOf (4 * j + c))))
  else none

end Sys2Proof.Machine
end

