-- ==== Sys2Proof/Machine/Link.lean ====
section
/-! DEFINITION. The Shawl's links: blocks and their replay, lanes, training, units and slots, egress, flushes and the
routing tables (R248 to R258, R264 to R266, R269 to R272, R279, R414 to R416, R424). -/

namespace Sys2Proof.Machine

/-! Port states (Table 10.3) -/

/-- The unit index of a lane of a port in the fault log (Table 16.3). -/
def laneUnit (i lane : Nat) : Nat := 256 * i + lane

/-- A port goes to RETRAIN: a shared-resource event (R257). -/
def retrainPort (s : State) (i : Nat) : State :=
  if (portOf s i).mode.carries then
    sharedEvent (modPort s i (fun x => { x with mode := .retrain, erased := none, remapRx := none, remapTx := none, remaps := [] }))
  else s

/-- What training starts from: blocks numbered from 0, nothing to replay, no unit begun. -/
def freshLink (x : Port) : Port :=
  { x with
    attempts := 0, erasures := 0, sparesUsed := 0, erased := none, remapRx := none, remapTx := none, rxNext := 0, txNext := 0,
    una := 0, replay := [], resends := 0, resendOf := 0, nakFor := [], onSpare := [], flushing := false, remaps := [], timeOut := [], half := none, lastAck := 0,
    unitPos := 0, unitBytes := [], headStamp := none, txBytes := [], sinceAck := 0, credits := [], returned := [],
    controlOut := [], corrected := [] }

/-- When training completes each queue of the port grants credits equal to its min, and grows from there (R270). -/
def grantAll (s : State) (i : Nat) : State :=
  growDie ((List.range 136).foldl (fun t n =>
    let key := queueKey i (n / 17) (n % 17)
    let m := regField s (queueReg key) 16 0
    let t1 := modQueue t key (fun q => { q with granted := m })
    modPort t1 i (fun x => { x with returned := x.returned ++ [(n / 17, n % 17, m)] })) s) (portDie i)

/-- The module id that port `i`'s partner must have (Table 10.1). -/
def expectedPartner (s : State) (i : Nat) : Nat :=
  let dim := i / 2
  let n := dimSize s dim
  let c := coord (ownId s) dim
  let d := if i % 2 = 0 then (c + 1) % n else (c + n - 1) % n
  ownId s - c * 16 ^ dim + d * 16 ^ dim

/-- The opposite port (Table 10.1). -/
def oppositePort (i : Nat) : Nat := if i % 2 = 0 then i + 1 else i - 1

/-- Training ends with its identity exchange (R256, Table 10.3). -/
def trainingDone (s : State) (i partnerType partnerId partnerPort : Nat) : State :=
  if (portOf s i).mode ≠ .training then s
  else
    let s1 := modPort s i (fun x =>
      { freshLink x with partnerType := partnerType % 4, partnerId := partnerId % 4096, partnerPort := partnerPort % 8 })
    if partnerType % 4 ≠ 2 ∧ (partnerId % 4096 ≠ expectedPartner s i ∨ partnerPort % 8 ≠ oppositePort i) then
      logFault (modPort s1 i (fun x => { x with mode := .miscabled })) { cls := 3, code := 0x28, unitKind := 5, unitIndex := laneUnit i 0 }
    else grantAll (modPort s1 i (fun x => { x with mode := .up })) i

/-- A training attempt fails; the third leaves the port FAILED (Table 10.3). -/
def trainingFails (s : State) (i : Nat) : State :=
  let x := portOf s i
  if x.mode ≠ .training then s
  else if x.attempts + 1 < 3 then modPort s i (fun y => { y with attempts := y.attempts + 1 })
  else
    logFault (modPort s i (fun y => { y with mode := .failed, attempts := 3 })) { cls := 3, code := 0x28, unitKind := 5, unitIndex := laneUnit i 0 }

/-- Send a block of the replay buffer again. -/
def sendBlock (s : State) (i n : Nat) (data : Bytes) : State :=
  emit (modPort s i (fun x =>
    { x with replay := x.replay.map (fun e => if e.1 = n then (n, now s, data) else e) })) (.block i n (fecEncode data) (portOf s i).onSpare)

/-- Send every block of the replay buffer from block `n` on again. -/
def replayFrom (s : State) (i n : Nat) : State :=
  ((portOf s i).replay.filter (fun e => psnFrom e.1 n)).foldl (fun t e => sendBlock t i e.1 e.2.2) s

/-- RETRAIN ends with a number of usable lanes, or fails (Table 10.3). -/
def retrainEnds (s : State) (i : Nat) (lanes : Option Nat) : State :=
  let x := portOf s i
  if x.mode ≠ .retrain then s
  else
    match lanes with
    | none => modPort s i (fun y => { y with mode := .training, attempts := 0 })
    | some n =>
      if 32 ≤ n then replayFrom (modPort s i (fun y => { y with mode := .up, resends := 0 })) i x.una
      else if 16 ≤ n then
        replayFrom (logFault (modPort s i (fun y => { y with mode := .upHalf, resends := 0 }))
          { cls := 3, code := 0x23, unitKind := 5, unitIndex := laneUnit i 0 }) i x.una
      else modPort s i (fun y => { y with mode := .training, attempts := 0 })

/-- SHW_PORT_CTRL.enable (R17, R414). -/
def enablePort (s : State) (i : Nat) : State :=
  let x := portOf s i
  let outside := (List.range 3).any (fun dim => decide (dimSize s dim ≤ coord (ownId s) dim))
  if x.mode = .disabled ∨ x.mode = .miscabled ∨ x.mode = .failed then
    if bvBit s.otp.portFailed i ∨ outside then logFault s { cls := 7, code := 0x66 }
    else if portDie i = 1 ∧ !s.collar.d1Usable then s
    else modPort s i (fun y => { y with mode := .training, attempts := 0 })
  else s

/-- SHW_PORT_CTRL.retrain (R414). -/
def commandRetrain (s : State) (i : Nat) : State := retrainPort s i

/-- A cable is removed or connected (R424): a port that carried packets loses its partner and retrains. -/
def cableMoves (s : State) (i : Nat) (connected : Bool) : State :=
  let s1 := modPort s i (fun x => { x with cable := connected })
  if connected then s1 else retrainPort s1 i

/-! Lanes (R258) -/

/-- The 32 bytes of a REMAP message (Table 10.2). -/
def remapMessage (lane spare block : Nat) (echo : Bool) : Bytes :=
  natLe 1 8 ++ natLe 1 2 ++ zeros 2 ++ natLe 4 block ++ natLe 1 lane ++ natLe 1 spare ++ natLe 1 (bit echo) ++ zeros 21

/-- A receiver erases a lane (R258): with a spare it asks for a remap at least 4,096 blocks ahead (a free value beyond), with
none the port is DEGRADED, and with a lane erased already it goes to RETRAIN. -/
def eraseLane (s : State) (i lane : Nat) : State :=
  let x := portOf s i
  if x.mode = .upHalf ∨ x.mode.carries = false then s
  else if x.erased = some lane then s
  else if x.erased.isSome then retrainPort s i
  else
    let s1 := modPort s i (fun y => { y with erased := some lane, erasures := min 255 (y.erasures + 1), corrected := [] })
    if x.sparesUsed < 2 then
      let block := (x.rxNext + 4096 + freeNat s 1) % 2 ^ 32
      let s2 := spendFree (modPort s1 i (fun y =>
        { y with sparesUsed := y.sparesUsed + 1, remapRx := some { lane := lane, spare := x.sparesUsed, block := block },
                 remaps := y.remaps ++ [remapMessage lane x.sparesUsed block false] }))
      sharedEvent (logFault s2 { cls := 2, code := 0x12, unitKind := 5, unitIndex := laneUnit i lane, detail := lane })
    else
      sharedEvent (logFault (modPort s1 i (fun y => { y with mode := .degraded }))
        { cls := 3, code := 0x22, unitKind := 5, unitIndex := laneUnit i lane, detail := lane })

/-- A lane that holds more than half of the symbols corrected in the last 16 blocks (R258). -/
def worstLane (x : Port) : Option Nat :=
  let all := x.corrected.flatten
  if x.corrected.length < 16 then none
  else (List.range 32).find? (fun l => decide (all.length < 2 * (all.filter (fun m => m == l)).length))

/-- Note the lanes a block needed correction in, those of UP_HALF where it has 16, and erase the lane that stands out. -/
def noteCorrections (s : State) (i : Nat) (lanes : List Nat) : State :=
  let half := (portOf s i).mode == .upHalf
  let fresh := (lanes.map (fun l => if half then halfLane l else l)).filter (fun l => (portOf s i).erased != some l)
  let s1 := modPort s i (fun x => { x with corrected := (x.corrected ++ [fresh]).drop (x.corrected.length - 15) })
  match worstLane (portOf s1 i) with
  | some l => eraseLane s1 i l
  | none => s1

/-- REMAP from the partner (R258): a request is echoed and the lane's bytes move to the spare from its block on. -/
def remapArrives (s : State) (i lane spare : Nat) (echo : Bool) (block : Nat) : State :=
  if (portOf s i).mode.carries = false ∨ echo then s
  else
    sharedEvent (modPort s i (fun x =>
      { x with remapTx := some { lane := lane, spare := spare, block := block % 2 ^ 32 },
               remaps := x.remaps ++ [remapMessage lane spare block true] }))

/-! Receiving blocks (R252, R253, R255) -/

/-- A packet from its bytes (Table 10.5). -/
def packetOf (b : Bytes) : Packet :=
  let lf := field b 6 2
  let n := lf % 8192
  { ptype := field b 0 1 / 8, vc := field b 0 1 % 8, gen := field b 1 1, dst := field b 2 2, src := field b 4 2,
    first := lf.testBit 13, last := lf.testBit 14, enc := lf.testBit 15, body := slice b 8 16, keyId := field b 0x18 2,
    ctr := field b 0x1A 6, payload := slice b 32 n, tag := if lf.testBit 15 then slice b (32 + n) 16 else [] }

/-- A packet type that travels in packet units (Table 10.6). -/
def knownType (t : Nat) : Bool := t == 4 || t == 5 || (decide (8 ≤ t) && decide (t ≤ 12)) || (decide (16 ≤ t) && decide (t ≤ 18))

/-- A whole packet has come in by a port: bad ones are dropped, one for another module goes to its transit queue, any other
waits at its partition's queue for the command that uses it (R260, R269, R279, R304). -/
def deliver (s : State) (i : Nat) (stamp : Instant) (k0 : Packet) : State :=
  let k := fillEntry s i k0
  let edgeBad := (portOf s i).edge && !(k.ptype == 4 || k.ptype == 5)
  if !knownType k.ptype || !packetFormOk k k.ptype || edgeBad then dropArrival s i k 0
  else if routeOf s k.dst ≠ some 6 then transit s { port := ⟨i % 7, by omega⟩, dt := 0, frac := stamp.frac, pkt := k } stamp
  else if k.ptype ≠ 5 ∧ !takesPackets (part s (addrPart k.dst)).mode then dropArrival s i k 4
  else
    let key := queueKey i k.vc (addrPart k.dst)
    modQueue (enterQueue s key (packetCells k)) key (fun q => { q with packets := q.packets ++ [(7, stamp, k)] })

/-- Bytes of the packet units that a packet which begins with these takes. -/
def unitsNeeded (b : Bytes) : Nat :=
  let lf := field b 6 2
  32 * ((32 + lf % 8192 + 16 * bit (lf.testBit 15) + 31) / 32)

/-- A packet whose queue was flushed while it arrived is discarded with its last cell, and its credits return (R272). -/
def discardArrival (s : State) (i : Nat) (k : Packet) : State :=
  let key := arrivalKey s i k
  leaveQueue (enterQueue (modPort s i (fun x => { x with flushing := false })) key (packetCells k)) key (packetCells k)

/-- One 32-byte unit of the stream: control units have commands of their own; packet units make packets, none of which
crosses a slot (R252, R253). -/
def takeUnit (i : Nat) (stamp : Instant) (s : State) (u : Bytes) : State :=
  let x := portOf s i
  if x.unitPos = 130 then
    let s1 := modPort s i (fun y => { y with unitPos := 0, unitBytes := [], headStamp := none })
    if x.unitBytes.isEmpty then s1
    else dropArrival (modPort s1 i (fun y => { y with flushing := false })) i (packetOf x.unitBytes) 0
  else
    let s1 := modPort s i (fun y => { y with unitPos := y.unitPos + 1 })
    if x.unitBytes.isEmpty && u.all (fun b => b == 0#8) then s1
    else
      let buf := x.unitBytes ++ u
      let st := x.headStamp.getD stamp
      if buf.length < unitsNeeded buf then modPort s1 i (fun y => { y with unitBytes := buf, headStamp := some st })
      else
        let s2 := modPort s1 i (fun y => { y with unitBytes := [], headStamp := none })
        if x.flushing then discardArrival s2 i (packetOf buf) else deliver s2 i st (packetOf buf)

/-- The remap of an erased lane has taken effect at its block (R258). -/
def reachRemap (s : State) (i number : Nat) : State :=
  match (portOf s i).remapRx with
  | some r => if psnFrom number r.block then modPort s i (fun x => { x with erased := none, remapRx := none }) else s
  | none => s

/-- A block arrives (R251, R255, R258): it is accepted in order, or discarded, with a NAK where the expected one is bad. -/
def blockArrives (s : State) (i number : Nat) (block : Bytes) (lossLane : Option Nat) (frac : Nat) : State :=
  if (portOf s i).mode.carries = false then s
  else
    let s1 := reachRemap s i (number % 2 ^ 32)
    let x := portOf s1 i
    let erased := if x.mode = .upHalf then [] else x.erased.toList
    let s2 :=
      match fecDecode block erased with
      | none =>
        let s3 := modPort s1 i (fun y => { y with corrected := [] })
        if number % 2 ^ 32 = x.rxNext then modPort s3 i (fun y => { y with nakFor := y.nakFor ++ [x.rxNext] }) else s3
      | some (data, lanes) =>
        let s3 :=
          if number % 2 ^ 32 = x.rxNext then
            (pieces 32 16 data).foldl (takeUnit i (portStamp s1 i frac)) (modPort s1 i (fun y => { y with rxNext := psnNext y.rxNext }))
          else s1
        noteCorrections s3 i lanes
    match lossLane with
    | some l => eraseLane s2 i l
    | none => s2

/-! Acknowledgement (R255) -/

/-- Resend from a block: the eighth time from one block the link goes to RETRAIN instead (R255). -/
def resend (s : State) (i n : Nat) : State :=
  let x := portOf s i
  if !(x.replay.any (fun e => e.1 == n)) then s
  else
    let count := if x.resendOf = n then x.resends + 1 else 1
    let s1 := modPort s i (fun y => { y with resendOf := n, resends := count })
    let s2 := logFault s1 { cls := 1, code := 0x05, unitKind := 5, unitIndex := laneUnit i 0 }
    if 8 ≤ count then retrainPort s2 i else replayFrom s2 i n

/-- The link acknowledge timer of the oldest block not acknowledged (R255, Table 9.5). -/
def ackTimeNs : Nat := 600

/-- The oldest block not acknowledged was sent 600 ns ago (R255). -/
def ackTimerExpires (s : State) (i : Nat) : State :=
  let x := portOf s i
  match x.replay with
  | [] => s
  | e :: _ => if x.mode.carries = false then s else resend (reach s (e.2.1 + ackTimeNs)) i e.1

/-- An ACK that comes when the timer has expired finds the expiry taken first (R244, R255). -/
def beforeAck (s : State) (i : Nat) : State :=
  match (portOf s i).replay with
  | e :: _ => if e.2.1 + ackTimeNs ≤ now s then ackTimerExpires s i else s
  | [] => s

/-- An ACK acknowledges the blocks below its number and returns credits (R255, R270). -/
def ackArrives (s0 : State) (i block : Nat) (entries : List CreditEntry) : State :=
  let s := beforeAck s0 i
  let x := portOf s i
  if x.mode.carries = false then s
  else
    let kept := x.replay.filter (fun e => psnFrom e.1 (block % 2 ^ 32))
    modPort s i (fun y =>
      { y with replay := kept, una := block % 2 ^ 32, resends := if kept.length < x.replay.length then 0 else y.resends,
               credits := entries.foldl (fun t e =>
                 tabMap 0 t (17 * e.vc.val + e.queue % 17) (fun c => c + e.cells)) y.credits })

/-- A NAK makes the sender resend from its block (R255). -/
def nakArrives (s : State) (i block : Nat) : State :=
  if (portOf s i).mode.carries = false then s else resend s i (block % 2 ^ 32)

/-! Egress (R254, R266, R270) -/

/-- The owner bytes of a port's egress table. -/
def egressTable (s : State) (i : Nat) : List Nat :=
  (List.range 64).map (fun n => bitsOf (reg s (.shwEgr i (n / 8))) (8 * (n % 8)) 8)

/-- The credit entry a packet needs at the next hop (R270). -/
def creditKey (x : Port) (k : Packet) : Nat :=
  17 * k.vc + (if x.partnerType = 1 ∧ addrModule k.dst = x.partnerId then addrPart k.dst else 16)

/-- A packet that may go: the port carries its type (R256), it fits what is left of the slot, and the credits of all its cells are
held. -/
def mayGo (x : Port) (room : Nat) (k : Packet) : Bool :=
  (!x.edge || k.ptype == 4 || k.ptype == 5) && decide (packetUnits k ≤ room) && decide (packetCells k ≤ tabGet 0 x.credits (creditKey x k))

/-- The first packet of an owner that may go, with none before it of its destination and class (R265). -/
def pickOwn (x : Port) (room owner : Nat) : List (Nat × Packet) → List (Nat × Nat) → Option Packet
  | [], _ => none
  | (o, k) :: rest, passed =>
    if o ≠ owner ∨ passed.contains (k.dst, k.vc / 2) then pickOwn x room owner rest passed
    else if mayGo x room k then some k
    else pickOwn x room owner rest ((k.dst, k.vc / 2) :: passed)

/-- Packets in transit to a port on one channel, with the queue that holds them: those for other modules, and replies that this module
puts out by an edge port (R261, R266). -/
def transitHeads (s : State) (i vc : Nat) : List (Option Nat × Instant × Packet) :=
  let own := ((portOf s i).egress.filter (fun e => e.1 == 16 && e.2.vc == vc)).map (fun e => (none, ⟨0, 0⟩, e.2))
  own ++ s.shawl.queues.flatMap (fun q =>
    (q.2.packets.filter (fun e => e.1 == i && e.2.2.vc == vc)).map (fun e => (some q.1, e.2.1, e.2.2)))

/-- The one that arrived first. -/
def earliestHead : List (Option Nat × Instant × Packet) → Option (Option Nat × Instant × Packet)
  | [] => none
  | e :: es =>
    match earliestHead es with
    | none => some e
    | some f => if before f.2.1 e.2.1 then some f else some e

/-- The transit packet that goes next: the channels in turn from `nextVc`, each in order of arrival. -/
def pickTransit (s : State) (i room : Nat) : Option (Option Nat × Instant × Packet) :=
  let x := portOf s i
  (List.range 8).findSome? (fun n =>
    (earliestHead (transitHeads s i ((x.nextVc + n) % 8))).filter (fun e => mayGo x room e.2.2))

/-- A packet leaves: its credits are used, and its bytes fill the slot. -/
def launch (s : State) (i : Nat) (k : Packet) (slot : Bytes) : State × Bytes :=
  let s1 := modPort s i (fun x => { x with credits := tabMap 0 x.credits (creditKey x k) (fun c => c - packetCells k) })
  (emit s1 (.packet i k), slot ++ fit (32 * packetUnits k) (packetBytes k))

/-- Fill a slot with the packets of a partition. -/
def fillOwn (i owner : Nat) : Nat → State → Bytes → State × Bytes
  | 0, s, slot => (s, slot)
  | n + 1, s, slot =>
    match pickOwn (portOf s i) (130 - slot.length / 32) owner (portOf s i).egress [] with
    | none => (s, slot)
    | some k =>
      let left := noteLeft (modPort s i (fun x => { x with egress := x.egress.erase (owner, k) })) owner k
      let r := launch left i k slot
      fillOwn i owner n r.1 r.2

/-- Fill a slot with packets in transit; their cells leave the pool. -/
def fillTransit (i : Nat) : Nat → State → Bytes → State × Bytes
  | 0, s, slot => (s, slot)
  | n + 1, s, slot =>
    match pickTransit s i (130 - slot.length / 32) with
    | none => (s, slot)
    | some (key, st, k) =>
      let s1 :=
        match key with
        | none => modPort s i (fun x => { x with egress := x.egress.erase (16, k) })
        | some q => leaveQueue (modQueue s q (fun c => { c with packets := c.packets.erase (i, st, k) })) q (packetCells k)
      let r := launch (modPort s1 i (fun x => { x with nextVc := (k.vc + 1) % 8 })) i k slot
      fillTransit i n r.1 r.2

/-- A partition has a packet ready for a port. -/
def ownReady (s : State) (i p : Nat) : Bool := (pickOwn (portOf s i) 130 p (portOf s i).egress []).isSome

/-- Who uses a slot (R266, R358): its owner; where that has nothing ready, in work-conserving mode the first partition after
slot mod 16 that has; then TRANSIT (16). A partition's slot withheld by the power cap stays idle. -/
def slotUser (s : State) (i n : Nat) : Option Nat :=
  let owner := (portOf s i).owners.getD n 0x10
  let others := ((List.range 16).map (fun d => (n + 1 + d) % 16)).find? (ownReady s i)
  let idle := if regField s .ptnModes 2 2 = 1 then some (others.getD 16) else some 16
  if owner < 16 ∧ n % 16 < s.power.stageLink then none
  else if owner < 16 then if ownReady s i owner then some owner else idle
  else if owner = 16 ∧ (pickTransit s i 130).isSome then some 16
  else idle

/-- Credits to return, those of one queue together (R270). -/
def mergeReturns : List (Nat × Nat × Nat) → List (Nat × Nat × Nat)
  | [] => []
  | e :: es =>
    let rest := mergeReturns es
    match rest.find? (fun f => f.1 == e.1 && f.2.1 == e.2.1) with
    | none => e :: rest
    | some f => (e.1, e.2.1, e.2.2 + f.2.2) :: rest.erase f

/-- An ACK (Table 10.2): up to eight credit entries of at most 65,535 cells. -/
def ackMessage (x : Port) (entries : List (Nat × Nat × Nat)) : Bytes :=
  fit 32 (natLe 1 8 ++ natLe 1 0 ++ natLe 1 entries.length ++ zeros 1 ++ natLe 4 x.rxNext ++
    entries.flatMap (fun e => natLe 1 (e.1 * 32 + e.2.1) ++ natLe 2 (min 65535 e.2.2)))

/-- What the ACK leaves to return. -/
def afterAck (x : Port) : Port × Bytes :=
  let all := mergeReturns x.returned
  let now_ := all.take 8
  let left := (now_.filter (fun e => decide (65535 < e.2.2))).map (fun e => (e.1, e.2.1, e.2.2 - 65535))
  ({ x with returned := left ++ all.drop 8, lastAck := x.rxNext, sinceAck := 0 }, ackMessage x now_)

/-- The control unit of a slot (R254): the second half of a packet begun, else by rank JOB_TEAR, NAK, REMAP, TIME, ACK, IDLE,
with an ACK at least once in every eight slots. -/
def controlUnit (x : Port) : Port × Bytes :=
  let y := { x with sinceAck := x.sinceAck + 1 }
  match x.half with
  | some b => ({ y with half := none }, b)
  | none =>
    if 7 ≤ x.sinceAck then afterAck x
    else
      match x.controlOut, x.nakFor, x.remaps, x.timeOut with
      | k :: ks, _, _, _ => if x.sinceAck = 6 then afterAck x else ({ y with controlOut := ks, half := some (slice k 32 32) }, k.take 32)
      | [], n :: ns, _, _ => ({ y with nakFor := ns }, natLe 1 8 ++ natLe 1 1 ++ zeros 2 ++ natLe 4 n ++ zeros 24)
      | [], [], m :: ms, _ => ({ y with remaps := ms }, m)
      | [], [], [], k :: ks => if x.sinceAck = 6 then afterAck x else ({ y with timeOut := ks, half := some (slice k.2 32 32) }, k.2.take 32)
      | [], [], [], [] => if x.returned.isEmpty && x.rxNext == x.lastAck then (y, zeros 32) else afterAck x

/-- Whole blocks of the stream leave with the next numbers and stay for replay (R255); from the block of a remap on, its lane's bytes
leave on the spare (R258). -/
def sendBlocks (i : Nat) : Nat → State → State
  | 0, s => s
  | n + 1, s =>
    let x := portOf s i
    if x.txBytes.length < 512 ∨ 1024 ≤ x.replay.length then s
    else
      let data := x.txBytes.take 512
      let moved := (x.remapTx.filter (fun r => psnFrom x.txNext r.block)).toList.map (fun r => (r.lane, r.spare))
      let onSpare := moved ++ x.onSpare.filter (fun e => moved.all (fun m => m.1 != e.1))
      sendBlocks i n (emit (modPort s i (fun y =>
        { y with txBytes := y.txBytes.drop 512, replay := y.replay ++ [(x.txNext, now s, data)], txNext := psnNext y.txNext,
                 onSpare := onSpare, remapTx := if moved.isEmpty then y.remapTx else none })) (.block i x.txNext (fecEncode data) onSpare))

/-- The departure of a TIME message is stamped as its first half goes out (R232): the model's finest step of the egress is the slot
(log entry 113). -/
def stampDeparture (s : State) (i frac : Nat) (b : Bytes) : State :=
  let d := portStamp s i frac
  emit { s with time := { s.time with neighbours := tabMap {} s.time.neighbours i (fun n =>
    { n with departed := d, departedQuality := s.time.mode.code, sent := true }) } } (.timeMsg i (field b 8 1) (field b 12 4) d)

/-- The control unit of port `x` begins its next TIME message. -/
def beginsTime (x : Port) : Bool := decide ((controlUnit x).1.timeOut.length < x.timeOut.length)

/-- An egress slot of a port (R252 to R254, R266): its packets, IDLE to fill it, and its control unit. A sender whose replay
buffer is full stalls. -/
def egressSlot (s : State) (i : Nat) : State :=
  let x := portOf s i
  if x.mode.carries = false ∨ 1024 ≤ x.replay.length then s
  else
    let s1 := if x.frameSlot = 0 ∨ x.owners.isEmpty then modPort s i (fun y => { y with owners := egressTable s i }) else s
    let r :=
      match slotUser s1 i x.frameSlot with
      | none => (s1, [])
      | some u => if u < 16 then fillOwn i u 130 s1 [] else fillTransit i 130 s1 []
    let y := portOf r.1 i
    let c := controlUnit y
    let s2 := if beginsTime y then stampDeparture r.1 i (y.timeOut.headD (0, [])).1 (y.timeOut.headD (0, [])).2 else r.1
    sendBlocks i 32 (modPort s2 i (fun _ =>
      { c.1 with txBytes := c.1.txBytes ++ fit 4160 r.2 ++ c.2, frameSlot := (x.frameSlot + 1) % 64 }))

/-! Flushes (R272) -/

/-- The packet that is arriving at a port came for this queue: what has come of it has its header (R272). -/
def arrivingFor (s : State) (key : Nat) : Bool :=
  let b := (portOf s (queuePort key)).unitBytes
  decide (32 ≤ b.length) && arrivalKey s (queuePort key) (packetOf b) == key

/-- Discard every packet of a queue and return its credits; a target's held packets and submissions that wait in it go with
it. A packet still arriving is to be discarded with its last cell (R272). -/
def flushQueue (s : State) (key : Nat) : State :=
  let n := (queueOf s key).cells
  let p := queueIdx key
  let s0 := if arrivingFor s key then modPort s (queuePort key) (fun x => { x with flushing := true }) else s
  let s1 := modQueue s0 key (fun q => { q with packets := [] })
  let gone := fun (l : HeldPacket) => l.queue == some key
  let keep := fun (w : Window) => { w with waiting := w.waiting.filter (fun b => b.queue != some key) }
  let s2 :=
    if p < 16 ∧ s1.parts.any (fun e => e.1 == p) then
      modPart s1 p (fun x =>
        { x with landings := x.landings.filter (fun l => !gone l),
                 misses := x.misses.map (fun m => { m with held := m.held.filter (fun l => !gone l) }),
                 submit := x.submit.map keep, recover := x.recover.map keep })
    else s1
  if n = 0 then s2 else leaveQueue s2 key n

/-- Flush every ingress queue of a partition (R272). -/
def flushPartition (s : State) (p : Nat) : State :=
  (List.range 48).foldl (fun t n => flushQueue t (queueKey (n / 8) (n % 8) p)) s

/-! Routing tables (R264, R265, R415) -/

/-- The port that leads from coordinate `c` to `d` on a ring of `n` the shorter way, the positive one on a tie. -/
def ringPort (dim n c d : Nat) : Nat :=
  let up := (d + n - c) % n
  if 2 * up ≤ n then 2 * dim else 2 * dim + 1

/-- The default entry for a destination: X, then Y, then Z; LOCAL for the module itself, UNREACHABLE outside the torus. -/
def defaultRoute (s : State) (dst : Nat) : Nat :=
  if (List.range 3).any (fun dim => decide (dimSize s dim ≤ coord dst dim)) then 0xF
  else
    match (List.range 3).find? (fun dim => coord dst dim != coord (ownId s) dim) with
    | none => 0xE
    | some dim => ringPort dim (dimSize s dim) (coord (ownId s) dim) (coord dst dim)

/-- Every write of SHW_DIM computes the default table into both copies (R415). -/
def writeDim (s : State) (v : Nat) : State :=
  let new := bitsOf v 0 12 + bitsOf v 16 12 * 2 ^ 16
  if regField s .glbLock 0 0 = 1 ∧ new ≠ reg s .shwDim then refuseAccess s
  else
    let s1 := setReg s .shwDim new
    { s1 with shawl := { s1.shawl with tables := (List.range 8192).map (fun n => (n, defaultRoute s1 (n % 4096))) } }

/-- SHW_RT_SWAP (R265). -/
def swapTables (s : State) : State :=
  { s with shawl := { s.shawl with active := 1 - s.shawl.active } }

end Sys2Proof.Machine
end

