-- ==== Sys2Proof/Machine/Reset.lean ====
section
/-! DEFINITION. What a reset does to a partition: its descriptors, windows, rounds, keys, records and rings (R227, R303 to
R306, R381 to R383, R387), the operator record (R391) and the scratchpad sample (R389, R390). -/

namespace Sys2Proof.Machine

/-! Self-tests that a reset aborts (R398) -/

/-- The Sleeve of the region under test, where it has one (Table 17.1). -/
def testSleeve (s : State) : Option Nat :=
  if s.bst.kind = 1 ∨ s.bst.kind = 2 then some (s.bst.index / 9)
  else if s.bst.kind = 6 then some (4 * s.bst.index)
  else if 3 ≤ s.bst.kind ∧ s.bst.kind ≤ 5 then some s.bst.index
  else none

/-- A running self-test ends with result ABORTED (R398). -/
def abortTest (s : State) : State :=
  if s.bst.busy then raiseIrq { s with bst := { s.bst with busy := false, held := false, result := 3 } } 64 else s

/-- A reset of partition `p` aborts the test of a region it owns. -/
def abortTestOf (s : State) (p : Nat) : State :=
  match testSleeve s with
  | some v => if bvBit (part s p).sleeves v then abortTest s else s
  | none => s

/-! Descriptors (R227) -/

/-- Tiles whose bytes have reached the commit buffer are written (R382). -/
def drainCommits (s : State) (p : Nat) : State :=
  ((((flying s p).filter (fun f => f.done.isNone)).flatMap (fun f =>
    (f.jobs.filter (fun j => j.passDone)).map (fun j => j.engine))).eraseDups).foldl commitTile s

/-- The records of descriptors that are done are posted in order of completion. -/
def postDone (s : State) (p : Nat) : Nat → State
  | 0 => s
  | n + 1 =>
    match firstDone (flying s p) with
    | none => s
    | some f =>
      match f.done with
      | none => s
      | some d => postDone (completeFlight s f d) p n

/-- The record of a fetched descriptor that never ran. -/
def unrunRecord (s : State) (p : Nat) (f : Fetched) (ref : Nat) : Record :=
  { tag := f.h.tag, slot := f.h.slot, status := stReset, gen := (part s p).gen, result := 0, ftDone := now s,
    opcode := opcodeOf f.body, ring := f.h.ring.val, irq := bvBit f.h.hflags 1, faultRef := ref }

/-- A ring's fetched descriptors that were not dispatched receive PARTITION_RESET records. -/
def endFetched (ref p : Nat) (s : State) (r : Nat) : State :=
  let fs := (sqOf s p r).buffer
  fs.foldl (fun t f => postRecord t p (cqOfRing t p r) (unrunRecord t p f ref)) (modSq s p r (fun q => { q with buffer := [] }))

/-- Every fetched descriptor of a partition that has not completed receives a PARTITION_RESET record of the old generation;
those already done receive their own. Records without room are counted (R227). -/
def endDescriptors (s : State) (p ref : Nat) : State :=
  let s1 := modPart s p (fun x => { x with sq := x.sq.map (fun e => (e.1, { e.2 with lost := 0 })) })
  let s2 := postDone (drainCommits (chargePasses s1 p) p) p 256
  let s3 := postDone (endFlights s2 p (fun _ => true) stReset ref) p 256
  let s4 := (List.range 8).foldl (endFetched ref p) s3
  { s4 with collar := { s4.collar with waiting := s4.collar.waiting.filter (fun w =>
      match w.2 with
      | .descriptor _ => w.1 != p
      | _ => true) } }

/-! Windows and rounds -/

/-- A window's submissions keep nothing in the Pocket or in cipher contexts. A CLOSED one stays CLOSED, with its list (R242, R243);
where it loses summands by this, nothing reads them any more (log entry 117). -/
def emptyWindow (s : State) (p : Nat) (k : WinKind) : State :=
  match windowOf (part s p) k with
  | none => s
  | some w =>
    let loses := !(landingIdle w && stagingIdle w) &&
      (inPocket w.landingAddr || w.stageFirst.isSome || w.subs.any (fun b => b.sharedKey.isSome))
    if loses then
      releaseUses (setWindow s p k (some { w with
        lost := true, subs := w.subs.map (fun b => { b with slotFree := true, sharedKey := none, stage := none }) })) p k
    else releaseUses s p k

/-- Every window of a partition is ABORTED and its reserved areas are released. -/
def endWindows (s : State) (p ref : Nat) : State :=
  emptyWindow (emptyWindow (abortWindows s p stReset ref) p .submit) p .recover

/-- Every round but an UNMASKED one becomes UNRECOVERABLE and its recovery area is erased (Table 4.8). -/
def loseRounds (s : State) (p : Nat) : State :=
  ((part s p).rounds.filter (fun r => r.mode != .unmasked)).foldl (fun t r =>
    eraseArea (modRound t p r.roundId (fun y => { y with mode := .unrecoverable })) p r.roundId) s

/-- Job tears for every link key of a partition; its own entries are torn too (R275, Table 16.4). -/
def tearOwn (s : State) (p : Nat) (r : TearReason) : State :=
  let s1 := tearAll s p r
  { s1 with shawl := { s1.shawl with keys := s1.shawl.keys.map (fun e => if e.p = p then { e with torn := true } else e) } }

/-! The operator record (R391) -/

/-- The sequence of partitions that are not FREE. -/
def heldPartitions (s : State) : List Nat := (List.range 16).filter (fun p => (part s p).mode != .free)

/-- A ring as the operator record keeps it. -/
def ringRow (s : State) (p r : Nat) : OpRing :=
  let q := sqOf s p r
  { ring := 8 * p + r, fetched := q.fetched, lastTail := q.lastTail, mode := q.mode,
    head := q.buffer.head?.map (fun f => (opcodeOf f.body, f.h.tag)),
    held := (q.buffer.head?.map (fun f => f.waited || heldBack s f.h f.body)).getD false }

/-- A descriptor in flight as the operator record keeps it. -/
def flightRow (f : InFlight) : OpFlight :=
  { p := f.h.p.val, opcode := f.opcode, tag := f.h.tag, ring := f.h.ring.val, entry := f.h.slot, dispatchFt := f.dispatchFt.ns,
    engines := (f.jobs.flatMap TileJob.engines).eraseDups, committed := f.committed }

/-- A window as the operator record keeps it. -/
def windowRow (s : State) (p : Nat) (w : Window) : OpWindow :=
  { p := p, kind := w.kind, mode := w.mode, roundId := w.roundId, opens := w.opens, closes := w.closes, assigned := w.assigned,
    accepted := (acceptedSubs w).length, recovery := (roundOf (part s p) w.roundId).map (fun r => r.mode) }

/-- An engine slot as the operator record keeps it. -/
def engineRow (s : State) (n : Nat) : OpEngine :=
  let l := (slotOf s n).logical
  let run := l.bind (runningPass s)
  { slot := n, logical := l, opcode := run.map (fun e => e.1.opcode), passes := (run.map (fun e => e.1.committed)).getD 0,
    ns := (run.map (fun e => now s - e.2.startFt)).getD 0 }

/-- A space slot as the operator record keeps it. -/
def spaceRow (s : State) (p k : Nat) : OpSpace :=
  let qs := (part s p).qps.filter (fun q => pdSlot s p q.pd == k)
  { p := p, slot := k, mode := (slotState s p k).mode, ready := (qs.filter (fun q => q.ready)).length,
    errors := (qs.filter (fun q => !q.ready)).length, messages := (qs.filter (fun q => q.msg.isSome)).length }

/-- Control-plane state as the operator record keeps it (Table 16.9). -/
def operatorRecord (s : State) (trigger ref : Nat) : OpRecord :=
  let ps := heldPartitions s
  { trigger := trigger, mode := s.faults.mode, faultRef := ref, stamp := instant s,
    rings := ps.flatMap (fun p => (List.range 8).map (ringRow s p)),
    inflight := s.inflight.map flightRow,
    reservations := s.inflight.flatMap (fun f => f.reserved.map (fun r => (f.id, r.1, r.2, f.chaining))),
    windows := ps.flatMap (fun p => ((part s p).submit.toList ++ (part s p).recover.toList).map (windowRow s p)),
    engines := (List.range 144).map (engineRow s),
    queues := s.shawl.queues.map (fun e => (e.1, e.2.cells, e.2.granted)),
    spaces := ps.flatMap (fun p => (List.range 4).map (spaceRow s p)),
    token := s.freeCtr }

/-- The operator record replaces the previous one. -/
def takeRecord (s : State) (trigger ref : Nat) : State :=
  spendFree { s with faults := { s.faults with opRecord := some (operatorRecord s trigger ref) } }

/-! Scratchpad samples (R389, R390) -/

/-- A unit's 16-byte metadata record. -/
def unitRecord (s : State) (p u : Nat) : Bytes :=
  let m := unitMeta s p u
  let st := match m.state with | .free => 0 | .plain => 1 | .round => 2
  let role := match m.chain with | .none => 0 | .partialSum => 1 | .total => 2
  let mode := match m.mode with | .mod2k => natLe 1 0 | .modq => natLe 1 1 | .sats => natLe 1 2 | .f64 => [Config.metaCode 2 3]
  let lost := (part s p).bad.contains (physUnit (part s p) u)
  [Config.metaCode 0 st, Config.metaCode 1 m.width] ++ mode ++
    natLe 1 (bit m.saturated + 2 * bit m.mark + 4 * ((Config.metaCode 3 role).toNat % 4) + 16 * bit lost) ++ natLe 4 m.count ++
    natLe 4 (if m.state = .round then m.seqNext else m.passTag) ++ natLe 4 m.roundId

/-- A descriptor in flight reads or writes a unit (R389). -/
def unitTouched (fs : List InFlight) (u : Nat) : Bool :=
  fs.any (fun f => f.done.isNone && f.reserved.any (fun r => decide (r.1 ≤ u) && decide (u < r.1 + r.2)))

/-- The tile that begins at a unit may be sampled: unmarked, of no reserved use, without error, touched at the trigger. -/
def tileSampled (s : State) (p : Nat) (fs : List InFlight) (u : Nat) : Bool :=
  let x := part s p
  let m := unitMeta s p u
  let n := tileUnits m.width
  u % n == 0 && !m.mark && unitTouched fs u && !(usesOf x).any (fun r => overlaps r.first r.units u n) &&
    !((List.range n).any (fun i => x.bad.contains (physUnit x (u + i))))

/-- One sampled tile: its first unit, its unit count and its contents. -/
def tileRecord (s : State) (p u : Nat) : Bytes :=
  let n := tileUnits (unitMeta s p u).width
  natLe 4 u ++ natLe 4 n ++ pread s p (pocketAddr u) (8192 * n)

/-- Sampled tiles in ascending order while they fit; whether one was left out. -/
def sampleTiles (s : State) (p limit : Nat) : List Nat → Bytes → Bytes × Bool
  | [], acc => (acc, false)
  | u :: us, acc =>
    let b := acc ++ tileRecord s p u
    if limit < b.length then (acc, true) else sampleTiles s p limit us b

/-- DRAM slots of partition `p` on device `d` (R197). -/
def slotsOn (s : State) (p d : Nat) : Nat :=
  ((List.range 64).filter (fun i => bitsOf (reg s (.drmSlot d (i / 8))) (8 * (i % 8)) 8 == p)).length

/-- Bytes that the host-visible write bandwidth of a partition moves in 8 ms (R198, R389): min over devices of
s_d ÷ 64 × 85.33 GB/s × n ÷ g_d. -/
def sampleBandwidth (s : State) (p : Nat) : Nat :=
  let set := (part s p).host
  let ds := (set.map (fun g => g / 16)).eraseDups
  let each := ds.map (fun d => 8000000 * 4 * slotsOn s p d * set.length / (3 * (set.filter (fun g => g / 16 == d)).length))
  each.foldl min (2 ^ 64)

/-- A sample's header (Table 16.8). -/
def sampleHeader (s : State) (p trigger ref : Nat) (cut : Bool) (keyId len : Nat) (nonce : Bytes) : Bytes :=
  let x := part s p
  natLe 2 0x0901 ++ natLe 1 p ++ natLe 1 x.gen ++ natLe 2 (ownId s) ++ natLe 1 trigger ++ natLe 1 (bit cut) ++
    natLe 8 x.instanceId ++ natLe 8 keyId ++ natLe 8 len ++ natLe 4 ref ++ nonce ++ stampBytes s (instant s) 0xFF 0

/-- A scratchpad sample of a partition is written where one is due (R389); `fs` are the descriptors in flight at the
trigger. One that does not fit its area or the window is lost (R393). -/
def sample (s : State) (p trigger ref : Nat) (fs : List InFlight) : State :=
  let x := part s p
  let pages := regField s (.fltDump p) 63 40
  match x.keys.find? (fun k => k.kind == 3) with
  | none => s
  | some k =>
    if pages = 0 then s
    else
      let units := x.units
      let head := (List.range units).flatMap (unitRecord s p)
      let room := min (pages * 4096) (sampleBandwidth s p) - 80 - head.length
      let t := sampleTiles s p room ((List.range units).filter (tileSampled s p fs)) []
      let body := head ++ t.1
      let nonce := natLe 8 x.dumpCtr ++ natLe 2 (ownId s) ++ natLe 1 p ++ zeros 1
      let hd := sampleHeader s p trigger ref t.2 k.keyId body.length nonce
      let addr := 2 ^ 60 + 4096 * regField s (.fltDump p) 35 12
      let s1 := modPart s p (fun y => { y with dumpCtr := y.dumpCtr + 1 })
      if pages * 4096 < body.length + 80 ∨ !addrFits x addr (body.length + 80) 1 then s1
      else
        let c := gcmSeal k.key nonce hd body
        writeMarked s1 p addr (hd ++ c.1 ++ c.2) (plainMeta 16) false false

/-! The steps of a partition reset (R382, Table 16.5) -/

/-- Cuffs, keystream state and samplers of a partition's Sleeves are zeroed: no range stays resident and no constant set is left
(R128 to R130). -/
def zeroCuffs (s : State) (sl : List Nat) : State :=
  { s with slots := s.slots.map (fun e => if sl.contains (e.1 / 9) then (e.1, { e.2 with resident := [], consts := [] }) else e) }

/-- Units with an uncorrectable error are zeroed and become FREE (Table 16.4). -/
def healUnits (s : State) (p : Nat) : State :=
  let bad := (part s p).bad
  let s1 := bad.foldl (fun t ph =>
    { t with lining := memZero t.lining (8192 * ph) 8192, tiles := tabErase t.tiles ph }) s
  modPart s1 p (fun x => { x with bad := [] })

/-- What a partition reset and a compute reset take from a partition before anything is cleared: descriptors, windows, tears
and the sample (Table 16.5 steps 1 to 4, Table 16.6 steps 1 and 2). Windows release their areas after the sample, which leaves reserved
uses out. -/
def stopPartition (s : State) (p trigger ref : Nat) (tear : TearReason) (flush : Bool) : State :=
  let fs := flying s p
  let s1 := endDescriptors (abortTestOf s p) p ref
  let s2 := if flush then flushPartition s1 p else s1
  endWindows (sample (tearOwn s2 p tear) p trigger ref fs) p ref

/-- Steps 1 to 5 of a partition reset; step 6 waits for the partition's Collar slot. -/
def resetSteps (s : State) (p trigger ref : Nat) (tear : TearReason) : State :=
  let s1 := stopPartition (takeRecord s trigger ref) p trigger ref tear true
  zeroCuffs (healUnits (loseRounds s1 p) p) (part s p).sleeveList

/-- A partition reset begins (R305, R382): `cause` 1 commanded, 2 after a fault. -/
def beginReset (s : State) (p cause ref : Nat) : State :=
  let trigger := if cause = 2 then 1 else 2
  let s1 := modPart s p (fun x => { x with mode := .resetting, resetCause := cause })
  collarQueue (resetSteps s1 p trigger ref (if cause = 2 then .fault else .reset)) p (.reset p)

/-- What the partition manager's command ends with: busy falls and the operator is told (R300, Table 18.3). A nonzero result
is logged (Table 18.10). -/
def finishCommand (s : State) (p result : Nat) : State :=
  let s1 := raiseIrq { s with manager := { s.manager with busy := false, result := result } } 128
  if result = 0 then s1
  else logFault s1 { cls := 7, code := 0x64, p := p, detail := result }

/-- A partition command ends where it is the one that runs. -/
def finishIfCurrent (s : State) (p : Nat) : State :=
  if s.manager.busy && s.manager.current == p then finishCommand s p 0 else s

/-- The partition manager takes a command for `p`. -/
def takeCommand (s : State) (p : Nat) : State :=
  { s with manager := { s.manager with busy := true, current := p } }

/-! Rings after a reset -/

/-- A ring goes on under the new generation (R227, Table 8.6): a STOPPED one discards its unfetched range and reads its
doorbell line at once; every enabled ring's head line is written. -/
def resumeRing (restart : Bool) (p : Nat) (s : State) (r : Nat) : State :=
  let q := sqOf s p r
  if q.mode = .disabled then s
  else if q.mode = .stopped ∧ restart then
    writeHead (invalidate (modSq s p r (fun y =>
      { y with mode := .idle, fetched := y.lastTail, reads := [], batches := [], burst := 0 })) p r (instant s)) p r
  else askBurst (writeHead (modSq s p r (fun y => { y with burst := 0 })) p r) p r

/-- A partition runs on with the next generation, all its rings resumed (R227, R382, R383). -/
def resumePartition (s : State) (p : Nat) (restart : Bool) : State :=
  let s1 := modPart s p (fun x => { x with gen := nextGen x.gen, resetCause := 0 })
  (List.range 8).foldl (resumeRing restart p) s1

/-- The context cache is empty and its key new (R285): no queue pair is left. -/
def freshContexts (s : State) (p : Nat) : State :=
  spendFree (modPart s p (fun x =>
    { x with contextKey := freeBytes s 32, evictCount := 1, qps := [], misses := [], backed := [], retry := [], landings := [] }))

/-! Creation, scrub and destruction -/

/-- A partition's memory is cleared (R129, R200, R201): its Pockets and Cuffs, its granules' blocks, the pin table and every
tile. -/
def clearMemory (s : State) (p : Nat) : State :=
  let x := part s p
  let s1 := zeroCuffs (clearGranules (clearPockets s x.sleeveList) (x.dram ++ x.host)) x.sleeveList
  modPart s1 p (fun y => { y with pins := [], bad := [] })

/-- New keys and a new instance id are drawn (R301, R303): the ML-KEM key pair's seed, the context key and 64 bits. -/
def drawKeys (s : State) (p : Nat) : State :=
  let b := freeBytes s 104
  let kp := kemKeyGen (slice b 0 32) (slice b 32 32)
  let s1 := spendFree (modPart s p (fun x =>
    { x with ek := kp.1, dk := kp.2, contextKey := slice b 64 32, evictCount := 1, instanceId := field b 96 8, wiresLoaded := true }))
  let c : RecordChain := { p := p, instance_ := field b 96 8, seq := 0, prevDigest := zeros 32, missing := false }
  { s1 with manager := { s1.manager with chains := s1.manager.chains.filter (fun d => d.p != p) ++ [c] } }

/-- A space slot's or protection domain's registers return to their reset values. -/
def clearSpaceRegs (p : Nat) (s : State) : State :=
  let s1 := (List.range 16).foldl (fun t q => setReg (setReg t (.rmaPdKey p q) 0) (.rmaPdCtrl p q) 0) s
  (List.range 4).foldl (fun t k =>
    clearExports (setReg (setReg (setReg (setReg t (.spId p k) 0) (.spKey p k) 0) (.spCtrl p k) 0) (.spRevokeFt p k) 0) p k) s1

/-- Every space slot and queue pair is gone (R303). -/
def dropSpaces (s : State) (p : Nat) : State :=
  modPart (clearSpaceRegs p s) p (fun x =>
    { x with spaces := [], qps := [], misses := [], backed := [], retry := [], landings := [] })

/-- Every key of a partition's store and of the link-key pool is destroyed, each link key with its tear (R303, R304). -/
def destroyKeys (s : State) (p : Nat) (r : TearReason) : State :=
  let s1 := tearAll s p r
  let s2 := { s1 with shawl := { s1.shawl with keys := s1.shawl.keys.filter (fun e => e.p != p) } }
  modPart s2 p (fun x => { x with keys := [], authority := none, importSeq := 0, modelGen := 0, modelSealed := 0, dumpCtr := 1 })

/-- The slot bytes that name a partition return to their reset value (R197, R416). -/
def clearSlotBytes (s : State) (p : Nat) (r : Reg) (idle : Nat) : State :=
  let v := reg s r
  setReg s r ((List.range 8).foldl (fun a b => if bitsOf a (8 * b) 8 = p then setBits a (8 * b) 8 idle else a) v)

/-- The slot entries of a partition in every DRAM and egress table are cleared. -/
def clearSlots (s : State) (p : Nat) : State :=
  let s1 := (List.range 128).foldl (fun t n => clearSlotBytes t p (.drmSlot (n / 8) (n % 8)) 0x1F) s
  (List.range 48).foldl (fun t n => clearSlotBytes t p (.shwEgr (n / 8) (n % 8)) 0x10) s1

/-- The RING_ registers of a partition return to their reset values (R209). -/
def clearRings (s : State) (p : Nat) : State :=
  let one := fun (t : State) (r : Nat) =>
    [Reg.sqBase p r, .sqDb p r, .sqHeadln p r, .sqCtrl p r, .cqBase p r, .cqCredit p r, .cqCtrl p r, .cqMod p r,
      .cqMsiAddr p r, .cqMsiData p r].foldl (fun u g => setReg u g g.reset) t
  setReg (modPart ((List.range 8).foldl one s) p (fun x => { x with sq := [], cq := [], lastRing := 7 })) (.ringLock p) 0

/-- DESTROY begins (R304): all but the key store and the final record, which wait for the Collar slot. Its windows, rounds
and contexts go with it. -/
def beginDestroy (s : State) (p : Nat) : State :=
  let s1 := modPart s p (fun x => { x with mode := .destroying, resetCause := 0, background := [] })
  let s2 := flushPartition (endDescriptors (abortTestOf s1 p) p 0) p
  let s3 := tearAll (abortWindows s2 p stReset 0) p .destruction
  let s4 := clearSlots (clearRings (clearMemory s3 p) p) p
  let s5 := modPart s4 p (fun x => { x with submit := none, recover := none, rounds := [] })
  let drop := s5.collar.waiting.filter (fun w =>
    match w.2 with
    | .usage _ _ _ _ => true
    | _ => w.1 != p)
  collarQueue { s5 with collar := { s5.collar with waiting := drop } } p (.destroy p)

/-- DESTROY ends in the Collar slot: keys are destroyed, the final record is queued and the partition is FREE (R304). -/
def endDestroy (s : State) (p : Nat) : State :=
  let s1 := { s with shawl := { s.shawl with keys := s.shawl.keys.filter (fun e => e.p != p) } }
  let s2 := dropSpaces (queueUsage s1 p (now s1) (now s1 % minuteNs != 0) true) p
  finishIfCurrent (setPart s2 p {}) p

/-- What waits behind a reset or scrub that has ended: a destruction begins (R305), or the command is done. -/
def nextWork (s : State) (p : Nat) : State :=
  if (part s p).background.contains .destroy then beginDestroy s p
  else finishIfCurrent (modPart s p (fun x => { x with background := [] })) p

/-- The state a partition runs on in: FAULTED where the module only serves destruction (R387). -/
def liveMode (s : State) : PtnState :=
  if s.faults.mode == .transitOnly || s.faults.mode == .moduleFault then .faulted else .live

/-- A partition reset ends: generation, head lines, LIVE, and the log entry with its notice (R382). -/
def endReset (s : State) (p : Nat) : State :=
  let s1 := resumePartition (modPart s p (fun x => { x with mode := liveMode s, faultRef := s.faults.entry })) p true
  nextWork (logFault s1 { cls := 4, code := 0x3F, p := p }) p

/-- Steps 2 to 5 of a scrub in the Collar slot, after its reset (R303): the partition is LIVE with nothing of its tenant.
Where a compute reset covered the reset, that has advanced the generation. -/
def endScrub (s : State) (p : Nat) : State :=
  let s1 := clearMemory (drawKeys (dropSpaces (destroyKeys s p .keyDestruction) p) p) p
  let s2 := modPart s1 p (fun x =>
    { x with mode := liveMode s, faultRef := s.faults.entry, submit := none, recover := none, rounds := [], released := [], epochs := [], shared := [],
             zipCredits := [], hint := none })
  let s3 := if (part s p).background.contains .scrub then s2 else resumePartition s2 p true
  nextWork (logFault s3 { cls := 4, code := 0x3F, p := p }) p

/-- SCRUB begins with a partition reset (R303); the rest waits for the Collar slot. -/
def beginScrub (s : State) (p : Nat) : State :=
  let s1 := modPart s p (fun x => { x with mode := .scrubbing, resetCause := 1 })
  collarQueue (resetSteps s1 p 2 0 .reset) p (.scrub p)

end Sys2Proof.Machine
end

