-- ==== Sys2Proof/Machine/PartitionRows.lean ====
section
/-! DEFINITION. The commands of the partition manager (R300 to R306, Table 12.3), the end of a partition reset (R382) and the
partition fault (R203, Table 7.6). -/

namespace Sys2Proof.Machine

/-! The policy (R36) -/

/-- A binary32 pattern is finite. -/
def finite32 (v : Nat) : Bool := bitsOf v 23 8 != 255

/-- The fields of a policy that any regime has lie in their ranges (Table 2.2). -/
def policyRanges (b : Bytes) : Bool :=
  field b 0 2 == 1 && decide (1 ≤ field b 2 1) && decide (field b 2 1 ≤ 3) && decide (1 ≤ field b 4 4) &&
    decide (field b 4 4 ≤ 2 ^ 28) && decide (1 ≤ field b 0x14 4) && decide (field b 0x14 4 ≤ 2 ^ 24) &&
    decide (field b 0x20 1 ≤ 2) && decide (field b 0x21 1 ≤ 2) && zeroAt b 0x22 2 && decide (1 ≤ field b 0x28 4) &&
    zeroAt b 0x2C 4 && decide (1000000000 ≤ field b 0x30 8) && decide (field b 0x40 1 ≤ 1) && decide (field b 0x41 1 < 8) &&
    decide (field b 0x42 1 ≤ 3) && decide (field b 0x43 1 ≤ 4) && finite32 (field b 0x44 4) && finite32 (field b 0x48 4) &&
    finite32 (field b 0x4C 4) && decide (field b 0x4C 4 ≤ 2 ^ 31) && zeroAt b 0x6D 3

/-- dp_mech and noise_param agree (R36, Table 2.2). -/
def policyNoise (b : Bytes) : Bool :=
  if field b 0x20 1 = 0 then field b 0x24 4 == 0 else decide (1 ≤ field b 0x24 4) && decide (field b 0x24 4 ≤ 2 ^ 20)

/-- The element format belongs to the regime and modulus_q to the format. -/
def policyFormat (b : Bytes) : Bool :=
  let f := field b 3 1
  let q := field b 8 8
  (match field b 2 1 with
   | 1 => decide (1 ≤ f) && decide (f ≤ 4)
   | 2 => f == 7
   | _ => f == 5 || f == 6) &&
    (if f = 4 then decide (2 ^ 16 < q) && decide (q < 2 ^ 62) && isPrime64 q else q == 0)

/-- Fields of the masked regime: in range in it, 0 outside. -/
def policyMasked (b : Bytes) : Bool :=
  if field b 2 1 = 1 then
    decide (1 ≤ field b 0x10 1) && decide (1 ≤ field b 0x11 1) && decide (field b 0x11 1 ≤ field b 0x10 1) && decide (field b 0x12 1 ≤ 1)
  else zeroAt b 0x10 3

/-- Fields of the sealed regime: in range in it, 0 outside. -/
def policySealed (b : Bytes) : Bool :=
  if field b 2 1 = 3 then decide (field b 0x13 1 ≤ 24) && field b 0x18 8 != 0 else zeroAt b 0x13 1 && zeroAt b 0x18 8

/-- Fields of the ciphertext regime: in range in it, 0 outside. -/
def policyCipher (b : Bytes) : Bool :=
  let n := field b 0x68 2
  let t := field b 0x6A 2
  let i := field b 0x6C 1
  if field b 2 1 = 2 then
    field b 0x41 1 == 0 && field b 0x43 1 == 0 && field b 0x60 8 != 0 &&
      (if n = 0 then t == 0 && i == 0 else decide (1 ≤ t) && decide (t ≤ n) && decide (i ≤ n))
  else zeroAt b 0x60 13

/-- A policy block is valid (R36). -/
def policyValid (b : Bytes) : Bool :=
  b.length == 128 && policyRanges b && policyNoise b && policyFormat b && policyMasked b && policySealed b && policyCipher b

/-! Creation checks (Table 12.3) -/

/-- The granules that four registers name, ordered by (g mod 16, g div 16) (R194). -/
def granulesOf (s : State) (r : Nat → Reg) : List Nat :=
  ((List.range 256).map (fun i => i % 16 * 16 + i / 16)).filter (fun g => (reg s (r (g / 64))).testBit (g % 64))

/-- A Sleeve may be allocated (R17, R150, R399). -/
def sleeveFree (s : State) (v : Nat) : Bool :=
  sleeveUsable s v && !(sleeveOf s v).unusableNext && (sleeveOwner s v).isNone

/-- A granule may be allocated (R17, R204). -/
def granuleFree (s : State) (g : Nat) : Bool :=
  let m := (tabGet {} s.devices (g / 16)).mode
  m != .unusable && m != .failed && (decide (g / 16 < 8) || s.collar.d1Usable) && (granuleOwner s g).isNone

/-- Partitions that are not FREE, and `p`. -/
def counted (s : State) (p : Nat) : List Nat := (List.range 16).filter (fun q => q == p || (part s q).mode != .free)

/-- Cache blocks of a partition's region, first and count (R420). -/
def cacheRegion (s : State) (p : Nat) : Nat × Nat := (regField s (.rmaCcCfg p) 7 0, regField s (.rmaCcCfg p) 15 8)

/-- Check 6 of Table 12.3 (R286, R420). -/
def cacheFits (s : State) (p : Nat) : Bool :=
  let ps := counted s p
  let me := cacheRegion s p
  decide (me.1 + me.2 ≤ 128) &&
    ps.all (fun q => q == p || !overlaps me.1 me.2 (cacheRegion s q).1 (cacheRegion s q).2) &&
    decide ((ps.map (fun q => (cacheRegion s q).2)).sum ≤ 128) &&
    decide ((ps.map (fun q => regField s (.rmaMissCfg q) 6 0)).sum ≤ 64) &&
    decide ((ps.map (fun q => regField s (.rmaMissCfg q) 27 16)).sum ≤ 2048)

/-- The module admits a partition (R301 check 9, R317). -/
def capacityOpen (s : State) : Bool :=
  s.entropy.pool == .delivering && s.otp.lifeCycle == .field

/-- The result of the checks of Table 12.3, in order, but that TRANSIT_ONLY and MODULE_FAULT refuse at once (R387); `policy` is the block read at PTN_POLICY, where readable. -/
def createResult (s : State) (p : Nat) (policy : Option Bytes) : Nat :=
  let sl := bitList (regField s (.ptnSleeves p) 15 0) 16
  let d := granulesOf s (fun i => .ptnDgran p i)
  let h := granulesOf s (fun i => .ptnHgran p i)
  let base := regField s (.ptnPin p) 23 0
  let pins := regField s (.ptnPin p) 55 32
  if s.faults.mode = .transitOnly ∨ s.faults.mode = .moduleFault then 9
  else if (part s p).mode ≠ .free then 1
  else if sl.isEmpty ∨ !sl.all (sleeveFree s) then 2
  else if d.isEmpty ∨ 32 < h.length ∨ d.any (fun g => h.contains g) ∨ !(d ++ h).all (granuleFree s) then 3
  else if !((d ++ h).all (fun g => decide (1 ≤ slotsOn s p (g / 16)))) then 4
  else if base % 64 ≠ 0 ∨ pins % 64 ≠ 0 ∨ 24576 * sl.length < base + pins then 5
  else if !cacheFits s p then 6
  else if 64 < regField s (.ptnCcl p) 6 0 + (((counted s p).filter (fun q => q != p)).map (fun q => (part s q).cclSlots)).sum then 7
  else if reg s (.ptnPolicy p) = 0 ∨ !((policy.map policyValid).getD false) then 8
  else if !capacityOpen s then 9
  else 0

/-- The partition as its set-up registers lay it out (R299, R301). -/
def layout (s : State) (p : Nat) (policy : Bytes) : Partition :=
  { mode := .creating, sleeves := BitVec.ofNat 16 (regField s (.ptnSleeves p) 15 0),
    dram := granulesOf s (fun i => .ptnDgran p i), host := granulesOf s (fun i => .ptnHgran p i),
    pinBase := regField s (.ptnPin p) 23 0, pinUnits := regField s (.ptnPin p) 55 32,
    cclSlots := regField s (.ptnCcl p) 6 0, policy := policy }

/-- CREATE (R301): the checks, then memory is cleared and the rest waits for the Collar slot. -/
def createPartition (s : State) (p : Nat) (policy : Option Bytes) : State :=
  let r := createResult s p policy
  let s1 := takeCommand s p
  if r ≠ 0 then finishCommand s1 p r
  else collarQueue (clearMemory (setPart s1 p (layout s p (policy.getD []))) p) p (.create p)

/-- CREATE ends in the Collar slot (R301): with the pool stopped it fails with result 9 (R347), else the partition is LIVE, or
DEAD where a device of its granules has failed meanwhile (R204). -/
def endCreate (s : State) (p : Nat) : State :=
  if (tabGet {} s.entropy.drbgs 16).running then
    let lost := ((part s p).dram ++ (part s p).host).any (fun g => (tabGet {} s.devices (g / 16)).mode == .failed)
    finishIfCurrent (startMeter (modPart (drawKeys s p) p (fun x =>
      { x with mode := if lost then .dead else .live, gen := 1 })) p) p
  else finishCommand (setPart s p {}) p 9

/-! Commands -/

/-- PTN_CMD is written while a command runs (R300). -/
def commandLost (s : State) : State := setStatusBits s .ptnCmd (2 ^ 30)

/-- LIVE or FAULTED. -/
def PtnState.running (m : PtnState) : Bool := m == .live || m == .faulted

/-- The module still serves resets and scrubs (R387). -/
def servesResets (s : State) : Bool := s.faults.mode != .transitOnly && s.faults.mode != .moduleFault

/-- PTN_CMD CREATE. -/
def commandCreate (s : State) (p : Nat) (policy : Option Bytes) : State :=
  if s.manager.busy then commandLost s else createPartition s p policy

/-- PTN_CMD SCRUB (R303): during a compute reset it waits for its end. -/
def commandScrub (s : State) (p : Nat) : State :=
  if s.manager.busy then commandLost s
  else if (part s p).mode.running = false ∨ servesResets s = false then finishCommand (takeCommand s p) p 1
  else if s.faults.computing then
    modPart (takeCommand s p) p (fun x => { x with mode := .scrubbing, background := x.background ++ [.scrub] })
  else beginScrub (takeCommand s p) p

/-- PTN_CMD RESET (R305): absorbed by a reset that runs (R381). -/
def commandReset (s : State) (p : Nat) : State :=
  if s.manager.busy then commandLost s
  else if (part s p).mode = .resetting ∨ (s.faults.computing ∧ (part s p).mode.running) then takeCommand s p
  else if (part s p).mode.running = false ∨ servesResets s = false then finishCommand (takeCommand s p) p 1
  else beginReset (takeCommand s p) p 1 0

/-- PTN_CMD DESTROY (R304, R305): while its partition is being reset or scrubbed it waits for that to end. -/
def commandDestroy (s : State) (p : Nat) : State :=
  let m := (part s p).mode
  let waits := m == .resetting || m == .scrubbing
  if s.manager.busy && !(waits && s.manager.current == p && !(part s p).background.contains .destroy) then commandLost s
  else if waits then modPart (takeCommand s p) p (fun x => { x with background := x.background ++ [.destroy] })
  else if m.running || m == .dead then beginDestroy (takeCommand s p) p
  else finishCommand (takeCommand s p) p 1

/-- The end of a partition reset, once its Collar slot is over and no compute reset covers it (R381, R382). -/
def completeReset (s : State) (p : Nat) : State :=
  if (part s p).mode = .resetting ∧ (part s p).background.contains .reset ∧ s.faults.computing = false then
    endReset (modPart s p (fun x => { x with background := x.background.filter (fun o => o != .reset) })) p
  else s

/-! Partition faults (R203) -/

/-- A partition is faulted: its descriptors in flight end with the entry's number; a partition reset starts, or a tear is
sent (R275, R306, R381). A partition already FAULTED or being reset is only logged again. -/
def faultPartition (s : State) (p ref : Nat) : State :=
  let m := (part s p).mode
  if m ≠ .live ∧ m ≠ .faulted then s
  else
    let s1 := modPart s p (fun x => { x with mode := .faulted, faultRef := ref })
    if regField s .fltCtrl 0 0 = 1 ∧ servesResets s ∧ s.faults.computing = false ∧ s.faults.mode ≠ .boot then beginReset s1 p 2 ref
    else tearOwn (endFlights s1 p (fun _ => true) stReset ref) p .fault

/-- What a fault's site is in the log (Tables 16.3, 18.10): code, unit kind, unit index and detail, with the partition whose
data it held. -/
def siteReport (s : State) : FaultSite → Option Nat × Nat × Nat × Nat × Nat
  | .pocketUnit v u =>
    let ph := v.val * 24576 + u.val
    let p := sleeveOwner s v.val
    let x := part s (p.getD 0)
    let l := logicalUnit x ph
    let held := (tabGet {} s.tiles ph).state != .free || (usesOf x).any (fun r => decide (r.first ≤ l) && decide (l < r.first + r.units))
    (p.filter (fun _ => held), 0x30, 3, v.val, l)
  | .granule g _ => (granuleOwner s g.val, 0x31, 4, g.val / 16, g.val)
  | .poisonedLine p => (if (part s p.val).mode = .free then none else some p.val, 0x34, 7, 0, 0)
  | .cipherContext v => (sleeveOwner s v.val, 0x32, 0, v.val, 0)
  | .privateWire v => (sleeveOwner s v.val, 0x33, 0, v.val, 0)

/-- Memory that held no data is rewritten with zeros (Table 7.6); an unassigned granule reads as zeros already (R200, R201). -/
def rewriteSite (s : State) : FaultSite → State
  | .pocketUnit v u =>
    let ph := v.val * 24576 + u.val
    { s with lining := memZero s.lining (8192 * ph) 8192, tiles := tabErase s.tiles ph }
  | _ => s

/-- The data of an uncorrectable error is lost: a Pocket unit until its partition's reset (R389, Table 16.4), a DRAM burst for good.
What a lost burst reads as is not stated: a free value. -/
def loseUnit (s : State) (p : Nat) : FaultSite → State
  | .pocketUnit v u => modPart s p (fun x => { x with bad := (x.bad.filter (fun b => b != v.val * 24576 + u.val)) ++ [v.val * 24576 + u.val] })
  | .granule g burst => spendFree { s with dram := memWriteRange s.dram (g.val * 2 ^ 31 + 64 * burst.val) (freeBytes s 64) }
  | _ => s

/-- An uncorrectable error or a fault of a partition's cipher context or wires (R203, Table 16.1, Table 7.6). -/
def faultAt (s : State) (site : FaultSite) : State :=
  match siteReport s site with
  | (some p, code, kind, index, detail) =>
    let s1 := logFault (loseUnit s p site) { cls := 4, code := code, p := p, unitKind := kind, unitIndex := index, detail := detail }
    faultPartition s1 p (faultRef s1)
  | (none, _, kind, index, detail) =>
    logFault (rewriteSite s site) { cls := 1, code := 0x07, unitKind := kind, unitIndex := index, detail := detail }

/-! Rows -/

/-- PTN_CREATE (R301). -/
def execPtnCreate (p : Fin 16) (policy : Option Bytes) (s : State) : Out := .next (gate s (commandCreate s p.val policy))

/-- PTN_SCRUB (R303). -/
def execPtnScrub (p : Fin 16) (s : State) : Out := .next (gate s (commandScrub s p.val))

/-- PTN_DESTROY (R304). -/
def execPtnDestroy (p : Fin 16) (s : State) : Out := .next (gate s (commandDestroy s p.val))

/-- PTN_RESET (R305, R382). -/
def execPtnReset (p : Fin 16) (s : State) : Out := .next (gate s (commandReset s p.val))

/-- PTN_RESET_COMPLETE (R382). -/
def execPtnResetComplete (p : Fin 16) (s : State) : Out := .next (completeReset s p.val)

/-- PARTITION_FAULT (R203). -/
def execPartitionFault (site : FaultSite) (s : State) : Out := .next (faultAt s site)

end Sys2Proof.Machine
end

