-- ==== Sys2Proof/Machine/Throttle.lean ====
section
/-! DEFINITION. Throttle reasons (R367, Table 15.4) and the issue allowance (R309, R359, R362, R365). -/

namespace Sys2Proof.Machine

/-- The times of the active reasons run up to this instant. -/
def accrueTimes (s : State) : State :=
  let d := now s - s.power.lastTick
  { s with power := { s.power with
    lastTick := now s,
    times := (bitList s.power.active.toNat 9).foldl (fun t i => tabMap 0 t i (fun n => satAdd n d)) s.power.times } }

/-- The active reasons are now these (R367): a rising one is kept in PWR_THR_STICKY, the trip sends the operator interrupt, and
the millisecond that runs remembers the chip-wide ones (R312). -/
def setReasons (s : State) (v : BitVec 9) : State :=
  let s1 := accrueTimes s
  let rising := v.toNat &&& (511 - s1.power.active.toNat)
  let s2 := setStatusBits { s1 with power := { s1.power with active := v } } .pwrThrSticky rising
  let s3 := { s2 with manager := { s2.manager with
    msThermal := s2.manager.msThermal || v.toNat &&& 0x5E != 0, msDroop := s2.manager.msDroop || v.toNat.testBit 5 } }
  if rising.testBit 6 then raiseIrq s3 16 else s3

/-- One reason becomes active or ends. -/
def setReason (s : State) (i : Nat) (on : Bool) : State :=
  let v := s.power.active.toNat
  setReasons s (BitVec.ofNat 9 (if on then v ||| 2 ^ i else v &&& (511 - 2 ^ i)))

/-- The ramp value: it rises by one unit per 188 Sleeve cycles of 1.5 GHz, to 64 (R359). -/
def rampValue (s : State) : Nat :=
  min 64 (s.power.rampFrom.1 + 3 * (now s - s.power.rampFrom.2) / 376)

/-- The compute allowance A in W: the cap less the operator's non-compute reserve (R309). -/
def computeAllowance (s : State) : Nat := regField s .pwrCap 10 0 - regField s .pwrCap 42 32

/-- A Sleeve's share of the compute allowance in 1/64 W: A ÷ 16, or with compute_wc 1 what the last interval boundary gave it
(R309, R310). -/
def sleeveShare (s : State) (v : Nat) : Nat :=
  if regField s .ptnModes 0 0 = 1 then (s.power.shares[v]?).getD (4 * computeAllowance s) else 4 * computeAllowance s

/-- The issue allowance of Sleeve `v` in units of 1/64 when full issue takes `full` of power in 1/64 W (R359): the least of the
ramp value, 64 times the share factor, the stage-3 and thermal factors, and 32 during droop response. The share factor is the
share over that power: an estimate of the hardware that is reported nowhere (R356), so it is an argument here. -/
def issueAllowance (s : State) (v full : Nat) : Nat :=
  min (min (rampValue s) (min 64 (64 * sleeveShare s v / full)))
    (min (min (4 * (16 - s.power.stageComp)) (4 * s.power.phi)) (if s.power.droop then 32 else 64))

/-! Frequency steps (R361) -/

/-- Reason 8: some slot's ceiling lies below the operating point (Table 15.4). -/
def ceilingBinds (s : State) : Bool :=
  s.slots.any (fun e => e.2.logical.isSome && decide (e.2.ceiling < s.power.current))

/-- Every engine slot has switched to `t`. -/
def allSwitched (s : State) (t : Nat) : Bool :=
  s.slots.all (fun e => e.2.logical.isNone || (e.2.op == t && e.2.pendingOp.isNone))

/-- A step completes once every slot has switched and the rails have settled (R361). -/
def finishStep (s : State) : State :=
  match s.power.step with
  | none => s
  | some t =>
    if allSwitched s t && s.power.railsSettled then
      let s1 := { s with power := { s.power with current := t, step := none } }
      setReason s1 8 (ceilingBinds s1)
    else s

/-- The engine voltage for an operating point in mV: 10 mV per 5 codes (R361). -/
def voltageOf (o : Nat) : Nat := 150 + 2 * o

/-- How a committed step goes on: in a downward one the voltage is lowered when every slot has switched; with that done, or in an
upward one, it completes as above. -/
def advanceStep (s : State) : State :=
  match s.power.step with
  | none => s
  | some t =>
    if !s.power.stepUp && allSwitched s t && s.power.voutMv != voltageOf t then
      { s with power := { s.power with voutMv := voltageOf t, railsSettled := false } }
    else finishStep s

end Sys2Proof.Machine
end

