-- ==== Sys2Proof/Machine/Faulting.lean ====
section
/-! DEFINITION. Faults of units and their sparing (R19, R20, R100, R101, R114, R150, R439), compute resets with their escalation
(R383, R385, R386), TRANSIT_ONLY and MODULE_FAULT (R387), and what a module reset leaves (R384, Table 16.4). -/

namespace Sys2Proof.Machine

/-! Limited service (R387) -/

/-- Every Pocket and Cuff is zeroed and every tile FREE. -/
def zeroPockets (s : State) : State := zeroCuffs (clearPockets s (List.range 16)) (List.range 16)

/-- The engine rails are on or off (R366, R383). -/
def setEngineRails (s : State) (on : Bool) : State :=
  { s with power := { s.power with rails := on :: on :: s.power.rails.drop 2 } }

/-- Every partition that exists. -/
def allLive (s : State) : List Nat := (List.range 16).filter (fun p => metered (part s p).mode)

/-- The module enters TRANSIT_ONLY or MODULE_FAULT (R387). -/
def enterLimited (s : State) (transitOnly : Bool) (ref : Nat) : State :=
  let trigger := if transitOnly then 5 else 6
  let s0 := takeRecord (abortTest s) trigger ref
  let s1 := (allLive s0).foldl (fun t p =>
    sample (endFlights (chargePasses t p) p (fun _ => true) stReset ref) p trigger ref (flying t p)) s0
  let s2 := zeroPockets s1
  let s3 := if transitOnly then (allLive s2).foldl (fun t p => tearOwn t p .transitOnly) (setEngineRails s2 false) else s2
  let s4 := (List.range 16).foldl (fun t p =>
    if (part t p).mode = .live then modPart t p (fun x => { x with mode := .faulted, faultRef := ref }) else t) s3
  { s4 with faults := { s4.faults with
    mode := if transitOnly then .transitOnly else .moduleFault, entry := ref, computing := false, resetBusy := false } }

/-- A class-6 fault other than a device failure (Table 16.7): logged, and MODULE_FAULT from RUN, COMPUTE_RESET and TRIPPED. -/
def moduleFault (s : State) (code unitKind : Nat) : State :=
  let s1 := logFault s { cls := 6, code := code, unitKind := unitKind }
  let m := s.faults.mode
  if m = .run ∨ m = .computeReset ∨ m = .tripped then enterLimited s1 false (faultRef s1) else s1

/-! Compute resets (R383, R386) -/

/-- A request at this instant is the third in 600 s: both earlier starts lie after it less 600 s (R386). -/
def thirdReset (s : State) : Bool :=
  decide (2 ≤ s.faults.starts.length) && (s.faults.starts.take 2).all (fun t => decide (now s < t + 600000000000))

/-- What a compute reset takes from one partition (Table 16.4, Table 16.6 steps 1, 2 and 4): its rounds are forgotten and its
pin table is emptied. A scrub that runs goes on after it (R303); a partition reset is covered (R381). -/
def computeStop (trigger ref : Nat) (s : State) (p : Nat) : State :=
  let s1 := stopPartition s p trigger ref .reset false
  let s2 := modPart s1 p (fun x =>
    { x with rounds := [], pins := [], bad := [], hint := none,
             background := (x.background.filter (fun o => o != .reset)) ++
               (if x.mode == .scrubbing && !x.background.contains .scrub then [.scrub] else []) })
  { s2 with collar := { s2.collar with waiting := s2.collar.waiting.filter (fun w =>
      match w.2 with
      | .reset q => q != p
      | .scrub q => q != p
      | .reload q => q != p
      | _ => true) } }

/-- A compute reset begins (R383): steps 1 to 4 of Table 16.6. Row spares that wait are applied, the engine rails come up after a
trip, and THERM_TRIP_N is released (R429). -/
def beginCompute (s : State) (commanded : Bool) : State :=
  let trigger := if s.faults.mode = .tripped then 4 else 3
  let s0 := logFault (sharedEvent (abortTest s)) { cls := 5, code := 0x4F }
  let ref := faultRef s0
  let s1 := takeRecord s0 trigger ref
  let s2 := { s1 with faults := { s1.faults with
    mode := .computeReset, computing := true, resetBusy := s1.faults.resetBusy || commanded,
    resetResult := if commanded then 0 else s1.faults.resetResult,
    starts := (now s :: s1.faults.starts).take 3 } }
  let s3 := (allLive s2).foldl (computeStop trigger ref) s2
  let s4 := zeroPockets { s3 with sleeves := s3.sleeves.map (fun e =>
    (e.1, { e.2 with rowsSpared := e.2.rowsSpared + e.2.rowsPending, rowsPending := 0 })) }
  let s5 := setEngineRails { s4 with power := { s4.power with thermTrip := false } } true
  setReason s5 6 false

/-- A compute reset is requested (R381, R385, R386): by FLT_RESET where `commanded`, else by the BA-16. It is absorbed by one that
runs; refused by temperature, by state, or as the third in 600 s, which puts the module in TRANSIT_ONLY. -/
def requestCompute (s : State) (commanded : Bool) : State :=
  let answer := fun (t : State) (r : Nat) =>
    if commanded then { t with faults := { t.faults with resetResult := r } } else t
  match s.faults.mode with
  | .boot => answer s 2
  | .transitOnly => answer s 2
  | .moduleFault => answer s 2
  | .computeReset => answer { s with faults := { s.faults with resetBusy := s.faults.resetBusy || commanded } } 0
  | m =>
    if m = .tripped ∧ 800 ≤ s.power.tj8 then answer s 1
    else if thirdReset s then
      let s1 := logFault s { cls := 5, code := 0x4E }
      answer (enterLimited s1 true (faultRef s1)) 2
    else beginCompute s commanded

/-- A class-5 fault (R381): a compute reset follows where FLT_CTRL.auto_compute is 1. -/
def computeFault (s : State) (r : Report) : State :=
  let s1 := logFault s r
  if regField s .fltCtrl 1 1 = 1 then requestCompute s1 false else s1

/-- The fault-log code of a slot that a self-check of the compute reset retires: an unused spare, a slot its spare replaces, or
one with its spare in use (Table 18.10). -/
def retireQuiet (s : State) (n : Nat) : State :=
  if (slotOf s n).retired then s
  else
    let s1 := modSlot s n (fun x => { x with retired := true })
    let spare := (slotOf s n).logical.isNone
    let room := (freeSpare s1 (n / 9)).isSome
    logFault s1 { cls := if spare ∨ !room then 3 else 2, code := if spare then 0x27 else if room then 0x10 else 0x20,
                  p := (sleeveOwner s (n / 9)).getD 255, unitKind := 1, unitIndex := n, detail := (slotOf s n).logical.getD 0 }

/-- Sleeves that were to become unusable leave the slot map (Table 7.6, Table 17.2). -/
def applyUnusable (s : State) : State :=
  { s with sleeves := s.sleeves.map (fun e => (e.1, { e.2 with usable := e.2.usable && !e.2.unusableNext, unusableNext := false })) }

/-- A partition after a compute reset (Table 12.5, Table 16.4): the next generation, new contexts, its private wires to be loaded
again in its Collar slot (R328). A DEAD one stays DEAD; a scrub goes on. -/
def computeResume (s : State) (p : Nat) : State :=
  let x := part s p
  let covered := x.mode == .resetting
  let s1 := freshContexts (modPart s p (fun y =>
    { y with mode := (match y.mode with
                      | .dead => .dead
                      | .scrubbing => .scrubbing
                      | .destroying => .destroying
                      | _ => liveMode s),
             wiresLoaded := false })) p
  if x.mode == .destroying then s
  else if x.mode == .scrubbing then
    collarQueue (resumePartition s1 p true) p (.scrub p)
  else nextWork (collarQueue (resumePartition s1 p covered) p (.reload p)) p

/-- The steps of a compute reset are over: the module runs, unless it is TRIPPED (R383, Table 16.7). -/
def endCompute (s : State) : State :=
  advanceStep { s with faults := { s.faults with
    mode := if s.faults.mode = .tripped then .tripped else .run, computing := false, resetBusy := false } }

/-- The self-check of a compute reset found images that do not match: the module goes to MODULE_FAULT (Table 16.7). -/
def mismatchCompute (s : State) : State :=
  moduleFault { s with faults := { s.faults with computing := false } } 0x54 0

/-- What a compute reset rebuilds before it ends (R383): slots that failed their self-check are retired, the slot map is made
again, and queues 0 to 15 are flushed. -/
def rebuildCompute (s : State) (failed : List Nat) : State :=
  (List.range 16).foldl flushPartition
    (mapAll (applyUnusable ((failed.filter (fun n => decide (n < 144))).foldl retireQuiet s)))

/-- Every partition goes on after a compute reset, under its new generation. -/
def resumeAllParts (s : State) : State := (allLive s).foldl computeResume s

/-- A compute reset completes (R383). -/
def completeCompute (s : State) (failed : List Nat) (imagesMatch : Bool) : State :=
  if s.faults.computing = false then s
  else if !imagesMatch then mismatchCompute s
  else resumeAllParts (endCompute (rebuildCompute s failed))

/-! Engine slots (R20, R100, R101, R378, R439) -/

/-- The passes that an engine loses when its slot fails: what its commit buffer holds, and the pass it runs. The passes of a group
whose engine fails are lost with it (R79, R100; log entry 104). -/
def lostOf (l : Nat) (f : InFlight) : Nat :=
  if f.done.isSome then 0 else (f.jobs.filter (fun j => j.uses l && j.passDone)).length

/-- The first pass of the engine that has not ended belongs to this descriptor. -/
def runsPass (s : State) (l : Nat) (f : InFlight) : Bool :=
  match firstPass s l (fun j => !j.passDone) with
  | some (g, _) => g.id == f.id
  | none => false

/-- Descriptors that lose a pass, with how many, in dispatch order. -/
def lostPasses (s : State) (l : Nat) : List (InFlight × Nat) :=
  (s.inflight.map (fun f => (f, lostOf l f + bit (runsPass s l f)))).filter (fun e => e.2 != 0)

/-- A pass that was lost runs again from its retained inputs (R99, R100). -/
def againJob (t : Nat) (j : TileJob) : TileJob :=
  { j with passDone := false, startFt := t, replays := j.replays + 1, mismatched := false }

/-- The lost passes of a descriptor run again in their order: those in the commit buffer, and the running one where it is this
descriptor's. -/
def replayJobs (t l : Nat) (runs : Bool) (js : List TileJob) : List TileJob :=
  let js1 := if runs then modFirst (fun j => j.uses l && !j.passDone) (againJob t) js else js
  js1.map (fun j => if j.uses l && j.passDone then againJob t j else j)

/-- A descriptor replays the passes it lost; `runner` is the descriptor whose pass ran. -/
def replayFlight (l ref : Nat) (runner : Option Nat) (s : State) (e : InFlight × Nat) : State :=
  modFlight s e.1.id (fun f =>
    { f with jobs := replayJobs (now s) l (runner == some e.1.id) f.jobs, replays := f.replays + e.2, faultRef := ref })

/-- A descriptor loses every pass it has on an engine: it completes ENGINE_LOST once its other tiles have committed (R101). -/
def dropEngine (l ref : Nat) (s : State) (f : InFlight) : State :=
  settlePasses (modFlight s f.id (fun g =>
    { g with jobs := g.jobs.filter (fun j => !j.uses l), lost := true, faultRef := ref,
             dropped := g.dropped ++ (g.jobs.filter (fun j => j.uses l)).map (fun j => j.item) })) f.id

/-- The log entry of a slot failure (R439). -/
def slotReport (s : State) (n l cls code : Nat) (lost : List (InFlight × Nat)) : Report :=
  let p := (sleeveOwner s (n / 9)).getD 255
  match lost with
  | [] => { cls := cls, code := code, p := p, unitKind := 1, unitIndex := n, detail := l }
  | (f, _) :: _ =>
    { cls := cls, code := code, p := p, unitKind := 1, unitIndex := n, tag := f.h.tag, opcode := f.opcode, ring := f.h.ring.val,
      passes := (lost.map (fun e => e.2)).sum, detail := l }

/-- A RANK on an engine ends RANK_UNAVAILABLE: it is not replayed (R86). -/
def endRanks (s : State) (l ref : Nat) : State :=
  (s.inflight.filter (fun f => f.done.isNone && f.opcode == 0x23 && f.jobs.any (fun j => j.uses l))).foldl
    (fun t f => endFlight t f stRank ref) s

/-- The spare takes a logical number: its Cuff is zeroed and it starts with nothing resident (R129, R149). -/
def takeOver (s : State) (n m l : Nat) : State :=
  giveNumber (modSlot s n (fun x => { x with logical := none, resident := [], consts := [] })) m l

/-- An engine slot fails and is retired (R20, R100, R101, R149). During a compute reset or boot nothing runs on it: it is only
retired. -/
def failSlot (s : State) (n : Nat) : State :=
  if (slotOf s n).retired then s
  else
    match (slotOf s n).logical with
    | none => retireQuiet s n
    | some l =>
      let s1 := modSlot s n (fun x => { x with retired := true })
      match freeSpare s1 (n / 9) with
      | some m =>
        let lost := (lostPasses s1 l).filter (fun e => e.1.opcode != 0x23)
        let s2 := logFault s1 (slotReport s1 n l 2 0x10 (lostPasses s1 l))
        let ref := faultRef s2
        let runner := (firstPass s1 l (fun j => !j.passDone)).map (fun e => e.1.id)
        beginNext (lost.foldl (replayFlight l ref runner) (takeOver (endRanks s2 l ref) n m l)) l
      | none =>
        let s2 := logFault s1 (slotReport s1 n l 3 0x20 (lostPasses s1 l))
        let ref := faultRef s2
        let s3 := modSlot (endRanks s2 l ref) n (fun x => { x with logical := none, resident := [], consts := [] })
        let hit := s3.inflight.filter (fun f => f.done.isNone && f.jobs.any (fun j => j.uses l))
        let rest := hit.flatMap (fun f => (f.jobs.filter (fun j => j.uses l)).flatMap TileJob.engines)
        (idleEngines s3 (rest.filter (fun k => k != l))).foldl beginNext (hit.foldl (dropEngine l ref) s3)

/-- A pass of an engine ends, with the errors its Cuff corrected and whether a check residue differed (R78, R129, R145): a second
mismatch is a failure of the slot. -/
def passEnds (s : State) (l corrected : Nat) (mismatch : Bool) : State :=
  match runningPass s l with
  | none => s
  | some (f, j) =>
    let s1 := correctCuff s l corrected
    if mismatch && checksResidue f.opcode then
      if j.mismatched then failSlot s1 ((slotOfEngine s l).getD 0) else rerunPass s1 f j
    else endPass s1 f j

/-! What a module reset leaves -/

/-- A slot's fuses: its ceilings, retirement and replica reading (Table 16.4). A lowering is burnt when it is made (R368). -/
def fusedSlot (x : Slot) : Slot :=
  { c0 := x.c0, ceiling := match x.pendingCeiling with
                           | some c => if c < 270 then x.ceiling else c
                           | none => x.ceiling,
    retired := x.retired, r0 := x.r0 }

/-- A Sleeve's fuses. -/
def fusedSleeve (x : Sleeve) : Sleeve :=
  { usable := x.usable && !x.unusableNext, fusedSpare := x.fusedSpare, lapelRetired := x.lapelRetired, ksRetired := x.ksRetired,
    rowsSpared := x.rowsSpared, bondFailed := x.bondFailed, bondSpares := x.bondSpares }

/-- A device at module reset: one that had failed is to be tested again (R204); every clear bit is set (R201). -/
def resetDevice (x : Device) : Device :=
  { mode := if x.mode = .failed ∨ x.mode = .unusable then .training else .untrained, temp := x.temp }

/-- A port at module reset: its cable and its failed fuse stand (Table 10.3, Table 17.2). -/
def resetPort (fuses : BitVec 6) (i : Nat) (x : Port) : Port :=
  { mode := if bvBit fuses i then .failed else .disabled, cable := x.cable }

/-- The module right after a module reset (R384, Table 16.4): fuses, OTP, what is wired and the lanes in use stand, all else is as
State.reset has it. `cause` is 1 power-up, 2 the mezzanine input, 3 FLT_RESET (R421). What has left the module has left. -/
def freshModule (s : State) (cause : Nat) : State :=
  { State.reset with
    pending := s.pending, out := s.out, freeCtr := s.freeCtr, nextId := s.nextId, otp := s.otp,
    slots := s.slots.map (fun e => (e.1, fusedSlot e.2)),
    sleeves := s.sleeves.map (fun e => (e.1, fusedSleeve e.2)),
    devices := s.devices.map (fun e => (e.1, resetDevice e.2)),
    collar := { State.reset.collar with
      romDigest := s.collar.romDigest, romSigners := s.collar.romSigners, d1Usable := !s.otp.d1Failed },
    shawl := { State.reset.shawl with ports := (List.range 6).foldl (fun t i =>
      tabSet t i (resetPort s.otp.portFailed i (tabGet {} s.shawl.ports i))) [] },
    faults := { State.reset.faults with resetCause := cause, seamSpares := s.faults.seamSpares, cclSpares := s.faults.cclSpares },
    power := { State.reset.power with rails := s.power.rails, pwrGood := s.power.pwrGood, railFault := s.power.railFault } }

/-- FLT_RESET op module: tears under every link key and the interrupted minute's records go out before the reset takes hold
(R274, R275, R316). -/
def commandedReset (s : State) : State :=
  let s1 := (allLive s).foldl (fun t p => tearAll t p .moduleReset) s
  let s2 := (allLive s1).foldl (fun t p =>
    let u := chargePasses t p
    signUsage u p (part u p).instanceId (usageBody u p (now u) (now u % minuteNs != 0)) true) s1
  freshModule s2 3

end Sys2Proof.Machine
end

