-- ==== Sys2Proof/Machine/FaultRows.lean ====
section
/-! DEFINITION. The commands that report a fault of a unit, a lane or a device, and the background work of the memories (R114,
R150, R200 to R204, R377, R425). -/

namespace Sys2Proof.Machine

/-- Change a Sleeve's own state. -/
def modSleeve (s : State) (v : Nat) (f : Sleeve → Sleeve) : State := { s with sleeves := tabMap {} s.sleeves v f }

/-- Change a device. -/
def modDevice (s : State) (d : Nat) (f : Device → Device) : State := { s with devices := tabMap {} s.devices d f }

/-- The owner of a Sleeve as the log names it. -/
def ownerCode (s : State) (v : Nat) : Nat := (sleeveOwner s v).getD 255

/-! Keystream units -/

/-- The pass of the engine that a keystream unit serves, where it expands a mask (R114). -/
def keystreamPass (s : State) (v k : Nat) : Option (Nat × InFlight) :=
  match (enginesOf s v)[k]? with
  | none => none
  | some l =>
    match firstPass s l (fun j => !j.passDone) with
    | some (f, _) => if f.opcode = 0x30 then some (l, f) else none
    | none => none

/-- A keystream unit fails its self-check: it is retired and its engine's pass is replayed (R114). -/
def failKeystream (s : State) (v k : Nat) : State :=
  if bvBit (sleeveOf s v).ksRetired k then s
  else
    let s1 := modSleeve s v (fun x =>
      { x with ksRetired := x.ksRetired ||| BitVec.ofNat 8 (2 ^ k), ksFailures := min 255 (x.ksFailures + 1) })
    match keystreamPass s v k with
    | none => logFault s1 { cls := 2, code := 0x11, p := ownerCode s v, unitKind := 2, unitIndex := 8 * v + k }
    | some (l, f) =>
      let s2 := logFault s1
        { cls := 2, code := 0x11, p := f.h.p.val, unitKind := 2, unitIndex := 8 * v + k, tag := f.h.tag, opcode := f.opcode,
          ring := f.h.ring.val, passes := 1 }
      modFlight s2 f.id (fun g =>
        { g with jobs := modFirst (fun j => j.engine == l && !j.passDone) (againJob (now s)) g.jobs, replays := g.replays + 1,
                 faultRef := faultRef s2 })

/-! Lapel units -/

/-- A parity error in the list memory: the RANK ends and the unit is retired in its fuse (R86, R150). -/
def failLapel (s : State) (v : Nat) : State :=
  if (sleeveOf s v).lapelRetired then s
  else
    let ranks := s.inflight.filter (fun f =>
      f.done.isNone && (match f.body with | .rank o => o.lapelSleeve == v | _ => false))
    let s1 := modSleeve s v (fun x => { x with lapelRetired := true })
    let r : Report := { cls := 3, code := 0x21, p := ownerCode s v, unitKind := 10, unitIndex := v }
    let s2 := logFault s1 (match ranks with
      | [] => r
      | f :: _ => { r with tag := f.h.tag, opcode := 0x23, ring := f.h.ring.val })
    ranks.foldl (fun t f => endFlight t f stRank (faultRef s2)) s2

/-! Lining rows and bond lanes -/

/-- A Lining row has 8 correctable events in an hour: a spare row takes its place at the next compute reset (Table 7.6). -/
def rowThreshold (s : State) (v row : Nat) : State :=
  logFault (modSleeve s v (fun x => { x with rowsPending := x.rowsPending + 1 }))
    { cls := 1, code := 0x02, unitKind := 3, unitIndex := v, detail := row }

/-- A Lining bond lane fails (Table 7.6): remapped to a spare, or with none left the Sleeve becomes unusable at the next compute
reset and its partition is faulted. The code of the second report is not stated: a free value. -/
def failBond (s : State) (v lane : Nat) : State :=
  let x := sleeveOf s v
  if x.bondSpares ≠ 0 then
    logFault (modSleeve s v (fun y => { y with bondSpares := y.bondSpares - 1, bondFailed := y.bondFailed + 1 }))
      { cls := 2, code := 0x14, p := ownerCode s v, unitKind := 8, unitIndex := v, detail := lane }
  else
    let s1 := modSleeve s v (fun y => { y with bondFailed := y.bondFailed + 1, unusableNext := true })
    let s2 := spendFree (logFault s1
      { cls := 4, code := freeNat s 1, p := ownerCode s v, unitKind := 8, unitIndex := v, detail := lane })
    match sleeveOwner s v with
    | some p => faultPartition s2 p (faultRef s2)
    | none => s2

/-! Seam and CCL -/

/-- A Seam lane fails: one of the 16 spares of its direction takes its place, or it is a compute fault (R377, Table 16.1). -/
def failSeam (s : State) (dir lane : Nat) : State :=
  let used := tabGet 0 s.faults.seamSpares dir
  if used < 16 then
    sharedEvent (logFault { s with faults := { s.faults with seamSpares := tabSet s.faults.seamSpares dir (used + 1) } }
      { cls := 2, code := 0x13, unitKind := 6, unitIndex := lane, detail := lane })
  else computeFault s { cls := 5, code := 0x41, unitKind := 6, unitIndex := lane, detail := lane }

/-- A CCL lane fails: the spare takes its place (R425); with it in use the link retrains, which has its own command. -/
def failCcl (s : State) (lane : Nat) : State :=
  if s.faults.cclSpares = 0 then s
  else
    sharedEvent (logFault { s with faults := { s.faults with cclSpares := s.faults.cclSpares - 1 } }
      { cls := 2, code := 0x15, unitKind := 7, unitIndex := lane, detail := lane })

/-- CCL retrains (R425): each is a shared-resource event, and the third failure in a row is CCL loss. -/
def retrainCcl (s : State) (success : Bool) : State :=
  let fails := if success then 0 else s.faults.cclFails + 1
  let s1 := sharedEvent { s with faults := { s.faults with cclFails := fails } }
  if 3 ≤ fails then moduleFault s1 0x53 7 else s1

/-! Devices -/

/-- A partition with a granule on the failed device cannot resume (R204, R306); one that is being created is DEAD at its end. -/
def killPartition (s : State) (p d : Nat) : State :=
  let m := (part s p).mode
  if m = .creating then
    let s1 := logFault s { cls := 6, code := 0x50, p := p, unitKind := 4, unitIndex := d }
    modPart s1 p (fun x => { x with faultRef := faultRef s1 })
  else if m = .live ∨ m = .faulted ∨ m = .resetting ∨ m = .scrubbing then
    let s1 := logFault s { cls := 6, code := 0x50, p := p, unitKind := 4, unitIndex := d }
    let ref := faultRef s1
    let s2 := endFlights (modPart s1 p (fun x => { x with mode := .dead, faultRef := ref, background := [] })) p (fun _ => true) stReset ref
    let s3 := tearOwn s2 p .fault
    if s3.manager.busy && s3.manager.current == p then finishCommand s3 p 1 else s3
  else s

/-- A controller declares its device failed (R204): the partitions that hold its granules are DEAD. -/
def failDevice (s : State) (d : Nat) : State :=
  if (tabGet {} s.devices d).mode = .failed then s
  else
    let s1 := sharedEvent (modDevice s d (fun x => { x with mode := .failed }))
    let hit := ((List.range 16).filter (fun p => (part s1 p).mode != .free)).filter (fun p => ((part s1 p).dram ++ (part s1 p).host).any (fun g => g / 16 == d))
    if hit.isEmpty then logFault s1 { cls := 6, code := 0x50, unitKind := 4, unitIndex := d }
    else hit.foldl (fun t p => killPartition t p d) s1

/-! Patrol scrub and clear-fill -/

/-- A correctable error of a Lining line: counted for the Pocket and for its row, and logged (Table 7.6). -/
def correctLine (s : State) (v line : Nat) : State :=
  logFault (modSleeve s v (fun x =>
      { x with corrected := min 65535 (x.corrected + 1), rowEvents := tabMap 0 x.rowEvents (Config.liningRow line) (fun n => n + 1) }))
    { cls := 1, code := 0x02, unitKind := 3, unitIndex := v, detail := line }

/-- A link-ECC error of a burst is counted and logged (R203, Table 18.10). -/
def linkError (s : State) (d : Nat) : State :=
  logFault (modDevice s d (fun x => { x with linkEcc := min 65535 (x.linkEcc + 1) })) { cls := 1, code := 0x04, unitKind := 4, unitIndex := d }

/-- Link-ECC errors of one burst: one that fails a fourth time, after three re-issues, fails the device (R203, R204). -/
def linkErrors (s : State) (d n : Nat) : State :=
  let s1 := (List.range (min n 4)).foldl (fun t _ => linkError t d) s
  if 4 ≤ n then failDevice s1 d else s1

/-- A patrol-scrub read (R202, R203, Table 7.6): a line of 2,048 bytes of a Pocket, or a burst of 64 bytes of a device. -/
def patrol (s : State) (t : ScrubTarget) (r : ScrubResult) : State :=
  match t with
  | .lining v line =>
    let s1 := if line.val = 98303 then modSleeve s v.val (fun x => { x with scrubPasses := (x.scrubPasses + 1) % 65536 }) else s
    match r with
    | .clean => s1
    | .link _ => s1
    | .corrected => correctLine s1 v.val line.val
    | .uncorrectable => faultAt s1 (.pocketUnit v ⟨line.val / 4, by have := line.isLt; omega⟩)
  | .dram d b =>
    if (tabGet {} s.devices d.val).mode ≠ .ready then s
    else
      match r with
      | .clean => s
      | .link n => linkErrors s d.val n
      | .corrected =>
        logFault (modDevice s d.val (fun x => { x with corrected := min 65535 (x.corrected + 1) }))
          { cls := 1, code := 0x03, unitKind := 4, unitIndex := d.val }
      | .uncorrectable =>
        faultAt s (.granule ⟨d.val * 16 + b.val / 33554432, by have := d.isLt; have := b.isLt; omega⟩ ⟨b.val % 33554432, by omega⟩)

/-- A clear 64 KiB block is zero-filled in idle slots: its clear bit is cleared (R200). -/
def fillBlock (s : State) (d b : Nat) : State :=
  if (tabGet {} s.devices d).mode = .ready ∧ !(tabGet {} s.devices d).filled.contains b then
    modDevice s d (fun x => { x with filled := x.filled ++ [b] })
  else s

/-! Rows -/

/-- ENGINE_SLOT_FAILURE (R100, R149). -/
def execEngineSlotFailure (sleeve : Fin 16) (slot : Fin 9) (s : State) : Out := .next (advanceStep (failSlot s (9 * sleeve.val + slot.val)))

/-- KEYSTREAM_UNIT_FAILURE (R114). -/
def execKeystreamUnitFailure (sleeve : Fin 16) (unit : Fin 8) (s : State) : Out := .next (failKeystream s sleeve.val unit.val)

/-- LAPEL_PARITY_ERROR (R150). -/
def execLapelParityError (lapel : Fin 4) (s : State) : Out := .next (failLapel s (4 * lapel.val))

/-- LINING_ROW_THRESHOLD (R203). -/
def execLiningRowThreshold (sleeve : Fin 16) (row : Nat) (s : State) : Out := .next (rowThreshold s sleeve.val row)

/-- BOND_LANE_FAILURE (R203). -/
def execBondLaneFailure (sleeve : Fin 16) (lane : Nat) (s : State) : Out := .next (failBond s sleeve.val lane)

/-- SEAM_LANE_FAILURE (R377). -/
def execSeamLaneFailure (dir : Fin 2) (lane : Nat) (s : State) : Out := .next (failSeam s dir.val lane)

/-- CCL_LANE_FAILURE (R425). -/
def execCclLaneFailure (lane : Nat) (s : State) : Out := .next (failCcl s lane)

/-- CCL_RETRAIN (R425). -/
def execCclRetrain (success : Bool) (s : State) : Out := .next (retrainCcl s success)

/-- DEVICE_FAILED (R204). -/
def execDeviceFailed (d : Fin 16) (s : State) : Out := .next (failDevice s d.val)

/-- PATROL_SCRUB (R202). -/
def execPatrolScrub (t : ScrubTarget) (r : ScrubResult) (s : State) : Out := .next (patrol s t r)

/-- CLEAR_FILL (R200). -/
def execClearFill (d : Fin 16) (block : Fin 524288) (s : State) : Out := .next (fillBlock s d.val block.val)

end Sys2Proof.Machine
end

