-- ==== Sys2Proof/Machine/LifeRows.lean ====
section
/-! DEFINITION. The Collar's rotation (R311), boot and its keys (R320 to R326), update and attestation requests, the life cycle
(R317, R318, R339) and key expiry (R333). -/

namespace Sys2Proof.Machine

/-! The rotation (R311) -/

/-- Private wires are loaded again: what waits for a key goes on (R328, R396). -/
def loadWires (s : State) (p : Nat) : State :=
  let s1 := modPart s p (fun x => { x with wiresLoaded := true })
  let s2 := (part s p).sleeveList.foldl (fun t v =>
    { t with sleeves := tabMap {} t.sleeves v (fun x => { x with keysLoaded := true }) }) s1
  resumeAll s2 p

/-- A job that loads wires again goes with whatever command its slot runs. -/
def isReload : CollarJob → Bool
  | .reload _ => true
  | _ => false

/-- The jobs that a slot takes: the loading of wires, and its oldest command. -/
def slotJobs (s : State) (k : Nat) : List CollarJob :=
  let mine := (s.collar.waiting.filter (fun w => w.1 == k)).map (fun w => w.2)
  mine.filter isReload ++ (mine.filter (fun j => !isReload j)).take 1

/-- A list without the first job of slot `k` that is no loading of wires, and without those that are. -/
def dropJobs (k : Nat) : List (Nat × CollarJob) → Bool → List (Nat × CollarJob)
  | [], _ => []
  | w :: ws, taken =>
    if w.1 = k ∧ isReload w.2 then dropJobs k ws taken
    else if w.1 = k ∧ !taken then dropJobs k ws true
    else w :: dropJobs k ws taken

/-- A slot of the rotation begins: it takes its partition's command, one that arrives with its start included (R311). -/
def slotStarts (s : State) (k : Nat) (signatureOk : Bool) : State :=
  if logRuns s = false then s
  else
    { s with collar := { s.collar with
      slot := k, signatureOk := signatureOk, running := slotJobs s k, waiting := dropJobs k s.collar.waiting false } }

/-- A job draws from the Collar's generator, and waits in successive slots while that is stopped; creation does not (R347). -/
def drawsRandom (s : State) : CollarJob → Bool
  | .descriptor id =>
    match flight s id with
    | some f => f.done.isNone && f.opcode == 0x70
    | none => false
  | .scrub _ => true
  | .reset _ => true
  | .attest => true
  | .usage _ _ _ _ => true
  | _ => false

/-- The Collar's part of a partition reset (R382): new contexts, and the wires loaded. -/
def resetJob (s : State) (p : Nat) : State :=
  if (part s p).mode = .resetting ∧ s.faults.computing = false then
    modPart (loadWires (freshContexts s p) p) p (fun x => { x with background := x.background ++ [.reset] })
  else s

/-- What a slot's end does with one job (R311). -/
def endJob (s : State) (j : CollarJob) : State :=
  if drawsRandom s j && !(drbgOf s 16).running then
    { s with collar := { s.collar with waiting := (s.collar.slot, j) :: s.collar.waiting } }
  else
    match j with
    | .descriptor id => runCollarDescriptor s id
    | .create p => if (part s p).mode = .creating then endCreate s p else s
    | .scrub p => if (part s p).mode = .scrubbing ∧ s.faults.computing = false then loadWires (endScrub s p) p else s
    | .destroy p => if (part s p).mode = .destroying then endDestroy s p else s
    | .reset p => resetJob s p
    | .reload p => loadWires s p
    | .expire p kind link => runExpire s p kind link
    | .update => runUpdate s
    | .attest => runModuleAttest s
    | .usage p inst body last => signUsage s p inst body last

/-- A slot of the rotation ends: what it ran is posted (R311). -/
def slotEnds (s : State) : State :=
  s.collar.running.foldl endJob { s with collar := { s.collar with running := [] } }

/-! Boot (R320 to R326) -/

/-- An image header of a set (Table 13.5). -/
def imageHeader (set : Bytes) (i : Nat) : Bytes := slice set (64 + 64 * i) 64

/-- The body range of an image: offset and length. -/
def bodyRange (h : Bytes) : Nat × Nat := (field h 8 8, field h 0x10 4)

/-- An image header is well formed within a set of `len` bytes (Table 13.5); its rsvd fields are ignored (R9). -/
def imageOk (len : Nat) (h : Bytes) : Bool :=
  let r := bodyRange h
  field h 0 2 == 0x0802 && decide (1 ≤ field h 2 1) && decide (field h 2 1 ≤ 9) &&
    r.1 % 64 == 0 && decide (64 ≤ r.2) && decide (r.2 ≤ 4 * 2 ^ 20) && decide (r.1 + r.2 ≤ len)

/-- The nine image headers of a set. -/
def imageHeaders (set : Bytes) : List Bytes := (List.range 9).map (imageHeader set)

/-- No two bodies overlap (R322). -/
def bodiesApart (hs : List Bytes) : Bool :=
  (List.range 9).all (fun i => (List.range i).all (fun j =>
    let a := bodyRange (hs.getD i [])
    let b := bodyRange (hs.getD j [])
    !overlaps a.1 a.2 b.1 b.2))

/-- The set header and image headers are well formed and every type appears once (R321, R322, Table 13.4); rsvd fields are
ignored (R9). -/
def setFormed (set : Bytes) : Bool :=
  let len := field set 8 8
  let hs := imageHeaders set
  field set 0 2 == 0x0801 && field set 2 1 == 9 && decide (field set 3 1 ≤ 3) &&
    decide (len ≤ 32 * 2 ^ 20) && decide (len ≤ set.length) && decide (4404 ≤ len) &&
    hs.all (imageOk len) && (List.range 9).all (fun k => hs.any (fun h => field h 2 1 == k + 1)) && bodiesApart hs

/-- The signer is one of the ROM's and not revoked (R322); its public key follows the headers. -/
def setSigner (s : State) (set : Bytes) : Bool :=
  let i := field set 3 1
  s.collar.romSigners.getD i [] == sha3 (slice set 640 1312) && !bvBit s.otp.signerRevoked i

/-- A body has the digest of its header (R322). -/
def bodyMatches (set h : Bytes) : Bool :=
  let r := bodyRange h
  sha3 (slice set r.1 r.2) == slice h 0x20 32

/-- The boot status of the first check that fails, 0 where a set passes (Table 13.6). -/
def bootCheck (s : State) (set : Bytes) (signatureOk : Bool) : Nat :=
  if !setFormed set then 3
  else if !setSigner s set then 4
  else if !signatureOk then 5
  else if field set 4 1 < s.otp.securityVersion then 6
  else if !(imageHeaders set).all (bodyMatches set) then 7
  else if s.entropy.pool ≠ .delivering then 8
  else if 65535 ≤ s.otp.bootCount then 9
  else 0

/-- The measurement digest (R323). -/
def measurement (s : State) : Bytes :=
  sha3 (ascii "BA16/meas-in/v1" ++ fit 32 s.collar.romDigest ++ fit 32 s.collar.setDigest ++ fit 32 s.collar.followerDigest ++
    natLe 1 s.otp.lifeCycle.code ++ natLe 1 (debugByte s % 4))

/-- The measured key (Table 13.8). -/
def measuredKey (s : State) : Bytes := sha3 (ascii "BA16/meas/v1" ++ s.otp.root ++ measurement s)

/-- The boot nonce is drawn and the alias key made and certified, where there is a root secret (Table 13.8, R326); the certificate
is a hedged signature, a free value. -/
def deriveKeys (s : State) : State :=
  if hasRoot s = false then { s with collar := { s.collar with aliasPk := [], aliasCert := [] } }
  else
    let nonce := freeBytes s 32
    let s1 := spendFree { s with collar := { s.collar with bootNonce := nonce } }
    spendFree { s1 with collar := { s1.collar with
      aliasPk := fit 1312 (Config.dsaPublic (sha3 (ascii "BA16/alias/v1" ++ measuredKey s1 ++ nonce))),
      aliasCert := freeBytes s1 2420, kreg := zeros 32 } }

/-- D1 is not used (R17): the sources of its Sleeves are ABSENT (R340). -/
def loseD1 (s : State) : State :=
  let s1 := { s with collar := { s.collar with d1Usable := false },
                     entropy := { s.entropy with sources := (List.range 8).foldl (fun t v =>
                       tabSet t (v + 8) ({ mode := .absent } : Source)) s.entropy.sources } }
  stallPool s1 8

/-- The counters that a verified boot burns (Table 13.3). -/
def burnBoot (s : State) (set : Bytes) : State :=
  { s with otp := { s.otp with
    securityVersion := if field set 5 1 % 2 = 1 then max s.otp.securityVersion (field set 4 1) else s.otp.securityVersion,
    bootCount := s.otp.bootCount + 1 } }

/-- What boot measures of a set (R323, Table 13.7); D1's image counts where D1 runs. -/
def measureSet (s : State) (set : Bytes) (d1 : Bool) : State :=
  let follower := (imageHeaders set).find? (fun h => field h 2 1 == 2)
  { s with collar := { s.collar with
    setDigest := sha3 (set.take 640), label := slice set 0x10 16,
    followerDigest := if d1 then (follower.map (fun h => slice h 0x20 32)).getD (zeros 32) else zeros 32,
    imageDigests := (imageHeaders set).map (fun h => slice h 0x20 32) } }

/-- A set that passes every check is loaded (R322, R323): counters are burnt, D1 is measured, keys are derived, and the log that
now runs takes the module reset as its first entry (R421). -/
def bootLoaded (s : State) (set : Bytes) (followerOk : Bool) : State :=
  let d1 := followerOk && !s.otp.d1Failed
  let s2 := deriveKeys (measureSet (burnBoot s set) set d1)
  let status := if s.otp.lifeCycle = .retired then 10 else if d1 then 0 else 11
  let s3 := { s2 with collar := { s2.collar with bootStatus := status } }
  let s4 := logFault s3 { cls := 6, code := 0x5F, detail := s.faults.resetCause }
  if d1 then s4 else loseD1 s4

/-- COL_BOOT_CTRL.go (R320, R322): a set that fails burns nothing and leaves nothing loaded; once a boot has finished, go does
nothing. -/
def bootGo (s : State) (set : Bytes) (signatureOk followerOk : Bool) : State :=
  if logRuns s then s
  else
    let r := bootCheck s set signatureOk
    if r ≠ 0 then { s with collar := { s.collar with bootStatus := r } } else bootLoaded s set followerOk

/-! Requests to slot 16 (R339) -/

/-- COL_UPD_CTRL.go: the message waits for slot 16. -/
def submitUpdate (s : State) (message : Bytes) : State :=
  if s.collar.updBusy then s
  else collarQueue { s with collar := { s.collar with updBusy := true, updMessage := message } } 16 .update

/-- COL_ATT.go: a module-level report is requested. -/
def requestAttest (s : State) (nonce : Bytes) : State :=
  if s.collar.attGo then s
  else collarQueue { s with collar := { s.collar with attGo := true, attNonce := nonce } } 16 .attest

/-! Life cycle (R317, R318, R339) -/

/-- COL_LC_CMD with 0xA55A. -/
def armCommand (s : State) (op : Nat) : State := { s with collar := { s.collar with arm := some (op % 16, now s) } }

/-- The arm ends. -/
def disarm (s : State) : State := { s with collar := { s.collar with arm := none } }

/-- One millisecond after the arm it is cleared (R339). -/
def armTimeout (s : State) : State :=
  match s.collar.arm with
  | none => s
  | some (_, t) => disarm (reach s (t + 1000000))

/-- A confirm with this op takes effect: less than 1 ms after an arm with the same op (R339). -/
def confirmed (s : State) (op : Nat) : Bool :=
  match s.collar.arm with
  | none => false
  | some (o, t) => o == op && decide (now s < t + 1000000)

/-- The test-pattern fuse is blown, and the provision waits for the pool with the outcome its check will have (R318). -/
def blowPattern (s : State) (checkOk : Bool) : State :=
  endPattern { s with otp := { s.otp with testPattern := true }, collar := { s.collar with provisioning := some checkOk } }

/-- A confirmed provision (R318): from BLANK the test-pattern fuse is blown, and the root secret is drawn once the pool delivers
from live sources. -/
def provision (s : State) (checkOk : Bool) : State :=
  let s1 := disarm s
  if confirmed s 1 = false ∨ s.otp.lifeCycle ≠ .blank ∨ s.collar.provisioning.isSome then s1
  else
    finishProvision (setReg (blowPattern s1 checkOk) .entTpCtrl 0)

/-- A partition is destroyed at once (R304, Table 13.2). One being created is given up. -/
def destroyNow (s : State) (p : Nat) : State :=
  match (part s p).mode with
  | .free => s
  | .creating => finishCommand (setPart s p {}) p 9
  | _ =>
    let s1 := endDestroy (beginDestroy s p) p
    { s1 with collar := { s1.collar with waiting := s1.collar.waiting.filter (fun w => w.1 == 16) } }

/-- The records that wait for their signature are signed. -/
def signWaiting (s : State) : State :=
  s.collar.waiting.foldl (fun t w =>
    match w.2 with
    | .usage p inst body last => signUsage t p inst body last
    | _ => t) s

/-- The root row and KREG are overwritten and the module is RETIRED (R339, Table 13.2). -/
def closeRoot (s : State) : State :=
  { s with
    otp := { s.otp with lifeCycle := .retired, root := List.replicate 32 0xFF#8 },
    collar := { s.collar with waiting := s.collar.waiting.filter (fun w => w.2 == .update || w.2 == .attest),
                              kreg := zeros 32, aliasPk := [], aliasCert := [], provisioning := none } }

/-- A confirmed retire (R317, R339, Table 13.2): every partition is destroyed, its last record signed while there is a key to sign
with, and the root row and KREG are overwritten. -/
def retire (s : State) : State :=
  let s1 := disarm s
  if confirmed s 2 = false ∨ s.otp.lifeCycle = .retired then s1
  else
    closeRoot (signWaiting ((List.range 16).foldl destroyNow s1))

/-! Rows -/

/-- COLLAR_SLOT_START (R311). -/
def execCollarSlotStart (slot : Fin 17) (signatureOk : Bool) (s : State) : Out := .next (slotStarts s slot.val signatureOk)

/-- COLLAR_SLOT_END (R311). -/
def execCollarSlotEnd (s : State) : Out := .next (slotEnds s)

/-- COL_BOOT_GO (R322). -/
def execColBootGo (image : Bytes) (signatureOk followerOk : Bool) (s : State) : Out := .next (bootGo s image signatureOk followerOk)

/-- COL_UPD_GO (R330). -/
def execColUpdGo (message : Bytes) (s : State) : Out := .next (submitUpdate s message)

/-- COL_ATT_GO (R339). -/
def execColAttGo (nonce : Bytes) (s : State) : Out := .next (requestAttest s nonce)

/-- LC_ARM (R339). -/
def execLcArm (op : Nat) (s : State) : Out := .next (armCommand s op)

/-- LC_ARM_TIMEOUT (R339). -/
def execLcArmTimeout (s : State) : Out := .next (armTimeout s)

/-- LC_PROVISION (R318). -/
def execLcProvision (checkOk : Bool) (s : State) : Out := .next (provision s checkOk)

/-- LC_RETIRE (R339). -/
def execLcRetire (s : State) : Out := .next (retire s)

/-- KEY_EXPIRY (R333). -/
def execKeyExpiry (p : Fin 16) (kind linkKeyId : Nat) (s : State) : Out := .next (keyInstant s p.val kind linkKeyId)

end Sys2Proof.Machine
end

