-- ==== Sys2Proof/Machine/LinkRows.lean ====
section
/-! DEFINITION. The commands of the Shawl's links and set-up (R250 to R258, R265, R266, R272, R414, R415, R424). -/

namespace Sys2Proof.Machine

/-- FEC_BLOCK_RECEIVE (R255). -/
def execFecBlockReceive (port : Fin 6) (number : Nat) (block : Bytes) (lossLane : Option (Fin 32)) (frac : Nat) (s : State) : Out :=
  .next (blockArrives s port.val number block (lossLane.map (fun l => l.val)) frac)

/-- LINK_ACK_RECEIVE (R255). -/
def execLinkAckReceive (port : Fin 6) (block : Nat) (entries : List CreditEntry) (s : State) : Out :=
  .next (ackArrives s port.val block entries)

/-- LINK_NAK_RECEIVE (R255). -/
def execLinkNakReceive (port : Fin 6) (block : Nat) (s : State) : Out := .next (nakArrives s port.val block)

/-- LINK_REMAP_RECEIVE (R258). -/
def execLinkRemapReceive (port : Fin 6) (lane : Fin 32) (spare : Fin 2) (echo : Bool) (block : Nat) (s : State) : Out :=
  .next (remapArrives s port.val lane.val spare.val echo block)

/-- LINK_ACK_TIMER_EXPIRY (R255). -/
def execLinkAckTimerExpiry (port : Fin 6) (s : State) : Out := .next (ackTimerExpires s port.val)

/-- PORT_TRAINING_COMPLETE (R256). -/
def execPortTrainingComplete (port : Fin 6) (partnerType partnerId partnerPort : Nat) (s : State) : Out :=
  .next (trainingDone s port.val partnerType partnerId partnerPort)

/-- PORT_TRAINING_ATTEMPT_FAIL (R257). -/
def execPortTrainingAttemptFail (port : Fin 6) (s : State) : Out := .next (trainingFails s port.val)

/-- PORT_RETRAIN_END (R257). -/
def execPortRetrainEnd (port : Fin 6) (lanes : Option Nat) (s : State) : Out := .next (retrainEnds s port.val lanes)

/-- CABLE_CHANGE (R424). -/
def execCableChange (port : Fin 6) (connected : Bool) (s : State) : Out := .next (cableMoves s port.val connected)

/-- EGRESS_SLOT (R266). -/
def execEgressSlot (port : Fin 6) (s : State) : Out := .next (egressSlot s port.val)

/-- BLOCK_LOCK_LOST (R257). -/
def execBlockLockLost (port : Fin 6) (s : State) : Out := .next (retrainPort s port.val)

/-- SHW_PORT_ENABLE (R414). -/
def execShwPortEnable (port : Fin 6) (s : State) : Out := .next (gate s (enablePort s port.val))

/-- SHW_PORT_RETRAIN (R414). -/
def execShwPortRetrain (port : Fin 6) (s : State) : Out := .next (gate s (commandRetrain s port.val))

/-- SHW_RT_SWAP (R265). -/
def execShwRtSwap (s : State) : Out := .next (gate s (swapTables s))

/-- SHW_DIM_WRITE (R415). -/
def execShwDimWrite (value : Word) (s : State) : Out := .next (gate s (writeDim s value.toNat))

/-- SHW_QUEUE_FLUSH (R272). -/
def execShwQueueFlush (die : Fin 2) (queue : Fin 408) (s : State) : Out := .next (gate s (flushQueue s (408 * die.val + queue.val)))

end Sys2Proof.Machine
end

