-- ==== Sys2Proof/Machine/MeterRows.lean ====
section
/-! DEFINITION. The boundaries of metering (R247, R315, R316). -/

namespace Sys2Proof.Machine

/-- METER_MINUTE_END (R316). -/
def execMeterMinuteEnd (s : State) : Out := .next (minuteInstant s)

/-- METER_MS_SAMPLE (R315). -/
def execMeterMsSample (s : State) : Out := .next (msSample s)

end Sys2Proof.Machine
end

