-- ==== Sys2Proof/Machine/PowerRows.lean ====
section
/-! DEFINITION. The power and thermal manager's commands: measurement and the cap (R354 to R358), the thermal factor (R364, R365),
operating points (R361), droop (R362, R363) and ageing (R147, R148, R368 to R370). -/

namespace Sys2Proof.Machine

/-! One interval of 100 µs -/

/-- The seven readings of an interval in 0.1 W: a rail whose transfer failed twice keeps its previous value (R355). -/
def railReadings (s : State) (rails : List (Option Nat)) : List Nat :=
  (List.range 7).map (fun i => ((rails[i]?).join).getD ((s.power.railPower[i]?).getD 0))

/-- A transfer that failed twice is recorded (R355); the spec gives the entry's class and code no value. -/
def telemetryLost (s : State) (rail : Nat) : State :=
  spendFree (logFault s { cls := freeNat s 1, code := leNat ((freeBytes s 2).drop 1), unitIndex := rail })

/-- The intervals of the averaging window, N (R357). -/
def windowIntervals (s : State) : Nat := regField s .pwrCap 20 16 * 10000

/-- The cap in 0.1 W. -/
def capTenths (s : State) : Nat := 10 * regField s .pwrCap 10 0

/-- The power allowed for the next interval in 0.1 W (R357). -/
def allowedPower (s : State) : Nat :=
  let n := windowIntervals s
  min (11 * capTenths s / 10) (n * capTenths s - ((s.power.sample :: s.power.history).take (n - 1)).sum)

/-- One step of the cap's stages (R358, Table 15.3): up where the power exceeds what is allowed, back where it is at least 2 %
below. -/
def capStep (w : Power) (allowed : Nat) : Power :=
  if allowed < w.sample then
    if w.stageMem < 12 then { w with stageMem := w.stageMem + 1 }
    else if w.stageLink < 8 then { w with stageLink := w.stageLink + 1 }
    else if w.stageComp < 14 then { w with stageComp := w.stageComp + 1 }
    else w
  else if 100 * w.sample ≤ 98 * allowed then
    if 0 < w.stageComp then { w with stageComp := w.stageComp - 1 }
    else if 0 < w.stageLink then { w with stageLink := w.stageLink - 1 }
    else { w with stageMem := w.stageMem - 1 }
  else w

/-- The thermal factor in sixteenths after an interval (R365). -/
def phiStep (phi tj8 : Nat) : Nat :=
  if 840 ≤ tj8 then max 2 (phi - 1) else if tj8 ≤ 824 then min 16 (phi + 1) else phi

/-- The reasons after an interval (Table 15.4). Whether a Sleeve's share or ramp binds rests on estimates that are reported nowhere
(R356): free values, and no ramp binds once the ramp value is 64. -/
def intervalReasons (s : State) : BitVec 9 :=
  let f := freeNat s 1
  let w := s.power
  BitVec.ofNat 9 (f % 2 + 2 * bit (w.stageMem != 0) + 4 * bit (w.stageLink != 0) + 8 * bit (w.stageComp != 0)
    + 16 * bit (decide (w.phi < 16)) + (w.active.toNat &&& 0x60)
    + 128 * (if rampValue s < 64 then f / 2 % 2 else 0) + 256 * bit (ceilingBinds s))

/-- An engine is running a pass. -/
def engineRuns (s : State) (l : Nat) : Bool :=
  match firstPass s l (fun j => !j.passDone) with
  | some (f, j) => j.engines.all (atPass s f j)
  | none => false

/-- The Sleeves that run a pass. -/
def issuing (s : State) : List Nat :=
  (List.range 16).filter (fun v => (List.range 8).any (fun e => engineRuns s (8 * v + e)))

/-- The compute allowance divided at an interval boundary (R310): each Sleeve keeps A ÷ 16 × 0.25, and the rest goes to those that
issued work in the interval, in proportion to their demand, an estimate that is reported nowhere (R356): free values. Where none
issued, each has A ÷ 16. DESIGN CHOICE: how the floor enters the proportion, and the share where none issued (log entry 73). -/
def divideAllowance (s : State) : State :=
  let a := computeAllowance s
  let on := (List.range 16).filter (fun v => s.power.issued.contains v)
  let demand (v : Nat) : Nat := if on.contains v then leNat (((freeBytes s 16).drop v).take 1) + 1 else 0
  let total := ((List.range 16).map demand).sum
  let shares := if on.isEmpty then [] else (List.range 16).map (fun v => a + 48 * a * demand v / total)
  spendFree { s with power := { s.power with shares := shares, issued := issuing s } }

/-- The manager's work at an interval boundary (R310, R354 to R358, R365). -/
def powerInterval (s : State) (rails : List (Option Nat)) : State :=
  let lost := (List.range 7).filter (fun i => ((rails[i]?).join).isNone)
  let s1 := lost.foldl telemetryLost s
  let r := railReadings s rails
  let allowed := allowedPower s
  let w := s1.power
  let w1 := capStep { w with railPower := r, sample := r.sum, intervals := w.intervals + 1,
                             history := (w.sample :: w.history).take 299999, energy := (w.energy + 10 * r.sum) % 2 ^ 64 } allowed
  let s2 := { s1 with power := { w1 with phi := phiStep w.phi w.tj8 } }
  let s3 := if regField s2 .ptnModes 0 0 = 1 then divideAllowance s2 else { s2 with power := { s2.power with issued := issuing s2 } }
  spendFree (setReasons s3 (intervalReasons s3))

/-- Device `d` takes its own readout of the list, where the list holds one (Table 7.3). -/
def setTemp (temps : List Nat) (t : Tab Device) (d : Nat) : Tab Device :=
  match temps[d]? with
  | some c => tabMap {} t d (fun x => { x with temp := c })
  | none => t

/-- The highest of the junction readings in 1/8 °C (R364), and each LPDDR5X device's own readout in °C, which sets its refresh rate
(R193, Table 7.3). -/
def readSensors (s : State) (readings temps : List Nat) : State :=
  let s1 := { s with devices := (List.range 16).foldl (setTemp temps) s.devices }
  match readings with
  | [] => s1
  | r :: rs => { s1 with power := { s1.power with tj8 := rs.foldl max r } }

/-! Operating points (R361, R363) -/

/-- A write of PWR_OP.target; one outside 285 to 330 is ignored (Table 15.6). -/
def writeOpPoint (s : State) (v : Nat) : State :=
  let t := v % 256
  if 285 ≤ t + 256 ∧ t + 256 ≤ 330 then setReg s .pwrOp t
  else logFault s { cls := 7, code := 0x67, unitIndex := Reg.offset .pwrOp }

/-- The next step's code, at most 5 from the one in effect. -/
def nextStep (current target : Nat) : Nat :=
  if current < target then min target (current + 5) else max target (current - 5)

/-- Every slot is to switch to the step's operating point at its next pass boundary; a slot at rest takes it when it is mapped. -/
def signalSlots (s : State) (t : Nat) : State :=
  { s with slots := s.slots.map (fun e => if e.2.logical.isSome then (e.1, { e.2 with pendingOp := some t }) else e) }

/-- A step commits (R361): upward by raising the voltage; downward by signalling the slots. Not during droop
response, nor within 2 µs of its end (R363). -/
def commitStep (s : State) : State :=
  let w := s.power
  let target := 256 + reg s .pwrOp
  if w.step.isSome ∨ target = w.current ∨ w.droop ∨ now s < w.droopClearAt then s
  else
    let t := nextStep w.current target
    if w.current < t then
      { s with power := { w with step := some t, stepUp := true, railsSettled := false, voutMv := voltageOf t } }
    else signalSlots { s with power := { w with step := some t, stepUp := false } } t

/-- The engine rails have settled: in an upward step the slots may switch (R361). -/
def settleRails (s : State) : State :=
  if s.power.railsSettled then s
  else
    let s1 := { s with power := { s.power with railsSettled := true } }
    match s1.power.step with
    | some t => advanceStep (if s1.power.stepUp then signalSlots s1 t else s1)
    | none => s1

/-- At a pass boundary a slot takes its pending operating point and ceiling (R147); one whose required ceiling is below 270 is
retired (R148). -/
def switchSlot (s : State) (n : Nat) : State :=
  let x := slotOf s n
  let s1 := modSlot s n (fun y => { y with op := y.pendingOp.getD y.op, pendingOp := none })
  advanceStep
    (match x.pendingCeiling with
    | none => s1
    | some c =>
      if c < 270 then failSlot (modSlot s1 n (fun y => { y with pendingCeiling := none })) n
      else
        let s3 := modSlot s1 n (fun y => { y with ceiling := c, pendingCeiling := none })
        setReason s3 8 (ceilingBinds s3))

/-! Droop (R362, R363) -/

/-- A detector at or below its threshold starts droop response. -/
def droopStarts (s : State) : State :=
  if s.power.droop then s else setReason { s with power := { s.power with droop := true } } 5 true

/-- Droop response ends: the allowance rises again from 32, and a step may commit 2 µs later. -/
def droopEnds (s : State) : State :=
  if s.power.droop then
    setReason { s with power := { s.power with droop := false, droopClearAt := now s + 2000, rampFrom := (32, now s) } } 5 false
  else s

/-! Ageing (R368, R370) -/

/-- The ceiling that a replica reading calls for: c0 less 300 times the degradation, rounded up (R368). -/
def requiredCeiling (x : Slot) (r : Nat) : Int := (x.c0 : Int) + (300 * ((r : Int) - x.r0)).fdiv x.r0

/-- A replica reading of a slot (R368, R148): after 16 readings in a row that call for less, the ceiling falls one code; below 270
the slot is to be retired. Both take effect at the slot's next pass boundary. -/
def ageSlot (s : State) (n r : Nat) : State :=
  let x := slotOf s n
  let need := requiredCeiling x r
  let c := x.pendingCeiling.getD x.ceiling
  if x.retired then s
  else if need < 270 then modSlot s n (fun y => { y with pendingCeiling := some (min c need.toNat), overCount := 0 })
  else if (c : Int) ≤ need then modSlot s n (fun y => { y with overCount := 0 })
  else if x.overCount + 1 < 16 then modSlot s n (fun y => { y with overCount := y.overCount + 1 })
  else modSlot s n (fun y => { y with overCount := 0, pendingCeiling := some (c - 1) })

/-- The predicted hours of the three classes (R370). -/
def predictEnd (s : State) (engines lanes em : Nat) : State :=
  { s with power := { s.power with eolEngines := min 0xFFFFFFFF engines, eolLanes := min 0xFFFFFFFF lanes, eolEm := min 0xFFFFFFFF em } }

/-! Rows -/

/-- POWER_INTERVAL (R354 to R359, R365). -/
def execPowerInterval (rails : List (Option Nat)) (s : State) : Out := .next (powerInterval s rails)

/-- THERMAL_SENSOR_READ (R193, R364). -/
def execThermalSensorRead (r : SensorReadings) (s : State) : Out := .next (readSensors s r.junctions r.devices)

/-- PWR_OP_WRITE (R361). -/
def execPwrOpWrite (value : Word) (s : State) : Out := .next (gate s (writeOpPoint s value.toNat))

/-- FREQ_STEP_COMMIT (R361, R363). -/
def execFreqStepCommit (s : State) : Out := .next (commitStep s)

/-- RAIL_SETTLED (R361). -/
def execRailSettled (s : State) : Out := .next (settleRails s)

/-- SLOT_FREQ_SWITCH (R147). -/
def execSlotFreqSwitch (slot : Fin 144) (s : State) : Out := .next (switchSlot s slot.val)

/-- DROOP_DETECT (R362). -/
def execDroopDetect (_detector : Fin 32) (s : State) : Out := .next (droopStarts s)

/-- DROOP_CLEAR (R362). -/
def execDroopClear (s : State) : Out := .next (droopEnds s)

/-- AGEING_READ (R368). -/
def execAgeingRead (slot : Fin 144) (reading : Nat) (s : State) : Out := .next (ageSlot s slot.val reading)

/-- EOL_PREDICTION (R370). -/
def execEolPrediction (engines lanes em : Nat) (s : State) : Out := .next (predictEnd s engines lanes em)

end Sys2Proof.Machine
end

