-- ==== Sys2Proof/Machine/ResetRows.lean ====
section
/-! DEFINITION. Compute and module resets, module faults, the thermal trip, and power (R366, R381 to R387, R425 to R432). -/

namespace Sys2Proof.Machine

/-- A compute reset is asked for through FLT_RESET (R381). -/
def commandCompute (s : State) : State := requestCompute s true

/-- A class-6 fault of the module by its code: Collar fault, router table parity, CCL loss, firmware mismatch (Table 18.10). -/
def moduleFaultCode (s : State) (code : Nat) : State :=
  if 0x51 ≤ code ∧ code ≤ 0x54 then moduleFault s code (if code = 0x51 then 12 else if code = 0x53 then 7 else 0) else s

/-- A sensor reaches 118 °C (R366, R385, R429): the engine rails go off, THERM_TRIP_N goes low, and work that uses engines,
keystream units or samplers ends; the module is TRIPPED where it ran. -/
def trip (s : State) : State :=
  let s1 := setReason (setEngineRails { s with power := { s.power with thermTrip := true, tj8 := max 944 s.power.tj8 } } false) 6 true
  let s2 := logFault s1 { cls := 5, code := 0x42, unitKind := 13 }
  if s.faults.mode = .run ∨ s.faults.mode = .computeReset then
    let s3 := { s2 with faults := { s2.faults with mode := .tripped, entry := faultRef s2 } }
    (allLive s3).foldl (fun t p => endFlights (chargePasses t p) p (fun f => needsUnits f.opcode) stReset (faultRef s2)) s3
  else s2

/-- Every sensor of a TRIPPED module reads below 100.0 °C: a compute reset starts where FLT_CTRL.auto_compute is 1 (Table 16.7). -/
def cooled (s : State) : State :=
  if s.faults.mode = .tripped ∧ s.power.tj8 < 800 ∧ regField s .fltCtrl 1 1 = 1 ∧ s.faults.computing = false then
    requestCompute s false
  else s

/-! Power (R430 to R432) -/

/-- V_IN and PWR_EN bring the rails up, PWR_GOOD rises and a module reset begins (R430, R431). After a rail fault they come up
only once PWR_EN has fallen (R426). -/
def powerUp (s : State) : State :=
  if s.power.railFault then s
  else
    let s1 := freshModule s 1
    { s1 with power := { s1.power with rails := List.replicate 7 true, pwrGood := true } }

/-- Every rail is off and nothing is kept but fuses and OTP (R432). -/
def railsOff (s : State) (fault : Bool) : State :=
  let s1 := freshModule s 1
  { s1 with power := { s1.power with rails := List.replicate 7 false, pwrGood := false, railFault := fault } }

/-- RESET_N low for at least 10 µs while PWR_GOOD is high starts a module reset from its release; a shorter pulse is filtered
(R431). -/
def resetPulse (s : State) (lowNs : Nat) : State :=
  if s.power.pwrGood ∧ 10000 ≤ lowNs then freshModule (elapse s lowNs) 2 else s

/-! Module reset (R384) -/

/-- The sources of usable Sleeves warm up and the pool starts (Tables 14.2, 14.4). -/
def startEntropy (s : State) : State :=
  let src := (List.range 16).foldl (fun t v =>
    tabSet t v ({ mode := if sleeveUsable s v then .warmup else .absent } : Source)) []
  poolTo { s with entropy := { s.entropy with sources := src } } .startup

/-- A device trains (R384, R204): one that had failed before may fail again, which nothing decides here. Those of D1 stay unused
while D1 is (R17). -/
def trainDevice (s : State) (d : Nat) : State :=
  let x := tabGet {} s.devices d
  if 8 ≤ d ∧ s.collar.d1Usable = false then s
  else if x.mode = .training then
    spendFree { s with devices := tabSet s.devices d { x with mode := if freeNat s 1 % 2 = 0 then .ready else .unusable } }
  else { s with devices := tabSet s.devices d { x with mode := .ready } }

/-- Module reset (R384, Table 16.7). Outside BOOT one begins. In BOOT it goes on: CCL has trained and the entropy sources start;
once the Collar has booted, memory trains, every Pocket is zeroed, the slot map is built and the module runs. -/
def moduleReset (s : State) : State :=
  if s.faults.mode ≠ .boot then freshModule s 2
  else if s.entropy.pool = .off then startEntropy s
  else if logRuns s then
    let s1 := mapAll (zeroPockets ((List.range 16).foldl trainDevice s))
    { s1 with faults := { s1.faults with mode := .run, starts := [] } }
  else s

/-! Rows -/

/-- COMPUTE_RESET (R383). -/
def execComputeReset (s : State) : Out := .next (gate s (commandCompute s))

/-- COMPUTE_RESET_COMPLETE (R383). -/
def execComputeResetComplete (failedSlots : List Nat) (imagesMatch : Bool) (s : State) : Out :=
  .next (completeCompute s failedSlots imagesMatch)

/-- MODULE_FAULT_ENTRY (R387). -/
def execModuleFaultEntry (code : Nat) (s : State) : Out := .next (moduleFaultCode s code)

/-- MODULE_RESET_COMMAND (R381). -/
def execModuleResetCommand (s : State) : Out := .next (gate s (commandedReset s))

/-- THERMAL_TRIP (R366). -/
def execThermalTrip (s : State) : Out := .next (trip s)

/-- TRIP_COOLDOWN (R385). -/
def execTripCooldown (s : State) : Out := .next (cooled s)

/-- POWER_UP (R430). -/
def execPowerUp (s : State) : Out := .next (powerUp s)

/-- RESET_N_PULSE (R431). -/
def execResetNPulse (lowNs : Nat) (s : State) : Out := .next (resetPulse s lowNs)

/-- MODULE_RESET (R384). -/
def execModuleReset (s : State) : Out := .next (moduleReset s)

/-- POWER_DOWN (R432). -/
def execPowerDown (s : State) : Out := .next (railsOff s false)

/-- RAIL_FAULT (R426). -/
def execRailFault (rail : Fin 7) (s : State) : Out := .next (railsOff { s with power := { s.power with rails := s.power.rails.set rail.val false } } true)

end Sys2Proof.Machine
end

