-- ==== Sys2Proof/Machine/SelfTestRows.lean ====
section
/-! DEFINITION. Built-in self-test (R394 to R400, Tables 17.1 to 17.3). -/

namespace Sys2Proof.Machine

/-- A region exists (Table 17.1). -/
def regionExists (kind index : Nat) : Bool :=
  if kind = 1 ∨ kind = 2 then decide (index < 144)
  else if kind = 3 ∨ kind = 4 ∨ kind = 5 then decide (index < 16)
  else if kind = 6 then decide (index < 4)
  else if kind = 7 ∨ kind = 9 then decide (index < 2)
  else if kind = 8 then decide (index < 6)
  else false

/-- A descriptor of the Sleeve's owner with one of these opcodes is in flight. -/
def ownerRuns (s : State) (v : Nat) (ops : List Nat) : Bool :=
  match sleeveOwner s v with
  | none => false
  | some p => (flying s p).any (fun f => f.done.isNone && ops.contains f.opcode)

/-- The cipher context of a Sleeve holds a submission or bundle key (R181). -/
def contextHolds (s : State) (v : Nat) : Bool :=
  match sleeveOwner s v with
  | none => false
  | some p =>
    let x := part s p
    let k := (x.sleeveList.takeWhile (fun u => u != v)).length
    [x.submit, x.recover].any (fun w => (w.map (fun y => decide (0 < contextKeys x y k))).getD false)

/-- A pass on a Sleeve's keystream units is in flight: a mask expansion on one of its engines, or an operator that enciphers,
opens or expands a share (R114, R181, Table 12.9). -/
def keystreamBusy (s : State) (v : Nat) : Bool :=
  s.inflight.any (fun f => f.done.isNone && f.opcode == 0x30 && f.jobs.any (fun j => j.engines.any (fun l => l / 8 == v))) ||
    ownerRuns s v [0x32, 0x49, 0x50, 0x51, 0x59, 0x73, 0x74]

/-- Every partition is FREE. -/
def allFree (s : State) : Bool := (List.range 16).all (fun p => (part s p).mode == .free)

/-- The condition of Table 17.1. -/
def regionFree (s : State) (kind index : Nat) : Bool :=
  match kind with
  | 1 => true
  | 2 => (!(slotOf s index).retired && (slotOf s index).logical.isNone) || (sleeveOwner s (index / 9)).isNone
  | 3 => !contextHolds s index && !keystreamBusy s index
  | 4 => !ownerRuns s index [0x58, 0x59, 0x49]
  | 5 => (sleeveOwner s index).isNone
  | 6 => !s.inflight.any (fun f =>
      f.done.isNone && (match f.body with | .rank o => o.lapelSleeve == 4 * index | _ => false))
  | 8 => (match (portOf s index).mode with
          | .disabled => true
          | .failed => true
          | .miscabled => true
          | _ => false)
  | _ => allFree s

/-- A self-test is admitted: its region exists and meets its condition, which BLANK waives (R395), and no compute reset runs. -/
def testAdmitted (s : State) (kind index : Nat) : Bool :=
  regionExists kind index && s.faults.computing == false && (s.otp.lifeCycle == .blank || regionFree s kind index)

/-- Secrets of the region are cleared, and a memory region is zeroed (R396 steps 1 to 4). -/
def clearRegion (s : State) (kind index : Nat) : State :=
  match kind with
  | 2 => modSlot s index (fun x => { x with resident := [], consts := [] })
  | 3 => modSleeve s index (fun x => { x with keysLoaded := false })
  | 5 => clearPockets s [index]
  | _ => s

/-- A write of BST_CTRL that names a region (R396, R398): while a test runs it is lost; a region that is not admitted is REFUSED. -/
def startTest (s : State) (kind index : Nat) : State :=
  if s.bst.busy then setStatusBits s .bstStat (2 ^ 30)
  else
    let s1 := { s with bst := { s.bst with kind := kind, index := index } }
    if !testAdmitted s kind index then raiseIrq { s1 with bst := { s1.bst with result := 2 } } 64
    else
      clearRegion { s1 with bst := { s1.bst with busy := true, held := true }, collar := { s1.collar with selfTested := true } } kind index

/-- A test of the boot-time run (R400): kinds 1 to 6, while memory trains; nothing is held or cleared. -/
def startBootTest (s : State) (kind index : Nat) : State :=
  if s.faults.mode = .boot ∧ regField s .bstCtrl 31 31 = 1 ∧ !s.bst.busy ∧ 1 ≤ kind ∧ kind ≤ 6 ∧ regionExists kind index then
    { s with bst := { s.bst with kind := kind, index := index, busy := true }, collar := { s.collar with selfTested := true } }
  else s

/-- A region that failed is marked: class 3, code 0x26 (R399). -/
def logMark (s : State) (unitKind unitIndex : Nat) : State :=
  logFault s { cls := 3, code := 0x26, unitKind := unitKind, unitIndex := unitIndex }

/-- A Sleeve is unusable for good (Table 17.2): its owner is faulted, and it leaves the slot map at the next compute reset. -/
def markSleeve (s : State) (v : Nat) : State :=
  let s1 := modSleeve s v (fun x => { x with unusableNext := true })
  match sleeveOwner s v with
  | none => logMark s1 3 v
  | some p =>
    let s2 := logFault s1 { cls := 4, code := 0x32, p := p, unitIndex := v }
    faultPartition s2 p (faultRef s2)

/-- A port's failed fuse is blown (Table 17.2). -/
def fusePort (s : State) (index : Nat) : State :=
  { s with otp := { s.otp with portFailed := s.otp.portFailed ||| BitVec.ofNat 6 (2 ^ index) } }

/-- D1 is marked unusable (Table 17.2). -/
def fuseFollower (s : State) : State := { s with otp := { s.otp with d1Failed := true } }

/-- What a failed region is marked with (Table 17.2). The spec gives the class-6 entry of a D0 command processor or RMA engine no
code: a free value. -/
def markRegion (s : State) (kind index : Nat) (units : List Nat) : State :=
  match kind with
  | 1 => advanceStep (failSlot (logMark s 1 index) index)
  | 2 => advanceStep (failSlot (logMark s 1 index) index)
  | 3 => (units.filter (fun k => decide (k < 8))).foldl (fun t k => failKeystream (logMark t 2 (8 * index + k)) index k) s
  | 4 => markSleeve s index
  | 5 => markSleeve s index
  | 6 => modSleeve (logMark s 10 (4 * index)) (4 * index) (fun x => { x with lapelRetired := true })
  | 8 =>
    modPort (logMark (fusePort s index) 5 (256 * index)) index (fun x => { x with mode := .failed })
  | _ =>
    let unit := if kind = 7 then 11 else 15
    if index = 0 then spendFree (moduleFault s (freeNat s 1) unit)
    else logMark (fuseFollower s) unit index

/-- Keys come back in the owner's next Collar slot (R396 step 6); a Sleeve of no partition has none to load. -/
def reloadKeys (s : State) (v : Nat) : State :=
  match sleeveOwner s v with
  | some p => collarQueue s p (.reload p)
  | none => modSleeve s v (fun x => { x with keysLoaded := true })

/-- The signature is compared, the hold is released and a failure is marked (R396, R399). Empty `failed` is a pass; for kind 3 it
names the units whose own signature failed. -/
def completeTest (s : State) (failed : List Nat) : State :=
  if !s.bst.busy then s
  else
    let bad := !failed.isEmpty
    let cleared := s.bst.held && s.bst.kind == 3
    let s1 := raiseIrq { s with bst := { s.bst with
      busy := false, held := false, result := bit bad, run := min 65535 (s.bst.run + 1), failed := min 65535 (s.bst.failed + bit bad) } } 64
    let s2 := if cleared then reloadKeys s1 s.bst.index else s1
    if bad then markRegion s2 s.bst.kind s.bst.index failed else s2

/-! Rows -/

/-- BST_START (R396, R400). -/
def execBstStart (kind index : Nat) (bootTime : Bool) (s : State) : Out :=
  .next (if bootTime then startBootTest s kind index else gate s (startTest s kind index))

/-- BST_COMPLETE (R396). -/
def execBstComplete (failedUnits : List Nat) (s : State) : Out := .next (completeTest s failedUnits)

end Sys2Proof.Machine
end

