-- ==== Sys2Proof/Machine/RegisterRows.lean ====
section
/-! DEFINITION. Writes of the configuration space (R10, R208, R209, R404 to R420) and the companion's accesses to the host-visible
windows (R30, R199). -/

namespace Sys2Proof.Machine

/-! Locks and rings (R208, R209, R408) -/

/-- GLB_LOCK: writing 1 locks; writing 0 does nothing (R408). -/
def writeGlbLock (s : State) (v : Nat) : State := if v % 2 = 1 then setReg s .glbLock 1 else s

/-- RING_LOCK of a partition (Table 8.5). -/
def writeRingLock (s : State) (p v : Nat) : State := if v % 2 = 1 then setReg s (.ringLock p) 1 else s

/-- A number of ring entries is admitted (R209). -/
def ringSizeOk (v : Nat) : Bool := decide (6 ≤ bitsOf v 16 5) && decide (bitsOf v 16 5 ≤ 16)

/-- Enabling a ring is refused (R209). -/
def refuseRing (s : State) (p r : Nat) : State :=
  logFault s { cls := 7, code := 0x60, p := p, unitKind := 14, unitIndex := 8 * p + r, ring := r }

/-- A submission ring meets R209 with the control value written: size, addresses, and an enabled completion ring. -/
def sqSetUp (s : State) (p r v : Nat) : Bool :=
  ringSizeOk v && reg s (.sqBase p r) != 0 && reg s (.sqDb p r) != 0 && reg s (.sqHeadln p r) != 0 &&
    regField s (.cqCtrl p (bitsOf v 8 3)) 0 0 == 1

/-- A completion ring meets R209. -/
def cqSetUp (s : State) (p r v : Nat) : Bool :=
  ringSizeOk v && reg s (.cqBase p r) != 0 && reg s (.cqCredit p r) != 0

/-- A write of RING_SQ_CTRL with its lock open (R209, Table 8.6): enabling takes the doorbell line and reads its tail; disabling lets
what is fetched run on. A STOPPED ring stays so. -/
def writeSqCtrl (s : State) (p r v : Nat) : State :=
  let on := regField s (.sqCtrl p r) 0 0 = 1
  let held := bitsOf v 8 3 * 2 ^ 8 + bitsOf v 16 5 * 2 ^ 16
  if on then
    if v % 2 = 1 ∨ (sqOf s p r).mode = .stopped then setReg s (.sqCtrl p r) (held + 1)
    else
      modSq (setReg s (.sqCtrl p r) held) p r (fun q =>
        { q with mode := .disabled, reads := [], batches := [], lastTail := q.fetched, burst := 0 })
  else if v % 2 = 0 then setReg s (.sqCtrl p r) held
  else if sqSetUp s p r v then
    let s1 := modSq (setReg s (.sqCtrl p r) (held + 1)) p r (fun q => { q with mode := .idle })
    invalidate s1 p r (instant s1)
  else refuseRing (setReg s (.sqCtrl p r) held) p r

/-- A write of RING_CQ_CTRL with its lock open (R209): enabling takes the credit line as it would a doorbell line, so it is read
(R224); records that waited for an enabled ring are written. -/
def writeCqCtrl (s : State) (p r v : Nat) : State :=
  let on := regField s (.cqCtrl p r) 0 0 = 1
  let held := bitsOf v 1 2 * 2 + bitsOf v 16 5 * 2 ^ 16
  if v % 2 = 0 then setReg s (.cqCtrl p r) held
  else if on ∨ cqSetUp s p r v then
    let s1 := if on then s else emit (countCcl s p 64 0) (.lineRead (reg s (.cqCredit p r)))
    settleFences (drainHeld (setReg s1 (.cqCtrl p r) (held + 1)) p r (cqOf s p r).held.length) p
  else refuseRing (setReg s (.cqCtrl p r) held) p r

/-- A write of a ring's control register. All of its fields are RWL: under the lock a write that would change one is refused
(R405). -/
def writeRingCtrl (s : State) (p : Nat) (cq : Bool) (r v : Nat) : State :=
  let old := reg s (if cq then .cqCtrl p r else .sqCtrl p r)
  let fields := if cq then v % 8 + bitsOf v 16 5 * 2 ^ 16 else v % 2 + bitsOf v 8 3 * 2 ^ 8 + bitsOf v 16 5 * 2 ^ 16
  if regField s (.ringLock p) 0 0 = 1 then (if fields = old then s else refuseAccess s)
  else if cq then writeCqCtrl s p r v
  else writeSqCtrl s p r v

/-- A write of DBG_CNT (R402). -/
def writeCounter (s : State) (i v : Nat) : State := { s with dbg := { s.dbg with counts := tabSet s.dbg.counts i v } }

/-! The bits that a write covers (R405) -/

/-- What a write carries: its lowest bit, how many bits, and its value at their place in the register. -/
structure Written where
  lo : Nat
  n : Nat
  v : Nat
deriving DecidableEq, Repr

/-- A write of 8 bytes, or of 4 naturally aligned; any other is refused (R405). -/
def writtenOf (offset size v : Nat) : Option Written :=
  if size = 8 ∧ offset % 8 = 0 then some ⟨0, 64, v % 2 ^ 64⟩
  else if size = 4 ∧ offset % 8 = 0 then some ⟨0, 32, v % 2 ^ 32⟩
  else if size = 4 ∧ offset % 8 = 4 then some ⟨32, 32, v % 2 ^ 32 * 2 ^ 32⟩
  else none

/-- A stored value with the written bits taken. -/
def Written.over (w : Written) (old : Nat) : Nat := setBits old w.lo w.n (bitsOf w.v w.lo w.n)

/-- The write covers bit 0, where the WO fields of the 32-bit registers lie. -/
def Written.low (w : Written) : Bool := w.lo == 0

/-- The part of a field that a write covers: lowest bit and bits. -/
def Written.cut (w : Written) (f : FieldMap) : Nat × Nat :=
  let a := max f.lo w.lo
  let b := min (f.hi + 1) (w.lo + w.n)
  (a, b - a)

/-! What becomes of a field -/

/-- A field takes the value written, ignores it, or refuses it with an entry in the log. -/
inductive FieldVerdict where
  | take
  | ignore
  | log (code : Nat)
deriving DecidableEq, Repr

/-- A register whose RWL fields GLB_LOCK locks (R408). -/
def globalLocked : Reg → Bool
  | .glbCclAper => true
  | .glbIrqAddr => true
  | .glbIrqData => true
  | .shwDim => true
  | .shwQcfg _ _ => true
  | .pwrDroop => true
  | .fltCtrl => true
  | .bstCtrl => true
  | .ptnMeterBase => true
  | .ptnMeterCtrl => true
  | _ => false

/-- The partition whose RING_LOCK locks a register (Table 8.5). -/
def ringOwner : Reg → Option Nat
  | .sqBase p _ => some p
  | .sqDb p _ => some p
  | .sqHeadln p _ => some p
  | .sqCtrl p _ => some p
  | .cqBase p _ => some p
  | .cqCredit p _ => some p
  | .cqCtrl p _ => some p
  | .cqMod p _ => some p
  | .cqMsiAddr p _ => some p
  | .cqMsiData p _ => some p
  | _ => none

/-- The RWL fields of a register are locked. -/
def lockedReg (s : State) (r : Reg) : Bool :=
  (globalLocked r && regField s .glbLock 0 0 == 1) ||
    ((ringOwner r).map (fun p => regField s (.ringLock p) 0 0 == 1)).getD false

/-- The partition whose set-up a register is, which is ignored unless it is FREE (R300, R420). -/
def setUpOf : Reg → Option Nat
  | .ptnSleeves p => some p
  | .ptnDgran p _ => some p
  | .ptnHgran p _ => some p
  | .ptnPin p => some p
  | .ptnCcl p => some p
  | .ptnPolicy p => some p
  | .rmaCtBase p => some p
  | .rmaCtLimit p => some p
  | .rmaCcCfg p => some p
  | .rmaMissCfg p => some p
  | _ => none

/-- The sum of min over a die's queues with one of them changed (R269). -/
def minSum (s : State) (d q v : Nat) : Nat :=
  ((List.range 408).map (fun j => if j = q then v else regField s (.shwQcfg d j) 16 0)).sum

/-- Take a field or ignore it. -/
def takeIf (b : Bool) : FieldVerdict := if b then .take else .ignore

/-- What a field does with a new value (R230, R269, R281, R300, R339, R357, R371, R403, R420). -/
def fieldVerdict (s : State) (r : Reg) (f : FieldMap) (v : Nat) : FieldVerdict :=
  match setUpOf r with
  | some p => takeIf ((part s p).mode == .free)
  | none =>
    match r with
    | .colBootAddr => takeIf (s.collar.bootStatus != 0 && s.collar.bootStatus != 2)
    | .ptnModes => takeIf (allFree s)
    | .pwrCap =>
      if f.lo = 32 then takeIf (allFree s)
      else if f.lo = 16 then (if 1 ≤ v ∧ v ≤ 30 then .take else .log 0x67)
      else if 600 ≤ v ∧ v ≤ 1250 then .take
      else .log 0x67
    | .spId p k => takeIf ((slotState s p k).mode == .free)
    | .spKey p k => takeIf ((slotState s p k).mode == .free)
    | .spExpLo p k _ => takeIf ((slotState s p k).mode != .revoking)
    | .spExpHi p k _ => takeIf ((slotState s p k).mode != .revoking)
    | .dbgTraceCtrl => takeIf (f.lo != 8 || regField s .dbgTraceCtrl 0 0 == 0)
    | .shwQcfg d q => if f.lo = 0 then (if 17 ≤ v ∧ minSum s d q v ≤ 61440 then .take else .log 0x65) else .take
    | _ => .take

/-- Write one field (R10, R405): `refused` says a locked field would change. -/
def writeField (r : Reg) (w : Written) (acc : State × Bool) (f : FieldMap) : State × Bool :=
  let s := acc.1
  let c := w.cut f
  if c.2 = 0 then acc
  else
    let old := reg s r
    let new := setBits old c.1 c.2 (bitsOf w.v c.1 c.2)
    match f.acc with
    | .w1c => (setReg s r (setBits old c.1 c.2 (bitsOf old c.1 c.2 &&& (2 ^ c.2 - 1 - bitsOf w.v c.1 c.2))), acc.2)
    | .rwl =>
      if lockedReg s r then (s, acc.2 || new != old)
      else
        match fieldVerdict s r f (bitsOf new f.lo (f.hi + 1 - f.lo)) with
        | .take => (setReg s r new, acc.2)
        | .ignore => acc
        | .log code => (logFault s { cls := 7, code := code }, acc.2)
    | .rw =>
      match fieldVerdict s r f (bitsOf new f.lo (f.hi + 1 - f.lo)) with
      | .take => (setReg s r new, acc.2)
      | .ignore => acc
      | .log code => (logFault s { cls := 7, code := code }, acc.2)

/-- Write the fields of a register: what is refused is logged once, and the rest takes effect (R405). -/
def writeFields (s : State) (r : Reg) (w : Written) : State :=
  let e := r.fields.foldl (writeField r w) (s, false)
  if e.2 then refuseAccess e.1 else e.1

/-! Tables of slots and routes -/

/-- An owner byte names a partition that is not FREE (R416). -/
def ownedByte (s : State) (v : Nat) : Bool := decide (v < 16) && (part s v).mode != .free

/-- One byte of a slot table: an unknown owner is stored as NONE, and a byte of a partition that is not FREE stays (R416). -/
def slotByte (s : State) (transit : Bool) (old v : Nat) : Nat :=
  let n := if v < 16 ∨ v = 0x1F ∨ (transit ∧ v = 0x10) then v else 0x1F
  if ownedByte s old || ownedByte s n then old else n

/-- A write of DRM_SLOT or SHW_EGR (R416). -/
def writeSlots (s : State) (r : Reg) (transit : Bool) (w : Written) : State :=
  let old := reg s r
  setReg s r ((List.range 8).foldl (fun a b =>
    if w.lo ≤ 8 * b ∧ 8 * b < w.lo + w.n then setBits a (8 * b) 8 (slotByte s transit (bitsOf old (8 * b) 8) (bitsOf w.v (8 * b) 8)) else a) old)

/-- A write of SHW_RT goes to the inactive copy, four bits an entry (R415). -/
def writeRoutes (s : State) (n : Nat) (w : Written) : State :=
  let copy := 1 - s.shawl.active
  { s with shawl := { s.shawl with tables := (List.range 16).foldl (fun t e =>
      if w.lo ≤ 4 * e ∧ 4 * e < w.lo + w.n then tabSet t (4096 * copy + 16 * n + e) (bitsOf w.v (4 * e) 4) else t) s.shawl.tables } }

/-! Registers whose write is an action -/

/-- COL_LC_CMD (R339): 0xA55A arms, 0x5AA5 confirms. -/
def writeLifeCycle (s : State) (v : Nat) : State :=
  let op := bitsOf v 0 4
  if bitsOf v 16 16 = 0xA55A then armCommand s op
  else if bitsOf v 16 16 = 0x5AA5 then
    if op = 1 then spendFree (provision s (freeNat s 1 % 2 == 0)) else if op = 2 then retire s else disarm s
  else s

/-- PTN_CMD (R300). The block that CREATE reads at PTN_POLICY is what companion memory holds there: a free value. -/
def writePtnCmd (s : State) (v : Nat) : State :=
  let p := bitsOf v 0 4
  let s1 := if v.testBit 30 then setReg s .ptnCmd 0 else s
  match bitsOf v 16 4 with
  | 1 => if s.manager.busy then commandLost s1 else spendFree (commandCreate s1 p (some (freeBytes s 128)))
  | 2 => commandScrub s1 p
  | 3 => commandDestroy s1 p
  | 4 => commandReset s1 p
  | _ => if s.manager.busy then commandLost s1 else refuseAccess s1

/-- FLT_RESET (R381): a wrong code or an undefined op gives result 3 and is logged. -/
def writeFltReset (s : State) (v : Nat) : State :=
  if bitsOf v 0 16 = 0xB16A ∧ bitsOf v 16 4 = 1 then commandCompute s
  else if bitsOf v 0 16 = 0xB16A ∧ bitsOf v 16 4 = 2 then commandedReset s
  else refuseAccess { s with faults := { s.faults with resetResult := 3 } }

/-- RMA_QP_CMD (Table 11.4); an op of 3 does nothing. -/
def writeQpCmd (s : State) (p v : Nat) : State :=
  match bitsOf v 26 2 with
  | 0 => createQp s p (v % 2 ^ 24)
  | 1 => reinitQp s p (v % 2 ^ 24)
  | 2 => destroyQp s p (v % 2 ^ 24)
  | _ => s

/-- RMA_SP_CTRL (Table 11.1): its fields, then the action that the slot's state admits. -/
def writeSpAction (s : State) (p k v : Nat) : State :=
  match (slotState s p k).mode with
  | .free => enableSpace s p k v
  | .live => if v.testBit 17 then revokeSpace (writeSpCtrl s p k v) p k else writeSpCtrl s p k v
  | .revoked => if v.testBit 18 then releaseSpace (writeSpCtrl s p k v) p k else writeSpCtrl s p k v
  | .revoking => writeSpCtrl s p k v

/-- SHW_PORT_CTRL (R414): at most one of the two bits acts. -/
def writePortCtrl (s : State) (i v : Nat) : State :=
  let s1 := if v.testBit 0 then enablePort s i else s
  match (portOf s i).mode with
  | .up => if v.testBit 1 then commandRetrain s i else s
  | .degraded => if v.testBit 1 then commandRetrain s i else s
  | .upHalf => if v.testBit 1 then commandRetrain s i else s
  | _ => s1

/-- A write of BST_CTRL: at_boot, and the write starts a test (Table 17.3). -/
def writeBst (s : State) (w : Written) : State := startTest (writeFields s .bstCtrl w) (bitsOf w.v 16 4) (bitsOf w.v 0 8)

/-- The image set, nonce or message that a go bit of the COL_ block reads is what companion memory holds: a free value. -/
def writeColGo (s : State) (r : Reg) (w : Written) : State :=
  if w.v.testBit 0 = false then s
  else
    match r with
    | .colBootCtrl =>
      let f := freeNat s 1
      let s1 := spendFree s
      spendFree (bootGo s1 (freeBytes s1 (32 * 2 ^ 20)) (f % 2 == 0) (f / 2 % 2 == 0))
    | .colUpdCtrl => spendFree (submitUpdate s (freeBytes s 3924))
    | .colAtt => spendFree (requestAttest s (freeBytes s 32))
    | _ => s

/-- Registers that a write of their low half acts on. -/
def writeAction (s : State) (r : Reg) (v : Nat) : Option State :=
  match r with
  | .glbLock => some (writeGlbLock s v)
  | .ftCtrl => some (writeSource s v)
  | .ftSnapCtrl => some (if v % 2 = 1 then spendFree (snapTime s (freeNat s 1)) else s)
  | .colLcCmd => some (writeLifeCycle s v)
  | .pwrOp => some (writeOpPoint s v)
  | .ptnCmd => some (writePtnCmd s v)
  | .fltReset => some (writeFltReset s v)
  | .sqCtrl p q => some (writeRingCtrl s p false q v)
  | .cqCtrl p q => some (writeRingCtrl s p true q v)
  | .ringLock p => some (writeRingLock s p v)
  | .rmaQpCmd p => some (writeQpCmd s p v)
  | .rmaPdCtrl p q => some (bindPd s p q v)
  | .spCtrl p k => some (writeSpAction s p k v)
  | .shwDim => some (writeDim s v)
  | .shwRtSwap => some (if v % 2 = 1 then swapTables s else s)
  | .shwPortCtrl i => some (writePortCtrl s i v)
  | _ => none

/-- What follows the fields of a register. A queue whose limits a write changed grows as far as they now let it (R270). -/
def afterFields (s : State) (r : Reg) (w : Written) : State :=
  match r with
  | .ptnMeterCtrl => drainMeter s 65
  | .ptnMeterRd => drainMeter s 65
  | .dbgTraceCtrl => if regField s .dbgTraceCtrl 0 0 = 1 then { s with dbg := { s.dbg with traced := true } } else s
  | .shwQcfg d q => growDie (if w.v.testBit 63 then flushQueue s (408 * d + q) else s) d
  | .ptnModes => growDie (growDie s 0) 1
  | .colAtt => writeColGo s r w
  | .colUpdCtrl => writeColGo s r w
  | .colBootCtrl => writeColGo s r w
  | _ => s

/-- A write that is served, at a register (R405). -/
def writeReg (s : State) (r : Reg) (w : Written) : State :=
  match (if w.low then writeAction s r w.v else if (writeAction s r 0).isSome then some s else none) with
  | some t => t
  | none =>
    match r with
    | .ftTodNext => writeTod s (w.over (reg s .ftTodNext))
    | .entTpCtrl => writePattern s (w.over (reg s .entTpCtrl))
    | .bstCtrl => if w.low then writeBst s w else s
    | .dbgCnt i => writeCounter s i (w.over (tabGet 0 s.dbg.counts i))
    | .drmSlot _ _ => writeSlots s r false w
    | .shwEgr _ _ => writeSlots s r true w
    | .shwRt n => writeRoutes s n w
    | _ => afterFields (writeFields s r w) r w

/-- The windows that accept 64-byte accesses; writes to them are ignored (R405). -/
def windowReg : Reg → Bool
  | .colId _ => true
  | .fltLog _ => true
  | .fltOpdump _ => true
  | _ => false

/-- An offset responds: before boot has finished only the GLB_ and COL_ blocks do (R407). -/
def responds (s : State) (offset : Nat) : Bool :=
  logRuns s || decide (offset < 0x10000) || (decide (0x20000 ≤ offset) && decide (offset < 0x30000))

/-- A register write as it arrives at the CCL port (R405, R407). -/
def registerWrite (s : State) (offset size v : Nat) : State :=
  if responds s offset = false then s
  else
    match regAt (offset / 8 * 8) with
    | none => refuseAccess s
    | some r =>
      if windowReg r && size = 64 && offset % 64 = 0 then s
      else
        match writtenOf offset size v with
        | none => refuseAccess s
        | some w => writeReg s r w

/-! The companion's windows (R30, R199) -/

/-- The partition whose window holds an address, and the offset in it (R199). While the base is 0, none is served. -/
def windowAt (s : State) (addr : Nat) : Option (Nat × Nat) :=
  let base := reg s .glbCclAper
  if base = 0 ∨ addr < base ∨ base + 16 * 2 ^ 36 ≤ addr then none
  else
    let p := (addr - base) / 2 ^ 36
    let off := (addr - base) % 2 ^ 36
    if metered (part s p).mode ∧ off < (part s p).host.length * 2 ^ 31 then some (p, off) else none

/-- The partition address of an offset in the host-visible window (Table 7.4). -/
def windowAddr (off : Nat) : Nat := 2 ^ 60 + off

/-- The companion reads a line, or writes bytes of one (R199). An access outside every window is refused and logged (R30); an
uncorrectable line is returned poisoned and faults nothing (Table 7.6); its bytes and its entry's class and code are free. -/
def windowAccess (s : State) (addr : Nat) (data : Option Bytes) (uncorrectable : Bool) : State :=
  match windowAt s addr with
  | none => logFault s { cls := 7, code := 0x68 }
  | some (p, off) =>
    match data with
    | none =>
      let a := windowAddr (off / 64 * 64)
      let s1 := countCcl (countDram s p a 64 false) p 0 64
      if uncorrectable then
        spendFree (logFault (emit s1 (.line (freeBytes s 64) true))
          { cls := leNat ((freeBytes s 65).drop 64), code := leNat ((freeBytes s 66).drop 65), unitKind := 7 })
      else emit s1 (.line (pread s p a 64) false)
    | some bs =>
      let b := bs.take (64 - off % 64)
      let s1 := countCcl (countDram s p (windowAddr off) b.length true) p 64 0
      pwrite s1 p (windowAddr off) b

/-! Rows -/

/-- GLB_LOCK_WRITE (R408). -/
def execGlbLockWrite (value : Word) (s : State) : Out := .next (writeGlbLock s value.toNat)

/-- RING_LOCK_WRITE (R208). -/
def execRingLockWrite (p : Fin 16) (value : Word) (s : State) : Out := .next (gate s (writeRingLock s p.val value.toNat))

/-- RING_ENABLE_WRITE (R209). -/
def execRingEnableWrite (p : Fin 16) (completionRing : Bool) (ring : Fin 8) (value : Word) (s : State) : Out :=
  .next (gate s (writeRingCtrl s p.val completionRing ring.val value.toNat))

/-- DBG_CNT_WRITE (R402). -/
def execDbgCntWrite (index : Fin 16) (value : Word) (s : State) : Out := .next (gate s (writeCounter s index.val value.toNat))

/-- REGISTER_WRITE (R405). -/
def execRegisterWrite (offset size : Nat) (value : Word) (s : State) : Out := .next (registerWrite s offset size value.toNat)

/-- CCL_WINDOW_ACCESS (R199). -/
def execCclWindowAccess (addr : Nat) (data : Option Bytes) (uncorrectable : Bool) (s : State) : Out :=
  .next (windowAccess s addr data uncorrectable)

end Sys2Proof.Machine
end

