-- ==== Sys2Proof/Machine/ReadReg.lean ====
section
/-! DEFINITION. What a read of a register returns (R401, R405 to R420 and the field maps), and the sideband frame (R428). No command
of the table reads a register but ENT_DATA's; these are the block's observers. -/

namespace Sys2Proof.Machine

/-- The number of a module state (Table 16.7). -/
def ModuleMode.code : ModuleMode → Nat
  | .boot => 0
  | .run => 1
  | .computeReset => 2
  | .tripped => 3
  | .moduleFault => 4
  | .transitOnly => 5

/-- The number of a port state (Table 18.5). -/
def PortMode.code : PortMode → Nat
  | .disabled => 0
  | .training => 1
  | .up => 2
  | .degraded => 3
  | .upHalf => 4
  | .retrain => 5
  | .miscabled => 6
  | .failed => 7

/-- The number of a device state (Table 18.7). -/
def DevMode.code : DevMode → Nat
  | .untrained => 0
  | .training => 1
  | .ready => 2
  | .failed => 3
  | .unusable => 4

/-- The number of a source state (Table 14.2). -/
def SourceMode.code : SourceMode → Nat
  | .off => 0
  | .warmup => 1
  | .healthy => 2
  | .failed => 3
  | .retired => 4
  | .absent => 5

/-- The number of a pool state (Table 14.4). -/
def PoolMode.code : PoolMode → Nat
  | .off => 0
  | .startup => 1
  | .delivering => 2
  | .stalled => 3
  | .test => 4

/-- The number of a space slot's state (Table 11.1). -/
def SpaceMode.code : SpaceMode → Nat
  | .free => 0
  | .live => 1
  | .revoking => 2
  | .revoked => 3

/-- Word `w` of a byte string. -/
def wordOf (b : Bytes) (w : Nat) : Nat := field b (8 * w) 8

/-- The 64 bytes of a fault-log entry (Table 16.3). -/
def entryBytes (e : FaultEntry) : Bytes :=
  natLe 4 e.seq ++ natLe 1 e.cls ++ natLe 1 e.code ++ natLe 1 e.p ++ natLe 1 e.gen ++
    (natLe 8 e.stamp.ns ++ natLe 1 e.stamp.frac ++ natLe 1 0xFF ++ natLe 1 e.quality ++ zeros 5) ++ natLe 1 e.unitKind ++ zeros 1 ++
    natLe 2 e.unitIndex ++ natLe 4 e.tag ++ natLe 1 e.opcode ++ natLe 1 e.ring ++ natLe 2 e.passes ++ natLe 4 e.count ++
    natLe 8 e.detail ++ zeros 16

/-- A word of the FLT_LOG window: entry s lies at s mod 4,096 (R374). -/
def logWord (s : State) (w : Nat) : Nat :=
  match s.faults.log.find? (fun e => e.seq % 4096 == w / 8) with
  | none => 0
  | some e => wordOf (entryBytes e) (w % 8)

/-- A word of the FLT_OPDUMP window: the header of Table 16.9, and zeros from its last rsvd field on; the spec does not lay out the
fields of the records between, whose bytes are a free value of the record. -/
def dumpWord (s : State) (w : Nat) : Nat :=
  match s.faults.opRecord with
  | none => 0
  | some r =>
    if w < 8 then
      wordOf (natLe 2 0x0902 ++ natLe 1 r.trigger ++ natLe 1 r.mode.code ++ natLe 4 r.faultRef ++ zeros 8 ++
        stampBytes s r.stamp 0xFF 0 ++ zeros 32) w
    else if 0x35BC0 ≤ 8 * w then 0
    else leNat ((List.range 8).map (fun i => Config.freeByte r.token (8 * w + i)))

/-- The millionths of a second that the firmware's loops have run, mod 2^16 (R380). -/
def beat (s : State) : Nat := s.time.osc / 1000 % 65536

/-- An engine slot as AGE_SLOT shows it (Table 15.7). -/
def ageWord (s : State) (n : Nat) : Nat :=
  let x := slotOf s n
  bit x.retired * 2 ^ 40 + x.logical.getD 0xFF * 2 ^ 32 + min x.op x.ceiling * 2 ^ 23 + x.ceiling * 2 ^ 14 + x.c0 * 2 ^ 5

/-- A Sleeve's slots as ACC_SLEEVE shows them (Table 18.8). -/
def accWord (s : State) (v : Nat) : Nat :=
  let es := List.range 9
  (sleeveOwner s v).getD 0x1F * 2 ^ 32 + (enginesOf s v).length * 2 ^ 24 + bit (sleeveOf s v).usable * 2 ^ 23 +
    bit (lapelUsable s v) * 2 ^ 22 + bitsNat (es.map (fun e => (slotOf s (9 * v + e)).retired)) * 2 ^ 13 +
    bitsNat (es.map (fun e => (slotOf s (9 * v + e)).logical.isSome)) * 2 ^ 4 +
    ((freeSpare s v).map (fun n => n - 9 * v)).getD 0xF

/-- The routing entries of register `n` in a copy (R415). -/
def routeWord (s : State) (copy n : Nat) : Nat :=
  (List.range 16).foldl (fun a e => a + routeEntry s copy (16 * n + e) % 16 * 16 ^ e) 0

/-- What a register reads as. -/
def readReg (s : State) (r : Reg) : Nat :=
  match r with
  | .glbId => 0xBA16 * 2 ^ 16 + 0xA1 * 2 ^ 8
  | .glbStat => 4 * bit s.collar.d1Usable + 2
  | .ftStat =>
    s.time.rejected * 2 ^ 32 + s.time.hops * 2 ^ 16 + s.time.port * 2 ^ 8 + s.time.source * 2 ^ 4 + s.time.mode.code
  | .ftSnap0 => s.time.snapNs
  | .ftSnap1 => s.time.snapQuality * 2 ^ 16 + 0xFF * 2 ^ 8 + s.time.snapFrac
  | .colStat => debugByte s * 2 ^ 40 + s.collar.slot * 2 ^ 32 + s.collar.bootStatus * 2 ^ 16 + s.otp.lifeCycle.code
  | .colOtp =>
    s.otp.bootCount * 2 ^ 48 + s.otp.updateCount * 2 ^ 38 + s.otp.securityVersion * 2 ^ 30 + s.otp.signerRevoked.toNat * 2 ^ 26
  | .colUpdCtrl => bit s.collar.updBusy * 2 ^ 31 + s.collar.updReason * 2 ^ 23
  | .colAtt => reg s .colAtt + bit s.collar.attGo
  | .colId w => wordOf (identityPk s) w
  | .entStat =>
    (healthySources s).length * 2 ^ 24 + s.entropy.pool.code * 2 ^ 16 + reg s .entStat +
      bit (s.entropy.pool == .delivering && decide (0 < readyWords s))
  | .entSrc v => (sourceOf s v).failures * 2 ^ 24 + (sourceOf s v).lastTest.toNat * 2 ^ 16 + (sourceOf s v).mode.code
  | .pwrOp => bit s.power.step.isSome * 2 ^ 24 + (s.power.current - 256) * 2 ^ 8 + reg s .pwrOp
  | .pwrStat =>
    s.power.sample * 2 ^ 48 + s.power.tj8 / 8 % 256 * 2 ^ 40 + (if s.power.intervals = 0 then 0 else s.power.phi - 1) * 2 ^ 36 +
      s.power.stageMem * 2 ^ 32 + s.power.stageLink * 2 ^ 28 + s.power.stageComp * 2 ^ 24
  | .pwrEnergy => s.power.energy
  | .pwrThrStat => s.power.active.toNat
  | .pwrThrTime i => tabGet 0 (accrueTimes s).power.times i
  | .ageSlot n => ageWord s n
  | .ageEol0 => s.power.eolLanes * 2 ^ 32 + s.power.eolEngines
  | .ageEol1 => min s.power.eolEngines (min s.power.eolLanes s.power.eolEm) * 2 ^ 32 + s.power.eolEm
  | .bstStat =>
    bit s.bst.busy * 2 ^ 31 + reg s .bstStat + s.bst.result * 2 ^ 24 + s.bst.kind * 2 ^ 16 + s.bst.index
  | .bstFails => s.bst.failed * 2 ^ 16 + s.bst.run
  | .dbgCnt i => tabGet 0 s.dbg.counts i
  | .dbgTraceWr => s.dbg.traceWr
  | .dbgTraceDrop => s.dbg.traceDrop
  | .ptnCmd => bit s.manager.busy * 2 ^ 31 + reg s .ptnCmd + s.manager.result * 2 ^ 24
  | .ptnStat p => (part s p).gen * 2 ^ 8 + (part s p).mode.code
  | .ptnMeterWr => s.manager.written
  | .linPocketStat v =>
    (sleeveOf s v).scrubPasses * 2 ^ 32 + min 255 (sleeveOf s v).rowsPending * 2 ^ 24 + min 255 (sleeveOf s v).rowsSpared * 2 ^ 16 +
      (sleeveOf s v).corrected
  | .linBondStat d =>
    let vs := (List.range 8).map (fun v => sleeveOf s (8 * d + v))
    min 255 (vs.map (fun x => x.bondFailed)).sum * 2 ^ 8 + min 255 (vs.map (fun x => x.bondSpares)).sum
  | .accSleeve v => accWord s v
  | .ksuSleeve v => (sleeveOf s v).ksFailures * 2 ^ 8 + (sleeveOf s v).ksRetired.toNat
  | .drmDevStat d =>
    let x := tabGet ({} : Device) s.devices d
    x.linkEcc * 2 ^ 48 + x.corrected * 2 ^ 32 + (524288 - x.filled.length) * 2 ^ 12 + x.temp % 256 * 2 ^ 4 +
      bit (decide (85 < x.temp)) * 2 ^ 3 + x.mode.code
  | .fltStat => reg s .fltStat + s.faults.mode.code
  | .fltHead => s.faults.head
  | .fltReset => bit s.faults.resetBusy * 2 ^ 31 + s.faults.resetResult * 2 ^ 28
  | .fltEsc i => s.faults.starts.getD i 0
  | .fltBeat => beat s * (2 ^ 48 + 2 ^ 32 + 2 ^ 16 + 1)
  | .fltStale => s.faults.stale
  | .fltLog w => logWord s w
  | .fltOpdump w => dumpWord s w
  | .spKey _ _ => 0
  | .rmaPdKey _ _ => 0
  | .spCtrl p k => (slotState s p k).mode.code * 2 ^ 30 + reg s (.spCtrl p k)
  | .shwRtSwap => s.shawl.active * 2 ^ 8
  | .shwPortStat i =>
    let x := portOf s i
    x.partnerId * 2 ^ 52 + min 255 x.erasures * 2 ^ 40 + x.sparesUsed * 2 ^ 38 + bit (bvBit s.otp.portFailed i) * 2 ^ 37 +
      x.partnerType * 2 ^ 35 + x.partnerPort * 2 ^ 32 + x.mode.code
  | .shwDrop j => tabGet 0 s.shawl.drops j
  | .shwRt n => routeWord s (1 - s.shawl.active) n
  | .shwRtAct n => routeWord s s.shawl.active n
  | .shwQocc d q => (queueOf s (408 * d + q)).cells
  | r => reg s r

/-! The sideband (R428) -/

/-- The sideband status frame (Table 19.5). -/
def sidebandFrame (s : State) : Bytes :=
  natLe 2 0xBA16 ++ natLe 1 0xA1 ++ natLe 1 s.faults.mode.code ++ natLe 1 s.collar.bootStatus ++ natLe 1 s.otp.lifeCycle.code ++
    natLe 1 (s.power.tj8 / 8) ++ natLe 1 (bitsNat s.power.rails) ++ natLe 8 (now s) ++ natLe 4 s.faults.head ++
    natLe 1 s.time.mode.code ++ zeros 11

/-- A frame is shifted out while PWR_GOOD is high. -/
def sendFrame (s : State) : State := if s.power.pwrGood then emit s (.sideband (sidebandFrame s)) else s

/-- SIDEBAND_FRAME (R428). -/
def execSidebandFrame (s : State) : Out := .next (sendFrame s)

end Sys2Proof.Machine
end

