-- ==== Sys2Proof/Machine/RingRows.lean ====
section
/-! DEFINITION. The commands of the rings (R210 to R213, R222 to R226). -/

namespace Sys2Proof.Machine

/-- DOORBELL_INVALIDATION: the loss of a doorbell line is stamped and the reads of R211 go out. -/
def execDoorbellInvalidation (p : Fin 16) (ring : Fin 8) (dt frac : Nat) (s : State) : Out :=
  let s1 := elapseTo s dt frac
  .next (invalidate s1 p.val ring.val (instant s1))

/-- DOORBELL_READ_RETURN (R211 to R213). -/
def execDoorbellReadReturn (p : Fin 16) (ring : Fin 8) (tail : Nat) (descs : List Bytes) (s : State) : Out :=
  .next (doorbellReturn s p ring tail descs)

/-- DESCRIPTOR_BURST_FETCH (R211, R212). -/
def execDescriptorBurstFetch (p : Fin 16) (ring : Fin 8) (descs : List Bytes) (s : State) : Out :=
  .next (burstFetch s p ring descs)

/-- DISPATCH_SLOT (R222). -/
def execDispatchSlot (p : Fin 16) (dt frac : Nat) (s : State) : Out :=
  .next (dispatchSlot (elapseTo s dt frac) p.val)

/-- DESCRIPTOR_COMPLETION (R224). -/
def execDescriptorCompletion (p : Fin 16) (s : State) : Out :=
  .next (completeNext s p.val)

/-- The moderation timer of a completion ring expires (R226, R244): an interrupt where interrupts are enabled and a record
is not covered by one. -/
def moderationExpired (s : State) (p c : Nat) : State :=
  let timer := regField s (.cqMod p c) 31 16
  match (cqOf s p c).timerFrom with
  | none => s
  | some t =>
    if timer = 0 ∨ regField s (.cqCtrl p c) 1 1 = 0 then s else cqInterrupt (reach s (t + 1000 * timer)) p c

/-- CQ_MOD_TIMER_EXPIRY (R226). -/
def execCqModTimerExpiry (p : Fin 16) (cq : Fin 8) (s : State) : Out :=
  .next (moderationExpired s p.val cq.val)

/-- A credit line is read after its invalidation and held shared again; it tells how many records software has consumed: held
records find room, and FENCEs that awaited them go on (R217, R224). -/
def creditReturn (s : State) (p c consumed : Nat) : State :=
  let n := (cqOf s p c).held.length
  let s1 := emit s (.lineRead (reg s (.cqCredit p c)))
  settleFences (drainHeld (modCq (countCcl s1 p 64 0) p c (fun q => { q with consumed := consumed })) p c n) p

/-- CREDIT_LINE_INVALIDATION (R224). -/
def execCreditLineInvalidation (p : Fin 16) (cq : Fin 8) (consumed : Nat) (s : State) : Out :=
  .next (creditReturn s p.val cq.val consumed)

/-- TILE_PASS_END (R78, R129, R145). -/
def execTilePassEnd (e : PassEnd) (s : State) : Out := .next (passEnds s e.engine.val e.corrected e.mismatch)

/-- TILE_COMMIT (R78). -/
def execTileCommit (engine : Fin 128) (s : State) : Out := .next (commitTile s engine.val)

/-- WAIT_FT_EXPIRY (R218). -/
def execWaitFtExpiry (p : Fin 16) (ring : Fin 8) (s : State) : Out := .next (expireWaits s p.val ring.val)

/-- HINT_RAMP_START (R360). -/
def execHintRampStart (p : Fin 16) (s : State) : Out := .next (hintRampStart s p.val)

/-- HINT_HOLD_END (R360). -/
def execHintHoldEnd (p : Fin 16) (s : State) : Out := .next (hintHoldEnd s p.val)

/-- RELEASE_OUTPUT_PHASE (R54). -/
def execReleaseOutputPhase (p : Fin 16) (s : State) : Out := .next (releaseOutput s p.val)

end Sys2Proof.Machine
end

