-- ==== Sys2Proof/Machine/TimeRows.lean ====
section
/-! DEFINITION. The commands of federation time (R230 to R236, R413). -/

namespace Sys2Proof.Machine

/-- TIME_EXCHANGE_TIMER (R232). -/
def execTimeExchangeTimer (port : Fin 6) (frac : Nat) (s : State) : Out := .next (timeTimer s port.val frac)

/-- TIME_RECEIVE (R232, R233). -/
def execTimeReceive (port : Fin 6) (m : TimeMsg) (s : State) : Out := .next (timeArrives s port.val m)

/-- FT_PPS_EDGE (R231). -/
def execFtPpsEdge (dt frac : Nat) (s : State) : Out := .next (ppsEdge s dt frac)

/-- FT_TOD_NEXT_WRITE (R231). -/
def execFtTodNextWrite (value : Word) (s : State) : Out := .next (gate s (writeTod s value.toNat))

/-- FT_CTRL_SRC_WRITE (R230). -/
def execFtCtrlSrcWrite (value : Word) (s : State) : Out := .next (gate s (writeSource s value.toNat))

/-- FT_SNAP_GO (R413). -/
def execFtSnapGo (frac : Nat) (s : State) : Out := .next (gate s (snapTime s frac))

/-- PPS_LOSS_TIMEOUT (R236). -/
def execPpsLossTimeout (s : State) : Out := .next (ppsLost s)

/-- SHAWL_TIME_LOSS_TIMEOUT (R236). -/
def execShawlTimeLossTimeout (s : State) : Out := .next (shawlTimeLost s)

/-- HOLDOVER_ERROR_LIMIT (R236). -/
def execHoldoverErrorLimit (s : State) : Out := .next (holdoverEnds s)

end Sys2Proof.Machine
end

