-- ==== Sys2Proof/Machine/WindowRows.lean ====
section
/-! DEFINITION. The commands of windows and submissions (R196, R240 to R242, R261). -/

namespace Sys2Proof.Machine

/-- What may go on after windows or submissions of a partition have changed: landings, descriptors that wait for numbers,
and RECOVER WINDOW_OPENs. -/
def windowsMoved (s : State) (p : Nat) : State :=
  resumeOpens (resumeAll (resumeLanding (resumeLanding s p .submit) p .recover) p) p

/-- RECOVER_OPEN_RESUME (R241). -/
def execRecoverOpenResume (p : Fin 16) (s : State) : Out := .next (resumeOpens s p.val)

/-- WINDOW_OPEN_INSTANT (R242). -/
def execWindowOpenInstant (p : Fin 16) (k : WinKind) (s : State) : Out := .next (openInstant s p.val k)

/-- WINDOW_CLOSE_INSTANT (R242). -/
def execWindowCloseInstant (p : Fin 16) (k : WinKind) (s : State) : Out := .next (reachClose s p.val k)

/-- WINDOW_CLOSED (R242). -/
def execWindowClosed (p : Fin 16) (k : WinKind) (s : State) : Out := .next (windowsMoved (reachClosed s p.val k) p.val)

/-- INGEST_SLOT_RESUME (R196). -/
def execIngestSlotResume (p : Fin 16) (s : State) : Out := .next (windowsMoved s p.val)

/-- ACCEPT_NUMBER_ASSIGN (R240). -/
def execAcceptNumberAssign (p : Fin 16) (s : State) : Out := .next (windowsMoved (assignNext s p.val) p.val)

/-- SUBMIT_RECEIVE (R261). -/
def execSubmitReceive (a : Arrival) (s : State) : Out := .next (windowsMoved (submitArrives s a) (addrPart a.pkt.dst))

/-- SUBMIT_REPLY_RECEIVE (R261). -/
def execSubmitReplyReceive (a : Arrival) (s : State) : Out := .next (submitReplyArrives s a)

/-- SUBMISSION_GAP_TIMEOUT (R242). -/
def execSubmissionGapTimeout (p : Fin 16) (s : State) : Out := .next (windowsMoved (gapSubmission s p.val) p.val)

end Sys2Proof.Machine
end

