-- ==== Sys2Proof/Machine/Dispatch.lean ====
section
/-! DEFINITION. One arm for each command: a direct call of its meaning, or a refusal by name where it has none yet. -/

namespace Sys2Proof.Machine

def exec (i : Instr) (s : State) : Host.Outcome State Fault Refusal :=
  match i with
  | .nop h => Sys2Proof.Machine.execNop h s
  | .fence h o => Sys2Proof.Machine.execFence h o s
  | .waitFt h o => Sys2Proof.Machine.execWaitFt h o s
  | .waitFtExpiry p ring => Sys2Proof.Machine.execWaitFtExpiry p ring s
  | .hint h o => Sys2Proof.Machine.execHint h o s
  | .hintRampStart p => Sys2Proof.Machine.execHintRampStart p s
  | .hintHoldEnd p => Sys2Proof.Machine.execHintHoldEnd p s
  | .copy h o => Sys2Proof.Machine.execCopy h o s
  | .fill h o => Sys2Proof.Machine.execFill h o s
  | .windowOpen h o => Sys2Proof.Machine.execWindowOpen h o s
  | .recoverOpenResume p => Sys2Proof.Machine.execRecoverOpenResume p s
  | .windowOpenInstant p k => Sys2Proof.Machine.execWindowOpenInstant p k s
  | .windowCloseInstant p k => Sys2Proof.Machine.execWindowCloseInstant p k s
  | .windowClosed p k => Sys2Proof.Machine.execWindowClosed p k s
  | .windowClose h o => Sys2Proof.Machine.execWindowClose h o s
  | .ingest h o => Sys2Proof.Machine.execIngest h o s
  | .ingestSlotResume p => Sys2Proof.Machine.execIngestSlotResume p s
  | .acceptNumberAssign p => Sys2Proof.Machine.execAcceptNumberAssign p s
  | .accumulate h o => Sys2Proof.Machine.execAccumulate h o s
  | .tilePassEnd engine => Sys2Proof.Machine.execTilePassEnd engine s
  | .tileCommit engine => Sys2Proof.Machine.execTileCommit engine s
  | .accDrain h o => Sys2Proof.Machine.execAccDrain h o s
  | .statsSumsq h o => Sys2Proof.Machine.execStatsSumsq h o s
  | .statsMoments h o => Sys2Proof.Machine.execStatsMoments h o s
  | .statsFinish h o => Sys2Proof.Machine.execStatsFinish h o s
  | .statsRsqrt h o => Sys2Proof.Machine.execStatsRsqrt h o s
  | .rank h o => Sys2Proof.Machine.execRank h o s
  | .zipSend h o => Sys2Proof.Machine.execZipSend h o s
  | .zipRecv h o => Sys2Proof.Machine.execZipRecv h o s
  | .zipTileReceive a => Sys2Proof.Machine.execZipTileReceive a s
  | .zipCreditReceive a => Sys2Proof.Machine.execZipCreditReceive a s
  | .zipReplyReceive a => Sys2Proof.Machine.execZipReplyReceive a s
  | .zipperDeadlineExpiry p => Sys2Proof.Machine.execZipperDeadlineExpiry p s
  | .maskExpand h o => Sys2Proof.Machine.execMaskExpand h o s
  | .shareRecon h o => Sys2Proof.Machine.execShareRecon h o s
  | .seedDeriveGraph h o => Sys2Proof.Machine.execSeedDeriveGraph h o s
  | .seedDeriveDerive h o => Sys2Proof.Machine.execSeedDeriveDerive h o s
  | .ntt h o => Sys2Proof.Machine.execNtt h o s
  | .intt h o => Sys2Proof.Machine.execIntt h o s
  | .pmulMul h o => Sys2Proof.Machine.execPmulMul h o s
  | .pmulMac h o => Sys2Proof.Machine.execPmulMac h o s
  | .pmulSmul h o => Sys2Proof.Machine.execPmulSmul h o s
  | .pmulFxmul h o => Sys2Proof.Machine.execPmulFxmul h o s
  | .baseconv h o => Sys2Proof.Machine.execBaseconv h o s
  | .ctAddFold h o => Sys2Proof.Machine.execCtAddFold h o s
  | .ctAddAdd h o => Sys2Proof.Machine.execCtAddAdd h o s
  | .ctAddSub h o => Sys2Proof.Machine.execCtAddSub h o s
  | .keyswitch h o => Sys2Proof.Machine.execKeyswitch h o s
  | .rotate h o => Sys2Proof.Machine.execRotate h o s
  | .rescale h o => Sys2Proof.Machine.execRescale h o s
  | .modswitch h o => Sys2Proof.Machine.execModswitch h o s
  | .partialDec h o => Sys2Proof.Machine.execPartialDec h o s
  | .kemDecapSealed h o => Sys2Proof.Machine.execKemDecapSealed h o s
  | .kemDecapBundle h o => Sys2Proof.Machine.execKemDecapBundle h o s
  | .sealedOpen h o => Sys2Proof.Machine.execSealedOpen h o s
  | .clip h o => Sys2Proof.Machine.execClip h o s
  | .dpNoise h o => Sys2Proof.Machine.execDpNoise h o s
  | .releaseAggregate h o => Sys2Proof.Machine.execReleaseAggregate h o s
  | .releaseShare h o => Sys2Proof.Machine.execReleaseShare h o s
  | .releaseOutputPhase p => Sys2Proof.Machine.execReleaseOutputPhase p s
  | .rmaWrite h o => Sys2Proof.Machine.execRmaWrite h o s
  | .rmaRead h o => Sys2Proof.Machine.execRmaRead h o s
  | .rmaAdd h o => Sys2Proof.Machine.execRmaAdd h o s
  | .attest h o => Sys2Proof.Machine.execAttest h o s
  | .keyImport h o => Sys2Proof.Machine.execKeyImport h o s
  | .keyDestroy h o => Sys2Proof.Machine.execKeyDestroy h o s
  | .modelUnseal h o => Sys2Proof.Machine.execModelUnseal h o s
  | .modelSeal h o => Sys2Proof.Machine.execModelSeal h o s
  | .doorbellInvalidation p ring dt frac => Sys2Proof.Machine.execDoorbellInvalidation p ring dt frac s
  | .doorbellReadReturn p ring tail descs => Sys2Proof.Machine.execDoorbellReadReturn p ring tail descs s
  | .descriptorBurstFetch p ring descs => Sys2Proof.Machine.execDescriptorBurstFetch p ring descs s
  | .dispatchSlot p dt frac => Sys2Proof.Machine.execDispatchSlot p dt frac s
  | .descriptorCompletion p => Sys2Proof.Machine.execDescriptorCompletion p s
  | .cqModTimerExpiry p cq => Sys2Proof.Machine.execCqModTimerExpiry p cq s
  | .creditLineInvalidation p cq consumed => Sys2Proof.Machine.execCreditLineInvalidation p cq consumed s
  | .submitReceive a => Sys2Proof.Machine.execSubmitReceive a s
  | .submitReplyReceive a => Sys2Proof.Machine.execSubmitReplyReceive a s
  | .submissionGapTimeout p => Sys2Proof.Machine.execSubmissionGapTimeout p s
  | .fecBlockReceive port number block lossLane frac => Sys2Proof.Machine.execFecBlockReceive port number block lossLane frac s
  | .linkAckReceive port block entries => Sys2Proof.Machine.execLinkAckReceive port block entries s
  | .linkNakReceive port block => Sys2Proof.Machine.execLinkNakReceive port block s
  | .linkRemapReceive port lane spare echo block => Sys2Proof.Machine.execLinkRemapReceive port lane spare echo block s
  | .linkAckTimerExpiry port => Sys2Proof.Machine.execLinkAckTimerExpiry port s
  | .portTrainingComplete port partnerType partnerId partnerPort => Sys2Proof.Machine.execPortTrainingComplete port partnerType partnerId partnerPort s
  | .portTrainingAttemptFail port => Sys2Proof.Machine.execPortTrainingAttemptFail port s
  | .portRetrainEnd port lanes => Sys2Proof.Machine.execPortRetrainEnd port lanes s
  | .cableChange port connected => Sys2Proof.Machine.execCableChange port connected s
  | .egressSlot port => Sys2Proof.Machine.execEgressSlot port s
  | .timeExchangeTimer port frac => Sys2Proof.Machine.execTimeExchangeTimer port frac s
  | .timeReceive port m => Sys2Proof.Machine.execTimeReceive port m s
  | .ftPpsEdge dt frac => Sys2Proof.Machine.execFtPpsEdge dt frac s
  | .ftTodNextWrite value => Sys2Proof.Machine.execFtTodNextWrite value s
  | .ftCtrlSrcWrite value => Sys2Proof.Machine.execFtCtrlSrcWrite value s
  | .ftSnapGo frac => Sys2Proof.Machine.execFtSnapGo frac s
  | .ppsLossTimeout => Sys2Proof.Machine.execPpsLossTimeout s
  | .shawlTimeLossTimeout => Sys2Proof.Machine.execShawlTimeLossTimeout s
  | .holdoverErrorLimit => Sys2Proof.Machine.execHoldoverErrorLimit s
  | .jobTearReceive a => Sys2Proof.Machine.execJobTearReceive a s
  | .tearEntryExpiry keyId src tearId => Sys2Proof.Machine.execTearEntryExpiry keyId src tearId s
  | .rmaWritePacket a => Sys2Proof.Machine.execRmaWritePacket a s
  | .rmaReadReqPacket a => Sys2Proof.Machine.execRmaReadReqPacket a s
  | .rmaReadRespPacket a => Sys2Proof.Machine.execRmaReadRespPacket a s
  | .rmaAddPacket a => Sys2Proof.Machine.execRmaAddPacket a s
  | .rmaReplyPacket a => Sys2Proof.Machine.execRmaReplyPacket a s
  | .contextFetchComplete p qpn record => Sys2Proof.Machine.execContextFetchComplete p qpn record s
  | .contextFetchTimeout p qpn => Sys2Proof.Machine.execContextFetchTimeout p qpn s
  | .rmaResponseTimeout p qpn => Sys2Proof.Machine.execRmaResponseTimeout p qpn s
  | .rmaTargetGapTimeout p qpn => Sys2Proof.Machine.execRmaTargetGapTimeout p qpn s
  | .qpCreate p qpn => Sys2Proof.Machine.execQpCreate p qpn s
  | .qpReinitialise p qpn => Sys2Proof.Machine.execQpReinitialise p qpn s
  | .qpDestroy p qpn => Sys2Proof.Machine.execQpDestroy p qpn s
  | .pdBind p pd value => Sys2Proof.Machine.execPdBind p pd value s
  | .spaceEnable p k value => Sys2Proof.Machine.execSpaceEnable p k value s
  | .spaceRevoke p k => Sys2Proof.Machine.execSpaceRevoke p k s
  | .spaceRevokeDone p k => Sys2Proof.Machine.execSpaceRevokeDone p k s
  | .spaceRelease p k => Sys2Proof.Machine.execSpaceRelease p k s
  | .ptnCreate p policy => Sys2Proof.Machine.execPtnCreate p policy s
  | .ptnScrub p => Sys2Proof.Machine.execPtnScrub p s
  | .ptnDestroy p => Sys2Proof.Machine.execPtnDestroy p s
  | .ptnReset p => Sys2Proof.Machine.execPtnReset p s
  | .ptnResetComplete p => Sys2Proof.Machine.execPtnResetComplete p s
  | .partitionFault site => Sys2Proof.Machine.execPartitionFault site s
  | .engineSlotFailure sleeve slot => Sys2Proof.Machine.execEngineSlotFailure sleeve slot s
  | .keystreamUnitFailure sleeve unit => Sys2Proof.Machine.execKeystreamUnitFailure sleeve unit s
  | .lapelParityError lapel => Sys2Proof.Machine.execLapelParityError lapel s
  | .liningRowThreshold sleeve row => Sys2Proof.Machine.execLiningRowThreshold sleeve row s
  | .bondLaneFailure sleeve lane => Sys2Proof.Machine.execBondLaneFailure sleeve lane s
  | .seamLaneFailure dir lane => Sys2Proof.Machine.execSeamLaneFailure dir lane s
  | .cclLaneFailure lane => Sys2Proof.Machine.execCclLaneFailure lane s
  | .cclRetrain success => Sys2Proof.Machine.execCclRetrain success s
  | .deviceFailed d => Sys2Proof.Machine.execDeviceFailed d s
  | .patrolScrub t r => Sys2Proof.Machine.execPatrolScrub t r s
  | .clearFill d block => Sys2Proof.Machine.execClearFill d block s
  | .computeReset => Sys2Proof.Machine.execComputeReset s
  | .computeResetComplete failedSlots imagesMatch => Sys2Proof.Machine.execComputeResetComplete failedSlots imagesMatch s
  | .moduleFaultEntry code => Sys2Proof.Machine.execModuleFaultEntry code s
  | .moduleResetCommand => Sys2Proof.Machine.execModuleResetCommand s
  | .thermalTrip => Sys2Proof.Machine.execThermalTrip s
  | .tripCooldown => Sys2Proof.Machine.execTripCooldown s
  | .powerUp => Sys2Proof.Machine.execPowerUp s
  | .resetNPulse lowNs => Sys2Proof.Machine.execResetNPulse lowNs s
  | .moduleReset => Sys2Proof.Machine.execModuleReset s
  | .powerDown => Sys2Proof.Machine.execPowerDown s
  | .railFault rail => Sys2Proof.Machine.execRailFault rail s
  | .collarSlotStart slot signatureOk => Sys2Proof.Machine.execCollarSlotStart slot signatureOk s
  | .collarSlotEnd => Sys2Proof.Machine.execCollarSlotEnd s
  | .colBootGo image signatureOk followerOk => Sys2Proof.Machine.execColBootGo image signatureOk followerOk s
  | .colUpdGo message => Sys2Proof.Machine.execColUpdGo message s
  | .colAttGo nonce => Sys2Proof.Machine.execColAttGo nonce s
  | .lcArm op => Sys2Proof.Machine.execLcArm op s
  | .lcArmTimeout => Sys2Proof.Machine.execLcArmTimeout s
  | .lcProvision checkOk => Sys2Proof.Machine.execLcProvision checkOk s
  | .lcRetire => Sys2Proof.Machine.execLcRetire s
  | .keyExpiry p kind linkKeyId => Sys2Proof.Machine.execKeyExpiry p kind linkKeyId s
  | .meterMinuteEnd => Sys2Proof.Machine.execMeterMinuteEnd s
  | .meterMsSample => Sys2Proof.Machine.execMeterMsSample s
  | .entropyBlock source raw => Sys2Proof.Machine.execEntropyBlock source raw s
  | .healthTestFail source test => Sys2Proof.Machine.execHealthTestFail source test s
  | .sourceRetryTimer source => Sys2Proof.Machine.execSourceRetryTimer source s
  | .sourceWarmupDone source => Sys2Proof.Machine.execSourceWarmupDone source s
  | .poolBlock => Sys2Proof.Machine.execPoolBlock s
  | .drbgReseed => Sys2Proof.Machine.execDrbgReseed s
  | .entropyStallTimeout p => Sys2Proof.Machine.execEntropyStallTimeout p s
  | .entDataRead => Sys2Proof.Machine.execEntDataRead s
  | .entTpEnable value => Sys2Proof.Machine.execEntTpEnable value s
  | .powerInterval rails => Sys2Proof.Machine.execPowerInterval rails s
  | .thermalSensorRead readings => Sys2Proof.Machine.execThermalSensorRead readings s
  | .pwrOpWrite value => Sys2Proof.Machine.execPwrOpWrite value s
  | .freqStepCommit => Sys2Proof.Machine.execFreqStepCommit s
  | .railSettled => Sys2Proof.Machine.execRailSettled s
  | .slotFreqSwitch slot => Sys2Proof.Machine.execSlotFreqSwitch slot s
  | .droopDetect detector => Sys2Proof.Machine.execDroopDetect detector s
  | .droopClear => Sys2Proof.Machine.execDroopClear s
  | .ageingRead slot reading => Sys2Proof.Machine.execAgeingRead slot reading s
  | .eolPrediction engines lanes em => Sys2Proof.Machine.execEolPrediction engines lanes em s
  | .bstStart kind index bootTime => Sys2Proof.Machine.execBstStart kind index bootTime s
  | .bstComplete failedUnits => Sys2Proof.Machine.execBstComplete failedUnits s
  | .glbLockWrite value => Sys2Proof.Machine.execGlbLockWrite value s
  | .ringLockWrite p value => Sys2Proof.Machine.execRingLockWrite p value s
  | .ringEnableWrite p completionRing ring value => Sys2Proof.Machine.execRingEnableWrite p completionRing ring value s
  | .shwPortEnable port => Sys2Proof.Machine.execShwPortEnable port s
  | .shwPortRetrain port => Sys2Proof.Machine.execShwPortRetrain port s
  | .shwRtSwap => Sys2Proof.Machine.execShwRtSwap s
  | .shwDimWrite value => Sys2Proof.Machine.execShwDimWrite value s
  | .shwQueueFlush die queue => Sys2Proof.Machine.execShwQueueFlush die queue s
  | .dbgCntWrite index value => Sys2Proof.Machine.execDbgCntWrite index value s
  | .sidebandFrame => Sys2Proof.Machine.execSidebandFrame s
  | .registerWrite offset size value => Sys2Proof.Machine.execRegisterWrite offset size value s
  | .cclWindowAccess addr data uncorrectable => Sys2Proof.Machine.execCclWindowAccess addr data uncorrectable s
  | .blockLockLost port => Sys2Proof.Machine.execBlockLockLost port s

end Sys2Proof.Machine
end

