-- ==== Sys2Proof/Safety.lean ====
section
/-! DEFINITION. The terms in which statements speak of runs: the canonical form of memory, descriptors in dispatch order, OTP that
only moves forward, the bound of the fault log, and a command that completes. -/

namespace Sys2Proof.Machine

/-- Both memories are in their canonical form: addresses rise and no cell holds what an unlisted address reads as. -/
def MemoryCanonical (s : State) : Prop := s.lining.wf = true ∧ s.dram.wf = true

/-- The descriptors in flight stand in dispatch order under numbers of their own, all given out already (R222, R223). -/
def FlightsOrdered (s : State) : Prop :=
  (s.inflight.map (fun f => f.id)).Pairwise (fun a b => a < b) ∧ ∀ f ∈ s.inflight, f.id < s.nextId

/-- The fault log holds at most 4,096 entries (R374). -/
def LogBounded (s : State) : Prop := s.faults.log.length ≤ 4096

/-- The OTP of `t` follows that of `s` (R317, R319): no life-cycle state, counter or fuse has gone back. -/
def OtpFollows (s t : State) : Prop :=
  s.otp.lifeCycle.code ≤ t.otp.lifeCycle.code ∧ s.otp.securityVersion ≤ t.otp.securityVersion ∧
    s.otp.bootCount ≤ t.otp.bootCount ∧ s.otp.updateCount ≤ t.otp.updateCount ∧
    (s.otp.testPattern = true → t.otp.testPattern = true) ∧ (s.otp.testAccess = true → t.otp.testAccess = true) ∧
    s.otp.signerRevoked &&& t.otp.signerRevoked = s.otp.signerRevoked ∧
    s.otp.portFailed &&& t.otp.portFailed = s.otp.portFailed

/-- The counter's parts below a nanosecond, its slewing debt and its learned frequency are within their bounds: 1/256 ns below one
nanosecond, less than one unit owed, at most 50 ppm (R228, R235, R236; log entry 115). -/
def ClockBounded (c : FedTime) : Prop := c.sub < 256 ∧ c.slewDebt < 10000 ∧ c.learned.natAbs ≤ 128

/-- The states that runs reach. -/
def Inv (s : State) : Prop := MemoryCanonical s ∧ FlightsOrdered s ∧ LogBounded s ∧ ClockBounded s.time

/-- Federation time has come to an instant within the counter's 64 bits, and to no later one where the counter neither slews nor runs
free (R228, R235, R236). -/
def Reached (s t : State) (d : Nat) : Prop :=
  d + 1 < 2 ^ 64 → ClockBounded s.time → d ≤ now t ∧
    (s.time.slew = 0 → s.time.mode ≠ .holdover → s.time.mode ≠ .freerun → now t = max (now s) d)

/-- A command leaves this state. -/
def Answers (c : Instr) (s t : State) : Prop := exec c s = .next t

/-! Descriptors -/

/-- What a descriptor reserves (R76, R155). -/
def reserves (s : State) (h : DescHdr) (b : DescBody) : List (Nat × Nat) := reserveOf s h b (claimsOf s h b)

/-- A descriptor passes the tests of R215 up to its reservation, nothing holds its ring back and it is not chained to another one (R76,
R222, R223). -/
def Dispatches (s : State) (h : DescHdr) (b : DescBody) : Prop :=
  dispatchOpen s h.p.val = true ∧ heldBack s h b = false ∧ decideDesc s h b = .runs (reserves s h b) false

/-- The state with the descriptor in flight, its units reserved and its dispatch counted (R76, R402): where its work begins. -/
def takenUp (s : State) (h : DescHdr) (b : DescBody) : State :=
  enter (countEvent s 1 (servedBy s h.p.val) 1) h b (reserves s h b)

/-- Every byte of memory reads as before, with the marks and tile metadata it had. -/
def StoreKept (s t : State) : Prop :=
  (∀ a, memRead t.lining a = memRead s.lining a ∧ memRead t.dram a = memRead s.dram a) ∧ t.tiles = s.tiles ∧ t.areas = s.areas

/-- Nothing but the descriptors in flight, their numbers and the debug counters has changed. -/
def OnlyFlights (s t : State) : Prop :=
  t = { s with inflight := t.inflight, nextId := t.nextId, dbg := t.dbg }

/-- Nothing but the descriptors in flight, the debug counters, what engines keep in their Cuffs and which Sleeves issue work (R310) has
changed. -/
def OnlyPasses (s t : State) : Prop :=
  t = { s with inflight := t.inflight, nextId := t.nextId, dbg := t.dbg, slots := t.slots,
               power := { s.power with issued := t.power.issued } }

/-- The descriptor taken up in `s` is done in `t` with a status and result, at the instant of its dispatch, and holds no unit. -/
def Ends (s t : State) (h : DescHdr) (b : DescBody) (st : Status) (r : Nat) : Prop :=
  ∃ f, flight t s.nextId = some f ∧ f.h = h ∧ f.body = b ∧ f.jobs = [] ∧ f.reserved = [] ∧
    f.done = some { status := st, result := r, faultRef := 0, ft := now s }

/-- The descriptor taken up in `s` is in flight in `t` in a phase, with these passes to commit. -/
def Flies (s t : State) (h : DescHdr) (b : DescBody) (ph : Phase) (jobs : List TileJob) : Prop :=
  ∃ f, flight t s.nextId = some f ∧ f.h = h ∧ f.body = b ∧ f.done = none ∧ f.phase = ph ∧ f.jobs = jobs

/-! Packets and rows -/

/-- An entry of a class and code is the newest of the fault log (R374). -/
def Logged (t : State) (cls code : Nat) : Prop :=
  ∃ e l, t.faults.log = e :: l ∧ e.cls = cls ∧ e.code = code

/-- `t` is the module right after a module reset of `s` (R384, Table 16.4): what has left the module, waiting commands and OTP stand,
all that runs is gone, and it waits in BOOT for an image set, knowing the reset's cause (R421). -/
def FreshlyReset (s t : State) (cause : Nat) : Prop :=
  t.parts = [] ∧ t.inflight = [] ∧ t.regs = State.reset.regs ∧ t.lining = State.reset.lining ∧ t.tiles = State.reset.tiles ∧
    t.dram = State.reset.dram ∧ t.areas = State.reset.areas ∧ t.faults.log = [] ∧ t.faults.mode = .boot ∧
    t.faults.resetCause = cause ∧ t.collar.bootStatus = State.reset.collar.bootStatus ∧ t.time = State.reset.time ∧
    t.shawl.keys = [] ∧ t.entropy = State.reset.entropy ∧ t.otp = s.otp ∧ t.pending = s.pending

/-- Partitions other than `p` are as they were. -/
def OthersKept (s t : State) (p : Nat) : Prop := ∀ q, q ≠ p → part t q = part s q

end Sys2Proof.Machine
end

