-- ==== Sys2Proof/Certificates/Slice0/Obligations.lean ====
section
/-! DEFINITION. The statements about the block, for the provers: the block as a machine, memory, descriptors family by family, then
every other command. `Answers c s t` says that `exec c s` is the next state `t`. -/

open Sys2Proof Sys2Proof.Machine

/-! The block as a machine -/

/-- A step runs the command at the front of the queue, on the state with the queue's rest. Where the spec leaves a point open it
takes the choice of log entry 1. -/
def Obligations.StepRunsFrontCommand : Prop :=
  ∀ (c : Instr) (rest : List Instr) (s : State), s.pending = c :: rest → step s = exec c { s with pending := rest }

/-- A step takes the front command from the queue and leaves the others as they stand, whatever the command does. With no
command waiting a nanosecond of the oscillator passes, and nothing else (the model's choice, log entry 3). Where the spec leaves
a point open it takes the choice of log entry 1. -/
def Obligations.StepMovesQueueAndTime : Prop :=
  (∀ s t : State, step s = .next t → t.pending = s.pending.tail) ∧
  (∀ s : State, s.pending = [] → ∃ t, step s = .next t ∧ t.time.osc = s.time.osc + 1 ∧ t = { s with time := t.time })

/-- At reset the module state is BOOT, time is UNSET, no descriptor is in flight, memory lists nothing, every register reads its
reset value, every partition is FREE. Where the spec leaves a point open it takes the choice of log entries 2, 24, 25, 26, 27.
-/
def Obligations.ResetLeavesBoot : Prop :=
  State.reset.faults.mode = .boot ∧ State.reset.time.mode = .unset ∧ State.reset.time.ns = 0 ∧ State.reset.pending = [] ∧
    State.reset.inflight = [] ∧ State.reset.lining = [] ∧ State.reset.dram = [] ∧ State.reset.collar.bootStatus = 1 ∧
    (∀ r : Reg, reg State.reset r = r.reset) ∧ (∀ p, (part State.reset p).mode = .free) ∧
    (∀ u, (tabGet {} State.reset.tiles u).state = .free)

/-- The state after reset meets the invariant of runs. Where the spec leaves a point open it takes the choice of log entry 26.
-/
def Obligations.ResetMeetsInvariant : Prop := Inv State.reset

/-- Every step keeps memory in its canonical form, descriptors in dispatch order under fresh numbers, the fault log within its
4,096 entries and the counter's parts within their bounds. Where the spec leaves a point open it takes the choice of log entry
26. -/
def Obligations.StepKeepsInvariant : Prop :=
  ∀ s t : State, Inv s → step s = .next t → Inv t

/-- No step takes back a life-cycle state, an OTP counter or a fuse. -/
def Obligations.StepNeverTakesOtpBack : Prop :=
  ∀ s t : State, step s = .next t → OtpFollows s t

/-! Memory -/

/-- A range of partition memory that is written reads back as the bytes written, in each region, where the partition holds no
granule twice. A write leaves every range that it does not overlap as it was: of its own partition, and every range of a
partition that shares no Sleeve and no granule with it. Where the spec leaves a point open it takes the choice of log entry 26.
-/
def Obligations.MemoryRangesReadBack : Prop :=
  (∀ (s : State) (p a : Nat) (bs : Bytes), MemoryCanonical s → ((part s p).dram ++ (part s p).host).Nodup →
    addrFits (part s p) a bs.length 1 = true → pread (pwrite s p a bs) p a bs.length = bs) ∧
  (∀ (s : State) (p a : Nat) (bs : Bytes) (q b n : Nat), MemoryCanonical s → addrFits (part s p) a bs.length 1 = true →
    addrFits (part s q) b n 1 = true →
    ((p = q ∧ overlaps a bs.length b n = false ∧ ((part s p).dram ++ (part s p).host).Nodup) ∨
      ((part s p).sleeves &&& (part s q).sleeves = 0#16 ∧
        ∀ g ∈ (part s p).dram ++ (part s p).host, g ∉ (part s q).dram ++ (part s q).host)) →
    pread (pwrite s p a bs) q b n = pread s q b n)

/-! Descriptors: dispatch -/

/-- The tests of R215 decide in order: a stale generation, an unknown opcode, the partition's or module's state, the regime, the
operand ranges, the addresses. What fails first is the status; the result is 0 and memory, marks and metadata stay. A descriptor
whose units another one has reserved stays at the head of its ring, with the units it names, and nothing else happens but the
count of the wait; it runs with none of its effect. A descriptor chained to the one before it is in flight with all its pieces
to take: while the chain holds a tile of each nothing else happens; one that is a single piece does its work once no earlier
descriptor of the chain holds a tile of it. Where the spec leaves a point open it takes the choice of log entries 86, 90, 100.
-/
def Obligations.DispatchRefusesOrHolds : Prop :=
  (∀ (s : State) (h : DescHdr) (b : DescBody), FlightsOrdered s → dispatchOpen s h.p.val = true → heldBack s h b = false →
    s.faults.mode = .run → (part s h.p.val).mode = .live →
    let x := part s h.p.val
    let refused := fun (st : Status) => ∃ ref f, flight (dispatchDesc h b s) s.nextId = some f ∧ f.h = h ∧ f.body = b ∧ f.jobs = [] ∧
      f.done = some { status := st, result := 0, faultRef := ref, ft := now s } ∧ StoreKept s (dispatchDesc h b s)
    (h.gen ≠ x.gen → refused 0x7F) ∧
    (h.gen = x.gen → opcodeKnown b = false → refused 0x60) ∧
    (h.gen = x.gen → opcodeKnown b = true → regimeAdmits x.regime (opcodeOf b) = false → refused 0x60) ∧
    (h.gen = x.gen → opcodeKnown b = true → regimeAdmits x.regime (opcodeOf b) = true → rangeOk x b = false → refused 0x60) ∧
    (h.gen = x.gen → opcodeKnown b = true → regimeAdmits x.regime (opcodeOf b) = true → rangeOk x b = true →
      ((claimsOf s h b).all (claimOk x) && addressOk s h b) = false → refused 0x31)) ∧
  (∀ (s : State) (h : DescHdr) (b : DescBody) (rs : List (Nat × Nat)), dispatchOpen s h.p.val = true → heldBack s h b = false →
    decideDesc s h b = .waits rs →
    let t := dispatchDesc h b s
    (sqOf t h.p.val h.ring.val).buffer = { h := h, body := b, waited := true, names := rs } :: (sqOf s h.p.val h.ring.val).buffer ∧
      t = { s with parts := t.parts, dbg := t.dbg } ∧ OthersKept s t h.p.val) ∧
  (∀ (s : State) (h : DescHdr) (b : DescBody) (rs : List (Nat × Nat)), FlightsOrdered s → dispatchOpen s h.p.val = true →
    heldBack s h b = false → decideDesc s h b = .runs rs true → 0 < pieceCount b →
    ∃ f, flight (waitIn (takenUp s h b) s.nextId (.chained (List.range (pieceCount b)))) s.nextId = some f ∧ f.h = h ∧ f.body = b ∧
      f.done = none ∧ f.jobs = [] ∧ f.reserved = rs ∧
      let u := waitIn (takenUp s h b) s.nextId f.phase
      ((∀ i, i < pieceCount b → pieceWaits u f i = true) → dispatchDesc h b s = u ∧ OnlyFlights s u) ∧
      (pieceCount b = 1 → pieceWaits u f 0 = false → dispatchDesc h b s = startBody (takenUp s h b) s.nextId h b))

/-- With federation time UNSET, a WINDOW_OPEN, WAIT_FT or RELEASE that passes the other tests completes POLICY_DENIED with no
write; every other descriptor that would run with time runs. -/
def Obligations.UnsetTimeRefuses : Prop :=
  ∀ (s : State) (h : DescHdr) (b : DescBody) (rs : List (Nat × Nat)) (chained : Bool), FlightsOrdered s →
    dispatchOpen s h.p.val = true → heldBack s h b = false → s.time.mode = .unset →
    decideDesc { s with time := { s.time with mode := .acquiring } } h b = .runs rs chained →
    let refused := fun (c : Instr) => ∃ t, Answers c s t ∧ Ends s t h b stPolicy 0 ∧ OnlyFlights s t ∧ StoreKept s t
    (∀ o, b = .windowOpen o → refused (.windowOpen h o)) ∧
    (∀ o, b = .waitFt o → refused (.waitFt h o)) ∧
    (∀ o, b = .releaseAggregate o → refused (.releaseAggregate h o)) ∧
    (∀ o, b = .releaseShare o → refused (.releaseShare h o)) ∧
    (opcodeOf b ≠ 0x10 → opcodeOf b ≠ 0x03 → opcodeOf b ≠ 0x59 → decideDesc s h b = .runs rs chained)

/-- NOP, and the descriptors that hold their ring or the power manager: FENCE with nothing to await, a WAIT_FT whose target has
come, and HINT complete at once; the others wait. A FENCE awaits the descriptors before it in the masked rings until their
records are written. Where the spec leaves a point open it takes the choice of log entries 31, 33. -/
def Obligations.ControlDescriptorsComplete : Prop :=
  ∀ (s : State) (h : DescHdr), FlightsOrdered s →
    (Dispatches s h .nop → ∃ t, Answers (.nop h) s t ∧ Ends s t h .nop stOk 0 ∧ OnlyFlights s t ∧ StoreKept s t) ∧
    (∀ o : FenceOps, Dispatches s h (.fence o) →
      let w := ((flying s h.p.val).filter (fun f => f.h.ring == h.ring || bvBit o.ringMask f.h.ring.val)).map (fun f => f.id) ++
        unwritten s h.p.val (fun r => r == h.ring.val || (decide (r < 8) && bvBit o.ringMask r))
      ∃ t, Answers (.fence h o) s t ∧ OnlyFlights s t ∧ StoreKept s t ∧
        (w = [] → Ends s t h (.fence o) stOk 0) ∧ (w ≠ [] → Flies s t h (.fence o) (.fence w) [])) ∧
    (∀ o : WaitFtOps, Dispatches s h (.waitFt o) → ∃ t, Answers (.waitFt h o) s t ∧ OnlyFlights s t ∧ StoreKept s t ∧
      (o.target ≤ now s → Ends s t h (.waitFt o) stOk (now s - o.target)) ∧
      (now s < o.target → Flies s t h (.waitFt o) (.waitFt o.target) [])) ∧
    (∀ o : HintOps, Dispatches s h (.hint o) → ∃ t, Answers (.hint h o) s t ∧ Ends s t h (.hint o) stOk 0 ∧ StoreKept s t ∧
      OthersKept s t h.p.val ∧ t.regs = s.regs ∧
      part t h.p.val = if bvBit o.cls 0 || bvBit o.cls 1 then { part s h.p.val with hint := some (hintRamp (now s) o) }
        else part s h.p.val)

/-! Moving bytes -/

/-- COPY: to the window marked bytes are refused; else the destination holds the source's bytes and marks and the result is the
length; a key stream copied to a multiple of 64 units of the pin region is pinned without its header, where its header holds and
the table has room. FILL stores its pattern again and again; the units of the Pocket it writes become PLAIN tiles of the named
width, and pinned keys whose units it touches are gone. Where the spec leaves a point open it takes the choice of log entries
10, 87, 99. -/
def Obligations.MovesStoreBytesAndMarks : Prop :=
  (∀ (s : State) (h : DescHdr) (o : MoveOps), FlightsOrdered s → Dispatches s h (.copy o) →
    let p := h.p.val
    let marks := marksOf s p o.src o.len
    let data := pread s p o.src o.len
    let hd := keyStreamOf (data.take 64)
    let left := (part (unpin s p o.dst (copyLen s p o)) p).pins
    ((inWindow o.dst && (marks.1 || marks.2)) = true →
      ∃ t, Answers (.copy h o) s t ∧ Ends s t h (.copy o) stPolicy 0 ∧ OnlyFlights s t ∧ StoreKept s t) ∧
    ((inWindow o.dst && (marks.1 || marks.2)) = false → wantsPin s p o = false →
      ∃ t, Answers (.copy h o) s t ∧ Ends s t h (.copy o) stOk o.len ∧ t.lining = (pwrite s p o.dst data).lining ∧
        t.dram = (pwrite s p o.dst data).dram ∧ (marks.1 = true → (marksOf t p o.dst o.len).1 = true) ∧
        (marks.2 = true → (marksOf t p o.dst o.len).2 = true) ∧ (part t p).pins = left ∧ OthersKept s t p ∧ t.regs = s.regs) ∧
    ((inWindow o.dst && (marks.1 || marks.2)) = false → wantsPin s p o = true →
      (hd.len ≠ o.len - 64 ∨ hd.selfOk = false ∨ 16 ≤ left.length →
        ∃ t, Answers (.copy h o) s t ∧ Ends s t h (.copy o) stPolicy 0 ∧ OnlyFlights s t ∧ StoreKept s t) ∧
      (hd.len = o.len - 64 → hd.selfOk = true → left.length < 16 →
        ∃ t, Answers (.copy h o) s t ∧ Ends s t h (.copy o) stOk o.len ∧ t.lining = (pwrite s p o.dst (data.drop 64)).lining ∧
          t.dram = s.dram ∧ OthersKept s t p ∧ t.regs = s.regs ∧
          (part t p).pins = left ++ [{ first := o.dst % 2 ^ 60 / 8192, units := unitsOf (o.len - 64), header := data.take 64 }]))) ∧
  (∀ (s : State) (h : DescHdr) (o : MoveOps), FlightsOrdered s → Dispatches s h (.fill o) →
    let p := h.p.val
    ∃ t, Answers (.fill h o) s t ∧ Ends s t h (.fill o) stOk o.len ∧
      t.lining = (pwrite s p o.dst (fillBytes o.src o.len)).lining ∧ t.dram = (pwrite s p o.dst (fillBytes o.src o.len)).dram ∧
      (inPocket o.dst = true → ∀ i, i < unitsOf o.len → (unitMeta t p (o.dst % 2 ^ 60 / 8192 + i)).state = .plain ∧
        (unitMeta t p (o.dst % 2 ^ 60 / 8192 + i)).width = widthBits o.width) ∧
      (part t p).pins = (part (unpin s p o.dst o.len) p).pins ∧ OthersKept s t p ∧ t.regs = s.regs)

/-! Windows -/

/-- WINDOW_OPEN of kind SUBMIT that is admitted binds its round: the window opens at the later of its instant and the dispatch,
a masked round begins COLLECTING, and what the window before it still held of the Pocket is free; one that is not admitted
changes no window and no round. WINDOW_OPEN of kind RECOVER waits for its round's SUBMIT window to close and for the recovery
work of the rounds it displaces; those then become UNRECOVERABLE, and its CLOSED round moves to RECOVERING. A refused one
displaces them too (the model's reading, log entry 23). Where the spec leaves a point open it takes the choice of log entries
31, 95. -/
def Obligations.WindowsOpenForTheirRounds : Prop :=
  (∀ (s : State) (h : DescHdr) (o : WindowOpenOps), FlightsOrdered s → Dispatches s h (.windowOpen o) → o.kind = 0 →
    let p := h.p.val
    let at_ := ceilNs (instant s)
    let freed := ((((part s p).submit).map windowAreas).getD []).foldl (fun t u => freeUnits t p u.1 u.2) s
    (openAdmitted s p o at_ = false →
      ∃ t, Answers (.windowOpen h o) s t ∧ Ends s t h (.windowOpen o) stPolicy 0 ∧ OnlyFlights s t) ∧
    (openAdmitted s p o at_ = true →
      ∃ t w, Answers (.windowOpen h o) s t ∧ Ends s t h (.windowOpen o) stOk (max o.opens at_) ∧
        (part t p).submit = some w ∧ w.roundId = o.roundId ∧ w.opens = max o.opens at_ ∧ w.closes = o.closes ∧
        w.mode = (if o.opens ≤ at_ then .opened else .scheduled) ∧ w.subs = [] ∧ w.assigned = 0 ∧
        w.landingAddr = o.landingAddr ∧ w.slotCount = o.slotCount ∧ (part t p).recover = (part s p).recover ∧
        ((part s p).regime = 1 → ∃ r, roundOf (part t p) o.roundId = some r ∧ r.mode = .collecting ∧ r.survivors = []) ∧
        ((part s p).regime ≠ 1 → (part t p).rounds = (part s p).rounds) ∧ t.lining = freed.lining ∧ t.tiles = freed.tiles ∧
        t.dram = s.dram ∧ t.areas = s.areas ∧ OthersKept s t p ∧ t.regs = s.regs)) ∧
  (∀ (s : State) (h : DescHdr) (o : WindowOpenOps), FlightsOrdered s → Dispatches s h (.windowOpen o) → o.kind = 1 →
    let p := h.p.val
    let at_ := ceilNs (instant s)
    let u := displaceRounds s p o.roundId
    let waits := recoverWaits (part s p) o.roundId || (displaced (part s p) o.roundId).any (fun r => recoveryInFlight s p r.roundId)
    let gone := fun (t : State) => ∀ r ∈ displaced (part s p) o.roundId, ∃ y, roundOf (part t p) r.roundId = some y ∧
      y.mode = .unrecoverable ∧ y.graph = none ∧ y.entries = [] ∧ y.secrets = [] ∧ y.seeds = []
    (waits = true → ∃ t, Answers (.windowOpen h o) s t ∧ Flies s t h (.windowOpen o) .recoverWait [] ∧ OnlyFlights s t) ∧
    (waits = false → openAdmitted u p o at_ = true →
      ∃ t w r, Answers (.windowOpen h o) s t ∧ Ends s t h (.windowOpen o) stOk (max o.opens at_) ∧ gone t ∧
        (part t p).recover = some w ∧ w.roundId = o.roundId ∧ w.opens = max o.opens at_ ∧ w.closes = o.closes ∧
        roundOf (part t p) o.roundId = some r ∧ r.mode = .recovering ∧ (part t p).submit = (part s p).submit ∧
        t.dram = s.dram ∧ OthersKept s t p ∧ t.regs = s.regs) ∧
    (waits = false → openAdmitted u p o at_ = false →
      ∃ t, Answers (.windowOpen h o) s t ∧ Ends s t h (.windowOpen o) stPolicy 0 ∧ gone t ∧ (part t p).submit = (part s p).submit ∧
        (part t p).recover = (part s p).recover ∧ t.lining = u.lining ∧ t.dram = s.dram ∧ OthersKept s t p ∧ t.regs = s.regs))

/-- WINDOW_CLOSE: without a window of its round, or on an ABORTED one, it is refused; on a CLOSED one it writes the list or
summary at once; a window that is still open takes the effective close, and the descriptor waits for it; one that the close
leaves empty is CLOSED at once, and the descriptor completes. Where the spec leaves a point open it takes the choice of log
entry 34. -/
def Obligations.WindowCloseSetsTheClose : Prop :=
  ∀ (s : State) (h : DescHdr) (o : WindowCloseOps), FlightsOrdered s → Dispatches s h (.windowClose o) →
    let p := h.p.val
    let found := windowFor (part s p) (kindOf o.kind) o.roundId
    (found = none → ∃ t, Answers (.windowClose h o) s t ∧ Ends s t h (.windowClose o) stPolicy 0 ∧ OnlyFlights s t) ∧
    (∀ w, found = some w → w.mode = .aborted →
      ∃ t, Answers (.windowClose h o) s t ∧ Ends s t h (.windowClose o) stPolicy 0 ∧ OnlyFlights s t) ∧
    (∀ w, found = some w → w.mode = .closed → addrFits (part s p) o.listAddr (closeList (part s p) w).length 1 = true →
      ∃ t, Answers (.windowClose h o) s t ∧
        Ends s t h (.windowClose o) stOk (w.acceptedAtClose % 2 ^ 32 + w.assigned % 2 ^ 32 * 2 ^ 32) ∧
        t.lining = (pwrite s p o.listAddr (closeList (part s p) w)).lining ∧
        t.dram = (pwrite s p o.listAddr (closeList (part s p) w)).dram ∧ OthersKept s t p ∧ t.regs = s.regs) ∧
    (∀ w, found = some w → w.mode = .closed → addrFits (part s p) o.listAddr (closeList (part s p) w).length 1 = false →
      ∃ t, Answers (.windowClose h o) s t ∧ Ends s t h (.windowClose o) stAccess 0 ∧ OnlyFlights s t) ∧
    (∀ w, found = some w → w.mode ≠ .aborted → w.mode ≠ .closed →
      let eff := effectiveClose w o.closeAt (ceilNs (instant s))
      (eff ≠ w.opens ∨ w.mode = .closing) → ∃ t, Answers (.windowClose h o) s t ∧ Flies s t h (.windowClose o) .closeWait [] ∧
        windowFor (part t p) (kindOf o.kind) o.roundId = some { w with closes := eff } ∧ StoreKept s t ∧ OthersKept s t p ∧
        t.regs = s.regs) ∧
    (∀ w, found = some w → (w.mode = .scheduled ∨ w.mode = .opened) →
      effectiveClose w o.closeAt (ceilNs (instant s)) = w.opens → ∃ t v g d, Answers (.windowClose h o) s t ∧
        windowFor (part t p) (kindOf o.kind) o.roundId = some v ∧ v.mode = .closed ∧ v.closes = w.opens ∧
        flight t s.nextId = some g ∧ g.done = some d ∧ (d.status = stOk ∨ d.status = stAccess) ∧ OthersKept s t p)

/-- Federation time reaches a window's instants: SCHEDULED becomes OPEN at its opening, after the expiries of that instant, OPEN
becomes CLOSING at its close, and a CLOSING window whose submissions are all decided and landed, with every frontier past its
close (the model's reading, log entry 96), becomes CLOSED, its round with it; every WINDOW_CLOSE that waits for it completes,
and what waits in the partition's windows goes on. Until then it stays CLOSING. Federation time reaches the target of the one
WAIT_FT that holds a ring: it completes OK with the overshoot, which is 0 unless the counter slews or runs free. At a HINT's
instants filler stands at its level in units, and is gone at the end of its hold. Where the spec leaves a point open it takes
the choice of log entries 31, 33. -/
def Obligations.TimedEventsAreReached : Prop :=
  (∀ (s : State) (p : Fin 16) (k : WinKind) (w : Window), windowOf (part s p.val) k = some w →
    (w.mode = .scheduled → ∃ t, Answers (.windowOpenInstant p k) s t ∧
      windowOf (part t p.val) k = some { w with mode := .opened } ∧ StoreKept s t ∧ t.regs = s.regs ∧
      (settleTies s w.opens 4 = reach s w.opens → Reached s t w.opens) ∧
      (∀ q, q ≠ p.val → part t q = part (settleTies s w.opens 4) q)) ∧
    (w.mode = .opened → ∃ t, Answers (.windowCloseInstant p k) s t ∧
      windowOf (part t p.val) k = some { w with mode := .closing } ∧ OthersKept s t p.val ∧ StoreKept s t ∧ t.regs = s.regs ∧
      Reached s t w.closes) ∧
    (w.mode = .closing → (closingDone w && frontiersPast s p.val w.closes) = false →
      Answers (.windowClosed p k) s (windowsMoved s p.val)) ∧
    (w.mode = .closing → closingDone w = true → frontiersPast s p.val w.closes = true → FlightsOrdered s →
      ∃ u v, Answers (.windowClosed p k) s (windowsMoved u p.val) ∧ windowOf (part u p.val) k = some v ∧ v.mode = .closed ∧
        v.subs = w.subs ∧ v.acceptedAtClose = (w.subs.filter (fun b => b.provisional)).length ∧ OthersKept s u p.val ∧
        u.regs = s.regs ∧
        (∀ r0, k = .submit → (part s p.val).regime = 1 → acceptedSubs w ≠ [] → roundOf (part s p.val) w.roundId = some r0 →
          ∃ r, roundOf (part u p.val) w.roundId = some r ∧ r.mode = .closed ∧
            r.survivors = (acceptedSubs w).map (fun b => b.clientId)) ∧
        (∀ f ∈ flying s p.val, ∀ o, f.phase = .closeWait → f.body = .windowClose o → kindOf o.kind = k → o.roundId = w.roundId →
          ∃ g, flight u f.id = some g ∧ g.done.isSome = true))) ∧
  (∀ (s : State) (p : Fin 16),
    (∀ (ring : Fin 8) (f : InFlight) (target : Nat), FlightsOrdered s → f ∈ s.inflight → f.h.p = p → f.h.ring = ring →
      f.done = none → f.phase = .waitFt target →
      (∀ g ∈ s.inflight, g.h.p = p → g.h.ring = ring → g.done = none → ∀ u, g.phase = .waitFt u → g = f) →
      ∃ t g, Answers (.waitFtExpiry p ring) s t ∧ flight t f.id = some g ∧ Reached s t target ∧
        g.done = some { status := stOk, result := now t - target, faultRef := 0, ft := now t } ∧
        t = { s with inflight := t.inflight, time := t.time }) ∧
    (∀ g : HintRamp, (part s p.val).hint = some g → g.ramping = false →
      ∃ t, Answers (.hintRampStart p) s t ∧
        (part t p.val).hint = some { g with ramping := true, holding := true, filler := g.units } ∧ Reached s t g.rampAt ∧
        OthersKept s t p.val ∧ t = { s with parts := t.parts, time := t.time }) ∧
    (∀ g : HintRamp, (part s p.val).hint = some g → g.holding = true →
      ∃ t, Answers (.hintHoldEnd p) s t ∧ (part t p.val).hint = none ∧ Reached s t g.endAt ∧ OthersKept s t p.val ∧
        t = { s with parts := t.parts, time := t.time }))

/-! Submissions -/

/-- INGEST judges its listed items in the order of the list. Of one listed item: an item that fails a check up to LATE gets its
verdict's record, and the descriptor completes with the status R221 and R40 give; one that passes waits for its number, and
nothing is written. Where the spec leaves a point open it takes the choice of log entry 96. -/
def Obligations.IngestJudgesAnItem : Prop :=
  ∀ (s : State) (h : DescHdr) (o : IngestOps), FlightsOrdered s → Dispatches s h (.ingest o) →
    let p := h.p.val
    let x := part s p
    let a := (ingestList s p o).getD 0 0
    let b := listedBytes s p a
    let v := match headVerdict x b h.stamp (some o.roundId) with
      | none => if addrFits x a (statedLen b) 1 then none else some .malformed
      | some y => some y
    Answers (.ingest h o) s (settleIngest (judgeItems (waitIn (countDram (takenUp s h (.ingest o)) p o.listAddr (8 * o.count) false)
      s.nextId (.ingest (List.range o.count))) s.nextId h o 0 (ingestList s p o)) s.nextId) ∧
    (o.count = 1 → (∀ k w c, windowOf x k = some w → c ∈ w.subs → c.ingestId ≠ some s.nextId) →
      (∀ y, v = some y → ∃ t, Answers (.ingest h o) s t ∧
        Ends s t h (.ingest o) (if y = .notOpen then stNotOpen else if y = .late then stLate else stOk) (verdictWord 0 1) ∧
        t.lining = (pwrite s p o.resultAddr (resultRecord (field b 4 4) y.code 0xFFFFFFFF h.stamp.ns)).lining ∧
        t.dram = (pwrite s p o.resultAddr (resultRecord (field b 4 4) y.code 0xFFFFFFFF h.stamp.ns)).dram ∧
        (part t p).submit = x.submit ∧ (part t p).recover = x.recover ∧ OthersKept s t p ∧ t.regs = s.regs) ∧
      (v = none → ∃ t w u c, Answers (.ingest h o) s t ∧ Flies s t h (.ingest o) (.ingest [0]) [] ∧
        windowOf x (formatKind (field b 0 2)) = some w ∧ windowOf (part t p) (formatKind (field b 0 2)) = some u ∧
        u.waiting = w.waiting ++ [c] ∧ u.subs = w.subs ∧ c.clientId = field b 4 4 ∧ c.stamp = h.stamp ∧ c.rank = 8 + h.ring.val ∧
        c.number = none ∧ c.ingestId = some s.nextId ∧ StoreKept s t ∧ OthersKept s t p ∧ t.regs = s.regs))

/-- What waits in windows goes on: a RECOVER WINDOW_OPEN whose SUBMIT window has closed is decided; a listed submission whose
slot is free lands; and the least waiting key below every frontier leaves its place: it takes the next number, with the verdict
of its turn, where it passes the checks up to LATE and, from the Shawl, its slot is free; else it takes none. Where the spec
leaves a point open it takes the choice of log entries 29, 96. -/
def Obligations.WaitingSubmissionsGoOn : Prop :=
  ∀ (s : State) (p : Fin 16), FlightsOrdered s →
    (∀ f o l r, flying s p.val = l ++ f :: r → (∀ g ∈ l ++ r, g.phase ≠ .recoverWait) → f.done = none → f.phase = .recoverWait →
      f.body = .windowOpen o → o.kind = 1 →
      let u := displaceRounds s p.val o.roundId
      let waits := recoverWaits (part s p.val) o.roundId ||
        (displaced (part s p.val) o.roundId).any (fun r => recoveryInFlight s p.val r.roundId)
      (waits = true → Answers (.recoverOpenResume p) s s) ∧
      (waits = false → openAdmitted u p.val o (ceilNs (instant s)) = true →
        ∃ t g w, Answers (.recoverOpenResume p) s t ∧ flight t f.id = some g ∧
          g.done = some { status := stOk, result := max o.opens (ceilNs (instant s)), faultRef := 0, ft := now s } ∧
          (part t p.val).recover = some w ∧ w.roundId = o.roundId ∧ w.closes = o.closes ∧ t.dram = s.dram ∧ OthersKept s t p.val) ∧
      (waits = false → openAdmitted u p.val o (ceilNs (instant s)) = false →
        ∃ t g, Answers (.recoverOpenResume p) s t ∧ flight t f.id = some g ∧
          g.done = some { status := stPolicy, result := 0, faultRef := 0, ft := now s } ∧
          (part t p.val).recover = (part s p.val).recover ∧ OthersKept s t p.val)) ∧
    (∀ w b n id, (part s p.val).submit = some w → b ∈ w.subs → b.number = some n → b.ingestId = some id →
      b.verdict = some .accepted → b.landed = false → slotFree w n = true →
      let u := resumeLanding s p.val .submit
      Answers (.ingestSlotResume p) s (resumeOpens (resumeAll (resumeLanding u p.val .recover) p.val) p.val) ∧
        (∃ v c, (part u p.val).submit = some v ∧ c ∈ v.subs ∧ c.number = some n ∧ c.landed = true) ∧ OthersKept s u p.val ∧
        (∀ l r, w.subs = l ++ b :: r →
          (∀ c ∈ l ++ r, (c.landed = true ∨ c.verdict ≠ some .accepted ∨ c.ingestId = none) ∧ c.number ≠ some n) →
          u.lining = (pwrite s p.val (landingAddr w n) (pread s p.val b.srcAddr b.length)).lining ∧
          u.dram = (pwrite s p.val (landingAddr w n) (pread s p.val b.srcAddr b.length)).dram)) ∧
    (∀ k w b, windowOf (part s p.val) k = some w → b ∈ w.waiting →
      leastWaiting (((part s p.val).submit.map (fun y => y.waiting)).getD [] ++
        ((part s p.val).recover.map (fun y => y.waiting)).getD []) = some b →
      (k = .recover → ∀ y, (part s p.val).submit = some y → b ∉ y.waiting) → belowFrontiers s p.val b = true →
      let u := assignNext s p.val
      Answers (.acceptNumberAssign p) s (windowsMoved u p.val) ∧ OthersKept s u p.val ∧
        ∃ v, windowOf (part u p.val) k = some v ∧ b ∉ v.waiting ∧
          (turnVerdict s p.val b = none → (b.ingestId.isSome = true ∨ slotFree w w.assigned = true) →
            v.assigned = w.assigned + 1 ∧ ∃ c ∈ v.subs, c.number = some w.assigned ∧ c.clientId = b.clientId ∧ c.stamp = b.stamp ∧
              c.verdict = some (if b.ingestId = none ∧ b.verdict = some .malformed then .malformed
                else numberVerdict (part s p.val) w b.clientId)) ∧
          ((turnVerdict s p.val b ≠ none ∨ (b.ingestId = none ∧ slotFree w w.assigned = false)) →
            v.assigned = w.assigned ∧ v.subs = w.subs)) ∧
    (leastWaiting (((part s p.val).submit.map (fun y => y.waiting)).getD [] ++
        ((part s p.val).recover.map (fun y => y.waiting)).getD []) = none →
      Answers (.acceptNumberAssign p) s (windowsMoved s p.val))

/-- Submissions of the Shawl: the first packet of one that passes the checks up to LATE waits for its number with its stamp and
port; a reply leaves its entry module by the edge port it names; one whose packets stop for 20 us becomes MALFORMED and frees
its slot. What waits in the partition's windows then goes on. Where the spec leaves a point open it takes the choice of log
entries 61, 31. -/
def Obligations.ShawlSubmissionsAreReceived : Prop :=
  ∀ s : State,
    (∀ (a : Arrival) (u : State) (stamp : Instant) (pl : Bytes) (key : Option Nat) (w : Window),
      let k := fillEntry s a.port.val a.pkt
      let p := addrPart k.dst
      let kind := formatKind (field k.payload 0 2)
      routeOf s k.dst = some 6 → arrivalVerdict s a 4 = .here u stamp pl key → k.first = true → 64 ≤ k.payload.length →
      headerLen k.payload ≤ k.payload.length → packetOffset k = 0 → k.payload.length ≤ statedLen k.payload →
      (k.last = true → k.payload.length = statedLen k.payload) → headVerdict (part u p) k.payload stamp none = none →
      windowOf (part u p) kind = some w →
      ∃ x v c, Answers (.submitReceive a) s (windowsMoved x p) ∧ windowOf (part x p) kind = some v ∧ v.waiting = w.waiting ++ [c] ∧
        c.clientId = field k.payload 4 4 ∧ c.stamp = stamp ∧ c.rank = a.port.val ∧ c.number = none ∧ c.ingestId = none ∧
        c.bytes = k.payload ∧ c.stream = field k.body 0 3 ∧ c.entry = field k.body 3 3 ∧ OthersKept u x p) ∧
    (∀ (a : Arrival) (u : State), routeOf s (fillEntry s a.port.val a.pkt).dst = some 6 → arrivalVerdict s a 4 = .gone u →
      Answers (.submitReceive a) s (windowsMoved u (addrPart a.pkt.dst))) ∧
    (∀ (a : Arrival), packetFormOk a.pkt 5 = true → routeOf s a.pkt.dst = some 6 →
      let port := field a.pkt.body 3 1
      let k := { a.pkt with vc := 2 * (a.pkt.vc / 2) }
      replyPort s port = true →
      ∃ t, Answers (.submitReplyReceive a) s t ∧ t.parts = s.parts ∧ StoreKept s t ∧
        (a.port.val = 6 → (portOf t port).egress = (portOf s port).egress ++ [(addrPart a.pkt.src, k)]) ∧
        (a.port.val < 6 → ∃ st, (port, st, k) ∈ (queueOf t (queueKey a.port.val a.pkt.vc (addrPart a.pkt.dst))).packets)) ∧
    (∀ (p : Fin 16) (wk : WinKind) (w : Window) (b : Submission),
      oldestUnfinished (unfinished (part s p.val)) = some (wk, b) → windowOf (part s p.val) wk = some w →
      ∃ u v, Answers (.submissionGapTimeout p) s (windowsMoved u p.val) ∧ windowOf (part u p.val) wk = some v ∧
        v.assigned = w.assigned ∧ Reached s u (b.lastPacket + packetGap) ∧ OthersKept s u p.val ∧
        (∀ n, b ∈ w.subs → b.number = some n → b.verdict = some .accepted → ∃ c ∈ v.subs, c.number = some n ∧
          c.verdict = some .malformed ∧ c.slotFree = true ∧ c.complete = true) ∧
        (b ∈ w.waiting → b.number = none → { b with verdict := some .malformed, complete := true } ∈ v.waiting)) ∧
    (∀ p : Fin 16, unfinished (part s p.val) = [] → Answers (.submissionGapTimeout p) s (windowsMoved s p.val))

/-! Rings -/

/-- An invalidation of an IDLE or FETCH ring is stamped, and the reads of R211 go out, of no more descriptors than the buffer
takes; at a STOPPED or DISABLED one only time passes. A returned tail that reaches beyond the ring stops it with a log entry;
any other one forms a batch with the stamp of its invalidation, writes the head line and asks for what the buffer takes further.
A burst within the ring's oldest batch and the fetch buffer's room puts its descriptors into the buffer in ring order, each with
the slot it was read from and the stamp of the batch; the head line is written, and a further burst is asked for where there is
room. Where the spec leaves a point open it takes the choice of log entry 85. -/
def Obligations.DoorbellsAndBurstsFeedTheRings : Prop :=
  (∀ (s : State) (p : Fin 16) (r : Fin 8),
    let q := sqOf s p.val r.val
    (∀ dt frac, (q.mode = .disabled ∨ q.mode = .stopped) → Answers (.doorbellInvalidation p r dt frac) s (elapseTo s dt frac)) ∧
    (∀ dt frac, q.mode ≠ .disabled → q.mode ≠ .stopped →
      ∃ t, Answers (.doorbellInvalidation p r dt frac) s t ∧
        sqOf t p.val r.val = { q with mode := .fetch, reads := q.reads ++ [instant t] } ∧
        t.out = (readDescs (emit s (.lineRead (reg s (.sqDb p.val r.val)))) p.val r.val q.fetched (min 4 (bufferRoom q))).out ∧
        t.time = (elapseTo s dt frac).time ∧ t = { s with out := t.out, parts := t.parts, time := t.time } ∧ OthersKept s t p.val) ∧
    (∀ tail descs i rest, q.reads = i :: rest → q.mode ≠ .disabled →
      sqSize s p.val r.val < countDiff (tail % 2 ^ 32) q.fetched → logRuns s = true →
      (∀ e rest, s.faults.log = e :: rest → e.code ≠ 0x62) →
      ∃ t e l, Answers (.doorbellReadReturn p r tail descs) s t ∧ (sqOf t p.val r.val).mode = .stopped ∧
        (sqOf t p.val r.val).buffer = q.buffer ∧ t.faults.log = e :: l ∧ e.cls = 7 ∧ e.code = 0x62 ∧
        e.p = p.val ∧ OthersKept s t p.val ∧ StoreKept s t) ∧
    (∀ tail i rest, q.reads = i :: rest → q.mode ≠ .disabled →
      countDiff (tail % 2 ^ 32) q.fetched ≤ sqSize s p.val r.val → countDiff (tail % 2 ^ 32) q.lastTail ≠ 0 →
      ∃ u, Answers (.doorbellReadReturn p r tail []) s (askBurst u p.val r.val) ∧
        sqOf u p.val r.val = { q with mode := .fetch, reads := rest, lastTail := tail % 2 ^ 32,
                                      batches := q.batches ++ [{ stamp := i, tail := tail % 2 ^ 32 }] } ∧
        u.out = s.out ++ [.cclWrite (reg s (.sqHeadln p.val r.val)) (headLine u p.val r.val)] ∧ OthersKept s u p.val ∧
        StoreKept s u ∧ u.regs = s.regs)) ∧
  (∀ (s : State) (p : Fin 16) (r : Fin 8) (descs : List Bytes) (a : Batch) (rest : List Batch),
    let q := sqOf s p.val r.val
    (q.mode = .idle ∨ q.mode = .fetch) → dispatchOpen s p.val = true → q.batches = a :: rest → descs ≠ [] → q.fetched < 2 ^ 32 →
    a.tail < 2 ^ 32 → descs.length ≤ bufferRoom q → descs.length ≤ unfetched q → descs.length ≤ countDiff a.tail q.fetched →
    ∃ u, Answers (.descriptorBurstFetch p r descs) s (askBurst u p.val r.val) ∧
      (sqOf u p.val r.val).fetched = (q.fetched + descs.length) % 2 ^ 32 ∧
      (sqOf u p.val r.val).buffer = q.buffer ++ descs.mapIdx (fun i b =>
        { h := headOf p r ((q.fetched + i) % 2 ^ 32 % sqSize s p.val r.val) a.stamp b, body := bodyOf b, waited := false }) ∧
      (∃ line, u.out = s.out ++ [.cclWrite (reg s (.sqHeadln p.val r.val)) line]) ∧ OthersKept s u p.val ∧ StoreKept s u ∧
      u.regs = s.regs)

/-- A dispatch slot serves the ready ring that the rules pick, a head that waited for a reservation before the rotation; where
no head waits it is the first ready ring after the one last served; with no ready ring it stays idle and only time passes. -/
def Obligations.DispatchSlotServesInRotation : Prop :=
  ∀ (s : State) (p : Fin 16) (dt frac : Nat),
    let s1 := elapseTo s dt frac
    let s0 := (List.range 8).foldl (fun t r => markWaiting t p.val r) s1
    let served := fun (u : State) r f rest => askBurst (retryLandings p.val 256 (dispatchDesc f.h f.body
      (let v := modSq u p.val r (fun q => { q with buffer := rest })
       if f.waited then v else modPart v p.val (fun x => { x with lastRing := r })))) p.val r
    (dispatchOpen s1 p.val = false → Answers (.dispatchSlot p dt frac) s s1) ∧
    (dispatchOpen s1 p.val = true → ∀ r f rest, pickRing s0 p.val = some r → (sqOf s0 p.val r).buffer = f :: rest →
      Answers (.dispatchSlot p dt frac) s (served s0 r f rest)) ∧
    (dispatchOpen s1 p.val = true →
      (∀ r, r < 8 → ∀ g, (sqOf s1 p.val r).buffer.head? = some g → g.waited = false ∧ ∀ rs, decideDesc s1 g.h g.body ≠ .waits rs) →
      (∀ i f rest, i < 8 →
        let r := ((part s1 p.val).lastRing + 1 + i) % 8
        (sqOf s1 p.val r).buffer = f :: rest → headReady s1 p.val r = true →
        (∀ j, j < i → headReady s1 p.val (((part s1 p.val).lastRing + 1 + j) % 8) = false) →
        Answers (.dispatchSlot p dt frac) s (served s1 r f rest)) ∧
      ((∀ r, r < 8 → headReady s1 p.val r = false) → Answers (.dispatchSlot p dt frac) s s1))

/-- The first descriptor that is done and may complete does so: unless it is quiet and OK, its record goes into the next entry
of its completion ring, with the ring's phase, or waits in the pending buffer; either way it is no longer in flight, and what
waited for it goes on. Completion rings: a moderation timer that runs out interrupts once and stops; a credit line is read again
and gives room, into which held records are written. Where the spec leaves a point open it takes the choice of log entries 30,
105, 106. -/
def Obligations.CompletionsReachTheirRings : Prop :=
  (∀ (s : State) (p : Fin 16),
    (∀ (f : InFlight) (d : Done), firstDone ((flying s p.val).filter (postable s)) = some f → f.done = some d →
      let c := cqOfRing s p.val f.h.ring.val
      let n := (cqOf s p.val c).count
      ∃ u, Answers (.descriptorCompletion p) s
          (retryLandings p.val 256 (resumeOpens (resumeAll (settleFences u p.val) p.val) p.val)) ∧ flight u f.id = none ∧
        OthersKept s u p.val ∧ StoreKept s u ∧
        (quietOk f d = true → (cqOf u p.val c) = cqOf s p.val c) ∧
        (quietOk f d = false → cqRoom s p.val c = true → (cqOf s p.val c).held = [] →
          (cqOf u p.val c).count = n + 1 ∧ ∃ post,
            u.out = s.out ++ .cclWrite (reg s (.cqBase p.val c) + 32 * (n % cqSize s p.val c))
              (recordBytes s p.val n (cqSize s p.val c) (recordFor s f d)) :: post) ∧
        (quietOk f d = false → (cqRoom s p.val c = false ∨ (cqOf s p.val c).held ≠ []) → (cqOf s p.val c).held.length < 256 →
          (cqOf u p.val c).held = (cqOf s p.val c).held ++ [recordFor s f d] ∧ (cqOf u p.val c).count = n)) ∧
    (firstDone ((flying s p.val).filter (postable s)) = none → Answers (.descriptorCompletion p) s s)) ∧
  (∀ (s : State) (p : Fin 16) (c : Fin 8),
    (∀ t0, (cqOf s p.val c.val).timerFrom = some t0 → regField s (.cqMod p.val c.val) 31 16 ≠ 0 →
      regField s (.cqCtrl p.val c.val) 1 1 = 1 →
      ∃ t, Answers (.cqModTimerExpiry p c) s t ∧
        t.out = s.out ++ [.msi (reg s (.cqMsiAddr p.val c.val)) (reg s (.cqMsiData p.val c.val))] ∧
        cqOf t p.val c.val = { cqOf s p.val c.val with sinceIrq := 0, timerFrom := none } ∧ OthersKept s t p.val ∧
        Reached s t (t0 + 1000 * regField s (.cqMod p.val c.val) 31 16) ∧
        t = { s with out := t.out, parts := t.parts, time := t.time }) ∧
    (((cqOf s p.val c.val).timerFrom = none ∨ regField s (.cqMod p.val c.val) 31 16 = 0 ∨
      regField s (.cqCtrl p.val c.val) 1 1 = 0) → Answers (.cqModTimerExpiry p c) s s) ∧
    (∀ consumed, (cqOf s p.val c.val).held = [] →
      ∃ t, Answers (.creditLineInvalidation p c consumed) s t ∧
        cqOf t p.val c.val = { cqOf s p.val c.val with consumed := consumed } ∧
        t.out = s.out ++ [.lineRead (reg s (.cqCredit p.val c.val))] ∧ OthersKept s t p.val ∧ StoreKept s t ∧ t.regs = s.regs) ∧
    (∀ consumed r rest, (cqOf s p.val c.val).held = r :: rest → r.ring ≠ noticeRing → regField s (.cqCtrl p.val c.val) 0 0 = 1 →
      countDiff (cqOf s p.val c.val).count consumed < cqSize s p.val c.val →
      ∃ t post, Answers (.creditLineInvalidation p c consumed) s t ∧ (cqOf t p.val c.val).held.length ≤ rest.length ∧
        (cqOf t p.val c.val).consumed = consumed ∧ (cqOf s p.val c.val).count + 1 ≤ (cqOf t p.val c.val).count ∧
        t.out = s.out ++ .lineRead (reg s (.cqCredit p.val c.val)) ::
          .cclWrite (reg s (.cqBase p.val c.val) + 32 * ((cqOf s p.val c.val).count % cqSize s p.val c.val))
            (recordBytes s p.val (cqOf s p.val c.val).count (cqSize s p.val c.val) r) :: post ∧ OthersKept s t p.val) ∧
    (∀ consumed, (cqOf s p.val c.val).held ≠ [] → (regField s (.cqCtrl p.val c.val) 0 0 = 0 ∨
        cqSize s p.val c.val ≤ countDiff (cqOf s p.val c.val).count consumed) →
      ∃ t, Answers (.creditLineInvalidation p c consumed) s t ∧ (cqOf t p.val c.val).held = (cqOf s p.val c.val).held ∧
        (cqOf t p.val c.val).consumed = consumed ∧ t.out = s.out ++ [.lineRead (reg s (.cqCredit p.val c.val))]))

/-! Tiles: accumulation and statistics -/

/-- ACCUMULATE from a list: each tile gets one pass that stores the fold of R74 over the tile's committed value, or zero with
init, and the list's summands; the tile becomes PLAIN with the count, the mark and the saturation of its summands. ACCUMULATE
from a window: without a window that takes part it is refused; before its range is decided it waits; then, in the sealed regime
once every summand is clipped, each tile folds the accepted submissions of the range from its own seq_next on, in number order,
and becomes a marked ROUND tile up to the end of the range. Where the spec leaves a point open it takes the choice of log
entries 28, 29, 104. -/
def Obligations.AccumulateFoldsSummands : Prop :=
  (∀ (s : State) (h : DescHdr) (o : AccOps), FlightsOrdered s → Dispatches s h (.accumulate o) → o.srcKind = 1 →
    let p := h.p.val
    let s1 := takenUp s h (.accumulate o)
    let bits := widthBits o.width
    let sb := widthBits o.srcWidth
    let md := modeOf o.mode
    let init := bvBit o.flags 0
    let unit := fun i => tileIx o.dstTile + i * tileUnits bits
    let at_ := fun a i => a + (o.coordTile + i) * 512 * sb
    let addrs := listAddrs s1 p o.src o.count
    let fold := fun i => splitFold md bits o.modulus o.splitWays
      (if init then zeroTile else tileInts md bits (readTile s1 p (unit i) bits))
      (addrs.map (fun a => (elems (sb / 8) (pread s1 p (at_ a i) (512 * sb))).map (sourceElem md o.modulus sb)))
    (init = false → ∀ i, i < o.tileCount → accTileOk (unitMeta s1 p (unit i)) o none = true) →
    planOk s1 p (tileIx o.dstTile) (tileUnits bits) o.tileCount o.splitWays = true →
    (∀ i, i < o.tileCount → (unitMeta s1 p (unit i)).state ≠ .plain ∨ (unitMeta s1 p (unit i)).passTag ≠ o.first ∨
      (unitMeta s1 p (unit i)).width ≠ bits) →
    ∃ (t : State) (jobs : List TileJob), Answers (.accumulate h o) s t ∧ Flies s t h (.accumulate o) .running jobs ∧ OnlyPasses s t ∧ StoreKept s t ∧
      jobs.length = o.tileCount ∧ ∀ i j, jobs[i]? = some j → j.addr = pocketAddr (unit i) ∧ j.bytes = intBytes bits (fold i).1 ∧
        j.passDone = false ∧ ∃ m, j.tmeta = some m ∧ m.state = .plain ∧ m.width = bits ∧ m.mode = md ∧ m.passTag = o.first ∧
          m.count = (if init then 0 else (unitMeta s1 p (unit i)).count) + addrs.length ∧
          m.saturated = ((fold i).2 || (!init && (unitMeta s1 p (unit i)).saturated)) ∧
          m.mark = (addrs.any (fun a => (marksOf s1 p (at_ a i) (512 * sb)).1) || (!init && (unitMeta s1 p (unit i)).mark))) ∧
  (∀ (s : State) (h : DescHdr) (o : AccOps), FlightsOrdered s → Dispatches s h (.accumulate o) → o.srcKind = 0 →
    let p := h.p.val
    let s1 := takenUp s h (.accumulate o)
    let bits := widthBits o.width
    let md := modeOf o.mode
    let init := bvBit o.flags 0
    let unit := fun i => tileIx o.dstTile + i * tileUnits bits
    let found := (windowFor (part s p) .submit o.src).filter Window.readable
    let use := fun (w : Window) i => (acceptedRange w o.first o.count).filter (fun b =>
      decide ((if init then o.first else (unitMeta s1 p (unit i)).seqNext) ≤ b.number.getD 0))
    let fold := fun (w : Window) i => splitFold md bits o.modulus o.splitWays
      (if init then zeroTile else tileInts md bits (readTile s1 p (unit i) bits))
      ((use w i).map (fun b => (windowElems s1 p w b (o.coordTile + i)).map (sourceElem md o.modulus (widthBits o.srcWidth))))
    (found = none → ∃ t, Answers (.accumulate h o) s t ∧ Ends s t h (.accumulate o) stPolicy 0 ∧ OnlyFlights s t) ∧
    (∀ w, found = some w → (init = false → ∀ i, i < o.tileCount → accTileOk (unitMeta s1 p (unit i)) o (some w) = true) →
      planOk s1 p (tileIx o.dstTile) (tileUnits bits) o.tileCount o.splitWays = true →
      (rangeReady w o.first o.count = false → ∃ t, Answers (.accumulate h o) s t ∧
        Flies s t h (.accumulate o) .numbers [] ∧ OnlyFlights s t) ∧
      (rangeReady w o.first o.count = true →
        ((part s p).regime = 3 → ∀ b ∈ acceptedRange w o.first o.count, sealedReady (part s p) b = true) →
        ∃ (t : State) (jobs : List TileJob), Answers (.accumulate h o) s t ∧ Flies s t h (.accumulate o) .running jobs ∧ OnlyPasses s t ∧ StoreKept s t ∧
          jobs.length = o.tileCount ∧ ∀ i j, jobs[i]? = some j → j.addr = pocketAddr (unit i) ∧
            j.bytes = intBytes bits (fold w i).1 ∧ ∃ m, j.tmeta = some m ∧ m.state = .round ∧ m.roundId = o.src ∧ m.mark = true ∧
              m.seqNext = (if init then o.first + o.count else max (unitMeta s1 p (unit i)).seqNext (o.first + o.count)) ∧
              m.count = (if init then 0 else (unitMeta s1 p (unit i)).count) + (use w i).length)))

/-- ACC_DRAIN: each tile of the output gets one pass that stores the drained words of the source tile, in the Pocket or in DRAM
as the operand says, with the source's mark; with no element it is done at once. Where the spec leaves a point open it takes the
choice of log entries 11, 28, 91, 92. -/
def Obligations.DrainStoresFusedWords : Prop :=
  ∀ (s : State) (h : DescHdr) (o : DrainOps), FlightsOrdered s → Dispatches s h (.accDrain o) →
    let p := h.p.val
    let s1 := takenUp s h (.accDrain o)
    let w := rangeWidth s1 p (tileIx o.srcTile)
    let n := (o.elemCount + 4095) / 4096
    let ob := formatBytes o.outFormat (w / 8)
    let unit := fun i => tileIx o.srcTile + i * tileUnits w
    let k : Fused := { opt := o.flags.toNat, scale := o.scale.toNat, bias := o.bias.toNat, activation := o.activation,
                       theta := o.actParam.toNat, fmt := o.outFormat }
    planOk s1 p (tileIx o.srcTile) (tileUnits w) n 1 = true →
    (o.elemCount = 0 → ∃ t, Answers (.accDrain h o) s t ∧ Ends s t h (.accDrain o) stOk 0 ∧ StoreKept s t) ∧
    (0 < o.elemCount → ∃ (t : State) (jobs : List TileJob), Answers (.accDrain h o) s t ∧ Flies s t h (.accDrain o) .running jobs ∧ StoreKept s t ∧
      OnlyPasses (spendFree s) t ∧
      jobs.length = n ∧ ∀ i j, jobs[i]? = some j →
        j.addr = (if bvBit o.flags 3 then o.dst + 4096 * ob * i else pocketAddr (tileIx o.dst + drainUnits s1 p o * i)) ∧
        j.bytes = packElems ob (drainWords s1 k (if (part s p).regime = 3 then o.fracBits else 0) (unitMeta s1 p (unit i))
          ((readTile s1 p (unit i) w).take (min 4096 (o.elemCount - 4096 * i)))) ∧
        j.mark = (unitMeta s1 p (unit i)).mark ∧ j.model = (unitMeta s1 p (unit i)).model)

/-- STATS SUMSQ stores for each summand the exact sum of the squares of its elements, in 16 bytes; MOMENTS stores in tile a the
clamped sums and in tile b the clamped sums of squares, from zero with init. STATS FINISH stores the mean in tile a and the
population variance in tile b as binary64, and refuses a count of zero; RSQRT stores the fixed-point reciprocal square roots of
tile a in tile b, which in place keeps its saturated field. Where the spec leaves a point open it takes the choice of log
entries 28, 29, 93. -/
def Obligations.StatsStoreTheirResults : Prop :=
  (∀ (s : State) (h : DescHdr) (o : StatsOps), FlightsOrdered s →
    let p := h.p.val
    let win := if o.srcKind = 0 then (windowFor (part s p) .submit o.src).filter Window.readable else none
    let subs := (win.map (fun w => acceptedRange w o.first o.count)).getD []
    let n := if o.srcKind = 0 then subs.length else o.count
    (o.srcKind = 0 → ∃ w, win = some w ∧ rangeReady w o.first o.count = true ∧ ∀ b ∈ subs, sealedReady (part s p) b = true) →
    (Dispatches s h (.statsSumsq o) →
      let s1 := takenUp s h (.statsSumsq o)
      let parts := fun i => (List.range o.tileCount).map (statsSummand s1 p o win i)
      0 < n → inWindow o.resultAddr = false →
      ∃ (t : State) (jobs : List TileJob), Answers (.statsSumsq h o) s t ∧ Flies s t h (.statsSumsq o) .running jobs ∧ OnlyPasses s t ∧ StoreKept s t ∧
        jobs.length = n ∧ ∀ i j, jobs[i]? = some j → j.addr = o.resultAddr + 16 * i ∧
          j.bytes = natLe 16 (((parts i).map (fun (y : List Int × (Bool × Bool)) => (y.1.map (fun v => v * v)).sum)).sum).toNat ∧
          j.mark = (parts i).any (fun (y : List Int × (Bool × Bool)) => y.2.1)) ∧
    (Dispatches s h (.statsMoments o) → bvBit o.flags 0 = true →
      let s1 := takenUp s h (.statsMoments o)
      let vals := fun c => (List.range n).map (fun i => (statsSummand s1 p o win i c).1)
      planOk s1 p (tileIx o.tileA) 4 o.tileCount 1 = true →
      (o.srcKind = 1 → ∀ c a, c < o.tileCount → (a = o.tileA ∨ a = o.tileB) → (unitMeta s1 p (tileIx a + c * 4)).state ≠ .plain ∨
        (unitMeta s1 p (tileIx a + c * 4)).passTag ≠ o.first ∨ (unitMeta s1 p (tileIx a + c * 4)).width ≠ 64) →
      ∃ (t : State) (jobs : List TileJob), Answers (.statsMoments h o) s t ∧ Flies s t h (.statsMoments o) .running jobs ∧ OnlyPasses s t ∧ StoreKept s t ∧
        jobs.length = 2 * o.tileCount ∧ ∀ c ja jb, jobs[2 * c]? = some ja → jobs[2 * c + 1]? = some jb →
          ja.addr = pocketAddr (tileIx o.tileA + c * 4) ∧ ja.bytes = intBytes 64 (foldTiles .sats 64 0 zeroTile (vals c)).1 ∧
          jb.addr = pocketAddr (tileIx o.tileB + 4 * c) ∧
          jb.bytes = intBytes 64 ((vals c).foldl (fun acc v => List.zipWith (fun a b => (addSquare a b).1) acc v) zeroTile))) ∧
  (∀ (s : State) (h : DescHdr) (o : StatsOps), FlightsOrdered s →
    let p := h.p.val
    (Dispatches s h (.statsFinish o) →
      let s1 := takenUp s h (.statsFinish o)
      let ma := fun i => unitMeta s1 p (tileIx o.tileA + i * 4)
      let mb := fun i => unitMeta s1 p (tileIx o.tileB + i * 4)
      let xs := fun i => List.zipWith (finishElem (ma i).count (mb i).saturated)
        (tileInts .sats 64 (readTile s1 p (tileIx o.tileA + i * 4) 64)) (tileInts .sats 64 (readTile s1 p (tileIx o.tileB + i * 4) 64))
      planOk s1 p (tileIx o.tileA) 4 o.tileCount 1 = true →
      ((∀ i, i < o.tileCount → (ma i).width = 64 ∧ (ma i).mode = .sats ∧ (ma i).count ≠ 0 ∧ (mb i).width = 64 ∧
          (mb i).mode = .sats ∧ (mb i).count ≠ 0) →
        ∃ (t : State) (jobs : List TileJob), Answers (.statsFinish h o) s t ∧ Flies s t h (.statsFinish o) .running jobs ∧ OnlyPasses s t ∧ StoreKept s t ∧
          jobs.length = 2 * o.tileCount ∧ ∀ i ja jb, jobs[2 * i]? = some ja → jobs[2 * i + 1]? = some jb →
            ja.addr = pocketAddr (tileIx o.tileA + i * 4) ∧ ja.bytes = packElems 8 ((xs i).map (fun e => e.1)) ∧
            jb.addr = pocketAddr (tileIx o.tileB + 4 * i) ∧ jb.bytes = packElems 8 ((xs i).map (fun e => e.2))) ∧
      ((∃ i, i < o.tileCount ∧ (ma i).count = 0) →
        ∃ t, Answers (.statsFinish h o) s t ∧ Ends s t h (.statsFinish o) stPolicy 0 ∧ OnlyFlights s t)) ∧
    (Dispatches s h (.statsRsqrt o) →
      let s1 := takenUp s h (.statsRsqrt o)
      let rs := fun i => (readTile s1 p (tileIx o.tileA + i * 2) 32).map (rsqrtElem o.fracBits (ofF32 o.eps.toNat))
      planOk s1 p (tileIx o.tileA) 2 o.tileCount 1 = true →
      ∃ (t : State) (jobs : List TileJob), Answers (.statsRsqrt h o) s t ∧ Flies s t h (.statsRsqrt o) .running jobs ∧ OnlyPasses s t ∧ StoreKept s t ∧
        jobs.length = o.tileCount ∧ ∀ i j, jobs[i]? = some j → j.addr = pocketAddr (tileIx o.tileB + 2 * i) ∧
          j.bytes = packElems 4 ((rs i).map (fun e => e.1)) ∧ (j.tmeta.map (fun m => m.saturated)) = some ((rs i).any (fun e => e.2) ||
            (tileIx o.tileA == tileIx o.tileB && (unitMeta s1 p (tileIx o.tileA + i * 2)).saturated))))

/-- RANK stores its k entries of greatest key, 16 bytes each, in one pass of the named Lapel unit and reports their number; a
lost unit completes RANK_UNAVAILABLE with nothing stored. Where the spec leaves a point open it takes the choice of log entries
28, 86. -/
def Obligations.RankStoresTheGreatest : Prop :=
  ∀ (s : State) (h : DescHdr) (o : RankOps), FlightsOrdered s → Dispatches s h (.rank o) →
    let p := h.p.val
    let s1 := takenUp s h (.rank o)
    let w := rangeWidth s1 p (tileIx o.srcTile)
    let vals := (((List.range o.tileCount).map (fun i => tileIx o.srcTile + i * tileUnits w)).flatMap (fun u =>
      signedElems (unitMeta s1 p u) (readTile s1 p u w))).take o.elemCount
    let entries := rankList (bvBit o.flags 0) o.k vals
    let marks := marksOf s1 p (pocketAddr (tileIx o.srcTile)) (o.tileCount * 512 * w)
    (lapelUsable s1 o.lapelSleeve = false →
      ∃ t, Answers (.rank h o) s t ∧ Ends s t h (.rank o) stRank 0 ∧ OnlyFlights s t ∧ StoreKept s t) ∧
    (lapelUsable s1 o.lapelSleeve = true → (inWindow o.dstAddr && (marks.1 || marks.2)) = false →
      ∃ (t : State) (j : TileJob) (f : InFlight), Answers (.rank h o) s t ∧ Flies s t h (.rank o) .running [j] ∧ OnlyPasses s t ∧ StoreKept s t ∧
        j.addr = o.dstAddr ∧ j.mark = marks.1 ∧
        j.bytes = entries.flatMap (fun e => natLe 4 e.1 ++ zeros 4 ++ natLe 8 (toWord 64 e.2)) ∧
        flight t s.nextId = some f ∧ f.result = entries.length)

/-- The pass an engine runs as the first of its group ends: it waits for its commit, its engine time is charged and the next
passes begin; where its check residue differs it runs again on the same slot, and a second time the slot fails. The oldest
finished pass of an engine commits: its bytes are stored whole, and no other byte of memory changes; then what waited goes on.
Where the spec leaves a point open it takes the choice of log entries 88, 104, 107. -/
def Obligations.PassesEndAndCommit : Prop :=
  ∀ (s : State) (e : PassEnd) (f : InFlight) (j : TileJob),
    let l := e.engine.val
    let p := f.h.p.val
    (runningPass s l = some (f, j) → FlightsOrdered s →
      ((e.mismatch = false ∨ checksResidue f.opcode = false) →
        ∃ (t : State) (g : InFlight) (i : Nat), Answers (.tilePassEnd e) s t ∧ flight t f.id = some g ∧ f.jobs[i]? = some j ∧
          g.jobs[i]? = some { j with passDone := true } ∧ g.jobs.length = f.jobs.length ∧ g.replays = f.replays + bit j.mismatched ∧
          StoreKept s t ∧ (part t p).usage.engineNs =
            (if j.replays = 0 then j.engines.foldl (fun n _ => satAdd n (now s - j.startFt)) (part s p).usage.engineNs
             else (part s p).usage.engineNs) ∧
          (e.corrected = 0 → t.regs = s.regs ∧ t.faults = s.faults ∧ OthersKept s t p)) ∧
      (e.mismatch = true → checksResidue f.opcode = true → j.mismatched = false →
        ∃ (t : State) (g : InFlight) (i : Nat), Answers (.tilePassEnd e) s t ∧ flight t f.id = some g ∧ f.jobs[i]? = some j ∧
          g.jobs[i]? = some { j with mismatched := true, replays := j.replays + 1, startFt := now s } ∧
          g.jobs.length = f.jobs.length ∧ g.skipped = f.skipped + 1 ∧ StoreKept s t) ∧
      (e.mismatch = true → checksResidue f.opcode = true → j.mismatched = true →
        Answers (.tilePassEnd e) s (failSlot (correctCuff s l e.corrected) ((slotOfEngine s l).getD 0)))) ∧
    (runningPass s l = none → Answers (.tilePassEnd e) s s) ∧
    (firstPass s l (fun y => y.passDone) = some (f, j) → j.engine = l → FlightsOrdered s → f.phase = .running →
      subPasses f.opcode = false → j.coord = none → j.maskNext = none → (∀ o, f.body ≠ .zipRecv o) →
      ∃ (u : State) (g : InFlight), Answers (.tileCommit e.engine) s (retryLandings p 256 (resumeAll (resumeLanding u p .submit) p)) ∧
        u.lining = (writeJob s p j).lining ∧ u.dram = (writeJob s p j).dram ∧ u.tiles = (writeJob s p j).tiles ∧
        flight u f.id = some g ∧ g.committed = f.committed + bit j.last ∧
        (1 < f.jobs.length → g.jobs.length + 1 = f.jobs.length ∧ g.done = none) ∧
        (f.jobs = [j] → f.lost = false → f.failed = none → ∃ d, g.done = some d ∧ d.ft = now s ∧
          d.status = (if f.saturated || j.targets.any (fun y => (y.2.2.map (fun m => m.saturated)).getD false) then stSaturated
            else if f.replays ≠ 0 then stReplayed else stOk)) ∧ u.regs = s.regs) ∧
    ((∀ g i, firstPass s l (fun y => y.passDone) = some (g, i) → i.engine ≠ l) → Answers (.tileCommit e.engine) s s)

/-! Polynomials -/

/-- NTT and INTT: admitted records give each limb one pass that stores the transform of the source limb under the limb's modulus
and root, with the source's mark; a record that is not admitted is refused. Where the spec leaves a point open it takes the
choice of log entry 98. -/
def Obligations.TransformsStoreTheirLimbs : Prop :=
  ∀ (s : State) (h : DescHdr) (o : NttOps) (inverse : Bool), FlightsOrdered s →
    let c := if inverse then Instr.intt h o else .ntt h o
    let b := if inverse then DescBody.intt o else .ntt o
    let f := if inverse then nttInv else nttFwd
    Dispatches s h b →
    let p := h.p.val
    let s1 := takenUp s h b
    let recs := modRecords s1 p o.modAddr o.limbCount
    let u := nttUnits o
    let bits := laneBits o.laneMode
    let src := limbUnit o.src o.limbStride u
    (recs.all (nttRecordOk o) = false → ∃ t, Answers c s t ∧ Ends s t h b stPolicy 0 ∧ OnlyFlights s t ∧ StoreKept s t) ∧
    (recs.all (nttRecordOk o) = true → (∀ i, i < o.limbCount → limbThere s1 p (src i) u = true) →
      ∃ (t : State) (jobs : List TileJob), Answers c s t ∧ Flies s t h b .running jobs ∧ OnlyPasses s t ∧ StoreKept s t ∧
        jobs.length = o.limbCount ∧
        ∀ i j, jobs[i]? = some j → j.addr = pocketAddr (limbUnit o.dst o.limbStride u i) ∧
          j.bytes = packElems (bits / 8) (f (recs.getD i (0, 0)).1 (recs.getD i (0, 0)).2 o.log2N
            (limbElems s1 p (src i) (2 ^ o.log2N) bits)) ∧
          j.mark = (marksOf s1 p (pocketAddr (src i)) (8192 * u)).1 ∧ j.last = true ∧
          j.hold = (if bvBit o.flags 0 then some (limbUnit o.dst o.limbStride u i, u) else none))

/-- PMUL: MUL, MAC and SMUL store the element-wise result modulo the limb's modulus, FXMUL the clamped fixed-point product with
the clamp noted on its tile; each tile of a limb is a pass of its own. Where the spec leaves a point open it takes the choice of
log entries 9, 98, 119. -/
def Obligations.ProductsStoreTheirLimbs : Prop :=
  ∀ (s : State) (h : DescHdr) (o : PmulOps) (k : PmulSub), FlightsOrdered s →
    let c := match k with
      | .mul => Instr.pmulMul h o
      | .mac => .pmulMac h o
      | .smul => .pmulSmul h o
      | .fxmul => .pmulFxmul h o
    let b := match k with
      | .mul => DescBody.pmulMul o
      | .mac => .pmulMac o
      | .smul => .pmulSmul o
      | .fxmul => .pmulFxmul o
    Dispatches s h b →
    let p := h.p.val
    let s1 := takenUp s h b
    let u := pmulUnits o
    let bits := laneBits o.laneMode
    let recs := modRecords s1 p o.modAddr o.limbCount
    let n := o.elemCount / 4096
    let tu := limbUnits 4096 bits
    let at_ := fun base i t => limbUnit base o.limbStride u i + t * tu
    let tile := fun base i t => limbElems s1 p (at_ base i t) 4096 bits
    (k ≠ .fxmul → recs.all (fun r => laneModulus o.laneMode r.1 && r.2 == 0) = true) →
    (∀ i, i < o.limbCount → limbThere s1 p (limbUnit o.dst o.limbStride u i) u = true) →
    ∃ (t : State) (jobs : List TileJob), Answers c s t ∧ Flies s t h b .running jobs ∧ OnlyPasses s t ∧ StoreKept s t ∧
      jobs.length = o.limbCount * n ∧ ∀ i y j, i < o.limbCount → y < n → jobs[i * n + y]? = some j →
        j.addr = pocketAddr (at_ o.dst i y) ∧
        (let q := modulusOf o.laneMode (recs.getD i (0, 0)).1
         (k = .mul → j.bytes = packElems (bits / 8) (List.zipWith (fun x y => x * y % q) (tile o.a i y) (tile o.b i y))) ∧
         (k = .mac → j.bytes = packElems (bits / 8) (zip3 (fun x y z => (z + x * y) % q) (tile o.a i y) (tile o.b i y) (tile o.dst i y))) ∧
         (k = .smul → j.bytes = packElems (bits / 8) ((tile o.a i y).map (fun x => x * (o.scalar % q) % q))) ∧
         (k = .fxmul →
           let rs := List.zipWith (fun x y => clampWord 32 (divEven (signed 32 x * signed 32 y) (2 ^ o.fracBits))) (tile o.a i y) (tile o.b i y)
           j.bytes = packElems 4 (rs.map (fun r => toWord 32 r.1)) ∧ ∃ m, j.tmeta = some m ∧
             (rs.any (fun r => r.2) = true → m.saturated = true)))

/-- BASECONV within one Sleeve, for admitted and different moduli: each coefficient tile is one pass, which stores the converted
coefficients in every target limb together; other records are refused. -/
def Obligations.BaseConversionStoresItsTargets : Prop :=
  ∀ (s : State) (h : DescHdr) (o : BaseOps), FlightsOrdered s → Dispatches s h (.baseconv o) →
    let p := h.p.val
    let s1 := takenUp s h (.baseconv o)
    let u := baseUnits o
    let n := 2 ^ o.log2N
    let rin := modRecords s1 p o.inMod o.inLimbs
    let rout := modRecords s1 p o.outMod o.outLimbs
    let qs := rin.map (fun r => r.1)
    let ps := rout.map (fun r => r.1)
    let ok := fun (r : Nat × Nat) => r.1 != 0 && laneModulus 0 r.1 && isPrime64 r.1 && r.2 == 0
    let v := physUnit (part s1 p) (tileIx o.src) / 24576
    let out := baseConvert n qs ps ((List.range o.inLimbs).map (fun i => limbElems s1 p (limbUnit o.src o.limbStride u i) n 64))
    (((rin ++ rout).all ok = false ∨ ¬ (qs ++ ps).Nodup) → ∃ t, Answers (.baseconv h o) s t ∧
      Ends s t h (.baseconv o) stPolicy 0 ∧ OnlyFlights s t ∧ StoreKept s t) ∧
    ((rin ++ rout).all ok = true → (qs ++ ps).Nodup → (baseClaims o).all (inSleeve (part s1 p) v) = true → enginesOf s1 v ≠ [] →
      ∃ (t : State) (jobs : List TileJob), Answers (.baseconv h o) s t ∧ Flies s t h (.baseconv o) .running jobs ∧ OnlyPasses s t ∧
        StoreKept s t ∧ jobs.length = n / 4096 ∧
        ∀ c i j, i < o.outLimbs → jobs[c]? = some j →
          ∃ m, j.targets[i]? = some (pocketAddr (limbUnit o.dst o.limbStride u i + 4 * c),
            packElems 8 (((out.getD i []).drop (4096 * c)).take 4096), some m))

/-! Ciphertexts -/

/-- CT_ADD ADD and SUB on ciphertexts of one form, level, tag and scale: both parts are combined limb by limb and the header of
the sum, with the headrooms' sum less the budget, waits for the last commit; different tags, level 0 and too little headroom end
it with their status and nothing written. Where the spec leaves a point open it takes the choice of log entries 42, 43. -/
def Obligations.CiphertextPairsAreCombined : Prop :=
  ∀ (s : State) (h : DescHdr) (o : CtAddOps) (sub : Bool), FlightsOrdered s →
    let c := if sub then Instr.ctAddSub h o else .ctAddAdd h o
    let b := if sub then DescBody.ctAddSub o else .ctAddAdd o
    Dispatches s h b →
    let p := h.p.val
    let s1 := takenUp s h b
    let r := ringAt s1 p o.paramAddr
    let rs := ctPairRefs s1 p o
    let x := headerAt s1 p rs.2.1
    let y := headerAt s1 p rs.2.2
    let n := x.level + 1
    let limbs := fun xs ys => (List.range n).map (fun i => List.zipWith (fun u v => if sub then (u + (r.q i - v)) % r.q i else (u + v) % r.q i)
      (ctLimb s1 p r xs o.limbStride i) (ctLimb s1 p r ys o.limbStride i))
    let marks := fun xs ys => joinMarks (ctMarks s1 p r xs o.limbStride n) (ctMarks s1 p r ys o.limbStride n)
    let jobs := partJobs 0 s1 p r rs.1.c0 o.limbStride (limbs rs.2.1.c0 rs.2.2.c0) (marks rs.2.1.c0 rs.2.2.c0) ++
      partJobs 0 s1 p r rs.1.c1 o.limbStride (limbs rs.2.1.c1 rs.2.2.c1) (marks rs.2.1.c1 rs.2.2.c1)
    r.valid = true → ctFormOk r x = true → ctFormOk r y = true → x.level = y.level → x.ntt = y.ntt →
    (r.scheme = 3 → x.scaleExp = y.scaleExp) →
    (x.tag ≠ y.tag → ∃ t, Answers c s t ∧ Ends s t h b stKeyTag 0 ∧ OnlyFlights s t ∧ StoreKept s t) ∧
    (x.tag = y.tag → x.level = 0 → ∃ t, Answers c s t ∧ Ends s t h b stLevel 0 ∧ OnlyFlights s t ∧ StoreKept s t) ∧
    (x.tag = y.tag → x.level ≠ 0 → x.headroom + y.headroom < r.budget →
      ∃ t, Answers c s t ∧ Ends s t h b stHeadroom 0 ∧ OnlyFlights s t ∧ StoreKept s t) ∧
    (x.tag = y.tag → x.level ≠ 0 → r.budget ≤ x.headroom + y.headroom → enginesAt s1 p jobs = true →
      ∃ (t : State) (hd : CtHeader), Answers c s t ∧ Flies s t h b (.headers [(rs.1.hdr, hd.bytes)]) jobs ∧
        OnlyPasses (useRing s p o.paramAddr) t ∧ StoreKept s t ∧ hd.headroom = x.headroom + y.headroom - r.budget ∧ hd.level = x.level ∧ hd.tag = x.tag ∧
        hd.share = 0 ∧ hd.seqNext = 0 ∧ hd.roundId = (if x.roundId = y.roundId then x.roundId else 0))

/-- CT_ADD FOLD: without a window of its round, or under another tag, it is refused, and a chain of one limb has no level for
it; else it sets the stored header's incomplete bit, and where its range is not decided yet it waits. Over a range that is ready
it charges the headroom; a charge that does not fit ends it with nothing more written; one that fits folds the weighted accepted
ciphertexts of the range into each limb tile, from zero with init. Where the spec leaves a point open it takes the choice of log
entries 16, 29, 42, 101. -/
def Obligations.FoldSumsAcceptedCiphertexts : Prop :=
  ∀ (s : State) (h : DescHdr) (o : CtAddOps), FlightsOrdered s → Dispatches s h (.ctAddFold o) →
    let p := h.p.val
    let s1 := takenUp s h (.ctAddFold o)
    let r := ringAt s1 p o.paramAddr
    let d := refOf (pread s1 p o.dstRef 16)
    let old := headerAt s1 p d
    let init := bvBit o.flags 0
    let tag := field (part s p).policy 0x60 8
    let found := (windowFor (part s p) .submit o.a).filter Window.readable
    (found = none → ∃ t, Answers (.ctAddFold h o) s t ∧ Ends s t h (.ctAddFold o) stPolicy 0 ∧ OnlyFlights s t) ∧
    (∀ w, found = some w → r.valid = true → (old.fmt ≠ 0x0110 ∨ old.incomplete = false ∨ old.roundId = o.a) → ringOf w.paramBlock = r →
      (init = false → ctFormOk r { old with incomplete := false } = true ∧ old.ntt = true ∧ old.level + 1 = r.chain ∧ old.roundId = o.a ∧
        ∀ c ∈ [d.c0, d.c1], ∀ i y, i < r.chain → y < r.size / 4096 →
          foldTileOk o w (r.q i) (unitMeta s1 p (limbUnit c o.limbStride r.limbUnits i + 4 * y)) = true) →
      let u := writeHeaders (useRing s1 p o.paramAddr) p [(d.hdr, heldHeader init o.a (pread s1 p d.hdr 64))]
      let e := refOf (pread u p o.dstRef 16)
      let base := foldBase u p r o (headerAt u p e)
      let charge := foldCharge u p r o w base.seqNext
      let jobs := [(e.c0, 0), (e.c1, 1)].flatMap (fun pc => (List.range r.chain).flatMap (fun i =>
        (List.range (r.size / 4096)).map (fun y => (foldJob u p r o w (acceptedRange w o.seqFirst o.seqCount) pc.1 pc.2 i y).1)))
      (init = false → old.tag ≠ tag → ∃ t, Answers (.ctAddFold h o) s t ∧ Ends s t h (.ctAddFold o) stKeyTag 0 ∧ OnlyFlights s t) ∧
      ((init = true ∨ old.tag = tag) → r.chain = 1 → ∃ t, Answers (.ctAddFold h o) s t ∧ Ends s t h (.ctAddFold o) stLevel 0 ∧
        OnlyFlights s t) ∧
      ((init = true ∨ old.tag = tag) → r.chain ≠ 1 →
        (rangeReady w o.seqFirst o.seqCount = false → ∃ t, Answers (.ctAddFold h o) s t ∧
          Flies s t h (.ctAddFold o) .numbers [] ∧ t.lining = u.lining ∧ t.dram = u.dram) ∧
        (rangeReady w o.seqFirst o.seqCount = true → base.headroom < charge → ∃ t, Answers (.ctAddFold h o) s t ∧
          Ends s t h (.ctAddFold o) stHeadroom 0 ∧ t.lining = u.lining ∧ t.dram = u.dram) ∧
        (rangeReady w o.seqFirst o.seqCount = true → charge ≤ base.headroom → enginesAt u p jobs = true →
          ∃ (t : State) (hd : CtHeader), Answers (.ctAddFold h o) s t ∧ Flies s t h (.ctAddFold o) (.headers [(e.hdr, hd.bytes)]) jobs ∧
            hd.headroom = base.headroom - charge ∧ hd.seqNext = o.seqFirst + o.seqCount ∧ hd.incomplete = false ∧
            (init = false → t.lining = u.lining ∧ t.dram = u.dram) ∧
            (init = true → t.lining = (writeHeaders (spendFree u) p [(e.hdr, base.bytes)]).lining ∧
              t.dram = (writeHeaders (spendFree u) p [(e.hdr, base.bytes)]).dram) ∧ OthersKept s t p ∧ t.regs = s.regs)))

/-- KEYSWITCH and ROTATE: the first listed ciphertext that fails a check ends it with that check's status and nothing written;
else every listed ciphertext gets its two output parts and a header under the destination tag with the key's cost charged, and
the working area holds scratch values. Where the spec leaves a point open it takes the choice of log entries 10, 17, 42, 43. -/
def Obligations.KeySwitchesStoreTheirOutputs : Prop :=
  ∀ (s : State) (h : DescHdr) (o : KsOps) (rotate : Bool), FlightsOrdered s →
    let c := if rotate then Instr.rotate h o else .keyswitch h o
    let b := if rotate then DescBody.rotate o else .keyswitch o
    Dispatches s h b →
    let p := h.p.val
    let s1 := takenUp s h b
    let r := ringAt s1 p o.paramAddr
    let refs := ksRefs s1 p o.inList o.outList o.ctCount
    (ksHeader s1 p o = none → ∃ t, Answers c s t ∧ Ends s t h b stPolicy 0 ∧ OnlyFlights s t ∧ StoreKept s t) ∧
    ∀ k : KeyStream, ksHeader s1 p o = some k → r.valid = true → r.special ≠ 0 →
    (∀ st, refs.findSome? (fun e => ksCheck r k rotate o (headerAt s1 p e.1)) = some st →
      ∃ t, Answers c s t ∧ Ends s t h b st 0 ∧ OnlyFlights s t ∧ StoreKept s t) ∧
    (refs.findSome? (fun e => ksCheck r k rotate o (headerAt s1 p e.1)) = none →
      let lvl := fun (e : CtRef × CtRef) => (headerAt s1 p e.1).level + 1
      let marks := fun (e : CtRef × CtRef) => joinMarks (ctMarks s1 p r e.1.c0 o.limbStride (lvl e)) (ctMarks s1 p r e.1.c1 o.limbStride (lvl e))
      let jobs := refs.zipIdx.flatMap (fun (e, i) =>
        partJobs i s1 p r e.2.c0 o.limbStride (ksOutput s1 p r rotate o e.1 (lvl e)).1 (marks e) ++
          partJobs i s1 p r e.2.c1 o.limbStride (ksOutput s1 p r rotate o e.1 (lvl e)).2 (marks e))
      let heads := refs.map (fun e => (e.2.hdr, ({ headerAt s1 p e.1 with
        share := 0, headroom := if rotate && bvBit o.flags 2 then 2 * (headerAt s1 p e.1).headroom - r.budget - k.cost
          else (headerAt s1 p e.1).headroom - k.cost, tag := k.dst } : CtHeader).bytes))
      enginesAt s1 p jobs = true → jobs ≠ [] →
      ∃ (t : State) (m : Bool × Bool), Answers c s t ∧ Flies s t h b (.headers heads) jobs ∧
        t.lining = (scratch s1 p (ksWork s1 p o) m).lining ∧ t.dram = s.dram ∧ t.regs = s.regs ∧
        OthersKept s t p)

/-- RESCALE and MODSWITCH: the first listed ciphertext that fails a check ends it with that check's status and nothing written;
else both parts of every listed ciphertext lose their top limbs, and its header its level and headroom; where no limb is written
the headers are written at once. PARTIAL_DEC with the committee share of the ciphertext's tag, on released tiles and once for
each round: one part is stored with the pre-gate mark and the round is noted as shared; without a generator that serves its
samplers it waits with its share. Where the spec leaves a point open it takes the choice of log entries 42, 43, 45. -/
def Obligations.LevelsDropAndPartialsAreShared : Prop :=
  (∀ (s : State) (h : DescHdr) (o : RescaleOps) (mod_ : Bool), FlightsOrdered s →
    let c := if mod_ then Instr.modswitch h o else .rescale h o
    let b := if mod_ then DescBody.modswitch o else .rescale o
    Dispatches s h b →
    let p := h.p.val
    let s1 := takenUp s h b
    let r := ringAt s1 p o.paramAddr
    let refs := ksRefs s1 p o.inList o.outList o.ctCount
    let d := if mod_ then o.drop else 1
    let tag := ((refs.head?).map (fun e => (headerAt s1 p e.1).tag)).getD 0
    r.valid = true →
    (∀ st, refs.findSome? (fun e => rescaleCheck r mod_ d tag (headerAt s1 p e.1)) = some st →
      ∃ t, Answers c s t ∧ Ends s t h b st 0 ∧ OnlyFlights s t ∧ StoreKept s t) ∧
    (refs.findSome? (fun e => rescaleCheck r mod_ d tag (headerAt s1 p e.1)) = none →
      let x := fun (e : CtRef × CtRef) => headerAt s1 p e.1
      let one := fun (e : CtRef × CtRef) (i src dst : Nat) =>
        if mod_ && r.scheme == 3 && src == dst then []
        else partJobs i s1 p r dst o.limbStride (dropLimbs r mod_ d (x e).ntt (ctLimbs s1 p r src o.limbStride ((x e).level + 1)))
          (ctMarks s1 p r src o.limbStride ((x e).level + 1))
      let jobs := refs.zipIdx.flatMap (fun (e, i) => one e i e.1.c0 e.2.c0 ++ one e i e.1.c1 e.2.c1)
      let hd := fun (e : CtRef × CtRef) => ({ x e with
        share := 0, level := (x e).level - d, headroom := (x e).headroom - d,
        scaleExp := if mod_ then (x e).scaleExp else (x e).scaleExp - nearestLog2 (r.q (x e).level) } : CtHeader)
      let heads := refs.map (fun e => (e.2.hdr, ({ hd e with dataLen := (hd e).len } : CtHeader).bytes))
      enginesAt s1 p jobs = true →
      (jobs ≠ [] → ∃ t, Answers c s t ∧ Flies s t h b (.headers heads) jobs ∧ OnlyPasses (useRing s p o.paramAddr) t ∧ StoreKept s t) ∧
      (jobs = [] → ∃ t, Answers c s t ∧ Ends s t h b stOk (resultWord o.ctCount 0 0) ∧ t.lining = (writeHeaders s p heads).lining ∧
        t.dram = (writeHeaders s p heads).dram ∧ OthersKept s t p ∧ t.regs = s.regs))) ∧
  (∀ (s : State) (h : DescHdr) (o : PartialOps), FlightsOrdered s → Dispatches s h (.partialDec o) →
    let p := h.p.val
    let s1 := takenUp s h (.partialDec o)
    let r := ringAt s1 p o.paramAddr
    let src := refOf (pread s1 p o.ctRef 16)
    let x := headerAt s1 p src
    let n := x.level + 1
    let marks := joinMarks (ctMarks s1 p r src.c0 o.limbStride n) (ctMarks s1 p r src.c1 o.limbStride n)
    let share := (storedKey s p 5).filter (fun k => k.keyId == x.tag)
    keysReady s (part s p) = true →
    (share = none →
      ∃ t, Answers (.partialDec h o) s t ∧ Ends s t h (.partialDec o) stPolicy 0 ∧ OnlyFlights s t ∧ StoreKept s t) ∧
    (∀ k, share = some k → (part s p).shared.contains o.roundId = true →
      ∃ t, Answers (.partialDec h o) s t ∧ Ends s t h (.partialDec o) stPolicy 0 ∧ OnlyFlights s t ∧ StoreKept s t) ∧
    (∀ k, share = some k → r.valid = true → ctFormOk r x = true → field (part s p).policy 0x6C 1 ≠ 0 →
      marks.1 = false → ctReleased s1 p r src o.limbStride n o.roundId = true → (part s p).shared.contains o.roundId = false →
      (o.lambdaAddr = 0 ∨ ∀ i, i < n → leNat (pread s1 p (o.lambdaAddr + 8 * i) 8) < r.q i) →
      (samplersRun s p = false → ∃ t, Answers (.partialDec h o) s t ∧
        Flies s t h (.partialDec o) (.noiseStall (some k)) [] ∧ OnlyFlights s t ∧ StoreKept s t) ∧
      (samplersRun s p = true → (∀ i, i < n →
          engineAt s1 p (pocketAddr (limbUnit (refOf (pread s1 p o.outRef 16)).c0 o.limbStride r.limbUnits i) % 2 ^ 60 / 8192) = true) →
        ∃ (t : State) (jobs : List TileJob) (hd : Bytes), Answers (.partialDec h o) s t ∧
          Flies s t h (.partialDec o) (.headers [((refOf (pread s1 p o.outRef 16)).hdr, hd)]) jobs ∧ jobs.length = n ∧
          (∀ i j, jobs[i]? = some j → j.mark = true ∧
            j.addr = pocketAddr (limbUnit (refOf (pread s1 p o.outRef 16)).c0 o.limbStride r.limbUnits i)) ∧
          (part t p).shared = (part s p).shared ++ [o.roundId] ∧ StoreKept s t ∧ OthersKept s t p ∧ t.freeCtr = s.freeCtr + 1)))

/-! Masked rounds -/

/-- SHARE_RECON of a RECOVER_CLOSED round whose bundles are all opened writes the report; with enough shares for every owner the
round is RECONSTRUCTED with their secrets, with too few for one it is UNRECOVERABLE and its recovery area gone. SEED_DERIVE
GRAPH binds an admitted neighbour table to a round that takes one and copies it to partition DRAM, with an area it replaces free
where the new one leaves it; DERIVE on a RECONSTRUCTED round with a fitting transcript derives one seed for each survivor and
each dropped edge, which stand in the recovery area, and the secrets are gone. MASK_EXPAND on a DERIVED round whose tiles may be
unmasked: each tile gets its passes of at most 64 seeds from its mask_next on; a pass adds or removes the masks up to its batch
and carries the next mask_next. A round that is not DERIVED, or a tile behind seed_first, is refused. Where the spec leaves a
point open it takes the choice of log entries 35, 44, 97. -/
def Obligations.MasksAreRecoveredAndApplied : Prop :=
  (∀ (s : State) (h : DescHdr) (o : ShareOps), FlightsOrdered s → Dispatches s h (.shareRecon o) →
    let p := h.p.val
    let x := part s p
    (roundOf x o.roundId = none → ∃ t, Answers (.shareRecon h o) s t ∧ Ends s t h (.shareRecon o) stPolicy 0 ∧ OnlyFlights s t) ∧
    (∀ r, roundOf x o.roundId = some r → (r.mode ≠ .recoverClosed ∨ bundlesOpened x o.roundId = false ∨ bundleWork s p o.roundId = true) →
      ∃ t, Answers (.shareRecon h o) s t ∧ Ends s t h (.shareRecon o) stPolicy 0 ∧ OnlyFlights s t) ∧
    (∀ r, roundOf x o.roundId = some r → r.mode = .recoverClosed → bundlesOpened x o.roundId = true → bundleWork s p o.roundId = false →
      let found := (reconOwners r).map (fun w => reconOwner r.entries (field x.policy 17 1) w.1 w.2)
      let short := (found.filter (fun k => k.status == 1)).length
      let bad := (found.filter (fun k => k.status == 2)).length
      ∃ t u, Answers (.shareRecon h o) s t ∧
        Ends s t h (.shareRecon o) stOk ((found.length - short) % 2 ^ 24 + short % 2 ^ 24 * 2 ^ 24 + min bad 0xFFFF * 2 ^ 48) ∧
        roundOf (part t p) o.roundId = some u ∧ OthersKept s t p ∧ t.regs = s.regs ∧
        (short = 0 → u.mode = .reconstructed ∧ u.entries = [] ∧ u.secrets.map (fun e => (e.owner, e.kind, e.share)) =
            found.map (fun k => (k.owner, k.kind, k.secret)) ∧
          t.lining = (pwrite s p o.reportAddr (found.flatMap reconRecord)).lining ∧
          t.dram = (pwrite s p o.reportAddr (found.flatMap reconRecord)).dram) ∧
        (short ≠ 0 → u.mode = .unrecoverable ∧ u.graph = none ∧ u.entries = [] ∧ u.secrets = [] ∧ u.seeds = [] ∧
          t.dram = (pwrite s p o.reportAddr (found.flatMap reconRecord)).dram))) ∧
  (∀ (s : State) (h : DescHdr) (o : SeedOps), FlightsOrdered s →
    let p := h.p.val
    let x := part s p
    (Dispatches s h (.seedGraph o) →
      let b := pread s p o.srcAddr (graphLen (pread s p o.srcAddr 64))
      ((graphState x o.roundId && graphOk x (graphOf b)) = false → ∃ t, Answers (.seedDeriveGraph h o) s t ∧
        Ends s t h (.seedGraph o) stPolicy 0 ∧ OnlyFlights s t) ∧
      (∀ r, roundOf x o.roundId = some r → (graphState x o.roundId && graphOk x (graphOf b)) = true →
        let v := match r.graph with
          | some old => dropOldArea s p old (tileIx o.recTile) o.recUnits
          | none => s
        ∃ t u g, Answers (.seedDeriveGraph h o) s t ∧ Ends s t h (.seedGraph o) stOk 0 ∧ roundOf (part t p) o.roundId = some u ∧
          u.graph = some g ∧ u.mode = r.mode ∧ g.records = (graphOf b).records ∧ g.graphId = (graphOf b).graphId ∧
          g.recTile = tileIx o.recTile ∧ g.recUnits = o.recUnits ∧ t.lining = v.lining ∧
          t.dram = (pwrite s p o.graphAddr b).dram ∧ OthersKept s t p ∧ t.regs = s.regs)) ∧
    (Dispatches s h (.seedDerive o) → ∀ r, roundOf x o.roundId = some r →
      let edges := droppedEdges r
      let recs := pieces 1200 o.recTile (pread s p o.srcAddr (1200 * o.recTile))
      ((r.mode ≠ .reconstructed ∨ o.recTile ≠ edges.length ∨ (List.zipWith transcriptOk edges recs).all (fun ok => ok) = false) →
        ∃ t, Answers (.seedDeriveDerive h o) s t ∧ Ends s t h (.seedDerive o) stPolicy 0 ∧ OnlyFlights s t) ∧
      (r.mode = .reconstructed → o.recTile = edges.length → (List.zipWith transcriptOk edges recs).all (fun ok => ok) = true →
        ∃ t u, Answers (.seedDeriveDerive h o) s t ∧
          Ends s t h (.seedDerive o) stOk (r.survivors.length % 2 ^ 24 + edges.length % 2 ^ 24 * 2 ^ 24) ∧
          roundOf (part t p) o.roundId = some u ∧ u.mode = .derived ∧ u.secrets = [] ∧ u.selfCount = r.survivors.length ∧
          u.seeds = r.survivors.map (fun i => ({ bytes := selfSeed (secretOf r i 1) r.roundId i, plus := false } : Seed)) ++
            List.zipWith (edgeSeed r ((r.graph.map (fun g => g.graphId)).getD 0)) edges recs ∧
          t.dram = s.dram ∧ t.tiles = s.tiles ∧ t.lining = ((r.graph.map (fun g => pwrite s p (seedArea g) (u.seeds.flatMap seedEntry))).getD s).lining ∧
          OthersKept s t p ∧ t.regs = s.regs))) ∧
  (∀ (s : State) (h : DescHdr) (o : MaskOps), FlightsOrdered s → Dispatches s h (.maskExpand o) →
    let p := h.p.val
    let s1 := takenUp s h (.maskExpand o)
    let x := part s p
    let w := policyBits x
    let unit := fun i => tileIx o.dstTile + i * tileUnits w
    (roundOf x o.roundId = none → ∃ t, Answers (.maskExpand h o) s t ∧ Ends s t h (.maskExpand o) stPolicy 0 ∧ OnlyFlights s t ∧
      StoreKept s t) ∧
    (∀ r, roundOf x o.roundId = some r →
      ((r.mode ≠ .derived ∨ r.seeds.length < o.seedFirst + o.seedCount ∨
          ∃ i, i < o.tileCount ∧ tabGet 0 r.maskNext (o.coordTile + i) < o.seedFirst) →
        ∃ t, Answers (.maskExpand h o) s t ∧ Ends s t h (.maskExpand o) stPolicy 0 ∧ OnlyFlights s t ∧ StoreKept s t) ∧
      (r.mode = .derived → o.seedFirst + o.seedCount ≤ r.seeds.length →
        (∀ i, i < o.tileCount → maskTileOk x r (unitMeta s1 p (unit i)) = true ∧ o.seedFirst ≤ tabGet 0 r.maskNext (o.coordTile + i)) →
        planOk s1 p (tileIx o.dstTile) (tileUnits w) o.tileCount 1 = true →
        let stop := o.seedFirst + o.seedCount
        let start := fun i => min stop (tabGet 0 r.maskNext (o.coordTile + i))
        ((∀ i, i < o.tileCount → start i = stop) → ∃ t, Answers (.maskExpand h o) s t ∧
          Ends s t h (.maskExpand o) stOk (resultWord 0 0 (o.tileCount * o.seedCount)) ∧ StoreKept s t ∧ OthersKept s t p) ∧
        ((∃ i, i < o.tileCount ∧ start i < stop) →
          ∃ (t : State) (jobs : List TileJob), Answers (.maskExpand h o) s t ∧ Flies s t h (.maskExpand o) .running jobs ∧ StoreKept s t ∧
            OthersKept s t p ∧ t.regs = s.regs ∧ (part t p).rounds = x.rounds ∧
            (part t p).usage.keystreamBytes =
              satAdd x.usage.keystreamBytes (((List.range o.tileCount).map (fun i => stop - start i)).sum * 512 * w) ∧
            (∀ i, i < o.tileCount → (jobs.filter (fun j => j.item == i)).length = (stop - start i + 63) / 64) ∧
            ∀ j ∈ jobs, ∃ n, j.item < o.tileCount ∧ j.addr = pocketAddr (unit j.item) ∧ j.maskNext = some (o.coordTile + j.item, n) ∧
              start j.item < n ∧ n ≤ stop ∧ (n = stop ∨ (n - start j.item) % 64 = 0) ∧ j.last = (n == stop) ∧
              j.bytes = packElems (w / 8) (((r.seeds.drop (start j.item)).take (n - start j.item)).foldl
                (applySeed x (o.coordTile + j.item)) (readTile s1 p (unit j.item) w))))))

/-! Sealed submissions and bundles -/

/-- KEM_DECAP and SEALED_OPEN wait for their private wires; without a window of their round that may be read, with bundles and
no bound table, or with an item that has no key or another staging area, they are refused; before their numbers are decided they
wait; over a ready range each item still to work on gets a pass on its Sleeve's engine, and where there is none they report the
range at once. The pass of a submission commits. KEM_DECAP of kind 0 then holds its key where the Sleeve's context has room; of
kind 1 the bundle in turn is opened and judged; SEALED_OPEN opens the submission in turn into its free staging slot and judges
it. With the last of its range the descriptor completes and reports what became of each. Where the spec leaves a point open it
takes the choice of log entries 47, 75, 29. -/
def Obligations.SealedItemsAreOpened : Prop :=
  (∀ (s : State) (h : DescHdr), FlightsOrdered s →
    let p := h.p.val
    let x := part s p
    let bound := fun (k : WinKind) round => (windowFor x k round).filter Window.readable
    let waits := fun (c : Instr) (b : DescBody) ph => ∃ t, Answers c s t ∧ Flies s t h b ph [] ∧ OnlyFlights s t ∧ StoreKept s t
    let refused := fun (c : Instr) (b : DescBody) st => ∃ t, Answers c s t ∧ Ends s t h b st 0 ∧ OnlyFlights s t ∧ StoreKept s t
    let works := fun (c : Instr) (b : DescBody) (ns : List Nat) (u : State) =>
      (ns.all (subHasEngine s p) = false → refused c b stEngineLost) ∧
      (ns ≠ [] → ns.all (subHasEngine s p) = true → ∃ t jobs, Answers c s t ∧ Flies s t h b .running jobs ∧ OnlyPasses u t ∧
        StoreKept s t ∧ jobs.map (fun j => (j.summands, j.bytes)) = ns.map (fun n => ([n], [])))
    (∀ o : KemOps, Dispatches s h (.kemSealed o) →
      let c := Instr.kemDecapSealed h o
      let b := DescBody.kemSealed o
      let ns := fun w => numbersOf ((rangeSubs w o.seqFirst o.seqCount).filter toDecap)
      (keysReady s x = false → waits c b .keyWait) ∧
      (keysReady s x = true → bound .submit o.roundId = none → refused c b stPolicy) ∧
      (∀ w, keysReady s x = true → bound .submit o.roundId = some w →
        (rangeReady w o.seqFirst o.seqCount = false → waits c b .numbers) ∧
        (rangeReady w o.seqFirst o.seqCount = true → works c b (ns w) s ∧ (ns w = [] → ∃ t, Answers c s t ∧
          Ends s t h b stOk (verdictWord ((rangeSubs w o.seqFirst o.seqCount).filter (fun y => y.decapsulated)).length 0) ∧ StoreKept s t)))) ∧
    (∀ o : KemOps, Dispatches s h (.kemBundle o) →
      let c := Instr.kemDecapBundle h o
      let b := DescBody.kemBundle o
      let ns := fun w => numbersOf ((rangeSubs w o.seqFirst o.seqCount).filter toOpen)
      (keysReady s x = false → waits c b .keyWait) ∧
      (keysReady s x = true → (bound .recover o.roundId = none ∨ (roundOf x o.roundId).bind (fun r => r.graph) = none) →
        refused c b stPolicy) ∧
      (∀ w g, keysReady s x = true → bound .recover o.roundId = some w → (roundOf x o.roundId).bind (fun r => r.graph) = some g →
        (rangeReady w o.seqFirst o.seqCount = false → waits c b .numbers) ∧
        (rangeReady w o.seqFirst o.seqCount = true → works c b (ns w) s ∧ (ns w = [] → ∃ t, Answers c s t ∧
          Ends s t h b stOk (rangeVerdicts w o.seqFirst o.seqCount) ∧
          (o.resultAddr = 0 → StoreKept s t) ∧
          (o.resultAddr ≠ 0 → t.lining = (writeRecords s p o.resultAddr w o.seqFirst o.seqCount).lining ∧
            t.dram = (writeRecords s p o.resultAddr w o.seqFirst o.seqCount).dram))))) ∧
    (∀ o : SealedOps, Dispatches s h (.sealedOpen o) →
      let c := Instr.sealedOpen h o
      let b := DescBody.sealedOpen o
      let subs := fun w => (rangeSubs w o.seqFirst o.seqCount).filter toOpen
      let u := modWindow s p .submit (fun y => { y with
        stageFirst := some (tileIx o.stageTile), stageSlots := o.stageSlots, stageUnits := o.stageSlots * vectorUnits x })
      (keysReady s x = false → waits c b .keyWait) ∧
      (keysReady s x = true → bound .submit o.roundId = none → refused c b stPolicy) ∧
      (∀ w, keysReady s x = true → bound .submit o.roundId = some w →
        (otherStaging w o = true → refused c b stPolicy) ∧
        (otherStaging w o = false → rangeReady w o.seqFirst o.seqCount = false → waits c b .numbers) ∧
        (otherStaging w o = false → rangeReady w o.seqFirst o.seqCount = true →
          ((∃ y ∈ subs w, y.decapsulated = false) → refused c b stPolicy) ∧
          ((∀ y ∈ subs w, y.decapsulated = true) → works c b (numbersOf (subs w)) u ∧
            (subs w = [] → ∃ t, Answers c s t ∧ Ends s t h b stOk (rangeVerdicts w o.seqFirst o.seqCount) ∧
              t.dram = (writeRecords u p o.resultAddr w o.seqFirst o.seqCount).dram)))))) ∧
  (∀ (s : State) (l : Fin 128) (f : InFlight) (j : TileJob) (w : Window) (b : Submission) (n : Nat) (pre post : List Submission),
    FlightsOrdered s → firstPass s l.val (fun i => i.passDone) = some (f, j) → j.engine = l.val → f.phase = .running →
    j.bytes = [] → j.more = [] → j.tmeta = none → j.coord = none → j.maskNext = none → j.summands = [n] → n ∉ f.dropped →
    w.subs = pre ++ b :: post → b.number = some n → (∀ c ∈ pre ++ post, c.number ≠ some n) → b.verdict = some .accepted →
    let p := f.h.p.val
    let x := part s p
    let commits := fun (u : State) =>
      Answers (.tileCommit l) s (retryLandings p 256 (resumeAll (resumeLanding u p .submit) p)) ∧ OthersKept s u p
    let ends := fun (u : State) result => ∃ g d, flight u f.id = some g ∧ g.done = some d ∧ d.status = doneStatus f ∧ d.ft = now s ∧
      d.result = result
    let inRange := fun (c : Submission) first count => c ∈ rangeSubs w first count
    (∀ o, f.body = .kemSealed o → f.opcode = 0x51 → windowFor x .submit o.roundId = some w → inRange b o.seqFirst o.seqCount →
      b.decapsulated = false → contextKeys x w (n % x.sleeveList.length) < 4096 →
      (∀ c ∈ pre ++ post, toDecap c = true → c.number.getD 0 ∉ f.passed) →
      ∃ u v c, commits u ∧ (part u p).submit = some v ∧ c ∈ v.subs ∧ c.number = some n ∧ c.decapsulated = true ∧
        c.sharedKey = some (sealedKey "BA16/sealed/v1" (kemDecaps x.dk (landedBytes s p w n 64 1088)) (landedBytes s p w n 0 64)) ∧
        StoreKept s u ∧ ((∀ c ∈ pre ++ post, inRange c o.seqFirst o.seqCount → toDecap c = false) →
          ends u (verdictWord (((rangeSubs w o.seqFirst o.seqCount).filter (fun y => y.decapsulated)).length + 1) 0))) ∧
    (∀ o r, f.body = .kemBundle o → f.opcode = 0x51 → windowFor x .recover o.roundId = some w → roundOf x o.roundId = some r →
      inRange b o.seqFirst o.seqCount → b.final = false →
      (∀ c ∈ pre, inRange c o.seqFirst o.seqCount → toOpen c = true → c.number.getD 0 ∈ f.dropped) →
      (∀ c ∈ post, toOpen c = true → c.number.getD 0 ∉ f.passed) →
      let header := landedBytes s p w n 0 64
      let count := field header 16 2
      let opened := gcmOpen (sealedKey "BA16/bundle/v1" (kemDecaps x.dk (landedBytes s p w n 64 1088)) header) (zeros 12) header
        (landedBytes s p w n 1152 (40 * count)) (landedBytes s p w n (1152 + 40 * count) 16)
      let v := bundleVerdict r w b opened count
      ∃ u y c e, commits u ∧ (part u p).recover = some y ∧ c ∈ y.subs ∧ c.number = some n ∧ c.verdict = some v.1 ∧ c.final = true ∧
        c.slotFree = true ∧ roundOf (part u p) o.roundId = some e ∧ e.entries = r.entries ++ v.2 ∧ e.bundleOpened = true ∧
        ((∀ c ∈ pre ++ post, inRange c o.seqFirst o.seqCount → toOpen c = false) → ends u (rangeVerdicts y o.seqFirst o.seqCount))) ∧
    (∀ o, f.body = .sealedOpen o → f.opcode = 0x50 → windowFor x .submit o.roundId = some w → inRange b o.seqFirst o.seqCount →
      b.final = false → stageFree w n = true →
      (∀ c ∈ pre, inRange c o.seqFirst o.seqCount → toOpen c = true → c.number.getD 0 ∈ f.dropped) →
      (∀ c ∈ post, toOpen c = true → c.number.getD 0 ∉ f.passed) →
      let size := x.dimension * elemBytes x.elemFormat
      let header := landedBytes s p w n 0 64
      let opened := gcmOpen (b.sharedKey.getD []) (zeros 12) header (landedBytes s p w n 1152 size) (landedBytes s p w n (1152 + size) 16)
      let v := openVerdict x w b opened.isSome
      let unit := w.stageFirst.getD 0 + n % w.stageSlots * vectorUnits x
      ∃ u y c, commits u ∧ (part u p).submit = some y ∧ c ∈ y.subs ∧ c.number = some n ∧ c.verdict = some v ∧ c.final = true ∧
        c.sharedKey = none ∧ c.slotFree = true ∧ c.stage = (if v = .accepted then some (n % w.stageSlots) else none) ∧
        (w.active = true → (∃ c ∈ post, inRange c o.seqFirst o.seqCount ∧ toOpen c = true ∧ c.number.getD 0 ∉ f.dropped) →
          u.lining = ((opened.map (fun d => pwrite s p (pocketAddr unit) (fit (8192 * vectorUnits x) d))).getD s).lining) ∧
        ((∀ c ∈ pre ++ post, inRange c o.seqFirst o.seqCount → toOpen c = false) → ends u (rangeVerdicts y o.seqFirst o.seqCount))))

/-- CLIP over a ready range of opened submissions: one whose sum of squares is not fixed gets a first pass over its tiles, one
partly clipped its remaining scaling passes; with none of them it completes. The last first pass fixes whether the vector is
within the bound, or its scale and the passes that scale its tiles toward zero; a scaling pass stores its tile once. Where the
spec leaves a point open it takes the choice of log entry 29. -/
def Obligations.ClipScalesVectorsBeyondTheBound : Prop :=
  (∀ (s : State) (h : DescHdr) (o : SealedOps), FlightsOrdered s → Dispatches s h (.clip o) →
    let p := h.p.val
    let s1 := takenUp s h (.clip o)
    let x := part s p
    let bound := (windowFor x .submit o.roundId).filter Window.readable
    let refused := fun st => ∃ t, Answers (.clip h o) s t ∧ Ends s t h (.clip o) st 0 ∧ OnlyFlights s t ∧ StoreKept s t
    (bound = none → refused stPolicy) ∧
    (∀ w, bound = some w → rangeReady w o.seqFirst o.seqCount = false → ∃ t, Answers (.clip h o) s t ∧
      Flies s t h (.clip o) .numbers [] ∧ OnlyFlights s t) ∧
    (∀ w, bound = some w → rangeReady w o.seqFirst o.seqCount = true →
      let subs := acceptedRange w o.seqFirst o.seqCount
      let work := subs.filter (fun b => !clipDone x b)
      let jobs := work.flatMap (fun b => match b.clip with
        | none => sumJobs s1 p w b
        | some c => clipJobs s1 p w b c)
      ((∃ b ∈ subs, b.final = false) → refused stPolicy) ∧
      ((∀ b ∈ subs, b.final = true ∧ planOk s1 p (stageUnit x w b) (tileUnits (policyBits x)) (coordTiles x) 1 = true) →
        (jobs = [] → ∃ t, Answers (.clip h o) s t ∧
          Ends s t h (.clip o) stOk ((subs.length - work.length) % 2 ^ 24 * 2 ^ 24) ∧ OnlyFlights s t ∧ StoreKept s t) ∧
        (jobs ≠ [] → ∃ t f, Answers (.clip h o) s t ∧ Flies s t h (.clip o) .running jobs ∧ flight t s.nextId = some f ∧
          f.result = subs.length - work.length ∧ OnlyPasses s t ∧ StoreKept s t)))) ∧
  (∀ (s : State) (l : Fin 128) (f : InFlight) (j : TileJob) (o : SealedOps) (w : Window) (b : Submission) (n y : Nat),
    FlightsOrdered s → firstPass s l.val (fun i => i.passDone) = some (f, j) → j.engine = l.val → f.phase = .running →
    f.body = .clip o → f.opcode = 0x52 → j.more = [] → j.coord = some y → j.clipOf = some n →
    let p := f.h.p.val
    let x := part s p
    windowFor x .submit o.roundId = some w → subAt w n = some b →
    let commits := fun (u : State) => Answers (.tileCommit l) s (retryLandings p 256 (resumeAll (resumeLanding u p .submit) p))
    let q := clipSum s p w b
    let sc := clipScale (field x.policy 0x18 8) q
    (j.bytes = [] → j.tmeta = none → n ∉ f.dropped → f.jobs.filter (fun i => i.clipOf == some n && i.bytes.isEmpty) = [j] → b.clip = none →
      ∃ u v c, commits u ∧ (part u p).submit = some v ∧ subAt v n = some c ∧ StoreKept s u ∧
        (q ≤ field x.policy 0x18 8 → (c.clip.map (fun k => k.within)) = some true) ∧
        (field x.policy 0x18 8 < q → c.clip = some { within := false, rm := sc.1, re := sc.2, scaled := [] } ∧
          ∃ g, flight u f.id = some g ∧ ∀ i, i < coordTiles x → ∃ k ∈ g.jobs, k.coord = some i ∧ k.clipOf = some n ∧
            k.addr = pocketAddr (stageUnit x w b + i * tileUnits (policyBits x)) ∧
            k.bytes = intBytes (policyBits x) ((stagedTile s p w b i).map (clipElem sc.1 sc.2)))) ∧
    (∀ c, j.bytes ≠ [] → b.clip = some c →
      ∃ u, commits u ∧ clipScaled u p n y = true ∧
        (y ∉ c.scaled → u.lining = (writeJob s p j).lining ∧ u.tiles = (writeJob s p j).tiles) ∧
        (y ∈ c.scaled → StoreKept s u)))

/-! Noise and release -/

/-- DP_NOISE on marked tiles of one kind: without a generator that serves the samplers it waits; else each tile gets one pass
that stores its noised elements under the mark of its source; unmarked tiles are refused. Where the spec leaves a point open it
takes the choice of log entries 45, 28. -/
def Obligations.NoiseIsAddedUnderTheMark : Prop :=
  ∀ (s : State) (h : DescHdr) (o : NoiseOps), FlightsOrdered s → Dispatches s h (.dpNoise o) →
    let p := h.p.val
    let s1 := takenUp s h (.dpNoise o)
    let first := tileIx o.srcTile
    let w := rangeWidth s1 p first
    let tu := tileUnits w
    let marked := uniformTiles s1 p first o.tileCount && (rangeMetas s1 p first tu o.tileCount).all (fun m => m.mark)
    (marked = false → ∃ t, Answers (.dpNoise h o) s t ∧ Ends s t h (.dpNoise o) stPolicy 0 ∧ OnlyFlights s t ∧ StoreKept s t) ∧
    (marked = true → planOk s1 p first tu o.tileCount 1 = true →
      (samplersRun s p = false → ∃ t, Answers (.dpNoise h o) s t ∧ Flies s t h (.dpNoise o) (.noiseStall none) [] ∧ OnlyFlights s t ∧
        StoreKept s t) ∧
      (samplersRun s p = true → ∃ (t : State) (jobs : List TileJob), Answers (.dpNoise h o) s t ∧ Flies s t h (.dpNoise o) .running jobs ∧
        StoreKept s t ∧ OnlyPasses (spendFree s) t ∧
        jobs.length = o.tileCount ∧ ∀ i j, jobs[i]? = some j → j.addr = pocketAddr (tileIx o.dstTile + tu * i) ∧
          j.bytes = packElems (w / 8) ((noisedElems s1 o.mech o.rounding (4096 * i) (unitMeta s1 p (first + i * tu))
            (readTile s1 p (first + i * tu) w)).map (fun y => canonicalWord (unitMeta s1 p (first + i * tu)) y.1)) ∧
          j.mark = true))

/-- RELEASE passes the gate once for a round and kind, and within the epoch's count: one that the gate or its tiles do not admit
ends POLICY_DENIED with nothing written; an admitted one is recorded. Where it draws noise and no generator serves the samplers
it waits; to the window it stages its noised values under the pre-gate mark until its output phase, to the Pocket it stores its
output and completes. The output phase of the first release of a partition whose noise is complete writes its header, with the
module id of that instant in its nonce, and its output to the window, sealed under the output key where the policy seals, and
the release completes; with none nothing happens. Where the spec leaves a point open it takes the choice of log entries 18, 19,
45, 48, 109. -/
def Obligations.ReleasePassesTheGateAndOutputs : Prop :=
  (∀ (s : State) (h : DescHdr) (o : ReleaseOps) (share : Bool), FlightsOrdered s →
    let c := if share then Instr.releaseShare h o else .releaseAggregate h o
    let b := if share then DescBody.releaseShare o else .releaseAggregate o
    Dispatches s h b →
    let p := h.p.val
    let s1 := takenUp s h b
    let x := part s p
    let key := (storedKey s p 1).filter (fun k => k.keyId == field x.policy 0x50 8)
    let wires := x.sealsOutput && !keysReady s x
    let stateOk := if x.regime = 2 then releaseCtOk s1 p share o else releaseTilesOk s1 p o
    let keyOk := !toWindow o || x.regime == 2 || !x.sealsOutput || key.isSome
    let admitted := gateAdmits x share o.roundId (now s) && stateOk && keyOk
    let room := x.regime ≠ 2 ∨ share = true ∨ (releaseCt s1 p o).2.2.headroom ≠ 0
    let served := drawsNoise x share = false ∨ samplersRun s p = true
    let recorded := fun (t : State) => (part t p).released = x.released ++ [(o.roundId, bit share)] ∧ OthersKept s t p ∧ t.regs = s.regs
    let stored := fun (u t : State) => t.lining = u.lining ∧ t.dram = u.dram ∧ t.freeCtr = s.freeCtr + 1
    let saturated := (rangeMetas s1 p (tileIx o.srcTile) (tileUnits (rangeWidth s1 p (tileIx o.srcTile))) (releaseTiles o)).any (fun m => m.saturated)
    (wires = true → ∃ t, Answers c s t ∧ Flies s t h b .keyWait [] ∧ OnlyFlights s t ∧ StoreKept s t) ∧
    (wires = false → admitted = false → ∃ t, Answers c s t ∧ Ends s t h b stPolicy 0 ∧ OnlyFlights s t ∧ StoreKept s t) ∧
    (wires = false → admitted = true → ¬ room → ∃ t, Answers c s t ∧ Ends s t h b stHeadroom 0 ∧ OnlyFlights s t ∧ StoreKept s t) ∧
    (wires = false → admitted = true → room → ¬ served → ∃ t f, Answers c s t ∧ Flies s t h b (.noiseStall key) [] ∧
      flight t s.nextId = some f ∧ f.admitted = now s ∧ recorded t ∧ StoreKept s t) ∧
    (wires = false → admitted = true → room → served →
      (x.regime ≠ 2 → toWindow o = true → ∃ (t : State) (head : Bytes), Answers c s t ∧
        Flies s t h b (.output head ((key.map (fun k => k.key)).getD [])) [] ∧ recorded t ∧
        stored (pwrite s p o.srcRef ((releaseWords s1 p o).flatMap (packElems (releaseElem s1 p o)))) t) ∧
      (x.regime ≠ 2 → toWindow o = false → ∃ t, Answers c s t ∧ Ends s t h b (if saturated then stSaturated else stOk) 0 ∧ recorded t ∧
        stored (writeReleasedTiles s1 p o (releaseWords s1 p o)) t) ∧
      (x.regime = 2 → toWindow o = true → ∃ (t : State) (head : Bytes), Answers c s t ∧
        Flies s t h b (.output head ((key.map (fun k => k.key)).getD [])) [] ∧ recorded t ∧
        stored (pwrite s p (pocketAddr (tileIx o.stageTile))
          ((noisedPart s1 p share (releaseCt s1 p o).1 (releaseCt s1 p o).2.1 (releaseCt s1 p o).2.2).flatMap (packElems 8))) t) ∧
      (x.regime = 2 → toWindow o = false → ∃ t, Answers c s t ∧ Ends s t h b stOk 0 ∧ recorded t ∧
        stored (writeReleasedCt s1 p share o) t))) ∧
  (∀ (s : State) (p : Fin 16),
    (∀ (f : InFlight) (o : ReleaseOps) (share : Bool) (head key : Bytes) (l r : List InFlight), FlightsOrdered s →
      flying s p.val = l ++ f :: r → (∀ g ∈ l, ∀ hd k, g.phase ≠ .output hd k) →
      f.body = (if share then .releaseShare o else .releaseAggregate o) → f.phase = .output head key →
      let x := part s p.val
      let hd := if x.sealsOutput then head.take 0x24 ++ releaseNonce s p.val o.roundId share ++ head.drop 0x30 else head
      let plain := pread s p.val o.srcRef (o.count * releaseElem s p.val o)
      let out := if x.regime = 2 then releaseData s p.val share o hd key
        else if x.sealsOutput then (gcmSeal key (slice hd 0x24 12) hd plain).1 ++ (gcmSeal key (slice hd 0x24 12) hd plain).2
        else plain
      ∃ t g, Answers (.releaseOutputPhase p) s t ∧ flight t f.id = some g ∧
        g.done = some { status := if f.saturated then stSaturated else stOk, result := 0, faultRef := 0, ft := now s } ∧
        t.lining = (pwrite s p.val o.dst (hd ++ out)).lining ∧ t.dram = (pwrite s p.val o.dst (hd ++ out)).dram ∧
        OthersKept s t p.val ∧ t.regs = s.regs) ∧
    ((∀ f ∈ flying s p.val, ∀ hd k, f.phase ≠ .output hd k) → Answers (.releaseOutputPhase p) s s))

/-! The Zipper -/

/-- A chain declaration and tiles that agree with it, a key that sends and a deadline still ahead admit a ZIP_SEND: it sends
what the credits held for it cover, which without any is nothing; an admitted ZIP_RECV grants landing_depth credits to the
member before it and waits for tiles. A key torn completes them JOB_TORN, a deadline passed LATE, and what does not agree
POLICY_DENIED. A ZIP_CREDIT without a sender is held with its generation; the first grant opens the stream, whose tiles leave;
the credit of the last commit completes it. A ZIP_REPLY ends its sender with the reply's status. At the earliest deadline what
is incomplete ends LATE, after the windows that close then. Where the spec leaves a point open it takes the choice of log
entries 13, 14, 31, 40, 46, 94. -/
def Obligations.ChainDescriptorsStartAndFinish : Prop :=
  (∀ (s : State) (h : DescHdr), FlightsOrdered s →
    let p := h.p.val
    (∀ o : ZipSendOps, Dispatches s h (.zipSend o) →
      let d := declAt s p o.declAddr
      let w := widthBits d.width
      let j := chainPlace s p d
      let agrees := declOk s p d = true ∧ d.roundId = o.roundId ∧ d.tiles = o.tileCount ∧ j + 1 < d.count ∧
        (rangeMetas s p (tileIx o.srcTile) (tileUnits w) o.tileCount).all (chainTileOk d) = true ∧
        roundUnmasked (part s p) o.roundId = true
      let ends := fun st => ∃ t, Answers (.zipSend h o) s t ∧ Ends s t h (.zipSend o) st 0 ∧ OnlyFlights s t
      (¬ agrees → ends stPolicy) ∧
      (∀ key e, agrees → chainKey s p d.spaceId = some key → linkKey s p key = some e →
        (e.torn = true → ends stTorn) ∧
        (e.torn = false → (keySends s p key = false ∨ e.dying = true) → ends stPolicy) ∧
        (e.torn = false → keySends s p key = true → e.dying = false →
          (o.deadline ≠ 0 → o.deadline ≤ now s → ends stLate) ∧
          ((o.deadline = 0 ∨ now s < o.deadline) →
            let c := takeCredits (takenUp s h (.zipSend o)) p d.digest
            let tx : ZipTx :=
              { digest := d.digest, nextDst := d.members.getD (j + 1) 0, keyId := key, width := w, firstTile := tileIx o.srcTile,
                tiles := o.tileCount, sentBytes := 0, credits := c.2.2.1, depth := c.2.1, gen := c.2.2.2 }
            let r := pumpZip p o.tileCount (pumpFuel tx) (waitIn c.1 s.nextId (.zipSend tx), tx, false)
            (r.2.2 = true → ∃ t, Answers (.zipSend h o) s t ∧ Ends s t h (.zipSend o) stPolicy (resultWord (tilesSent r.2.1) 0 0)) ∧
            (r.2.2 = false → o.tileCount ≤ tilesTaken r.2.1 →
              ∃ t, Answers (.zipSend h o) s t ∧ Ends s t h (.zipSend o) stOk (resultWord (tilesSent r.2.1) 0 0)) ∧
            (r.2.2 = false → tilesTaken r.2.1 < o.tileCount →
              ∃ t, Answers (.zipSend h o) s t ∧ Flies s t h (.zipSend o) (.zipSend r.2.1) [] ∧ t.shawl = r.1.shawl ∧ t.out = r.1.out ∧
                t.lining = s.lining ∧ t.dram = s.dram ∧
                ((∀ e ∈ (part s p).zipCredits, e.1 ≠ d.digest) → r.2.1 = tx ∧ OnlyFlights s t)))))) ∧
    (∀ o : ZipRecvOps, Dispatches s h (.zipRecv o) →
      let d := declAt s p o.declAddr
      let w := widthBits d.width
      let j := chainPlace s p d
      let fwd := bvBit o.flags 0
      let agrees := declOk s p d = true ∧ d.roundId = o.roundId ∧ 0 < j ∧ (fwd = true → j + 1 < d.count) ∧
        (rangeMetas s p (tileIx o.ownTile) (tileUnits w) d.tiles).all (chainTileOk d) = true ∧
        (fwd = true → roundUnmasked (part s p) o.roundId = true)
      let ends := fun st => ∃ t, Answers (.zipRecv h o) s t ∧ Ends s t h (.zipRecv o) st 0 ∧ OnlyFlights s t
      (¬ agrees → ends stPolicy) ∧
      (agrees → planOk s p (tileIx o.ownTile) (tileUnits w) d.tiles 1 = true →
        ∀ key e, chainKey s p d.spaceId = some key → linkKey s p key = some e →
          (e.torn = true → ends stTorn) ∧
          (e.torn = false → keySends s p key = true → e.dying = false →
            (o.deadline ≠ 0 → o.deadline ≤ now s → ends stLate) ∧
            ((o.deadline = 0 ∨ now s < o.deadline) →
              let c := if fwd then takeCredits (takenUp s h (.zipRecv o)) p d.digest else (takenUp s h (.zipRecv o), (0, 0, 0))
              let rx : ZipRx :=
                { digest := d.digest, prevDst := d.members.getD (j - 1) 0, keyId := key, width := w,
                  mode := modeOf d.mode, modulus := d.modulus, received := 0, buffer := [], combined := 0, mark := false, model := false,
                  tiles := d.tiles, tail := decide (d.count ≤ j + 1) }
              let tx : ZipTx :=
                { digest := d.digest, nextDst := d.members.getD (j + 1) 0, keyId := key, width := w,
                  firstTile := tileIx o.dstTile, tiles := d.tiles, sentBytes := 0, credits := c.2.2.1, depth := c.2.1, gen := c.2.2.2 }
              let u := modPart c.1 p (fun x => { x with chains := if x.chains.contains d.digest then x.chains else x.chains ++ [d.digest] })
              let sent := sendSealed u p key
                { ptype := 17, gen := h.gen, dst := rx.prevDst, body := d.digest, payload := natLe 4 o.landingDepth ++ zeros 12 }
              (sent = none → ends stPolicy) ∧
              (∀ v, sent = some v → ∃ t, Answers (.zipRecv h o) s t ∧ Flies s t h (.zipRecv o) (.zipRecv rx (if fwd then some tx else none)) [] ∧
                StoreKept s t ∧ t.shawl = v.shawl ∧ t.out = v.out ∧ t.regs = s.regs ∧ d.digest ∈ (part t p).chains)))))) ∧
  ((∀ (s u : State) (a : Arrival) (stamp : Instant) (pl : Bytes) (key : Option Nat), FlightsOrdered u →
    let p := addrPart a.pkt.dst
    let n := field pl 0 4
    let leaves := fun (v : State) => Answers (.zipCreditReceive a) s (packetUsed (releaseCells v key a.pkt) a.pkt)
    (arrivalVerdict s a 17 = .gone u → Answers (.zipCreditReceive a) s u) ∧
    (arrivalVerdict s a 17 = .here u stamp pl key →
      (senderOf u p a.pkt.body = none → (∀ c ∈ (part u p).zipCredits, c.1 ≠ a.pkt.body) →
        leaves (modPart u p (fun y => { y with zipCredits := y.zipCredits ++ [(a.pkt.body, n, n, a.pkt.gen)] }))) ∧
      (senderOf u p a.pkt.body = none → (∃ c ∈ (part u p).zipCredits, c.1 = a.pkt.body) →
        leaves (modPart u p (fun y => { y with zipCredits := y.zipCredits.map (fun e =>
          if e.1 = a.pkt.body then (e.1, e.2.1, e.2.2.1 + n, a.pkt.gen) else e) }))) ∧
      (∀ f x, senderOf u p a.pkt.body = some (f, x) →
        let y : ZipTx := { x with credits := x.credits + n, depth := if x.depth = 0 then n else x.depth, gen := a.pkt.gen }
        (a.pkt.src ≠ x.nextDst → leaves u) ∧
        (a.pkt.src = x.nextDst → ∀ o r q, f.body = .zipRecv o → f.phase = .zipRecv r q → leaves (settleZipRecv u f.id f o r (some y))) ∧
        (a.pkt.src = x.nextDst → ∀ o, f.body = .zipSend o → leaves (runZipSend u f.id f y) ∧
          (0 < x.width → 0 < x.tiles → x.credits = 0 → x.depth = 0 → x.sentBytes = 0 → x.tiles ≤ n →
            ∀ e, linkKey u p x.keyId = some e → e.torn = false →
            let m := (x.tiles * tileBytes x.width + 4079) / 4080
            e.ctr + m ≤ 2 ^ 48 - 1 →
            ∃ (v : State) (g : InFlight) (k : LinkKey), leaves v ∧ flight v f.id = some g ∧ g.done = none ∧
              g.phase = .zipSend { y with sentBytes := x.tiles * tileBytes x.width } ∧
              linkKey v p x.keyId = some k ∧ k.ctr = e.ctr + m ∧ v.lining = u.lining ∧ v.dram = u.dram ∧ v.tiles = u.tiles) ∧
          (0 < x.width → 0 < x.tiles → x.depth ≠ 0 → x.sentBytes = x.tiles * tileBytes x.width → x.depth + x.tiles ≤ x.credits + n →
            ∃ (v : State) (g : InFlight), leaves v ∧ flight v f.id = some g ∧
              g.done = some { status := precedence none f.saturated f.replays, result := resultWord x.tiles f.replays 0, faultRef := 0,
                              ft := now u } ∧
              v.tiles = (markPartial u p x.firstTile (tileUnits x.width) x.tiles x.digest).tiles ∧ v.lining = u.lining ∧
              v.dram = u.dram ∧ v.regs = u.regs))))) ∧
  (∀ (s u : State) (a : Arrival) (stamp : Instant) (pl : Bytes) (key : Option Nat),
    let p := addrPart a.pkt.dst
    let leaves := fun (v : State) => Answers (.zipReplyReceive a) s (packetUsed (releaseCells v key a.pkt) a.pkt)
    (arrivalVerdict s a 18 = .gone u → Answers (.zipReplyReceive a) s u) ∧
    (arrivalVerdict s a 18 = .here u stamp pl key →
      (senderOf u p a.pkt.body = none → leaves u) ∧
      (∀ f x, senderOf u p a.pkt.body = some (f, x) →
        (a.pkt.gen = x.gen → a.pkt.src = x.nextDst → leaves (finish u f.id (field pl 0 1) (zipResult f))) ∧
        (a.pkt.gen = x.gen → a.pkt.src ≠ x.nextDst → leaves u) ∧
        (a.pkt.gen ≠ x.gen → leaves { u with faults := { u.faults with stale := satAdd u.faults.stale 1 } })))) ∧
  (∀ (s : State) (p : Fin 16) (d : Nat), FlightsOrdered s → earliest ((flying s p.val).filterMap zipDeadline) = some d →
    ∃ t, Answers (.zipperDeadlineExpiry p) s t ∧ Reached s t d ∧
      (∀ f ∈ flying s p.val, zipDeadline f = some d → ∃ g, flight t f.id = some g ∧
        g.done = some { status := stLate, result := zipResult f, faultRef := 0, ft := now t }) ∧
      (∀ f ∈ s.inflight, (f.h.p ≠ p ∨ zipDeadline f ≠ some d) → flight t f.id = some f) ∧
      (∀ q k w, windowOf (part s q) k = some w → (w.mode ≠ .opened ∨ w.closes ≠ d ∨ 16 ≤ q) → windowOf (part t q) k = some w) ∧
      t = { s with inflight := t.inflight, time := t.time, parts := t.parts }) ∧
  (∀ (s : State) (p : Fin 16), (flying s p.val).filterMap zipDeadline = [] → Answers (.zipperDeadlineExpiry p) s s))

/-- A ZIP_TILE in its place before the deadline joins its tile; the last piece of a tile lands it and gives an engine its sum
with the member's own partial. One of an earlier generation is dropped and counted; without a receiver, from another sender or
after the deadline it draws its reply; out of its place it does nothing. What waited for the partition then goes on. Where the
spec leaves a point open it takes the choice of log entries 15, 40, 94. -/
def Obligations.ChainTilesAreCombined : Prop :=
  ∀ (s u : State) (a : Arrival) (stamp : Instant) (pl : Bytes) (key : Option Nat), FlightsOrdered u →
    let p := addrPart a.pkt.dst
    let leaves := fun (v : State) => Answers (.zipTileReceive a) s (packetUsed (releaseCells v key a.pkt) a.pkt)
    (arrivalVerdict s a 16 = .gone u → Answers (.zipTileReceive a) s u) ∧
    (arrivalVerdict s a 16 = .here u stamp pl key →
      (a.pkt.gen ≠ (part u p).gen → leaves { u with faults := { u.faults with stale := satAdd u.faults.stale 1 } }) ∧
      (a.pkt.gen = (part u p).gen → receiverOf u p a.pkt.body = none →
        leaves (zipReply u a.pkt (if a.pkt.body ∈ (part u p).chains then stLate else if otherChain u p a.pkt.src then stPolicy else stLate))) ∧
      (∀ f o r x, a.pkt.gen = (part u p).gen → receiverOf u p a.pkt.body = some (f, o, r, x) →
        let data := pl.drop 16
        let flags := field pl 8 1
        let tb := tileBytes r.width
        let b := r.buffer ++ data
        let timely := o.deadline = 0 ∨ stamp.ns < o.deadline
        let placed := field pl 0 8 = r.received ∧ r.received + data.length ≤ r.tiles * tb ∧ flags < 4
        (¬ timely → leaves (zipReply u a.pkt stLate)) ∧
        (timely → a.pkt.src ≠ r.prevDst → leaves (zipReply u a.pkt stPolicy)) ∧
        (timely → a.pkt.src = r.prevDst → ¬ placed → leaves u) ∧
        (timely → a.pkt.src = r.prevDst → placed →
          let mark := r.mark || flags.testBit 0
          let model := r.model || flags.testBit 1
          (b.length < tb →
            leaves (waitIn u f.id (.zipRecv { r with received := r.received + data.length, buffer := b, mark := mark, model := model } x))) ∧
          (tb ≤ b.length → b.length < 2 * tb →
            let i := (r.received + data.length - b.length) / tb
            let sum := addTiles r.mode r.width r.modulus (tileInts r.mode r.width (elems (r.width / 8) (b.take tb)), false)
              (tileInts r.mode r.width (readTile u p (tileIx o.ownTile + i * tileUnits r.width) r.width), false)
            let land := pocketAddr (tileIx o.landingTile + i % o.landingDepth * tileUnits r.width)
            ∃ (v : State) (g : InFlight) (k : TileJob), leaves v ∧ flight v f.id = some g ∧
              g.jobs = f.jobs ++ [k] ∧ k.addr = pocketAddr (tileIx o.dstTile + i * tileUnits r.width) ∧
              k.bytes = intBytes r.width sum.1 ∧ k.item = i ∧
              g.phase = .zipRecv { r with received := r.received + data.length, buffer := b.drop tb,
                                          mark := !(b.drop tb).isEmpty && mark, model := !(b.drop tb).isEmpty && model } x ∧
              v.lining = (pwrite u p land (b.take tb)).lining ∧ v.dram = u.dram ∧ v.regs = u.regs))))

/-! Remote memory -/

/-- RMA_WRITE, RMA_READ and RMA_ADD: a queue pair in ERROR completes them with its status, a domain without the right or a dying
link key POLICY_DENIED, a slot that is not LIVE or whose T_r has come REVOKED; a qpn beyond the table POLICY_DENIED, and one not
at hand waits for its context, whose record is read while the partition's share of fetches has room. Admitted, the queue pair
sends what its window lets it send; a message of an idle queue pair sends its packets with consecutive psns and counters, and
waits for their answers. Where the spec leaves a point open it takes the choice of log entries 20, 50, 51, 103. -/
def Obligations.RemoteMessagesAreSent : Prop :=
  ∀ (s : State) (h : DescHdr) (o : RmaOps) (b : DescBody) (c : Instr) (right cap : Nat),
    ((b = .rmaWrite o ∧ c = .rmaWrite h o ∧ right = 0 ∧ cap = 4096) ∨ (b = .rmaRead o ∧ c = .rmaRead h o ∧ right = 1 ∧ cap = 32) ∨
      (b = .rmaAdd o ∧ c = .rmaAdd h o ∧ right = 2 ∧ cap = 4096)) →
    FlightsOrdered s → Dispatches s h b →
    let p := h.p.val
    let ends := fun st => ∃ t, Answers c s t ∧ Ends s t h b st 0 ∧ OnlyFlights s t
    (qpOf s p o.qpn = none → regField s (.rmaCtLimit p) 23 0 < o.qpn → ends stPolicy) ∧
    (qpOf s p o.qpn = none → o.qpn ≤ regField s (.rmaCtLimit p) 23 0 →
      let asked := ∃ m ∈ (part s p).misses, m.qpn = o.qpn
      let room := (part s p).misses.length < regField s (.rmaMissCfg p) 6 0
      ((asked ∨ ¬ room) → ∃ t, Answers c s t ∧ Flies s t h b .keyWait [] ∧ OnlyFlights s t) ∧
      (¬ asked → room → ∃ t, Answers c s t ∧ Flies s t h b .keyWait [] ∧ StoreKept s t ∧ OthersKept s t p ∧ t.regs = s.regs ∧
        t.out = s.out ++ [.contextRead p (recordAddr s p o.qpn)] ∧
        (part t p).misses = (part s p).misses ++ [{ qpn := o.qpn, stamp := instant s, held := [] }])) ∧
    (∀ q, qpOf s p o.qpn = some q →
      let slot := slotState s p (pdSlot s p q.pd)
      let revoked := slot.mode ≠ .live ∨ ∃ r, slot.tR = some r ∧ r ≤ now s
      (q.ready = false → ends q.errStatus) ∧
      (q.ready = true → pdRight s p q.pd right = false ∨ keyDying s p (qpKey s p q) = true → ends stPolicy) ∧
      (q.ready = true → pdRight s p q.pd right = true → keyDying s p (qpKey s p q) = false →
        (revoked → ends stRevoked) ∧
        (¬ revoked → Answers c s (pumpQp p o.qpn pumpSteps (waitIn (takenUp s h b) s.nextId (.rma o.qpn 0))) ∧
          (∀ e, qpFlights s p o.qpn = [] → q.sent = [] → q.txPsn < 2 ^ 32 →
            linkKey s p (qpKey s p q) = some e → e.torn = false → e.ctr + cap ≤ 2 ^ 48 - 1 →
            ∃ (t : State) (f : InFlight) (r : Qp), Answers c s t ∧ flight t s.nextId = some f ∧ f.h = h ∧ f.body = b ∧ f.done = none ∧
              f.phase = .rma o.qpn 0 ∧ f.committed = min cap (rmaPackets s f o) ∧ qpOf t p o.qpn = some r ∧
              r.txPsn = (q.txPsn + f.committed) % 2 ^ 32 ∧ r.sent.length = f.committed ∧ StoreKept s t ∧ OthersKept s t p ∧ t.regs = s.regs ∧
              (∀ k y, r.sent[k]? = some y → y.psn = (q.txPsn + k) % 2 ^ 32 ∧ y.desc = s.nextId ∧ y.left = leftAtOnce s y.pkt ∧
                y.off = k * rmaChunk s f ∧ y.bytes = min (rmaChunk s f) (o.len - k * rmaChunk s f) ∧
                y.pkt = (sealPacket s p { e with ctr := e.ctr + k }
                  (rmaDraft s f { q with txPsn := (q.txPsn + k) % 2 ^ 32 } o k).1).2)))))

/-- A request packet. Behind a RETRY_LATER only the psn it named counts. Without its context it is held by a pending fetch,
refused beyond the table, or asks for the record. From another peer it is refused and the queue pair goes to ERROR; in ERROR a
message's first packet draws the status; ahead of its turn it draws one sequence reply, and one that ended the last message its
status again; in turn, admitted by its space, export, right and tile, a WRITE stores its data, an ADD the sums of its tile, a
READ is answered with the bytes it names, and the queue pair expects the next psn; a WRITE or ADD whose tiles are in use waits
with its cells. What waited for the partition then goes on. Where the spec leaves a point open it takes the choice of log
entries 21, 22, 49, 50, 102. -/
def Obligations.RemoteRequestsAreServed : Prop :=
  ∀ (s u : State) (a : Arrival) (stamp : Instant) (pl : Bytes) (key : Option Nat) (c : Instr) (ty : Nat),
    ((c = .rmaWritePacket a ∧ ty = 8) ∨ (c = .rmaReadReqPacket a ∧ ty = 9) ∨ (c = .rmaAddPacket a ∧ ty = 11)) →
    let p := addrPart a.pkt.dst
    let k := { a.pkt with payload := pl }
    let l : HeldPacket := { queue := key, stamp := stamp, pkt := k }
    let x := part u p
    let n := packetQpn k
    let psn := packetPsn k
    let leaves := fun v => Answers c s (packetUsed v a.pkt)
    let freed := fun v => leaves (releaseCells v key k)
    (arrivalVerdict s a ty = .gone u → Answers c s u) ∧
    (arrivalVerdict s a ty = .here u stamp pl key →
      (∀ e, x.retry.find? (fun e => e.1 == n) = some e → psn ≠ e.2 → psnFrom psn e.2 = true → freed u) ∧
      ((∀ e ∈ x.retry, e.1 ≠ n) →
        (qpOf u p n = none →
          let asked := ∃ m ∈ x.misses, m.qpn = n
          let room := heldCount x < regField u (.rmaMissCfg p) 27 16
          (asked → room → leaves (modPart u p (fun y => { y with misses := y.misses.map (fun m =>
            if m.qpn = n then { m with held := m.held ++ [l] } else m) }))) ∧
          (¬ (asked ∧ room) → regField u (.rmaCtLimit p) 23 0 < n → freed (blindReply u k stPolicy 0 psn)) ∧
          (¬ asked → regField u (.rmaCtLimit p) 23 0 ≥ n → room → missRoom u p = true → leaves (fetchContext u p n stamp [l])) ∧
          (¬ asked → regField u (.rmaCtLimit p) 23 0 ≥ n → ¬ (room ∧ missRoom u p = true) →
            freed (blindReply (modPart u p (fun y => { y with retry := y.retry ++ [(n, psn)] })) k stRetry (missHint u x) psn)) ∧
          (asked → ¬ room → regField u (.rmaCtLimit p) 23 0 ≥ n → leaves (refuseMiss u p l (missHint u x)))) ∧
        (∀ q, qpOf u p n = some q →
          (k.src ≠ q.peer → freed (refuseRequest u p q k stPolicy)) ∧
          (k.src = q.peer → q.ready = false → freed (if k.first then rmaReply u k q.peerQpn q.errStatus 0 psn else u)) ∧
          (k.src = q.peer → q.ready = true → psn ≠ q.rxPsn → psnFrom psn q.rxPsn = true →
            freed (if q.seqSent then u else
              rmaReply (modQp u p q.qpn (fun c => { c with seqSent := true })) k q.peerQpn 0x80 0 q.rxPsn)) ∧
          (k.src = q.peer → q.ready = true → psn ≠ q.rxPsn → psnFrom psn q.rxPsn = false →
            freed (if psn = q.lastEndPsn then rmaReply u k q.peerQpn q.lastStatus 0 psn else u)) ∧
          (k.src = q.peer → q.ready = true → psn = q.rxPsn → k.first = true → spaceAdmits u p q stamp = false →
            freed (refuseRequest u p q k stRevoked)) ∧
          (k.src = q.peer → q.ready = true → psn = q.rxPsn → (k.first = true → spaceAdmits u p q stamp = true) →
            (requestAddr u p q k = none → freed (refuseRequest u p q k stAccess)) ∧
            (∀ at_, requestAddr u p q k = some at_ →
              let fits := pdRight u p q.pd (packetRight k) = true ∧ addrFits x at_ (packetRange k).1 1 = true ∧
                landingReserved u p at_ (packetRange k).1 = false
              let blocked := landingBlocked u p at_ (packetRange k).1 x.landings = true ∨ ∃ y ∈ x.landings, packetQpn y.pkt = q.qpn
              let u1 := modQp u p q.qpn (fun y => { y with rxPsn := psnNext y.rxPsn, seqSent := false, msg := some stamp })
              let data := (packetRange k).2
              let served := fun (v : State) => ∃ r, qpOf v p n = some r ∧ r.rxPsn = psnNext q.rxPsn ∧ r.seqSent = false ∧
                r.msg = (if k.last then none else some stamp) ∧ v.inflight = u.inflight ∧ v.regs = u.regs
              (¬ fits → freed (refuseRequest u p q k stAccess)) ∧
              (fits → addAdmitted u p at_ k = false → freed (refuseRequest u p q k stPolicy)) ∧
              (fits → k.ptype = 9 → freed (answerRead u1 p at_ q k)) ∧
              (fits → k.ptype ≠ 9 → addAdmitted u p at_ k = true → blocked →
                leaves (modPart u1 p (fun y => { y with landings := y.landings ++ [{ l with addr := at_ }] }))) ∧
              (fits → k.ptype = 8 → ¬ blocked → ∃ v, leaves v ∧ served v ∧ v.lining = (pwrite u p at_ data).lining ∧
                v.dram = (pwrite u p at_ data).dram) ∧
              (fits → k.ptype = 11 → ¬ blocked → pl.length % (2 * 2 ^ (field k.body 11 1 % 4)) = 0 →
                ∀ w m, addTarget u p at_ pl.length (field k.body 11 1) = some (w, m) → ∃ v, leaves v ∧ served v ∧
                  v.lining = (pwrite u p at_ (addedBytes m (pread u p at_ pl.length) pl)).lining ∧
                  v.dram = (pwrite u p at_ (addedBytes m (pread u p at_ pl.length) pl)).dram))))))

/-- Answers at the requester. A response in time lands its data at the place of its request, whose entry leaves, and credits its
bytes; with the last byte the message completes OK. A reply OK credits the packets it acknowledges; a sequence reply sends the
packets from its psn on again; RETRY_LATER ends the messages from its psn on and the psn is next; another status ends its
message and all later ones and puts the queue pair in ERROR; then the queue pair sends what its window lets it. One of another
generation is counted and has no effect. A response timer that runs out ends the queue pair's messages LATE; a target's message
gap abandons the message. Where the spec leaves a point open it takes the choice of log entries 49, 51, 31. -/
def Obligations.RemoteAnswersAreTaken : Prop :=
  (∀ (s u : State) (a : Arrival) (stamp : Instant) (pl : Bytes) (key : Option Nat) (c : Instr) (ty : Nat),
    ((c = .rmaReadRespPacket a ∧ ty = 10) ∨ (c = .rmaReplyPacket a ∧ ty = 12)) →
    let p := addrPart a.pkt.dst
    let n := if ty = 10 then field a.pkt.body 8 3 else field a.pkt.body 4 3
    let leaves := fun v => Answers c s (packetUsed (releaseCells v key a.pkt) a.pkt)
    let goesOn := fun v => leaves (pumpQp p n pumpSteps v)
    (arrivalVerdict s a ty = .gone u → Answers c s u) ∧
    (arrivalVerdict s a ty = .here u stamp pl key →
      (a.pkt.gen ≠ (part u p).gen → leaves { u with faults := { u.faults with stale := satAdd u.faults.stale 1 } }) ∧
      (a.pkt.gen = (part u p).gen → qpOf u p n = none → leaves u) ∧
      (∀ q, a.pkt.gen = (part u p).gen → qpOf u p n = some q →
        let timely := a.pkt.src = q.peer ∧ replyLate u p q stamp = false
        (¬ timely → leaves u) ∧
        (timely → ty = 10 →
          let psn := field a.pkt.body 12 4
          let aux := field a.pkt.body 11 1
          let data := if aux.testBit 4 then pl.drop 64 else pl
          ((∀ e ∈ q.sent, e.psn = psn → e.pkt.ptype = 9 → (flight u e.desc).bind (fun f => rmaOps f.body) = none) → leaves u) ∧
          (∀ e f o, q.sent.find? (fun e => e.psn == psn && e.pkt.ptype == 9) = some e → flight u e.desc = some f → rmaOps f.body = some o →
            (data.length ≠ e.bytes → leaves u) ∧
            (data.length = e.bytes → ∃ v, goesOn (creditBytes v e.desc e.bytes) ∧
              v.lining = (pwrite u p (o.loc + e.off) data).lining ∧ v.dram = (pwrite u p (o.loc + e.off) data).dram ∧
              v.inflight = u.inflight ∧ v.regs = u.regs ∧
              qpOf v p n = some { q with sent := q.sent.filter (fun y => y.psn != psn),
                                         unaPsn := if q.unaPsn = psn then psnNext psn else q.unaPsn } ∧
              (∀ m acked, f.phase = .rma m acked → ∃ g, flight (creditBytes v e.desc e.bytes) e.desc = some g ∧
                (acked + e.bytes < o.len → g = { f with phase := .rma m (acked + e.bytes) }) ∧
                (o.len ≤ acked + e.bytes → g.done = some { status := stOk, result := acked + e.bytes, faultRef := 0, ft := now u }))))) ∧
        (timely → ty = 12 →
          let st := field a.pkt.body 0 1
          let hint := field a.pkt.body 2 2
          let psn := field a.pkt.body 8 4
          let later := fun (f : InFlight) => ∃ g ∈ qpFlights u p n, g.id ≤ f.id ∧ ∃ e ∈ q.sent, e.desc = g.id ∧ psnFrom e.psn psn = true
          (st = 0 → FlightsOrdered u → ∃ v, goesOn v ∧ StoreKept u v ∧ v.regs = u.regs ∧
            qpOf v p n = some { q with sent := q.sent.filter (fun e => e.pkt.ptype == 9 || !psnFrom psn e.psn),
                                       unaPsn := if psnFrom psn q.unaPsn then psnNext psn else q.unaPsn } ∧
            (∀ f ∈ qpFlights u p n, ∀ o m acked, rmaOps f.body = some o → f.phase = .rma m acked →
              let bytes := ((q.sent.filter (fun e => e.pkt.ptype != 9 && psnFrom psn e.psn && e.desc == f.id)).map (fun e => e.bytes)).sum
              (acked + bytes < o.len → flight v f.id = some { f with phase := .rma m (acked + bytes) }) ∧
              (acked < o.len → acked + bytes = o.len → ∃ g, flight v f.id = some g ∧
                g.done = some { status := stOk, result := o.len, faultRef := 0, ft := now u }))) ∧
          (st = 0x80 → goesOn (resendFrom u p n psn)) ∧
          (st = stRetry → FlightsOrdered u → ∃ v, goesOn v ∧ StoreKept u v ∧ v.regs = u.regs ∧
            qpOf v p n = some { q with txPsn := psn, sent := q.sent.filter (fun e => !psnFrom e.psn psn) } ∧
            (∀ f ∈ flightsFrom u p n psn q, ∃ g, flight v f.id = some g ∧
              g.done = some { status := stRetry, result := rmaResult f hint, faultRef := 0, ft := now u })) ∧
          (st ≠ 0 → st ≠ 0x80 → st ≠ stRetry → FlightsOrdered u → ∃ v r, goesOn v ∧ StoreKept u v ∧ v.regs = u.regs ∧
            qpOf v p n = some r ∧ r.ready = false ∧ r.errStatus = st ∧
            (∀ f ∈ qpFlights u p n, later f → ∃ g, flight v f.id = some g ∧
              g.done = some { status := st, result := rmaResult f 0, faultRef := 0, ft := now u })))))) ∧
  (∀ (s : State) (p : Fin 16) (n : Nat) (q : Qp), qpOf s p.val n = some q → FlightsOrdered s →
    (∀ d, qpDeadline s p.val q = some d → ∃ (t : State) (r : Qp), Answers (.rmaResponseTimeout p n) s t ∧ Reached s t d ∧
      qpOf t p.val n = some r ∧ r = { q with ready := false, errStatus := stLate, sent := [] } ∧
      (∀ f ∈ qpFlights s p.val n, ∃ g, flight t f.id = some g ∧
        g.done = some { status := stLate, result := rmaResult f 0, faultRef := 0, ft := now t }) ∧
      OthersKept s t p.val ∧ t = { s with inflight := t.inflight, parts := t.parts, time := t.time }) ∧
    (qpDeadline s p.val q = none → Answers (.rmaResponseTimeout p n) s s) ∧
    (q.msg = none → Answers (.rmaTargetGapTimeout p n) s s) ∧
    (∀ m : Instant, q.msg = some m → ∃ t, Answers (.rmaTargetGapTimeout p n) s t ∧
      qpOf t p.val n = some { q with msg := none } ∧ Reached s t (m.ns + 1000 * q.timeoutUs) ∧
      OthersKept s t p.val ∧ t = { s with parts := t.parts, time := t.time })) ∧
  (∀ (s : State) (p : Fin 16) (n : Nat), qpOf s p.val n = none →
    Answers (.rmaResponseTimeout p n) s s ∧ Answers (.rmaTargetGapTimeout p n) s s)

/-- Contexts and queue pairs. A record that opens enters the cache, in ERROR where its queue pair has gone there since, the
least recently used unlocked one leaving when the region is full; its fetch is over and its packets are taken; one that does not
open names no queue pair, and what waits for it ends POLICY_DENIED. A fetch whose packets have waited 5 us answers the first
RETRY_LATER and remembers its psn. Create makes a READY queue pair of its arguments, re-initialise brings one in ERROR back to
READY, destroy removes one; each writes its result. Where the spec leaves a point open it takes the choice of log entries 20,
21, 49, 51. -/
def Obligations.QueuePairsAreKept : Prop :=
  ∀ (s : State) (p : Fin 16) (n : Nat), FlightsOrdered s →
    let x := part s p.val
    (∀ record, missOf x n = none → Answers (.contextFetchComplete p n record) s s ∧ Answers (.contextFetchTimeout p n) s s) ∧
    (∀ record m, missOf x n = some m → (∀ l rest, m.held = l :: rest → now s < l.stamp.ns + 5000) →
      let misses := x.misses.filter (fun m => m.qpn != n)
      let goesOn := fun (v : State) found => Answers (.contextFetchComplete p n record) s (fetchWaiting (wakeRma v p.val n found) p.val)
      (∀ q, contextOf x n record = some q →
        let r := fetchedQp x q
        let arrives := fun (w : State) (qps : List Qp) (out : List Output) => goesOn (m.held.foldl receiveRequest w) true ∧
          (part w p.val).qps = r :: qps ∧ (part w p.val).misses = misses ∧ w.out = s.out ++ out ∧ OthersKept s w p.val ∧
          w = { s with parts := w.parts, out := w.out }
        (x.qps.length < cacheSize s p.val → ∃ w, arrives w x.qps []) ∧
        (∀ v, cacheSize s p.val ≤ x.qps.length → x.qps.reverse.find? (fun y => !qpLocked s p.val y) = some v →
          ∃ w, arrives w (x.qps.filter (fun y => y.qpn != v.qpn)) [.cclWrite (recordAddr s p.val v.qpn)
            (contextHead x.evictCount v.qpn ++
              (gcmSeal x.contextKey (contextNonce x.evictCount v.qpn) (contextHead x.evictCount v.qpn) (contextPlain v)).1 ++
              (gcmSeal x.contextKey (contextNonce x.evictCount v.qpn) (contextHead x.evictCount v.qpn) (contextPlain v)).2)]) ∧
        (cacheSize s p.val ≤ x.qps.length → (∀ y ∈ x.qps, qpLocked s p.val y = true) → Answers (.contextFetchComplete p n record) s s)) ∧
      (contextOf x n record = none →
        goesOn (m.held.foldl (fun t l => releaseCells (blindReply t l.pkt stPolicy 0 (packetPsn l.pkt)) l.queue l.pkt)
          (modPart s p.val (fun y => { y with misses := misses }))) false ∧
        ∃ t, Answers (.contextFetchComplete p n record) s t ∧
          (∀ f ∈ qpFlights s p.val n, f.phase = .keyWait → ∃ g, flight t f.id = some g ∧
            g.done = some { status := stPolicy, result := 0, faultRef := 0, ft := now s }))) ∧
    (∀ m, missOf x n = some m → m.held = [] → Answers (.contextFetchTimeout p n) s s) ∧
    (∀ m l rest, missOf x n = some m → m.held = l :: rest →
      (∃ w, Answers (.contextFetchTimeout p n) s ((l :: rest).foldl (fun t y => releaseCells t y.queue y.pkt)
          (blindReply w l.pkt stRetry 1 (packetPsn l.pkt))) ∧ Reached s w (l.stamp.ns + 5000) ∧
        (part w p.val).misses = x.misses.map (fun y => if y.qpn = n then { y with held := [] } else y) ∧
        (part w p.val).retry = x.retry.filter (fun e => e.1 != n) ++ [(n, packetPsn l.pkt)] ∧ OthersKept s w p.val ∧
        w = { s with parts := w.parts, time := w.time }) ∧
      (l.stamp.ns + 5000 ≤ now s → ∀ record w, Answers (.contextFetchTimeout p n) s w →
        exec (.contextFetchComplete p n record) s = exec (.contextFetchComplete p n record) w)) ∧
    (logRuns s = false → Answers (.qpCreate p n) s s ∧ Answers (.qpReinitialise p n) s s ∧ Answers (.qpDestroy p n) s s) ∧
    (logRuns s = true → x.mode.exists = false → Answers (.qpCreate p n) s (refuseAccess s) ∧
      Answers (.qpReinitialise p n) s (refuseAccess s) ∧ Answers (.qpDestroy p n) s (refuseAccess s)) ∧
    (logRuns s = true → x.mode.exists = true →
      let m := n % 2 ^ 24
      let last := regField s (.rmaCtLimit p.val) 23 0
      let pd := regField s (.rmaQpArg0 p.val) 43 40
      let us := regField s (.rmaQpArg0 p.val) 63 48
      let result := fun (r : Nat) => setReg s (.rmaQpCmd p.val) (r * 2 ^ 28)
      let only := fun (t : State) => t.regs = (result 0).regs ∧ OthersKept s t p.val ∧
        t = { s with parts := t.parts, regs := t.regs, out := t.out }
      (last < m → Answers (.qpCreate p n) s (result 3) ∧ Answers (.qpReinitialise p n) s (result 3)) ∧
      (knownQp x m = none → Answers (.qpDestroy p n) s (result (if last < m then 3 else 4))) ∧
      (m ≤ last →
        (knownQp x m = none → Answers (.qpReinitialise p n) s (result 4)) ∧
        ((knownQp x m).isSome = true → Answers (.qpCreate p n) s (result 1)) ∧
        (knownQp x m = none → regField s (.rmaPdCtrl p.val pd) 7 7 = 0 → Answers (.qpCreate p n) s (result 2)) ∧
        (knownQp x m = none → regField s (.rmaPdCtrl p.val pd) 7 7 ≠ 0 →
          ∃ t q, Answers (.qpCreate p n) s t ∧ knownQp (part t p.val) m = some q ∧ q.ready = true ∧ q.pd = pd ∧
            q.spaceId = reg s (.spId p.val (pdSlot s p.val pd)) ∧ q.peer = regField s (.rmaQpArg0 p.val) 15 0 ∧
            q.peerQpn = regField s (.rmaQpArg0 p.val) 39 16 ∧ q.timeoutUs = (if us = 0 then 20 else us) ∧
            q.txPsn = regField s (.rmaQpArg1 p.val) 31 0 ∧ q.rxPsn = regField s (.rmaQpArg1 p.val) 63 32 ∧ q.sent = [] ∧ only t ∧
            (x.qps.length < cacheSize s p.val → (part t p.val).qps = q :: x.qps ∧ t.out = s.out)) ∧
        (∀ q, knownQp x m = some q → regField s (.rmaPdCtrl p.val q.pd) 7 7 = 0 → Answers (.qpReinitialise p n) s (result 2)) ∧
        (∀ q, knownQp x m = some q → regField s (.rmaPdCtrl p.val q.pd) 7 7 ≠ 0 → q.ready = true →
          Answers (.qpReinitialise p n) s (result 0)) ∧
        (∀ q, knownQp x m = some q → regField s (.rmaPdCtrl p.val q.pd) 7 7 ≠ 0 → q.ready = false →
          ∃ t r, Answers (.qpReinitialise p n) s t ∧ knownQp (part t p.val) m = some r ∧ r.ready = true ∧ r.errStatus = 0 ∧ r.pd = q.pd ∧
            r.peer = q.peer ∧ r.txPsn = regField s (.rmaQpArg1 p.val) 31 0 ∧ r.rxPsn = regField s (.rmaQpArg1 p.val) 63 32 ∧
            r.sent = [] ∧ only t)) ∧
      (∀ q, knownQp x m = some q →
        ∃ t, Answers (.qpDestroy p n) s t ∧ knownQp (part t p.val) m = none ∧
          t.out = s.out ++ [.cclWrite (recordAddr s p.val m) (zeros 128)] ∧ t.regs = (result 0).regs ∧
          (∀ f ∈ qpFlights s p.val m, ∃ g, flight t f.id = some g ∧
            g.done = some { status := stPolicy, result := rmaResult f 0, faultRef := 0, ft := now s }) ∧ OthersKept s t p.val ∧
          t = { s with inflight := t.inflight, parts := t.parts, out := t.out, regs := t.regs }))

/-- Domains and spaces. Binding needs the slot's key and a LIVE slot; otherwise it is logged and the domain is unbound, whose
queue pairs go to ERROR POLICY_DENIED. A FREE slot with a link key becomes LIVE; revoke stamps a LIVE one REVOKING; with its
messages ended it is REVOKED and its queue pairs go to ERROR; release frees it and clears its exports; in another state the slot
stays. Where the spec leaves a point open it takes the choice of log entry 52. -/
def Obligations.SpacesAndDomainsFollowTheirCommands : Prop :=
  ∀ (s : State) (p : Fin 16),
    (logRuns s = false → ∀ (pd : Fin 16) (k : Fin 4) (v : Word), Answers (.pdBind p pd v) s s ∧ Answers (.spaceEnable p k v) s s ∧
      Answers (.spaceRevoke p k) s s ∧ Answers (.spaceRelease p k) s s) ∧
    (logRuns s = true → ∀ (pd : Fin 16) (v : Word),
      let slot := bitsOf v.toNat 3 2
      let fields := bitsOf v.toNat 0 5
      let bound := regField s (.rmaPdCtrl p.val pd.val) 7 7 = 1
      let good := reg s (.rmaPdKey p.val pd.val) = reg s (.spKey p.val slot) ∧ (slotState s p.val slot).mode = .live
      let unbound := fun (t : State) => ∀ m q, qpOf s p.val m = some q → q.pd = pd.val → q.ready = true →
        ∃ r, qpOf t p.val m = some r ∧ r.ready = false ∧ r.errStatus = stPolicy
      (v.toNat.testBit 7 = true → good → Answers (.pdBind p pd v) s (setReg s (.rmaPdCtrl p.val pd.val) (128 + fields))) ∧
      (v.toNat.testBit 7 = true → ¬ good → ∃ t, Answers (.pdBind p pd v) s t ∧ Logged t 7 0x61 ∧
        regField t (.rmaPdCtrl p.val pd.val) 7 7 = 0 ∧ StoreKept s t ∧ (bound → unbound t)) ∧
      (v.toNat.testBit 7 = false → ¬ bound → Answers (.pdBind p pd v) s (setReg s (.rmaPdCtrl p.val pd.val) fields)) ∧
      (v.toNat.testBit 7 = false → bound → ∃ t, Answers (.pdBind p pd v) s t ∧
        t.regs = (setReg s (.rmaPdCtrl p.val pd.val) fields).regs ∧ unbound t ∧
        OthersKept s t p.val ∧ t = { s with inflight := t.inflight, parts := t.parts, regs := t.regs })) ∧
    (logRuns s = true → ∀ (k : Fin 4) (v : Word),
      let key := linkKey s p.val (bitsOf v.toNat 0 16)
      let starts := v.toNat.testBit 16 = true ∧ (slotState s p.val k.val).mode = .free ∧ key.isSome = true
      (¬ starts → Answers (.spaceEnable p k v) s (writeSpCtrl s p.val k.val v.toNat)) ∧
      (starts → ∃ t, Answers (.spaceEnable p k v) s t ∧
        slotState t p.val k.val = { mode := .live, tR := none } ∧ t.regs = (writeSpCtrl s p.val k.val v.toNat).regs ∧
        (∀ j, j ≠ k.val → slotState t p.val j = slotState s p.val j) ∧ OthersKept s t p.val ∧
        t = { s with parts := t.parts, regs := t.regs })) ∧
    (logRuns s = true → ∀ k : Fin 4,
      let slot := slotState s p.val k.val
      (slot.mode = .live → ∃ t, Answers (.spaceRevoke p k) s t ∧ slotState t p.val k.val = { mode := .revoking, tR := some (now s) } ∧
        t.regs = (setReg s (.spRevokeFt p.val k.val) (now s)).regs ∧ OthersKept s t p.val ∧ t = { s with parts := t.parts, regs := t.regs }) ∧
      (slot.mode ≠ .live → Answers (.spaceRevoke p k) s s) ∧
      (slot.mode = .revoked → ∃ t, Answers (.spaceRelease p k) s t ∧ slotState t p.val k.val = {} ∧
        (∀ i, i < 16 → reg t (.spExpLo p.val k.val i) = 0 ∧ reg t (.spExpHi p.val k.val i) = 0) ∧ OthersKept s t p.val ∧
        t = { s with parts := t.parts, regs := t.regs }) ∧
      (slot.mode ≠ .revoked → Answers (.spaceRelease p k) s s)) ∧
    (∀ k : Fin 4,
      let slot := slotState s p.val k.val
      let drained := slot.mode = .revoking ∧ slotDrained s p.val k.val = true
      let done := setStatusBits s (.spCtrl p.val k.val) (2 ^ 29)
      (¬ drained → Answers (.spaceRevokeDone p k) s s) ∧
      (drained → ∃ t, Answers (.spaceRevokeDone p k) s t ∧ slotState t p.val k.val = { slot with mode := .revoked } ∧
        t.regs = (if regField s (.spCtrl p.val k.val) 28 28 = 1 then (raiseIrq done 4).regs else done.regs) ∧
        (∀ m q, qpOf s p.val m = some q → pdSlot s p.val q.pd = k.val → q.ready = true →
          ∃ r, qpOf t p.val m = some r ∧ r.ready = false ∧ r.errStatus = stRevoked) ∧ OthersKept s t p.val ∧ StoreKept s t))

/-! Tears and the Collar -/

/-- A tear not seen before is remembered for 1 ms and handed on by every trained port but its own; one seen before is not handed
on, nor one that finds the table full, which is counted. On every member here that its tag is valid for, the key is torn,
descriptors under it end JOB_TORN and windows that have not closed are ABORTED. An entry whose time is over is forgotten; a tear
of a wrong form or from an edge port is dropped. Where the spec leaves a point open it takes the choice of log entries 53, 54.
-/
def Obligations.TearsEndTheirJobs : Prop :=
  ∀ s : State, FlightsOrdered s →
    (∀ a : Arrival,
      let s1 := elapse s a.dt
      let good := packetFormOk a.pkt 3 = true ∧ (portOf s a.port.val).edge = false
      let live := s.shawl.tears.filter (fun e => decide (now s1 < e.expiry))
      (¬ good → Answers (.jobTearReceive a) s (dropPacket s1 0)) ∧
      (good → tearKnown s1 a.pkt = true → Answers (.jobTearReceive a) s (actTear s1 a.pkt)) ∧
      (good → tearKnown s1 a.pkt = false → 256 ≤ live.length → Answers (.jobTearReceive a) s (actTear (dropPacket s1 3) a.pkt)) ∧
      (good → tearKnown s1 a.pkt = false → live.length < 256 → ∃ u, Answers (.jobTearReceive a) s (actTear u a.pkt) ∧
        u.shawl.tears = live ++ [{ keyId := a.pkt.keyId, src := a.pkt.src, tearId := field a.pkt.body 0 4, expiry := now s1 + 1000000 }] ∧
        u.out = s.out ++ (tearPorts s a.port.val).map (fun i => .tear i a.pkt) ∧
        (∀ i ∈ tearPorts s a.port.val, (portOf u i).controlOut = (portOf s i).controlOut ++ [fit 64 (packetBytes a.pkt)]) ∧
        u = { s with shawl := u.shawl, out := u.out, time := u.time }) ∧
      (good → tearMembers s a.pkt = [] → ∃ t, Answers (.jobTearReceive a) s t ∧
        t = { s with shawl := t.shawl, out := t.out, time := t.time }) ∧
      (good → ∃ t, Answers (.jobTearReceive a) s t ∧ ∀ p ∈ tearMembers s a.pkt,
        (∃ e, linkKey t p a.pkt.keyId = some e ∧ e.torn = true) ∧
        (∀ f ∈ flying s p, f.done = none → underKey s a.pkt.keyId f = true →
          ∃ g d, flight t f.id = some g ∧ g.done = some d ∧ d.status = stTorn) ∧
        (∀ k w, windowOf (part s p) k = some w → w.active = true →
          ∃ v, windowOf (part t p) k = some v ∧ v.mode = .aborted ∧ v.waiting = []))) ∧
    (∀ keyId src tearId e, s.shawl.tears.find? (fun x => x.keyId == keyId && x.src == src && x.tearId == tearId) = some e →
      ∃ t, Answers (.tearEntryExpiry keyId src tearId) s t ∧ Reached s t e.expiry ∧
        t.shawl = { s.shawl with tears := s.shawl.tears.filter (fun x => x != e) } ∧ t = { s with shawl := t.shawl, time := t.time }) ∧
    (∀ keyId src tearId, s.shawl.tears.find? (fun x => x.keyId == keyId && x.src == src && x.tearId == tearId) = none →
      Answers (.tearEntryExpiry keyId src tearId) s s)

/-- ATTEST, KEY_IMPORT, MODEL_UNSEAL and MODEL_SEAL wait for their partition's Collar slot, and so does KEY_DESTROY, which first
marks its keys dying. A slot's start takes the loads of wires and its oldest command; before boot has finished it takes nothing.
At its slot's end the commands it runs have their effects in turn, one that draws randomness waiting while its generator stands:
ATTEST stores its report in FIELD and is refused elsewhere; KEY_IMPORT reports the first check that fails, or installs its key
and counts the message; KEY_DESTROY overwrites its dying keys once no earlier user is in flight; MODEL_UNSEAL stores the opened
segment and takes its generation, MODEL_SEAL stores its segments under the next one; an update message moves the life cycle or
revokes a signer; partition work goes on. Where the spec leaves a point open it takes the choice of log entries 38, 55, 56, 58,
108, 109, 118. -/
def Obligations.CollarDescriptorsAndSlots : Prop :=
  ((∀ (s : State) (h : DescHdr) (b : DescBody) (c : Instr), FlightsOrdered s → Dispatches s h b →
    let queued := fun (t : State) => Answers c s t ∧ Flies s t h b (.collar 0) [] ∧ StoreKept s t ∧ t.regs = s.regs ∧
      t.collar = { s.collar with waiting := s.collar.waiting ++ [(h.p.val, .descriptor s.nextId)] } ∧ OthersKept s t h.p.val
    ((∃ o, b = .attest o ∧ c = .attest h o) ∨ (∃ o, b = .keyImport o ∧ c = .keyImport h o) ∨
      (∃ o, b = .modelUnseal o ∧ c = .modelUnseal h o) ∨ (∃ o, b = .modelSeal o ∧ c = .modelSeal h o) →
      ∃ t, queued t ∧ t = { s with inflight := t.inflight, nextId := t.nextId, dbg := t.dbg, collar := t.collar }) ∧
    (∀ o, b = .keyDestroy o → c = .keyDestroy h o → ∃ t, queued t ∧
      (part t h.p.val).keys = (part s h.p.val).keys.map (fun k => if kindHit o.kind k.kind then { k with dying := true } else k) ∧
      t.shawl.keys = s.shawl.keys.map (fun e => if linkHit o.kind o.linkKeyId h.p.val e then { e with dying := true } else e))) ∧
  (∀ (s : State) (slot : Fin 17) (ok : Bool),
    (logRuns s = true → Answers (.collarSlotStart slot ok) s { s with collar := { s.collar with
      slot := slot.val, signatureOk := ok, running := slotJobs s slot.val, waiting := dropJobs slot.val s.collar.waiting false } }) ∧
    (logRuns s = false → Answers (.collarSlotStart slot ok) s s))) ∧
  (∀ (s : State) (before : List CollarJob) (j : CollarJob),
    let u := before.foldl endJob { s with collar := { s.collar with running := [] } }
    let stands := drawsRandom u j = true ∧ (drbgOf u 16).running = false
    (s.collar.running = [] → Answers .collarSlotEnd s s) ∧
    (s.collar.running = before ++ [j] → stands →
      Answers .collarSlotEnd s { u with collar := { u.collar with waiting := (u.collar.slot, j) :: u.collar.waiting } }) ∧
    (∀ (f : InFlight) (b : DescBody), s.collar.running = before ++ [j] → ¬ stands → j = .descriptor f.id → flight u f.id = some f →
      f.done = none → f.body = b →
      let p := f.h.p.val
      let x := part u p
      let done := fun (t : State) (st : Status) (r : Nat) => ∃ g, flight t f.id = some g ∧
        g.done = some { status := st, result := r, faultRef := 0, ft := now u }
      let stored := fun (t : State) (a : Nat) (bs : Bytes) => t.lining = (pwrite u p a bs).lining ∧ t.dram = (pwrite u p a bs).dram
      (∀ o, b = .attest o → ∃ t, Answers .collarSlotEnd s t ∧
        (u.otp.lifeCycle = .field → done t stOk 0 ∧ stored t o.dst (report u p o.nonce)) ∧
        (u.otp.lifeCycle ≠ .field → done t stPolicy 0 ∧ StoreKept u t)) ∧
      (∀ o, b = .keyImport o →
        let m := messageOf (pread u p o.msgAddr o.msgLen)
        let r := importReason u p o.msgLen m u.collar.signatureOk
        let reads := (inWindow o.msgAddr && addrFits x o.msgAddr o.msgLen 64) = true
        ∃ t, Answers .collarSlotEnd s t ∧ StoreKept u t ∧
          (¬ reads → done t stAccess 1) ∧
          (reads → r ≠ 0 → done t stPolicy r ∧ (part t p).keys = x.keys ∧ t.shawl.keys = u.shawl.keys ∧ (part t p).importSeq = x.importSeq) ∧
          (reads → r = 0 → done t stOk 0 ∧ (part t p).importSeq = x.importSeq + 1 ∧ (part t p).authority = some (x.authority.getD m.signer) ∧
            (m.kind = 4 → t.shawl.keys = u.shawl.keys ++ [{ p := p, keyId := m.link, key := ((messageKey x.dk m).getD []).take 32,
                                                            ctr := 0, torn := false, expiry := m.expiry, dying := false }] ∧
              (part t p).keys = x.keys) ∧
            (m.kind ≠ 4 → t.shawl.keys = u.shawl.keys ∧ (part t p).keys = x.keys.filter (fun k => k.kind != m.kind) ++
              [{ kind := m.kind, keyId := m.keyId, key := ((messageKey x.dk m).getD []).take 32,
                 smudge := field ((messageKey x.dk m).getD []) 32 1, expiry := m.expiry, dying := false }]))) ∧
      (∀ o, b = .keyDestroy o →
        (keyUsers u p f.id o.kind o.linkKeyId = true → Answers .collarSlotEnd s (collarQueue u p (.descriptor f.id))) ∧
        (keyUsers u p f.id o.kind o.linkKeyId = false → ∃ t, Answers .collarSlotEnd s t ∧ done t stOk 0 ∧
          (∀ k ∈ (part t p).keys, kindHit o.kind k.kind = true → k.dying = false) ∧
          (∀ e ∈ t.shawl.keys, linkHit o.kind o.linkKeyId p e = true → e.dying = false))) ∧
      (∀ o, b = .modelUnseal o →
        let hd := pread u p o.src 64
        let n := segmentBytes u p o.src
        (modelKey u f.id p = none ∨ segmentOk x hd = false → ∃ t, Answers .collarSlotEnd s t ∧ done t stPolicy 0 ∧ StoreKept u t) ∧
        (∀ k, modelKey u f.id p = some k → segmentOk x hd = true → ∃ t, Answers .collarSlotEnd s t ∧
          match gcmOpen k.key (slice hd 0x20 12) hd (pread u p (o.src + 64) n) (pread u p (o.src + 64 + n) 16) with
          | none => done t stPolicy 0 ∧ stored t o.dst (zeros n) ∧ (part t p).modelGen = x.modelGen
          | some plain => done t stOk 0 ∧ stored t o.dst plain ∧ (part t p).modelGen = max x.modelGen (field hd 0x10 8))) ∧
      (∀ o, b = .modelSeal o →
        let label := if o.labelAddr = 0 then zeros 16 else pread u p o.labelAddr 16
        (modelKey u f.id p = none ∨ sealMarked u p o = true → ∃ t, Answers .collarSlotEnd s t ∧ done t stPolicy 0 ∧ StoreKept u t) ∧
        (∀ k, modelKey u f.id p = some k → sealMarked u p o = false → ∃ t, Answers .collarSlotEnd s t ∧ done t stOk 0 ∧
          (part t p).modelSealed = x.topGen + 1 ∧ (part t p).modelGen = x.modelGen ∧
          stored t o.dst ((List.range (sealCount o)).flatMap (fun i =>
            sealSegment u p o k.key (x.topGen + 1) i label (pread u p o.src o.len)))))) ∧
    (s.collar.running = before ++ [j] → ¬ stands →
      (∀ id, j = .descriptor id → (∀ f, flight u id = some f → f.done.isSome = true) →
        Answers .collarSlotEnd s { u with faults := { u.faults with stale := satAdd u.faults.stale 1 } }) ∧
      (∀ p, j = .create p → Answers .collarSlotEnd s (if (part u p).mode = .creating then endCreate u p else u)) ∧
      (∀ p, j = .destroy p → Answers .collarSlotEnd s (if (part u p).mode = .destroying then endDestroy u p else u)) ∧
      (∀ p, j = .scrub p → Answers .collarSlotEnd s
        (if (part u p).mode = .scrubbing ∧ u.faults.computing = false then loadWires (endScrub u p) p else u)) ∧
      (∀ p, j = .reset p → Answers .collarSlotEnd s (resetJob u p)) ∧
      (∀ p, j = .reload p → Answers .collarSlotEnd s (loadWires u p)) ∧
      (∀ p kind link, j = .expire p kind link → keyUsers u p u.nextId kind link = true →
        Answers .collarSlotEnd s (collarQueue u p (.expire p kind link))) ∧
      (∀ p kind link, j = .expire p kind link → keyUsers u p u.nextId kind link = false → ∃ t, Answers .collarSlotEnd s t ∧
        (∀ k ∈ (part t p).keys, kindHit kind k.kind = true → k.dying = false) ∧
        (∀ e ∈ t.shawl.keys, linkHit kind link p e = true → e.dying = false)) ∧
      (j = .attest → Answers .collarSlotEnd s (runModuleAttest u)) ∧
      (∀ p i body last, j = .usage p i body last → Answers .collarSlotEnd s (signUsage u p i body last)) ∧
      (j = .update →
        let m := messageOf u.collar.updMessage
        let r := updateReason u u.collar.updMessage.length m u.collar.signatureOk
        ∃ t, Answers .collarSlotEnd s t ∧ t.collar.updBusy = false ∧ t.collar.updReason = r ∧ t = { u with collar := t.collar, otp := t.otp } ∧
          (r ≠ 0 → t.otp = u.otp) ∧
          (r = 0 → t.otp.updateCount = u.otp.updateCount + 1 ∧
            (m.kind = 0x10 → t.otp.lifeCycle = .field ∧ t.otp.signerRevoked = u.otp.signerRevoked) ∧
            (m.kind ≠ 0x10 → t.otp.lifeCycle = u.otp.lifeCycle ∧
              t.otp.signerRevoked = u.otp.signerRevoked ||| BitVec.ofNat 4 (2 ^ field m.body 0 1))))))

/-- Boot and the life cycle. A set that fails a check only sets the boot status; one that passes burns the boot count, and the
log that runs takes the module reset as its first entry. Update and attestation requests wait for slot 16, one at a time. An op
takes effect less than 1 ms after its arm: provision from BLANK blows the test-pattern fuse, retire ends the life cycle and
overwrites the root secret. A key that expires is marked dying and its destruction waits for its partition's slot. Where the
spec leaves a point open it takes the choice of log entries 38, 57, 58, 78, 79. -/
def Obligations.BootAndLifeCycleGoForward : Prop :=
  ∀ s : State,
    (∀ set sig fol,
      (logRuns s = true → Answers (.colBootGo set sig fol) s s) ∧
      (logRuns s = false → bootCheck s set sig ≠ 0 →
        Answers (.colBootGo set sig fol) s { s with collar := { s.collar with bootStatus := bootCheck s set sig } }) ∧
      (logRuns s = false → bootCheck s set sig = 0 →
        let d1 := fol && !s.otp.d1Failed
        ∃ t, Answers (.colBootGo set sig fol) s t ∧ t.otp.bootCount = s.otp.bootCount + 1 ∧ t.otp.lifeCycle = s.otp.lifeCycle ∧
          t.otp.securityVersion = (if field set 5 1 % 2 = 1 then max s.otp.securityVersion (field set 4 1) else s.otp.securityVersion) ∧
          t.collar.bootStatus = (if s.otp.lifeCycle = .retired then 10 else if d1 then 0 else 11) ∧ t.collar.setDigest = sha3 (set.take 640) ∧
          (d1 = false → t.collar.d1Usable = false ∧ ∀ v, 8 ≤ v → v < 16 → (sourceOf t v).mode = .absent) ∧
          (s.faults.log = [] → ∃ e ∈ t.faults.log, e.cls = 6 ∧ e.code = 0x5F ∧ e.detail = s.faults.resetCause) ∧ StoreKept s t)) ∧
    (∀ message, (s.collar.updBusy = true → Answers (.colUpdGo message) s s) ∧
      (s.collar.updBusy = false → Answers (.colUpdGo message) s { s with collar := { s.collar with
        updBusy := true, updMessage := message, waiting := s.collar.waiting ++ [(16, .update)] } })) ∧
    (∀ nonce, (s.collar.attGo = true → Answers (.colAttGo nonce) s s) ∧
      (s.collar.attGo = false → Answers (.colAttGo nonce) s { s with collar := { s.collar with
        attGo := true, attNonce := nonce, waiting := s.collar.waiting ++ [(16, .attest)] } })) ∧
    (∀ op, Answers (.lcArm op) s { s with collar := { s.collar with arm := some (op % 16, now s) } }) ∧
    (s.collar.arm = none → Answers .lcArmTimeout s s) ∧
    (∀ op t0, s.collar.arm = some (op, t0) → ∃ t, Answers .lcArmTimeout s t ∧ t.collar = { s.collar with arm := none } ∧
      Reached s t (t0 + 1000000) ∧ t = { s with collar := t.collar, time := t.time }) ∧
    (∀ ok, (confirmed s 1 = false ∨ s.otp.lifeCycle ≠ .blank ∨ s.collar.provisioning.isSome = true →
        Answers (.lcProvision ok) s { s with collar := { s.collar with arm := none } }) ∧
      (confirmed s 1 = true → s.otp.lifeCycle = .blank → s.collar.provisioning = none →
        ∃ t, Answers (.lcProvision ok) s t ∧ t.otp.testPattern = true ∧ t.collar.arm = none ∧ StoreKept s t ∧
          (s.entropy.pool = .delivering → t.otp.root = freeBytes s 32 ∧
            t.otp.lifeCycle = (if ok then .provisioned else .blank) ∧ t.collar.bootStatus = (if ok then s.collar.bootStatus else 12)) ∧
          (s.entropy.pool ≠ .delivering → t.otp.lifeCycle = .blank ∧ t.collar.provisioning = some ok))) ∧
    ((confirmed s 2 = false ∨ s.otp.lifeCycle = .retired → Answers .lcRetire s { s with collar := { s.collar with arm := none } }) ∧
      (confirmed s 2 = true → s.otp.lifeCycle ≠ .retired → ∃ t, Answers .lcRetire s t ∧ t.otp.lifeCycle = .retired ∧
        t.otp.root = List.replicate 32 0xFF#8 ∧ t.collar.kreg = zeros 32 ∧ ∀ p, p < 16 → (part t p).mode = .free)) ∧
    (∀ (p : Fin 16) kind link, keyExpiryOf s p.val kind link = none → Answers (.keyExpiry p kind link) s s) ∧
    (∀ (p : Fin 16) kind link t0, keyExpiryOf s p.val kind link = some t0 →
      ∃ t, Answers (.keyExpiry p kind link) s t ∧ Reached s t t0 ∧
        t.collar = { s.collar with waiting := s.collar.waiting ++ [(p.val, .expire p.val kind link)] } ∧
        (part t p.val).keys = (part s p.val).keys.map (fun k => if kindHit kind k.kind then { k with dying := true } else k) ∧
        t.shawl.keys = s.shawl.keys.map (fun e => if linkHit kind link p.val e then { e with dying := true } else e) ∧
        (∀ q, q ≠ p.val → (part t q).keys = (part s q).keys) ∧
        t = { s with inflight := t.inflight, parts := t.parts, shawl := t.shawl, collar := t.collar, time := t.time })

/-! Federation time and metering -/

/-- FT_PPS: an edge that comes 1.5 s after the last usable one finds the source lost. An edge without a bound value, or with one
more than 100 us away in LOCKED or HOLDOVER, is rejected and counted; the first usable one steps an UNSET counter and its timers
onto its value and acquires, and so does one after HOLDOVER or FREERUN by slewing; later ones only slew; the sixteenth in a row
within 4 ns locks. FT_TOD_NEXT binds to the next edge 100 to 900 ms after the one before, FT_CTRL.src ignores 3, and 1.5 s
without a usable edge hold over. Shawl transfer: a port's timer hands it a TIME message with its sequence number and hops; one
received is remembered of its neighbour, and a valid exchange on the chosen port is used, with half the exchange's difference,
as an FT_PPS edge is. An exchange 10 ms after the last one comes after the loss. 10 ms without an exchange move to another
eligible neighbour or hold over; an error limit in HOLDOVER ends in FREERUN, with a log entry. Where the spec leaves a point
open it takes the choice of log entries 31, 37, 66, 112, 113, 115. -/
def Obligations.TimeFollowsItsReferences : Prop :=
  (∀ s : State,
    (∀ dt frac,
      let s0 := elapseTo s dt frac
      let lost := needsPps s0 = true ∧ s0.time.lastUsable + 1500000000 ≤ now s0
      ∀ s1, ((lost ∧ Answers .ppsLossTimeout s0 s1) ∨ (¬ lost ∧ s1 = s0)) →
      let err := fun (tod : Nat) => ((total256 s1 : Nat) : Int) - ((256 * tod : Nat) : Int)
      let ends := fun t => Answers (.ftPpsEdge dt frac) s t
      (timeSource s1 = 1 → ends s1) ∧
      (timeSource s1 ≠ 1 → s1.time.bound = none → ends (rejectEdge s1)) ∧
      (∀ tod, timeSource s1 ≠ 1 → s1.time.bound = some tod →
        ((s1.time.mode = .locked ∨ s1.time.mode = .holdover) → 25600000 < (err tod).natAbs → ends (rejectEdge s1)) ∧
        (s1.time.mode = .unset → ∃ t, ends t ∧ t.time.ns = tod % 2 ^ 64 ∧ t.time.frac = 0 ∧ t.time.mode = .acquiring ∧
          t.time.bound = none ∧ t.time.lastEdge = some (256 * (tod % 2 ^ 64)) ∧ t.time.source = 0 ∧ t.time.hops = 31 ∧ StoreKept s1 t ∧
          t.parts = s1.parts.map (fun e => (e.1, shiftPart (-(err tod)) e.2)) ∧ t.inflight = s1.inflight.map (shiftFlight (-(err tod)))) ∧
        (s1.time.mode = .locked → (err tod).natAbs ≤ 25600000 → ∃ t, ends t ∧ t.time.ns = s1.time.ns ∧
          t.time.frac = s1.time.frac ∧ t.time.slew = -(err tod) ∧ t.time.mode = .locked ∧ t.time.hops = 0 ∧ t.time.source = 0 ∧
          t.time.lastUsable = now s1 ∧ t.time.bound = none ∧ t = { s1 with time := t.time, freeCtr := t.freeCtr }) ∧
        (s1.time.mode = .acquiring → (err tod).natAbs ≤ 1024 → 15 ≤ s1.time.goodRun → ∃ t, ends t ∧
          t.time.mode = .locked ∧ t.time.hops = 0 ∧ t.time.slew = -(err tod) ∧ t.time.ns = s1.time.ns ∧ StoreKept s1 t ∧ t.parts = s1.parts) ∧
        (s1.time.mode = .acquiring → 1024 < (err tod).natAbs ∨ s1.time.goodRun < 15 → ∃ t, ends t ∧
          t.time.mode = .acquiring ∧ t.time.goodRun = (if (err tod).natAbs ≤ 1024 then s1.time.goodRun + 1 else 0) ∧ t.time.hops = 31 ∧
          t.time.slew = -(err tod) ∧ t = { s1 with time := t.time, freeCtr := t.freeCtr }) ∧
        ((s1.time.mode = .holdover ∧ (err tod).natAbs ≤ 25600000) ∨ s1.time.mode = .freerun → ∃ t, ends t ∧
          t.time.mode = .acquiring ∧ t.time.goodRun = 0 ∧ t.time.hops = 31 ∧ t.time.slew = -(err tod) ∧ t.time.ns = s1.time.ns ∧
          StoreKept s1 t ∧ t.parts = s1.parts))) ∧
    (logRuns s = false → ∀ (v : Word) frac, Answers (.ftTodNextWrite v) s s ∧ Answers (.ftCtrlSrcWrite v) s s ∧ Answers (.ftSnapGo frac) s s) ∧
    (logRuns s = true →
      (∀ v : Word, ∃ t, Answers (.ftTodNextWrite v) s t ∧ t.regs = (setReg s .ftTodNext v.toNat).regs ∧
        (s.time.lastEdge = none → t.time.bound = some v.toNat) ∧
        (∀ e, s.time.lastEdge = some e → t.time.bound =
          if e + 25600000000 ≤ total256 s ∧ total256 s ≤ e + 230400000000 then some v.toNat else none) ∧
        t = { s with regs := t.regs, time := { s.time with bound := t.time.bound } }) ∧
      (∀ v : Word, (v.toNat % 4 = 3 ∨ v.toNat % 4 = timeSource s → Answers (.ftCtrlSrcWrite v) s s) ∧
        (v.toNat % 4 ≠ 3 → v.toNat % 4 ≠ timeSource s → ∃ t, Answers (.ftCtrlSrcWrite v) s t ∧
          t.regs = (setReg s .ftCtrl (v.toNat % 4)).regs ∧ t.time.lastEdge = none ∧
          t = { s with regs := t.regs, time := { s.time with lastEdge := none } })) ∧
      (∀ frac, Answers (.ftSnapGo frac) s { s with time := { s.time with
        snapNs := now s, snapFrac := frac % 256, snapQuality := s.time.mode.code } })) ∧
    (needsPps s = true → ∃ t, Answers .ppsLossTimeout s t ∧ t.time.mode = .holdover ∧ t.time.hops = 31 ∧ t.time.source = 3 ∧ t.time.slew = 0 ∧
      Reached s t (s.time.lastUsable + 1500000000) ∧ StoreKept s t ∧ t.parts = s.parts) ∧
    (needsPps s = false → Answers .ppsLossTimeout s s)) ∧
  (∀ s : State,
    (∀ (i : Fin 6) frac,
      ((portOf s i.val).mode.carries = false → Answers (.timeExchangeTimer i frac) s s) ∧
      ((portOf s i.val).mode.carries = true →
        let seq := tabGet 0 s.time.timeSeq i.val
        ∃ t, Answers (.timeExchangeTimer i frac) s t ∧ tabGet 0 t.time.timeSeq i.val = (seq + 1) % 2 ^ 32 ∧
          (portOf t i.val).timeOut = (portOf s i.val).timeOut ++ [(frac % 256, timeBytes s i.val seq)] ∧
          t = { s with time := t.time, shawl := t.shawl })) ∧
    (∀ (i : Fin 6) (m : TimeMsg),
      ((portOf s i.val).mode.carries = false → Answers (.timeReceive i m) s s) ∧
      ((portOf s i.val).mode.carries = true →
        let lost := s.time.mode = .locked ∧ s.time.source = 1 ∧ (neighbour s s.time.port).usedAt + 10000000 ≤ now s
        ∀ u, ((lost ∧ Answers .shawlTimeLossTimeout s u) ∨ (¬ lost ∧ u = s)) →
        let n := neighbour u i.val
        let valid := n.heard = true ∧ n.sent = true ∧ m.quality = 2 ∧ m.hops ≤ 23 ∧ m.follows = false
        let off := ((stamp256 n.arrived - stamp256 m.t1) - (stamp256 m.t4 - stamp256 n.departed) -
          signed16 (regField u (.ftAsym i.val) 15 0)) / 2
        ∃ v, neighbour v i.val = { n with
            hops := m.hops, moduleId := m.moduleId, locked := m.quality == 2, follows := m.follows, arrived := m.arrival,
            arrivedQuality := u.time.mode.code, arrivedOrder := (portOf u i.val).order, heard := true,
            exchanges := (neighbour v i.val).exchanges, usedAt := (neighbour v i.val).usedAt } ∧
          (valid → (neighbour v i.val).exchanges = n.exchanges + 1 ∧ (neighbour v i.val).usedAt = now u) ∧
          (¬ valid → (neighbour v i.val).exchanges = n.exchanges ∧ (neighbour v i.val).usedAt = n.usedAt) ∧
          (portOf v i.val).order = (portOf u i.val).order + 1 ∧ v = { u with time := { u.time with neighbours := v.time.neighbours }, shawl := v.shawl } ∧
          (¬ (valid ∧ followsShawl v = true ∧ chosenPort v = some i.val) → Answers (.timeReceive i m) s v) ∧
          (valid → followsShawl v = true → chosenPort v = some i.val → ∃ t, Answers (.timeReceive i m) s t ∧
            t.time.source = 1 ∧ t.time.port = i.val ∧ t.time.lastUsable = now t ∧ StoreKept v t ∧
            (u.time.mode = .unset → total256 t = (((total256 v : Nat) : Int) - off).toNat % 2 ^ 72 ∧ t.time.mode = .acquiring ∧ t.time.hops = 31) ∧
            (u.time.mode ≠ .unset → t.time.slew = -off ∧ t.time.ns = u.time.ns ∧ t.parts = s.parts) ∧
            (u.time.mode = .locked → t.time.mode = .locked ∧ t.time.hops = m.hops + 1) ∧
            (u.time.mode = .acquiring → off.natAbs ≤ 1024 → 15 ≤ u.time.goodRun → t.time.mode = .locked ∧ t.time.hops = m.hops + 1) ∧
            (u.time.mode = .acquiring → 1024 < off.natAbs ∨ u.time.goodRun < 15 → t.time.mode = .acquiring ∧ t.time.hops = 31) ∧
            (u.time.mode = .holdover ∨ u.time.mode = .freerun → t.time.mode = .acquiring ∧ t.time.hops = 31)))) ∧
    (s.time.mode = .locked → s.time.source = 1 →
      let at_ := (neighbour s s.time.port).usedAt + 10000000
      let next := bestPort (reach s at_) ((List.range 6).filter (fun i => i != s.time.port))
      ∃ t, Answers .shawlTimeLossTimeout s t ∧ Reached s t at_ ∧ StoreKept s t ∧ t.parts = s.parts ∧
        (∀ j, next = some j → t.time.port = j ∧ t.time.hops = (neighbour s j).hops + 1 ∧ t.time.mode = .locked) ∧
        (next = none → t.time.mode = .holdover ∧ t.time.hops = 31 ∧ t.time.source = 3 ∧ t.time.slew = 0)) ∧
    (s.time.mode ≠ .locked ∨ s.time.source ≠ 1 → Answers .shawlTimeLossTimeout s s) ∧
    (s.time.mode = .holdover → ∃ t, Answers .holdoverErrorLimit s t ∧ t.time.mode = .freerun ∧ t.time.hops = 31 ∧
      (logRuns s = true → Logged t (freeNat s 1) (leNat ((freeBytes s 2).drop 1))) ∧ StoreKept s t) ∧
    (s.time.mode ≠ .holdover → Answers .holdoverErrorLimit s s))

/-- A metering minute ends, after the windows, deadlines and keys of its instant, for each partition that exists: its record up
to the boundary waits for slot 16 and its counters begin again, a pass that runs being divided there. An FT millisecond adds
each such partition's Pocket units in use, and counts where a throttle reason or droop was active in it. Where the spec leaves a
point open it takes the choice of log entry 73. -/
def Obligations.MeteringClosesItsIntervals : Prop :=
  ∀ s : State,
    (let m := nextMark s minuteNs s.manager.lastMinute
     let u := settleTies s (m * minuteNs) 3
     let v := { u with manager := { u.manager with lastMinute := m } }
     Answers .meterMinuteEnd s (((List.range 16).filter (fun p => metered (part s p).mode)).foldl (fun t p => closeMinute t p (m * minuteNs)) v) ∧
     (∀ t, Answers .meterMinuteEnd s t → t.manager.lastMinute = m ∧ Reached s t (m * minuteNs) ∧ StoreKept s t ∧ t.regs = s.regs ∧
       ((∀ f ∈ s.inflight, f.jobs = []) → ∀ p, p < 16 → metered (part s p).mode = true → (part t p).usage = freshUsage s (m * minuteNs) false ∧
         (16, .usage p (part s p).instanceId (usageBody s p (m * minuteNs) false) false) ∈ t.collar.waiting))) ∧
    (let j := nextMark s 1000000 s.manager.lastMs
     ∃ t, Answers .meterMsSample s t ∧ t.manager.lastMs = j ∧ Reached s t (j * 1000000) ∧ StoreKept s t ∧ t.regs = s.regs ∧
       t.manager.thermalMs = s.manager.thermalMs + bit s.manager.msThermal ∧ t.manager.droopMs = s.manager.droopMs + bit s.manager.msDroop ∧
       t.manager.msThermal = thermalActive s ∧ t.manager.msDroop = droopActive s ∧
       (∀ p, p < 16 → metered (part s p).mode = true →
         (part t p).usage = { (part s p).usage with liningUnitMs := satAdd (part s p).usage.liningUnitMs (unitsInUse s p) }) ∧
       (∀ p, p < 16 → metered (part s p).mode = false → part t p = part s p))

/-! The Shawl's links -/

/-- Blocks: one expected that cannot be corrected draws a NAK; one in order advances the expected number and its units make
packets, which wait with the block's stamp at their partition's queue. An ACK drops what it acknowledges and returns credits,
after the expiry where that has come; a NAK, or 600 ns without an ACK, sends again from its block, the eighth time retraining; a
REMAP request is echoed and moves a lane. An egress slot: a port that carries nothing, or whose replay buffer is full, does
nothing; else its frame goes on by one slot. The first packet of the owner with its credits leaves in the owner's slot, or in an
idle one of the first partition that has one where modes say so; a slot the power cap withholds stays idle, and with nothing to
send no packet leaves. A TIME message is stamped as it goes out. A flushed queue is empty and its cells return as credits. Where
the spec leaves a point open it takes the choice of log entries 62, 63, 64, 65, 111, 113, 114. -/
def Obligations.BlocksAndSlotsCarryPackets : Prop :=
  (∀ (s : State) (i : Fin 6),
    let x := portOf s i.val
    let ports := fun (t : State) => t = { s with shawl := { s.shawl with ports := t.shawl.ports } }
    (x.mode.carries = false → ∀ n b l f es lane spare echo, Answers (.fecBlockReceive i n b l f) s s ∧ Answers (.linkAckReceive i n es) s s ∧
      Answers (.linkNakReceive i n) s s ∧ Answers (.linkRemapReceive i lane spare echo n) s s ∧ Answers (.linkAckTimerExpiry i) s s) ∧
    (x.mode.carries = true →
      (∀ n block loss frac,
        let s1 := reachRemap s i.val (n % 2 ^ 32)
        let y := portOf s1 i.val
        let ends := fun (v : State) => Answers (.fecBlockReceive i n block loss frac) s
          (match loss with | some (l : Fin 32) => eraseLane v i.val l.val | none => v)
        (fecDecode block (if y.mode = .upHalf then [] else y.erased.toList) = none → ∃ v, ends v ∧
          portOf v i.val = { y with corrected := [], nakFor := y.nakFor ++ (if n % 2 ^ 32 = y.rxNext then [y.rxNext] else []) } ∧ ports v) ∧
        (∀ data lanes, fecDecode block (if y.mode = .upHalf then [] else y.erased.toList) = some (data, lanes) →
          (n % 2 ^ 32 ≠ y.rxNext → ends (noteCorrections s1 i.val lanes)) ∧
          (n % 2 ^ 32 = y.rxNext → ends (noteCorrections ((pieces 32 16 data).foldl (takeUnit i.val (portStamp s1 i.val frac))
            (modPort s1 i.val (fun z => { z with rxNext := psnNext z.rxNext }))) i.val lanes)))) ∧
      (∀ n block data frac, x.remapRx = none → x.erased = none → fecDecode block [] = some (data, []) → x.corrected = [] →
        (n % 2 ^ 32 ≠ x.rxNext → ∃ t, Answers (.fecBlockReceive i n block none frac) s t ∧ portOf t i.val = { x with corrected := [[]] } ∧ ports t) ∧
        (n % 2 ^ 32 = x.rxNext → data.length = 512 → x.unitBytes = [] → x.headStamp = none → x.flushing = false → x.unitPos + 16 ≤ 130 →
          data.drop 32 = zeros 480 →
          (data.take 32 = zeros 32 → ∃ t, Answers (.fecBlockReceive i n block none frac) s t ∧
            portOf t i.val = { x with corrected := [[]], rxNext := psnNext x.rxNext, unitPos := x.unitPos + 16 } ∧ ports t) ∧
          (data.take 32 ≠ zeros 32 → unitsNeeded (data.take 32) = 32 →
            let k := fillEntry s i.val (packetOf (data.take 32))
            let key := queueKey i.val k.vc (addrPart k.dst)
            knownType k.ptype = true → packetFormOk k k.ptype = true → (x.edge = true → k.ptype = 4 ∨ k.ptype = 5) →
            routeOf s k.dst = some 6 → takesPackets (part s (addrPart k.dst)).mode = true →
            ∃ t, Answers (.fecBlockReceive i n block none frac) s t ∧ (portOf t i.val).rxNext = psnNext x.rxNext ∧
              (queueOf t key).packets = (queueOf s key).packets ++ [(7, ⟨now s, frac % 256⟩, k)] ∧
              (queueOf t key).cells = (queueOf s key).cells + packetCells k ∧ t.parts = s.parts ∧ StoreKept s t))) ∧
      (∀ block (entries : List CreditEntry) v,
        let late := ∃ e rest, x.replay = e :: rest ∧ e.2.1 + 600 ≤ now s
        ((late ∧ Answers (.linkAckTimerExpiry i) s v) ∨ (¬ late ∧ v = s)) →
        let y := portOf v i.val
        (y.mode.carries = false → Answers (.linkAckReceive i block entries) s v) ∧
        (y.mode.carries = true → ∃ t, Answers (.linkAckReceive i block entries) s t ∧
          (portOf t i.val).una = block % 2 ^ 32 ∧ (portOf t i.val).replay = y.replay.filter (fun e => psnFrom e.1 (block % 2 ^ 32)) ∧
          (∀ k, tabGet 0 (portOf t i.val).credits k = tabGet 0 y.credits k +
            ((entries.filter (fun e => 17 * e.vc.val + e.queue % 17 == k)).map (fun e => e.cells)).sum) ∧
          t = { v with shawl := { v.shawl with ports := t.shawl.ports } })) ∧
      (∀ n, (∀ e ∈ x.replay, e.1 ≠ n % 2 ^ 32) → Answers (.linkNakReceive i n) s s) ∧
      (∀ n e, e ∈ x.replay → e.1 = n % 2 ^ 32 →
        let count := if x.resendOf = n % 2 ^ 32 then x.resends + 1 else 1
        (count < 8 → ∃ t, Answers (.linkNakReceive i n) s t ∧ (portOf t i.val).resends = count ∧ (portOf t i.val).resendOf = n % 2 ^ 32 ∧
          (∀ y ∈ x.replay, psnFrom y.1 (n % 2 ^ 32) = true → .block i.val y.1 (fecEncode y.2.2) x.onSpare ∈ t.out) ∧ StoreKept s t) ∧
        (8 ≤ count → ∃ t, Answers (.linkNakReceive i n) s t ∧ (portOf t i.val).mode = .retrain ∧ StoreKept s t)) ∧
      (∀ lane spare n, Answers (.linkRemapReceive i lane spare true n) s s ∧ ∃ t, Answers (.linkRemapReceive i lane spare false n) s t ∧
        portOf t i.val = { x with remapTx := some { lane := lane.val, spare := spare.val, block := n % 2 ^ 32 },
                                  remaps := x.remaps ++ [remapMessage lane.val spare.val n true] } ∧
        t = { s with shawl := { s.shawl with ports := t.shawl.ports }, faults := { s.faults with shared := s.faults.shared + 1 } }) ∧
      (∀ e rest, x.replay = e :: rest →
        let count := if x.resendOf = e.1 then x.resends + 1 else 1
        ∃ t, Answers (.linkAckTimerExpiry i) s t ∧ Reached s t (e.2.1 + 600) ∧ (portOf t i.val).resendOf = e.1 ∧ StoreKept s t ∧
          (count < 8 → .block i.val e.1 (fecEncode e.2.2) x.onSpare ∈ t.out) ∧ (8 ≤ count → (portOf t i.val).mode = .retrain))) ∧
    (x.replay = [] → Answers (.linkAckTimerExpiry i) s s)) ∧
  (∀ (s : State) (i : Fin 6),
    let x := portOf s i.val
    let owner := (if x.frameSlot = 0 ∨ x.owners = [] then egressTable s i.val else x.owners).getD x.frameSlot 0x10
    let first := fun p => pickOwn x 130 p x.egress []
    let withheld := x.frameSlot % 16 < s.power.stageLink
    let others := (List.range 16).map (fun d => (x.frameSlot + 1 + d) % 16)
    (x.mode.carries = false ∨ 1024 ≤ x.replay.length → Answers (.egressSlot i) s s) ∧
    (x.mode.carries = true → x.replay.length < 1024 →
      ∃ t, Answers (.egressSlot i) s t ∧ (portOf t i.val).frameSlot = (x.frameSlot + 1) % 64 ∧ StoreKept s t ∧ t.regs = s.regs ∧
        t.inflight = s.inflight ∧
        (∀ k, owner < 16 → ¬ withheld → first owner = some k → .packet i.val k ∈ t.out) ∧
        (∀ p k, owner < 16 → ¬ withheld → first owner = none → regField s .ptnModes 2 2 = 1 →
          others.find? (fun q => (first q).isSome) = some p → first p = some k → .packet i.val k ∈ t.out) ∧
        ((owner < 16 ∧ withheld) ∨ (x.egress = [] ∧ ∀ key, (queueOf s key).packets = []) →
          ∀ k, .packet i.val k ∈ t.out → .packet i.val k ∈ s.out) ∧
        (∀ e es, x.half = none → x.sinceAck < 6 → x.controlOut = [] → x.nakFor = [] → x.remaps = [] → x.timeOut = e :: es →
          (neighbour t i.val).departed = portStamp s i.val e.1 ∧
          .timeMsg i.val (field e.2 8 1) (field e.2 12 4) (portStamp s i.val e.1) ∈ t.out)) ∧
    (∀ (die : Fin 2) (q : Fin 408), logRuns s = true →
      let key := 408 * die.val + q.val
      let n := (queueOf s key).cells
      ∃ t, Answers (.shwQueueFlush die q) s t ∧ (queueOf t key).packets = [] ∧ (queueOf t key).cells = 0 ∧
        (n ≠ 0 → (queueVc key, queueIdx key, n) ∈ (portOf t (queuePort key)).returned) ∧
        (∀ j, j ≠ key → (queueOf t j).packets = (queueOf s j).packets ∧ (queueOf t j).cells = (queueOf s j).cells) ∧
        StoreKept s t ∧ t.regs = s.regs) ∧
    (∀ (die : Fin 2) (q : Fin 408), logRuns s = false → Answers (.shwQueueFlush die q) s s))

/-- Ports: training ends UP with fresh numbers and credits of each queue's min at least, or MISCABLED with an entry where the
partner is another; the third failed attempt leaves it FAILED; a RETRAIN ends UP with all 32 lanes, UP_HALF with 16, and goes
back to TRAINING with fewer. Losing the cable or block lock, or the command, retrains a port that carries packets. Enable trains
a port of the torus whose fuse is intact. Routing: a write of SHW_DIM computes the default table into both copies, or is refused
where it would change a locked value; the swap takes the other copy. Where the spec leaves a point open it takes the choice of
log entries 64, 110. -/
def Obligations.PortsTrainAndRoutesFollow : Prop :=
  (∀ (s : State) (i : Fin 6),
    let x := portOf s i.val
    let retrains := fun (c : Instr) =>
      (x.mode.carries = true → ∃ t, Answers c s t ∧ portOf t i.val =
          { x with mode := .retrain, erased := none, remapRx := none, remapTx := none, remaps := [] } ∧
        t.faults.shared = s.faults.shared + 1 ∧ StoreKept s t ∧ t.parts = s.parts) ∧
      (x.mode.carries = false → Answers c s s)
    (∀ ty id port, x.mode ≠ .training → Answers (.portTrainingComplete i ty id port) s s) ∧
    (∀ ty id port, x.mode = .training →
      let wrong := ty % 4 ≠ 2 ∧ (id % 4096 ≠ expectedPartner s i.val ∨ port % 8 ≠ oppositePort i.val)
      (wrong → ∃ t, Answers (.portTrainingComplete i ty id port) s t ∧ (portOf t i.val).mode = .miscabled ∧
        (logRuns s = true → Logged t 3 0x28) ∧ StoreKept s t) ∧
      (¬ wrong → ∃ t, Answers (.portTrainingComplete i ty id port) s t ∧ (portOf t i.val).mode = .up ∧ (portOf t i.val).rxNext = 0 ∧
        (portOf t i.val).txNext = 0 ∧ (portOf t i.val).replay = [] ∧ (portOf t i.val).partnerType = ty % 4 ∧
        (portOf t i.val).partnerId = id % 4096 ∧ (portOf t i.val).partnerPort = port % 8 ∧
        (∀ vc q, vc < 8 → q < 17 → regField s (queueReg (queueKey i.val vc q)) 16 0 ≤ (queueOf t (queueKey i.val vc q)).granted) ∧
        t = { s with shawl := t.shawl })) ∧
    (x.mode ≠ .training → Answers (.portTrainingAttemptFail i) s s) ∧
    (x.mode = .training → x.attempts + 1 < 3 → ∃ t, Answers (.portTrainingAttemptFail i) s t ∧
      portOf t i.val = { x with attempts := x.attempts + 1 } ∧ t = { s with shawl := { s.shawl with ports := t.shawl.ports } }) ∧
    (x.mode = .training → 3 ≤ x.attempts + 1 → ∃ t, Answers (.portTrainingAttemptFail i) s t ∧
      portOf t i.val = { x with mode := .failed, attempts := 3 } ∧ (logRuns s = true → Logged t 3 0x28) ∧ StoreKept s t) ∧
    (∀ lanes, x.mode ≠ .retrain → Answers (.portRetrainEnd i lanes) s s) ∧
    (∀ lanes, x.mode = .retrain → ∃ t, Answers (.portRetrainEnd i lanes) s t ∧ StoreKept s t ∧ t.parts = s.parts ∧
      (∀ n, lanes = some n → 32 ≤ n → (portOf t i.val).mode = .up) ∧ (∀ n, lanes = some n → 16 ≤ n → n < 32 → (portOf t i.val).mode = .upHalf) ∧
      ((lanes = none ∨ ∃ n, lanes = some n ∧ n < 16) → portOf t i.val = { x with mode := .training, attempts := 0 })) ∧
    (∃ t, Answers (.cableChange i true) s t ∧ portOf t i.val = { x with cable := true } ∧
      t = { s with shawl := { s.shawl with ports := t.shawl.ports } }) ∧
    (∃ t, Answers (.cableChange i false) s t ∧ (portOf t i.val).cable = false ∧
      (portOf t i.val).mode = (if x.mode.carries then .retrain else x.mode) ∧ StoreKept s t ∧ t.parts = s.parts) ∧
    retrains (.blockLockLost i) ∧ (logRuns s = true → retrains (.shwPortRetrain i)) ∧
    (logRuns s = false → Answers (.shwPortRetrain i) s s ∧ Answers (.shwPortEnable i) s s) ∧
    (logRuns s = true →
      let outside := (List.range 3).any (fun dim => decide (dimSize s dim ≤ coord (ownId s) dim))
      let idle := x.mode = .disabled ∨ x.mode = .miscabled ∨ x.mode = .failed
      (¬ idle → Answers (.shwPortEnable i) s s) ∧
      (idle → (bvBit s.otp.portFailed i.val = true ∨ outside = true) →
        ∃ t, Answers (.shwPortEnable i) s t ∧ Logged t 7 0x66 ∧ portOf t i.val = x ∧ StoreKept s t) ∧
      (idle → bvBit s.otp.portFailed i.val = false → outside = false → portDie i.val = 1 → s.collar.d1Usable = false →
        Answers (.shwPortEnable i) s s) ∧
      (idle → bvBit s.otp.portFailed i.val = false → outside = false → (portDie i.val = 0 ∨ s.collar.d1Usable = true) →
        ∃ t, Answers (.shwPortEnable i) s t ∧ portOf t i.val = { x with mode := .training, attempts := 0 } ∧
          t = { s with shawl := { s.shawl with ports := t.shawl.ports } }))) ∧
  (∀ s : State, (logRuns s = false → Answers .shwRtSwap s s ∧ ∀ v, Answers (.shwDimWrite v) s s) ∧ (logRuns s = true →
    Answers .shwRtSwap s { s with shawl := { s.shawl with active := 1 - s.shawl.active } } ∧
    ∀ v : Word,
      let new := bitsOf v.toNat 0 12 + bitsOf v.toNat 16 12 * 2 ^ 16
      (regField s .glbLock 0 0 = 1 → new ≠ reg s .shwDim → Answers (.shwDimWrite v) s (refuseAccess s)) ∧
      (regField s .glbLock 0 0 = 0 ∨ new = reg s .shwDim → ∃ t, Answers (.shwDimWrite v) s t ∧ reg t .shwDim = new ∧
        (∀ copy dst, copy < 2 → dst < 4096 → routeEntry t copy dst = defaultRoute t dst) ∧
        t = { s with regs := t.regs, shawl := { s.shawl with tables := t.shawl.tables } })))

/-! Partitions -/

/-- The partition manager: a command while another runs is lost; CREATE reports the first check of Table 12.3 that fails, or
lays the partition out on cleared memory and waits for its Collar slot; RESET, SCRUB and DESTROY of a partition that may take
them begin and wait for its slot, others report result 1. The end of a reset advances the generation and logs it. A partition
reset ends a descriptor in flight that has no pass left with a PARTITION_RESET record, written where its completion ring has
room. Where the spec leaves a point open it takes the choice of log entries 68, 69, 105, 116, 117. -/
def Obligations.PartitionCommandsAndResets : Prop :=
  (∀ (s : State) (p : Fin 16),
    (logRuns s = false → ∀ b, Answers (.ptnCreate p b) s s ∧ Answers (.ptnScrub p) s s ∧ Answers (.ptnReset p) s s ∧ Answers (.ptnDestroy p) s s) ∧
    (logRuns s = true →
    let x := part s p.val
    let runs := x.mode = .live ∨ x.mode = .faulted
    let open_ := s.faults.mode ≠ .transitOnly ∧ s.faults.mode ≠ .moduleFault
    let pausing := x.mode = .resetting ∨ x.mode = .scrubbing
    let follows := s.manager.current = p.val ∧ .destroy ∉ x.background
    let taken := { s with manager := { s.manager with busy := true, current := p.val } }
    let refused := fun (c : Instr) (r : Nat) => ∃ t, Answers c s t ∧ t.manager.busy = false ∧ t.manager.result = r ∧ Logged t 7 0x64 ∧ StoreKept s t
    let begins := fun (c : Instr) (m : PtnState) (j : CollarJob) => ∃ (t : State) (l : List (Nat × CollarJob)), Answers c s t ∧
      (part t p.val).mode = m ∧ t.collar.waiting = l ++ [(p.val, j)]
    (s.manager.busy = true → ∀ b, Answers (.ptnCreate p b) s (setStatusBits s .ptnCmd (2 ^ 30)) ∧
      Answers (.ptnScrub p) s (setStatusBits s .ptnCmd (2 ^ 30)) ∧ Answers (.ptnReset p) s (setStatusBits s .ptnCmd (2 ^ 30)) ∧
      (¬ (pausing ∧ follows) → Answers (.ptnDestroy p) s (setStatusBits s .ptnCmd (2 ^ 30)))) ∧
    (s.manager.busy = false →
      (∀ b, createResult s p.val b ≠ 0 → refused (.ptnCreate p b) (createResult s p.val b)) ∧
      (∀ b, createResult s p.val (some b) = 0 → ∃ t, Answers (.ptnCreate p (some b)) s t ∧ part t p.val = layout s p.val b ∧
        OthersKept s t p.val ∧ t.manager = { s.manager with busy := true, current := p.val } ∧
        t.collar.waiting = s.collar.waiting ++ [(p.val, .create p.val)] ∧
        (∀ a, bvBit (layout s p.val b).sleeves (a / 201326592) = true → a / 201326592 < 16 → memRead t.lining a = memRead [] a) ∧
        (∀ a, a / 2 ^ 31 ∈ (layout s p.val b).dram ++ (layout s p.val b).host → memRead t.dram a = memRead [] a)) ∧
      (x.mode = .resetting ∨ (s.faults.computing = true ∧ runs) → Answers (.ptnReset p) s taken) ∧
      (runs → open_ → s.faults.computing = false → Answers (.ptnReset p) s (beginReset taken p.val 1 0) ∧
        (flying s p.val = [] → begins (.ptnReset p) .resetting (.reset p.val))) ∧
      (x.mode ≠ .resetting → ¬ (s.faults.computing = true ∧ runs) → (¬ runs ∨ ¬ open_) → refused (.ptnReset p) 1) ∧
      (runs → open_ → s.faults.computing = false → Answers (.ptnScrub p) s (beginScrub taken p.val) ∧
        (flying s p.val = [] → begins (.ptnScrub p) .scrubbing (.scrub p.val))) ∧
      (runs → open_ → s.faults.computing = true → ∃ t, Answers (.ptnScrub p) s t ∧ OthersKept s t p.val ∧ t = { taken with parts := t.parts } ∧
        part t p.val = { x with mode := .scrubbing, background := x.background ++ [.scrub] }) ∧
      (¬ runs ∨ ¬ open_ → refused (.ptnScrub p) 1) ∧
      (runs ∨ x.mode = .dead → Answers (.ptnDestroy p) s (beginDestroy taken p.val) ∧
        (flying s p.val = [] → begins (.ptnDestroy p) .destroying (.destroy p.val))) ∧
      (x.mode = .free ∨ x.mode = .creating ∨ x.mode = .destroying → refused (.ptnDestroy p) 1)) ∧
    (pausing → s.manager.busy = false ∨ follows → ∃ t, Answers (.ptnDestroy p) s t ∧
      part t p.val = { x with background := x.background ++ [.destroy] } ∧ OthersKept s t p.val ∧ t = { taken with parts := t.parts })) ∧
    (let x := part s p.val
    let only := x.mode = .resetting ∧ .reset ∈ x.background ∧ s.faults.computing = false
    (only → Answers (.ptnResetComplete p) s
      (endReset (modPart s p.val (fun y => { y with background := y.background.filter (fun o => o != .reset) })) p.val)) ∧
    (only → .destroy ∉ x.background → ∃ t, Answers (.ptnResetComplete p) s t ∧
      (part t p.val).mode = (if s.faults.mode = .transitOnly ∨ s.faults.mode = .moduleFault then .faulted else .live) ∧
      (part t p.val).gen = nextGen x.gen ∧ (part t p.val).background = [] ∧ (logRuns s = true → Logged t 4 0x3F) ∧ StoreKept s t) ∧
    (¬ only → Answers (.ptnResetComplete p) s s))) ∧
  (∀ (s : State) (p : Fin 16) (f : InFlight), logRuns s = true → s.manager.busy = false → (part s p.val).mode = .live → s.faults.mode = .run →
    s.faults.computing = false → s.bst.busy = false → flying s p.val = [f] → f.done = none → f.jobs = [] → f.opcode < 0x10 →
    let c := cqOfRing s p.val f.h.ring.val
    let n := (cqOf s p.val c).count
    cqRoom s p.val c = true → (cqOf s p.val c).held = [] →
    ∃ t r, Answers (.ptnReset p) s t ∧ flight t f.id = none ∧ r.tag = f.h.tag ∧ r.status = stReset ∧ r.result = 0 ∧
      r.gen = (part s p.val).gen ∧ r.ring = f.h.ring.val ∧
      .cclWrite (reg s (.cqBase p.val c) + 32 * (n % cqSize s p.val c)) (recordBytes s p.val n (cqSize s p.val c) r) ∈ t.out)

/-- An uncorrectable error or a fault of a unit whose data is a partition's is logged and faults a LIVE partition: without
automatic resets its descriptors in flight end PARTITION_RESET, with them its reset begins. Where no partition's data is
concerned it is logged and the Pocket unit reads as zeros. A patrol read that finds one does the same; one that corrects counts
and logs; the link's errors are counted, and the fourth on one burst fails the device. Where the spec leaves a point open it
takes the choice of log entry 71. -/
def Obligations.MemoryErrorsFaultTheirPartition : Prop :=
  ∀ s : State, FlightsOrdered s →
    let logged := fun (t : State) cls code => logRuns s = true → Logged t cls code
    (∀ (site : FaultSite) p code kind index detail, siteReport s site = (some p, code, kind, index, detail) → p < 16 →
      let runs := (part s p).mode = .live ∨ (part s p).mode = .faulted
      let resets := regField s .fltCtrl 0 0 = 1 ∧ servesResets s = true ∧ s.faults.computing = false ∧ s.faults.mode ≠ .boot
      (¬ runs → ∃ t, Answers (.partitionFault site) s t ∧ logged t 4 code ∧ (part t p).mode = (part s p).mode ∧ t.inflight = s.inflight) ∧
      (runs → ¬ resets → ∃ t, Answers (.partitionFault site) s t ∧ (part t p).mode = .faulted ∧ logged t 4 code ∧
        (∀ f ∈ flying s p, f.done = none → ∃ g d, flight t f.id = some g ∧ g.done = some d ∧ d.status = stReset ∧ g.reserved = [])) ∧
      (runs → resets → (∃ w, Answers (.partitionFault site) s (beginReset w p 2 (part w p).faultRef) ∧ (part w p).mode = .faulted ∧ logged w 4 code) ∧
        (flying s p = [] → ∃ t l, Answers (.partitionFault site) s t ∧ (part t p).mode = .resetting ∧ (part t p).resetCause = 2 ∧
          t.collar.waiting = l ++ [(p, .reset p)]))) ∧
    (∀ (site : FaultSite) code kind index detail, siteReport s site = (none, code, kind, index, detail) →
      ∃ t, Answers (.partitionFault site) s t ∧ logged t 1 0x07 ∧ t.parts = s.parts ∧
        (∀ v u, site = .pocketUnit v u → ∀ a, a / 8192 = v.val * 24576 + u.val → memRead t.lining a = memRead [] a)) ∧
    (∀ (v : Fin 16) (line : Fin 98304) (t : State),
      let last := line.val = 98303
      let s1 := if last then { s with sleeves := tabMap {} s.sleeves v.val (fun x => { x with scrubPasses := (x.scrubPasses + 1) % 65536 }) } else s
      Answers (.patrolScrub (.lining v line) .clean) s s1 ∧ (∀ n, Answers (.patrolScrub (.lining v line) (.link n)) s s1) ∧
      (Answers (.patrolScrub (.lining v line) .uncorrectable) s t ↔
        ∀ u : Fin 24576, u.val = line.val / 4 → Answers (.partitionFault (.pocketUnit v u)) s1 t) ∧
      ∃ t1, Answers (.patrolScrub (.lining v line) .corrected) s t1 ∧ logged t1 1 0x02 ∧ StoreKept s t1 ∧
        (sleeveOf t1 v.val).corrected = min 65535 ((sleeveOf s v.val).corrected + 1) ∧
        tabGet 0 (sleeveOf t1 v.val).rowEvents (Config.liningRow line.val) = tabGet 0 (sleeveOf s v.val).rowEvents (Config.liningRow line.val) + 1) ∧
    (∀ (d : Fin 16) (b : Fin 536870912) (g : Fin 256) (burst : Fin 33554432) (t : State), g.val = d.val * 16 + b.val / 33554432 →
      burst.val = b.val % 33554432 →
      let x := tabGet {} s.devices d.val
      (x.mode ≠ .ready → ∀ r, Answers (.patrolScrub (.dram d b) r) s s) ∧
      (x.mode = .ready → Answers (.patrolScrub (.dram d b) .clean) s s ∧
        (Answers (.patrolScrub (.dram d b) .uncorrectable) s t ↔ Answers (.partitionFault (.granule g burst)) s t) ∧
        (∃ t, Answers (.patrolScrub (.dram d b) .corrected) s t ∧ logged t 1 0x03 ∧ StoreKept s t ∧
          (tabGet {} t.devices d.val).corrected = min 65535 (x.corrected + 1)) ∧
        (∀ n, n < 4 → ∃ t, Answers (.patrolScrub (.dram d b) (.link n)) s t ∧ (0 < n → logged t 1 0x04) ∧ StoreKept s t ∧
          (x.linkEcc ≤ 65535 → (tabGet {} t.devices d.val).linkEcc = min 65535 (x.linkEcc + n)) ∧ t.parts = s.parts) ∧
        (∀ n, 4 ≤ n → ∃ w, (∀ t, Answers (.patrolScrub (.dram d b) (.link n)) s t ↔ Answers (.deviceFailed d) w t) ∧ StoreKept s w ∧
          w.parts = s.parts ∧ (tabGet {} w.devices d.val).mode = .ready))) ∧
    (∀ (d : Fin 16) (b : Fin 524288),
      let x := tabGet {} s.devices d.val
      (x.mode = .ready → b.val ∉ x.filled → ∃ t, Answers (.clearFill d b) s t ∧
        tabGet {} t.devices d.val = { x with filled := x.filled ++ [b.val] } ∧ (∀ j, j ≠ d.val → tabGet {} t.devices j = tabGet {} s.devices j) ∧
        t = { s with devices := t.devices }) ∧
      (x.mode ≠ .ready ∨ b.val ∈ x.filled → Answers (.clearFill d b) s s))

/-! Unit and lane failures -/

/-- An engine slot that fails is retired. Where its Sleeve has a free spare, that takes its logical number, descriptors replay
the passes they lost and a RANK ends RANK_UNAVAILABLE; without one no pass of the engine remains. A keystream unit that fails is
retired and its mask pass replayed; a Lapel unit's parity error retires it and ends its RANKs. A slot or unit that is retired
already changes nothing more. Lining rows wait for the next compute reset; a bond lane is remapped to a spare, or with none left
its Sleeve is to become unusable and its partition is faulted. A Seam lane takes one of 16 spares or is a compute fault; a CCL
lane takes the spare. CCL retraining is counted and its third failure in a row faults the module. A failed device leaves a LIVE
partition that has granules on it DEAD. Where the spec leaves a point open it takes the choice of log entries 37, 64, 71, 74,
104, 116. -/
def Obligations.FailedUnitsAreRetired : Prop :=
  (∀ s : State, FlightsOrdered s →
    let logged := fun (t : State) cls code => logRuns s = true → Logged t cls code
    (∀ (v : Fin 16) (e : Fin 9),
      let n := 9 * v.val + e.val
      let s1 := modSlot s n (fun x => { x with retired := true })
      ((slotOf s n).retired = true → Answers (.engineSlotFailure v e) s (advanceStep s)) ∧
      ((slotOf s n).retired = false → (slotOf s n).logical = none → ∃ t, Answers (.engineSlotFailure v e) s t ∧
        (slotOf t n).retired = true ∧ (∀ j, j ≠ n → slotOf t j = slotOf s j) ∧ logged t 3 0x27 ∧ t.inflight = s.inflight ∧ StoreKept s t) ∧
      (∀ l m, (slotOf s n).retired = false → (slotOf s n).logical = some l → freeSpare s1 v.val = some m → ∃ t,
        Answers (.engineSlotFailure v e) s t ∧ (slotOf t n).retired = true ∧ (slotOf t n).logical = none ∧ (slotOf t m).logical = some l ∧
        (slotOf t m).resident = [] ∧ logged t 2 0x10 ∧
        (∀ f ∈ s.inflight, f.opcode ≠ 0x23 → ∃ g, flight t f.id = some g ∧ g.done = f.done ∧ g.jobs.length = f.jobs.length ∧
          g.replays = f.replays + lostOf l f + bit (runsPass s l f))) ∧
      (∀ l, (slotOf s n).retired = false → (slotOf s n).logical = some l → freeSpare s1 v.val = none → ∃ t,
        Answers (.engineSlotFailure v e) s t ∧ (slotOf t n).retired = true ∧ (slotOf t n).logical = none ∧ logged t 3 0x20 ∧
        (∀ f ∈ t.inflight, f.done = none → ∀ j ∈ f.jobs, j.uses l = false))) ∧
    (∀ (v : Fin 16) (k : Fin 8),
      let x := sleeveOf s v.val
      (bvBit x.ksRetired k.val = true → Answers (.keystreamUnitFailure v k) s s) ∧
      (bvBit x.ksRetired k.val = false → ∃ t, Answers (.keystreamUnitFailure v k) s t ∧ logged t 2 0x11 ∧ StoreKept s t ∧
        sleeveOf t v.val = { x with ksRetired := x.ksRetired ||| BitVec.ofNat 8 (2 ^ k.val), ksFailures := min 255 (x.ksFailures + 1) } ∧
        (keystreamPass s v.val k.val = none → t.inflight = s.inflight) ∧
        (∀ l f, keystreamPass s v.val k.val = some (l, f) → ∃ g, flight t f.id = some g ∧ g.replays = f.replays + 1 ∧
          g.jobs.length = f.jobs.length))) ∧
    (∀ d : Fin 4,
      let v := 4 * d.val
      ((sleeveOf s v).lapelRetired = true → Answers (.lapelParityError d) s s) ∧
      ((sleeveOf s v).lapelRetired = false → ∃ t, Answers (.lapelParityError d) s t ∧
        sleeveOf t v = { sleeveOf s v with lapelRetired := true } ∧ logged t 3 0x21 ∧ StoreKept s t ∧
        (∀ f ∈ s.inflight, f.done = none → (∃ o, f.body = .rank o ∧ o.lapelSleeve = v) → ∃ g x, flight t f.id = some g ∧
          g.done = some x ∧ x.status = stRank)))) ∧
  (∀ s : State,
    let logged := fun (t : State) cls code => logRuns s = true → Logged t cls code
    (∀ (v : Fin 16) row, ∃ t, Answers (.liningRowThreshold v row) s t ∧ logged t 1 0x02 ∧ StoreKept s t ∧ t.parts = s.parts ∧
      sleeveOf t v.val = { sleeveOf s v.val with rowsPending := (sleeveOf s v.val).rowsPending + 1 }) ∧
    (∀ (v : Fin 16) lane,
      let x := sleeveOf s v.val
      (x.bondSpares ≠ 0 → ∃ t, Answers (.bondLaneFailure v lane) s t ∧ logged t 2 0x14 ∧ StoreKept s t ∧
        sleeveOf t v.val = { x with bondSpares := x.bondSpares - 1, bondFailed := x.bondFailed + 1 }) ∧
      (x.bondSpares = 0 → sleeveOwner s v.val = none → ∃ t, Answers (.bondLaneFailure v lane) s t ∧ StoreKept s t ∧ t.parts = s.parts ∧
        sleeveOf t v.val = { x with bondFailed := x.bondFailed + 1, unusableNext := true } ∧ logged t 4 (freeNat s 1)) ∧
      (x.bondSpares = 0 → ∃ w, sleeveOf w v.val = { x with bondFailed := x.bondFailed + 1, unusableNext := true } ∧
        logged w 4 (freeNat s 1) ∧ w.parts = s.parts ∧ StoreKept s w ∧ Answers (.bondLaneFailure v lane) s
          (match sleeveOwner s v.val with | some p => faultPartition w p (faultRef w) | none => w)) ∧
      (∀ p, x.bondSpares = 0 → sleeveOwner s v.val = some p → (part s p).mode = .live → s.faults.mode = .run → s.faults.computing = false →
        regField s .fltCtrl 0 0 = 0 → ∃ t, Answers (.bondLaneFailure v lane) s t ∧ (part t p).mode = .faulted ∧
        sleeveOf t v.val = { x with bondFailed := x.bondFailed + 1, unusableNext := true })) ∧
    (∀ (d : Fin 2) lane,
      let used := tabGet 0 s.faults.seamSpares d.val
      (used < 16 → ∃ t, Answers (.seamLaneFailure d lane) s t ∧ tabGet 0 t.faults.seamSpares d.val = used + 1 ∧ logged t 2 0x13 ∧
        t.faults.shared = s.faults.shared + 1 ∧ t.parts = s.parts ∧ StoreKept s t) ∧
      (16 ≤ used → regField s .fltCtrl 1 1 = 0 → ∃ t, Answers (.seamLaneFailure d lane) s t ∧ logged t 5 0x41 ∧
        t.faults.mode = s.faults.mode ∧ t.parts = s.parts ∧ StoreKept s t) ∧
      (16 ≤ used → regField s .fltCtrl 1 1 = 1 → ∃ w, Answers (.seamLaneFailure d lane) s (requestCompute w false) ∧ logged w 5 0x41 ∧
        w.faults.mode = s.faults.mode ∧ w.parts = s.parts ∧ StoreKept s w)) ∧
    (∀ lane, (s.faults.cclSpares = 0 → Answers (.cclLaneFailure lane) s s) ∧
      (s.faults.cclSpares ≠ 0 → ∃ t, Answers (.cclLaneFailure lane) s t ∧ t.faults.cclSpares = s.faults.cclSpares - 1 ∧ logged t 2 0x15 ∧
        t.faults.shared = s.faults.shared + 1 ∧ t.parts = s.parts ∧ StoreKept s t)) ∧
    (Answers (.cclRetrain true) s { s with faults := { s.faults with cclFails := 0, shared := s.faults.shared + 1 } } ∧
      (s.faults.cclFails + 1 < 3 → Answers (.cclRetrain false) s { s with faults := { s.faults with
        cclFails := s.faults.cclFails + 1, shared := s.faults.shared + 1 } }) ∧
      (3 ≤ s.faults.cclFails + 1 → ∃ t, Answers (.cclRetrain false) s t ∧ t.faults.cclFails = s.faults.cclFails + 1 ∧
        (s.faults.mode = .run ∨ s.faults.mode = .computeReset ∨ s.faults.mode = .tripped → t.faults.mode = .moduleFault) ∧
        (s.faults.mode = .boot ∨ s.faults.mode = .transitOnly ∨ s.faults.mode = .moduleFault →
          t.faults.mode = s.faults.mode ∧ logged t 6 0x53))) ∧
    (∀ d : Fin 16,
      let x := tabGet {} s.devices d.val
      let touches := fun p => (((part s p).dram ++ (part s p).host).any (fun g => g / 16 == d.val)) = true
      (x.mode = .failed → Answers (.deviceFailed d) s s) ∧
      (x.mode ≠ .failed → ∃ t, Answers (.deviceFailed d) s t ∧ tabGet {} t.devices d.val = { x with mode := .failed } ∧
        t.faults.shared = s.faults.shared + 1 ∧ ((∀ p, p < 16 → ¬ touches p) → logged t 6 0x50 ∧ t.parts = s.parts) ∧
        (∀ p, p < 16 → (part s p).mode = .live ∨ (part s p).mode = .faulted ∨ (part s p).mode = .resetting ∨ (part s p).mode = .scrubbing →
          touches p → (part t p).mode = .dead) ∧
        (∀ p, p < 16 → (part s p).mode = .creating → touches p → (part t p).mode = .creating) ∧
        (∀ p, p < 16 → (part s p).mode = .live → ¬ touches p → (part t p).mode = .live))))

/-! Resets of the module, power and heat -/

/-- FLT_RESET op compute: refused outside RUN and TRIPPED, absorbed by one that runs, refused while a TRIPPED module is hot; the
third in 600 s puts the module in TRANSIT_ONLY; else it begins, counts a shared event and leaves every Pocket zero. Its end puts
the module in RUN and every LIVE partition under its next generation, or in MODULE_FAULT where images do not match. Where the
spec leaves a point open it takes the choice of log entries 71, 84. -/
def Obligations.ComputeResetsRebuildTheModule : Prop :=
  ∀ s : State, (logRuns s = false → Answers .computeReset s s) ∧
    (logRuns s = true →
      (s.faults.mode = .boot ∨ s.faults.mode = .transitOnly ∨ s.faults.mode = .moduleFault →
        Answers .computeReset s { s with faults := { s.faults with resetResult := 2 } }) ∧
      (s.faults.mode = .computeReset → Answers .computeReset s { s with faults := { s.faults with resetBusy := true, resetResult := 0 } }) ∧
      (s.faults.mode = .tripped → 800 ≤ s.power.tj8 → Answers .computeReset s { s with faults := { s.faults with resetResult := 1 } }) ∧
      ((s.faults.mode = .run ∨ (s.faults.mode = .tripped ∧ s.power.tj8 < 800)) →
        (thirdReset s = true → ∃ t, Answers .computeReset s t ∧ t.faults.mode = .transitOnly ∧ t.faults.resetResult = 2 ∧
          (∃ e ∈ t.faults.log, e.cls = 5 ∧ e.code = 0x4E)) ∧
        (thirdReset s = false → Answers .computeReset s (beginCompute s true)) ∧
        (thirdReset s = false → s.inflight = [] → ∃ t, Answers .computeReset s t ∧ t.faults.mode = .computeReset ∧ t.faults.computing = true ∧
          t.faults.resetBusy = true ∧ t.faults.resetResult = 0 ∧ t.faults.starts = (now s :: s.faults.starts).take 3 ∧
          t.faults.shared = s.faults.shared + 1 ∧ (∃ e ∈ t.faults.log, e.cls = 5 ∧ e.code = 0x4F) ∧
          (∀ a, a < 16 * 201326592 → memRead t.lining a = memRead [] a)))) ∧
    (∀ failed ok, s.faults.computing = false → Answers (.computeResetComplete failed ok) s s) ∧
    (∀ failed, s.faults.computing = true →
      Answers (.computeResetComplete failed true) s (resumeAllParts (endCompute (rebuildCompute s failed)))) ∧
    (∀ failed, s.faults.computing = true → s.faults.mode = .computeReset ∨ s.faults.mode = .tripped →
      ∃ t, Answers (.computeResetComplete failed false) s t ∧ t.faults.mode = .moduleFault ∧ t.faults.computing = false) ∧
    (s.faults.computing = true → s.faults.mode = .computeReset → (∀ q, q < 16 → (part s q).background = []) →
      ∃ t, Answers (.computeResetComplete [] true) s t ∧
      t.faults.mode = .run ∧ t.faults.computing = false ∧ t.faults.resetBusy = false ∧
      ∀ p, p < 16 → (part s p).mode = .live → (part t p).mode = .live ∧
        (part t p).gen = nextGen (part s p).gen ∧ (part t p).qps = [])

/-- A module fault of Table 18.10 puts a running module in MODULE_FAULT with every Pocket zero and its LIVE partitions FAULTED.
The thermal trip takes the engine rails and THERM_TRIP_N, ends what runs on engines and leaves the module TRIPPED; cooled below
100.0 degrees C it begins a compute reset where that is automatic. Power-up, RESET_N low for 10 us with PWR_GOOD, the commanded
reset and a reset outside BOOT leave the module freshly reset with their cause; power-down and a rail fault take every rail, and
after a rail fault power does not come up by itself. In BOOT the reset goes on: the entropy sources of usable Sleeves warm up,
and once the Collar has booted every Pocket is zero and the module runs. Where the spec leaves a point open it takes the choice
of log entries 67, 72, 84. -/
def Obligations.ModuleFaultsStopAndResetsRestart : Prop :=
  (∀ s : State, FlightsOrdered s →
    let logged := fun (t : State) cls code => logRuns s = true → Logged t cls code
    (∀ code, code < 0x51 ∨ 0x54 < code → Answers (.moduleFaultEntry code) s s) ∧
    (∀ code, 0x51 ≤ code → code ≤ 0x54 →
      (s.faults.mode = .run ∨ s.faults.mode = .computeReset ∨ s.faults.mode = .tripped → ∃ t, Answers (.moduleFaultEntry code) s t ∧
        t.faults.mode = .moduleFault ∧ t.faults.computing = false ∧ (logRuns s = true → ∃ e ∈ t.faults.log, e.cls = 6 ∧ e.code = code) ∧
        (∀ a, a < 16 * 201326592 → memRead t.lining a = memRead [] a) ∧
        (∀ p, p < 16 → (part s p).mode = .live → (part t p).mode = .faulted)) ∧
      (s.faults.mode = .boot ∨ s.faults.mode = .transitOnly ∨ s.faults.mode = .moduleFault → ∃ t, Answers (.moduleFaultEntry code) s t ∧
        t.faults.mode = s.faults.mode ∧ logged t 6 code ∧ StoreKept s t)) ∧
    (∃ t, Answers .thermalTrip s t ∧ t.power.thermTrip = true ∧ t.power.rails = false :: false :: s.power.rails.drop 2 ∧ logged t 5 0x42 ∧
      (s.faults.mode = .run ∨ s.faults.mode = .computeReset → t.faults.mode = .tripped ∧
        ∀ f ∈ s.inflight, metered (part s f.h.p.val).mode = true → f.done = none → needsUnits f.opcode = true →
          ∃ g x, flight t f.id = some g ∧ g.done = some x ∧ x.status = stReset) ∧
      (¬ (s.faults.mode = .run ∨ s.faults.mode = .computeReset) → t.faults.mode = s.faults.mode ∧ t.inflight = s.inflight)) ∧
    (s.faults.mode = .tripped → s.power.tj8 < 800 → regField s .fltCtrl 1 1 = 1 → s.faults.computing = false →
      (thirdReset s = false → Answers .tripCooldown s (beginCompute s false)) ∧
      (thirdReset s = true → ∃ t, Answers .tripCooldown s t ∧ t.faults.mode = .transitOnly)) ∧
    (s.faults.mode = .tripped → s.power.tj8 < 800 → regField s .fltCtrl 1 1 = 1 → s.faults.computing = false → thirdReset s = false →
      s.inflight = [] → ∃ t, Answers .tripCooldown s t ∧ t.faults.mode = .computeReset ∧ t.faults.computing = true ∧ t.power.thermTrip = false) ∧
    (s.faults.mode ≠ .tripped ∨ 800 ≤ s.power.tj8 ∨ regField s .fltCtrl 1 1 = 0 ∨ s.faults.computing = true → Answers .tripCooldown s s)) ∧
  (∀ s : State,
    (s.power.railFault = true → Answers .powerUp s s) ∧
    (s.power.railFault = false → ∃ t, Answers .powerUp s t ∧ FreshlyReset s t 1 ∧ t.power.rails = List.replicate 7 true ∧ t.power.pwrGood = true) ∧
    (∀ n, s.power.pwrGood = false ∨ n < 10000 → Answers (.resetNPulse n) s s) ∧
    (∀ n, s.power.pwrGood = true → 10000 ≤ n → ∃ t, Answers (.resetNPulse n) s t ∧ FreshlyReset s t 2) ∧
    (logRuns s = false → Answers .moduleResetCommand s s) ∧
    (logRuns s = true → ∃ t, Answers .moduleResetCommand s t ∧ FreshlyReset s t 3) ∧
    (∃ t, Answers .powerDown s t ∧ FreshlyReset s t 1 ∧ t.power.rails = List.replicate 7 false ∧ t.power.pwrGood = false ∧
      t.power.railFault = false) ∧
    (∀ r, ∃ t, Answers (.railFault r) s t ∧ FreshlyReset s t 1 ∧ t.power.rails = List.replicate 7 false ∧ t.power.pwrGood = false ∧
      t.power.railFault = true) ∧
    (s.faults.mode ≠ .boot → ∃ t, Answers .moduleReset s t ∧ FreshlyReset s t 2) ∧
    (s.faults.mode = .boot → s.entropy.pool = .off → ∃ t, Answers .moduleReset s t ∧ t.entropy.pool = .startup ∧
      (∀ v, v < 16 → (sourceOf t v).mode = if sleeveUsable s v then .warmup else .absent) ∧ StoreKept s t ∧ t.faults = s.faults) ∧
    (s.faults.mode = .boot → s.entropy.pool ≠ .off → logRuns s = true → ∃ t, Answers .moduleReset s t ∧ t.faults.mode = .run ∧
      t.faults.starts = [] ∧ (∀ a, a < 16 * 201326592 → memRead t.lining a = memRead [] a)) ∧
    (s.faults.mode = .boot → s.entropy.pool ≠ .off → logRuns s = false → Answers .moduleReset s s))

/-! Entropy -/

/-- Sources: a block is conditioned and counted in WARMUP, and waits for the combiner from a HEALTHY source; a failed health
test leaves it FAILED, and RETIRED the third time; a second later it warms up again, and with 16 blocks it is HEALTHY. The pool:
a block is the sum of one block of each source HEALTHY at its start; an instance is seeded from 48 bytes of the pool and the
rotation goes on. ENT_DATA gives a word where one is ready, else 0 with err; the test pattern starts only in BLANK with its fuse
intact. Noise that has stalled for 100 ms ends its descriptor ENTROPY_STALL. Where the spec leaves a point open it takes the
choice of log entries 4, 78, 32. -/
def Obligations.EntropyFollowsItsSources : Prop :=
  (∀ (s : State) (v : Fin 16),
    let x := sourceOf s v.val
    let others := fun (t : State) => ∀ j, j ≠ v.val → sourceOf t j = sourceOf s j
    (∀ raw,
      let b := conditioned v.val x.blockCounter (if s.entropy.pool = .test then patternBlock s v.val x.blockCounter else raw)
      (x.mode = .warmup → ∃ t, Answers (.entropyBlock v raw) s t ∧ others t ∧ t = { s with entropy := t.entropy } ∧
        sourceOf t v.val = { x with blockCounter := x.blockCounter + 1, warmBlocks := x.warmBlocks + 1 }) ∧
      (x.mode = .healthy → ∃ t, Answers (.entropyBlock v raw) s t ∧ others t ∧ t = { s with entropy := t.entropy } ∧
        sourceOf t v.val = { x with blockCounter := x.blockCounter + 1,
                                    blocks := if x.joins ≤ s.entropy.poolIndex then x.blocks ++ [b] else x.blocks }) ∧
      (x.mode ≠ .warmup → x.mode ≠ .healthy → Answers (.entropyBlock v raw) s s)) ∧
    (∀ test : Fin 3,
      (x.mode ≠ .warmup → x.mode ≠ .healthy → Answers (.healthTestFail v test) s s) ∧
      (x.mode = .warmup ∨ x.mode = .healthy →
        let stalls := s.entropy.pool = .delivering ∧ ((healthySources s).filter (fun w => w != v.val)).length < 4
        ∃ t, Answers (.healthTestFail v test) s (poolAdvance t) ∧ others t ∧ StoreKept s t ∧
          sourceOf t v.val = { x with mode := if 3 ≤ x.failures + 1 then .retired else .failed, failures := x.failures + 1,
                                      lastTest := BitVec.ofNat 3 (2 ^ test.val), blocks := [], warmBlocks := 0, failedAt := now s } ∧
          (stalls → t.entropy.pool = .stalled ∧ (∀ i, (drbgOf t i).running = false) ∧ (logRuns s = true → Logged t 3 0x25)) ∧
          (¬ stalls → t.entropy.pool = s.entropy.pool ∧ (logRuns s = true →
            Logged t (if 3 ≤ x.failures + 1 then 3 else 2) (if 3 ≤ x.failures + 1 then 0x24 else 0x16))))) ∧
    (∀ u, (u.entropy.pool ≠ .startup ∨ poolReady u = false → poolAdvance u = u) ∧
      (u.entropy.pool = .startup → poolReady u = true → u.inflight = [] → (poolAdvance u).entropy.pool = .delivering ∧
        ∀ i, i < 18 → (drbgOf (poolAdvance u) i).running = true)) ∧
    (x.mode = .failed → x.failures < 3 → ∃ t, Answers (.sourceRetryTimer v) s t ∧
      sourceOf t v.val = { x with mode := .warmup, warmBlocks := 0 } ∧ others t ∧ Reached s t (x.failedAt + 1000000000) ∧
      t = { s with entropy := t.entropy, time := t.time }) ∧
    (x.mode ≠ .failed ∨ 3 ≤ x.failures → Answers (.sourceRetryTimer v) s s) ∧
    (x.mode ≠ .warmup ∨ x.warmBlocks < 16 → Answers (.sourceWarmupDone v) s s) ∧
    (x.mode = .warmup → 16 ≤ x.warmBlocks → ∃ t, others t ∧ t = { s with entropy := t.entropy } ∧
      t.entropy = { s.entropy with sources := t.entropy.sources } ∧ sourceOf t v.val = { x with
        mode := .healthy, warmBlocks := 0, joins := if 4 ≤ (healthySources s).length then s.entropy.poolIndex + 1 else s.entropy.poolIndex } ∧
      (s.entropy.pool ≠ .stalled ∨ (healthySources s).length < 3 → Answers (.sourceWarmupDone v) s (poolAdvance t)) ∧
      (s.entropy.pool = .stalled → 3 ≤ (healthySources s).length → Answers (.sourceWarmupDone v) s
        (finishProvision (poolTo { t with entropy := { t.entropy with nextInstance := 0 } } .delivering)))) ∧
    (x.mode = .warmup → 16 ≤ x.warmBlocks → s.entropy.pool = .delivering → ∃ t, Answers (.sourceWarmupDone v) s t ∧
      (sourceOf t v.val).mode = .healthy ∧ t = { s with entropy := t.entropy }) ∧
    (x.mode = .warmup → 16 ≤ x.warmBlocks → s.entropy.pool = .stalled → (healthySources s).length = 3 → s.collar.provisioning = none →
      ∃ t, Answers (.sourceWarmupDone v) s t ∧ t.entropy.pool = .delivering ∧ t.entropy.nextInstance = 0 ∧
        (sourceOf t v.val).mode = .healthy)) ∧
  (∀ s : State,
    (let vs := (healthySources s).filter (fun v => decide ((sourceOf s v).joins ≤ s.entropy.poolIndex))
     ((healthySources s).length < 4 ∨ vs = [] ∨ (∃ v ∈ vs, (sourceOf s v).blocks = []) → Answers .poolBlock s s) ∧
     (4 ≤ (healthySources s).length → vs ≠ [] → (∀ v ∈ vs, (sourceOf s v).blocks ≠ []) → ∃ t, Answers .poolBlock s t ∧
       t.entropy.poolIndex = s.entropy.poolIndex + 1 ∧
       t.entropy.poolBytes = s.entropy.poolBytes ++ vs.foldl (fun acc v => xorBytes acc ((sourceOf s v).blocks.headD [])) (zeros 32) ∧
       (∀ v ∈ vs, (sourceOf t v).blocks = (sourceOf s v).blocks.drop 1) ∧ (∀ v, v ∉ vs → sourceOf t v = sourceOf s v) ∧
       t = { s with entropy := t.entropy })) ∧
    (let i := s.entropy.nextInstance
     (s.entropy.poolBytes.length < 48 ∨ s.entropy.pool = .off ∨ s.entropy.pool = .stalled → Answers .drbgReseed s s) ∧
     (48 ≤ s.entropy.poolBytes.length → s.entropy.pool ≠ .off → s.entropy.pool ≠ .stalled →
       ∃ t, Answers .drbgReseed s (poolAdvance (resumeNoises t)) ∧ (s.inflight = [] → resumeNoises t = t) ∧
         t.entropy.poolBytes = s.entropy.poolBytes.drop 48 ∧ t.entropy.nextInstance = (i + 1) % 18 ∧
         (drbgOf t i).seeded = true ∧ ((drbgOf t i).running = true ↔ s.entropy.pool = .delivering ∨ s.entropy.pool = .test) ∧
         ((drbgOf s i).seeded = false → let r := drbgUpdate (xorBytes (s.entropy.poolBytes.take 48) (personalization i)) (zeros 32) (zeros 16)
           (drbgOf t i).key = r.1 ∧ (drbgOf t i).v = r.2) ∧
         (∀ j, j ≠ i → drbgOf t j = drbgOf s j) ∧ t = { s with entropy := t.entropy, freeCtr := s.freeCtr + 1 })) ∧
    (let stalled := fun (f : InFlight) => f.done = none ∧ (∃ k, f.phase = .noiseStall k) ∧ f.stallFrom.isSome = true
     ∀ p : Fin 16, ((∀ f ∈ flying s p.val, ¬ stalled f) → Answers (.entropyStallTimeout p) s s) ∧
       (FlightsOrdered s → ∀ f before after, flying s p.val = before ++ f :: after → (∀ g ∈ before, ¬ stalled g) → stalled f →
         ∃ u t g d, Reached s u (f.stallFrom.getD 0 + 100000000) ∧ u = { s with time := u.time } ∧
           Answers (.entropyStallTimeout p) s t ∧ t = entropyExpired u f ∧ flight t f.id = some g ∧ g.done = some d ∧ d.status = stEntropy ∧
           g.reserved = [])) ∧
    (logRuns s = false → Answers .entDataRead s s ∧ ∀ v, Answers (.entTpEnable v) s s) ∧
    (logRuns s = true →
      (s.entropy.pool = .delivering → 0 < readyWords s → ∃ t, Answers .entDataRead s t ∧
        t.out = s.out ++ [.readData (BitVec.ofNat 64 (freeNat s 8))] ∧ t.freeCtr = s.freeCtr + 1 ∧ t.regs = s.regs ∧
        t = { s with out := t.out, entropy := t.entropy, freeCtr := t.freeCtr }) ∧
      (s.entropy.pool ≠ .delivering ∨ readyWords s = 0 → ∃ t, Answers .entDataRead s t ∧ t.out = s.out ++ [.readData 0#64] ∧
        t.regs = (setStatusBits s .entStat 2).regs ∧ t = { s with out := t.out, regs := t.regs }) ∧
      (∀ v : Word, (s.otp.lifeCycle ≠ .blank ∨ s.otp.testPattern = true → Answers (.entTpEnable v) s s) ∧
        (s.otp.lifeCycle = .blank → s.otp.testPattern = false → (v.toNat % 2 = 1 ↔ s.entropy.pool = .test) →
          Answers (.entTpEnable v) s (setReg s .entTpCtrl (v.toNat / 256 * 256 + v.toNat % 2))) ∧
        (s.otp.lifeCycle = .blank → s.otp.testPattern = false → v.toNat % 2 = 1 → s.entropy.pool ≠ .test → ∃ t,
          Answers (.entTpEnable v) s t ∧ t.entropy.pool = .test ∧ t.entropy.poolBytes = [] ∧ t.entropy.poolIndex = 0 ∧ StoreKept s t ∧
          (∀ i, (drbgOf t i).running = false ∧ (drbgOf t i).seeded = false)) ∧
        (s.otp.lifeCycle = .blank → s.otp.testPattern = false → v.toNat % 2 = 0 → s.entropy.pool = .test → ∃ t,
          Answers (.entTpEnable v) s t ∧ t.entropy.pool = .startup ∧ StoreKept s t))))

/-! Power and ageing -/

/-- Each interval takes the rails' readings (a failed transfer keeps the one before), their sum as the sample and its energy,
one step of the cap's stages and one of the thermal factor. A target outside 285 to 330 is refused; a step of at most 5 codes is
committed outside droop, raising the voltage first or signalling the slots first; a slot takes its point and ceiling at its pass
boundary. Droop response starts once and, when it ends, the allowance rises again from 32 and steps wait 2 us. After 16 readings
in a row that call for less a slot's ceiling is to fall one code; below 270 the slot is to be retired. Predictions are stored,
saturated at 32 bits. Where the spec leaves a point open it takes the choice of log entries 24, 37, 73, 76, 77, 116. -/
def Obligations.PowerAndAgeingSetThePoint : Prop :=
  (∀ s : State,
    (∀ rails, ∃ t, Answers (.powerInterval rails) s t ∧ t.power.railPower = railReadings s rails ∧ t.power.sample = (railReadings s rails).sum ∧
      t.power.intervals = s.power.intervals + 1 ∧ t.power.energy = (s.power.energy + 10 * (railReadings s rails).sum) % 2 ^ 64 ∧
      t.power.phi = phiStep s.power.phi s.power.tj8 ∧ t.power.tj8 = s.power.tj8 ∧ t.power.current = s.power.current ∧
      (let w := capStep { s.power with sample := (railReadings s rails).sum } (allowedPower s)
       t.power.stageMem = w.stageMem ∧ t.power.stageLink = w.stageLink ∧ t.power.stageComp = w.stageComp) ∧ StoreKept s t ∧
      t.parts = s.parts ∧ t.inflight = s.inflight ∧ t.power.issued = issuing s ∧
      (regField s .ptnModes 0 0 = 0 → t.power.shares = s.power.shares) ∧
      (regField s .ptnModes 0 0 = 1 → (∀ v, v < 16 → v ∉ s.power.issued) → t.power.shares = []) ∧
      (regField s .ptnModes 0 0 = 1 → (∃ v, v < 16 ∧ v ∈ s.power.issued) → t.power.shares.length = 16 ∧
        (∀ x ∈ t.power.shares, computeAllowance s ≤ x) ∧ t.power.shares.sum ≤ 64 * computeAllowance s ∧
        ∀ v, v < 16 → v ∉ s.power.issued → t.power.shares[v]? = some (computeAllowance s))) ∧
    (∀ r, ∃ t, Answers (.thermalSensorRead r) s t ∧
      (∀ d, d < 16 → tabGet {} t.devices d = { tabGet {} s.devices d with temp := (r.devices[d]?).getD (tabGet {} s.devices d).temp }) ∧
      t = { s with devices := t.devices, power := { s.power with
        tj8 := match r.junctions with | [] => s.power.tj8 | j :: js => js.foldl max j } }) ∧
    (logRuns s = false → ∀ v, Answers (.pwrOpWrite v) s s) ∧
    (∀ v : Word, logRuns s = true →
      (285 ≤ v.toNat % 256 + 256 → v.toNat % 256 + 256 ≤ 330 → Answers (.pwrOpWrite v) s (setReg s .pwrOp (v.toNat % 256))) ∧
      (v.toNat % 256 + 256 < 285 ∨ 330 < v.toNat % 256 + 256 → ∃ t, Answers (.pwrOpWrite v) s t ∧ Logged t 7 0x67 ∧
        reg t .pwrOp = reg s .pwrOp ∧ t.power = s.power)) ∧
    (let target := 256 + reg s .pwrOp
     let c := s.power.current
     (s.power.step.isSome = true ∨ target = c ∨ s.power.droop = true ∨ now s < s.power.droopClearAt → Answers .freqStepCommit s s) ∧
     (s.power.step = none → s.power.droop = false → s.power.droopClearAt ≤ now s → c < target →
       Answers .freqStepCommit s { s with power := { s.power with
         step := some (min target (c + 5)), stepUp := true, railsSettled := false, voutMv := 150 + 2 * min target (c + 5) } }) ∧
     (s.power.step = none → s.power.droop = false → s.power.droopClearAt ≤ now s → target < c → ∃ t, Answers .freqStepCommit s t ∧
       t.power = { s.power with step := some (max target (c - 5)), stepUp := false } ∧
       (∀ n x, (n, x) ∈ t.slots → x.logical.isSome = true → x.pendingOp = some (max target (c - 5))) ∧
       t = { s with power := t.power, slots := t.slots })) ∧
    (s.power.railsSettled = true → Answers .railSettled s s) ∧
    (let settled := { s with power := { s.power with railsSettled := true } }
     s.power.railsSettled = false →
      (s.power.step = none → Answers .railSettled s settled) ∧
      (s.power.stepUp = false → Answers .railSettled s (advanceStep settled)) ∧
      (∀ g, s.power.step = some g → s.power.stepUp = true → ∃ t, Answers .railSettled s (advanceStep t) ∧
        t = { settled with slots := t.slots } ∧ (∀ e ∈ t.slots, e.2.logical.isSome = true → e.2.pendingOp = some g) ∧
        ∀ e ∈ s.slots, e.2.logical.isSome = false → e ∈ t.slots)) ∧
    (∀ u, (u.power.step = none → advanceStep u = u) ∧ ∀ g, u.power.step = some g →
      (allSwitched u g = false → advanceStep u = u) ∧
      (allSwitched u g = true → u.power.stepUp = false → u.power.voutMv ≠ voltageOf g →
        advanceStep u = { u with power := { u.power with voutMv := voltageOf g, railsSettled := false } }) ∧
      (allSwitched u g = true → u.power.stepUp = true ∨ u.power.voutMv = voltageOf g → u.power.railsSettled = false → advanceStep u = u) ∧
      (allSwitched u g = true → u.power.stepUp = true ∨ u.power.voutMv = voltageOf g → u.power.railsSettled = true →
        (advanceStep u).power.current = g ∧ (advanceStep u).power.step = none ∧ (advanceStep u).slots = u.slots ∧
        bvBit (advanceStep u).power.active 8 = u.slots.any (fun e => e.2.logical.isSome && decide (e.2.ceiling < g)))) ∧
    (∀ n : Fin 144,
      let x := slotOf s n.val
      (x.pendingCeiling = none → Answers (.slotFreqSwitch n) s
        (advanceStep (modSlot s n.val (fun y => { y with op := y.pendingOp.getD y.op, pendingOp := none })))) ∧
      (∀ k, x.pendingCeiling = some k → 270 ≤ k → ∃ t, Answers (.slotFreqSwitch n) s (advanceStep t) ∧
        slotOf t n.val = { x with op := x.pendingOp.getD x.op, pendingOp := none, ceiling := k, pendingCeiling := none } ∧
        (∀ j, j ≠ n.val → slotOf t j = slotOf s j) ∧ bvBit t.power.active 8 = ceilingBinds t ∧ StoreKept s t ∧ t.inflight = s.inflight) ∧
      (∀ k, x.pendingCeiling = some k → k < 270 → ∃ t, Answers (.slotFreqSwitch n) s t ∧ (slotOf t n.val).retired = true))) ∧
  (∀ s : State,
    (∀ d, (s.power.droop = true → Answers (.droopDetect d) s s) ∧
      (s.power.droop = false → ∃ t, Answers (.droopDetect d) s t ∧ t.power.droop = true ∧ bvBit t.power.active 5 = true ∧ t.slots = s.slots ∧
        t.parts = s.parts ∧ StoreKept s t)) ∧
    (s.power.droop = false → Answers .droopClear s s) ∧
    (s.power.droop = true → ∃ t, Answers .droopClear s t ∧ t.power.droop = false ∧ bvBit t.power.active 5 = false ∧
      t.power.droopClearAt = now s + 2000 ∧ t.power.rampFrom = (32, now s) ∧ t.slots = s.slots ∧ t.parts = s.parts ∧ StoreKept s t) ∧
    (∀ (n : Fin 144) r,
      let x := slotOf s n.val
      let need := requiredCeiling x r
      let c := x.pendingCeiling.getD x.ceiling
      let becomes := fun (y : Slot) => ∃ t, Answers (.ageingRead n r) s t ∧ slotOf t n.val = y ∧ (∀ j, j ≠ n.val → slotOf t j = slotOf s j) ∧
        t = { s with slots := t.slots }
      (x.retired = true → Answers (.ageingRead n r) s s) ∧
      (x.retired = false → need < 270 → becomes { x with pendingCeiling := some (min c need.toNat), overCount := 0 }) ∧
      (x.retired = false → 270 ≤ need → (c : Int) ≤ need → becomes { x with overCount := 0 }) ∧
      (x.retired = false → 270 ≤ need → need < (c : Int) → x.overCount + 1 < 16 → becomes { x with overCount := x.overCount + 1 }) ∧
      (x.retired = false → 270 ≤ need → need < (c : Int) → 16 ≤ x.overCount + 1 →
        becomes { x with overCount := 0, pendingCeiling := some (c - 1) })) ∧
    (∀ a b c, Answers (.eolPrediction a b c) s { s with power := { s.power with
      eolEngines := min 0xFFFFFFFF a, eolLanes := min 0xFFFFFFFF b, eolEm := min 0xFFFFFFFF c } }))

/-! Self-test and set-up -/

/-- A self-test that is admitted holds its region and zeroes it where it is memory or a Cuff; one that is not is REFUSED, and
one while another runs is lost. Its end releases the region, counts, and marks a failure: an engine slot is retired, a Sleeve is
to become unusable, a port's fuse is blown. Where the spec leaves a point open it takes the choice of log entry 80. -/
def Obligations.SelfTestsHoldAndMark : Prop :=
  ∀ (s : State) (kind index : Nat),
    let logged := fun (t : State) cls code => logRuns s = true → Logged t cls code
    (logRuns s = false → Answers (.bstStart kind index false) s s) ∧
    (logRuns s = true →
      (s.bst.busy = true → Answers (.bstStart kind index false) s (setStatusBits s .bstStat (2 ^ 30))) ∧
      (s.bst.busy = false → testAdmitted s kind index = false → ∃ t, Answers (.bstStart kind index false) s t ∧
        t.bst = { s.bst with kind := kind, index := index, result := 2 } ∧ t.slots = s.slots ∧ t.parts = s.parts ∧ StoreKept s t) ∧
      (s.bst.busy = false → testAdmitted s kind index = true → ∃ t, Answers (.bstStart kind index false) s t ∧
        t.bst = { s.bst with kind := kind, index := index, busy := true, held := true } ∧ t.collar.selfTested = true ∧ t.parts = s.parts ∧
        (kind ≠ 5 → StoreKept s t) ∧ (kind = 5 → ∀ a, a / 201326592 = index → memRead t.lining a = memRead [] a) ∧
        (kind = 2 → (slotOf t index).resident = [] ∧ (slotOf t index).consts = []) ∧
        (kind = 3 → (sleeveOf t index).keysLoaded = false))) ∧
    (s.faults.mode = .boot → regField s .bstCtrl 31 31 = 1 → s.bst.busy = false → 1 ≤ kind → kind ≤ 6 → regionExists kind index = true →
      Answers (.bstStart kind index true) s { s with
        bst := { s.bst with kind := kind, index := index, busy := true }, collar := { s.collar with selfTested := true } }) ∧
    (s.faults.mode ≠ .boot ∨ regField s .bstCtrl 31 31 = 0 ∨ s.bst.busy = true ∨ kind = 0 ∨ 6 < kind → Answers (.bstStart kind index true) s s) ∧
    (s.bst.busy = false → ∀ failed, Answers (.bstComplete failed) s s) ∧
    (∀ failed, s.bst.busy = true →
      let v := s.bst.index
      let fails := bit (!failed.isEmpty)
      (∃ u, Answers (.bstComplete failed) s (if failed = [] then u else markRegion u s.bst.kind v failed) ∧
        u.bst = { s.bst with busy := false, held := false, result := fails, run := min 65535 (s.bst.run + 1),
                             failed := min 65535 (s.bst.failed + fails) } ∧
        u.slots = s.slots ∧ u.parts = s.parts ∧ u.otp = s.otp ∧ StoreKept s u ∧
        (s.bst.held = false ∨ s.bst.kind ≠ 3 → u.sleeves = s.sleeves ∧ u.collar = s.collar) ∧
        (s.bst.held = true → s.bst.kind = 3 → ∀ p, sleeveOwner s v = some p → u.collar.waiting = s.collar.waiting ++ [(p, .reload p)]) ∧
        (s.bst.held = true → s.bst.kind = 3 → sleeveOwner s v = none → sleeveOf u v = { sleeveOf s v with keysLoaded := true })) ∧
      (failed ≠ [] →
        (s.bst.kind = 1 ∨ s.bst.kind = 2 → ∃ t, Answers (.bstComplete failed) s t ∧ t.bst.result = 1 ∧ (slotOf t v).retired = true) ∧
        (s.bst.kind = 3 → ∃ t, Answers (.bstComplete failed) s t ∧ t.bst.result = 1 ∧
          ∀ k ∈ failed, k < 8 → bvBit (sleeveOf t v).ksRetired k = true) ∧
        (s.bst.kind = 4 ∨ s.bst.kind = 5 → sleeveOwner s v = none → ∃ t, Answers (.bstComplete failed) s t ∧ t.bst.result = 1 ∧
          (sleeveOf t v).unusableNext = true ∧ logged t 3 0x26) ∧
        (∀ p, s.bst.kind = 4 ∨ s.bst.kind = 5 → sleeveOwner s v = some p → ∃ w, w.bst.result = 1 ∧ (sleeveOf w v).unusableNext = true ∧
          logged w 4 0x32 ∧ Answers (.bstComplete failed) s (faultPartition w p (faultRef w))) ∧
        (s.bst.kind = 6 → ∃ t, Answers (.bstComplete failed) s t ∧ t.bst.result = 1 ∧ (sleeveOf t (4 * v)).lapelRetired = true ∧
          logged t 3 0x26) ∧
        (s.bst.kind = 7 ∨ s.bst.kind = 9 → v ≠ 0 → ∃ t, Answers (.bstComplete failed) s t ∧ t.bst.result = 1 ∧
          t.otp = { s.otp with d1Failed := true } ∧ logged t 3 0x26) ∧
        (s.bst.kind = 7 ∨ s.bst.kind = 9 → v = 0 → ∃ t, Answers (.bstComplete failed) s t ∧ t.bst.result = 1 ∧
          (s.faults.mode = .run ∨ s.faults.mode = .computeReset ∨ s.faults.mode = .tripped → t.faults.mode = .moduleFault)) ∧
        (s.bst.kind = 8 → ∃ t, Answers (.bstComplete failed) s t ∧ t.bst.result = 1 ∧
          t.otp = { s.otp with portFailed := s.otp.portFailed ||| BitVec.ofNat 6 (2 ^ v) } ∧ (portOf t v).mode = .failed ∧ logged t 3 0x26)))

/-- Set-up. A lock once set stays; a ring's control register under its lock is refused where it would change; enabling a
submission ring that meets R209 takes its doorbell line, one that does not is refused; a debug counter takes its value; the
sideband frame goes out while power is good. A register write of a bad size or at no register is refused, one before boot has
finished is not served, and a plain RW register takes the value. The companion's accesses reach the window of a partition and no
other memory. Where the spec leaves a point open it takes the choice of log entries 81, 83, 106. -/
def Obligations.SetUpTakesItsWrites : Prop :=
  ∀ s : State,
    (∀ v : Word, (v.toNat % 2 = 1 → Answers (.glbLockWrite v) s (setReg s .glbLock 1)) ∧ (v.toNat % 2 = 0 → Answers (.glbLockWrite v) s s)) ∧
    ((s.power.pwrGood = true → Answers .sidebandFrame s { s with out := s.out ++ [.sideband (sidebandFrame s)] }) ∧
      (s.power.pwrGood = false → Answers .sidebandFrame s s)) ∧
    (logRuns s = false → ∀ p i r cq v, Answers (.ringLockWrite p v) s s ∧ Answers (.dbgCntWrite i v) s s ∧
      Answers (.ringEnableWrite p cq r v) s s) ∧
    (logRuns s = true →
      (∀ (p : Fin 16) (v : Word), (v.toNat % 2 = 1 → Answers (.ringLockWrite p v) s (setReg s (.ringLock p.val) 1)) ∧
        (v.toNat % 2 = 0 → Answers (.ringLockWrite p v) s s)) ∧
      (∀ (i : Fin 16) (v : Word), ∃ t, Answers (.dbgCntWrite i v) s t ∧ tabGet 0 t.dbg.counts i.val = v.toNat ∧
        (∀ j, j ≠ i.val → tabGet 0 t.dbg.counts j = tabGet 0 s.dbg.counts j) ∧ t = { s with dbg := t.dbg }) ∧
      (∀ (p : Fin 16) (r : Fin 8) (v : Word),
        let fields := v.toNat % 2 + bitsOf v.toNat 8 3 * 2 ^ 8 + bitsOf v.toNat 16 5 * 2 ^ 16
        (regField s (.ringLock p.val) 0 0 = 1 → fields = reg s (.sqCtrl p.val r.val) → Answers (.ringEnableWrite p false r v) s s) ∧
        (regField s (.ringLock p.val) 0 0 = 1 → fields ≠ reg s (.sqCtrl p.val r.val) →
          Answers (.ringEnableWrite p false r v) s (refuseAccess s)) ∧
        (regField s (.ringLock p.val) 0 0 = 0 → regField s (.sqCtrl p.val r.val) 0 0 = 0 → v.toNat % 2 = 1 →
          (sqSetUp s p.val r.val v.toNat = true → ∃ t, Answers (.ringEnableWrite p false r v) s t ∧
            reg t (.sqCtrl p.val r.val) = fields ∧ (sqOf t p.val r.val).mode = .fetch ∧
            (sqOf t p.val r.val).reads = (sqOf s p.val r.val).reads ++ [instant s] ∧ .lineRead (reg s (.sqDb p.val r.val)) ∈ t.out ∧
            OthersKept s t p.val ∧ StoreKept s t) ∧
          (sqSetUp s p.val r.val v.toNat = false → ∃ t, Answers (.ringEnableWrite p false r v) s t ∧ Logged t 7 0x60 ∧
            regField t (.sqCtrl p.val r.val) 0 0 = 0 ∧ (sqOf t p.val r.val).mode = (sqOf s p.val r.val).mode ∧ StoreKept s t)) ∧
        (regField s (.ringLock p.val) 0 0 = 0 → regField s (.sqCtrl p.val r.val) 0 0 = 1 → v.toNat % 2 = 0 →
          (sqOf s p.val r.val).mode ≠ .stopped → ∃ t, Answers (.ringEnableWrite p false r v) s t ∧ reg t (.sqCtrl p.val r.val) = fields ∧
            (sqOf t p.val r.val).mode = .disabled ∧ (sqOf t p.val r.val).buffer = (sqOf s p.val r.val).buffer ∧
            (sqOf t p.val r.val).reads = [] ∧ OthersKept s t p.val ∧ StoreKept s t)) ∧
      (∀ (p : Fin 16) (r : Fin 8) (v : Word),
        let held := bitsOf v.toNat 1 2 * 2 + bitsOf v.toNat 16 5 * 2 ^ 16
        let drained := fun u => settleFences (drainHeld u p.val r.val (cqOf s p.val r.val).held.length) p.val
        regField s (.ringLock p.val) 0 0 = 0 →
          (v.toNat % 2 = 0 → Answers (.ringEnableWrite p true r v) s (setReg s (.cqCtrl p.val r.val) held)) ∧
          (v.toNat % 2 = 1 → regField s (.cqCtrl p.val r.val) 0 0 = 1 →
            Answers (.ringEnableWrite p true r v) s (drained (setReg s (.cqCtrl p.val r.val) (held + 1)))) ∧
          (v.toNat % 2 = 1 → regField s (.cqCtrl p.val r.val) 0 0 = 0 → cqSetUp s p.val r.val v.toNat = true →
            Answers (.ringEnableWrite p true r v) s (drained (setReg (emit (countCcl s p.val 64 0) (.lineRead (reg s (.cqCredit p.val r.val))))
              (.cqCtrl p.val r.val) (held + 1)))) ∧
          (v.toNat % 2 = 1 → regField s (.cqCtrl p.val r.val) 0 0 = 0 → cqSetUp s p.val r.val v.toNat = false → ∃ t,
            Answers (.ringEnableWrite p true r v) s t ∧ Logged t 7 0x60 ∧ regField t (.cqCtrl p.val r.val) 0 0 = 0 ∧ StoreKept s t) ∧
          (∀ u, (cqOf s p.val r.val).held = [] → (∀ f ∈ flying u p.val, f.done = none → ∀ w, f.phase ≠ .fence w) → drained u = u))) ∧
    (∀ offset size v, responds s offset = false → Answers (.registerWrite offset size v) s s) ∧
    (∀ offset size v, responds s offset = true → regAt (offset / 8 * 8) = none → Answers (.registerWrite offset size v) s (refuseAccess s)) ∧
    (∀ offset size v r, responds s offset = true → regAt (offset / 8 * 8) = some r → windowReg r = false → writtenOf offset size v.toNat = none →
      Answers (.registerWrite offset size v) s (refuseAccess s)) ∧
    (logRuns s = true → ∀ (p : Fin 16) (v : Word), reg s (.rmaQpArg1 p.val) < 2 ^ 64 →
      Answers (.registerWrite (Reg.offset (.rmaQpArg1 p.val)) 8 v) s (setReg s (.rmaQpArg1 p.val) v.toNat)) ∧
    (∀ addr data bad, windowAt s addr = none → ∃ t, Answers (.cclWindowAccess addr data bad) s t ∧ (logRuns s = true → Logged t 7 0x68) ∧
      StoreKept s t ∧ t.parts = s.parts) ∧
    (∀ addr p off, windowAt s addr = some (p, off) →
      (∃ t, Answers (.cclWindowAccess addr none false) s t ∧ t.out = s.out ++ [.line (pread s p (2 ^ 60 + off / 64 * 64) 64) false] ∧
        StoreKept s t ∧ OthersKept s t p ∧ t.regs = s.regs) ∧
      (∃ t line, Answers (.cclWindowAccess addr none true) s t ∧ .line line true ∈ t.out ∧ StoreKept s t ∧ OthersKept s t p) ∧
      (∀ bs bad,
        let b := bs.take (64 - off % 64)
        ∃ t, Answers (.cclWindowAccess addr (some bs) bad) s t ∧ t.dram = (pwrite s p (2 ^ 60 + off) b).dram ∧
          t.lining = (pwrite s p (2 ^ 60 + off) b).lining ∧ t.out = s.out ∧ OthersKept s t p ∧ t.regs = s.regs))
end

