-- ==== Sys2Proof/Laws/Keeps.lean ====
section
/-! SUPPORT. What every operation of the block keeps: the queue of commands, the canonical form of memory, the order of the
descriptors in flight, the bounds of the fault log and of the counter's parts, and OTP that never goes back. One relation, one lemma for each operation. -/

namespace Sys2Proof.Machine

set_option Elab.async false

/-- What a change from `s` to `t` keeps. -/
structure Keeps (s t : State) : Prop where
  queue : t.pending = s.pending
  otp : OtpFollows s t
  inv : Inv s → Inv t
  ids : s.nextId ≤ t.nextId

theorem OtpFollows.refl (s : State) : OtpFollows s s := by
  simp [OtpFollows]

theorem and_chain {w : Nat} {a b c : BitVec w} (h1 : a &&& b = a) (h2 : b &&& c = b) : a &&& c = a := by
  calc a &&& c = (a &&& b) &&& c := by rw [h1]
    _ = a &&& (b &&& c) := BitVec.and_assoc a b c
    _ = a := by rw [h2, h1]

theorem OtpFollows.trans {s t u : State} (h1 : OtpFollows s t) (h2 : OtpFollows t u) : OtpFollows s u := by
  obtain ⟨a1, a2, a3, a4, a5, a6, a7, a8⟩ := h1
  obtain ⟨b1, b2, b3, b4, b5, b6, b7, b8⟩ := h2
  exact ⟨le_trans a1 b1, le_trans a2 b2, le_trans a3 b3, le_trans a4 b4, fun h => b5 (a5 h), fun h => b6 (a6 h),
    and_chain a7 b7, and_chain a8 b8⟩

theorem Keeps.refl (s : State) : Keeps s s := ⟨rfl, OtpFollows.refl s, id, le_refl _⟩

theorem Keeps.trans {s t u : State} (h1 : Keeps s t) (h2 : Keeps t u) : Keeps s u :=
  ⟨h2.queue.trans h1.queue, h1.otp.trans h2.otp, fun h => h2.inv (h1.inv h), le_trans h1.ids h2.ids⟩

/-- A change of what the kept facts do not speak of. -/
theorem Keeps.upd {s t : State} (h : Keeps s t) {out : List Output} {freeCtr : Nat} {regs : Tab Nat} {tiles : Tab TileMeta}
    {areas : List MarkedArea} {slots : Tab Slot} {sleeves : Tab Sleeve} {devices : Tab Device} {parts : Tab Partition}
    {collar : Collar} {entropy : Entropy} {time : FedTime} {shawl : Shawl} {faults : Faults} {power : Power} {bst : SelfTest}
    {dbg : Debug} {manager : Manager} (hl : faults.log.length ≤ max t.faults.log.length 4096)
    (ht : ClockBounded t.time → ClockBounded time := by with_unfolding_all exact fun hc => ⟨hc.1, hc.2.1, hc.2.2⟩) :
    Keeps s { pending := t.pending, out := out, freeCtr := freeCtr, nextId := t.nextId, regs := regs, lining := t.lining,
              tiles := tiles, dram := t.dram, areas := areas, slots := slots, sleeves := sleeves, devices := devices, parts := parts,
              inflight := t.inflight, otp := t.otp, collar := collar, entropy := entropy, time := time, shawl := shawl,
              faults := faults, power := power, bst := bst, dbg := dbg, manager := manager } :=
  ⟨h.queue, h.otp, fun hs => ⟨(h.inv hs).1, (h.inv hs).2.1, by
    have := (h.inv hs).2.2.1; simp only [LogBounded] at this ⊢; omega, ht (h.inv hs).2.2.2⟩, h.ids⟩

/-- A change that leaves the fault log as it is. -/
theorem Keeps.same {s t : State} (h : Keeps s t) {out : List Output} {freeCtr : Nat} {regs : Tab Nat} {tiles : Tab TileMeta}
    {areas : List MarkedArea} {slots : Tab Slot} {sleeves : Tab Sleeve} {devices : Tab Device} {parts : Tab Partition}
    {collar : Collar} {entropy : Entropy} {time : FedTime} {shawl : Shawl} {faults : Faults} {power : Power} {bst : SelfTest}
    {dbg : Debug} {manager : Manager} (hl : faults.log = t.faults.log)
    (ht : ClockBounded t.time → ClockBounded time := by with_unfolding_all exact fun hc => ⟨hc.1, hc.2.1, hc.2.2⟩) :
    Keeps s { pending := t.pending, out := out, freeCtr := freeCtr, nextId := t.nextId, regs := regs, lining := t.lining,
              tiles := tiles, dram := t.dram, areas := areas, slots := slots, sleeves := sleeves, devices := devices, parts := parts,
              inflight := t.inflight, otp := t.otp, collar := collar, entropy := entropy, time := time, shawl := shawl,
              faults := faults, power := power, bst := bst, dbg := dbg, manager := manager } :=
  h.upd (by rw [hl]; exact le_max_left _ _) ht

theorem Keeps.fold {α : Type} {s : State} {f : State → α → State} (hf : ∀ (u : State) (a : α), Keeps s u → Keeps s (f u a)) :
    ∀ (l : List α) {t : State}, Keeps s t → Keeps s (l.foldl f t)
  | [], _, h => h
  | a :: l, _, h => Keeps.fold hf l (hf _ a h)

theorem Keeps.foldPair {α β : Type} {s : State} {f : State × β → α → State × β}
    (hf : ∀ (u : State × β) (a : α), Keeps s u.1 → Keeps s (f u a).1) :
    ∀ (l : List α) {t : State × β}, Keeps s t.1 → Keeps s (l.foldl f t).1
  | [], _, h => h
  | a :: l, _, h => Keeps.foldPair hf l (hf _ a h)

theorem Keeps.ite {s t u : State} {c : Prop} [Decidable c] (h1 : Keeps s t) (h2 : Keeps s u) : Keeps s (if c then t else u) := by
  split
  · exact h1
  · exact h2

/-! OTP -/

/-- A change of the OTP that lets nothing go back. -/
theorem Keeps.withOtp {s t : State} (h : Keeps s t) {o : Otp} {out : List Output} {freeCtr : Nat} {regs : Tab Nat} {tiles : Tab TileMeta}
    {areas : List MarkedArea} {slots : Tab Slot} {sleeves : Tab Sleeve} {devices : Tab Device} {parts : Tab Partition}
    {collar : Collar} {entropy : Entropy} {time : FedTime} {shawl : Shawl} {faults : Faults} {power : Power} {bst : SelfTest}
    {dbg : Debug} {manager : Manager} (hl : faults.log = t.faults.log) (ho : OtpFollows t { t with otp := o })
    (ht : ClockBounded t.time → ClockBounded time := by with_unfolding_all exact fun hc => ⟨hc.1, hc.2.1, hc.2.2⟩) :
    Keeps s { pending := t.pending, out := out, freeCtr := freeCtr, nextId := t.nextId, regs := regs, lining := t.lining,
              tiles := tiles, dram := t.dram, areas := areas, slots := slots, sleeves := sleeves, devices := devices, parts := parts,
              inflight := t.inflight, otp := o, collar := collar, entropy := entropy, time := time, shawl := shawl,
              faults := faults, power := power, bst := bst, dbg := dbg, manager := manager } :=
  ⟨h.queue, h.otp.trans ho, fun hs => ⟨(h.inv hs).1, (h.inv hs).2.1, by
    have := (h.inv hs).2.2.1; simp only [LogBounded, hl] at this ⊢; exact this, ht (h.inv hs).2.2.2⟩, h.ids⟩

theorem bits_kept {w : Nat} (a b : BitVec w) : a &&& (a ||| b) = a := by
  apply BitVec.eq_of_getElem_eq
  intro i hi
  simp only [BitVec.getElem_and, BitVec.getElem_or]
  cases a[i] <;> simp

/-! Memory -/

theorem memWfFrom_mono {m : Memory} {a b : Nat} (hab : a ≤ b) (h : memWfFrom b m = true) : memWfFrom a m = true := by
  cases m with
  | nil => rfl
  | cons c t =>
    obtain ⟨j, x⟩ := c
    simp only [memWfFrom, Bool.and_eq_true, decide_eq_true_eq] at h ⊢
    exact ⟨⟨le_trans hab h.1.1, h.1.2⟩, h.2⟩

theorem memWfFrom_filter {p : Host.Cell → Bool} :
    ∀ {m : Memory} {a : Nat}, memWfFrom a m = true → memWfFrom a (m.filter p) = true
  | [], _, _ => rfl
  | (j, x) :: t, a, h => by
    simp only [memWfFrom, Bool.and_eq_true, decide_eq_true_eq] at h
    have ht : memWfFrom (j + 1) (t.filter p) = true := memWfFrom_filter h.2
    simp only [List.filter]
    split
    · simp only [memWfFrom, Bool.and_eq_true, decide_eq_true_eq]
      exact ⟨h.1, ht⟩
    · exact memWfFrom_mono (by omega) ht

theorem memWfFrom_drop :
    ∀ {m : Memory} {a b : Nat}, memWfFrom a m = true → memWfFrom b (m.dropWhile (fun c => c.1 < b)) = true
  | [], _, _, _ => rfl
  | (j, x) :: t, a, b, h => by
    simp only [memWfFrom, Bool.and_eq_true, decide_eq_true_eq] at h
    simp only [List.dropWhile]
    split
    · exact memWfFrom_drop h.2
    · rename_i hj
      simp only [decide_eq_false_iff_not, not_lt] at hj
      simp only [memWfFrom, Bool.and_eq_true, decide_eq_true_eq]
      exact ⟨⟨hj, h.1.2⟩, h.2⟩

theorem memWfFrom_cells {u : Memory} :
    ∀ (bs : Bytes) (a : Nat), memWfFrom (a + bs.length) u = true → memWfFrom a (memCells a bs ++ u) = true
  | [], _, h => h
  | b :: bs, a, h => by
    have h1 : memWfFrom (a + 1) (memCells (a + 1) bs ++ u) = true := by
      apply memWfFrom_cells bs (a + 1)
      rw [show a + 1 + bs.length = a + (b :: bs).length by simp only [List.length_cons]; omega]
      exact h
    simp only [memCells]
    split
    · exact memWfFrom_mono (by omega) h1
    · rename_i hb
      simp only [List.cons_append, memWfFrom, Bool.and_eq_true, decide_eq_true_eq, bne_iff_ne, ne_eq]
      exact ⟨⟨le_refl a, hb⟩, h1⟩

theorem memWfFrom_take {u : Memory} {b : Nat} (hu : memWfFrom b u = true) :
    ∀ {m : Memory} {a : Nat}, a ≤ b → memWfFrom a m = true →
      memWfFrom a (m.takeWhile (fun c => c.1 < b) ++ u) = true
  | [], _, hab, _ => memWfFrom_mono hab hu
  | (j, x) :: t, a, hab, h => by
    simp only [memWfFrom, Bool.and_eq_true, decide_eq_true_eq] at h
    simp only [List.takeWhile]
    split
    · rename_i hj
      simp only [decide_eq_true_eq] at hj
      simp only [List.cons_append, memWfFrom, Bool.and_eq_true, decide_eq_true_eq]
      exact ⟨h.1, memWfFrom_take hu (by omega) h.2⟩
    · exact memWfFrom_mono hab hu

/-- A store keeps the canonical form. -/
theorem memWriteRange_wf {m : Memory} (a : Nat) (bs : Bytes) (h : m.wf = true) : (memWriteRange m a bs).wf = true := by
  unfold Memory.wf at h ⊢
  unfold memWriteRange
  rw [List.append_assoc]
  exact memWfFrom_take (memWfFrom_cells bs a (memWfFrom_drop h)) (Nat.zero_le a) h

/-- Storing one byte keeps the canonical form. -/
theorem memWrite_wf {m : Memory} (a : Nat) (b : Byte) (h : m.wf = true) : (memWrite m a b).wf = true :=
  memWriteRange_wf a [b] h

/-- Leaving cells out keeps the canonical form. -/
theorem filter_wf {m : Memory} (p : Host.Cell → Bool) (h : m.wf = true) : Memory.wf (m.filter p) = true :=
  memWfFrom_filter h

/-- Zeroing a range keeps the canonical form. -/
theorem memZero_wf {m : Memory} (a n : Nat) (h : m.wf = true) : (memZero m a n).wf = true := filter_wf _ h

/-- A change of the memories that keeps their form. -/
theorem Keeps.mem {s t : State} (h : Keeps s t) {lining dram : Memory} {tiles : Tab TileMeta} {areas : List MarkedArea}
    {devices : Tab Device} (h1 : t.lining.wf = true → lining.wf = true) (h2 : t.dram.wf = true → dram.wf = true) :
    Keeps s { t with lining := lining, dram := dram, tiles := tiles, areas := areas, devices := devices } :=
  ⟨h.queue, h.otp, fun hs => ⟨⟨h1 (h.inv hs).1.1, h2 (h.inv hs).1.2⟩, (h.inv hs).2.1, (h.inv hs).2.2⟩, h.ids⟩

/-! Descriptors in flight -/

/-- A change of the descriptors in flight that leaves their numbers, or leaves some out. -/
theorem Keeps.flights {s t : State} (h : Keeps s t) {l : List InFlight}
    (hl : (l.map (fun f => f.id)).Sublist (t.inflight.map (fun f => f.id))) : Keeps s { t with inflight := l } := by
  refine ⟨h.queue, h.otp, fun hs => ⟨(h.inv hs).1, ⟨List.Pairwise.sublist hl (h.inv hs).2.1.1, ?_⟩, (h.inv hs).2.2⟩, h.ids⟩
  intro f hf
  have hm : f.id ∈ t.inflight.map (fun g => g.id) := hl.subset (List.mem_map_of_mem hf)
  obtain ⟨g, hg, hgf⟩ := List.mem_map.mp hm
  have := (h.inv hs).2.1.2 g hg
  simp only [] at hgf ⊢
  omega

theorem modFlight_keeps {s t : State} (h : Keeps s t) (id : Nat) {f : InFlight → InFlight} (hf : ∀ x, (f x).id = x.id) :
    Keeps s (modFlight t id f) := by
  unfold modFlight
  apply h.flights
  rw [List.map_map, show ((fun g : InFlight => g.id) ∘ fun x => if x.id = id then f x else x) = fun g : InFlight => g.id from by
    funext x; simp only [Function.comp]; split <;> simp only [hf]]

theorem enter_keeps {s t : State} (h : Keeps s t) (hd : DescHdr) (b : DescBody) (cs : List (Nat × Nat)) : Keeps s (enter t hd b cs) := by
  refine ⟨h.queue, h.otp, fun hs => ⟨(h.inv hs).1, ?_, (h.inv hs).2.2⟩, le_trans h.ids (Nat.le_succ _)⟩
  have hb := (h.inv hs).2.1
  refine ⟨?_, ?_⟩
  · simp only [enter, List.map_append, List.map_cons, List.map_nil]
    refine List.pairwise_append.mpr ⟨hb.1, by simp, ?_⟩
    intro a ha c hc
    obtain ⟨g, hg, rfl⟩ := List.mem_map.mp ha
    simp only [List.mem_singleton] at hc
    rw [hc]; exact hb.2 g hg
  · intro f hf
    simp only [enter, List.mem_append, List.mem_singleton] at hf ⊢
    rcases hf with hf | rfl
    · exact Nat.lt_succ_of_lt (hb.2 f hf)
    · exact Nat.lt_succ_self _

end Sys2Proof.Machine
end

