-- ==== Sys2Proof/Laws/KeepsOps.lean ====
section
/-! SUPPORT. What the operations of these files keep: Regs, Ops. -/

namespace Sys2Proof.Machine

set_option Elab.async false

theorem setReg_keeps {s0 t : State} (h : Keeps s0 t) (r : Reg) (v : Nat) : Keeps s0 (setReg t r v) := by
  unfold setReg
  try dsimp only
  with_reducible repeat' (first | exact h | assumption | rfl | split | (refine Keeps.same ?_ rfl; first | exact h | assumption | split) | intro)

theorem spendFree_keeps {s0 t : State} (h : Keeps s0 t) : Keeps s0 (spendFree t) := by
  unfold spendFree
  try dsimp only
  with_reducible repeat' (first | exact h | assumption | rfl | split | (refine Keeps.same ?_ rfl; first | exact h | assumption | split) | intro)

theorem debt_lt {c : Prop} [Decidable c] (x : Nat) : (if c then 0 else x % 10000) < 10000 := by
  split <;> omega

/-- Time that passes keeps the counter's parts within their bounds. -/
theorem FedTime.pass_bounded {c : FedTime} (h : ClockBounded c) (dt : Nat) : ClockBounded (c.pass dt).wrap := by
  obtain ⟨_, _, h3⟩ := h
  exact ⟨Nat.mod_lt _ (by decide), debt_lt _, h3⟩

theorem elapse_keeps {s0 t : State} (h : Keeps s0 t) (dt : Nat) : Keeps s0 (elapse t dt) :=
  h.same rfl (fun hc => FedTime.pass_bounded hc dt)

theorem elapseTo_keeps {s0 t : State} (h : Keeps s0 t) (dt : Nat) (frac : Nat) : Keeps s0 (elapseTo t dt frac) := by
  unfold elapseTo
  try dsimp only
  with_reducible repeat' (first | exact h | assumption | rfl | apply elapse_keeps | split | (refine Keeps.same ?_ rfl; first | exact h | assumption | apply elapse_keeps | split) | intro)

theorem reach_keeps {s0 t : State} (h : Keeps s0 t) (t' : Nat) : Keeps s0 (reach t t') := by
  unfold reach
  try dsimp only
  with_reducible repeat' (first | exact h | assumption | rfl | apply elapse_keeps | split | intro)

theorem emit_keeps {s0 t : State} (h : Keeps s0 t) (o : Output) : Keeps s0 (emit t o) := by
  unfold emit
  try dsimp only
  with_reducible repeat' (first | exact h | assumption | rfl | split | (refine Keeps.same ?_ rfl; first | exact h | assumption | split) | intro)

theorem raiseIrq_keeps {s0 t : State} (h : Keeps s0 t) (bits : Nat) : Keeps s0 (raiseIrq t bits) := by
  unfold raiseIrq
  try dsimp only
  with_reducible repeat' (first | exact h | assumption | rfl | apply setReg_keeps | apply emit_keeps | split | intro)

theorem setStatusBits_keeps {s0 t : State} (h : Keeps s0 t) (r : Reg) (bits : Nat) : Keeps s0 (setStatusBits t r bits) := by
  unfold setStatusBits
  try dsimp only
  with_reducible repeat' (first | exact h | assumption | rfl | apply setReg_keeps | split | intro)

theorem setPart_keeps {s0 t : State} (h : Keeps s0 t) (p : Nat) (x : Partition) : Keeps s0 (setPart t p x) := by
  unfold setPart
  try dsimp only
  with_reducible repeat' (first | exact h | assumption | rfl | split | (refine Keeps.same ?_ rfl; first | exact h | assumption | split) | intro)

theorem modPart_keeps {s0 t : State} (h : Keeps s0 t) (p : Nat) (f : Partition → Partition) : Keeps s0 (modPart t p f) := by
  unfold modPart
  try dsimp only
  with_reducible repeat' (first | exact h | assumption | rfl | apply setPart_keeps | split | intro)

theorem countEvent_keeps {s0 t : State} (h : Keeps s0 t) (ev : Nat) (scopes : List (Nat × Nat)) (n : Nat) : Keeps s0 (countEvent t ev scopes n) := by
  unfold countEvent
  try dsimp only
  with_reducible repeat' (first | exact h | assumption | rfl | apply Keeps.foldPair | apply Keeps.fold | split | (refine Keeps.same ?_ rfl; first | exact h | assumption | apply Keeps.foldPair | apply Keeps.fold | split) | intro)

theorem modUsage_keeps {s0 t : State} (h : Keeps s0 t) (p : Nat) (f : Usage → Usage) : Keeps s0 (modUsage t p f) := by
  unfold modUsage
  try dsimp only
  with_reducible repeat' (first | exact h | assumption | rfl | apply modPart_keeps | apply countEvent_keeps | split | intro)

theorem modCq_keeps {s0 t : State} (h : Keeps s0 t) (p : Nat) (c : Nat) (f : CqRing → CqRing) : Keeps s0 (modCq t p c f) := by
  unfold modCq
  try dsimp only
  with_reducible repeat' (first | exact h | assumption | rfl | apply modPart_keeps | split | intro)

theorem modSq_keeps {s0 t : State} (h : Keeps s0 t) (p : Nat) (r : Nat) (f : SqRing → SqRing) : Keeps s0 (modSq t p r f) := by
  unfold modSq
  try dsimp only
  with_reducible repeat' (first | exact h | assumption | rfl | apply modPart_keeps | split | intro)

theorem cqInterrupt_keeps {s0 t : State} (h : Keeps s0 t) (p : Nat) (c : Nat) : Keeps s0 (cqInterrupt t p c) := by
  unfold cqInterrupt
  try dsimp only
  with_reducible repeat' (first | exact h | assumption | rfl | apply emit_keeps | apply modCq_keeps | apply modUsage_keeps | split | intro)

theorem cqAfterRecord_keeps {s0 t : State} (h : Keeps s0 t) (p : Nat) (c : Nat) (r : Record) : Keeps s0 (cqAfterRecord t p c r) := by
  unfold cqAfterRecord
  try dsimp only
  with_reducible repeat' (first | exact h | assumption | rfl | apply cqInterrupt_keeps | apply modCq_keeps | split | intro)

theorem cqWrite_keeps {s0 t : State} (h : Keeps s0 t) (p : Nat) (c : Nat) (r : Record) : Keeps s0 (cqWrite t p c r) := by
  unfold cqWrite
  try dsimp only
  with_reducible repeat' (first | exact h | assumption | rfl | apply emit_keeps | apply spendFree_keeps | apply modCq_keeps | apply modUsage_keeps | apply cqAfterRecord_keeps | split | intro)

theorem postRecord_keeps {s0 t : State} (h : Keeps s0 t) (p : Nat) (c : Nat) (r : Record) : Keeps s0 (postRecord t p c r) := by
  unfold postRecord
  try dsimp only
  with_reducible repeat' (first | exact h | assumption | rfl | apply cqWrite_keeps | apply modCq_keeps | apply modSq_keeps | split | intro)

theorem drainHeld_keeps {s0 : State} (p c n : Nat) : ∀ {t : State}, Keeps s0 t → Keeps s0 (drainHeld t p c n) := by
  induction n with
  | zero => intro t h; exact h
  | succ n ih =>
    intro t h
    unfold drainHeld
    split
    · exact h
    · split
      · exact ih (cqWrite_keeps (modCq_keeps h p c _) p c _)
      · exact h

theorem gate_keeps {s0 t u : State} (h : Keeps s0 t) (hu : Keeps s0 u) : Keeps s0 (gate t u) := by
  unfold gate
  split
  · exact hu
  · exact h

theorem notice_keeps {s0 t : State} (h : Keeps s0 t) (r : Report) (seq : Nat) : Keeps s0 (notice t r seq) := by
  unfold notice
  try dsimp only
  with_reducible repeat' (first | exact h | assumption | rfl | apply postRecord_keeps | split | intro)

theorem logFault.logNew_keeps {s0 t : State} (h : Keeps s0 t) (r : Report) : Keeps s0 (logFault.logNew t r) := by
  unfold logFault.logNew
  dsimp only
  apply notice_keeps
  have h1 : ∀ (e : FaultEntry) (n : Nat), Keeps s0 { t with faults := { t.faults with head := n, log := (e :: t.faults.log).take 4096 } } :=
    fun e n => h.upd (by simp only [List.length_take]; omega)
  split
  · exact raiseIrq_keeps (setStatusBits_keeps (h1 _ _) _ _) 1
  · exact setStatusBits_keeps (h1 _ _) _ _

theorem logFault_keeps {s0 t : State} (h : Keeps s0 t) (r : Report) : Keeps s0 (logFault t r) := by
  unfold logFault
  split
  · exact h
  · split
    · rename_i e rest he
      split
      · exact h.upd (by simp only [he, List.length_cons]; omega)
      · exact logFault.logNew_keeps h r
    · exact logFault.logNew_keeps h r

theorem refuseAccess_keeps {s0 t : State} (h : Keeps s0 t) : Keeps s0 (refuseAccess t) := by
  unfold refuseAccess
  try dsimp only
  with_reducible repeat' (first | exact h | assumption | rfl | apply logFault_keeps | split | intro)

theorem sharedEvent_keeps {s0 t : State} (h : Keeps s0 t) : Keeps s0 (sharedEvent t) := by
  unfold sharedEvent
  try dsimp only
  with_reducible repeat' (first | exact h | assumption | rfl | split | (refine Keeps.same ?_ rfl; first | exact h | assumption | split) | intro)

theorem touchBlocks_keeps {s0 t : State} (h : Keeps s0 t) (phys : Nat) (len : Nat) : Keeps s0 (touchBlocks t phys len) := by
  unfold touchBlocks
  try dsimp only
  with_reducible repeat' (first | exact h | assumption | rfl | split | (refine Keeps.same ?_ rfl; first | exact h | assumption | split) | intro)

theorem writePiece_keeps {s0 t : State} (h : Keeps s0 t) (c : Piece) (bs : Bytes) : Keeps s0 (writePiece t c bs) := by
  unfold writePiece
  split
  · exact h.mem (fun w => memWriteRange_wf _ _ w) id
  · exact touchBlocks_keeps (h.mem id (fun w => memWriteRange_wf _ _ w)) _ _

theorem writePieces_keeps {s0 : State} (cs : List Piece) : ∀ {t : State} (bs : Bytes), Keeps s0 t → Keeps s0 (writePieces t cs bs) := by
  induction cs with
  | nil => intro t bs h; exact h
  | cons c cs ih => intro t bs h; exact ih (bs.drop c.len) (writePiece_keeps h c (bs.take c.len))

theorem countPiece_keeps {s0 t : State} (h : Keeps s0 t) (p : Nat) (c : Piece) : Keeps s0 (countPiece p t c) := by
  unfold countPiece
  try dsimp only
  with_reducible repeat' (first | exact h | assumption | rfl | apply countEvent_keeps | split | intro)

theorem pwrite_keeps {s0 t : State} (h : Keeps s0 t) (p a : Nat) (bs : Bytes) : Keeps s0 (pwrite t p a bs) :=
  Keeps.fold (fun _ c hu => countPiece_keeps hu p c) _ (writePieces_keeps _ bs h)

theorem countDram_keeps {s0 t : State} (h : Keeps s0 t) (p : Nat) (a : Nat) (len : Nat) (write : Bool) : Keeps s0 (countDram t p a len write) := by
  unfold countDram
  try dsimp only
  with_reducible repeat' (first | exact h | assumption | rfl | apply countEvent_keeps | apply modUsage_keeps | apply Keeps.foldPair | apply Keeps.fold | split | intro)

theorem setUnitMeta_keeps {s0 t : State} (h : Keeps s0 t) (p : Nat) (u : Nat) (m : TileMeta) : Keeps s0 (setUnitMeta t p u m) := by
  unfold setUnitMeta
  try dsimp only
  with_reducible repeat' (first | exact h | assumption | rfl | split | (refine Keeps.same ?_ rfl; first | exact h | assumption | split) | intro)

theorem setUnitMetas_keeps {s0 : State} (p : Nat) (m : TileMeta) (n : Nat) :
    ∀ {t : State} (u : Nat), Keeps s0 t → Keeps s0 (setUnitMetas t p u m n) := by
  induction n with
  | zero => intro t u h; exact h
  | succ n ih => intro t u h; exact ih (u + 1) (setUnitMeta_keeps h p u m)

theorem markPiece_keeps {s0 t : State} (h : Keeps s0 t) (m : TileMeta) (mark : Bool) (model : Bool) (c : Piece) : Keeps s0 (markPiece t m mark model c) := by
  unfold markPiece
  try dsimp only
  with_reducible repeat' (first | exact h | assumption | rfl | split | (refine Keeps.same ?_ rfl; first | exact h | assumption | split) | intro)

theorem writeMarked_keeps {s0 t : State} (h : Keeps s0 t) (p : Nat) (a : Nat) (bs : Bytes) (m : TileMeta) (mark : Bool) (model : Bool) : Keeps s0 (writeMarked t p a bs m mark model) := by
  unfold writeMarked
  try dsimp only
  with_reducible repeat' (first | exact h | assumption | rfl | apply countDram_keeps | apply pwrite_keeps | apply markPiece_keeps | apply Keeps.foldPair | apply Keeps.fold | split | intro)

theorem writeTile_keeps {s0 t : State} (h : Keeps s0 t) (p u : Nat) (bs : Bytes) (m : TileMeta) : Keeps s0 (writeTile t p u bs m) :=
  setUnitMetas_keeps p m _ u (pwrite_keeps h p _ bs)

theorem freeUnits_keeps {s0 : State} (p n : Nat) : ∀ {t : State} (u : Nat), Keeps s0 t → Keeps s0 (freeUnits t p u n) := by
  induction n with
  | zero => intro t u h; exact h
  | succ n ih => intro t u h; exact ih (u + 1) (h.mem (fun w => memZero_wf _ _ w) id)

theorem clearPockets_keeps {s0 t : State} (h : Keeps s0 t) (sl : List Nat) : Keeps s0 (clearPockets t sl) :=
  h.mem (fun w => filter_wf _ w) id

theorem clearGranules_keeps {s0 t : State} (h : Keeps s0 t) (gs : List Nat) : Keeps s0 (clearGranules t gs) :=
  h.mem id (fun w => filter_wf _ w)

end Sys2Proof.Machine
end

