-- ==== Sys2Proof/Laws/KeepsFlight.lean ====
section
/-! SUPPORT. What the operations of these files keep: Shawl, Flight, Engines, Poly, Params, Windows, Ingest. -/

namespace Sys2Proof.Machine

set_option Elab.async false

theorem dropPacket_keeps {s0 t : State} (h : Keeps s0 t) (j : Nat) : Keeps s0 (dropPacket t j) := by
  unfold dropPacket
  try dsimp only
  with_reducible repeat' (first | exact h | assumption | rfl | split | (refine Keeps.same ?_ rfl; first | exact h | assumption | split) | intro)

theorem modPort_keeps {s0 t : State} (h : Keeps s0 t) (i : Nat) (f : Port → Port) : Keeps s0 (modPort t i f) := by
  unfold modPort
  try dsimp only
  with_reducible repeat' (first | exact h | assumption | rfl | split | (refine Keeps.same ?_ rfl; first | exact h | assumption | split) | intro)

theorem modLinkKey_keeps {s0 t : State} (h : Keeps s0 t) (p : Nat) (keyId : Nat) (f : LinkKey → LinkKey) : Keeps s0 (modLinkKey t p keyId f) := by
  unfold modLinkKey
  try dsimp only
  with_reducible repeat' (first | exact h | assumption | rfl | split | (refine Keeps.same ?_ rfl; first | exact h | assumption | split) | intro)

theorem modQueue_keeps {s0 t : State} (h : Keeps s0 t) (key : Nat) (f : CellQueue → CellQueue) : Keeps s0 (modQueue t key f) := by
  unfold modQueue
  try dsimp only
  with_reducible repeat' (first | exact h | assumption | rfl | split | (refine Keeps.same ?_ rfl; first | exact h | assumption | split) | intro)

theorem giveCredits_keeps {s0 t : State} (h : Keeps s0 t) (key : Nat) (cells : Nat) : Keeps s0 (giveCredits t key cells) := by
  unfold giveCredits
  try dsimp only
  with_reducible repeat' (first | exact h | assumption | rfl | apply modQueue_keeps | apply modPort_keeps | split | intro)

theorem growQueue_keeps {s0 : State} {r : State × Nat} (h : Keeps s0 r.1) (key : Nat) : Keeps s0 (growQueue r key).1 := by
  unfold growQueue
  try dsimp only
  with_reducible repeat' (first | exact h | assumption | rfl | apply giveCredits_keeps | split | intro)

theorem growDie_keeps {s0 t : State} (h : Keeps s0 t) (d : Nat) : Keeps s0 (growDie t d) := by
  unfold growDie
  try dsimp only
  with_reducible repeat' (first | exact h | assumption | rfl | apply growQueue_keeps | apply Keeps.foldPair | apply Keeps.fold | split | intro)

theorem enterQueue_keeps {s0 t : State} (h : Keeps s0 t) (key : Nat) (cells : Nat) : Keeps s0 (enterQueue t key cells) := by
  unfold enterQueue
  try dsimp only
  with_reducible repeat' (first | exact h | assumption | rfl | apply modQueue_keeps | apply setStatusBits_keeps | apply raiseIrq_keeps | split | intro)

theorem leaveQueue_keeps {s0 t : State} (h : Keeps s0 t) (key : Nat) (cells : Nat) : Keeps s0 (leaveQueue t key cells) := by
  unfold leaveQueue
  try dsimp only
  with_reducible repeat' (first | exact h | assumption | rfl | apply growDie_keeps | apply giveCredits_keeps | apply modQueue_keeps | split | intro)

theorem sendPacket_keeps {s0 t : State} (h : Keeps s0 t) (p : Nat) (k : Packet) : Keeps s0 (sendPacket t p k) := by
  unfold sendPacket
  try dsimp only
  with_reducible repeat' (first | exact h | assumption | rfl | apply modUsage_keeps | apply dropPacket_keeps | apply countEvent_keeps | apply emit_keeps | apply modPort_keeps | split | intro)

theorem sealPacket_keeps {s0 t : State} (h : Keeps s0 t) (p : Nat) (e : LinkKey) (d : Draft) : Keeps s0 (sealPacket t p e d).1 := by
  unfold sealPacket
  try dsimp only
  with_reducible repeat' (first | exact h | assumption | rfl | apply modLinkKey_keeps | apply modUsage_keeps | split | intro)

theorem sendSealed_keeps {s0 t u : State} (h : Keeps s0 t) (p keyId : Nat) (d : Draft) (hu : sendSealed t p keyId d = some u) :
    Keeps s0 u := by
  unfold sendSealed at hu
  split at hu
  · cases hu
  · split at hu
    · cases hu
    · cases hu
      exact sendPacket_keeps (sealPacket_keeps h p _ d) p _

theorem trySend_keeps {s0 t : State} (h : Keeps s0 t) (p keyId : Nat) (d : Draft) : Keeps s0 (trySend t p keyId d) := by
  unfold trySend
  cases hu : sendSealed t p keyId d with
  | none => exact h
  | some u => exact sendSealed_keeps h p keyId d hu

theorem stampArrival_keeps {s0 t : State} (h : Keeps s0 t) (a : Arrival) : Keeps s0 (stampArrival t a).1 := by
  unfold stampArrival
  try dsimp only
  with_reducible repeat' (first | exact h | assumption | rfl | apply elapse_keeps | apply modPort_keeps | split | intro)

theorem dropArrival_keeps {s0 t : State} (h : Keeps s0 t) (port : Nat) (k : Packet) (j : Nat) : Keeps s0 (dropArrival t port k j) := by
  unfold dropArrival
  try dsimp only
  with_reducible repeat' (first | exact h | assumption | rfl | apply dropPacket_keeps | apply leaveQueue_keeps | apply enterQueue_keeps | split | intro)

theorem transit_keeps {s0 t : State} (h : Keeps s0 t) (a : Arrival) (stamp : Instant) : Keeps s0 (transit t a stamp) := by
  unfold transit
  try dsimp only
  with_reducible repeat' (first | exact h | assumption | rfl | apply dropArrival_keeps | apply countEvent_keeps | apply modPort_keeps | apply modQueue_keeps | apply enterQueue_keeps | split | intro)

theorem dropPooled_keeps {s0 t : State} (h : Keeps s0 t) (a : Arrival) (j : Nat) : Keeps s0 (dropPooled t a j) := by
  unfold dropPooled
  try dsimp only
  with_reducible repeat' (first | exact h | assumption | rfl | apply leaveQueue_keeps | apply modQueue_keeps | apply dropPacket_keeps | split | intro)

theorem releaseCells_keeps {s0 t : State} (h : Keeps s0 t) (key : Option Nat) (k : Packet) : Keeps s0 (releaseCells t key k) := by
  unfold releaseCells
  split
  · exact leaveQueue_keeps h _ _
  · exact h

/-- What stands of the state once a packet that arrived has been tested. -/
def Admitted.Leaves (s0 : State) : Admitted → Prop
  | .gone t => Keeps s0 t
  | .here t _ _ _ => Keeps s0 t

theorem arrivalVerdict_leaves {s0 t : State} (h : Keeps s0 t) (a : Arrival) (ptype : Nat) :
    (arrivalVerdict t a ptype).Leaves s0 := by
  unfold arrivalVerdict
  dsimp only
  have h1 := stampArrival_keeps h a
  generalize stampArrival t a = r at h1 ⊢
  have h2 := countEvent_keeps (modUsage_keeps h1 (addrPart a.pkt.dst)
    (fun u => { u with shawlRx := satAdd u.shawlRx (packetLength a.pkt) })) 11
      [(1, addrPart a.pkt.dst), (3, a.port.val)] (packetLength a.pkt)
  generalize countEvent (modUsage r.1 (addrPart a.pkt.dst)
    (fun u => { u with shawlRx := satAdd u.shawlRx (packetLength a.pkt) })) 11
      [(1, addrPart a.pkt.dst), (3, a.port.val)] (packetLength a.pkt) = s2 at h2 ⊢
  have hd : ∀ (b : Bool) (j : Nat), Keeps s0 (if b = true then dropPooled r.1 a j else dropArrival r.1 a.port.val a.pkt j) :=
    fun _ j => Keeps.ite (dropPooled_keeps h1 a j) (dropArrival_keeps h1 _ _ j)
  split
  · exact hd _ 0
  · split
    · exact transit_keeps h1 a r.2
    · split
      · exact hd _ 4
      · have h3 : Keeps s0 (if a.port.val = 6 then (s2, r.2)
          else
            match pooled s2 a (queueKey a.port.val a.pkt.vc (addrPart a.pkt.dst)) with
            | some e => (modQueue s2 (queueKey a.port.val a.pkt.vc (addrPart a.pkt.dst)) (fun q => { q with packets := q.packets.erase e }), e.2.1)
            | none => (enterQueue s2 (queueKey a.port.val a.pkt.vc (addrPart a.pkt.dst)) (packetCells a.pkt), r.2)).1 := by
          split
          · exact h2
          · split
            · exact modQueue_keeps h2 _ _
            · exact enterQueue_keeps h2 _ _
        generalize (if a.port.val = 6 then (s2, r.2)
          else
            match pooled s2 a (queueKey a.port.val a.pkt.vc (addrPart a.pkt.dst)) with
            | some e => (modQueue s2 (queueKey a.port.val a.pkt.vc (addrPart a.pkt.dst)) (fun q => { q with packets := q.packets.erase e }), e.2.1)
            | none => (enterQueue s2 (queueKey a.port.val a.pkt.vc (addrPart a.pkt.dst)) (packetCells a.pkt), r.2)) = en at h3 ⊢
        have leave : ∀ {u : State}, Keeps s0 u → ∀ place : Option Nat,
            Keeps s0 (match place with | some q => leaveQueue u q (packetCells a.pkt) | none => u) := by
          intro u hu place
          split
          · exact leaveQueue_keeps hu _ _
          · exact hu
        split
        · exact h3
        · split
          · exact leave h3 _
          · split
            · exact leave (dropPacket_keeps h3 1) _
            · exact modUsage_keeps h3 _ _

theorem arrivalVerdict_gone {s0 t u : State} (h : Keeps s0 t) (a : Arrival) (ptype : Nat) (hu : arrivalVerdict t a ptype = .gone u) :
    Keeps s0 u := by
  have := arrivalVerdict_leaves h a ptype
  rw [hu] at this
  exact this

theorem arrivalVerdict_here {s0 t u : State} {i : Instant} {b : Bytes} {k : Option Nat} (h : Keeps s0 t) (a : Arrival) (ptype : Nat)
    (hu : arrivalVerdict t a ptype = .here u i b k) : Keeps s0 u := by
  have := arrivalVerdict_leaves h a ptype
  rw [hu] at this
  exact this

theorem sendPlain_keeps {s0 t : State} (h : Keeps s0 t) (p : Nat) (d : Draft) : Keeps s0 (sendPlain t p d) := by
  unfold sendPlain
  try dsimp only
  with_reducible repeat' (first | exact h | assumption | rfl | apply sendPacket_keeps | split | intro)

theorem finishRef_keeps {s0 t : State} (h : Keeps s0 t) (id : Nat) (st : Status) (result : Nat) (ref : Nat) : Keeps s0 (finishRef t id st result ref) := by
  unfold finishRef
  try dsimp only
  with_reducible repeat' (first | exact h | assumption | rfl | apply modFlight_keeps | split | intro)

theorem finish_keeps {s0 t : State} (h : Keeps s0 t) (id : Nat) (st : Status) (result : Nat) : Keeps s0 (finish t id st result) := by
  unfold finish
  try dsimp only
  with_reducible repeat' (first | exact h | assumption | rfl | apply finishRef_keeps | split | intro)

theorem refuse_keeps {s0 t : State} (h : Keeps s0 t) (id : Nat) (st : Status) : Keeps s0 (refuse t id st) := by
  unfold refuse
  try dsimp only
  with_reducible repeat' (first | exact h | assumption | rfl | apply finish_keeps | split | intro)

theorem waitIn_keeps {s0 t : State} (h : Keeps s0 t) (id : Nat) (ph : Phase) : Keeps s0 (waitIn t id ph) := by
  unfold waitIn
  try dsimp only
  with_reducible repeat' (first | exact h | assumption | rfl | apply modFlight_keeps | split | intro)

theorem setJobs_keeps {s0 t : State} (h : Keeps s0 t) (id : Nat) (jobs : List TileJob) (st : Status) (result : Nat) : Keeps s0 (setJobs t id jobs st result) := by
  unfold setJobs
  try dsimp only
  with_reducible repeat' (first | exact h | assumption | rfl | apply finish_keeps | apply modFlight_keeps | split | intro)

theorem writeTarget_keeps {s0 t : State} (h : Keeps s0 t) (p : Nat) (j : TileJob) (t' : Nat × Bytes × Option TileMeta) : Keeps s0 (writeTarget p j t t') := by
  unfold writeTarget
  try dsimp only
  with_reducible repeat' (first | exact h | assumption | rfl | apply setUnitMetas_keeps | apply pwrite_keeps | apply writeMarked_keeps | split | intro)

theorem writeJob_keeps {s0 t : State} (h : Keeps s0 t) (p : Nat) (j : TileJob) : Keeps s0 (writeJob t p j) := by
  unfold writeJob
  try dsimp only
  with_reducible repeat' (first | exact h | assumption | rfl | apply writeTarget_keeps | apply Keeps.foldPair | apply Keeps.fold | split | intro)

theorem modSlot_keeps {s0 t : State} (h : Keeps s0 t) (n : Nat) (f : Slot → Slot) : Keeps s0 (modSlot t n f) := by
  unfold modSlot
  try dsimp only
  with_reducible repeat' (first | exact h | assumption | rfl | split | (refine Keeps.same ?_ rfl; first | exact h | assumption | split) | intro)

theorem giveNumber_keeps {s0 t : State} (h : Keeps s0 t) (n : Nat) (l : Nat) : Keeps s0 (giveNumber t n l) := by
  unfold giveNumber
  try dsimp only
  with_reducible repeat' (first | exact h | assumption | rfl | apply modSlot_keeps | split | intro)

theorem giveNumbers_keeps {s0 : State} (ns : List Nat) : ∀ {t : State} (l : Nat), Keeps s0 t → Keeps s0 (giveNumbers t ns l) := by
  induction ns with
  | nil => intro t l h; exact h
  | cons n ns ih => intro t l h; exact ih (l + 1) (giveNumber_keeps h n l)

theorem mapSleeve_keeps {s0 t : State} (h : Keeps s0 t) (v : Nat) : Keeps s0 (mapSleeve t v) := by
  unfold mapSleeve
  try dsimp only
  with_reducible repeat' (first | exact h | assumption | rfl | apply modSlot_keeps | apply giveNumbers_keeps | apply Keeps.foldPair | apply Keeps.fold | split | intro)

theorem mapAll_keeps {s0 t : State} (h : Keeps s0 t) : Keeps s0 (mapAll t) := by
  unfold mapAll
  try dsimp only
  with_reducible repeat' (first | exact h | assumption | rfl | apply mapSleeve_keeps | apply Keeps.foldPair | apply Keeps.fold | split | intro)

theorem dropResident_keeps {s0 t : State} (h : Keeps s0 t) (p : Nat) (first : Nat) (units : Nat) : Keeps s0 (dropResident t p first units) := by
  unfold dropResident
  try dsimp only
  with_reducible repeat' (first | exact h | assumption | rfl | split | (refine Keeps.same ?_ rfl; first | exact h | assumption | split) | intro)

theorem dropResidentAt_keeps {s0 t : State} (h : Keeps s0 t) (p : Nat) (a : Nat) (len : Nat) : Keeps s0 (dropResidentAt t p a len) := by
  unfold dropResidentAt
  try dsimp only
  with_reducible repeat' (first | exact h | assumption | rfl | apply dropResident_keeps | split | intro)

theorem keepResident_keeps {s0 t : State} (h : Keeps s0 t) (l : Nat) (p : Nat) (first : Nat) (units : Nat) : Keeps s0 (keepResident t l p first units) := by
  unfold keepResident
  try dsimp only
  with_reducible repeat' (first | exact h | assumption | rfl | apply modSlot_keeps | split | intro)

theorem loadPass_keeps {s0 t : State} (h : Keeps s0 t) (f : InFlight) (j : TileJob) (l : Nat) : Keeps s0 (loadPass f j t l) := by
  unfold loadPass
  try dsimp only
  with_reducible repeat' (first | exact h | assumption | rfl | apply modSlot_keeps | apply keepResident_keeps | apply Keeps.foldPair | apply Keeps.fold | split | intro)

theorem modPass_keeps {s0 t : State} (h : Keeps s0 t) (id : Nat) (l : Nat) (f : TileJob → TileJob) : Keeps s0 (modPass t id l f) := by
  unfold modPass
  try dsimp only
  with_reducible repeat' (first | exact h | assumption | rfl | apply modFlight_keeps | split | intro)

theorem noteIssue_keeps {s0 t : State} (h : Keeps s0 t) (v : Nat) : Keeps s0 (noteIssue t v) := by
  unfold noteIssue
  try dsimp only
  with_reducible repeat' (first | exact h | assumption | rfl | split | (refine Keeps.same ?_ rfl; first | exact h | assumption | split) | intro)

theorem beginNext_keeps {s0 t : State} (h : Keeps s0 t) (l : Nat) : Keeps s0 (beginNext t l) := by
  unfold beginNext
  try dsimp only
  with_reducible repeat' (first | exact h | assumption | rfl | apply loadPass_keeps | apply modPass_keeps | apply modFlight_keeps | apply noteIssue_keeps | apply Keeps.foldPair | apply Keeps.fold | split | intro)

theorem startJobs_keeps {s0 t : State} (h : Keeps s0 t) (id : Nat) (jobs : List TileJob) (result : Nat) : Keeps s0 (startJobs t id jobs result) := by
  unfold startJobs
  try dsimp only
  with_reducible repeat' (first | exact h | assumption | rfl | apply beginNext_keeps | apply setJobs_keeps | apply modFlight_keeps | apply Keeps.foldPair | apply Keeps.fold | split | intro)

theorem startTransform_keeps {s0 t : State} (h : Keeps s0 t) (f : Nat → Nat → Nat → List Nat → List Nat) (id : Nat) (h' : DescHdr) (o : NttOps) : Keeps s0 (startTransform f t id h' o) := by
  unfold startTransform
  try dsimp only
  with_reducible repeat' (first | exact h | assumption | rfl | apply refuse_keeps | apply startJobs_keeps | split | intro)

theorem startNtt_keeps {s0 t : State} (h : Keeps s0 t) (id : Nat) (h' : DescHdr) (o : NttOps) : Keeps s0 (startNtt t id h' o) := by
  unfold startNtt
  try dsimp only
  with_reducible repeat' (first | exact h | assumption | rfl | apply startTransform_keeps | split | intro)

theorem startIntt_keeps {s0 t : State} (h : Keeps s0 t) (id : Nat) (h' : DescHdr) (o : NttOps) : Keeps s0 (startIntt t id h' o) := by
  unfold startIntt
  try dsimp only
  with_reducible repeat' (first | exact h | assumption | rfl | apply startTransform_keeps | split | intro)

theorem startPmul_keeps {s0 t : State} (h : Keeps s0 t) (k : PmulSub) (id : Nat) (h' : DescHdr) (o : PmulOps) : Keeps s0 (startPmul k t id h' o) := by
  unfold startPmul
  try dsimp only
  with_reducible repeat' (first | exact h | assumption | rfl | apply refuse_keeps | apply startJobs_keeps | split | intro)

theorem startBaseconv_keeps {s0 t : State} (h : Keeps s0 t) (id : Nat) (h' : DescHdr) (o : BaseOps) : Keeps s0 (startBaseconv t id h' o) := by
  unfold startBaseconv
  try dsimp only
  with_reducible repeat' (first | exact h | assumption | rfl | apply refuse_keeps | apply startJobs_keeps | split | intro)

theorem useRing_keeps {s0 t : State} (h : Keeps s0 t) (p : Nat) (a : Nat) : Keeps s0 (useRing t p a) := by
  unfold useRing
  try dsimp only
  with_reducible repeat' (first | exact h | assumption | rfl | apply modPart_keeps | split | intro)

theorem setWindow_keeps {s0 t : State} (h : Keeps s0 t) (p : Nat) (k : WinKind) (w : Option Window) : Keeps s0 (setWindow t p k w) := by
  unfold setWindow
  try dsimp only
  with_reducible repeat' (first | exact h | assumption | rfl | apply modPart_keeps | split | intro)

theorem modWindow_keeps {s0 t : State} (h : Keeps s0 t) (p : Nat) (k : WinKind) (f : Window → Window) : Keeps s0 (modWindow t p k f) := by
  unfold modWindow
  try dsimp only
  with_reducible repeat' (first | exact h | assumption | rfl | apply setWindow_keeps | split | intro)

theorem modRound_keeps {s0 t : State} (h : Keeps s0 t) (p : Nat) (round : Nat) (f : Round → Round) : Keeps s0 (modRound t p round f) := by
  unfold modRound
  try dsimp only
  with_reducible repeat' (first | exact h | assumption | rfl | apply modPart_keeps | split | intro)

theorem eraseArea_keeps {s0 t : State} (h : Keeps s0 t) (p : Nat) (round : Nat) : Keeps s0 (eraseArea t p round) := by
  unfold eraseArea
  try dsimp only
  with_reducible repeat' (first | exact h | assumption | rfl | apply modRound_keeps | apply freeUnits_keeps | split | intro)

theorem bindWindow_keeps {s0 t : State} (h : Keeps s0 t) (p : Nat) (w : Window) : Keeps s0 (bindWindow t p w) := by
  unfold bindWindow
  try dsimp only
  with_reducible repeat' (first | exact h | assumption | rfl | apply setWindow_keeps | apply freeUnits_keeps | apply modPart_keeps | apply modRound_keeps | apply Keeps.foldPair | apply Keeps.fold | split | intro)

theorem displaceRounds_keeps {s0 t : State} (h : Keeps s0 t) (p : Nat) (round : Nat) : Keeps s0 (displaceRounds t p round) := by
  unfold displaceRounds
  try dsimp only
  with_reducible repeat' (first | exact h | assumption | rfl | apply eraseArea_keeps | apply modRound_keeps | apply Keeps.foldPair | apply Keeps.fold | split | intro)

theorem decideOpen_keeps {s0 t : State} (h : Keeps s0 t) (id : Nat) (h' : DescHdr) (o : WindowOpenOps) : Keeps s0 (decideOpen t id h' o) := by
  unfold decideOpen
  try dsimp only
  with_reducible repeat' (first | exact h | assumption | rfl | apply displaceRounds_keeps | apply refuse_keeps | apply finish_keeps | apply bindWindow_keeps | split | intro)

theorem startWindowOpen_keeps {s0 t : State} (h : Keeps s0 t) (id : Nat) (h' : DescHdr) (o : WindowOpenOps) : Keeps s0 (startWindowOpen t id h' o) := by
  unfold startWindowOpen
  try dsimp only
  with_reducible repeat' (first | exact h | assumption | rfl | apply decideOpen_keeps | apply waitIn_keeps | split | intro)

theorem completeClose_keeps {s0 t : State} (h : Keeps s0 t) (id : Nat) (p : Nat) (k : WinKind) (o : WindowCloseOps) : Keeps s0 (completeClose t id p k o) := by
  unfold completeClose
  try dsimp only
  with_reducible repeat' (first | exact h | assumption | rfl | apply refuse_keeps | apply finish_keeps | apply writeMarked_keeps | split | intro)

theorem closeWindow_keeps {s0 t : State} (h : Keeps s0 t) (p : Nat) (k : WinKind) : Keeps s0 (closeWindow t p k) := by
  unfold closeWindow
  try dsimp only
  with_reducible repeat' (first | exact h | assumption | rfl | apply setWindow_keeps | apply modRound_keeps | split | intro)

theorem releaseUses_keeps {s0 t : State} (h : Keeps s0 t) (p : Nat) (k : WinKind) : Keeps s0 (releaseUses t p k) := by
  unfold releaseUses
  try dsimp only
  with_reducible repeat' (first | exact h | assumption | rfl | apply freeUnits_keeps | apply setWindow_keeps | apply Keeps.foldPair | apply Keeps.fold | split | intro)

theorem finishCloses_keeps {s0 t : State} (h : Keeps s0 t) (p : Nat) : Keeps s0 (finishCloses t p) := by
  unfold finishCloses
  try dsimp only
  with_reducible repeat' (first | exact h | assumption | rfl | apply completeClose_keeps | apply Keeps.foldPair | apply Keeps.fold | split | intro)

theorem reachOpen_keeps {s0 t : State} (h : Keeps s0 t) (p : Nat) (k : WinKind) : Keeps s0 (reachOpen t p k) := by
  unfold reachOpen
  try dsimp only
  with_reducible repeat' (first | exact h | assumption | rfl | apply setWindow_keeps | apply reach_keeps | split | intro)

theorem reachClose_keeps {s0 t : State} (h : Keeps s0 t) (p : Nat) (k : WinKind) : Keeps s0 (reachClose t p k) := by
  unfold reachClose
  try dsimp only
  with_reducible repeat' (first | exact h | assumption | rfl | apply setWindow_keeps | apply reach_keeps | split | intro)

theorem reachClosed_keeps {s0 t : State} (h : Keeps s0 t) (p : Nat) (k : WinKind) : Keeps s0 (reachClosed t p k) := by
  unfold reachClosed
  try dsimp only
  with_reducible repeat' (first | exact h | assumption | rfl | apply releaseUses_keeps | apply finishCloses_keeps | apply closeWindow_keeps | split | intro)

theorem decideItem_keeps {s0 t : State} (h : Keeps s0 t) (id : Nat) (item : Nat) (client : Nat) (v : Verdict) (seq : Nat) (stampNs : Nat) : Keeps s0 (decideItem t id item client v seq stampNs) := by
  unfold decideItem
  try dsimp only
  with_reducible repeat' (first | exact h | assumption | rfl | apply writeMarked_keeps | apply modFlight_keeps | split | intro)

theorem modSub_keeps {s0 t : State} (h : Keeps s0 t) (p : Nat) (k : WinKind) (n : Nat) (f : Submission → Submission) : Keeps s0 (modSub t p k n f) := by
  unfold modSub
  try dsimp only
  with_reducible repeat' (first | exact h | assumption | rfl | apply modWindow_keeps | split | intro)

theorem landSub_keeps {s0 t : State} (h : Keeps s0 t) (p : Nat) (k : WinKind) (n : Nat) : Keeps s0 (landSub t p k n) := by
  unfold landSub
  try dsimp only
  with_reducible repeat' (first | exact h | assumption | rfl | apply countDram_keeps | apply writeMarked_keeps | apply modSub_keeps | split | intro)

theorem settleIngest_keeps {s0 t : State} (h : Keeps s0 t) (id : Nat) : Keeps s0 (settleIngest t id) := by
  unfold settleIngest
  try dsimp only
  with_reducible repeat' (first | exact h | assumption | rfl | apply finish_keeps | split | intro)

theorem resumeLanding_keeps {s0 t : State} (h : Keeps s0 t) (p : Nat) (k : WinKind) : Keeps s0 (resumeLanding t p k) := by
  unfold resumeLanding
  try dsimp only
  with_reducible repeat' (first | exact h | assumption | rfl | apply settleIngest_keeps | apply landSub_keeps | apply Keeps.foldPair | apply Keeps.fold | split | intro)

theorem judgeItem_keeps {s0 t : State} (h : Keeps s0 t) (id : Nat) (h' : DescHdr) (o : IngestOps) (item : Nat) (a : Nat) : Keeps s0 (judgeItem t id h' o item a) := by
  unfold judgeItem
  try dsimp only
  with_reducible repeat' (first | exact h | assumption | rfl | apply decideItem_keeps | apply modWindow_keeps | split | intro)

theorem judgeItems_keeps {s0 : State} (id : Nat) (hd : DescHdr) (o : IngestOps) (as : List Nat) :
    ∀ {t : State} (i : Nat), Keeps s0 t → Keeps s0 (judgeItems t id hd o i as) := by
  induction as with
  | nil => intro t i h; exact h
  | cons a as ih => intro t i h; exact ih (i + 1) (judgeItem_keeps h id hd o i a)

theorem startIngest_keeps {s0 t : State} (h : Keeps s0 t) (id : Nat) (h' : DescHdr) (o : IngestOps) : Keeps s0 (startIngest t id h' o) := by
  unfold startIngest
  try dsimp only
  with_reducible repeat' (first | exact h | assumption | rfl | apply waitIn_keeps | apply countDram_keeps | apply settleIngest_keeps | apply judgeItems_keeps | split | intro)

theorem freeSlot_keeps {s0 t : State} (h : Keeps s0 t) (p : Nat) (k : WinKind) (n : Nat) : Keeps s0 (freeSlot t p k n) := by
  unfold freeSlot
  try dsimp only
  with_reducible repeat' (first | exact h | assumption | rfl | apply releaseUses_keeps | apply modSub_keeps | split | intro)

end Sys2Proof.Machine
end

