-- ==== Sys2Proof/Laws/KeepsWork.lean ====
section
/-! SUPPORT. What the operations of these files keep: Accumulate, Masking, Cipher, Zipper, Release. -/

namespace Sys2Proof.Machine

set_option Elab.async false

theorem accWindow_keeps {s0 t : State} (h : Keeps s0 t) (id : Nat) (h' : DescHdr) (o : AccOps) (w : Window) : Keeps s0 (accWindow t id h' o w) := by
  unfold accWindow
  try dsimp only
  with_reducible repeat' (first | exact h | assumption | rfl | apply refuse_keeps | apply startJobs_keeps | apply modFlight_keeps | split | intro)

theorem accList_keeps {s0 t : State} (h : Keeps s0 t) (id : Nat) (h' : DescHdr) (o : AccOps) : Keeps s0 (accList t id h' o) := by
  unfold accList
  try dsimp only
  with_reducible repeat' (first | exact h | assumption | rfl | apply startJobs_keeps | apply modFlight_keeps | split | intro)

theorem startAccumulate_keeps {s0 t : State} (h : Keeps s0 t) (id : Nat) (h' : DescHdr) (o : AccOps) : Keeps s0 (startAccumulate t id h' o) := by
  unfold startAccumulate
  try dsimp only
  with_reducible repeat' (first | exact h | assumption | rfl | apply refuse_keeps | apply accList_keeps | apply accWindow_keeps | apply waitIn_keeps | split | intro)

theorem startDrain_keeps {s0 t : State} (h : Keeps s0 t) (id : Nat) (h' : DescHdr) (o : DrainOps) : Keeps s0 (startDrain t id h' o) := by
  unfold startDrain
  try dsimp only
  with_reducible repeat' (first | exact h | assumption | rfl | apply refuse_keeps | apply startJobs_keeps | apply spendFree_keeps | split | intro)

theorem statsSums_keeps {s0 t : State} (h : Keeps s0 t) (id : Nat) (h' : DescHdr) (o : StatsOps) (w : Option Window) (n : Nat) : Keeps s0 (statsSums t id h' o w n) := by
  unfold statsSums
  try dsimp only
  with_reducible repeat' (first | exact h | assumption | rfl | apply refuse_keeps | apply startJobs_keeps | split | intro)

theorem statsMoments_keeps {s0 t : State} (h : Keeps s0 t) (c0 : Nat) (id : Nat) (h' : DescHdr) (o : StatsOps) (w : Option Window) (n : Nat) : Keeps s0 (statsMoments c0 t id h' o w n) := by
  unfold statsMoments
  try dsimp only
  with_reducible repeat' (first | exact h | assumption | rfl | apply startJobs_keeps | apply Keeps.foldPair | apply Keeps.fold | split | intro)

theorem statsFinish_keeps {s0 t : State} (h : Keeps s0 t) (id : Nat) (h' : DescHdr) (o : StatsOps) : Keeps s0 (statsFinish t id h' o) := by
  unfold statsFinish
  try dsimp only
  with_reducible repeat' (first | exact h | assumption | rfl | apply startJobs_keeps | split | intro)

theorem statsRsqrt_keeps {s0 t : State} (h : Keeps s0 t) (id : Nat) (h' : DescHdr) (o : StatsOps) : Keeps s0 (statsRsqrt t id h' o) := by
  unfold statsRsqrt
  try dsimp only
  with_reducible repeat' (first | exact h | assumption | rfl | apply startJobs_keeps | split | intro)

theorem startStatsAt_keeps {s0 t : State} (h : Keeps s0 t) (c0 : Nat) (k : StatsSub) (id : Nat) (h' : DescHdr) (o : StatsOps) : Keeps s0 (startStatsAt c0 k t id h' o) := by
  unfold startStatsAt
  try dsimp only
  with_reducible repeat' (first | exact h | assumption | rfl | apply refuse_keeps | apply waitIn_keeps | apply statsSums_keeps | apply statsMoments_keeps | apply statsFinish_keeps | apply statsRsqrt_keeps | split | intro)

theorem startStats_keeps {s0 t : State} (h : Keeps s0 t) (k : StatsSub) (id : Nat) (h' : DescHdr) (o : StatsOps) : Keeps s0 (startStats k t id h' o) := by
  unfold startStats
  try dsimp only
  with_reducible repeat' (first | exact h | assumption | rfl | apply startStatsAt_keeps | split | intro)

theorem startRank_keeps {s0 t : State} (h : Keeps s0 t) (id : Nat) (h' : DescHdr) (o : RankOps) : Keeps s0 (startRank t id h' o) := by
  unfold startRank
  try dsimp only
  with_reducible repeat' (first | exact h | assumption | rfl | apply refuse_keeps | apply startJobs_keeps | split | intro)

theorem dropOldArea_keeps {s0 t : State} (h : Keeps s0 t) (p : Nat) (old : Graph) (first : Nat) (units : Nat) : Keeps s0 (dropOldArea t p old first units) := by
  unfold dropOldArea
  try dsimp only
  with_reducible repeat' (first | exact h | assumption | rfl | apply freeUnits_keeps | apply Keeps.foldPair | apply Keeps.fold | split | intro)

theorem startSeedGraph_keeps {s0 t : State} (h : Keeps s0 t) (id : Nat) (h' : DescHdr) (o : SeedOps) : Keeps s0 (startSeedGraph t id h' o) := by
  unfold startSeedGraph
  try dsimp only
  with_reducible repeat' (first | exact h | assumption | rfl | apply refuse_keeps | apply dropOldArea_keeps | apply dropResident_keeps | apply modRound_keeps | apply countDram_keeps | apply writeMarked_keeps | apply finish_keeps | split | intro)

theorem startShareRecon_keeps {s0 t : State} (h : Keeps s0 t) (id : Nat) (h' : DescHdr) (o : ShareOps) : Keeps s0 (startShareRecon t id h' o) := by
  unfold startShareRecon
  try dsimp only
  with_reducible repeat' (first | exact h | assumption | rfl | apply refuse_keeps | apply writeMarked_keeps | apply modRound_keeps | apply eraseArea_keeps | apply finish_keeps | split | intro)

theorem startSeedDerive_keeps {s0 t : State} (h : Keeps s0 t) (id : Nat) (h' : DescHdr) (o : SeedOps) : Keeps s0 (startSeedDerive t id h' o) := by
  unfold startSeedDerive
  try dsimp only
  with_reducible repeat' (first | exact h | assumption | rfl | apply refuse_keeps | apply modRound_keeps | apply countDram_keeps | apply pwrite_keeps | apply finish_keeps | split | intro)

theorem startMaskExpand_keeps {s0 t : State} (h : Keeps s0 t) (id : Nat) (h' : DescHdr) (o : MaskOps) : Keeps s0 (startMaskExpand t id h' o) := by
  unfold startMaskExpand
  try dsimp only
  with_reducible repeat' (first | exact h | assumption | rfl | apply refuse_keeps | apply modUsage_keeps | apply startJobs_keeps | apply modFlight_keeps | split | intro)

theorem commitMask_keeps {s0 t : State} (h : Keeps s0 t) (p : Nat) (round : Nat) (c : Nat) (n : Nat) : Keeps s0 (commitMask t p round c n) := by
  unfold commitMask
  try dsimp only
  with_reducible repeat' (first | exact h | assumption | rfl | apply modRound_keeps | apply eraseArea_keeps | split | intro)

theorem writeHeaders_keeps {s0 t : State} (h : Keeps s0 t) (p : Nat) (ws : List (Nat × Bytes)) : Keeps s0 (writeHeaders t p ws) := by
  unfold writeHeaders
  try dsimp only
  with_reducible repeat' (first | exact h | assumption | rfl | apply dropResidentAt_keeps | apply writeMarked_keeps | apply Keeps.foldPair | apply Keeps.fold | split | intro)

theorem startCt_keeps {s0 t : State} (h : Keeps s0 t) (id : Nat) (p : Nat) (jobs : List TileJob) (headers : List (Nat × Bytes)) (count : Nat) : Keeps s0 (startCt t id p jobs headers count) := by
  unfold startCt
  try dsimp only
  with_reducible repeat' (first | exact h | assumption | rfl | apply finish_keeps | apply writeHeaders_keeps | apply beginNext_keeps | apply modFlight_keeps | apply Keeps.foldPair | apply Keeps.fold | split | intro)

theorem startCtPair_keeps {s0 t : State} (h : Keeps s0 t) (sub : Bool) (id : Nat) (h' : DescHdr) (o : CtAddOps) : Keeps s0 (startCtPair sub t id h' o) := by
  unfold startCtPair
  try dsimp only
  with_reducible repeat' (first | exact h | assumption | rfl | apply refuse_keeps | apply startCt_keeps | apply useRing_keeps | split | intro)

theorem foldReady_keeps {s0 t : State} (h : Keeps s0 t) (id : Nat) (h' : DescHdr) (o : CtAddOps) (w : Window) : Keeps s0 (foldReady t id h' o w) := by
  unfold foldReady
  try dsimp only
  with_reducible repeat' (first | exact h | assumption | rfl | apply refuse_keeps | apply writeHeaders_keeps | apply spendFree_keeps | apply startCt_keeps | split | intro)

theorem startCtFold_keeps {s0 t : State} (h : Keeps s0 t) (id : Nat) (h' : DescHdr) (o : CtAddOps) : Keeps s0 (startCtFold t id h' o) := by
  unfold startCtFold
  try dsimp only
  with_reducible repeat' (first | exact h | assumption | rfl | apply refuse_keeps | apply writeHeaders_keeps | apply useRing_keeps | apply foldReady_keeps | apply waitIn_keeps | split | intro)

theorem scratch_keeps {s0 t : State} (h : Keeps s0 t) (p : Nat) (c : Claim) (marks : Bool × Bool) : Keeps s0 (scratch t p c marks) := by
  unfold scratch
  try dsimp only
  with_reducible repeat' (first | exact h | assumption | rfl | apply pwrite_keeps | apply spendFree_keeps | apply setUnitMetas_keeps | apply dropResident_keeps | split | intro)

theorem startSwitch_keeps {s0 t : State} (h : Keeps s0 t) (rotate : Bool) (id : Nat) (h' : DescHdr) (o : KsOps) : Keeps s0 (startSwitch rotate t id h' o) := by
  unfold startSwitch
  try dsimp only
  with_reducible repeat' (first | exact h | assumption | rfl | apply refuse_keeps | apply startCt_keeps | apply scratch_keeps | apply useRing_keeps | split | intro)

theorem startRescale_keeps {s0 t : State} (h : Keeps s0 t) (mod_ : Bool) (id : Nat) (h' : DescHdr) (o : RescaleOps) : Keeps s0 (startRescale mod_ t id h' o) := by
  unfold startRescale
  try dsimp only
  with_reducible repeat' (first | exact h | assumption | rfl | apply refuse_keeps | apply startCt_keeps | apply useRing_keeps | split | intro)

theorem stallNoise_keeps {s0 t : State} (h : Keeps s0 t) (id : Nat) (key : Option StoredKey) : Keeps s0 (stallNoise t id key) := by
  unfold stallNoise
  try dsimp only
  with_reducible repeat' (first | exact h | assumption | rfl | apply modFlight_keeps | split | intro)

theorem partialShare_keeps {s0 t : State} (h : Keeps s0 t) (id : Nat) (h' : DescHdr) (o : PartialOps) (k : StoredKey) : Keeps s0 (partialShare t id h' o k) := by
  unfold partialShare
  try dsimp only
  with_reducible repeat' (first | exact h | assumption | rfl | apply refuse_keeps | apply startCt_keeps | apply modPart_keeps | apply spendFree_keeps | apply useRing_keeps | split | intro)

theorem startPartial_keeps {s0 t : State} (h : Keeps s0 t) (id : Nat) (h' : DescHdr) (o : PartialOps) : Keeps s0 (startPartial t id h' o) := by
  unfold startPartial
  try dsimp only
  with_reducible repeat' (first | exact h | assumption | rfl | apply refuse_keeps | apply stallNoise_keeps | apply partialShare_keeps | split | intro)

theorem pumpZip_keeps {s0 : State} (p ready fuel : Nat) :
    ∀ {r : State × ZipTx × Bool}, Keeps s0 r.1 → Keeps s0 (pumpZip p ready fuel r).1 := by
  induction fuel with
  | zero => intro r h; exact h
  | succ n ih =>
    intro r h
    obtain ⟨s, t, stuck⟩ := r
    unfold pumpZip
    dsimp only
    split
    · exact h
    · split
      · exact h
      · rename_i s1 hs
        exact ih (sendSealed_keeps h _ _ _ hs)

theorem markPartial_keeps {s0 t : State} (h : Keeps s0 t) (p : Nat) (first : Nat) (units : Nat) (count : Nat) (digest : Bytes) : Keeps s0 (markPartial t p first units count digest) := by
  unfold markPartial
  try dsimp only
  with_reducible repeat' (first | exact h | assumption | rfl | apply setUnitMetas_keeps | apply Keeps.foldPair | apply Keeps.fold | split | intro)

theorem takeCredits_keeps {s0 t : State} (h : Keeps s0 t) (p : Nat) (digest : Bytes) : Keeps s0 (takeCredits t p digest).1 := by
  unfold takeCredits
  try dsimp only
  with_reducible repeat' (first | exact h | assumption | rfl | apply modPart_keeps | split | intro)

theorem runZipSend_keeps {s0 t : State} (h : Keeps s0 t) (id : Nat) (f : InFlight) (t' : ZipTx) : Keeps s0 (runZipSend t id f t') := by
  unfold runZipSend
  try dsimp only
  with_reducible repeat' (first | exact h | assumption | rfl | apply pumpZip_keeps | apply markPartial_keeps | apply finish_keeps | apply waitIn_keeps | split | intro)

theorem startZipSend_keeps {s0 t : State} (h : Keeps s0 t) (id : Nat) (h' : DescHdr) (o : ZipSendOps) : Keeps s0 (startZipSend t id h' o) := by
  unfold startZipSend
  try dsimp only
  with_reducible repeat' (first | exact h | assumption | rfl | apply refuse_keeps | apply takeCredits_keeps | apply waitIn_keeps | apply runZipSend_keeps | split | intro)

theorem startZipRecv_keeps {s0 t : State} (h : Keeps s0 t) (id : Nat) (h' : DescHdr) (o : ZipRecvOps) : Keeps s0 (startZipRecv t id h' o) := by
  unfold startZipRecv
  try dsimp only
  with_reducible repeat' (first | exact h | assumption | rfl | apply refuse_keeps | apply takeCredits_keeps | apply modPart_keeps | refine sendSealed_keeps ?_ _ _ _ (by assumption) | apply waitIn_keeps | split | intro)

theorem combineTile_keeps {s0 t : State} (h : Keeps s0 t) (id : Nat) (f : InFlight) (o : ZipRecvOps) (r : ZipRx) (i : Nat) (bytes : Bytes) : Keeps s0 (combineTile t id f o r i bytes) := by
  unfold combineTile
  try dsimp only
  with_reducible repeat' (first | exact h | assumption | rfl | apply writeTile_keeps | apply dropResident_keeps | apply beginNext_keeps | apply modFlight_keeps | apply Keeps.foldPair | apply Keeps.fold | split | intro)

theorem landTiles_keeps {s0 : State} (id : Nat) (f : InFlight) (o : ZipRecvOps) (fuel : Nat) :
    ∀ {t : State} (r : ZipRx), Keeps s0 t → Keeps s0 (landTiles t id f o fuel r).1 := by
  induction fuel with
  | zero => intro t r h; exact h
  | succ n ih =>
    intro t r h
    unfold landTiles
    dsimp only
    split
    · exact h
    · exact ih _ (combineTile_keeps h id f o r _ _)

theorem zipReply_keeps {s0 t : State} (h : Keeps s0 t) (k : Packet) (status : Nat) : Keeps s0 (zipReply t k status) := by
  unfold zipReply
  try dsimp only
  with_reducible repeat' (first | exact h | assumption | rfl | apply trySend_keeps | split | intro)

theorem dropStale_keeps {s0 t : State} (h : Keeps s0 t) : Keeps s0 (dropStale t) := by
  unfold dropStale
  try dsimp only
  with_reducible repeat' (first | exact h | assumption | rfl | split | (refine Keeps.same ?_ rfl; first | exact h | assumption | split) | intro)

theorem receiveZipTile_keeps {s0 t : State} (h : Keeps s0 t) (k : Packet) (stamp : Instant) (payload : Bytes) : Keeps s0 (receiveZipTile t k stamp payload) := by
  unfold receiveZipTile
  try dsimp only
  with_reducible repeat' (first | exact h | assumption | rfl | apply dropStale_keeps | apply zipReply_keeps | apply landTiles_keeps | apply waitIn_keeps | split | intro)

theorem settleZipRecv_keeps {s0 t : State} (h : Keeps s0 t) (id : Nat) (f : InFlight) (o : ZipRecvOps) (r : ZipRx) (t' : Option ZipTx) : Keeps s0 (settleZipRecv t id f o r t') := by
  unfold settleZipRecv
  try dsimp only
  with_reducible repeat' (first | exact h | assumption | rfl | apply finishRef_keeps | apply setUnitMetas_keeps | apply waitIn_keeps | apply pumpZip_keeps | apply finish_keeps | apply Keeps.foldPair | apply Keeps.fold | split | intro)

theorem zipCommitted_keeps {s0 t : State} (h : Keeps s0 t) (id : Nat) : Keeps s0 (zipCommitted t id) := by
  unfold zipCommitted
  try dsimp only
  with_reducible repeat' (first | exact h | assumption | rfl | refine sendSealed_keeps ?_ _ _ _ (by assumption) | apply finish_keeps | apply settleZipRecv_keeps | split | intro)

theorem receiveZipCredit_keeps {s0 t : State} (h : Keeps s0 t) (k : Packet) (payload : Bytes) : Keeps s0 (receiveZipCredit t k payload) := by
  unfold receiveZipCredit
  try dsimp only
  with_reducible repeat' (first | exact h | assumption | rfl | apply modPart_keeps | apply settleZipRecv_keeps | apply runZipSend_keeps | split | intro)

theorem receiveZipReply_keeps {s0 t : State} (h : Keeps s0 t) (k : Packet) (payload : Bytes) : Keeps s0 (receiveZipReply t k payload) := by
  unfold receiveZipReply
  try dsimp only
  with_reducible repeat' (first | exact h | assumption | rfl | apply dropStale_keeps | apply finish_keeps | split | intro)

theorem expireAt_keeps {s0 t : State} (h : Keeps s0 t) (p : Nat) (d : Nat) : Keeps s0 (expireAt t p d) := by
  unfold expireAt
  try dsimp only
  with_reducible repeat' (first | exact h | assumption | rfl | apply finish_keeps | apply Keeps.foldPair | apply Keeps.fold | split | intro)

theorem expireZippers_keeps {s0 t : State} (h : Keeps s0 t) (p : Nat) : Keeps s0 (expireZippers t p) := by
  unfold expireZippers
  try dsimp only
  with_reducible repeat' (first | exact h | assumption | rfl | apply expireAt_keeps | apply reach_keeps | split | intro)

theorem noiseReady_keeps {s0 t : State} (h : Keeps s0 t) (id : Nat) (h' : DescHdr) (o : NoiseOps) : Keeps s0 (noiseReady t id h' o) := by
  unfold noiseReady
  try dsimp only
  with_reducible repeat' (first | exact h | assumption | rfl | apply startJobs_keeps | apply spendFree_keeps | split | intro)

theorem startNoise_keeps {s0 t : State} (h : Keeps s0 t) (id : Nat) (h' : DescHdr) (o : NoiseOps) : Keeps s0 (startNoise t id h' o) := by
  unfold startNoise
  try dsimp only
  with_reducible repeat' (first | exact h | assumption | rfl | apply refuse_keeps | apply stallNoise_keeps | apply noiseReady_keeps | split | intro)

theorem gateRecord_keeps {s0 t : State} (h : Keeps s0 t) (p : Nat) (share : Bool) (round : Nat) (t' : Nat) : Keeps s0 (gateRecord t p share round t') := by
  unfold gateRecord
  try dsimp only
  with_reducible repeat' (first | exact h | assumption | rfl | apply modPart_keeps | split | intro)

theorem gateUndo_keeps {s0 t : State} (h : Keeps s0 t) (p : Nat) (share : Bool) (round : Nat) (t' : Nat) : Keeps s0 (gateUndo t p share round t') := by
  unfold gateUndo
  try dsimp only
  with_reducible repeat' (first | exact h | assumption | rfl | apply modPart_keeps | split | intro)

theorem writeReleasedTiles_keeps {s0 t : State} (h : Keeps s0 t) (p : Nat) (o : ReleaseOps) (words : List (List Nat)) : Keeps s0 (writeReleasedTiles t p o words) := by
  unfold writeReleasedTiles
  try dsimp only
  with_reducible repeat' (first | exact h | assumption | rfl | apply writeMarked_keeps | apply dropResident_keeps | apply Keeps.foldPair | apply Keeps.fold | split | intro)

theorem writeReleasedCt_keeps {s0 t : State} (h : Keeps s0 t) (p : Nat) (share : Bool) (o : ReleaseOps) : Keeps s0 (writeReleasedCt t p share o) := by
  unfold writeReleasedCt
  try dsimp only
  with_reducible repeat' (first | exact h | assumption | rfl | apply writeMarked_keeps | apply dropResident_keeps | apply Keeps.foldPair | apply Keeps.fold | split | intro)

theorem releaseNoise_keeps {s0 t : State} (h : Keeps s0 t) (share : Bool) (id : Nat) (h' : DescHdr) (o : ReleaseOps) (admitted : Nat) (key : Bytes) : Keeps s0 (releaseNoise share t id h' o admitted key) := by
  unfold releaseNoise
  try dsimp only
  with_reducible repeat' (first | exact h | assumption | rfl | apply writeMarked_keeps | apply dropResident_keeps | apply dropResidentAt_keeps | apply modFlight_keeps | apply spendFree_keeps | apply finish_keeps | apply writeReleasedCt_keeps | apply writeReleasedTiles_keeps | split | intro)

theorem startRelease_keeps {s0 t : State} (h : Keeps s0 t) (share : Bool) (id : Nat) (h' : DescHdr) (o : ReleaseOps) : Keeps s0 (startRelease share t id h' o) := by
  unfold startRelease
  try dsimp only
  with_reducible repeat' (first | exact h | assumption | rfl | apply refuse_keeps | apply useRing_keeps | apply modFlight_keeps | apply gateRecord_keeps | apply stallNoise_keeps | apply releaseNoise_keeps | split | intro)

theorem outputRelease_keeps {s0 t : State} (h : Keeps s0 t) (share : Bool) (f : InFlight) (o : ReleaseOps) (head0 : Bytes) (key : Bytes) : Keeps s0 (outputRelease share t f o head0 key) := by
  unfold outputRelease
  try dsimp only
  with_reducible repeat' (first | exact h | assumption | rfl | apply writeMarked_keeps | apply modUsage_keeps | apply finish_keeps | split | intro)

theorem releaseOutput_keeps {s0 t : State} (h : Keeps s0 t) (p : Nat) : Keeps s0 (releaseOutput t p) := by
  unfold releaseOutput
  try dsimp only
  with_reducible repeat' (first | exact h | assumption | rfl | apply outputRelease_keeps | split | intro)

theorem zeroStaging_keeps {s0 t : State} (h : Keeps s0 t) (f : InFlight) : Keeps s0 (zeroStaging t f) := by
  unfold zeroStaging
  try dsimp only
  with_reducible repeat' (first | exact h | assumption | rfl | apply freeUnits_keeps | apply dropResident_keeps | apply writeMarked_keeps | apply dropResidentAt_keeps | split | intro)

theorem entropyExpired_keeps {s0 t : State} (h : Keeps s0 t) (f : InFlight) : Keeps s0 (entropyExpired t f) := by
  unfold entropyExpired
  try dsimp only
  with_reducible repeat' (first | exact h | assumption | rfl | apply gateUndo_keeps | apply zeroStaging_keeps | apply freeUnits_keeps | apply dropResident_keeps | apply finish_keeps | apply Keeps.foldPair | apply Keeps.fold | split | intro)

theorem resumeNoise_keeps {s0 t : State} (h : Keeps s0 t) (f : InFlight) : Keeps s0 (resumeNoise t f) := by
  unfold resumeNoise
  try dsimp only
  with_reducible repeat' (first | exact h | assumption | rfl | apply modFlight_keeps | apply releaseNoise_keeps | apply noiseReady_keeps | apply partialShare_keeps | split | intro)

end Sys2Proof.Machine
end

