-- ==== Sys2Proof/Laws/KeepsRma.lean ====
section
/-! SUPPORT. What the operations of these files keep: Rma, Sealed, Submissions, Tear. -/

namespace Sys2Proof.Machine

set_option Elab.async false

theorem modQp_keeps {s0 t : State} (h : Keeps s0 t) (p : Nat) (n : Nat) (f : Qp → Qp) : Keeps s0 (modQp t p n f) := by
  unfold modQp
  try dsimp only
  with_reducible repeat' (first | exact h | assumption | rfl | apply modPart_keeps | split | intro)

theorem dropQp_keeps {s0 t : State} (h : Keeps s0 t) (p : Nat) (n : Nat) : Keeps s0 (dropQp t p n) := by
  unfold dropQp
  try dsimp only
  with_reducible repeat' (first | exact h | assumption | rfl | apply modPart_keeps | split | intro)

theorem writeBack_keeps {s0 t : State} (h : Keeps s0 t) (p : Nat) (q : Qp) : Keeps s0 (writeBack t p q) := by
  unfold writeBack
  try dsimp only
  with_reducible repeat' (first | exact h | assumption | rfl | apply emit_keeps | apply modPart_keeps | apply modUsage_keeps | split | intro)

theorem makeRoom_keeps {s0 t : State} (h : Keeps s0 t) (p : Nat) : Keeps s0 (makeRoom t p).1 := by
  unfold makeRoom
  try dsimp only
  with_reducible repeat' (first | exact h | assumption | rfl | apply writeBack_keeps | split | intro)

theorem installQp_keeps {s0 t : State} (h : Keeps s0 t) (p : Nat) (q : Qp) : Keeps s0 (installQp t p q) := by
  unfold installQp
  try dsimp only
  with_reducible repeat' (first | exact h | assumption | rfl | apply makeRoom_keeps | apply modPart_keeps | apply writeBack_keeps | split | intro)

theorem modSpace_keeps {s0 t : State} (h : Keeps s0 t) (p : Nat) (k : Nat) (f : SpaceSlot → SpaceSlot) : Keeps s0 (modSpace t p k f) := by
  unfold modSpace
  try dsimp only
  with_reducible repeat' (first | exact h | assumption | rfl | apply modPart_keeps | split | intro)

theorem errorQp_keeps {s0 t : State} (h : Keeps s0 t) (p : Nat) (n : Nat) (st : Status) : Keeps s0 (errorQp t p n st) := by
  unfold errorQp
  try dsimp only
  with_reducible repeat' (first | exact h | assumption | rfl | apply modQp_keeps | apply finish_keeps | apply Keeps.foldPair | apply Keeps.fold | split | intro)

theorem errorQps_keeps {s0 t : State} (h : Keeps s0 t) (p : Nat) (test : Qp → Bool) (st : Status) : Keeps s0 (errorQps t p test st) := by
  unfold errorQps
  try dsimp only
  with_reducible repeat' (first | exact h | assumption | rfl | apply errorQp_keeps | apply modPart_keeps | apply Keeps.foldPair | apply Keeps.fold | split | intro)

theorem pumpQp_keeps {s0 : State} (p n fuel : Nat) : ∀ {t : State}, Keeps s0 t → Keeps s0 (pumpQp p n fuel t) := by
  induction fuel with
  | zero => intro t h; exact h
  | succ m ih =>
    intro t h
    unfold pumpQp
    split
    · exact h
    · split
      · exact h
      · split
        · dsimp only
          split
          · exact ih (finish_keeps h _ _ _)
          · split
            · exact ih (finish_keeps h _ _ _)
            · split
              · exact ih (finish_keeps h _ _ _)
              · refine ih (modFlight_keeps (countDram_keeps (modQp_keeps (sendPacket_keeps (sealPacket_keeps h _ _ _) _ _) _ _ _) _ _ _ _) _ ?_)
                intro x; rfl
        · exact h

theorem fetchContext_keeps {s0 t : State} (h : Keeps s0 t) (p : Nat) (n : Nat) (stamp : Instant) (held : List HeldPacket) : Keeps s0 (fetchContext t p n stamp held) := by
  unfold fetchContext
  try dsimp only
  with_reducible repeat' (first | exact h | assumption | rfl | apply emit_keeps | apply modPart_keeps | apply countEvent_keeps | split | intro)

theorem rmaStart_keeps {s0 t : State} (h : Keeps s0 t) (right : Nat) (id : Nat) (h' : DescHdr) (o : RmaOps) : Keeps s0 (rmaStart right t id h' o) := by
  unfold rmaStart
  try dsimp only
  with_reducible repeat' (first | exact h | assumption | rfl | apply refuse_keeps | apply waitIn_keeps | apply fetchContext_keeps | apply pumpQp_keeps | split | intro)

theorem startRmaWrite_keeps {s0 t : State} (h : Keeps s0 t) (id : Nat) (h' : DescHdr) (o : RmaOps) : Keeps s0 (startRmaWrite t id h' o) := by
  unfold startRmaWrite
  try dsimp only
  with_reducible repeat' (first | exact h | assumption | rfl | apply rmaStart_keeps | split | intro)

theorem startRmaRead_keeps {s0 t : State} (h : Keeps s0 t) (id : Nat) (h' : DescHdr) (o : RmaOps) : Keeps s0 (startRmaRead t id h' o) := by
  unfold startRmaRead
  try dsimp only
  with_reducible repeat' (first | exact h | assumption | rfl | apply rmaStart_keeps | split | intro)

theorem startRmaAdd_keeps {s0 t : State} (h : Keeps s0 t) (id : Nat) (h' : DescHdr) (o : RmaOps) : Keeps s0 (startRmaAdd t id h' o) := by
  unfold startRmaAdd
  try dsimp only
  with_reducible repeat' (first | exact h | assumption | rfl | apply rmaStart_keeps | split | intro)

theorem rmaAgain_keeps {s0 t : State} (h : Keeps s0 t) (f : InFlight) : Keeps s0 (rmaAgain t f) := by
  unfold rmaAgain
  try dsimp only
  with_reducible repeat' (first | exact h | assumption | rfl | apply rmaStart_keeps | split | intro)

theorem creditBytes_keeps {s0 t : State} (h : Keeps s0 t) (id : Nat) (n : Nat) : Keeps s0 (creditBytes t id n) := by
  unfold creditBytes
  try dsimp only
  with_reducible repeat' (first | exact h | assumption | rfl | apply modFlight_keeps | apply finish_keeps | split | intro)

theorem responseExpired_keeps {s0 t : State} (h : Keeps s0 t) (p : Nat) (n : Nat) : Keeps s0 (responseExpired t p n) := by
  unfold responseExpired
  try dsimp only
  with_reducible repeat' (first | exact h | assumption | rfl | apply modQp_keeps | apply reach_keeps | apply finish_keeps | apply Keeps.foldPair | apply Keeps.fold | split | intro)

theorem ackUpTo_keeps {s0 t : State} (h : Keeps s0 t) (p : Nat) (n : Nat) (psn : Nat) : Keeps s0 (ackUpTo t p n psn) := by
  unfold ackUpTo
  try dsimp only
  with_reducible repeat' (first | exact h | assumption | rfl | apply modQp_keeps | apply creditBytes_keeps | apply Keeps.foldPair | apply Keeps.fold | split | intro)

theorem resendOne_keeps {s0 t : State} (h : Keeps s0 t) (p : Nat) (n : Nat) (e : SentPacket) : Keeps s0 (resendOne p n t e) := by
  unfold resendOne
  try dsimp only
  with_reducible repeat' (first | exact h | assumption | rfl | apply finish_keeps | apply sealPacket_keeps | apply modQp_keeps | apply sendPacket_keeps | split | intro)

theorem resendFrom_keeps {s0 t : State} (h : Keeps s0 t) (p : Nat) (n : Nat) (psn : Nat) : Keeps s0 (resendFrom t p n psn) := by
  unfold resendFrom
  try dsimp only
  with_reducible repeat' (first | exact h | assumption | rfl | apply resendOne_keeps | apply Keeps.foldPair | apply Keeps.fold | split | intro)

theorem noteLeft_keeps {s0 t : State} (h : Keeps s0 t) (p : Nat) (k : Packet) : Keeps s0 (noteLeft t p k) := by
  unfold noteLeft
  try dsimp only
  with_reducible repeat' (first | exact h | assumption | rfl | apply modPart_keeps | split | intro)

theorem retryFrom_keeps {s0 t : State} (h : Keeps s0 t) (p : Nat) (n : Nat) (psn : Nat) (hint : Nat) : Keeps s0 (retryFrom t p n psn hint) := by
  unfold retryFrom
  try dsimp only
  with_reducible repeat' (first | exact h | assumption | rfl | apply finish_keeps | apply modQp_keeps | apply Keeps.foldPair | apply Keeps.fold | split | intro)

theorem failFrom_keeps {s0 t : State} (h : Keeps s0 t) (p : Nat) (n : Nat) (psn : Nat) (st : Status) : Keeps s0 (failFrom t p n psn st) := by
  unfold failFrom
  try dsimp only
  with_reducible repeat' (first | exact h | assumption | rfl | apply modQp_keeps | apply finish_keeps | apply Keeps.foldPair | apply Keeps.fold | split | intro)

theorem countStale_keeps {s0 t : State} (h : Keeps s0 t) : Keeps s0 (countStale t) := by
  unfold countStale
  try dsimp only
  with_reducible repeat' (first | exact h | assumption | rfl | split | (refine Keeps.same ?_ rfl; first | exact h | assumption | split) | intro)

theorem receiveReply_keeps {s0 t : State} (h : Keeps s0 t) (k : Packet) (stamp : Instant) : Keeps s0 (receiveReply t k stamp) := by
  unfold receiveReply
  try dsimp only
  with_reducible repeat' (first | exact h | assumption | rfl | apply countStale_keeps | apply ackUpTo_keeps | apply resendFrom_keeps | apply retryFrom_keeps | apply failFrom_keeps | apply pumpQp_keeps | split | intro)

theorem receiveResponse_keeps {s0 t : State} (h : Keeps s0 t) (k : Packet) (stamp : Instant) (payload : Bytes) : Keeps s0 (receiveResponse t k stamp payload) := by
  unfold receiveResponse
  try dsimp only
  with_reducible repeat' (first | exact h | assumption | rfl | apply countStale_keeps | apply writeMarked_keeps | apply dropResidentAt_keeps | apply modQp_keeps | apply pumpQp_keeps | apply creditBytes_keeps | split | intro)

theorem rmaReply_keeps {s0 t : State} (h : Keeps s0 t) (k : Packet) (peer : Nat) (status : Nat) (hint : Nat) (psn : Nat) : Keeps s0 (rmaReply t k peer status hint psn) := by
  unfold rmaReply
  try dsimp only
  with_reducible repeat' (first | exact h | assumption | rfl | apply trySend_keeps | split | intro)

theorem blindReply_keeps {s0 t : State} (h : Keeps s0 t) (k : Packet) (status : Nat) (hint : Nat) (psn : Nat) : Keeps s0 (blindReply t k status hint psn) := by
  unfold blindReply
  try dsimp only
  with_reducible repeat' (first | exact h | assumption | rfl | apply rmaReply_keeps | apply spendFree_keeps | split | intro)

theorem landPacket_keeps {s0 t : State} (h : Keeps s0 t) (p : Nat) (a : Nat) (k : Packet) : Keeps s0 (landPacket t p a k) := by
  unfold landPacket
  try dsimp only
  with_reducible repeat' (first | exact h | assumption | rfl | apply dropResidentAt_keeps | apply setUnitMetas_keeps | apply pwrite_keeps | apply writeMarked_keeps | split | intro)

theorem endMessage_keeps {s0 t : State} (h : Keeps s0 t) (p : Nat) (k : Packet) : Keeps s0 (endMessage t p k) := by
  unfold endMessage
  try dsimp only
  with_reducible repeat' (first | exact h | assumption | rfl | apply rmaReply_keeps | apply modQp_keeps | split | intro)

theorem answerRead_keeps {s0 t : State} (h : Keeps s0 t) (p : Nat) (a : Nat) (q : Qp) (k : Packet) : Keeps s0 (answerRead t p a q k) := by
  unfold answerRead
  try dsimp only
  with_reducible repeat' (first | exact h | assumption | rfl | apply countDram_keeps | apply trySend_keeps | apply modQp_keeps | split | intro)

theorem refuseRequest_keeps {s0 t : State} (h : Keeps s0 t) (p : Nat) (q : Qp) (k : Packet) (st : Status) : Keeps s0 (refuseRequest t p q k st) := by
  unfold refuseRequest
  try dsimp only
  with_reducible repeat' (first | exact h | assumption | rfl | apply rmaReply_keeps | apply errorQp_keeps | apply modQp_keeps | split | intro)

theorem landAdmitted_keeps {s0 t : State} (h : Keeps s0 t) (p : Nat) (l : HeldPacket) : Keeps s0 (landAdmitted t p l) := by
  unfold landAdmitted
  try dsimp only
  with_reducible repeat' (first | exact h | assumption | rfl | apply endMessage_keeps | apply landPacket_keeps | apply refuseRequest_keeps | apply releaseCells_keeps | split | intro)

theorem admitRequest_keeps {s0 t : State} (h : Keeps s0 t) (p : Nat) (q : Qp) (l : HeldPacket) (a : Nat) : Keeps s0 (admitRequest t p q l a) := by
  unfold admitRequest
  try dsimp only
  with_reducible repeat' (first | exact h | assumption | rfl | apply modQp_keeps | apply releaseCells_keeps | apply answerRead_keeps | apply modPart_keeps | apply landAdmitted_keeps | split | intro)

theorem checkRequest_keeps {s0 t : State} (h : Keeps s0 t) (p : Nat) (q : Qp) (l : HeldPacket) : Keeps s0 (checkRequest t p q l) := by
  unfold checkRequest
  try dsimp only
  with_reducible repeat' (first | exact h | assumption | rfl | apply releaseCells_keeps | apply refuseRequest_keeps | apply rmaReply_keeps | apply modQp_keeps | apply admitRequest_keeps | split | intro)

theorem refuseMiss_keeps {s0 t : State} (h : Keeps s0 t) (p : Nat) (l : HeldPacket) (hint : Nat) : Keeps s0 (refuseMiss t p l hint) := by
  unfold refuseMiss
  try dsimp only
  with_reducible repeat' (first | exact h | assumption | rfl | apply modPart_keeps | apply releaseCells_keeps | apply blindReply_keeps | apply Keeps.foldPair | apply Keeps.fold | split | intro)

theorem missRequest_keeps {s0 t : State} (h : Keeps s0 t) (p : Nat) (l : HeldPacket) : Keeps s0 (missRequest t p l) := by
  unfold missRequest
  try dsimp only
  with_reducible repeat' (first | exact h | assumption | rfl | apply modPart_keeps | apply releaseCells_keeps | apply blindReply_keeps | apply refuseMiss_keeps | apply fetchContext_keeps | split | intro)

theorem receiveRequest_keeps {s0 t : State} (h : Keeps s0 t) (l : HeldPacket) : Keeps s0 (receiveRequest t l) := by
  unfold receiveRequest
  try dsimp only
  with_reducible repeat' (first | exact h | assumption | rfl | apply releaseCells_keeps | apply modPart_keeps | apply checkRequest_keeps | apply missRequest_keeps | split | intro)

theorem retryLandings_keeps {s0 : State} (p fuel : Nat) : ∀ {t : State}, Keeps s0 t → Keeps s0 (retryLandings p fuel t) := by
  induction fuel with
  | zero => intro t h; exact h
  | succ m ih =>
    intro t h
    unfold retryLandings
    split
    · exact h
    · exact ih (landAdmitted_keeps (modPart_keeps h _ _) _ _)

theorem missExpired_keeps {s0 t : State} (h : Keeps s0 t) (p : Nat) (n : Nat) : Keeps s0 (missExpired t p n) := by
  unfold missExpired
  try dsimp only
  with_reducible repeat' (first | exact h | assumption | rfl | apply reach_keeps | apply modPart_keeps | apply blindReply_keeps | apply releaseCells_keeps | apply Keeps.foldPair | apply Keeps.fold | split | intro)

theorem wakeRma_keeps {s0 t : State} (h : Keeps s0 t) (p : Nat) (n : Nat) (found : Bool) : Keeps s0 (wakeRma t p n found) := by
  unfold wakeRma
  try dsimp only
  with_reducible repeat' (first | exact h | assumption | rfl | apply rmaAgain_keeps | apply refuse_keeps | apply Keeps.foldPair | apply Keeps.fold | split | intro)

theorem fetchWaiting_keeps {s0 t : State} (h : Keeps s0 t) (p : Nat) : Keeps s0 (fetchWaiting t p) := by
  unfold fetchWaiting
  try dsimp only
  with_reducible repeat' (first | exact h | assumption | rfl | apply fetchContext_keeps | apply Keeps.foldPair | apply Keeps.fold | split | intro)

theorem contextArrived_keeps {s0 t : State} (h : Keeps s0 t) (p : Nat) (n : Nat) (record : Bytes) : Keeps s0 (contextArrived t p n record) := by
  unfold contextArrived
  try dsimp only
  with_reducible repeat' (first | exact h | assumption | rfl | apply missExpired_keeps | apply modPart_keeps | apply releaseCells_keeps | apply blindReply_keeps | apply fetchWaiting_keeps | apply wakeRma_keeps | apply makeRoom_keeps | apply modUsage_keeps | apply receiveRequest_keeps | apply Keeps.foldPair | apply Keeps.fold | split | intro)

theorem gapExpired_keeps {s0 t : State} (h : Keeps s0 t) (p : Nat) (n : Nat) : Keeps s0 (gapExpired t p n) := by
  unfold gapExpired
  try dsimp only
  with_reducible repeat' (first | exact h | assumption | rfl | apply modQp_keeps | apply reach_keeps | split | intro)

theorem qpResult_keeps {s0 t : State} (h : Keeps s0 t) (p : Nat) (r : Nat) : Keeps s0 (qpResult t p r) := by
  unfold qpResult
  try dsimp only
  with_reducible repeat' (first | exact h | assumption | rfl | apply setReg_keeps | split | intro)

theorem createQp_keeps {s0 t : State} (h : Keeps s0 t) (p : Nat) (n : Nat) : Keeps s0 (createQp t p n) := by
  unfold createQp
  try dsimp only
  with_reducible repeat' (first | exact h | assumption | rfl | apply refuseAccess_keeps | apply qpResult_keeps | apply installQp_keeps | split | intro)

theorem reinitQp_keeps {s0 t : State} (h : Keeps s0 t) (p : Nat) (n : Nat) : Keeps s0 (reinitQp t p n) := by
  unfold reinitQp
  try dsimp only
  with_reducible repeat' (first | exact h | assumption | rfl | apply refuseAccess_keeps | apply qpResult_keeps | apply modPart_keeps | apply installQp_keeps | split | intro)

theorem destroyQp_keeps {s0 t : State} (h : Keeps s0 t) (p : Nat) (n : Nat) : Keeps s0 (destroyQp t p n) := by
  unfold destroyQp
  try dsimp only
  with_reducible repeat' (first | exact h | assumption | rfl | apply refuseAccess_keeps | apply qpResult_keeps | apply finish_keeps | apply emit_keeps | apply dropQp_keeps | apply Keeps.foldPair | apply Keeps.fold | split | intro)

theorem bindPd_keeps {s0 t : State} (h : Keeps s0 t) (p : Nat) (pd : Nat) (v : Nat) : Keeps s0 (bindPd t p pd v) := by
  unfold bindPd
  try dsimp only
  with_reducible repeat' (first | exact h | assumption | rfl | apply errorQps_keeps | apply setReg_keeps | apply logFault_keeps | split | intro)

theorem writeSpCtrl_keeps {s0 t : State} (h : Keeps s0 t) (p : Nat) (k : Nat) (v : Nat) : Keeps s0 (writeSpCtrl t p k v) := by
  unfold writeSpCtrl
  try dsimp only
  with_reducible repeat' (first | exact h | assumption | rfl | apply setReg_keeps | split | intro)

theorem enableSpace_keeps {s0 t : State} (h : Keeps s0 t) (p : Nat) (k : Nat) (v : Nat) : Keeps s0 (enableSpace t p k v) := by
  unfold enableSpace
  try dsimp only
  with_reducible repeat' (first | exact h | assumption | rfl | apply writeSpCtrl_keeps | apply modSpace_keeps | split | intro)

theorem revokeSpace_keeps {s0 t : State} (h : Keeps s0 t) (p : Nat) (k : Nat) : Keeps s0 (revokeSpace t p k) := by
  unfold revokeSpace
  try dsimp only
  with_reducible repeat' (first | exact h | assumption | rfl | apply setReg_keeps | apply modSpace_keeps | split | intro)

theorem revokeDone_keeps {s0 t : State} (h : Keeps s0 t) (p : Nat) (k : Nat) : Keeps s0 (revokeDone t p k) := by
  unfold revokeDone
  try dsimp only
  with_reducible repeat' (first | exact h | assumption | rfl | apply modSpace_keeps | apply setStatusBits_keeps | apply errorQps_keeps | apply raiseIrq_keeps | split | intro)

theorem clearExports_keeps {s0 t : State} (h : Keeps s0 t) (p : Nat) (k : Nat) : Keeps s0 (clearExports t p k) := by
  unfold clearExports
  try dsimp only
  with_reducible repeat' (first | exact h | assumption | rfl | apply setReg_keeps | apply Keeps.foldPair | apply Keeps.fold | split | intro)

theorem releaseSpace_keeps {s0 t : State} (h : Keeps s0 t) (p : Nat) (k : Nat) : Keeps s0 (releaseSpace t p k) := by
  unfold releaseSpace
  try dsimp only
  with_reducible repeat' (first | exact h | assumption | rfl | apply clearExports_keeps | apply modSpace_keeps | split | intro)

theorem startPasses_keeps {s0 t : State} (h : Keeps s0 t) (id p : Nat) (ns : List Nat) {run : State → State}
    (hr : ∀ u, Keeps s0 u → Keeps s0 (run u)) : Keeps s0 (startPasses run t id p ns) := by
  unfold startPasses
  split
  · exact refuse_keeps h _ _
  · split
    · exact hr t h
    · exact startJobs_keeps h _ _ _

theorem decapOne_keeps {s0 t : State} (h : Keeps s0 t) (p : Nat) (w : Window) (b : Submission) : Keeps s0 (decapOne t p w b) := by
  unfold decapOne
  try dsimp only
  with_reducible repeat' (first | exact h | assumption | rfl | apply modSub_keeps | split | intro)

theorem decapAll_keeps {s0 : State} (p : Nat) (passed : List Nat) (bs : List Submission) :
    ∀ {t : State}, Keeps s0 t → Keeps s0 (decapAll p passed bs t) := by
  induction bs with
  | nil => intro t h; exact h
  | cons b bs ih =>
    intro t h
    unfold decapAll
    split
    · exact h
    · dsimp only
      split
      · exact ih (decapOne_keeps h p _ b)
      · exact ih h

theorem runDecap_keeps {s0 t : State} (h : Keeps s0 t) (id : Nat) (h' : DescHdr) (o : KemOps) : Keeps s0 (runDecap t id h' o) := by
  unfold runDecap
  try dsimp only
  with_reducible repeat' (first | exact h | assumption | rfl | apply decapAll_keeps | apply finishRef_keeps | apply refuse_keeps | split | intro)

theorem decapReady_keeps {s0 t : State} (h : Keeps s0 t) (id : Nat) (h' : DescHdr) (o : KemOps) (w : Window) : Keeps s0 (decapReady t id h' o w) := by
  unfold decapReady
  try dsimp only
  with_reducible repeat' (first | exact h | assumption | rfl | apply startPasses_keeps | apply runDecap_keeps | split | intro)

theorem startKemSealed_keeps {s0 t : State} (h : Keeps s0 t) (id : Nat) (h' : DescHdr) (o : KemOps) : Keeps s0 (startKemSealed t id h' o) := by
  unfold startKemSealed
  try dsimp only
  with_reducible repeat' (first | exact h | assumption | rfl | apply refuse_keeps | apply decapReady_keeps | apply waitIn_keeps | split | intro)

theorem openBundle_keeps {s0 t : State} (h : Keeps s0 t) (p : Nat) (round : Nat) (b : Submission) : Keeps s0 (openBundle t p round b) := by
  unfold openBundle
  try dsimp only
  with_reducible repeat' (first | exact h | assumption | rfl | apply modRound_keeps | apply freeSlot_keeps | apply modSub_keeps | split | intro)

theorem writeRecords_keeps {s0 t : State} (h : Keeps s0 t) (p : Nat) (a : Nat) (w : Window) (first : Nat) (count : Nat) : Keeps s0 (writeRecords t p a w first count) := by
  unfold writeRecords
  try dsimp only
  with_reducible repeat' (first | exact h | assumption | rfl | apply dropResidentAt_keeps | apply writeMarked_keeps | split | intro)

theorem openBundles_keeps {s0 : State} (p round : Nat) (f : InFlight) (bs : List Submission) :
    ∀ {t : State}, Keeps s0 t → Keeps s0 (openBundles p round f bs t) := by
  induction bs with
  | nil => intro t h; exact h
  | cons b bs ih =>
    intro t h
    unfold openBundles
    split
    · exact ih h
    · split
      · exact ih (openBundle_keeps h p round b)
      · exact h

theorem runBundles_keeps {s0 t : State} (h : Keeps s0 t) (id : Nat) (h' : DescHdr) (o : KemOps) : Keeps s0 (runBundles t id h' o) := by
  unfold runBundles
  try dsimp only
  with_reducible repeat' (first | exact h | assumption | rfl | apply openBundles_keeps | apply writeRecords_keeps | apply finishRef_keeps | apply refuse_keeps | split | intro)

theorem bundlesReady_keeps {s0 t : State} (h : Keeps s0 t) (id : Nat) (h' : DescHdr) (o : KemOps) (w : Window) : Keeps s0 (bundlesReady t id h' o w) := by
  unfold bundlesReady
  try dsimp only
  with_reducible repeat' (first | exact h | assumption | rfl | apply startPasses_keeps | apply runBundles_keeps | split | intro)

theorem startKemBundle_keeps {s0 t : State} (h : Keeps s0 t) (id : Nat) (h' : DescHdr) (o : KemOps) : Keeps s0 (startKemBundle t id h' o) := by
  unfold startKemBundle
  try dsimp only
  with_reducible repeat' (first | exact h | assumption | rfl | apply refuse_keeps | apply bundlesReady_keeps | apply waitIn_keeps | split | intro)

theorem openSub_keeps {s0 t : State} (h : Keeps s0 t) (p : Nat) (round : Nat) (b : Submission) : Keeps s0 (openSub t p round b) := by
  unfold openSub
  try dsimp only
  with_reducible repeat' (first | exact h | assumption | rfl | apply writeMarked_keeps | apply dropResident_keeps | apply modUsage_keeps | apply modSub_keeps | apply freeSlot_keeps | split | intro)

theorem openAll_keeps {s0 : State} (p round : Nat) (f : InFlight) (bs : List Submission) :
    ∀ {t : State}, Keeps s0 t → Keeps s0 (openAll p round f bs t) := by
  induction bs with
  | nil => intro t h; exact h
  | cons b bs ih =>
    intro t h
    unfold openAll
    split
    · exact h
    · split
      · exact ih h
      · split
        · exact ih (openSub_keeps h p round b)
        · exact h

theorem runOpen_keeps {s0 t : State} (h : Keeps s0 t) (id : Nat) (h' : DescHdr) (o : SealedOps) : Keeps s0 (runOpen t id h' o) := by
  unfold runOpen
  try dsimp only
  with_reducible repeat' (first | exact h | assumption | rfl | apply openAll_keeps | apply finishRef_keeps | apply releaseUses_keeps | apply writeRecords_keeps | apply refuse_keeps | split | intro)

theorem openReady_keeps {s0 t : State} (h : Keeps s0 t) (id : Nat) (h' : DescHdr) (o : SealedOps) (w : Window) : Keeps s0 (openReady t id h' o w) := by
  unfold openReady
  try dsimp only
  with_reducible repeat' (first | exact h | assumption | rfl | apply refuse_keeps | apply startPasses_keeps | apply runOpen_keeps | apply modWindow_keeps | split | intro)

theorem startSealedOpen_keeps {s0 t : State} (h : Keeps s0 t) (id : Nat) (h' : DescHdr) (o : SealedOps) : Keeps s0 (startSealedOpen t id h' o) := by
  unfold startSealedOpen
  try dsimp only
  with_reducible repeat' (first | exact h | assumption | rfl | apply refuse_keeps | apply openReady_keeps | apply waitIn_keeps | split | intro)

theorem runPassed_keeps {s0 t : State} (h : Keeps s0 t) (f : InFlight) : Keeps s0 (runPassed t f) := by
  unfold runPassed
  try dsimp only
  with_reducible repeat' (first | exact h | assumption | rfl | apply runDecap_keeps | apply runBundles_keeps | apply runOpen_keeps | split | intro)

theorem clipReady_keeps {s0 t : State} (h : Keeps s0 t) (id : Nat) (h' : DescHdr) (o : SealedOps) (w : Window) : Keeps s0 (clipReady t id h' o w) := by
  unfold clipReady
  try dsimp only
  with_reducible repeat' (first | exact h | assumption | rfl | apply refuse_keeps | apply modFlight_keeps | apply finish_keeps | apply startJobs_keeps | split | intro)

theorem startClip_keeps {s0 t : State} (h : Keeps s0 t) (id : Nat) (h' : DescHdr) (o : SealedOps) : Keeps s0 (startClip t id h' o) := by
  unfold startClip
  try dsimp only
  with_reducible repeat' (first | exact h | assumption | rfl | apply refuse_keeps | apply clipReady_keeps | apply waitIn_keeps | split | intro)

theorem clipCommitted_keeps {s0 t : State} (h : Keeps s0 t) (p : Nat) (n : Nat) (t' : Nat) : Keeps s0 (clipCommitted t p n t') := by
  unfold clipCommitted
  try dsimp only
  with_reducible repeat' (first | exact h | assumption | rfl | apply modSub_keeps | split | intro)

theorem clipSummed_keeps {s0 t : State} (h : Keeps s0 t) (id : Nat) (n : Nat) : Keeps s0 (clipSummed t id n) := by
  unfold clipSummed
  try dsimp only
  with_reducible repeat' (first | exact h | assumption | rfl | apply modSub_keeps | apply beginNext_keeps | apply modFlight_keeps | apply Keeps.foldPair | apply Keeps.fold | split | intro)

theorem submitReply_keeps {s0 t : State} (h : Keeps s0 t) (p : Nat) (b : Submission) (status : Nat) (verdict : Nat) (hint : Nat) : Keeps s0 (submitReply t p b status verdict hint) := by
  unfold submitReply
  try dsimp only
  with_reducible repeat' (first | exact h | assumption | rfl | apply sendPlain_keeps | split | intro)

theorem replyVerdict_keeps {s0 t : State} (h : Keeps s0 t) (p : Nat) (b : Submission) (v : Verdict) : Keeps s0 (replyVerdict t p b v) := by
  unfold replyVerdict
  try dsimp only
  with_reducible repeat' (first | exact h | assumption | rfl | apply submitReply_keeps | split | intro)

theorem replyRetry_keeps {s0 t : State} (h : Keeps s0 t) (p : Nat) (b : Submission) : Keeps s0 (replyRetry t p b) := by
  unfold replyRetry
  try dsimp only
  with_reducible repeat' (first | exact h | assumption | rfl | apply spendFree_keeps | apply submitReply_keeps | split | intro)

theorem leavePool_keeps {s0 t : State} (h : Keeps s0 t) (b : Submission) : Keeps s0 (leavePool t b) := by
  unfold leavePool
  try dsimp only
  with_reducible repeat' (first | exact h | assumption | rfl | apply leaveQueue_keeps | split | intro)

theorem unwait_keeps {s0 t : State} (h : Keeps s0 t) (p : Nat) (k : WinKind) (b : Submission) : Keeps s0 (unwait t p k b) := by
  unfold unwait
  try dsimp only
  with_reducible repeat' (first | exact h | assumption | rfl | apply modWindow_keeps | split | intro)

theorem retryShawl_keeps {s0 t : State} (h : Keeps s0 t) (p : Nat) (k : WinKind) (b : Submission) : Keeps s0 (retryShawl t p k b) := by
  unfold retryShawl
  try dsimp only
  with_reducible repeat' (first | exact h | assumption | rfl | apply replyRetry_keeps | apply unwait_keeps | apply leavePool_keeps | split | intro)

theorem settleShawl_keeps {s0 t : State} (h : Keeps s0 t) (p : Nat) (k : WinKind) (n : Nat) : Keeps s0 (settleShawl t p k n) := by
  unfold settleShawl
  try dsimp only
  with_reducible repeat' (first | exact h | assumption | rfl | apply modSub_keeps | apply replyVerdict_keeps | split | intro)

theorem numberShawl_keeps {s0 t : State} (h : Keeps s0 t) (p : Nat) (k : WinKind) (w : Window) (b : Submission) : Keeps s0 (numberShawl t p k w b) := by
  unfold numberShawl
  try dsimp only
  with_reducible repeat' (first | exact h | assumption | rfl | apply setWindow_keeps | apply leavePool_keeps | apply settleShawl_keeps | apply writeMarked_keeps | apply replyVerdict_keeps | apply modSub_keeps | split | intro)

theorem numberListed_keeps {s0 t : State} (h : Keeps s0 t) (p : Nat) (k : WinKind) (w : Window) (b : Submission) (id : Nat) : Keeps s0 (numberListed t p k w b id) := by
  unfold numberListed
  try dsimp only
  with_reducible repeat' (first | exact h | assumption | rfl | apply setWindow_keeps | apply decideItem_keeps | apply settleIngest_keeps | apply landSub_keeps | split | intro)

theorem dismissSub_keeps {s0 t : State} (h : Keeps s0 t) (p : Nat) (k : WinKind) (b : Submission) (v : Verdict) : Keeps s0 (dismissSub t p k b v) := by
  unfold dismissSub
  try dsimp only
  with_reducible repeat' (first | exact h | assumption | rfl | apply settleIngest_keeps | apply decideItem_keeps | apply unwait_keeps | apply replyVerdict_keeps | apply leavePool_keeps | split | intro)

theorem judgeWaiting_keeps {s0 t : State} (h : Keeps s0 t) (p : Nat) (k : WinKind) : Keeps s0 (judgeWaiting t p k) := by
  unfold judgeWaiting
  try dsimp only
  with_reducible repeat' (first | exact h | assumption | rfl | apply dismissSub_keeps | apply Keeps.foldPair | apply Keeps.fold | split | intro)

theorem assignNumber_keeps {s0 t : State} (h : Keeps s0 t) (p : Nat) (k : WinKind) (b : Submission) : Keeps s0 (assignNumber t p k b) := by
  unfold assignNumber
  try dsimp only
  with_reducible repeat' (first | exact h | assumption | rfl | apply dismissSub_keeps | apply numberListed_keeps | apply numberShawl_keeps | apply retryShawl_keeps | split | intro)

theorem assignNext_keeps {s0 t : State} (h : Keeps s0 t) (p : Nat) : Keeps s0 (assignNext t p) := by
  unfold assignNext
  try dsimp only
  with_reducible repeat' (first | exact h | assumption | rfl | apply assignNumber_keeps | split | intro)

theorem addWaiting_keeps {s0 t : State} (h : Keeps s0 t) (p : Nat) (wk : WinKind) (b : Submission) (k : Packet) : Keeps s0 (addWaiting t p wk b k) := by
  unfold addWaiting
  try dsimp only
  with_reducible repeat' (first | exact h | assumption | rfl | apply modWindow_keeps | split | intro)

theorem spoilNumbered_keeps {s0 t : State} (h : Keeps s0 t) (p : Nat) (wk : WinKind) (n : Nat) (b : Submission) : Keeps s0 (spoilNumbered t p wk n b) := by
  unfold spoilNumbered
  try dsimp only
  with_reducible repeat' (first | exact h | assumption | rfl | apply modSub_keeps | apply releaseUses_keeps | apply replyVerdict_keeps | split | intro)

theorem addNumbered_keeps {s0 t : State} (h : Keeps s0 t) (p : Nat) (wk : WinKind) (w : Window) (b : Submission) (n : Nat) (k : Packet) : Keeps s0 (addNumbered t p wk w b n k) := by
  unfold addNumbered
  try dsimp only
  with_reducible repeat' (first | exact h | assumption | rfl | apply spoilNumbered_keeps | apply writeMarked_keeps | apply settleShawl_keeps | apply modSub_keeps | split | intro)

theorem firstPacket_keeps {s0 t : State} (h : Keeps s0 t) (p : Nat) (k : Packet) (stamp : Instant) (port : Nat) (order : Nat) (key : Option Nat) : Keeps s0 (firstPacket t p k stamp port order key) := by
  unfold firstPacket
  try dsimp only
  with_reducible repeat' (first | exact h | assumption | rfl | apply replyVerdict_keeps | apply releaseCells_keeps | apply modWindow_keeps | split | intro)

theorem gapOne_keeps {s0 t : State} (h : Keeps s0 t) (p : Nat) (e : WinKind × Submission) : Keeps s0 (gapOne t p e) := by
  unfold gapOne
  try dsimp only
  with_reducible repeat' (first | exact h | assumption | rfl | apply spoilNumbered_keeps | apply modWindow_keeps | split | intro)

theorem receiveSubmit_keeps {s0 t : State} (h : Keeps s0 t) (p : Nat) (k : Packet) (stamp : Instant) (port : Nat) (order : Nat) (key : Option Nat) : Keeps s0 (receiveSubmit t p k stamp port order key) := by
  unfold receiveSubmit
  try dsimp only
  with_reducible repeat' (first | exact h | assumption | rfl | apply firstPacket_keeps | apply releaseCells_keeps | apply gapOne_keeps | apply addWaiting_keeps | apply addNumbered_keeps | split | intro)

theorem submitArrives_keeps {s0 t : State} (h : Keeps s0 t) (a : Arrival) : Keeps s0 (submitArrives t a) := by
  unfold submitArrives
  try dsimp only
  with_reducible repeat' (first | exact h | assumption | rfl | apply receiveSubmit_keeps | (refine arrivalVerdict_gone h _ _ (by assumption)) | (refine arrivalVerdict_here h _ _ (by assumption)) | split | intro)

theorem replyOut_keeps {s0 t : State} (h : Keeps s0 t) (a : Arrival) (stamp : Instant) (port : Nat) : Keeps s0 (replyOut t a stamp port) := by
  unfold replyOut
  try dsimp only
  with_reducible repeat' (first | exact h | assumption | rfl | apply modPort_keeps | apply modQueue_keeps | apply enterQueue_keeps | split | intro)

theorem submitReplyArrives_keeps {s0 t : State} (h : Keeps s0 t) (a : Arrival) : Keeps s0 (submitReplyArrives t a) := by
  unfold submitReplyArrives
  try dsimp only
  with_reducible repeat' (first | exact h | assumption | rfl | apply stampArrival_keeps | apply dropPooled_keeps | apply dropArrival_keeps | apply transit_keeps | apply replyOut_keeps | apply leaveQueue_keeps | apply modQueue_keeps | apply enterQueue_keeps | split | intro)

theorem gapSubmission_keeps {s0 t : State} (h : Keeps s0 t) (p : Nat) : Keeps s0 (gapSubmission t p) := by
  unfold gapSubmission
  try dsimp only
  with_reducible repeat' (first | exact h | assumption | rfl | apply gapOne_keeps | apply reach_keeps | split | intro)

theorem startWindowClose_keeps {s0 t : State} (h : Keeps s0 t) (id : Nat) (h' : DescHdr) (o : WindowCloseOps) : Keeps s0 (startWindowClose t id h' o) := by
  unfold startWindowClose
  try dsimp only
  with_reducible repeat' (first | exact h | assumption | rfl | apply refuse_keeps | apply completeClose_keeps | apply waitIn_keeps | apply setWindow_keeps | apply releaseUses_keeps | apply finishCloses_keeps | apply judgeWaiting_keeps | apply closeWindow_keeps | split | intro)

theorem dismissShawl_keeps {s0 t : State} (h : Keeps s0 t) (p : Nat) (wk : WinKind) : Keeps s0 (dismissShawl t p wk) := by
  unfold dismissShawl
  try dsimp only
  with_reducible repeat' (first | exact h | assumption | rfl | apply replyVerdict_keeps | apply leavePool_keeps | apply modWindow_keeps | apply Keeps.foldPair | apply Keeps.fold | split | intro)

theorem endFlight_keeps {s0 t : State} (h : Keeps s0 t) (f : InFlight) (st : Status) (ref : Nat) : Keeps s0 (endFlight t f st ref) := by
  unfold endFlight
  try dsimp only
  with_reducible repeat' (first | exact h | assumption | rfl | apply finishRef_keeps | apply zeroStaging_keeps | split | intro)

theorem endFlights_keeps {s0 t : State} (h : Keeps s0 t) (p : Nat) (test : InFlight → Bool) (st : Status) (ref : Nat) : Keeps s0 (endFlights t p test st ref) := by
  unfold endFlights
  try dsimp only
  with_reducible repeat' (first | exact h | assumption | rfl | apply endFlight_keeps | apply Keeps.foldPair | apply Keeps.fold | split | intro)

theorem abortWindow_keeps {s0 t : State} (h : Keeps s0 t) (p : Nat) (k : WinKind) (st : Status) (ref : Nat) : Keeps s0 (abortWindow t p k st ref) := by
  unfold abortWindow
  try dsimp only
  with_reducible repeat' (first | exact h | assumption | rfl | apply dismissShawl_keeps | apply endFlights_keeps | apply modWindow_keeps | apply releaseUses_keeps | split | intro)

theorem abortWindows_keeps {s0 t : State} (h : Keeps s0 t) (p : Nat) (st : Status) (ref : Nat) : Keeps s0 (abortWindows t p st ref) := by
  unfold abortWindows
  try dsimp only
  with_reducible repeat' (first | exact h | assumption | rfl | apply abortWindow_keeps | split | intro)

theorem tearMember_keeps {s0 t : State} (h : Keeps s0 t) (p : Nat) (keyId : Nat) : Keeps s0 (tearMember t p keyId) := by
  unfold tearMember
  try dsimp only
  with_reducible repeat' (first | exact h | assumption | rfl | apply modLinkKey_keeps | apply endFlights_keeps | apply errorQps_keeps | apply abortWindows_keeps | split | intro)

theorem actTear_keeps {s0 t : State} (h : Keeps s0 t) (k : Packet) : Keeps s0 (actTear t k) := by
  unfold actTear
  try dsimp only
  with_reducible repeat' (first | exact h | assumption | rfl | apply tearMember_keeps | apply Keeps.foldPair | apply Keeps.fold | split | intro)

theorem tearOut_keeps {s0 t : State} (h : Keeps s0 t) (k : Packet) (i : Nat) : Keeps s0 (tearOut k t i) := by
  unfold tearOut
  try dsimp only
  with_reducible repeat' (first | exact h | assumption | rfl | apply emit_keeps | apply modPort_keeps | split | intro)

theorem originateTear_keeps {s0 t : State} (h : Keeps s0 t) (p : Nat) (keyId : Nat) (r : TearReason) : Keeps s0 (originateTear t p keyId r) := by
  unfold originateTear
  try dsimp only
  with_reducible repeat' (first | exact h | assumption | rfl | apply sealPacket_keeps | apply tearOut_keeps | apply tearMember_keeps | apply Keeps.foldPair | apply Keeps.fold | split | (refine Keeps.same ?_ rfl; first | exact h | assumption | apply sealPacket_keeps | apply tearOut_keeps | apply tearMember_keeps | apply Keeps.foldPair | apply Keeps.fold | split) | intro)

theorem tearAll_keeps {s0 t : State} (h : Keeps s0 t) (p : Nat) (r : TearReason) : Keeps s0 (tearAll t p r) := by
  unfold tearAll
  try dsimp only
  with_reducible repeat' (first | exact h | assumption | rfl | apply originateTear_keeps | apply Keeps.foldPair | apply Keeps.fold | split | intro)

theorem receiveTear_keeps {s0 t : State} (h : Keeps s0 t) (a : Arrival) : Keeps s0 (receiveTear t a) := by
  unfold receiveTear
  try dsimp only
  with_reducible repeat' (first | exact h | assumption | rfl | apply elapse_keeps | apply dropPacket_keeps | apply actTear_keeps | apply tearOut_keeps | apply Keeps.foldPair | apply Keeps.fold | split | (refine Keeps.same ?_ rfl; first | exact h | assumption | apply elapse_keeps | apply dropPacket_keeps | apply actTear_keeps | apply tearOut_keeps | apply Keeps.foldPair | apply Keeps.fold | split) | intro)

theorem expireTear_keeps {s0 t : State} (h : Keeps s0 t) (keyId : Nat) (src : Nat) (tearId : Nat) : Keeps s0 (expireTear t keyId src tearId) := by
  unfold expireTear
  try dsimp only
  with_reducible repeat' (first | exact h | assumption | rfl | apply reach_keeps | split | (refine Keeps.same ?_ rfl; first | exact h | assumption | apply reach_keeps | split) | intro)

end Sys2Proof.Machine
end

