-- ==== Sys2Proof/Laws/KeepsDesc.lean ====
section
/-! SUPPORT. What the operations of these files keep: Collar, Control, Move, Descriptors, Pool. -/

namespace Sys2Proof.Machine

set_option Elab.async false

theorem collarQueue_keeps {s0 t : State} (h : Keeps s0 t) (slot : Nat) (j : CollarJob) : Keeps s0 (collarQueue t slot j) := by
  unfold collarQueue
  try dsimp only
  with_reducible repeat' (first | exact h | assumption | rfl | split | (refine Keeps.same ?_ rfl; first | exact h | assumption | split) | intro)

theorem startCollar_keeps {s0 t : State} (h : Keeps s0 t) (id : Nat) (p : Nat) : Keeps s0 (startCollar t id p) := by
  unfold startCollar
  try dsimp only
  with_reducible repeat' (first | exact h | assumption | rfl | apply collarQueue_keeps | apply waitIn_keeps | split | intro)

theorem runAttest_keeps {s0 t : State} (h : Keeps s0 t) (id : Nat) (h' : DescHdr) (o : AttestOps) : Keeps s0 (runAttest t id h' o) := by
  unfold runAttest
  try dsimp only
  with_reducible repeat' (first | exact h | assumption | rfl | apply refuse_keeps | apply finish_keeps | apply spendFree_keeps | apply writeMarked_keeps | split | intro)

theorem runModuleAttest_keeps {s0 t : State} (h : Keeps s0 t) : Keeps s0 (runModuleAttest t) := by
  unfold runModuleAttest
  try dsimp only
  with_reducible repeat' (first | exact h | assumption | rfl | apply spendFree_keeps | apply emit_keeps | split | (refine Keeps.same ?_ rfl; first | exact h | assumption | apply spendFree_keeps | apply emit_keeps | split) | intro)

theorem installKey_keeps {s0 t : State} (h : Keeps s0 t) (p : Nat) (m : Message) (material : Bytes) : Keeps s0 (installKey t p m material) := by
  unfold installKey
  try dsimp only
  with_reducible repeat' (first | exact h | assumption | rfl | apply modPart_keeps | split | (refine Keeps.same ?_ rfl; first | exact h | assumption | apply modPart_keeps | split) | intro)

theorem runImport_keeps {s0 t : State} (h : Keeps s0 t) (id : Nat) (h' : DescHdr) (o : KeyImportOps) : Keeps s0 (runImport t id h' o) := by
  unfold runImport
  try dsimp only
  with_reducible repeat' (first | exact h | assumption | rfl | apply finish_keeps | apply countDram_keeps | apply installKey_keeps | split | intro)

theorem markDying_keeps {s0 t : State} (h : Keeps s0 t) (p : Nat) (kind : Nat) (link : Nat) : Keeps s0 (markDying t p kind link) := by
  unfold markDying
  try dsimp only
  with_reducible repeat' (first | exact h | assumption | rfl | apply modPart_keeps | split | (refine Keeps.same ?_ rfl; first | exact h | assumption | apply modPart_keeps | split) | intro)

theorem wipeKeys_keeps {s0 t : State} (h : Keeps s0 t) (p : Nat) (kind : Nat) (link : Nat) (r : TearReason) : Keeps s0 (wipeKeys t p kind link r) := by
  unfold wipeKeys
  try dsimp only
  with_reducible repeat' (first | exact h | assumption | rfl | apply originateTear_keeps | apply modPart_keeps | apply Keeps.foldPair | apply Keeps.fold | split | (refine Keeps.same ?_ rfl; first | exact h | assumption | apply originateTear_keeps | apply modPart_keeps | apply Keeps.foldPair | apply Keeps.fold | split) | intro)

theorem startDestroy_keeps {s0 t : State} (h : Keeps s0 t) (id : Nat) (h' : DescHdr) (o : KeyDestroyOps) : Keeps s0 (startDestroy t id h' o) := by
  unfold startDestroy
  try dsimp only
  with_reducible repeat' (first | exact h | assumption | rfl | apply startCollar_keeps | apply markDying_keeps | split | intro)

theorem runDestroy_keeps {s0 t : State} (h : Keeps s0 t) (id : Nat) (h' : DescHdr) (o : KeyDestroyOps) : Keeps s0 (runDestroy t id h' o) := by
  unfold runDestroy
  try dsimp only
  with_reducible repeat' (first | exact h | assumption | rfl | apply collarQueue_keeps | apply finish_keeps | apply wipeKeys_keeps | split | intro)

theorem expireKey_keeps {s0 t : State} (h : Keeps s0 t) (p : Nat) (kind : Nat) (link : Nat) : Keeps s0 (expireKey t p kind link) := by
  unfold expireKey
  try dsimp only
  with_reducible repeat' (first | exact h | assumption | rfl | apply collarQueue_keeps | apply markDying_keeps | apply reach_keeps | split | intro)

theorem runExpire_keeps {s0 t : State} (h : Keeps s0 t) (p : Nat) (kind : Nat) (link : Nat) : Keeps s0 (runExpire t p kind link) := by
  unfold runExpire
  try dsimp only
  with_reducible repeat' (first | exact h | assumption | rfl | apply collarQueue_keeps | apply wipeKeys_keeps | split | intro)

theorem runUnseal_keeps {s0 t : State} (h : Keeps s0 t) (id : Nat) (h' : DescHdr) (o : ModelOps) : Keeps s0 (runUnseal t id h' o) := by
  unfold runUnseal
  try dsimp only
  with_reducible repeat' (first | exact h | assumption | rfl | apply refuse_keeps | apply modUsage_keeps | apply countDram_keeps | apply dropResidentAt_keeps | apply writeMarked_keeps | apply finish_keeps | apply modPart_keeps | split | intro)

theorem runSeal_keeps {s0 t : State} (h : Keeps s0 t) (id : Nat) (h' : DescHdr) (o : ModelOps) : Keeps s0 (runSeal t id h' o) := by
  unfold runSeal
  try dsimp only
  with_reducible repeat' (first | exact h | assumption | rfl | apply refuse_keeps | apply modUsage_keeps | apply countDram_keeps | apply writeMarked_keeps | apply finish_keeps | apply modPart_keeps | split | intro)

theorem updateReason_zero {s : State} {n : Nat} {m : Message} {b : Bool} (h : updateReason s n m b = 0) : updateAdmitted s m = true := by
  unfold updateReason at h
  dsimp only at h
  by_contra hc
  simp only [Bool.not_eq_true] at hc
  simp only [hc] at h
  revert h
  repeat' split
  all_goals simp_all

theorem runUpdate_keeps {s0 t : State} (h : Keeps s0 t) : Keeps s0 (runUpdate t) := by
  unfold runUpdate
  dsimp only
  split
  · exact h.same rfl
  · rename_i hr
    simp only [ne_eq, not_not] at hr
    have ha := updateReason_zero hr
    split
    · rename_i hk
      have hp : t.otp.lifeCycle = .provisioned := by
        unfold updateAdmitted at ha
        rw [if_pos hk] at ha
        exact eq_of_beq ha
      refine h.withOtp rfl ⟨?_, ?_⟩
      · simp only [hp]; decide
      · refine ⟨Nat.le_refl _, Nat.le_refl _, Nat.le_succ _, fun a => a, fun a => a, ?_, ?_⟩ <;> exact BitVec.and_self
    · refine h.withOtp rfl ⟨Nat.le_refl _, Nat.le_refl _, Nat.le_refl _, Nat.le_succ _, fun a => a, fun a => a, ?_, ?_⟩
      · exact bits_kept _ _
      · exact BitVec.and_self

theorem runCollarDescriptor_keeps {s0 t : State} (h : Keeps s0 t) (id : Nat) : Keeps s0 (runCollarDescriptor t id) := by
  unfold runCollarDescriptor
  try dsimp only
  with_reducible repeat' (first | exact h | assumption | rfl | apply countStale_keeps | apply runAttest_keeps | apply runImport_keeps | apply runDestroy_keeps | apply runUnseal_keeps | apply runSeal_keeps | split | intro)

theorem startNop_keeps {s0 t : State} (h : Keeps s0 t) (id : Nat) : Keeps s0 (startNop t id) := by
  unfold startNop
  try dsimp only
  with_reducible repeat' (first | exact h | assumption | rfl | apply finish_keeps | split | intro)

theorem settleFences_keeps {s0 t : State} (h : Keeps s0 t) (p : Nat) : Keeps s0 (settleFences t p) := by
  unfold settleFences
  try dsimp only
  with_reducible repeat' (first | exact h | assumption | rfl | apply finish_keeps | apply waitIn_keeps | apply Keeps.foldPair | apply Keeps.fold | split | intro)

theorem startFence_keeps {s0 t : State} (h : Keeps s0 t) (id : Nat) (h' : DescHdr) (o : FenceOps) : Keeps s0 (startFence t id h' o) := by
  unfold startFence
  try dsimp only
  with_reducible repeat' (first | exact h | assumption | rfl | apply finish_keeps | apply waitIn_keeps | split | intro)

theorem startWaitFt_keeps {s0 t : State} (h : Keeps s0 t) (id : Nat) (o : WaitFtOps) : Keeps s0 (startWaitFt t id o) := by
  unfold startWaitFt
  try dsimp only
  with_reducible repeat' (first | exact h | assumption | rfl | apply finish_keeps | apply waitIn_keeps | split | intro)

theorem expireWaits_keeps {s0 t : State} (h : Keeps s0 t) (p : Nat) (r : Nat) : Keeps s0 (expireWaits t p r) := by
  unfold expireWaits
  try dsimp only
  with_reducible repeat' (first | exact h | assumption | rfl | apply reach_keeps | apply finish_keeps | apply Keeps.foldPair | apply Keeps.fold | split | intro)

theorem startHint_keeps {s0 t : State} (h : Keeps s0 t) (id : Nat) (h' : DescHdr) (o : HintOps) : Keeps s0 (startHint t id h' o) := by
  unfold startHint
  try dsimp only
  with_reducible repeat' (first | exact h | assumption | rfl | apply modPart_keeps | apply finish_keeps | split | intro)

theorem hintRampStart_keeps {s0 t : State} (h : Keeps s0 t) (p : Nat) : Keeps s0 (hintRampStart t p) := by
  unfold hintRampStart
  try dsimp only
  with_reducible repeat' (first | exact h | assumption | rfl | apply modPart_keeps | apply reach_keeps | split | intro)

theorem hintHoldEnd_keeps {s0 t : State} (h : Keeps s0 t) (p : Nat) : Keeps s0 (hintHoldEnd t p) := by
  unfold hintHoldEnd
  try dsimp only
  with_reducible repeat' (first | exact h | assumption | rfl | apply modPart_keeps | apply reach_keeps | split | intro)

theorem unpin_keeps {s0 t : State} (h : Keeps s0 t) (p : Nat) (dst : Nat) (len : Nat) : Keeps s0 (unpin t p dst len) := by
  unfold unpin
  try dsimp only
  with_reducible repeat' (first | exact h | assumption | rfl | apply modPart_keeps | split | intro)

theorem moveWrite_keeps {s0 t : State} (h : Keeps s0 t) (p : Nat) (o : MoveOps) (bs : Bytes) (marks : Bool × Bool) : Keeps s0 (moveWrite t p o bs marks) := by
  unfold moveWrite
  try dsimp only
  with_reducible repeat' (first | exact h | assumption | rfl | apply dropResidentAt_keeps | apply writeMarked_keeps | split | intro)

theorem startCopy_keeps {s0 t : State} (h : Keeps s0 t) (id : Nat) (h' : DescHdr) (o : MoveOps) : Keeps s0 (startCopy t id h' o) := by
  unfold startCopy
  try dsimp only
  with_reducible repeat' (first | exact h | assumption | rfl | apply unpin_keeps | apply countDram_keeps | apply refuse_keeps | apply moveWrite_keeps | apply modPart_keeps | apply finish_keeps | split | intro)

theorem startFill_keeps {s0 t : State} (h : Keeps s0 t) (id : Nat) (h' : DescHdr) (o : MoveOps) : Keeps s0 (startFill t id h' o) := by
  unfold startFill
  try dsimp only
  with_reducible repeat' (first | exact h | assumption | rfl | apply finish_keeps | apply moveWrite_keeps | apply unpin_keeps | split | intro)

theorem runBody_keeps {s0 t : State} (h : Keeps s0 t) (id : Nat) (h' : DescHdr) (x1 : DescBody) : Keeps s0 (runBody t id h' x1) := by
  unfold runBody
  try dsimp only
  with_reducible repeat' (first | exact h | assumption | rfl | apply startNop_keeps | apply startFence_keeps | apply startWaitFt_keeps | apply startHint_keeps | apply startCopy_keeps | apply startFill_keeps | apply startWindowOpen_keeps | apply startWindowClose_keeps | apply startIngest_keeps | apply startAccumulate_keeps | apply startDrain_keeps | apply startStats_keeps | apply startRank_keeps | apply startZipSend_keeps | apply startZipRecv_keeps | apply startMaskExpand_keeps | apply startShareRecon_keeps | apply startSeedGraph_keeps | apply startSeedDerive_keeps | apply startNtt_keeps | apply startIntt_keeps | apply startPmul_keeps | apply startBaseconv_keeps | apply startCtFold_keeps | apply startCtPair_keeps | apply startSwitch_keeps | apply startRescale_keeps | apply startPartial_keeps | apply startKemSealed_keeps | apply startKemBundle_keeps | apply startSealedOpen_keeps | apply startClip_keeps | apply startNoise_keeps | apply startRelease_keeps | apply startRmaWrite_keeps | apply startRmaRead_keeps | apply startRmaAdd_keeps | apply startCollar_keeps | apply startDestroy_keeps | apply refuse_keeps | split | intro)

theorem startBody_keeps {s0 t : State} (h : Keeps s0 t) (id : Nat) (h' : DescHdr) (b : DescBody) : Keeps s0 (startBody t id h' b) := by
  unfold startBody
  try dsimp only
  with_reducible repeat' (first | exact h | assumption | rfl | apply waitIn_keeps | apply runBody_keeps | split | intro)

theorem holdHead_keeps {s0 t : State} (h : Keeps s0 t) (h' : DescHdr) (b : DescBody) (waited : Bool) (names : List (Nat × Nat)) : Keeps s0 (holdHead t h' b waited names) := by
  unfold holdHead
  try dsimp only
  with_reducible repeat' (first | exact h | assumption | rfl | apply modSq_keeps | split | intro)

theorem logForeign_keeps {s0 t : State} (h : Keeps s0 t) (h' : DescHdr) (b : DescBody) (st : Status) : Keeps s0 (logForeign t h' b st) := by
  unfold logForeign
  try dsimp only
  with_reducible repeat' (first | exact h | assumption | rfl | apply logFault_keeps | split | intro)

theorem settlePasses_keeps {s0 t : State} (h : Keeps s0 t) (id : Nat) : Keeps s0 (settlePasses t id) := by
  unfold settlePasses
  try dsimp only
  with_reducible repeat' (first | exact h | assumption | rfl | apply runPassed_keeps | apply finishRef_keeps | apply writeHeaders_keeps | apply settleZipRecv_keeps | split | intro)

theorem runPiece_keeps {s0 t : State} (h : Keeps s0 t) (id : Nat) (h' : DescHdr) (b : DescBody) (i : Nat) : Keeps s0 (runPiece t id h' b i) := by
  unfold runPiece
  try dsimp only
  with_reducible repeat' (first | exact h | assumption | rfl | apply startStatsAt_keeps | apply runBody_keeps | split | intro)

theorem addPiece_keeps {s0 t : State} (h : Keeps s0 t) (u : State) (f g : InFlight) (i : Nat) : Keeps s0 (addPiece t u f g i) := by
  unfold addPiece
  dsimp only
  have h1 : Keeps s0 { t with parts := u.parts, dbg := u.dbg, freeCtr := u.freeCtr } := h.same rfl
  exact Keeps.fold (fun _ l hu => beginNext_keeps hu l) _ (modFlight_keeps h1 _ (fun _ => rfl))

theorem takePiece_keeps {s0 t : State} (h : Keeps s0 t) (id : Nat) (i : Nat) : Keeps s0 (takePiece id t i) := by
  unfold takePiece
  try dsimp only
  with_reducible repeat' (first | exact h | assumption | rfl | apply startBody_keeps | apply waitIn_keeps | apply runPiece_keeps | apply modFlight_keeps | apply addPiece_keeps | split | intro)

theorem endChain_keeps {s0 t : State} (h : Keeps s0 t) (id : Nat) (p : Nat) : Keeps s0 (endChain t id p) := by
  unfold endChain
  try dsimp only
  with_reducible repeat' (first | exact h | assumption | rfl | apply beginNext_keeps | apply settlePasses_keeps | apply waitIn_keeps | apply Keeps.foldPair | apply Keeps.fold | split | intro)

theorem takePieces_keeps {s0 t : State} (h : Keeps s0 t) (id : Nat) : Keeps s0 (takePieces t id) := by
  unfold takePieces
  try dsimp only
  with_reducible repeat' (first | exact h | assumption | rfl | apply takePiece_keeps | apply endChain_keeps | apply Keeps.foldPair | apply Keeps.fold | split | intro)

theorem dispatchDesc_keeps {s0 t : State} (h : Keeps s0 t) (h' : DescHdr) (b : DescBody) : Keeps s0 (dispatchDesc h' b t) := by
  unfold dispatchDesc
  try dsimp only
  with_reducible repeat' (first | exact h | assumption | rfl | apply holdHead_keeps | apply countEvent_keeps | apply logForeign_keeps | apply finishRef_keeps | apply enter_keeps | apply takePieces_keeps | apply waitIn_keeps | apply startBody_keeps | split | intro)

theorem resumeNumbers_keeps {s0 t : State} (h : Keeps s0 t) (f : InFlight) : Keeps s0 (resumeNumbers t f) := by
  unfold resumeNumbers
  try dsimp only
  with_reducible repeat' (first | exact h | assumption | rfl | apply accWindow_keeps | apply startStats_keeps | apply foldReady_keeps | apply decapReady_keeps | apply bundlesReady_keeps | apply openReady_keeps | apply clipReady_keeps | split | intro)

theorem resumeOne_keeps {s0 t : State} (h : Keeps s0 t) (f : InFlight) : Keeps s0 (resumeOne t f) := by
  unfold resumeOne
  try dsimp only
  with_reducible repeat' (first | exact h | assumption | rfl | apply resumeNumbers_keeps | apply startBody_keeps | apply resumeNoise_keeps | apply takePieces_keeps | apply runPassed_keeps | split | intro)

theorem resumeAll_keeps {s0 t : State} (h : Keeps s0 t) (p : Nat) : Keeps s0 (resumeAll t p) := by
  unfold resumeAll
  try dsimp only
  with_reducible repeat' (first | exact h | assumption | rfl | apply resumeOne_keeps | apply Keeps.foldPair | apply Keeps.fold | split | intro)

theorem resumeOpens_keeps {s0 t : State} (h : Keeps s0 t) (p : Nat) : Keeps s0 (resumeOpens t p) := by
  unfold resumeOpens
  try dsimp only
  with_reducible repeat' (first | exact h | assumption | rfl | apply startWindowOpen_keeps | apply Keeps.foldPair | apply Keeps.fold | split | intro)

theorem modSource_keeps {s0 t : State} (h : Keeps s0 t) (v : Nat) (f : Source → Source) : Keeps s0 (modSource t v f) := by
  unfold modSource
  try dsimp only
  with_reducible repeat' (first | exact h | assumption | rfl | split | (refine Keeps.same ?_ rfl; first | exact h | assumption | split) | intro)

theorem poolTo_keeps {s0 t : State} (h : Keeps s0 t) (m : PoolMode) : Keeps s0 (poolTo t m) := by
  unfold poolTo
  try dsimp only
  with_reducible repeat' (first | exact h | assumption | rfl | apply raiseIrq_keeps | apply setStatusBits_keeps | split | (refine Keeps.same ?_ rfl; first | exact h | assumption | apply raiseIrq_keeps | apply setStatusBits_keeps | split) | intro)

theorem settleWords_keeps {s0 t : State} (h : Keeps s0 t) : Keeps s0 (settleWords t) := by
  unfold settleWords
  try dsimp only
  with_reducible repeat' (first | exact h | assumption | rfl | split | (refine Keeps.same ?_ rfl; first | exact h | assumption | split) | intro)

theorem setDrbg_keeps {s0 t : State} (h : Keeps s0 t) (i : Nat) (d : Drbg) : Keeps s0 (setDrbg t i d) := by
  unfold setDrbg
  try dsimp only
  with_reducible repeat' (first | exact h | assumption | rfl | split | (refine Keeps.same ?_ rfl; first | exact h | assumption | split) | intro)

theorem stopInstances_keeps {s0 t : State} (h : Keeps s0 t) : Keeps s0 (stopInstances t) := by
  unfold stopInstances
  try dsimp only
  with_reducible repeat' (first | exact h | assumption | rfl | apply settleWords_keeps | split | (refine Keeps.same ?_ rfl; first | exact h | assumption | apply settleWords_keeps | split) | intro)

theorem startInstances_keeps {s0 t : State} (h : Keeps s0 t) : Keeps s0 (startInstances t) := by
  unfold startInstances
  try dsimp only
  with_reducible repeat' (first | exact h | assumption | rfl | apply settleWords_keeps | split | (refine Keeps.same ?_ rfl; first | exact h | assumption | apply settleWords_keeps | split) | intro)

theorem drawRoot_keeps {s0 t : State} (h : Keeps s0 t) (hb : t.otp.lifeCycle = .blank) (checkOk : Bool) :
    Keeps s0 (drawRoot t checkOk) := by
  unfold drawRoot
  dsimp only
  apply spendFree_keeps
  split
  · refine h.withOtp rfl ⟨?_, ?_⟩
    · simp only [hb]; decide
    · refine ⟨Nat.le_refl _, Nat.le_refl _, Nat.le_refl _, fun a => a, fun _ => rfl, ?_, ?_⟩ <;> exact BitVec.and_self
  · refine h.withOtp rfl ⟨Nat.le_refl _, Nat.le_refl _, Nat.le_refl _, Nat.le_refl _, fun a => a, fun a => a, ?_, ?_⟩ <;>
      exact BitVec.and_self

theorem finishProvision_keeps {s0 t : State} (h : Keeps s0 t) : Keeps s0 (finishProvision t) := by
  unfold finishProvision
  split
  · split
    · rename_i hb
      exact drawRoot_keeps h hb.2 _
    · exact h
  · exact h

theorem restartEntropy_keeps {s0 t : State} (h : Keeps s0 t) : Keeps s0 (restartEntropy t) := by
  unfold restartEntropy
  try dsimp only
  with_reducible repeat' (first | exact h | assumption | rfl | apply stopInstances_keeps | split | (refine Keeps.same ?_ rfl; first | exact h | assumption | apply stopInstances_keeps | split) | intro)

theorem endPattern_keeps {s0 t : State} (h : Keeps s0 t) : Keeps s0 (endPattern t) := by
  unfold endPattern
  try dsimp only
  with_reducible repeat' (first | exact h | assumption | rfl | apply poolTo_keeps | apply restartEntropy_keeps | split | intro)

theorem resumeNoises_keeps {s0 t : State} (h : Keeps s0 t) : Keeps s0 (resumeNoises t) := by
  unfold resumeNoises
  try dsimp only
  with_reducible repeat' (first | exact h | assumption | rfl | apply resumeAll_keeps | apply Keeps.foldPair | apply Keeps.fold | split | intro)

theorem poolAdvance_keeps {s0 t : State} (h : Keeps s0 t) : Keeps s0 (poolAdvance t) := by
  unfold poolAdvance
  try dsimp only
  with_reducible repeat' (first | exact h | assumption | rfl | apply finishProvision_keeps | apply resumeNoises_keeps | apply startInstances_keeps | apply poolTo_keeps | split | intro)

theorem sourceBlock_keeps {s0 t : State} (h : Keeps s0 t) (v : Nat) (raw : Bytes) : Keeps s0 (sourceBlock t v raw) := by
  unfold sourceBlock
  try dsimp only
  with_reducible repeat' (first | exact h | assumption | rfl | apply modSource_keeps | split | intro)

theorem stallPool_keeps {s0 t : State} (h : Keeps s0 t) (v : Nat) : Keeps s0 (stallPool t v) := by
  unfold stallPool
  try dsimp only
  with_reducible repeat' (first | exact h | assumption | rfl | apply logFault_keeps | apply poolTo_keeps | apply stopInstances_keeps | split | intro)

theorem sourceFails_keeps {s0 t : State} (h : Keeps s0 t) (v : Nat) (test : Nat) : Keeps s0 (sourceFails t v test) := by
  unfold sourceFails
  try dsimp only
  with_reducible repeat' (first | exact h | assumption | rfl | apply modSource_keeps | apply logFault_keeps | apply poolAdvance_keeps | apply stallPool_keeps | split | intro)

theorem retrySource_keeps {s0 t : State} (h : Keeps s0 t) (v : Nat) : Keeps s0 (retrySource t v) := by
  unfold retrySource
  try dsimp only
  with_reducible repeat' (first | exact h | assumption | rfl | apply modSource_keeps | apply reach_keeps | split | intro)

theorem sourceWarm_keeps {s0 t : State} (h : Keeps s0 t) (v : Nat) : Keeps s0 (sourceWarm t v) := by
  unfold sourceWarm
  try dsimp only
  with_reducible repeat' (first | exact h | assumption | rfl | apply modSource_keeps | apply finishProvision_keeps | apply poolTo_keeps | apply poolAdvance_keeps | split | (refine Keeps.same ?_ rfl; first | exact h | assumption | apply modSource_keeps | apply finishProvision_keeps | apply poolTo_keeps | apply poolAdvance_keeps | split) | intro)

theorem poolBlock_keeps {s0 t : State} (h : Keeps s0 t) : Keeps s0 (poolBlock t) := by
  unfold poolBlock
  try dsimp only
  with_reducible repeat' (first | exact h | assumption | rfl | apply modSource_keeps | apply Keeps.foldPair | apply Keeps.fold | split | (refine Keeps.same ?_ rfl; first | exact h | assumption | apply modSource_keeps | apply Keeps.foldPair | apply Keeps.fold | split) | intro)

theorem reseed_keeps {s0 t : State} (h : Keeps s0 t) : Keeps s0 (reseed t) := by
  unfold reseed
  try dsimp only
  with_reducible repeat' (first | exact h | assumption | rfl | apply settleWords_keeps | apply setDrbg_keeps | apply spendFree_keeps | apply poolAdvance_keeps | apply resumeNoises_keeps | split | (refine Keeps.same ?_ rfl; first | exact h | assumption | apply settleWords_keeps | apply setDrbg_keeps | apply spendFree_keeps | apply poolAdvance_keeps | apply resumeNoises_keeps | split) | intro)

theorem readWord_keeps {s0 t : State} (h : Keeps s0 t) : Keeps s0 (readWord t) := by
  unfold readWord
  try dsimp only
  with_reducible repeat' (first | exact h | assumption | rfl | apply settleWords_keeps | apply spendFree_keeps | apply emit_keeps | apply setStatusBits_keeps | split | (refine Keeps.same ?_ rfl; first | exact h | assumption | apply settleWords_keeps | apply spendFree_keeps | apply emit_keeps | apply setStatusBits_keeps | split) | intro)

theorem writePattern_keeps {s0 t : State} (h : Keeps s0 t) (v : Nat) : Keeps s0 (writePattern t v) := by
  unfold writePattern
  try dsimp only
  with_reducible repeat' (first | exact h | assumption | rfl | apply setReg_keeps | apply endPattern_keeps | apply poolTo_keeps | apply restartEntropy_keeps | split | intro)

end Sys2Proof.Machine
end

