-- ==== Sys2Proof/Laws/KeepsLink.lean ====
section
/-! SUPPORT. What the operations of these files keep: Clock, EntropyRows, Completion, Metering, Order, FabricRows, Link, Fetch. -/

namespace Sys2Proof.Machine

set_option Elab.async false

theorem setTimeMode_keeps {s0 t : State} (h : Keeps s0 t) (m : TimeMode) : Keeps s0 (setTimeMode t m) := by
  unfold setTimeMode
  try dsimp only
  with_reducible repeat' (first | exact h | assumption | rfl | apply raiseIrq_keeps | split | (refine Keeps.same ?_ rfl; first | exact h | assumption | apply raiseIrq_keeps | split) | intro)

/-- Timers that move with the counter leave what the bounds speak of. -/
theorem shiftTimers_keeps {s0 t : State} (h : Keeps s0 t) (d : Int) : Keeps s0 (shiftTimers t d) := by
  unfold shiftTimers
  have h1 : Keeps s0 { t with inflight := t.inflight.map (shiftFlight d) } := by
    apply h.flights
    rw [List.map_map]
    exact List.Sublist.refl _
  exact h1.same rfl

theorem stepCounter_keeps {s0 t : State} (h : Keeps s0 t) (d : Int) : Keeps s0 (stepCounter t d) := by
  unfold stepCounter
  exact (shiftTimers_keeps h d).same rfl (fun hc => ⟨Nat.zero_lt_succ _, Nat.zero_lt_succ _, hc.2.2⟩)

theorem learned_bounded (n : Nat) : (((n % 257 : Nat) : Int) - 128).natAbs ≤ 128 := by omega

theorem slewBy_keeps {s0 t : State} (h : Keeps s0 t) (d : Int) : Keeps s0 (slewBy t d) := by
  unfold slewBy
  apply spendFree_keeps
  exact h.same rfl (fun hc => ⟨hc.1, Nat.zero_lt_succ _, learned_bounded _⟩)

theorem useEstimate_keeps {s0 t : State} (h : Keeps s0 t) (source port hops : Nat) (err : Int) :
    Keeps s0 (useEstimate t source port hops err) := by
  unfold useEstimate
  dsimp only
  have h1 : Keeps s0 (if t.time.mode = .unset then stepCounter t (-err) else slewBy t (-err)) :=
    Keeps.ite (stepCounter_keeps h _) (slewBy_keeps h _)
  generalize (if t.time.mode = .unset then stepCounter t (-err) else slewBy t (-err)) = u at h1 ⊢
  refine Keeps.same ?_ rfl
  split
  · exact Keeps.ite (setTimeMode_keeps (h1.same rfl) _) (h1.same rfl)
  · exact h1.same rfl
  · exact setTimeMode_keeps (h1.same rfl) _

theorem loseSource_keeps {s0 t : State} (h : Keeps s0 t) (m : TimeMode) : Keeps s0 (loseSource t m) := by
  unfold loseSource
  exact (setTimeMode_keeps h m).same rfl (fun hc => ⟨hc.1, Nat.zero_lt_succ _, hc.2.2⟩)

theorem rejectEdge_keeps {s0 t : State} (h : Keeps s0 t) : Keeps s0 (rejectEdge t) := by
  unfold rejectEdge
  try dsimp only
  with_reducible repeat' (first | exact h | assumption | rfl | split | (refine Keeps.same ?_ rfl; first | exact h | assumption | split) | intro)

theorem ppsLost_keeps {s0 t : State} (h : Keeps s0 t) : Keeps s0 (ppsLost t) := by
  unfold ppsLost
  try dsimp only
  with_reducible repeat' (first | exact h | assumption | rfl | apply loseSource_keeps | apply reach_keeps | split | intro)

theorem ppsEdge_keeps {s0 t : State} (h : Keeps s0 t) (dt : Nat) (frac : Nat) : Keeps s0 (ppsEdge t dt frac) := by
  unfold ppsEdge
  try dsimp only
  with_reducible repeat' (first | exact h | assumption | rfl | apply elapseTo_keeps | apply ppsLost_keeps | apply rejectEdge_keeps | apply useEstimate_keeps | split | (refine Keeps.same ?_ rfl; first | exact h | assumption | apply elapseTo_keeps | apply ppsLost_keeps | apply rejectEdge_keeps | apply useEstimate_keeps | split) | intro)

theorem writeTod_keeps {s0 t : State} (h : Keeps s0 t) (v : Nat) : Keeps s0 (writeTod t v) := by
  unfold writeTod
  try dsimp only
  with_reducible repeat' (first | exact h | assumption | rfl | apply setReg_keeps | split | (refine Keeps.same ?_ rfl; first | exact h | assumption | apply setReg_keeps | split) | intro)

theorem writeSource_keeps {s0 t : State} (h : Keeps s0 t) (v : Nat) : Keeps s0 (writeSource t v) := by
  unfold writeSource
  try dsimp only
  with_reducible repeat' (first | exact h | assumption | rfl | apply setReg_keeps | split | (refine Keeps.same ?_ rfl; first | exact h | assumption | apply setReg_keeps | split) | intro)

theorem snapTime_keeps {s0 t : State} (h : Keeps s0 t) (frac : Nat) : Keeps s0 (snapTime t frac) := by
  unfold snapTime
  try dsimp only
  with_reducible repeat' (first | exact h | assumption | rfl | split | (refine Keeps.same ?_ rfl; first | exact h | assumption | split) | intro)

theorem modNeighbour_keeps {s0 t : State} (h : Keeps s0 t) (i : Nat) (f : Neighbour → Neighbour) : Keeps s0 (modNeighbour t i f) := by
  unfold modNeighbour
  try dsimp only
  with_reducible repeat' (first | exact h | assumption | rfl | split | (refine Keeps.same ?_ rfl; first | exact h | assumption | split) | intro)

theorem shawlTimeLost_keeps {s0 t : State} (h : Keeps s0 t) : Keeps s0 (shawlTimeLost t) := by
  have hk : ∀ u, Keeps s0 u → Keeps s0
      (match bestPort u ((List.range 6).filter (fun i => i != t.time.port)) with
      | some j => { u with time := { u.time with port := j, hops := (neighbour u j).hops + 1 } }
      | none => loseSource u .holdover) := by
    intro u hu
    split
    · exact hu.same rfl
    · exact loseSource_keeps hu .holdover
  unfold shawlTimeLost
  split
  · exact hk _ (reach_keeps h _)
  · exact h

theorem beforeExchange_keeps {s0 t : State} (h : Keeps s0 t) : Keeps s0 (beforeExchange t) := by
  unfold beforeExchange
  try dsimp only
  with_reducible repeat' (first | exact h | assumption | rfl | apply shawlTimeLost_keeps | split | intro)

theorem timeArrives_keeps {s0 t : State} (h : Keeps s0 t) (i : Nat) (m : TimeMsg) : Keeps s0 (timeArrives t i m) := by
  unfold timeArrives
  try dsimp only
  with_reducible repeat' (first | exact h | assumption | rfl | apply beforeExchange_keeps | apply modNeighbour_keeps | apply modPort_keeps | apply useEstimate_keeps | split | intro)

theorem timeTimer_keeps {s0 t : State} (h : Keeps s0 t) (i : Nat) (frac : Nat) : Keeps s0 (timeTimer t i frac) := by
  unfold timeTimer
  try dsimp only
  with_reducible repeat' (first | exact h | assumption | rfl | apply modPort_keeps | split | (refine Keeps.same ?_ rfl; first | exact h | assumption | apply modPort_keeps | split) | intro)

theorem holdoverEnds_keeps {s0 t : State} (h : Keeps s0 t) : Keeps s0 (holdoverEnds t) := by
  unfold holdoverEnds
  try dsimp only
  with_reducible repeat' (first | exact h | assumption | rfl | apply spendFree_keeps | apply logFault_keeps | apply loseSource_keeps | split | intro)

theorem tick_keeps {s0 t : State} (h : Keeps s0 t) : Keeps s0 (tick t) := by
  unfold tick
  try dsimp only
  with_reducible repeat' (first | exact h | assumption | rfl | apply elapse_keeps | split | intro)

theorem stallExpires_keeps {s0 t : State} (h : Keeps s0 t) (p : Nat) : Keeps s0 (stallExpires t p) := by
  unfold stallExpires
  try dsimp only
  with_reducible repeat' (first | exact h | assumption | rfl | apply entropyExpired_keeps | apply reach_keeps | split | intro)

theorem countPass_keeps {s0 t : State} (h : Keeps s0 t) (p : Nat) (j : TileJob) (l : Nat) : Keeps s0 (countPass p j t l) := by
  unfold countPass
  try dsimp only
  with_reducible repeat' (first | exact h | assumption | rfl | apply modUsage_keeps | apply countEvent_keeps | apply spendFree_keeps | apply Keeps.foldPair | apply Keeps.fold | split | intro)

theorem correctCuff_keeps {s0 t : State} (h : Keeps s0 t) (l : Nat) (corrected : Nat) : Keeps s0 (correctCuff t l corrected) := by
  unfold correctCuff
  try dsimp only
  with_reducible repeat' (first | exact h | assumption | rfl | apply logFault_keeps | apply modSlot_keeps | apply Keeps.foldPair | apply Keeps.fold | split | intro)

theorem endPass_keeps {s0 t : State} (h : Keeps s0 t) (f : InFlight) (j : TileJob) : Keeps s0 (endPass t f j) := by
  unfold endPass
  try dsimp only
  with_reducible repeat' (first | exact h | assumption | rfl | apply countPass_keeps | apply modPass_keeps | apply modFlight_keeps | apply beginNext_keeps | apply Keeps.foldPair | apply Keeps.fold | split | intro)

theorem rerunPass_keeps {s0 t : State} (h : Keeps s0 t) (f : InFlight) (j : TileJob) : Keeps s0 (rerunPass t f j) := by
  unfold rerunPass
  try dsimp only
  with_reducible repeat' (first | exact h | assumption | rfl | apply countPass_keeps | apply modPass_keeps | apply modFlight_keeps | apply logFault_keeps | apply spendFree_keeps | apply Keeps.foldPair | apply Keeps.fold | split | intro)

theorem consumeOne_keeps {s0 t : State} (h : Keeps s0 t) (p : Nat) (round : Nat) (coordinate : Nat) (n : Nat) : Keeps s0 (consumeOne p round coordinate t n) := by
  unfold consumeOne
  try dsimp only
  with_reducible repeat' (first | exact h | assumption | rfl | apply modSub_keeps | apply freeSlot_keeps | split | intro)

theorem dropTarget_keeps {s0 t : State} (h : Keeps s0 t) (p : Nat) (t' : Nat × Bytes × Option TileMeta) : Keeps s0 (dropTarget p t t') := by
  unfold dropTarget
  try dsimp only
  with_reducible repeat' (first | exact h | assumption | rfl | apply dropResidentAt_keeps | split | intro)

theorem residentAfter_keeps {s0 t : State} (h : Keeps s0 t) (p : Nat) (j : TileJob) : Keeps s0 (residentAfter t p j) := by
  unfold residentAfter
  try dsimp only
  with_reducible repeat' (first | exact h | assumption | rfl | apply dropTarget_keeps | apply keepResident_keeps | apply Keeps.foldPair | apply Keeps.fold | split | intro)

theorem afterCommit_keeps {s0 t : State} (h : Keeps s0 t) (f : InFlight) (j : TileJob) : Keeps s0 (afterCommit t f j) := by
  unfold afterCommit
  try dsimp only
  with_reducible repeat' (first | exact h | assumption | rfl | apply clipSummed_keeps | apply clipCommitted_keeps | apply consumeOne_keeps | apply modFlight_keeps | apply commitMask_keeps | apply zipCommitted_keeps | apply Keeps.foldPair | apply Keeps.fold | split | intro)

theorem commitTile_keeps {s0 t : State} (h : Keeps s0 t) (l : Nat) : Keeps s0 (commitTile t l) := by
  unfold commitTile
  try dsimp only
  with_reducible repeat' (first | exact h | assumption | rfl | apply residentAfter_keeps | apply writeJob_keeps | apply modFlight_keeps | apply settlePasses_keeps | apply afterCommit_keeps | apply resumeLanding_keeps | apply retryLandings_keeps | apply resumeAll_keeps | split | intro)

theorem traceRecord_keeps {s0 t : State} (h : Keeps s0 t) (f : InFlight) (r : Record) : Keeps s0 (traceRecord t f r) := by
  unfold traceRecord
  try dsimp only
  with_reducible repeat' (first | exact h | assumption | rfl | apply emit_keeps | split | (refine Keeps.same ?_ rfl; first | exact h | assumption | apply emit_keeps | split) | intro)

theorem completeFlight_keeps {s0 t : State} (h : Keeps s0 t) (f : InFlight) (d : Done) : Keeps s0 (completeFlight t f d) := by
  unfold completeFlight
  dsimp only
  apply traceRecord_keeps
  apply countEvent_keeps
  have h1 : Keeps s0 { t with inflight := t.inflight.filter (fun g => g.id != f.id) } :=
    h.flights (List.Sublist.map _ List.filter_sublist)
  exact Keeps.ite h1 (postRecord_keeps h1 _ _ _)

theorem completeNext_keeps {s0 t : State} (h : Keeps s0 t) (p : Nat) : Keeps s0 (completeNext t p) := by
  unfold completeNext
  try dsimp only
  with_reducible repeat' (first | exact h | assumption | rfl | apply retryLandings_keeps | apply resumeOpens_keeps | apply resumeAll_keeps | apply settleFences_keeps | apply completeFlight_keeps | split | intro)

theorem chargeEngine_keeps {s0 t : State} (h : Keeps s0 t) (l : Nat) : Keeps s0 (chargeEngine t l) := by
  unfold chargeEngine
  try dsimp only
  with_reducible repeat' (first | exact h | assumption | rfl | apply modPass_keeps | apply modUsage_keeps | split | intro)

theorem chargePasses_keeps {s0 t : State} (h : Keeps s0 t) (p : Nat) : Keeps s0 (chargePasses t p) := by
  unfold chargePasses
  try dsimp only
  with_reducible repeat' (first | exact h | assumption | rfl | apply chargeEngine_keeps | apply Keeps.foldPair | apply Keeps.fold | split | intro)

theorem startMeter_keeps {s0 t : State} (h : Keeps s0 t) (p : Nat) : Keeps s0 (startMeter t p) := by
  unfold startMeter
  try dsimp only
  with_reducible repeat' (first | exact h | assumption | rfl | apply modPart_keeps | split | intro)

theorem queueUsage_keeps {s0 t : State} (h : Keeps s0 t) (p : Nat) (ftEnd : Nat) (inside : Bool) (last : Bool) : Keeps s0 (queueUsage t p ftEnd inside last) := by
  unfold queueUsage
  try dsimp only
  with_reducible repeat' (first | exact h | assumption | rfl | apply collarQueue_keeps | split | intro)

theorem closeMinute_keeps {s0 t : State} (h : Keeps s0 t) (p : Nat) (ftEnd : Nat) : Keeps s0 (closeMinute t p ftEnd) := by
  unfold closeMinute
  try dsimp only
  with_reducible repeat' (first | exact h | assumption | rfl | apply queueUsage_keeps | apply chargePasses_keeps | apply modPart_keeps | split | intro)

theorem minuteEnd_keeps {s0 t : State} (h : Keeps s0 t) (m : Nat) : Keeps s0 (minuteEnd t m) := by
  unfold minuteEnd
  try dsimp only
  with_reducible repeat' (first | exact h | assumption | rfl | apply closeMinute_keeps | apply Keeps.foldPair | apply Keeps.fold | split | (refine Keeps.same ?_ rfl; first | exact h | assumption | apply closeMinute_keeps | apply Keeps.foldPair | apply Keeps.fold | split) | intro)

theorem msSample_keeps {s0 t : State} (h : Keeps s0 t) : Keeps s0 (msSample t) := by
  unfold msSample
  try dsimp only
  with_reducible repeat' (first | exact h | assumption | rfl | apply reach_keeps | apply modUsage_keeps | apply Keeps.foldPair | apply Keeps.fold | split | (refine Keeps.same ?_ rfl; first | exact h | assumption | apply reach_keeps | apply modUsage_keeps | apply Keeps.foldPair | apply Keeps.fold | split) | intro)

theorem drainMeter_keeps {s0 : State} (n : Nat) : ∀ {t : State}, Keeps s0 t → Keeps s0 (drainMeter t n) := by
  induction n with
  | zero => intro t h; exact h
  | succ n ih =>
    intro t h
    unfold drainMeter
    dsimp only
    split
    · exact h
    · split
      · exact ih ((emit_keeps h _).same rfl)
      · exact h

theorem modChain_keeps {s0 t : State} (h : Keeps s0 t) (p : Nat) (f : RecordChain → RecordChain) : Keeps s0 (modChain t p f) := by
  unfold modChain
  try dsimp only
  with_reducible repeat' (first | exact h | assumption | rfl | split | (refine Keeps.same ?_ rfl; first | exact h | assumption | split) | intro)

theorem trimHeld_keeps {s0 t : State} (h : Keeps s0 t) : Keeps s0 (trimHeld t) := by
  unfold trimHeld
  try dsimp only
  with_reducible repeat' (first | exact h | assumption | rfl | apply modChain_keeps | split | (refine Keeps.same ?_ rfl; first | exact h | assumption | apply modChain_keeps | split) | intro)

theorem signUsage_keeps {s0 t : State} (h : Keeps s0 t) (p : Nat) (inst : Nat) (body : Bytes) (last : Bool) : Keeps s0 (signUsage t p inst body last) := by
  unfold signUsage
  try dsimp only
  with_reducible repeat' (first | exact h | assumption | rfl | apply spendFree_keeps | apply trimHeld_keeps | apply drainMeter_keeps | split | (refine Keeps.same ?_ rfl; first | exact h | assumption | apply spendFree_keeps | apply trimHeld_keeps | apply drainMeter_keeps | split) | intro)

theorem settleCloses_keeps {s0 t : State} (h : Keeps s0 t) (t' : Nat) : Keeps s0 (settleCloses t t') := by
  unfold settleCloses
  try dsimp only
  with_reducible repeat' (first | exact h | assumption | rfl | apply reachClose_keeps | apply Keeps.foldPair | apply Keeps.fold | split | intro)

theorem settleDeadlines_keeps {s0 t : State} (h : Keeps s0 t) (t' : Nat) : Keeps s0 (settleDeadlines t t') := by
  unfold settleDeadlines
  try dsimp only
  with_reducible repeat' (first | exact h | assumption | rfl | apply expireAt_keeps | apply Keeps.foldPair | apply Keeps.fold | split | intro)

theorem settleKeys_keeps {s0 t : State} (h : Keeps s0 t) (t' : Nat) : Keeps s0 (settleKeys t t') := by
  unfold settleKeys
  try dsimp only
  with_reducible repeat' (first | exact h | assumption | rfl | apply expireKey_keeps | apply Keeps.foldPair | apply Keeps.fold | split | intro)

theorem settleMinute_keeps {s0 t : State} (h : Keeps s0 t) (t' : Nat) : Keeps s0 (settleMinute t t') := by
  unfold settleMinute
  try dsimp only
  with_reducible repeat' (first | exact h | assumption | rfl | apply minuteEnd_keeps | split | intro)

theorem settleTies_keeps {s0 t : State} (h : Keeps s0 t) (t' : Nat) (rank : Nat) : Keeps s0 (settleTies t t' rank) := by
  unfold settleTies
  try dsimp only
  with_reducible repeat' (first | exact h | assumption | rfl | apply reach_keeps | apply settleCloses_keeps | apply settleDeadlines_keeps | apply settleKeys_keeps | apply settleMinute_keeps | split | intro)

theorem openInstant_keeps {s0 t : State} (h : Keeps s0 t) (p : Nat) (k : WinKind) : Keeps s0 (openInstant t p k) := by
  unfold openInstant
  try dsimp only
  with_reducible repeat' (first | exact h | assumption | rfl | apply reachOpen_keeps | apply settleTies_keeps | split | intro)

theorem deadlineInstant_keeps {s0 t : State} (h : Keeps s0 t) (p : Nat) : Keeps s0 (deadlineInstant t p) := by
  unfold deadlineInstant
  try dsimp only
  with_reducible repeat' (first | exact h | assumption | rfl | apply expireZippers_keeps | apply settleTies_keeps | split | intro)

theorem keyInstant_keeps {s0 t : State} (h : Keeps s0 t) (p : Nat) (kind : Nat) (link : Nat) : Keeps s0 (keyInstant t p kind link) := by
  unfold keyInstant
  try dsimp only
  with_reducible repeat' (first | exact h | assumption | rfl | apply expireKey_keeps | apply settleTies_keeps | split | intro)

theorem minuteInstant_keeps {s0 t : State} (h : Keeps s0 t) : Keeps s0 (minuteInstant t) := by
  unfold minuteInstant
  try dsimp only
  with_reducible repeat' (first | exact h | assumption | rfl | apply minuteEnd_keeps | apply settleTies_keeps | split | intro)

theorem packetUsed_keeps {s0 t : State} (h : Keeps s0 t) (k : Packet) : Keeps s0 (packetUsed t k) := by
  unfold packetUsed
  try dsimp only
  with_reducible repeat' (first | exact h | assumption | rfl | apply retryLandings_keeps | apply resumeAll_keeps | split | intro)

theorem takePacket_keeps {s0 t : State} (h : Keeps s0 t) (a : Arrival) (ptype : Nat) {use : State → Instant → Bytes → State}
    (hu : ∀ (u : State) (i : Instant) (b : Bytes), Keeps s0 u → Keeps s0 (use u i b)) : Keeps s0 (takePacket t a ptype use) := by
  unfold takePacket
  split
  · rename_i ht
    exact arrivalVerdict_gone h a ptype ht
  · rename_i ht
    exact packetUsed_keeps (releaseCells_keeps (hu _ _ _ (arrivalVerdict_here h a ptype ht)) _ _) _

theorem takeRequest_keeps {s0 t : State} (h : Keeps s0 t) (a : Arrival) (ptype : Nat) : Keeps s0 (takeRequest t a ptype) := by
  unfold takeRequest
  try dsimp only
  with_reducible repeat' (first | exact h | assumption | rfl | apply packetUsed_keeps | apply receiveRequest_keeps | (refine arrivalVerdict_gone h _ _ (by assumption)) | (refine arrivalVerdict_here h _ _ (by assumption)) | split | intro)

theorem retrainPort_keeps {s0 t : State} (h : Keeps s0 t) (i : Nat) : Keeps s0 (retrainPort t i) := by
  unfold retrainPort
  try dsimp only
  with_reducible repeat' (first | exact h | assumption | rfl | apply sharedEvent_keeps | apply modPort_keeps | split | intro)

theorem grantAll_keeps {s0 t : State} (h : Keeps s0 t) (i : Nat) : Keeps s0 (grantAll t i) := by
  unfold grantAll
  try dsimp only
  with_reducible repeat' (first | exact h | assumption | rfl | apply growDie_keeps | apply modQueue_keeps | apply modPort_keeps | apply Keeps.foldPair | apply Keeps.fold | split | intro)

theorem trainingDone_keeps {s0 t : State} (h : Keeps s0 t) (i : Nat) (partnerType : Nat) (partnerId : Nat) (partnerPort : Nat) : Keeps s0 (trainingDone t i partnerType partnerId partnerPort) := by
  unfold trainingDone
  try dsimp only
  with_reducible repeat' (first | exact h | assumption | rfl | apply modPort_keeps | apply logFault_keeps | apply grantAll_keeps | split | intro)

theorem trainingFails_keeps {s0 t : State} (h : Keeps s0 t) (i : Nat) : Keeps s0 (trainingFails t i) := by
  unfold trainingFails
  try dsimp only
  with_reducible repeat' (first | exact h | assumption | rfl | apply modPort_keeps | apply logFault_keeps | split | intro)

theorem sendBlock_keeps {s0 t : State} (h : Keeps s0 t) (i : Nat) (n : Nat) (data : Bytes) : Keeps s0 (sendBlock t i n data) := by
  unfold sendBlock
  try dsimp only
  with_reducible repeat' (first | exact h | assumption | rfl | apply emit_keeps | apply modPort_keeps | split | intro)

theorem replayFrom_keeps {s0 t : State} (h : Keeps s0 t) (i : Nat) (n : Nat) : Keeps s0 (replayFrom t i n) := by
  unfold replayFrom
  try dsimp only
  with_reducible repeat' (first | exact h | assumption | rfl | apply sendBlock_keeps | apply Keeps.foldPair | apply Keeps.fold | split | intro)

theorem retrainEnds_keeps {s0 t : State} (h : Keeps s0 t) (i : Nat) (lanes : Option Nat) : Keeps s0 (retrainEnds t i lanes) := by
  unfold retrainEnds
  try dsimp only
  with_reducible repeat' (first | exact h | assumption | rfl | apply modPort_keeps | apply replayFrom_keeps | apply logFault_keeps | split | intro)

theorem enablePort_keeps {s0 t : State} (h : Keeps s0 t) (i : Nat) : Keeps s0 (enablePort t i) := by
  unfold enablePort
  try dsimp only
  with_reducible repeat' (first | exact h | assumption | rfl | apply logFault_keeps | apply modPort_keeps | split | intro)

theorem commandRetrain_keeps {s0 t : State} (h : Keeps s0 t) (i : Nat) : Keeps s0 (commandRetrain t i) := by
  unfold commandRetrain
  try dsimp only
  with_reducible repeat' (first | exact h | assumption | rfl | apply retrainPort_keeps | split | intro)

theorem cableMoves_keeps {s0 t : State} (h : Keeps s0 t) (i : Nat) (connected : Bool) : Keeps s0 (cableMoves t i connected) := by
  unfold cableMoves
  try dsimp only
  with_reducible repeat' (first | exact h | assumption | rfl | apply modPort_keeps | apply retrainPort_keeps | split | intro)

theorem eraseLane_keeps {s0 t : State} (h : Keeps s0 t) (i : Nat) (lane : Nat) : Keeps s0 (eraseLane t i lane) := by
  unfold eraseLane
  try dsimp only
  with_reducible repeat' (first | exact h | assumption | rfl | apply retrainPort_keeps | apply modPort_keeps | apply spendFree_keeps | apply sharedEvent_keeps | apply logFault_keeps | split | intro)

theorem noteCorrections_keeps {s0 t : State} (h : Keeps s0 t) (i : Nat) (lanes : List Nat) : Keeps s0 (noteCorrections t i lanes) := by
  unfold noteCorrections
  try dsimp only
  with_reducible repeat' (first | exact h | assumption | rfl | apply modPort_keeps | apply eraseLane_keeps | split | intro)

theorem remapArrives_keeps {s0 t : State} (h : Keeps s0 t) (i : Nat) (lane : Nat) (spare : Nat) (echo : Bool) (block : Nat) : Keeps s0 (remapArrives t i lane spare echo block) := by
  unfold remapArrives
  try dsimp only
  with_reducible repeat' (first | exact h | assumption | rfl | apply sharedEvent_keeps | apply modPort_keeps | split | intro)

theorem deliver_keeps {s0 t : State} (h : Keeps s0 t) (i : Nat) (stamp : Instant) (k0 : Packet) : Keeps s0 (deliver t i stamp k0) := by
  unfold deliver
  try dsimp only
  with_reducible repeat' (first | exact h | assumption | rfl | apply dropArrival_keeps | apply transit_keeps | apply modQueue_keeps | apply enterQueue_keeps | split | intro)

theorem discardArrival_keeps {s0 t : State} (h : Keeps s0 t) (i : Nat) (k : Packet) : Keeps s0 (discardArrival t i k) := by
  unfold discardArrival
  try dsimp only
  with_reducible repeat' (first | exact h | assumption | rfl | apply leaveQueue_keeps | apply enterQueue_keeps | apply modPort_keeps | split | intro)

theorem takeUnit_keeps {s0 t : State} (h : Keeps s0 t) (i : Nat) (stamp : Instant) (u : Bytes) : Keeps s0 (takeUnit i stamp t u) := by
  unfold takeUnit
  try dsimp only
  with_reducible repeat' (first | exact h | assumption | rfl | apply modPort_keeps | apply dropArrival_keeps | apply discardArrival_keeps | apply deliver_keeps | split | intro)

theorem reachRemap_keeps {s0 t : State} (h : Keeps s0 t) (i : Nat) (number : Nat) : Keeps s0 (reachRemap t i number) := by
  unfold reachRemap
  try dsimp only
  with_reducible repeat' (first | exact h | assumption | rfl | apply modPort_keeps | split | intro)

theorem blockArrives_keeps {s0 t : State} (h : Keeps s0 t) (i : Nat) (number : Nat) (block : Bytes) (lossLane : Option Nat) (frac : Nat) : Keeps s0 (blockArrives t i number block lossLane frac) := by
  unfold blockArrives
  try dsimp only
  with_reducible repeat' (first | exact h | assumption | rfl | apply reachRemap_keeps | apply modPort_keeps | apply takeUnit_keeps | apply noteCorrections_keeps | apply eraseLane_keeps | apply Keeps.foldPair | apply Keeps.fold | split | intro)

theorem resend_keeps {s0 t : State} (h : Keeps s0 t) (i : Nat) (n : Nat) : Keeps s0 (resend t i n) := by
  unfold resend
  try dsimp only
  with_reducible repeat' (first | exact h | assumption | rfl | apply modPort_keeps | apply logFault_keeps | apply retrainPort_keeps | apply replayFrom_keeps | split | intro)

theorem ackTimerExpires_keeps {s0 t : State} (h : Keeps s0 t) (i : Nat) : Keeps s0 (ackTimerExpires t i) := by
  unfold ackTimerExpires
  try dsimp only
  with_reducible repeat' (first | exact h | assumption | rfl | apply resend_keeps | apply reach_keeps | split | intro)

theorem beforeAck_keeps {s0 t : State} (h : Keeps s0 t) (i : Nat) : Keeps s0 (beforeAck t i) := by
  unfold beforeAck
  try dsimp only
  with_reducible repeat' (first | exact h | assumption | rfl | apply ackTimerExpires_keeps | split | intro)

theorem ackArrives_keeps {s0 t : State} (h : Keeps s0 t) (i : Nat) (block : Nat) (entries : List CreditEntry) : Keeps s0 (ackArrives t i block entries) := by
  unfold ackArrives
  try dsimp only
  with_reducible repeat' (first | exact h | assumption | rfl | apply beforeAck_keeps | apply modPort_keeps | apply Keeps.foldPair | apply Keeps.fold | split | intro)

theorem nakArrives_keeps {s0 t : State} (h : Keeps s0 t) (i : Nat) (block : Nat) : Keeps s0 (nakArrives t i block) := by
  unfold nakArrives
  try dsimp only
  with_reducible repeat' (first | exact h | assumption | rfl | apply resend_keeps | split | intro)

theorem launch_keeps {s0 t : State} (h : Keeps s0 t) (i : Nat) (k : Packet) (slot : Bytes) : Keeps s0 (launch t i k slot).1 := by
  unfold launch
  try dsimp only
  with_reducible repeat' (first | exact h | assumption | rfl | apply modPort_keeps | apply emit_keeps | split | intro)

theorem fillOwn_keeps {s0 : State} (i owner n : Nat) :
    ∀ {t : State} (b : Bytes), Keeps s0 t → Keeps s0 (fillOwn i owner n t b).1 := by
  induction n with
  | zero => intro t b h; exact h
  | succ n ih =>
    intro t b h
    unfold fillOwn
    split
    · exact h
    · exact ih _ (launch_keeps (noteLeft_keeps (modPort_keeps h _ _) _ _) _ _ _)

theorem fillTransit_keeps {s0 : State} (i n : Nat) : ∀ {t : State} (b : Bytes), Keeps s0 t → Keeps s0 (fillTransit i n t b).1 := by
  induction n with
  | zero => intro t b h; exact h
  | succ n ih =>
    intro t b h
    unfold fillTransit
    split
    · exact h
    · refine ih _ (launch_keeps (modPort_keeps ?_ _ _) _ _ _)
      split
      · exact modPort_keeps h _ _
      · exact leaveQueue_keeps (modQueue_keeps h _ _) _ _

theorem sendBlocks_keeps {s0 : State} (i n : Nat) : ∀ {t : State}, Keeps s0 t → Keeps s0 (sendBlocks i n t) := by
  induction n with
  | zero => intro t h; exact h
  | succ n ih =>
    intro t h
    unfold sendBlocks
    dsimp only
    split
    · exact h
    · exact ih (emit_keeps (modPort_keeps h _ _) _)

theorem stampDeparture_keeps {s0 t : State} (h : Keeps s0 t) (i : Nat) (frac : Nat) (b : Bytes) : Keeps s0 (stampDeparture t i frac b) := by
  unfold stampDeparture
  try dsimp only
  with_reducible repeat' (first | exact h | assumption | rfl | apply emit_keeps | split | (refine Keeps.same ?_ rfl; first | exact h | assumption | apply emit_keeps | split) | intro)

theorem egressSlot_keeps {s0 t : State} (h : Keeps s0 t) (i : Nat) : Keeps s0 (egressSlot t i) := by
  unfold egressSlot
  dsimp only
  split
  · exact h
  · have h1 : Keeps s0 (if (portOf t i).frameSlot = 0 ∨ (portOf t i).owners.isEmpty then
        modPort t i (fun y => { y with owners := egressTable t i }) else t) := Keeps.ite (modPort_keeps h _ _) h
    generalize (if (portOf t i).frameSlot = 0 ∨ (portOf t i).owners.isEmpty then
        modPort t i (fun y => { y with owners := egressTable t i }) else t) = u at h1 ⊢
    have h2 : Keeps s0 (match slotUser u i (portOf t i).frameSlot with
        | none => (u, ([] : Bytes))
        | some v => if v < 16 then fillOwn i v 130 u [] else fillTransit i 130 u []).1 := by
      split
      · exact h1
      · split
        · exact fillOwn_keeps i _ _ _ h1
        · exact fillTransit_keeps i _ _ h1
    exact sendBlocks_keeps i 32 (modPort_keeps (Keeps.ite (stampDeparture_keeps h2 _ _ _) h2) _ _)

theorem flushQueue_keeps {s0 t : State} (h : Keeps s0 t) (key : Nat) : Keeps s0 (flushQueue t key) := by
  unfold flushQueue
  try dsimp only
  with_reducible repeat' (first | exact h | assumption | rfl | apply modPort_keeps | apply modQueue_keeps | apply modPart_keeps | apply leaveQueue_keeps | split | intro)

theorem flushPartition_keeps {s0 t : State} (h : Keeps s0 t) (p : Nat) : Keeps s0 (flushPartition t p) := by
  unfold flushPartition
  try dsimp only
  with_reducible repeat' (first | exact h | assumption | rfl | apply flushQueue_keeps | apply Keeps.foldPair | apply Keeps.fold | split | intro)

theorem writeDim_keeps {s0 t : State} (h : Keeps s0 t) (v : Nat) : Keeps s0 (writeDim t v) := by
  unfold writeDim
  try dsimp only
  with_reducible repeat' (first | exact h | assumption | rfl | apply refuseAccess_keeps | apply setReg_keeps | split | (refine Keeps.same ?_ rfl; first | exact h | assumption | apply refuseAccess_keeps | apply setReg_keeps | split) | intro)

theorem swapTables_keeps {s0 t : State} (h : Keeps s0 t) : Keeps s0 (swapTables t) := by
  unfold swapTables
  try dsimp only
  with_reducible repeat' (first | exact h | assumption | rfl | split | (refine Keeps.same ?_ rfl; first | exact h | assumption | split) | intro)

theorem countCcl_keeps {s0 t : State} (h : Keeps s0 t) (p : Nat) (inB : Nat) (outB : Nat) : Keeps s0 (countCcl t p inB outB) := by
  unfold countCcl
  try dsimp only
  with_reducible repeat' (first | exact h | assumption | rfl | apply modUsage_keeps | split | intro)

theorem writeHead_keeps {s0 t : State} (h : Keeps s0 t) (p : Nat) (r : Nat) : Keeps s0 (writeHead t p r) := by
  unfold writeHead
  try dsimp only
  with_reducible repeat' (first | exact h | assumption | rfl | apply countCcl_keeps | apply emit_keeps | split | intro)

theorem readDescs_keeps {s0 t : State} (h : Keeps s0 t) (p : Nat) (r : Nat) (c : Nat) (n : Nat) : Keeps s0 (readDescs t p r c n) := by
  unfold readDescs
  try dsimp only
  with_reducible repeat' (first | exact h | assumption | rfl | apply emit_keeps | split | intro)

theorem invalidate_keeps {s0 t : State} (h : Keeps s0 t) (p : Nat) (r : Nat) (i : Instant) : Keeps s0 (invalidate t p r i) := by
  unfold invalidate
  try dsimp only
  with_reducible repeat' (first | exact h | assumption | rfl | apply modSq_keeps | apply readDescs_keeps | apply emit_keeps | split | intro)

theorem askBurst_keeps {s0 t : State} (h : Keeps s0 t) (p : Nat) (r : Nat) : Keeps s0 (askBurst t p r) := by
  unfold askBurst
  try dsimp only
  with_reducible repeat' (first | exact h | assumption | rfl | apply readDescs_keeps | apply modSq_keeps | split | intro)

theorem takeDescs_keeps {s0 : State} (p : Fin 16) (r : Fin 8) (n : Nat) :
    ∀ {t : State} (bs : List Bytes), Keeps s0 t → Keeps s0 (takeDescs t p r n bs) := by
  induction n with
  | zero => intro t bs h; cases bs <;> exact h
  | succ n ih =>
    intro t bs h
    cases bs with
    | nil => exact h
    | cons b bs =>
      unfold takeDescs
      dsimp only
      split
      · exact h
      · split
        · exact h
        · exact ih _ (countCcl_keeps (modSq_keeps h _ _ _) _ _ _)

theorem fetchDescs_keeps {s0 t : State} (h : Keeps s0 t) (p : Fin 16) (r : Fin 8) (n : Nat) (descs : List Bytes) : Keeps s0 (fetchDescs t p r n descs) := by
  unfold fetchDescs
  try dsimp only
  with_reducible repeat' (first | exact h | assumption | rfl | apply takeDescs_keeps | split | intro)

theorem settleRing_keeps {s0 t : State} (h : Keeps s0 t) (p : Nat) (r : Nat) : Keeps s0 (settleRing t p r) := by
  unfold settleRing
  try dsimp only
  with_reducible repeat' (first | exact h | assumption | rfl | apply modSq_keeps | split | intro)

theorem doorbellReturn_keeps {s0 t : State} (h : Keeps s0 t) (p : Fin 16) (r : Fin 8) (tail : Nat) (descs : List Bytes) : Keeps s0 (doorbellReturn t p r tail descs) := by
  unfold doorbellReturn
  try dsimp only
  with_reducible repeat' (first | exact h | assumption | rfl | apply countCcl_keeps | apply modSq_keeps | apply writeHead_keeps | apply logFault_keeps | apply settleRing_keeps | apply fetchDescs_keeps | apply askBurst_keeps | split | intro)

theorem burstFetch_keeps {s0 t : State} (h : Keeps s0 t) (p : Fin 16) (r : Fin 8) (descs : List Bytes) : Keeps s0 (burstFetch t p r descs) := by
  unfold burstFetch
  try dsimp only
  with_reducible repeat' (first | exact h | assumption | rfl | apply modSq_keeps | apply askBurst_keeps | apply writeHead_keeps | apply settleRing_keeps | apply fetchDescs_keeps | split | intro)

theorem markWaiting_keeps {s0 t : State} (h : Keeps s0 t) (p : Nat) (r : Nat) : Keeps s0 (markWaiting t p r) := by
  unfold markWaiting
  try dsimp only
  with_reducible repeat' (first | exact h | assumption | rfl | apply modSq_keeps | apply countEvent_keeps | split | intro)

theorem dispatchSlot_keeps {s0 t : State} (h : Keeps s0 t) (p : Nat) : Keeps s0 (dispatchSlot t p) := by
  unfold dispatchSlot
  try dsimp only
  with_reducible repeat' (first | exact h | assumption | rfl | apply markWaiting_keeps | apply modSq_keeps | apply modPart_keeps | apply askBurst_keeps | apply retryLandings_keeps | apply dispatchDesc_keeps | apply Keeps.foldPair | apply Keeps.fold | split | intro)

end Sys2Proof.Machine
end

