-- ==== Sys2Proof/Laws/KeepsReset.lean ====
section
/-! SUPPORT. What the operations of these files keep: Reset, PartitionRows, Throttle, Faulting, FaultRows. -/

namespace Sys2Proof.Machine

set_option Elab.async false

theorem abortTest_keeps {s0 t : State} (h : Keeps s0 t) : Keeps s0 (abortTest t) := by
  unfold abortTest
  try dsimp only
  with_reducible repeat' (first | exact h | assumption | rfl | apply raiseIrq_keeps | split | (refine Keeps.same ?_ rfl; first | exact h | assumption | apply raiseIrq_keeps | split) | intro)

theorem abortTestOf_keeps {s0 t : State} (h : Keeps s0 t) (p : Nat) : Keeps s0 (abortTestOf t p) := by
  unfold abortTestOf
  try dsimp only
  with_reducible repeat' (first | exact h | assumption | rfl | apply abortTest_keeps | split | intro)

theorem drainCommits_keeps {s0 t : State} (h : Keeps s0 t) (p : Nat) : Keeps s0 (drainCommits t p) := by
  unfold drainCommits
  try dsimp only
  with_reducible repeat' (first | exact h | assumption | rfl | apply commitTile_keeps | apply Keeps.foldPair | apply Keeps.fold | split | intro)

theorem postDone_keeps {s0 : State} (p n : Nat) : ∀ {t : State}, Keeps s0 t → Keeps s0 (postDone t p n) := by
  induction n with
  | zero => intro t h; exact h
  | succ n ih =>
    intro t h
    unfold postDone
    split
    · exact h
    · split
      · exact h
      · exact ih (completeFlight_keeps h _ _)

theorem endFetched_keeps {s0 t : State} (h : Keeps s0 t) (ref : Nat) (p : Nat) (r : Nat) : Keeps s0 (endFetched ref p t r) := by
  unfold endFetched
  try dsimp only
  with_reducible repeat' (first | exact h | assumption | rfl | apply postRecord_keeps | apply modSq_keeps | apply Keeps.foldPair | apply Keeps.fold | split | intro)

theorem endDescriptors_keeps {s0 t : State} (h : Keeps s0 t) (p : Nat) (ref : Nat) : Keeps s0 (endDescriptors t p ref) := by
  unfold endDescriptors
  try dsimp only
  with_reducible repeat' (first | exact h | assumption | rfl | apply modPart_keeps | apply postDone_keeps | apply drainCommits_keeps | apply chargePasses_keeps | apply endFlights_keeps | apply endFetched_keeps | apply Keeps.foldPair | apply Keeps.fold | split | (refine Keeps.same ?_ rfl; first | exact h | assumption | apply modPart_keeps | apply postDone_keeps | apply drainCommits_keeps | apply chargePasses_keeps | apply endFlights_keeps | apply endFetched_keeps | apply Keeps.foldPair | apply Keeps.fold | split) | intro)

theorem emptyWindow_keeps {s0 t : State} (h : Keeps s0 t) (p : Nat) (k : WinKind) : Keeps s0 (emptyWindow t p k) := by
  unfold emptyWindow
  try dsimp only
  with_reducible repeat' (first | exact h | assumption | rfl | apply releaseUses_keeps | apply setWindow_keeps | split | intro)

theorem endWindows_keeps {s0 t : State} (h : Keeps s0 t) (p : Nat) (ref : Nat) : Keeps s0 (endWindows t p ref) := by
  unfold endWindows
  try dsimp only
  with_reducible repeat' (first | exact h | assumption | rfl | apply emptyWindow_keeps | apply abortWindows_keeps | split | intro)

theorem loseRounds_keeps {s0 t : State} (h : Keeps s0 t) (p : Nat) : Keeps s0 (loseRounds t p) := by
  unfold loseRounds
  try dsimp only
  with_reducible repeat' (first | exact h | assumption | rfl | apply eraseArea_keeps | apply modRound_keeps | apply Keeps.foldPair | apply Keeps.fold | split | intro)

theorem tearOwn_keeps {s0 t : State} (h : Keeps s0 t) (p : Nat) (r : TearReason) : Keeps s0 (tearOwn t p r) := by
  unfold tearOwn
  try dsimp only
  with_reducible repeat' (first | exact h | assumption | rfl | apply tearAll_keeps | split | (refine Keeps.same ?_ rfl; first | exact h | assumption | apply tearAll_keeps | split) | intro)

theorem takeRecord_keeps {s0 t : State} (h : Keeps s0 t) (trigger : Nat) (ref : Nat) : Keeps s0 (takeRecord t trigger ref) := by
  unfold takeRecord
  try dsimp only
  with_reducible repeat' (first | exact h | assumption | rfl | apply spendFree_keeps | split | (refine Keeps.same ?_ rfl; first | exact h | assumption | apply spendFree_keeps | split) | intro)

theorem sample_keeps {s0 t : State} (h : Keeps s0 t) (p : Nat) (trigger : Nat) (ref : Nat) (fs : List InFlight) : Keeps s0 (sample t p trigger ref fs) := by
  unfold sample
  try dsimp only
  with_reducible repeat' (first | exact h | assumption | rfl | apply modPart_keeps | apply writeMarked_keeps | split | intro)

theorem zeroCuffs_keeps {s0 t : State} (h : Keeps s0 t) (sl : List Nat) : Keeps s0 (zeroCuffs t sl) := by
  unfold zeroCuffs
  try dsimp only
  with_reducible repeat' (first | exact h | assumption | rfl | split | (refine Keeps.same ?_ rfl; first | exact h | assumption | split) | intro)

theorem healUnits_keeps {s0 t : State} (h : Keeps s0 t) (p : Nat) : Keeps s0 (healUnits t p) := by
  unfold healUnits
  try dsimp only
  with_reducible repeat' (first | exact h | assumption | rfl | apply modPart_keeps | apply Keeps.foldPair | apply Keeps.fold | split | (refine Keeps.same ?_ rfl; first | exact h | assumption | apply modPart_keeps | apply Keeps.foldPair | apply Keeps.fold | split) | refine Keeps.mem ?_ (memZero_wf _ _) id | intro)

theorem stopPartition_keeps {s0 t : State} (h : Keeps s0 t) (p : Nat) (trigger : Nat) (ref : Nat) (tear : TearReason) (flush : Bool) : Keeps s0 (stopPartition t p trigger ref tear flush) := by
  unfold stopPartition
  try dsimp only
  with_reducible repeat' (first | exact h | assumption | rfl | apply endDescriptors_keeps | apply abortTestOf_keeps | apply flushPartition_keeps | apply endWindows_keeps | apply sample_keeps | apply tearOwn_keeps | split | intro)

theorem resetSteps_keeps {s0 t : State} (h : Keeps s0 t) (p : Nat) (trigger : Nat) (ref : Nat) (tear : TearReason) : Keeps s0 (resetSteps t p trigger ref tear) := by
  unfold resetSteps
  try dsimp only
  with_reducible repeat' (first | exact h | assumption | rfl | apply stopPartition_keeps | apply takeRecord_keeps | apply zeroCuffs_keeps | apply healUnits_keeps | apply loseRounds_keeps | split | intro)

theorem beginReset_keeps {s0 t : State} (h : Keeps s0 t) (p : Nat) (cause : Nat) (ref : Nat) : Keeps s0 (beginReset t p cause ref) := by
  unfold beginReset
  try dsimp only
  with_reducible repeat' (first | exact h | assumption | rfl | apply modPart_keeps | apply collarQueue_keeps | apply resetSteps_keeps | split | intro)

theorem finishCommand_keeps {s0 t : State} (h : Keeps s0 t) (p : Nat) (result : Nat) : Keeps s0 (finishCommand t p result) := by
  unfold finishCommand
  try dsimp only
  with_reducible repeat' (first | exact h | assumption | rfl | apply raiseIrq_keeps | apply logFault_keeps | split | (refine Keeps.same ?_ rfl; first | exact h | assumption | apply raiseIrq_keeps | apply logFault_keeps | split) | intro)

theorem finishIfCurrent_keeps {s0 t : State} (h : Keeps s0 t) (p : Nat) : Keeps s0 (finishIfCurrent t p) := by
  unfold finishIfCurrent
  try dsimp only
  with_reducible repeat' (first | exact h | assumption | rfl | apply finishCommand_keeps | split | intro)

theorem takeCommand_keeps {s0 t : State} (h : Keeps s0 t) (p : Nat) : Keeps s0 (takeCommand t p) := by
  unfold takeCommand
  try dsimp only
  with_reducible repeat' (first | exact h | assumption | rfl | split | (refine Keeps.same ?_ rfl; first | exact h | assumption | split) | intro)

theorem resumeRing_keeps {s0 t : State} (h : Keeps s0 t) (restart : Bool) (p : Nat) (r : Nat) : Keeps s0 (resumeRing restart p t r) := by
  unfold resumeRing
  try dsimp only
  with_reducible repeat' (first | exact h | assumption | rfl | apply writeHead_keeps | apply invalidate_keeps | apply modSq_keeps | apply askBurst_keeps | split | intro)

theorem resumePartition_keeps {s0 t : State} (h : Keeps s0 t) (p : Nat) (restart : Bool) : Keeps s0 (resumePartition t p restart) := by
  unfold resumePartition
  try dsimp only
  with_reducible repeat' (first | exact h | assumption | rfl | apply modPart_keeps | apply resumeRing_keeps | apply Keeps.foldPair | apply Keeps.fold | split | intro)

theorem freshContexts_keeps {s0 t : State} (h : Keeps s0 t) (p : Nat) : Keeps s0 (freshContexts t p) := by
  unfold freshContexts
  try dsimp only
  with_reducible repeat' (first | exact h | assumption | rfl | apply spendFree_keeps | apply modPart_keeps | split | intro)

theorem clearMemory_keeps {s0 t : State} (h : Keeps s0 t) (p : Nat) : Keeps s0 (clearMemory t p) := by
  unfold clearMemory
  try dsimp only
  with_reducible repeat' (first | exact h | assumption | rfl | apply zeroCuffs_keeps | apply clearGranules_keeps | apply clearPockets_keeps | apply modPart_keeps | split | intro)

theorem drawKeys_keeps {s0 t : State} (h : Keeps s0 t) (p : Nat) : Keeps s0 (drawKeys t p) := by
  unfold drawKeys
  try dsimp only
  with_reducible repeat' (first | exact h | assumption | rfl | apply spendFree_keeps | apply modPart_keeps | split | (refine Keeps.same ?_ rfl; first | exact h | assumption | apply spendFree_keeps | apply modPart_keeps | split) | intro)

theorem clearSpaceRegs_keeps {s0 t : State} (h : Keeps s0 t) (p : Nat) : Keeps s0 (clearSpaceRegs p t) := by
  unfold clearSpaceRegs
  try dsimp only
  with_reducible repeat' (first | exact h | assumption | rfl | apply setReg_keeps | apply clearExports_keeps | apply Keeps.foldPair | apply Keeps.fold | split | intro)

theorem dropSpaces_keeps {s0 t : State} (h : Keeps s0 t) (p : Nat) : Keeps s0 (dropSpaces t p) := by
  unfold dropSpaces
  try dsimp only
  with_reducible repeat' (first | exact h | assumption | rfl | apply modPart_keeps | apply clearSpaceRegs_keeps | split | intro)

theorem destroyKeys_keeps {s0 t : State} (h : Keeps s0 t) (p : Nat) (r : TearReason) : Keeps s0 (destroyKeys t p r) := by
  unfold destroyKeys
  try dsimp only
  with_reducible repeat' (first | exact h | assumption | rfl | apply tearAll_keeps | apply modPart_keeps | split | (refine Keeps.same ?_ rfl; first | exact h | assumption | apply tearAll_keeps | apply modPart_keeps | split) | intro)

theorem clearSlotBytes_keeps {s0 t : State} (h : Keeps s0 t) (p : Nat) (r : Reg) (idle : Nat) : Keeps s0 (clearSlotBytes t p r idle) := by
  unfold clearSlotBytes
  try dsimp only
  with_reducible repeat' (first | exact h | assumption | rfl | apply setReg_keeps | apply Keeps.foldPair | apply Keeps.fold | split | intro)

theorem clearSlots_keeps {s0 t : State} (h : Keeps s0 t) (p : Nat) : Keeps s0 (clearSlots t p) := by
  unfold clearSlots
  try dsimp only
  with_reducible repeat' (first | exact h | assumption | rfl | apply clearSlotBytes_keeps | apply Keeps.foldPair | apply Keeps.fold | split | intro)

theorem clearRings_keeps {s0 t : State} (h : Keeps s0 t) (p : Nat) : Keeps s0 (clearRings t p) := by
  unfold clearRings
  try dsimp only
  with_reducible repeat' (first | exact h | assumption | rfl | apply setReg_keeps | apply modPart_keeps | apply Keeps.foldPair | apply Keeps.fold | split | intro)

theorem beginDestroy_keeps {s0 t : State} (h : Keeps s0 t) (p : Nat) : Keeps s0 (beginDestroy t p) := by
  unfold beginDestroy
  try dsimp only
  with_reducible repeat' (first | exact h | assumption | rfl | apply modPart_keeps | apply flushPartition_keeps | apply endDescriptors_keeps | apply abortTestOf_keeps | apply tearAll_keeps | apply abortWindows_keeps | apply clearSlots_keeps | apply clearRings_keeps | apply clearMemory_keeps | apply collarQueue_keeps | split | (refine Keeps.same ?_ rfl; first | exact h | assumption | apply modPart_keeps | apply flushPartition_keeps | apply endDescriptors_keeps | apply abortTestOf_keeps | apply tearAll_keeps | apply abortWindows_keeps | apply clearSlots_keeps | apply clearRings_keeps | apply clearMemory_keeps | apply collarQueue_keeps | split) | intro)

theorem endDestroy_keeps {s0 t : State} (h : Keeps s0 t) (p : Nat) : Keeps s0 (endDestroy t p) := by
  unfold endDestroy
  try dsimp only
  with_reducible repeat' (first | exact h | assumption | rfl | apply dropSpaces_keeps | apply queueUsage_keeps | apply finishIfCurrent_keeps | apply setPart_keeps | split | (refine Keeps.same ?_ rfl; first | exact h | assumption | apply dropSpaces_keeps | apply queueUsage_keeps | apply finishIfCurrent_keeps | apply setPart_keeps | split) | intro)

theorem nextWork_keeps {s0 t : State} (h : Keeps s0 t) (p : Nat) : Keeps s0 (nextWork t p) := by
  unfold nextWork
  try dsimp only
  with_reducible repeat' (first | exact h | assumption | rfl | apply beginDestroy_keeps | apply finishIfCurrent_keeps | apply modPart_keeps | split | intro)

theorem endReset_keeps {s0 t : State} (h : Keeps s0 t) (p : Nat) : Keeps s0 (endReset t p) := by
  unfold endReset
  try dsimp only
  with_reducible repeat' (first | exact h | assumption | rfl | apply resumePartition_keeps | apply modPart_keeps | apply nextWork_keeps | apply logFault_keeps | split | intro)

theorem endScrub_keeps {s0 t : State} (h : Keeps s0 t) (p : Nat) : Keeps s0 (endScrub t p) := by
  unfold endScrub
  try dsimp only
  with_reducible repeat' (first | exact h | assumption | rfl | apply clearMemory_keeps | apply drawKeys_keeps | apply dropSpaces_keeps | apply destroyKeys_keeps | apply modPart_keeps | apply resumePartition_keeps | apply nextWork_keeps | apply logFault_keeps | split | intro)

theorem beginScrub_keeps {s0 t : State} (h : Keeps s0 t) (p : Nat) : Keeps s0 (beginScrub t p) := by
  unfold beginScrub
  try dsimp only
  with_reducible repeat' (first | exact h | assumption | rfl | apply modPart_keeps | apply collarQueue_keeps | apply resetSteps_keeps | split | intro)

theorem createPartition_keeps {s0 t : State} (h : Keeps s0 t) (p : Nat) (policy : Option Bytes) : Keeps s0 (createPartition t p policy) := by
  unfold createPartition
  try dsimp only
  with_reducible repeat' (first | exact h | assumption | rfl | apply takeCommand_keeps | apply finishCommand_keeps | apply collarQueue_keeps | apply clearMemory_keeps | apply setPart_keeps | split | intro)

theorem endCreate_keeps {s0 t : State} (h : Keeps s0 t) (p : Nat) : Keeps s0 (endCreate t p) := by
  unfold endCreate
  try dsimp only
  with_reducible repeat' (first | exact h | assumption | rfl | apply finishIfCurrent_keeps | apply startMeter_keeps | apply modPart_keeps | apply drawKeys_keeps | apply finishCommand_keeps | apply setPart_keeps | split | intro)

theorem commandLost_keeps {s0 t : State} (h : Keeps s0 t) : Keeps s0 (commandLost t) := by
  unfold commandLost
  try dsimp only
  with_reducible repeat' (first | exact h | assumption | rfl | apply setStatusBits_keeps | split | intro)

theorem commandCreate_keeps {s0 t : State} (h : Keeps s0 t) (p : Nat) (policy : Option Bytes) : Keeps s0 (commandCreate t p policy) := by
  unfold commandCreate
  try dsimp only
  with_reducible repeat' (first | exact h | assumption | rfl | apply commandLost_keeps | apply createPartition_keeps | split | intro)

theorem commandScrub_keeps {s0 t : State} (h : Keeps s0 t) (p : Nat) : Keeps s0 (commandScrub t p) := by
  unfold commandScrub
  try dsimp only
  with_reducible repeat' (first | exact h | assumption | rfl | apply commandLost_keeps | apply finishCommand_keeps | apply takeCommand_keeps | apply modPart_keeps | apply beginScrub_keeps | split | intro)

theorem commandReset_keeps {s0 t : State} (h : Keeps s0 t) (p : Nat) : Keeps s0 (commandReset t p) := by
  unfold commandReset
  try dsimp only
  with_reducible repeat' (first | exact h | assumption | rfl | apply commandLost_keeps | apply takeCommand_keeps | apply finishCommand_keeps | apply beginReset_keeps | split | intro)

theorem commandDestroy_keeps {s0 t : State} (h : Keeps s0 t) (p : Nat) : Keeps s0 (commandDestroy t p) := by
  unfold commandDestroy
  try dsimp only
  with_reducible repeat' (first | exact h | assumption | rfl | apply commandLost_keeps | apply modPart_keeps | apply takeCommand_keeps | apply beginDestroy_keeps | apply finishCommand_keeps | split | intro)

theorem completeReset_keeps {s0 t : State} (h : Keeps s0 t) (p : Nat) : Keeps s0 (completeReset t p) := by
  unfold completeReset
  try dsimp only
  with_reducible repeat' (first | exact h | assumption | rfl | apply endReset_keeps | apply modPart_keeps | split | intro)

theorem faultPartition_keeps {s0 t : State} (h : Keeps s0 t) (p : Nat) (ref : Nat) : Keeps s0 (faultPartition t p ref) := by
  unfold faultPartition
  try dsimp only
  with_reducible repeat' (first | exact h | assumption | rfl | apply modPart_keeps | apply beginReset_keeps | apply tearOwn_keeps | apply endFlights_keeps | split | intro)

theorem rewriteSite_keeps {s0 t : State} (h : Keeps s0 t) (x1 : FaultSite) : Keeps s0 (rewriteSite t x1) := by
  unfold rewriteSite
  try dsimp only
  with_reducible repeat' (first | exact h | assumption | rfl | split | (refine Keeps.same ?_ rfl; first | exact h | assumption | split) | refine Keeps.mem ?_ (memZero_wf _ _) id | intro)

theorem loseUnit_keeps {s0 t : State} (h : Keeps s0 t) (p : Nat) (site : FaultSite) : Keeps s0 (loseUnit t p site) := by
  unfold loseUnit
  split
  · exact modPart_keeps h _ _
  · exact spendFree_keeps (h.mem id (fun w => memWriteRange_wf _ _ w))
  · exact h

theorem faultAt_keeps {s0 t : State} (h : Keeps s0 t) (site : FaultSite) : Keeps s0 (faultAt t site) := by
  unfold faultAt
  try dsimp only
  with_reducible repeat' (first | exact h | assumption | rfl | apply logFault_keeps | apply loseUnit_keeps | apply faultPartition_keeps | apply rewriteSite_keeps | split | intro)

theorem accrueTimes_keeps {s0 t : State} (h : Keeps s0 t) : Keeps s0 (accrueTimes t) := by
  unfold accrueTimes
  try dsimp only
  with_reducible repeat' (first | exact h | assumption | rfl | apply Keeps.foldPair | apply Keeps.fold | split | (refine Keeps.same ?_ rfl; first | exact h | assumption | apply Keeps.foldPair | apply Keeps.fold | split) | intro)

theorem setReasons_keeps {s0 t : State} (h : Keeps s0 t) (v : BitVec 9) : Keeps s0 (setReasons t v) := by
  unfold setReasons
  try dsimp only
  with_reducible repeat' (first | exact h | assumption | rfl | apply accrueTimes_keeps | apply setStatusBits_keeps | apply raiseIrq_keeps | split | (refine Keeps.same ?_ rfl; first | exact h | assumption | apply accrueTimes_keeps | apply setStatusBits_keeps | apply raiseIrq_keeps | split) | intro)

theorem setReason_keeps {s0 t : State} (h : Keeps s0 t) (i : Nat) (on : Bool) : Keeps s0 (setReason t i on) := by
  unfold setReason
  try dsimp only
  with_reducible repeat' (first | exact h | assumption | rfl | apply setReasons_keeps | split | intro)

theorem finishStep_keeps {s0 t : State} (h : Keeps s0 t) : Keeps s0 (finishStep t) := by
  unfold finishStep
  try dsimp only
  with_reducible repeat' (first | exact h | assumption | rfl | apply setReason_keeps | split | (refine Keeps.same ?_ rfl; first | exact h | assumption | apply setReason_keeps | split) | intro)

theorem advanceStep_keeps {s0 t : State} (h : Keeps s0 t) : Keeps s0 (advanceStep t) := by
  unfold advanceStep
  try dsimp only
  with_reducible repeat' (first | exact h | assumption | rfl | apply finishStep_keeps | split | (refine Keeps.same ?_ rfl; first | exact h | assumption | apply finishStep_keeps | split) | intro)

theorem zeroPockets_keeps {s0 t : State} (h : Keeps s0 t) : Keeps s0 (zeroPockets t) := by
  unfold zeroPockets
  try dsimp only
  with_reducible repeat' (first | exact h | assumption | rfl | apply zeroCuffs_keeps | apply clearPockets_keeps | split | intro)

theorem setEngineRails_keeps {s0 t : State} (h : Keeps s0 t) (on : Bool) : Keeps s0 (setEngineRails t on) := by
  unfold setEngineRails
  try dsimp only
  with_reducible repeat' (first | exact h | assumption | rfl | split | (refine Keeps.same ?_ rfl; first | exact h | assumption | split) | intro)

theorem enterLimited_keeps {s0 t : State} (h : Keeps s0 t) (transitOnly : Bool) (ref : Nat) : Keeps s0 (enterLimited t transitOnly ref) := by
  unfold enterLimited
  try dsimp only
  with_reducible repeat' (first | exact h | assumption | rfl | apply takeRecord_keeps | apply abortTest_keeps | apply sample_keeps | apply endFlights_keeps | apply chargePasses_keeps | apply zeroPockets_keeps | apply tearOwn_keeps | apply setEngineRails_keeps | apply modPart_keeps | apply Keeps.foldPair | apply Keeps.fold | split | (refine Keeps.same ?_ rfl; first | exact h | assumption | apply takeRecord_keeps | apply abortTest_keeps | apply sample_keeps | apply endFlights_keeps | apply chargePasses_keeps | apply zeroPockets_keeps | apply tearOwn_keeps | apply setEngineRails_keeps | apply modPart_keeps | apply Keeps.foldPair | apply Keeps.fold | split) | intro)

theorem moduleFault_keeps {s0 t : State} (h : Keeps s0 t) (code : Nat) (unitKind : Nat) : Keeps s0 (moduleFault t code unitKind) := by
  unfold moduleFault
  try dsimp only
  with_reducible repeat' (first | exact h | assumption | rfl | apply logFault_keeps | apply enterLimited_keeps | split | intro)

theorem computeStop_keeps {s0 t : State} (h : Keeps s0 t) (trigger : Nat) (ref : Nat) (p : Nat) : Keeps s0 (computeStop trigger ref t p) := by
  unfold computeStop
  try dsimp only
  with_reducible repeat' (first | exact h | assumption | rfl | apply stopPartition_keeps | apply modPart_keeps | split | (refine Keeps.same ?_ rfl; first | exact h | assumption | apply stopPartition_keeps | apply modPart_keeps | split) | intro)

theorem beginCompute_keeps {s0 t : State} (h : Keeps s0 t) (commanded : Bool) : Keeps s0 (beginCompute t commanded) := by
  unfold beginCompute
  try dsimp only
  with_reducible repeat' (first | exact h | assumption | rfl | apply logFault_keeps | apply sharedEvent_keeps | apply abortTest_keeps | apply takeRecord_keeps | apply computeStop_keeps | apply zeroPockets_keeps | apply setEngineRails_keeps | apply setReason_keeps | apply Keeps.foldPair | apply Keeps.fold | split | (refine Keeps.same ?_ rfl; first | exact h | assumption | apply logFault_keeps | apply sharedEvent_keeps | apply abortTest_keeps | apply takeRecord_keeps | apply computeStop_keeps | apply zeroPockets_keeps | apply setEngineRails_keeps | apply setReason_keeps | apply Keeps.foldPair | apply Keeps.fold | split) | intro)

theorem requestCompute_keeps {s0 t : State} (h : Keeps s0 t) (commanded : Bool) : Keeps s0 (requestCompute t commanded) := by
  unfold requestCompute
  try dsimp only
  with_reducible repeat' (first | exact h | assumption | rfl | apply logFault_keeps | apply enterLimited_keeps | apply beginCompute_keeps | split | (refine Keeps.same ?_ rfl; first | exact h | assumption | apply logFault_keeps | apply enterLimited_keeps | apply beginCompute_keeps | split) | intro)

theorem computeFault_keeps {s0 t : State} (h : Keeps s0 t) (r : Report) : Keeps s0 (computeFault t r) := by
  unfold computeFault
  try dsimp only
  with_reducible repeat' (first | exact h | assumption | rfl | apply logFault_keeps | apply requestCompute_keeps | split | intro)

theorem retireQuiet_keeps {s0 t : State} (h : Keeps s0 t) (n : Nat) : Keeps s0 (retireQuiet t n) := by
  unfold retireQuiet
  try dsimp only
  with_reducible repeat' (first | exact h | assumption | rfl | apply modSlot_keeps | apply logFault_keeps | split | intro)

theorem applyUnusable_keeps {s0 t : State} (h : Keeps s0 t) : Keeps s0 (applyUnusable t) := by
  unfold applyUnusable
  try dsimp only
  with_reducible repeat' (first | exact h | assumption | rfl | split | (refine Keeps.same ?_ rfl; first | exact h | assumption | split) | intro)

theorem computeResume_keeps {s0 t : State} (h : Keeps s0 t) (p : Nat) : Keeps s0 (computeResume t p) := by
  unfold computeResume
  try dsimp only
  with_reducible repeat' (first | exact h | assumption | rfl | apply freshContexts_keeps | apply modPart_keeps | apply collarQueue_keeps | apply resumePartition_keeps | apply nextWork_keeps | split | intro)

theorem endCompute_keeps {s0 t : State} (h : Keeps s0 t) : Keeps s0 (endCompute t) := by
  unfold endCompute
  try dsimp only
  with_reducible repeat' (first | exact h | assumption | rfl | apply advanceStep_keeps | split | (refine Keeps.same ?_ rfl; first | exact h | assumption | apply advanceStep_keeps | split) | intro)

theorem mismatchCompute_keeps {s0 t : State} (h : Keeps s0 t) : Keeps s0 (mismatchCompute t) := by
  unfold mismatchCompute
  try dsimp only
  with_reducible repeat' (first | exact h | assumption | rfl | apply moduleFault_keeps | split | (refine Keeps.same ?_ rfl; first | exact h | assumption | apply moduleFault_keeps | split) | intro)

theorem rebuildCompute_keeps {s0 t : State} (h : Keeps s0 t) (failed : List Nat) : Keeps s0 (rebuildCompute t failed) := by
  unfold rebuildCompute
  try dsimp only
  with_reducible repeat' (first | exact h | assumption | rfl | apply flushPartition_keeps | apply mapAll_keeps | apply applyUnusable_keeps | apply retireQuiet_keeps | apply Keeps.foldPair | apply Keeps.fold | split | intro)

theorem resumeAllParts_keeps {s0 t : State} (h : Keeps s0 t) : Keeps s0 (resumeAllParts t) := by
  unfold resumeAllParts
  try dsimp only
  with_reducible repeat' (first | exact h | assumption | rfl | apply computeResume_keeps | apply Keeps.foldPair | apply Keeps.fold | split | intro)

theorem completeCompute_keeps {s0 t : State} (h : Keeps s0 t) (failed : List Nat) (imagesMatch : Bool) : Keeps s0 (completeCompute t failed imagesMatch) := by
  unfold completeCompute
  try dsimp only
  with_reducible repeat' (first | exact h | assumption | rfl | apply mismatchCompute_keeps | apply resumeAllParts_keeps | apply endCompute_keeps | apply rebuildCompute_keeps | split | intro)

theorem replayFlight_keeps {s0 t : State} (h : Keeps s0 t) (l : Nat) (ref : Nat) (runner : Option Nat) (e : InFlight × Nat) : Keeps s0 (replayFlight l ref runner t e) := by
  unfold replayFlight
  try dsimp only
  with_reducible repeat' (first | exact h | assumption | rfl | apply modFlight_keeps | split | intro)

theorem dropEngine_keeps {s0 t : State} (h : Keeps s0 t) (l : Nat) (ref : Nat) (f : InFlight) : Keeps s0 (dropEngine l ref t f) := by
  unfold dropEngine
  try dsimp only
  with_reducible repeat' (first | exact h | assumption | rfl | apply settlePasses_keeps | apply modFlight_keeps | split | intro)

theorem endRanks_keeps {s0 t : State} (h : Keeps s0 t) (l : Nat) (ref : Nat) : Keeps s0 (endRanks t l ref) := by
  unfold endRanks
  try dsimp only
  with_reducible repeat' (first | exact h | assumption | rfl | apply endFlight_keeps | apply Keeps.foldPair | apply Keeps.fold | split | intro)

theorem takeOver_keeps {s0 t : State} (h : Keeps s0 t) (n : Nat) (m : Nat) (l : Nat) : Keeps s0 (takeOver t n m l) := by
  unfold takeOver
  try dsimp only
  with_reducible repeat' (first | exact h | assumption | rfl | apply giveNumber_keeps | apply modSlot_keeps | split | intro)

theorem failSlot_keeps {s0 t : State} (h : Keeps s0 t) (n : Nat) : Keeps s0 (failSlot t n) := by
  unfold failSlot
  try dsimp only
  with_reducible repeat' (first | exact h | assumption | rfl | apply retireQuiet_keeps | apply modSlot_keeps | apply logFault_keeps | apply beginNext_keeps | apply replayFlight_keeps | apply takeOver_keeps | apply endRanks_keeps | apply dropEngine_keeps | apply Keeps.foldPair | apply Keeps.fold | split | intro)

theorem passEnds_keeps {s0 t : State} (h : Keeps s0 t) (l : Nat) (corrected : Nat) (mismatch : Bool) : Keeps s0 (passEnds t l corrected mismatch) := by
  unfold passEnds
  try dsimp only
  with_reducible repeat' (first | exact h | assumption | rfl | apply correctCuff_keeps | apply failSlot_keeps | apply rerunPass_keeps | apply endPass_keeps | split | intro)

theorem freshModule_keeps {s0 t : State} (h : Keeps s0 t) (cause : Nat) : Keeps s0 (freshModule t cause) := by
  refine ⟨h.queue, h.otp, fun _ => ⟨⟨rfl, rfl⟩, ⟨List.Pairwise.nil, ?_⟩, Nat.zero_le _, Nat.zero_lt_succ _, Nat.zero_lt_succ _, Nat.zero_le _⟩, h.ids⟩
  intro f hf
  exact absurd hf List.not_mem_nil

theorem commandedReset_keeps {s0 t : State} (h : Keeps s0 t) : Keeps s0 (commandedReset t) := by
  unfold commandedReset
  dsimp only
  apply freshModule_keeps
  with_reducible
    refine Keeps.fold (fun u p hu => signUsage_keeps (chargePasses_keeps hu p) _ _ _ _) _ ?_
    exact Keeps.fold (fun u p hu => tearAll_keeps hu p _) _ h

theorem modSleeve_keeps {s0 t : State} (h : Keeps s0 t) (v : Nat) (f : Sleeve → Sleeve) : Keeps s0 (modSleeve t v f) := by
  unfold modSleeve
  try dsimp only
  with_reducible repeat' (first | exact h | assumption | rfl | split | (refine Keeps.same ?_ rfl; first | exact h | assumption | split) | intro)

theorem modDevice_keeps {s0 t : State} (h : Keeps s0 t) (d : Nat) (f : Device → Device) : Keeps s0 (modDevice t d f) := by
  unfold modDevice
  try dsimp only
  with_reducible repeat' (first | exact h | assumption | rfl | split | (refine Keeps.same ?_ rfl; first | exact h | assumption | split) | intro)

theorem failKeystream_keeps {s0 t : State} (h : Keeps s0 t) (v : Nat) (k : Nat) : Keeps s0 (failKeystream t v k) := by
  unfold failKeystream
  try dsimp only
  with_reducible repeat' (first | exact h | assumption | rfl | apply modSleeve_keeps | apply logFault_keeps | apply modFlight_keeps | split | intro)

theorem failLapel_keeps {s0 t : State} (h : Keeps s0 t) (v : Nat) : Keeps s0 (failLapel t v) := by
  unfold failLapel
  try dsimp only
  with_reducible repeat' (first | exact h | assumption | rfl | apply modSleeve_keeps | apply logFault_keeps | apply endFlight_keeps | apply Keeps.foldPair | apply Keeps.fold | split | intro)

theorem rowThreshold_keeps {s0 t : State} (h : Keeps s0 t) (v : Nat) (row : Nat) : Keeps s0 (rowThreshold t v row) := by
  unfold rowThreshold
  try dsimp only
  with_reducible repeat' (first | exact h | assumption | rfl | apply logFault_keeps | apply modSleeve_keeps | split | intro)

theorem failBond_keeps {s0 t : State} (h : Keeps s0 t) (v : Nat) (lane : Nat) : Keeps s0 (failBond t v lane) := by
  unfold failBond
  try dsimp only
  with_reducible repeat' (first | exact h | assumption | rfl | apply logFault_keeps | apply modSleeve_keeps | apply spendFree_keeps | apply faultPartition_keeps | split | intro)

theorem failSeam_keeps {s0 t : State} (h : Keeps s0 t) (dir : Nat) (lane : Nat) : Keeps s0 (failSeam t dir lane) := by
  unfold failSeam
  try dsimp only
  with_reducible repeat' (first | exact h | assumption | rfl | apply sharedEvent_keeps | apply logFault_keeps | apply computeFault_keeps | split | (refine Keeps.same ?_ rfl; first | exact h | assumption | apply sharedEvent_keeps | apply logFault_keeps | apply computeFault_keeps | split) | intro)

theorem failCcl_keeps {s0 t : State} (h : Keeps s0 t) (lane : Nat) : Keeps s0 (failCcl t lane) := by
  unfold failCcl
  try dsimp only
  with_reducible repeat' (first | exact h | assumption | rfl | apply sharedEvent_keeps | apply logFault_keeps | split | (refine Keeps.same ?_ rfl; first | exact h | assumption | apply sharedEvent_keeps | apply logFault_keeps | split) | intro)

theorem retrainCcl_keeps {s0 t : State} (h : Keeps s0 t) (success : Bool) : Keeps s0 (retrainCcl t success) := by
  unfold retrainCcl
  try dsimp only
  with_reducible repeat' (first | exact h | assumption | rfl | apply sharedEvent_keeps | apply moduleFault_keeps | split | (refine Keeps.same ?_ rfl; first | exact h | assumption | apply sharedEvent_keeps | apply moduleFault_keeps | split) | intro)

theorem killPartition_keeps {s0 t : State} (h : Keeps s0 t) (p : Nat) (d : Nat) : Keeps s0 (killPartition t p d) := by
  unfold killPartition
  try dsimp only
  with_reducible repeat' (first | exact h | assumption | rfl | apply logFault_keeps | apply modPart_keeps | apply endFlights_keeps | apply tearOwn_keeps | apply finishCommand_keeps | split | intro)

theorem failDevice_keeps {s0 t : State} (h : Keeps s0 t) (d : Nat) : Keeps s0 (failDevice t d) := by
  unfold failDevice
  try dsimp only
  with_reducible repeat' (first | exact h | assumption | rfl | apply sharedEvent_keeps | apply modDevice_keeps | apply logFault_keeps | apply killPartition_keeps | apply Keeps.foldPair | apply Keeps.fold | split | intro)

theorem correctLine_keeps {s0 t : State} (h : Keeps s0 t) (v : Nat) (line : Nat) : Keeps s0 (correctLine t v line) := by
  unfold correctLine
  try dsimp only
  with_reducible repeat' (first | exact h | assumption | rfl | apply logFault_keeps | apply modSleeve_keeps | split | intro)

theorem linkError_keeps {s0 t : State} (h : Keeps s0 t) (d : Nat) : Keeps s0 (linkError t d) := by
  unfold linkError
  try dsimp only
  with_reducible repeat' (first | exact h | assumption | rfl | apply logFault_keeps | apply modDevice_keeps | split | intro)

theorem linkErrors_keeps {s0 t : State} (h : Keeps s0 t) (d : Nat) (n : Nat) : Keeps s0 (linkErrors t d n) := by
  unfold linkErrors
  try dsimp only
  with_reducible repeat' (first | exact h | assumption | rfl | apply linkError_keeps | apply failDevice_keeps | apply Keeps.foldPair | apply Keeps.fold | split | intro)

theorem patrol_keeps {s0 t : State} (h : Keeps s0 t) (t' : ScrubTarget) (r : ScrubResult) : Keeps s0 (patrol t t' r) := by
  unfold patrol
  try dsimp only
  with_reducible repeat' (first | exact h | assumption | rfl | apply modSleeve_keeps | apply correctLine_keeps | apply faultAt_keeps | apply linkErrors_keeps | apply logFault_keeps | apply modDevice_keeps | split | intro)

theorem fillBlock_keeps {s0 t : State} (h : Keeps s0 t) (d : Nat) (b : Nat) : Keeps s0 (fillBlock t d b) := by
  unfold fillBlock
  try dsimp only
  with_reducible repeat' (first | exact h | assumption | rfl | apply modDevice_keeps | split | intro)

end Sys2Proof.Machine
end

