-- ==== Sys2Proof/Laws/KeepsRows.lean ====
section
/-! SUPPORT. What the operations of these files keep: LifeRows, PowerRows, SelfTestRows, ResetRows, RegisterRows, RingRows, WindowRows, ReadReg. -/

namespace Sys2Proof.Machine

set_option Elab.async false

theorem loadWires_keeps {s0 t : State} (h : Keeps s0 t) (p : Nat) : Keeps s0 (loadWires t p) := by
  unfold loadWires
  try dsimp only
  with_reducible repeat' (first | exact h | assumption | rfl | apply modPart_keeps | apply resumeAll_keeps | apply Keeps.foldPair | apply Keeps.fold | split | (refine Keeps.same ?_ rfl; first | exact h | assumption | apply modPart_keeps | apply resumeAll_keeps | apply Keeps.foldPair | apply Keeps.fold | split) | intro)

theorem slotStarts_keeps {s0 t : State} (h : Keeps s0 t) (k : Nat) (signatureOk : Bool) : Keeps s0 (slotStarts t k signatureOk) := by
  unfold slotStarts
  try dsimp only
  with_reducible repeat' (first | exact h | assumption | rfl | split | (refine Keeps.same ?_ rfl; first | exact h | assumption | split) | intro)

theorem resetJob_keeps {s0 t : State} (h : Keeps s0 t) (p : Nat) : Keeps s0 (resetJob t p) := by
  unfold resetJob
  try dsimp only
  with_reducible repeat' (first | exact h | assumption | rfl | apply modPart_keeps | apply loadWires_keeps | apply freshContexts_keeps | split | intro)

theorem endJob_keeps {s0 t : State} (h : Keeps s0 t) (j : CollarJob) : Keeps s0 (endJob t j) := by
  unfold endJob
  try dsimp only
  with_reducible repeat' (first | exact h | assumption | rfl | apply runCollarDescriptor_keeps | apply endCreate_keeps | apply loadWires_keeps | apply endScrub_keeps | apply endDestroy_keeps | apply resetJob_keeps | apply runExpire_keeps | apply runUpdate_keeps | apply runModuleAttest_keeps | apply signUsage_keeps | split | (refine Keeps.same ?_ rfl; first | exact h | assumption | apply runCollarDescriptor_keeps | apply endCreate_keeps | apply loadWires_keeps | apply endScrub_keeps | apply endDestroy_keeps | apply resetJob_keeps | apply runExpire_keeps | apply runUpdate_keeps | apply runModuleAttest_keeps | apply signUsage_keeps | split) | intro)

theorem slotEnds_keeps {s0 t : State} (h : Keeps s0 t) : Keeps s0 (slotEnds t) := by
  unfold slotEnds
  try dsimp only
  with_reducible repeat' (first | exact h | assumption | rfl | apply endJob_keeps | apply Keeps.foldPair | apply Keeps.fold | split | (refine Keeps.same ?_ rfl; first | exact h | assumption | apply endJob_keeps | apply Keeps.foldPair | apply Keeps.fold | split) | intro)

theorem deriveKeys_keeps {s0 t : State} (h : Keeps s0 t) : Keeps s0 (deriveKeys t) := by
  unfold deriveKeys
  try dsimp only
  with_reducible repeat' (first | exact h | assumption | rfl | apply spendFree_keeps | split | (refine Keeps.same ?_ rfl; first | exact h | assumption | apply spendFree_keeps | split) | intro)

theorem loseD1_keeps {s0 t : State} (h : Keeps s0 t) : Keeps s0 (loseD1 t) := by
  unfold loseD1
  try dsimp only
  with_reducible repeat' (first | exact h | assumption | rfl | apply stallPool_keeps | apply Keeps.foldPair | apply Keeps.fold | split | (refine Keeps.same ?_ rfl; first | exact h | assumption | apply stallPool_keeps | apply Keeps.foldPair | apply Keeps.fold | split) | intro)

theorem burnBoot_keeps {s0 t : State} (h : Keeps s0 t) (set : Bytes) : Keeps s0 (burnBoot t set) := by
  unfold burnBoot
  refine h.withOtp rfl ⟨Nat.le_refl _, ?_, Nat.le_succ _, Nat.le_refl _, fun a => a, fun a => a, ?_, ?_⟩
  · dsimp only
    split
    · exact le_max_left _ _
    · exact Nat.le_refl _
  · exact BitVec.and_self
  · exact BitVec.and_self

theorem measureSet_keeps {s0 t : State} (h : Keeps s0 t) (set : Bytes) (d1 : Bool) : Keeps s0 (measureSet t set d1) := by
  unfold measureSet
  try dsimp only
  with_reducible repeat' (first | exact h | assumption | rfl | split | (refine Keeps.same ?_ rfl; first | exact h | assumption | split) | intro)

theorem bootLoaded_keeps {s0 t : State} (h : Keeps s0 t) (set : Bytes) (followerOk : Bool) : Keeps s0 (bootLoaded t set followerOk) := by
  unfold bootLoaded
  try dsimp only
  with_reducible repeat' (first | exact h | assumption | rfl | apply deriveKeys_keeps | apply measureSet_keeps | apply burnBoot_keeps | apply logFault_keeps | apply loseD1_keeps | split | (refine Keeps.same ?_ rfl; first | exact h | assumption | apply deriveKeys_keeps | apply measureSet_keeps | apply burnBoot_keeps | apply logFault_keeps | apply loseD1_keeps | split) | intro)

theorem bootGo_keeps {s0 t : State} (h : Keeps s0 t) (set : Bytes) (signatureOk : Bool) (followerOk : Bool) : Keeps s0 (bootGo t set signatureOk followerOk) := by
  unfold bootGo
  try dsimp only
  with_reducible repeat' (first | exact h | assumption | rfl | apply bootLoaded_keeps | split | (refine Keeps.same ?_ rfl; first | exact h | assumption | apply bootLoaded_keeps | split) | intro)

theorem submitUpdate_keeps {s0 t : State} (h : Keeps s0 t) (message : Bytes) : Keeps s0 (submitUpdate t message) := by
  unfold submitUpdate
  try dsimp only
  with_reducible repeat' (first | exact h | assumption | rfl | apply collarQueue_keeps | split | (refine Keeps.same ?_ rfl; first | exact h | assumption | apply collarQueue_keeps | split) | intro)

theorem requestAttest_keeps {s0 t : State} (h : Keeps s0 t) (nonce : Bytes) : Keeps s0 (requestAttest t nonce) := by
  unfold requestAttest
  try dsimp only
  with_reducible repeat' (first | exact h | assumption | rfl | apply collarQueue_keeps | split | (refine Keeps.same ?_ rfl; first | exact h | assumption | apply collarQueue_keeps | split) | intro)

theorem armCommand_keeps {s0 t : State} (h : Keeps s0 t) (op : Nat) : Keeps s0 (armCommand t op) := by
  unfold armCommand
  try dsimp only
  with_reducible repeat' (first | exact h | assumption | rfl | split | (refine Keeps.same ?_ rfl; first | exact h | assumption | split) | intro)

theorem disarm_keeps {s0 t : State} (h : Keeps s0 t) : Keeps s0 (disarm t) := by
  unfold disarm
  try dsimp only
  with_reducible repeat' (first | exact h | assumption | rfl | split | (refine Keeps.same ?_ rfl; first | exact h | assumption | split) | intro)

theorem armTimeout_keeps {s0 t : State} (h : Keeps s0 t) : Keeps s0 (armTimeout t) := by
  unfold armTimeout
  try dsimp only
  with_reducible repeat' (first | exact h | assumption | rfl | apply disarm_keeps | apply reach_keeps | split | intro)

theorem blowPattern_keeps {s0 t : State} (h : Keeps s0 t) (checkOk : Bool) : Keeps s0 (blowPattern t checkOk) := by
  unfold blowPattern
  apply endPattern_keeps
  exact h.withOtp rfl ⟨Nat.le_refl _, Nat.le_refl _, Nat.le_refl _, Nat.le_refl _, fun _ => rfl, fun a => a, BitVec.and_self, BitVec.and_self⟩

theorem provision_keeps {s0 t : State} (h : Keeps s0 t) (checkOk : Bool) : Keeps s0 (provision t checkOk) := by
  unfold provision
  try dsimp only
  with_reducible repeat' (first | exact h | assumption | rfl | apply disarm_keeps | apply finishProvision_keeps | apply setReg_keeps | apply blowPattern_keeps | split | intro)

theorem destroyNow_keeps {s0 t : State} (h : Keeps s0 t) (p : Nat) : Keeps s0 (destroyNow t p) := by
  unfold destroyNow
  try dsimp only
  with_reducible repeat' (first | exact h | assumption | rfl | apply finishCommand_keeps | apply setPart_keeps | apply endDestroy_keeps | apply beginDestroy_keeps | split | (refine Keeps.same ?_ rfl; first | exact h | assumption | apply finishCommand_keeps | apply setPart_keeps | apply endDestroy_keeps | apply beginDestroy_keeps | split) | intro)

theorem signWaiting_keeps {s0 t : State} (h : Keeps s0 t) : Keeps s0 (signWaiting t) := by
  unfold signWaiting
  try dsimp only
  with_reducible repeat' (first | exact h | assumption | rfl | apply signUsage_keeps | apply Keeps.foldPair | apply Keeps.fold | split | intro)

theorem code_le_retired (l : LifeCycle) : l.code ≤ LifeCycle.retired.code := by cases l <;> decide

theorem closeRoot_keeps {s0 t : State} (h : Keeps s0 t) : Keeps s0 (closeRoot t) := by
  unfold closeRoot
  exact h.withOtp rfl ⟨code_le_retired _, Nat.le_refl _, Nat.le_refl _, Nat.le_refl _, fun a => a, fun a => a, BitVec.and_self, BitVec.and_self⟩

theorem retire_keeps {s0 t : State} (h : Keeps s0 t) : Keeps s0 (retire t) := by
  unfold retire
  try dsimp only
  with_reducible repeat' (first | exact h | assumption | rfl | apply disarm_keeps | apply closeRoot_keeps | apply signWaiting_keeps | apply destroyNow_keeps | apply Keeps.foldPair | apply Keeps.fold | split | intro)

theorem telemetryLost_keeps {s0 t : State} (h : Keeps s0 t) (rail : Nat) : Keeps s0 (telemetryLost t rail) := by
  unfold telemetryLost
  try dsimp only
  with_reducible repeat' (first | exact h | assumption | rfl | apply spendFree_keeps | apply logFault_keeps | split | intro)

theorem divideAllowance_keeps {s0 t : State} (h : Keeps s0 t) : Keeps s0 (divideAllowance t) := by
  unfold divideAllowance
  try dsimp only
  with_reducible repeat' (first | exact h | assumption | rfl | apply spendFree_keeps | split | (refine Keeps.same ?_ rfl; first | exact h | assumption | apply spendFree_keeps | split) | intro)

theorem powerInterval_keeps {s0 t : State} (h : Keeps s0 t) (rails : List (Option Nat)) : Keeps s0 (powerInterval t rails) := by
  unfold powerInterval
  try dsimp only
  with_reducible repeat' (first | exact h | assumption | rfl | apply telemetryLost_keeps | apply divideAllowance_keeps | apply spendFree_keeps | apply setReasons_keeps | apply Keeps.foldPair | apply Keeps.fold | split | (refine Keeps.same ?_ rfl; first | exact h | assumption | apply telemetryLost_keeps | apply divideAllowance_keeps | apply spendFree_keeps | apply setReasons_keeps | apply Keeps.foldPair | apply Keeps.fold | split) | intro)

theorem readSensors_keeps {s0 t : State} (h : Keeps s0 t) (readings : List Nat) (temps : List Nat) : Keeps s0 (readSensors t readings temps) := by
  unfold readSensors
  try dsimp only
  with_reducible repeat' (first | exact h | assumption | rfl | apply Keeps.foldPair | apply Keeps.fold | split | (refine Keeps.same ?_ rfl; first | exact h | assumption | apply Keeps.foldPair | apply Keeps.fold | split) | intro)

theorem writeOpPoint_keeps {s0 t : State} (h : Keeps s0 t) (v : Nat) : Keeps s0 (writeOpPoint t v) := by
  unfold writeOpPoint
  try dsimp only
  with_reducible repeat' (first | exact h | assumption | rfl | apply setReg_keeps | apply logFault_keeps | split | intro)

theorem signalSlots_keeps {s0 t : State} (h : Keeps s0 t) (t' : Nat) : Keeps s0 (signalSlots t t') := by
  unfold signalSlots
  try dsimp only
  with_reducible repeat' (first | exact h | assumption | rfl | split | (refine Keeps.same ?_ rfl; first | exact h | assumption | split) | intro)

theorem commitStep_keeps {s0 t : State} (h : Keeps s0 t) : Keeps s0 (commitStep t) := by
  unfold commitStep
  try dsimp only
  with_reducible repeat' (first | exact h | assumption | rfl | apply signalSlots_keeps | split | (refine Keeps.same ?_ rfl; first | exact h | assumption | apply signalSlots_keeps | split) | intro)

theorem settleRails_keeps {s0 t : State} (h : Keeps s0 t) : Keeps s0 (settleRails t) := by
  unfold settleRails
  try dsimp only
  with_reducible repeat' (first | exact h | assumption | rfl | apply advanceStep_keeps | apply signalSlots_keeps | split | (refine Keeps.same ?_ rfl; first | exact h | assumption | apply advanceStep_keeps | apply signalSlots_keeps | split) | intro)

theorem switchSlot_keeps {s0 t : State} (h : Keeps s0 t) (n : Nat) : Keeps s0 (switchSlot t n) := by
  unfold switchSlot
  try dsimp only
  with_reducible repeat' (first | exact h | assumption | rfl | apply modSlot_keeps | apply advanceStep_keeps | apply failSlot_keeps | apply setReason_keeps | split | intro)

theorem droopStarts_keeps {s0 t : State} (h : Keeps s0 t) : Keeps s0 (droopStarts t) := by
  unfold droopStarts
  try dsimp only
  with_reducible repeat' (first | exact h | assumption | rfl | apply setReason_keeps | split | (refine Keeps.same ?_ rfl; first | exact h | assumption | apply setReason_keeps | split) | intro)

theorem droopEnds_keeps {s0 t : State} (h : Keeps s0 t) : Keeps s0 (droopEnds t) := by
  unfold droopEnds
  try dsimp only
  with_reducible repeat' (first | exact h | assumption | rfl | apply setReason_keeps | split | (refine Keeps.same ?_ rfl; first | exact h | assumption | apply setReason_keeps | split) | intro)

theorem ageSlot_keeps {s0 t : State} (h : Keeps s0 t) (n : Nat) (r : Nat) : Keeps s0 (ageSlot t n r) := by
  unfold ageSlot
  try dsimp only
  with_reducible repeat' (first | exact h | assumption | rfl | apply modSlot_keeps | split | intro)

theorem predictEnd_keeps {s0 t : State} (h : Keeps s0 t) (engines : Nat) (lanes : Nat) (em : Nat) : Keeps s0 (predictEnd t engines lanes em) := by
  unfold predictEnd
  try dsimp only
  with_reducible repeat' (first | exact h | assumption | rfl | split | (refine Keeps.same ?_ rfl; first | exact h | assumption | split) | intro)

theorem clearRegion_keeps {s0 t : State} (h : Keeps s0 t) (kind : Nat) (index : Nat) : Keeps s0 (clearRegion t kind index) := by
  unfold clearRegion
  try dsimp only
  with_reducible repeat' (first | exact h | assumption | rfl | apply modSlot_keeps | apply modSleeve_keeps | apply clearPockets_keeps | split | intro)

theorem startTest_keeps {s0 t : State} (h : Keeps s0 t) (kind : Nat) (index : Nat) : Keeps s0 (startTest t kind index) := by
  unfold startTest
  try dsimp only
  with_reducible repeat' (first | exact h | assumption | rfl | apply setStatusBits_keeps | apply raiseIrq_keeps | apply clearRegion_keeps | split | (refine Keeps.same ?_ rfl; first | exact h | assumption | apply setStatusBits_keeps | apply raiseIrq_keeps | apply clearRegion_keeps | split) | intro)

theorem startBootTest_keeps {s0 t : State} (h : Keeps s0 t) (kind : Nat) (index : Nat) : Keeps s0 (startBootTest t kind index) := by
  unfold startBootTest
  try dsimp only
  with_reducible repeat' (first | exact h | assumption | rfl | split | (refine Keeps.same ?_ rfl; first | exact h | assumption | split) | intro)

theorem logMark_keeps {s0 t : State} (h : Keeps s0 t) (unitKind : Nat) (unitIndex : Nat) : Keeps s0 (logMark t unitKind unitIndex) := by
  unfold logMark
  try dsimp only
  with_reducible repeat' (first | exact h | assumption | rfl | apply logFault_keeps | split | intro)

theorem markSleeve_keeps {s0 t : State} (h : Keeps s0 t) (v : Nat) : Keeps s0 (markSleeve t v) := by
  unfold markSleeve
  try dsimp only
  with_reducible repeat' (first | exact h | assumption | rfl | apply modSleeve_keeps | apply logMark_keeps | apply logFault_keeps | apply faultPartition_keeps | split | intro)

theorem fusePort_keeps {s0 t : State} (h : Keeps s0 t) (i : Nat) : Keeps s0 (fusePort t i) := by
  unfold fusePort
  exact h.withOtp rfl ⟨Nat.le_refl _, Nat.le_refl _, Nat.le_refl _, Nat.le_refl _, fun a => a, fun a => a, BitVec.and_self, bits_kept _ _⟩

theorem fuseFollower_keeps {s0 t : State} (h : Keeps s0 t) : Keeps s0 (fuseFollower t) := by
  unfold fuseFollower
  exact h.withOtp rfl ⟨Nat.le_refl _, Nat.le_refl _, Nat.le_refl _, Nat.le_refl _, fun a => a, fun a => a, BitVec.and_self, BitVec.and_self⟩

theorem markRegion_keeps {s0 t : State} (h : Keeps s0 t) (kind : Nat) (index : Nat) (units : List Nat) : Keeps s0 (markRegion t kind index units) := by
  unfold markRegion
  try dsimp only
  with_reducible repeat' (first | exact h | assumption | rfl | apply advanceStep_keeps | apply failSlot_keeps | apply logMark_keeps | apply failKeystream_keeps | apply markSleeve_keeps | apply modSleeve_keeps | apply modPort_keeps | apply fusePort_keeps | apply spendFree_keeps | apply moduleFault_keeps | apply fuseFollower_keeps | apply Keeps.foldPair | apply Keeps.fold | split | intro)

theorem reloadKeys_keeps {s0 t : State} (h : Keeps s0 t) (v : Nat) : Keeps s0 (reloadKeys t v) := by
  unfold reloadKeys
  try dsimp only
  with_reducible repeat' (first | exact h | assumption | rfl | apply collarQueue_keeps | apply modSleeve_keeps | split | intro)

theorem completeTest_keeps {s0 t : State} (h : Keeps s0 t) (failed : List Nat) : Keeps s0 (completeTest t failed) := by
  unfold completeTest
  try dsimp only
  with_reducible repeat' (first | exact h | assumption | rfl | apply raiseIrq_keeps | apply reloadKeys_keeps | apply markRegion_keeps | split | (refine Keeps.same ?_ rfl; first | exact h | assumption | apply raiseIrq_keeps | apply reloadKeys_keeps | apply markRegion_keeps | split) | intro)

theorem commandCompute_keeps {s0 t : State} (h : Keeps s0 t) : Keeps s0 (commandCompute t) := by
  unfold commandCompute
  try dsimp only
  with_reducible repeat' (first | exact h | assumption | rfl | apply requestCompute_keeps | split | intro)

theorem moduleFaultCode_keeps {s0 t : State} (h : Keeps s0 t) (code : Nat) : Keeps s0 (moduleFaultCode t code) := by
  unfold moduleFaultCode
  try dsimp only
  with_reducible repeat' (first | exact h | assumption | rfl | apply moduleFault_keeps | split | intro)

theorem trip_keeps {s0 t : State} (h : Keeps s0 t) : Keeps s0 (trip t) := by
  unfold trip
  try dsimp only
  with_reducible repeat' (first | exact h | assumption | rfl | apply setReason_keeps | apply setEngineRails_keeps | apply logFault_keeps | apply endFlights_keeps | apply chargePasses_keeps | apply Keeps.foldPair | apply Keeps.fold | split | (refine Keeps.same ?_ rfl; first | exact h | assumption | apply setReason_keeps | apply setEngineRails_keeps | apply logFault_keeps | apply endFlights_keeps | apply chargePasses_keeps | apply Keeps.foldPair | apply Keeps.fold | split) | intro)

theorem cooled_keeps {s0 t : State} (h : Keeps s0 t) : Keeps s0 (cooled t) := by
  unfold cooled
  try dsimp only
  with_reducible repeat' (first | exact h | assumption | rfl | apply requestCompute_keeps | split | intro)

theorem powerUp_keeps {s0 t : State} (h : Keeps s0 t) : Keeps s0 (powerUp t) := by
  unfold powerUp
  try dsimp only
  with_reducible repeat' (first | exact h | assumption | rfl | apply freshModule_keeps | split | (refine Keeps.same ?_ rfl; first | exact h | assumption | apply freshModule_keeps | split) | intro)

theorem railsOff_keeps {s0 t : State} (h : Keeps s0 t) (fault : Bool) : Keeps s0 (railsOff t fault) := by
  unfold railsOff
  try dsimp only
  with_reducible repeat' (first | exact h | assumption | rfl | apply freshModule_keeps | split | (refine Keeps.same ?_ rfl; first | exact h | assumption | apply freshModule_keeps | split) | intro)

theorem resetPulse_keeps {s0 t : State} (h : Keeps s0 t) (lowNs : Nat) : Keeps s0 (resetPulse t lowNs) := by
  unfold resetPulse
  try dsimp only
  with_reducible repeat' (first | exact h | assumption | rfl | apply freshModule_keeps | apply elapse_keeps | split | intro)

theorem startEntropy_keeps {s0 t : State} (h : Keeps s0 t) : Keeps s0 (startEntropy t) := by
  unfold startEntropy
  try dsimp only
  with_reducible repeat' (first | exact h | assumption | rfl | apply poolTo_keeps | apply Keeps.foldPair | apply Keeps.fold | split | (refine Keeps.same ?_ rfl; first | exact h | assumption | apply poolTo_keeps | apply Keeps.foldPair | apply Keeps.fold | split) | intro)

theorem trainDevice_keeps {s0 t : State} (h : Keeps s0 t) (d : Nat) : Keeps s0 (trainDevice t d) := by
  unfold trainDevice
  try dsimp only
  with_reducible repeat' (first | exact h | assumption | rfl | apply spendFree_keeps | split | (refine Keeps.same ?_ rfl; first | exact h | assumption | apply spendFree_keeps | split) | intro)

theorem moduleReset_keeps {s0 t : State} (h : Keeps s0 t) : Keeps s0 (moduleReset t) := by
  unfold moduleReset
  try dsimp only
  with_reducible repeat' (first | exact h | assumption | rfl | apply freshModule_keeps | apply startEntropy_keeps | apply mapAll_keeps | apply zeroPockets_keeps | apply trainDevice_keeps | apply Keeps.foldPair | apply Keeps.fold | split | (refine Keeps.same ?_ rfl; first | exact h | assumption | apply freshModule_keeps | apply startEntropy_keeps | apply mapAll_keeps | apply zeroPockets_keeps | apply trainDevice_keeps | apply Keeps.foldPair | apply Keeps.fold | split) | intro)

theorem writeGlbLock_keeps {s0 t : State} (h : Keeps s0 t) (v : Nat) : Keeps s0 (writeGlbLock t v) := by
  unfold writeGlbLock
  try dsimp only
  with_reducible repeat' (first | exact h | assumption | rfl | apply setReg_keeps | split | intro)

theorem writeRingLock_keeps {s0 t : State} (h : Keeps s0 t) (p : Nat) (v : Nat) : Keeps s0 (writeRingLock t p v) := by
  unfold writeRingLock
  try dsimp only
  with_reducible repeat' (first | exact h | assumption | rfl | apply setReg_keeps | split | intro)

theorem refuseRing_keeps {s0 t : State} (h : Keeps s0 t) (p : Nat) (r : Nat) : Keeps s0 (refuseRing t p r) := by
  unfold refuseRing
  try dsimp only
  with_reducible repeat' (first | exact h | assumption | rfl | apply logFault_keeps | split | intro)

theorem writeSqCtrl_keeps {s0 t : State} (h : Keeps s0 t) (p : Nat) (r : Nat) (v : Nat) : Keeps s0 (writeSqCtrl t p r v) := by
  unfold writeSqCtrl
  try dsimp only
  with_reducible repeat' (first | exact h | assumption | rfl | apply setReg_keeps | apply modSq_keeps | apply invalidate_keeps | apply refuseRing_keeps | split | intro)

theorem writeCqCtrl_keeps {s0 t : State} (h : Keeps s0 t) (p : Nat) (r : Nat) (v : Nat) : Keeps s0 (writeCqCtrl t p r v) := by
  unfold writeCqCtrl
  try dsimp only
  with_reducible repeat' (first | exact h | assumption | rfl | apply setReg_keeps | apply emit_keeps | apply countCcl_keeps | apply settleFences_keeps | apply drainHeld_keeps | apply refuseRing_keeps | split | intro)

theorem writeRingCtrl_keeps {s0 t : State} (h : Keeps s0 t) (p : Nat) (cq : Bool) (r : Nat) (v : Nat) : Keeps s0 (writeRingCtrl t p cq r v) := by
  unfold writeRingCtrl
  try dsimp only
  with_reducible repeat' (first | exact h | assumption | rfl | apply refuseAccess_keeps | apply writeCqCtrl_keeps | apply writeSqCtrl_keeps | split | intro)

theorem writeCounter_keeps {s0 t : State} (h : Keeps s0 t) (i : Nat) (v : Nat) : Keeps s0 (writeCounter t i v) := by
  unfold writeCounter
  try dsimp only
  with_reducible repeat' (first | exact h | assumption | rfl | split | (refine Keeps.same ?_ rfl; first | exact h | assumption | split) | intro)

theorem writeField_keeps {s0 : State} (r : Reg) (w : Written) {acc : State × Bool} (f : FieldMap) (h : Keeps s0 acc.1) :
    Keeps s0 (writeField r w acc f).1 := by
  unfold writeField
  dsimp only
  with_reducible repeat' (first | exact h | split | apply setReg_keeps | apply logFault_keeps)

theorem writeFields_keeps {s0 t : State} (h : Keeps s0 t) (r : Reg) (w : Written) : Keeps s0 (writeFields t r w) := by
  unfold writeFields
  try dsimp only
  with_reducible repeat' (first | exact h | assumption | rfl | apply writeField_keeps | apply refuseAccess_keeps | apply Keeps.foldPair | apply Keeps.fold | split | intro)

theorem writeSlots_keeps {s0 t : State} (h : Keeps s0 t) (r : Reg) (transit : Bool) (w : Written) : Keeps s0 (writeSlots t r transit w) := by
  unfold writeSlots
  try dsimp only
  with_reducible repeat' (first | exact h | assumption | rfl | apply setReg_keeps | apply Keeps.foldPair | apply Keeps.fold | split | intro)

theorem writeRoutes_keeps {s0 t : State} (h : Keeps s0 t) (n : Nat) (w : Written) : Keeps s0 (writeRoutes t n w) := by
  unfold writeRoutes
  try dsimp only
  with_reducible repeat' (first | exact h | assumption | rfl | apply Keeps.foldPair | apply Keeps.fold | split | (refine Keeps.same ?_ rfl; first | exact h | assumption | apply Keeps.foldPair | apply Keeps.fold | split) | intro)

theorem writeLifeCycle_keeps {s0 t : State} (h : Keeps s0 t) (v : Nat) : Keeps s0 (writeLifeCycle t v) := by
  unfold writeLifeCycle
  try dsimp only
  with_reducible repeat' (first | exact h | assumption | rfl | apply armCommand_keeps | apply spendFree_keeps | apply provision_keeps | apply retire_keeps | apply disarm_keeps | split | intro)

theorem writePtnCmd_keeps {s0 t : State} (h : Keeps s0 t) (v : Nat) : Keeps s0 (writePtnCmd t v) := by
  unfold writePtnCmd
  try dsimp only
  with_reducible repeat' (first | exact h | assumption | rfl | apply setReg_keeps | apply commandLost_keeps | apply spendFree_keeps | apply commandCreate_keeps | apply commandScrub_keeps | apply commandDestroy_keeps | apply commandReset_keeps | apply refuseAccess_keeps | split | intro)

theorem writeFltReset_keeps {s0 t : State} (h : Keeps s0 t) (v : Nat) : Keeps s0 (writeFltReset t v) := by
  unfold writeFltReset
  try dsimp only
  with_reducible repeat' (first | exact h | assumption | rfl | apply commandCompute_keeps | apply commandedReset_keeps | apply refuseAccess_keeps | split | (refine Keeps.same ?_ rfl; first | exact h | assumption | apply commandCompute_keeps | apply commandedReset_keeps | apply refuseAccess_keeps | split) | intro)

theorem writeQpCmd_keeps {s0 t : State} (h : Keeps s0 t) (p : Nat) (v : Nat) : Keeps s0 (writeQpCmd t p v) := by
  unfold writeQpCmd
  try dsimp only
  with_reducible repeat' (first | exact h | assumption | rfl | apply createQp_keeps | apply reinitQp_keeps | apply destroyQp_keeps | split | intro)

theorem writeSpAction_keeps {s0 t : State} (h : Keeps s0 t) (p : Nat) (k : Nat) (v : Nat) : Keeps s0 (writeSpAction t p k v) := by
  unfold writeSpAction
  try dsimp only
  with_reducible repeat' (first | exact h | assumption | rfl | apply enableSpace_keeps | apply revokeSpace_keeps | apply writeSpCtrl_keeps | apply releaseSpace_keeps | split | intro)

theorem writePortCtrl_keeps {s0 t : State} (h : Keeps s0 t) (i : Nat) (v : Nat) : Keeps s0 (writePortCtrl t i v) := by
  unfold writePortCtrl
  try dsimp only
  with_reducible repeat' (first | exact h | assumption | rfl | apply enablePort_keeps | apply commandRetrain_keeps | split | intro)

theorem writeBst_keeps {s0 t : State} (h : Keeps s0 t) (w : Written) : Keeps s0 (writeBst t w) := by
  unfold writeBst
  try dsimp only
  with_reducible repeat' (first | exact h | assumption | rfl | apply startTest_keeps | apply writeFields_keeps | split | intro)

theorem writeColGo_keeps {s0 t : State} (h : Keeps s0 t) (r : Reg) (w : Written) : Keeps s0 (writeColGo t r w) := by
  unfold writeColGo
  try dsimp only
  with_reducible repeat' (first | exact h | assumption | rfl | apply spendFree_keeps | apply bootGo_keeps | apply submitUpdate_keeps | apply requestAttest_keeps | split | intro)

theorem afterFields_keeps {s0 t : State} (h : Keeps s0 t) (r : Reg) (w : Written) : Keeps s0 (afterFields t r w) := by
  unfold afterFields
  try dsimp only
  with_reducible repeat' (first | exact h | assumption | rfl | apply drainMeter_keeps | apply growDie_keeps | apply flushQueue_keeps | apply writeColGo_keeps | split | (refine Keeps.same ?_ rfl; first | exact h | assumption | apply drainMeter_keeps | apply growDie_keeps | apply flushQueue_keeps | apply writeColGo_keeps | split) | intro)

theorem writeAction_keeps {s0 t u : State} (h : Keeps s0 t) (r : Reg) (v : Nat) (hu : writeAction t r v = some u) : Keeps s0 u := by
  unfold writeAction at hu
  split at hu <;> cases hu <;> with_reducible repeat' (first | exact h | split | apply writeGlbLock_keeps | apply writeSource_keeps | apply snapTime_keeps | apply writeLifeCycle_keeps | apply writeOpPoint_keeps | apply spendFree_keeps | apply writePtnCmd_keeps | apply writeFltReset_keeps | apply writeRingCtrl_keeps | apply writeRingLock_keeps | apply writeQpCmd_keeps | apply bindPd_keeps | apply writeSpAction_keeps | apply writeDim_keeps | apply swapTables_keeps | apply writePortCtrl_keeps)

theorem writeReg_keeps {s0 t : State} (h : Keeps s0 t) (r : Reg) (w : Written) : Keeps s0 (writeReg t r w) := by
  unfold writeReg
  split
  · rename_i u hu
    split at hu
    · exact writeAction_keeps h r _ hu
    · split at hu
      · cases hu; exact h
      · cases hu
  · with_reducible repeat' (first | exact h | split | apply writeTod_keeps | apply writePattern_keeps | apply writeBst_keeps | apply writeCounter_keeps | apply writeSlots_keeps | apply writeRoutes_keeps | apply afterFields_keeps | apply writeFields_keeps)

theorem registerWrite_keeps {s0 t : State} (h : Keeps s0 t) (offset : Nat) (size : Nat) (v : Nat) : Keeps s0 (registerWrite t offset size v) := by
  unfold registerWrite
  try dsimp only
  with_reducible repeat' (first | exact h | assumption | rfl | apply refuseAccess_keeps | apply writeReg_keeps | split | intro)

theorem windowAccess_keeps {s0 t : State} (h : Keeps s0 t) (addr : Nat) (data : Option Bytes) (uncorrectable : Bool) : Keeps s0 (windowAccess t addr data uncorrectable) := by
  unfold windowAccess
  try dsimp only
  with_reducible repeat' (first | exact h | assumption | rfl | apply logFault_keeps | apply countCcl_keeps | apply countDram_keeps | apply spendFree_keeps | apply emit_keeps | apply pwrite_keeps | split | intro)

theorem moderationExpired_keeps {s0 t : State} (h : Keeps s0 t) (p : Nat) (c : Nat) : Keeps s0 (moderationExpired t p c) := by
  unfold moderationExpired
  try dsimp only
  with_reducible repeat' (first | exact h | assumption | rfl | apply cqInterrupt_keeps | apply reach_keeps | split | intro)

theorem creditReturn_keeps {s0 t : State} (h : Keeps s0 t) (p : Nat) (c : Nat) (consumed : Nat) : Keeps s0 (creditReturn t p c consumed) := by
  unfold creditReturn
  try dsimp only
  with_reducible repeat' (first | exact h | assumption | rfl | apply emit_keeps | apply settleFences_keeps | apply drainHeld_keeps | apply modCq_keeps | apply countCcl_keeps | split | intro)

theorem windowsMoved_keeps {s0 t : State} (h : Keeps s0 t) (p : Nat) : Keeps s0 (windowsMoved t p) := by
  unfold windowsMoved
  try dsimp only
  with_reducible repeat' (first | exact h | assumption | rfl | apply resumeOpens_keeps | apply resumeAll_keeps | apply resumeLanding_keeps | split | intro)

theorem sendFrame_keeps {s0 t : State} (h : Keeps s0 t) : Keeps s0 (sendFrame t) := by
  unfold sendFrame
  try dsimp only
  with_reducible repeat' (first | exact h | assumption | rfl | apply emit_keeps | split | intro)

end Sys2Proof.Machine
end

