-- ==== Sys2Proof/Laws/KeepsStep.lean ====
section
/-! SUPPORT. What every command, and so every step, keeps. -/

namespace Sys2Proof.Machine

set_option Elab.async false

theorem execNop_keeps {s t : State} (h : DescHdr) (h : execNop h s = .next t) : Keeps s t := by
  unfold execNop at h
  try dsimp only at h
  repeat' split at h
  all_goals obtain rfl := Host.Outcome.next.inj h
  all_goals with_reducible repeat' (first | exact Keeps.refl _ | apply dispatchDesc_keeps | split | assumption | intro)

theorem execFence_keeps {s t : State} (h : DescHdr) (o : FenceOps) (h : execFence h o s = .next t) : Keeps s t := by
  unfold execFence at h
  try dsimp only at h
  repeat' split at h
  all_goals obtain rfl := Host.Outcome.next.inj h
  all_goals with_reducible repeat' (first | exact Keeps.refl _ | apply dispatchDesc_keeps | split | assumption | intro)

theorem execWaitFt_keeps {s t : State} (h : DescHdr) (o : WaitFtOps) (h : execWaitFt h o s = .next t) : Keeps s t := by
  unfold execWaitFt at h
  try dsimp only at h
  repeat' split at h
  all_goals obtain rfl := Host.Outcome.next.inj h
  all_goals with_reducible repeat' (first | exact Keeps.refl _ | apply dispatchDesc_keeps | split | assumption | intro)

theorem execHint_keeps {s t : State} (h : DescHdr) (o : HintOps) (h : execHint h o s = .next t) : Keeps s t := by
  unfold execHint at h
  try dsimp only at h
  repeat' split at h
  all_goals obtain rfl := Host.Outcome.next.inj h
  all_goals with_reducible repeat' (first | exact Keeps.refl _ | apply dispatchDesc_keeps | split | assumption | intro)

theorem execCopy_keeps {s t : State} (h : DescHdr) (o : MoveOps) (h : execCopy h o s = .next t) : Keeps s t := by
  unfold execCopy at h
  try dsimp only at h
  repeat' split at h
  all_goals obtain rfl := Host.Outcome.next.inj h
  all_goals with_reducible repeat' (first | exact Keeps.refl _ | apply dispatchDesc_keeps | split | assumption | intro)

theorem execFill_keeps {s t : State} (h : DescHdr) (o : MoveOps) (h : execFill h o s = .next t) : Keeps s t := by
  unfold execFill at h
  try dsimp only at h
  repeat' split at h
  all_goals obtain rfl := Host.Outcome.next.inj h
  all_goals with_reducible repeat' (first | exact Keeps.refl _ | apply dispatchDesc_keeps | split | assumption | intro)

theorem execWindowOpen_keeps {s t : State} (h : DescHdr) (o : WindowOpenOps) (h : execWindowOpen h o s = .next t) : Keeps s t := by
  unfold execWindowOpen at h
  try dsimp only at h
  repeat' split at h
  all_goals obtain rfl := Host.Outcome.next.inj h
  all_goals with_reducible repeat' (first | exact Keeps.refl _ | apply dispatchDesc_keeps | split | assumption | intro)

theorem execWindowClose_keeps {s t : State} (h : DescHdr) (o : WindowCloseOps) (h : execWindowClose h o s = .next t) : Keeps s t := by
  unfold execWindowClose at h
  try dsimp only at h
  repeat' split at h
  all_goals obtain rfl := Host.Outcome.next.inj h
  all_goals with_reducible repeat' (first | exact Keeps.refl _ | apply dispatchDesc_keeps | split | assumption | intro)

theorem execIngest_keeps {s t : State} (h : DescHdr) (o : IngestOps) (h : execIngest h o s = .next t) : Keeps s t := by
  unfold execIngest at h
  try dsimp only at h
  repeat' split at h
  all_goals obtain rfl := Host.Outcome.next.inj h
  all_goals with_reducible repeat' (first | exact Keeps.refl _ | apply dispatchDesc_keeps | split | assumption | intro)

theorem execAccumulate_keeps {s t : State} (h : DescHdr) (o : AccOps) (h : execAccumulate h o s = .next t) : Keeps s t := by
  unfold execAccumulate at h
  try dsimp only at h
  repeat' split at h
  all_goals obtain rfl := Host.Outcome.next.inj h
  all_goals with_reducible repeat' (first | exact Keeps.refl _ | apply dispatchDesc_keeps | split | assumption | intro)

theorem execAccDrain_keeps {s t : State} (h : DescHdr) (o : DrainOps) (h : execAccDrain h o s = .next t) : Keeps s t := by
  unfold execAccDrain at h
  try dsimp only at h
  repeat' split at h
  all_goals obtain rfl := Host.Outcome.next.inj h
  all_goals with_reducible repeat' (first | exact Keeps.refl _ | apply dispatchDesc_keeps | split | assumption | intro)

theorem execStatsSumsq_keeps {s t : State} (h : DescHdr) (o : StatsOps) (h : execStatsSumsq h o s = .next t) : Keeps s t := by
  unfold execStatsSumsq at h
  try dsimp only at h
  repeat' split at h
  all_goals obtain rfl := Host.Outcome.next.inj h
  all_goals with_reducible repeat' (first | exact Keeps.refl _ | apply dispatchDesc_keeps | split | assumption | intro)

theorem execStatsMoments_keeps {s t : State} (h : DescHdr) (o : StatsOps) (h : execStatsMoments h o s = .next t) : Keeps s t := by
  unfold execStatsMoments at h
  try dsimp only at h
  repeat' split at h
  all_goals obtain rfl := Host.Outcome.next.inj h
  all_goals with_reducible repeat' (first | exact Keeps.refl _ | apply dispatchDesc_keeps | split | assumption | intro)

theorem execStatsFinish_keeps {s t : State} (h : DescHdr) (o : StatsOps) (h : execStatsFinish h o s = .next t) : Keeps s t := by
  unfold execStatsFinish at h
  try dsimp only at h
  repeat' split at h
  all_goals obtain rfl := Host.Outcome.next.inj h
  all_goals with_reducible repeat' (first | exact Keeps.refl _ | apply dispatchDesc_keeps | split | assumption | intro)

theorem execStatsRsqrt_keeps {s t : State} (h : DescHdr) (o : StatsOps) (h : execStatsRsqrt h o s = .next t) : Keeps s t := by
  unfold execStatsRsqrt at h
  try dsimp only at h
  repeat' split at h
  all_goals obtain rfl := Host.Outcome.next.inj h
  all_goals with_reducible repeat' (first | exact Keeps.refl _ | apply dispatchDesc_keeps | split | assumption | intro)

theorem execRank_keeps {s t : State} (h : DescHdr) (o : RankOps) (h : execRank h o s = .next t) : Keeps s t := by
  unfold execRank at h
  try dsimp only at h
  repeat' split at h
  all_goals obtain rfl := Host.Outcome.next.inj h
  all_goals with_reducible repeat' (first | exact Keeps.refl _ | apply dispatchDesc_keeps | split | assumption | intro)

theorem execZipSend_keeps {s t : State} (h : DescHdr) (o : ZipSendOps) (h : execZipSend h o s = .next t) : Keeps s t := by
  unfold execZipSend at h
  try dsimp only at h
  repeat' split at h
  all_goals obtain rfl := Host.Outcome.next.inj h
  all_goals with_reducible repeat' (first | exact Keeps.refl _ | apply dispatchDesc_keeps | split | assumption | intro)

theorem execZipRecv_keeps {s t : State} (h : DescHdr) (o : ZipRecvOps) (h : execZipRecv h o s = .next t) : Keeps s t := by
  unfold execZipRecv at h
  try dsimp only at h
  repeat' split at h
  all_goals obtain rfl := Host.Outcome.next.inj h
  all_goals with_reducible repeat' (first | exact Keeps.refl _ | apply dispatchDesc_keeps | split | assumption | intro)

theorem execMaskExpand_keeps {s t : State} (h : DescHdr) (o : MaskOps) (h : execMaskExpand h o s = .next t) : Keeps s t := by
  unfold execMaskExpand at h
  try dsimp only at h
  repeat' split at h
  all_goals obtain rfl := Host.Outcome.next.inj h
  all_goals with_reducible repeat' (first | exact Keeps.refl _ | apply dispatchDesc_keeps | split | assumption | intro)

theorem execShareRecon_keeps {s t : State} (h : DescHdr) (o : ShareOps) (h : execShareRecon h o s = .next t) : Keeps s t := by
  unfold execShareRecon at h
  try dsimp only at h
  repeat' split at h
  all_goals obtain rfl := Host.Outcome.next.inj h
  all_goals with_reducible repeat' (first | exact Keeps.refl _ | apply dispatchDesc_keeps | split | assumption | intro)

theorem execSeedDeriveGraph_keeps {s t : State} (h : DescHdr) (o : SeedOps) (h : execSeedDeriveGraph h o s = .next t) : Keeps s t := by
  unfold execSeedDeriveGraph at h
  try dsimp only at h
  repeat' split at h
  all_goals obtain rfl := Host.Outcome.next.inj h
  all_goals with_reducible repeat' (first | exact Keeps.refl _ | apply dispatchDesc_keeps | split | assumption | intro)

theorem execSeedDeriveDerive_keeps {s t : State} (h : DescHdr) (o : SeedOps) (h : execSeedDeriveDerive h o s = .next t) : Keeps s t := by
  unfold execSeedDeriveDerive at h
  try dsimp only at h
  repeat' split at h
  all_goals obtain rfl := Host.Outcome.next.inj h
  all_goals with_reducible repeat' (first | exact Keeps.refl _ | apply dispatchDesc_keeps | split | assumption | intro)

theorem execNtt_keeps {s t : State} (h : DescHdr) (o : NttOps) (h : execNtt h o s = .next t) : Keeps s t := by
  unfold execNtt at h
  try dsimp only at h
  repeat' split at h
  all_goals obtain rfl := Host.Outcome.next.inj h
  all_goals with_reducible repeat' (first | exact Keeps.refl _ | apply dispatchDesc_keeps | split | assumption | intro)

theorem execIntt_keeps {s t : State} (h : DescHdr) (o : NttOps) (h : execIntt h o s = .next t) : Keeps s t := by
  unfold execIntt at h
  try dsimp only at h
  repeat' split at h
  all_goals obtain rfl := Host.Outcome.next.inj h
  all_goals with_reducible repeat' (first | exact Keeps.refl _ | apply dispatchDesc_keeps | split | assumption | intro)

theorem execPmulMul_keeps {s t : State} (h : DescHdr) (o : PmulOps) (h : execPmulMul h o s = .next t) : Keeps s t := by
  unfold execPmulMul at h
  try dsimp only at h
  repeat' split at h
  all_goals obtain rfl := Host.Outcome.next.inj h
  all_goals with_reducible repeat' (first | exact Keeps.refl _ | apply dispatchDesc_keeps | split | assumption | intro)

theorem execPmulMac_keeps {s t : State} (h : DescHdr) (o : PmulOps) (h : execPmulMac h o s = .next t) : Keeps s t := by
  unfold execPmulMac at h
  try dsimp only at h
  repeat' split at h
  all_goals obtain rfl := Host.Outcome.next.inj h
  all_goals with_reducible repeat' (first | exact Keeps.refl _ | apply dispatchDesc_keeps | split | assumption | intro)

theorem execPmulSmul_keeps {s t : State} (h : DescHdr) (o : PmulOps) (h : execPmulSmul h o s = .next t) : Keeps s t := by
  unfold execPmulSmul at h
  try dsimp only at h
  repeat' split at h
  all_goals obtain rfl := Host.Outcome.next.inj h
  all_goals with_reducible repeat' (first | exact Keeps.refl _ | apply dispatchDesc_keeps | split | assumption | intro)

theorem execPmulFxmul_keeps {s t : State} (h : DescHdr) (o : PmulOps) (h : execPmulFxmul h o s = .next t) : Keeps s t := by
  unfold execPmulFxmul at h
  try dsimp only at h
  repeat' split at h
  all_goals obtain rfl := Host.Outcome.next.inj h
  all_goals with_reducible repeat' (first | exact Keeps.refl _ | apply dispatchDesc_keeps | split | assumption | intro)

theorem execBaseconv_keeps {s t : State} (h : DescHdr) (o : BaseOps) (h : execBaseconv h o s = .next t) : Keeps s t := by
  unfold execBaseconv at h
  try dsimp only at h
  repeat' split at h
  all_goals obtain rfl := Host.Outcome.next.inj h
  all_goals with_reducible repeat' (first | exact Keeps.refl _ | apply dispatchDesc_keeps | split | assumption | intro)

theorem execCtAddFold_keeps {s t : State} (h : DescHdr) (o : CtAddOps) (h : execCtAddFold h o s = .next t) : Keeps s t := by
  unfold execCtAddFold at h
  try dsimp only at h
  repeat' split at h
  all_goals obtain rfl := Host.Outcome.next.inj h
  all_goals with_reducible repeat' (first | exact Keeps.refl _ | apply dispatchDesc_keeps | split | assumption | intro)

theorem execCtAddAdd_keeps {s t : State} (h : DescHdr) (o : CtAddOps) (h : execCtAddAdd h o s = .next t) : Keeps s t := by
  unfold execCtAddAdd at h
  try dsimp only at h
  repeat' split at h
  all_goals obtain rfl := Host.Outcome.next.inj h
  all_goals with_reducible repeat' (first | exact Keeps.refl _ | apply dispatchDesc_keeps | split | assumption | intro)

theorem execCtAddSub_keeps {s t : State} (h : DescHdr) (o : CtAddOps) (h : execCtAddSub h o s = .next t) : Keeps s t := by
  unfold execCtAddSub at h
  try dsimp only at h
  repeat' split at h
  all_goals obtain rfl := Host.Outcome.next.inj h
  all_goals with_reducible repeat' (first | exact Keeps.refl _ | apply dispatchDesc_keeps | split | assumption | intro)

theorem execKeyswitch_keeps {s t : State} (h : DescHdr) (o : KsOps) (h : execKeyswitch h o s = .next t) : Keeps s t := by
  unfold execKeyswitch at h
  try dsimp only at h
  repeat' split at h
  all_goals obtain rfl := Host.Outcome.next.inj h
  all_goals with_reducible repeat' (first | exact Keeps.refl _ | apply dispatchDesc_keeps | split | assumption | intro)

theorem execRotate_keeps {s t : State} (h : DescHdr) (o : KsOps) (h : execRotate h o s = .next t) : Keeps s t := by
  unfold execRotate at h
  try dsimp only at h
  repeat' split at h
  all_goals obtain rfl := Host.Outcome.next.inj h
  all_goals with_reducible repeat' (first | exact Keeps.refl _ | apply dispatchDesc_keeps | split | assumption | intro)

theorem execRescale_keeps {s t : State} (h : DescHdr) (o : RescaleOps) (h : execRescale h o s = .next t) : Keeps s t := by
  unfold execRescale at h
  try dsimp only at h
  repeat' split at h
  all_goals obtain rfl := Host.Outcome.next.inj h
  all_goals with_reducible repeat' (first | exact Keeps.refl _ | apply dispatchDesc_keeps | split | assumption | intro)

theorem execModswitch_keeps {s t : State} (h : DescHdr) (o : RescaleOps) (h : execModswitch h o s = .next t) : Keeps s t := by
  unfold execModswitch at h
  try dsimp only at h
  repeat' split at h
  all_goals obtain rfl := Host.Outcome.next.inj h
  all_goals with_reducible repeat' (first | exact Keeps.refl _ | apply dispatchDesc_keeps | split | assumption | intro)

theorem execPartialDec_keeps {s t : State} (h : DescHdr) (o : PartialOps) (h : execPartialDec h o s = .next t) : Keeps s t := by
  unfold execPartialDec at h
  try dsimp only at h
  repeat' split at h
  all_goals obtain rfl := Host.Outcome.next.inj h
  all_goals with_reducible repeat' (first | exact Keeps.refl _ | apply dispatchDesc_keeps | split | assumption | intro)

theorem execKemDecapSealed_keeps {s t : State} (h : DescHdr) (o : KemOps) (h : execKemDecapSealed h o s = .next t) : Keeps s t := by
  unfold execKemDecapSealed at h
  try dsimp only at h
  repeat' split at h
  all_goals obtain rfl := Host.Outcome.next.inj h
  all_goals with_reducible repeat' (first | exact Keeps.refl _ | apply dispatchDesc_keeps | split | assumption | intro)

theorem execKemDecapBundle_keeps {s t : State} (h : DescHdr) (o : KemOps) (h : execKemDecapBundle h o s = .next t) : Keeps s t := by
  unfold execKemDecapBundle at h
  try dsimp only at h
  repeat' split at h
  all_goals obtain rfl := Host.Outcome.next.inj h
  all_goals with_reducible repeat' (first | exact Keeps.refl _ | apply dispatchDesc_keeps | split | assumption | intro)

theorem execSealedOpen_keeps {s t : State} (h : DescHdr) (o : SealedOps) (h : execSealedOpen h o s = .next t) : Keeps s t := by
  unfold execSealedOpen at h
  try dsimp only at h
  repeat' split at h
  all_goals obtain rfl := Host.Outcome.next.inj h
  all_goals with_reducible repeat' (first | exact Keeps.refl _ | apply dispatchDesc_keeps | split | assumption | intro)

theorem execClip_keeps {s t : State} (h : DescHdr) (o : SealedOps) (h : execClip h o s = .next t) : Keeps s t := by
  unfold execClip at h
  try dsimp only at h
  repeat' split at h
  all_goals obtain rfl := Host.Outcome.next.inj h
  all_goals with_reducible repeat' (first | exact Keeps.refl _ | apply dispatchDesc_keeps | split | assumption | intro)

theorem execDpNoise_keeps {s t : State} (h : DescHdr) (o : NoiseOps) (h : execDpNoise h o s = .next t) : Keeps s t := by
  unfold execDpNoise at h
  try dsimp only at h
  repeat' split at h
  all_goals obtain rfl := Host.Outcome.next.inj h
  all_goals with_reducible repeat' (first | exact Keeps.refl _ | apply dispatchDesc_keeps | split | assumption | intro)

theorem execReleaseAggregate_keeps {s t : State} (h : DescHdr) (o : ReleaseOps) (h : execReleaseAggregate h o s = .next t) : Keeps s t := by
  unfold execReleaseAggregate at h
  try dsimp only at h
  repeat' split at h
  all_goals obtain rfl := Host.Outcome.next.inj h
  all_goals with_reducible repeat' (first | exact Keeps.refl _ | apply dispatchDesc_keeps | split | assumption | intro)

theorem execReleaseShare_keeps {s t : State} (h : DescHdr) (o : ReleaseOps) (h : execReleaseShare h o s = .next t) : Keeps s t := by
  unfold execReleaseShare at h
  try dsimp only at h
  repeat' split at h
  all_goals obtain rfl := Host.Outcome.next.inj h
  all_goals with_reducible repeat' (first | exact Keeps.refl _ | apply dispatchDesc_keeps | split | assumption | intro)

theorem execRmaWrite_keeps {s t : State} (h : DescHdr) (o : RmaOps) (h : execRmaWrite h o s = .next t) : Keeps s t := by
  unfold execRmaWrite at h
  try dsimp only at h
  repeat' split at h
  all_goals obtain rfl := Host.Outcome.next.inj h
  all_goals with_reducible repeat' (first | exact Keeps.refl _ | apply dispatchDesc_keeps | split | assumption | intro)

theorem execRmaRead_keeps {s t : State} (h : DescHdr) (o : RmaOps) (h : execRmaRead h o s = .next t) : Keeps s t := by
  unfold execRmaRead at h
  try dsimp only at h
  repeat' split at h
  all_goals obtain rfl := Host.Outcome.next.inj h
  all_goals with_reducible repeat' (first | exact Keeps.refl _ | apply dispatchDesc_keeps | split | assumption | intro)

theorem execRmaAdd_keeps {s t : State} (h : DescHdr) (o : RmaOps) (h : execRmaAdd h o s = .next t) : Keeps s t := by
  unfold execRmaAdd at h
  try dsimp only at h
  repeat' split at h
  all_goals obtain rfl := Host.Outcome.next.inj h
  all_goals with_reducible repeat' (first | exact Keeps.refl _ | apply dispatchDesc_keeps | split | assumption | intro)

theorem execAttest_keeps {s t : State} (h : DescHdr) (o : AttestOps) (h : execAttest h o s = .next t) : Keeps s t := by
  unfold execAttest at h
  try dsimp only at h
  repeat' split at h
  all_goals obtain rfl := Host.Outcome.next.inj h
  all_goals with_reducible repeat' (first | exact Keeps.refl _ | apply dispatchDesc_keeps | split | assumption | intro)

theorem execKeyImport_keeps {s t : State} (h : DescHdr) (o : KeyImportOps) (h : execKeyImport h o s = .next t) : Keeps s t := by
  unfold execKeyImport at h
  try dsimp only at h
  repeat' split at h
  all_goals obtain rfl := Host.Outcome.next.inj h
  all_goals with_reducible repeat' (first | exact Keeps.refl _ | apply dispatchDesc_keeps | split | assumption | intro)

theorem execKeyDestroy_keeps {s t : State} (h : DescHdr) (o : KeyDestroyOps) (h : execKeyDestroy h o s = .next t) : Keeps s t := by
  unfold execKeyDestroy at h
  try dsimp only at h
  repeat' split at h
  all_goals obtain rfl := Host.Outcome.next.inj h
  all_goals with_reducible repeat' (first | exact Keeps.refl _ | apply dispatchDesc_keeps | split | assumption | intro)

theorem execModelUnseal_keeps {s t : State} (h : DescHdr) (o : ModelOps) (h : execModelUnseal h o s = .next t) : Keeps s t := by
  unfold execModelUnseal at h
  try dsimp only at h
  repeat' split at h
  all_goals obtain rfl := Host.Outcome.next.inj h
  all_goals with_reducible repeat' (first | exact Keeps.refl _ | apply dispatchDesc_keeps | split | assumption | intro)

theorem execModelSeal_keeps {s t : State} (h : DescHdr) (o : ModelOps) (h : execModelSeal h o s = .next t) : Keeps s t := by
  unfold execModelSeal at h
  try dsimp only at h
  repeat' split at h
  all_goals obtain rfl := Host.Outcome.next.inj h
  all_goals with_reducible repeat' (first | exact Keeps.refl _ | apply dispatchDesc_keeps | split | assumption | intro)

theorem execEntropyBlock_keeps {s t : State} (source : Fin 16) (raw : Bytes) (h : execEntropyBlock source raw s = .next t) : Keeps s t := by
  unfold execEntropyBlock at h
  try dsimp only at h
  repeat' split at h
  all_goals obtain rfl := Host.Outcome.next.inj h
  all_goals with_reducible repeat' (first | exact Keeps.refl _ | apply sourceBlock_keeps | split | assumption | intro)

theorem execHealthTestFail_keeps {s t : State} (source : Fin 16) (test : Fin 3) (h : execHealthTestFail source test s = .next t) : Keeps s t := by
  unfold execHealthTestFail at h
  try dsimp only at h
  repeat' split at h
  all_goals obtain rfl := Host.Outcome.next.inj h
  all_goals with_reducible repeat' (first | exact Keeps.refl _ | apply sourceFails_keeps | split | assumption | intro)

theorem execSourceRetryTimer_keeps {s t : State} (source : Fin 16) (h : execSourceRetryTimer source s = .next t) : Keeps s t := by
  unfold execSourceRetryTimer at h
  try dsimp only at h
  repeat' split at h
  all_goals obtain rfl := Host.Outcome.next.inj h
  all_goals with_reducible repeat' (first | exact Keeps.refl _ | apply retrySource_keeps | split | assumption | intro)

theorem execSourceWarmupDone_keeps {s t : State} (source : Fin 16) (h : execSourceWarmupDone source s = .next t) : Keeps s t := by
  unfold execSourceWarmupDone at h
  try dsimp only at h
  repeat' split at h
  all_goals obtain rfl := Host.Outcome.next.inj h
  all_goals with_reducible repeat' (first | exact Keeps.refl _ | apply sourceWarm_keeps | split | assumption | intro)

theorem execPoolBlock_keeps {s t : State} (h : execPoolBlock s = .next t) : Keeps s t := by
  unfold execPoolBlock at h
  try dsimp only at h
  repeat' split at h
  all_goals obtain rfl := Host.Outcome.next.inj h
  all_goals with_reducible repeat' (first | exact Keeps.refl _ | apply poolBlock_keeps | split | assumption | intro)

theorem execDrbgReseed_keeps {s t : State} (h : execDrbgReseed s = .next t) : Keeps s t := by
  unfold execDrbgReseed at h
  try dsimp only at h
  repeat' split at h
  all_goals obtain rfl := Host.Outcome.next.inj h
  all_goals with_reducible repeat' (first | exact Keeps.refl _ | apply reseed_keeps | split | assumption | intro)

theorem execEntropyStallTimeout_keeps {s t : State} (p : Fin 16) (h : execEntropyStallTimeout p s = .next t) : Keeps s t := by
  unfold execEntropyStallTimeout at h
  try dsimp only at h
  repeat' split at h
  all_goals obtain rfl := Host.Outcome.next.inj h
  all_goals with_reducible repeat' (first | exact Keeps.refl _ | apply stallExpires_keeps | split | assumption | intro)

theorem execEntDataRead_keeps {s t : State} (h : execEntDataRead s = .next t) : Keeps s t := by
  unfold execEntDataRead at h
  try dsimp only at h
  repeat' split at h
  all_goals obtain rfl := Host.Outcome.next.inj h
  all_goals with_reducible repeat' (first | exact Keeps.refl _ | apply gate_keeps | apply readWord_keeps | split | assumption | intro)

theorem execEntTpEnable_keeps {s t : State} (value : Word) (h : execEntTpEnable value s = .next t) : Keeps s t := by
  unfold execEntTpEnable at h
  try dsimp only at h
  repeat' split at h
  all_goals obtain rfl := Host.Outcome.next.inj h
  all_goals with_reducible repeat' (first | exact Keeps.refl _ | apply gate_keeps | apply writePattern_keeps | split | assumption | intro)

theorem execZipTileReceive_keeps {s t : State} (a : Arrival) (h : execZipTileReceive a s = .next t) : Keeps s t := by
  unfold execZipTileReceive at h
  try dsimp only at h
  repeat' split at h
  all_goals obtain rfl := Host.Outcome.next.inj h
  all_goals with_reducible repeat' (first | exact Keeps.refl _ | apply takePacket_keeps | apply receiveZipTile_keeps | split | assumption | intro)

theorem execZipCreditReceive_keeps {s t : State} (a : Arrival) (h : execZipCreditReceive a s = .next t) : Keeps s t := by
  unfold execZipCreditReceive at h
  try dsimp only at h
  repeat' split at h
  all_goals obtain rfl := Host.Outcome.next.inj h
  all_goals with_reducible repeat' (first | exact Keeps.refl _ | apply takePacket_keeps | apply receiveZipCredit_keeps | split | assumption | intro)

theorem execZipReplyReceive_keeps {s t : State} (a : Arrival) (h : execZipReplyReceive a s = .next t) : Keeps s t := by
  unfold execZipReplyReceive at h
  try dsimp only at h
  repeat' split at h
  all_goals obtain rfl := Host.Outcome.next.inj h
  all_goals with_reducible repeat' (first | exact Keeps.refl _ | apply takePacket_keeps | apply receiveZipReply_keeps | split | assumption | intro)

theorem execZipperDeadlineExpiry_keeps {s t : State} (p : Fin 16) (h : execZipperDeadlineExpiry p s = .next t) : Keeps s t := by
  unfold execZipperDeadlineExpiry at h
  try dsimp only at h
  repeat' split at h
  all_goals obtain rfl := Host.Outcome.next.inj h
  all_goals with_reducible repeat' (first | exact Keeps.refl _ | apply deadlineInstant_keeps | split | assumption | intro)

theorem execJobTearReceive_keeps {s t : State} (a : Arrival) (h : execJobTearReceive a s = .next t) : Keeps s t := by
  unfold execJobTearReceive at h
  try dsimp only at h
  repeat' split at h
  all_goals obtain rfl := Host.Outcome.next.inj h
  all_goals with_reducible repeat' (first | exact Keeps.refl _ | apply receiveTear_keeps | split | assumption | intro)

theorem execTearEntryExpiry_keeps {s t : State} (keyId : Nat) (src : Nat) (tearId : Nat) (h : execTearEntryExpiry keyId src tearId s = .next t) : Keeps s t := by
  unfold execTearEntryExpiry at h
  try dsimp only at h
  repeat' split at h
  all_goals obtain rfl := Host.Outcome.next.inj h
  all_goals with_reducible repeat' (first | exact Keeps.refl _ | apply expireTear_keeps | split | assumption | intro)

theorem execRmaWritePacket_keeps {s t : State} (a : Arrival) (h : execRmaWritePacket a s = .next t) : Keeps s t := by
  unfold execRmaWritePacket at h
  try dsimp only at h
  repeat' split at h
  all_goals obtain rfl := Host.Outcome.next.inj h
  all_goals with_reducible repeat' (first | exact Keeps.refl _ | apply takeRequest_keeps | split | assumption | intro)

theorem execRmaReadReqPacket_keeps {s t : State} (a : Arrival) (h : execRmaReadReqPacket a s = .next t) : Keeps s t := by
  unfold execRmaReadReqPacket at h
  try dsimp only at h
  repeat' split at h
  all_goals obtain rfl := Host.Outcome.next.inj h
  all_goals with_reducible repeat' (first | exact Keeps.refl _ | apply takeRequest_keeps | split | assumption | intro)

theorem execRmaReadRespPacket_keeps {s t : State} (a : Arrival) (h : execRmaReadRespPacket a s = .next t) : Keeps s t := by
  unfold execRmaReadRespPacket at h
  try dsimp only at h
  repeat' split at h
  all_goals obtain rfl := Host.Outcome.next.inj h
  all_goals with_reducible repeat' (first | exact Keeps.refl _ | apply takePacket_keeps | apply receiveResponse_keeps | split | assumption | intro)

theorem execRmaAddPacket_keeps {s t : State} (a : Arrival) (h : execRmaAddPacket a s = .next t) : Keeps s t := by
  unfold execRmaAddPacket at h
  try dsimp only at h
  repeat' split at h
  all_goals obtain rfl := Host.Outcome.next.inj h
  all_goals with_reducible repeat' (first | exact Keeps.refl _ | apply takeRequest_keeps | split | assumption | intro)

theorem execRmaReplyPacket_keeps {s t : State} (a : Arrival) (h : execRmaReplyPacket a s = .next t) : Keeps s t := by
  unfold execRmaReplyPacket at h
  try dsimp only at h
  repeat' split at h
  all_goals obtain rfl := Host.Outcome.next.inj h
  all_goals with_reducible repeat' (first | exact Keeps.refl _ | apply takePacket_keeps | apply receiveReply_keeps | split | assumption | intro)

theorem execContextFetchComplete_keeps {s t : State} (p : Fin 16) (qpn : Nat) (record : Bytes) (h : execContextFetchComplete p qpn record s = .next t) : Keeps s t := by
  unfold execContextFetchComplete at h
  try dsimp only at h
  repeat' split at h
  all_goals obtain rfl := Host.Outcome.next.inj h
  all_goals with_reducible repeat' (first | exact Keeps.refl _ | apply contextArrived_keeps | split | assumption | intro)

theorem execContextFetchTimeout_keeps {s t : State} (p : Fin 16) (qpn : Nat) (h : execContextFetchTimeout p qpn s = .next t) : Keeps s t := by
  unfold execContextFetchTimeout at h
  try dsimp only at h
  repeat' split at h
  all_goals obtain rfl := Host.Outcome.next.inj h
  all_goals with_reducible repeat' (first | exact Keeps.refl _ | apply missExpired_keeps | split | assumption | intro)

theorem execRmaResponseTimeout_keeps {s t : State} (p : Fin 16) (qpn : Nat) (h : execRmaResponseTimeout p qpn s = .next t) : Keeps s t := by
  unfold execRmaResponseTimeout at h
  try dsimp only at h
  repeat' split at h
  all_goals obtain rfl := Host.Outcome.next.inj h
  all_goals with_reducible repeat' (first | exact Keeps.refl _ | apply responseExpired_keeps | split | assumption | intro)

theorem execRmaTargetGapTimeout_keeps {s t : State} (p : Fin 16) (qpn : Nat) (h : execRmaTargetGapTimeout p qpn s = .next t) : Keeps s t := by
  unfold execRmaTargetGapTimeout at h
  try dsimp only at h
  repeat' split at h
  all_goals obtain rfl := Host.Outcome.next.inj h
  all_goals with_reducible repeat' (first | exact Keeps.refl _ | apply gapExpired_keeps | split | assumption | intro)

theorem execQpCreate_keeps {s t : State} (p : Fin 16) (qpn : Nat) (h : execQpCreate p qpn s = .next t) : Keeps s t := by
  unfold execQpCreate at h
  try dsimp only at h
  repeat' split at h
  all_goals obtain rfl := Host.Outcome.next.inj h
  all_goals with_reducible repeat' (first | exact Keeps.refl _ | apply gate_keeps | apply createQp_keeps | split | assumption | intro)

theorem execQpReinitialise_keeps {s t : State} (p : Fin 16) (qpn : Nat) (h : execQpReinitialise p qpn s = .next t) : Keeps s t := by
  unfold execQpReinitialise at h
  try dsimp only at h
  repeat' split at h
  all_goals obtain rfl := Host.Outcome.next.inj h
  all_goals with_reducible repeat' (first | exact Keeps.refl _ | apply gate_keeps | apply reinitQp_keeps | split | assumption | intro)

theorem execQpDestroy_keeps {s t : State} (p : Fin 16) (qpn : Nat) (h : execQpDestroy p qpn s = .next t) : Keeps s t := by
  unfold execQpDestroy at h
  try dsimp only at h
  repeat' split at h
  all_goals obtain rfl := Host.Outcome.next.inj h
  all_goals with_reducible repeat' (first | exact Keeps.refl _ | apply gate_keeps | apply destroyQp_keeps | split | assumption | intro)

theorem execPdBind_keeps {s t : State} (p : Fin 16) (pd : Fin 16) (value : Word) (h : execPdBind p pd value s = .next t) : Keeps s t := by
  unfold execPdBind at h
  try dsimp only at h
  repeat' split at h
  all_goals obtain rfl := Host.Outcome.next.inj h
  all_goals with_reducible repeat' (first | exact Keeps.refl _ | apply gate_keeps | apply bindPd_keeps | split | assumption | intro)

theorem execSpaceEnable_keeps {s t : State} (p : Fin 16) (k : Fin 4) (value : Word) (h : execSpaceEnable p k value s = .next t) : Keeps s t := by
  unfold execSpaceEnable at h
  try dsimp only at h
  repeat' split at h
  all_goals obtain rfl := Host.Outcome.next.inj h
  all_goals with_reducible repeat' (first | exact Keeps.refl _ | apply gate_keeps | apply enableSpace_keeps | split | assumption | intro)

theorem execSpaceRevoke_keeps {s t : State} (p : Fin 16) (k : Fin 4) (h : execSpaceRevoke p k s = .next t) : Keeps s t := by
  unfold execSpaceRevoke at h
  try dsimp only at h
  repeat' split at h
  all_goals obtain rfl := Host.Outcome.next.inj h
  all_goals with_reducible repeat' (first | exact Keeps.refl _ | apply gate_keeps | apply revokeSpace_keeps | split | assumption | intro)

theorem execSpaceRevokeDone_keeps {s t : State} (p : Fin 16) (k : Fin 4) (h : execSpaceRevokeDone p k s = .next t) : Keeps s t := by
  unfold execSpaceRevokeDone at h
  try dsimp only at h
  repeat' split at h
  all_goals obtain rfl := Host.Outcome.next.inj h
  all_goals with_reducible repeat' (first | exact Keeps.refl _ | apply revokeDone_keeps | split | assumption | intro)

theorem execSpaceRelease_keeps {s t : State} (p : Fin 16) (k : Fin 4) (h : execSpaceRelease p k s = .next t) : Keeps s t := by
  unfold execSpaceRelease at h
  try dsimp only at h
  repeat' split at h
  all_goals obtain rfl := Host.Outcome.next.inj h
  all_goals with_reducible repeat' (first | exact Keeps.refl _ | apply gate_keeps | apply releaseSpace_keeps | split | assumption | intro)

theorem execPtnCreate_keeps {s t : State} (p : Fin 16) (policy : Option Bytes) (h : execPtnCreate p policy s = .next t) : Keeps s t := by
  unfold execPtnCreate at h
  try dsimp only at h
  repeat' split at h
  all_goals obtain rfl := Host.Outcome.next.inj h
  all_goals with_reducible repeat' (first | exact Keeps.refl _ | apply gate_keeps | apply commandCreate_keeps | split | assumption | intro)

theorem execPtnScrub_keeps {s t : State} (p : Fin 16) (h : execPtnScrub p s = .next t) : Keeps s t := by
  unfold execPtnScrub at h
  try dsimp only at h
  repeat' split at h
  all_goals obtain rfl := Host.Outcome.next.inj h
  all_goals with_reducible repeat' (first | exact Keeps.refl _ | apply gate_keeps | apply commandScrub_keeps | split | assumption | intro)

theorem execPtnDestroy_keeps {s t : State} (p : Fin 16) (h : execPtnDestroy p s = .next t) : Keeps s t := by
  unfold execPtnDestroy at h
  try dsimp only at h
  repeat' split at h
  all_goals obtain rfl := Host.Outcome.next.inj h
  all_goals with_reducible repeat' (first | exact Keeps.refl _ | apply gate_keeps | apply commandDestroy_keeps | split | assumption | intro)

theorem execPtnReset_keeps {s t : State} (p : Fin 16) (h : execPtnReset p s = .next t) : Keeps s t := by
  unfold execPtnReset at h
  try dsimp only at h
  repeat' split at h
  all_goals obtain rfl := Host.Outcome.next.inj h
  all_goals with_reducible repeat' (first | exact Keeps.refl _ | apply gate_keeps | apply commandReset_keeps | split | assumption | intro)

theorem execPtnResetComplete_keeps {s t : State} (p : Fin 16) (h : execPtnResetComplete p s = .next t) : Keeps s t := by
  unfold execPtnResetComplete at h
  try dsimp only at h
  repeat' split at h
  all_goals obtain rfl := Host.Outcome.next.inj h
  all_goals with_reducible repeat' (first | exact Keeps.refl _ | apply completeReset_keeps | split | assumption | intro)

theorem execPartitionFault_keeps {s t : State} (site : FaultSite) (h : execPartitionFault site s = .next t) : Keeps s t := by
  unfold execPartitionFault at h
  try dsimp only at h
  repeat' split at h
  all_goals obtain rfl := Host.Outcome.next.inj h
  all_goals with_reducible repeat' (first | exact Keeps.refl _ | apply faultAt_keeps | split | assumption | intro)

theorem execEngineSlotFailure_keeps {s t : State} (sleeve : Fin 16) (slot : Fin 9) (h : execEngineSlotFailure sleeve slot s = .next t) : Keeps s t := by
  unfold execEngineSlotFailure at h
  try dsimp only at h
  repeat' split at h
  all_goals obtain rfl := Host.Outcome.next.inj h
  all_goals with_reducible repeat' (first | exact Keeps.refl _ | apply advanceStep_keeps | apply failSlot_keeps | split | assumption | intro)

theorem execKeystreamUnitFailure_keeps {s t : State} (sleeve : Fin 16) (unit : Fin 8) (h : execKeystreamUnitFailure sleeve unit s = .next t) : Keeps s t := by
  unfold execKeystreamUnitFailure at h
  try dsimp only at h
  repeat' split at h
  all_goals obtain rfl := Host.Outcome.next.inj h
  all_goals with_reducible repeat' (first | exact Keeps.refl _ | apply failKeystream_keeps | split | assumption | intro)

theorem execLapelParityError_keeps {s t : State} (lapel : Fin 4) (h : execLapelParityError lapel s = .next t) : Keeps s t := by
  unfold execLapelParityError at h
  try dsimp only at h
  repeat' split at h
  all_goals obtain rfl := Host.Outcome.next.inj h
  all_goals with_reducible repeat' (first | exact Keeps.refl _ | apply failLapel_keeps | split | assumption | intro)

theorem execLiningRowThreshold_keeps {s t : State} (sleeve : Fin 16) (row : Nat) (h : execLiningRowThreshold sleeve row s = .next t) : Keeps s t := by
  unfold execLiningRowThreshold at h
  try dsimp only at h
  repeat' split at h
  all_goals obtain rfl := Host.Outcome.next.inj h
  all_goals with_reducible repeat' (first | exact Keeps.refl _ | apply rowThreshold_keeps | split | assumption | intro)

theorem execBondLaneFailure_keeps {s t : State} (sleeve : Fin 16) (lane : Nat) (h : execBondLaneFailure sleeve lane s = .next t) : Keeps s t := by
  unfold execBondLaneFailure at h
  try dsimp only at h
  repeat' split at h
  all_goals obtain rfl := Host.Outcome.next.inj h
  all_goals with_reducible repeat' (first | exact Keeps.refl _ | apply failBond_keeps | split | assumption | intro)

theorem execSeamLaneFailure_keeps {s t : State} (dir : Fin 2) (lane : Nat) (h : execSeamLaneFailure dir lane s = .next t) : Keeps s t := by
  unfold execSeamLaneFailure at h
  try dsimp only at h
  repeat' split at h
  all_goals obtain rfl := Host.Outcome.next.inj h
  all_goals with_reducible repeat' (first | exact Keeps.refl _ | apply failSeam_keeps | split | assumption | intro)

theorem execCclLaneFailure_keeps {s t : State} (lane : Nat) (h : execCclLaneFailure lane s = .next t) : Keeps s t := by
  unfold execCclLaneFailure at h
  try dsimp only at h
  repeat' split at h
  all_goals obtain rfl := Host.Outcome.next.inj h
  all_goals with_reducible repeat' (first | exact Keeps.refl _ | apply failCcl_keeps | split | assumption | intro)

theorem execCclRetrain_keeps {s t : State} (success : Bool) (h : execCclRetrain success s = .next t) : Keeps s t := by
  unfold execCclRetrain at h
  try dsimp only at h
  repeat' split at h
  all_goals obtain rfl := Host.Outcome.next.inj h
  all_goals with_reducible repeat' (first | exact Keeps.refl _ | apply retrainCcl_keeps | split | assumption | intro)

theorem execDeviceFailed_keeps {s t : State} (d : Fin 16) (h : execDeviceFailed d s = .next t) : Keeps s t := by
  unfold execDeviceFailed at h
  try dsimp only at h
  repeat' split at h
  all_goals obtain rfl := Host.Outcome.next.inj h
  all_goals with_reducible repeat' (first | exact Keeps.refl _ | apply failDevice_keeps | split | assumption | intro)

theorem execPatrolScrub_keeps {s t : State} (t' : ScrubTarget) (r : ScrubResult) (h : execPatrolScrub t' r s = .next t) : Keeps s t := by
  unfold execPatrolScrub at h
  try dsimp only at h
  repeat' split at h
  all_goals obtain rfl := Host.Outcome.next.inj h
  all_goals with_reducible repeat' (first | exact Keeps.refl _ | apply patrol_keeps | split | assumption | intro)

theorem execClearFill_keeps {s t : State} (d : Fin 16) (block : Fin 524288) (h : execClearFill d block s = .next t) : Keeps s t := by
  unfold execClearFill at h
  try dsimp only at h
  repeat' split at h
  all_goals obtain rfl := Host.Outcome.next.inj h
  all_goals with_reducible repeat' (first | exact Keeps.refl _ | apply fillBlock_keeps | split | assumption | intro)

theorem execCollarSlotStart_keeps {s t : State} (slot : Fin 17) (signatureOk : Bool) (h : execCollarSlotStart slot signatureOk s = .next t) : Keeps s t := by
  unfold execCollarSlotStart at h
  try dsimp only at h
  repeat' split at h
  all_goals obtain rfl := Host.Outcome.next.inj h
  all_goals with_reducible repeat' (first | exact Keeps.refl _ | apply slotStarts_keeps | split | assumption | intro)

theorem execCollarSlotEnd_keeps {s t : State} (h : execCollarSlotEnd s = .next t) : Keeps s t := by
  unfold execCollarSlotEnd at h
  try dsimp only at h
  repeat' split at h
  all_goals obtain rfl := Host.Outcome.next.inj h
  all_goals with_reducible repeat' (first | exact Keeps.refl _ | apply slotEnds_keeps | split | assumption | intro)

theorem execColBootGo_keeps {s t : State} (image : Bytes) (signatureOk : Bool) (followerOk : Bool) (h : execColBootGo image signatureOk followerOk s = .next t) : Keeps s t := by
  unfold execColBootGo at h
  try dsimp only at h
  repeat' split at h
  all_goals obtain rfl := Host.Outcome.next.inj h
  all_goals with_reducible repeat' (first | exact Keeps.refl _ | apply bootGo_keeps | split | assumption | intro)

theorem execColUpdGo_keeps {s t : State} (message : Bytes) (h : execColUpdGo message s = .next t) : Keeps s t := by
  unfold execColUpdGo at h
  try dsimp only at h
  repeat' split at h
  all_goals obtain rfl := Host.Outcome.next.inj h
  all_goals with_reducible repeat' (first | exact Keeps.refl _ | apply submitUpdate_keeps | split | assumption | intro)

theorem execColAttGo_keeps {s t : State} (nonce : Bytes) (h : execColAttGo nonce s = .next t) : Keeps s t := by
  unfold execColAttGo at h
  try dsimp only at h
  repeat' split at h
  all_goals obtain rfl := Host.Outcome.next.inj h
  all_goals with_reducible repeat' (first | exact Keeps.refl _ | apply requestAttest_keeps | split | assumption | intro)

theorem execLcArm_keeps {s t : State} (op : Nat) (h : execLcArm op s = .next t) : Keeps s t := by
  unfold execLcArm at h
  try dsimp only at h
  repeat' split at h
  all_goals obtain rfl := Host.Outcome.next.inj h
  all_goals with_reducible repeat' (first | exact Keeps.refl _ | apply armCommand_keeps | split | assumption | intro)

theorem execLcArmTimeout_keeps {s t : State} (h : execLcArmTimeout s = .next t) : Keeps s t := by
  unfold execLcArmTimeout at h
  try dsimp only at h
  repeat' split at h
  all_goals obtain rfl := Host.Outcome.next.inj h
  all_goals with_reducible repeat' (first | exact Keeps.refl _ | apply armTimeout_keeps | split | assumption | intro)

theorem execLcProvision_keeps {s t : State} (checkOk : Bool) (h : execLcProvision checkOk s = .next t) : Keeps s t := by
  unfold execLcProvision at h
  try dsimp only at h
  repeat' split at h
  all_goals obtain rfl := Host.Outcome.next.inj h
  all_goals with_reducible repeat' (first | exact Keeps.refl _ | apply provision_keeps | split | assumption | intro)

theorem execLcRetire_keeps {s t : State} (h : execLcRetire s = .next t) : Keeps s t := by
  unfold execLcRetire at h
  try dsimp only at h
  repeat' split at h
  all_goals obtain rfl := Host.Outcome.next.inj h
  all_goals with_reducible repeat' (first | exact Keeps.refl _ | apply retire_keeps | split | assumption | intro)

theorem execKeyExpiry_keeps {s t : State} (p : Fin 16) (kind : Nat) (linkKeyId : Nat) (h : execKeyExpiry p kind linkKeyId s = .next t) : Keeps s t := by
  unfold execKeyExpiry at h
  try dsimp only at h
  repeat' split at h
  all_goals obtain rfl := Host.Outcome.next.inj h
  all_goals with_reducible repeat' (first | exact Keeps.refl _ | apply keyInstant_keeps | split | assumption | intro)

theorem execFecBlockReceive_keeps {s t : State} (port : Fin 6) (number : Nat) (block : Bytes) (lossLane : Option (Fin 32)) (frac : Nat) (h : execFecBlockReceive port number block lossLane frac s = .next t) : Keeps s t := by
  unfold execFecBlockReceive at h
  try dsimp only at h
  repeat' split at h
  all_goals obtain rfl := Host.Outcome.next.inj h
  all_goals with_reducible repeat' (first | exact Keeps.refl _ | apply blockArrives_keeps | split | assumption | intro)

theorem execLinkAckReceive_keeps {s t : State} (port : Fin 6) (block : Nat) (entries : List CreditEntry) (h : execLinkAckReceive port block entries s = .next t) : Keeps s t := by
  unfold execLinkAckReceive at h
  try dsimp only at h
  repeat' split at h
  all_goals obtain rfl := Host.Outcome.next.inj h
  all_goals with_reducible repeat' (first | exact Keeps.refl _ | apply ackArrives_keeps | split | assumption | intro)

theorem execLinkNakReceive_keeps {s t : State} (port : Fin 6) (block : Nat) (h : execLinkNakReceive port block s = .next t) : Keeps s t := by
  unfold execLinkNakReceive at h
  try dsimp only at h
  repeat' split at h
  all_goals obtain rfl := Host.Outcome.next.inj h
  all_goals with_reducible repeat' (first | exact Keeps.refl _ | apply nakArrives_keeps | split | assumption | intro)

theorem execLinkRemapReceive_keeps {s t : State} (port : Fin 6) (lane : Fin 32) (spare : Fin 2) (echo : Bool) (block : Nat) (h : execLinkRemapReceive port lane spare echo block s = .next t) : Keeps s t := by
  unfold execLinkRemapReceive at h
  try dsimp only at h
  repeat' split at h
  all_goals obtain rfl := Host.Outcome.next.inj h
  all_goals with_reducible repeat' (first | exact Keeps.refl _ | apply remapArrives_keeps | split | assumption | intro)

theorem execLinkAckTimerExpiry_keeps {s t : State} (port : Fin 6) (h : execLinkAckTimerExpiry port s = .next t) : Keeps s t := by
  unfold execLinkAckTimerExpiry at h
  try dsimp only at h
  repeat' split at h
  all_goals obtain rfl := Host.Outcome.next.inj h
  all_goals with_reducible repeat' (first | exact Keeps.refl _ | apply ackTimerExpires_keeps | split | assumption | intro)

theorem execPortTrainingComplete_keeps {s t : State} (port : Fin 6) (partnerType : Nat) (partnerId : Nat) (partnerPort : Nat) (h : execPortTrainingComplete port partnerType partnerId partnerPort s = .next t) : Keeps s t := by
  unfold execPortTrainingComplete at h
  try dsimp only at h
  repeat' split at h
  all_goals obtain rfl := Host.Outcome.next.inj h
  all_goals with_reducible repeat' (first | exact Keeps.refl _ | apply trainingDone_keeps | split | assumption | intro)

theorem execPortTrainingAttemptFail_keeps {s t : State} (port : Fin 6) (h : execPortTrainingAttemptFail port s = .next t) : Keeps s t := by
  unfold execPortTrainingAttemptFail at h
  try dsimp only at h
  repeat' split at h
  all_goals obtain rfl := Host.Outcome.next.inj h
  all_goals with_reducible repeat' (first | exact Keeps.refl _ | apply trainingFails_keeps | split | assumption | intro)

theorem execPortRetrainEnd_keeps {s t : State} (port : Fin 6) (lanes : Option Nat) (h : execPortRetrainEnd port lanes s = .next t) : Keeps s t := by
  unfold execPortRetrainEnd at h
  try dsimp only at h
  repeat' split at h
  all_goals obtain rfl := Host.Outcome.next.inj h
  all_goals with_reducible repeat' (first | exact Keeps.refl _ | apply retrainEnds_keeps | split | assumption | intro)

theorem execCableChange_keeps {s t : State} (port : Fin 6) (connected : Bool) (h : execCableChange port connected s = .next t) : Keeps s t := by
  unfold execCableChange at h
  try dsimp only at h
  repeat' split at h
  all_goals obtain rfl := Host.Outcome.next.inj h
  all_goals with_reducible repeat' (first | exact Keeps.refl _ | apply cableMoves_keeps | split | assumption | intro)

theorem execEgressSlot_keeps {s t : State} (port : Fin 6) (h : execEgressSlot port s = .next t) : Keeps s t := by
  unfold execEgressSlot at h
  try dsimp only at h
  repeat' split at h
  all_goals obtain rfl := Host.Outcome.next.inj h
  all_goals with_reducible repeat' (first | exact Keeps.refl _ | apply egressSlot_keeps | split | assumption | intro)

theorem execBlockLockLost_keeps {s t : State} (port : Fin 6) (h : execBlockLockLost port s = .next t) : Keeps s t := by
  unfold execBlockLockLost at h
  try dsimp only at h
  repeat' split at h
  all_goals obtain rfl := Host.Outcome.next.inj h
  all_goals with_reducible repeat' (first | exact Keeps.refl _ | apply retrainPort_keeps | split | assumption | intro)

theorem execShwPortEnable_keeps {s t : State} (port : Fin 6) (h : execShwPortEnable port s = .next t) : Keeps s t := by
  unfold execShwPortEnable at h
  try dsimp only at h
  repeat' split at h
  all_goals obtain rfl := Host.Outcome.next.inj h
  all_goals with_reducible repeat' (first | exact Keeps.refl _ | apply gate_keeps | apply enablePort_keeps | split | assumption | intro)

theorem execShwPortRetrain_keeps {s t : State} (port : Fin 6) (h : execShwPortRetrain port s = .next t) : Keeps s t := by
  unfold execShwPortRetrain at h
  try dsimp only at h
  repeat' split at h
  all_goals obtain rfl := Host.Outcome.next.inj h
  all_goals with_reducible repeat' (first | exact Keeps.refl _ | apply gate_keeps | apply commandRetrain_keeps | split | assumption | intro)

theorem execShwRtSwap_keeps {s t : State} (h : execShwRtSwap s = .next t) : Keeps s t := by
  unfold execShwRtSwap at h
  try dsimp only at h
  repeat' split at h
  all_goals obtain rfl := Host.Outcome.next.inj h
  all_goals with_reducible repeat' (first | exact Keeps.refl _ | apply gate_keeps | apply swapTables_keeps | split | assumption | intro)

theorem execShwDimWrite_keeps {s t : State} (value : Word) (h : execShwDimWrite value s = .next t) : Keeps s t := by
  unfold execShwDimWrite at h
  try dsimp only at h
  repeat' split at h
  all_goals obtain rfl := Host.Outcome.next.inj h
  all_goals with_reducible repeat' (first | exact Keeps.refl _ | apply gate_keeps | apply writeDim_keeps | split | assumption | intro)

theorem execShwQueueFlush_keeps {s t : State} (die : Fin 2) (queue : Fin 408) (h : execShwQueueFlush die queue s = .next t) : Keeps s t := by
  unfold execShwQueueFlush at h
  try dsimp only at h
  repeat' split at h
  all_goals obtain rfl := Host.Outcome.next.inj h
  all_goals with_reducible repeat' (first | exact Keeps.refl _ | apply gate_keeps | apply flushQueue_keeps | split | assumption | intro)

theorem execMeterMinuteEnd_keeps {s t : State} (h : execMeterMinuteEnd s = .next t) : Keeps s t := by
  unfold execMeterMinuteEnd at h
  try dsimp only at h
  repeat' split at h
  all_goals obtain rfl := Host.Outcome.next.inj h
  all_goals with_reducible repeat' (first | exact Keeps.refl _ | apply minuteInstant_keeps | split | assumption | intro)

theorem execMeterMsSample_keeps {s t : State} (h : execMeterMsSample s = .next t) : Keeps s t := by
  unfold execMeterMsSample at h
  try dsimp only at h
  repeat' split at h
  all_goals obtain rfl := Host.Outcome.next.inj h
  all_goals with_reducible repeat' (first | exact Keeps.refl _ | apply msSample_keeps | split | assumption | intro)

theorem execPowerInterval_keeps {s t : State} (rails : List (Option Nat)) (h : execPowerInterval rails s = .next t) : Keeps s t := by
  unfold execPowerInterval at h
  try dsimp only at h
  repeat' split at h
  all_goals obtain rfl := Host.Outcome.next.inj h
  all_goals with_reducible repeat' (first | exact Keeps.refl _ | apply powerInterval_keeps | split | assumption | intro)

theorem execThermalSensorRead_keeps {s t : State} (r : SensorReadings) (h : execThermalSensorRead r s = .next t) : Keeps s t := by
  unfold execThermalSensorRead at h
  try dsimp only at h
  repeat' split at h
  all_goals obtain rfl := Host.Outcome.next.inj h
  all_goals with_reducible repeat' (first | exact Keeps.refl _ | apply readSensors_keeps | split | assumption | intro)

theorem execPwrOpWrite_keeps {s t : State} (value : Word) (h : execPwrOpWrite value s = .next t) : Keeps s t := by
  unfold execPwrOpWrite at h
  try dsimp only at h
  repeat' split at h
  all_goals obtain rfl := Host.Outcome.next.inj h
  all_goals with_reducible repeat' (first | exact Keeps.refl _ | apply gate_keeps | apply writeOpPoint_keeps | split | assumption | intro)

theorem execFreqStepCommit_keeps {s t : State} (h : execFreqStepCommit s = .next t) : Keeps s t := by
  unfold execFreqStepCommit at h
  try dsimp only at h
  repeat' split at h
  all_goals obtain rfl := Host.Outcome.next.inj h
  all_goals with_reducible repeat' (first | exact Keeps.refl _ | apply commitStep_keeps | split | assumption | intro)

theorem execRailSettled_keeps {s t : State} (h : execRailSettled s = .next t) : Keeps s t := by
  unfold execRailSettled at h
  try dsimp only at h
  repeat' split at h
  all_goals obtain rfl := Host.Outcome.next.inj h
  all_goals with_reducible repeat' (first | exact Keeps.refl _ | apply settleRails_keeps | split | assumption | intro)

theorem execSlotFreqSwitch_keeps {s t : State} (slot : Fin 144) (h : execSlotFreqSwitch slot s = .next t) : Keeps s t := by
  unfold execSlotFreqSwitch at h
  try dsimp only at h
  repeat' split at h
  all_goals obtain rfl := Host.Outcome.next.inj h
  all_goals with_reducible repeat' (first | exact Keeps.refl _ | apply switchSlot_keeps | split | assumption | intro)

theorem execDroopDetect_keeps {s t : State} (_detector : Fin 32) (h : execDroopDetect _detector s = .next t) : Keeps s t := by
  unfold execDroopDetect at h
  try dsimp only at h
  repeat' split at h
  all_goals obtain rfl := Host.Outcome.next.inj h
  all_goals with_reducible repeat' (first | exact Keeps.refl _ | apply droopStarts_keeps | split | assumption | intro)

theorem execDroopClear_keeps {s t : State} (h : execDroopClear s = .next t) : Keeps s t := by
  unfold execDroopClear at h
  try dsimp only at h
  repeat' split at h
  all_goals obtain rfl := Host.Outcome.next.inj h
  all_goals with_reducible repeat' (first | exact Keeps.refl _ | apply droopEnds_keeps | split | assumption | intro)

theorem execAgeingRead_keeps {s t : State} (slot : Fin 144) (reading : Nat) (h : execAgeingRead slot reading s = .next t) : Keeps s t := by
  unfold execAgeingRead at h
  try dsimp only at h
  repeat' split at h
  all_goals obtain rfl := Host.Outcome.next.inj h
  all_goals with_reducible repeat' (first | exact Keeps.refl _ | apply ageSlot_keeps | split | assumption | intro)

theorem execEolPrediction_keeps {s t : State} (engines : Nat) (lanes : Nat) (em : Nat) (h : execEolPrediction engines lanes em s = .next t) : Keeps s t := by
  unfold execEolPrediction at h
  try dsimp only at h
  repeat' split at h
  all_goals obtain rfl := Host.Outcome.next.inj h
  all_goals with_reducible repeat' (first | exact Keeps.refl _ | apply predictEnd_keeps | split | assumption | intro)

theorem execBstStart_keeps {s t : State} (kind : Nat) (index : Nat) (bootTime : Bool) (h : execBstStart kind index bootTime s = .next t) : Keeps s t := by
  unfold execBstStart at h
  try dsimp only at h
  repeat' split at h
  all_goals obtain rfl := Host.Outcome.next.inj h
  all_goals with_reducible repeat' (first | exact Keeps.refl _ | apply startBootTest_keeps | apply gate_keeps | apply startTest_keeps | split | assumption | intro)

theorem execBstComplete_keeps {s t : State} (failedUnits : List Nat) (h : execBstComplete failedUnits s = .next t) : Keeps s t := by
  unfold execBstComplete at h
  try dsimp only at h
  repeat' split at h
  all_goals obtain rfl := Host.Outcome.next.inj h
  all_goals with_reducible repeat' (first | exact Keeps.refl _ | apply completeTest_keeps | split | assumption | intro)

theorem execComputeReset_keeps {s t : State} (h : execComputeReset s = .next t) : Keeps s t := by
  unfold execComputeReset at h
  try dsimp only at h
  repeat' split at h
  all_goals obtain rfl := Host.Outcome.next.inj h
  all_goals with_reducible repeat' (first | exact Keeps.refl _ | apply gate_keeps | apply commandCompute_keeps | split | assumption | intro)

theorem execComputeResetComplete_keeps {s t : State} (failedSlots : List Nat) (imagesMatch : Bool) (h : execComputeResetComplete failedSlots imagesMatch s = .next t) : Keeps s t := by
  unfold execComputeResetComplete at h
  try dsimp only at h
  repeat' split at h
  all_goals obtain rfl := Host.Outcome.next.inj h
  all_goals with_reducible repeat' (first | exact Keeps.refl _ | apply completeCompute_keeps | split | assumption | intro)

theorem execModuleFaultEntry_keeps {s t : State} (code : Nat) (h : execModuleFaultEntry code s = .next t) : Keeps s t := by
  unfold execModuleFaultEntry at h
  try dsimp only at h
  repeat' split at h
  all_goals obtain rfl := Host.Outcome.next.inj h
  all_goals with_reducible repeat' (first | exact Keeps.refl _ | apply moduleFaultCode_keeps | split | assumption | intro)

theorem execModuleResetCommand_keeps {s t : State} (h : execModuleResetCommand s = .next t) : Keeps s t := by
  unfold execModuleResetCommand at h
  try dsimp only at h
  repeat' split at h
  all_goals obtain rfl := Host.Outcome.next.inj h
  all_goals with_reducible repeat' (first | exact Keeps.refl _ | apply gate_keeps | apply commandedReset_keeps | split | assumption | intro)

theorem execThermalTrip_keeps {s t : State} (h : execThermalTrip s = .next t) : Keeps s t := by
  unfold execThermalTrip at h
  try dsimp only at h
  repeat' split at h
  all_goals obtain rfl := Host.Outcome.next.inj h
  all_goals with_reducible repeat' (first | exact Keeps.refl _ | apply trip_keeps | split | assumption | intro)

theorem execTripCooldown_keeps {s t : State} (h : execTripCooldown s = .next t) : Keeps s t := by
  unfold execTripCooldown at h
  try dsimp only at h
  repeat' split at h
  all_goals obtain rfl := Host.Outcome.next.inj h
  all_goals with_reducible repeat' (first | exact Keeps.refl _ | apply cooled_keeps | split | assumption | intro)

theorem execPowerUp_keeps {s t : State} (h : execPowerUp s = .next t) : Keeps s t := by
  unfold execPowerUp at h
  try dsimp only at h
  repeat' split at h
  all_goals obtain rfl := Host.Outcome.next.inj h
  all_goals with_reducible repeat' (first | exact Keeps.refl _ | apply powerUp_keeps | split | assumption | intro)

theorem execResetNPulse_keeps {s t : State} (lowNs : Nat) (h : execResetNPulse lowNs s = .next t) : Keeps s t := by
  unfold execResetNPulse at h
  try dsimp only at h
  repeat' split at h
  all_goals obtain rfl := Host.Outcome.next.inj h
  all_goals with_reducible repeat' (first | exact Keeps.refl _ | apply resetPulse_keeps | split | assumption | intro)

theorem execModuleReset_keeps {s t : State} (h : execModuleReset s = .next t) : Keeps s t := by
  unfold execModuleReset at h
  try dsimp only at h
  repeat' split at h
  all_goals obtain rfl := Host.Outcome.next.inj h
  all_goals with_reducible repeat' (first | exact Keeps.refl _ | apply moduleReset_keeps | split | assumption | intro)

theorem execPowerDown_keeps {s t : State} (h : execPowerDown s = .next t) : Keeps s t := by
  unfold execPowerDown at h
  try dsimp only at h
  repeat' split at h
  all_goals obtain rfl := Host.Outcome.next.inj h
  all_goals with_reducible repeat' (first | exact Keeps.refl _ | apply railsOff_keeps | split | assumption | intro)

theorem execRailFault_keeps {s t : State} (rail : Fin 7) (h : execRailFault rail s = .next t) : Keeps s t := by
  unfold execRailFault at h
  try dsimp only at h
  repeat' split at h
  all_goals obtain rfl := Host.Outcome.next.inj h
  all_goals with_reducible repeat' (first | exact Keeps.refl _ | apply railsOff_keeps | split | assumption | (refine Keeps.same ?_ rfl; first | exact Keeps.refl _ | apply railsOff_keeps | split | assumption) | intro)

theorem execGlbLockWrite_keeps {s t : State} (value : Word) (h : execGlbLockWrite value s = .next t) : Keeps s t := by
  unfold execGlbLockWrite at h
  try dsimp only at h
  repeat' split at h
  all_goals obtain rfl := Host.Outcome.next.inj h
  all_goals with_reducible repeat' (first | exact Keeps.refl _ | apply writeGlbLock_keeps | split | assumption | intro)

theorem execRingLockWrite_keeps {s t : State} (p : Fin 16) (value : Word) (h : execRingLockWrite p value s = .next t) : Keeps s t := by
  unfold execRingLockWrite at h
  try dsimp only at h
  repeat' split at h
  all_goals obtain rfl := Host.Outcome.next.inj h
  all_goals with_reducible repeat' (first | exact Keeps.refl _ | apply gate_keeps | apply writeRingLock_keeps | split | assumption | intro)

theorem execRingEnableWrite_keeps {s t : State} (p : Fin 16) (completionRing : Bool) (ring : Fin 8) (value : Word) (h : execRingEnableWrite p completionRing ring value s = .next t) : Keeps s t := by
  unfold execRingEnableWrite at h
  try dsimp only at h
  repeat' split at h
  all_goals obtain rfl := Host.Outcome.next.inj h
  all_goals with_reducible repeat' (first | exact Keeps.refl _ | apply gate_keeps | apply writeRingCtrl_keeps | split | assumption | intro)

theorem execDbgCntWrite_keeps {s t : State} (index : Fin 16) (value : Word) (h : execDbgCntWrite index value s = .next t) : Keeps s t := by
  unfold execDbgCntWrite at h
  try dsimp only at h
  repeat' split at h
  all_goals obtain rfl := Host.Outcome.next.inj h
  all_goals with_reducible repeat' (first | exact Keeps.refl _ | apply gate_keeps | apply writeCounter_keeps | split | assumption | intro)

theorem execRegisterWrite_keeps {s t : State} (offset : Nat) (size : Nat) (value : Word) (h : execRegisterWrite offset size value s = .next t) : Keeps s t := by
  unfold execRegisterWrite at h
  try dsimp only at h
  repeat' split at h
  all_goals obtain rfl := Host.Outcome.next.inj h
  all_goals with_reducible repeat' (first | exact Keeps.refl _ | apply registerWrite_keeps | split | assumption | intro)

theorem execCclWindowAccess_keeps {s t : State} (addr : Nat) (data : Option Bytes) (uncorrectable : Bool) (h : execCclWindowAccess addr data uncorrectable s = .next t) : Keeps s t := by
  unfold execCclWindowAccess at h
  try dsimp only at h
  repeat' split at h
  all_goals obtain rfl := Host.Outcome.next.inj h
  all_goals with_reducible repeat' (first | exact Keeps.refl _ | apply windowAccess_keeps | split | assumption | intro)

theorem execSidebandFrame_keeps {s t : State} (h : execSidebandFrame s = .next t) : Keeps s t := by
  unfold execSidebandFrame at h
  try dsimp only at h
  repeat' split at h
  all_goals obtain rfl := Host.Outcome.next.inj h
  all_goals with_reducible repeat' (first | exact Keeps.refl _ | apply sendFrame_keeps | split | assumption | intro)

theorem execDoorbellInvalidation_keeps {s t : State} (p : Fin 16) (ring : Fin 8) (dt : Nat) (frac : Nat) (h : execDoorbellInvalidation p ring dt frac s = .next t) : Keeps s t := by
  unfold execDoorbellInvalidation at h
  try dsimp only at h
  repeat' split at h
  all_goals obtain rfl := Host.Outcome.next.inj h
  all_goals with_reducible repeat' (first | exact Keeps.refl _ | apply elapseTo_keeps | apply invalidate_keeps | split | assumption | intro)

theorem execDoorbellReadReturn_keeps {s t : State} (p : Fin 16) (ring : Fin 8) (tail : Nat) (descs : List Bytes) (h : execDoorbellReadReturn p ring tail descs s = .next t) : Keeps s t := by
  unfold execDoorbellReadReturn at h
  try dsimp only at h
  repeat' split at h
  all_goals obtain rfl := Host.Outcome.next.inj h
  all_goals with_reducible repeat' (first | exact Keeps.refl _ | apply doorbellReturn_keeps | split | assumption | intro)

theorem execDescriptorBurstFetch_keeps {s t : State} (p : Fin 16) (ring : Fin 8) (descs : List Bytes) (h : execDescriptorBurstFetch p ring descs s = .next t) : Keeps s t := by
  unfold execDescriptorBurstFetch at h
  try dsimp only at h
  repeat' split at h
  all_goals obtain rfl := Host.Outcome.next.inj h
  all_goals with_reducible repeat' (first | exact Keeps.refl _ | apply burstFetch_keeps | split | assumption | intro)

theorem execDispatchSlot_keeps {s t : State} (p : Fin 16) (dt : Nat) (frac : Nat) (h : execDispatchSlot p dt frac s = .next t) : Keeps s t := by
  unfold execDispatchSlot at h
  try dsimp only at h
  repeat' split at h
  all_goals obtain rfl := Host.Outcome.next.inj h
  all_goals with_reducible repeat' (first | exact Keeps.refl _ | apply dispatchSlot_keeps | apply elapseTo_keeps | split | assumption | intro)

theorem execDescriptorCompletion_keeps {s t : State} (p : Fin 16) (h : execDescriptorCompletion p s = .next t) : Keeps s t := by
  unfold execDescriptorCompletion at h
  try dsimp only at h
  repeat' split at h
  all_goals obtain rfl := Host.Outcome.next.inj h
  all_goals with_reducible repeat' (first | exact Keeps.refl _ | apply completeNext_keeps | split | assumption | intro)

theorem execCqModTimerExpiry_keeps {s t : State} (p : Fin 16) (cq : Fin 8) (h : execCqModTimerExpiry p cq s = .next t) : Keeps s t := by
  unfold execCqModTimerExpiry at h
  try dsimp only at h
  repeat' split at h
  all_goals obtain rfl := Host.Outcome.next.inj h
  all_goals with_reducible repeat' (first | exact Keeps.refl _ | apply moderationExpired_keeps | split | assumption | intro)

theorem execCreditLineInvalidation_keeps {s t : State} (p : Fin 16) (cq : Fin 8) (consumed : Nat) (h : execCreditLineInvalidation p cq consumed s = .next t) : Keeps s t := by
  unfold execCreditLineInvalidation at h
  try dsimp only at h
  repeat' split at h
  all_goals obtain rfl := Host.Outcome.next.inj h
  all_goals with_reducible repeat' (first | exact Keeps.refl _ | apply creditReturn_keeps | split | assumption | intro)

theorem execTilePassEnd_keeps {s t : State} (e : PassEnd) (h : execTilePassEnd e s = .next t) : Keeps s t := by
  unfold execTilePassEnd at h
  try dsimp only at h
  repeat' split at h
  all_goals obtain rfl := Host.Outcome.next.inj h
  all_goals with_reducible repeat' (first | exact Keeps.refl _ | apply passEnds_keeps | split | assumption | intro)

theorem execTileCommit_keeps {s t : State} (engine : Fin 128) (h : execTileCommit engine s = .next t) : Keeps s t := by
  unfold execTileCommit at h
  try dsimp only at h
  repeat' split at h
  all_goals obtain rfl := Host.Outcome.next.inj h
  all_goals with_reducible repeat' (first | exact Keeps.refl _ | apply commitTile_keeps | split | assumption | intro)

theorem execWaitFtExpiry_keeps {s t : State} (p : Fin 16) (ring : Fin 8) (h : execWaitFtExpiry p ring s = .next t) : Keeps s t := by
  unfold execWaitFtExpiry at h
  try dsimp only at h
  repeat' split at h
  all_goals obtain rfl := Host.Outcome.next.inj h
  all_goals with_reducible repeat' (first | exact Keeps.refl _ | apply expireWaits_keeps | split | assumption | intro)

theorem execHintRampStart_keeps {s t : State} (p : Fin 16) (h : execHintRampStart p s = .next t) : Keeps s t := by
  unfold execHintRampStart at h
  try dsimp only at h
  repeat' split at h
  all_goals obtain rfl := Host.Outcome.next.inj h
  all_goals with_reducible repeat' (first | exact Keeps.refl _ | apply hintRampStart_keeps | split | assumption | intro)

theorem execHintHoldEnd_keeps {s t : State} (p : Fin 16) (h : execHintHoldEnd p s = .next t) : Keeps s t := by
  unfold execHintHoldEnd at h
  try dsimp only at h
  repeat' split at h
  all_goals obtain rfl := Host.Outcome.next.inj h
  all_goals with_reducible repeat' (first | exact Keeps.refl _ | apply hintHoldEnd_keeps | split | assumption | intro)

theorem execReleaseOutputPhase_keeps {s t : State} (p : Fin 16) (h : execReleaseOutputPhase p s = .next t) : Keeps s t := by
  unfold execReleaseOutputPhase at h
  try dsimp only at h
  repeat' split at h
  all_goals obtain rfl := Host.Outcome.next.inj h
  all_goals with_reducible repeat' (first | exact Keeps.refl _ | apply releaseOutput_keeps | split | assumption | intro)

theorem execTimeExchangeTimer_keeps {s t : State} (port : Fin 6) (frac : Nat) (h : execTimeExchangeTimer port frac s = .next t) : Keeps s t := by
  unfold execTimeExchangeTimer at h
  try dsimp only at h
  repeat' split at h
  all_goals obtain rfl := Host.Outcome.next.inj h
  all_goals with_reducible repeat' (first | exact Keeps.refl _ | apply timeTimer_keeps | split | assumption | intro)

theorem execTimeReceive_keeps {s t : State} (port : Fin 6) (m : TimeMsg) (h : execTimeReceive port m s = .next t) : Keeps s t := by
  unfold execTimeReceive at h
  try dsimp only at h
  repeat' split at h
  all_goals obtain rfl := Host.Outcome.next.inj h
  all_goals with_reducible repeat' (first | exact Keeps.refl _ | apply timeArrives_keeps | split | assumption | intro)

theorem execFtPpsEdge_keeps {s t : State} (dt : Nat) (frac : Nat) (h : execFtPpsEdge dt frac s = .next t) : Keeps s t := by
  unfold execFtPpsEdge at h
  try dsimp only at h
  repeat' split at h
  all_goals obtain rfl := Host.Outcome.next.inj h
  all_goals with_reducible repeat' (first | exact Keeps.refl _ | apply ppsEdge_keeps | split | assumption | intro)

theorem execFtTodNextWrite_keeps {s t : State} (value : Word) (h : execFtTodNextWrite value s = .next t) : Keeps s t := by
  unfold execFtTodNextWrite at h
  try dsimp only at h
  repeat' split at h
  all_goals obtain rfl := Host.Outcome.next.inj h
  all_goals with_reducible repeat' (first | exact Keeps.refl _ | apply gate_keeps | apply writeTod_keeps | split | assumption | intro)

theorem execFtCtrlSrcWrite_keeps {s t : State} (value : Word) (h : execFtCtrlSrcWrite value s = .next t) : Keeps s t := by
  unfold execFtCtrlSrcWrite at h
  try dsimp only at h
  repeat' split at h
  all_goals obtain rfl := Host.Outcome.next.inj h
  all_goals with_reducible repeat' (first | exact Keeps.refl _ | apply gate_keeps | apply writeSource_keeps | split | assumption | intro)

theorem execFtSnapGo_keeps {s t : State} (frac : Nat) (h : execFtSnapGo frac s = .next t) : Keeps s t := by
  unfold execFtSnapGo at h
  try dsimp only at h
  repeat' split at h
  all_goals obtain rfl := Host.Outcome.next.inj h
  all_goals with_reducible repeat' (first | exact Keeps.refl _ | apply gate_keeps | apply snapTime_keeps | split | assumption | intro)

theorem execPpsLossTimeout_keeps {s t : State} (h : execPpsLossTimeout s = .next t) : Keeps s t := by
  unfold execPpsLossTimeout at h
  try dsimp only at h
  repeat' split at h
  all_goals obtain rfl := Host.Outcome.next.inj h
  all_goals with_reducible repeat' (first | exact Keeps.refl _ | apply ppsLost_keeps | split | assumption | intro)

theorem execShawlTimeLossTimeout_keeps {s t : State} (h : execShawlTimeLossTimeout s = .next t) : Keeps s t := by
  unfold execShawlTimeLossTimeout at h
  try dsimp only at h
  repeat' split at h
  all_goals obtain rfl := Host.Outcome.next.inj h
  all_goals with_reducible repeat' (first | exact Keeps.refl _ | apply shawlTimeLost_keeps | split | assumption | intro)

theorem execHoldoverErrorLimit_keeps {s t : State} (h : execHoldoverErrorLimit s = .next t) : Keeps s t := by
  unfold execHoldoverErrorLimit at h
  try dsimp only at h
  repeat' split at h
  all_goals obtain rfl := Host.Outcome.next.inj h
  all_goals with_reducible repeat' (first | exact Keeps.refl _ | apply holdoverEnds_keeps | split | assumption | intro)

theorem execRecoverOpenResume_keeps {s t : State} (p : Fin 16) (h : execRecoverOpenResume p s = .next t) : Keeps s t := by
  unfold execRecoverOpenResume at h
  try dsimp only at h
  repeat' split at h
  all_goals obtain rfl := Host.Outcome.next.inj h
  all_goals with_reducible repeat' (first | exact Keeps.refl _ | apply resumeOpens_keeps | split | assumption | intro)

theorem execWindowOpenInstant_keeps {s t : State} (p : Fin 16) (k : WinKind) (h : execWindowOpenInstant p k s = .next t) : Keeps s t := by
  unfold execWindowOpenInstant at h
  try dsimp only at h
  repeat' split at h
  all_goals obtain rfl := Host.Outcome.next.inj h
  all_goals with_reducible repeat' (first | exact Keeps.refl _ | apply openInstant_keeps | split | assumption | intro)

theorem execWindowCloseInstant_keeps {s t : State} (p : Fin 16) (k : WinKind) (h : execWindowCloseInstant p k s = .next t) : Keeps s t := by
  unfold execWindowCloseInstant at h
  try dsimp only at h
  repeat' split at h
  all_goals obtain rfl := Host.Outcome.next.inj h
  all_goals with_reducible repeat' (first | exact Keeps.refl _ | apply reachClose_keeps | split | assumption | intro)

theorem execWindowClosed_keeps {s t : State} (p : Fin 16) (k : WinKind) (h : execWindowClosed p k s = .next t) : Keeps s t := by
  unfold execWindowClosed at h
  try dsimp only at h
  repeat' split at h
  all_goals obtain rfl := Host.Outcome.next.inj h
  all_goals with_reducible repeat' (first | exact Keeps.refl _ | apply windowsMoved_keeps | apply reachClosed_keeps | split | assumption | intro)

theorem execIngestSlotResume_keeps {s t : State} (p : Fin 16) (h : execIngestSlotResume p s = .next t) : Keeps s t := by
  unfold execIngestSlotResume at h
  try dsimp only at h
  repeat' split at h
  all_goals obtain rfl := Host.Outcome.next.inj h
  all_goals with_reducible repeat' (first | exact Keeps.refl _ | apply windowsMoved_keeps | split | assumption | intro)

theorem execAcceptNumberAssign_keeps {s t : State} (p : Fin 16) (h : execAcceptNumberAssign p s = .next t) : Keeps s t := by
  unfold execAcceptNumberAssign at h
  try dsimp only at h
  repeat' split at h
  all_goals obtain rfl := Host.Outcome.next.inj h
  all_goals with_reducible repeat' (first | exact Keeps.refl _ | apply windowsMoved_keeps | apply assignNext_keeps | split | assumption | intro)

theorem execSubmitReceive_keeps {s t : State} (a : Arrival) (h : execSubmitReceive a s = .next t) : Keeps s t := by
  unfold execSubmitReceive at h
  try dsimp only at h
  repeat' split at h
  all_goals obtain rfl := Host.Outcome.next.inj h
  all_goals with_reducible repeat' (first | exact Keeps.refl _ | apply windowsMoved_keeps | apply submitArrives_keeps | split | assumption | intro)

theorem execSubmitReplyReceive_keeps {s t : State} (a : Arrival) (h : execSubmitReplyReceive a s = .next t) : Keeps s t := by
  unfold execSubmitReplyReceive at h
  try dsimp only at h
  repeat' split at h
  all_goals obtain rfl := Host.Outcome.next.inj h
  all_goals with_reducible repeat' (first | exact Keeps.refl _ | apply submitReplyArrives_keeps | split | assumption | intro)

theorem execSubmissionGapTimeout_keeps {s t : State} (p : Fin 16) (h : execSubmissionGapTimeout p s = .next t) : Keeps s t := by
  unfold execSubmissionGapTimeout at h
  try dsimp only at h
  repeat' split at h
  all_goals obtain rfl := Host.Outcome.next.inj h
  all_goals with_reducible repeat' (first | exact Keeps.refl _ | apply windowsMoved_keeps | apply gapSubmission_keeps | split | assumption | intro)

theorem exec_keeps {i : Instr} {s t : State} (he : exec i s = .next t) : Keeps s t := by
  cases i with
  | nop h => exact execNop_keeps h he
  | fence h o => exact execFence_keeps h o he
  | waitFt h o => exact execWaitFt_keeps h o he
  | waitFtExpiry p ring => exact execWaitFtExpiry_keeps p ring he
  | hint h o => exact execHint_keeps h o he
  | hintRampStart p => exact execHintRampStart_keeps p he
  | hintHoldEnd p => exact execHintHoldEnd_keeps p he
  | copy h o => exact execCopy_keeps h o he
  | fill h o => exact execFill_keeps h o he
  | windowOpen h o => exact execWindowOpen_keeps h o he
  | recoverOpenResume p => exact execRecoverOpenResume_keeps p he
  | windowOpenInstant p k => exact execWindowOpenInstant_keeps p k he
  | windowCloseInstant p k => exact execWindowCloseInstant_keeps p k he
  | windowClosed p k => exact execWindowClosed_keeps p k he
  | windowClose h o => exact execWindowClose_keeps h o he
  | ingest h o => exact execIngest_keeps h o he
  | ingestSlotResume p => exact execIngestSlotResume_keeps p he
  | acceptNumberAssign p => exact execAcceptNumberAssign_keeps p he
  | accumulate h o => exact execAccumulate_keeps h o he
  | tilePassEnd engine => exact execTilePassEnd_keeps engine he
  | tileCommit engine => exact execTileCommit_keeps engine he
  | accDrain h o => exact execAccDrain_keeps h o he
  | statsSumsq h o => exact execStatsSumsq_keeps h o he
  | statsMoments h o => exact execStatsMoments_keeps h o he
  | statsFinish h o => exact execStatsFinish_keeps h o he
  | statsRsqrt h o => exact execStatsRsqrt_keeps h o he
  | rank h o => exact execRank_keeps h o he
  | zipSend h o => exact execZipSend_keeps h o he
  | zipRecv h o => exact execZipRecv_keeps h o he
  | zipTileReceive a => exact execZipTileReceive_keeps a he
  | zipCreditReceive a => exact execZipCreditReceive_keeps a he
  | zipReplyReceive a => exact execZipReplyReceive_keeps a he
  | zipperDeadlineExpiry p => exact execZipperDeadlineExpiry_keeps p he
  | maskExpand h o => exact execMaskExpand_keeps h o he
  | shareRecon h o => exact execShareRecon_keeps h o he
  | seedDeriveGraph h o => exact execSeedDeriveGraph_keeps h o he
  | seedDeriveDerive h o => exact execSeedDeriveDerive_keeps h o he
  | ntt h o => exact execNtt_keeps h o he
  | intt h o => exact execIntt_keeps h o he
  | pmulMul h o => exact execPmulMul_keeps h o he
  | pmulMac h o => exact execPmulMac_keeps h o he
  | pmulSmul h o => exact execPmulSmul_keeps h o he
  | pmulFxmul h o => exact execPmulFxmul_keeps h o he
  | baseconv h o => exact execBaseconv_keeps h o he
  | ctAddFold h o => exact execCtAddFold_keeps h o he
  | ctAddAdd h o => exact execCtAddAdd_keeps h o he
  | ctAddSub h o => exact execCtAddSub_keeps h o he
  | keyswitch h o => exact execKeyswitch_keeps h o he
  | rotate h o => exact execRotate_keeps h o he
  | rescale h o => exact execRescale_keeps h o he
  | modswitch h o => exact execModswitch_keeps h o he
  | partialDec h o => exact execPartialDec_keeps h o he
  | kemDecapSealed h o => exact execKemDecapSealed_keeps h o he
  | kemDecapBundle h o => exact execKemDecapBundle_keeps h o he
  | sealedOpen h o => exact execSealedOpen_keeps h o he
  | clip h o => exact execClip_keeps h o he
  | dpNoise h o => exact execDpNoise_keeps h o he
  | releaseAggregate h o => exact execReleaseAggregate_keeps h o he
  | releaseShare h o => exact execReleaseShare_keeps h o he
  | releaseOutputPhase p => exact execReleaseOutputPhase_keeps p he
  | rmaWrite h o => exact execRmaWrite_keeps h o he
  | rmaRead h o => exact execRmaRead_keeps h o he
  | rmaAdd h o => exact execRmaAdd_keeps h o he
  | attest h o => exact execAttest_keeps h o he
  | keyImport h o => exact execKeyImport_keeps h o he
  | keyDestroy h o => exact execKeyDestroy_keeps h o he
  | modelUnseal h o => exact execModelUnseal_keeps h o he
  | modelSeal h o => exact execModelSeal_keeps h o he
  | doorbellInvalidation p ring dt frac => exact execDoorbellInvalidation_keeps p ring dt frac he
  | doorbellReadReturn p ring tail descs => exact execDoorbellReadReturn_keeps p ring tail descs he
  | descriptorBurstFetch p ring descs => exact execDescriptorBurstFetch_keeps p ring descs he
  | dispatchSlot p dt frac => exact execDispatchSlot_keeps p dt frac he
  | descriptorCompletion p => exact execDescriptorCompletion_keeps p he
  | cqModTimerExpiry p cq => exact execCqModTimerExpiry_keeps p cq he
  | creditLineInvalidation p cq consumed => exact execCreditLineInvalidation_keeps p cq consumed he
  | submitReceive a => exact execSubmitReceive_keeps a he
  | submitReplyReceive a => exact execSubmitReplyReceive_keeps a he
  | submissionGapTimeout p => exact execSubmissionGapTimeout_keeps p he
  | fecBlockReceive port number block lossLane frac => exact execFecBlockReceive_keeps port number block lossLane frac he
  | linkAckReceive port block entries => exact execLinkAckReceive_keeps port block entries he
  | linkNakReceive port block => exact execLinkNakReceive_keeps port block he
  | linkRemapReceive port lane spare echo block => exact execLinkRemapReceive_keeps port lane spare echo block he
  | linkAckTimerExpiry port => exact execLinkAckTimerExpiry_keeps port he
  | portTrainingComplete port partnerType partnerId partnerPort => exact execPortTrainingComplete_keeps port partnerType partnerId partnerPort he
  | portTrainingAttemptFail port => exact execPortTrainingAttemptFail_keeps port he
  | portRetrainEnd port lanes => exact execPortRetrainEnd_keeps port lanes he
  | cableChange port connected => exact execCableChange_keeps port connected he
  | egressSlot port => exact execEgressSlot_keeps port he
  | timeExchangeTimer port frac => exact execTimeExchangeTimer_keeps port frac he
  | timeReceive port m => exact execTimeReceive_keeps port m he
  | ftPpsEdge dt frac => exact execFtPpsEdge_keeps dt frac he
  | ftTodNextWrite value => exact execFtTodNextWrite_keeps value he
  | ftCtrlSrcWrite value => exact execFtCtrlSrcWrite_keeps value he
  | ftSnapGo frac => exact execFtSnapGo_keeps frac he
  | ppsLossTimeout => exact execPpsLossTimeout_keeps he
  | shawlTimeLossTimeout => exact execShawlTimeLossTimeout_keeps he
  | holdoverErrorLimit => exact execHoldoverErrorLimit_keeps he
  | jobTearReceive a => exact execJobTearReceive_keeps a he
  | tearEntryExpiry keyId src tearId => exact execTearEntryExpiry_keeps keyId src tearId he
  | rmaWritePacket a => exact execRmaWritePacket_keeps a he
  | rmaReadReqPacket a => exact execRmaReadReqPacket_keeps a he
  | rmaReadRespPacket a => exact execRmaReadRespPacket_keeps a he
  | rmaAddPacket a => exact execRmaAddPacket_keeps a he
  | rmaReplyPacket a => exact execRmaReplyPacket_keeps a he
  | contextFetchComplete p qpn record => exact execContextFetchComplete_keeps p qpn record he
  | contextFetchTimeout p qpn => exact execContextFetchTimeout_keeps p qpn he
  | rmaResponseTimeout p qpn => exact execRmaResponseTimeout_keeps p qpn he
  | rmaTargetGapTimeout p qpn => exact execRmaTargetGapTimeout_keeps p qpn he
  | qpCreate p qpn => exact execQpCreate_keeps p qpn he
  | qpReinitialise p qpn => exact execQpReinitialise_keeps p qpn he
  | qpDestroy p qpn => exact execQpDestroy_keeps p qpn he
  | pdBind p pd value => exact execPdBind_keeps p pd value he
  | spaceEnable p k value => exact execSpaceEnable_keeps p k value he
  | spaceRevoke p k => exact execSpaceRevoke_keeps p k he
  | spaceRevokeDone p k => exact execSpaceRevokeDone_keeps p k he
  | spaceRelease p k => exact execSpaceRelease_keeps p k he
  | ptnCreate p policy => exact execPtnCreate_keeps p policy he
  | ptnScrub p => exact execPtnScrub_keeps p he
  | ptnDestroy p => exact execPtnDestroy_keeps p he
  | ptnReset p => exact execPtnReset_keeps p he
  | ptnResetComplete p => exact execPtnResetComplete_keeps p he
  | partitionFault site => exact execPartitionFault_keeps site he
  | engineSlotFailure sleeve slot => exact execEngineSlotFailure_keeps sleeve slot he
  | keystreamUnitFailure sleeve unit => exact execKeystreamUnitFailure_keeps sleeve unit he
  | lapelParityError lapel => exact execLapelParityError_keeps lapel he
  | liningRowThreshold sleeve row => exact execLiningRowThreshold_keeps sleeve row he
  | bondLaneFailure sleeve lane => exact execBondLaneFailure_keeps sleeve lane he
  | seamLaneFailure dir lane => exact execSeamLaneFailure_keeps dir lane he
  | cclLaneFailure lane => exact execCclLaneFailure_keeps lane he
  | cclRetrain success => exact execCclRetrain_keeps success he
  | deviceFailed d => exact execDeviceFailed_keeps d he
  | patrolScrub t r => exact execPatrolScrub_keeps t r he
  | clearFill d block => exact execClearFill_keeps d block he
  | computeReset => exact execComputeReset_keeps he
  | computeResetComplete failedSlots imagesMatch => exact execComputeResetComplete_keeps failedSlots imagesMatch he
  | moduleFaultEntry code => exact execModuleFaultEntry_keeps code he
  | moduleResetCommand => exact execModuleResetCommand_keeps he
  | thermalTrip => exact execThermalTrip_keeps he
  | tripCooldown => exact execTripCooldown_keeps he
  | powerUp => exact execPowerUp_keeps he
  | resetNPulse lowNs => exact execResetNPulse_keeps lowNs he
  | moduleReset => exact execModuleReset_keeps he
  | powerDown => exact execPowerDown_keeps he
  | railFault rail => exact execRailFault_keeps rail he
  | collarSlotStart slot signatureOk => exact execCollarSlotStart_keeps slot signatureOk he
  | collarSlotEnd => exact execCollarSlotEnd_keeps he
  | colBootGo image signatureOk followerOk => exact execColBootGo_keeps image signatureOk followerOk he
  | colUpdGo message => exact execColUpdGo_keeps message he
  | colAttGo nonce => exact execColAttGo_keeps nonce he
  | lcArm op => exact execLcArm_keeps op he
  | lcArmTimeout => exact execLcArmTimeout_keeps he
  | lcProvision checkOk => exact execLcProvision_keeps checkOk he
  | lcRetire => exact execLcRetire_keeps he
  | keyExpiry p kind linkKeyId => exact execKeyExpiry_keeps p kind linkKeyId he
  | meterMinuteEnd => exact execMeterMinuteEnd_keeps he
  | meterMsSample => exact execMeterMsSample_keeps he
  | entropyBlock source raw => exact execEntropyBlock_keeps source raw he
  | healthTestFail source test => exact execHealthTestFail_keeps source test he
  | sourceRetryTimer source => exact execSourceRetryTimer_keeps source he
  | sourceWarmupDone source => exact execSourceWarmupDone_keeps source he
  | poolBlock => exact execPoolBlock_keeps he
  | drbgReseed => exact execDrbgReseed_keeps he
  | entropyStallTimeout p => exact execEntropyStallTimeout_keeps p he
  | entDataRead => exact execEntDataRead_keeps he
  | entTpEnable value => exact execEntTpEnable_keeps value he
  | powerInterval rails => exact execPowerInterval_keeps rails he
  | thermalSensorRead readings => exact execThermalSensorRead_keeps readings he
  | pwrOpWrite value => exact execPwrOpWrite_keeps value he
  | freqStepCommit => exact execFreqStepCommit_keeps he
  | railSettled => exact execRailSettled_keeps he
  | slotFreqSwitch slot => exact execSlotFreqSwitch_keeps slot he
  | droopDetect detector => exact execDroopDetect_keeps detector he
  | droopClear => exact execDroopClear_keeps he
  | ageingRead slot reading => exact execAgeingRead_keeps slot reading he
  | eolPrediction engines lanes em => exact execEolPrediction_keeps engines lanes em he
  | bstStart kind index bootTime => exact execBstStart_keeps kind index bootTime he
  | bstComplete failedUnits => exact execBstComplete_keeps failedUnits he
  | glbLockWrite value => exact execGlbLockWrite_keeps value he
  | ringLockWrite p value => exact execRingLockWrite_keeps p value he
  | ringEnableWrite p completionRing ring value => exact execRingEnableWrite_keeps p completionRing ring value he
  | shwPortEnable port => exact execShwPortEnable_keeps port he
  | shwPortRetrain port => exact execShwPortRetrain_keeps port he
  | shwRtSwap => exact execShwRtSwap_keeps he
  | shwDimWrite value => exact execShwDimWrite_keeps value he
  | shwQueueFlush die queue => exact execShwQueueFlush_keeps die queue he
  | dbgCntWrite index value => exact execDbgCntWrite_keeps index value he
  | sidebandFrame => exact execSidebandFrame_keeps he
  | registerWrite offset size value => exact execRegisterWrite_keeps offset size value he
  | cclWindowAccess addr data uncorrectable => exact execCclWindowAccess_keeps addr data uncorrectable he
  | blockLockLost port => exact execBlockLockLost_keeps port he

end Sys2Proof.Machine
end

