-- ==== Sys2Proof/Laws/Dispatch.lean ====
section
/-! SUPPORT. What taking up a descriptor leaves: the descriptor in flight, and everything else as it was. -/

namespace Sys2Proof.Machine

set_option Elab.async false

/-- Counting an event changes the debug counters alone. -/
theorem countEvent_only (s : State) (ev : Nat) (sc : List (Nat × Nat)) (n : Nat) :
    countEvent s ev sc n = { s with dbg := (countEvent s ev sc n).dbg } := by
  unfold countEvent
  dsimp only
  split <;> rfl

/-- The descriptor as it is taken up. -/
def takenFlight (s : State) (h : DescHdr) (b : DescBody) (rs : List (Nat × Nat)) : InFlight :=
  { id := s.nextId, h := h, body := b, opcode := opcodeOf b, dispatchFt := instant s, phase := .running,
    reserved := rs, jobs := [], committed := 0, replays := 0, skipped := 0,
    saturated := false, lost := false, touched := [], stallFrom := none, faultRef := 0, result := 0, verdicts := [], done := none,
    key := (keyKind (opcodeOf b)).bind (storedKey s h.p.val) }

/-- Taking a descriptor up changes the descriptors in flight, their numbers and the debug counters. -/
theorem takenUp_only (s : State) (h : DescHdr) (b : DescBody) :
    takenUp s h b = { s with dbg := (countEvent s 1 (servedBy s h.p.val) 1).dbg, nextId := s.nextId + 1,
                             inflight := s.inflight ++ [takenFlight s h b (reserves s h b)] } := by
  unfold takenUp
  rw [countEvent_only]
  rfl

theorem onlyFlights_takenUp (s : State) (h : DescHdr) (b : DescBody) : OnlyFlights s (takenUp s h b) := by
  rw [OnlyFlights, takenUp_only]

/-- A descriptor that passes its tests starts its work. -/
theorem dispatch_runs {s : State} {h : DescHdr} {b : DescBody} (hd : Dispatches s h b) :
    dispatchDesc h b s = startBody (takenUp s h b) s.nextId h b := by
  obtain ⟨h1, h2, h3⟩ := hd
  unfold dispatchDesc
  simp only [h1, h2, h3, Bool.not_true, Bool.false_eq_true, if_false]
  rfl

/-- A number that no descriptor in flight has. -/
theorem find_none_of_ordered {s : State} (ho : FlightsOrdered s) : s.inflight.find? (fun f => f.id == s.nextId) = none := by
  rw [List.find?_eq_none]
  intro f hf
  have := ho.2 f hf
  simp only [beq_iff_eq]
  omega

/-- The descriptor taken up is the one in flight under the next number. -/
theorem flight_takenUp {s : State} (ho : FlightsOrdered s) (h : DescHdr) (b : DescBody) :
    flight (takenUp s h b) s.nextId = some (takenFlight s h b (reserves s h b)) := by
  rw [takenUp_only]
  unfold flight
  simp only [List.find?_append, find_none_of_ordered ho, Option.none_or]
  simp only [List.find?_cons, takenFlight, beq_self_eq_true]

/-- Changing a descriptor in flight, seen through its number. -/
theorem flight_modFlight_same (s : State) (id : Nat) {f : InFlight → InFlight} (hf : ∀ x, (f x).id = x.id) :
    flight (modFlight s id f) id = (flight s id).map f := by
  unfold flight modFlight
  simp only
  induction s.inflight with
  | nil => rfl
  | cons x xs ih =>
    simp only [List.map_cons, List.find?_cons]
    by_cases hx : x.id = id
    · simp only [hx, if_true, hf, beq_self_eq_true, Option.map_some]
    · have hb : (x.id == id) = false := by simp only [beq_eq_false_iff_ne]; exact hx
      simp only [if_neg hx, hb, ih]

/-- Another descriptor in flight is not changed. -/
theorem flight_modFlight_other (s : State) {id k : Nat} (hk : id ≠ k) {f : InFlight → InFlight} (hf : ∀ x, (f x).id = x.id) :
    flight (modFlight s id f) k = flight s k := by
  unfold flight modFlight
  simp only
  induction s.inflight with
  | nil => rfl
  | cons x xs ih =>
    simp only [List.map_cons, List.find?_cons]
    by_cases hx : x.id = id
    · have hb : (x.id == k) = false := by simp only [beq_eq_false_iff_ne, hx]; exact hk
      simp only [hx, if_true, hf]
      rw [hx] at hb
      simp only [hb, ih]
    · simp only [if_neg hx, ih]

/-- What finishing a descriptor does. -/
theorem finishRef_only (s : State) (id : Nat) (st : Status) (r ref : Nat) :
    finishRef s id st r ref = { s with inflight := (finishRef s id st r ref).inflight } := rfl

theorem flight_finishRef (s : State) (id : Nat) (st : Status) (r ref : Nat) :
    flight (finishRef s id st r ref) id = (flight s id).map (fun f =>
      { f with done := some { status := st, result := r, faultRef := ref, ft := now s }, jobs := [], reserved := [],
               phase := .running }) :=
  flight_modFlight_same s id (fun _ => rfl)

/-- A descriptor in flight that is finished ends. -/
theorem ends_finish {s u : State} {h : DescHdr} {b : DescBody} {f : InFlight} (st : Status) (r : Nat)
    (hf : flight u s.nextId = some f) (hh : f.h = h) (hb : f.body = b) (hn : now u = now s) :
    Ends s (finish u s.nextId st r) h b st r := by
  unfold Ends finish
  rw [flight_finishRef, hf, hn]
  exact ⟨_, rfl, hh, hb, rfl, rfl, rfl⟩

/-- A descriptor that ends as it is taken up. -/
theorem finish_takenUp {s : State} (ho : FlightsOrdered s) (h : DescHdr) (b : DescBody) (st : Status) (r : Nat) :
    Ends s (finish (takenUp s h b) s.nextId st r) h b st r ∧ OnlyFlights s (finish (takenUp s h b) s.nextId st r) := by
  constructor
  · refine ends_finish st r (flight_takenUp ho h b) rfl rfl ?_
    rw [takenUp_only]
    rfl
  · have hs : OnlyFlights s (takenUp s h b) := onlyFlights_takenUp s h b
    revert hs
    generalize takenUp s h b = u
    intro hs
    rw [hs]
    rfl

/-- A descriptor in flight that is put into a waiting phase. -/
theorem flies_waitIn {s u : State} {h : DescHdr} {b : DescBody} {f : InFlight} (ph : Phase)
    (hf : flight u s.nextId = some f) (hh : f.h = h) (hb : f.body = b) (hd : f.done = none) :
    Flies s (waitIn u s.nextId ph) h b ph f.jobs := by
  have e : flight (waitIn u s.nextId ph) s.nextId = (flight u s.nextId).map (fun g => { g with phase := ph }) :=
    flight_modFlight_same u s.nextId (fun _ => rfl)
  unfold Flies
  rw [e, hf]
  exact ⟨_, rfl, hh, hb, hd, rfl, rfl⟩

/-- A descriptor that waits as it is taken up. -/
theorem waitIn_takenUp {s : State} (ho : FlightsOrdered s) (h : DescHdr) (b : DescBody) (ph : Phase) :
    Flies s (waitIn (takenUp s h b) s.nextId ph) h b ph [] ∧ OnlyFlights s (waitIn (takenUp s h b) s.nextId ph) := by
  constructor
  · exact flies_waitIn ph (flight_takenUp ho h b) rfl rfl rfl
  · have hs : OnlyFlights s (takenUp s h b) := onlyFlights_takenUp s h b
    revert hs
    generalize takenUp s h b = u
    intro hs
    rw [hs]
    rfl

/-- Where nothing but descriptors in flight has changed, memory has not. -/
theorem OnlyFlights.store {s t : State} (h : OnlyFlights s t) : StoreKept s t := by
  unfold OnlyFlights at h
  rw [h]
  exact ⟨fun _ => ⟨rfl, rfl⟩, rfl, rfl⟩

end Sys2Proof.Machine
end

