-- ==== Sys2Proof/Laws/Memory.lean ====
section
/-! SUPPORT. Reading memory after a store: the bytes stored read back, and every other byte reads as before. -/

namespace Sys2Proof.Machine

set_option Elab.async false

/-- Below its first address memory reads as the default. -/
theorem memRead_below : ∀ {m : Memory} {lo x : Nat}, memWfFrom lo m = true → x < lo → memRead m x = memDefault
  | [], _, _, _, _ => rfl
  | (j, b) :: t, lo, x, h, hx => by
    simp only [memWfFrom, Bool.and_eq_true, decide_eq_true_eq] at h
    simp only [memRead]
    rw [if_neg (by omega)]
    exact memRead_below h.2 (by omega)

theorem memRead_append_left : ∀ {m u : Memory} {x : Nat}, (∀ c ∈ m, c.1 ≠ x) → memRead (m ++ u) x = memRead u x
  | [], _, _, _ => rfl
  | (j, b) :: t, u, x, h => by
    simp only [List.cons_append, memRead]
    rw [if_neg (h (j, b) List.mem_cons_self)]
    exact memRead_append_left (fun c hc => h c (List.mem_cons_of_mem _ hc))

/-- Cells of stored bytes read back. -/
theorem memRead_cells {u : Memory} : ∀ (bs : Bytes) (a i : Nat), i < bs.length → memWfFrom (a + bs.length) u = true →
    memRead (memCells a bs ++ u) (a + i) = bs.getD i memDefault
  | [], _, _, h, _ => absurd h (Nat.not_lt_zero _)
  | b :: bs, a, i, h, hu => by
    have hu' : memWfFrom (a + 1 + bs.length) u = true := by
      rw [show a + 1 + bs.length = a + (b :: bs).length by simp only [List.length_cons]; omega]; exact hu
    cases i with
    | zero =>
      simp only [memCells, Nat.add_zero, List.getD_cons_zero]
      split
      · rename_i hb
        rw [hb]
        exact memRead_below (memWfFrom_cells bs (a + 1) hu') (Nat.lt_succ_self a)
      · simp only [List.cons_append, memRead, if_true]
    | succ i =>
      have hi : i < bs.length := by simpa using h
      have := memRead_cells bs (a + 1) i hi hu'
      simp only [memCells, List.getD_cons_succ]
      rw [show a + (i + 1) = a + 1 + i by omega]
      split
      · exact this
      · simp only [List.cons_append, memRead]
        rw [if_neg (by omega)]
        exact this

theorem memCells_range : ∀ (bs : Bytes) (a : Nat), ∀ c ∈ memCells a bs, a ≤ c.1 ∧ c.1 < a + bs.length
  | [], _, c, h => absurd h List.not_mem_nil
  | b :: bs, a, c, h => by
    simp only [memCells] at h
    simp only [List.length_cons]
    split at h
    · have := memCells_range bs (a + 1) c h
      omega
    · rcases List.mem_cons.mp h with rfl | h
      · simp only []; omega
      · have := memCells_range bs (a + 1) c h
        omega

theorem memRead_drop : ∀ {m : Memory} {lo b x : Nat}, memWfFrom lo m = true → b ≤ x →
    memRead (m.dropWhile (fun c => c.1 < b)) x = memRead m x
  | [], _, _, _, _, _ => rfl
  | (j, y) :: t, lo, b, x, h, hx => by
    simp only [memWfFrom, Bool.and_eq_true, decide_eq_true_eq] at h
    simp only [List.dropWhile]
    split
    · rename_i hj
      simp only [decide_eq_true_eq] at hj
      rw [memRead_drop h.2 hx]
      simp only [memRead]
      rw [if_neg (by omega)]
    · rfl

theorem memRead_take {u : Memory} : ∀ {m : Memory} {lo b x : Nat}, memWfFrom lo m = true → memWfFrom b u = true → x < b →
    memRead (m.takeWhile (fun c => c.1 < b) ++ u) x = memRead m x
  | [], _, _, _, _, hu, hx => memRead_below hu hx
  | (j, y) :: t, lo, b, x, h, hu, hx => by
    simp only [memWfFrom, Bool.and_eq_true, decide_eq_true_eq] at h
    simp only [List.takeWhile]
    split
    · simp only [List.cons_append, memRead]
      split
      · rfl
      · exact memRead_take h.2 hu hx
    · rename_i hj
      simp only [decide_eq_false_iff_not, not_lt] at hj
      simp only [List.nil_append, memRead]
      rw [memRead_below hu hx, if_neg (by omega)]
      exact (memRead_below h.2 (by omega)).symm

theorem takeWhile_below {m : Memory} {b : Nat} : ∀ c ∈ m.takeWhile (fun c => c.1 < b), c.1 < b := by
  induction m with
  | nil => intro c h; exact absurd h List.not_mem_nil
  | cons d t ih =>
    intro c h
    simp only [List.takeWhile] at h
    split at h
    · rename_i hd
      rcases List.mem_cons.mp h with rfl | h
      · exact of_decide_eq_true hd
      · exact ih c h
    · exact absurd h List.not_mem_nil

/-- What a store does: each stored byte reads back, and every other byte reads as before. -/
theorem memRead_write {m : Memory} (h : m.wf = true) (a : Nat) (bs : Bytes) (x : Nat) :
    memRead (memWriteRange m a bs) x = if a ≤ x ∧ x < a + bs.length then bs.getD (x - a) memDefault else memRead m x := by
  have hd : memWfFrom (a + bs.length) (m.dropWhile (fun c => c.1 < a + bs.length)) = true := memWfFrom_drop h
  have hc : memWfFrom a (memCells a bs ++ m.dropWhile (fun c => c.1 < a + bs.length)) = true := memWfFrom_cells bs a hd
  unfold memWriteRange
  rw [List.append_assoc]
  by_cases hx : x < a
  · rw [memRead_take h hc hx, if_neg (by omega)]
  · rw [memRead_append_left (fun c hm => by have := takeWhile_below c hm; omega)]
    by_cases hy : x < a + bs.length
    · rw [if_pos ⟨by omega, hy⟩]
      have := memRead_cells (u := m.dropWhile (fun c => c.1 < a + bs.length)) bs a (x - a) (by omega) hd
      rw [show a + (x - a) = x by omega] at this
      exact this
    · rw [if_neg (by omega), memRead_append_left (fun c hm => by have := memCells_range bs a c hm; omega), memRead_drop h (by omega)]

/-- A range read is the bytes of its addresses, one by one. -/
theorem memTake_eq : ∀ (n : Nat) {m : Memory} {a : Nat}, memWfFrom a m = true →
    memTake n m a = (List.range n).map (fun i => memRead m (a + i))
  | 0, _, _, _ => rfl
  | n + 1, [], a, h => by
    have ih := memTake_eq n (m := []) (a := a + 1) rfl
    simp only [memTake, List.range_succ_eq_map, List.map_cons, List.map_map, ih, memRead]
    rfl
  | n + 1, (j, b) :: t, a, h => by
    have h' := h
    simp only [memWfFrom, Bool.and_eq_true, decide_eq_true_eq] at h
    rw [List.range_succ_eq_map, List.map_cons, List.map_map]
    simp only [memTake]
    split
    · rename_i hj
      rw [memTake_eq n (a := a + 1) (memWfFrom_mono (by omega) h.2)]
      simp only [Nat.add_zero, memRead, if_pos hj]
      congr 1
      apply List.map_congr_left
      intro i _
      simp only [Function.comp]
      rw [if_neg (by omega), show a + 1 + i = a + (i + 1) by omega]
    · rename_i hj
      have hw : memWfFrom (a + 1) ((j, b) :: t) = true := by
        simp only [memWfFrom, Bool.and_eq_true, decide_eq_true_eq]
        exact ⟨⟨by omega, h.1.2⟩, h.2⟩
      rw [memTake_eq n hw, memRead_below hw (by omega)]
      congr 1
      apply List.map_congr_left
      intro i _
      simp only [Function.comp]
      rw [show a + 1 + i = a + (i + 1) by omega]

theorem memReadRange_eq {m : Memory} (h : m.wf = true) (a n : Nat) :
    memReadRange m a n = (List.range n).map (fun i => memRead m (a + i)) := by
  unfold memReadRange memFrom
  rw [memTake_eq n (memWfFrom_drop h)]
  apply List.map_congr_left
  intro i _
  exact memRead_drop h (by omega)

/-- A zeroed range reads as zero, and every other byte as before. -/
theorem memRead_zero {a n x : Nat} : ∀ {m : Memory} {lo : Nat}, memWfFrom lo m = true →
    memRead (memZero m a n) x = if a ≤ x ∧ x < a + n then memDefault else memRead m x
  | [], _, _ => by simp only [memZero, List.filter, memRead, ite_self]
  | (j, b) :: t, lo, h => by
    simp only [memWfFrom, Bool.and_eq_true, decide_eq_true_eq] at h
    have ih := memRead_zero (a := a) (n := n) (x := x) h.2
    simp only [memZero] at ih ⊢
    simp only [List.filter]
    split
    · rename_i hk
      simp only [Bool.or_eq_true, decide_eq_true_eq] at hk
      simp only [memRead]
      split
      · rename_i hj
        rw [if_neg (by omega)]
      · exact ih
    · rename_i hk
      simp only [Bool.or_eq_false_iff, decide_eq_false_iff_not] at hk
      rw [ih]
      simp only [memRead]
      split
      · rfl
      · rename_i hx
        rw [if_neg (by omega)]

end Sys2Proof.Machine
end

