-- ==== Sys2Proof/WellFormed.lean ====
section
/-! DEFINITION. Well-formed commands: every operand lies within the width that the spec's operand table, register map or header
gives it. A field of `Fin` or `BitVec` type carries its width in its type. The meanings take any operand; these checks say which
commands the hardware's interfaces can carry. -/

namespace Sys2Proof

/-- Each value of a list is below 2 to its width in bits. -/
def widths (l : List (Nat × Nat)) : Bool := l.all (fun e => decide (e.1 < 2 ^ e.2))

/-- An instant (R229). -/
def Instant.wf (t : Instant) : Bool := widths [(t.ns, 64), (t.frac, 8)]

/-- A descriptor header (Table 8.8): the largest ring has 2^16 entries (R205). -/
def DescHdr.wf (h : DescHdr) : Bool := widths [(h.slot, 16), (h.gen, 8), (h.tag, 32)] && h.stamp.wf

/-- WAIT_FT (Table 8.10). -/
def WaitFtOps.wf (o : WaitFtOps) : Bool := widths [(o.target, 64)]

/-- HINT (Table 8.10). -/
def HintOps.wf (o : HintOps) : Bool := widths [(o.level, 8), (o.lead, 32), (o.duration, 32)]

/-- COPY and FILL (Table 8.11). -/
def MoveOps.wf (o : MoveOps) : Bool := widths [(o.src, 64), (o.dst, 64), (o.len, 64), (o.width, 8)]

/-- WINDOW_OPEN (Table 9.3). -/
def WindowOpenOps.wf (o : WindowOpenOps) : Bool :=
  widths [(o.roundId, 64), (o.opens, 64), (o.closes, 64), (o.landingAddr, 64), (o.paramAddr, 64), (o.slotCount, 32), (o.kind, 8)]

/-- WINDOW_CLOSE (R243). -/
def WindowCloseOps.wf (o : WindowCloseOps) : Bool := widths [(o.roundId, 64), (o.kind, 8), (o.closeAt, 64), (o.listAddr, 64)]

/-- INGEST (Table 8.12). -/
def IngestOps.wf (o : IngestOps) : Bool := widths [(o.roundId, 64), (o.listAddr, 64), (o.count, 32), (o.resultAddr, 64)]

/-- ACCUMULATE (Table 3.4). -/
def AccOps.wf (o : AccOps) : Bool :=
  widths [(o.dstTile, 32), (o.tileCount, 32), (o.width, 8), (o.mode, 8), (o.srcKind, 8), (o.srcWidth, 8), (o.coordTile, 32),
    (o.src, 64), (o.first, 32), (o.count, 32), (o.modulus, 64), (o.splitWays, 8)]

/-- ACC_DRAIN (Table 3.6). -/
def DrainOps.wf (o : DrainOps) : Bool :=
  widths [(o.srcTile, 32), (o.tileCount, 32), (o.dst, 64), (o.activation, 8), (o.outFormat, 8), (o.fracBits, 8), (o.elemCount, 32)]

/-- STATS (Table 3.7). -/
def StatsOps.wf (o : StatsOps) : Bool :=
  widths [(o.srcKind, 8), (o.srcWidth, 8), (o.tileA, 32), (o.tileB, 32), (o.tileCount, 32), (o.src, 64), (o.first, 32),
    (o.count, 32), (o.resultAddr, 64), (o.fracBits, 8)]

/-- RANK (Table 3.9). -/
def RankOps.wf (o : RankOps) : Bool :=
  widths [(o.srcTile, 32), (o.tileCount, 32), (o.elemCount, 32), (o.k, 16), (o.lapelSleeve, 8), (o.dstAddr, 64)]

/-- ZIP_SEND (R92). -/
def ZipSendOps.wf (o : ZipSendOps) : Bool :=
  widths [(o.declAddr, 64), (o.roundId, 64), (o.srcTile, 32), (o.tileCount, 32), (o.deadline, 64)]

/-- ZIP_RECV (Table 3.11). -/
def ZipRecvOps.wf (o : ZipRecvOps) : Bool :=
  widths [(o.declAddr, 64), (o.roundId, 64), (o.ownTile, 32), (o.dstTile, 32), (o.deadline, 64), (o.landingTile, 32),
    (o.landingDepth, 16)]

/-- MASK_EXPAND (Table 4.6). -/
def MaskOps.wf (o : MaskOps) : Bool :=
  widths [(o.roundId, 64), (o.dstTile, 32), (o.tileCount, 32), (o.coordTile, 32), (o.seedFirst, 32), (o.seedCount, 32)]

/-- SHARE_RECON (Table 4.5). -/
def ShareOps.wf (o : ShareOps) : Bool := widths [(o.roundId, 64), (o.reportAddr, 64)]

/-- SEED_DERIVE (Table 4.2). -/
def SeedOps.wf (o : SeedOps) : Bool :=
  widths [(o.roundId, 64), (o.srcAddr, 64), (o.graphAddr, 64), (o.recTile, 32), (o.recUnits, 32)]

/-- NTT and INTT (Table 5.5). -/
def NttOps.wf (o : NttOps) : Bool :=
  widths [(o.src, 32), (o.dst, 32), (o.limbStride, 32), (o.limbCount, 16), (o.log2N, 8), (o.laneMode, 8), (o.modAddr, 64)]

/-- PMUL (Table 5.7). -/
def PmulOps.wf (o : PmulOps) : Bool :=
  widths [(o.a, 32), (o.b, 32), (o.dst, 32), (o.limbStride, 32), (o.elemCount, 32), (o.limbCount, 16), (o.laneMode, 8),
    (o.modAddr, 64), (o.scalar, 64), (o.fracBits, 8)]

/-- BASECONV (Table 5.8). -/
def BaseOps.wf (o : BaseOps) : Bool :=
  widths [(o.src, 32), (o.dst, 32), (o.limbStride, 32), (o.inLimbs, 8), (o.outLimbs, 8), (o.log2N, 8), (o.inMod, 64), (o.outMod, 64)]

/-- CT_ADD (Table 6.6). -/
def CtAddOps.wf (o : CtAddOps) : Bool :=
  widths [(o.limbStride, 32), (o.paramAddr, 64), (o.dstRef, 64), (o.a, 64), (o.b, 64), (o.seqFirst, 32), (o.seqCount, 32)]

/-- KEYSWITCH and ROTATE (Table 6.7). -/
def KsOps.wf (o : KsOps) : Bool :=
  widths [(o.inList, 64), (o.outList, 64), (o.keyAddr, 64), (o.paramAddr, 64), (o.limbStride, 32), (o.galois, 32), (o.workTile, 32),
    (o.ctCount, 8)]

/-- RESCALE and MODSWITCH (Table 6.9). -/
def RescaleOps.wf (o : RescaleOps) : Bool :=
  widths [(o.inList, 64), (o.outList, 64), (o.paramAddr, 64), (o.limbStride, 32), (o.ctCount, 8), (o.drop, 8)]

/-- PARTIAL_DEC (Table 6.10). -/
def PartialOps.wf (o : PartialOps) : Bool :=
  widths [(o.ctRef, 64), (o.outRef, 64), (o.paramAddr, 64), (o.roundId, 64), (o.lambdaAddr, 64), (o.limbStride, 32)]

/-- KEM_DECAP (Table 6.11). -/
def KemOps.wf (o : KemOps) : Bool := widths [(o.roundId, 64), (o.seqFirst, 32), (o.seqCount, 32), (o.resultAddr, 64)]

/-- SEALED_OPEN and CLIP (Table 6.13). -/
def SealedOps.wf (o : SealedOps) : Bool :=
  widths [(o.roundId, 64), (o.seqFirst, 32), (o.seqCount, 32), (o.stageTile, 32), (o.stageSlots, 32), (o.resultAddr, 64)]

/-- DP_NOISE (Table 14.6). -/
def NoiseOps.wf (o : NoiseOps) : Bool :=
  widths [(o.srcTile, 32), (o.dstTile, 32), (o.tileCount, 32), (o.param, 32), (o.mech, 8), (o.rounding, 8)]

/-- RELEASE (Table 14.7). -/
def ReleaseOps.wf (o : ReleaseOps) : Bool :=
  widths [(o.roundId, 64), (o.srcTile, 32), (o.srcRef, 64), (o.dst, 64), (o.count, 32), (o.stageTile, 32), (o.paramAddr, 64)]

/-- RMA_WRITE, RMA_READ and RMA_ADD (Table 11.8). -/
def RmaOps.wf (o : RmaOps) : Bool :=
  widths [(o.qpn, 24), (o.len, 32), (o.loc, 64), (o.remote, 64), (o.width, 8), (o.timeoutUs, 32)]

/-- ATTEST (R334). -/
def AttestOps.wf (o : AttestOps) : Bool := o.nonce.length == 32 && widths [(o.dst, 64)]

/-- KEY_IMPORT (R331). -/
def KeyImportOps.wf (o : KeyImportOps) : Bool := widths [(o.msgAddr, 64), (o.msgLen, 32)]

/-- KEY_DESTROY (R332). -/
def KeyDestroyOps.wf (o : KeyDestroyOps) : Bool := widths [(o.kind, 8), (o.linkKeyId, 16)]

/-- MODEL_UNSEAL and MODEL_SEAL (Table 13.14). -/
def ModelOps.wf (o : ModelOps) : Bool :=
  widths [(o.src, 64), (o.dst, 64), (o.len, 64), (o.segBytes, 64), (o.elemFormat, 8), (o.fracBits, 8), (o.labelAddr, 64)]

/-- A packet (Table 10.5): at most 4,096 payload bytes. -/
def Packet.wf (k : Packet) : Bool :=
  widths [(k.ptype, 5), (k.vc, 3), (k.gen, 8), (k.dst, 16), (k.src, 16), (k.keyId, 16), (k.ctr, 48)] &&
    k.body.length == 16 && decide (k.payload.length ≤ 4096) && (if k.enc then k.tag.length == 16 else k.tag.isEmpty)

/-- A packet's arrival: the time since the one before it is at most 2^64 ns. -/
def Arrival.wf (a : Arrival) : Bool := widths [(a.dt, 64), (a.frac, 8)] && a.pkt.wf

/-- A TIME message (R232, Table 10.6). -/
def TimeMsg.wf (m : TimeMsg) : Bool :=
  widths [(m.hops, 8), (m.quality, 8), (m.moduleId, 12)] && m.t1.wf && m.t4.wf && m.arrival.wf

/-- A credit entry (Table 10.2): the queue index is 0 to 16. -/
def CreditEntry.wf (e : CreditEntry) : Bool := decide (e.queue ≤ 16) && widths [(e.cells, 16)]

/-- Descriptors as they are read: 64 bytes each (R205), at most 32 in a burst (R211). -/
def burstWf (n : Nat) (ds : List Bytes) : Bool := decide (ds.length ≤ n) && ds.all (fun d => d.length == 64)

/-- A self-test region's number and the registers of Table 17.3. -/
def testWf (kind index : Nat) : Bool := widths [(kind, 4), (index, 8)]

/-- A command is well formed. -/
def Instr.wf : Instr → Bool
  | .nop h => h.wf
  | .fence h _ => h.wf
  | .waitFt h o => h.wf && o.wf
  | .waitFtExpiry _ _ => true
  | .hint h o => h.wf && o.wf
  | .hintRampStart _ => true
  | .hintHoldEnd _ => true
  | .copy h o => h.wf && o.wf
  | .fill h o => h.wf && o.wf
  | .windowOpen h o => h.wf && o.wf
  | .recoverOpenResume _ => true
  | .windowOpenInstant _ _ => true
  | .windowCloseInstant _ _ => true
  | .windowClosed _ _ => true
  | .windowClose h o => h.wf && o.wf
  | .ingest h o => h.wf && o.wf
  | .ingestSlotResume _ => true
  | .acceptNumberAssign _ => true
  | .accumulate h o => h.wf && o.wf
  | .tilePassEnd _ => true
  | .tileCommit _ => true
  | .accDrain h o => h.wf && o.wf
  | .statsSumsq h o => h.wf && o.wf
  | .statsMoments h o => h.wf && o.wf
  | .statsFinish h o => h.wf && o.wf
  | .statsRsqrt h o => h.wf && o.wf
  | .rank h o => h.wf && o.wf
  | .zipSend h o => h.wf && o.wf
  | .zipRecv h o => h.wf && o.wf
  | .zipTileReceive a => a.wf
  | .zipCreditReceive a => a.wf
  | .zipReplyReceive a => a.wf
  | .zipperDeadlineExpiry _ => true
  | .maskExpand h o => h.wf && o.wf
  | .shareRecon h o => h.wf && o.wf
  | .seedDeriveGraph h o => h.wf && o.wf
  | .seedDeriveDerive h o => h.wf && o.wf
  | .ntt h o => h.wf && o.wf
  | .intt h o => h.wf && o.wf
  | .pmulMul h o => h.wf && o.wf
  | .pmulMac h o => h.wf && o.wf
  | .pmulSmul h o => h.wf && o.wf
  | .pmulFxmul h o => h.wf && o.wf
  | .baseconv h o => h.wf && o.wf
  | .ctAddFold h o => h.wf && o.wf
  | .ctAddAdd h o => h.wf && o.wf
  | .ctAddSub h o => h.wf && o.wf
  | .keyswitch h o => h.wf && o.wf
  | .rotate h o => h.wf && o.wf
  | .rescale h o => h.wf && o.wf
  | .modswitch h o => h.wf && o.wf
  | .partialDec h o => h.wf && o.wf
  | .kemDecapSealed h o => h.wf && o.wf
  | .kemDecapBundle h o => h.wf && o.wf
  | .sealedOpen h o => h.wf && o.wf
  | .clip h o => h.wf && o.wf
  | .dpNoise h o => h.wf && o.wf
  | .releaseAggregate h o => h.wf && o.wf
  | .releaseShare h o => h.wf && o.wf
  | .releaseOutputPhase _ => true
  | .rmaWrite h o => h.wf && o.wf
  | .rmaRead h o => h.wf && o.wf
  | .rmaAdd h o => h.wf && o.wf
  | .attest h o => h.wf && o.wf
  | .keyImport h o => h.wf && o.wf
  | .keyDestroy h o => h.wf && o.wf
  | .modelUnseal h o => h.wf && o.wf
  | .modelSeal h o => h.wf && o.wf
  | .doorbellInvalidation _ _ dt frac => widths [(dt, 64), (frac, 8)]
  | .doorbellReadReturn _ _ tail descs => widths [(tail, 32)] && burstWf 4 descs
  | .descriptorBurstFetch _ _ descs => burstWf 32 descs
  | .dispatchSlot _ dt frac => widths [(dt, 64), (frac, 8)]
  | .descriptorCompletion _ => true
  | .cqModTimerExpiry _ _ => true
  | .creditLineInvalidation _ _ consumed => widths [(consumed, 32)]
  | .submitReceive a => a.wf
  | .submitReplyReceive a => a.wf
  | .submissionGapTimeout _ => true
  | .fecBlockReceive _ number block _ frac => widths [(number, 32), (frac, 8)] && block.length == 544
  | .linkAckReceive _ block entries => widths [(block, 32)] && entries.all CreditEntry.wf
  | .linkNakReceive _ block => widths [(block, 32)]
  | .linkRemapReceive _ _ _ _ block => widths [(block, 32)]
  | .linkAckTimerExpiry _ => true
  | .portTrainingComplete _ partnerType partnerId partnerPort => decide (partnerType ≤ 2) && widths [(partnerId, 12), (partnerPort, 3)]
  | .portTrainingAttemptFail _ => true
  | .portRetrainEnd _ lanes => (lanes.map (fun n => decide (n ≤ 34))).getD true
  | .cableChange _ _ => true
  | .egressSlot _ => true
  | .timeExchangeTimer _ frac => widths [(frac, 8)]
  | .timeReceive _ m => m.wf
  | .ftPpsEdge dt frac => widths [(dt, 64), (frac, 8)]
  | .ftTodNextWrite _ => true
  | .ftCtrlSrcWrite _ => true
  | .ftSnapGo frac => widths [(frac, 8)]
  | .ppsLossTimeout => true
  | .shawlTimeLossTimeout => true
  | .holdoverErrorLimit => true
  | .jobTearReceive a => a.wf
  | .tearEntryExpiry keyId src tearId => widths [(keyId, 16), (src, 16), (tearId, 32)]
  | .rmaWritePacket a => a.wf
  | .rmaReadReqPacket a => a.wf
  | .rmaReadRespPacket a => a.wf
  | .rmaAddPacket a => a.wf
  | .rmaReplyPacket a => a.wf
  | .contextFetchComplete _ qpn record => widths [(qpn, 24)] && record.length == 128
  | .contextFetchTimeout _ qpn => widths [(qpn, 24)]
  | .rmaResponseTimeout _ qpn => widths [(qpn, 24)]
  | .rmaTargetGapTimeout _ qpn => widths [(qpn, 24)]
  | .qpCreate _ qpn => widths [(qpn, 24)]
  | .qpReinitialise _ qpn => widths [(qpn, 24)]
  | .qpDestroy _ qpn => widths [(qpn, 24)]
  | .pdBind _ _ _ => true
  | .spaceEnable _ _ _ => true
  | .spaceRevoke _ _ => true
  | .spaceRevokeDone _ _ => true
  | .spaceRelease _ _ => true
  | .ptnCreate _ policy => (policy.map (fun b => b.length == 128)).getD true
  | .ptnScrub _ => true
  | .ptnDestroy _ => true
  | .ptnReset _ => true
  | .ptnResetComplete _ => true
  | .partitionFault _ => true
  | .engineSlotFailure _ _ => true
  | .keystreamUnitFailure _ _ => true
  | .lapelParityError _ => true
  | .liningRowThreshold _ row => widths [(row, 32)]
  | .bondLaneFailure _ lane => widths [(lane, 16)]
  | .seamLaneFailure _ lane => widths [(lane, 16)]
  | .cclLaneFailure lane => widths [(lane, 16)]
  | .cclRetrain _ => true
  | .deviceFailed _ => true
  | .patrolScrub _ _ => true
  | .clearFill _ _ => true
  | .computeReset => true
  | .computeResetComplete failed _ => failed.all (fun n => decide (n < 144))
  | .moduleFaultEntry code => decide (0x51 ≤ code) && decide (code ≤ 0x54)
  | .moduleResetCommand => true
  | .thermalTrip => true
  | .tripCooldown => true
  | .powerUp => true
  | .resetNPulse lowNs => widths [(lowNs, 64)]
  | .moduleReset => true
  | .powerDown => true
  | .railFault _ => true
  | .collarSlotStart _ _ => true
  | .collarSlotEnd => true
  | .colBootGo image _ _ => decide (image.length ≤ 32 * 2 ^ 20)
  | .colUpdGo message => decide (message.length ≤ 2 ^ 16)
  | .colAttGo nonce => nonce.length == 32
  | .lcArm op => widths [(op, 4)]
  | .lcArmTimeout => true
  | .lcProvision _ => true
  | .lcRetire => true
  | .keyExpiry _ kind link => decide (1 ≤ kind) && decide (kind ≤ 5) && widths [(link, 16)]
  | .meterMinuteEnd => true
  | .meterMsSample => true
  | .entropyBlock _ raw => raw.length == 256
  | .healthTestFail _ _ => true
  | .sourceRetryTimer _ => true
  | .sourceWarmupDone _ => true
  | .poolBlock => true
  | .drbgReseed => true
  | .entropyStallTimeout _ => true
  | .entDataRead => true
  | .entTpEnable _ => true
  | .powerInterval rails => rails.length == 7 && rails.all (fun r => (r.map (fun v => decide (v < 2 ^ 16))).getD true)
  | .thermalSensorRead r =>
    !r.junctions.isEmpty && r.junctions.all (fun j => decide (j < 2 ^ 11)) && r.devices.length == 16 && r.devices.all (fun d => decide (d < 2 ^ 8))
  | .pwrOpWrite _ => true
  | .freqStepCommit => true
  | .railSettled => true
  | .slotFreqSwitch _ => true
  | .droopDetect _ => true
  | .droopClear => true
  | .ageingRead _ reading => decide (0 < reading)
  | .eolPrediction _ _ _ => true
  | .bstStart kind index _ => testWf kind index
  | .bstComplete failed => failed.all (fun k => decide (k < 8))
  | .glbLockWrite _ => true
  | .ringLockWrite _ _ => true
  | .ringEnableWrite _ _ _ _ => true
  | .shwPortEnable _ => true
  | .shwPortRetrain _ => true
  | .shwRtSwap => true
  | .shwDimWrite _ => true
  | .shwQueueFlush _ _ => true
  | .dbgCntWrite _ _ => true
  | .sidebandFrame => true
  | .registerWrite offset size _ => decide (offset < 2 ^ 23) && decide (size ≤ 64)
  | .cclWindowAccess addr data _ => widths [(addr, 64)] && (data.map (fun b => decide (b.length ≤ 64))).getD true
  | .blockLockLost _ => true

end Sys2Proof
end

