-- ==== Sys2Proof/Laws/PerInstr.lean ====
section
/-! SUPPORT. Facts about every command as syntax, one lemma for each constructor. -/

namespace Sys2Proof.Laws.HeaderFits

set_option Elab.async false

/-- The header of a descriptor command; none for any other command. -/
def header : Instr → Option DescHdr
  | .nop h => some h
  | .fence h _ => some h
  | .waitFt h _ => some h
  | .hint h _ => some h
  | .copy h _ => some h
  | .fill h _ => some h
  | .windowOpen h _ => some h
  | .windowClose h _ => some h
  | .ingest h _ => some h
  | .accumulate h _ => some h
  | .accDrain h _ => some h
  | .statsSumsq h _ => some h
  | .statsMoments h _ => some h
  | .statsFinish h _ => some h
  | .statsRsqrt h _ => some h
  | .rank h _ => some h
  | .zipSend h _ => some h
  | .zipRecv h _ => some h
  | .maskExpand h _ => some h
  | .shareRecon h _ => some h
  | .seedDeriveGraph h _ => some h
  | .seedDeriveDerive h _ => some h
  | .ntt h _ => some h
  | .intt h _ => some h
  | .pmulMul h _ => some h
  | .pmulMac h _ => some h
  | .pmulSmul h _ => some h
  | .pmulFxmul h _ => some h
  | .baseconv h _ => some h
  | .ctAddFold h _ => some h
  | .ctAddAdd h _ => some h
  | .ctAddSub h _ => some h
  | .keyswitch h _ => some h
  | .rotate h _ => some h
  | .rescale h _ => some h
  | .modswitch h _ => some h
  | .partialDec h _ => some h
  | .kemDecapSealed h _ => some h
  | .kemDecapBundle h _ => some h
  | .sealedOpen h _ => some h
  | .clip h _ => some h
  | .dpNoise h _ => some h
  | .releaseAggregate h _ => some h
  | .releaseShare h _ => some h
  | .rmaWrite h _ => some h
  | .rmaRead h _ => some h
  | .rmaAdd h _ => some h
  | .attest h _ => some h
  | .keyImport h _ => some h
  | .keyDestroy h _ => some h
  | .modelUnseal h _ => some h
  | .modelSeal h _ => some h
  | _ => none

/-- A well-formed descriptor carries a well-formed header (Table 8.8). -/
def Statement (i : Instr) : Prop := ∀ h, header i = some h → i.wf = true → h.wf = true

theorem nop (h : DescHdr) : Statement (.nop h) := fun _ e w => Option.some.inj e ▸ w

theorem fence (h : DescHdr) (o : FenceOps) : Statement (.fence h o) := fun _ e w => Option.some.inj e ▸ w

theorem waitFt (h : DescHdr) (o : WaitFtOps) : Statement (.waitFt h o) := fun _ e w => Option.some.inj e ▸ (Bool.and_eq_true_iff.1 w).1

theorem waitFtExpiry (p : Fin 16) (ring : Fin 8) : Statement (.waitFtExpiry p ring) := fun _ e => nomatch e

theorem hint (h : DescHdr) (o : HintOps) : Statement (.hint h o) := fun _ e w => Option.some.inj e ▸ (Bool.and_eq_true_iff.1 w).1

theorem hintRampStart (p : Fin 16) : Statement (.hintRampStart p) := fun _ e => nomatch e

theorem hintHoldEnd (p : Fin 16) : Statement (.hintHoldEnd p) := fun _ e => nomatch e

theorem copy (h : DescHdr) (o : MoveOps) : Statement (.copy h o) := fun _ e w => Option.some.inj e ▸ (Bool.and_eq_true_iff.1 w).1

theorem fill (h : DescHdr) (o : MoveOps) : Statement (.fill h o) := fun _ e w => Option.some.inj e ▸ (Bool.and_eq_true_iff.1 w).1

theorem windowOpen (h : DescHdr) (o : WindowOpenOps) : Statement (.windowOpen h o) := fun _ e w => Option.some.inj e ▸ (Bool.and_eq_true_iff.1 w).1

theorem recoverOpenResume (p : Fin 16) : Statement (.recoverOpenResume p) := fun _ e => nomatch e

theorem windowOpenInstant (p : Fin 16) (k : WinKind) : Statement (.windowOpenInstant p k) := fun _ e => nomatch e

theorem windowCloseInstant (p : Fin 16) (k : WinKind) : Statement (.windowCloseInstant p k) := fun _ e => nomatch e

theorem windowClosed (p : Fin 16) (k : WinKind) : Statement (.windowClosed p k) := fun _ e => nomatch e

theorem windowClose (h : DescHdr) (o : WindowCloseOps) : Statement (.windowClose h o) := fun _ e w => Option.some.inj e ▸ (Bool.and_eq_true_iff.1 w).1

theorem ingest (h : DescHdr) (o : IngestOps) : Statement (.ingest h o) := fun _ e w => Option.some.inj e ▸ (Bool.and_eq_true_iff.1 w).1

theorem ingestSlotResume (p : Fin 16) : Statement (.ingestSlotResume p) := fun _ e => nomatch e

theorem acceptNumberAssign (p : Fin 16) : Statement (.acceptNumberAssign p) := fun _ e => nomatch e

theorem accumulate (h : DescHdr) (o : AccOps) : Statement (.accumulate h o) := fun _ e w => Option.some.inj e ▸ (Bool.and_eq_true_iff.1 w).1

theorem tilePassEnd (pass : PassEnd) : Statement (.tilePassEnd pass) := fun _ e => nomatch e

theorem tileCommit (engine : Fin 128) : Statement (.tileCommit engine) := fun _ e => nomatch e

theorem accDrain (h : DescHdr) (o : DrainOps) : Statement (.accDrain h o) := fun _ e w => Option.some.inj e ▸ (Bool.and_eq_true_iff.1 w).1

theorem statsSumsq (h : DescHdr) (o : StatsOps) : Statement (.statsSumsq h o) := fun _ e w => Option.some.inj e ▸ (Bool.and_eq_true_iff.1 w).1

theorem statsMoments (h : DescHdr) (o : StatsOps) : Statement (.statsMoments h o) := fun _ e w => Option.some.inj e ▸ (Bool.and_eq_true_iff.1 w).1

theorem statsFinish (h : DescHdr) (o : StatsOps) : Statement (.statsFinish h o) := fun _ e w => Option.some.inj e ▸ (Bool.and_eq_true_iff.1 w).1

theorem statsRsqrt (h : DescHdr) (o : StatsOps) : Statement (.statsRsqrt h o) := fun _ e w => Option.some.inj e ▸ (Bool.and_eq_true_iff.1 w).1

theorem rank (h : DescHdr) (o : RankOps) : Statement (.rank h o) := fun _ e w => Option.some.inj e ▸ (Bool.and_eq_true_iff.1 w).1

theorem zipSend (h : DescHdr) (o : ZipSendOps) : Statement (.zipSend h o) := fun _ e w => Option.some.inj e ▸ (Bool.and_eq_true_iff.1 w).1

theorem zipRecv (h : DescHdr) (o : ZipRecvOps) : Statement (.zipRecv h o) := fun _ e w => Option.some.inj e ▸ (Bool.and_eq_true_iff.1 w).1

theorem zipTileReceive (a : Arrival) : Statement (.zipTileReceive a) := fun _ e => nomatch e

theorem zipCreditReceive (a : Arrival) : Statement (.zipCreditReceive a) := fun _ e => nomatch e

theorem zipReplyReceive (a : Arrival) : Statement (.zipReplyReceive a) := fun _ e => nomatch e

theorem zipperDeadlineExpiry (p : Fin 16) : Statement (.zipperDeadlineExpiry p) := fun _ e => nomatch e

theorem maskExpand (h : DescHdr) (o : MaskOps) : Statement (.maskExpand h o) := fun _ e w => Option.some.inj e ▸ (Bool.and_eq_true_iff.1 w).1

theorem shareRecon (h : DescHdr) (o : ShareOps) : Statement (.shareRecon h o) := fun _ e w => Option.some.inj e ▸ (Bool.and_eq_true_iff.1 w).1

theorem seedDeriveGraph (h : DescHdr) (o : SeedOps) : Statement (.seedDeriveGraph h o) := fun _ e w => Option.some.inj e ▸ (Bool.and_eq_true_iff.1 w).1

theorem seedDeriveDerive (h : DescHdr) (o : SeedOps) : Statement (.seedDeriveDerive h o) := fun _ e w => Option.some.inj e ▸ (Bool.and_eq_true_iff.1 w).1

theorem ntt (h : DescHdr) (o : NttOps) : Statement (.ntt h o) := fun _ e w => Option.some.inj e ▸ (Bool.and_eq_true_iff.1 w).1

theorem intt (h : DescHdr) (o : NttOps) : Statement (.intt h o) := fun _ e w => Option.some.inj e ▸ (Bool.and_eq_true_iff.1 w).1

theorem pmulMul (h : DescHdr) (o : PmulOps) : Statement (.pmulMul h o) := fun _ e w => Option.some.inj e ▸ (Bool.and_eq_true_iff.1 w).1

theorem pmulMac (h : DescHdr) (o : PmulOps) : Statement (.pmulMac h o) := fun _ e w => Option.some.inj e ▸ (Bool.and_eq_true_iff.1 w).1

theorem pmulSmul (h : DescHdr) (o : PmulOps) : Statement (.pmulSmul h o) := fun _ e w => Option.some.inj e ▸ (Bool.and_eq_true_iff.1 w).1

theorem pmulFxmul (h : DescHdr) (o : PmulOps) : Statement (.pmulFxmul h o) := fun _ e w => Option.some.inj e ▸ (Bool.and_eq_true_iff.1 w).1

theorem baseconv (h : DescHdr) (o : BaseOps) : Statement (.baseconv h o) := fun _ e w => Option.some.inj e ▸ (Bool.and_eq_true_iff.1 w).1

theorem ctAddFold (h : DescHdr) (o : CtAddOps) : Statement (.ctAddFold h o) := fun _ e w => Option.some.inj e ▸ (Bool.and_eq_true_iff.1 w).1

theorem ctAddAdd (h : DescHdr) (o : CtAddOps) : Statement (.ctAddAdd h o) := fun _ e w => Option.some.inj e ▸ (Bool.and_eq_true_iff.1 w).1

theorem ctAddSub (h : DescHdr) (o : CtAddOps) : Statement (.ctAddSub h o) := fun _ e w => Option.some.inj e ▸ (Bool.and_eq_true_iff.1 w).1

theorem keyswitch (h : DescHdr) (o : KsOps) : Statement (.keyswitch h o) := fun _ e w => Option.some.inj e ▸ (Bool.and_eq_true_iff.1 w).1

theorem rotate (h : DescHdr) (o : KsOps) : Statement (.rotate h o) := fun _ e w => Option.some.inj e ▸ (Bool.and_eq_true_iff.1 w).1

theorem rescale (h : DescHdr) (o : RescaleOps) : Statement (.rescale h o) := fun _ e w => Option.some.inj e ▸ (Bool.and_eq_true_iff.1 w).1

theorem modswitch (h : DescHdr) (o : RescaleOps) : Statement (.modswitch h o) := fun _ e w => Option.some.inj e ▸ (Bool.and_eq_true_iff.1 w).1

theorem partialDec (h : DescHdr) (o : PartialOps) : Statement (.partialDec h o) := fun _ e w => Option.some.inj e ▸ (Bool.and_eq_true_iff.1 w).1

theorem kemDecapSealed (h : DescHdr) (o : KemOps) : Statement (.kemDecapSealed h o) := fun _ e w => Option.some.inj e ▸ (Bool.and_eq_true_iff.1 w).1

theorem kemDecapBundle (h : DescHdr) (o : KemOps) : Statement (.kemDecapBundle h o) := fun _ e w => Option.some.inj e ▸ (Bool.and_eq_true_iff.1 w).1

theorem sealedOpen (h : DescHdr) (o : SealedOps) : Statement (.sealedOpen h o) := fun _ e w => Option.some.inj e ▸ (Bool.and_eq_true_iff.1 w).1

theorem clip (h : DescHdr) (o : SealedOps) : Statement (.clip h o) := fun _ e w => Option.some.inj e ▸ (Bool.and_eq_true_iff.1 w).1

theorem dpNoise (h : DescHdr) (o : NoiseOps) : Statement (.dpNoise h o) := fun _ e w => Option.some.inj e ▸ (Bool.and_eq_true_iff.1 w).1

theorem releaseAggregate (h : DescHdr) (o : ReleaseOps) : Statement (.releaseAggregate h o) := fun _ e w => Option.some.inj e ▸ (Bool.and_eq_true_iff.1 w).1

theorem releaseShare (h : DescHdr) (o : ReleaseOps) : Statement (.releaseShare h o) := fun _ e w => Option.some.inj e ▸ (Bool.and_eq_true_iff.1 w).1

theorem releaseOutputPhase (p : Fin 16) : Statement (.releaseOutputPhase p) := fun _ e => nomatch e

theorem rmaWrite (h : DescHdr) (o : RmaOps) : Statement (.rmaWrite h o) := fun _ e w => Option.some.inj e ▸ (Bool.and_eq_true_iff.1 w).1

theorem rmaRead (h : DescHdr) (o : RmaOps) : Statement (.rmaRead h o) := fun _ e w => Option.some.inj e ▸ (Bool.and_eq_true_iff.1 w).1

theorem rmaAdd (h : DescHdr) (o : RmaOps) : Statement (.rmaAdd h o) := fun _ e w => Option.some.inj e ▸ (Bool.and_eq_true_iff.1 w).1

theorem attest (h : DescHdr) (o : AttestOps) : Statement (.attest h o) := fun _ e w => Option.some.inj e ▸ (Bool.and_eq_true_iff.1 w).1

theorem keyImport (h : DescHdr) (o : KeyImportOps) : Statement (.keyImport h o) := fun _ e w => Option.some.inj e ▸ (Bool.and_eq_true_iff.1 w).1

theorem keyDestroy (h : DescHdr) (o : KeyDestroyOps) : Statement (.keyDestroy h o) := fun _ e w => Option.some.inj e ▸ (Bool.and_eq_true_iff.1 w).1

theorem modelUnseal (h : DescHdr) (o : ModelOps) : Statement (.modelUnseal h o) := fun _ e w => Option.some.inj e ▸ (Bool.and_eq_true_iff.1 w).1

theorem modelSeal (h : DescHdr) (o : ModelOps) : Statement (.modelSeal h o) := fun _ e w => Option.some.inj e ▸ (Bool.and_eq_true_iff.1 w).1

theorem doorbellInvalidation (p : Fin 16) (ring : Fin 8) (dt : Nat) (frac : Nat) : Statement (.doorbellInvalidation p ring dt frac) := fun _ e => nomatch e

theorem doorbellReadReturn (p : Fin 16) (ring : Fin 8) (tail : Nat) (descs : List Bytes) : Statement (.doorbellReadReturn p ring tail descs) := fun _ e => nomatch e

theorem descriptorBurstFetch (p : Fin 16) (ring : Fin 8) (descs : List Bytes) : Statement (.descriptorBurstFetch p ring descs) := fun _ e => nomatch e

theorem dispatchSlot (p : Fin 16) (dt : Nat) (frac : Nat) : Statement (.dispatchSlot p dt frac) := fun _ e => nomatch e

theorem descriptorCompletion (p : Fin 16) : Statement (.descriptorCompletion p) := fun _ e => nomatch e

theorem cqModTimerExpiry (p : Fin 16) (cq : Fin 8) : Statement (.cqModTimerExpiry p cq) := fun _ e => nomatch e

theorem creditLineInvalidation (p : Fin 16) (cq : Fin 8) (consumed : Nat) : Statement (.creditLineInvalidation p cq consumed) := fun _ e => nomatch e

theorem submitReceive (a : Arrival) : Statement (.submitReceive a) := fun _ e => nomatch e

theorem submitReplyReceive (a : Arrival) : Statement (.submitReplyReceive a) := fun _ e => nomatch e

theorem submissionGapTimeout (p : Fin 16) : Statement (.submissionGapTimeout p) := fun _ e => nomatch e

theorem fecBlockReceive (port : Fin 6) (number : Nat) (block : Bytes) (lossLane : Option (Fin 32)) (frac : Nat) : Statement (.fecBlockReceive port number block lossLane frac) := fun _ e => nomatch e

theorem linkAckReceive (port : Fin 6) (block : Nat) (entries : List CreditEntry) : Statement (.linkAckReceive port block entries) := fun _ e => nomatch e

theorem linkNakReceive (port : Fin 6) (block : Nat) : Statement (.linkNakReceive port block) := fun _ e => nomatch e

theorem linkRemapReceive (port : Fin 6) (lane : Fin 32) (spare : Fin 2) (echo : Bool) (block : Nat) : Statement (.linkRemapReceive port lane spare echo block) := fun _ e => nomatch e

theorem linkAckTimerExpiry (port : Fin 6) : Statement (.linkAckTimerExpiry port) := fun _ e => nomatch e

theorem portTrainingComplete (port : Fin 6) (partnerType : Nat) (partnerId : Nat) (partnerPort : Nat) : Statement (.portTrainingComplete port partnerType partnerId partnerPort) := fun _ e => nomatch e

theorem portTrainingAttemptFail (port : Fin 6) : Statement (.portTrainingAttemptFail port) := fun _ e => nomatch e

theorem portRetrainEnd (port : Fin 6) (lanes : Option Nat) : Statement (.portRetrainEnd port lanes) := fun _ e => nomatch e

theorem cableChange (port : Fin 6) (connected : Bool) : Statement (.cableChange port connected) := fun _ e => nomatch e

theorem egressSlot (port : Fin 6) : Statement (.egressSlot port) := fun _ e => nomatch e

theorem timeExchangeTimer (port : Fin 6) (frac : Nat) : Statement (.timeExchangeTimer port frac) := fun _ e => nomatch e

theorem timeReceive (port : Fin 6) (m : TimeMsg) : Statement (.timeReceive port m) := fun _ e => nomatch e

theorem ftPpsEdge (dt : Nat) (frac : Nat) : Statement (.ftPpsEdge dt frac) := fun _ e => nomatch e

theorem ftTodNextWrite (value : Word) : Statement (.ftTodNextWrite value) := fun _ e => nomatch e

theorem ftCtrlSrcWrite (value : Word) : Statement (.ftCtrlSrcWrite value) := fun _ e => nomatch e

theorem ftSnapGo (frac : Nat) : Statement (.ftSnapGo frac) := fun _ e => nomatch e

theorem ppsLossTimeout : Statement .ppsLossTimeout := fun _ e => nomatch e

theorem shawlTimeLossTimeout : Statement .shawlTimeLossTimeout := fun _ e => nomatch e

theorem holdoverErrorLimit : Statement .holdoverErrorLimit := fun _ e => nomatch e

theorem jobTearReceive (a : Arrival) : Statement (.jobTearReceive a) := fun _ e => nomatch e

theorem tearEntryExpiry (keyId : Nat) (src : Nat) (tearId : Nat) : Statement (.tearEntryExpiry keyId src tearId) := fun _ e => nomatch e

theorem rmaWritePacket (a : Arrival) : Statement (.rmaWritePacket a) := fun _ e => nomatch e

theorem rmaReadReqPacket (a : Arrival) : Statement (.rmaReadReqPacket a) := fun _ e => nomatch e

theorem rmaReadRespPacket (a : Arrival) : Statement (.rmaReadRespPacket a) := fun _ e => nomatch e

theorem rmaAddPacket (a : Arrival) : Statement (.rmaAddPacket a) := fun _ e => nomatch e

theorem rmaReplyPacket (a : Arrival) : Statement (.rmaReplyPacket a) := fun _ e => nomatch e

theorem contextFetchComplete (p : Fin 16) (qpn : Nat) (record : Bytes) : Statement (.contextFetchComplete p qpn record) := fun _ e => nomatch e

theorem contextFetchTimeout (p : Fin 16) (qpn : Nat) : Statement (.contextFetchTimeout p qpn) := fun _ e => nomatch e

theorem rmaResponseTimeout (p : Fin 16) (qpn : Nat) : Statement (.rmaResponseTimeout p qpn) := fun _ e => nomatch e

theorem rmaTargetGapTimeout (p : Fin 16) (qpn : Nat) : Statement (.rmaTargetGapTimeout p qpn) := fun _ e => nomatch e

theorem qpCreate (p : Fin 16) (qpn : Nat) : Statement (.qpCreate p qpn) := fun _ e => nomatch e

theorem qpReinitialise (p : Fin 16) (qpn : Nat) : Statement (.qpReinitialise p qpn) := fun _ e => nomatch e

theorem qpDestroy (p : Fin 16) (qpn : Nat) : Statement (.qpDestroy p qpn) := fun _ e => nomatch e

theorem pdBind (p : Fin 16) (pd : Fin 16) (value : Word) : Statement (.pdBind p pd value) := fun _ e => nomatch e

theorem spaceEnable (p : Fin 16) (k : Fin 4) (value : Word) : Statement (.spaceEnable p k value) := fun _ e => nomatch e

theorem spaceRevoke (p : Fin 16) (k : Fin 4) : Statement (.spaceRevoke p k) := fun _ e => nomatch e

theorem spaceRevokeDone (p : Fin 16) (k : Fin 4) : Statement (.spaceRevokeDone p k) := fun _ e => nomatch e

theorem spaceRelease (p : Fin 16) (k : Fin 4) : Statement (.spaceRelease p k) := fun _ e => nomatch e

theorem ptnCreate (p : Fin 16) (policy : Option Bytes) : Statement (.ptnCreate p policy) := fun _ e => nomatch e

theorem ptnScrub (p : Fin 16) : Statement (.ptnScrub p) := fun _ e => nomatch e

theorem ptnDestroy (p : Fin 16) : Statement (.ptnDestroy p) := fun _ e => nomatch e

theorem ptnReset (p : Fin 16) : Statement (.ptnReset p) := fun _ e => nomatch e

theorem ptnResetComplete (p : Fin 16) : Statement (.ptnResetComplete p) := fun _ e => nomatch e

theorem partitionFault (site : FaultSite) : Statement (.partitionFault site) := fun _ e => nomatch e

theorem engineSlotFailure (sleeve : Fin 16) (slot : Fin 9) : Statement (.engineSlotFailure sleeve slot) := fun _ e => nomatch e

theorem keystreamUnitFailure (sleeve : Fin 16) (unit : Fin 8) : Statement (.keystreamUnitFailure sleeve unit) := fun _ e => nomatch e

theorem lapelParityError (lapel : Fin 4) : Statement (.lapelParityError lapel) := fun _ e => nomatch e

theorem liningRowThreshold (sleeve : Fin 16) (row : Nat) : Statement (.liningRowThreshold sleeve row) := fun _ e => nomatch e

theorem bondLaneFailure (sleeve : Fin 16) (lane : Nat) : Statement (.bondLaneFailure sleeve lane) := fun _ e => nomatch e

theorem seamLaneFailure (dir : Fin 2) (lane : Nat) : Statement (.seamLaneFailure dir lane) := fun _ e => nomatch e

theorem cclLaneFailure (lane : Nat) : Statement (.cclLaneFailure lane) := fun _ e => nomatch e

theorem cclRetrain (success : Bool) : Statement (.cclRetrain success) := fun _ e => nomatch e

theorem deviceFailed (d : Fin 16) : Statement (.deviceFailed d) := fun _ e => nomatch e

theorem patrolScrub (t : ScrubTarget) (r : ScrubResult) : Statement (.patrolScrub t r) := fun _ e => nomatch e

theorem clearFill (d : Fin 16) (block : Fin 524288) : Statement (.clearFill d block) := fun _ e => nomatch e

theorem computeReset : Statement .computeReset := fun _ e => nomatch e

theorem computeResetComplete (failedSlots : List Nat) (imagesMatch : Bool) : Statement (.computeResetComplete failedSlots imagesMatch) := fun _ e => nomatch e

theorem moduleFaultEntry (code : Nat) : Statement (.moduleFaultEntry code) := fun _ e => nomatch e

theorem moduleResetCommand : Statement .moduleResetCommand := fun _ e => nomatch e

theorem thermalTrip : Statement .thermalTrip := fun _ e => nomatch e

theorem tripCooldown : Statement .tripCooldown := fun _ e => nomatch e

theorem powerUp : Statement .powerUp := fun _ e => nomatch e

theorem resetNPulse (lowNs : Nat) : Statement (.resetNPulse lowNs) := fun _ e => nomatch e

theorem moduleReset : Statement .moduleReset := fun _ e => nomatch e

theorem powerDown : Statement .powerDown := fun _ e => nomatch e

theorem railFault (rail : Fin 7) : Statement (.railFault rail) := fun _ e => nomatch e

theorem collarSlotStart (slot : Fin 17) (signatureOk : Bool) : Statement (.collarSlotStart slot signatureOk) := fun _ e => nomatch e

theorem collarSlotEnd : Statement .collarSlotEnd := fun _ e => nomatch e

theorem colBootGo (image : Bytes) (signatureOk : Bool) (followerOk : Bool) : Statement (.colBootGo image signatureOk followerOk) := fun _ e => nomatch e

theorem colUpdGo (message : Bytes) : Statement (.colUpdGo message) := fun _ e => nomatch e

theorem colAttGo (nonce : Bytes) : Statement (.colAttGo nonce) := fun _ e => nomatch e

theorem lcArm (op : Nat) : Statement (.lcArm op) := fun _ e => nomatch e

theorem lcArmTimeout : Statement .lcArmTimeout := fun _ e => nomatch e

theorem lcProvision (checkOk : Bool) : Statement (.lcProvision checkOk) := fun _ e => nomatch e

theorem lcRetire : Statement .lcRetire := fun _ e => nomatch e

theorem keyExpiry (p : Fin 16) (kind : Nat) (linkKeyId : Nat) : Statement (.keyExpiry p kind linkKeyId) := fun _ e => nomatch e

theorem meterMinuteEnd : Statement .meterMinuteEnd := fun _ e => nomatch e

theorem meterMsSample : Statement .meterMsSample := fun _ e => nomatch e

theorem entropyBlock (source : Fin 16) (raw : Bytes) : Statement (.entropyBlock source raw) := fun _ e => nomatch e

theorem healthTestFail (source : Fin 16) (test : Fin 3) : Statement (.healthTestFail source test) := fun _ e => nomatch e

theorem sourceRetryTimer (source : Fin 16) : Statement (.sourceRetryTimer source) := fun _ e => nomatch e

theorem sourceWarmupDone (source : Fin 16) : Statement (.sourceWarmupDone source) := fun _ e => nomatch e

theorem poolBlock : Statement .poolBlock := fun _ e => nomatch e

theorem drbgReseed : Statement .drbgReseed := fun _ e => nomatch e

theorem entropyStallTimeout (p : Fin 16) : Statement (.entropyStallTimeout p) := fun _ e => nomatch e

theorem entDataRead : Statement .entDataRead := fun _ e => nomatch e

theorem entTpEnable (value : Word) : Statement (.entTpEnable value) := fun _ e => nomatch e

theorem powerInterval (rails : List (Option Nat)) : Statement (.powerInterval rails) := fun _ e => nomatch e

theorem thermalSensorRead (readings : SensorReadings) : Statement (.thermalSensorRead readings) := fun _ e => nomatch e

theorem pwrOpWrite (value : Word) : Statement (.pwrOpWrite value) := fun _ e => nomatch e

theorem freqStepCommit : Statement .freqStepCommit := fun _ e => nomatch e

theorem railSettled : Statement .railSettled := fun _ e => nomatch e

theorem slotFreqSwitch (slot : Fin 144) : Statement (.slotFreqSwitch slot) := fun _ e => nomatch e

theorem droopDetect (detector : Fin 32) : Statement (.droopDetect detector) := fun _ e => nomatch e

theorem droopClear : Statement .droopClear := fun _ e => nomatch e

theorem ageingRead (slot : Fin 144) (reading : Nat) : Statement (.ageingRead slot reading) := fun _ e => nomatch e

theorem eolPrediction (engines : Nat) (lanes : Nat) (em : Nat) : Statement (.eolPrediction engines lanes em) := fun _ e => nomatch e

theorem bstStart (kind : Nat) (index : Nat) (bootTime : Bool) : Statement (.bstStart kind index bootTime) := fun _ e => nomatch e

theorem bstComplete (failedUnits : List Nat) : Statement (.bstComplete failedUnits) := fun _ e => nomatch e

theorem glbLockWrite (value : Word) : Statement (.glbLockWrite value) := fun _ e => nomatch e

theorem ringLockWrite (p : Fin 16) (value : Word) : Statement (.ringLockWrite p value) := fun _ e => nomatch e

theorem ringEnableWrite (p : Fin 16) (completionRing : Bool) (ring : Fin 8) (value : Word) : Statement (.ringEnableWrite p completionRing ring value) := fun _ e => nomatch e

theorem shwPortEnable (port : Fin 6) : Statement (.shwPortEnable port) := fun _ e => nomatch e

theorem shwPortRetrain (port : Fin 6) : Statement (.shwPortRetrain port) := fun _ e => nomatch e

theorem shwRtSwap : Statement .shwRtSwap := fun _ e => nomatch e

theorem shwDimWrite (value : Word) : Statement (.shwDimWrite value) := fun _ e => nomatch e

theorem shwQueueFlush (die : Fin 2) (queue : Fin 408) : Statement (.shwQueueFlush die queue) := fun _ e => nomatch e

theorem dbgCntWrite (index : Fin 16) (value : Word) : Statement (.dbgCntWrite index value) := fun _ e => nomatch e

theorem sidebandFrame : Statement .sidebandFrame := fun _ e => nomatch e

theorem registerWrite (offset : Nat) (size : Nat) (value : Word) : Statement (.registerWrite offset size value) := fun _ e => nomatch e

theorem cclWindowAccess (addr : Nat) (data : Option Bytes) (uncorrectable : Bool) : Statement (.cclWindowAccess addr data uncorrectable) := fun _ e => nomatch e

theorem blockLockLost (port : Fin 6) : Statement (.blockLockLost port) := fun _ e => nomatch e

end Sys2Proof.Laws.HeaderFits
end

