-- ==== Sys2Proof/Laws/State.lean ====
section
/-! SUPPORT. One small lemma for each field of the state and each plain update of it, and for reading a table after a change. -/

namespace Sys2Proof.Machine

set_option Elab.async false

/-! Tables -/

@[simp] theorem tabGet_tabSet_same {α : Type} (d : α) (k : Nat) (v : α) : ∀ t : Tab α, tabGet d (tabSet t k v) k = v
  | [] => by simp only [tabSet, tabGet, if_true]
  | (j, w) :: t => by
    simp only [tabSet]
    split
    · simp only [tabGet, if_true]
    · split
      · simp only [tabGet, if_true]
      · rename_i hk
        simp only [tabGet]
        rw [if_neg (fun e => hk e.symm)]
        exact tabGet_tabSet_same d k v t

theorem tabGet_tabSet_other {α : Type} (d : α) {k i : Nat} (v : α) (hi : k ≠ i) : ∀ t : Tab α, tabGet d (tabSet t k v) i = tabGet d t i
  | [] => by simp only [tabSet, tabGet]; rw [if_neg hi]
  | (j, w) :: t => by
    simp only [tabSet]
    split
    · simp only [tabGet]; rw [if_neg hi]
    · split
      · rename_i hk
        subst hk
        simp only [tabGet]; rw [if_neg hi, if_neg hi]
      · simp only [tabGet]
        split
        · rfl
        · exact tabGet_tabSet_other d v hi t

@[simp] theorem tabGet_tabMap_same {α : Type} (d : α) (t : Tab α) (k : Nat) (f : α → α) : tabGet d (tabMap d t k f) k = f (tabGet d t k) :=
  tabGet_tabSet_same d k _ t

theorem tabGet_tabMap_other {α : Type} (d : α) (t : Tab α) {k i : Nat} (f : α → α) (hi : k ≠ i) :
    tabGet d (tabMap d t k f) i = tabGet d t i :=
  tabGet_tabSet_other d _ hi t

/-! Partitions and their rings -/

@[simp] theorem part_setPart_same (s : State) (p : Nat) (x : Partition) : part (setPart s p x) p = x := tabGet_tabSet_same _ p x _

theorem part_setPart_other (s : State) {p q : Nat} (x : Partition) (h : p ≠ q) : part (setPart s p x) q = part s q :=
  tabGet_tabSet_other _ x h _

@[simp] theorem part_modPart_same (s : State) (p : Nat) (f : Partition → Partition) : part (modPart s p f) p = f (part s p) :=
  part_setPart_same s p _

theorem part_modPart_other (s : State) {p q : Nat} (f : Partition → Partition) (h : p ≠ q) : part (modPart s p f) q = part s q :=
  part_setPart_other s _ h

@[simp] theorem sqOf_modSq_same (s : State) (p r : Nat) (f : SqRing → SqRing) : sqOf (modSq s p r f) p r = f (sqOf s p r) := by
  unfold sqOf modSq
  rw [part_modPart_same]
  exact tabGet_tabMap_same _ _ _ _

@[simp] theorem cqOf_modCq_same (s : State) (p c : Nat) (f : CqRing → CqRing) : cqOf (modCq s p c f) p c = f (cqOf s p c) := by
  unfold cqOf modCq
  rw [part_modPart_same]
  exact tabGet_tabMap_same _ _ _ _

/-! Fields under updates -/

@[simp] theorem emit_pending (s : State) (o : Output) : (emit s o).pending = s.pending := rfl
@[simp] theorem emit_out (s : State) (o : Output) : (emit s o).out = s.out ++ [o] := rfl
@[simp] theorem emit_freeCtr (s : State) (o : Output) : (emit s o).freeCtr = s.freeCtr := rfl
@[simp] theorem emit_nextId (s : State) (o : Output) : (emit s o).nextId = s.nextId := rfl
@[simp] theorem emit_regs (s : State) (o : Output) : (emit s o).regs = s.regs := rfl
@[simp] theorem emit_lining (s : State) (o : Output) : (emit s o).lining = s.lining := rfl
@[simp] theorem emit_tiles (s : State) (o : Output) : (emit s o).tiles = s.tiles := rfl
@[simp] theorem emit_dram (s : State) (o : Output) : (emit s o).dram = s.dram := rfl
@[simp] theorem emit_areas (s : State) (o : Output) : (emit s o).areas = s.areas := rfl
@[simp] theorem emit_slots (s : State) (o : Output) : (emit s o).slots = s.slots := rfl
@[simp] theorem emit_sleeves (s : State) (o : Output) : (emit s o).sleeves = s.sleeves := rfl
@[simp] theorem emit_devices (s : State) (o : Output) : (emit s o).devices = s.devices := rfl
@[simp] theorem emit_parts (s : State) (o : Output) : (emit s o).parts = s.parts := rfl
@[simp] theorem emit_inflight (s : State) (o : Output) : (emit s o).inflight = s.inflight := rfl
@[simp] theorem emit_otp (s : State) (o : Output) : (emit s o).otp = s.otp := rfl
@[simp] theorem emit_collar (s : State) (o : Output) : (emit s o).collar = s.collar := rfl
@[simp] theorem emit_entropy (s : State) (o : Output) : (emit s o).entropy = s.entropy := rfl
@[simp] theorem emit_time (s : State) (o : Output) : (emit s o).time = s.time := rfl
@[simp] theorem emit_shawl (s : State) (o : Output) : (emit s o).shawl = s.shawl := rfl
@[simp] theorem emit_faults (s : State) (o : Output) : (emit s o).faults = s.faults := rfl
@[simp] theorem emit_power (s : State) (o : Output) : (emit s o).power = s.power := rfl
@[simp] theorem emit_bst (s : State) (o : Output) : (emit s o).bst = s.bst := rfl
@[simp] theorem emit_dbg (s : State) (o : Output) : (emit s o).dbg = s.dbg := rfl
@[simp] theorem emit_manager (s : State) (o : Output) : (emit s o).manager = s.manager := rfl

@[simp] theorem spendFree_pending (s : State) : (spendFree s).pending = s.pending := rfl
@[simp] theorem spendFree_out (s : State) : (spendFree s).out = s.out := rfl
@[simp] theorem spendFree_freeCtr (s : State) : (spendFree s).freeCtr = s.freeCtr + 1 := rfl
@[simp] theorem spendFree_nextId (s : State) : (spendFree s).nextId = s.nextId := rfl
@[simp] theorem spendFree_regs (s : State) : (spendFree s).regs = s.regs := rfl
@[simp] theorem spendFree_lining (s : State) : (spendFree s).lining = s.lining := rfl
@[simp] theorem spendFree_tiles (s : State) : (spendFree s).tiles = s.tiles := rfl
@[simp] theorem spendFree_dram (s : State) : (spendFree s).dram = s.dram := rfl
@[simp] theorem spendFree_areas (s : State) : (spendFree s).areas = s.areas := rfl
@[simp] theorem spendFree_slots (s : State) : (spendFree s).slots = s.slots := rfl
@[simp] theorem spendFree_sleeves (s : State) : (spendFree s).sleeves = s.sleeves := rfl
@[simp] theorem spendFree_devices (s : State) : (spendFree s).devices = s.devices := rfl
@[simp] theorem spendFree_parts (s : State) : (spendFree s).parts = s.parts := rfl
@[simp] theorem spendFree_inflight (s : State) : (spendFree s).inflight = s.inflight := rfl
@[simp] theorem spendFree_otp (s : State) : (spendFree s).otp = s.otp := rfl
@[simp] theorem spendFree_collar (s : State) : (spendFree s).collar = s.collar := rfl
@[simp] theorem spendFree_entropy (s : State) : (spendFree s).entropy = s.entropy := rfl
@[simp] theorem spendFree_time (s : State) : (spendFree s).time = s.time := rfl
@[simp] theorem spendFree_shawl (s : State) : (spendFree s).shawl = s.shawl := rfl
@[simp] theorem spendFree_faults (s : State) : (spendFree s).faults = s.faults := rfl
@[simp] theorem spendFree_power (s : State) : (spendFree s).power = s.power := rfl
@[simp] theorem spendFree_bst (s : State) : (spendFree s).bst = s.bst := rfl
@[simp] theorem spendFree_dbg (s : State) : (spendFree s).dbg = s.dbg := rfl
@[simp] theorem spendFree_manager (s : State) : (spendFree s).manager = s.manager := rfl

@[simp] theorem setReg_pending (s : State) (r : Reg) (v : Nat) : (setReg s r v).pending = s.pending := rfl
@[simp] theorem setReg_out (s : State) (r : Reg) (v : Nat) : (setReg s r v).out = s.out := rfl
@[simp] theorem setReg_freeCtr (s : State) (r : Reg) (v : Nat) : (setReg s r v).freeCtr = s.freeCtr := rfl
@[simp] theorem setReg_nextId (s : State) (r : Reg) (v : Nat) : (setReg s r v).nextId = s.nextId := rfl
@[simp] theorem setReg_lining (s : State) (r : Reg) (v : Nat) : (setReg s r v).lining = s.lining := rfl
@[simp] theorem setReg_tiles (s : State) (r : Reg) (v : Nat) : (setReg s r v).tiles = s.tiles := rfl
@[simp] theorem setReg_dram (s : State) (r : Reg) (v : Nat) : (setReg s r v).dram = s.dram := rfl
@[simp] theorem setReg_areas (s : State) (r : Reg) (v : Nat) : (setReg s r v).areas = s.areas := rfl
@[simp] theorem setReg_slots (s : State) (r : Reg) (v : Nat) : (setReg s r v).slots = s.slots := rfl
@[simp] theorem setReg_sleeves (s : State) (r : Reg) (v : Nat) : (setReg s r v).sleeves = s.sleeves := rfl
@[simp] theorem setReg_devices (s : State) (r : Reg) (v : Nat) : (setReg s r v).devices = s.devices := rfl
@[simp] theorem setReg_parts (s : State) (r : Reg) (v : Nat) : (setReg s r v).parts = s.parts := rfl
@[simp] theorem setReg_inflight (s : State) (r : Reg) (v : Nat) : (setReg s r v).inflight = s.inflight := rfl
@[simp] theorem setReg_otp (s : State) (r : Reg) (v : Nat) : (setReg s r v).otp = s.otp := rfl
@[simp] theorem setReg_collar (s : State) (r : Reg) (v : Nat) : (setReg s r v).collar = s.collar := rfl
@[simp] theorem setReg_entropy (s : State) (r : Reg) (v : Nat) : (setReg s r v).entropy = s.entropy := rfl
@[simp] theorem setReg_time (s : State) (r : Reg) (v : Nat) : (setReg s r v).time = s.time := rfl
@[simp] theorem setReg_shawl (s : State) (r : Reg) (v : Nat) : (setReg s r v).shawl = s.shawl := rfl
@[simp] theorem setReg_faults (s : State) (r : Reg) (v : Nat) : (setReg s r v).faults = s.faults := rfl
@[simp] theorem setReg_power (s : State) (r : Reg) (v : Nat) : (setReg s r v).power = s.power := rfl
@[simp] theorem setReg_bst (s : State) (r : Reg) (v : Nat) : (setReg s r v).bst = s.bst := rfl
@[simp] theorem setReg_dbg (s : State) (r : Reg) (v : Nat) : (setReg s r v).dbg = s.dbg := rfl
@[simp] theorem setReg_manager (s : State) (r : Reg) (v : Nat) : (setReg s r v).manager = s.manager := rfl

@[simp] theorem elapse_pending (s : State) (dt : Nat) : (elapse s dt).pending = s.pending := rfl
@[simp] theorem elapse_out (s : State) (dt : Nat) : (elapse s dt).out = s.out := rfl
@[simp] theorem elapse_freeCtr (s : State) (dt : Nat) : (elapse s dt).freeCtr = s.freeCtr := rfl
@[simp] theorem elapse_nextId (s : State) (dt : Nat) : (elapse s dt).nextId = s.nextId := rfl
@[simp] theorem elapse_regs (s : State) (dt : Nat) : (elapse s dt).regs = s.regs := rfl
@[simp] theorem elapse_lining (s : State) (dt : Nat) : (elapse s dt).lining = s.lining := rfl
@[simp] theorem elapse_tiles (s : State) (dt : Nat) : (elapse s dt).tiles = s.tiles := rfl
@[simp] theorem elapse_dram (s : State) (dt : Nat) : (elapse s dt).dram = s.dram := rfl
@[simp] theorem elapse_areas (s : State) (dt : Nat) : (elapse s dt).areas = s.areas := rfl
@[simp] theorem elapse_slots (s : State) (dt : Nat) : (elapse s dt).slots = s.slots := rfl
@[simp] theorem elapse_sleeves (s : State) (dt : Nat) : (elapse s dt).sleeves = s.sleeves := rfl
@[simp] theorem elapse_devices (s : State) (dt : Nat) : (elapse s dt).devices = s.devices := rfl
@[simp] theorem elapse_parts (s : State) (dt : Nat) : (elapse s dt).parts = s.parts := rfl
@[simp] theorem elapse_inflight (s : State) (dt : Nat) : (elapse s dt).inflight = s.inflight := rfl
@[simp] theorem elapse_otp (s : State) (dt : Nat) : (elapse s dt).otp = s.otp := rfl
@[simp] theorem elapse_collar (s : State) (dt : Nat) : (elapse s dt).collar = s.collar := rfl
@[simp] theorem elapse_entropy (s : State) (dt : Nat) : (elapse s dt).entropy = s.entropy := rfl
@[simp] theorem elapse_time (s : State) (dt : Nat) : (elapse s dt).time = (s.time.pass dt).wrap := rfl
@[simp] theorem elapse_shawl (s : State) (dt : Nat) : (elapse s dt).shawl = s.shawl := rfl
@[simp] theorem elapse_faults (s : State) (dt : Nat) : (elapse s dt).faults = s.faults := rfl
@[simp] theorem elapse_power (s : State) (dt : Nat) : (elapse s dt).power = s.power := rfl
@[simp] theorem elapse_bst (s : State) (dt : Nat) : (elapse s dt).bst = s.bst := rfl
@[simp] theorem elapse_dbg (s : State) (dt : Nat) : (elapse s dt).dbg = s.dbg := rfl
@[simp] theorem elapse_manager (s : State) (dt : Nat) : (elapse s dt).manager = s.manager := rfl

@[simp] theorem setPart_pending (s : State) (p : Nat) (x : Partition) : (setPart s p x).pending = s.pending := rfl
@[simp] theorem setPart_out (s : State) (p : Nat) (x : Partition) : (setPart s p x).out = s.out := rfl
@[simp] theorem setPart_freeCtr (s : State) (p : Nat) (x : Partition) : (setPart s p x).freeCtr = s.freeCtr := rfl
@[simp] theorem setPart_nextId (s : State) (p : Nat) (x : Partition) : (setPart s p x).nextId = s.nextId := rfl
@[simp] theorem setPart_regs (s : State) (p : Nat) (x : Partition) : (setPart s p x).regs = s.regs := rfl
@[simp] theorem setPart_lining (s : State) (p : Nat) (x : Partition) : (setPart s p x).lining = s.lining := rfl
@[simp] theorem setPart_tiles (s : State) (p : Nat) (x : Partition) : (setPart s p x).tiles = s.tiles := rfl
@[simp] theorem setPart_dram (s : State) (p : Nat) (x : Partition) : (setPart s p x).dram = s.dram := rfl
@[simp] theorem setPart_areas (s : State) (p : Nat) (x : Partition) : (setPart s p x).areas = s.areas := rfl
@[simp] theorem setPart_slots (s : State) (p : Nat) (x : Partition) : (setPart s p x).slots = s.slots := rfl
@[simp] theorem setPart_sleeves (s : State) (p : Nat) (x : Partition) : (setPart s p x).sleeves = s.sleeves := rfl
@[simp] theorem setPart_devices (s : State) (p : Nat) (x : Partition) : (setPart s p x).devices = s.devices := rfl
@[simp] theorem setPart_parts (s : State) (p : Nat) (x : Partition) : (setPart s p x).parts = tabSet s.parts p x := rfl
@[simp] theorem setPart_inflight (s : State) (p : Nat) (x : Partition) : (setPart s p x).inflight = s.inflight := rfl
@[simp] theorem setPart_otp (s : State) (p : Nat) (x : Partition) : (setPart s p x).otp = s.otp := rfl
@[simp] theorem setPart_collar (s : State) (p : Nat) (x : Partition) : (setPart s p x).collar = s.collar := rfl
@[simp] theorem setPart_entropy (s : State) (p : Nat) (x : Partition) : (setPart s p x).entropy = s.entropy := rfl
@[simp] theorem setPart_time (s : State) (p : Nat) (x : Partition) : (setPart s p x).time = s.time := rfl
@[simp] theorem setPart_shawl (s : State) (p : Nat) (x : Partition) : (setPart s p x).shawl = s.shawl := rfl
@[simp] theorem setPart_faults (s : State) (p : Nat) (x : Partition) : (setPart s p x).faults = s.faults := rfl
@[simp] theorem setPart_power (s : State) (p : Nat) (x : Partition) : (setPart s p x).power = s.power := rfl
@[simp] theorem setPart_bst (s : State) (p : Nat) (x : Partition) : (setPart s p x).bst = s.bst := rfl
@[simp] theorem setPart_dbg (s : State) (p : Nat) (x : Partition) : (setPart s p x).dbg = s.dbg := rfl
@[simp] theorem setPart_manager (s : State) (p : Nat) (x : Partition) : (setPart s p x).manager = s.manager := rfl

@[simp] theorem modPart_pending (s : State) (p : Nat) (f : Partition → Partition) : (modPart s p f).pending = s.pending := rfl
@[simp] theorem modPart_out (s : State) (p : Nat) (f : Partition → Partition) : (modPart s p f).out = s.out := rfl
@[simp] theorem modPart_freeCtr (s : State) (p : Nat) (f : Partition → Partition) : (modPart s p f).freeCtr = s.freeCtr := rfl
@[simp] theorem modPart_nextId (s : State) (p : Nat) (f : Partition → Partition) : (modPart s p f).nextId = s.nextId := rfl
@[simp] theorem modPart_regs (s : State) (p : Nat) (f : Partition → Partition) : (modPart s p f).regs = s.regs := rfl
@[simp] theorem modPart_lining (s : State) (p : Nat) (f : Partition → Partition) : (modPart s p f).lining = s.lining := rfl
@[simp] theorem modPart_tiles (s : State) (p : Nat) (f : Partition → Partition) : (modPart s p f).tiles = s.tiles := rfl
@[simp] theorem modPart_dram (s : State) (p : Nat) (f : Partition → Partition) : (modPart s p f).dram = s.dram := rfl
@[simp] theorem modPart_areas (s : State) (p : Nat) (f : Partition → Partition) : (modPart s p f).areas = s.areas := rfl
@[simp] theorem modPart_slots (s : State) (p : Nat) (f : Partition → Partition) : (modPart s p f).slots = s.slots := rfl
@[simp] theorem modPart_sleeves (s : State) (p : Nat) (f : Partition → Partition) : (modPart s p f).sleeves = s.sleeves := rfl
@[simp] theorem modPart_devices (s : State) (p : Nat) (f : Partition → Partition) : (modPart s p f).devices = s.devices := rfl
@[simp] theorem modPart_inflight (s : State) (p : Nat) (f : Partition → Partition) : (modPart s p f).inflight = s.inflight := rfl
@[simp] theorem modPart_otp (s : State) (p : Nat) (f : Partition → Partition) : (modPart s p f).otp = s.otp := rfl
@[simp] theorem modPart_collar (s : State) (p : Nat) (f : Partition → Partition) : (modPart s p f).collar = s.collar := rfl
@[simp] theorem modPart_entropy (s : State) (p : Nat) (f : Partition → Partition) : (modPart s p f).entropy = s.entropy := rfl
@[simp] theorem modPart_time (s : State) (p : Nat) (f : Partition → Partition) : (modPart s p f).time = s.time := rfl
@[simp] theorem modPart_shawl (s : State) (p : Nat) (f : Partition → Partition) : (modPart s p f).shawl = s.shawl := rfl
@[simp] theorem modPart_faults (s : State) (p : Nat) (f : Partition → Partition) : (modPart s p f).faults = s.faults := rfl
@[simp] theorem modPart_power (s : State) (p : Nat) (f : Partition → Partition) : (modPart s p f).power = s.power := rfl
@[simp] theorem modPart_bst (s : State) (p : Nat) (f : Partition → Partition) : (modPart s p f).bst = s.bst := rfl
@[simp] theorem modPart_dbg (s : State) (p : Nat) (f : Partition → Partition) : (modPart s p f).dbg = s.dbg := rfl
@[simp] theorem modPart_manager (s : State) (p : Nat) (f : Partition → Partition) : (modPart s p f).manager = s.manager := rfl

@[simp] theorem modSq_pending (s : State) (p r : Nat) (f : SqRing → SqRing) : (modSq s p r f).pending = s.pending := rfl
@[simp] theorem modSq_out (s : State) (p r : Nat) (f : SqRing → SqRing) : (modSq s p r f).out = s.out := rfl
@[simp] theorem modSq_freeCtr (s : State) (p r : Nat) (f : SqRing → SqRing) : (modSq s p r f).freeCtr = s.freeCtr := rfl
@[simp] theorem modSq_nextId (s : State) (p r : Nat) (f : SqRing → SqRing) : (modSq s p r f).nextId = s.nextId := rfl
@[simp] theorem modSq_regs (s : State) (p r : Nat) (f : SqRing → SqRing) : (modSq s p r f).regs = s.regs := rfl
@[simp] theorem modSq_lining (s : State) (p r : Nat) (f : SqRing → SqRing) : (modSq s p r f).lining = s.lining := rfl
@[simp] theorem modSq_tiles (s : State) (p r : Nat) (f : SqRing → SqRing) : (modSq s p r f).tiles = s.tiles := rfl
@[simp] theorem modSq_dram (s : State) (p r : Nat) (f : SqRing → SqRing) : (modSq s p r f).dram = s.dram := rfl
@[simp] theorem modSq_areas (s : State) (p r : Nat) (f : SqRing → SqRing) : (modSq s p r f).areas = s.areas := rfl
@[simp] theorem modSq_slots (s : State) (p r : Nat) (f : SqRing → SqRing) : (modSq s p r f).slots = s.slots := rfl
@[simp] theorem modSq_sleeves (s : State) (p r : Nat) (f : SqRing → SqRing) : (modSq s p r f).sleeves = s.sleeves := rfl
@[simp] theorem modSq_devices (s : State) (p r : Nat) (f : SqRing → SqRing) : (modSq s p r f).devices = s.devices := rfl
@[simp] theorem modSq_inflight (s : State) (p r : Nat) (f : SqRing → SqRing) : (modSq s p r f).inflight = s.inflight := rfl
@[simp] theorem modSq_otp (s : State) (p r : Nat) (f : SqRing → SqRing) : (modSq s p r f).otp = s.otp := rfl
@[simp] theorem modSq_collar (s : State) (p r : Nat) (f : SqRing → SqRing) : (modSq s p r f).collar = s.collar := rfl
@[simp] theorem modSq_entropy (s : State) (p r : Nat) (f : SqRing → SqRing) : (modSq s p r f).entropy = s.entropy := rfl
@[simp] theorem modSq_time (s : State) (p r : Nat) (f : SqRing → SqRing) : (modSq s p r f).time = s.time := rfl
@[simp] theorem modSq_shawl (s : State) (p r : Nat) (f : SqRing → SqRing) : (modSq s p r f).shawl = s.shawl := rfl
@[simp] theorem modSq_faults (s : State) (p r : Nat) (f : SqRing → SqRing) : (modSq s p r f).faults = s.faults := rfl
@[simp] theorem modSq_power (s : State) (p r : Nat) (f : SqRing → SqRing) : (modSq s p r f).power = s.power := rfl
@[simp] theorem modSq_bst (s : State) (p r : Nat) (f : SqRing → SqRing) : (modSq s p r f).bst = s.bst := rfl
@[simp] theorem modSq_dbg (s : State) (p r : Nat) (f : SqRing → SqRing) : (modSq s p r f).dbg = s.dbg := rfl
@[simp] theorem modSq_manager (s : State) (p r : Nat) (f : SqRing → SqRing) : (modSq s p r f).manager = s.manager := rfl

@[simp] theorem modCq_pending (s : State) (p c : Nat) (f : CqRing → CqRing) : (modCq s p c f).pending = s.pending := rfl
@[simp] theorem modCq_out (s : State) (p c : Nat) (f : CqRing → CqRing) : (modCq s p c f).out = s.out := rfl
@[simp] theorem modCq_freeCtr (s : State) (p c : Nat) (f : CqRing → CqRing) : (modCq s p c f).freeCtr = s.freeCtr := rfl
@[simp] theorem modCq_nextId (s : State) (p c : Nat) (f : CqRing → CqRing) : (modCq s p c f).nextId = s.nextId := rfl
@[simp] theorem modCq_regs (s : State) (p c : Nat) (f : CqRing → CqRing) : (modCq s p c f).regs = s.regs := rfl
@[simp] theorem modCq_lining (s : State) (p c : Nat) (f : CqRing → CqRing) : (modCq s p c f).lining = s.lining := rfl
@[simp] theorem modCq_tiles (s : State) (p c : Nat) (f : CqRing → CqRing) : (modCq s p c f).tiles = s.tiles := rfl
@[simp] theorem modCq_dram (s : State) (p c : Nat) (f : CqRing → CqRing) : (modCq s p c f).dram = s.dram := rfl
@[simp] theorem modCq_areas (s : State) (p c : Nat) (f : CqRing → CqRing) : (modCq s p c f).areas = s.areas := rfl
@[simp] theorem modCq_slots (s : State) (p c : Nat) (f : CqRing → CqRing) : (modCq s p c f).slots = s.slots := rfl
@[simp] theorem modCq_sleeves (s : State) (p c : Nat) (f : CqRing → CqRing) : (modCq s p c f).sleeves = s.sleeves := rfl
@[simp] theorem modCq_devices (s : State) (p c : Nat) (f : CqRing → CqRing) : (modCq s p c f).devices = s.devices := rfl
@[simp] theorem modCq_inflight (s : State) (p c : Nat) (f : CqRing → CqRing) : (modCq s p c f).inflight = s.inflight := rfl
@[simp] theorem modCq_otp (s : State) (p c : Nat) (f : CqRing → CqRing) : (modCq s p c f).otp = s.otp := rfl
@[simp] theorem modCq_collar (s : State) (p c : Nat) (f : CqRing → CqRing) : (modCq s p c f).collar = s.collar := rfl
@[simp] theorem modCq_entropy (s : State) (p c : Nat) (f : CqRing → CqRing) : (modCq s p c f).entropy = s.entropy := rfl
@[simp] theorem modCq_time (s : State) (p c : Nat) (f : CqRing → CqRing) : (modCq s p c f).time = s.time := rfl
@[simp] theorem modCq_shawl (s : State) (p c : Nat) (f : CqRing → CqRing) : (modCq s p c f).shawl = s.shawl := rfl
@[simp] theorem modCq_faults (s : State) (p c : Nat) (f : CqRing → CqRing) : (modCq s p c f).faults = s.faults := rfl
@[simp] theorem modCq_power (s : State) (p c : Nat) (f : CqRing → CqRing) : (modCq s p c f).power = s.power := rfl
@[simp] theorem modCq_bst (s : State) (p c : Nat) (f : CqRing → CqRing) : (modCq s p c f).bst = s.bst := rfl
@[simp] theorem modCq_dbg (s : State) (p c : Nat) (f : CqRing → CqRing) : (modCq s p c f).dbg = s.dbg := rfl
@[simp] theorem modCq_manager (s : State) (p c : Nat) (f : CqRing → CqRing) : (modCq s p c f).manager = s.manager := rfl

@[simp] theorem sharedEvent_pending (s : State) : (sharedEvent s).pending = s.pending := rfl
@[simp] theorem sharedEvent_out (s : State) : (sharedEvent s).out = s.out := rfl
@[simp] theorem sharedEvent_freeCtr (s : State) : (sharedEvent s).freeCtr = s.freeCtr := rfl
@[simp] theorem sharedEvent_nextId (s : State) : (sharedEvent s).nextId = s.nextId := rfl
@[simp] theorem sharedEvent_regs (s : State) : (sharedEvent s).regs = s.regs := rfl
@[simp] theorem sharedEvent_lining (s : State) : (sharedEvent s).lining = s.lining := rfl
@[simp] theorem sharedEvent_tiles (s : State) : (sharedEvent s).tiles = s.tiles := rfl
@[simp] theorem sharedEvent_dram (s : State) : (sharedEvent s).dram = s.dram := rfl
@[simp] theorem sharedEvent_areas (s : State) : (sharedEvent s).areas = s.areas := rfl
@[simp] theorem sharedEvent_slots (s : State) : (sharedEvent s).slots = s.slots := rfl
@[simp] theorem sharedEvent_sleeves (s : State) : (sharedEvent s).sleeves = s.sleeves := rfl
@[simp] theorem sharedEvent_devices (s : State) : (sharedEvent s).devices = s.devices := rfl
@[simp] theorem sharedEvent_parts (s : State) : (sharedEvent s).parts = s.parts := rfl
@[simp] theorem sharedEvent_inflight (s : State) : (sharedEvent s).inflight = s.inflight := rfl
@[simp] theorem sharedEvent_otp (s : State) : (sharedEvent s).otp = s.otp := rfl
@[simp] theorem sharedEvent_collar (s : State) : (sharedEvent s).collar = s.collar := rfl
@[simp] theorem sharedEvent_entropy (s : State) : (sharedEvent s).entropy = s.entropy := rfl
@[simp] theorem sharedEvent_time (s : State) : (sharedEvent s).time = s.time := rfl
@[simp] theorem sharedEvent_shawl (s : State) : (sharedEvent s).shawl = s.shawl := rfl
@[simp] theorem sharedEvent_power (s : State) : (sharedEvent s).power = s.power := rfl
@[simp] theorem sharedEvent_bst (s : State) : (sharedEvent s).bst = s.bst := rfl
@[simp] theorem sharedEvent_dbg (s : State) : (sharedEvent s).dbg = s.dbg := rfl
@[simp] theorem sharedEvent_manager (s : State) : (sharedEvent s).manager = s.manager := rfl

@[simp] theorem countStale_pending (s : State) : (countStale s).pending = s.pending := rfl
@[simp] theorem countStale_out (s : State) : (countStale s).out = s.out := rfl
@[simp] theorem countStale_freeCtr (s : State) : (countStale s).freeCtr = s.freeCtr := rfl
@[simp] theorem countStale_nextId (s : State) : (countStale s).nextId = s.nextId := rfl
@[simp] theorem countStale_regs (s : State) : (countStale s).regs = s.regs := rfl
@[simp] theorem countStale_lining (s : State) : (countStale s).lining = s.lining := rfl
@[simp] theorem countStale_tiles (s : State) : (countStale s).tiles = s.tiles := rfl
@[simp] theorem countStale_dram (s : State) : (countStale s).dram = s.dram := rfl
@[simp] theorem countStale_areas (s : State) : (countStale s).areas = s.areas := rfl
@[simp] theorem countStale_slots (s : State) : (countStale s).slots = s.slots := rfl
@[simp] theorem countStale_sleeves (s : State) : (countStale s).sleeves = s.sleeves := rfl
@[simp] theorem countStale_devices (s : State) : (countStale s).devices = s.devices := rfl
@[simp] theorem countStale_parts (s : State) : (countStale s).parts = s.parts := rfl
@[simp] theorem countStale_inflight (s : State) : (countStale s).inflight = s.inflight := rfl
@[simp] theorem countStale_otp (s : State) : (countStale s).otp = s.otp := rfl
@[simp] theorem countStale_collar (s : State) : (countStale s).collar = s.collar := rfl
@[simp] theorem countStale_entropy (s : State) : (countStale s).entropy = s.entropy := rfl
@[simp] theorem countStale_time (s : State) : (countStale s).time = s.time := rfl
@[simp] theorem countStale_shawl (s : State) : (countStale s).shawl = s.shawl := rfl
@[simp] theorem countStale_power (s : State) : (countStale s).power = s.power := rfl
@[simp] theorem countStale_bst (s : State) : (countStale s).bst = s.bst := rfl
@[simp] theorem countStale_dbg (s : State) : (countStale s).dbg = s.dbg := rfl
@[simp] theorem countStale_manager (s : State) : (countStale s).manager = s.manager := rfl

@[simp] theorem setUnitMeta_pending (s : State) (p u : Nat) (m : TileMeta) : (setUnitMeta s p u m).pending = s.pending := rfl
@[simp] theorem setUnitMeta_out (s : State) (p u : Nat) (m : TileMeta) : (setUnitMeta s p u m).out = s.out := rfl
@[simp] theorem setUnitMeta_freeCtr (s : State) (p u : Nat) (m : TileMeta) : (setUnitMeta s p u m).freeCtr = s.freeCtr := rfl
@[simp] theorem setUnitMeta_nextId (s : State) (p u : Nat) (m : TileMeta) : (setUnitMeta s p u m).nextId = s.nextId := rfl
@[simp] theorem setUnitMeta_regs (s : State) (p u : Nat) (m : TileMeta) : (setUnitMeta s p u m).regs = s.regs := rfl
@[simp] theorem setUnitMeta_lining (s : State) (p u : Nat) (m : TileMeta) : (setUnitMeta s p u m).lining = s.lining := rfl
@[simp] theorem setUnitMeta_dram (s : State) (p u : Nat) (m : TileMeta) : (setUnitMeta s p u m).dram = s.dram := rfl
@[simp] theorem setUnitMeta_areas (s : State) (p u : Nat) (m : TileMeta) : (setUnitMeta s p u m).areas = s.areas := rfl
@[simp] theorem setUnitMeta_slots (s : State) (p u : Nat) (m : TileMeta) : (setUnitMeta s p u m).slots = s.slots := rfl
@[simp] theorem setUnitMeta_sleeves (s : State) (p u : Nat) (m : TileMeta) : (setUnitMeta s p u m).sleeves = s.sleeves := rfl
@[simp] theorem setUnitMeta_devices (s : State) (p u : Nat) (m : TileMeta) : (setUnitMeta s p u m).devices = s.devices := rfl
@[simp] theorem setUnitMeta_parts (s : State) (p u : Nat) (m : TileMeta) : (setUnitMeta s p u m).parts = s.parts := rfl
@[simp] theorem setUnitMeta_inflight (s : State) (p u : Nat) (m : TileMeta) : (setUnitMeta s p u m).inflight = s.inflight := rfl
@[simp] theorem setUnitMeta_otp (s : State) (p u : Nat) (m : TileMeta) : (setUnitMeta s p u m).otp = s.otp := rfl
@[simp] theorem setUnitMeta_collar (s : State) (p u : Nat) (m : TileMeta) : (setUnitMeta s p u m).collar = s.collar := rfl
@[simp] theorem setUnitMeta_entropy (s : State) (p u : Nat) (m : TileMeta) : (setUnitMeta s p u m).entropy = s.entropy := rfl
@[simp] theorem setUnitMeta_time (s : State) (p u : Nat) (m : TileMeta) : (setUnitMeta s p u m).time = s.time := rfl
@[simp] theorem setUnitMeta_shawl (s : State) (p u : Nat) (m : TileMeta) : (setUnitMeta s p u m).shawl = s.shawl := rfl
@[simp] theorem setUnitMeta_faults (s : State) (p u : Nat) (m : TileMeta) : (setUnitMeta s p u m).faults = s.faults := rfl
@[simp] theorem setUnitMeta_power (s : State) (p u : Nat) (m : TileMeta) : (setUnitMeta s p u m).power = s.power := rfl
@[simp] theorem setUnitMeta_bst (s : State) (p u : Nat) (m : TileMeta) : (setUnitMeta s p u m).bst = s.bst := rfl
@[simp] theorem setUnitMeta_dbg (s : State) (p u : Nat) (m : TileMeta) : (setUnitMeta s p u m).dbg = s.dbg := rfl
@[simp] theorem setUnitMeta_manager (s : State) (p u : Nat) (m : TileMeta) : (setUnitMeta s p u m).manager = s.manager := rfl

@[simp] theorem modPort_pending (s : State) (i : Nat) (f : Port → Port) : (modPort s i f).pending = s.pending := rfl
@[simp] theorem modPort_out (s : State) (i : Nat) (f : Port → Port) : (modPort s i f).out = s.out := rfl
@[simp] theorem modPort_freeCtr (s : State) (i : Nat) (f : Port → Port) : (modPort s i f).freeCtr = s.freeCtr := rfl
@[simp] theorem modPort_nextId (s : State) (i : Nat) (f : Port → Port) : (modPort s i f).nextId = s.nextId := rfl
@[simp] theorem modPort_regs (s : State) (i : Nat) (f : Port → Port) : (modPort s i f).regs = s.regs := rfl
@[simp] theorem modPort_lining (s : State) (i : Nat) (f : Port → Port) : (modPort s i f).lining = s.lining := rfl
@[simp] theorem modPort_tiles (s : State) (i : Nat) (f : Port → Port) : (modPort s i f).tiles = s.tiles := rfl
@[simp] theorem modPort_dram (s : State) (i : Nat) (f : Port → Port) : (modPort s i f).dram = s.dram := rfl
@[simp] theorem modPort_areas (s : State) (i : Nat) (f : Port → Port) : (modPort s i f).areas = s.areas := rfl
@[simp] theorem modPort_slots (s : State) (i : Nat) (f : Port → Port) : (modPort s i f).slots = s.slots := rfl
@[simp] theorem modPort_sleeves (s : State) (i : Nat) (f : Port → Port) : (modPort s i f).sleeves = s.sleeves := rfl
@[simp] theorem modPort_devices (s : State) (i : Nat) (f : Port → Port) : (modPort s i f).devices = s.devices := rfl
@[simp] theorem modPort_parts (s : State) (i : Nat) (f : Port → Port) : (modPort s i f).parts = s.parts := rfl
@[simp] theorem modPort_inflight (s : State) (i : Nat) (f : Port → Port) : (modPort s i f).inflight = s.inflight := rfl
@[simp] theorem modPort_otp (s : State) (i : Nat) (f : Port → Port) : (modPort s i f).otp = s.otp := rfl
@[simp] theorem modPort_collar (s : State) (i : Nat) (f : Port → Port) : (modPort s i f).collar = s.collar := rfl
@[simp] theorem modPort_entropy (s : State) (i : Nat) (f : Port → Port) : (modPort s i f).entropy = s.entropy := rfl
@[simp] theorem modPort_time (s : State) (i : Nat) (f : Port → Port) : (modPort s i f).time = s.time := rfl
@[simp] theorem modPort_faults (s : State) (i : Nat) (f : Port → Port) : (modPort s i f).faults = s.faults := rfl
@[simp] theorem modPort_power (s : State) (i : Nat) (f : Port → Port) : (modPort s i f).power = s.power := rfl
@[simp] theorem modPort_bst (s : State) (i : Nat) (f : Port → Port) : (modPort s i f).bst = s.bst := rfl
@[simp] theorem modPort_dbg (s : State) (i : Nat) (f : Port → Port) : (modPort s i f).dbg = s.dbg := rfl
@[simp] theorem modPort_manager (s : State) (i : Nat) (f : Port → Port) : (modPort s i f).manager = s.manager := rfl

@[simp] theorem modLinkKey_pending (s : State) (p k : Nat) (f : LinkKey → LinkKey) : (modLinkKey s p k f).pending = s.pending := rfl
@[simp] theorem modLinkKey_out (s : State) (p k : Nat) (f : LinkKey → LinkKey) : (modLinkKey s p k f).out = s.out := rfl
@[simp] theorem modLinkKey_freeCtr (s : State) (p k : Nat) (f : LinkKey → LinkKey) : (modLinkKey s p k f).freeCtr = s.freeCtr := rfl
@[simp] theorem modLinkKey_nextId (s : State) (p k : Nat) (f : LinkKey → LinkKey) : (modLinkKey s p k f).nextId = s.nextId := rfl
@[simp] theorem modLinkKey_regs (s : State) (p k : Nat) (f : LinkKey → LinkKey) : (modLinkKey s p k f).regs = s.regs := rfl
@[simp] theorem modLinkKey_lining (s : State) (p k : Nat) (f : LinkKey → LinkKey) : (modLinkKey s p k f).lining = s.lining := rfl
@[simp] theorem modLinkKey_tiles (s : State) (p k : Nat) (f : LinkKey → LinkKey) : (modLinkKey s p k f).tiles = s.tiles := rfl
@[simp] theorem modLinkKey_dram (s : State) (p k : Nat) (f : LinkKey → LinkKey) : (modLinkKey s p k f).dram = s.dram := rfl
@[simp] theorem modLinkKey_areas (s : State) (p k : Nat) (f : LinkKey → LinkKey) : (modLinkKey s p k f).areas = s.areas := rfl
@[simp] theorem modLinkKey_slots (s : State) (p k : Nat) (f : LinkKey → LinkKey) : (modLinkKey s p k f).slots = s.slots := rfl
@[simp] theorem modLinkKey_sleeves (s : State) (p k : Nat) (f : LinkKey → LinkKey) : (modLinkKey s p k f).sleeves = s.sleeves := rfl
@[simp] theorem modLinkKey_devices (s : State) (p k : Nat) (f : LinkKey → LinkKey) : (modLinkKey s p k f).devices = s.devices := rfl
@[simp] theorem modLinkKey_parts (s : State) (p k : Nat) (f : LinkKey → LinkKey) : (modLinkKey s p k f).parts = s.parts := rfl
@[simp] theorem modLinkKey_inflight (s : State) (p k : Nat) (f : LinkKey → LinkKey) : (modLinkKey s p k f).inflight = s.inflight := rfl
@[simp] theorem modLinkKey_otp (s : State) (p k : Nat) (f : LinkKey → LinkKey) : (modLinkKey s p k f).otp = s.otp := rfl
@[simp] theorem modLinkKey_collar (s : State) (p k : Nat) (f : LinkKey → LinkKey) : (modLinkKey s p k f).collar = s.collar := rfl
@[simp] theorem modLinkKey_entropy (s : State) (p k : Nat) (f : LinkKey → LinkKey) : (modLinkKey s p k f).entropy = s.entropy := rfl
@[simp] theorem modLinkKey_time (s : State) (p k : Nat) (f : LinkKey → LinkKey) : (modLinkKey s p k f).time = s.time := rfl
@[simp] theorem modLinkKey_faults (s : State) (p k : Nat) (f : LinkKey → LinkKey) : (modLinkKey s p k f).faults = s.faults := rfl
@[simp] theorem modLinkKey_power (s : State) (p k : Nat) (f : LinkKey → LinkKey) : (modLinkKey s p k f).power = s.power := rfl
@[simp] theorem modLinkKey_bst (s : State) (p k : Nat) (f : LinkKey → LinkKey) : (modLinkKey s p k f).bst = s.bst := rfl
@[simp] theorem modLinkKey_dbg (s : State) (p k : Nat) (f : LinkKey → LinkKey) : (modLinkKey s p k f).dbg = s.dbg := rfl
@[simp] theorem modLinkKey_manager (s : State) (p k : Nat) (f : LinkKey → LinkKey) : (modLinkKey s p k f).manager = s.manager := rfl

@[simp] theorem modQueue_pending (s : State) (k : Nat) (f : CellQueue → CellQueue) : (modQueue s k f).pending = s.pending := rfl
@[simp] theorem modQueue_out (s : State) (k : Nat) (f : CellQueue → CellQueue) : (modQueue s k f).out = s.out := rfl
@[simp] theorem modQueue_freeCtr (s : State) (k : Nat) (f : CellQueue → CellQueue) : (modQueue s k f).freeCtr = s.freeCtr := rfl
@[simp] theorem modQueue_nextId (s : State) (k : Nat) (f : CellQueue → CellQueue) : (modQueue s k f).nextId = s.nextId := rfl
@[simp] theorem modQueue_regs (s : State) (k : Nat) (f : CellQueue → CellQueue) : (modQueue s k f).regs = s.regs := rfl
@[simp] theorem modQueue_lining (s : State) (k : Nat) (f : CellQueue → CellQueue) : (modQueue s k f).lining = s.lining := rfl
@[simp] theorem modQueue_tiles (s : State) (k : Nat) (f : CellQueue → CellQueue) : (modQueue s k f).tiles = s.tiles := rfl
@[simp] theorem modQueue_dram (s : State) (k : Nat) (f : CellQueue → CellQueue) : (modQueue s k f).dram = s.dram := rfl
@[simp] theorem modQueue_areas (s : State) (k : Nat) (f : CellQueue → CellQueue) : (modQueue s k f).areas = s.areas := rfl
@[simp] theorem modQueue_slots (s : State) (k : Nat) (f : CellQueue → CellQueue) : (modQueue s k f).slots = s.slots := rfl
@[simp] theorem modQueue_sleeves (s : State) (k : Nat) (f : CellQueue → CellQueue) : (modQueue s k f).sleeves = s.sleeves := rfl
@[simp] theorem modQueue_devices (s : State) (k : Nat) (f : CellQueue → CellQueue) : (modQueue s k f).devices = s.devices := rfl
@[simp] theorem modQueue_parts (s : State) (k : Nat) (f : CellQueue → CellQueue) : (modQueue s k f).parts = s.parts := rfl
@[simp] theorem modQueue_inflight (s : State) (k : Nat) (f : CellQueue → CellQueue) : (modQueue s k f).inflight = s.inflight := rfl
@[simp] theorem modQueue_otp (s : State) (k : Nat) (f : CellQueue → CellQueue) : (modQueue s k f).otp = s.otp := rfl
@[simp] theorem modQueue_collar (s : State) (k : Nat) (f : CellQueue → CellQueue) : (modQueue s k f).collar = s.collar := rfl
@[simp] theorem modQueue_entropy (s : State) (k : Nat) (f : CellQueue → CellQueue) : (modQueue s k f).entropy = s.entropy := rfl
@[simp] theorem modQueue_time (s : State) (k : Nat) (f : CellQueue → CellQueue) : (modQueue s k f).time = s.time := rfl
@[simp] theorem modQueue_faults (s : State) (k : Nat) (f : CellQueue → CellQueue) : (modQueue s k f).faults = s.faults := rfl
@[simp] theorem modQueue_power (s : State) (k : Nat) (f : CellQueue → CellQueue) : (modQueue s k f).power = s.power := rfl
@[simp] theorem modQueue_bst (s : State) (k : Nat) (f : CellQueue → CellQueue) : (modQueue s k f).bst = s.bst := rfl
@[simp] theorem modQueue_dbg (s : State) (k : Nat) (f : CellQueue → CellQueue) : (modQueue s k f).dbg = s.dbg := rfl
@[simp] theorem modQueue_manager (s : State) (k : Nat) (f : CellQueue → CellQueue) : (modQueue s k f).manager = s.manager := rfl

@[simp] theorem modFlight_pending (s : State) (id : Nat) (f : InFlight → InFlight) : (modFlight s id f).pending = s.pending := rfl
@[simp] theorem modFlight_out (s : State) (id : Nat) (f : InFlight → InFlight) : (modFlight s id f).out = s.out := rfl
@[simp] theorem modFlight_freeCtr (s : State) (id : Nat) (f : InFlight → InFlight) : (modFlight s id f).freeCtr = s.freeCtr := rfl
@[simp] theorem modFlight_nextId (s : State) (id : Nat) (f : InFlight → InFlight) : (modFlight s id f).nextId = s.nextId := rfl
@[simp] theorem modFlight_regs (s : State) (id : Nat) (f : InFlight → InFlight) : (modFlight s id f).regs = s.regs := rfl
@[simp] theorem modFlight_lining (s : State) (id : Nat) (f : InFlight → InFlight) : (modFlight s id f).lining = s.lining := rfl
@[simp] theorem modFlight_tiles (s : State) (id : Nat) (f : InFlight → InFlight) : (modFlight s id f).tiles = s.tiles := rfl
@[simp] theorem modFlight_dram (s : State) (id : Nat) (f : InFlight → InFlight) : (modFlight s id f).dram = s.dram := rfl
@[simp] theorem modFlight_areas (s : State) (id : Nat) (f : InFlight → InFlight) : (modFlight s id f).areas = s.areas := rfl
@[simp] theorem modFlight_slots (s : State) (id : Nat) (f : InFlight → InFlight) : (modFlight s id f).slots = s.slots := rfl
@[simp] theorem modFlight_sleeves (s : State) (id : Nat) (f : InFlight → InFlight) : (modFlight s id f).sleeves = s.sleeves := rfl
@[simp] theorem modFlight_devices (s : State) (id : Nat) (f : InFlight → InFlight) : (modFlight s id f).devices = s.devices := rfl
@[simp] theorem modFlight_parts (s : State) (id : Nat) (f : InFlight → InFlight) : (modFlight s id f).parts = s.parts := rfl
@[simp] theorem modFlight_otp (s : State) (id : Nat) (f : InFlight → InFlight) : (modFlight s id f).otp = s.otp := rfl
@[simp] theorem modFlight_collar (s : State) (id : Nat) (f : InFlight → InFlight) : (modFlight s id f).collar = s.collar := rfl
@[simp] theorem modFlight_entropy (s : State) (id : Nat) (f : InFlight → InFlight) : (modFlight s id f).entropy = s.entropy := rfl
@[simp] theorem modFlight_time (s : State) (id : Nat) (f : InFlight → InFlight) : (modFlight s id f).time = s.time := rfl
@[simp] theorem modFlight_shawl (s : State) (id : Nat) (f : InFlight → InFlight) : (modFlight s id f).shawl = s.shawl := rfl
@[simp] theorem modFlight_faults (s : State) (id : Nat) (f : InFlight → InFlight) : (modFlight s id f).faults = s.faults := rfl
@[simp] theorem modFlight_power (s : State) (id : Nat) (f : InFlight → InFlight) : (modFlight s id f).power = s.power := rfl
@[simp] theorem modFlight_bst (s : State) (id : Nat) (f : InFlight → InFlight) : (modFlight s id f).bst = s.bst := rfl
@[simp] theorem modFlight_dbg (s : State) (id : Nat) (f : InFlight → InFlight) : (modFlight s id f).dbg = s.dbg := rfl
@[simp] theorem modFlight_manager (s : State) (id : Nat) (f : InFlight → InFlight) : (modFlight s id f).manager = s.manager := rfl

@[simp] theorem finishRef_pending (s : State) (id : Nat) (st : Status) (r ref : Nat) : (finishRef s id st r ref).pending = s.pending := rfl
@[simp] theorem finishRef_out (s : State) (id : Nat) (st : Status) (r ref : Nat) : (finishRef s id st r ref).out = s.out := rfl
@[simp] theorem finishRef_freeCtr (s : State) (id : Nat) (st : Status) (r ref : Nat) : (finishRef s id st r ref).freeCtr = s.freeCtr := rfl
@[simp] theorem finishRef_nextId (s : State) (id : Nat) (st : Status) (r ref : Nat) : (finishRef s id st r ref).nextId = s.nextId := rfl
@[simp] theorem finishRef_regs (s : State) (id : Nat) (st : Status) (r ref : Nat) : (finishRef s id st r ref).regs = s.regs := rfl
@[simp] theorem finishRef_lining (s : State) (id : Nat) (st : Status) (r ref : Nat) : (finishRef s id st r ref).lining = s.lining := rfl
@[simp] theorem finishRef_tiles (s : State) (id : Nat) (st : Status) (r ref : Nat) : (finishRef s id st r ref).tiles = s.tiles := rfl
@[simp] theorem finishRef_dram (s : State) (id : Nat) (st : Status) (r ref : Nat) : (finishRef s id st r ref).dram = s.dram := rfl
@[simp] theorem finishRef_areas (s : State) (id : Nat) (st : Status) (r ref : Nat) : (finishRef s id st r ref).areas = s.areas := rfl
@[simp] theorem finishRef_slots (s : State) (id : Nat) (st : Status) (r ref : Nat) : (finishRef s id st r ref).slots = s.slots := rfl
@[simp] theorem finishRef_sleeves (s : State) (id : Nat) (st : Status) (r ref : Nat) : (finishRef s id st r ref).sleeves = s.sleeves := rfl
@[simp] theorem finishRef_devices (s : State) (id : Nat) (st : Status) (r ref : Nat) : (finishRef s id st r ref).devices = s.devices := rfl
@[simp] theorem finishRef_parts (s : State) (id : Nat) (st : Status) (r ref : Nat) : (finishRef s id st r ref).parts = s.parts := rfl
@[simp] theorem finishRef_otp (s : State) (id : Nat) (st : Status) (r ref : Nat) : (finishRef s id st r ref).otp = s.otp := rfl
@[simp] theorem finishRef_collar (s : State) (id : Nat) (st : Status) (r ref : Nat) : (finishRef s id st r ref).collar = s.collar := rfl
@[simp] theorem finishRef_entropy (s : State) (id : Nat) (st : Status) (r ref : Nat) : (finishRef s id st r ref).entropy = s.entropy := rfl
@[simp] theorem finishRef_time (s : State) (id : Nat) (st : Status) (r ref : Nat) : (finishRef s id st r ref).time = s.time := rfl
@[simp] theorem finishRef_shawl (s : State) (id : Nat) (st : Status) (r ref : Nat) : (finishRef s id st r ref).shawl = s.shawl := rfl
@[simp] theorem finishRef_faults (s : State) (id : Nat) (st : Status) (r ref : Nat) : (finishRef s id st r ref).faults = s.faults := rfl
@[simp] theorem finishRef_power (s : State) (id : Nat) (st : Status) (r ref : Nat) : (finishRef s id st r ref).power = s.power := rfl
@[simp] theorem finishRef_bst (s : State) (id : Nat) (st : Status) (r ref : Nat) : (finishRef s id st r ref).bst = s.bst := rfl
@[simp] theorem finishRef_dbg (s : State) (id : Nat) (st : Status) (r ref : Nat) : (finishRef s id st r ref).dbg = s.dbg := rfl
@[simp] theorem finishRef_manager (s : State) (id : Nat) (st : Status) (r ref : Nat) : (finishRef s id st r ref).manager = s.manager := rfl

@[simp] theorem finish_pending (s : State) (id : Nat) (st : Status) (r : Nat) : (finish s id st r).pending = s.pending := rfl
@[simp] theorem finish_out (s : State) (id : Nat) (st : Status) (r : Nat) : (finish s id st r).out = s.out := rfl
@[simp] theorem finish_freeCtr (s : State) (id : Nat) (st : Status) (r : Nat) : (finish s id st r).freeCtr = s.freeCtr := rfl
@[simp] theorem finish_nextId (s : State) (id : Nat) (st : Status) (r : Nat) : (finish s id st r).nextId = s.nextId := rfl
@[simp] theorem finish_regs (s : State) (id : Nat) (st : Status) (r : Nat) : (finish s id st r).regs = s.regs := rfl
@[simp] theorem finish_lining (s : State) (id : Nat) (st : Status) (r : Nat) : (finish s id st r).lining = s.lining := rfl
@[simp] theorem finish_tiles (s : State) (id : Nat) (st : Status) (r : Nat) : (finish s id st r).tiles = s.tiles := rfl
@[simp] theorem finish_dram (s : State) (id : Nat) (st : Status) (r : Nat) : (finish s id st r).dram = s.dram := rfl
@[simp] theorem finish_areas (s : State) (id : Nat) (st : Status) (r : Nat) : (finish s id st r).areas = s.areas := rfl
@[simp] theorem finish_slots (s : State) (id : Nat) (st : Status) (r : Nat) : (finish s id st r).slots = s.slots := rfl
@[simp] theorem finish_sleeves (s : State) (id : Nat) (st : Status) (r : Nat) : (finish s id st r).sleeves = s.sleeves := rfl
@[simp] theorem finish_devices (s : State) (id : Nat) (st : Status) (r : Nat) : (finish s id st r).devices = s.devices := rfl
@[simp] theorem finish_parts (s : State) (id : Nat) (st : Status) (r : Nat) : (finish s id st r).parts = s.parts := rfl
@[simp] theorem finish_otp (s : State) (id : Nat) (st : Status) (r : Nat) : (finish s id st r).otp = s.otp := rfl
@[simp] theorem finish_collar (s : State) (id : Nat) (st : Status) (r : Nat) : (finish s id st r).collar = s.collar := rfl
@[simp] theorem finish_entropy (s : State) (id : Nat) (st : Status) (r : Nat) : (finish s id st r).entropy = s.entropy := rfl
@[simp] theorem finish_time (s : State) (id : Nat) (st : Status) (r : Nat) : (finish s id st r).time = s.time := rfl
@[simp] theorem finish_shawl (s : State) (id : Nat) (st : Status) (r : Nat) : (finish s id st r).shawl = s.shawl := rfl
@[simp] theorem finish_faults (s : State) (id : Nat) (st : Status) (r : Nat) : (finish s id st r).faults = s.faults := rfl
@[simp] theorem finish_power (s : State) (id : Nat) (st : Status) (r : Nat) : (finish s id st r).power = s.power := rfl
@[simp] theorem finish_bst (s : State) (id : Nat) (st : Status) (r : Nat) : (finish s id st r).bst = s.bst := rfl
@[simp] theorem finish_dbg (s : State) (id : Nat) (st : Status) (r : Nat) : (finish s id st r).dbg = s.dbg := rfl
@[simp] theorem finish_manager (s : State) (id : Nat) (st : Status) (r : Nat) : (finish s id st r).manager = s.manager := rfl

@[simp] theorem refuse_pending (s : State) (id : Nat) (st : Status) : (refuse s id st).pending = s.pending := rfl
@[simp] theorem refuse_out (s : State) (id : Nat) (st : Status) : (refuse s id st).out = s.out := rfl
@[simp] theorem refuse_freeCtr (s : State) (id : Nat) (st : Status) : (refuse s id st).freeCtr = s.freeCtr := rfl
@[simp] theorem refuse_nextId (s : State) (id : Nat) (st : Status) : (refuse s id st).nextId = s.nextId := rfl
@[simp] theorem refuse_regs (s : State) (id : Nat) (st : Status) : (refuse s id st).regs = s.regs := rfl
@[simp] theorem refuse_lining (s : State) (id : Nat) (st : Status) : (refuse s id st).lining = s.lining := rfl
@[simp] theorem refuse_tiles (s : State) (id : Nat) (st : Status) : (refuse s id st).tiles = s.tiles := rfl
@[simp] theorem refuse_dram (s : State) (id : Nat) (st : Status) : (refuse s id st).dram = s.dram := rfl
@[simp] theorem refuse_areas (s : State) (id : Nat) (st : Status) : (refuse s id st).areas = s.areas := rfl
@[simp] theorem refuse_slots (s : State) (id : Nat) (st : Status) : (refuse s id st).slots = s.slots := rfl
@[simp] theorem refuse_sleeves (s : State) (id : Nat) (st : Status) : (refuse s id st).sleeves = s.sleeves := rfl
@[simp] theorem refuse_devices (s : State) (id : Nat) (st : Status) : (refuse s id st).devices = s.devices := rfl
@[simp] theorem refuse_parts (s : State) (id : Nat) (st : Status) : (refuse s id st).parts = s.parts := rfl
@[simp] theorem refuse_otp (s : State) (id : Nat) (st : Status) : (refuse s id st).otp = s.otp := rfl
@[simp] theorem refuse_collar (s : State) (id : Nat) (st : Status) : (refuse s id st).collar = s.collar := rfl
@[simp] theorem refuse_entropy (s : State) (id : Nat) (st : Status) : (refuse s id st).entropy = s.entropy := rfl
@[simp] theorem refuse_time (s : State) (id : Nat) (st : Status) : (refuse s id st).time = s.time := rfl
@[simp] theorem refuse_shawl (s : State) (id : Nat) (st : Status) : (refuse s id st).shawl = s.shawl := rfl
@[simp] theorem refuse_faults (s : State) (id : Nat) (st : Status) : (refuse s id st).faults = s.faults := rfl
@[simp] theorem refuse_power (s : State) (id : Nat) (st : Status) : (refuse s id st).power = s.power := rfl
@[simp] theorem refuse_bst (s : State) (id : Nat) (st : Status) : (refuse s id st).bst = s.bst := rfl
@[simp] theorem refuse_dbg (s : State) (id : Nat) (st : Status) : (refuse s id st).dbg = s.dbg := rfl
@[simp] theorem refuse_manager (s : State) (id : Nat) (st : Status) : (refuse s id st).manager = s.manager := rfl

@[simp] theorem waitIn_pending (s : State) (id : Nat) (ph : Phase) : (waitIn s id ph).pending = s.pending := rfl
@[simp] theorem waitIn_out (s : State) (id : Nat) (ph : Phase) : (waitIn s id ph).out = s.out := rfl
@[simp] theorem waitIn_freeCtr (s : State) (id : Nat) (ph : Phase) : (waitIn s id ph).freeCtr = s.freeCtr := rfl
@[simp] theorem waitIn_nextId (s : State) (id : Nat) (ph : Phase) : (waitIn s id ph).nextId = s.nextId := rfl
@[simp] theorem waitIn_regs (s : State) (id : Nat) (ph : Phase) : (waitIn s id ph).regs = s.regs := rfl
@[simp] theorem waitIn_lining (s : State) (id : Nat) (ph : Phase) : (waitIn s id ph).lining = s.lining := rfl
@[simp] theorem waitIn_tiles (s : State) (id : Nat) (ph : Phase) : (waitIn s id ph).tiles = s.tiles := rfl
@[simp] theorem waitIn_dram (s : State) (id : Nat) (ph : Phase) : (waitIn s id ph).dram = s.dram := rfl
@[simp] theorem waitIn_areas (s : State) (id : Nat) (ph : Phase) : (waitIn s id ph).areas = s.areas := rfl
@[simp] theorem waitIn_slots (s : State) (id : Nat) (ph : Phase) : (waitIn s id ph).slots = s.slots := rfl
@[simp] theorem waitIn_sleeves (s : State) (id : Nat) (ph : Phase) : (waitIn s id ph).sleeves = s.sleeves := rfl
@[simp] theorem waitIn_devices (s : State) (id : Nat) (ph : Phase) : (waitIn s id ph).devices = s.devices := rfl
@[simp] theorem waitIn_parts (s : State) (id : Nat) (ph : Phase) : (waitIn s id ph).parts = s.parts := rfl
@[simp] theorem waitIn_otp (s : State) (id : Nat) (ph : Phase) : (waitIn s id ph).otp = s.otp := rfl
@[simp] theorem waitIn_collar (s : State) (id : Nat) (ph : Phase) : (waitIn s id ph).collar = s.collar := rfl
@[simp] theorem waitIn_entropy (s : State) (id : Nat) (ph : Phase) : (waitIn s id ph).entropy = s.entropy := rfl
@[simp] theorem waitIn_time (s : State) (id : Nat) (ph : Phase) : (waitIn s id ph).time = s.time := rfl
@[simp] theorem waitIn_shawl (s : State) (id : Nat) (ph : Phase) : (waitIn s id ph).shawl = s.shawl := rfl
@[simp] theorem waitIn_faults (s : State) (id : Nat) (ph : Phase) : (waitIn s id ph).faults = s.faults := rfl
@[simp] theorem waitIn_power (s : State) (id : Nat) (ph : Phase) : (waitIn s id ph).power = s.power := rfl
@[simp] theorem waitIn_bst (s : State) (id : Nat) (ph : Phase) : (waitIn s id ph).bst = s.bst := rfl
@[simp] theorem waitIn_dbg (s : State) (id : Nat) (ph : Phase) : (waitIn s id ph).dbg = s.dbg := rfl
@[simp] theorem waitIn_manager (s : State) (id : Nat) (ph : Phase) : (waitIn s id ph).manager = s.manager := rfl

@[simp] theorem enter_pending (s : State) (h : DescHdr) (b : DescBody) (cs : List (Nat × Nat)) : (enter s h b cs).pending = s.pending := rfl
@[simp] theorem enter_out (s : State) (h : DescHdr) (b : DescBody) (cs : List (Nat × Nat)) : (enter s h b cs).out = s.out := rfl
@[simp] theorem enter_freeCtr (s : State) (h : DescHdr) (b : DescBody) (cs : List (Nat × Nat)) : (enter s h b cs).freeCtr = s.freeCtr := rfl
@[simp] theorem enter_nextId (s : State) (h : DescHdr) (b : DescBody) (cs : List (Nat × Nat)) : (enter s h b cs).nextId = s.nextId + 1 := rfl
@[simp] theorem enter_regs (s : State) (h : DescHdr) (b : DescBody) (cs : List (Nat × Nat)) : (enter s h b cs).regs = s.regs := rfl
@[simp] theorem enter_lining (s : State) (h : DescHdr) (b : DescBody) (cs : List (Nat × Nat)) : (enter s h b cs).lining = s.lining := rfl
@[simp] theorem enter_tiles (s : State) (h : DescHdr) (b : DescBody) (cs : List (Nat × Nat)) : (enter s h b cs).tiles = s.tiles := rfl
@[simp] theorem enter_dram (s : State) (h : DescHdr) (b : DescBody) (cs : List (Nat × Nat)) : (enter s h b cs).dram = s.dram := rfl
@[simp] theorem enter_areas (s : State) (h : DescHdr) (b : DescBody) (cs : List (Nat × Nat)) : (enter s h b cs).areas = s.areas := rfl
@[simp] theorem enter_slots (s : State) (h : DescHdr) (b : DescBody) (cs : List (Nat × Nat)) : (enter s h b cs).slots = s.slots := rfl
@[simp] theorem enter_sleeves (s : State) (h : DescHdr) (b : DescBody) (cs : List (Nat × Nat)) : (enter s h b cs).sleeves = s.sleeves := rfl
@[simp] theorem enter_devices (s : State) (h : DescHdr) (b : DescBody) (cs : List (Nat × Nat)) : (enter s h b cs).devices = s.devices := rfl
@[simp] theorem enter_parts (s : State) (h : DescHdr) (b : DescBody) (cs : List (Nat × Nat)) : (enter s h b cs).parts = s.parts := rfl
@[simp] theorem enter_otp (s : State) (h : DescHdr) (b : DescBody) (cs : List (Nat × Nat)) : (enter s h b cs).otp = s.otp := rfl
@[simp] theorem enter_collar (s : State) (h : DescHdr) (b : DescBody) (cs : List (Nat × Nat)) : (enter s h b cs).collar = s.collar := rfl
@[simp] theorem enter_entropy (s : State) (h : DescHdr) (b : DescBody) (cs : List (Nat × Nat)) : (enter s h b cs).entropy = s.entropy := rfl
@[simp] theorem enter_time (s : State) (h : DescHdr) (b : DescBody) (cs : List (Nat × Nat)) : (enter s h b cs).time = s.time := rfl
@[simp] theorem enter_shawl (s : State) (h : DescHdr) (b : DescBody) (cs : List (Nat × Nat)) : (enter s h b cs).shawl = s.shawl := rfl
@[simp] theorem enter_faults (s : State) (h : DescHdr) (b : DescBody) (cs : List (Nat × Nat)) : (enter s h b cs).faults = s.faults := rfl
@[simp] theorem enter_power (s : State) (h : DescHdr) (b : DescBody) (cs : List (Nat × Nat)) : (enter s h b cs).power = s.power := rfl
@[simp] theorem enter_bst (s : State) (h : DescHdr) (b : DescBody) (cs : List (Nat × Nat)) : (enter s h b cs).bst = s.bst := rfl
@[simp] theorem enter_dbg (s : State) (h : DescHdr) (b : DescBody) (cs : List (Nat × Nat)) : (enter s h b cs).dbg = s.dbg := rfl
@[simp] theorem enter_manager (s : State) (h : DescHdr) (b : DescBody) (cs : List (Nat × Nat)) : (enter s h b cs).manager = s.manager := rfl

@[simp] theorem modSlot_pending (s : State) (n : Nat) (f : Slot → Slot) : (modSlot s n f).pending = s.pending := rfl
@[simp] theorem modSlot_out (s : State) (n : Nat) (f : Slot → Slot) : (modSlot s n f).out = s.out := rfl
@[simp] theorem modSlot_freeCtr (s : State) (n : Nat) (f : Slot → Slot) : (modSlot s n f).freeCtr = s.freeCtr := rfl
@[simp] theorem modSlot_nextId (s : State) (n : Nat) (f : Slot → Slot) : (modSlot s n f).nextId = s.nextId := rfl
@[simp] theorem modSlot_regs (s : State) (n : Nat) (f : Slot → Slot) : (modSlot s n f).regs = s.regs := rfl
@[simp] theorem modSlot_lining (s : State) (n : Nat) (f : Slot → Slot) : (modSlot s n f).lining = s.lining := rfl
@[simp] theorem modSlot_tiles (s : State) (n : Nat) (f : Slot → Slot) : (modSlot s n f).tiles = s.tiles := rfl
@[simp] theorem modSlot_dram (s : State) (n : Nat) (f : Slot → Slot) : (modSlot s n f).dram = s.dram := rfl
@[simp] theorem modSlot_areas (s : State) (n : Nat) (f : Slot → Slot) : (modSlot s n f).areas = s.areas := rfl
@[simp] theorem modSlot_sleeves (s : State) (n : Nat) (f : Slot → Slot) : (modSlot s n f).sleeves = s.sleeves := rfl
@[simp] theorem modSlot_devices (s : State) (n : Nat) (f : Slot → Slot) : (modSlot s n f).devices = s.devices := rfl
@[simp] theorem modSlot_parts (s : State) (n : Nat) (f : Slot → Slot) : (modSlot s n f).parts = s.parts := rfl
@[simp] theorem modSlot_inflight (s : State) (n : Nat) (f : Slot → Slot) : (modSlot s n f).inflight = s.inflight := rfl
@[simp] theorem modSlot_otp (s : State) (n : Nat) (f : Slot → Slot) : (modSlot s n f).otp = s.otp := rfl
@[simp] theorem modSlot_collar (s : State) (n : Nat) (f : Slot → Slot) : (modSlot s n f).collar = s.collar := rfl
@[simp] theorem modSlot_entropy (s : State) (n : Nat) (f : Slot → Slot) : (modSlot s n f).entropy = s.entropy := rfl
@[simp] theorem modSlot_time (s : State) (n : Nat) (f : Slot → Slot) : (modSlot s n f).time = s.time := rfl
@[simp] theorem modSlot_shawl (s : State) (n : Nat) (f : Slot → Slot) : (modSlot s n f).shawl = s.shawl := rfl
@[simp] theorem modSlot_faults (s : State) (n : Nat) (f : Slot → Slot) : (modSlot s n f).faults = s.faults := rfl
@[simp] theorem modSlot_power (s : State) (n : Nat) (f : Slot → Slot) : (modSlot s n f).power = s.power := rfl
@[simp] theorem modSlot_bst (s : State) (n : Nat) (f : Slot → Slot) : (modSlot s n f).bst = s.bst := rfl
@[simp] theorem modSlot_dbg (s : State) (n : Nat) (f : Slot → Slot) : (modSlot s n f).dbg = s.dbg := rfl
@[simp] theorem modSlot_manager (s : State) (n : Nat) (f : Slot → Slot) : (modSlot s n f).manager = s.manager := rfl

@[simp] theorem modSleeve_pending (s : State) (v : Nat) (f : Sleeve → Sleeve) : (modSleeve s v f).pending = s.pending := rfl
@[simp] theorem modSleeve_out (s : State) (v : Nat) (f : Sleeve → Sleeve) : (modSleeve s v f).out = s.out := rfl
@[simp] theorem modSleeve_freeCtr (s : State) (v : Nat) (f : Sleeve → Sleeve) : (modSleeve s v f).freeCtr = s.freeCtr := rfl
@[simp] theorem modSleeve_nextId (s : State) (v : Nat) (f : Sleeve → Sleeve) : (modSleeve s v f).nextId = s.nextId := rfl
@[simp] theorem modSleeve_regs (s : State) (v : Nat) (f : Sleeve → Sleeve) : (modSleeve s v f).regs = s.regs := rfl
@[simp] theorem modSleeve_lining (s : State) (v : Nat) (f : Sleeve → Sleeve) : (modSleeve s v f).lining = s.lining := rfl
@[simp] theorem modSleeve_tiles (s : State) (v : Nat) (f : Sleeve → Sleeve) : (modSleeve s v f).tiles = s.tiles := rfl
@[simp] theorem modSleeve_dram (s : State) (v : Nat) (f : Sleeve → Sleeve) : (modSleeve s v f).dram = s.dram := rfl
@[simp] theorem modSleeve_areas (s : State) (v : Nat) (f : Sleeve → Sleeve) : (modSleeve s v f).areas = s.areas := rfl
@[simp] theorem modSleeve_slots (s : State) (v : Nat) (f : Sleeve → Sleeve) : (modSleeve s v f).slots = s.slots := rfl
@[simp] theorem modSleeve_devices (s : State) (v : Nat) (f : Sleeve → Sleeve) : (modSleeve s v f).devices = s.devices := rfl
@[simp] theorem modSleeve_parts (s : State) (v : Nat) (f : Sleeve → Sleeve) : (modSleeve s v f).parts = s.parts := rfl
@[simp] theorem modSleeve_inflight (s : State) (v : Nat) (f : Sleeve → Sleeve) : (modSleeve s v f).inflight = s.inflight := rfl
@[simp] theorem modSleeve_otp (s : State) (v : Nat) (f : Sleeve → Sleeve) : (modSleeve s v f).otp = s.otp := rfl
@[simp] theorem modSleeve_collar (s : State) (v : Nat) (f : Sleeve → Sleeve) : (modSleeve s v f).collar = s.collar := rfl
@[simp] theorem modSleeve_entropy (s : State) (v : Nat) (f : Sleeve → Sleeve) : (modSleeve s v f).entropy = s.entropy := rfl
@[simp] theorem modSleeve_time (s : State) (v : Nat) (f : Sleeve → Sleeve) : (modSleeve s v f).time = s.time := rfl
@[simp] theorem modSleeve_shawl (s : State) (v : Nat) (f : Sleeve → Sleeve) : (modSleeve s v f).shawl = s.shawl := rfl
@[simp] theorem modSleeve_faults (s : State) (v : Nat) (f : Sleeve → Sleeve) : (modSleeve s v f).faults = s.faults := rfl
@[simp] theorem modSleeve_power (s : State) (v : Nat) (f : Sleeve → Sleeve) : (modSleeve s v f).power = s.power := rfl
@[simp] theorem modSleeve_bst (s : State) (v : Nat) (f : Sleeve → Sleeve) : (modSleeve s v f).bst = s.bst := rfl
@[simp] theorem modSleeve_dbg (s : State) (v : Nat) (f : Sleeve → Sleeve) : (modSleeve s v f).dbg = s.dbg := rfl
@[simp] theorem modSleeve_manager (s : State) (v : Nat) (f : Sleeve → Sleeve) : (modSleeve s v f).manager = s.manager := rfl

@[simp] theorem modDevice_pending (s : State) (d : Nat) (f : Device → Device) : (modDevice s d f).pending = s.pending := rfl
@[simp] theorem modDevice_out (s : State) (d : Nat) (f : Device → Device) : (modDevice s d f).out = s.out := rfl
@[simp] theorem modDevice_freeCtr (s : State) (d : Nat) (f : Device → Device) : (modDevice s d f).freeCtr = s.freeCtr := rfl
@[simp] theorem modDevice_nextId (s : State) (d : Nat) (f : Device → Device) : (modDevice s d f).nextId = s.nextId := rfl
@[simp] theorem modDevice_regs (s : State) (d : Nat) (f : Device → Device) : (modDevice s d f).regs = s.regs := rfl
@[simp] theorem modDevice_lining (s : State) (d : Nat) (f : Device → Device) : (modDevice s d f).lining = s.lining := rfl
@[simp] theorem modDevice_tiles (s : State) (d : Nat) (f : Device → Device) : (modDevice s d f).tiles = s.tiles := rfl
@[simp] theorem modDevice_dram (s : State) (d : Nat) (f : Device → Device) : (modDevice s d f).dram = s.dram := rfl
@[simp] theorem modDevice_areas (s : State) (d : Nat) (f : Device → Device) : (modDevice s d f).areas = s.areas := rfl
@[simp] theorem modDevice_slots (s : State) (d : Nat) (f : Device → Device) : (modDevice s d f).slots = s.slots := rfl
@[simp] theorem modDevice_sleeves (s : State) (d : Nat) (f : Device → Device) : (modDevice s d f).sleeves = s.sleeves := rfl
@[simp] theorem modDevice_parts (s : State) (d : Nat) (f : Device → Device) : (modDevice s d f).parts = s.parts := rfl
@[simp] theorem modDevice_inflight (s : State) (d : Nat) (f : Device → Device) : (modDevice s d f).inflight = s.inflight := rfl
@[simp] theorem modDevice_otp (s : State) (d : Nat) (f : Device → Device) : (modDevice s d f).otp = s.otp := rfl
@[simp] theorem modDevice_collar (s : State) (d : Nat) (f : Device → Device) : (modDevice s d f).collar = s.collar := rfl
@[simp] theorem modDevice_entropy (s : State) (d : Nat) (f : Device → Device) : (modDevice s d f).entropy = s.entropy := rfl
@[simp] theorem modDevice_time (s : State) (d : Nat) (f : Device → Device) : (modDevice s d f).time = s.time := rfl
@[simp] theorem modDevice_shawl (s : State) (d : Nat) (f : Device → Device) : (modDevice s d f).shawl = s.shawl := rfl
@[simp] theorem modDevice_faults (s : State) (d : Nat) (f : Device → Device) : (modDevice s d f).faults = s.faults := rfl
@[simp] theorem modDevice_power (s : State) (d : Nat) (f : Device → Device) : (modDevice s d f).power = s.power := rfl
@[simp] theorem modDevice_bst (s : State) (d : Nat) (f : Device → Device) : (modDevice s d f).bst = s.bst := rfl
@[simp] theorem modDevice_dbg (s : State) (d : Nat) (f : Device → Device) : (modDevice s d f).dbg = s.dbg := rfl
@[simp] theorem modDevice_manager (s : State) (d : Nat) (f : Device → Device) : (modDevice s d f).manager = s.manager := rfl

@[simp] theorem modSource_pending (s : State) (v : Nat) (f : Source → Source) : (modSource s v f).pending = s.pending := rfl
@[simp] theorem modSource_out (s : State) (v : Nat) (f : Source → Source) : (modSource s v f).out = s.out := rfl
@[simp] theorem modSource_freeCtr (s : State) (v : Nat) (f : Source → Source) : (modSource s v f).freeCtr = s.freeCtr := rfl
@[simp] theorem modSource_nextId (s : State) (v : Nat) (f : Source → Source) : (modSource s v f).nextId = s.nextId := rfl
@[simp] theorem modSource_regs (s : State) (v : Nat) (f : Source → Source) : (modSource s v f).regs = s.regs := rfl
@[simp] theorem modSource_lining (s : State) (v : Nat) (f : Source → Source) : (modSource s v f).lining = s.lining := rfl
@[simp] theorem modSource_tiles (s : State) (v : Nat) (f : Source → Source) : (modSource s v f).tiles = s.tiles := rfl
@[simp] theorem modSource_dram (s : State) (v : Nat) (f : Source → Source) : (modSource s v f).dram = s.dram := rfl
@[simp] theorem modSource_areas (s : State) (v : Nat) (f : Source → Source) : (modSource s v f).areas = s.areas := rfl
@[simp] theorem modSource_slots (s : State) (v : Nat) (f : Source → Source) : (modSource s v f).slots = s.slots := rfl
@[simp] theorem modSource_sleeves (s : State) (v : Nat) (f : Source → Source) : (modSource s v f).sleeves = s.sleeves := rfl
@[simp] theorem modSource_devices (s : State) (v : Nat) (f : Source → Source) : (modSource s v f).devices = s.devices := rfl
@[simp] theorem modSource_parts (s : State) (v : Nat) (f : Source → Source) : (modSource s v f).parts = s.parts := rfl
@[simp] theorem modSource_inflight (s : State) (v : Nat) (f : Source → Source) : (modSource s v f).inflight = s.inflight := rfl
@[simp] theorem modSource_otp (s : State) (v : Nat) (f : Source → Source) : (modSource s v f).otp = s.otp := rfl
@[simp] theorem modSource_collar (s : State) (v : Nat) (f : Source → Source) : (modSource s v f).collar = s.collar := rfl
@[simp] theorem modSource_time (s : State) (v : Nat) (f : Source → Source) : (modSource s v f).time = s.time := rfl
@[simp] theorem modSource_shawl (s : State) (v : Nat) (f : Source → Source) : (modSource s v f).shawl = s.shawl := rfl
@[simp] theorem modSource_faults (s : State) (v : Nat) (f : Source → Source) : (modSource s v f).faults = s.faults := rfl
@[simp] theorem modSource_power (s : State) (v : Nat) (f : Source → Source) : (modSource s v f).power = s.power := rfl
@[simp] theorem modSource_bst (s : State) (v : Nat) (f : Source → Source) : (modSource s v f).bst = s.bst := rfl
@[simp] theorem modSource_dbg (s : State) (v : Nat) (f : Source → Source) : (modSource s v f).dbg = s.dbg := rfl
@[simp] theorem modSource_manager (s : State) (v : Nat) (f : Source → Source) : (modSource s v f).manager = s.manager := rfl

@[simp] theorem setDrbg_pending (s : State) (i : Nat) (d : Drbg) : (setDrbg s i d).pending = s.pending := rfl
@[simp] theorem setDrbg_out (s : State) (i : Nat) (d : Drbg) : (setDrbg s i d).out = s.out := rfl
@[simp] theorem setDrbg_freeCtr (s : State) (i : Nat) (d : Drbg) : (setDrbg s i d).freeCtr = s.freeCtr := rfl
@[simp] theorem setDrbg_nextId (s : State) (i : Nat) (d : Drbg) : (setDrbg s i d).nextId = s.nextId := rfl
@[simp] theorem setDrbg_regs (s : State) (i : Nat) (d : Drbg) : (setDrbg s i d).regs = s.regs := rfl
@[simp] theorem setDrbg_lining (s : State) (i : Nat) (d : Drbg) : (setDrbg s i d).lining = s.lining := rfl
@[simp] theorem setDrbg_tiles (s : State) (i : Nat) (d : Drbg) : (setDrbg s i d).tiles = s.tiles := rfl
@[simp] theorem setDrbg_dram (s : State) (i : Nat) (d : Drbg) : (setDrbg s i d).dram = s.dram := rfl
@[simp] theorem setDrbg_areas (s : State) (i : Nat) (d : Drbg) : (setDrbg s i d).areas = s.areas := rfl
@[simp] theorem setDrbg_slots (s : State) (i : Nat) (d : Drbg) : (setDrbg s i d).slots = s.slots := rfl
@[simp] theorem setDrbg_sleeves (s : State) (i : Nat) (d : Drbg) : (setDrbg s i d).sleeves = s.sleeves := rfl
@[simp] theorem setDrbg_devices (s : State) (i : Nat) (d : Drbg) : (setDrbg s i d).devices = s.devices := rfl
@[simp] theorem setDrbg_parts (s : State) (i : Nat) (d : Drbg) : (setDrbg s i d).parts = s.parts := rfl
@[simp] theorem setDrbg_inflight (s : State) (i : Nat) (d : Drbg) : (setDrbg s i d).inflight = s.inflight := rfl
@[simp] theorem setDrbg_otp (s : State) (i : Nat) (d : Drbg) : (setDrbg s i d).otp = s.otp := rfl
@[simp] theorem setDrbg_collar (s : State) (i : Nat) (d : Drbg) : (setDrbg s i d).collar = s.collar := rfl
@[simp] theorem setDrbg_time (s : State) (i : Nat) (d : Drbg) : (setDrbg s i d).time = s.time := rfl
@[simp] theorem setDrbg_shawl (s : State) (i : Nat) (d : Drbg) : (setDrbg s i d).shawl = s.shawl := rfl
@[simp] theorem setDrbg_faults (s : State) (i : Nat) (d : Drbg) : (setDrbg s i d).faults = s.faults := rfl
@[simp] theorem setDrbg_power (s : State) (i : Nat) (d : Drbg) : (setDrbg s i d).power = s.power := rfl
@[simp] theorem setDrbg_bst (s : State) (i : Nat) (d : Drbg) : (setDrbg s i d).bst = s.bst := rfl
@[simp] theorem setDrbg_dbg (s : State) (i : Nat) (d : Drbg) : (setDrbg s i d).dbg = s.dbg := rfl
@[simp] theorem setDrbg_manager (s : State) (i : Nat) (d : Drbg) : (setDrbg s i d).manager = s.manager := rfl

@[simp] theorem armCommand_pending (s : State) (op : Nat) : (armCommand s op).pending = s.pending := rfl
@[simp] theorem armCommand_out (s : State) (op : Nat) : (armCommand s op).out = s.out := rfl
@[simp] theorem armCommand_freeCtr (s : State) (op : Nat) : (armCommand s op).freeCtr = s.freeCtr := rfl
@[simp] theorem armCommand_nextId (s : State) (op : Nat) : (armCommand s op).nextId = s.nextId := rfl
@[simp] theorem armCommand_regs (s : State) (op : Nat) : (armCommand s op).regs = s.regs := rfl
@[simp] theorem armCommand_lining (s : State) (op : Nat) : (armCommand s op).lining = s.lining := rfl
@[simp] theorem armCommand_tiles (s : State) (op : Nat) : (armCommand s op).tiles = s.tiles := rfl
@[simp] theorem armCommand_dram (s : State) (op : Nat) : (armCommand s op).dram = s.dram := rfl
@[simp] theorem armCommand_areas (s : State) (op : Nat) : (armCommand s op).areas = s.areas := rfl
@[simp] theorem armCommand_slots (s : State) (op : Nat) : (armCommand s op).slots = s.slots := rfl
@[simp] theorem armCommand_sleeves (s : State) (op : Nat) : (armCommand s op).sleeves = s.sleeves := rfl
@[simp] theorem armCommand_devices (s : State) (op : Nat) : (armCommand s op).devices = s.devices := rfl
@[simp] theorem armCommand_parts (s : State) (op : Nat) : (armCommand s op).parts = s.parts := rfl
@[simp] theorem armCommand_inflight (s : State) (op : Nat) : (armCommand s op).inflight = s.inflight := rfl
@[simp] theorem armCommand_otp (s : State) (op : Nat) : (armCommand s op).otp = s.otp := rfl
@[simp] theorem armCommand_entropy (s : State) (op : Nat) : (armCommand s op).entropy = s.entropy := rfl
@[simp] theorem armCommand_time (s : State) (op : Nat) : (armCommand s op).time = s.time := rfl
@[simp] theorem armCommand_shawl (s : State) (op : Nat) : (armCommand s op).shawl = s.shawl := rfl
@[simp] theorem armCommand_faults (s : State) (op : Nat) : (armCommand s op).faults = s.faults := rfl
@[simp] theorem armCommand_power (s : State) (op : Nat) : (armCommand s op).power = s.power := rfl
@[simp] theorem armCommand_bst (s : State) (op : Nat) : (armCommand s op).bst = s.bst := rfl
@[simp] theorem armCommand_dbg (s : State) (op : Nat) : (armCommand s op).dbg = s.dbg := rfl
@[simp] theorem armCommand_manager (s : State) (op : Nat) : (armCommand s op).manager = s.manager := rfl

@[simp] theorem disarm_pending (s : State) : (disarm s).pending = s.pending := rfl
@[simp] theorem disarm_out (s : State) : (disarm s).out = s.out := rfl
@[simp] theorem disarm_freeCtr (s : State) : (disarm s).freeCtr = s.freeCtr := rfl
@[simp] theorem disarm_nextId (s : State) : (disarm s).nextId = s.nextId := rfl
@[simp] theorem disarm_regs (s : State) : (disarm s).regs = s.regs := rfl
@[simp] theorem disarm_lining (s : State) : (disarm s).lining = s.lining := rfl
@[simp] theorem disarm_tiles (s : State) : (disarm s).tiles = s.tiles := rfl
@[simp] theorem disarm_dram (s : State) : (disarm s).dram = s.dram := rfl
@[simp] theorem disarm_areas (s : State) : (disarm s).areas = s.areas := rfl
@[simp] theorem disarm_slots (s : State) : (disarm s).slots = s.slots := rfl
@[simp] theorem disarm_sleeves (s : State) : (disarm s).sleeves = s.sleeves := rfl
@[simp] theorem disarm_devices (s : State) : (disarm s).devices = s.devices := rfl
@[simp] theorem disarm_parts (s : State) : (disarm s).parts = s.parts := rfl
@[simp] theorem disarm_inflight (s : State) : (disarm s).inflight = s.inflight := rfl
@[simp] theorem disarm_otp (s : State) : (disarm s).otp = s.otp := rfl
@[simp] theorem disarm_entropy (s : State) : (disarm s).entropy = s.entropy := rfl
@[simp] theorem disarm_time (s : State) : (disarm s).time = s.time := rfl
@[simp] theorem disarm_shawl (s : State) : (disarm s).shawl = s.shawl := rfl
@[simp] theorem disarm_faults (s : State) : (disarm s).faults = s.faults := rfl
@[simp] theorem disarm_power (s : State) : (disarm s).power = s.power := rfl
@[simp] theorem disarm_bst (s : State) : (disarm s).bst = s.bst := rfl
@[simp] theorem disarm_dbg (s : State) : (disarm s).dbg = s.dbg := rfl
@[simp] theorem disarm_manager (s : State) : (disarm s).manager = s.manager := rfl

@[simp] theorem fusePort_pending (s : State) (i : Nat) : (fusePort s i).pending = s.pending := rfl
@[simp] theorem fusePort_out (s : State) (i : Nat) : (fusePort s i).out = s.out := rfl
@[simp] theorem fusePort_freeCtr (s : State) (i : Nat) : (fusePort s i).freeCtr = s.freeCtr := rfl
@[simp] theorem fusePort_nextId (s : State) (i : Nat) : (fusePort s i).nextId = s.nextId := rfl
@[simp] theorem fusePort_regs (s : State) (i : Nat) : (fusePort s i).regs = s.regs := rfl
@[simp] theorem fusePort_lining (s : State) (i : Nat) : (fusePort s i).lining = s.lining := rfl
@[simp] theorem fusePort_tiles (s : State) (i : Nat) : (fusePort s i).tiles = s.tiles := rfl
@[simp] theorem fusePort_dram (s : State) (i : Nat) : (fusePort s i).dram = s.dram := rfl
@[simp] theorem fusePort_areas (s : State) (i : Nat) : (fusePort s i).areas = s.areas := rfl
@[simp] theorem fusePort_slots (s : State) (i : Nat) : (fusePort s i).slots = s.slots := rfl
@[simp] theorem fusePort_sleeves (s : State) (i : Nat) : (fusePort s i).sleeves = s.sleeves := rfl
@[simp] theorem fusePort_devices (s : State) (i : Nat) : (fusePort s i).devices = s.devices := rfl
@[simp] theorem fusePort_parts (s : State) (i : Nat) : (fusePort s i).parts = s.parts := rfl
@[simp] theorem fusePort_inflight (s : State) (i : Nat) : (fusePort s i).inflight = s.inflight := rfl
@[simp] theorem fusePort_collar (s : State) (i : Nat) : (fusePort s i).collar = s.collar := rfl
@[simp] theorem fusePort_entropy (s : State) (i : Nat) : (fusePort s i).entropy = s.entropy := rfl
@[simp] theorem fusePort_time (s : State) (i : Nat) : (fusePort s i).time = s.time := rfl
@[simp] theorem fusePort_shawl (s : State) (i : Nat) : (fusePort s i).shawl = s.shawl := rfl
@[simp] theorem fusePort_faults (s : State) (i : Nat) : (fusePort s i).faults = s.faults := rfl
@[simp] theorem fusePort_power (s : State) (i : Nat) : (fusePort s i).power = s.power := rfl
@[simp] theorem fusePort_bst (s : State) (i : Nat) : (fusePort s i).bst = s.bst := rfl
@[simp] theorem fusePort_dbg (s : State) (i : Nat) : (fusePort s i).dbg = s.dbg := rfl
@[simp] theorem fusePort_manager (s : State) (i : Nat) : (fusePort s i).manager = s.manager := rfl

@[simp] theorem fuseFollower_pending (s : State) : (fuseFollower s).pending = s.pending := rfl
@[simp] theorem fuseFollower_out (s : State) : (fuseFollower s).out = s.out := rfl
@[simp] theorem fuseFollower_freeCtr (s : State) : (fuseFollower s).freeCtr = s.freeCtr := rfl
@[simp] theorem fuseFollower_nextId (s : State) : (fuseFollower s).nextId = s.nextId := rfl
@[simp] theorem fuseFollower_regs (s : State) : (fuseFollower s).regs = s.regs := rfl
@[simp] theorem fuseFollower_lining (s : State) : (fuseFollower s).lining = s.lining := rfl
@[simp] theorem fuseFollower_tiles (s : State) : (fuseFollower s).tiles = s.tiles := rfl
@[simp] theorem fuseFollower_dram (s : State) : (fuseFollower s).dram = s.dram := rfl
@[simp] theorem fuseFollower_areas (s : State) : (fuseFollower s).areas = s.areas := rfl
@[simp] theorem fuseFollower_slots (s : State) : (fuseFollower s).slots = s.slots := rfl
@[simp] theorem fuseFollower_sleeves (s : State) : (fuseFollower s).sleeves = s.sleeves := rfl
@[simp] theorem fuseFollower_devices (s : State) : (fuseFollower s).devices = s.devices := rfl
@[simp] theorem fuseFollower_parts (s : State) : (fuseFollower s).parts = s.parts := rfl
@[simp] theorem fuseFollower_inflight (s : State) : (fuseFollower s).inflight = s.inflight := rfl
@[simp] theorem fuseFollower_collar (s : State) : (fuseFollower s).collar = s.collar := rfl
@[simp] theorem fuseFollower_entropy (s : State) : (fuseFollower s).entropy = s.entropy := rfl
@[simp] theorem fuseFollower_time (s : State) : (fuseFollower s).time = s.time := rfl
@[simp] theorem fuseFollower_shawl (s : State) : (fuseFollower s).shawl = s.shawl := rfl
@[simp] theorem fuseFollower_faults (s : State) : (fuseFollower s).faults = s.faults := rfl
@[simp] theorem fuseFollower_power (s : State) : (fuseFollower s).power = s.power := rfl
@[simp] theorem fuseFollower_bst (s : State) : (fuseFollower s).bst = s.bst := rfl
@[simp] theorem fuseFollower_dbg (s : State) : (fuseFollower s).dbg = s.dbg := rfl
@[simp] theorem fuseFollower_manager (s : State) : (fuseFollower s).manager = s.manager := rfl

@[simp] theorem burnBoot_pending (s : State) (set : Bytes) : (burnBoot s set).pending = s.pending := rfl
@[simp] theorem burnBoot_out (s : State) (set : Bytes) : (burnBoot s set).out = s.out := rfl
@[simp] theorem burnBoot_freeCtr (s : State) (set : Bytes) : (burnBoot s set).freeCtr = s.freeCtr := rfl
@[simp] theorem burnBoot_nextId (s : State) (set : Bytes) : (burnBoot s set).nextId = s.nextId := rfl
@[simp] theorem burnBoot_regs (s : State) (set : Bytes) : (burnBoot s set).regs = s.regs := rfl
@[simp] theorem burnBoot_lining (s : State) (set : Bytes) : (burnBoot s set).lining = s.lining := rfl
@[simp] theorem burnBoot_tiles (s : State) (set : Bytes) : (burnBoot s set).tiles = s.tiles := rfl
@[simp] theorem burnBoot_dram (s : State) (set : Bytes) : (burnBoot s set).dram = s.dram := rfl
@[simp] theorem burnBoot_areas (s : State) (set : Bytes) : (burnBoot s set).areas = s.areas := rfl
@[simp] theorem burnBoot_slots (s : State) (set : Bytes) : (burnBoot s set).slots = s.slots := rfl
@[simp] theorem burnBoot_sleeves (s : State) (set : Bytes) : (burnBoot s set).sleeves = s.sleeves := rfl
@[simp] theorem burnBoot_devices (s : State) (set : Bytes) : (burnBoot s set).devices = s.devices := rfl
@[simp] theorem burnBoot_parts (s : State) (set : Bytes) : (burnBoot s set).parts = s.parts := rfl
@[simp] theorem burnBoot_inflight (s : State) (set : Bytes) : (burnBoot s set).inflight = s.inflight := rfl
@[simp] theorem burnBoot_collar (s : State) (set : Bytes) : (burnBoot s set).collar = s.collar := rfl
@[simp] theorem burnBoot_entropy (s : State) (set : Bytes) : (burnBoot s set).entropy = s.entropy := rfl
@[simp] theorem burnBoot_time (s : State) (set : Bytes) : (burnBoot s set).time = s.time := rfl
@[simp] theorem burnBoot_shawl (s : State) (set : Bytes) : (burnBoot s set).shawl = s.shawl := rfl
@[simp] theorem burnBoot_faults (s : State) (set : Bytes) : (burnBoot s set).faults = s.faults := rfl
@[simp] theorem burnBoot_power (s : State) (set : Bytes) : (burnBoot s set).power = s.power := rfl
@[simp] theorem burnBoot_bst (s : State) (set : Bytes) : (burnBoot s set).bst = s.bst := rfl
@[simp] theorem burnBoot_dbg (s : State) (set : Bytes) : (burnBoot s set).dbg = s.dbg := rfl
@[simp] theorem burnBoot_manager (s : State) (set : Bytes) : (burnBoot s set).manager = s.manager := rfl

@[simp] theorem closeRoot_pending (s : State) : (closeRoot s).pending = s.pending := rfl
@[simp] theorem closeRoot_out (s : State) : (closeRoot s).out = s.out := rfl
@[simp] theorem closeRoot_freeCtr (s : State) : (closeRoot s).freeCtr = s.freeCtr := rfl
@[simp] theorem closeRoot_nextId (s : State) : (closeRoot s).nextId = s.nextId := rfl
@[simp] theorem closeRoot_regs (s : State) : (closeRoot s).regs = s.regs := rfl
@[simp] theorem closeRoot_lining (s : State) : (closeRoot s).lining = s.lining := rfl
@[simp] theorem closeRoot_tiles (s : State) : (closeRoot s).tiles = s.tiles := rfl
@[simp] theorem closeRoot_dram (s : State) : (closeRoot s).dram = s.dram := rfl
@[simp] theorem closeRoot_areas (s : State) : (closeRoot s).areas = s.areas := rfl
@[simp] theorem closeRoot_slots (s : State) : (closeRoot s).slots = s.slots := rfl
@[simp] theorem closeRoot_sleeves (s : State) : (closeRoot s).sleeves = s.sleeves := rfl
@[simp] theorem closeRoot_devices (s : State) : (closeRoot s).devices = s.devices := rfl
@[simp] theorem closeRoot_parts (s : State) : (closeRoot s).parts = s.parts := rfl
@[simp] theorem closeRoot_inflight (s : State) : (closeRoot s).inflight = s.inflight := rfl
@[simp] theorem closeRoot_entropy (s : State) : (closeRoot s).entropy = s.entropy := rfl
@[simp] theorem closeRoot_time (s : State) : (closeRoot s).time = s.time := rfl
@[simp] theorem closeRoot_shawl (s : State) : (closeRoot s).shawl = s.shawl := rfl
@[simp] theorem closeRoot_faults (s : State) : (closeRoot s).faults = s.faults := rfl
@[simp] theorem closeRoot_power (s : State) : (closeRoot s).power = s.power := rfl
@[simp] theorem closeRoot_bst (s : State) : (closeRoot s).bst = s.bst := rfl
@[simp] theorem closeRoot_dbg (s : State) : (closeRoot s).dbg = s.dbg := rfl
@[simp] theorem closeRoot_manager (s : State) : (closeRoot s).manager = s.manager := rfl

end Sys2Proof.Machine
end

