-- ==== Sys2Proof/Tests/Slice0.lean ====
section
/-! SUPPORT. Tests: ill-formed commands, and states and operands that meet the premises of the statements. -/

open Sys2Proof Sys2Proof.Machine
/-! Small states for the tests -/

namespace Sys2Proof.Tests

set_option Elab.async false

/-- A policy block of a regime and element format: dimension 4,096, threshold 1 of degree 1 where masked. -/
def policyOf (regime fmt : Nat) : Bytes :=
  natLe 2 1 ++ natLe 1 regime ++ natLe 1 fmt ++ natLe 4 4096 ++ zeros 8 ++ natLe 4 (if regime = 1 then 0x101 else 0) ++
    natLe 4 16 ++ natLe 8 (if regime = 3 then 1 else 0) ++ zeros 8 ++ natLe 8 4 ++ natLe 8 1000000000 ++ zeros 8 ++ natLe 1 1 ++ zeros 63

/-- A LIVE partition with Sleeve 0, two granules of DRAM and one of the window. -/
def partOf (regime fmt : Nat) : Partition :=
  { mode := .live, gen := 1, instanceId := 1, sleeves := 1#16, dram := [0, 1], host := [2], cclSlots := 8, policy := policyOf regime fmt }

/-- A module in RUN at federation time 100,000 ns, LOCKED, with its generators running and partition 0 as given. -/
def run (x : Partition) : State :=
  { State.reset with
    parts := [(0, x)]
    slots := (List.range 8).map (fun i => (i, { logical := some i }))
    faults := { mode := .run }
    collar := { bootStatus := 0 }
    time := { mode := .locked, ns := 100000, hops := 0, source := 0 }
    entropy := { pool := .delivering, drbgs := (List.range 18).map (fun i => (i, { running := true, seeded := true })) } }

/-- The masked, ciphertext and sealed states. -/
def masked : State := run (partOf 1 2)
def cipher : State := run (partOf 2 7)
def sealed_ : State := run (partOf 3 6)

/-- A descriptor header of partition 0 on ring 0. -/
def hdr : DescHdr := { p := 0, ring := 0, slot := 0, gen := 1, hflags := 0, tag := 7, stamp := ⟨90000, 0⟩ }

/-- DRAM, window and Pocket addresses. -/
def inDram (a : Nat) : Nat := a
def inWin (a : Nat) : Nat := 2 ^ 60 + a
def unitAt (u : Nat) : Nat := 2 ^ 61 + 8192 * u

/-- A state with bytes stored in its partition. -/
def holding (s : State) (a : Nat) (bs : Bytes) : State := pwrite s 0 a bs

/-- The descriptors in flight stand in dispatch order under numbers given out already. -/
def orderedB (s : State) : Bool :=
  decide ((s.inflight.map (fun f => f.id)).Pairwise (fun a b => a < b)) && s.inflight.all (fun f => decide (f.id < s.nextId))

theorem ordered_of {s : State} (e : orderedB s = true) : FlightsOrdered s := by
  simp only [orderedB, Bool.and_eq_true, decide_eq_true_eq, List.all_eq_true] at e
  exact e

/-- A descriptor passes the tests of R215 and nothing holds it back. -/
def takes (s : State) (h : DescHdr) (b : DescBody) : Bool :=
  orderedB s && dispatchOpen s h.p.val && !heldBack s h b && decide (decideDesc s h b = .runs (reserves s h b) false)

theorem of_takes {s : State} {h : DescHdr} {b : DescBody} (e : takes s h b = true) : FlightsOrdered s ∧ Dispatches s h b := by
  simp only [takes, Bool.and_eq_true, decide_eq_true_eq, Bool.not_eq_true'] at e
  exact ⟨ordered_of e.1.1.1, e.1.1.2, e.1.2, e.2⟩

/-- An outcome is a next state. -/
def nexts (o : Host.Outcome State Fault Refusal) : Bool :=
  match o with
  | .next _ => true
  | _ => false

theorem of_nexts {o : Host.Outcome State Fault Refusal} (e : nexts o = true) : ∃ t, o = .next t := by
  cases o with
  | next t => exact ⟨t, rfl⟩
  | fault f => cases f
  | refused r => simp [nexts] at e

/-- Both memories are canonical. -/
def canonicalB (s : State) : Bool := s.lining.wf && s.dram.wf

theorem canonical_of {s : State} (e : canonicalB s = true) : MemoryCanonical s := by
  simpa [canonicalB, MemoryCanonical] using e

/-- A descriptor in flight. -/
def flightOf (id : Nat) (h : DescHdr) (b : DescBody) (ph : Phase) (jobs : List TileJob) (d : Option Done) : InFlight :=
  { id := id, h := h, body := b, opcode := opcodeOf b, dispatchFt := ⟨90000, 0⟩, phase := ph, reserved := [], jobs := jobs,
    committed := 0, replays := 0, skipped := 0, saturated := false, lost := false, touched := [], stallFrom := none, faultRef := 0,
    result := 0, verdicts := [], done := d }

/-- A state with descriptors in flight, whose numbers end below 10. -/
def withFlights (s : State) (fs : List InFlight) : State := { s with inflight := fs, nextId := 10 }

/-- What an arrival became: the state, and where a partition receives it, its stamp, plain payload and queue. -/
def recv (v : Admitted) : State :=
  match v with
  | .here u _ _ _ => u
  | .gone u => u

def recvStamp (v : Admitted) : Instant :=
  match v with
  | .here _ i _ _ => i
  | .gone _ => ⟨0, 0⟩

def recvBytes (v : Admitted) : Bytes :=
  match v with
  | .here _ _ b _ => b
  | .gone _ => []

def recvKey (v : Admitted) : Option Nat :=
  match v with
  | .here _ _ _ k => k
  | .gone _ => none

def isHere (v : Admitted) : Bool :=
  match v with
  | .here _ _ _ _ => true
  | .gone _ => false

theorem of_here {v : Admitted} (e : isHere v = true) : v = .here (recv v) (recvStamp v) (recvBytes v) (recvKey v) := by
  cases v with
  | here u i b k => rfl
  | gone u => simp [isHere] at e

/-! Sealed packets -/

theorem xor_back : ∀ (p k : Bytes), p.length ≤ k.length → xorBytes (xorBytes p k) k = p
  | [], k, _ => by cases k <;> rfl
  | _ :: _, [], h => by simp at h
  | a :: p, b :: k, h => by
    have e : (a ^^^ b) ^^^ b = a := by rw [BitVec.xor_assoc, BitVec.xor_self, BitVec.xor_zero]
    exact congrArg₂ List.cons e (xor_back p k (Nat.le_of_succ_le_succ h))

theorem block_length (sched : List Bytes) (b : Bytes) (h : (sched.getD 14 []).length = 16) : (aesBlockWith sched b).length = 16 := by
  simp only [aesBlockWith, xorBytes, List.length_zipWith, shiftRows, List.length_map, List.length_range, h, Nat.min_self]

theorem blocks_length (sched : List Bytes) (pre : Bytes) (h : (sched.getD 14 []).length = 16) :
    ∀ k n, (ctr32Blocks sched pre k n).length = 16 * k
  | 0, _ => rfl
  | k + 1, n => by
    simp only [ctr32Blocks, List.length_append, block_length sched _ h, blocks_length sched pre h k]; omega

theorem round_key : ((aesSchedule (zeros 32)).getD 14 []).length = 16 := by decide +kernel

theorem stream_back_of (key : Bytes) (r : ((aesSchedule key).getD 14 []).length = 16) (nonce p : Bytes) :
    gcmStream key nonce (gcmStream key nonce p) = p := by
  have l : (gcmStream key nonce p).length = p.length := by
    simp only [gcmStream, xorBytes, List.length_zipWith, blocks_length _ _ r]; omega
  simp only [gcmStream] at l ⊢
  rw [l]
  exact xor_back _ _ (by rw [blocks_length _ _ r]; omega)

theorem stream_back (nonce p : Bytes) : gcmStream (zeros 32) nonce (gcmStream (zeros 32) nonce p) = p :=
  stream_back_of _ round_key _ _

theorem natLe_length : ∀ n v, (natLe n v).length = n
  | 0, _ => rfl
  | n + 1, v => congrArg Nat.succ (natLe_length n (v / 256))

/-- A packet sealed under a key of zeros. -/
def sealWith (k : Packet) : Packet :=
  let c := { k with payload := gcmStream (zeros 32) (packetNonce k) k.payload }
  { c with tag := gcmTag (zeros 32) (packetNonce c) (packetAad c) c.payload }

/-- What a packet meets that a partition of this module receives: the state, its stamp and its queue. -/
def entering (s : State) (a : Arrival) : State × Instant × Option Nat :=
  let r := stampArrival s a
  let p := addrPart a.pkt.dst
  let s2 := countEvent (modUsage r.1 p (fun u => { u with shawlRx := satAdd u.shawlRx (packetLength a.pkt) })) 11
    [(1, p), (3, a.port.val)] (packetLength a.pkt)
  let key := queueKey a.port.val a.pkt.vc p
  if a.port.val = 6 then (s2, r.2, none)
  else
    match pooled s2 a key with
    | some e => (modQueue s2 key (fun q => { q with packets := q.packets.erase e }), e.2.1, some key)
    | none => (enterQueue s2 key (packetCells a.pkt), r.2, some key)

/-- The same once its plain payload is known. -/
def heard (s : State) (a : Arrival) (pl : Bytes) : State :=
  modUsage (entering s a).1 (addrPart a.pkt.dst) (fun u => { u with keystreamBytes := satAdd u.keystreamBytes pl.length })

/-- The tests that come before the seal. -/
def reaches (s : State) (a : Arrival) (ptype : Nat) (e : LinkKey) : Bool :=
  let s1 := (stampArrival s a).1
  packetFormOk a.pkt ptype && !(decide (a.port.val < 6) && (portOf s1 a.port.val).edge) && decide (routeOf s1 a.pkt.dst = some 6) &&
    takesPackets (part s1 (addrPart a.pkt.dst)).mode && a.pkt.enc &&
    decide (linkKey (entering s a).1 (addrPart a.pkt.dst) a.pkt.keyId = some e) && !e.torn && decide (e.key = zeros 32)

theorem open_sealed {u : State} {k : Packet} {e : LinkKey} (h : linkKey u (addrPart k.dst) k.keyId = some e) (t : e.torn = false)
    (z : e.key = zeros 32) : openPacket u (sealWith k) = some k.payload := by
  have n : packetNonce (sealWith k) = packetNonce k := rfl
  have g : gcmOpen (zeros 32) (packetNonce (sealWith k)) (packetAad (sealWith k)) (sealWith k).payload (sealWith k).tag =
      some (gcmStream (zeros 32) (packetNonce (sealWith k)) (sealWith k).payload) := if_pos rfl
  have h' : linkKey u (addrPart (sealWith k).dst) (sealWith k).keyId = some e := h
  simp only [openPacket, h', t, z, Bool.false_eq_true, if_false]
  rw [g, n]
  exact congrArg some (stream_back _ _)

theorem here_of_sealed {s : State} {a : Arrival} {ty : Nat} {k : Packet} {e : LinkKey} (hk : a.pkt = sealWith k)
    (r : reaches s a ty e = true) :
    arrivalVerdict s a ty = .here (heard s a k.payload) (entering s a).2.1 k.payload (entering s a).2.2 := by
  simp only [reaches, Bool.and_eq_true, decide_eq_true_eq, Bool.not_eq_true', Bool.and_eq_false_iff] at r
  obtain ⟨⟨⟨⟨⟨⟨⟨hf, hedge⟩, hr⟩, ht⟩, he⟩, hl⟩, htorn⟩, hz⟩ := r
  have ho : openPacket (entering s a).1 a.pkt = some k.payload := by
    rw [hk] at hl ⊢; exact open_sealed hl htorn hz
  have hkt : keyTorn (entering s a).1 a.pkt = false := by simp [keyTorn, hl, htorn]
  have hed : (decide (a.port.val < 6) && (portOf (stampArrival s a).1 a.port.val).edge) = false := by
    rcases hedge with h | h <;> simp [h]
  unfold arrivalVerdict
  simp only [hf, hed, hr, ht, he, Bool.not_true, Bool.false_and, Bool.or_false, Bool.false_eq_true, if_false, ne_eq, not_true]
  unfold heard
  unfold entering at ho hkt ⊢
  by_cases h6 : a.port.val = 6
  · simp only [h6, if_true] at ho hkt ⊢
    simp [hkt, ho]
  · simp only [h6, if_false] at ho hkt ⊢
    cases hp : pooled (countEvent (modUsage (stampArrival s a).1 (addrPart a.pkt.dst) (fun u =>
        { u with shawlRx := satAdd u.shawlRx (packetLength a.pkt) })) 11 [(1, addrPart a.pkt.dst), (3, a.port.val)] (packetLength a.pkt)) a
        (queueKey a.port.val a.pkt.vc (addrPart a.pkt.dst)) with
    | none => simp only [hp] at ho hkt ⊢; simp [hkt, ho]
    | some e => simp only [hp] at ho hkt ⊢; simp [hkt, ho]

/-! Ill-formed commands: each check refuses a term -/

/-- A packet that is well formed. -/
def okPacket : Packet :=
  { ptype := 0, vc := 0, gen := 0, dst := 0, src := 0, first := true, last := true, enc := false, body := zeros 16, keyId := 0, ctr := 0,
    payload := [], tag := [] }

/-- A well-formed term of the operands `Instant`. -/
def zeroInstant : Instant := { ns := 0, frac := 0 }

theorem test_wf_Instant :
    zeroInstant.wf = true ∧ ({ zeroInstant with ns := 2 ^ 64 } : Instant).wf = false ∧
    ({ zeroInstant with frac := 2 ^ 8 } : Instant).wf = false := by
  decide +kernel

/-- A well-formed term of the operands `DescHdr`. -/
def zeroDescHdr : DescHdr := { p := 0, ring := 0, slot := 0, gen := 0, hflags := 0, tag := 0, stamp := ⟨0, 0⟩ }

theorem test_wf_DescHdr :
    zeroDescHdr.wf = true ∧ ({ zeroDescHdr with slot := 2 ^ 16 } : DescHdr).wf = false ∧
    ({ zeroDescHdr with gen := 2 ^ 8 } : DescHdr).wf = false ∧ ({ zeroDescHdr with tag := 2 ^ 32 } : DescHdr).wf = false ∧
    ({ zeroDescHdr with stamp := ⟨0, 256⟩ } : DescHdr).wf = false := by
  decide +kernel

/-- A well-formed term of the operands `WaitFtOps`. -/
def zeroWaitFtOps : WaitFtOps := { target := 0 }

theorem test_wf_WaitFtOps :
    zeroWaitFtOps.wf = true ∧ ({ zeroWaitFtOps with target := 2 ^ 64 } : WaitFtOps).wf = false := by
  decide +kernel

/-- A well-formed term of the operands `HintOps`. -/
def zeroHintOps : HintOps := { cls := 0, level := 0, lead := 0, duration := 0 }

theorem test_wf_HintOps :
    zeroHintOps.wf = true ∧ ({ zeroHintOps with level := 2 ^ 8 } : HintOps).wf = false ∧
    ({ zeroHintOps with lead := 2 ^ 32 } : HintOps).wf = false ∧
    ({ zeroHintOps with duration := 2 ^ 32 } : HintOps).wf = false := by
  decide +kernel

/-- A well-formed term of the operands `MoveOps`. -/
def zeroMoveOps : MoveOps := { src := 0, dst := 0, len := 0, width := 0, flags := 0 }

theorem test_wf_MoveOps :
    zeroMoveOps.wf = true ∧ ({ zeroMoveOps with src := 2 ^ 64 } : MoveOps).wf = false ∧
    ({ zeroMoveOps with dst := 2 ^ 64 } : MoveOps).wf = false ∧ ({ zeroMoveOps with len := 2 ^ 64 } : MoveOps).wf = false ∧
    ({ zeroMoveOps with width := 2 ^ 8 } : MoveOps).wf = false := by
  decide +kernel

/-- A well-formed term of the operands `WindowOpenOps`. -/
def zeroWindowOpenOps : WindowOpenOps := { roundId := 0, opens := 0, closes := 0, landingAddr := 0, paramAddr := 0, slotCount := 0, kind := 0 }

theorem test_wf_WindowOpenOps :
    zeroWindowOpenOps.wf = true ∧ ({ zeroWindowOpenOps with roundId := 2 ^ 64 } : WindowOpenOps).wf = false ∧
    ({ zeroWindowOpenOps with opens := 2 ^ 64 } : WindowOpenOps).wf = false ∧
    ({ zeroWindowOpenOps with closes := 2 ^ 64 } : WindowOpenOps).wf = false ∧
    ({ zeroWindowOpenOps with landingAddr := 2 ^ 64 } : WindowOpenOps).wf = false ∧
    ({ zeroWindowOpenOps with paramAddr := 2 ^ 64 } : WindowOpenOps).wf = false ∧
    ({ zeroWindowOpenOps with slotCount := 2 ^ 32 } : WindowOpenOps).wf = false ∧
    ({ zeroWindowOpenOps with kind := 2 ^ 8 } : WindowOpenOps).wf = false := by
  decide +kernel

/-- A well-formed term of the operands `WindowCloseOps`. -/
def zeroWindowCloseOps : WindowCloseOps := { roundId := 0, kind := 0, closeAt := 0, listAddr := 0 }

theorem test_wf_WindowCloseOps :
    zeroWindowCloseOps.wf = true ∧ ({ zeroWindowCloseOps with roundId := 2 ^ 64 } : WindowCloseOps).wf = false ∧
    ({ zeroWindowCloseOps with kind := 2 ^ 8 } : WindowCloseOps).wf = false ∧
    ({ zeroWindowCloseOps with closeAt := 2 ^ 64 } : WindowCloseOps).wf = false ∧
    ({ zeroWindowCloseOps with listAddr := 2 ^ 64 } : WindowCloseOps).wf = false := by
  decide +kernel

/-- A well-formed term of the operands `IngestOps`. -/
def zeroIngestOps : IngestOps := { roundId := 0, listAddr := 0, count := 0, resultAddr := 0 }

theorem test_wf_IngestOps :
    zeroIngestOps.wf = true ∧ ({ zeroIngestOps with roundId := 2 ^ 64 } : IngestOps).wf = false ∧
    ({ zeroIngestOps with listAddr := 2 ^ 64 } : IngestOps).wf = false ∧
    ({ zeroIngestOps with count := 2 ^ 32 } : IngestOps).wf = false ∧
    ({ zeroIngestOps with resultAddr := 2 ^ 64 } : IngestOps).wf = false := by
  decide +kernel

/-- A well-formed term of the operands `AccOps`. -/
def zeroAccOps : AccOps := { dstTile := 0, tileCount := 0, width := 0, mode := 0, srcKind := 0, srcWidth := 0, coordTile := 0, src := 0, first := 0, count := 0, modulus := 0, splitWays := 0, flags := 0 }

theorem test_wf_AccOps :
    zeroAccOps.wf = true ∧ ({ zeroAccOps with dstTile := 2 ^ 32 } : AccOps).wf = false ∧
    ({ zeroAccOps with tileCount := 2 ^ 32 } : AccOps).wf = false ∧ ({ zeroAccOps with width := 2 ^ 8 } : AccOps).wf = false ∧
    ({ zeroAccOps with mode := 2 ^ 8 } : AccOps).wf = false ∧ ({ zeroAccOps with srcKind := 2 ^ 8 } : AccOps).wf = false ∧
    ({ zeroAccOps with srcWidth := 2 ^ 8 } : AccOps).wf = false ∧
    ({ zeroAccOps with coordTile := 2 ^ 32 } : AccOps).wf = false ∧ ({ zeroAccOps with src := 2 ^ 64 } : AccOps).wf = false ∧
    ({ zeroAccOps with first := 2 ^ 32 } : AccOps).wf = false ∧ ({ zeroAccOps with count := 2 ^ 32 } : AccOps).wf = false ∧
    ({ zeroAccOps with modulus := 2 ^ 64 } : AccOps).wf = false ∧ ({ zeroAccOps with splitWays := 2 ^ 8 } : AccOps).wf = false := by
  decide +kernel

/-- A well-formed term of the operands `DrainOps`. -/
def zeroDrainOps : DrainOps := { srcTile := 0, tileCount := 0, dst := 0, scale := 0, bias := 0, actParam := 0, activation := 0, outFormat := 0, fracBits := 0, flags := 0, elemCount := 0 }

theorem test_wf_DrainOps :
    zeroDrainOps.wf = true ∧ ({ zeroDrainOps with srcTile := 2 ^ 32 } : DrainOps).wf = false ∧
    ({ zeroDrainOps with tileCount := 2 ^ 32 } : DrainOps).wf = false ∧
    ({ zeroDrainOps with dst := 2 ^ 64 } : DrainOps).wf = false ∧
    ({ zeroDrainOps with activation := 2 ^ 8 } : DrainOps).wf = false ∧
    ({ zeroDrainOps with outFormat := 2 ^ 8 } : DrainOps).wf = false ∧
    ({ zeroDrainOps with fracBits := 2 ^ 8 } : DrainOps).wf = false ∧
    ({ zeroDrainOps with elemCount := 2 ^ 32 } : DrainOps).wf = false := by
  decide +kernel

/-- A well-formed term of the operands `StatsOps`. -/
def zeroStatsOps : StatsOps := { srcKind := 0, srcWidth := 0, flags := 0, tileA := 0, tileB := 0, tileCount := 0, src := 0, first := 0, count := 0, resultAddr := 0, eps := 0, fracBits := 0 }

theorem test_wf_StatsOps :
    zeroStatsOps.wf = true ∧ ({ zeroStatsOps with srcKind := 2 ^ 8 } : StatsOps).wf = false ∧
    ({ zeroStatsOps with srcWidth := 2 ^ 8 } : StatsOps).wf = false ∧
    ({ zeroStatsOps with tileA := 2 ^ 32 } : StatsOps).wf = false ∧
    ({ zeroStatsOps with tileB := 2 ^ 32 } : StatsOps).wf = false ∧
    ({ zeroStatsOps with tileCount := 2 ^ 32 } : StatsOps).wf = false ∧
    ({ zeroStatsOps with src := 2 ^ 64 } : StatsOps).wf = false ∧
    ({ zeroStatsOps with first := 2 ^ 32 } : StatsOps).wf = false ∧
    ({ zeroStatsOps with count := 2 ^ 32 } : StatsOps).wf = false ∧
    ({ zeroStatsOps with resultAddr := 2 ^ 64 } : StatsOps).wf = false ∧
    ({ zeroStatsOps with fracBits := 2 ^ 8 } : StatsOps).wf = false := by
  decide +kernel

/-- A well-formed term of the operands `RankOps`. -/
def zeroRankOps : RankOps := { srcTile := 0, tileCount := 0, elemCount := 0, k := 0, lapelSleeve := 0, flags := 0, dstAddr := 0 }

theorem test_wf_RankOps :
    zeroRankOps.wf = true ∧ ({ zeroRankOps with srcTile := 2 ^ 32 } : RankOps).wf = false ∧
    ({ zeroRankOps with tileCount := 2 ^ 32 } : RankOps).wf = false ∧
    ({ zeroRankOps with elemCount := 2 ^ 32 } : RankOps).wf = false ∧
    ({ zeroRankOps with k := 2 ^ 16 } : RankOps).wf = false ∧
    ({ zeroRankOps with lapelSleeve := 2 ^ 8 } : RankOps).wf = false ∧
    ({ zeroRankOps with dstAddr := 2 ^ 64 } : RankOps).wf = false := by
  decide +kernel

/-- A well-formed term of the operands `ZipSendOps`. -/
def zeroZipSendOps : ZipSendOps := { declAddr := 0, roundId := 0, srcTile := 0, tileCount := 0, deadline := 0 }

theorem test_wf_ZipSendOps :
    zeroZipSendOps.wf = true ∧ ({ zeroZipSendOps with declAddr := 2 ^ 64 } : ZipSendOps).wf = false ∧
    ({ zeroZipSendOps with roundId := 2 ^ 64 } : ZipSendOps).wf = false ∧
    ({ zeroZipSendOps with srcTile := 2 ^ 32 } : ZipSendOps).wf = false ∧
    ({ zeroZipSendOps with tileCount := 2 ^ 32 } : ZipSendOps).wf = false ∧
    ({ zeroZipSendOps with deadline := 2 ^ 64 } : ZipSendOps).wf = false := by
  decide +kernel

/-- A well-formed term of the operands `ZipRecvOps`. -/
def zeroZipRecvOps : ZipRecvOps := { declAddr := 0, roundId := 0, ownTile := 0, dstTile := 0, deadline := 0, landingTile := 0, landingDepth := 0, flags := 0 }

theorem test_wf_ZipRecvOps :
    zeroZipRecvOps.wf = true ∧ ({ zeroZipRecvOps with declAddr := 2 ^ 64 } : ZipRecvOps).wf = false ∧
    ({ zeroZipRecvOps with roundId := 2 ^ 64 } : ZipRecvOps).wf = false ∧
    ({ zeroZipRecvOps with ownTile := 2 ^ 32 } : ZipRecvOps).wf = false ∧
    ({ zeroZipRecvOps with dstTile := 2 ^ 32 } : ZipRecvOps).wf = false ∧
    ({ zeroZipRecvOps with deadline := 2 ^ 64 } : ZipRecvOps).wf = false ∧
    ({ zeroZipRecvOps with landingTile := 2 ^ 32 } : ZipRecvOps).wf = false ∧
    ({ zeroZipRecvOps with landingDepth := 2 ^ 16 } : ZipRecvOps).wf = false := by
  decide +kernel

/-- A well-formed term of the operands `MaskOps`. -/
def zeroMaskOps : MaskOps := { roundId := 0, dstTile := 0, tileCount := 0, coordTile := 0, seedFirst := 0, seedCount := 0, flags := 0 }

theorem test_wf_MaskOps :
    zeroMaskOps.wf = true ∧ ({ zeroMaskOps with roundId := 2 ^ 64 } : MaskOps).wf = false ∧
    ({ zeroMaskOps with dstTile := 2 ^ 32 } : MaskOps).wf = false ∧
    ({ zeroMaskOps with tileCount := 2 ^ 32 } : MaskOps).wf = false ∧
    ({ zeroMaskOps with coordTile := 2 ^ 32 } : MaskOps).wf = false ∧
    ({ zeroMaskOps with seedFirst := 2 ^ 32 } : MaskOps).wf = false ∧
    ({ zeroMaskOps with seedCount := 2 ^ 32 } : MaskOps).wf = false := by
  decide +kernel

/-- A well-formed term of the operands `ShareOps`. -/
def zeroShareOps : ShareOps := { roundId := 0, reportAddr := 0 }

theorem test_wf_ShareOps :
    zeroShareOps.wf = true ∧ ({ zeroShareOps with roundId := 2 ^ 64 } : ShareOps).wf = false ∧
    ({ zeroShareOps with reportAddr := 2 ^ 64 } : ShareOps).wf = false := by
  decide +kernel

/-- A well-formed term of the operands `SeedOps`. -/
def zeroSeedOps : SeedOps := { roundId := 0, srcAddr := 0, graphAddr := 0, recTile := 0, recUnits := 0 }

theorem test_wf_SeedOps :
    zeroSeedOps.wf = true ∧ ({ zeroSeedOps with roundId := 2 ^ 64 } : SeedOps).wf = false ∧
    ({ zeroSeedOps with srcAddr := 2 ^ 64 } : SeedOps).wf = false ∧
    ({ zeroSeedOps with graphAddr := 2 ^ 64 } : SeedOps).wf = false ∧
    ({ zeroSeedOps with recTile := 2 ^ 32 } : SeedOps).wf = false ∧
    ({ zeroSeedOps with recUnits := 2 ^ 32 } : SeedOps).wf = false := by
  decide +kernel

/-- A well-formed term of the operands `NttOps`. -/
def zeroNttOps : NttOps := { src := 0, dst := 0, limbStride := 0, limbCount := 0, log2N := 0, laneMode := 0, modAddr := 0, flags := 0 }

theorem test_wf_NttOps :
    zeroNttOps.wf = true ∧ ({ zeroNttOps with src := 2 ^ 32 } : NttOps).wf = false ∧
    ({ zeroNttOps with dst := 2 ^ 32 } : NttOps).wf = false ∧ ({ zeroNttOps with limbStride := 2 ^ 32 } : NttOps).wf = false ∧
    ({ zeroNttOps with limbCount := 2 ^ 16 } : NttOps).wf = false ∧ ({ zeroNttOps with log2N := 2 ^ 8 } : NttOps).wf = false ∧
    ({ zeroNttOps with laneMode := 2 ^ 8 } : NttOps).wf = false ∧ ({ zeroNttOps with modAddr := 2 ^ 64 } : NttOps).wf = false := by
  decide +kernel

/-- A well-formed term of the operands `PmulOps`. -/
def zeroPmulOps : PmulOps := { a := 0, b := 0, dst := 0, limbStride := 0, elemCount := 0, limbCount := 0, laneMode := 0, modAddr := 0, scalar := 0, fracBits := 0, flags := 0 }

theorem test_wf_PmulOps :
    zeroPmulOps.wf = true ∧ ({ zeroPmulOps with a := 2 ^ 32 } : PmulOps).wf = false ∧
    ({ zeroPmulOps with b := 2 ^ 32 } : PmulOps).wf = false ∧ ({ zeroPmulOps with dst := 2 ^ 32 } : PmulOps).wf = false ∧
    ({ zeroPmulOps with limbStride := 2 ^ 32 } : PmulOps).wf = false ∧
    ({ zeroPmulOps with elemCount := 2 ^ 32 } : PmulOps).wf = false ∧
    ({ zeroPmulOps with limbCount := 2 ^ 16 } : PmulOps).wf = false ∧
    ({ zeroPmulOps with laneMode := 2 ^ 8 } : PmulOps).wf = false ∧
    ({ zeroPmulOps with modAddr := 2 ^ 64 } : PmulOps).wf = false ∧
    ({ zeroPmulOps with scalar := 2 ^ 64 } : PmulOps).wf = false ∧
    ({ zeroPmulOps with fracBits := 2 ^ 8 } : PmulOps).wf = false := by
  decide +kernel

/-- A well-formed term of the operands `BaseOps`. -/
def zeroBaseOps : BaseOps := { src := 0, dst := 0, limbStride := 0, inLimbs := 0, outLimbs := 0, log2N := 0, flags := 0, inMod := 0, outMod := 0 }

theorem test_wf_BaseOps :
    zeroBaseOps.wf = true ∧ ({ zeroBaseOps with src := 2 ^ 32 } : BaseOps).wf = false ∧
    ({ zeroBaseOps with dst := 2 ^ 32 } : BaseOps).wf = false ∧
    ({ zeroBaseOps with limbStride := 2 ^ 32 } : BaseOps).wf = false ∧
    ({ zeroBaseOps with inLimbs := 2 ^ 8 } : BaseOps).wf = false ∧
    ({ zeroBaseOps with outLimbs := 2 ^ 8 } : BaseOps).wf = false ∧
    ({ zeroBaseOps with log2N := 2 ^ 8 } : BaseOps).wf = false ∧ ({ zeroBaseOps with inMod := 2 ^ 64 } : BaseOps).wf = false ∧
    ({ zeroBaseOps with outMod := 2 ^ 64 } : BaseOps).wf = false := by
  decide +kernel

/-- A well-formed term of the operands `CtAddOps`. -/
def zeroCtAddOps : CtAddOps := { flags := 0, limbStride := 0, paramAddr := 0, dstRef := 0, a := 0, b := 0, seqFirst := 0, seqCount := 0 }

theorem test_wf_CtAddOps :
    zeroCtAddOps.wf = true ∧ ({ zeroCtAddOps with limbStride := 2 ^ 32 } : CtAddOps).wf = false ∧
    ({ zeroCtAddOps with paramAddr := 2 ^ 64 } : CtAddOps).wf = false ∧
    ({ zeroCtAddOps with dstRef := 2 ^ 64 } : CtAddOps).wf = false ∧
    ({ zeroCtAddOps with a := 2 ^ 64 } : CtAddOps).wf = false ∧ ({ zeroCtAddOps with b := 2 ^ 64 } : CtAddOps).wf = false ∧
    ({ zeroCtAddOps with seqFirst := 2 ^ 32 } : CtAddOps).wf = false ∧
    ({ zeroCtAddOps with seqCount := 2 ^ 32 } : CtAddOps).wf = false := by
  decide +kernel

/-- A well-formed term of the operands `KsOps`. -/
def zeroKsOps : KsOps := { inList := 0, outList := 0, keyAddr := 0, paramAddr := 0, limbStride := 0, galois := 0, workTile := 0, ctCount := 0, flags := 0 }

theorem test_wf_KsOps :
    zeroKsOps.wf = true ∧ ({ zeroKsOps with inList := 2 ^ 64 } : KsOps).wf = false ∧
    ({ zeroKsOps with outList := 2 ^ 64 } : KsOps).wf = false ∧ ({ zeroKsOps with keyAddr := 2 ^ 64 } : KsOps).wf = false ∧
    ({ zeroKsOps with paramAddr := 2 ^ 64 } : KsOps).wf = false ∧
    ({ zeroKsOps with limbStride := 2 ^ 32 } : KsOps).wf = false ∧ ({ zeroKsOps with galois := 2 ^ 32 } : KsOps).wf = false ∧
    ({ zeroKsOps with workTile := 2 ^ 32 } : KsOps).wf = false ∧ ({ zeroKsOps with ctCount := 2 ^ 8 } : KsOps).wf = false := by
  decide +kernel

/-- A well-formed term of the operands `RescaleOps`. -/
def zeroRescaleOps : RescaleOps := { inList := 0, outList := 0, paramAddr := 0, limbStride := 0, ctCount := 0, drop := 0, flags := 0 }

theorem test_wf_RescaleOps :
    zeroRescaleOps.wf = true ∧ ({ zeroRescaleOps with inList := 2 ^ 64 } : RescaleOps).wf = false ∧
    ({ zeroRescaleOps with outList := 2 ^ 64 } : RescaleOps).wf = false ∧
    ({ zeroRescaleOps with paramAddr := 2 ^ 64 } : RescaleOps).wf = false ∧
    ({ zeroRescaleOps with limbStride := 2 ^ 32 } : RescaleOps).wf = false ∧
    ({ zeroRescaleOps with ctCount := 2 ^ 8 } : RescaleOps).wf = false ∧
    ({ zeroRescaleOps with drop := 2 ^ 8 } : RescaleOps).wf = false := by
  decide +kernel

/-- A well-formed term of the operands `PartialOps`. -/
def zeroPartialOps : PartialOps := { ctRef := 0, outRef := 0, paramAddr := 0, roundId := 0, lambdaAddr := 0, limbStride := 0 }

theorem test_wf_PartialOps :
    zeroPartialOps.wf = true ∧ ({ zeroPartialOps with ctRef := 2 ^ 64 } : PartialOps).wf = false ∧
    ({ zeroPartialOps with outRef := 2 ^ 64 } : PartialOps).wf = false ∧
    ({ zeroPartialOps with paramAddr := 2 ^ 64 } : PartialOps).wf = false ∧
    ({ zeroPartialOps with roundId := 2 ^ 64 } : PartialOps).wf = false ∧
    ({ zeroPartialOps with lambdaAddr := 2 ^ 64 } : PartialOps).wf = false ∧
    ({ zeroPartialOps with limbStride := 2 ^ 32 } : PartialOps).wf = false := by
  decide +kernel

/-- A well-formed term of the operands `KemOps`. -/
def zeroKemOps : KemOps := { roundId := 0, seqFirst := 0, seqCount := 0, resultAddr := 0 }

theorem test_wf_KemOps :
    zeroKemOps.wf = true ∧ ({ zeroKemOps with roundId := 2 ^ 64 } : KemOps).wf = false ∧
    ({ zeroKemOps with seqFirst := 2 ^ 32 } : KemOps).wf = false ∧
    ({ zeroKemOps with seqCount := 2 ^ 32 } : KemOps).wf = false ∧
    ({ zeroKemOps with resultAddr := 2 ^ 64 } : KemOps).wf = false := by
  decide +kernel

/-- A well-formed term of the operands `SealedOps`. -/
def zeroSealedOps : SealedOps := { roundId := 0, seqFirst := 0, seqCount := 0, stageTile := 0, stageSlots := 0, resultAddr := 0 }

theorem test_wf_SealedOps :
    zeroSealedOps.wf = true ∧ ({ zeroSealedOps with roundId := 2 ^ 64 } : SealedOps).wf = false ∧
    ({ zeroSealedOps with seqFirst := 2 ^ 32 } : SealedOps).wf = false ∧
    ({ zeroSealedOps with seqCount := 2 ^ 32 } : SealedOps).wf = false ∧
    ({ zeroSealedOps with stageTile := 2 ^ 32 } : SealedOps).wf = false ∧
    ({ zeroSealedOps with stageSlots := 2 ^ 32 } : SealedOps).wf = false ∧
    ({ zeroSealedOps with resultAddr := 2 ^ 64 } : SealedOps).wf = false := by
  decide +kernel

/-- A well-formed term of the operands `NoiseOps`. -/
def zeroNoiseOps : NoiseOps := { srcTile := 0, dstTile := 0, tileCount := 0, param := 0, mech := 0, rounding := 0, flags := 0 }

theorem test_wf_NoiseOps :
    zeroNoiseOps.wf = true ∧ ({ zeroNoiseOps with srcTile := 2 ^ 32 } : NoiseOps).wf = false ∧
    ({ zeroNoiseOps with dstTile := 2 ^ 32 } : NoiseOps).wf = false ∧
    ({ zeroNoiseOps with tileCount := 2 ^ 32 } : NoiseOps).wf = false ∧
    ({ zeroNoiseOps with param := 2 ^ 32 } : NoiseOps).wf = false ∧
    ({ zeroNoiseOps with mech := 2 ^ 8 } : NoiseOps).wf = false ∧
    ({ zeroNoiseOps with rounding := 2 ^ 8 } : NoiseOps).wf = false := by
  decide +kernel

/-- A well-formed term of the operands `ReleaseOps`. -/
def zeroReleaseOps : ReleaseOps := { roundId := 0, flags := 0, srcTile := 0, srcRef := 0, dst := 0, count := 0, stageTile := 0, paramAddr := 0 }

theorem test_wf_ReleaseOps :
    zeroReleaseOps.wf = true ∧ ({ zeroReleaseOps with roundId := 2 ^ 64 } : ReleaseOps).wf = false ∧
    ({ zeroReleaseOps with srcTile := 2 ^ 32 } : ReleaseOps).wf = false ∧
    ({ zeroReleaseOps with srcRef := 2 ^ 64 } : ReleaseOps).wf = false ∧
    ({ zeroReleaseOps with dst := 2 ^ 64 } : ReleaseOps).wf = false ∧
    ({ zeroReleaseOps with count := 2 ^ 32 } : ReleaseOps).wf = false ∧
    ({ zeroReleaseOps with stageTile := 2 ^ 32 } : ReleaseOps).wf = false ∧
    ({ zeroReleaseOps with paramAddr := 2 ^ 64 } : ReleaseOps).wf = false := by
  decide +kernel

/-- A well-formed term of the operands `RmaOps`. -/
def zeroRmaOps : RmaOps := { qpn := 0, len := 0, loc := 0, remote := 0, width := 0, flags := 0, timeoutUs := 0 }

theorem test_wf_RmaOps :
    zeroRmaOps.wf = true ∧ ({ zeroRmaOps with qpn := 2 ^ 24 } : RmaOps).wf = false ∧
    ({ zeroRmaOps with len := 2 ^ 32 } : RmaOps).wf = false ∧ ({ zeroRmaOps with loc := 2 ^ 64 } : RmaOps).wf = false ∧
    ({ zeroRmaOps with remote := 2 ^ 64 } : RmaOps).wf = false ∧ ({ zeroRmaOps with width := 2 ^ 8 } : RmaOps).wf = false ∧
    ({ zeroRmaOps with timeoutUs := 2 ^ 32 } : RmaOps).wf = false := by
  decide +kernel

/-- A well-formed term of the operands `AttestOps`. -/
def zeroAttestOps : AttestOps := { nonce := zeros 32, dst := 0 }

theorem test_wf_AttestOps :
    zeroAttestOps.wf = true ∧ ({ zeroAttestOps with dst := 2 ^ 64 } : AttestOps).wf = false ∧
    ({ zeroAttestOps with nonce := [] } : AttestOps).wf = false := by
  decide +kernel

/-- A well-formed term of the operands `KeyImportOps`. -/
def zeroKeyImportOps : KeyImportOps := { msgAddr := 0, msgLen := 0 }

theorem test_wf_KeyImportOps :
    zeroKeyImportOps.wf = true ∧ ({ zeroKeyImportOps with msgAddr := 2 ^ 64 } : KeyImportOps).wf = false ∧
    ({ zeroKeyImportOps with msgLen := 2 ^ 32 } : KeyImportOps).wf = false := by
  decide +kernel

/-- A well-formed term of the operands `KeyDestroyOps`. -/
def zeroKeyDestroyOps : KeyDestroyOps := { kind := 0, linkKeyId := 0 }

theorem test_wf_KeyDestroyOps :
    zeroKeyDestroyOps.wf = true ∧ ({ zeroKeyDestroyOps with kind := 2 ^ 8 } : KeyDestroyOps).wf = false ∧
    ({ zeroKeyDestroyOps with linkKeyId := 2 ^ 16 } : KeyDestroyOps).wf = false := by
  decide +kernel

/-- A well-formed term of the operands `ModelOps`. -/
def zeroModelOps : ModelOps := { src := 0, dst := 0, len := 0, segBytes := 0, elemFormat := 0, fracBits := 0, labelAddr := 0 }

theorem test_wf_ModelOps :
    zeroModelOps.wf = true ∧ ({ zeroModelOps with src := 2 ^ 64 } : ModelOps).wf = false ∧
    ({ zeroModelOps with dst := 2 ^ 64 } : ModelOps).wf = false ∧
    ({ zeroModelOps with len := 2 ^ 64 } : ModelOps).wf = false ∧
    ({ zeroModelOps with segBytes := 2 ^ 64 } : ModelOps).wf = false ∧
    ({ zeroModelOps with elemFormat := 2 ^ 8 } : ModelOps).wf = false ∧
    ({ zeroModelOps with fracBits := 2 ^ 8 } : ModelOps).wf = false ∧
    ({ zeroModelOps with labelAddr := 2 ^ 64 } : ModelOps).wf = false := by
  decide +kernel

theorem test_wf_Packet :
    okPacket.wf = true ∧ ({ okPacket with ptype := 2 ^ 5 } : Packet).wf = false ∧
    ({ okPacket with vc := 2 ^ 3 } : Packet).wf = false ∧ ({ okPacket with gen := 2 ^ 8 } : Packet).wf = false ∧
    ({ okPacket with dst := 2 ^ 16 } : Packet).wf = false ∧ ({ okPacket with src := 2 ^ 16 } : Packet).wf = false ∧
    ({ okPacket with keyId := 2 ^ 16 } : Packet).wf = false ∧ ({ okPacket with ctr := 2 ^ 48 } : Packet).wf = false ∧
    ({ okPacket with body := [] } : Packet).wf = false ∧ ({ okPacket with payload := zeros 4097 } : Packet).wf = false ∧
    ({ okPacket with tag := [0] } : Packet).wf = false ∧ ({ okPacket with enc := true } : Packet).wf = false := by
  decide +kernel

/-- A well-formed term of the operands `Arrival`. -/
def zeroArrival : Arrival := { port := 0, dt := 0, frac := 0, pkt := okPacket }

theorem test_wf_Arrival :
    zeroArrival.wf = true ∧ ({ zeroArrival with dt := 2 ^ 64 } : Arrival).wf = false ∧
    ({ zeroArrival with frac := 2 ^ 8 } : Arrival).wf = false ∧
    ({ zeroArrival with pkt := { okPacket with ptype := 32 } } : Arrival).wf = false := by
  decide +kernel

/-- A well-formed term of the operands `TimeMsg`. -/
def zeroTimeMsg : TimeMsg := { hops := 0, quality := 0, moduleId := 0, follows := false, t1 := ⟨0, 0⟩, t4 := ⟨0, 0⟩, arrival := ⟨0, 0⟩ }

theorem test_wf_TimeMsg :
    zeroTimeMsg.wf = true ∧ ({ zeroTimeMsg with hops := 2 ^ 8 } : TimeMsg).wf = false ∧
    ({ zeroTimeMsg with quality := 2 ^ 8 } : TimeMsg).wf = false ∧
    ({ zeroTimeMsg with moduleId := 2 ^ 12 } : TimeMsg).wf = false ∧
    ({ zeroTimeMsg with t1 := ⟨2 ^ 64, 0⟩ } : TimeMsg).wf = false ∧
    ({ zeroTimeMsg with arrival := ⟨0, 256⟩ } : TimeMsg).wf = false ∧
    ({ zeroTimeMsg with t4 := ⟨0, 256⟩ } : TimeMsg).wf = false := by
  decide +kernel

/-- A well-formed term of the operands `CreditEntry`. -/
def zeroCreditEntry : CreditEntry := { vc := 0, queue := 0, cells := 0 }

theorem test_wf_CreditEntry :
    zeroCreditEntry.wf = true ∧ ({ zeroCreditEntry with cells := 2 ^ 16 } : CreditEntry).wf = false ∧
    ({ zeroCreditEntry with queue := 17 } : CreditEntry).wf = false := by
  decide +kernel

theorem test_wf_commands :
    (Instr.doorbellReadReturn 0 0 (2 ^ 32) []).wf = false ∧ (Instr.doorbellReadReturn 0 0 0 [[]]).wf = false ∧
    (Instr.doorbellReadReturn 0 0 0 (List.replicate 5 (zeros 64))).wf = false ∧
    (Instr.descriptorBurstFetch 0 0 (List.replicate 33 (zeros 64))).wf = false ∧ (Instr.dispatchSlot 0 (2 ^ 64) 0).wf = false ∧
    (Instr.doorbellInvalidation 0 0 0 256).wf = false ∧ (Instr.creditLineInvalidation 0 0 (2 ^ 32)).wf = false ∧
    (Instr.fecBlockReceive 0 0 [] none 0).wf = false ∧ (Instr.linkAckReceive 0 (2 ^ 32) []).wf = false ∧
    (Instr.linkNakReceive 0 (2 ^ 32)).wf = false ∧ (Instr.linkRemapReceive 0 0 0 true (2 ^ 32)).wf = false ∧
    (Instr.portTrainingComplete 0 3 0 0).wf = false ∧ (Instr.portRetrainEnd 0 (some 35)).wf = false ∧
    (Instr.timeExchangeTimer 0 256).wf = false ∧ (Instr.ftPpsEdge 0 256).wf = false ∧ (Instr.ftSnapGo 256).wf = false ∧
    (Instr.tearEntryExpiry (2 ^ 16) 0 0).wf = false ∧ (Instr.contextFetchComplete 0 0 []).wf = false ∧
    (Instr.contextFetchTimeout 0 (2 ^ 24)).wf = false ∧ (Instr.rmaResponseTimeout 0 (2 ^ 24)).wf = false ∧
    (Instr.rmaTargetGapTimeout 0 (2 ^ 24)).wf = false ∧ (Instr.qpCreate 0 (2 ^ 24)).wf = false ∧
    (Instr.qpReinitialise 0 (2 ^ 24)).wf = false ∧ (Instr.qpDestroy 0 (2 ^ 24)).wf = false ∧ (Instr.ptnCreate 0 (some [])).wf = false ∧
    (Instr.liningRowThreshold 0 (2 ^ 32)).wf = false ∧ (Instr.bondLaneFailure 0 (2 ^ 16)).wf = false ∧
    (Instr.seamLaneFailure 0 (2 ^ 16)).wf = false ∧ (Instr.cclLaneFailure (2 ^ 16)).wf = false ∧
    (Instr.computeResetComplete [144] true).wf = false ∧ (Instr.moduleFaultEntry 0x50).wf = false ∧
    (Instr.resetNPulse (2 ^ 64)).wf = false ∧ (Instr.colAttGo []).wf = false ∧
    (Instr.lcArm 16).wf = false ∧ (Instr.keyExpiry 0 6 0).wf = false ∧ (Instr.entropyBlock 0 []).wf = false ∧
    (Instr.powerInterval []).wf = false ∧ (Instr.thermalSensorRead ⟨[], []⟩).wf = false ∧ (Instr.thermalSensorRead ⟨[0], []⟩).wf = false ∧ (Instr.ageingRead 0 0).wf = false ∧
    (Instr.bstStart 16 0 false).wf = false ∧ (Instr.bstComplete [8]).wf = false ∧ (Instr.registerWrite (2 ^ 23) 8 0).wf = false ∧
    (Instr.registerWrite 0 65 0).wf = false ∧ (Instr.cclWindowAccess 0 (some (zeros 65)) false).wf = false := by
  decide +kernel

/-! The block as a machine, and memory -/

/-- A command waits at the front. -/
theorem test_front_waits : ({ masked with pending := [.nop hdr, .railSettled] } : State).pending = .nop hdr :: [.railSettled] := rfl

/-- A step from a state that meets the invariant answers a next state. -/
theorem test_invariant_met : Inv masked ∧ ∃ t, step masked = .next t :=
  ⟨⟨canonical_of (by decide +kernel), ordered_of (by decide +kernel), Nat.zero_le _,
    by decide +kernel, by decide +kernel, by decide +kernel⟩, of_nexts (by decide +kernel)⟩

/-- No command waits after reset. -/
theorem test_queue_empty : State.reset.pending = [] := rfl

theorem test_ranges_fit :
    MemoryCanonical masked ∧ ((part masked 0).dram ++ (part masked 0).host).Nodup ∧
    addrFits (part masked 0) (inDram (2 ^ 32 - 64)) 64 1 = true ∧ addrFits (part masked 0) (inWin (2 ^ 31 - 1)) 1 1 = true ∧
    addrFits (part masked 0) (unitAt 24575) 8192 1 = true ∧ overlaps (inDram 0) 64 (inDram 64) 1 = false :=
  ⟨canonical_of (by decide +kernel), by decide +kernel⟩

/-- Two partitions that share nothing. -/
def two : State :=
  { masked with parts := [(0, partOf 1 2), (1, { partOf 2 7 with sleeves := 2#16, dram := [16], host := [17] })] }

theorem test_partitions_apart :
    (part two 0).sleeves &&& (part two 1).sleeves = 0#16 ∧
    (∀ g ∈ (part two 0).dram ++ (part two 0).host, g ∉ (part two 1).dram ++ (part two 1).host) ∧
    addrFits (part two 1) (inWin 0) 64 1 = true := by
  decide +kernel

/-! Dispatch -/


/-- A stale generation, an unknown opcode, a foreign regime, a bad operand and a bad address, in the order of R215. -/
theorem test_refused_stale :
    orderedB masked = true ∧ dispatchOpen masked 0 = true ∧ heldBack masked hdr .nop = false ∧ masked.faults.mode = .run ∧
    (part masked 0).mode = .live ∧ (0 : Nat) ≠ (part masked 0).gen ∧ opcodeKnown (.unknown 0x7F) = false ∧
    regimeAdmits (part masked 0).regime (opcodeOf (.ctAddAdd { flags := 0, limbStride := 0, paramAddr := 0, dstRef := 0, a := 0, b := 0, seqFirst := 0, seqCount := 0 })) = false ∧
    rangeOk (part masked 0) (.fill { src := 0, dst := 0, len := 63, width := 0, flags := 0 }) = false ∧
    rangeOk (part masked 0) (.fill { src := 0, dst := 2 ^ 32 - 32, len := 64, width := 0, flags := 0 }) = true ∧
    addressOk masked hdr (.fill { src := 0, dst := 2 ^ 32 - 32, len := 64, width := 0, flags := 0 }) = false := by
  decide +kernel

/-- A descriptor that has reserved unit 5. -/
def reserving : State := withFlights masked [{ flightOf 3 { hdr with ring := 1 } .nop .running [] none with reserved := [(5, 1)] }]

/-- A FILL of one unit. -/
def fillUnit (u : Nat) : MoveOps := { src := 0x0102030405060708, dst := unitAt u, len := 8192, width := 1, flags := 0 }


/-- A FILL of a reserved unit waits. -/
theorem test_unit_reserved :
    dispatchOpen reserving 0 = true ∧ heldBack reserving hdr (.fill (fillUnit 5)) = false ∧
    decideDesc reserving hdr (.fill (fillUnit 5)) = .waits [(5, 1)] := by
  decide +kernel

/-- The masked state with time UNSET. -/
def timeless : State := { masked with time := { masked.time with mode := .unset } }


/-- With time UNSET a WAIT_FT would run but for R237. -/
theorem test_time_unset :
    orderedB timeless = true ∧ dispatchOpen timeless 0 = true ∧ heldBack timeless hdr (.waitFt ⟨5⟩) = false ∧
    timeless.time.mode = .unset ∧
    decideDesc { timeless with time := { timeless.time with mode := .acquiring } } hdr (.waitFt ⟨5⟩) = .runs [] false ∧
    decideDesc { timeless with time := { timeless.time with mode := .acquiring } } hdr .nop = .runs [] false ∧
    takes timeless hdr .nop = true ∧ opcodeOf .nop ≠ 0x10 ∧ opcodeOf .nop ≠ 3 ∧ opcodeOf .nop ≠ 0x59 := by
  decide +kernel

/-! Control -/


/-- NOP is taken up. -/
theorem test_nop_taken :
    FlightsOrdered masked ∧ Dispatches masked hdr .nop :=
  of_takes (by decide +kernel)

/-- FENCE with nothing to await. -/
theorem test_fence_taken :
    (FlightsOrdered masked ∧ Dispatches masked hdr (.fence ⟨0xFF⟩)) ∧
    (flying masked 0).filter (fun f => f.h.ring == hdr.ring || bvBit (0xFF : BitVec 8) f.h.ring.val) = [] ∧
    unwritten masked 0 (fun r => r == hdr.ring.val || (decide (r < 8) && bvBit (0xFF : BitVec 8) r)) = [] :=
  ⟨of_takes (by decide +kernel), by decide +kernel⟩

/-- FENCE with a descriptor of another ring to await. -/
theorem test_fence_awaits :
    (FlightsOrdered reserving ∧ Dispatches reserving hdr (.fence ⟨0x02⟩)) ∧
    ((flying reserving 0).filter (fun f => f.h.ring == hdr.ring || bvBit (0x02 : BitVec 8) f.h.ring.val)).map (fun f => f.id) = [3] :=
  ⟨of_takes (by decide +kernel), by decide +kernel⟩

/-- WAIT_FT at the instant and one after it. -/
theorem test_wait_met :
    (FlightsOrdered masked ∧ Dispatches masked hdr (.waitFt ⟨100000⟩)) ∧ (100000 : Nat) ≤ now masked :=
  ⟨of_takes (by decide +kernel), by decide +kernel⟩

theorem test_wait_ahead :
    (FlightsOrdered masked ∧ Dispatches masked hdr (.waitFt ⟨100001⟩)) ∧ now masked < 100001 :=
  ⟨of_takes (by decide +kernel), by decide +kernel⟩

/-- HINT of class 0. -/
theorem test_hint_taken :
    FlightsOrdered masked ∧ Dispatches masked hdr (.hint ⟨1, 100, 50, 0⟩) :=
  of_takes (by decide +kernel)

/-! Moving bytes -/

/-- DRAM bytes that carry the pre-gate mark. -/
def marked : State := { holding masked (inDram 0) (natLe 8 0x1122334455667788) with areas := [{ lo := 0, len := 64, mark := true, model := false }] }


/-- A COPY of marked bytes to the window. -/
theorem test_copy_marked :
    (FlightsOrdered marked ∧ Dispatches marked hdr (.copy ⟨0, inWin 0, 64, 0, 0⟩)) ∧
    (inWindow (inWin 0) && ((marksOf marked 0 0 64).1 || (marksOf marked 0 0 64).2)) = true :=
  ⟨of_takes (by decide +kernel), by decide +kernel⟩

/-- A COPY of marked bytes to the Pocket's last unit. -/
theorem test_copy_to_pocket :
    (FlightsOrdered marked ∧ Dispatches marked hdr (.copy ⟨0, unitAt 24575, 64, 2, 0⟩)) ∧
    (inWindow (unitAt 24575) && ((marksOf marked 0 0 64).1 || (marksOf marked 0 0 64).2)) = false ∧
    wantsPin marked 0 ⟨0, unitAt 24575, 64, 2, 0⟩ = false :=
  ⟨of_takes (by decide +kernel), by decide +kernel⟩

/-- A partition with a pin region of 64 units, and the header of a key stream of 65,536 bytes in DRAM. -/
def pinning : State :=
  holding (run { partOf 2 7 with pinBase := 64, pinUnits := 64 }) 0
    (natLe 2 0x0120 ++ natLe 1 1 ++ natLe 1 1 ++ zeros 4 ++ natLe 8 1 ++ natLe 8 2 ++ natLe 8 65536 ++ zeros 16 ++ natLe 2 1)

/-- The COPY that pins it. -/
def pinCopy : MoveOps := ⟨0, unitAt 64, 65600, 0, 0⟩


/-- A COPY that pins a key stream. -/
theorem test_copy_pins :
    (FlightsOrdered pinning ∧ Dispatches pinning hdr (.copy pinCopy)) ∧
    (inWindow pinCopy.dst && ((marksOf pinning 0 0 65600).1 || (marksOf pinning 0 0 65600).2)) = false ∧
    wantsPin pinning 0 pinCopy = true ∧ (keyStreamOf ((pread pinning 0 0 65600).take 64)).len = pinCopy.len - 64 ∧
    (keyStreamOf ((pread pinning 0 0 65600).take 64)).selfOk = true ∧
    (part (unpin pinning 0 pinCopy.dst 65536) 0).pins.length < 16 :=
  ⟨of_takes (by decide +kernel), by decide +kernel⟩

/-- A key stream whose header names another length is not pinned. -/
theorem test_copy_pin_refused :
    (FlightsOrdered pinning ∧ Dispatches pinning hdr (.copy ⟨0, unitAt 64, 65600 + 8192, 0, 0⟩)) ∧
    (inWindow (unitAt 64) && ((marksOf pinning 0 0 73792).1 || (marksOf pinning 0 0 73792).2)) = false ∧
    wantsPin pinning 0 ⟨0, unitAt 64, 65600 + 8192, 0, 0⟩ = true ∧
    (keyStreamOf ((pread pinning 0 0 73792).take 64)).len ≠ 73792 - 64 :=
  ⟨of_takes (by decide +kernel), by decide +kernel⟩

/-- FILL of one unit of the Pocket. -/
theorem test_fill_taken :
    FlightsOrdered masked ∧ Dispatches masked hdr (.fill (fillUnit 5)) :=
  of_takes (by decide +kernel)

/-! Windows and submissions -/

/-- A window of round 5 with four slots in DRAM. -/
def win (k : WinKind) (m : WinMode) : Window :=
  { kind := k, roundId := 5, mode := m, opens := 90000, closes := 200000, landingAddr := 2 ^ 20, slotCount := 4, slotSize := 20480,
    paramAddr := 0, paramBlock := [], assigned := 0, subs := [], waiting := [], acceptedAtClose := 0, stageFirst := none, stageSlots := 0,
    stageUnits := 0 }

/-- A submission of client 9 that has been given a number, or none. -/
def sub (n : Option Nat) (v : Option Verdict) : Submission :=
  { clientId := 9, stamp := ⟨90000, 0⟩, rank := 8, order := 0, header := zeros 64, bytes := [], length := 16448, complete := true,
    srcAddr := inWin 8192, ingestId := none, item := 0, stream := 0, entry := 0, lastPacket := 0, number := n, verdict := v,
    landed := true, slotFree := false, consumed := [], sharedKey := none, decapsulated := false, final := false, stage := none,
    clip := none, provisional := true }

/-- A round in a state. -/
def round (m : RoundMode) : Round :=
  { roundId := 5, mode := m, survivors := [], graph := none, bundleOpened := false, entries := [], secrets := [], seeds := [],
    selfCount := 0, edgeCount := 0, maskNext := [] }

/-- A state with a window and a round of partition 0. -/
def withWin (s : State) (k : WinKind) (w : Window) : State := setWindow s 0 k (some w)
def withRound (s : State) (r : Round) : State := modPart s 0 (fun x => { x with rounds := [r] })

/-- WINDOW_OPEN operands. -/
def openOps (kind opens closes : Nat) : WindowOpenOps :=
  { roundId := 5, opens := opens, closes := closes, landingAddr := 2 ^ 20, paramAddr := 0, slotCount := 4, kind := kind }


/-- WINDOW_OPEN at its own instant. -/
theorem test_open_admitted :
    (FlightsOrdered masked ∧ Dispatches masked hdr (.windowOpen (openOps 0 100000 101000))) ∧
    (openOps 0 100000 101000).kind = 0 ∧ openAdmitted masked 0 (openOps 0 100000 101000) (ceilNs (instant masked)) = true ∧
    (part masked 0).regime = 1 :=
  ⟨of_takes (by decide +kernel), by decide +kernel⟩

/-- WINDOW_OPEN that closes at its dispatch. -/
theorem test_open_refused :
    (FlightsOrdered masked ∧ Dispatches masked hdr (.windowOpen (openOps 0 99000 100000))) ∧
    openAdmitted masked 0 (openOps 0 99000 100000) (ceilNs (instant masked)) = false :=
  ⟨of_takes (by decide +kernel), by decide +kernel⟩

theorem test_recover_waits :
    (FlightsOrdered (withWin masked .submit (win .submit .closing)) ∧ Dispatches (withWin masked .submit (win .submit .closing)) hdr (.windowOpen (openOps 1 100000 101000))) ∧
    (openOps 1 100000 101000).kind = 1 ∧
    (recoverWaits (part (withWin masked .submit (win .submit .closing)) 0) 5 || (displaced (part (withWin masked .submit (win .submit .closing)) 0) 5).any (fun r => recoveryInFlight (withWin masked .submit (win .submit .closing)) 0 r.roundId)) = true :=
  ⟨of_takes (by decide +kernel), by decide +kernel⟩

/-- A state with a CLOSED round 5 and an older round 4. -/
def twoRounds (m : RoundMode) : State := modPart masked 0 (fun x => { x with rounds := [round .closed, { round m with roundId := 4 }] })


/-- A RECOVER window that displaces an older round, and one refused that displaces none. -/
theorem test_recover_opens :
    (FlightsOrdered (twoRounds .derived) ∧ Dispatches (twoRounds .derived) hdr (.windowOpen (openOps 1 100001 102000))) ∧
    (recoverWaits (part (twoRounds .derived) 0) 5 || (displaced (part (twoRounds .derived) 0) 5).any (fun r => recoveryInFlight (twoRounds .derived) 0 r.roundId)) = false ∧
    openAdmitted (displaceRounds (twoRounds .derived) 0 5) 0 (openOps 1 100001 102000) (ceilNs (instant (twoRounds .derived))) = true :=
  ⟨of_takes (by decide +kernel), by decide +kernel⟩

theorem test_recover_refused :
    (FlightsOrdered masked ∧ Dispatches masked hdr (.windowOpen (openOps 1 100001 102000))) ∧
    (recoverWaits (part masked 0) 5 || (displaced (part masked 0) 5).any (fun r => recoveryInFlight masked 0 r.roundId)) = false ∧
    openAdmitted (displaceRounds masked 0 5) 0 (openOps 1 100001 102000) (ceilNs (instant masked)) = false :=
  ⟨of_takes (by decide +kernel), by decide +kernel⟩

/-- WINDOW_CLOSE operands. -/
def closeOps (at_ : Nat) : WindowCloseOps := { roundId := 5, kind := 0, closeAt := at_, listAddr := inWin 0 }


theorem test_close_without_window :
    (FlightsOrdered masked ∧ Dispatches masked hdr (.windowClose (closeOps 0))) ∧
    windowFor (part masked 0) (kindOf (closeOps 0).kind) 5 = none :=
  ⟨of_takes (by decide +kernel), by decide +kernel⟩

theorem test_close_aborted :
    (FlightsOrdered (withWin masked .submit (win .submit .aborted)) ∧ Dispatches (withWin masked .submit (win .submit .aborted)) hdr (.windowClose (closeOps 0))) ∧
    windowFor (part (withWin masked .submit (win .submit .aborted)) 0) (kindOf (closeOps 0).kind) 5 = some (win .submit .aborted) :=
  ⟨of_takes (by decide +kernel), by decide +kernel⟩

theorem test_close_closed :
    (FlightsOrdered (withRound (withWin masked .submit { win .submit .closed with assigned := 3, acceptedAtClose := 2 }) { round .closed with survivors := [9, 4] }) ∧ Dispatches (withRound (withWin masked .submit { win .submit .closed with assigned := 3, acceptedAtClose := 2 }) { round .closed with survivors := [9, 4] }) hdr (.windowClose (closeOps 0))) ∧
    windowFor (part (withRound (withWin masked .submit { win .submit .closed with assigned := 3, acceptedAtClose := 2 }) { round .closed with survivors := [9, 4] }) 0) (kindOf (closeOps 0).kind) 5 = some { win .submit .closed with assigned := 3, acceptedAtClose := 2 } ∧
    addrFits (part (withRound (withWin masked .submit { win .submit .closed with assigned := 3, acceptedAtClose := 2 }) { round .closed with survivors := [9, 4] }) 0) (closeOps 0).listAddr (closeList (part (withRound (withWin masked .submit { win .submit .closed with assigned := 3, acceptedAtClose := 2 }) { round .closed with survivors := [9, 4] }) 0) { win .submit .closed with assigned := 3, acceptedAtClose := 2 }).length 1 = true :=
  ⟨of_takes (by decide +kernel), by decide +kernel⟩

theorem test_close_still_open :
    (FlightsOrdered (withWin masked .submit (win .submit .opened)) ∧ Dispatches (withWin masked .submit (win .submit .opened)) hdr (.windowClose (closeOps 150000))) ∧
    windowFor (part (withWin masked .submit (win .submit .opened)) 0) (kindOf (closeOps 150000).kind) 5 = some (win .submit .opened) ∧
    effectiveClose (win .submit .opened) 150000 (ceilNs (instant (withWin masked .submit (win .submit .opened)))) ≠ (win .submit .opened).opens :=
  ⟨of_takes (by decide +kernel), by decide +kernel⟩

theorem test_close_at_opening :
    (FlightsOrdered (withWin masked .submit { win .submit .scheduled with opens := 150000 }) ∧ Dispatches (withWin masked .submit { win .submit .scheduled with opens := 150000 }) hdr (.windowClose (closeOps 1))) ∧
    windowFor (part (withWin masked .submit { win .submit .scheduled with opens := 150000 }) 0) (kindOf (closeOps 1).kind) 5 = some { win .submit .scheduled with opens := 150000 } ∧
    effectiveClose { win .submit .scheduled with opens := 150000 } 1 (ceilNs (instant (withWin masked .submit { win .submit .scheduled with opens := 150000 }))) = 150000 :=
  ⟨of_takes (by decide +kernel), by decide +kernel⟩

/-- The instants of windows. -/
theorem test_scheduled_window :
    windowOf (part (withWin masked .submit { win .submit .scheduled with opens := 150000 }) 0) .submit = some { win .submit .scheduled with opens := 150000 } ∧
    ({ win .submit .scheduled with opens := 150000 } : Window).mode = .scheduled ∧
    settleTies (withWin masked .submit { win .submit .scheduled with opens := 150000 }) 150000 4 = reach (withWin masked .submit { win .submit .scheduled with opens := 150000 }) 150000 := by
  decide +kernel

theorem test_opened_window :
    windowOf (part (withWin masked .recover (win .recover .opened)) 0) .recover = some (win .recover .opened) ∧
    (win .recover .opened).mode = .opened := by
  decide +kernel

theorem test_closing_window :
    windowOf (part (withRound (withWin masked .submit { win .submit .closing with closes := 99000, assigned := 1, subs := [sub (some 0) (some .accepted)] }) (round .collecting)) 0) .submit = some { win .submit .closing with closes := 99000, assigned := 1, subs := [sub (some 0) (some .accepted)] } ∧
    closingDone { win .submit .closing with closes := 99000, assigned := 1, subs := [sub (some 0) (some .accepted)] } = true ∧
    frontiersPast (withRound (withWin masked .submit { win .submit .closing with closes := 99000, assigned := 1, subs := [sub (some 0) (some .accepted)] }) (round .collecting)) 0 99000 = true ∧
    flying (withRound (withWin masked .submit { win .submit .closing with closes := 99000, assigned := 1, subs := [sub (some 0) (some .accepted)] }) (round .collecting)) 0 = [] ∧
    (part (withRound (withWin masked .submit { win .submit .closing with closes := 99000, assigned := 1, subs := [sub (some 0) (some .accepted)] }) (round .collecting)) 0).regime = 1 ∧
    acceptedSubs { win .submit .closing with closes := 99000, assigned := 1, subs := [sub (some 0) (some .accepted)] } ≠ [] ∧
    roundOf (part (withRound (withWin masked .submit { win .submit .closing with closes := 99000, assigned := 1, subs := [sub (some 0) (some .accepted)] }) (round .collecting)) 0) 5 = some (round .collecting) := by
  decide +kernel

theorem test_closing_window_waits :
    windowOf (part (withWin masked .submit { win .submit .closing with closes := 99900 }) 0) .submit = some { win .submit .closing with closes := 99900 } ∧
    (closingDone { win .submit .closing with closes := 99900 } && frontiersPast (withWin masked .submit { win .submit .closing with closes := 99900 }) 0 99900) = false := by
  decide +kernel

/-- A WAIT_FT on ring 0 whose target is 100,500. -/
def waiting : State := withFlights masked [flightOf 3 hdr (.waitFt ⟨100500⟩) (.waitFt 100500) [] none]


theorem test_wait_expires :
    orderedB waiting = true ∧ flightOf 3 hdr (.waitFt ⟨100500⟩) (.waitFt 100500) [] none ∈ waiting.inflight ∧
    ∀ g ∈ waiting.inflight, g.h.p = 0 → g.h.ring = 0 → g.done = none → g = flightOf 3 hdr (.waitFt ⟨100500⟩) (.waitFt 100500) [] none := by
  decide +kernel

/-- A HINT whose ramp has not begun, and one that holds. -/
def hinted (ramping : Bool) : State :=
  modPart masked 0 (fun x => { x with hint := some { units := 8, rampAt := 100100, phaseAt := 100200, endAt := 100300, filler := 0, ramping := ramping, holding := ramping } })


theorem test_hint_ramps :
    ((part (hinted false) 0).hint.map (fun g => g.ramping)) = some false := by
  decide +kernel

theorem test_hint_holds :
    ((part (hinted true) 0).hint.map (fun g => g.holding)) = some true := by
  decide +kernel

/-! INGEST and numbering -/

/-- A masked submission's header for round 5 under the masked policy. -/
def maskedHeader (round : Nat) : Bytes :=
  natLe 2 0x0101 ++ natLe 1 1 ++ natLe 1 2 ++ natLe 4 9 ++ natLe 8 round ++ natLe 4 4096 ++ zeros 4 ++ natLe 8 16384 ++
    (partOf 1 2).digestPrefix ++ zeros 16

/-- A state with an open window, a list of one submission at window byte 0 and its header at 8192. -/
def listed (round : Nat) : State :=
  holding (holding (withWin masked .submit { win .submit .opened with closes := 100000 }) (inWin 0) (natLe 8 (inWin 8192))) (inWin 8192)
    (maskedHeader round)

/-- An INGEST of one item. -/
def oneItem : IngestOps := { roundId := 5, listAddr := inWin 0, count := 1, resultAddr := inWin 4096 }


/-- INGEST of one item that passes the checks, at the first instant of its window. -/
theorem test_item_passes :
    (FlightsOrdered (listed 5) ∧ Dispatches (listed 5) hdr (.ingest oneItem)) ∧ oneItem.count = 1 ∧
    headVerdict (part (listed 5) 0) (listedBytes (listed 5) 0 ((ingestList (listed 5) 0 oneItem).getD 0 0)) hdr.stamp (some 5) = none ∧
    addrFits (part (listed 5) 0) ((ingestList (listed 5) 0 oneItem).getD 0 0) (statedLen (listedBytes (listed 5) 0 ((ingestList (listed 5) 0 oneItem).getD 0 0))) 1 = true :=
  ⟨of_takes (by decide +kernel), by decide +kernel⟩

theorem test_item_wrong_round :
    (FlightsOrdered (listed 6) ∧ Dispatches (listed 6) hdr (.ingest oneItem)) ∧
    headVerdict (part (listed 6) 0) (listedBytes (listed 6) 0 ((ingestList (listed 6) 0 oneItem).getD 0 0)) hdr.stamp (some 5) = some .wrongRound :=
  ⟨of_takes (by decide +kernel), by decide +kernel⟩

/-- A stamp at the close is LATE. -/
theorem test_item_late :
    (FlightsOrdered (listed 5) ∧ Dispatches (listed 5) { hdr with stamp := ⟨100000, 0⟩ } (.ingest oneItem)) ∧
    headVerdict (part (listed 5) 0) (listedBytes (listed 5) 0 ((ingestList (listed 5) 0 oneItem).getD 0 0)) ⟨100000, 0⟩ (some 5) = some .late :=
  ⟨of_takes (by decide +kernel), by decide +kernel⟩

/-- A RECOVER WINDOW_OPEN that waited goes on. -/
theorem test_recover_open_resumes :
    orderedB (withFlights (withRound masked (round .closed)) [flightOf 3 hdr (.windowOpen (openOps 1 100000 101000)) .recoverWait [] none]) = true ∧
    flying (withFlights (withRound masked (round .closed)) [flightOf 3 hdr (.windowOpen (openOps 1 100000 101000)) .recoverWait [] none]) 0 = [flightOf 3 hdr (.windowOpen (openOps 1 100000 101000)) .recoverWait [] none] ∧
    (flightOf 3 hdr (.windowOpen (openOps 1 100000 101000)) .recoverWait [] none).phase = .recoverWait ∧
    (recoverWaits (part (withFlights (withRound masked (round .closed)) [flightOf 3 hdr (.windowOpen (openOps 1 100000 101000)) .recoverWait [] none]) 0) 5 || (displaced (part (withFlights (withRound masked (round .closed)) [flightOf 3 hdr (.windowOpen (openOps 1 100000 101000)) .recoverWait [] none]) 0) 5).any (fun r => recoveryInFlight (withFlights (withRound masked (round .closed)) [flightOf 3 hdr (.windowOpen (openOps 1 100000 101000)) .recoverWait [] none]) 0 r.roundId)) = false ∧
    openAdmitted (displaceRounds (withFlights (withRound masked (round .closed)) [flightOf 3 hdr (.windowOpen (openOps 1 100000 101000)) .recoverWait [] none]) 0 5) 0 (openOps 1 100000 101000) (ceilNs (instant (withFlights (withRound masked (round .closed)) [flightOf 3 hdr (.windowOpen (openOps 1 100000 101000)) .recoverWait [] none]))) = true := by
  decide +kernel

/-- A listed submission that has its number and has not landed. -/
def notLanded : Submission := { sub (some 0) (some .accepted) with ingestId := some 3, landed := false }

/-- The INGEST that lists it. -/
def ingesting (w : Window) : State :=
  withFlights (withWin masked .submit w) [{ flightOf 3 hdr (.ingest oneItem) (.ingest [0]) [] none with verdicts := [0] }]


theorem test_slot_resumes :
    orderedB (ingesting { win .submit .opened with assigned := 1, subs := [notLanded] }) = true ∧
    (part (ingesting { win .submit .opened with assigned := 1, subs := [notLanded] }) 0).submit = some { win .submit .opened with assigned := 1, subs := [] ++ [notLanded] } ∧
    (part (ingesting { win .submit .opened with assigned := 1, subs := [notLanded] }) 0).recover = none ∧
    notLanded.landed = false ∧ slotFree { win .submit .opened with assigned := 1, subs := [notLanded] } 0 = true ∧
    ∀ f ∈ flying (ingesting { win .submit .opened with assigned := 1, subs := [notLanded] }) 0, f.done = none ∧ f.phase = .ingest [0] := by
  decide +kernel

/-- A submission of the Shawl's window, waiting. -/
def unnumbered : Submission := { sub none none with ingestId := some 3, landed := false, header := maskedHeader 5 }


theorem test_number_assigned :
    (part (ingesting { win .submit .opened with waiting := [unnumbered] }) 0).submit = some { win .submit .opened with waiting := [unnumbered] } ∧
    (part (ingesting { win .submit .opened with waiting := [unnumbered] }) 0).recover = none ∧
    leastWaiting [unnumbered] = some unnumbered ∧
    belowFrontiers (ingesting { win .submit .opened with waiting := [unnumbered] }) 0 unnumbered = true ∧
    turnVerdict (ingesting { win .submit .opened with waiting := [unnumbered] }) 0 unnumbered = none ∧
    unnumbered.ingestId.isSome = true := by
  decide +kernel

/-- Of a later instant than the close it takes no number; with none waiting nothing is assigned. -/
theorem test_number_late :
    leastWaiting [{ unnumbered with stamp := ⟨200000, 0⟩ }] = some { unnumbered with stamp := ⟨200000, 0⟩ } ∧
    belowFrontiers (elapse (ingesting { win .submit .opened with waiting := [{ unnumbered with stamp := ⟨200000, 0⟩ }], closes := 200000 }) 200000) 0 { unnumbered with stamp := ⟨200000, 0⟩ } = true ∧
    turnVerdict (elapse (ingesting { win .submit .opened with waiting := [{ unnumbered with stamp := ⟨200000, 0⟩ }], closes := 200000 }) 200000) 0 { unnumbered with stamp := ⟨200000, 0⟩ } ≠ none ∧
    leastWaiting (((part masked 0).submit.map (fun y => y.waiting)).getD [] ++ ((part masked 0).recover.map (fun y => y.waiting)).getD []) = none := by
  decide +kernel

/-- A RECOVER WINDOW_OPEN that must still wait, and one that is refused. -/
theorem test_recover_still_waits :
    orderedB (withFlights (withWin masked .submit (win .submit .closing)) [flightOf 3 hdr (.windowOpen (openOps 1 100000 101000)) .recoverWait [] none]) = true ∧
    (recoverWaits (part (withFlights (withWin masked .submit (win .submit .closing)) [flightOf 3 hdr (.windowOpen (openOps 1 100000 101000)) .recoverWait [] none]) 0) 5 || (displaced (part (withFlights (withWin masked .submit (win .submit .closing)) [flightOf 3 hdr (.windowOpen (openOps 1 100000 101000)) .recoverWait [] none]) 0) 5).any (fun r => recoveryInFlight (withFlights (withWin masked .submit (win .submit .closing)) [flightOf 3 hdr (.windowOpen (openOps 1 100000 101000)) .recoverWait [] none]) 0 r.roundId)) = true ∧
    (recoverWaits (part masked 0) 5 || (displaced (part masked 0) 5).any (fun r => recoveryInFlight masked 0 r.roundId)) = false ∧
    openAdmitted (displaceRounds masked 0 5) 0 (openOps 1 100000 101000) (ceilNs (instant masked)) = false := by
  decide +kernel

/-- The list of a CLOSED window does not fit at the window's last byte. -/
theorem test_close_list_unfit :
    (FlightsOrdered (withRound (withWin masked .submit { win .submit .closed with assigned := 3, acceptedAtClose := 2 }) { round .closed with survivors := [9, 4] }) ∧ Dispatches (withRound (withWin masked .submit { win .submit .closed with assigned := 3, acceptedAtClose := 2 }) { round .closed with survivors := [9, 4] }) hdr (.windowClose { closeOps 0 with listAddr := inWin (2 ^ 31 - 16) })) ∧
    addrFits (part (withRound (withWin masked .submit { win .submit .closed with assigned := 3, acceptedAtClose := 2 }) { round .closed with survivors := [9, 4] }) 0) (inWin (2 ^ 31 - 16)) (closeList (part (withRound (withWin masked .submit { win .submit .closed with assigned := 3, acceptedAtClose := 2 }) { round .closed with survivors := [9, 4] }) 0) { win .submit .closed with assigned := 3, acceptedAtClose := 2 }).length 1 = false :=
  ⟨of_takes (by decide +kernel), by decide +kernel⟩

/-! Submissions of the Shawl, rings and completions -/

/-- A port that carries packets; type 2 is an edge port. -/
def upPort (type_ : Nat) : Port := { mode := .up, partnerType := type_ }

/-- A state with ports 0 (torus) and 1 (edge) up. -/
def linked (s : State) : State := { s with shawl := { s.shawl with ports := [(0, upPort 0), (1, upPort 2)], tables := [(0, 0xE)] } }

/-- A packet to partition 0 of module 0. -/
def packet (ty : Nat) (body payload : Bytes) (last : Bool) : Packet :=
  { ptype := ty, vc := 2 * packetClass ty, gen := 1, dst := 0, src := 4096, first := true, last := last, enc := false, body := body,
    keyId := 0, ctr := 0, payload := payload, tag := [] }

/-- The first packet of a masked submission, from the bridge on port 1. -/
def firstSub : Arrival := { port := 1, dt := 10, frac := 7, pkt := packet 4 (natLe 3 77 ++ zeros 13) (maskedHeader 5) false }


/-- The first packet of a submission that passes the checks. -/
theorem test_sub_first :
    (arrivalVerdict (linked (withWin masked .submit (win .submit .opened))) firstSub 4 = .here (recv (arrivalVerdict (linked (withWin masked .submit (win .submit .opened))) firstSub 4)) (recvStamp (arrivalVerdict (linked (withWin masked .submit (win .submit .opened))) firstSub 4)) (recvBytes (arrivalVerdict (linked (withWin masked .submit (win .submit .opened))) firstSub 4)) (recvKey (arrivalVerdict (linked (withWin masked .submit (win .submit .opened))) firstSub 4))) ∧
    routeOf (linked (withWin masked .submit (win .submit .opened))) (fillEntry (linked (withWin masked .submit (win .submit .opened))) 1 firstSub.pkt).dst = some 6 ∧
    (fillEntry (linked (withWin masked .submit (win .submit .opened))) 1 firstSub.pkt).first = true ∧
    64 ≤ (fillEntry (linked (withWin masked .submit (win .submit .opened))) 1 firstSub.pkt).payload.length ∧
    headerLen (fillEntry (linked (withWin masked .submit (win .submit .opened))) 1 firstSub.pkt).payload ≤ (fillEntry (linked (withWin masked .submit (win .submit .opened))) 1 firstSub.pkt).payload.length ∧
    packetOffset (fillEntry (linked (withWin masked .submit (win .submit .opened))) 1 firstSub.pkt) = 0 ∧
    (fillEntry (linked (withWin masked .submit (win .submit .opened))) 1 firstSub.pkt).payload.length ≤ statedLen (fillEntry (linked (withWin masked .submit (win .submit .opened))) 1 firstSub.pkt).payload ∧
    (fillEntry (linked (withWin masked .submit (win .submit .opened))) 1 firstSub.pkt).last = false ∧
    headVerdict (part (linked (withWin masked .submit (win .submit .opened))) 0) (fillEntry (linked (withWin masked .submit (win .submit .opened))) 1 firstSub.pkt).payload (recvStamp (arrivalVerdict (linked (withWin masked .submit (win .submit .opened))) firstSub 4)) none = none ∧
    windowOf (part (linked (withWin masked .submit (win .submit .opened))) 0) (formatKind (field (fillEntry (linked (withWin masked .submit (win .submit .opened))) 1 firstSub.pkt).payload 0 2)) = some (win .submit .opened) ∧
    flying (linked (withWin masked .submit (win .submit .opened))) 0 = [] :=
  ⟨of_here (by decide +kernel), by decide +kernel⟩

/-- A reply leaves by the edge port its body names. -/
theorem test_sub_reply :
    packetFormOk (packet 5 (zeros 3 ++ natLe 1 1 ++ zeros 12) [] true) 5 = true ∧
    routeOf (linked masked) (packet 5 (zeros 3 ++ natLe 1 1 ++ zeros 12) [] true).dst = some 6 ∧
    field (packet 5 (zeros 3 ++ natLe 1 1 ++ zeros 12) [] true).body 3 1 = 1 ∧ replyPort (linked masked) 1 = true := by
  decide +kernel

/-- A numbered submission and a waiting one that are being received. -/
def receiving (n : Option Nat) : Submission := { sub n (n.map (fun _ => .accepted)) with complete := false, lastPacket := 99000 }


/-- The packets of a submission stop. -/
theorem test_gap_numbered :
    oldestUnfinished (unfinished (part (withWin masked .submit { win .submit .opened with assigned := 1, subs := [receiving (some 0)] }) 0)) = some (.submit, receiving (some 0)) ∧
    windowOf (part (withWin masked .submit { win .submit .opened with assigned := 1, subs := [receiving (some 0)] }) 0) .submit = some { win .submit .opened with assigned := 1, subs := [receiving (some 0)] } ∧
    (receiving (some 0)).verdict = some .accepted ∧
    flying (withWin masked .submit { win .submit .opened with assigned := 1, subs := [receiving (some 0)] }) 0 = [] ∧
    (receiving (some 0)).lastPacket + packetGap < 2 ^ 64 := by
  decide +kernel

theorem test_gap_waiting :
    oldestUnfinished (unfinished (part (withWin masked .submit { win .submit .opened with waiting := [receiving none] }) 0)) = some (.submit, receiving none) ∧
    receiving none ∈ ({ win .submit .opened with waiting := [receiving none] } : Window).waiting ∧
    windowOf (part (withWin masked .submit { win .submit .opened with waiting := [receiving none] }) 0) .submit = some { win .submit .opened with waiting := [receiving none] } ∧
    flying (withWin masked .submit { win .submit .opened with waiting := [receiving none] }) 0 = [] := by
  decide +kernel

/-- A state with submission ring 0 of 64 entries that holds `q`, served by a completion ring 0 of 64 entries that is enabled. -/
def ringed (q : SqRing) : State :=
  setReg (setReg (modSq masked 0 0 (fun _ => q)) (.sqCtrl 0 0) (6 * 2 ^ 16 + 1)) (.cqCtrl 0 0) (6 * 2 ^ 16 + 3)


/-- An IDLE ring is invalidated. -/
theorem test_ring_invalidated :
    (sqOf (ringed { mode := .idle }) 0 0).mode ≠ .disabled ∧ (sqOf (ringed { mode := .idle }) 0 0).mode ≠ .stopped := by
  decide +kernel

/-- A tail 65 past what is fetched, and one 64 past it. -/
theorem test_tail_beyond :
    (sqOf (ringed { mode := .fetch, reads := [⟨95000, 0⟩] }) 0 0).reads = ⟨95000, 0⟩ :: [] ∧
    (sqOf (ringed { mode := .fetch, reads := [⟨95000, 0⟩] }) 0 0).mode ≠ .disabled ∧
    sqSize (ringed { mode := .fetch, reads := [⟨95000, 0⟩] }) 0 0 < countDiff (65 % 2 ^ 32) (sqOf (ringed { mode := .fetch, reads := [⟨95000, 0⟩] }) 0 0).fetched ∧
    logRuns (ringed { mode := .fetch, reads := [⟨95000, 0⟩] }) = true ∧
    ∀ e ∈ (ringed { mode := .fetch, reads := [⟨95000, 0⟩] }).faults.log, e.code ≠ 0x62 := by
  decide +kernel

theorem test_tail_fits :
    (sqOf (ringed { mode := .fetch, reads := [⟨95000, 0⟩] }) 0 0).reads = ⟨95000, 0⟩ :: [] ∧
    countDiff (64 % 2 ^ 32) (sqOf (ringed { mode := .fetch, reads := [⟨95000, 0⟩] }) 0 0).fetched ≤ sqSize (ringed { mode := .fetch, reads := [⟨95000, 0⟩] }) 0 0 ∧
    countDiff (64 % 2 ^ 32) (sqOf (ringed { mode := .fetch, reads := [⟨95000, 0⟩] }) 0 0).lastTail ≠ 0 := by
  decide +kernel

/-- A NOP descriptor's bytes. -/
def nopBytes : Bytes := natLe 1 0 ++ natLe 1 1 ++ zeros 62


/-- A burst of one descriptor that fills the buffer. -/
theorem test_burst_fits :
    (sqOf (ringed { mode := .fetch, lastTail := 32, batches := [⟨⟨95000, 0⟩, 32⟩], fetched := 31, buffer := List.replicate 31 { h := hdr, body := .nop, waited := false } }) 0 0).mode = .fetch ∧
    dispatchOpen (ringed { mode := .fetch, lastTail := 32, batches := [⟨⟨95000, 0⟩, 32⟩], fetched := 31, buffer := List.replicate 31 { h := hdr, body := .nop, waited := false } }) 0 = true ∧
    (sqOf (ringed { mode := .fetch, lastTail := 32, batches := [⟨⟨95000, 0⟩, 32⟩], fetched := 31, buffer := List.replicate 31 { h := hdr, body := .nop, waited := false } }) 0 0).batches = ⟨⟨95000, 0⟩, 32⟩ :: [] ∧
    (sqOf (ringed { mode := .fetch, lastTail := 32, batches := [⟨⟨95000, 0⟩, 32⟩], fetched := 31, buffer := List.replicate 31 { h := hdr, body := .nop, waited := false } }) 0 0).fetched < 2 ^ 32 ∧
    [nopBytes].length ≤ bufferRoom (sqOf (ringed { mode := .fetch, lastTail := 32, batches := [⟨⟨95000, 0⟩, 32⟩], fetched := 31, buffer := List.replicate 31 { h := hdr, body := .nop, waited := false } }) 0 0) ∧
    [nopBytes].length ≤ unfetched (sqOf (ringed { mode := .fetch, lastTail := 32, batches := [⟨⟨95000, 0⟩, 32⟩], fetched := 31, buffer := List.replicate 31 { h := hdr, body := .nop, waited := false } }) 0 0) ∧
    [nopBytes].length ≤ countDiff 32 (sqOf (ringed { mode := .fetch, lastTail := 32, batches := [⟨⟨95000, 0⟩, 32⟩], fetched := 31, buffer := List.replicate 31 { h := hdr, body := .nop, waited := false } }) 0 0).fetched := by
  decide +kernel

/-- A dispatch slot with one ready head, and one with none. -/
theorem test_slot_serves :
    dispatchOpen (elapseTo (ringed { mode := .idle, buffer := [{ h := hdr, body := .nop, waited := false }] }) 5 3) 0 = true ∧
    ∀ r : Nat, r < 8 → r ≠ 0 → (sqOf (elapseTo (ringed { mode := .idle, buffer := [{ h := hdr, body := .nop, waited := false }] }) 5 3) 0 r).buffer = [] ∧
    (sqOf (elapseTo (ringed { mode := .idle, buffer := [{ h := hdr, body := .nop, waited := false }] }) 5 3) 0 (((part (elapseTo (ringed { mode := .idle, buffer := [{ h := hdr, body := .nop, waited := false }] }) 5 3) 0).lastRing + 1 + 0) % 8)).buffer = { h := hdr, body := .nop, waited := false } :: [] ∧
    takes (elapseTo (ringed { mode := .idle, buffer := [{ h := hdr, body := .nop, waited := false }] }) 5 3) hdr .nop = true ∧
    headReady (elapseTo (ringed { mode := .idle, buffer := [{ h := hdr, body := .nop, waited := false }] }) 5 3) 0 (((part (elapseTo (ringed { mode := .idle, buffer := [{ h := hdr, body := .nop, waited := false }] }) 5 3) 0).lastRing + 1 + 0) % 8) = true := by
  decide +kernel

theorem test_slot_idles :
    dispatchOpen (elapseTo (ringed { mode := .idle }) 5 3) 0 = true ∧
    ∀ r : Nat, r < 8 → (sqOf (elapseTo (ringed { mode := .idle }) 5 3) 0 r).buffer = [] ∧
    ∀ r : Nat, r < 8 → headReady (elapseTo (ringed { mode := .idle }) 5 3) 0 r = false := by
  decide +kernel

/-- A NOP that is done. -/
def doneNop : InFlight := flightOf 3 hdr .nop .running [] (some { status := 0, result := 0, faultRef := 0, ft := 99000 })


/-- A descriptor that is done with room in its completion ring. -/
theorem test_record_written :
    flying (withFlights (ringed { mode := .idle }) [doneNop]) 0 = [doneNop] ∧
    doneNop.done = some { status := 0, result := 0, faultRef := 0, ft := 99000 } ∧
    (part (withFlights (ringed { mode := .idle }) [doneNop]) 0).landings = [] ∧
    (bvBit doneNop.h.hflags 2 && (0 : Nat) == stOk) = false ∧
    cqRoom (withFlights (ringed { mode := .idle }) [doneNop]) 0 (cqOfRing (withFlights (ringed { mode := .idle }) [doneNop]) 0 doneNop.h.ring.val) = true ∧
    (cqOf (withFlights (ringed { mode := .idle }) [doneNop]) 0 (cqOfRing (withFlights (ringed { mode := .idle }) [doneNop]) 0 doneNop.h.ring.val)).held = [] := by
  decide +kernel

/-- A moderation timer and credits. -/
theorem test_timer_runs_out :
    (cqOf (setReg (modCq (ringed {}) 0 0 (fun q => { q with timerFrom := some 99000, sinceIrq := 3 })) (.cqMod 0 0) (2 ^ 16)) 0 0).timerFrom = some 99000 ∧
    regField (setReg (modCq (ringed {}) 0 0 (fun q => { q with timerFrom := some 99000, sinceIrq := 3 })) (.cqMod 0 0) (2 ^ 16)) (.cqMod 0 0) 31 16 ≠ 0 ∧
    regField (setReg (modCq (ringed {}) 0 0 (fun q => { q with timerFrom := some 99000, sinceIrq := 3 })) (.cqMod 0 0) (2 ^ 16)) (.cqCtrl 0 0) 1 1 = 1 := by
  decide +kernel

/-- A record that a full completion ring holds. -/
def heldRecord : Record :=
  { tag := 7, slot := 0, status := 0, gen := 1, result := 0, ftDone := 99000, opcode := 0, ring := 0, irq := false, faultRef := 0 }


/-- A credit line gives room for one held record. -/
theorem test_credit_frees :
    (cqOf (modCq (ringed {}) 0 0 (fun q => { q with count := 64, held := [heldRecord] })) 0 0).held = [heldRecord] ∧
    heldRecord.ring ≠ noticeRing ∧
    regField (modCq (ringed {}) 0 0 (fun q => { q with count := 64, held := [heldRecord] })) (.cqCtrl 0 0) 0 0 = 1 ∧
    countDiff (cqOf (modCq (ringed {}) 0 0 (fun q => { q with count := 64, held := [heldRecord] })) 0 0).count 1 < cqSize (modCq (ringed {}) 0 0 (fun q => { q with count := 64, held := [heldRecord] })) 0 0 := by
  decide +kernel

/-- The other clauses of the ring statements: a ring DISABLED, a partition that dispatches nothing, a head that waited. -/
theorem test_ring_clauses :
    (sqOf (ringed { mode := .disabled }) 0 0).mode = .disabled ∧ dispatchOpen (elapseTo State.reset 5 3) 0 = false ∧
    dispatchOpen (elapseTo (ringed { mode := .idle, buffer := [{ h := hdr, body := .nop, waited := true }] }) 5 3) 0 = true ∧
    pickRing ((List.range 8).foldl (fun t r => markWaiting t 0 r) (elapseTo (ringed { mode := .idle, buffer := [{ h := hdr, body := .nop, waited := true }] }) 5 3)) 0 = some 0 ∧
    firstDone ((flying (ringed { mode := .disabled }) 0).filter (postable (ringed { mode := .disabled }))) = none ∧
    (cqOf (ringed { mode := .disabled }) 0 0).timerFrom = none ∧ (cqOf (ringed { mode := .disabled }) 0 0).held = [] ∧
    unfinished (part (ringed { mode := .disabled }) 0) = [] := by
  decide +kernel

/-- A quiet record, one that waits behind others, and held records without room. -/
theorem test_record_clauses :
    firstDone ((flying (modCq (withFlights (ringed { mode := .idle }) [doneNop]) 0 0 (fun q => { q with count := 64, held := [heldRecord] })) 0).filter (postable (modCq (withFlights (ringed { mode := .idle }) [doneNop]) 0 0 (fun q => { q with count := 64, held := [heldRecord] })))) = some doneNop ∧
    quietOk doneNop ⟨stOk, 0, 0, 99000⟩ = false ∧
    cqRoom (modCq (withFlights (ringed { mode := .idle }) [doneNop]) 0 0 (fun q => { q with count := 64, held := [heldRecord] })) 0 (cqOfRing (modCq (withFlights (ringed { mode := .idle }) [doneNop]) 0 0 (fun q => { q with count := 64, held := [heldRecord] })) 0 0) = false ∧
    (cqOf (modCq (withFlights (ringed { mode := .idle }) [doneNop]) 0 0 (fun q => { q with count := 64, held := [heldRecord] })) 0 (cqOfRing (modCq (withFlights (ringed { mode := .idle }) [doneNop]) 0 0 (fun q => { q with count := 64, held := [heldRecord] })) 0 0)).held.length < 256 ∧
    quietOk { doneNop with h := { hdr with hflags := 4 } } ⟨stOk, 0, 0, 99000⟩ = true ∧
    (cqOf (modCq (withFlights (ringed { mode := .idle }) [doneNop]) 0 0 (fun q => { q with count := 64, held := [heldRecord] })) 0 0).held ≠ [] ∧
    cqSize (modCq (withFlights (ringed { mode := .idle }) [doneNop]) 0 0 (fun q => { q with count := 64, held := [heldRecord] })) 0 0 ≤ countDiff (cqOf (modCq (withFlights (ringed { mode := .idle }) [doneNop]) 0 0 (fun q => { q with count := 64, held := [heldRecord] })) 0 0).count 0 := by
  decide +kernel

/-- A submission for a partition that is FREE. -/
theorem test_sub_gone :
    routeOf (linked State.reset) (fillEntry (linked State.reset) 1 firstSub.pkt).dst = some 6 ∧
    isHere (arrivalVerdict (linked State.reset) firstSub 4) = false := by
  decide +kernel

/-! Tiles -/

/-- A state with two submission-sized arrays named by a list at DRAM byte 1,048,576. -/
def listing (s : State) : State := holding (holding s 0x100000 (natLe 8 0x200000 ++ natLe 8 0x400000)) 0x200000 (natLe 4 5 ++ natLe 4 0xFFFFFFFF)

/-- A state with metadata of units of partition 0. -/
def tiled (s : State) (ms : List (Nat × TileMeta)) : State := { s with tiles := ms }

/-- ACCUMULATE operands of one tile of 64 bits at unit 0. -/
def accOps (kind mode srcWidth src first count : Nat) (flags : BitVec 8) : AccOps :=
  { dstTile := 0, tileCount := 1, width := 2, mode := mode, srcKind := kind, srcWidth := srcWidth, coordTile := 0, src := src,
    first := first, count := count, modulus := 0, splitWays := 8, flags := flags }


/-- ACCUMULATE with init from a list of two, and its first pass on tiles that do not carry its tag. -/
theorem test_acc_list :
    (FlightsOrdered (listing masked) ∧ Dispatches (listing masked) hdr (.accumulate (accOps 1 2 1 0x100000 7 2 1))) ∧
    (accOps 1 2 1 0x100000 7 2 1).srcKind = 1 ∧
    planOk (takenUp (listing masked) hdr (.accumulate (accOps 1 2 1 0x100000 7 2 1))) 0 0 (tileUnits 64) 1 8 = true ∧
    (unitMeta (takenUp (listing masked) hdr (.accumulate (accOps 1 2 1 0x100000 7 2 1))) 0 0).state ≠ .plain :=
  ⟨of_takes (by decide +kernel), by decide +kernel⟩

/-- Without init, onto a committed tile of the mode. -/
theorem test_acc_list_again :
    (FlightsOrdered (tiled (listing masked) [(0, { state := .plain, width := 64, mode := .sats, passTag := 6, count := 1 })]) ∧ Dispatches (tiled (listing masked) [(0, { state := .plain, width := 64, mode := .sats, passTag := 6, count := 1 })]) hdr (.accumulate (accOps 1 2 1 0x100000 7 2 0))) ∧
    accTileOk (unitMeta (takenUp (tiled (listing masked) [(0, { state := .plain, width := 64, mode := .sats, passTag := 6, count := 1 })]) hdr (.accumulate (accOps 1 2 1 0x100000 7 2 0))) 0 0) (accOps 1 2 1 0x100000 7 2 0) none = true ∧
    (unitMeta (takenUp (tiled (listing masked) [(0, { state := .plain, width := 64, mode := .sats, passTag := 6, count := 1 })]) hdr (.accumulate (accOps 1 2 1 0x100000 7 2 0))) 0 0).passTag ≠ 7 :=
  ⟨of_takes (by decide +kernel), by decide +kernel⟩

theorem test_acc_without_window :
    (FlightsOrdered (run (partOf 1 3)) ∧ Dispatches (run (partOf 1 3)) hdr (.accumulate (accOps 0 0 2 5 0 1 1))) ∧
    (windowFor (part (run (partOf 1 3)) 0) .submit 5).filter Window.readable = none :=
  ⟨of_takes (by decide +kernel), by decide +kernel⟩

theorem test_acc_window_waits :
    (FlightsOrdered (withWin (run (partOf 1 3)) .submit (win .submit .opened)) ∧ Dispatches (withWin (run (partOf 1 3)) .submit (win .submit .opened)) hdr (.accumulate (accOps 0 0 2 5 0 1 1))) ∧
    (windowFor (part (withWin (run (partOf 1 3)) .submit (win .submit .opened)) 0) .submit 5).filter Window.readable = some (win .submit .opened) ∧
    rangeReady (win .submit .opened) 0 1 = false ∧
    planOk (takenUp (withWin (run (partOf 1 3)) .submit (win .submit .opened)) hdr (.accumulate (accOps 0 0 2 5 0 1 1))) 0 0 (tileUnits 64) 1 8 = true :=
  ⟨of_takes (by decide +kernel), by decide +kernel⟩

/-- A window with one accepted submission that has landed. -/
def oneLanded (k : WinKind) (b : Submission) : Window := { win k .opened with assigned := 1, subs := [b] }


theorem test_acc_window :
    (FlightsOrdered (holding (withWin (run (partOf 1 3)) .submit (oneLanded .submit (sub (some 0) (some .accepted)))) (2 ^ 20 + 64) (natLe 8 77)) ∧ Dispatches (holding (withWin (run (partOf 1 3)) .submit (oneLanded .submit (sub (some 0) (some .accepted)))) (2 ^ 20 + 64) (natLe 8 77)) hdr (.accumulate (accOps 0 0 2 5 0 1 1))) ∧
    (windowFor (part (holding (withWin (run (partOf 1 3)) .submit (oneLanded .submit (sub (some 0) (some .accepted)))) (2 ^ 20 + 64) (natLe 8 77)) 0) .submit 5).filter Window.readable = some (oneLanded .submit (sub (some 0) (some .accepted))) ∧
    rangeReady (oneLanded .submit (sub (some 0) (some .accepted))) 0 1 = true ∧
    (part (holding (withWin (run (partOf 1 3)) .submit (oneLanded .submit (sub (some 0) (some .accepted)))) (2 ^ 20 + 64) (natLe 8 77)) 0).regime ≠ 3 ∧
    planOk (takenUp (holding (withWin (run (partOf 1 3)) .submit (oneLanded .submit (sub (some 0) (some .accepted)))) (2 ^ 20 + 64) (natLe 8 77)) hdr (.accumulate (accOps 0 0 2 5 0 1 1))) 0 0 (tileUnits 64) 1 8 = true :=
  ⟨of_takes (by decide +kernel), by decide +kernel⟩

/-- A 32-bit tile at unit 0. -/
def words (mark : Bool) : State := tiled masked [(0, { state := .plain, width := 32, mode := .sats, mark := mark }), (1, { state := .plain, width := 32, mode := .sats, mark := mark })]

/-- ACC_DRAIN operands. -/
def drainOps (n : Nat) (flags : BitVec 8) : DrainOps :=
  { srcTile := 0, tileCount := 1, dst := if flags = 8 then 0x100000 else 64, scale := 0, bias := 0, actParam := 0, activation := 0, outFormat := 0,
    fracBits := 0, flags := flags, elemCount := n }


/-- ACC_DRAIN of no element, of one to the Pocket, and of one to DRAM. -/
theorem test_drain_none :
    (FlightsOrdered (words false) ∧ Dispatches (words false) hdr (.accDrain (drainOps 0 0))) ∧
    planOk (takenUp (words false) hdr (.accDrain (drainOps 0 0))) 0 0 (tileUnits (rangeWidth (takenUp (words false) hdr (.accDrain (drainOps 0 0))) 0 0)) 0 1 = true ∧
    (drainOps 0 0).elemCount = 0 :=
  ⟨of_takes (by decide +kernel), by decide +kernel⟩

theorem test_drain_pocket :
    (FlightsOrdered (words true) ∧ Dispatches (words true) hdr (.accDrain (drainOps 4096 0))) ∧
    planOk (takenUp (words true) hdr (.accDrain (drainOps 4096 0))) 0 0 (tileUnits (rangeWidth (takenUp (words true) hdr (.accDrain (drainOps 4096 0))) 0 0)) 1 1 = true ∧
    0 < (drainOps 4096 0).elemCount :=
  ⟨of_takes (by decide +kernel), by decide +kernel⟩

theorem test_drain_dram :
    (FlightsOrdered (words false) ∧ Dispatches (words false) hdr (.accDrain (drainOps 1 8))) ∧ 0 < (drainOps 1 8).elemCount :=
  ⟨of_takes (by decide +kernel), by decide +kernel⟩

/-- STATS operands over a list of two. -/
def statsOps (flags : BitVec 8) : StatsOps :=
  { srcKind := 1, srcWidth := 1, flags := flags, tileA := 0, tileB := 8, tileCount := 1, src := 0x100000, first := 7, count := 2,
    resultAddr := 0x800000, eps := 0, fracBits := 8 }


/-- SUMSQ and MOMENTS over a list, FINISH and RSQRT. -/
theorem test_sumsq_list :
    (FlightsOrdered (listing sealed_) ∧ Dispatches (listing sealed_) hdr (.statsSumsq (statsOps 0))) ∧
    (statsOps 0).srcKind ≠ 0 ∧ 0 < (statsOps 0).count ∧ inWindow (statsOps 0).resultAddr = false :=
  ⟨of_takes (by decide +kernel), by decide +kernel⟩

theorem test_moments_list :
    (FlightsOrdered (listing sealed_) ∧ Dispatches (listing sealed_) hdr (.statsMoments (statsOps 1))) ∧
    bvBit (statsOps 1).flags 0 = true ∧ planOk (takenUp (listing sealed_) hdr (.statsMoments (statsOps 1))) 0 0 4 1 1 = true ∧
    (unitMeta (takenUp (listing sealed_) hdr (.statsMoments (statsOps 1))) 0 0).state ≠ .plain :=
  ⟨of_takes (by decide +kernel), by decide +kernel⟩

/-- SUMSQ over a window of sealed submissions, each opened and clipped. -/
def sealedSummand : Submission :=
  { sub (some 0) (some .accepted) with decapsulated := true, final := true, stage := some 0, clip := some { within := true, rm := 0, re := 0, scaled := [] } }


theorem test_sumsq_window :
    (FlightsOrdered (withWin sealed_ .submit { oneLanded .submit sealedSummand with stageFirst := some 128, stageSlots := 1, stageUnits := 2 }) ∧ Dispatches (withWin sealed_ .submit { oneLanded .submit sealedSummand with stageFirst := some 128, stageSlots := 1, stageUnits := 2 }) hdr (.statsSumsq { statsOps 0 with srcKind := 0, src := 5, first := 0, count := 1 })) ∧
    rangeReady { oneLanded .submit sealedSummand with stageFirst := some 128, stageSlots := 1, stageUnits := 2 } 0 1 = true ∧
    sealedReady (part (withWin sealed_ .submit { oneLanded .submit sealedSummand with stageFirst := some 128, stageSlots := 1, stageUnits := 2 }) 0) sealedSummand = true ∧
    0 < (acceptedRange { oneLanded .submit sealedSummand with stageFirst := some 128, stageSlots := 1, stageUnits := 2 } 0 1).length :=
  ⟨of_takes (by decide +kernel), by decide +kernel⟩

/-- Moments of three summands in tiles 0 and 8. -/
def moments (n : Nat) : State :=
  tiled (holding (holding sealed_ (pocketAddr 0) (natLe 8 6)) (pocketAddr 8) (natLe 8 14))
    ([0, 1, 2, 3, 8, 9, 10, 11].map (fun u => (u, { state := .plain, width := 64, mode := .sats, count := n })))


theorem test_finish_counts :
    (FlightsOrdered (moments 3) ∧ Dispatches (moments 3) hdr (.statsFinish (statsOps 0))) ∧
    planOk (takenUp (moments 3) hdr (.statsFinish (statsOps 0))) 0 0 4 1 1 = true ∧
    (unitMeta (takenUp (moments 3) hdr (.statsFinish (statsOps 0))) 0 0).count = 3 ∧
    (unitMeta (takenUp (moments 3) hdr (.statsFinish (statsOps 0))) 0 0).mode = .sats ∧
    (unitMeta (takenUp (moments 3) hdr (.statsFinish (statsOps 0))) 0 8).count ≠ 0 :=
  ⟨of_takes (by decide +kernel), by decide +kernel⟩

theorem test_finish_empty :
    (FlightsOrdered (moments 0) ∧ Dispatches (moments 0) hdr (.statsFinish (statsOps 0))) ∧
    (unitMeta (takenUp (moments 0) hdr (.statsFinish (statsOps 0))) 0 0).count = 0 :=
  ⟨of_takes (by decide +kernel), by decide +kernel⟩

theorem test_rsqrt_tile :
    (FlightsOrdered (holding sealed_ (pocketAddr 0) (natLe 4 1024)) ∧ Dispatches (holding sealed_ (pocketAddr 0) (natLe 4 1024)) hdr (.statsRsqrt (statsOps 0))) ∧
    planOk (takenUp (holding sealed_ (pocketAddr 0) (natLe 4 1024)) hdr (.statsRsqrt (statsOps 0))) 0 0 2 1 1 = true :=
  ⟨of_takes (by decide +kernel), by decide +kernel⟩

/-- RANK operands. -/
def rankOps : RankOps := { srcTile := 0, tileCount := 1, elemCount := 3, k := 2, lapelSleeve := 0, flags := 0, dstAddr := 0x800000 }


/-- RANK with its Lapel unit, and without. -/
theorem test_rank_usable :
    (FlightsOrdered (holding (words false) (pocketAddr 0) (natLe 4 5 ++ natLe 4 0xFFFFFFFF ++ natLe 4 9)) ∧ Dispatches (holding (words false) (pocketAddr 0) (natLe 4 5 ++ natLe 4 0xFFFFFFFF ++ natLe 4 9)) hdr (.rank rankOps)) ∧
    lapelUsable (takenUp (holding (words false) (pocketAddr 0) (natLe 4 5 ++ natLe 4 0xFFFFFFFF ++ natLe 4 9)) hdr (.rank rankOps)) 0 = true ∧
    inWindow rankOps.dstAddr = false :=
  ⟨of_takes (by decide +kernel), by decide +kernel⟩

theorem test_rank_lost :
    (FlightsOrdered ({ words false with sleeves := [(0, { lapelRetired := true })] }) ∧ Dispatches ({ words false with sleeves := [(0, { lapelRetired := true })] }) hdr (.rank rankOps)) ∧
    lapelUsable (takenUp ({ words false with sleeves := [(0, { lapelRetired := true })] }) hdr (.rank rankOps)) 0 = false :=
  ⟨of_takes (by decide +kernel), by decide +kernel⟩

/-- A pass of engine 0 that writes 64 bytes of DRAM. -/
def pass (finished : Bool) : TileJob := { byteJob masked 0 0x100000 (List.replicate 64 7#8) false false with passDone := finished, startFt := 99000 }

/-- A RANK with one pass, and a transform, whose passes check a residue. -/
def passing (finished : Bool) : InFlight := flightOf 3 hdr (.rank rankOps) .running [pass finished] none
def checking (mismatched : Bool) : InFlight :=
  { passing false with opcode := 0x48, jobs := [{ pass false with mismatched := mismatched }] }


/-- A pass ends; with a mismatch it runs again and, the second time, the slot fails; the oldest finished pass commits, by its own engine. -/
theorem test_pass_ends :
    runningPass (withFlights masked [passing false]) 0 = some (passing false, pass false) ∧
    checksResidue (passing false).opcode = false := by
  decide +kernel

theorem test_pass_mismatch_first :
    runningPass (withFlights masked [checking false]) 0 = some (checking false, pass false) ∧
    checksResidue (checking false).opcode = true ∧ (pass false).mismatched = false := by
  decide +kernel

theorem test_pass_mismatch_second :
    runningPass (withFlights masked [checking true]) 0 = some (checking true, { pass false with mismatched := true }) := by
  decide +kernel

theorem test_pass_stalls :
    runningPass (withFlights masked [passing true]) 0 = none := by
  decide +kernel

theorem test_pass_commits :
    orderedB (withFlights masked [passing true]) = true ∧
    firstPass (withFlights masked [passing true]) 0 (fun y => y.passDone) = some (passing true, pass true) ∧
    (pass true).engine = 0 ∧ (passing true).phase = .running ∧ subPasses (passing true).opcode = false ∧
    (pass true).coord = none ∧ (pass true).maskNext = none ∧ (passing true).jobs = [pass true] ∧ (passing true).lost = false ∧
    (passing true).failed = none := by
  decide +kernel

theorem test_pass_commits_elsewhere :
    firstPass (withFlights masked [{ passing true with jobs := [{ pass true with group := [0, 1] }] }]) 1 (fun y => y.passDone) = some ({ passing true with jobs := [{ pass true with group := [0, 1] }] }, { pass true with group := [0, 1] }) ∧
    (pass true).engine ≠ 1 := by
  decide +kernel

/-- An ACCUMULATE chained to the one before it in its ring, whose pass holds the tile or has committed. -/
def chained : DescBody := .accumulate (accOps 1 2 1 0x100000 7 2 3)
def nextHdr : DescHdr := { hdr with slot := 1 }
def chainOn (js : List TileJob) : State :=
  let s := listing masked
  withFlights s [{ flightOf 3 hdr (.accumulate (accOps 1 2 1 0x100000 7 2 1)) .running js none with
                   reserved := reserves s nextHdr chained }]
def heldTile : TileJob := { pass false with addr := pocketAddr 0, bytes := zeros 32768 }


/-- A chained descriptor behind a tile that is held, and behind one that is free. -/
theorem test_chained :
    orderedB (chainOn [heldTile]) = true ∧ dispatchOpen (chainOn [heldTile]) 0 = true ∧
    heldBack (chainOn [heldTile]) nextHdr chained = false ∧
    decideDesc (chainOn [heldTile]) nextHdr chained = .runs (reserves (chainOn [heldTile]) nextHdr chained) true ∧
    pieceCount chained = 1 ∧
    ((flight (waitIn (takenUp (chainOn [heldTile]) nextHdr chained) (chainOn [heldTile]).nextId (.chained [0])) (chainOn [heldTile]).nextId).map (fun f => pieceWaits
    (waitIn (takenUp (chainOn [heldTile]) nextHdr chained) (chainOn [heldTile]).nextId (.chained [0])) f 0)) = some true := by
  decide +kernel

theorem test_chained_free :
    decideDesc (chainOn []) nextHdr chained = .runs (reserves (chainOn []) nextHdr chained) true ∧
    ((flight (waitIn (takenUp (chainOn []) nextHdr chained) (chainOn []).nextId (.chained [0])) (chainOn []).nextId).map (fun f => pieceWaits
    (waitIn (takenUp (chainOn []) nextHdr chained) (chainOn []).nextId (.chained [0])) f 0)) = some false := by
  decide +kernel

/-! Polynomials and ciphertexts -/

/-- Two primes that are 1 modulo 8,192, with roots of order 8,192. -/
def primes : List (Nat × Nat) := [(114689, 80720), (147457, 11153), (163841, 84080)]

/-- Modulus records at DRAM byte 65,536: with their roots, and without. -/
def modded (roots : Bool) (rs : List (Nat × Nat)) : State :=
  holding cipher 0x10000 (rs.flatMap (fun r => natLe 8 r.1 ++ natLe 8 (if roots then r.2 else 0)))

/-- NTT operands: one limb of 4,096 elements from unit 0 to unit 8. -/
def nttOps : NttOps := { src := 0, dst := 8, limbStride := 0, limbCount := 1, log2N := 12, laneMode := 0, modAddr := 0x10000, flags := 0 }


/-- NTT and INTT with an admitted record, and with one that is not. -/
theorem test_ntt_admitted :
    (FlightsOrdered (modded true (primes.take 1)) ∧ Dispatches (modded true (primes.take 1)) hdr (.ntt nttOps)) ∧
    (modRecords (takenUp (modded true (primes.take 1)) hdr (.ntt nttOps)) 0 0x10000 1).all (nttRecordOk nttOps) = true ∧
    limbThere (takenUp (modded true (primes.take 1)) hdr (.ntt nttOps)) 0 (limbUnit 0 0 (nttUnits nttOps) 0) (nttUnits nttOps) = true :=
  ⟨of_takes (by decide +kernel), by decide +kernel⟩

theorem test_intt_admitted :
    (FlightsOrdered (modded true (primes.take 1)) ∧ Dispatches (modded true (primes.take 1)) hdr (.intt nttOps)) ∧
    (modRecords (takenUp (modded true (primes.take 1)) hdr (.intt nttOps)) 0 0x10000 1).all (nttRecordOk nttOps) = true ∧
    limbThere (takenUp (modded true (primes.take 1)) hdr (.intt nttOps)) 0 (limbUnit 0 0 (nttUnits nttOps) 0) (nttUnits nttOps) = true :=
  ⟨of_takes (by decide +kernel), by decide +kernel⟩

theorem test_ntt_refused :
    (FlightsOrdered (modded false (primes.take 1)) ∧ Dispatches (modded false (primes.take 1)) hdr (.ntt nttOps)) ∧
    (modRecords (takenUp (modded false (primes.take 1)) hdr (.ntt nttOps)) 0 0x10000 1).all (nttRecordOk nttOps) = false :=
  ⟨of_takes (by decide +kernel), by decide +kernel⟩

/-- PMUL operands: one limb of 4,096 elements. -/
def pmulOps (lane frac scalar : Nat) : PmulOps :=
  { a := 0, b := 4, dst := 8, limbStride := 0, elemCount := 4096, limbCount := 1, laneMode := lane, modAddr := 0x10000, scalar := scalar,
    fracBits := frac, flags := 0 }


/-- The four products. -/
theorem test_pmul_mul :
    (FlightsOrdered (holding (modded false (primes.take 1)) (pocketAddr 0) (natLe 8 114688)) ∧ Dispatches (holding (modded false (primes.take 1)) (pocketAddr 0) (natLe 8 114688)) hdr (.pmulMul (pmulOps 0 0 0))) ∧
    (modRecords (takenUp (holding (modded false (primes.take 1)) (pocketAddr 0) (natLe 8 114688)) hdr (.pmulMul (pmulOps 0 0 0))) 0 0x10000 1).all (fun r => laneModulus 0 r.1 && r.2 == 0) = true ∧
    limbThere (takenUp (holding (modded false (primes.take 1)) (pocketAddr 0) (natLe 8 114688)) hdr (.pmulMul (pmulOps 0 0 0))) 0 (limbUnit 8 0 (pmulUnits (pmulOps 0 0 0)) 0) (pmulUnits (pmulOps 0 0 0)) = true :=
  ⟨of_takes (by decide +kernel), by decide +kernel⟩

theorem test_pmul_mac :
    (FlightsOrdered (modded false (primes.take 1)) ∧ Dispatches (modded false (primes.take 1)) hdr (.pmulMac (pmulOps 0 0 0))) ∧
    (modRecords (takenUp (modded false (primes.take 1)) hdr (.pmulMac (pmulOps 0 0 0))) 0 0x10000 1).all (fun r => laneModulus 0 r.1 && r.2 == 0) = true :=
  ⟨of_takes (by decide +kernel), by decide +kernel⟩

theorem test_pmul_smul :
    (FlightsOrdered (holding (modded false (primes.take 1)) (pocketAddr 0) (natLe 8 114688)) ∧ Dispatches (holding (modded false (primes.take 1)) (pocketAddr 0) (natLe 8 114688)) hdr (.pmulSmul (pmulOps 0 0 3))) ∧
    (modRecords (takenUp (holding (modded false (primes.take 1)) (pocketAddr 0) (natLe 8 114688)) hdr (.pmulSmul (pmulOps 0 0 3))) 0 0x10000 1).all (fun r => laneModulus 0 r.1 && r.2 == 0) = true :=
  ⟨of_takes (by decide +kernel), by decide +kernel⟩

theorem test_pmul_fxmul :
    (FlightsOrdered (holding (holding cipher (pocketAddr 0) (natLe 4 0x300)) (pocketAddr 4) (natLe 4 0x80)) ∧ Dispatches (holding (holding cipher (pocketAddr 0) (natLe 4 0x300)) (pocketAddr 4) (natLe 4 0x80)) hdr (.pmulFxmul (pmulOps 1 8 0))) ∧
    limbThere (takenUp (holding (holding cipher (pocketAddr 0) (natLe 4 0x300)) (pocketAddr 4) (natLe 4 0x80)) hdr (.pmulFxmul (pmulOps 1 8 0))) 0 (limbUnit 8 0 (pmulUnits (pmulOps 1 8 0)) 0) (pmulUnits (pmulOps 1 8 0)) = true :=
  ⟨of_takes (by decide +kernel), by decide +kernel⟩

/-- BASECONV operands: from one modulus to another. -/
def baseOps : BaseOps :=
  { src := 0, dst := 8, limbStride := 0, inLimbs := 1, outLimbs := 1, log2N := 12, flags := 0, inMod := 0x10000, outMod := 0x10010 }


theorem test_baseconv_admitted :
    (FlightsOrdered (holding (modded false primes) (pocketAddr 0) (natLe 8 114688)) ∧ Dispatches (holding (modded false primes) (pocketAddr 0) (natLe 8 114688)) hdr (.baseconv baseOps)) ∧
    (modRecords (takenUp (holding (modded false primes) (pocketAddr 0) (natLe 8 114688)) hdr (.baseconv baseOps)) 0 0x10000 1).map (fun r => r.1) = [114689] ∧
    (modRecords (takenUp (holding (modded false primes) (pocketAddr 0) (natLe 8 114688)) hdr (.baseconv baseOps)) 0 0x10010 1).map (fun r => r.1) = [147457] ∧
    (modRecords (takenUp (holding (modded false primes) (pocketAddr 0) (natLe 8 114688)) hdr (.baseconv baseOps)) 0 0x10000 2).all (fun r => r.1 != 0 && laneModulus 0 r.1 && isPrime64 r.1 && r.2 == 0) = true ∧
    [114689, 147457].Nodup ∧
    (baseClaims baseOps).all (inSleeve (part (takenUp (holding (modded false primes) (pocketAddr 0) (natLe 8 114688)) hdr (.baseconv baseOps)) 0) 0) = true ∧
    enginesOf (takenUp (holding (modded false primes) (pocketAddr 0) (natLe 8 114688)) hdr (.baseconv baseOps)) 0 ≠ [] :=
  ⟨of_takes (by decide +kernel), by decide +kernel⟩

theorem test_baseconv_refused :
    (FlightsOrdered (modded false primes) ∧ Dispatches (modded false primes) hdr (.baseconv { baseOps with outMod := 0x10000 })) ∧
    ¬ ((modRecords (takenUp (modded false primes) hdr (.baseconv { baseOps with outMod := 0x10000 })) 0 0x10000 1 ++ modRecords (takenUp (modded false primes) hdr (.baseconv { baseOps with outMod := 0x10000 })) 0 0x10000 1).map (fun r => r.1)).Nodup :=
  ⟨of_takes (by decide +kernel), by decide +kernel⟩

/-- A ring parameter block of CKKS: two chain limbs, one special limb, N = 4,096, a budget of 8. -/
def ringBytes : Bytes :=
  natLe 2 0x0111 ++ natLe 1 3 ++ natLe 1 12 ++ natLe 1 2 ++ natLe 1 1 ++ natLe 1 2 ++ zeros 9 ++ natLe 4 8 ++ zeros 44 ++
    primes.flatMap (fun r => natLe 8 r.1 ++ natLe 8 r.2)

/-- The first half of the block's digest, as the headers below carry it. -/
def ringPre : Bytes := natLe 16 195510274850090761004798191976233151613


theorem test_ring_digest :
    (sha3 ringBytes).take 16 = ringPre := by
  decide +kernel

/-- A ciphertext's header under it. -/
def ctHead (level headroom tag : Nat) : CtHeader :=
  { fmt := 0x0110, parts := 2, share := 0, seqNext := 0, headroom := headroom, scaleExp := 30, log2N := 12, incomplete := false, ntt := true,
    scheme := 3, level := level, tag := tag, dataLen := 2 * (level + 1) * 32768, pre := ringPre, roundId := 5, rsvdZero := true }

/-- The block at DRAM byte 65,536, three references at 131,072 (units 0, 16 and 32) and the headers of the last two. -/
def ctState (a b : CtHeader) : State :=
  let refs := [0, 1, 2].flatMap (fun i => natLe 8 (0x21000 + 64 * i) ++ natLe 4 (16 * i) ++ natLe 4 (16 * i + 8))
  holding (holding (holding cipher 0x10000 ringBytes) 0x20000 refs) 0x21040 (a.bytes ++ b.bytes)

/-- CT_ADD operands. -/
def ctOps : CtAddOps := { flags := 0, limbStride := 0, paramAddr := 0x10000, dstRef := 0x20000, a := 0x20010, b := 0x20020, seqFirst := 0, seqCount := 0 }

/-- The checks that CT_ADD ADD and SUB put first. -/
def pairOk (s : State) (b : DescBody) : Bool :=
  let s1 := takenUp s hdr b
  let r := ringAt s1 0 0x10000
  let rs := ctPairRefs s1 0 ctOps
  let x := headerAt s1 0 rs.2.1
  let y := headerAt s1 0 rs.2.2
  r.valid && ctFormOk r x && ctFormOk r y && x.level == y.level && x.ntt == y.ntt && x.scaleExp == y.scaleExp


/-- CT_ADD ADD with just enough headroom, SUB with too little, other tags, and level 0. -/
theorem test_pair_added :
    (FlightsOrdered (ctState (ctHead 1 4 1) (ctHead 1 4 1)) ∧ Dispatches (ctState (ctHead 1 4 1) (ctHead 1 4 1)) hdr (.ctAddAdd ctOps)) ∧
    pairOk (ctState (ctHead 1 4 1) (ctHead 1 4 1)) (.ctAddAdd ctOps) = true ∧
    (headerAt (takenUp (ctState (ctHead 1 4 1) (ctHead 1 4 1)) hdr (.ctAddAdd ctOps)) 0 (ctPairRefs (takenUp (ctState (ctHead 1 4 1) (ctHead 1 4 1)) hdr (.ctAddAdd ctOps)) 0 ctOps).2.1).tag = 1 ∧
    (ringAt (takenUp (ctState (ctHead 1 4 1) (ctHead 1 4 1)) hdr (.ctAddAdd ctOps)) 0 0x10000).budget = 4 + 4 ∧
    [0, 4, 8, 12].all (engineAt (takenUp (ctState (ctHead 1 4 1) (ctHead 1 4 1)) hdr (.ctAddAdd ctOps)) 0) = true :=
  ⟨of_takes (by decide +kernel), by decide +kernel⟩

theorem test_pair_subtracted :
    (FlightsOrdered (ctState (ctHead 1 4 1) (ctHead 1 3 1)) ∧ Dispatches (ctState (ctHead 1 4 1) (ctHead 1 3 1)) hdr (.ctAddSub ctOps)) ∧
    pairOk (ctState (ctHead 1 4 1) (ctHead 1 3 1)) (.ctAddSub ctOps) = true ∧
    4 + 3 < (ringAt (takenUp (ctState (ctHead 1 4 1) (ctHead 1 3 1)) hdr (.ctAddSub ctOps)) 0 0x10000).budget :=
  ⟨of_takes (by decide +kernel), by decide +kernel⟩

theorem test_pair_tags :
    (FlightsOrdered (ctState (ctHead 1 8 1) (ctHead 1 8 2)) ∧ Dispatches (ctState (ctHead 1 8 1) (ctHead 1 8 2)) hdr (.ctAddAdd ctOps)) ∧
    pairOk (ctState (ctHead 1 8 1) (ctHead 1 8 2)) (.ctAddAdd ctOps) = true :=
  ⟨of_takes (by decide +kernel), by decide +kernel⟩

theorem test_pair_level :
    (FlightsOrdered (ctState (ctHead 0 8 1) (ctHead 0 8 1)) ∧ Dispatches (ctState (ctHead 0 8 1) (ctHead 0 8 1)) hdr (.ctAddSub ctOps)) ∧
    pairOk (ctState (ctHead 0 8 1) (ctHead 0 8 1)) (.ctAddSub ctOps) = true :=
  ⟨of_takes (by decide +kernel), by decide +kernel⟩

/-- FOLD operands with init over one number. -/
def foldOps : CtAddOps := { ctOps with flags := 1, a := 5, b := 0, seqFirst := 0, seqCount := 1 }

/-- A window of ciphertexts of the block, with one landed submission of headroom `n`. -/
def foldState (assigned n : Nat) : State :=
  let w := { win .submit .opened with paramBlock := ringBytes, slotSize := 135168, assigned := assigned, subs := (if assigned = 0 then [] else [sub (some 0) (some .accepted)]) }
  holding (withWin (ctState (ctHead 1 4 1) (ctHead 1 4 1)) .submit w) (2 ^ 20 + 32) (ctHead 1 n 1).bytes


/-- CT_ADD FOLD. -/
theorem test_fold_without_window :
    (FlightsOrdered (ctState (ctHead 1 4 1) (ctHead 1 4 1)) ∧ Dispatches (ctState (ctHead 1 4 1) (ctHead 1 4 1)) hdr (.ctAddFold foldOps)) ∧
    (windowFor (part (ctState (ctHead 1 4 1) (ctHead 1 4 1)) 0) .submit 5).filter Window.readable = none :=
  ⟨of_takes (by decide +kernel), by decide +kernel⟩

/-- What FOLD asks of the block and the destination; and, with the header held, whether its range is ready and its charge fits. -/
def foldOk (s : State) (o : CtAddOps) : Bool :=
  let s1 := takenUp s hdr (.ctAddFold o)
  let r := ringAt s1 0 0x10000
  let old := headerAt s1 0 (refOf (pread s1 0 0x20000 16))
  r.valid && (old.fmt != 0x0110 || !old.incomplete) && decide (ringOf ringBytes = r) && r.chain != 1 && bvBit o.flags 0
def foldSays (s : State) (o : CtAddOps) : Option (Bool × Bool) :=
  ((windowFor (part s 0) .submit 5).filter Window.readable).map (fun w =>
    let s1 := takenUp s hdr (.ctAddFold o)
    let r := ringAt s1 0 0x10000
    let d := refOf (pread s1 0 0x20000 16)
    let u := writeHeaders (useRing s1 0 0x10000) 0 [(d.hdr, heldHeader true 5 (pread s1 0 d.hdr 64))]
    let base := foldBase u 0 r o (headerAt u 0 d)
    (rangeReady w 0 1, decide (foldCharge u 0 r o w base.seqNext ≤ base.headroom)))


theorem test_fold_waits :
    (FlightsOrdered (foldState 0 8) ∧ Dispatches (foldState 0 8) hdr (.ctAddFold foldOps)) ∧
    foldOk (foldState 0 8) foldOps = true ∧ foldSays (foldState 0 8) foldOps = some (false, true) :=
  ⟨of_takes (by decide +kernel), by decide +kernel⟩

theorem test_fold_headroom :
    (FlightsOrdered (holding (foldState 1 0) 0x80000 (natLe 4 2)) ∧ Dispatches (holding (foldState 1 0) 0x80000 (natLe 4 2)) hdr (.ctAddFold { foldOps with b := 0x80000 })) ∧
    foldOk (holding (foldState 1 0) 0x80000 (natLe 4 2)) { foldOps with b := 0x80000 } = true ∧
    foldSays (holding (foldState 1 0) 0x80000 (natLe 4 2)) { foldOps with b := 0x80000 } = some (true, false) :=
  ⟨of_takes (by decide +kernel), by decide +kernel⟩

theorem test_fold_sums :
    (FlightsOrdered (foldState 1 8) ∧ Dispatches (foldState 1 8) hdr (.ctAddFold foldOps)) ∧
    foldOk (foldState 1 8) foldOps = true ∧ foldSays (foldState 1 8) foldOps = some (true, true) ∧
    [0, 4, 8, 12].all (engineAt (takenUp (foldState 1 8) hdr (.ctAddFold foldOps)) 0) = true :=
  ⟨of_takes (by decide +kernel), by decide +kernel⟩

/-- FOLD onto a sum of the round under another tag; and with init over a chain of one limb. -/
def foldOver (tag : Nat) : State :=
  tiled (holding (foldState 1 8) 0x21000 { ctHead 1 8 tag with roundId := 5 }.bytes)
    ([0, 4, 8, 12].flatMap (fun u => (List.range 4).map (fun i => (u + i,
      { state := .round, roundId := 5, width := 64, mode := .modq, modulus := if u % 8 = 0 then 114689 else 147457, count := 1 }))))
def shortRing : Bytes := natLe 2 0x0111 ++ natLe 1 3 ++ natLe 1 12 ++ natLe 1 1 ++ natLe 1 1 ++ natLe 1 1 ++ zeros 9 ++ natLe 4 8 ++ zeros 44 ++
  (primes.take 2).flatMap (fun r => natLe 8 r.1 ++ natLe 8 r.2)


theorem test_fold_tag :
    (FlightsOrdered (foldOver 2) ∧ Dispatches (foldOver 2) hdr (.ctAddFold { foldOps with flags := 0 })) ∧
    ((windowFor (part (foldOver 2) 0) .submit 5).filter Window.readable).map (fun w => [(0, 0), (4, 1), (8, 0), (12, 1)].all (fun e => foldTileOk { foldOps with flags := 0 } w
    ((ringAt (takenUp (foldOver 2) hdr (.ctAddFold { foldOps with flags := 0 })) 0 0x10000).q e.2) (unitMeta (takenUp (foldOver 2) hdr (.ctAddFold { foldOps with flags := 0 })) 0 e.1))) = some true ∧
    ctFormOk (ringAt (takenUp (foldOver 2) hdr (.ctAddFold { foldOps with flags := 0 })) 0 0x10000) { ctHead 1 8 2 with roundId := 5 } = true :=
  ⟨of_takes (by decide +kernel), by decide +kernel⟩

theorem test_fold_level :
    (FlightsOrdered (holding (withWin (foldState 0 8) .submit { win .submit .opened with paramBlock := shortRing, slotSize := 135168 }) 0x10000 shortRing) ∧ Dispatches (holding (withWin (foldState 0 8) .submit { win .submit .opened with paramBlock := shortRing, slotSize := 135168 }) 0x10000 shortRing) hdr (.ctAddFold foldOps)) ∧
    (ringAt (takenUp (holding (withWin (foldState 0 8) .submit { win .submit .opened with paramBlock := shortRing, slotSize := 135168 }) 0x10000 shortRing) hdr (.ctAddFold foldOps)) 0 0x10000).valid = true ∧
    (ringAt (takenUp (holding (withWin (foldState 0 8) .submit { win .submit .opened with paramBlock := shortRing, slotSize := 135168 }) 0x10000 shortRing) hdr (.ctAddFold foldOps)) 0 0x10000).chain = 1 ∧
    ringOf shortRing = ringAt (takenUp (holding (withWin (foldState 0 8) .submit { win .submit .opened with paramBlock := shortRing, slotSize := 135168 }) 0x10000 shortRing) hdr (.ctAddFold foldOps)) 0 0x10000 :=
  ⟨of_takes (by decide +kernel), by decide +kernel⟩

/-- A switching key's header: kind 1 from tag 1 to tag 2, or kind 2 for the Galois element 5. -/
def keyHead (rotate : Bool) : Bytes :=
  natLe 2 0x0120 ++ natLe 1 (if rotate then 2 else 1) ++ natLe 1 2 ++ natLe 4 (if rotate then 5 else 0) ++ natLe 8 1 ++
    natLe 8 (if rotate then 1 else 2) ++ natLe 8 393216 ++ ringPre ++ natLe 2 3 ++ zeros 14

/-- KEYSWITCH and ROTATE operands: from the second reference to the first. -/
def ksOps (galois : Nat) : KsOps :=
  { inList := 0x20010, outList := 0x20000, keyAddr := 0x100000, paramAddr := 0x10000, limbStride := 0, galois := galois, workTile := 64,
    ctCount := 1, flags := 0 }

/-- A state for them. -/
def ksState (headroom : Nat) (rotate : Bool) : State := holding (ctState (ctHead 1 headroom 1) (ctHead 1 8 1)) 0x100000 (keyHead rotate)

/-- The key and block of a KEYSWITCH or ROTATE, and what the check of its one ciphertext says. -/
def ksSays (s : State) (rotate : Bool) (o : KsOps) (b : DescBody) : Option (Bool × Option Status) :=
  let s1 := takenUp s hdr b
  let r := ringAt s1 0 0x10000
  (ksHeader s1 0 o).map (fun k => (r.valid && r.special != 0,
    (ksRefs s1 0 o.inList o.outList 1).findSome? (fun e => ksCheck r k rotate o (headerAt s1 0 e.1))))


/-- KEYSWITCH with the cost, and one short of it; ROTATE. -/
theorem test_switch_checked :
    (FlightsOrdered (ksState 2 false) ∧ Dispatches (ksState 2 false) hdr (.keyswitch (ksOps 0))) ∧
    ksSays (ksState 2 false) false (ksOps 0) (.keyswitch (ksOps 0)) = some (true, some stHeadroom) :=
  ⟨of_takes (by decide +kernel), by decide +kernel⟩

theorem test_switch_stored :
    (FlightsOrdered (ksState 3 false) ∧ Dispatches (ksState 3 false) hdr (.keyswitch (ksOps 0))) ∧
    ksSays (ksState 3 false) false (ksOps 0) (.keyswitch (ksOps 0)) = some (true, none) ∧
    [0, 4, 8, 12].all (engineAt (takenUp (ksState 3 false) hdr (.keyswitch (ksOps 0))) 0) = true :=
  ⟨of_takes (by decide +kernel), by decide +kernel⟩

theorem test_rotate_stored :
    (FlightsOrdered (ksState 3 true) ∧ Dispatches (ksState 3 true) hdr (.rotate (ksOps 5))) ∧
    ksSays (ksState 3 true) true (ksOps 5) (.rotate (ksOps 5)) = some (true, none) ∧
    [0, 4, 8, 12].all (engineAt (takenUp (ksState 3 true) hdr (.rotate (ksOps 5))) 0) = true :=
  ⟨of_takes (by decide +kernel), by decide +kernel⟩

/-- RESCALE and MODSWITCH operands. -/
def rescaleOps : RescaleOps := { inList := 0x20010, outList := 0x20000, paramAddr := 0x10000, limbStride := 0, ctCount := 1, drop := 1, flags := 0 }

/-- What the check of the one ciphertext says. -/
def rescaleSays (s : State) (mod_ : Bool) (b : DescBody) : Bool × Option Status :=
  let s1 := takenUp s hdr b
  let r := ringAt s1 0 0x10000
  (r.valid, (ksRefs s1 0 rescaleOps.inList rescaleOps.outList 1).findSome? (fun e => rescaleCheck r mod_ 1 1 (headerAt s1 0 e.1)))


/-- RESCALE with the least headroom, MODSWITCH without any. -/
theorem test_rescale_stored :
    (FlightsOrdered (ctState (ctHead 1 1 1) (ctHead 1 8 1)) ∧ Dispatches (ctState (ctHead 1 1 1) (ctHead 1 8 1)) hdr (.rescale rescaleOps)) ∧
    rescaleSays (ctState (ctHead 1 1 1) (ctHead 1 8 1)) false (.rescale rescaleOps) = (true, none) ∧
    [0, 8].all (engineAt (takenUp (ctState (ctHead 1 1 1) (ctHead 1 8 1)) hdr (.rescale rescaleOps)) 0) = true :=
  ⟨of_takes (by decide +kernel), by decide +kernel⟩

theorem test_modswitch_checked :
    (FlightsOrdered (ctState (ctHead 1 0 1) (ctHead 1 8 1)) ∧ Dispatches (ctState (ctHead 1 0 1) (ctHead 1 8 1)) hdr (.modswitch rescaleOps)) ∧
    rescaleSays (ctState (ctHead 1 0 1) (ctHead 1 8 1)) true (.modswitch rescaleOps) = (true, some stHeadroom) :=
  ⟨of_takes (by decide +kernel), by decide +kernel⟩

theorem test_modswitch_stored :
    (FlightsOrdered (ctState (ctHead 1 1 1) (ctHead 1 8 1)) ∧ Dispatches (ctState (ctHead 1 1 1) (ctHead 1 8 1)) hdr (.modswitch rescaleOps)) ∧
    rescaleSays (ctState (ctHead 1 1 1) (ctHead 1 8 1)) true (.modswitch rescaleOps) = (true, none) :=
  ⟨of_takes (by decide +kernel), by decide +kernel⟩

theorem test_modswitch_in_place :
    (FlightsOrdered (ctState (ctHead 1 1 1) (ctHead 1 8 1)) ∧ Dispatches (ctState (ctHead 1 1 1) (ctHead 1 8 1)) hdr (.modswitch { rescaleOps with outList := 0x20010 })) ∧
    rescaleSays (ctState (ctHead 1 1 1) (ctHead 1 8 1)) true (.modswitch { rescaleOps with outList := 0x20010 }) = (true, none) :=
  ⟨of_takes (by decide +kernel), by decide +kernel⟩

theorem test_rescale_refused :
    (FlightsOrdered (ctState (ctHead 0 1 1) (ctHead 1 8 1)) ∧ Dispatches (ctState (ctHead 0 1 1) (ctHead 1 8 1)) hdr (.rescale rescaleOps)) ∧
    rescaleSays (ctState (ctHead 0 1 1) (ctHead 1 8 1)) false (.rescale rescaleOps) = (true, some stLevel) :=
  ⟨of_takes (by decide +kernel), by decide +kernel⟩

theorem test_rotate_without_key :
    (FlightsOrdered (ctState (ctHead 1 3 1) (ctHead 1 8 1)) ∧ Dispatches (ctState (ctHead 1 3 1) (ctHead 1 8 1)) hdr (.rotate { ksOps 5 with flags := 1 })) ∧
    ksHeader (takenUp (ctState (ctHead 1 3 1) (ctHead 1 8 1)) hdr (.rotate { ksOps 5 with flags := 1 })) 0 { ksOps 5 with flags := 1 } = none :=
  ⟨of_takes (by decide +kernel), by decide +kernel⟩

/-- PARTIAL_DEC operands. -/
def partialOps : PartialOps := { ctRef := 0x20010, outRef := 0x20000, paramAddr := 0x10000, roundId := 5, lambdaAddr := 0, limbStride := 0 }

/-- A member with share index 1, released tiles, and the committee share where `has`. -/
def member (has : Bool) (noise : Bool) (shared : List Nat) : State :=
  let s := modPart (ctState (ctHead 1 8 1) (ctHead 1 8 1)) 0 (fun x => { x with
    policy := patch x.policy 0x6C (natLe 1 1), shared := shared,
    keys := if has then [{ kind := 5, keyId := 1, key := zeros 32, smudge := 4, expiry := 0, dying := false }] else [] })
  { s with
    tiles := (List.range 16).map (fun i => (16 + i, { state := .plain, width := 64, mode := .modq, release := some 5 }))
    entropy := if noise then s.entropy else {} }

/-- What PARTIAL_DEC asks beside a share. -/
def partialOk (s : State) : Bool :=
  let s1 := takenUp s hdr (.partialDec partialOps)
  let r := ringAt s1 0 0x10000
  let src := refOf (pread s1 0 0x20010 16)
  let x := headerAt s1 0 src
  keysReady s (part s 0) && r.valid && ctFormOk r x && field (part s 0).policy 0x6C 1 != 0 && ctReleased s1 0 r src 0 (x.level + 1) 5 &&
    !(joinMarks (ctMarks s1 0 r src.c0 0 (x.level + 1)) (ctMarks s1 0 r src.c1 0 (x.level + 1))).1


/-- PARTIAL_DEC without a share, a second time, with no generator, and with one. -/
theorem test_partial_shared :
    (FlightsOrdered (member true true []) ∧ Dispatches (member true true []) hdr (.partialDec partialOps)) ∧
    partialOk (member true true []) = true ∧
    ((storedKey (member true true []) 0 5).filter (fun k => k.keyId == 1)).isSome = true ∧
    (part (member true true []) 0).shared.contains 5 = false ∧ samplersRun (member true true []) 0 = true ∧
    [0, 4].all (engineAt (takenUp (member true true []) hdr (.partialDec partialOps)) 0) = true :=
  ⟨of_takes (by decide +kernel), by decide +kernel⟩

theorem test_partial_waits :
    (FlightsOrdered (member true false []) ∧ Dispatches (member true false []) hdr (.partialDec partialOps)) ∧
    partialOk (member true false []) = true ∧
    ((storedKey (member true false []) 0 5).filter (fun k => k.keyId == 1)).isSome = true ∧
    samplersRun (member true false []) 0 = false :=
  ⟨of_takes (by decide +kernel), by decide +kernel⟩

theorem test_partial_again :
    (FlightsOrdered (member true true [5]) ∧ Dispatches (member true true [5]) hdr (.partialDec partialOps)) ∧
    keysReady (member true true [5]) (part (member true true [5]) 0) = true ∧
    ((storedKey (member true true [5]) 0 5).filter (fun k => k.keyId == 1)).isSome = true ∧
    (part (member true true [5]) 0).shared.contains 5 = true :=
  ⟨of_takes (by decide +kernel), by decide +kernel⟩

theorem test_partial_without_share :
    (FlightsOrdered (member false true []) ∧ Dispatches (member false true []) hdr (.partialDec partialOps)) ∧
    keysReady (member false true []) (part (member false true []) 0) = true ∧
    ((storedKey (member false true []) 0 5).filter (fun k => k.keyId == 1)) = none :=
  ⟨of_takes (by decide +kernel), by decide +kernel⟩

/-! Masks -/

/-- SHARE_RECON operands. -/
def reconOps : ShareOps := { roundId := 5, reportAddr := 0x100000 }

/-- The neighbour table of clients 8 and 9. -/
def edgeGraph : Graph := { degree := 1, graphId := 3, records := [(8, [9]), (9, [8])], recTile := 16, recUnits := 4 }

/-- A round of survivor 9 with its table and a share of its self-seed and of the secret of client 8. -/
def recovered (n : Nat) : Round :=
  { round .recoverClosed with
    survivors := [9], graph := some edgeGraph,
    entries := [⟨9, 1, 1, List.replicate 32 5#8⟩, ⟨8, 2, 1, List.replicate 32 6#8⟩].take n }


/-- SHARE_RECON without its round, and in an earlier state of it. -/
theorem test_recon_without_round :
    (FlightsOrdered masked ∧ Dispatches masked hdr (.shareRecon reconOps)) ∧ roundOf (part masked 0) 5 = none :=
  ⟨of_takes (by decide +kernel), by decide +kernel⟩

theorem test_recon_too_early :
    (FlightsOrdered (withRound masked (round .closed)) ∧ Dispatches (withRound masked (round .closed)) hdr (.shareRecon reconOps)) ∧
    roundOf (part (withRound masked (round .closed)) 0) 5 = some (round .closed) ∧ (round .closed).mode ≠ .recoverClosed :=
  ⟨of_takes (by decide +kernel), by decide +kernel⟩

/-- With every share, and with one short. -/
theorem test_recon_whole :
    (FlightsOrdered (withRound masked (recovered 2)) ∧ Dispatches (withRound masked (recovered 2)) hdr (.shareRecon reconOps)) ∧
    roundOf (part (withRound masked (recovered 2)) 0) 5 = some (recovered 2) ∧ (recovered 2).mode = .recoverClosed ∧
    bundlesOpened (part (withRound masked (recovered 2)) 0) 5 = true ∧
    bundleWork (withRound masked (recovered 2)) 0 5 = false ∧
    (((reconOwners (recovered 2)).map (fun w => reconOwner (recovered 2).entries 1 w.1 w.2)).filter (fun k => k.status == 1)).length = 0 :=
  ⟨of_takes (by decide +kernel), by decide +kernel⟩

theorem test_recon_short :
    (FlightsOrdered (withRound masked (recovered 1)) ∧ Dispatches (withRound masked (recovered 1)) hdr (.shareRecon reconOps)) ∧
    roundOf (part (withRound masked (recovered 1)) 0) 5 = some (recovered 1) ∧
    bundlesOpened (part (withRound masked (recovered 1)) 0) 5 = true ∧
    bundleWork (withRound masked (recovered 1)) 0 5 = false ∧
    (((reconOwners (recovered 1)).map (fun w => reconOwner (recovered 1).entries 1 w.1 w.2)).filter (fun k => k.status == 1)).length = 1 :=
  ⟨of_takes (by decide +kernel), by decide +kernel⟩

/-- SEED_DERIVE GRAPH operands, and a state with a table in the window. -/
def graphOps : SeedOps := { roundId := 5, srcAddr := inWin 0, graphAddr := 0x100000, recTile := 16, recUnits := 4 }
def tabled (fmt : Nat) (r : Round) : State :=
  holding (withRound masked r) (inWin 0) (natLe 2 fmt ++ natLe 1 1 ++ zeros 1 ++ natLe 4 2 ++ natLe 8 3 ++ (partOf 1 2).digestPrefix ++
    natLe 8 80 ++ zeros 24 ++ natLe 4 8 ++ natLe 4 9 ++ natLe 4 9 ++ natLe 4 8)


/-- SEED_DERIVE GRAPH of a table that fits, and of one that does not. -/
theorem test_graph_bound :
    (FlightsOrdered (tabled 0x0105 (round .closed)) ∧ Dispatches (tabled 0x0105 (round .closed)) hdr (.seedGraph graphOps)) ∧
    roundOf (part (tabled 0x0105 (round .closed)) 0) 5 = some (round .closed) ∧ (round .closed).graph = none ∧
    (graphState (part (tabled 0x0105 (round .closed)) 0) 5 && graphOk (part (tabled 0x0105 (round .closed)) 0) (graphOf (pread (tabled 0x0105 (round .closed)) 0 (inWin 0) (graphLen (pread (tabled 0x0105 (round .closed)) 0 (inWin 0) 64))))) = true :=
  ⟨of_takes (by decide +kernel), by decide +kernel⟩

theorem test_graph_unfit :
    (FlightsOrdered (tabled 0x0106 (round .closed)) ∧ Dispatches (tabled 0x0106 (round .closed)) hdr (.seedGraph graphOps)) ∧
    (graphState (part (tabled 0x0106 (round .closed)) 0) 5 && graphOk (part (tabled 0x0106 (round .closed)) 0) (graphOf (pread (tabled 0x0106 (round .closed)) 0 (inWin 0) (graphLen (pread (tabled 0x0106 (round .closed)) 0 (inWin 0) 64))))) = false :=
  ⟨of_takes (by decide +kernel), by decide +kernel⟩

/-- SEED_DERIVE DERIVE operands with `n` transcripts, and a transcript of the edge between 8 and 9. -/
def deriveOps (n : Nat) : SeedOps := { roundId := 5, srcAddr := inWin 0, graphAddr := 0, recTile := n, recUnits := 0 }
def reconstructed : Round :=
  { round .reconstructed with survivors := [9], graph := some edgeGraph, secrets := [⟨8, 2, 0, List.replicate 32 6#8⟩, ⟨9, 1, 0, List.replicate 32 5#8⟩] }
def transcribed : State := holding (withRound masked reconstructed) (inWin 0) (natLe 4 8 ++ natLe 4 9 ++ natLe 1 2)


/-- SEED_DERIVE DERIVE with the transcript of its edge, and without. -/
theorem test_derive_fits :
    (FlightsOrdered transcribed ∧ Dispatches transcribed hdr (.seedDerive (deriveOps 1))) ∧
    roundOf (part transcribed 0) 5 = some reconstructed ∧ reconstructed.mode = .reconstructed ∧
    (deriveOps 1).recTile = (droppedEdges reconstructed).length ∧
    (List.zipWith transcriptOk (droppedEdges reconstructed) (pieces 1200 1 (pread transcribed 0 (inWin 0) 1200))).all (fun ok => ok) = true :=
  ⟨of_takes (by decide +kernel), by decide +kernel⟩

theorem test_derive_short :
    (FlightsOrdered transcribed ∧ Dispatches transcribed hdr (.seedDerive (deriveOps 0))) ∧
    roundOf (part transcribed 0) 5 = some reconstructed ∧ (deriveOps 0).recTile ≠ (droppedEdges reconstructed).length :=
  ⟨of_takes (by decide +kernel), by decide +kernel⟩

/-- MASK_EXPAND operands of one tile and one seed, a DERIVED round, and a state whose tile may be unmasked. -/
def maskOps : MaskOps := { roundId := 5, dstTile := 0, tileCount := 1, coordTile := 0, seedFirst := 0, seedCount := 1, flags := 0 }
def derived : Round := { round .derived with survivors := [9], seeds := [⟨List.replicate 32 7#8, false⟩], selfCount := 1 }
def maskable (r : Round) : State :=
  tiled (withRound masked r) ([0, 1].map (fun u => (u, { state := .round, roundId := 5, width := 32, mode := .mod2k, count := 1 })))


/-- MASK_EXPAND of one seed, without its round, and before its seeds are derived. -/
theorem test_mask_expand :
    (FlightsOrdered (maskable derived) ∧ Dispatches (maskable derived) hdr (.maskExpand maskOps)) ∧
    roundOf (part (maskable derived) 0) 5 = some derived ∧ derived.mode = .derived ∧ 0 + 1 ≤ derived.seeds.length ∧
    maskTileOk (part (maskable derived) 0) derived (unitMeta (takenUp (maskable derived) hdr (.maskExpand maskOps)) 0 0) = true ∧
    tabGet 0 derived.maskNext 0 = 0 ∧
    planOk (takenUp (maskable derived) hdr (.maskExpand maskOps)) 0 0 (tileUnits (policyBits (part (maskable derived) 0))) 1 1 = true :=
  ⟨of_takes (by decide +kernel), by decide +kernel⟩

theorem test_mask_without_round :
    (FlightsOrdered masked ∧ Dispatches masked hdr (.maskExpand maskOps)) ∧ roundOf (part masked 0) 5 = none :=
  ⟨of_takes (by decide +kernel), by decide +kernel⟩

theorem test_mask_too_early :
    (FlightsOrdered (maskable { derived with mode := .reconstructed }) ∧ Dispatches (maskable { derived with mode := .reconstructed }) hdr (.maskExpand maskOps)) ∧
    roundOf (part (maskable { derived with mode := .reconstructed }) 0) 5 = some { derived with mode := .reconstructed } ∧
    ({ derived with mode := .reconstructed } : Round).mode ≠ .derived :=
  ⟨of_takes (by decide +kernel), by decide +kernel⟩

theorem test_mask_again :
    (FlightsOrdered (maskable { derived with maskNext := [(0, 1)] }) ∧ Dispatches (maskable { derived with maskNext := [(0, 1)] }) hdr (.maskExpand maskOps)) ∧
    roundOf (part (maskable { derived with maskNext := [(0, 1)] }) 0) 5 = some { derived with maskNext := [(0, 1)] } ∧
    maskTileOk (part (maskable { derived with maskNext := [(0, 1)] }) 0) { derived with maskNext := [(0, 1)] } (unitMeta (takenUp (maskable { derived with maskNext := [(0, 1)] }) hdr (.maskExpand maskOps)) 0 0) = true ∧
    planOk (takenUp (maskable { derived with maskNext := [(0, 1)] }) hdr (.maskExpand maskOps)) 0 0 (tileUnits (policyBits (part (maskable { derived with maskNext := [(0, 1)] }) 0))) 1 1 = true ∧
    min (0 + 1) (tabGet 0 ({ derived with maskNext := [(0, 1)] } : Round).maskNext 0) = 0 + 1 :=
  ⟨of_takes (by decide +kernel), by decide +kernel⟩

/-! Sealed submissions, noise and release -/

/-- Without its private wires; and with a policy byte changed. -/
def unkeyed (s : State) : State := modPart s 0 (fun x => { x with wiresLoaded := false })
def policed (s : State) (at_ v : Nat) : State := modPart s 0 (fun x => { x with policy := patch x.policy at_ (natLe 1 v) })

/-- KEM_DECAP and SEALED_OPEN operands over number 0. -/
def kemOps : KemOps := { roundId := 5, seqFirst := 0, seqCount := 1, resultAddr := 0x100000 }
def sealedOps : SealedOps := { roundId := 5, seqFirst := 0, seqCount := 1, stageTile := 128, stageSlots := 1, resultAddr := 0x100000 }

/-- A submission that has been numbered, has its key, and is judged. -/
def numbered : Submission := sub (some 0) (some .accepted)
def keyed : Submission := { numbered with decapsulated := true, sharedKey := some (zeros 32) }
def judged : Submission := { keyed with final := true, sharedKey := none }
def subWin (m : WinMode) (bs : List Submission) : Window := { win .submit m with assigned := bs.length, subs := bs }
def recWin (m : WinMode) (bs : List Submission) : Window := { win .recover m with assigned := bs.length, subs := bs }


/-- KEM_DECAP of submissions: without its wires, its window, its numbers; with work, and with none. -/
theorem test_kem_unkeyed :
    (FlightsOrdered (unkeyed sealed_) ∧ Dispatches (unkeyed sealed_) hdr (.kemSealed kemOps)) ∧
    keysReady (unkeyed sealed_) (part (unkeyed sealed_) 0) = false :=
  ⟨of_takes (by decide +kernel), by decide +kernel⟩

theorem test_kem_without_window :
    (FlightsOrdered sealed_ ∧ Dispatches sealed_ hdr (.kemSealed kemOps)) ∧ keysReady sealed_ (part sealed_ 0) = true ∧
    (windowFor (part sealed_ 0) .submit 5).filter Window.readable = none :=
  ⟨of_takes (by decide +kernel), by decide +kernel⟩

theorem test_kem_waits :
    (FlightsOrdered (withWin sealed_ .submit (subWin .opened [])) ∧ Dispatches (withWin sealed_ .submit (subWin .opened [])) hdr (.kemSealed kemOps)) ∧
    keysReady (withWin sealed_ .submit (subWin .opened [])) (part (withWin sealed_ .submit (subWin .opened [])) 0) = true ∧
    (windowFor (part (withWin sealed_ .submit (subWin .opened [])) 0) .submit 5).filter Window.readable = some (subWin .opened []) ∧
    rangeReady (subWin .opened []) 0 1 = false :=
  ⟨of_takes (by decide +kernel), by decide +kernel⟩

theorem test_kem_works :
    (FlightsOrdered (withWin sealed_ .submit (subWin .opened [numbered])) ∧ Dispatches (withWin sealed_ .submit (subWin .opened [numbered])) hdr (.kemSealed kemOps)) ∧
    (windowFor (part (withWin sealed_ .submit (subWin .opened [numbered])) 0) .submit 5).filter Window.readable = some (subWin .opened [numbered]) ∧
    rangeReady (subWin .opened [numbered]) 0 1 = true ∧
    numbersOf ((rangeSubs (subWin .opened [numbered]) 0 1).filter toDecap) = [0] ∧
    [0].all (subHasEngine (withWin sealed_ .submit (subWin .opened [numbered])) 0) = true :=
  ⟨of_takes (by decide +kernel), by decide +kernel⟩

theorem test_kem_lost :
    (FlightsOrdered ({ withWin sealed_ .submit (subWin .opened [numbered]) with slots := [] }) ∧ Dispatches ({ withWin sealed_ .submit (subWin .opened [numbered]) with slots := [] }) hdr (.kemSealed kemOps)) ∧
    (windowFor (part ({ withWin sealed_ .submit (subWin .opened [numbered]) with slots := [] }) 0) .submit 5).filter Window.readable = some (subWin .opened [numbered]) ∧
    (numbersOf ((rangeSubs (subWin .opened [numbered]) 0 1).filter toDecap)).all (subHasEngine ({ withWin sealed_ .submit (subWin .opened [numbered]) with slots := [] }) 0) = false :=
  ⟨of_takes (by decide +kernel), by decide +kernel⟩

theorem test_kem_done :
    (FlightsOrdered (withWin sealed_ .submit (subWin .opened [keyed])) ∧ Dispatches (withWin sealed_ .submit (subWin .opened [keyed])) hdr (.kemSealed kemOps)) ∧
    (windowFor (part (withWin sealed_ .submit (subWin .opened [keyed])) 0) .submit 5).filter Window.readable = some (subWin .opened [keyed]) ∧
    numbersOf ((rangeSubs (subWin .opened [keyed]) 0 1).filter toDecap) = [] :=
  ⟨of_takes (by decide +kernel), by decide +kernel⟩

/-- A masked round with its table, and a window of bundles. -/
def bundled (bs : List Submission) : State :=
  withWin (withRound masked { round .recovering with survivors := [9], graph := some edgeGraph }) .recover (recWin .opened bs)


/-- KEM_DECAP of bundles: without its table, with work, and with none. -/
theorem test_bundle_without_table :
    (FlightsOrdered (withWin (withRound masked (round .recovering)) .recover (recWin .opened [numbered])) ∧ Dispatches (withWin (withRound masked (round .recovering)) .recover (recWin .opened [numbered])) hdr (.kemBundle kemOps)) ∧
    keysReady (withWin (withRound masked (round .recovering)) .recover (recWin .opened [numbered])) (part (withWin (withRound masked (round .recovering)) .recover (recWin .opened [numbered])) 0) = true ∧
    (roundOf (part (withWin (withRound masked (round .recovering)) .recover (recWin .opened [numbered])) 0) 5).bind (fun r => r.graph) = none :=
  ⟨of_takes (by decide +kernel), by decide +kernel⟩

theorem test_bundle_waits :
    (FlightsOrdered (bundled []) ∧ Dispatches (bundled []) hdr (.kemBundle kemOps)) ∧
    (windowFor (part (bundled []) 0) .recover 5).filter Window.readable = some (recWin .opened []) ∧
    (roundOf (part (bundled []) 0) 5).bind (fun r => r.graph) = some edgeGraph ∧ rangeReady (recWin .opened []) 0 1 = false :=
  ⟨of_takes (by decide +kernel), by decide +kernel⟩

theorem test_bundle_works :
    (FlightsOrdered (bundled [numbered]) ∧ Dispatches (bundled [numbered]) hdr (.kemBundle kemOps)) ∧
    (windowFor (part (bundled [numbered]) 0) .recover 5).filter Window.readable = some (recWin .opened [numbered]) ∧
    (roundOf (part (bundled [numbered]) 0) 5).bind (fun r => r.graph) = some edgeGraph ∧
    rangeReady (recWin .opened [numbered]) 0 1 = true ∧
    numbersOf ((rangeSubs (recWin .opened [numbered]) 0 1).filter toOpen) = [0] ∧
    [0].all (subHasEngine (bundled [numbered]) 0) = true :=
  ⟨of_takes (by decide +kernel), by decide +kernel⟩

theorem test_bundle_done :
    (FlightsOrdered (bundled [judged]) ∧ Dispatches (bundled [judged]) hdr (.kemBundle kemOps)) ∧
    (windowFor (part (bundled [judged]) 0) .recover 5).filter Window.readable = some (recWin .opened [judged]) ∧
    (roundOf (part (bundled [judged]) 0) 5).bind (fun r => r.graph) = some edgeGraph ∧
    numbersOf ((rangeSubs (recWin .opened [judged]) 0 1).filter toOpen) = [] :=
  ⟨of_takes (by decide +kernel), by decide +kernel⟩

theorem test_bundle_unkeyed :
    (FlightsOrdered (unkeyed masked) ∧ Dispatches (unkeyed masked) hdr (.kemBundle kemOps)) ∧
    keysReady (unkeyed masked) (part (unkeyed masked) 0) = false :=
  ⟨of_takes (by decide +kernel), by decide +kernel⟩

/-- SEALED_OPEN: without its wires or its window, with another staging area, without a key, with work, and with none. -/
theorem test_open_unkeyed :
    (FlightsOrdered (unkeyed sealed_) ∧ Dispatches (unkeyed sealed_) hdr (.sealedOpen sealedOps)) ∧
    keysReady (unkeyed sealed_) (part (unkeyed sealed_) 0) = false :=
  ⟨of_takes (by decide +kernel), by decide +kernel⟩

theorem test_open_without_window :
    (FlightsOrdered sealed_ ∧ Dispatches sealed_ hdr (.sealedOpen sealedOps)) ∧ keysReady sealed_ (part sealed_ 0) = true ∧
    (windowFor (part sealed_ 0) .submit 5).filter Window.readable = none :=
  ⟨of_takes (by decide +kernel), by decide +kernel⟩

theorem test_open_elsewhere :
    (FlightsOrdered (withWin sealed_ .submit { subWin .opened [keyed] with stageFirst := some 256, stageSlots := 2, stageUnits := 4 }) ∧ Dispatches (withWin sealed_ .submit { subWin .opened [keyed] with stageFirst := some 256, stageSlots := 2, stageUnits := 4 }) hdr (.sealedOpen sealedOps)) ∧
    keysReady (withWin sealed_ .submit { subWin .opened [keyed] with stageFirst := some 256, stageSlots := 2, stageUnits := 4 }) (part (withWin sealed_ .submit { subWin .opened [keyed] with stageFirst := some 256, stageSlots := 2, stageUnits := 4 }) 0) = true ∧
    (windowFor (part (withWin sealed_ .submit { subWin .opened [keyed] with stageFirst := some 256, stageSlots := 2, stageUnits := 4 }) 0) .submit 5).filter Window.readable = some { subWin .opened [keyed] with stageFirst := some 256, stageSlots := 2, stageUnits := 4 } ∧
    otherStaging { subWin .opened [keyed] with stageFirst := some 256, stageSlots := 2, stageUnits := 4 } sealedOps = true :=
  ⟨of_takes (by decide +kernel), by decide +kernel⟩

theorem test_open_waits :
    (FlightsOrdered (withWin sealed_ .submit (subWin .opened [])) ∧ Dispatches (withWin sealed_ .submit (subWin .opened [])) hdr (.sealedOpen sealedOps)) ∧
    (windowFor (part (withWin sealed_ .submit (subWin .opened [])) 0) .submit 5).filter Window.readable = some (subWin .opened []) ∧
    otherStaging (subWin .opened []) sealedOps = false ∧ rangeReady (subWin .opened []) 0 1 = false :=
  ⟨of_takes (by decide +kernel), by decide +kernel⟩

theorem test_open_without_key :
    (FlightsOrdered (withWin sealed_ .submit (subWin .opened [numbered])) ∧ Dispatches (withWin sealed_ .submit (subWin .opened [numbered])) hdr (.sealedOpen sealedOps)) ∧
    (windowFor (part (withWin sealed_ .submit (subWin .opened [numbered])) 0) .submit 5).filter Window.readable = some (subWin .opened [numbered]) ∧
    rangeReady (subWin .opened [numbered]) 0 1 = true ∧ numbered ∈ (rangeSubs (subWin .opened [numbered]) 0 1).filter toOpen ∧
    numbered.decapsulated = false :=
  ⟨of_takes (by decide +kernel), by decide +kernel⟩

theorem test_open_works :
    (FlightsOrdered (withWin sealed_ .submit (subWin .opened [keyed])) ∧ Dispatches (withWin sealed_ .submit (subWin .opened [keyed])) hdr (.sealedOpen sealedOps)) ∧
    (windowFor (part (withWin sealed_ .submit (subWin .opened [keyed])) 0) .submit 5).filter Window.readable = some (subWin .opened [keyed]) ∧
    otherStaging (subWin .opened [keyed]) sealedOps = false ∧ rangeReady (subWin .opened [keyed]) 0 1 = true ∧
    (rangeSubs (subWin .opened [keyed]) 0 1).filter toOpen = [keyed] ∧ keyed.decapsulated = true ∧
    [0].all (subHasEngine (withWin sealed_ .submit (subWin .opened [keyed])) 0) = true :=
  ⟨of_takes (by decide +kernel), by decide +kernel⟩

theorem test_open_done :
    (FlightsOrdered (withWin sealed_ .submit (subWin .opened [judged])) ∧ Dispatches (withWin sealed_ .submit (subWin .opened [judged])) hdr (.sealedOpen sealedOps)) ∧
    (windowFor (part (withWin sealed_ .submit (subWin .opened [judged])) 0) .submit 5).filter Window.readable = some (subWin .opened [judged]) ∧
    (rangeSubs (subWin .opened [judged]) 0 1).filter toOpen = [] :=
  ⟨of_takes (by decide +kernel), by decide +kernel⟩

/-- The ended pass of submission 0, in a descriptor of that body. -/
def subJob : TileJob := { subPass sealed_ 0 0 with passDone := true }
def subFlight (b : DescBody) : InFlight := flightOf 3 hdr b .running [subJob] none
def keyPass : State := withFlights (withWin sealed_ .submit (subWin .opened [numbered])) [subFlight (.kemSealed kemOps)]


/-- The pass of a submission commits under each of the three. -/
theorem test_key_commits :
    orderedB keyPass = true ∧ firstPass keyPass 0 (fun i => i.passDone) = some (subFlight (.kemSealed kemOps), subJob) ∧
    subJob.engine = 0 ∧ subJob.bytes = [] ∧ subJob.more = [] ∧ subJob.tmeta = none ∧ subJob.coord = none ∧ subJob.maskNext = none ∧
    subJob.summands = [0] ∧ (subFlight (.kemSealed kemOps)).dropped = [] ∧ (subFlight (.kemSealed kemOps)).phase = .running ∧
    numbered.number = some 0 ∧ numbered.verdict = some .accepted ∧ numbered.decapsulated = false ∧
    windowFor (part keyPass 0) .submit 5 = some (subWin .opened [numbered]) ∧ (subFlight (.kemSealed kemOps)).opcode = 0x51 ∧
    numbered ∈ rangeSubs (subWin .opened [numbered]) 0 1 ∧ contextKeys (part keyPass 0) (subWin .opened [numbered]) 0 < 4096 := by
  decide +kernel

theorem test_bundle_commits :
    orderedB (withFlights (bundled [numbered]) [subFlight (.kemBundle kemOps)]) = true ∧
    firstPass (withFlights (bundled [numbered]) [subFlight (.kemBundle kemOps)]) 0 (fun i => i.passDone) = some (subFlight (.kemBundle kemOps), subJob) ∧
    (subFlight (.kemBundle kemOps)).opcode = 0x51 ∧ (subFlight (.kemBundle kemOps)).phase = .running ∧
    windowFor (part (withFlights (bundled [numbered]) [subFlight (.kemBundle kemOps)]) 0) .recover 5 = some (recWin .opened [numbered]) ∧
    roundOf (part (withFlights (bundled [numbered]) [subFlight (.kemBundle kemOps)]) 0) 5 = some { round .recovering with survivors := [9], graph := some edgeGraph } ∧
    numbered ∈ rangeSubs (recWin .opened [numbered]) 0 1 ∧ numbered.final = false := by
  decide +kernel

theorem test_open_commits :
    orderedB (withFlights (withWin sealed_ .submit { subWin .opened [keyed] with stageFirst := some 128, stageSlots := 1, stageUnits := 2 }) [subFlight (.sealedOpen sealedOps)]) = true ∧
    firstPass (withFlights (withWin sealed_ .submit { subWin .opened [keyed] with stageFirst := some 128, stageSlots := 1, stageUnits := 2 }) [subFlight (.sealedOpen sealedOps)]) 0 (fun i => i.passDone) = some (subFlight (.sealedOpen sealedOps), subJob) ∧
    (subFlight (.sealedOpen sealedOps)).opcode = 0x50 ∧ (subFlight (.sealedOpen sealedOps)).phase = .running ∧
    windowFor (part (withFlights (withWin sealed_ .submit { subWin .opened [keyed] with stageFirst := some 128, stageSlots := 1, stageUnits := 2 }) [subFlight (.sealedOpen sealedOps)]) 0) .submit 5 = some { subWin .opened [keyed] with stageFirst := some 128, stageSlots := 1, stageUnits := 2 } ∧
    keyed ∈ rangeSubs { subWin .opened [keyed] with stageFirst := some 128, stageSlots := 1, stageUnits := 2 } 0 1 ∧
    keyed.final = false ∧
    stageFree { subWin .opened [keyed] with stageFirst := some 128, stageSlots := 1, stageUnits := 2 } 0 = true := by
  decide +kernel

/-- A window with one opened submission in staging slot 0, and how far CLIP has come with it. -/
def staged (c : Option ClipState) : Submission := { judged with stage := some 0, clip := c }
def stagedWin (c : Option ClipState) : Window :=
  { subWin .opened [staged c] with stageFirst := some 128, stageSlots := 1, stageUnits := 2 }
def within : ClipState := { within := true, rm := 0, re := 0, scaled := [] }
def beyond : ClipState := { within := false, rm := 2 ^ 52, re := -53, scaled := [] }


/-- CLIP: without its window or its numbers, with one not opened, with a first pass, its scaling passes, and with no work. -/
theorem test_clip_without_window :
    (FlightsOrdered sealed_ ∧ Dispatches sealed_ hdr (.clip sealedOps)) ∧
    (windowFor (part sealed_ 0) .submit 5).filter Window.readable = none :=
  ⟨of_takes (by decide +kernel), by decide +kernel⟩

theorem test_clip_waits :
    (FlightsOrdered (withWin sealed_ .submit (subWin .opened [])) ∧ Dispatches (withWin sealed_ .submit (subWin .opened [])) hdr (.clip sealedOps)) ∧
    (windowFor (part (withWin sealed_ .submit (subWin .opened [])) 0) .submit 5).filter Window.readable = some (subWin .opened []) ∧
    rangeReady (subWin .opened []) 0 1 = false :=
  ⟨of_takes (by decide +kernel), by decide +kernel⟩

theorem test_clip_not_opened :
    (FlightsOrdered (withWin sealed_ .submit (subWin .opened [keyed])) ∧ Dispatches (withWin sealed_ .submit (subWin .opened [keyed])) hdr (.clip sealedOps)) ∧
    rangeReady (subWin .opened [keyed]) 0 1 = true ∧ keyed ∈ acceptedRange (subWin .opened [keyed]) 0 1 ∧ keyed.final = false :=
  ⟨of_takes (by decide +kernel), by decide +kernel⟩

theorem test_clip_sums :
    (FlightsOrdered (withWin sealed_ .submit (stagedWin none)) ∧ Dispatches (withWin sealed_ .submit (stagedWin none)) hdr (.clip sealedOps)) ∧
    (windowFor (part (withWin sealed_ .submit (stagedWin none)) 0) .submit 5).filter Window.readable = some (stagedWin none) ∧
    rangeReady (stagedWin none) 0 1 = true ∧ acceptedRange (stagedWin none) 0 1 = [staged none] ∧
    planOk (takenUp (withWin sealed_ .submit (stagedWin none)) hdr (.clip sealedOps)) 0 (stageUnit (part (withWin sealed_ .submit (stagedWin none)) 0) (stagedWin none) (staged none)) (tileUnits (policyBits (part (withWin sealed_ .submit (stagedWin none)) 0)))
    (coordTiles (part (withWin sealed_ .submit (stagedWin none)) 0)) 1 = true ∧
    sumJobs (takenUp (withWin sealed_ .submit (stagedWin none)) hdr (.clip sealedOps)) 0 (stagedWin none) (staged none) ≠ [] :=
  ⟨of_takes (by decide +kernel), by decide +kernel⟩

theorem test_clip_scales :
    (FlightsOrdered (withWin sealed_ .submit (stagedWin (some beyond))) ∧ Dispatches (withWin sealed_ .submit (stagedWin (some beyond))) hdr (.clip sealedOps)) ∧
    (windowFor (part (withWin sealed_ .submit (stagedWin (some beyond))) 0) .submit 5).filter Window.readable = some (stagedWin (some beyond)) ∧
    clipDone (part (withWin sealed_ .submit (stagedWin (some beyond))) 0) (staged (some beyond)) = false ∧
    clipJobs (takenUp (withWin sealed_ .submit (stagedWin (some beyond))) hdr (.clip sealedOps)) 0 (stagedWin (some beyond)) (staged (some beyond)) beyond ≠ [] :=
  ⟨of_takes (by decide +kernel), by decide +kernel⟩

theorem test_clip_done :
    (FlightsOrdered (withWin sealed_ .submit (stagedWin (some within))) ∧ Dispatches (withWin sealed_ .submit (stagedWin (some within))) hdr (.clip sealedOps)) ∧
    (windowFor (part (withWin sealed_ .submit (stagedWin (some within))) 0) .submit 5).filter Window.readable = some (stagedWin (some within)) ∧
    clipDone (part (withWin sealed_ .submit (stagedWin (some within))) 0) (staged (some within)) = true :=
  ⟨of_takes (by decide +kernel), by decide +kernel⟩

/-- The ended pass of tile 0 of summand 0: a first pass, and a scaling one. -/
def sumJob : TileJob := { byteJob sealed_ 0 (pocketAddr 128) [] false false with coord := some 0, clipOf := some 0, passDone := true }
def scaleJob : TileJob := { tileJob sealed_ 0 128 (zeros 64) { state := .plain, width := 32, mode := .sats, mark := true } with
  coord := some 0, clipOf := some 0, passDone := true }
def clipFlight (j : TileJob) : InFlight := flightOf 3 hdr (.clip sealedOps) .running [j] none
def clipping (a : Nat) (c : Option ClipState) (j : TileJob) : State :=
  withFlights (holding (withWin sealed_ .submit (stagedWin c)) (pocketAddr 128) (natLe 4 a)) [clipFlight j]


/-- The last first pass of a vector at its bound 1, and of one beyond it; and a scaling pass, new and repeated. -/
theorem test_clip_within :
    orderedB (clipping 1 none sumJob) = true ∧
    firstPass (clipping 1 none sumJob) 0 (fun i => i.passDone) = some (clipFlight sumJob, sumJob) ∧
    (clipFlight sumJob).opcode = 0x52 ∧ sumJob.engine = 0 ∧ sumJob.more = [] ∧ sumJob.tmeta = none ∧
    windowFor (part (clipping 1 none sumJob) 0) .submit 5 = some (stagedWin none) ∧
    subAt (stagedWin none) 0 = some (staged none) ∧
    (clipFlight sumJob).jobs.filter (fun i => i.clipOf == some 0 && i.bytes.isEmpty) = [sumJob] ∧
    clipSum (clipping 1 none sumJob) 0 (stagedWin none) (staged none) ≤ field (part (clipping 1 none sumJob) 0).policy 0x18 8 := by
  decide +kernel

theorem test_clip_beyond :
    firstPass (clipping 2 none sumJob) 0 (fun i => i.passDone) = some (clipFlight sumJob, sumJob) ∧
    field (part (clipping 2 none sumJob) 0).policy 0x18 8 < clipSum (clipping 2 none sumJob) 0 (stagedWin none) (staged none) := by
  decide +kernel

theorem test_clip_stores :
    orderedB (clipping 2 (some beyond) scaleJob) = true ∧
    firstPass (clipping 2 (some beyond) scaleJob) 0 (fun i => i.passDone) = some (clipFlight scaleJob, scaleJob) ∧
    scaleJob.bytes ≠ [] ∧ scaleJob.engine = 0 ∧ scaleJob.more = [] ∧ 0 ∉ beyond.scaled := by
  decide +kernel

theorem test_clip_keeps :
    firstPass (clipping 2 (some { beyond with scaled := [0] }) scaleJob) 0 (fun i => i.passDone) = some (clipFlight scaleJob, scaleJob) ∧
    windowFor (part (clipping 2 (some { beyond with scaled := [0] }) scaleJob) 0) .submit 5 = some (stagedWin (some { beyond with scaled := [0] })) ∧
    0 ∈ ({ beyond with scaled := [0] } : ClipState).scaled := by
  decide +kernel

/-- DP_NOISE operands, on the tile of units 0 and 1. -/
def noiseOps : NoiseOps := { srcTile := 0, dstTile := 8, tileCount := 1, param := 1, mech := 1, rounding := 0, flags := 0 }
def tile32 (s : State) (mark : Bool) : State :=
  tiled s [(0, { state := .plain, width := 32, mode := .sats, mark := mark }), (1, { state := .plain, width := 32, mode := .sats, mark := mark })]


/-- DP_NOISE: of a tile without the mark, without a generator, and with one. -/
theorem test_noise_unmarked :
    (FlightsOrdered (tile32 sealed_ false) ∧ Dispatches (tile32 sealed_ false) hdr (.dpNoise noiseOps)) ∧
    (rangeMetas (takenUp (tile32 sealed_ false) hdr (.dpNoise noiseOps)) 0 0 2 1).all (fun m => m.mark) = false :=
  ⟨of_takes (by decide +kernel), by decide +kernel⟩

theorem test_noise_waits :
    (FlightsOrdered ({ tile32 sealed_ true with entropy := {} }) ∧ Dispatches ({ tile32 sealed_ true with entropy := {} }) hdr (.dpNoise noiseOps)) ∧
    uniformTiles (takenUp ({ tile32 sealed_ true with entropy := {} }) hdr (.dpNoise noiseOps)) 0 0 1 = true ∧
    (rangeMetas (takenUp ({ tile32 sealed_ true with entropy := {} }) hdr (.dpNoise noiseOps)) 0 0 2 1).all (fun m => m.mark) = true ∧
    planOk (takenUp ({ tile32 sealed_ true with entropy := {} }) hdr (.dpNoise noiseOps)) 0 0 2 1 1 = true ∧
    samplersRun ({ tile32 sealed_ true with entropy := {} }) 0 = false :=
  ⟨of_takes (by decide +kernel), by decide +kernel⟩

theorem test_noise_runs :
    (FlightsOrdered (tile32 sealed_ true) ∧ Dispatches (tile32 sealed_ true) hdr (.dpNoise noiseOps)) ∧
    uniformTiles (takenUp (tile32 sealed_ true) hdr (.dpNoise noiseOps)) 0 0 1 = true ∧
    (rangeMetas (takenUp (tile32 sealed_ true) hdr (.dpNoise noiseOps)) 0 0 2 1).all (fun m => m.mark) = true ∧
    planOk (takenUp (tile32 sealed_ true) hdr (.dpNoise noiseOps)) 0 0 2 1 1 = true ∧
    samplersRun (tile32 sealed_ true) 0 = true :=
  ⟨of_takes (by decide +kernel), by decide +kernel⟩

/-- RELEASE operands of one element to the window, and to the Pocket; and what the gate and the tiles say. -/
def releaseOps (pocket : Bool) : ReleaseOps :=
  { roundId := 5, flags := if pocket then 1 else 0, srcTile := 0, srcRef := 0x100000, dst := if pocket then 8 else inWin 0, count := 1,
    stageTile := 0, paramAddr := 0 }
def gate (s : State) (o : ReleaseOps) : Bool × Bool :=
  (gateAdmits (part s 0) false 5 (now s), releaseTilesOk (takenUp s hdr (.releaseAggregate o)) 0 o)


/-- RELEASE: without its wires, a second time, without a generator, and to the window and the Pocket. -/
theorem test_release_unkeyed :
    (FlightsOrdered (unkeyed (policed (tile32 sealed_ true) 0x40 0)) ∧ Dispatches (unkeyed (policed (tile32 sealed_ true) 0x40 0)) hdr (.releaseAggregate (releaseOps false))) ∧
    ((part (unkeyed (policed (tile32 sealed_ true) 0x40 0)) 0).sealsOutput && !keysReady (unkeyed (policed (tile32 sealed_ true) 0x40 0)) (part (unkeyed (policed (tile32 sealed_ true) 0x40 0)) 0)) = true :=
  ⟨of_takes (by decide +kernel), by decide +kernel⟩

theorem test_release_again :
    (FlightsOrdered (modPart (tile32 sealed_ true) 0 (fun x => { x with released := [(5, 0)] })) ∧ Dispatches (modPart (tile32 sealed_ true) 0 (fun x => { x with released := [(5, 0)] })) hdr (.releaseAggregate (releaseOps false))) ∧
    gate (modPart (tile32 sealed_ true) 0 (fun x => { x with released := [(5, 0)] })) (releaseOps false) = (false, true) ∧
    (part (modPart (tile32 sealed_ true) 0 (fun x => { x with released := [(5, 0)] })) 0).sealsOutput = false :=
  ⟨of_takes (by decide +kernel), by decide +kernel⟩

theorem test_release_waits :
    (FlightsOrdered ({ policed (tile32 sealed_ true) 0x20 1 with entropy := {} }) ∧ Dispatches ({ policed (tile32 sealed_ true) 0x20 1 with entropy := {} }) hdr (.releaseAggregate (releaseOps false))) ∧
    gate ({ policed (tile32 sealed_ true) 0x20 1 with entropy := {} }) (releaseOps false) = (true, true) ∧
    drawsNoise (part ({ policed (tile32 sealed_ true) 0x20 1 with entropy := {} }) 0) false = true ∧
    samplersRun ({ policed (tile32 sealed_ true) 0x20 1 with entropy := {} }) 0 = false :=
  ⟨of_takes (by decide +kernel), by decide +kernel⟩

theorem test_release_stages :
    (FlightsOrdered (holding (tile32 sealed_ true) (pocketAddr 0) (natLe 4 77)) ∧ Dispatches (holding (tile32 sealed_ true) (pocketAddr 0) (natLe 4 77)) hdr (.releaseAggregate (releaseOps false))) ∧
    gate (holding (tile32 sealed_ true) (pocketAddr 0) (natLe 4 77)) (releaseOps false) = (true, true) ∧
    (part (holding (tile32 sealed_ true) (pocketAddr 0) (natLe 4 77)) 0).regime ≠ 2 ∧ toWindow (releaseOps false) = true ∧ drawsNoise (part (holding (tile32 sealed_ true) (pocketAddr 0) (natLe 4 77)) 0) false = false :=
  ⟨of_takes (by decide +kernel), by decide +kernel⟩

theorem test_release_to_pocket :
    (FlightsOrdered (holding (tile32 sealed_ true) (pocketAddr 0) (natLe 4 77)) ∧ Dispatches (holding (tile32 sealed_ true) (pocketAddr 0) (natLe 4 77)) hdr (.releaseAggregate (releaseOps true))) ∧
    gate (holding (tile32 sealed_ true) (pocketAddr 0) (natLe 4 77)) (releaseOps true) = (true, true) ∧
    toWindow (releaseOps true) = false :=
  ⟨of_takes (by decide +kernel), by decide +kernel⟩

/-- RELEASE operands of the ciphertext or share of the second reference. -/
def ctRelease (pocket : Bool) : ReleaseOps :=
  { releaseOps pocket with srcRef := 0x20010, dst := if pocket then 64 else inWin 0, stageTile := 64, paramAddr := 0x10000 }
def shareHead : CtHeader := { ctHead 1 4 1 with parts := 1, dataLen := 2 * 32768 }


/-- Of a ciphertext with no headroom, with one unit of it, and of a share. -/
theorem test_release_headroom :
    (FlightsOrdered (ctState (ctHead 1 0 1) (ctHead 1 8 1)) ∧ Dispatches (ctState (ctHead 1 0 1) (ctHead 1 8 1)) hdr (.releaseAggregate (ctRelease false))) ∧
    releaseCtOk (takenUp (ctState (ctHead 1 0 1) (ctHead 1 8 1)) hdr (.releaseAggregate (ctRelease false))) 0 false (ctRelease false) = true ∧
    gateAdmits (part (ctState (ctHead 1 0 1) (ctHead 1 8 1)) 0) false 5 (now (ctState (ctHead 1 0 1) (ctHead 1 8 1))) = true ∧
    (releaseCt (takenUp (ctState (ctHead 1 0 1) (ctHead 1 8 1)) hdr (.releaseAggregate (ctRelease false))) 0 (ctRelease false)).2.2.headroom = 0 :=
  ⟨of_takes (by decide +kernel), by decide +kernel⟩

theorem test_release_ciphertext :
    (FlightsOrdered (ctState (ctHead 1 1 1) (ctHead 1 8 1)) ∧ Dispatches (ctState (ctHead 1 1 1) (ctHead 1 8 1)) hdr (.releaseAggregate (ctRelease false))) ∧
    releaseCtOk (takenUp (ctState (ctHead 1 1 1) (ctHead 1 8 1)) hdr (.releaseAggregate (ctRelease false))) 0 false (ctRelease false) = true ∧
    (releaseCt (takenUp (ctState (ctHead 1 1 1) (ctHead 1 8 1)) hdr (.releaseAggregate (ctRelease false))) 0 (ctRelease false)).2.2.headroom = 1 :=
  ⟨of_takes (by decide +kernel), by decide +kernel⟩

theorem test_release_share_pocket :
    (FlightsOrdered (ctState shareHead (ctHead 1 8 1)) ∧ Dispatches (ctState shareHead (ctHead 1 8 1)) hdr (.releaseShare (ctRelease true))) ∧
    releaseCtOk (takenUp (ctState shareHead (ctHead 1 8 1)) hdr (.releaseShare (ctRelease true))) 0 true (ctRelease true) = true ∧
    gateAdmits (part (ctState shareHead (ctHead 1 8 1)) 0) true 5 (now (ctState shareHead (ctHead 1 8 1))) = true :=
  ⟨of_takes (by decide +kernel), by decide +kernel⟩

/-- A release in its output phase. -/
def outputting (head : Bytes) : InFlight := flightOf 3 hdr (.releaseAggregate (releaseOps false)) (.output head []) [] none


/-- The output phase of a release, and with none. -/
theorem test_release_outputs :
    orderedB (withFlights (holding sealed_ 0x100000 (natLe 4 77)) [outputting (zeros 64)]) = true ∧
    flying (withFlights (holding sealed_ 0x100000 (natLe 4 77)) [outputting (zeros 64)]) 0 = [] ++ outputting (zeros 64) :: [] ∧
    (outputting (zeros 64)).phase = .output (zeros 64) [] := by
  decide +kernel

theorem test_release_outputs_none :
    flying sealed_ 0 = [] := by
  decide +kernel

/-! The Zipper -/

/-- A link key of partition 0, and a state with it, with ports, and with space 3 LIVE in slot 0 under it. -/
def linkKeyOf (ctr : Nat) (torn : Bool) : LinkKey :=
  { p := 0, keyId := 1, key := zeros 32, ctr := ctr, torn := torn, expiry := 0, dying := false }
def keyedLink (k : LinkKey) (s : State) : State :=
  let s1 := linked s
  setReg (setReg (modPart { s1 with shawl := { s1.shawl with keys := [k] } } 0 (fun x => { x with spaces := [(0, { mode := .live })] }))
    (.spId 0 0) 3) (.spCtrl 0 0) 1

/-- A chain declaration of round 5 over one 16-bit tile and two members, in the window. -/
def declBytes (members : List Nat) : Bytes :=
  natLe 2 0x0401 ++ zeros 2 ++ natLe 2 2 ++ zeros 2 ++ natLe 8 5 ++ natLe 4 1 ++ natLe 1 0 ++ natLe 1 0 ++ zeros 2 ++ natLe 8 0 ++ natLe 8 3 ++
    zeros 24 ++ members.flatMap (natLe 4)
def chainTile : TileMeta := { state := .plain, width := 16, roundId := 5 }
def chainState (k : LinkKey) (members : List Nat) : State :=
  tiled (holding (keyedLink k sealed_) (inWin 0) (declBytes members)) [(0, chainTile)]
def sendOps (round deadline : Nat) : ZipSendOps := { declAddr := inWin 0, roundId := round, srcTile := 0, tileCount := 1, deadline := deadline }

/-- What the checks of ZIP_SEND and ZIP_RECV say of the declaration. -/
def agrees (s : State) (b : DescBody) (round own : Nat) (recv : Bool) : Bool :=
  let d := declAt s 0 (inWin 0)
  let j := chainPlace s 0 d
  declOk (takenUp s hdr b) 0 d && d.roundId == round && d.tiles == 1 && (if recv then decide (0 < j) else decide (j + 1 < d.count)) &&
    (rangeMetas s 0 own 1 1).all (chainTileOk d) && roundUnmasked (part s 0) round && decide (chainKey s 0 d.spaceId = some 1)


/-- ZIP_SEND: for another round, with its key torn or used up, late, and waiting for credits. -/
theorem test_zip_disagrees :
    (FlightsOrdered (chainState (linkKeyOf 1 false) [0, 4096]) ∧ Dispatches (chainState (linkKeyOf 1 false) [0, 4096]) hdr (.zipSend (sendOps 6 0))) ∧
    (declAt (chainState (linkKeyOf 1 false) [0, 4096]) 0 (inWin 0)).roundId ≠ 6 :=
  ⟨of_takes (by decide +kernel), by decide +kernel⟩

theorem test_zip_torn :
    (FlightsOrdered (chainState (linkKeyOf 1 true) [0, 4096]) ∧ Dispatches (chainState (linkKeyOf 1 true) [0, 4096]) hdr (.zipSend (sendOps 5 0))) ∧
    agrees (chainState (linkKeyOf 1 true) [0, 4096]) (.zipSend (sendOps 5 0)) 5 0 false = true ∧
    linkKey (chainState (linkKeyOf 1 true) [0, 4096]) 0 1 = some (linkKeyOf 1 true) :=
  ⟨of_takes (by decide +kernel), by decide +kernel⟩

theorem test_zip_used_up :
    (FlightsOrdered (chainState (linkKeyOf (2 ^ 48 - 1) false) [0, 4096]) ∧ Dispatches (chainState (linkKeyOf (2 ^ 48 - 1) false) [0, 4096]) hdr (.zipSend (sendOps 5 0))) ∧
    agrees (chainState (linkKeyOf (2 ^ 48 - 1) false) [0, 4096]) (.zipSend (sendOps 5 0)) 5 0 false = true ∧
    keySends (chainState (linkKeyOf (2 ^ 48 - 1) false) [0, 4096]) 0 1 = false :=
  ⟨of_takes (by decide +kernel), by decide +kernel⟩

theorem test_zip_late :
    (FlightsOrdered (chainState (linkKeyOf (2 ^ 48 - 2) false) [0, 4096]) ∧ Dispatches (chainState (linkKeyOf (2 ^ 48 - 2) false) [0, 4096]) hdr (.zipSend (sendOps 5 100000))) ∧
    agrees (chainState (linkKeyOf (2 ^ 48 - 2) false) [0, 4096]) (.zipSend (sendOps 5 100000)) 5 0 false = true ∧
    keySends (chainState (linkKeyOf (2 ^ 48 - 2) false) [0, 4096]) 0 1 = true ∧
    100000 ≤ now (chainState (linkKeyOf (2 ^ 48 - 2) false) [0, 4096]) :=
  ⟨of_takes (by decide +kernel), by decide +kernel⟩

theorem test_zip_waits :
    (FlightsOrdered (chainState (linkKeyOf 1 false) [0, 4096]) ∧ Dispatches (chainState (linkKeyOf 1 false) [0, 4096]) hdr (.zipSend (sendOps 5 100001))) ∧
    agrees (chainState (linkKeyOf 1 false) [0, 4096]) (.zipSend (sendOps 5 100001)) 5 0 false = true ∧
    now (chainState (linkKeyOf 1 false) [0, 4096]) < 100001 ∧
    (part (chainState (linkKeyOf 1 false) [0, 4096]) 0).zipCredits = [] :=
  ⟨of_takes (by decide +kernel), by decide +kernel⟩

/-- ZIP_SEND with two credits at hand of which one was granted: its pump sends the whole tile, or stops at the key's last value. -/
def pumped (ctr : Nat) : State × ZipTx × Bool :=
  let s := modPart (chainState (linkKeyOf ctr false) [0, 4096]) 0 (fun x => { x with zipCredits := [((declOf (declBytes [0, 4096])).digest, 1, 2, 1)] })
  let c := takeCredits (takenUp s hdr (.zipSend (sendOps 5 0))) 0 (declOf (declBytes [0, 4096])).digest
  let tx : ZipTx := { digest := (declOf (declBytes [0, 4096])).digest, nextDst := 4096, keyId := 1, width := 16, firstTile := 0, tiles := 1,
                      sentBytes := 0, credits := c.2.2.1, depth := c.2.1, gen := c.2.2.2 }
  pumpZip 0 1 (pumpFuel tx) (waitIn c.1 s.nextId (.zipSend tx), tx, false)


theorem test_zip_pumps :
    (pumped 1).2.2 = false ∧ 1 ≤ tilesTaken (pumped 1).2.1 := by
  decide +kernel

theorem test_zip_stuck :
    (pumped (2 ^ 48 - 2)).2.2 = true := by
  decide +kernel

/-- ZIP_RECV operands of the second member. -/
def recvOps (round deadline : Nat) : ZipRecvOps :=
  { declAddr := inWin 0, roundId := round, ownTile := 0, dstTile := 8, deadline := deadline, landingTile := 16, landingDepth := 2, flags := 0 }


/-- ZIP_RECV in the same cases, and admitted. -/
theorem test_recv_disagrees :
    (FlightsOrdered (chainState (linkKeyOf 1 false) [0, 4096]) ∧ Dispatches (chainState (linkKeyOf 1 false) [0, 4096]) hdr (.zipRecv (recvOps 5 0))) ∧
    chainPlace (chainState (linkKeyOf 1 false) [0, 4096]) 0 (declAt (chainState (linkKeyOf 1 false) [0, 4096]) 0 (inWin 0)) = 0 :=
  ⟨of_takes (by decide +kernel), by decide +kernel⟩

theorem test_recv_torn :
    (FlightsOrdered (chainState (linkKeyOf 1 true) [4096, 0]) ∧ Dispatches (chainState (linkKeyOf 1 true) [4096, 0]) hdr (.zipRecv (recvOps 5 0))) ∧
    agrees (chainState (linkKeyOf 1 true) [4096, 0]) (.zipRecv (recvOps 5 0)) 5 0 true = true ∧
    planOk (chainState (linkKeyOf 1 true) [4096, 0]) 0 0 1 1 1 = true :=
  ⟨of_takes (by decide +kernel), by decide +kernel⟩

theorem test_recv_late :
    (FlightsOrdered (chainState (linkKeyOf 1 false) [4096, 0]) ∧ Dispatches (chainState (linkKeyOf 1 false) [4096, 0]) hdr (.zipRecv (recvOps 5 100000))) ∧
    agrees (chainState (linkKeyOf 1 false) [4096, 0]) (.zipRecv (recvOps 5 100000)) 5 0 true = true ∧
    100000 ≤ now (chainState (linkKeyOf 1 false) [4096, 0]) :=
  ⟨of_takes (by decide +kernel), by decide +kernel⟩

theorem test_recv_grants :
    (FlightsOrdered (chainState (linkKeyOf 1 false) [4096, 0]) ∧ Dispatches (chainState (linkKeyOf 1 false) [4096, 0]) hdr (.zipRecv (recvOps 5 0))) ∧
    agrees (chainState (linkKeyOf 1 false) [4096, 0]) (.zipRecv (recvOps 5 0)) 5 0 true = true ∧
    keySends (chainState (linkKeyOf 1 false) [4096, 0]) 0 1 = true ∧
    (sendSealed (chainState (linkKeyOf 1 false) [4096, 0]) 0 1 { ptype := 17, gen := 1, dst := 4096, body := zeros 16, payload := natLe 4 2 ++ zeros 12 }).isSome = true :=
  ⟨of_takes (by decide +kernel), by decide +kernel⟩

/-- A packet that arrives sealed under that key. -/
def plainPkt (ty gen : Nat) (body payload : Bytes) : Packet :=
  { packet ty (fit 16 body) payload true with enc := true, keyId := 1, ctr := 1, gen := gen }
def sealedAt (ty gen : Nat) (body payload : Bytes) : Arrival := { port := 0, dt := 10, frac := 0, pkt := sealWith (plainPkt ty gen body payload) }

/-- A ZIP_RECV of one tile that has received all but its last byte, and a ZIP_SEND. -/
def rxOf (n : Nat) : ZipRx :=
  { digest := zeros 16, prevDst := 4096, keyId := 1, width := 16, mode := .mod2k, modulus := 0, received := n, buffer := zeros n,
    combined := 0, mark := false, model := false, tiles := 1, tail := true }
def txOf (credits depth sent : Nat) : ZipTx :=
  { digest := zeros 16, nextDst := 4096, keyId := 1, width := 16, firstTile := 0, tiles := 1, sentBytes := sent, credits := credits, depth := depth, gen := 1 }
def receiver (n deadline : Nat) : InFlight := flightOf 3 hdr (.zipRecv (recvOps 5 deadline)) (.zipRecv (rxOf n) none) [] none
def sender (c d b : Nat) : InFlight := flightOf 4 hdr (.zipSend (sendOps 5 200000)) (.zipSend (txOf c d b)) [] none
def zipping (fs : List InFlight) : State := withFlights (tiled (keyedLink (linkKeyOf 1 false) sealed_) [(0, chainTile)]) fs

/-- The payload of a ZIP_TILE at an offset. -/
def tileBody (off n : Nat) : Bytes := natLe 8 off ++ zeros 8 ++ zeros n


/-- A ZIP_TILE of an earlier generation, without a receiver, late, from another member, out of its place, and in it. -/
theorem test_tile_stale :
    (arrivalVerdict (zipping [receiver 8191 0]) (sealedAt 16 2 (zeros 16) (tileBody 8191 1)) 16 = .here (heard (zipping [receiver 8191 0]) (sealedAt 16 2 (zeros 16) (tileBody 8191 1)) (tileBody 8191 1)) (entering (zipping [receiver 8191 0]) (sealedAt 16 2 (zeros 16) (tileBody 8191 1))).2.1 (tileBody 8191 1) (entering (zipping [receiver 8191 0]) (sealedAt 16 2 (zeros 16) (tileBody 8191 1))).2.2) ∧
    (sealedAt 16 2 (zeros 16) (tileBody 8191 1)).pkt.gen ≠ (part (heard (zipping [receiver 8191 0]) (sealedAt 16 2 (zeros 16) (tileBody 8191 1)) (tileBody 8191 1)) 0).gen :=
  ⟨here_of_sealed (k := plainPkt 16 2 (zeros 16) (tileBody 8191 1)) (e := linkKeyOf 1 false) rfl (by decide +kernel), by decide +kernel⟩

theorem test_tile_unreceived :
    (arrivalVerdict (zipping []) (sealedAt 16 1 (zeros 16) (tileBody 0 1)) 16 = .here (heard (zipping []) (sealedAt 16 1 (zeros 16) (tileBody 0 1)) (tileBody 0 1)) (entering (zipping []) (sealedAt 16 1 (zeros 16) (tileBody 0 1))).2.1 (tileBody 0 1) (entering (zipping []) (sealedAt 16 1 (zeros 16) (tileBody 0 1))).2.2) ∧
    (sealedAt 16 1 (zeros 16) (tileBody 0 1)).pkt.gen = (part (heard (zipping []) (sealedAt 16 1 (zeros 16) (tileBody 0 1)) (tileBody 0 1)) 0).gen ∧
    receiverOf (heard (zipping []) (sealedAt 16 1 (zeros 16) (tileBody 0 1)) (tileBody 0 1)) 0 (zeros 16) = none :=
  ⟨here_of_sealed (k := plainPkt 16 1 (zeros 16) (tileBody 0 1)) (e := linkKeyOf 1 false) rfl (by decide +kernel), by decide +kernel⟩

theorem test_tile_late :
    (arrivalVerdict (zipping [receiver 0 100010]) (sealedAt 16 1 (zeros 16) (tileBody 0 1)) 16 = .here (heard (zipping [receiver 0 100010]) (sealedAt 16 1 (zeros 16) (tileBody 0 1)) (tileBody 0 1)) (entering (zipping [receiver 0 100010]) (sealedAt 16 1 (zeros 16) (tileBody 0 1))).2.1 (tileBody 0 1) (entering (zipping [receiver 0 100010]) (sealedAt 16 1 (zeros 16) (tileBody 0 1))).2.2) ∧
    receiverOf (heard (zipping [receiver 0 100010]) (sealedAt 16 1 (zeros 16) (tileBody 0 1)) (tileBody 0 1)) 0 (zeros 16) = some (receiver 0 100010, recvOps 5 100010, rxOf 0, none) ∧
    ¬ ((recvOps 5 100010).deadline = 0 ∨ ((entering (zipping [receiver 0 100010]) (sealedAt 16 1 (zeros 16) (tileBody 0 1))).2.1).ns < (recvOps 5 100010).deadline) :=
  ⟨here_of_sealed (k := plainPkt 16 1 (zeros 16) (tileBody 0 1)) (e := linkKeyOf 1 false) rfl (by decide +kernel), by decide +kernel⟩

theorem test_tile_misplaced :
    (arrivalVerdict (zipping [receiver 0 100011]) (sealedAt 16 1 (zeros 16) (tileBody 1 1)) 16 = .here (heard (zipping [receiver 0 100011]) (sealedAt 16 1 (zeros 16) (tileBody 1 1)) (tileBody 1 1)) (entering (zipping [receiver 0 100011]) (sealedAt 16 1 (zeros 16) (tileBody 1 1))).2.1 (tileBody 1 1) (entering (zipping [receiver 0 100011]) (sealedAt 16 1 (zeros 16) (tileBody 1 1))).2.2) ∧
    ((entering (zipping [receiver 0 100011]) (sealedAt 16 1 (zeros 16) (tileBody 1 1))).2.1).ns < (recvOps 5 100011).deadline ∧
    field (tileBody 1 1) 0 8 ≠ (rxOf 0).received :=
  ⟨here_of_sealed (k := plainPkt 16 1 (zeros 16) (tileBody 1 1)) (e := linkKeyOf 1 false) rfl (by decide +kernel), by decide +kernel⟩

theorem test_tile_joins :
    (arrivalVerdict (zipping [receiver 0 0]) (sealedAt 16 1 (zeros 16) (tileBody 0 1)) 16 = .here (heard (zipping [receiver 0 0]) (sealedAt 16 1 (zeros 16) (tileBody 0 1)) (tileBody 0 1)) (entering (zipping [receiver 0 0]) (sealedAt 16 1 (zeros 16) (tileBody 0 1))).2.1 (tileBody 0 1) (entering (zipping [receiver 0 0]) (sealedAt 16 1 (zeros 16) (tileBody 0 1))).2.2) ∧
    orderedB (heard (zipping [receiver 0 0]) (sealedAt 16 1 (zeros 16) (tileBody 0 1)) (tileBody 0 1)) = true ∧
    receiverOf (heard (zipping [receiver 0 0]) (sealedAt 16 1 (zeros 16) (tileBody 0 1)) (tileBody 0 1)) 0 (zeros 16) = some (receiver 0 0, recvOps 5 0, rxOf 0, none) ∧
    field (tileBody 0 1) 0 8 = 0 ∧ 0 + ((tileBody 0 1).drop 16).length ≤ 1 * tileBytes 16 ∧ field (tileBody 0 1) 8 1 < 4 ∧
    ((rxOf 0).buffer ++ (tileBody 0 1).drop 16).length < tileBytes 16 :=
  ⟨here_of_sealed (k := plainPkt 16 1 (zeros 16) (tileBody 0 1)) (e := linkKeyOf 1 false) rfl (by decide +kernel), by decide +kernel⟩

theorem test_tile_lands :
    (arrivalVerdict (zipping [receiver 8191 0]) (sealedAt 16 1 (zeros 16) (tileBody 8191 1)) 16 = .here (heard (zipping [receiver 8191 0]) (sealedAt 16 1 (zeros 16) (tileBody 8191 1)) (tileBody 8191 1)) (entering (zipping [receiver 8191 0]) (sealedAt 16 1 (zeros 16) (tileBody 8191 1))).2.1 (tileBody 8191 1) (entering (zipping [receiver 8191 0]) (sealedAt 16 1 (zeros 16) (tileBody 8191 1))).2.2) ∧
    orderedB (heard (zipping [receiver 8191 0]) (sealedAt 16 1 (zeros 16) (tileBody 8191 1)) (tileBody 8191 1)) = true ∧
    (receiverOf (heard (zipping [receiver 8191 0]) (sealedAt 16 1 (zeros 16) (tileBody 8191 1)) (tileBody 8191 1)) 0 (zeros 16)).map (fun e => e.1.id) = some 3 ∧
    field (tileBody 8191 1) 0 8 = 8191 ∧ ((tileBody 8191 1).drop 16).length = 1 :=
  ⟨here_of_sealed (k := plainPkt 16 1 (zeros 16) (tileBody 8191 1)) (e := linkKeyOf 1 false) rfl (by decide +kernel), by decide +kernel⟩

/-- A ZIP_CREDIT without a sender, a first and a second one; the first grant; the credit of the last commit. -/
theorem test_credit_held :
    (arrivalVerdict (zipping []) (sealedAt 17 1 (zeros 16) (natLe 4 2 ++ zeros 12)) 17 = .here (heard (zipping []) (sealedAt 17 1 (zeros 16) (natLe 4 2 ++ zeros 12)) (natLe 4 2 ++ zeros 12)) (entering (zipping []) (sealedAt 17 1 (zeros 16) (natLe 4 2 ++ zeros 12))).2.1 (natLe 4 2 ++ zeros 12) (entering (zipping []) (sealedAt 17 1 (zeros 16) (natLe 4 2 ++ zeros 12))).2.2) ∧
    senderOf (heard (zipping []) (sealedAt 17 1 (zeros 16) (natLe 4 2 ++ zeros 12)) (natLe 4 2 ++ zeros 12)) 0 (zeros 16) = none ∧
    (part (heard (zipping []) (sealedAt 17 1 (zeros 16) (natLe 4 2 ++ zeros 12)) (natLe 4 2 ++ zeros 12)) 0).zipCredits = [] :=
  ⟨here_of_sealed (k := plainPkt 17 1 (zeros 16) (natLe 4 2 ++ zeros 12)) (e := linkKeyOf 1 false) rfl (by decide +kernel), by decide +kernel⟩

theorem test_credit_added :
    (arrivalVerdict (modPart (zipping []) 0 (fun x => { x with zipCredits := [(zeros 16, 2, 2, 1)] })) (sealedAt 17 1 (zeros 16) (natLe 4 1 ++ zeros 12)) 17 = .here (heard (modPart (zipping []) 0 (fun x => { x with zipCredits := [(zeros 16, 2, 2, 1)] })) (sealedAt 17 1 (zeros 16) (natLe 4 1 ++ zeros 12)) (natLe 4 1 ++ zeros 12)) (entering (modPart (zipping []) 0 (fun x => { x with zipCredits := [(zeros 16, 2, 2, 1)] })) (sealedAt 17 1 (zeros 16) (natLe 4 1 ++ zeros 12))).2.1 (natLe 4 1 ++ zeros 12) (entering (modPart (zipping []) 0 (fun x => { x with zipCredits := [(zeros 16, 2, 2, 1)] })) (sealedAt 17 1 (zeros 16) (natLe 4 1 ++ zeros 12))).2.2) ∧
    senderOf (heard (modPart (zipping []) 0 (fun x => { x with zipCredits := [(zeros 16, 2, 2, 1)] })) (sealedAt 17 1 (zeros 16) (natLe 4 1 ++ zeros 12)) (natLe 4 1 ++ zeros 12)) 0 (zeros 16) = none ∧
    (part (heard (modPart (zipping []) 0 (fun x => { x with zipCredits := [(zeros 16, 2, 2, 1)] })) (sealedAt 17 1 (zeros 16) (natLe 4 1 ++ zeros 12)) (natLe 4 1 ++ zeros 12)) 0).zipCredits = [(zeros 16, 2, 2, 1)] :=
  ⟨here_of_sealed (k := plainPkt 17 1 (zeros 16) (natLe 4 1 ++ zeros 12)) (e := linkKeyOf 1 false) rfl (by decide +kernel), by decide +kernel⟩

theorem test_credit_grants :
    (arrivalVerdict (zipping [sender 0 0 0]) (sealedAt 17 1 (zeros 16) (natLe 4 2 ++ zeros 12)) 17 = .here (heard (zipping [sender 0 0 0]) (sealedAt 17 1 (zeros 16) (natLe 4 2 ++ zeros 12)) (natLe 4 2 ++ zeros 12)) (entering (zipping [sender 0 0 0]) (sealedAt 17 1 (zeros 16) (natLe 4 2 ++ zeros 12))).2.1 (natLe 4 2 ++ zeros 12) (entering (zipping [sender 0 0 0]) (sealedAt 17 1 (zeros 16) (natLe 4 2 ++ zeros 12))).2.2) ∧
    orderedB (heard (zipping [sender 0 0 0]) (sealedAt 17 1 (zeros 16) (natLe 4 2 ++ zeros 12)) (natLe 4 2 ++ zeros 12)) = true ∧
    senderOf (heard (zipping [sender 0 0 0]) (sealedAt 17 1 (zeros 16) (natLe 4 2 ++ zeros 12)) (natLe 4 2 ++ zeros 12)) 0 (zeros 16) = some (sender 0 0 0, txOf 0 0 0) ∧
    (sealedAt 17 1 (zeros 16) (natLe 4 2 ++ zeros 12)).pkt.src = (txOf 0 0 0).nextDst ∧
    0 < (txOf 0 0 0).width ∧ 0 < (txOf 0 0 0).tiles ∧ (txOf 0 0 0).tiles ≤ field (natLe 4 2 ++ zeros 12) 0 4 ∧
    linkKey (heard (zipping [sender 0 0 0]) (sealedAt 17 1 (zeros 16) (natLe 4 2 ++ zeros 12)) (natLe 4 2 ++ zeros 12)) 0 1 = some (linkKeyOf 1 false) ∧
    (linkKeyOf 1 false).ctr + (1 * tileBytes 16 + 4079) / 4080 ≤ 2 ^ 48 - 1 :=
  ⟨here_of_sealed (k := plainPkt 17 1 (zeros 16) (natLe 4 2 ++ zeros 12)) (e := linkKeyOf 1 false) rfl (by decide +kernel), by decide +kernel⟩

theorem test_credit_completes :
    (arrivalVerdict (zipping [sender 2 2 8192]) (sealedAt 17 1 (zeros 16) (natLe 4 1 ++ zeros 12)) 17 = .here (heard (zipping [sender 2 2 8192]) (sealedAt 17 1 (zeros 16) (natLe 4 1 ++ zeros 12)) (natLe 4 1 ++ zeros 12)) (entering (zipping [sender 2 2 8192]) (sealedAt 17 1 (zeros 16) (natLe 4 1 ++ zeros 12))).2.1 (natLe 4 1 ++ zeros 12) (entering (zipping [sender 2 2 8192]) (sealedAt 17 1 (zeros 16) (natLe 4 1 ++ zeros 12))).2.2) ∧
    senderOf (heard (zipping [sender 2 2 8192]) (sealedAt 17 1 (zeros 16) (natLe 4 1 ++ zeros 12)) (natLe 4 1 ++ zeros 12)) 0 (zeros 16) = some (sender 2 2 8192, txOf 2 2 8192) ∧
    (txOf 2 2 8192).sentBytes = (txOf 2 2 8192).tiles * tileBytes 16 ∧
    (txOf 2 2 8192).depth + (txOf 2 2 8192).tiles ≤ (txOf 2 2 8192).credits + field (natLe 4 1 ++ zeros 12) 0 4 :=
  ⟨here_of_sealed (k := plainPkt 17 1 (zeros 16) (natLe 4 1 ++ zeros 12)) (e := linkKeyOf 1 false) rfl (by decide +kernel), by decide +kernel⟩

/-- A ZIP_REPLY for its sender, and one without. -/
theorem test_reply_ends :
    (arrivalVerdict (zipping [sender 2 2 8192]) (sealedAt 18 1 (zeros 16) (natLe 1 stLate ++ zeros 15)) 18 = .here (heard (zipping [sender 2 2 8192]) (sealedAt 18 1 (zeros 16) (natLe 1 stLate ++ zeros 15)) (natLe 1 stLate ++ zeros 15)) (entering (zipping [sender 2 2 8192]) (sealedAt 18 1 (zeros 16) (natLe 1 stLate ++ zeros 15))).2.1 (natLe 1 stLate ++ zeros 15) (entering (zipping [sender 2 2 8192]) (sealedAt 18 1 (zeros 16) (natLe 1 stLate ++ zeros 15))).2.2) ∧
    senderOf (heard (zipping [sender 2 2 8192]) (sealedAt 18 1 (zeros 16) (natLe 1 stLate ++ zeros 15)) (natLe 1 stLate ++ zeros 15)) 0 (zeros 16) = some (sender 2 2 8192, txOf 2 2 8192) ∧
    (sealedAt 18 1 (zeros 16) (natLe 1 stLate ++ zeros 15)).pkt.gen = (txOf 2 2 8192).gen :=
  ⟨here_of_sealed (k := plainPkt 18 1 (zeros 16) (natLe 1 stLate ++ zeros 15)) (e := linkKeyOf 1 false) rfl (by decide +kernel), by decide +kernel⟩

theorem test_reply_unsent :
    (arrivalVerdict (zipping []) (sealedAt 18 1 (zeros 16) (natLe 1 stLate ++ zeros 15)) 18 = .here (heard (zipping []) (sealedAt 18 1 (zeros 16) (natLe 1 stLate ++ zeros 15)) (natLe 1 stLate ++ zeros 15)) (entering (zipping []) (sealedAt 18 1 (zeros 16) (natLe 1 stLate ++ zeros 15))).2.1 (natLe 1 stLate ++ zeros 15) (entering (zipping []) (sealedAt 18 1 (zeros 16) (natLe 1 stLate ++ zeros 15))).2.2) ∧
    senderOf (heard (zipping []) (sealedAt 18 1 (zeros 16) (natLe 1 stLate ++ zeros 15)) (natLe 1 stLate ++ zeros 15)) 0 (zeros 16) = none :=
  ⟨here_of_sealed (k := plainPkt 18 1 (zeros 16) (natLe 1 stLate ++ zeros 15)) (e := linkKeyOf 1 false) rfl (by decide +kernel), by decide +kernel⟩

/-- A deadline with tiles unsent, and none. -/
theorem test_zip_deadline :
    orderedB (zipping [receiver 0 0, sender 0 0 0]) = true ∧
    earliest ((flying (zipping [receiver 0 0, sender 0 0 0]) 0).filterMap zipDeadline) = some 200000 ∧
    zipDeadline (receiver 0 0) = none := by
  decide +kernel

theorem test_zip_deadline_none :
    (flying (zipping []) 0).filterMap zipDeadline = [] := by
  decide +kernel

/-! Remote memory -/

/-- Queue pair 9 of domain 1, bound to slot 0 with every right, over an export of DRAM byte 0 on and of Pocket unit 0 on. -/
def qp : Qp :=
  { qpn := 9, spaceId := 3, pd := 1, ready := true, errStatus := 0, peer := 4096, peerQpn := 4, timeoutUs := 20, txPsn := 5, unaPsn := 5,
    rxPsn := 7, lastEndPsn := 6, lastStatus := 0, sent := [], seqSent := false, msg := none }
def rmaRegs (s : State) : State :=
  [(Reg.rmaPdCtrl 0 1, 135), (.rmaCtLimit 0, 100), (.rmaCcCfg 0, 256), (.rmaMissCfg 0, 2 + 2 * 2 ^ 16), (.spExpLo 0 0 0, 263),
    (.spExpHi 0 0 0, 1), (.spExpLo 0 0 1, 2 ^ 32 + 263), (.spExpHi 0 0 1, 2 * 2 ^ 60 + 1)].foldl (fun t e => setReg t e.1 e.2) s
def remote (f : Partition → Partition) : State := modPart (rmaRegs (keyedLink (linkKeyOf 1 false) sealed_)) 0 f
def withQp (q : Qp) : Partition → Partition := fun x => { x with qps := [q] }

/-- RMA operands of 64 bytes of DRAM. -/
def rmaOf (n : Nat) : RmaOps := { qpn := n, len := 64, loc := 0x100000, remote := 0, width := 0, flags := 0, timeoutUs := 0 }


/-- RMA_WRITE: beyond the table, without its context twice, in ERROR, without the right, on a revoked slot, and admitted. -/
theorem test_rma_beyond :
    (FlightsOrdered (remote (fun x => x)) ∧ Dispatches (remote (fun x => x)) hdr (.rmaWrite (rmaOf 101))) ∧
    qpOf (remote (fun x => x)) 0 101 = none ∧ regField (remote (fun x => x)) (.rmaCtLimit 0) 23 0 < 101 :=
  ⟨of_takes (by decide +kernel), by decide +kernel⟩

theorem test_rma_fetches :
    (FlightsOrdered (remote (fun x => x)) ∧ Dispatches (remote (fun x => x)) hdr (.rmaWrite (rmaOf 100))) ∧
    qpOf (remote (fun x => x)) 0 100 = none ∧ 100 ≤ regField (remote (fun x => x)) (.rmaCtLimit 0) 23 0 ∧
    (part (remote (fun x => x)) 0).misses.length < regField (remote (fun x => x)) (.rmaMissCfg 0) 6 0 :=
  ⟨of_takes (by decide +kernel), by decide +kernel⟩

theorem test_rma_waits :
    (FlightsOrdered (remote (fun x => { x with misses := [{ qpn := 7, stamp := ⟨0, 0⟩, held := [] }, { qpn := 8, stamp := ⟨0, 0⟩, held := [] }] })) ∧ Dispatches (remote (fun x => { x with misses := [{ qpn := 7, stamp := ⟨0, 0⟩, held := [] }, { qpn := 8, stamp := ⟨0, 0⟩, held := [] }] })) hdr (.rmaWrite (rmaOf 100))) ∧
    qpOf (remote (fun x => { x with misses := [{ qpn := 7, stamp := ⟨0, 0⟩, held := [] }, { qpn := 8, stamp := ⟨0, 0⟩, held := [] }] })) 0 100 = none ∧
    ¬ (part (remote (fun x => { x with misses := [{ qpn := 7, stamp := ⟨0, 0⟩, held := [] }, { qpn := 8, stamp := ⟨0, 0⟩, held := [] }] })) 0).misses.length < regField (remote (fun x => { x with misses := [{ qpn := 7, stamp := ⟨0, 0⟩, held := [] }, { qpn := 8, stamp := ⟨0, 0⟩, held := [] }] })) (.rmaMissCfg 0) 6 0 :=
  ⟨of_takes (by decide +kernel), by decide +kernel⟩

theorem test_rma_in_error :
    (FlightsOrdered (remote (withQp { qp with ready := false, errStatus := stTorn })) ∧ Dispatches (remote (withQp { qp with ready := false, errStatus := stTorn })) hdr (.rmaRead (rmaOf 9))) ∧
    (qpOf (remote (withQp { qp with ready := false, errStatus := stTorn })) 0 9).map (fun q => (q.ready, q.errStatus)) = some (false, stTorn) :=
  ⟨of_takes (by decide +kernel), by decide +kernel⟩

theorem test_rma_without_right :
    (FlightsOrdered (setReg (remote (withQp qp)) (.rmaPdCtrl 0 1) 131) ∧ Dispatches (setReg (remote (withQp qp)) (.rmaPdCtrl 0 1) 131) hdr (.rmaAdd (rmaOf 9))) ∧
    qpOf (setReg (remote (withQp qp)) (.rmaPdCtrl 0 1) 131) 0 9 = some qp ∧
    pdRight (setReg (remote (withQp qp)) (.rmaPdCtrl 0 1) 131) 0 1 2 = false :=
  ⟨of_takes (by decide +kernel), by decide +kernel⟩

theorem test_rma_revoked :
    (FlightsOrdered (remote (fun x => { x with qps := [qp], spaces := [(0, { mode := .live, tR := some 100000 })] })) ∧ Dispatches (remote (fun x => { x with qps := [qp], spaces := [(0, { mode := .live, tR := some 100000 })] })) hdr (.rmaWrite (rmaOf 9))) ∧
    pdRight (remote (fun x => { x with qps := [qp], spaces := [(0, { mode := .live, tR := some 100000 })] })) 0 1 0 = true ∧ keyDying (remote (fun x => { x with qps := [qp], spaces := [(0, { mode := .live, tR := some 100000 })] })) 0 (qpKey (remote (fun x => { x with qps := [qp], spaces := [(0, { mode := .live, tR := some 100000 })] })) 0 qp) = false ∧
    (slotState (remote (fun x => { x with qps := [qp], spaces := [(0, { mode := .live, tR := some 100000 })] })) 0 (pdSlot (remote (fun x => { x with qps := [qp], spaces := [(0, { mode := .live, tR := some 100000 })] })) 0 1)).tR = some 100000 ∧ 100000 ≤ now (remote (fun x => { x with qps := [qp], spaces := [(0, { mode := .live, tR := some 100000 })] })) :=
  ⟨of_takes (by decide +kernel), by decide +kernel⟩

theorem test_rma_sends :
    (FlightsOrdered (remote (withQp qp)) ∧ Dispatches (remote (withQp qp)) hdr (.rmaWrite (rmaOf 9))) ∧
    qpOf (remote (withQp qp)) 0 9 = some qp ∧
    pdRight (remote (withQp qp)) 0 1 0 = true ∧ keyDying (remote (withQp qp)) 0 (qpKey (remote (withQp qp)) 0 qp) = false ∧
    slotState (remote (withQp qp)) 0 (pdSlot (remote (withQp qp)) 0 1) = { mode := .live, tR := none } ∧
    qpFlights (remote (withQp qp)) 0 9 = [] ∧ linkKey (remote (withQp qp)) 0 (qpKey (remote (withQp qp)) 0 qp) = some (linkKeyOf 1 false) ∧
    (linkKeyOf 1 false).ctr + 4096 ≤ 2 ^ 48 - 1 :=
  ⟨of_takes (by decide +kernel), by decide +kernel⟩

/-- The body of a request at an offset of the space. -/
def reqBody (off aux psn : Nat) : Bytes := natLe 8 off ++ natLe 3 9 ++ natLe 1 aux ++ natLe 4 psn
def asking (stamp : Nat) : Miss := { qpn := 9, stamp := ⟨stamp, 0⟩, held := [] }
def heldOne : HeldPacket := { queue := none, stamp := ⟨99000, 0⟩, pkt := plainPkt 8 1 (reqBody 0 0 7) (zeros 64) }


/-- A request behind a RETRY_LATER; held; beyond the table; fetching; with no room, before and after a fetch. -/
theorem test_ask_behind_retry :
    (arrivalVerdict (remote (fun x => { x with qps := [qp], retry := [(9, 7)] })) (sealedAt 8 1 (reqBody 0 0 8) (zeros 64)) 8 = .here (heard (remote (fun x => { x with qps := [qp], retry := [(9, 7)] })) (sealedAt 8 1 (reqBody 0 0 8) (zeros 64)) (zeros 64)) (entering (remote (fun x => { x with qps := [qp], retry := [(9, 7)] })) (sealedAt 8 1 (reqBody 0 0 8) (zeros 64))).2.1 (zeros 64) (entering (remote (fun x => { x with qps := [qp], retry := [(9, 7)] })) (sealedAt 8 1 (reqBody 0 0 8) (zeros 64))).2.2) ∧
    (part (heard (remote (fun x => { x with qps := [qp], retry := [(9, 7)] })) (sealedAt 8 1 (reqBody 0 0 8) (zeros 64)) (zeros 64)) 0).retry.find? (fun e => e.1 == 9) = some (9, 7) ∧
    psnFrom 8 7 = true :=
  ⟨here_of_sealed (k := plainPkt 8 1 (reqBody 0 0 8) (zeros 64)) (e := linkKeyOf 1 false) rfl (by decide +kernel), by decide +kernel⟩

theorem test_ask_held :
    (arrivalVerdict (remote (fun x => { x with misses := [asking 99000] })) (sealedAt 8 1 (reqBody 0 0 7) (zeros 64)) 8 = .here (heard (remote (fun x => { x with misses := [asking 99000] })) (sealedAt 8 1 (reqBody 0 0 7) (zeros 64)) (zeros 64)) (entering (remote (fun x => { x with misses := [asking 99000] })) (sealedAt 8 1 (reqBody 0 0 7) (zeros 64))).2.1 (zeros 64) (entering (remote (fun x => { x with misses := [asking 99000] })) (sealedAt 8 1 (reqBody 0 0 7) (zeros 64))).2.2) ∧
    (part (heard (remote (fun x => { x with misses := [asking 99000] })) (sealedAt 8 1 (reqBody 0 0 7) (zeros 64)) (zeros 64)) 0).retry = [] ∧ qpOf (heard (remote (fun x => { x with misses := [asking 99000] })) (sealedAt 8 1 (reqBody 0 0 7) (zeros 64)) (zeros 64)) 0 9 = none ∧ (part (heard (remote (fun x => { x with misses := [asking 99000] })) (sealedAt 8 1 (reqBody 0 0 7) (zeros 64)) (zeros 64)) 0).misses = [asking 99000] ∧
    heldCount (part (heard (remote (fun x => { x with misses := [asking 99000] })) (sealedAt 8 1 (reqBody 0 0 7) (zeros 64)) (zeros 64)) 0) < regField (heard (remote (fun x => { x with misses := [asking 99000] })) (sealedAt 8 1 (reqBody 0 0 7) (zeros 64)) (zeros 64)) (.rmaMissCfg 0) 27 16 :=
  ⟨here_of_sealed (k := plainPkt 8 1 (reqBody 0 0 7) (zeros 64)) (e := linkKeyOf 1 false) rfl (by decide +kernel), by decide +kernel⟩

theorem test_ask_beyond :
    (arrivalVerdict (setReg (remote (fun x => x)) (.rmaCtLimit 0) 8) (sealedAt 8 1 (reqBody 0 0 7) (zeros 64)) 8 = .here (heard (setReg (remote (fun x => x)) (.rmaCtLimit 0) 8) (sealedAt 8 1 (reqBody 0 0 7) (zeros 64)) (zeros 64)) (entering (setReg (remote (fun x => x)) (.rmaCtLimit 0) 8) (sealedAt 8 1 (reqBody 0 0 7) (zeros 64))).2.1 (zeros 64) (entering (setReg (remote (fun x => x)) (.rmaCtLimit 0) 8) (sealedAt 8 1 (reqBody 0 0 7) (zeros 64))).2.2) ∧
    (part (heard (setReg (remote (fun x => x)) (.rmaCtLimit 0) 8) (sealedAt 8 1 (reqBody 0 0 7) (zeros 64)) (zeros 64)) 0).retry = [] ∧ qpOf (heard (setReg (remote (fun x => x)) (.rmaCtLimit 0) 8) (sealedAt 8 1 (reqBody 0 0 7) (zeros 64)) (zeros 64)) 0 9 = none ∧ (part (heard (setReg (remote (fun x => x)) (.rmaCtLimit 0) 8) (sealedAt 8 1 (reqBody 0 0 7) (zeros 64)) (zeros 64)) 0).misses = [] ∧
    regField (heard (setReg (remote (fun x => x)) (.rmaCtLimit 0) 8) (sealedAt 8 1 (reqBody 0 0 7) (zeros 64)) (zeros 64)) (.rmaCtLimit 0) 23 0 < 9 :=
  ⟨here_of_sealed (k := plainPkt 8 1 (reqBody 0 0 7) (zeros 64)) (e := linkKeyOf 1 false) rfl (by decide +kernel), by decide +kernel⟩

theorem test_ask_fetches :
    (arrivalVerdict (setReg (remote (fun x => x)) (.rmaCtLimit 0) 9) (sealedAt 8 1 (reqBody 0 0 7) (zeros 64)) 8 = .here (heard (setReg (remote (fun x => x)) (.rmaCtLimit 0) 9) (sealedAt 8 1 (reqBody 0 0 7) (zeros 64)) (zeros 64)) (entering (setReg (remote (fun x => x)) (.rmaCtLimit 0) 9) (sealedAt 8 1 (reqBody 0 0 7) (zeros 64))).2.1 (zeros 64) (entering (setReg (remote (fun x => x)) (.rmaCtLimit 0) 9) (sealedAt 8 1 (reqBody 0 0 7) (zeros 64))).2.2) ∧
    (part (heard (setReg (remote (fun x => x)) (.rmaCtLimit 0) 9) (sealedAt 8 1 (reqBody 0 0 7) (zeros 64)) (zeros 64)) 0).retry = [] ∧ qpOf (heard (setReg (remote (fun x => x)) (.rmaCtLimit 0) 9) (sealedAt 8 1 (reqBody 0 0 7) (zeros 64)) (zeros 64)) 0 9 = none ∧ (part (heard (setReg (remote (fun x => x)) (.rmaCtLimit 0) 9) (sealedAt 8 1 (reqBody 0 0 7) (zeros 64)) (zeros 64)) 0).misses = [] ∧
    regField (heard (setReg (remote (fun x => x)) (.rmaCtLimit 0) 9) (sealedAt 8 1 (reqBody 0 0 7) (zeros 64)) (zeros 64)) (.rmaCtLimit 0) 23 0 ≥ 9 ∧ heldCount (part (heard (setReg (remote (fun x => x)) (.rmaCtLimit 0) 9) (sealedAt 8 1 (reqBody 0 0 7) (zeros 64)) (zeros 64)) 0) < regField (heard (setReg (remote (fun x => x)) (.rmaCtLimit 0) 9) (sealedAt 8 1 (reqBody 0 0 7) (zeros 64)) (zeros 64)) (.rmaMissCfg 0) 27 16 ∧ missRoom (heard (setReg (remote (fun x => x)) (.rmaCtLimit 0) 9) (sealedAt 8 1 (reqBody 0 0 7) (zeros 64)) (zeros 64)) 0 = true :=
  ⟨here_of_sealed (k := plainPkt 8 1 (reqBody 0 0 7) (zeros 64)) (e := linkKeyOf 1 false) rfl (by decide +kernel), by decide +kernel⟩

theorem test_ask_without_room :
    (arrivalVerdict (remote (fun x => { x with misses := [{ asking 99000 with qpn := 7 }, { asking 99000 with qpn := 8 }] })) (sealedAt 8 1 (reqBody 0 0 7) (zeros 64)) 8 = .here (heard (remote (fun x => { x with misses := [{ asking 99000 with qpn := 7 }, { asking 99000 with qpn := 8 }] })) (sealedAt 8 1 (reqBody 0 0 7) (zeros 64)) (zeros 64)) (entering (remote (fun x => { x with misses := [{ asking 99000 with qpn := 7 }, { asking 99000 with qpn := 8 }] })) (sealedAt 8 1 (reqBody 0 0 7) (zeros 64))).2.1 (zeros 64) (entering (remote (fun x => { x with misses := [{ asking 99000 with qpn := 7 }, { asking 99000 with qpn := 8 }] })) (sealedAt 8 1 (reqBody 0 0 7) (zeros 64))).2.2) ∧
    (part (heard (remote (fun x => { x with misses := [{ asking 99000 with qpn := 7 }, { asking 99000 with qpn := 8 }] })) (sealedAt 8 1 (reqBody 0 0 7) (zeros 64)) (zeros 64)) 0).retry = [] ∧ qpOf (heard (remote (fun x => { x with misses := [{ asking 99000 with qpn := 7 }, { asking 99000 with qpn := 8 }] })) (sealedAt 8 1 (reqBody 0 0 7) (zeros 64)) (zeros 64)) 0 9 = none ∧ missRoom (heard (remote (fun x => { x with misses := [{ asking 99000 with qpn := 7 }, { asking 99000 with qpn := 8 }] })) (sealedAt 8 1 (reqBody 0 0 7) (zeros 64)) (zeros 64)) 0 = false ∧
    (part (heard (remote (fun x => { x with misses := [{ asking 99000 with qpn := 7 }, { asking 99000 with qpn := 8 }] })) (sealedAt 8 1 (reqBody 0 0 7) (zeros 64)) (zeros 64)) 0).misses.all (fun m => m.qpn != 9) = true :=
  ⟨here_of_sealed (k := plainPkt 8 1 (reqBody 0 0 7) (zeros 64)) (e := linkKeyOf 1 false) rfl (by decide +kernel), by decide +kernel⟩

theorem test_ask_held_full :
    (arrivalVerdict (remote (fun x => { x with misses := [{ asking 99000 with held := [heldOne, heldOne] }] })) (sealedAt 8 1 (reqBody 0 0 8) (zeros 64)) 8 = .here (heard (remote (fun x => { x with misses := [{ asking 99000 with held := [heldOne, heldOne] }] })) (sealedAt 8 1 (reqBody 0 0 8) (zeros 64)) (zeros 64)) (entering (remote (fun x => { x with misses := [{ asking 99000 with held := [heldOne, heldOne] }] })) (sealedAt 8 1 (reqBody 0 0 8) (zeros 64))).2.1 (zeros 64) (entering (remote (fun x => { x with misses := [{ asking 99000 with held := [heldOne, heldOne] }] })) (sealedAt 8 1 (reqBody 0 0 8) (zeros 64))).2.2) ∧
    (part (heard (remote (fun x => { x with misses := [{ asking 99000 with held := [heldOne, heldOne] }] })) (sealedAt 8 1 (reqBody 0 0 8) (zeros 64)) (zeros 64)) 0).retry = [] ∧ qpOf (heard (remote (fun x => { x with misses := [{ asking 99000 with held := [heldOne, heldOne] }] })) (sealedAt 8 1 (reqBody 0 0 8) (zeros 64)) (zeros 64)) 0 9 = none ∧
    heldCount (part (heard (remote (fun x => { x with misses := [{ asking 99000 with held := [heldOne, heldOne] }] })) (sealedAt 8 1 (reqBody 0 0 8) (zeros 64)) (zeros 64)) 0) = regField (heard (remote (fun x => { x with misses := [{ asking 99000 with held := [heldOne, heldOne] }] })) (sealedAt 8 1 (reqBody 0 0 8) (zeros 64)) (zeros 64)) (.rmaMissCfg 0) 27 16 :=
  ⟨here_of_sealed (k := plainPkt 8 1 (reqBody 0 0 8) (zeros 64)) (e := linkKeyOf 1 false) rfl (by decide +kernel), by decide +kernel⟩

/-- From another peer; in ERROR; ahead of its turn and behind it; on a revoked space; out of its export; without its right. -/
theorem test_ask_other_peer :
    (arrivalVerdict (remote (withQp { qp with peer := 4097 })) (sealedAt 8 1 (reqBody 0 0 7) (zeros 64)) 8 = .here (heard (remote (withQp { qp with peer := 4097 })) (sealedAt 8 1 (reqBody 0 0 7) (zeros 64)) (zeros 64)) (entering (remote (withQp { qp with peer := 4097 })) (sealedAt 8 1 (reqBody 0 0 7) (zeros 64))).2.1 (zeros 64) (entering (remote (withQp { qp with peer := 4097 })) (sealedAt 8 1 (reqBody 0 0 7) (zeros 64))).2.2) ∧
    (part (heard (remote (withQp { qp with peer := 4097 })) (sealedAt 8 1 (reqBody 0 0 7) (zeros 64)) (zeros 64)) 0).retry = [] ∧ qpOf (heard (remote (withQp { qp with peer := 4097 })) (sealedAt 8 1 (reqBody 0 0 7) (zeros 64)) (zeros 64)) 0 9 = some { qp with peer := 4097 } ∧
    (sealedAt 8 1 (reqBody 0 0 7) (zeros 64)).pkt.src ≠ 4097 :=
  ⟨here_of_sealed (k := plainPkt 8 1 (reqBody 0 0 7) (zeros 64)) (e := linkKeyOf 1 false) rfl (by decide +kernel), by decide +kernel⟩

theorem test_ask_in_error :
    (arrivalVerdict (remote (withQp { qp with ready := false, errStatus := stLate })) (sealedAt 8 1 (reqBody 0 0 7) (zeros 64)) 8 = .here (heard (remote (withQp { qp with ready := false, errStatus := stLate })) (sealedAt 8 1 (reqBody 0 0 7) (zeros 64)) (zeros 64)) (entering (remote (withQp { qp with ready := false, errStatus := stLate })) (sealedAt 8 1 (reqBody 0 0 7) (zeros 64))).2.1 (zeros 64) (entering (remote (withQp { qp with ready := false, errStatus := stLate })) (sealedAt 8 1 (reqBody 0 0 7) (zeros 64))).2.2) ∧
    qpOf (heard (remote (withQp { qp with ready := false, errStatus := stLate })) (sealedAt 8 1 (reqBody 0 0 7) (zeros 64)) (zeros 64)) 0 9 = some { qp with ready := false, errStatus := stLate } ∧
    (sealedAt 8 1 (reqBody 0 0 7) (zeros 64)).pkt.src = qp.peer ∧ (sealedAt 8 1 (reqBody 0 0 7) (zeros 64)).pkt.first = true :=
  ⟨here_of_sealed (k := plainPkt 8 1 (reqBody 0 0 7) (zeros 64)) (e := linkKeyOf 1 false) rfl (by decide +kernel), by decide +kernel⟩

theorem test_ask_ahead :
    (arrivalVerdict (remote (withQp qp)) (sealedAt 8 1 (reqBody 0 0 8) (zeros 64)) 8 = .here (heard (remote (withQp qp)) (sealedAt 8 1 (reqBody 0 0 8) (zeros 64)) (zeros 64)) (entering (remote (withQp qp)) (sealedAt 8 1 (reqBody 0 0 8) (zeros 64))).2.1 (zeros 64) (entering (remote (withQp qp)) (sealedAt 8 1 (reqBody 0 0 8) (zeros 64))).2.2) ∧
    qpOf (heard (remote (withQp qp)) (sealedAt 8 1 (reqBody 0 0 8) (zeros 64)) (zeros 64)) 0 9 = some qp ∧ psnFrom 8 qp.rxPsn = true ∧ qp.seqSent = false :=
  ⟨here_of_sealed (k := plainPkt 8 1 (reqBody 0 0 8) (zeros 64)) (e := linkKeyOf 1 false) rfl (by decide +kernel), by decide +kernel⟩

theorem test_ask_again :
    (arrivalVerdict (remote (withQp qp)) (sealedAt 8 1 (reqBody 0 0 6) (zeros 64)) 8 = .here (heard (remote (withQp qp)) (sealedAt 8 1 (reqBody 0 0 6) (zeros 64)) (zeros 64)) (entering (remote (withQp qp)) (sealedAt 8 1 (reqBody 0 0 6) (zeros 64))).2.1 (zeros 64) (entering (remote (withQp qp)) (sealedAt 8 1 (reqBody 0 0 6) (zeros 64))).2.2) ∧
    qpOf (heard (remote (withQp qp)) (sealedAt 8 1 (reqBody 0 0 6) (zeros 64)) (zeros 64)) 0 9 = some qp ∧ psnFrom 6 qp.rxPsn = false ∧ 6 = qp.lastEndPsn :=
  ⟨here_of_sealed (k := plainPkt 8 1 (reqBody 0 0 6) (zeros 64)) (e := linkKeyOf 1 false) rfl (by decide +kernel), by decide +kernel⟩

theorem test_ask_revoked :
    (arrivalVerdict (remote (fun x => { x with qps := [qp], spaces := [(0, { mode := .revoking, tR := some 100010 })] })) (sealedAt 8 1 (reqBody 0 0 7) (zeros 64)) 8 = .here (heard (remote (fun x => { x with qps := [qp], spaces := [(0, { mode := .revoking, tR := some 100010 })] })) (sealedAt 8 1 (reqBody 0 0 7) (zeros 64)) (zeros 64)) (entering (remote (fun x => { x with qps := [qp], spaces := [(0, { mode := .revoking, tR := some 100010 })] })) (sealedAt 8 1 (reqBody 0 0 7) (zeros 64))).2.1 (zeros 64) (entering (remote (fun x => { x with qps := [qp], spaces := [(0, { mode := .revoking, tR := some 100010 })] })) (sealedAt 8 1 (reqBody 0 0 7) (zeros 64))).2.2) ∧
    qpOf (heard (remote (fun x => { x with qps := [qp], spaces := [(0, { mode := .revoking, tR := some 100010 })] })) (sealedAt 8 1 (reqBody 0 0 7) (zeros 64)) (zeros 64)) 0 9 = some qp ∧ spaceAdmits (heard (remote (fun x => { x with qps := [qp], spaces := [(0, { mode := .revoking, tR := some 100010 })] })) (sealedAt 8 1 (reqBody 0 0 7) (zeros 64)) (zeros 64)) 0 qp (entering (remote (fun x => { x with qps := [qp], spaces := [(0, { mode := .revoking, tR := some 100010 })] })) (sealedAt 8 1 (reqBody 0 0 7) (zeros 64))).2.1 = false :=
  ⟨here_of_sealed (k := plainPkt 8 1 (reqBody 0 0 7) (zeros 64)) (e := linkKeyOf 1 false) rfl (by decide +kernel), by decide +kernel⟩

theorem test_ask_out_of_export :
    (arrivalVerdict (remote (withQp qp)) (sealedAt 8 1 (reqBody 65473 0 7) (zeros 64)) 8 = .here (heard (remote (withQp qp)) (sealedAt 8 1 (reqBody 65473 0 7) (zeros 64)) (zeros 64)) (entering (remote (withQp qp)) (sealedAt 8 1 (reqBody 65473 0 7) (zeros 64))).2.1 (zeros 64) (entering (remote (withQp qp)) (sealedAt 8 1 (reqBody 65473 0 7) (zeros 64))).2.2) ∧
    qpOf (heard (remote (withQp qp)) (sealedAt 8 1 (reqBody 65473 0 7) (zeros 64)) (zeros 64)) 0 9 = some qp ∧ spaceAdmits (heard (remote (withQp qp)) (sealedAt 8 1 (reqBody 65473 0 7) (zeros 64)) (zeros 64)) 0 qp (entering (remote (withQp qp)) (sealedAt 8 1 (reqBody 65473 0 7) (zeros 64))).2.1 = true ∧
    exportAddr (heard (remote (withQp qp)) (sealedAt 8 1 (reqBody 65473 0 7) (zeros 64)) (zeros 64)) 0 (pdSlot (heard (remote (withQp qp)) (sealedAt 8 1 (reqBody 65473 0 7) (zeros 64)) (zeros 64)) 0 1) 65473 64 0 = none ∧ exportAddr (heard (remote (withQp qp)) (sealedAt 8 1 (reqBody 65473 0 7) (zeros 64)) (zeros 64)) 0 (pdSlot (heard (remote (withQp qp)) (sealedAt 8 1 (reqBody 65473 0 7) (zeros 64)) (zeros 64)) 0 1) 65472 64 0 = some 65472 :=
  ⟨here_of_sealed (k := plainPkt 8 1 (reqBody 65473 0 7) (zeros 64)) (e := linkKeyOf 1 false) rfl (by decide +kernel), by decide +kernel⟩

theorem test_ask_without_right :
    (arrivalVerdict (setReg (remote (withQp qp)) (.rmaPdCtrl 0 1) 134) (sealedAt 8 1 (reqBody 0 0 7) (zeros 64)) 8 = .here (heard (setReg (remote (withQp qp)) (.rmaPdCtrl 0 1) 134) (sealedAt 8 1 (reqBody 0 0 7) (zeros 64)) (zeros 64)) (entering (setReg (remote (withQp qp)) (.rmaPdCtrl 0 1) 134) (sealedAt 8 1 (reqBody 0 0 7) (zeros 64))).2.1 (zeros 64) (entering (setReg (remote (withQp qp)) (.rmaPdCtrl 0 1) 134) (sealedAt 8 1 (reqBody 0 0 7) (zeros 64))).2.2) ∧
    qpOf (heard (setReg (remote (withQp qp)) (.rmaPdCtrl 0 1) 134) (sealedAt 8 1 (reqBody 0 0 7) (zeros 64)) (zeros 64)) 0 9 = some qp ∧ exportAddr (heard (setReg (remote (withQp qp)) (.rmaPdCtrl 0 1) 134) (sealedAt 8 1 (reqBody 0 0 7) (zeros 64)) (zeros 64)) 0 (pdSlot (heard (setReg (remote (withQp qp)) (.rmaPdCtrl 0 1) 134) (sealedAt 8 1 (reqBody 0 0 7) (zeros 64)) (zeros 64)) 0 1) 0 64 0 = some 0 ∧
    pdRight (heard (setReg (remote (withQp qp)) (.rmaPdCtrl 0 1) 134) (sealedAt 8 1 (reqBody 0 0 7) (zeros 64)) (zeros 64)) 0 1 0 = false :=
  ⟨here_of_sealed (k := plainPkt 8 1 (reqBody 0 0 7) (zeros 64)) (e := linkKeyOf 1 false) rfl (by decide +kernel), by decide +kernel⟩

/-- A state whose exported tile, at Pocket unit 0, takes 16-bit addends. -/
def summing (s : State) : State := tiled (holding s (pocketAddr 0) (natLe 2 3)) [(0, { state := .plain, width := 16, mode := .mod2k, count := 1 })]


/-- An ADD to a FREE tile and to one that takes it; a READ; a WRITE that lands and one whose tile is in use. -/
theorem test_ask_add_unfit :
    (arrivalVerdict (remote (withQp qp)) (sealedAt 11 1 (reqBody 65536 0 7) (natLe 2 5 ++ zeros 62)) 11 = .here (heard (remote (withQp qp)) (sealedAt 11 1 (reqBody 65536 0 7) (natLe 2 5 ++ zeros 62)) (natLe 2 5 ++ zeros 62)) (entering (remote (withQp qp)) (sealedAt 11 1 (reqBody 65536 0 7) (natLe 2 5 ++ zeros 62))).2.1 (natLe 2 5 ++ zeros 62) (entering (remote (withQp qp)) (sealedAt 11 1 (reqBody 65536 0 7) (natLe 2 5 ++ zeros 62))).2.2) ∧
    qpOf (heard (remote (withQp qp)) (sealedAt 11 1 (reqBody 65536 0 7) (natLe 2 5 ++ zeros 62)) (natLe 2 5 ++ zeros 62)) 0 9 = some qp ∧ exportAddr (heard (remote (withQp qp)) (sealedAt 11 1 (reqBody 65536 0 7) (natLe 2 5 ++ zeros 62)) (natLe 2 5 ++ zeros 62)) 0 (pdSlot (heard (remote (withQp qp)) (sealedAt 11 1 (reqBody 65536 0 7) (natLe 2 5 ++ zeros 62)) (natLe 2 5 ++ zeros 62)) 0 1) 65536 64 2 = some (2 ^ 61) ∧
    addTarget (heard (remote (withQp qp)) (sealedAt 11 1 (reqBody 65536 0 7) (natLe 2 5 ++ zeros 62)) (natLe 2 5 ++ zeros 62)) 0 (2 ^ 61) 64 0 = none ∧
    addrFits (part (heard (remote (withQp qp)) (sealedAt 11 1 (reqBody 65536 0 7) (natLe 2 5 ++ zeros 62)) (natLe 2 5 ++ zeros 62)) 0) (2 ^ 61) 64 1 = true ∧ landingReserved (heard (remote (withQp qp)) (sealedAt 11 1 (reqBody 65536 0 7) (natLe 2 5 ++ zeros 62)) (natLe 2 5 ++ zeros 62)) 0 (2 ^ 61) 64 = false ∧ pdRight (heard (remote (withQp qp)) (sealedAt 11 1 (reqBody 65536 0 7) (natLe 2 5 ++ zeros 62)) (natLe 2 5 ++ zeros 62)) 0 1 2 = true :=
  ⟨here_of_sealed (k := plainPkt 11 1 (reqBody 65536 0 7) (natLe 2 5 ++ zeros 62)) (e := linkKeyOf 1 false) rfl (by decide +kernel), by decide +kernel⟩

theorem test_ask_add :
    (arrivalVerdict (summing (remote (withQp qp))) (sealedAt 11 1 (reqBody 65536 0 7) (natLe 2 5 ++ zeros 62)) 11 = .here (heard (summing (remote (withQp qp))) (sealedAt 11 1 (reqBody 65536 0 7) (natLe 2 5 ++ zeros 62)) (natLe 2 5 ++ zeros 62)) (entering (summing (remote (withQp qp))) (sealedAt 11 1 (reqBody 65536 0 7) (natLe 2 5 ++ zeros 62))).2.1 (natLe 2 5 ++ zeros 62) (entering (summing (remote (withQp qp))) (sealedAt 11 1 (reqBody 65536 0 7) (natLe 2 5 ++ zeros 62))).2.2) ∧
    qpOf (heard (summing (remote (withQp qp))) (sealedAt 11 1 (reqBody 65536 0 7) (natLe 2 5 ++ zeros 62)) (natLe 2 5 ++ zeros 62)) 0 9 = some qp ∧ exportAddr (heard (summing (remote (withQp qp))) (sealedAt 11 1 (reqBody 65536 0 7) (natLe 2 5 ++ zeros 62)) (natLe 2 5 ++ zeros 62)) 0 (pdSlot (heard (summing (remote (withQp qp))) (sealedAt 11 1 (reqBody 65536 0 7) (natLe 2 5 ++ zeros 62)) (natLe 2 5 ++ zeros 62)) 0 1) 65536 64 2 = some (2 ^ 61) ∧
    addTarget (heard (summing (remote (withQp qp))) (sealedAt 11 1 (reqBody 65536 0 7) (natLe 2 5 ++ zeros 62)) (natLe 2 5 ++ zeros 62)) 0 (2 ^ 61) 64 0 = some (0, { state := .plain, width := 16, mode := .mod2k, count := 1 }) ∧
    landingBlocked (heard (summing (remote (withQp qp))) (sealedAt 11 1 (reqBody 65536 0 7) (natLe 2 5 ++ zeros 62)) (natLe 2 5 ++ zeros 62)) 0 (2 ^ 61) 64 (part (heard (summing (remote (withQp qp))) (sealedAt 11 1 (reqBody 65536 0 7) (natLe 2 5 ++ zeros 62)) (natLe 2 5 ++ zeros 62)) 0).landings = false ∧ 64 % (2 * 2 ^ (0 % 4)) = 0 :=
  ⟨here_of_sealed (k := plainPkt 11 1 (reqBody 65536 0 7) (natLe 2 5 ++ zeros 62)) (e := linkKeyOf 1 false) rfl (by decide +kernel), by decide +kernel⟩

theorem test_ask_read :
    (arrivalVerdict (remote (withQp qp)) (sealedAt 9 1 (reqBody 0 0 7) []) 9 = .here (heard (remote (withQp qp)) (sealedAt 9 1 (reqBody 0 0 7) []) []) (entering (remote (withQp qp)) (sealedAt 9 1 (reqBody 0 0 7) [])).2.1 [] (entering (remote (withQp qp)) (sealedAt 9 1 (reqBody 0 0 7) [])).2.2) ∧
    qpOf (heard (remote (withQp qp)) (sealedAt 9 1 (reqBody 0 0 7) []) []) 0 9 = some qp ∧ exportAddr (heard (remote (withQp qp)) (sealedAt 9 1 (reqBody 0 0 7) []) []) 0 (pdSlot (heard (remote (withQp qp)) (sealedAt 9 1 (reqBody 0 0 7) []) []) 0 1) 0 64 1 = some 0 ∧
    pdRight (heard (remote (withQp qp)) (sealedAt 9 1 (reqBody 0 0 7) []) []) 0 1 1 = true ∧ addrFits (part (heard (remote (withQp qp)) (sealedAt 9 1 (reqBody 0 0 7) []) []) 0) 0 64 1 = true :=
  ⟨here_of_sealed (k := plainPkt 9 1 (reqBody 0 0 7) []) (e := linkKeyOf 1 false) rfl (by decide +kernel), by decide +kernel⟩

theorem test_ask_write :
    (arrivalVerdict (remote (withQp qp)) (sealedAt 8 1 (reqBody 65472 0 7) (List.replicate 64 7#8)) 8 = .here (heard (remote (withQp qp)) (sealedAt 8 1 (reqBody 65472 0 7) (List.replicate 64 7#8)) (List.replicate 64 7#8)) (entering (remote (withQp qp)) (sealedAt 8 1 (reqBody 65472 0 7) (List.replicate 64 7#8))).2.1 (List.replicate 64 7#8) (entering (remote (withQp qp)) (sealedAt 8 1 (reqBody 65472 0 7) (List.replicate 64 7#8))).2.2) ∧
    qpOf (heard (remote (withQp qp)) (sealedAt 8 1 (reqBody 65472 0 7) (List.replicate 64 7#8)) (List.replicate 64 7#8)) 0 9 = some qp ∧ exportAddr (heard (remote (withQp qp)) (sealedAt 8 1 (reqBody 65472 0 7) (List.replicate 64 7#8)) (List.replicate 64 7#8)) 0 (pdSlot (heard (remote (withQp qp)) (sealedAt 8 1 (reqBody 65472 0 7) (List.replicate 64 7#8)) (List.replicate 64 7#8)) 0 1) 65472 64 0 = some 65472 ∧
    addrFits (part (heard (remote (withQp qp)) (sealedAt 8 1 (reqBody 65472 0 7) (List.replicate 64 7#8)) (List.replicate 64 7#8)) 0) 65472 64 1 = true ∧ landingBlocked (heard (remote (withQp qp)) (sealedAt 8 1 (reqBody 65472 0 7) (List.replicate 64 7#8)) (List.replicate 64 7#8)) 0 65472 64 (part (heard (remote (withQp qp)) (sealedAt 8 1 (reqBody 65472 0 7) (List.replicate 64 7#8)) (List.replicate 64 7#8)) 0).landings = false :=
  ⟨here_of_sealed (k := plainPkt 8 1 (reqBody 65472 0 7) (List.replicate 64 7#8)) (e := linkKeyOf 1 false) rfl (by decide +kernel), by decide +kernel⟩

theorem test_ask_blocked :
    (arrivalVerdict (withFlights (remote (withQp qp)) [{ flightOf 3 hdr .nop .running [] none with reserved := [(0, 1)] }]) (sealedAt 8 1 (reqBody 65536 0 7) (zeros 64)) 8 = .here (heard (withFlights (remote (withQp qp)) [{ flightOf 3 hdr .nop .running [] none with reserved := [(0, 1)] }]) (sealedAt 8 1 (reqBody 65536 0 7) (zeros 64)) (zeros 64)) (entering (withFlights (remote (withQp qp)) [{ flightOf 3 hdr .nop .running [] none with reserved := [(0, 1)] }]) (sealedAt 8 1 (reqBody 65536 0 7) (zeros 64))).2.1 (zeros 64) (entering (withFlights (remote (withQp qp)) [{ flightOf 3 hdr .nop .running [] none with reserved := [(0, 1)] }]) (sealedAt 8 1 (reqBody 65536 0 7) (zeros 64))).2.2) ∧
    qpOf (heard (withFlights (remote (withQp qp)) [{ flightOf 3 hdr .nop .running [] none with reserved := [(0, 1)] }]) (sealedAt 8 1 (reqBody 65536 0 7) (zeros 64)) (zeros 64)) 0 9 = some qp ∧ exportAddr (heard (withFlights (remote (withQp qp)) [{ flightOf 3 hdr .nop .running [] none with reserved := [(0, 1)] }]) (sealedAt 8 1 (reqBody 65536 0 7) (zeros 64)) (zeros 64)) 0 (pdSlot (heard (withFlights (remote (withQp qp)) [{ flightOf 3 hdr .nop .running [] none with reserved := [(0, 1)] }]) (sealedAt 8 1 (reqBody 65536 0 7) (zeros 64)) (zeros 64)) 0 1) 65536 64 0 = some (2 ^ 61) ∧
    landingBlocked (heard (withFlights (remote (withQp qp)) [{ flightOf 3 hdr .nop .running [] none with reserved := [(0, 1)] }]) (sealedAt 8 1 (reqBody 65536 0 7) (zeros 64)) (zeros 64)) 0 (2 ^ 61) 64 (part (heard (withFlights (remote (withQp qp)) [{ flightOf 3 hdr .nop .running [] none with reserved := [(0, 1)] }]) (sealedAt 8 1 (reqBody 65536 0 7) (zeros 64)) (zeros 64)) 0).landings = true :=
  ⟨here_of_sealed (k := plainPkt 8 1 (reqBody 65536 0 7) (zeros 64)) (e := linkKeyOf 1 false) rfl (by decide +kernel), by decide +kernel⟩

/-- A requester whose one message is out: a READ or a WRITE under psn 5. -/
def sentOf (ty : Nat) : SentPacket :=
  { psn := 5, pkt := plainPkt ty 1 (reqBody 0 0 5) [], desc := 3, off := 0, bytes := 64, left := some 90000 }
def out_ (ty : Nat) : Qp := { qp with txPsn := 6, sent := [sentOf ty] }
def message (ty : Nat) : InFlight :=
  { flightOf 3 hdr (if ty = 9 then .rmaRead (rmaOf 9) else .rmaWrite (rmaOf 9)) (.rma 9 0) [] none with committed := 1 }
def awaiting (ty : Nat) : State := withFlights (remote (withQp (out_ ty))) [message ty]

/-- The body of a reply with a status, a hint and a psn, and of a response. -/
def replyBody_ (st hint psn : Nat) : Bytes := natLe 1 st ++ zeros 1 ++ natLe 2 hint ++ natLe 3 9 ++ zeros 1 ++ natLe 4 psn


/-- A response that lands, one of another length, one of another generation, and one that comes at the deadline. -/
theorem test_response_lands :
    (arrivalVerdict (awaiting 9) (sealedAt 10 1 (reqBody 0 0 5) (List.replicate 64 7#8)) 10 = .here (heard (awaiting 9) (sealedAt 10 1 (reqBody 0 0 5) (List.replicate 64 7#8)) (List.replicate 64 7#8)) (entering (awaiting 9) (sealedAt 10 1 (reqBody 0 0 5) (List.replicate 64 7#8))).2.1 (List.replicate 64 7#8) (entering (awaiting 9) (sealedAt 10 1 (reqBody 0 0 5) (List.replicate 64 7#8))).2.2) ∧
    qpOf (heard (awaiting 9) (sealedAt 10 1 (reqBody 0 0 5) (List.replicate 64 7#8)) (List.replicate 64 7#8)) 0 9 = some (out_ 9) ∧ replyLate (heard (awaiting 9) (sealedAt 10 1 (reqBody 0 0 5) (List.replicate 64 7#8)) (List.replicate 64 7#8)) 0 (out_ 9) (entering (awaiting 9) (sealedAt 10 1 (reqBody 0 0 5) (List.replicate 64 7#8))).2.1 = false ∧ (sealedAt 10 1 (reqBody 0 0 5) (List.replicate 64 7#8)).pkt.src = qp.peer ∧
    (out_ 9).sent.find? (fun e => e.psn == 5 && e.pkt.ptype == 9) = some (sentOf 9) ∧
    flight (heard (awaiting 9) (sealedAt 10 1 (reqBody 0 0 5) (List.replicate 64 7#8)) (List.replicate 64 7#8)) 3 = some (message 9) ∧ (message 9).phase = .rma 9 0 :=
  ⟨here_of_sealed (k := plainPkt 10 1 (reqBody 0 0 5) (List.replicate 64 7#8)) (e := linkKeyOf 1 false) rfl (by decide +kernel), by decide +kernel⟩

theorem test_response_short :
    (arrivalVerdict (awaiting 9) (sealedAt 10 1 (reqBody 0 0 5) (zeros 63)) 10 = .here (heard (awaiting 9) (sealedAt 10 1 (reqBody 0 0 5) (zeros 63)) (zeros 63)) (entering (awaiting 9) (sealedAt 10 1 (reqBody 0 0 5) (zeros 63))).2.1 (zeros 63) (entering (awaiting 9) (sealedAt 10 1 (reqBody 0 0 5) (zeros 63))).2.2) ∧
    qpOf (heard (awaiting 9) (sealedAt 10 1 (reqBody 0 0 5) (zeros 63)) (zeros 63)) 0 9 = some (out_ 9) ∧ replyLate (heard (awaiting 9) (sealedAt 10 1 (reqBody 0 0 5) (zeros 63)) (zeros 63)) 0 (out_ 9) (entering (awaiting 9) (sealedAt 10 1 (reqBody 0 0 5) (zeros 63))).2.1 = false ∧
    (zeros 63).length ≠ (sentOf 9).bytes :=
  ⟨here_of_sealed (k := plainPkt 10 1 (reqBody 0 0 5) (zeros 63)) (e := linkKeyOf 1 false) rfl (by decide +kernel), by decide +kernel⟩

theorem test_response_stale :
    (arrivalVerdict (awaiting 9) (sealedAt 10 2 (reqBody 0 0 5) (zeros 64)) 10 = .here (heard (awaiting 9) (sealedAt 10 2 (reqBody 0 0 5) (zeros 64)) (zeros 64)) (entering (awaiting 9) (sealedAt 10 2 (reqBody 0 0 5) (zeros 64))).2.1 (zeros 64) (entering (awaiting 9) (sealedAt 10 2 (reqBody 0 0 5) (zeros 64))).2.2) ∧
    (sealedAt 10 2 (reqBody 0 0 5) (zeros 64)).pkt.gen ≠ (part (heard (awaiting 9) (sealedAt 10 2 (reqBody 0 0 5) (zeros 64)) (zeros 64)) 0).gen :=
  ⟨here_of_sealed (k := plainPkt 10 2 (reqBody 0 0 5) (zeros 64)) (e := linkKeyOf 1 false) rfl (by decide +kernel), by decide +kernel⟩

theorem test_response_late :
    (arrivalVerdict ({ awaiting 9 with time := { (awaiting 9).time with ns := 109990 } }) (sealedAt 10 1 (reqBody 0 0 5) (zeros 64)) 10 = .here (heard ({ awaiting 9 with time := { (awaiting 9).time with ns := 109990 } }) (sealedAt 10 1 (reqBody 0 0 5) (zeros 64)) (zeros 64)) (entering ({ awaiting 9 with time := { (awaiting 9).time with ns := 109990 } }) (sealedAt 10 1 (reqBody 0 0 5) (zeros 64))).2.1 (zeros 64) (entering ({ awaiting 9 with time := { (awaiting 9).time with ns := 109990 } }) (sealedAt 10 1 (reqBody 0 0 5) (zeros 64))).2.2) ∧
    qpOf (heard ({ awaiting 9 with time := { (awaiting 9).time with ns := 109990 } }) (sealedAt 10 1 (reqBody 0 0 5) (zeros 64)) (zeros 64)) 0 9 = some (out_ 9) ∧ qpDeadline (heard ({ awaiting 9 with time := { (awaiting 9).time with ns := 109990 } }) (sealedAt 10 1 (reqBody 0 0 5) (zeros 64)) (zeros 64)) 0 (out_ 9) = some 110000 ∧ ((entering ({ awaiting 9 with time := { (awaiting 9).time with ns := 109990 } }) (sealedAt 10 1 (reqBody 0 0 5) (zeros 64))).2.1).ns = 110000 :=
  ⟨here_of_sealed (k := plainPkt 10 1 (reqBody 0 0 5) (zeros 64)) (e := linkKeyOf 1 false) rfl (by decide +kernel), by decide +kernel⟩

theorem test_reply_unknown :
    (arrivalVerdict (remote (fun x => x)) (sealedAt 12 1 (replyBody_ 0 0 5) []) 12 = .here (heard (remote (fun x => x)) (sealedAt 12 1 (replyBody_ 0 0 5) []) []) (entering (remote (fun x => x)) (sealedAt 12 1 (replyBody_ 0 0 5) [])).2.1 [] (entering (remote (fun x => x)) (sealedAt 12 1 (replyBody_ 0 0 5) [])).2.2) ∧
    (sealedAt 12 1 (replyBody_ 0 0 5) []).pkt.gen = (part (heard (remote (fun x => x)) (sealedAt 12 1 (replyBody_ 0 0 5) []) []) 0).gen ∧ qpOf (heard (remote (fun x => x)) (sealedAt 12 1 (replyBody_ 0 0 5) []) []) 0 9 = none :=
  ⟨here_of_sealed (k := plainPkt 12 1 (replyBody_ 0 0 5) []) (e := linkKeyOf 1 false) rfl (by decide +kernel), by decide +kernel⟩

/-- A reply OK, a sequence reply, RETRY_LATER, and another status. -/
theorem test_reply_ok :
    (arrivalVerdict (awaiting 8) (sealedAt 12 1 (replyBody_ 0 0 5) []) 12 = .here (heard (awaiting 8) (sealedAt 12 1 (replyBody_ 0 0 5) []) []) (entering (awaiting 8) (sealedAt 12 1 (replyBody_ 0 0 5) [])).2.1 [] (entering (awaiting 8) (sealedAt 12 1 (replyBody_ 0 0 5) [])).2.2) ∧
    orderedB (heard (awaiting 8) (sealedAt 12 1 (replyBody_ 0 0 5) []) []) = true ∧ qpOf (heard (awaiting 8) (sealedAt 12 1 (replyBody_ 0 0 5) []) []) 0 9 = some (out_ 8) ∧ replyLate (heard (awaiting 8) (sealedAt 12 1 (replyBody_ 0 0 5) []) []) 0 (out_ 8) (entering (awaiting 8) (sealedAt 12 1 (replyBody_ 0 0 5) [])).2.1 = false ∧
    qpFlights (heard (awaiting 8) (sealedAt 12 1 (replyBody_ 0 0 5) []) []) 0 9 = [message 8] ∧
    (((out_ 8).sent.filter (fun e => e.pkt.ptype != 9 && psnFrom 5 e.psn && e.desc == 3)).map (fun e => e.bytes)).sum = 64 :=
  ⟨here_of_sealed (k := plainPkt 12 1 (replyBody_ 0 0 5) []) (e := linkKeyOf 1 false) rfl (by decide +kernel), by decide +kernel⟩

theorem test_reply_sequence :
    (arrivalVerdict (awaiting 8) (sealedAt 12 1 (replyBody_ 0x80 0 5) []) 12 = .here (heard (awaiting 8) (sealedAt 12 1 (replyBody_ 0x80 0 5) []) []) (entering (awaiting 8) (sealedAt 12 1 (replyBody_ 0x80 0 5) [])).2.1 [] (entering (awaiting 8) (sealedAt 12 1 (replyBody_ 0x80 0 5) [])).2.2) ∧
    qpOf (heard (awaiting 8) (sealedAt 12 1 (replyBody_ 0x80 0 5) []) []) 0 9 = some (out_ 8) ∧ field (sealedAt 12 1 (replyBody_ 0x80 0 5) []).pkt.body 0 1 = 0x80 ∧ (sealedAt 12 1 (replyBody_ 0x80 0 5) []).pkt.src = qp.peer :=
  ⟨here_of_sealed (k := plainPkt 12 1 (replyBody_ 0x80 0 5) []) (e := linkKeyOf 1 false) rfl (by decide +kernel), by decide +kernel⟩

theorem test_reply_retry :
    (arrivalVerdict (awaiting 8) (sealedAt 12 1 (replyBody_ 0x32 3 5) []) 12 = .here (heard (awaiting 8) (sealedAt 12 1 (replyBody_ 0x32 3 5) []) []) (entering (awaiting 8) (sealedAt 12 1 (replyBody_ 0x32 3 5) [])).2.1 [] (entering (awaiting 8) (sealedAt 12 1 (replyBody_ 0x32 3 5) [])).2.2) ∧
    qpOf (heard (awaiting 8) (sealedAt 12 1 (replyBody_ 0x32 3 5) []) []) 0 9 = some (out_ 8) ∧ field (sealedAt 12 1 (replyBody_ 0x32 3 5) []).pkt.body 0 1 = stRetry ∧
    flightsFrom (heard (awaiting 8) (sealedAt 12 1 (replyBody_ 0x32 3 5) []) []) 0 9 5 (out_ 8) = [message 8] :=
  ⟨here_of_sealed (k := plainPkt 12 1 (replyBody_ 0x32 3 5) []) (e := linkKeyOf 1 false) rfl (by decide +kernel), by decide +kernel⟩

theorem test_reply_error :
    (arrivalVerdict (awaiting 8) (sealedAt 12 1 (replyBody_ 0x31 0 5) []) 12 = .here (heard (awaiting 8) (sealedAt 12 1 (replyBody_ 0x31 0 5) []) []) (entering (awaiting 8) (sealedAt 12 1 (replyBody_ 0x31 0 5) [])).2.1 [] (entering (awaiting 8) (sealedAt 12 1 (replyBody_ 0x31 0 5) [])).2.2) ∧
    qpOf (heard (awaiting 8) (sealedAt 12 1 (replyBody_ 0x31 0 5) []) []) 0 9 = some (out_ 8) ∧ qpFlights (heard (awaiting 8) (sealedAt 12 1 (replyBody_ 0x31 0 5) []) []) 0 9 = [message 8] ∧ (sentOf 8).desc = (message 8).id ∧ psnFrom 5 5 = true :=
  ⟨here_of_sealed (k := plainPkt 12 1 (replyBody_ 0x31 0 5) []) (e := linkKeyOf 1 false) rfl (by decide +kernel), by decide +kernel⟩

/-- The response timer, with and without a message out; the target's gap, with and without a message coming in. -/
theorem test_rma_timers :
    orderedB (awaiting 8) = true ∧ qpOf (awaiting 8) 0 9 = some (out_ 8) ∧ qpDeadline (awaiting 8) 0 (out_ 8) = some 110000 ∧
    (out_ 8).msg = none := by
  decide +kernel

theorem test_rma_no_timers :
    qpOf (remote (withQp { qp with msg := some ⟨99000, 0⟩ })) 0 9 = some { qp with msg := some ⟨99000, 0⟩ } ∧
    qpDeadline (remote (withQp { qp with msg := some ⟨99000, 0⟩ })) 0 { qp with msg := some ⟨99000, 0⟩ } = none ∧
    qpOf (remote (withQp { qp with msg := some ⟨99000, 0⟩ })) 0 8 = none := by
  decide +kernel

/-- Contexts: without a fetch; with one, whose record does not open; its fetch run out, held and with nothing held. -/
theorem test_context_unasked :
    missOf (part (remote (fun x => x)) 0) 9 = none := by
  decide +kernel

theorem test_context_unsealed :
    missOf (part (remote (fun x => { x with misses := [asking 99000] })) 0) 9 = some (asking 99000) ∧
    contextOf (part (remote (fun x => { x with misses := [asking 99000] })) 0) 9 [] = none := by
  decide +kernel

theorem test_context_runs_out :
    missOf (part (remote (fun x => { x with misses := [{ asking 95000 with held := [{ heldOne with stamp := ⟨95000, 0⟩ }] }] })) 0) 9 = some { asking 95000 with held := [{ heldOne with stamp := ⟨95000, 0⟩ }] } ∧
    95000 + 5000 ≤ now (remote (fun x => { x with misses := [{ asking 95000 with held := [{ heldOne with stamp := ⟨95000, 0⟩ }] }] })) := by
  decide +kernel

theorem test_context_holds_nothing :
    missOf (part (remote (fun x => { x with misses := [asking 95000] })) 0) 9 = some (asking 95000) := by
  decide +kernel

/-- The arguments of a queue pair command: domain 1, a peer and its queue pair, and the psns. -/
def qpArgs (s : State) : State :=
  setReg (setReg s (.rmaQpArg0 0) (4096 + 4 * 2 ^ 16 + 1 * 2 ^ 40)) (.rmaQpArg1 0) (5 + 7 * 2 ^ 32)


/-- Create; of one that exists, beyond the table, and in a domain that is not bound. -/
theorem test_qp_created :
    logRuns (qpArgs (remote (fun x => x))) = true ∧ (part (qpArgs (remote (fun x => x))) 0).mode.exists = true ∧
    100 ≤ regField (qpArgs (remote (fun x => x))) (.rmaCtLimit 0) 23 0 ∧ knownQp (part (qpArgs (remote (fun x => x))) 0) 100 = none ∧ regField (qpArgs (remote (fun x => x))) (.rmaPdCtrl 0 1) 7 7 ≠ 0 ∧
    (part (qpArgs (remote (fun x => x))) 0).qps.length < cacheSize (qpArgs (remote (fun x => x))) 0 := by
  decide +kernel

theorem test_qp_exists :
    (knownQp (part (qpArgs (remote (withQp { qp with ready := false, errStatus := stLate }))) 0) 9).isSome = true ∧
    knownQp (part (qpArgs (remote (withQp { qp with ready := false, errStatus := stLate }))) 0) 9 = some { qp with ready := false, errStatus := stLate } ∧
    regField (qpArgs (remote (withQp { qp with ready := false, errStatus := stLate }))) (.rmaPdCtrl 0 qp.pd) 7 7 ≠ 0 := by
  decide +kernel

theorem test_qp_beyond :
    regField (setReg (remote (fun x => x)) (.rmaPdCtrl 0 0) 0) (.rmaCtLimit 0) 23 0 < 101 ∧
    knownQp (part (setReg (remote (fun x => x)) (.rmaPdCtrl 0 0) 0) 0) 100 = none ∧ regField (setReg (remote (fun x => x)) (.rmaPdCtrl 0 0) 0) (.rmaPdCtrl 0 (regField (setReg (remote (fun x => x)) (.rmaPdCtrl 0 0) 0) (.rmaQpArg0 0) 43 40)) 7 7 = 0 := by
  decide +kernel

theorem test_qp_destroyed :
    knownQp (part (remote (withQp qp)) 0) 9 = some qp ∧ qp.ready = true := by
  decide +kernel

theorem test_qp_without_log :
    logRuns ({ remote (fun x => x) with collar := { bootStatus := 1 } }) = false := by
  decide +kernel

theorem test_qp_without_partition :
    logRuns (modPart (remote (fun x => x)) 0 (fun x => { x with mode := .free })) = true ∧ (part (modPart (remote (fun x => x)) 0 (fun x => { x with mode := .free })) 0).mode.exists = false := by
  decide +kernel

/-- A domain bound with its key, and with another; unbound, with its queue pair; and where it was not. -/
theorem test_pd_bound :
    logRuns (remote (withQp qp)) = true ∧
    reg (remote (withQp qp)) (.rmaPdKey 0 1) = reg (remote (withQp qp)) (.spKey 0 0) ∧ (slotState (remote (withQp qp)) 0 0).mode = .live := by
  decide +kernel

theorem test_pd_misbound :
    ¬ (reg (setReg (remote (withQp qp)) (.rmaPdKey 0 1) 1) (.rmaPdKey 0 1) = reg (setReg (remote (withQp qp)) (.rmaPdKey 0 1) 1) (.spKey 0 0) ∧ (slotState (setReg (remote (withQp qp)) (.rmaPdKey 0 1) 1) 0 0).mode = .live) ∧
    regField (setReg (remote (withQp qp)) (.rmaPdKey 0 1) 1) (.rmaPdCtrl 0 1) 7 7 = 1 := by
  decide +kernel

theorem test_pd_unbound :
    regField (remote (withQp qp)) (.rmaPdCtrl 0 1) 7 7 = 1 ∧ qpOf (remote (withQp qp)) 0 9 = some qp ∧ qp.pd = 1 ∧ qp.ready = true ∧
    ¬ regField (remote (withQp qp)) (.rmaPdCtrl 0 2) 7 7 = 1 := by
  decide +kernel

/-- A slot enabled with its key and without; revoked, and its revocation done; released, and in other states. -/
theorem test_space_enabled :
    (65537#64).toNat.testBit 16 = true ∧ (slotState (modPart (remote (fun x => x)) 0 (fun x => { x with spaces := [] })) 0 0).mode = .free ∧
    (linkKey (modPart (remote (fun x => x)) 0 (fun x => { x with spaces := [] })) 0 (bitsOf (65537#64).toNat 0 16)).isSome = true ∧ (linkKey (modPart (remote (fun x => x)) 0 (fun x => { x with spaces := [] })) 0 (bitsOf (65538#64).toNat 0 16)).isSome = false := by
  decide +kernel

theorem test_space_revoked :
    (slotState (remote (fun x => x)) 0 0).mode = .live ∧ (slotState (remote (fun x => x)) 0 1).mode ≠ .live ∧ (slotState (remote (fun x => x)) 0 0).mode ≠ .revoked := by
  decide +kernel

theorem test_space_drained :
    (slotState (remote (fun x => { x with qps := [qp], spaces := [(0, { mode := .revoking, tR := some 99000 })] })) 0 0).mode = .revoking ∧ slotDrained (remote (fun x => { x with qps := [qp], spaces := [(0, { mode := .revoking, tR := some 99000 })] })) 0 0 = true ∧
    ¬ ((slotState (remote (fun x => { x with qps := [qp], spaces := [(0, { mode := .revoking, tR := some 99000 })] })) 0 1).mode = .revoking ∧ slotDrained (remote (fun x => { x with qps := [qp], spaces := [(0, { mode := .revoking, tR := some 99000 })] })) 0 1 = true) ∧
    qpOf (remote (fun x => { x with qps := [qp], spaces := [(0, { mode := .revoking, tR := some 99000 })] })) 0 9 = some qp ∧ pdSlot (remote (fun x => { x with qps := [qp], spaces := [(0, { mode := .revoking, tR := some 99000 })] })) 0 qp.pd = 0 ∧ qp.ready = true := by
  decide +kernel

theorem test_space_released :
    (slotState (remote (fun x => { x with spaces := [(0, { mode := .revoked })] })) 0 0).mode = .revoked := by
  decide +kernel

/-- A context record of queue pair 9, sealed under a partition's context key of zeros. -/
def sealedContext : Bytes :=
  contextHead 1 9 ++ gcmStream (zeros 32) (contextNonce 1 9) (zeros 96) ++
    gcmTag (zeros 32) (contextNonce 1 9) (contextHead 1 9) (gcmStream (zeros 32) (contextNonce 1 9) (zeros 96))
def fetched (qps : List Qp) (cache : Nat) : State :=
  modPart (setReg (rmaRegs sealed_) (.rmaCcCfg 0) cache) 0 (fun x => { x with
    contextKey := zeros 32, qps := qps, misses := [asking 99000] })

/-- Such a record is accepted. -/
theorem context_of_sealed (x : Partition) (h : x.contextKey = zeros 32) : (contextOf x 9 sealedContext).isSome = true := by
  have l : (gcmStream (zeros 32) (contextNonce 1 9) (zeros 96)).length = 96 := by
    simp only [gcmStream, xorBytes, List.length_zipWith, blocks_length _ _ round_key]; decide
  generalize hc : gcmStream (zeros 32) (contextNonce 1 9) (zeros 96) = c at l
  have lt : (gcmTag (zeros 32) (contextNonce 1 9) (contextHead 1 9) c).length = 16 := by
    simp only [gcmTag, xorBytes, List.length_zipWith, block_length _ _ round_key]; simp only [natBe, List.length_reverse, natLe_length]; decide
  generalize ht : gcmTag (zeros 32) (contextNonce 1 9) (contextHead 1 9) c = g at lt
  have lh : (contextHead 1 9).length = 16 := by decide
  have e : sealedContext = contextHead 1 9 ++ (c ++ g) := by rw [sealedContext, hc, ht, List.append_assoc]
  have e1 : sealedContext.take 16 = contextHead 1 9 := by rw [e, List.take_append_of_le_length (by omega), List.take_of_length_le (by omega)]
  have e2 : slice sealedContext 16 96 = c := by
    rw [slice, e, List.drop_append, List.drop_of_length_le (by omega), lh, List.nil_append, List.drop_zero,
      List.take_append_of_le_length (by omega), List.take_of_length_le (by omega)]
  have e3 : slice sealedContext 112 16 = g := by
    rw [slice, e, List.drop_append, List.drop_of_length_le (by omega), lh, List.nil_append, List.drop_append,
      List.drop_of_length_le (by omega), l, List.nil_append, List.drop_zero, List.take_of_length_le (by omega)]
  have e4 : field sealedContext 0 8 = 1 := by
    rw [field, slice, e, List.drop_zero, List.take_append_of_le_length (by omega)]; decide
  have e5 : sealedContext.length = 128 := by rw [e]; simp only [List.length_append]; omega
  have go : gcmOpen (zeros 32) (contextNonce 1 9) (contextHead 1 9) c g = some (gcmStream (zeros 32) (contextNonce 1 9) c) := if_pos ht
  simp [contextOf, e1, e2, e3, e4, e5, h, go]

/-- A fetched context that is accepted: with room in the cache, in place of another, and where all that it holds are locked. -/
theorem test_context_room : missOf (part (fetched [] 256) 0) 9 = some (asking 99000) ∧
    (contextOf (part (fetched [] 256) 0) 9 sealedContext).isSome = true ∧ ([] : List Qp).length < cacheSize (fetched [] 256) 0 :=
  ⟨by decide +kernel, context_of_sealed _ (by decide +kernel), by decide +kernel⟩
/-- A cache of 64 entries that is full. -/
def fullCache (f : Qp → Qp) : State := fetched ((List.range 64).map (fun n => f { qp with qpn := 10 + n })) 256
theorem test_context_evicts : missOf (part (fullCache id) 0) 9 = some (asking 99000) ∧
    (contextOf (part (fullCache id) 0) 9 sealedContext).isSome = true ∧
    cacheSize (fullCache id) 0 ≤ (part (fullCache id) 0).qps.length ∧
    (part (fullCache id) 0).qps.reverse.find? (fun y => !qpLocked (fullCache id) 0 y) = some { qp with qpn := 73 } :=
  ⟨by decide +kernel, context_of_sealed _ (by decide +kernel), by decide +kernel⟩
def lockedQp (q : Qp) : Qp := { q with msg := some ⟨99000, 0⟩ }
theorem test_context_locked : missOf (part (fullCache lockedQp) 0) 9 = some (asking 99000) ∧
    (contextOf (part (fullCache lockedQp) 0) 9 sealedContext).isSome = true ∧
    cacheSize (fullCache lockedQp) 0 ≤ (part (fullCache lockedQp) 0).qps.length ∧
    (∀ y ∈ (part (fullCache lockedQp) 0).qps, qpLocked (fullCache lockedQp) 0 y = true) :=
  ⟨by decide +kernel, context_of_sealed _ (by decide +kernel), by decide +kernel⟩


/-! Tears and the Collar -/

/-- A tear of number 7 under link key 1, sealed, by port 0; and a state whose key 1 is held and not torn. -/
def tearAt : Arrival := { port := 0, dt := 10, frac := 0, pkt := sealWith (plainPkt 3 1 (natLe 4 7 ++ natLe 1 1 ++ zeros 11) []) }
def strayTear (n : Nat) (port : Fin 7) : Arrival :=
  { tearAt with port := port, pkt := { plainPkt 3 1 (natLe 4 n ++ natLe 1 1 ++ zeros 11) [] with keyId := 9 } }
def torn : State :=
  let s := withWin (keyedLink (linkKeyOf 1 false) sealed_) .submit (subWin .opened [])
  withFlights { s with shawl := { s.shawl with ports := [(0, upPort 0), (1, upPort 2), (2, upPort 1)] } } [sender 0 1 0]
def tearEntry (n : Nat) : TearEntry := { keyId := 9, src := 4096, tearId := n, expiry := 1000000 }
def tears (l : List TearEntry) : State := { torn with shawl := { torn.shawl with tears := l } }

/-- A tear's tag is valid under its key. -/
theorem member_of_sealed {s : State} {k : Packet} {e : LinkKey} (h : e ∈ s.shawl.keys) (i : (e.keyId == k.keyId && !e.torn) = true)
    (z : e.key = zeros 32) : e.p ∈ tearMembers s (sealWith k) := by
  have g : gcmOpen (zeros 32) (packetNonce (sealWith k)) (packetAad (sealWith k)) (sealWith k).payload (sealWith k).tag =
      some (gcmStream (zeros 32) (packetNonce (sealWith k)) (sealWith k).payload) := if_pos rfl
  have i' : (e.keyId == (sealWith k).keyId && !e.torn) = true := i
  refine List.mem_map.mpr ⟨e, List.mem_filter.mpr ⟨h, ?_⟩, rfl⟩
  rw [Bool.and_eq_true]
  exact ⟨i', by rw [z, g]; rfl⟩

/-- A valid tear for a member with a descriptor in flight under the key and an open window. -/
theorem test_tear_member : FlightsOrdered torn ∧ 0 ∈ tearMembers torn tearAt.pkt ∧
    (packetFormOk tearAt.pkt 3 = true ∧ (portOf torn tearAt.port.val).edge = false) ∧
    sender 0 1 0 ∈ flying torn 0 ∧ (sender 0 1 0).done = none ∧ underKey torn tearAt.pkt.keyId (sender 0 1 0) = true ∧
    windowOf (part torn 0) .submit = some (subWin .opened []) ∧ (subWin .opened []).active = true :=
  ⟨ordered_of (by decide +kernel), member_of_sealed (e := linkKeyOf 1 false) (by decide +kernel) (by decide +kernel) rfl,
    by decide +kernel⟩


/-- A tear by an edge port; one seen before; one that finds the table full; one that is handed on; none of them is for a member. -/
theorem test_tear_dropped :
    ¬ (packetFormOk (strayTear 7 1).pkt 3 = true ∧ (portOf torn (strayTear 7 1).port.val).edge = false) := by
  decide +kernel

theorem test_tear_known :
    packetFormOk (strayTear 7 0).pkt 3 = true ∧ (portOf (tears [tearEntry 7]) 0).edge = false ∧
    tearKnown (elapse (tears [tearEntry 7]) 10) (strayTear 7 0).pkt = true := by
  decide +kernel

theorem test_tear_table_full :
    tearKnown (elapse (tears ((List.range 256).map tearEntry)) 10) (strayTear 300 0).pkt = false ∧
    256 ≤ ((tears ((List.range 256).map tearEntry)).shawl.tears.filter (fun e => decide (now (elapse (tears ((List.range 256).map tearEntry)) 10) < e.expiry))).length := by
  decide +kernel

theorem test_tear_handed_on :
    tearKnown (elapse (tears [tearEntry 7]) 10) (strayTear 8 0).pkt = false ∧
    ((tears [tearEntry 7]).shawl.tears.filter (fun e => decide (now (elapse (tears [tearEntry 7]) 10) < e.expiry))).length < 256 ∧
    tearMembers (tears [tearEntry 7]) (strayTear 8 0).pkt = [] ∧ tearPorts (tears [tearEntry 7]) 0 = [2] := by
  decide +kernel

theorem test_tear_forgotten :
    (tears [tearEntry 7]).shawl.tears.find? (fun x => x.keyId == 9 && x.src == 4096 && x.tearId == 7) = some (tearEntry 7) ∧
    (tears [tearEntry 7]).shawl.tears.find? (fun x => x.keyId == 9 && x.src == 4096 && x.tearId == 6) = none := by
  decide +kernel

/-- ATTEST, KEY_IMPORT, MODEL_UNSEAL and MODEL_SEAL operands. -/
def attestOps : AttestOps := { nonce := zeros 32, dst := inWin 0 }
def importOps (a : Nat) : KeyImportOps := { msgAddr := a, msgLen := 5012 }
def unsealOps : ModelOps := { src := inWin 0, dst := 0x100000, len := 0, segBytes := 0, elemFormat := 0, fracBits := 0, labelAddr := 0 }
def sealOps : ModelOps := { src := 0x100000, dst := inWin 0, len := 64, segBytes := 64, elemFormat := 4, fracBits := 0, labelAddr := 0 }

/-- A state with a model key and a link key, and a segment header of 16 elements in the window. -/
def modelled : State :=
  let s := modPart (keyedLink (linkKeyOf 1 false) sealed_) 0 (fun x =>
    { x with keys := [{ kind := 2, keyId := 0, key := zeros 32, smudge := 0, expiry := 0, dying := false }] })
  holding s (inWin 0) (natLe 2 0x0301 ++ natLe 1 4 ++ zeros 5 ++ zeros 8 ++ zeros 8 ++ natLe 8 16 ++ zeros 32)


/-- The five that wait for their slot, taken up. -/
theorem test_attest_queued :
    FlightsOrdered modelled ∧ Dispatches modelled hdr (.attest attestOps) :=
  of_takes (by decide +kernel)

theorem test_import_queued :
    FlightsOrdered modelled ∧ Dispatches modelled hdr (.keyImport (importOps (inWin 0))) :=
  of_takes (by decide +kernel)

theorem test_unseal_queued :
    FlightsOrdered modelled ∧ Dispatches modelled hdr (.modelUnseal unsealOps) :=
  of_takes (by decide +kernel)

theorem test_seal_queued :
    FlightsOrdered modelled ∧ Dispatches modelled hdr (.modelSeal sealOps) :=
  of_takes (by decide +kernel)

theorem test_destroy_queued :
    FlightsOrdered modelled ∧ Dispatches modelled hdr (.keyDestroy ⟨2, 0⟩) :=
  of_takes (by decide +kernel)

/-- A slot starts after boot, and before it. -/
theorem test_slot_starts :
    logRuns ({ modelled with collar := { bootStatus := 0, waiting := [(0, .update), (1, .reload 1), (1, .create 1), (1, .scrub 1)] } }) = true ∧ logRuns State.reset = false := by
  decide +kernel

/-- A state whose Collar slot runs a job; and one that runs a descriptor. -/
def running_ (s : State) (j : CollarJob) : State := { s with collar := { s.collar with running := [j] } }
def runs3 (s : State) (b : DescBody) : State := running_ (withFlights s [flightOf 3 hdr b (.collar 0) [] none]) (.descriptor 3)
def ended (s : State) (b : DescBody) : State := { runs3 s b with collar := { (runs3 s b).collar with running := [] } }


/-- A slot's end: with nothing, with the generator stopped, and with each kind of work. -/
theorem test_slot_empty :
    modelled.collar.running = [] := by
  decide +kernel

theorem test_slot_stands :
    (runs3 { modelled with entropy := { pool := .delivering } } (.attest attestOps)).collar.running = [] ++ [.descriptor 3] ∧
    drawsRandom (runs3 { modelled with entropy := { pool := .delivering } } (.attest attestOps)) (.descriptor 3) = true ∧ (drbgOf (runs3 { modelled with entropy := { pool := .delivering } } (.attest attestOps)) 16).running = false := by
  decide +kernel

theorem test_slot_attests :
    ¬ (drawsRandom (runs3 { modelled with otp := { lifeCycle := .field } } (.attest attestOps)) (.descriptor 3) = true ∧ (drbgOf (runs3 { modelled with otp := { lifeCycle := .field } } (.attest attestOps)) 16).running = false) ∧
    flight (runs3 { modelled with otp := { lifeCycle := .field } } (.attest attestOps)) 3 = some (flightOf 3 hdr (.attest attestOps) (.collar 0) [] none) ∧
    (runs3 { modelled with otp := { lifeCycle := .field } } (.attest attestOps)).otp.lifeCycle = .field := by
  decide +kernel

theorem test_slot_attests_not :
    (runs3 modelled (.attest attestOps)).otp.lifeCycle ≠ .field := by
  decide +kernel

theorem test_slot_imports :
    (runs3 modelled (.keyImport (importOps (inWin 0)))).collar.running = [] ++ [.descriptor 3] ∧ drawsRandom (runs3 modelled (.keyImport (importOps (inWin 0)))) (.descriptor 3) = false ∧
    (inWindow (inWin 0) && addrFits (part (runs3 modelled (.keyImport (importOps (inWin 0)))) 0) (inWin 0) 5012 64) = true ∧
    importReason (runs3 modelled (.keyImport (importOps (inWin 0)))) 0 5012 (messageOf (pread (runs3 modelled (.keyImport (importOps (inWin 0)))) 0 (inWin 0) 5012)) false ≠ 0 := by
  decide +kernel

theorem test_slot_imports_from_pocket :
    (inWindow (unitAt 0) && addrFits (part (runs3 modelled (.keyImport (importOps (unitAt 0)))) 0) (unitAt 0) 5012 64) ≠ true := by
  decide +kernel

theorem test_slot_destroys :
    keyUsers (runs3 (markDying modelled 0 2 0) (.keyDestroy ⟨2, 0⟩)) 0 3 2 0 = false := by
  decide +kernel

theorem test_slot_destroys_later :
    flight ({ runs3 modelled (.keyDestroy ⟨0xFF, 0⟩) with inflight := [{ sender 0 1 0 with id := 2 }, flightOf 3 hdr (.keyDestroy ⟨0xFF, 0⟩) (.collar 0) [] none] }) 3 = some (flightOf 3 hdr (.keyDestroy ⟨0xFF, 0⟩) (.collar 0) [] none) ∧
    keyUsers ({ runs3 modelled (.keyDestroy ⟨0xFF, 0⟩) with inflight := [{ sender 0 1 0 with id := 2 }, flightOf 3 hdr (.keyDestroy ⟨0xFF, 0⟩) (.collar 0) [] none] }) 0 3 0xFF 0 = true := by
  decide +kernel

theorem test_slot_unseals :
    modelKey (ended modelled (.modelUnseal unsealOps)) 3 0 = some ⟨2, 0, zeros 32, 0, 0, false⟩ ∧
    segmentOk (part (runs3 modelled (.modelUnseal unsealOps)) 0) (pread (ended modelled (.modelUnseal unsealOps)) 0 (inWin 0) 64) = true := by
  decide +kernel

theorem test_slot_unseals_not :
    modelKey (ended (keyedLink (linkKeyOf 1 false) sealed_) (.modelUnseal unsealOps)) 3 0 = none := by
  decide +kernel

theorem test_slot_seals :
    modelKey (ended modelled (.modelSeal sealOps)) 3 0 = some ⟨2, 0, zeros 32, 0, 0, false⟩ ∧
    sealMarked (ended modelled (.modelSeal sealOps)) 0 sealOps = false := by
  decide +kernel

theorem test_slot_seals_not :
    sealMarked (runs3 (writeMarked modelled 0 0x100000 (zeros 64) (plainMeta 16) true false) (.modelSeal sealOps)) 0 sealOps = true := by
  decide +kernel

/-- Work for a descriptor that has gone, for a partition in each state, for an expired key, and a module's report. -/
theorem test_slot_stale :
    (running_ modelled (.descriptor 3)).collar.running = [] ++ [.descriptor 3] ∧ drawsRandom (running_ modelled (.descriptor 3)) (.descriptor 3) = false ∧
    flight (running_ modelled (.descriptor 3)) 3 = none := by
  decide +kernel

theorem test_slot_partitions :
    drawsRandom modelled (.create 0) = false ∧ drawsRandom modelled (.destroy 0) = false ∧ drawsRandom modelled (.reload 0) = false ∧
    (drbgOf modelled 16).running = true := by
  decide +kernel

theorem test_slot_expires :
    drawsRandom (running_ (markDying modelled 0 2 0) (.expire 0 2 0)) (.expire 0 2 0) = false ∧
    keyUsers (running_ (markDying modelled 0 2 0) (.expire 0 2 0)) 0 (running_ (markDying modelled 0 2 0) (.expire 0 2 0)).nextId 2 0 = false := by
  decide +kernel

theorem test_slot_expires_later :
    keyUsers (running_ (withFlights (markDying modelled 0 4 1) [sender 0 1 0]) (.expire 0 4 1)) 0 (running_ (withFlights (markDying modelled 0 4 1) [sender 0 1 0]) (.expire 0 4 1)).nextId 4 1 = true := by
  decide +kernel

/-- The digests of 1,312 zeros and of 64. -/
def zerosDigest : Bytes := natLe 32 112167394518233295715204572674307059986577490411947612098807826959984634593471
def blockDigest : Bytes := natLe 32 101546655941036795523253155783055259797399825787481404214726360852346613862151

theorem zeros_digest : sha3 (zeros 1312) = zerosDigest := by decide +kernel
theorem block_digest : sha3 (zeros 64) = blockDigest := by decide +kernel

/-- An update message of scope 0 and a kind from a BLANK module, whose identity is zeros; the signer's key is zeros too. -/
def updateMsg (kind n : Nat) : Bytes :=
  natLe 2 0x0701 ++ natLe 1 0 ++ natLe 1 kind ++ natLe 4 n ++ zerosDigest ++ zeros 32 ++ natLe 4 64 ++ zeros 4 ++
    zerosDigest ++ zeros 16 ++ natLe 1 2 ++ zeros 63 ++ zeros 1312 ++ zeros 2420
def updating (m : Bytes) : State :=
  { running_ modelled .update with
      otp := { lifeCycle := .blank }
      collar := { bootStatus := 0, running := [.update], updBusy := true, updMessage := m, signatureOk := true, romSigners := [zerosDigest] } }

/-- An update that revokes signer 2. -/
theorem test_update_revokes : (updating (updateMsg 0x11 1)).collar.running = [] ++ [.update] ∧
    drawsRandom (updating (updateMsg 0x11 1)) .update = false ∧
    updateReason (updating (updateMsg 0x11 1)) (updateMsg 0x11 1).length (messageOf (updateMsg 0x11 1)) true = 0 := by
  refine ⟨rfl, rfl, ?_⟩
  have i : identityPk (updating (updateMsg 0x11 1)) = zeros 1312 := if_neg (by decide +kernel)
  have k : (messageOf (updateMsg 0x11 1)).pk = zeros 1312 := by decide +kernel
  unfold updateReason
  rw [i, k, zeros_digest]
  decide +kernel


theorem test_update_refused :
    updateReason (updating []) 0 (messageOf []) true ≠ 0 := by
  decide +kernel

/-- A set whose nine images hold 64 zeros each and whose signer's key is zeros, and a module that takes it. -/
def bootSet : Bytes :=
  natLe 2 0x0801 ++ natLe 1 9 ++ natLe 1 0 ++ natLe 1 3 ++ natLe 1 1 ++ zeros 2 ++ natLe 8 4992 ++ zeros 16 ++ zeros 32 ++
    (List.range 9).flatMap (fun i => natLe 2 0x0802 ++ natLe 1 (i + 1) ++ zeros 5 ++ natLe 8 (4416 + 64 * i) ++ natLe 4 64 ++ zeros 12 ++
      blockDigest) ++ zeros 4352
def unbooted : State :=
  { modelled with collar := { romSigners := [zerosDigest] } }

/-- A set that passes boot's checks. -/
theorem test_boot_passes : logRuns unbooted = false ∧ bootCheck unbooted bootSet true = 0 ∧ unbooted.faults.log = [] := by
  refine ⟨rfl, ?_, rfl⟩
  have k : slice bootSet 640 1312 = zeros 1312 := by decide +kernel
  have b : ∀ h ∈ imageHeaders bootSet, bodyMatches bootSet h = true := by
    have e : ∀ h ∈ imageHeaders bootSet, slice bootSet (bodyRange h).1 (bodyRange h).2 = zeros 64 ∧ slice h 0x20 32 = blockDigest := by
      decide +kernel
    intro h m
    simp only [bodyMatches, (e h m).1, (e h m).2, block_digest, beq_self_eq_true]
  have g : setSigner unbooted bootSet = true := by
    unfold setSigner
    rw [k, zeros_digest]
    decide +kernel
  unfold bootCheck
  rw [g, List.all_eq_true.mpr b]
  decide +kernel


/-- A set of no form. -/
theorem test_boot_refused :
    bootCheck unbooted [] true ≠ 0 := by
  decide +kernel

/-- Update and attestation requests with one outstanding and with none. -/
theorem test_requests_busy :
    ({ modelled with collar := { bootStatus := 0, updBusy := true, attGo := true } }).collar.updBusy = true ∧ ({ modelled with collar := { bootStatus := 0, updBusy := true, attGo := true } }).collar.attGo = true ∧ modelled.collar.updBusy = false ∧ modelled.collar.attGo = false := by
  decide +kernel

/-- A BLANK module armed for an op at 99,500 ns. -/
def armed (op : Nat) (lc : LifeCycle) : State := { modelled with otp := { lifeCycle := lc }, collar := { bootStatus := 0, arm := some (op, 99500) } }


theorem test_arm_ends :
    (armed 1 .blank).collar.arm = some (1, 99500) ∧ modelled.collar.arm = none := by
  decide +kernel

theorem test_provision_confirmed :
    confirmed (armed 1 .blank) 1 = true ∧ (armed 1 .blank).otp.lifeCycle = .blank ∧ (armed 1 .blank).collar.provisioning = none ∧
    (armed 1 .blank).entropy.pool = .delivering := by
  decide +kernel

theorem test_provision_waits :
    confirmed ({ armed 1 .blank with entropy := {} }) 1 = true ∧ ({ armed 1 .blank with entropy := {} }).otp.lifeCycle = .blank ∧ ({ armed 1 .blank with entropy := {} }).collar.provisioning = none ∧
    ({ armed 1 .blank with entropy := {} }).entropy.pool ≠ .delivering := by
  decide +kernel

theorem test_provision_unconfirmed :
    confirmed (armed 2 .blank) 1 = false ∧
    ¬ (confirmed (armed 2 .blank) 2 = false ∨ (armed 2 .blank).otp.lifeCycle = .retired) := by
  decide +kernel

theorem test_retires :
    confirmed (armed 2 .field) 2 = true ∧ (armed 2 .field).otp.lifeCycle ≠ .retired ∧ confirmed modelled 2 = false := by
  decide +kernel

theorem test_key_expires :
    keyExpiryOf (modPart modelled 0 (fun x => { x with keys := x.keys.map (fun k => { k with expiry := 123456 }) })) 0 2 0 = some 123456 ∧
    keyExpiryOf (modPart modelled 0 (fun x => { x with keys := x.keys.map (fun k => { k with expiry := 123456 }) })) 0 4 1 = none := by
  decide +kernel

/-! Federation time and metering -/

/-- A state in a time state that follows FT_PPS, with a value bound to the next edge. -/
def ppsIn (m : TimeMode) (good : Nat) (b : Option Nat) : State :=
  { masked with time := { mode := m, ns := 100000, hops := 31, source := 0, goodRun := good, bound := b, lastUsable := 1000 } }


/-- An edge that is not used: from another source, with no value, and 1 ns more than 100 us away. -/
theorem test_edge_unbound :
    ¬ (needsPps (elapseTo (ppsIn .locked 0 none) 10 7) = true ∧ (elapseTo (ppsIn .locked 0 none) 10 7).time.lastUsable + 1500000000 ≤ now (elapseTo (ppsIn .locked 0 none) 10 7)) ∧
    timeSource (elapseTo (ppsIn .locked 0 none) 10 7) ≠ 1 ∧ (elapseTo (ppsIn .locked 0 none) 10 7).time.bound = none ∧
    timeSource (elapseTo (setReg (ppsIn .locked 0 none) .ftCtrl 1) 10 7) = 1 := by
  decide +kernel

theorem test_edge_far :
    (elapseTo (ppsIn .locked 0 (some 200011)) 10 0).time.bound = some 200011 ∧
    25600000 < (((total256 (elapseTo (ppsIn .locked 0 (some 200011)) 10 0) : Nat) : Int) - ((256 * 200011 : Nat) : Int)).natAbs ∧
    (((total256 (elapseTo (ppsIn .locked 0 (some 200010)) 10 255) : Nat) : Int) - ((256 * 200010 : Nat) : Int)).natAbs ≤ 25600000 := by
  decide +kernel

/-- One that is used: UNSET, LOCKED, the sixteenth near one, the fifteenth, a distant one, in HOLDOVER and in FREERUN. -/
theorem test_edge_steps :
    (elapseTo (withFlights { ppsIn .unset 0 (some 5000000) with collar := { bootStatus := 0, arm := some (1, 99000) } } []) 10 7).time.mode = .unset ∧ (elapseTo (withFlights { ppsIn .unset 0 (some 5000000) with collar := { bootStatus := 0, arm := some (1, 99000) } } []) 10 7).time.bound = some 5000000 ∧ timeSource (elapseTo (withFlights { ppsIn .unset 0 (some 5000000) with collar := { bootStatus := 0, arm := some (1, 99000) } } []) 10 7) ≠ 1 := by
  decide +kernel

theorem test_edge_locks :
    (elapseTo (ppsIn .acquiring 15 (some 100014)) 10 0).time.mode = .acquiring ∧ 15 ≤ (elapseTo (ppsIn .acquiring 15 (some 100014)) 10 0).time.goodRun ∧
    (((total256 (elapseTo (ppsIn .acquiring 15 (some 100014)) 10 0) : Nat) : Int) - ((256 * 100014 : Nat) : Int)).natAbs = 1024 := by
  decide +kernel

theorem test_edge_counts :
    (elapseTo (ppsIn .acquiring 14 (some 100014)) 10 0).time.mode = .acquiring ∧ (elapseTo (ppsIn .acquiring 14 (some 100014)) 10 0).time.goodRun < 15 := by
  decide +kernel

theorem test_edge_distant :
    1024 < (((total256 (elapseTo (ppsIn .acquiring 15 (some 100015)) 10 0) : Nat) : Int) - ((256 * 100015 : Nat) : Int)).natAbs := by
  decide +kernel

theorem test_edge_holdover :
    (elapseTo (ppsIn .holdover 3 (some 100015)) 10 0).time.mode = .holdover ∧
    (((total256 (elapseTo (ppsIn .holdover 3 (some 100015)) 10 0) : Nat) : Int) - ((256 * 100015 : Nat) : Int)).natAbs ≤ 25600000 ∧
    (elapseTo (ppsIn .freerun 3 (some 5)) 10 0).time.mode = .freerun := by
  decide +kernel

/-- One 1.5 s after the last usable one, which finds the counter in HOLDOVER. -/
theorem test_edge_lost :
    needsPps (elapseTo (ppsIn .locked 0 (some 1500001000)) 1499901000 0) = true ∧ (elapseTo (ppsIn .locked 0 (some 1500001000)) 1499901000 0).time.lastUsable + 1500000000 ≤ now (elapseTo (ppsIn .locked 0 (some 1500001000)) 1499901000 0) ∧
    (ppsLost (elapseTo (ppsIn .locked 0 (some 1500001000)) 1499901000 0)).time.mode = .holdover ∧ (ppsLost (elapseTo (ppsIn .locked 0 (some 1500001000)) 1499901000 0)).time.bound = some 1500001000 := by
  decide +kernel

/-- A state whose last edge came at 100,000 ns, at an instant. -/
def edged (ns : Nat) : State := { masked with time := { masked.time with ns := ns, lastEdge := some 25600000 } }


/-- FT_TOD_NEXT 100 ms after an edge, earlier, and with none; FT_CTRL.src changed, kept and 3; and before boot. -/
theorem test_tod_binds :
    logRuns (edged 100100000) = true ∧ logRuns State.reset = false ∧
    25600000 + 25600000000 ≤ total256 (edged 100100000) ∧ total256 (edged 100100000) ≤ 25600000 + 230400000000 ∧
    ¬ (25600000 + 25600000000 ≤ total256 (edged 100099999)) ∧ masked.time.lastEdge = none := by
  decide +kernel

theorem test_source_written :
    (5#64).toNat % 4 ≠ 3 ∧ (5#64).toNat % 4 ≠ timeSource (edged 100100000) ∧
    (7#64).toNat % 4 = 3 ∧ (6#64).toNat % 4 = timeSource (edged 100100000) := by
  decide +kernel

/-- 1.5 s without an edge, on FT_PPS and on the Shawl with FT_PPS the only source, and in HOLDOVER. -/
theorem test_pps_lost :
    needsPps (ppsIn .locked 0 none) = true ∧ needsPps (ppsIn .holdover 0 none) = false ∧
    needsPps (setReg { (ppsIn .locked 0 none) with time := { (ppsIn .locked 0 none).time with source := 1 } } .ftCtrl 0) = true := by
  decide +kernel

/-- A module that follows port 0 of the Shawl or 2, whose neighbours were heard last at an instant. -/
def heardAt (u : Nat) : Neighbour :=
  { hops := 3, moduleId := 8, locked := true, exchanges := 4, usedAt := u, arrived := ⟨99000, 0⟩, departed := ⟨98000, 0⟩, heard := true, sent := true }
def onShawl (m : TimeMode) (good u0 u2 : Nat) : State :=
  let s := linked masked
  setReg { s with
      shawl := { s.shawl with ports := [(0, upPort 0), (2, upPort 0)] }
      time := { mode := m, ns := 10100000, hops := 4, source := 1, port := 0, goodRun := good, lastUsable := 1000,
                neighbours := [(0, heardAt u0), (2, { heardAt u2 with hops := 5 })] } } .ftCtrl 1

/-- A TIME message of a LOCKED neighbour, whose stamps put this module `d` ns ahead. -/
def timeMsg (d : Nat) : TimeMsg :=
  { hops := 3, quality := 2, moduleId := 8, follows := false, t1 := ⟨99000 - d, 0⟩, t4 := ⟨98000 - d, 0⟩, arrival := ⟨10100000, 0⟩ }


/-- A port's timer, trained and not; a message of its neighbour on it. -/
theorem test_time_timer :
    (portOf (onShawl .locked 0 10000000 10000000) 0).mode.carries = true ∧ (portOf (onShawl .locked 0 10000000 10000000) 1).mode.carries = false := by
  decide +kernel

/-- What the two times say of a message on a port. -/
def followed (s : State) (i : Nat) (m : TimeMsg) : Bool × Option Nat × Bool :=
  let n := neighbour s i
  (n.heard && n.sent && m.quality == 2 && decide (m.hops ≤ 23) && !m.follows, chosenPort s, followsShawl s)


theorem test_time_locked :
    ¬ ((onShawl .locked 0 10000000 10000000).time.mode = .locked ∧ (onShawl .locked 0 10000000 10000000).time.source = 1 ∧ (neighbour (onShawl .locked 0 10000000 10000000) (onShawl .locked 0 10000000 10000000).time.port).usedAt + 10000000 ≤ now (onShawl .locked 0 10000000 10000000)) ∧
    followed (onShawl .locked 0 10000000 10000000) 0 (timeMsg 4) = (true, some 0, true) := by
  decide +kernel

theorem test_time_locks :
    followed (onShawl .acquiring 15 10000000 10000000) 0 (timeMsg 4) = (true, some 0, true) ∧
    ((((stamp256 ⟨99000, 0⟩ - stamp256 (timeMsg 4).t1) - (stamp256 (timeMsg 4).t4 - stamp256 ⟨98000, 0⟩) -
    signed16 (regField (onShawl .acquiring 15 10000000 10000000) (.ftAsym 0) 15 0)) / 2 : Int)).natAbs = 1024 ∧ 15 ≤ (onShawl .acquiring 15 10000000 10000000).time.goodRun := by
  decide +kernel

theorem test_time_acquires :
    followed (onShawl .acquiring 14 10000000 10000000) 0 (timeMsg 4) = (true, some 0, true) ∧
    (onShawl .acquiring 14 10000000 10000000).time.goodRun < 15 := by
  decide +kernel

theorem test_time_message_unset :
    followed (onShawl .unset 0 10000000 10000000) 0 (timeMsg 4) = (true, some 0, true) ∧
    (onShawl .unset 0 10000000 10000000).time.mode = .unset := by
  decide +kernel

theorem test_time_freerun :
    followed (onShawl .freerun 0 10000000 10000000) 0 (timeMsg 4) = (true, some 0, true) ∧
    (onShawl .freerun 0 10000000 10000000).time.mode = .freerun := by
  decide +kernel

theorem test_time_not_chosen :
    followed (onShawl .locked 0 10000000 10000000) 2 (timeMsg 4) = (true, some 0, true) ∧
    followed (onShawl .locked 0 10000000 10000000) 2 { timeMsg 4 with hops := 24 } = (false, some 0, true) := by
  decide +kernel

/-- An exchange 10 ms after the last; and 10 ms with another neighbour, and with none. -/
theorem test_time_late :
    (onShawl .locked 0 100000 10000000).time.mode = .locked ∧ (onShawl .locked 0 100000 10000000).time.source = 1 ∧ (neighbour (onShawl .locked 0 100000 10000000) (onShawl .locked 0 100000 10000000).time.port).usedAt + 10000000 ≤ now (onShawl .locked 0 100000 10000000) := by
  decide +kernel

theorem test_time_lost :
    (onShawl .locked 0 5000000 10000000).time.mode = .locked ∧ (onShawl .locked 0 5000000 10000000).time.source = 1 ∧
    bestPort (reach (onShawl .locked 0 5000000 10000000) 15000000) ((List.range 6).filter (fun i => i != (onShawl .locked 0 5000000 10000000).time.port)) = some 2 := by
  decide +kernel

theorem test_time_lost_all :
    bestPort (reach (onShawl .locked 0 5000000 5000000) 15000000) ((List.range 6).filter (fun i => i != (onShawl .locked 0 5000000 5000000).time.port)) = none ∧
    (ppsIn .locked 0 none).time.source ≠ 1 := by
  decide +kernel

theorem test_holdover_ends :
    (ppsIn .holdover 0 none).time.mode = .holdover ∧ (ppsIn .locked 0 none).time.mode ≠ .holdover ∧
    logRuns (ppsIn .holdover 0 none) = true := by
  decide +kernel

/-- The first minute ends with nothing in flight; a millisecond is sampled. -/
theorem test_minute_ends :
    nextMark masked minuteNs masked.manager.lastMinute = 1 ∧
    masked.inflight = [] ∧ metered (part masked 0).mode = true ∧ metered (part masked 1).mode = false := by
  decide +kernel

theorem test_millisecond_sampled :
    nextMark masked 1000000 masked.manager.lastMs = 1 := by
  decide +kernel

/-! The Shawl's links -/

theorem mul_none (x : Nat) : fecMul 0 x = 0 := by simp [fecMul, fecMulBits, fecDouble]

theorem fold_none (a : Nat) : ∀ n, (List.replicate n 0).foldl (fun acc x => Nat.xor (fecMul acc a) x) 0 = 0
  | 0 => rfl
  | n + 1 => by
    have e : Nat.xor (fecMul 0 a) 0 = 0 := by rw [mul_none]; rfl
    rw [List.replicate_succ, List.foldl_cons, e]
    exact fold_none a n

theorem word_none : fecCorrect (List.replicate 136 0) [] = some (List.replicate 136 0, []) := by
  have e : (fecSyndromes (List.replicate 136 0)).all (fun x => x == 0) = true := by
    simp only [fecSyndromes, fold_none]; rfl
  simp only [fecCorrect, e, if_true]

theorem zero_word (n c : Nat) : fecWord (List.replicate n 0) c = List.replicate 136 0 := by
  have g : ∀ i, (List.replicate n 0).getD i 0 = 0 := fun i => by
    rw [List.getD_eq_getElem?_getD, List.getElem?_replicate]; split <;> rfl
  simp only [fecWord, g, List.map_const', List.length_range]

/-- The block of an idle link decodes to idle units. -/
theorem block_none : fecDecode (zeros 544) [] = some (zeros 512, []) := by
  have w : (List.range 4).map (fun c => fecCorrect (fecWord ((fit 544 (zeros 544)).map (fun b => b.toNat)) c)
      (([] : List Nat).flatMap (fun l => laneSymbols l c))) = List.replicate 4 (some (List.replicate 136 0, [])) := by
    have f : (fit 544 (zeros 544)).map (fun b => b.toNat) = List.replicate 544 0 := by decide +kernel
    rw [f]
    rw [List.map_congr_left (g := fun _ => some (List.replicate 136 0, [])) (fun c _ => by rw [zero_word]; exact word_none)]
    rfl
  unfold fecDecode
  simp only [w]
  decide +kernel

/-- The bytes of a SUBMIT of no payload for partition 0, and a block that begins with it. -/
def submitBytes : Bytes := natLe 1 34 ++ natLe 1 1 ++ natLe 2 0 ++ natLe 2 4096 ++ natLe 2 (2 ^ 13 + 2 ^ 14) ++ zeros 24
def submitBlock : Bytes := submitBytes ++ zeros 480 ++
  [4#8, 0#8, 0#8, 98#8, 207#8, 181#8, 0#8, 42#8, 140#8, 6#8, 0#8, 110#8, 235#8, 193#8, 0#8, 90#8, 235#8, 174#8, 0#8, 37#8, 169#8, 151#8, 0#8,
   236#8, 202#8, 150#8, 0#8, 20#8, 6#8, 204#8, 0#8, 193#8]

/-- A block that cannot be corrected: nine symbols of its first codeword are wrong. -/
def badBlock : Bytes := (List.range 9).flatMap (fun i => natLe 1 (i + 1) ++ zeros 3)

theorem block_bad : fecDecode badBlock [] = none := by
  decide +kernel

/-- A bad block that is expected; an idle one that is; one that is not; and a port that carries nothing. -/
theorem test_block_bad : (portOf (linked masked) 1).mode.carries = true ∧ (portOf (linked masked) 2).mode.carries = false ∧
    fecDecode badBlock (if (portOf (reachRemap (linked masked) 1 0) 1).mode = .upHalf then [] else
      (portOf (reachRemap (linked masked) 1 0) 1).erased.toList) = none :=
  ⟨rfl, rfl, block_bad⟩

theorem test_block_idle : (portOf (linked masked) 1).mode.carries = true ∧ fecDecode (zeros 544) [] = some (zeros 512, []) ∧
    fecDecode (zeros 544) (if (portOf (reachRemap (linked masked) 1 0) 1).mode = .upHalf then [] else
      (portOf (reachRemap (linked masked) 1 0) 1).erased.toList) = some (zeros 512, []) ∧
    (0 % 2 ^ 32 = (portOf (linked masked) 1).rxNext ∧ 1 % 2 ^ 32 ≠ (portOf (linked masked) 1).rxNext) ∧
    ((portOf (linked masked) 1).remapRx = none ∧ (portOf (linked masked) 1).erased = none ∧ (portOf (linked masked) 1).corrected = []) ∧
    (portOf (linked masked) 1).unitBytes = [] ∧ (portOf (linked masked) 1).headStamp = none ∧ (portOf (linked masked) 1).flushing = false ∧
    (portOf (linked masked) 1).unitPos + 16 ≤ 130 ∧ (zeros 512).length = 512 ∧ (zeros 512).drop 32 = zeros 480 ∧
    (zeros 512).take 32 = zeros 32 :=
  ⟨rfl, block_none, block_none, by decide +kernel⟩


/-- A block with a packet for partition 0 by the edge port. -/
theorem test_block_packet :
    fecDecode submitBlock [] = some (submitBytes ++ zeros 480, []) ∧
    (submitBytes ++ zeros 480).take 32 ≠ zeros 32 ∧ (submitBytes ++ zeros 480).drop 32 = zeros 480 ∧
    unitsNeeded submitBytes = 32 ∧ knownType (fillEntry (linked masked) 1 (packetOf submitBytes)).ptype = true ∧
    packetFormOk (fillEntry (linked masked) 1 (packetOf submitBytes)) (fillEntry (linked masked) 1 (packetOf submitBytes)).ptype = true ∧
    (fillEntry (linked masked) 1 (packetOf submitBytes)).ptype = 4 ∧
    routeOf (linked masked) (fillEntry (linked masked) 1 (packetOf submitBytes)).dst = some 6 ∧
    takesPackets (part (linked masked) (addrPart (fillEntry (linked masked) 1 (packetOf submitBytes)).dst)).mode = true := by
  decide +kernel

/-- Port 1 with blocks 3 and 4 not acknowledged, the first sent at an instant, and block 3 resent `n` times. -/
def resending (sent n : Nat) : State :=
  let s := linked masked
  { s with shawl := { s.shawl with ports := [(1, { upPort 2 with
      replay := [(3, sent, zeros 512), (4, sent, zeros 512)]
      txNext := 5
      una := 3
      resends := n
      resendOf := 3 })] } }


/-- An ACK before the timer's end, and at it. -/
theorem test_ack_arrives :
    ¬ (3, 99500, zeros 512).2.1 + 600 ≤ now (resending 99500 0) ∧ (portOf (resending 99500 0) 1).mode.carries = true ∧
    (3, 99400, zeros 512).2.1 + 600 ≤ now (resending 99400 0) ∧ (portOf (ackTimerExpires (resending 99400 0) 1) 1).mode.carries = true := by
  decide +kernel

/-- An ACK at the timer's end that finds the port in RETRAIN. -/
theorem test_ack_retrains :
    (3, 99400, zeros 512).2.1 + 600 ≤ now (resending 99400 7) ∧
    (portOf (ackTimerExpires (resending 99400 7) 1) 1).mode.carries = false := by
  decide +kernel

/-- A NAK of a block of the buffer for the seventh time and the eighth, and of one that is not in it. -/
theorem test_nak_resends :
    (portOf (resending 99500 6) 1).replay.head? = some (3, 99500, zeros 512) ∧ (∀ e ∈ (portOf (resending 99500 6) 1).replay, e.1 ≠ 5 % 2 ^ 32) ∧
    (if (portOf (resending 99500 6) 1).resendOf = 3 % 2 ^ 32 then (portOf (resending 99500 6) 1).resends + 1 else 1) < 8 ∧
    8 ≤ (if (portOf (resending 99500 7) 1).resendOf = 3 % 2 ^ 32 then (portOf (resending 99500 7) 1).resends + 1 else 1) := by
  decide +kernel

theorem test_ack_timer :
    (portOf (resending 99500 6) 1).replay.head? = some (3, 99500, zeros 512) ∧ (portOf (resending 99500 6) 1).mode.carries = true ∧
    (if (portOf (resending 99500 6) 1).resendOf = 3 then (portOf (resending 99500 6) 1).resends + 1 else 1) < 8 ∧
    (portOf (linked masked) 1).replay = [] := by
  decide +kernel

/-- Port 0 in slot 1 of its frame, where partition 0 owns every slot or TRANSIT does, with a packet of 4 for another module. -/
def outbound : Packet := { packet 8 (zeros 16) (zeros 64) true with dst := 16, vc := 0 }
def slotted (o held : Nat) (k : List (Nat × Packet)) : State :=
  let s := linked masked
  { s with
      power := { s.power with stageLink := held }
      shawl := { s.shawl with ports := [(0, { upPort 0 with owners := List.replicate 64 o, frameSlot := 1, egress := k, credits := [(16, 100)] })] } }

/-- The owner of a port's slot, and its first packet. -/
def slotOwner (s : State) (i : Nat) : Nat :=
  (if (portOf s i).frameSlot = 0 ∨ (portOf s i).owners = [] then egressTable s i else (portOf s i).owners).getD (portOf s i).frameSlot 0x10


/-- A slot with its owner's packet, with another partition's, withheld by the power cap, and with nothing to send. -/
theorem test_slot_of_owner :
    (portOf (slotted 0 0 [(0, outbound)]) 0).mode.carries = true ∧ (portOf (slotted 0 0 [(0, outbound)]) 0).replay.length < 1024 ∧ (portOf (slotted 0 0 [(0, outbound)]) 2).mode.carries = false ∧
    slotOwner (slotted 0 0 [(0, outbound)]) 0 = 0 ∧ ¬ (portOf (slotted 0 0 [(0, outbound)]) 0).frameSlot % 16 < (slotted 0 0 [(0, outbound)]).power.stageLink ∧
    pickOwn (portOf (slotted 0 0 [(0, outbound)]) 0) 130 0 (portOf (slotted 0 0 [(0, outbound)]) 0).egress [] = some outbound := by
  decide +kernel

theorem test_slot_of_other :
    slotOwner (setReg (slotted 0 0 [(1, outbound)]) .ptnModes 4) 0 = 0 ∧ ¬ (portOf (setReg (slotted 0 0 [(1, outbound)]) .ptnModes 4) 0).frameSlot % 16 < (setReg (slotted 0 0 [(1, outbound)]) .ptnModes 4).power.stageLink ∧
    pickOwn (portOf (setReg (slotted 0 0 [(1, outbound)]) .ptnModes 4) 0) 130 0 (portOf (setReg (slotted 0 0 [(1, outbound)]) .ptnModes 4) 0).egress [] = none ∧ regField (setReg (slotted 0 0 [(1, outbound)]) .ptnModes 4) .ptnModes 2 2 = 1 ∧
    ((List.range 16).map (fun d => ((portOf (setReg (slotted 0 0 [(1, outbound)]) .ptnModes 4) 0).frameSlot + 1 + d) % 16)).find? (fun q =>
    (pickOwn (portOf (setReg (slotted 0 0 [(1, outbound)]) .ptnModes 4) 0) 130 q (portOf (setReg (slotted 0 0 [(1, outbound)]) .ptnModes 4) 0).egress []).isSome) = some 1 ∧
    pickOwn (portOf (setReg (slotted 0 0 [(1, outbound)]) .ptnModes 4) 0) 130 1 (portOf (setReg (slotted 0 0 [(1, outbound)]) .ptnModes 4) 0).egress [] = some outbound := by
  decide +kernel

theorem test_slot_withheld :
    slotOwner (slotted 0 2 [(0, outbound)]) 0 < 16 ∧ (portOf (slotted 0 2 [(0, outbound)]) 0).frameSlot % 16 < (slotted 0 2 [(0, outbound)]).power.stageLink ∧
    (portOf (slotted 16 0 []) 0).egress = [] ∧ (slotted 16 0 []).shawl.queues = [] := by
  decide +kernel

theorem test_slot_with_time :
    (portOf (modPort (slotted 16 0 []) 0 (fun x => { x with timeOut := [(7, zeros 64)] })) 0).half = none ∧ (portOf (modPort (slotted 16 0 []) 0 (fun x => { x with timeOut := [(7, zeros 64)] })) 0).sinceAck < 6 ∧ (portOf (modPort (slotted 16 0 []) 0 (fun x => { x with timeOut := [(7, zeros 64)] })) 0).controlOut = [] ∧ (portOf (modPort (slotted 16 0 []) 0 (fun x => { x with timeOut := [(7, zeros 64)] })) 0).nakFor = [] ∧
    (portOf (modPort (slotted 16 0 []) 0 (fun x => { x with timeOut := [(7, zeros 64)] })) 0).remaps = [] ∧ (portOf (modPort (slotted 16 0 []) 0 (fun x => { x with timeOut := [(7, zeros 64)] })) 0).timeOut = (7, zeros 64) :: [] := by
  decide +kernel

/-- The last queue of die 1 is flushed, after boot and before it. -/
theorem test_queue_flushed :
    logRuns (modQueue (linked masked) 815 (fun _ => { cells := 4, granted := 0, packets := [(7, ⟨1, 0⟩, outbound)] })) = true ∧ logRuns State.reset = false ∧
    (queueOf (modQueue (linked masked) 815 (fun _ => { cells := 4, granted := 0, packets := [(7, ⟨1, 0⟩, outbound)] })) 815).cells ≠ 0 := by
  decide +kernel

/-- Port 0 in a state. -/
def portIn (m : PortMode) (n : Nat) : State :=
  let s := linked masked
  { s with shawl := { s.shawl with ports := [(0, { upPort 0 with mode := m, attempts := n })] } }


/-- Training ends with the right partner, with another, in another state, and fails for the second and third time. -/
theorem test_training_done :
    (portOf (portIn .training 0) 0).mode = .training ∧ (portOf (portIn .up 0) 0).mode ≠ .training ∧
    ¬ (0 % 4 ≠ 2 ∧ (0 % 4096 ≠ expectedPartner (portIn .training 0) 0 ∨ 1 % 8 ≠ oppositePort 0)) ∧
    0 % 4 ≠ 2 ∧ (0 % 4096 ≠ expectedPartner (portIn .training 0) 0 ∨ 2 % 8 ≠ oppositePort 0) ∧
    logRuns (portIn .training 0) = true := by
  decide +kernel

theorem test_training_fails :
    (portOf (portIn .training 1) 0).mode = .training ∧ (portOf (portIn .training 1) 0).attempts + 1 < 3 ∧ 3 ≤ (portOf (portIn .training 2) 0).attempts + 1 := by
  decide +kernel

/-- RETRAIN ends; with 32 lanes, with 31, and with 15; one is commanded of a port that carries packets. -/
theorem test_retrain_ends :
    (portOf (portIn .retrain 0) 0).mode = .retrain ∧ (portOf (portIn .up 0) 0).mode ≠ .retrain ∧ (portOf (portIn .up 0) 0).mode.carries = true ∧
    (portOf (portIn .retrain 0) 0).mode.carries = false ∧
    (32 : Nat) ≤ 32 ∧ (16 : Nat) ≤ 31 ∧ (31 : Nat) < 32 ∧ (15 : Nat) < 16 := by
  decide +kernel

/-- Enable of a port, UP already, DISABLED, with its fuse blown, and on a die that is not used. -/
theorem test_port_enabled :
    logRuns (portIn .disabled 0) = true ∧ ¬ ((portOf (portIn .up 0) 0).mode = .disabled ∨ (portOf (portIn .up 0) 0).mode = .miscabled ∨
    (portOf (portIn .up 0) 0).mode = .failed) ∧
    (portOf (portIn .disabled 0) 0).mode = .disabled ∧ bvBit (portIn .disabled 0).otp.portFailed 0 = false ∧ portDie 0 = 0 ∧
    (List.range 3).any (fun dim => decide (dimSize (portIn .disabled 0) dim ≤ coord (ownId (portIn .disabled 0)) dim)) = false ∧
    bvBit ({ portFailed := 1#6 } : Otp).portFailed 0 = true ∧
    portDie 2 = 1 ∧ ({ d1Usable := false } : Collar).d1Usable = false ∧ (portOf State.reset 2).mode = .disabled := by
  decide +kernel

/-- SHW_DIM: unlocked, and locked with another value and the same. -/
theorem test_dims_written :
    logRuns masked = true ∧ regField masked .glbLock 0 0 = 0 ∧
    regField (setReg masked .glbLock 1) .glbLock 0 0 = 1 ∧ bitsOf (0x3330000#64).toNat 0 12 + bitsOf (0x3330000#64).toNat 16 12 * 2 ^ 16 ≠ reg masked .shwDim := by
  decide +kernel

/-! Partitions -/

/-- The manager with a command, and partition 0 in a state. -/
def ptnIn (m : PtnState) : State := modPart masked 0 (fun x => { x with mode := m })
def busied (s : State) : State := { s with manager := { s.manager with busy := true, current := 0 } }

/-- Set-up of partition 1 on Sleeve 1 and granules 16 and 17, in FIELD. -/
def planned : State :=
  [(Reg.ptnSleeves 1, 2), (.ptnDgran 1 0, 65536), (.ptnHgran 1 0, 131072), (.ptnPolicy 1, 64), (.drmSlot 1 0, 1)].foldl
    (fun t e => setReg t e.1 e.2) { masked with otp := { lifeCycle := .field } }


/-- CREATE of a partition that exists, and of one whose set-up passes; before boot, and while another command runs. -/
theorem test_create_refused :
    logRuns masked = true ∧ logRuns State.reset = false ∧ masked.manager.busy = false ∧ createResult masked 0 none ≠ 0 ∧
    (busied masked).manager.busy = true ∧ ¬ ((part (busied masked) 0).mode = .resetting ∨ (part (busied masked) 0).mode = .scrubbing) := by
  decide +kernel

theorem test_create_begins :
    logRuns planned = true ∧ planned.manager.busy = false ∧ createResult planned 1 (some (policyOf 1 2)) = 0 ∧
    bvBit (layout planned 1 (policyOf 1 2)).sleeves (201326592 / 201326592) = true ∧
    34359738368 / 2 ^ 31 ∈ (layout planned 1 (policyOf 1 2)).dram ++ (layout planned 1 (policyOf 1 2)).host := by
  decide +kernel

/-- RESET while one runs, of a LIVE partition, during a compute reset, and of one that is FREE. -/
theorem test_reset_absorbed :
    (ptnIn .resetting).manager.busy = false ∧ (part (ptnIn .resetting) 0).mode = .resetting ∧
    ({ masked.faults with computing := true } : Faults).computing = true ∧ (part masked 0).mode = .live := by
  decide +kernel

theorem test_reset_begins :
    masked.manager.busy = false ∧ (part masked 0).mode = .live ∧ masked.faults.mode ≠ .transitOnly ∧ masked.faults.mode ≠ .moduleFault ∧
    masked.faults.computing = false ∧ flying masked 0 = [] := by
  decide +kernel

theorem test_reset_refused :
    (part (ptnIn .free) 0).mode ≠ .resetting ∧ ¬ ((part (ptnIn .free) 0).mode = .live ∨ (part (ptnIn .free) 0).mode = .faulted) ∧
    (ptnIn .free).manager.busy = false := by
  decide +kernel

/-- SCRUB during a compute reset; and of a LIVE partition in TRANSIT_ONLY, refused. -/
theorem test_scrub_waits :
    ({ masked with faults := { mode := .computeReset, computing := true } }).manager.busy = false ∧ (part ({ masked with faults := { mode := .computeReset, computing := true } }) 0).mode = .live ∧ ({ masked with faults := { mode := .computeReset, computing := true } }).faults.mode ≠ .transitOnly ∧ ({ masked with faults := { mode := .computeReset, computing := true } }).faults.mode ≠ .moduleFault ∧
    ({ masked with faults := { mode := .computeReset, computing := true } }).faults.computing = true ∧
    ¬ (({ mode := .transitOnly } : Faults).mode ≠ .transitOnly) := by
  decide +kernel

/-- DESTROY of a LIVE partition, of a DEAD one, of one that is FREE, and of one that is being reset. -/
theorem test_destroy_begins :
    masked.manager.busy = false ∧ flying masked 0 = [] ∧
    (part (ptnIn .dead) 0).mode = .dead ∧ (part (ptnIn .free) 0).mode = .free := by
  decide +kernel

theorem test_destroy_waits :
    logRuns (busied (ptnIn .resetting)) = true ∧ (part (busied (ptnIn .resetting)) 0).mode = .resetting ∧
    (busied (ptnIn .resetting)).manager.current = 0 ∧ .destroy ∉ (part (busied (ptnIn .resetting)) 0).background := by
  decide +kernel

/-- A partition whose reset has done its work. -/
def resetDone (m : ModuleMode) : State :=
  let s := modPart (ptnIn .resetting) 0 (fun x => { x with background := [.reset], gen := 255 })
  { s with faults := { s.faults with mode := m } }


/-- The end of a reset in RUN and in TRANSIT_ONLY, and with none at its end. -/
theorem test_reset_completes :
    (part (resetDone .run) 0).mode = .resetting ∧ .reset ∈ (part (resetDone .run) 0).background ∧ (resetDone .run).faults.computing = false ∧ .destroy ∉ (part (resetDone .run) 0).background ∧
    (resetDone .transitOnly).faults.mode = .transitOnly ∧
    ¬ ((part (ptnIn .resetting) 0).mode = .resetting ∧ .reset ∈ (part (ptnIn .resetting) 0).background) := by
  decide +kernel

/-- A NOP in flight at a reset, whose completion ring has room. -/
theorem test_reset_ends_descriptors :
    logRuns (withFlights (ringed { mode := .idle }) [flightOf 3 hdr .nop .running [] none]) = true ∧ (withFlights (ringed { mode := .idle }) [flightOf 3 hdr .nop .running [] none]).manager.busy = false ∧ (part (withFlights (ringed { mode := .idle }) [flightOf 3 hdr .nop .running [] none]) 0).mode = .live ∧ (withFlights (ringed { mode := .idle }) [flightOf 3 hdr .nop .running [] none]).faults.mode = .run ∧ (withFlights (ringed { mode := .idle }) [flightOf 3 hdr .nop .running [] none]).faults.computing = false ∧
    (withFlights (ringed { mode := .idle }) [flightOf 3 hdr .nop .running [] none]).bst.busy = false ∧ flying (withFlights (ringed { mode := .idle }) [flightOf 3 hdr .nop .running [] none]) 0 = [flightOf 3 hdr .nop .running [] none] ∧ (flightOf 3 hdr .nop .running [] none).opcode < 0x10 ∧
    cqRoom (withFlights (ringed { mode := .idle }) [flightOf 3 hdr .nop .running [] none]) 0 (cqOfRing (withFlights (ringed { mode := .idle }) [flightOf 3 hdr .nop .running [] none]) 0 0) = true ∧ (cqOf (withFlights (ringed { mode := .idle }) [flightOf 3 hdr .nop .running [] none]) 0 (cqOfRing (withFlights (ringed { mode := .idle }) [flightOf 3 hdr .nop .running [] none]) 0 0)).held = [] := by
  decide +kernel

/-- A partition with a descriptor in flight, whose resets are automatic or not. -/
def faulting (auto : Nat) : State := setReg (withFlights masked [flightOf 3 hdr .nop .running [] none]) .fltCtrl auto
def poison : FaultSite := .poisonedLine 0


/-- A fault of a LIVE partition without automatic resets, with them, of one being reset, and of none. -/
theorem test_fault_logged :
    orderedB (faulting 0) = true ∧ siteReport (faulting 0) poison = (some 0, 0x34, 7, 0, 0) ∧
    (part (faulting 0) 0).mode = .live ∧ regField (faulting 0) .fltCtrl 0 0 ≠ 1 := by
  decide +kernel

theorem test_fault_resets :
    siteReport (setReg masked .fltCtrl 1) poison = (some 0, 0x34, 7, 0, 0) ∧
    regField (setReg masked .fltCtrl 1) .fltCtrl 0 0 = 1 ∧ servesResets (setReg masked .fltCtrl 1) = true ∧ (setReg masked .fltCtrl 1).faults.computing = false ∧ (setReg masked .fltCtrl 1).faults.mode ≠ .boot ∧ flying (setReg masked .fltCtrl 1) 0 = [] := by
  decide +kernel

theorem test_fault_while_reset :
    siteReport (ptnIn .resetting) poison = (some 0, 0x34, 7, 0, 0) ∧
    ¬ ((part (ptnIn .resetting) 0).mode = .live ∨ (part (ptnIn .resetting) 0).mode = .faulted) := by
  decide +kernel

theorem test_fault_of_none :
    siteReport (holding masked (unitAt 24575) [7#8]) (.pocketUnit 0 24575) = (none, 0x30, 3, 0, 24575) := by
  decide +kernel

/-- A module with device 0 READY. -/
def deviced (m : DevMode) (l : List Nat) : State := { masked with devices := [(0, { mode := m, filled := l })] }


/-- Patrol reads of a READY device and of one that failed, and zero fill, once. -/
theorem test_patrol_of_device :
    (0 : Nat) = 0 * 16 + 5 / 33554432 ∧ (tabGet {} (deviced .ready [3]).devices 0).mode = .ready ∧ (tabGet {} (deviced .failed []).devices 0).mode ≠ .ready ∧
    3 ∈ (tabGet {} (deviced .ready [3]).devices 0).filled ∧ 524287 ∉ (tabGet {} (deviced .ready [3]).devices 0).filled := by
  decide +kernel

/-! Unit, lane and device failures; resets, power and heat -/

/-- A copy pass on engine 0, and a RANK on it; the spare of Sleeve 0 retired or not. -/
def unitPass : TileJob := tileJob masked 0 8 (zeros 64) { state := .plain, width := 16 }
def slotted_ (spare : Bool) : State :=
  let s := withFlights masked [flightOf 3 hdr .nop .running [unitPass] none]
  modSlot s 8 (fun x => { x with retired := !spare })


/-- A slot that is retired; the spare; one whose spare takes its number; and one without. -/
theorem test_slot_fails :
    orderedB (slotted_ true) = true ∧ (slotOf (slotted_ false) 8).retired = true ∧
    (slotOf (slotted_ true) 8).retired = false ∧ (slotOf (slotted_ true) 8).logical = none ∧
    (slotOf (slotted_ true) 0).retired = false ∧ (slotOf (slotted_ true) 0).logical = some 0 ∧ freeSpare (modSlot (slotted_ true) 0 (fun x => { x with retired := true })) 0 = some 8 ∧
    (flightOf 3 hdr .nop .running [unitPass] none).opcode ≠ 0x23 := by
  decide +kernel

theorem test_slot_lost :
    (slotOf (slotted_ false) 0).retired = false ∧ (slotOf (slotted_ false) 0).logical = some 0 ∧ freeSpare (modSlot (slotted_ false) 0 (fun x => { x with retired := true })) 0 = none ∧
    orderedB (slotted_ false) = true := by
  decide +kernel

/-- A mask expansion on engine 0. -/
def maskFlight : InFlight :=
  { flightOf 3 hdr (.maskExpand { roundId := 5, dstTile := 0, tileCount := 1, coordTile := 0, seedFirst := 0, seedCount := 1, flags := 0 }) .running [unitPass] none with jobs := [unitPass] }
def unitsOff (k : BitVec 8) (l : Bool) : State := { withFlights masked [maskFlight] with sleeves := [(0, { ksRetired := k, lapelRetired := l })] }


/-- A keystream unit that is retired; one that serves a mask pass; one that serves none. -/
theorem test_keystream_fails :
    bvBit (sleeveOf (unitsOff 128#8 false) 0).ksRetired 7 = true ∧ bvBit (sleeveOf (unitsOff 128#8 false) 0).ksRetired 0 = false ∧
    keystreamPass (unitsOff 128#8 false) 0 0 = some (0, maskFlight) ∧ keystreamPass (unitsOff 128#8 false) 0 1 = none := by
  decide +kernel

/-- A RANK on the Lapel unit of Sleeve 0. -/
def rankFlight : InFlight :=
  flightOf 3 hdr (.rank { srcTile := 0, tileCount := 1, elemCount := 1, k := 1, lapelSleeve := 0, flags := 0, dstAddr := 0 }) .running [] none


/-- A Lapel unit that is retired; one in use by a RANK. -/
theorem test_lapel_fails :
    (sleeveOf (unitsOff 0#8 true) 0).lapelRetired = true ∧ (sleeveOf (withFlights masked [rankFlight]) 0).lapelRetired = false ∧ orderedB (withFlights masked [rankFlight]) = true ∧
    (withFlights masked [rankFlight]).inflight.all (fun f => f.done.isNone && (match f.body with | .rank o => o.lapelSleeve == 0 | _ => false)) = true := by
  decide +kernel

/-- Sleeve 0 with a number of spare bond lanes. -/
def bonded (n auto : Nat) : State := setReg { masked with sleeves := [(0, { bondSpares := n }), (1, { bondSpares := n })] } .fltCtrl auto


/-- A bond lane with a spare, with none on a Sleeve of nobody's, and of a LIVE partition's. -/
theorem test_bond_fails :
    (sleeveOf (bonded 1 0) 0).bondSpares ≠ 0 ∧ (sleeveOf (bonded 0 0) 0).bondSpares = 0 ∧
    (sleeveOf (bonded 0 0) 1).bondSpares = 0 ∧ sleeveOwner (bonded 0 0) 1 = none ∧
    sleeveOwner (bonded 0 0) 0 = some 0 ∧ (part (bonded 0 0) 0).mode = .live ∧ (bonded 0 0).faults.mode = .run ∧ (bonded 0 0).faults.computing = false ∧ regField (bonded 0 0) .fltCtrl 0 0 = 0 := by
  decide +kernel

/-- The sixteenth Seam lane of a direction; the next, with automatic compute resets and without. -/
theorem test_seam_fails :
    tabGet 0 ({ masked with faults := { mode := .run, seamSpares := [(0, 16), (1, 15)] } }).faults.seamSpares 1 < 16 ∧ 16 ≤ tabGet 0 ({ masked with faults := { mode := .run, seamSpares := [(0, 16), (1, 15)] } }).faults.seamSpares 0 ∧ regField (setReg ({ masked with faults := { mode := .run, seamSpares := [(0, 16), (1, 15)] } }) .fltCtrl 0) .fltCtrl 1 1 = 0 ∧
    regField (setReg ({ masked with faults := { mode := .run, seamSpares := [(0, 16), (1, 15)] } }) .fltCtrl 2) .fltCtrl 1 1 = 1 := by
  decide +kernel

/-- CCL without its spare, and with it; the third failure in a row in RUN, in BOOT, and the second. -/
theorem test_ccl_fails :
    ({ masked with faults := { mode := .run, cclFails := 2, cclSpares := 0 } }).faults.cclSpares = 0 ∧ masked.faults.cclSpares ≠ 0 ∧
    3 ≤ ({ masked with faults := { mode := .run, cclFails := 2, cclSpares := 0 } }).faults.cclFails + 1 ∧ ({ masked with faults := { mode := .run, cclFails := 2, cclSpares := 0 } }).faults.mode = .run ∧ State.reset.faults.mode = .boot ∧ masked.faults.cclFails + 1 < 3 := by
  decide +kernel

/-- A device of a LIVE partition fails; of one being created; of none; and one that has failed. -/
theorem test_device_fails :
    (tabGet {} masked.devices 0).mode ≠ .failed ∧ (tabGet {} (deviced .failed []).devices 0).mode = .failed ∧
    (((part masked 0).dram ++ (part masked 0).host).any (fun g => g / 16 == 0)) = true ∧ (part masked 0).mode = .live ∧
    (List.range 16).all (fun p => !(((part masked p).dram ++ (part masked p).host).any (fun g => g / 16 == 15))) = true ∧
    (part (ptnIn .creating) 0).mode = .creating := by
  decide +kernel

theorem test_device_fails_unheld :
    (List.range 16).all (fun p => (part masked p).mode != .live || !(((part masked p).dram ++ (part masked p).host).any (fun g => g / 16 == 15))) = true := by
  decide +kernel

/-- A module in a state, with starts of compute resets, at a junction temperature in 1/8 degrees. -/
def moduleIn (m : ModuleMode) (starts : List Nat) (t8 : Nat) : State :=
  { masked with faults := { mode := m, computing := m == .computeReset, starts := starts }, power := { masked.power with tj8 := t8 } }


/-- FLT_RESET op compute before boot, in MODULE_FAULT, while one runs, TRIPPED at 100.0 degrees, the third, and one that begins. -/
theorem test_compute_refused :
    logRuns State.reset = false ∧ logRuns (moduleIn .run [90000, 100] 0) = true ∧
    (moduleIn .moduleFault [] 0).faults.mode = .moduleFault ∧ (moduleIn .computeReset [] 0).faults.mode = .computeReset ∧
    (moduleIn .tripped [] 800).faults.mode = .tripped ∧ 800 ≤ (moduleIn .tripped [] 800).power.tj8 ∧
    (moduleIn .run [90000, 100] 0).faults.mode = .run ∧ thirdReset (moduleIn .run [90000, 100] 0) = true := by
  decide +kernel

theorem test_compute_begins :
    logRuns (moduleIn .tripped [100] 799) = true ∧ (moduleIn .tripped [100] 799).faults.mode = .tripped ∧ (moduleIn .tripped [100] 799).power.tj8 < 800 ∧ thirdReset (moduleIn .tripped [100] 799) = false ∧ (moduleIn .tripped [100] 799).inflight = [] := by
  decide +kernel

/-- Its end, with images that match and that do not; and with none running. -/
theorem test_compute_completes :
    (moduleIn .computeReset [100] 0).faults.computing = true ∧ (moduleIn .computeReset [100] 0).faults.mode = .computeReset ∧ (moduleIn .run [] 0).faults.computing = false ∧
    (List.range 16).all (fun q => (part (moduleIn .computeReset [100] 0) q).background.isEmpty) = true ∧ (part (moduleIn .computeReset [100] 0) 0).mode = .live := by
  decide +kernel

/-- Codes that are no module faults; one that is, in RUN and in TRANSIT_ONLY. -/
theorem test_module_fault :
    (0x50 < 0x51 ∨ 0x54 < 0x50) ∧ (0x55 < 0x51 ∨ 0x54 < 0x55) ∧ orderedB (moduleIn .run [] 0) = true ∧
    (moduleIn .run [] 0).faults.mode = .run ∧ (moduleIn .transitOnly [] 0).faults.mode = .transitOnly ∧ (part (moduleIn .run [] 0) 0).mode = .live := by
  decide +kernel

/-- The trip in RUN, with a pass on an engine, and in BOOT. -/
theorem test_thermal_trip :
    orderedB (withFlights (moduleIn .run [] 0) [{ maskFlight with jobs := [] }]) = true ∧ (withFlights (moduleIn .run [] 0) [{ maskFlight with jobs := [] }]).faults.mode = .run ∧ ¬ ((moduleIn .boot [] 0).faults.mode = .run ∨ (moduleIn .boot [] 0).faults.mode = .computeReset) ∧
    metered (part (withFlights (moduleIn .run [] 0) [{ maskFlight with jobs := [] }]) 0).mode = true ∧ { maskFlight with jobs := [] }.done = none ∧ needsUnits { maskFlight with jobs := [] }.opcode = true := by
  decide +kernel

/-- A TRIPPED module below 100.0 degrees, for the second time and the third, and at it. -/
theorem test_cooldown :
    (setReg (moduleIn .tripped [100] 799) .fltCtrl 2).faults.mode = .tripped ∧ (setReg (moduleIn .tripped [100] 799) .fltCtrl 2).power.tj8 < 800 ∧ regField (setReg (moduleIn .tripped [100] 799) .fltCtrl 2) .fltCtrl 1 1 = 1 ∧ (setReg (moduleIn .tripped [100] 799) .fltCtrl 2).faults.computing = false ∧
    thirdReset (setReg (moduleIn .tripped [100] 799) .fltCtrl 2) = false ∧ (setReg (moduleIn .tripped [100] 799) .fltCtrl 2).inflight = [] ∧ thirdReset (moduleIn .tripped [200, 100] 799) = true ∧
    800 ≤ (moduleIn .tripped [100] 800).power.tj8 := by
  decide +kernel

/-- Power-up after a rail fault and without; a RESET_N pulse of 9,999 ns and of 10,000 ns; the commanded reset. -/
theorem test_powers_up :
    ({ masked.power with railFault := true } : Power).railFault = true ∧ masked.power.railFault = false ∧
    ({ masked.power with pwrGood := true } : Power).pwrGood = true ∧ (9999 : Nat) < 10000 ∧ logRuns masked = true ∧ logRuns State.reset = false ∧
    masked.faults.mode ≠ .boot := by
  decide +kernel

/-- A module reset in BOOT: with its pool off, with the Collar booted, and not yet. -/
theorem test_boots :
    ({ masked with faults := {}, parts := [] }).faults.mode = .boot ∧ ({ masked with faults := {}, parts := [] }).entropy.pool ≠ .off ∧ logRuns ({ masked with faults := {}, parts := [] }) = true ∧
    State.reset.faults.mode = .boot ∧ State.reset.entropy.pool = .off ∧ sleeveUsable State.reset 0 = true ∧
    { State.reset with entropy := { pool := .startup } }.entropy.pool ≠ .off ∧ logRuns State.reset = false := by
  decide +kernel

/-! Entropy, power, self-test and set-up -/

/-- Sources 0 to 3 as given, in a pool state with `n` bytes. -/
def sourced (x : Source) (healthy : Nat) (m : PoolMode) (n : Nat) : State :=
  { masked with entropy := { masked.entropy with
      sources := (0, x) :: (List.range healthy).map (fun i => (i + 1, { mode := .healthy, blocks := [zeros 32] }))
      pool := m
      poolBytes := zeros n } }


/-- A block of a source in WARMUP, of a HEALTHY one, and of a RETIRED one. -/
theorem test_source_warms :
    (sourceOf (sourced { mode := .warmup, warmBlocks := 15 } 4 .delivering 0) 0).mode = .warmup ∧ (sourceOf (sourced { mode := .warmup, warmBlocks := 15 } 4 .delivering 0) 1).mode = .healthy ∧ (sourceOf (sourced { mode := .retired } 0 .off 0) 0).mode = .retired := by
  decide +kernel

/-- A test that fails for the third time with three other sources HEALTHY, with four, and of a FAILED source. -/
theorem test_source_fails :
    (sourceOf (sourced { mode := .healthy, failures := 2 } 3 .delivering 0) 0).mode = .healthy ∧ (sourceOf (sourced { mode := .failed } 3 .delivering 0) 0).mode = .failed ∧
    (sourced { mode := .healthy, failures := 2 } 3 .delivering 0).entropy.pool = .delivering ∧ ((healthySources (sourced { mode := .healthy, failures := 2 } 3 .delivering 0)).filter (fun w => w != 0)).length < 4 ∧
    ¬ ((healthySources (sourced { mode := .healthy } 4 .delivering 0)).filter (fun w => w != 0)).length < 4 := by
  decide +kernel

/-- A pool in STARTUP whose conditions hold, and where a source still warms up. -/
def starting (m : SourceMode) : State :=
  { masked with entropy := { masked.entropy with
      sources := (List.range 16).map (fun i => (i, { mode := if i = 0 then m else .healthy }))
      pool := .startup } }


/-- A pool that leaves STARTUP, and one that does not. -/
theorem test_pool_starts :
    (starting .healthy).entropy.pool = .startup ∧ poolReady (starting .healthy) = true ∧ (starting .healthy).inflight = [] ∧
    poolReady (starting .warmup) = false := by
  decide +kernel

/-- A second after its second failure, and its third; warm-up done after 16 blocks, and 15. -/
theorem test_source_retries :
    (sourceOf (sourced { mode := .failed, failures := 2, failedAt := 5 } 4 .delivering 0) 0).mode = .failed ∧ (sourceOf (sourced { mode := .failed, failures := 2, failedAt := 5 } 4 .delivering 0) 0).failures < 3 ∧
    3 ≤ (sourceOf (sourced { mode := .failed, failures := 3 } 4 .delivering 0) 0).failures := by
  decide +kernel

theorem test_source_joins :
    (sourceOf (sourced { mode := .warmup, warmBlocks := 16 } 4 .delivering 0) 0).mode = .warmup ∧ 16 ≤ (sourceOf (sourced { mode := .warmup, warmBlocks := 16 } 4 .delivering 0) 0).warmBlocks ∧ (sourced { mode := .warmup, warmBlocks := 16 } 4 .delivering 0).entropy.pool = .delivering ∧
    (sourceOf (sourced { mode := .warmup, warmBlocks := 15 } 4 .delivering 0) 0).warmBlocks < 16 := by
  decide +kernel

theorem test_pool_restarts :
    (sourceOf (sourced { mode := .warmup, warmBlocks := 16 } 3 .stalled 0) 0).mode = .warmup ∧ (sourced { mode := .warmup, warmBlocks := 16 } 3 .stalled 0).entropy.pool = .stalled ∧ (healthySources (sourced { mode := .warmup, warmBlocks := 16 } 3 .stalled 0)).length = 3 ∧ (sourced { mode := .warmup, warmBlocks := 16 } 3 .stalled 0).collar.provisioning = none := by
  decide +kernel

/-- A pool block of four sources, of three, and with a block missing; a reseed from 48 bytes and from 47. -/
theorem test_pool_block :
    4 ≤ (healthySources (sourced { mode := .healthy, blocks := [zeros 32] } 3 .delivering 48)).length ∧ (healthySources (sourced { mode := .healthy, blocks := [zeros 32] } 3 .delivering 48)).filter (fun v => decide ((sourceOf (sourced { mode := .healthy, blocks := [zeros 32] } 3 .delivering 48) v).joins ≤ (sourced { mode := .healthy, blocks := [zeros 32] } 3 .delivering 48).entropy.poolIndex)) = [0, 1, 2, 3] ∧
    [0, 1, 2, 3].all (fun v => decide ((sourceOf (sourced { mode := .healthy, blocks := [zeros 32] } 3 .delivering 48) v).blocks ≠ [])) = true ∧
    (healthySources (sourced {} 3 .delivering 48)).length < 4 ∧ (sourceOf (sourced { mode := .healthy } 3 .delivering 48) 0).blocks = [] := by
  decide +kernel

theorem test_pool_reseeds :
    48 ≤ ({ sourced {} 4 .delivering 48 with entropy := { pool := .delivering, poolBytes := zeros 48 } }).entropy.poolBytes.length ∧ ({ sourced {} 4 .delivering 48 with entropy := { pool := .delivering, poolBytes := zeros 48 } }).entropy.pool ≠ .off ∧ ({ sourced {} 4 .delivering 48 with entropy := { pool := .delivering, poolBytes := zeros 48 } }).entropy.pool ≠ .stalled ∧ ({ sourced {} 4 .delivering 48 with entropy := { pool := .delivering, poolBytes := zeros 48 } }).inflight = [] ∧
    (drbgOf ({ sourced {} 4 .delivering 48 with entropy := { pool := .delivering, poolBytes := zeros 48 } }) 0).seeded = false ∧ (sourced {} 4 .delivering 47).entropy.poolBytes.length < 48 := by
  decide +kernel

/-- A DP_NOISE whose noise has stalled since an instant. -/
def stalledFlight : InFlight := { flightOf 3 hdr (.dpNoise noiseOps) (.noiseStall none) [] none with stallFrom := some 1000 }


/-- Noise that has stalled, and none. -/
theorem test_noise_expires :
    orderedB (withFlights sealed_ [stalledFlight]) = true ∧ flying (withFlights sealed_ [stalledFlight]) 0 = [] ++ stalledFlight :: [] ∧ stalledFlight.done = none ∧ stalledFlight.stallFrom.isSome = true ∧
    stalledFlight.phase = .noiseStall none ∧ flying (withFlights sealed_ [stalledFlight]) 1 = [] := by
  decide +kernel

/-- A word of ENT_DATA with one ready, with none, and before boot. -/
theorem test_word_read :
    logRuns ({ masked with entropy := { masked.entropy with ready := 1 } }) = true ∧ logRuns State.reset = false ∧
    ({ masked with entropy := { masked.entropy with ready := 1 } }).entropy.pool = .delivering ∧ 0 < readyWords ({ masked with entropy := { masked.entropy with ready := 1 } }) ∧
    readyWords State.reset = 0 := by
  decide +kernel

/-- A BLANK module with its test-pattern fuse intact. -/
def blankPool (m : PoolMode) : State := { masked with otp := { lifeCycle := .blank, testPattern := false }, entropy := { masked.entropy with pool := m } }


/-- The test pattern starts and ends, is kept, and is refused in FIELD. -/
theorem test_pattern_starts :
    logRuns (blankPool .delivering) = true ∧ (blankPool .delivering).otp.lifeCycle = .blank ∧ (blankPool .delivering).otp.testPattern = false ∧ (0x7700000001#64).toNat % 2 = 1 ∧ (blankPool .delivering).entropy.pool ≠ .test ∧
    (0x7700000000#64).toNat % 2 = 0 ∧ (blankPool .test).entropy.pool = .test ∧
    ((0x7700000000#64).toNat % 2 = 1 ↔ (blankPool .delivering).entropy.pool = .test) ∧
    ({ lifeCycle := .field } : Otp).lifeCycle ≠ .blank := by
  decide +kernel

/-- An interval in fixed mode; and work-conserving with a Sleeve that issued and with none. -/
theorem test_interval_divides :
    regField (setReg { masked with power := { masked.power with issued := [0] } } .ptnModes 1) .ptnModes 0 0 = 1 ∧ (0 : Nat) < 16 ∧ 0 ∈ (setReg { masked with power := { masked.power with issued := [0] } } .ptnModes 1).power.issued ∧
    regField masked .ptnModes 0 0 = 0 ∧ masked.power.issued = [] := by
  decide +kernel

/-- Operating points 285, 330, 284 and 331. -/
theorem test_point_written :
    logRuns masked = true ∧ 285 ≤ (29#64).toNat % 256 + 256 ∧ (74#64).toNat % 256 + 256 ≤ 330 ∧
    (28#64).toNat % 256 + 256 < 285 ∧ 330 < (75#64).toNat % 256 + 256 := by
  decide +kernel

/-- A module at 300 whose target is `o`, in a step or none. -/
def pointed (o : Nat) (st : Option Nat) (up settled : Bool) (mv : Nat) : State :=
  setReg { masked with power := { masked.power with step := st, stepUp := up, railsSettled := settled, voutMv := mv, droopClearAt := 100000 } } .pwrOp (o - 256)


/-- A step up and a step down, and none at the target or in droop; the rails settle in a step up, a step down, and none. -/
theorem test_step_up :
    (pointed 310 none false true 750).power.step = none ∧ (pointed 310 none false true 750).power.droop = false ∧ (pointed 310 none false true 750).power.droopClearAt ≤ now (pointed 310 none false true 750) ∧ (pointed 310 none false true 750).power.current < 256 + reg (pointed 310 none false true 750) .pwrOp ∧
    256 + reg (pointed 299 none false true 750) .pwrOp < (pointed 299 none false true 750).power.current ∧
    256 + reg (pointed 300 none false true 750) .pwrOp = (pointed 300 none false true 750).power.current := by
  decide +kernel

theorem test_rails_settle :
    (pointed 310 (some 305) true false 760).power.railsSettled = false ∧ (pointed 310 (some 305) true false 760).power.step = some 305 ∧ (pointed 310 (some 305) true false 760).power.stepUp = true ∧
    (pointed 310 none false false 750).power.step = none ∧ (pointed 310 none false false 750).power.stepUp = false ∧
    masked.power.railsSettled = true := by
  decide +kernel

/-- Slots that have all switched to a point. -/
def switched (o : Nat) (s : State) : State := { s with slots := s.slots.map (fun e => (e.1, { e.2 with op := o, pendingOp := none })) }


/-- A step whose slots have switched: the voltage is to be lowered, to settle, and done; and slots that have not. -/
theorem test_step_ends :
    (switched 295 (pointed 290 (some 295) false true 740)).power.step = some 295 ∧ allSwitched (switched 295 (pointed 290 (some 295) false true 740)) 295 = true ∧ (switched 295 (pointed 290 (some 295) false true 740)).power.stepUp = false ∧ (switched 295 (pointed 290 (some 295) false true 740)).power.voutMv = voltageOf 295 ∧ (switched 295 (pointed 290 (some 295) false true 740)).power.railsSettled = true ∧
    (pointed 290 (some 295) false true 750).power.voutMv ≠ voltageOf 295 ∧ (pointed 290 (some 295) false false 740).power.railsSettled = false ∧
    allSwitched (switched 290 (switched 295 (pointed 290 (some 295) false true 740))) 295 = false := by
  decide +kernel

/-- Slot 0 with a reading history. -/
def aged (n : Nat) (pend : Option Nat) (gone : Bool) : State :=
  modSlot masked 0 (fun x => { x with c0 := 300, ceiling := 300, r0 := 10000, overCount := n, pendingCeiling := pend, retired := gone })


/-- A slot at its pass boundary with no ceiling to take, with 270, and with 269. -/
theorem test_slot_switches :
    (slotOf masked 0).pendingCeiling = none ∧ (slotOf (aged 0 (some 270) false) 0).pendingCeiling = some 270 ∧
    (slotOf (aged 0 (some 269) false) 0).pendingCeiling = some 269 := by
  decide +kernel

/-- Readings: the sixteenth that calls for less, the fifteenth, one that does not, one below 270, and of a retired slot. -/
theorem test_slot_ages :
    (slotOf (aged 15 none false) 0).retired = false ∧ (slotOf (aged 15 none true) 0).retired = true ∧ ¬ requiredCeiling (slotOf (aged 15 none false) 0) 9990 < 270 ∧
    requiredCeiling (slotOf (aged 15 none false) 0) 9990 < (((slotOf (aged 15 none false) 0).pendingCeiling.getD (slotOf (aged 15 none false) 0).ceiling : Nat) : Int) ∧
    16 ≤ (slotOf (aged 15 none false) 0).overCount + 1 ∧ (slotOf (aged 14 none false) 0).overCount + 1 < 16 ∧
    (300 : Int) ≤ requiredCeiling (slotOf (aged 15 none false) 0) 10000 ∧ requiredCeiling (slotOf (aged 15 none false) 0) 8966 < 270 := by
  decide +kernel

/-- Droop response and none. -/
theorem test_droop :
    ({ masked with power := { masked.power with droop := true } }).power.droop = true ∧ masked.power.droop = false := by
  decide +kernel

/-- A self-test that runs. -/
def testing (k i : Nat) (h : Bool) : State := { masked with bst := { busy := true, kind := k, index := i, held := h } }


/-- A self-test that is admitted, of the Pocket of a Sleeve without owner; one that is not; one while one runs; and the boot-time run. -/
theorem test_test_starts :
    logRuns masked = true ∧ masked.bst.busy = false ∧ testAdmitted masked 5 1 = true ∧ testAdmitted masked 5 0 = false ∧ (testing 1 0 true).bst.busy = true ∧
    201326592 / 201326592 = 1 := by
  decide +kernel

theorem test_test_at_boot :
    (setReg State.reset .bstCtrl (2 ^ 31)).faults.mode = .boot ∧ regField (setReg State.reset .bstCtrl (2 ^ 31)) .bstCtrl 31 31 = 1 ∧ (setReg State.reset .bstCtrl (2 ^ 31)).bst.busy = false ∧ regionExists 1 143 = true ∧
    (setReg State.reset .bstCtrl (2 ^ 31)).faults.mode = .boot ∧ regField State.reset .bstCtrl 31 31 = 0 := by
  decide +kernel

/-- The end of a test of each kind that failed, and of a keystream region that was held. -/
theorem test_test_completes :
    (testing 3 0 true).bst.busy = true ∧ (testing 3 0 true).bst.held = true ∧ sleeveOwner (testing 3 0 true) 0 = some 0 ∧ sleeveOwner (testing 3 0 true) 1 = none ∧ masked.bst.busy = false ∧
    (7 : Nat) ∈ [7] ∧ (7 : Nat) < 8 := by
  decide +kernel

theorem test_test_fails :
    sleeveOwner (testing 5 0 true) 0 = some 0 ∧ sleeveOwner (testing 4 1 true) 1 = none ∧ (testing 7 0 true).bst.index = 0 ∧ (testing 9 1 true).bst.index ≠ 0 ∧
    (testing 7 0 true).faults.mode = .run := by
  decide +kernel

/-- Registers of submission ring 0 and completion ring 0 of partition 0. -/
def registered (sq cq lock : Nat) : State :=
  [(Reg.sqBase 0 0, 64), (.sqDb 0 0, 64), (.sqHeadln 0 0, 64), (.cqBase 0 0, 64), (.cqCredit 0 0, 64), (.sqCtrl 0 0, sq), (.cqCtrl 0 0, cq),
    (.ringLock 0, lock)].foldl (fun t e => setReg t e.1 e.2) masked
def on_ : Word := 0x60001#64


/-- A submission ring enabled, refused for its size, and disabled; and under its lock. -/
theorem test_ring_enabled :
    logRuns (registered 0 1 0) = true ∧ regField (registered 0 1 0) (.ringLock 0) 0 0 = 0 ∧ regField (registered 0 1 0) (.sqCtrl 0 0) 0 0 = 0 ∧ on_.toNat % 2 = 1 ∧
    sqSetUp (registered 0 1 0) 0 0 on_.toNat = true ∧ sqSetUp (registered 0 1 0) 0 0 0x50001 = false ∧
    regField (registered 1 1 1) (.ringLock 0) 0 0 = 1 ∧ reg (registered 1 1 1) (.sqCtrl 0 0) = 1 ∧ (1 : Nat) ≠ 0x60001 := by
  decide +kernel

theorem test_ring_disabled :
    regField (modSq (registered 0x60001 1 0) 0 0 (fun q => { q with mode := .fetch })) (.ringLock 0) 0 0 = 0 ∧ regField (modSq (registered 0x60001 1 0) 0 0 (fun q => { q with mode := .fetch })) (.sqCtrl 0 0) 0 0 = 1 ∧ (0#64).toNat % 2 = 0 ∧ (sqOf (modSq (registered 0x60001 1 0) 0 0 (fun q => { q with mode := .fetch })) 0 0).mode ≠ .stopped := by
  decide +kernel

/-- A completion ring enabled, enabled again, and refused for its size; nothing waits in it. -/
theorem test_completion_enabled :
    regField (registered 0 0 0) (.ringLock 0) 0 0 = 0 ∧ regField (registered 0 0 0) (.cqCtrl 0 0) 0 0 = 0 ∧ cqSetUp (registered 0 0 0) 0 0 on_.toNat = true ∧
    regField (registered 0 1 0) (.cqCtrl 0 0) 0 0 = 1 ∧ cqSetUp (registered 0 0 0) 0 0 0x110001 = false ∧
    (cqOf (registered 0 0 0) 0 0).held = [] ∧ flying (registered 0 0 0) 0 = [] := by
  decide +kernel

/-- A register write before boot, at no register, of a bad size, and of a plain register; the locks and the sideband frame. -/
theorem test_register_written :
    responds State.reset 0x30000 = false ∧ responds masked 0xFFFFF8 = true ∧ regAt (0xFFFFF8 / 8 * 8) = none ∧
    regAt (Reg.offset (.rmaQpArg1 0) / 8 * 8) = some (.rmaQpArg1 0) ∧ windowReg (.rmaQpArg1 0) = false ∧
    writtenOf (Reg.offset (.rmaQpArg1 0) + 2) 4 5 = none ∧ reg masked (.rmaQpArg1 0) < 2 ^ 64 ∧
    logRuns masked = true ∧ (1#64).toNat % 2 = 1 ∧ (2#64).toNat % 2 = 0 ∧ masked.power.pwrGood = true := by
  decide +kernel

/-- An access to partition 0's window, and to none. -/
theorem test_window_reached :
    windowAt (setReg masked .glbCclAper (2 ^ 44)) (2 ^ 44 + 64) = some (0, 64) ∧ windowAt (setReg masked .glbCclAper (2 ^ 44)) 0 = none ∧ windowAt (setReg masked .glbCclAper (2 ^ 44)) (2 ^ 44 + 2 ^ 31) = none := by
  decide +kernel

/-! An import that is accepted -/

theorem keccakRound_length (a : List Word) (r : Word) : (keccakRound a r).length = 25 := by
  simp only [keccakRound, List.length_cons, List.length_drop, List.length_map, List.length_range]

theorem rounds_length : ∀ (l : List Word) (a : List Word), (l ≠ [] ∨ a.length = 25) → (l.foldl keccakRound a).length = 25
  | [], _, h => h.resolve_left (fun x => x rfl)
  | r :: l, a, _ => rounds_length l _ (.inr (keccakRound_length a r))

theorem absorb_length : ∀ (l : List Bytes) (a : List Word), a.length = 25 → (l.foldl keccakAbsorb a).length = 25
  | [], _, h => h
  | _ :: l, _, _ => absorb_length l _ (rounds_length _ _ (.inl (List.cons_ne_nil _ _)))

theorem packElems_length (n : Nat) : ∀ vs : List Nat, (packElems n vs).length = n * vs.length
  | [] => rfl
  | v :: vs => by
    have e := packElems_length n vs
    simp only [packElems, List.flatMap_cons, List.length_append, natLe_length, List.length_cons, Nat.mul_succ] at e ⊢
    omega

theorem sha3_length (m : Bytes) : (sha3 m).length = 32 := by
  have l : (keccakBytes (keccakState 136 6 m)).length = 200 := by
    rw [keccakBytes, packElems_length, List.length_map, keccakState, absorb_length _ _ (by decide)]
  simp only [sha3, sponge, keccakSqueeze, List.length_take, List.length_append, l]
  decide

theorem nextKeyWord_length (i : Nat) (prev : List Bytes) (l : 8 ≤ prev.length) (h : ∀ w ∈ prev, w.length = 4) :
    (nextKeyWord i prev).length = 4 := by
  have g : ∀ n < 8, (prev.getD n []).length = 4 := fun n hn => by
    rw [List.getD_eq_getElem _ _ (by omega)]; exact h _ (List.getElem_mem _)
  simp only [nextKeyWord, xorBytes, List.length_zipWith, g 7 (by omega)]
  split
  · simp only [List.length_zipWith, List.length_map, List.length_append, List.length_drop, List.length_take, List.length_cons,
      List.length_nil, g 0 (by omega)]; decide
  · split <;> simp only [List.length_map, g 0 (by omega)] <;> decide

theorem keyWords_length : ∀ (n i : Nat) (ws : List Bytes), 8 ≤ ws.length → (∀ w ∈ ws, w.length = 4) →
    (keyWordsFrom n i ws).length = n + ws.length ∧ ∀ w ∈ keyWordsFrom n i ws, w.length = 4
  | 0, _, ws, _, h => ⟨(Nat.zero_add _).symm, h⟩
  | n + 1, i, ws, l, h => by
    have e := keyWords_length n (i + 1) (nextKeyWord i ws :: ws) (Nat.le_succ_of_le l) (fun w hw => by
      rcases List.mem_cons.mp hw with rfl | hw
      · exact nextKeyWord_length i ws l h
      · exact h w hw)
    exact ⟨e.1.trans (by rw [List.length_cons]; omega), e.2⟩

theorem flatten_length : ∀ ws : List Bytes, (∀ w ∈ ws, w.length = 4) → ws.flatten.length = 4 * ws.length
  | [], _ => rfl
  | w :: ws, h => by
    rw [List.flatten_cons, List.length_append, flatten_length ws (fun x hx => h x (List.mem_cons_of_mem _ hx)),
      h w List.mem_cons_self, List.length_cons]; omega

theorem pieces_getD (n : Nat) : ∀ (k i : Nat) (b : Bytes), i < k → (pieces n k b).getD i [] = (b.drop (n * i)).take n
  | 0, _, _, h => absurd h (Nat.not_lt_zero _)
  | k + 1, 0, b, _ => rfl
  | k + 1, i + 1, b, h => by
    rw [pieces, List.getD_cons_succ, pieces_getD n k i _ (by omega), List.drop_drop, Nat.mul_succ, Nat.add_comm]

theorem round_key_of (key : Bytes) (h : key.length = 32) : ((aesSchedule key).getD 14 []).length = 16 := by
  have w := keyWords_length 52 8 (pieces 4 8 key).reverse (by simp [pieces]) (fun w hw => by
    simp only [pieces, List.mem_reverse, List.mem_cons, List.not_mem_nil, or_false] at hw
    rcases hw with rfl | rfl | rfl | rfl | rfl | rfl | rfl | rfl <;> simp [h])
  have l := flatten_length (keyWordsFrom 52 8 (pieces 4 8 key).reverse).reverse (fun x hx => w.2 x (List.mem_reverse.mp hx))
  rw [List.length_reverse, w.1] at l
  rw [aesSchedule, pieces_getD 16 15 14 _ (by decide), List.length_take, List.length_drop, l]
  simp [pieces]

/-- The message of the first import into partition 0 of a module without a root: a share-derivation key under an encapsulation of zeros. -/
def importHead : Bytes :=
  natLe 2 0x0701 ++ natLe 1 1 ++ natLe 1 3 ++ natLe 4 modelled.otp.bootCount ++ zerosDigest ++ natLe 8 1 ++ zeros 4 ++ natLe 4 1 ++
    zeros 16 ++ natLe 4 1152 ++ zeros 4 ++ zerosDigest ++ zeros 16
def importKey : Bytes := sha3 (ascii "BA16/import/v1" ++ kemDecaps (part modelled 0).dk (zeros 1088) ++ importHead)
def importCipher : Bytes := gcmStream importKey (zeros 12) (zeros 48)
def importTag : Bytes := gcmTag importKey (zeros 12) importHead importCipher
def importMsg : Bytes := importHead ++ (zeros 1088 ++ (importCipher ++ (importTag ++ (zeros 1312 ++ zeros 2420))))

theorem importCipher_length : importCipher.length = 48 := by
  simp only [importCipher, gcmStream, xorBytes, List.length_zipWith, blocks_length _ _ (round_key_of importKey (sha3_length _))]; decide
theorem importTag_length : importTag.length = 16 := by
  simp only [importTag, gcmTag, xorBytes, List.length_zipWith, block_length _ _ (round_key_of importKey (sha3_length _)), natBe,
    List.length_reverse, natLe_length]; decide
theorem importHead_length : importHead.length = 128 := by decide +kernel
theorem importMsg_length : importMsg.length = 5012 := by
  simp only [importMsg, List.length_append, importCipher_length, importTag_length, importHead_length, zeros, List.length_replicate]

theorem slice_zero (b : Bytes) (n : Nat) : slice b 0 n = b.take n := rfl
theorem slice_skip (a b : Bytes) (n k : Nat) (h : a.length ≤ n) : slice (a ++ b) n k = slice b (n - a.length) k := by
  rw [slice, slice, List.drop_append, List.drop_of_length_le h, List.nil_append]
theorem slice_here (a b : Bytes) (n : Nat) (h : a.length = n) : slice (a ++ b) 0 n = a := by
  rw [slice, List.drop_zero, List.take_append_of_le_length (by omega), List.take_of_length_le (by omega)]
theorem slice_slice (b : Bytes) (n k m j : Nat) (h : m + j ≤ k) : slice (slice b n k) m j = slice b (n + m) j := by
  rw [slice, slice, slice, List.drop_take, List.take_take, List.drop_drop, Nat.min_eq_left (by omega)]

/-- The fields of that message. -/
theorem import_header : (messageOf importMsg).header = importHead ∧ (messageOf importMsg).pk = zeros 1312 ∧
    (messageOf importMsg).body.take 1088 = zeros 1088 ∧ slice (messageOf importMsg).body 1088 48 = importCipher ∧
    slice (messageOf importMsg).body 1136 16 = importTag := by
  have n : field importMsg 0x48 4 = 1152 := by
    have e : slice importMsg 0x48 4 = slice importHead 0x48 4 := by
      rw [slice, slice, importMsg, List.drop_append_of_le_length (by have := importHead_length; omega),
        List.take_append_of_le_length (by rw [List.length_drop, importHead_length]; decide)]
    rw [field, e]; decide +kernel
  have z : (zeros 1088).length = 1088 := List.length_replicate
  have w : (zeros 1312).length = 1312 := List.length_replicate
  have b : (messageOf importMsg).body = slice importMsg 128 1152 := by simp only [messageOf, n]
  have p : (messageOf importMsg).pk = slice importMsg 1280 1312 := by simp only [messageOf, n]
  refine ⟨?_, ?_, ?_, ?_, ?_⟩
  · show importMsg.take 128 = _
    exact slice_here _ _ 128 importHead_length
  · rw [p, importMsg, slice_skip _ _ _ _ (by have := importHead_length; omega), importHead_length, slice_skip _ _ _ _ (by have := z; omega), z,
      slice_skip _ _ _ _ (by have := importCipher_length; omega), importCipher_length,
      slice_skip _ _ _ _ (by have := importTag_length; omega), importTag_length]
    exact slice_here _ _ 1312 w
  · rw [b, ← slice_zero, slice_slice _ _ _ _ _ (by decide), importMsg, slice_skip _ _ _ _ (by have := importHead_length; omega), importHead_length]
    exact slice_here _ _ 1088 z
  · rw [b, slice_slice _ _ _ _ _ (by decide), importMsg, slice_skip _ _ _ _ (by have := importHead_length; omega), importHead_length,
      slice_skip _ _ _ _ (by have := z; omega), z]
    exact slice_here _ _ 48 importCipher_length
  · rw [b, slice_slice _ _ _ _ _ (by decide), importMsg, slice_skip _ _ _ _ (by have := importHead_length; omega), importHead_length,
      slice_skip _ _ _ _ (by have := z; omega), z, slice_skip _ _ _ _ (by have := importCipher_length; omega), importCipher_length]
    exact slice_here _ _ 16 importTag_length

theorem messageKey_import : messageKey (part modelled 0).dk (messageOf importMsg) = some (zeros 48) := by
  obtain ⟨h, _, k, c, g⟩ := import_header
  have r := round_key_of importKey (sha3_length _)
  have b := stream_back_of importKey r (zeros 12) (zeros 48)
  simp only [messageKey, h, k, c, g]
  exact (if_pos rfl).trans (congrArg some b)

/-- A module whose partition's window holds it. -/
def imports : State :=
  let s := runs3 modelled (.keyImport (importOps (inWin 0)))
  { s with
    dram := memWriteRange [] (2 ^ 32) importMsg, collar := { s.collar with signatureOk := true },
    otp := { s.otp with lifeCycle := .blank } }

theorem read_back (a : Nat) (bs : Bytes) (i n : Nat) (h : i + n ≤ bs.length) :
    memReadRange (memWriteRange [] a bs) (a + i) n = slice bs i n := by
  rw [memReadRange_eq (memWriteRange_wf a bs rfl)]
  refine List.ext_getElem (by rw [slice, List.length_map, List.length_range, List.length_take, List.length_drop]; omega) (fun j hj _ => ?_)
  rw [List.length_map, List.length_range] at hj
  simp only [List.getElem_map, List.getElem_range, memRead_write (m := []) rfl, slice, List.getElem_take, List.getElem_drop]
  rw [if_pos (by omega), List.getD_eq_getElem _ _ (by omega)]
  congr 1; omega

theorem pread_import : pread imports 0 (inWin 0) 5012 = importMsg := by
  have e : rangePieces (part imports 0) (inWin 0) 5012 = [⟨false, 2 ^ 32 + 0, 4096⟩, ⟨false, 2 ^ 32 + 4096, 916⟩] := by decide +kernel
  simp only [pread, e, List.flatMap_cons, List.flatMap_nil, readPiece, List.append_nil, Bool.false_eq_true, if_false]
  show memReadRange (memWriteRange [] (2 ^ 32) importMsg) _ _ ++ memReadRange (memWriteRange [] (2 ^ 32) importMsg) _ _ = _
  rw [read_back _ _ _ _ (by have := importMsg_length; omega), read_back _ _ _ _ (by have := importMsg_length; omega), slice_zero, slice,
    List.take_of_length_le (l := importMsg.drop 4096) (by rw [List.length_drop, importMsg_length]), List.take_append_drop]

/-- What a message says but its body and key stands in its first 128 bytes. -/
theorem messageOf_head (b h : Bytes) (f : ∀ n k, n + k ≤ 128 → field b n k = field h n k)
    (sl : ∀ n k, n + k ≤ 128 → slice b n k = slice h n k) (z : ∀ n k, n + k ≤ 128 → zeroAt b n k = zeroAt h n k) :
    messageOf b = { messageOf h with header := (messageOf b).header, body := (messageOf b).body, pk := (messageOf b).pk } := by
  have e : (messageOf b).rsvdZero = (messageOf h).rsvdZero := by simp (disch := decide) only [messageOf, z]
  exact (Message.mk.injEq ..).mpr ⟨f 0 2 (by decide), f 2 1 (by decide), f 3 1 (by decide), f 4 4 (by decide), sl 8 32 (by decide),
    f 0x28 8 (by decide), f 0x30 1 (by decide), f 0x32 2 (by decide), f 0x34 4 (by decide), f 0x38 8 (by decide), f 0x40 8 (by decide),
    f 0x48 4 (by decide), e, sl 0x50 32 (by decide), rfl, rfl, rfl⟩

/-- KEY_IMPORT of it: no check fails. -/
theorem test_import_accepted : (inWindow (inWin 0) && addrFits (part imports 0) (inWin 0) 5012 64) = true ∧
    importReason imports 0 5012 (messageOf (pread imports 0 (inWin 0) 5012)) imports.collar.signatureOk = 0 := by
  refine ⟨by decide +kernel, ?_⟩
  have i : identityPk imports = zeros 1312 := if_neg (by decide +kernel)
  have f : ∀ n k, n + k ≤ 128 → field importMsg n k = field importHead n k := fun n k h => by
    rw [field, field, slice, slice, importMsg, List.drop_append_of_le_length (by have := importHead_length; omega),
        List.take_append_of_le_length (by rw [List.length_drop]; have := importHead_length; omega)]
  have sl : ∀ n k, n + k ≤ 128 → slice importMsg n k = slice importHead n k := fun n k h => by
    rw [slice, slice, importMsg, List.drop_append_of_le_length (by have := importHead_length; omega),
        List.take_append_of_le_length (by rw [List.length_drop]; have := importHead_length; omega)]
  have z : ∀ n k, n + k ≤ 128 → zeroAt importMsg n k = zeroAt importHead n k := fun n k h => by simp only [zeroAt, sl n k h]
  have d : (part imports 0).dk = (part modelled 0).dk := by decide +kernel
  have m := messageKey_import
  rw [pread_import, importReason, i, d, m, import_header.2.1, zeros_digest, messageOf_head importMsg importHead f sl z]
  decide +kernel


end Sys2Proof.Tests
end

section
/-! O54: `FailedUnitsAreRetired` is refuted. Its third clause on bond lanes asks for a state, with the partitions as they were, from
which the partition's fault goes on. The log entry of a bond lane without spare (Table 7.6, class 4) names the Sleeve's owner, so by R376
it writes a notice to that partition's completion ring where its notices are on: the partitions have changed by then. -/

namespace Sys2Proof.Proofs.FailedUnits

open Sys2Proof Sys2Proof.Machine

/-- A partition fault changes nothing in a partition that is neither LIVE nor FAULTED. -/
theorem faultPartition_eq_self {s : State} {p : Nat} (ref : Nat) (hlive : (part s p).mode ≠ .live) (hfaulted : (part s p).mode ≠ .faulted) :
    faultPartition s p ref = s :=
  if_pos ⟨hlive, hfaulted⟩

/-- BOND_LANE_FAILURE leaves the state of `failBond`, and no other. -/
theorem answers_bondLaneFailure_iff {v : Fin 16} {lane : Nat} {s t : State} :
    Answers (.bondLaneFailure v lane) s t ↔ failBond s v.val lane = t :=
  ⟨Host.Outcome.next.inj, congrArg Host.Outcome.next⟩

/-- What the obligation claims of a bond lane without spare, for a Sleeve whose owner the fault leaves as it is: no partition changes. -/
theorem failBond_parts_of_failedUnitsAreRetired (h : Obligations.FailedUnitsAreRetired) {s : State} {v : Fin 16} {p : Nat} (lane : Nat)
    (hspares : (sleeveOf s v.val).bondSpares = 0) (howner : sleeveOwner s v.val = some p)
    (hlive : (part s p).mode ≠ .live) (hfaulted : (part s p).mode ≠ .faulted) :
    (failBond s v.val lane).parts = s.parts := by
  obtain ⟨-, hbond, -⟩ := h.2 s
  obtain ⟨-, -, hnoSpare, -⟩ := hbond v lane
  obtain ⟨w, -, -, hparts, -, hanswer⟩ := hnoSpare hspares
  have hpart : part w p = part s p := by simp only [part, hparts]
  simp only [howner] at hanswer
  rw [faultPartition_eq_self _ (hpart ▸ hlive) (hpart ▸ hfaulted)] at hanswer
  rw [answers_bondLaneFailure_iff.mp hanswer, hparts]

/-- A module in RUN whose Sleeve 0 has no spare bond lane left; its owner, partition 0, is being reset and has its notices on
(FLT_NOTICE(0).enable, R376), to completion ring 0. -/
def resettingWithNotices : State :=
  setReg { State.reset with
    parts := [(0, { mode := .resetting, gen := 1, sleeves := 1#16 })]
    sleeves := [(0, { bondSpares := 0 })]
    faults := { mode := .run }
    collar := { bootStatus := 0 } } (.fltNotice 0) 8

/-- The premises of the clause hold there. -/
theorem resettingWithNotices_meets_premises :
    (sleeveOf resettingWithNotices 0).bondSpares = 0 ∧ sleeveOwner resettingWithNotices 0 = some 0 ∧
      (part resettingWithNotices 0).mode = .resetting := by
  decide +kernel

/-- The failed lane's entry leaves a notice waiting in the owner's completion ring 0, which held nothing. -/
theorem failBond_resettingWithNotices_posts_notice :
    (cqOf resettingWithNotices 0 0).held.length = 0 ∧ (cqOf (failBond resettingWithNotices 0 0) 0 0).held.length = 1 := by
  decide +kernel

/-- Refutes O54: with the owner RESETTING and its notices on, a bond lane without spare posts a notice to the owner's completion ring
(R376), while the clause keeps every partition as it was. -/
theorem not_failedUnitsAreRetired : ¬ Obligations.FailedUnitsAreRetired := by
  intro h
  obtain ⟨hspares, howner, hmode⟩ := resettingWithNotices_meets_premises
  obtain ⟨hbefore, hafter⟩ := failBond_resettingWithNotices_posts_notice
  have hparts : (failBond resettingWithNotices 0 0).parts = resettingWithNotices.parts :=
    failBond_parts_of_failedUnitsAreRetired h (v := 0) 0 hspares howner (by simp [hmode]) (by simp [hmode])
  have hring : cqOf (failBond resettingWithNotices 0 0) 0 0 = cqOf resettingWithNotices 0 0 := by simp only [cqOf, part, hparts]
  rw [hring, hbefore] at hafter
  exact absurd hafter Nat.zero_ne_one

end Sys2Proof.Proofs.FailedUnits
end

section
/-! SUPPORT. What writing a partition's memory changes and what it leaves alone: the bytes depend on the memories and on the
partition's layout only, and beside memory the partition's usage counters alone move. -/

namespace Sys2Proof.Proofs.Writes

open Sys2Proof Sys2Proof.Machine

/-! Counting -/

/-- From `s` to `t` memory may have been written for partition `p`: its usage counters may have moved, and no descriptor in flight, no
register, no free value, no time and nothing else of a partition has changed. -/
structure OnlyWrites (p : Nat) (s t : State) : Prop where
  inflight : t.inflight = s.inflight
  nextId : t.nextId = s.nextId
  time : t.time = s.time
  regs : t.regs = s.regs
  freeCtr : t.freeCtr = s.freeCtr
  others : OthersKept s t p
  own : part t p = { part s p with usage := (part t p).usage }

/-- From `s` to `t` counters have moved at most: memory, its marks and the engines' Cuffs are as they were too. -/
structure OnlyUsage (p : Nat) (s t : State) : Prop extends OnlyWrites p s t where
  lining : t.lining = s.lining
  dram : t.dram = s.dram
  tiles : t.tiles = s.tiles
  areas : t.areas = s.areas
  slots : t.slots = s.slots

theorem part_congr {s t : State} (h : t.parts = s.parts) (p : Nat) : part t p = part s p := by
  simp only [part, h]

theorem flight_congr {s t : State} (h : t.inflight = s.inflight) (id : Nat) : flight t id = flight s id := by
  simp only [flight, h]

theorem othersKept_trans {p : Nat} {s t u : State} (h1 : OthersKept s t p) (h2 : OthersKept t u p) : OthersKept s u p :=
  fun q hq => (h2 q hq).trans (h1 q hq)

theorem storeKept_trans {s t u : State} (h1 : StoreKept s t) (h2 : StoreKept t u) : StoreKept s u := by
  obtain ⟨hbytes, htiles, hareas⟩ := h1
  obtain ⟨hbytes', htiles', hareas'⟩ := h2
  exact ⟨fun a => ⟨(hbytes' a).1.trans (hbytes a).1, (hbytes' a).2.trans (hbytes a).2⟩, htiles'.trans htiles, hareas'.trans hareas⟩

theorem othersKept_of_parts {s t : State} (h : t.parts = s.parts) (p : Nat) : OthersKept s t p :=
  fun q _ => part_congr h q

theorem othersKept_modPart (s : State) (p : Nat) (f : Partition → Partition) : OthersKept s (modPart s p f) p :=
  fun _ hq => part_modPart_other s f (Ne.symm hq)

theorem OnlyWrites.refl (p : Nat) (s : State) : OnlyWrites p s s := ⟨rfl, rfl, rfl, rfl, rfl, fun _ _ => rfl, rfl⟩

theorem OnlyWrites.trans {p : Nat} {s t u : State} (h1 : OnlyWrites p s t) (h2 : OnlyWrites p t u) : OnlyWrites p s u :=
  ⟨h2.inflight.trans h1.inflight, h2.nextId.trans h1.nextId, h2.time.trans h1.time, h2.regs.trans h1.regs,
    h2.freeCtr.trans h1.freeCtr, othersKept_trans h1.others h2.others, by rw [h2.own, h1.own]⟩

theorem OnlyUsage.refl (p : Nat) (s : State) : OnlyUsage p s s := ⟨OnlyWrites.refl p s, rfl, rfl, rfl, rfl, rfl⟩

theorem OnlyUsage.trans {p : Nat} {s t u : State} (h1 : OnlyUsage p s t) (h2 : OnlyUsage p t u) : OnlyUsage p s u :=
  ⟨h1.toOnlyWrites.trans h2.toOnlyWrites, h2.lining.trans h1.lining, h2.dram.trans h1.dram, h2.tiles.trans h1.tiles,
    h2.areas.trans h1.areas, h2.slots.trans h1.slots⟩

/-- A change of memory, its surroundings and the debug counters alone. -/
theorem onlyWrites_update {p : Nat} {s : State} {lining dram : Memory} {devices : Tab Device} {tiles : Tab TileMeta}
    {areas : List MarkedArea} {slots : Tab Slot} {dbg : Debug} :
    OnlyWrites p s { s with lining := lining, dram := dram, devices := devices, tiles := tiles, areas := areas, slots := slots,
                            dbg := dbg } :=
  ⟨rfl, rfl, rfl, rfl, rfl, fun _ _ => rfl, rfl⟩

theorem OnlyWrites.now {p : Nat} {s t : State} (h : OnlyWrites p s t) : now t = now s := by
  simp only [Machine.now, h.time]

theorem OnlyWrites.flight {p : Nat} {s t : State} (h : OnlyWrites p s t) (id : Nat) : flight t id = flight s id :=
  flight_congr h.inflight id

theorem OnlyUsage.foldl {α : Type} {p : Nat} {f : State → α → State} (hf : ∀ s a, OnlyUsage p s (f s a)) (l : List α) (s : State) :
    OnlyUsage p s (l.foldl f s) :=
  List.foldlRecOn l f (OnlyUsage.refl p s) (fun _ ht a _ => ht.trans (hf _ a))

theorem OnlyWrites.foldl {α : Type} {p : Nat} {f : State → α → State} (hf : ∀ s a, OnlyWrites p s (f s a)) (l : List α) (s : State) :
    OnlyWrites p s (l.foldl f s) :=
  List.foldlRecOn l f (OnlyWrites.refl p s) (fun _ ht a _ => ht.trans (hf _ a))

theorem onlyUsage_countEvent (p : Nat) (s : State) (ev : Nat) (sc : List (Nat × Nat)) (n : Nat) :
    OnlyUsage p s (countEvent s ev sc n) :=
  by
  rw [countEvent_only]
  exact ⟨onlyWrites_update, rfl, rfl, rfl, rfl, rfl⟩

theorem onlyUsage_modUsage (s : State) (p : Nat) (f : Usage → Usage) : OnlyUsage p s (modUsage s p f) := by
  have hfirst : OnlyUsage p s (modPart s p (fun x => { x with usage := f (part s p).usage })) :=
    ⟨⟨rfl, rfl, rfl, rfl, rfl, othersKept_modPart s p _, by rw [part_modPart_same]⟩, rfl, rfl, rfl, rfl, rfl⟩
  exact (hfirst.trans (onlyUsage_countEvent p _ _ _ _)).trans (onlyUsage_countEvent p _ _ _ _)

theorem onlyUsage_countDram (s : State) (p a len : Nat) (write : Bool) : OnlyUsage p s (countDram s p a len write) := by
  unfold countDram
  split
  · exact OnlyUsage.refl p s
  · exact OnlyUsage.refl p s
  · exact (onlyUsage_modUsage s p _).trans (OnlyUsage.foldl (fun t c => onlyUsage_countEvent p t _ _ _) _ _)

/-! Writing -/

theorem onlyWrites_touchBlocks (p : Nat) (s : State) (phys len : Nat) : OnlyWrites p s (touchBlocks s phys len) := by
  unfold touchBlocks
  dsimp only
  split
  · exact OnlyWrites.refl p s
  · exact onlyWrites_update

theorem onlyWrites_writePiece (p : Nat) (s : State) (c : Piece) (bs : Bytes) : OnlyWrites p s (writePiece s c bs) := by
  unfold writePiece
  split
  · exact onlyWrites_update
  · exact OnlyWrites.trans onlyWrites_update (onlyWrites_touchBlocks p _ _ _)

theorem onlyWrites_writePieces (p : Nat) (cs : List Piece) : ∀ (s : State) (bs : Bytes), OnlyWrites p s (writePieces s cs bs) := by
  induction cs with
  | nil => exact fun s _ => OnlyWrites.refl p s
  | cons c cs ih => exact fun s bs => (onlyWrites_writePiece p s c _).trans (ih _ _)

theorem onlyUsage_countPiece (p : Nat) (s : State) (c : Piece) : OnlyUsage p s (countPiece p s c) := by
  unfold countPiece
  split
  · exact onlyUsage_countEvent p _ _ _ _
  · exact OnlyUsage.refl p s

theorem onlyWrites_pwrite (s : State) (p a : Nat) (bs : Bytes) : OnlyWrites p s (pwrite s p a bs) :=
  (onlyWrites_writePieces p _ s bs).trans (OnlyUsage.foldl (onlyUsage_countPiece p) _ _).toOnlyWrites

theorem onlyWrites_markPiece (p : Nat) (s : State) (m : TileMeta) (mark model : Bool) (c : Piece) :
    OnlyWrites p s (markPiece s m mark model c) := by
  unfold markPiece
  split <;> exact onlyWrites_update

theorem onlyWrites_writeMarked (s : State) (p a : Nat) (bs : Bytes) (m : TileMeta) (mark model : Bool) :
    OnlyWrites p s (writeMarked s p a bs m mark model) :=
  ((onlyWrites_pwrite s p a bs).trans (onlyUsage_countDram _ p a _ true).toOnlyWrites).trans
    (OnlyWrites.foldl (fun t c => onlyWrites_markPiece p t m mark model c) _ _)

theorem onlyWrites_dropResident (q : Nat) (s : State) (p first units : Nat) : OnlyWrites q s (dropResident s p first units) := by
  unfold dropResident
  split
  · exact onlyWrites_update
  · exact OnlyWrites.refl q s

theorem onlyWrites_dropResidentAt (q : Nat) (s : State) (p a len : Nat) : OnlyWrites q s (dropResidentAt s p a len) := by
  unfold dropResidentAt
  split
  · exact onlyWrites_dropResident q s p _ _
  · exact OnlyWrites.refl q s

theorem onlyWrites_writeRecords (s : State) (p a : Nat) (w : Window) (first count : Nat) :
    OnlyWrites p s (writeRecords s p a w first count) :=
  (onlyWrites_writeMarked s p a _ _ _ _).trans (onlyWrites_dropResidentAt p _ p a _)

/-! The bytes of a partition -/

/-- In both states the partition sees the same memories through the same Sleeves and granules (R67, R194). -/
structure SameBytes (p : Nat) (s t : State) : Prop where
  lining : t.lining = s.lining
  dram : t.dram = s.dram
  sleeves : (part t p).sleeves = (part s p).sleeves
  granules : (part t p).dram = (part s p).dram
  host : (part t p).host = (part s p).host

theorem SameBytes.refl (p : Nat) (s : State) : SameBytes p s s := ⟨rfl, rfl, rfl, rfl, rfl⟩

theorem SameBytes.symm {p : Nat} {s t : State} (h : SameBytes p s t) : SameBytes p t s :=
  ⟨h.lining.symm, h.dram.symm, h.sleeves.symm, h.granules.symm, h.host.symm⟩

theorem SameBytes.trans {p : Nat} {s t u : State} (h1 : SameBytes p s t) (h2 : SameBytes p t u) : SameBytes p s u :=
  ⟨h2.lining.trans h1.lining, h2.dram.trans h1.dram, h2.sleeves.trans h1.sleeves, h2.granules.trans h1.granules,
    h2.host.trans h1.host⟩

/-- A change that leaves the memories and writes nothing else than memory's surroundings. -/
theorem OnlyWrites.sameBytes {p : Nat} {s t : State} (h : OnlyWrites p s t) (hl : t.lining = s.lining) (hd : t.dram = s.dram) :
    SameBytes p s t :=
  ⟨hl, hd, by rw [h.own], by rw [h.own], by rw [h.own]⟩

theorem OnlyUsage.sameBytes {p : Nat} {s t : State} (h : OnlyUsage p s t) : SameBytes p s t :=
  h.toOnlyWrites.sameBytes h.lining h.dram

theorem OnlyUsage.storeKept {p : Nat} {s t : State} (h : OnlyUsage p s t) : StoreKept s t :=
  ⟨fun _ => ⟨by rw [h.lining], by rw [h.dram]⟩, h.tiles, h.areas⟩

theorem physUnit_congr {x y : Partition} (h : y.sleeves = x.sleeves) (u : Nat) : physUnit y u = physUnit x u := by
  simp only [physUnit, Partition.sleeveList, h]

theorem piecesFrom_congr {x y : Partition} (hs : y.sleeves = x.sleeves) (hd : y.dram = x.dram) (hh : y.host = x.host) (rg : Region)
    (fuel : Nat) : ∀ off len, piecesFrom y rg fuel off len = piecesFrom x rg fuel off len := by
  induction fuel with
  | zero => exact fun _ _ => rfl
  | succ fuel ih =>
    intro off len
    simp only [piecesFrom, ih, hd, hh, physUnit_congr hs]

theorem SameBytes.rangePieces_eq {p : Nat} {s t : State} (h : SameBytes p s t) (a len : Nat) :
    rangePieces (part t p) a len = rangePieces (part s p) a len := by
  simp only [rangePieces, piecesFrom_congr h.sleeves h.granules h.host]

theorem SameBytes.pread_eq {p : Nat} {s t : State} (h : SameBytes p s t) (a len : Nat) : pread t p a len = pread s p a len := by
  have hpiece : readPiece t = readPiece s := funext fun c => by simp only [readPiece, h.lining, h.dram]
  simp only [pread, h.rangePieces_eq, hpiece]

theorem SameBytes.addrFits_eq {p : Nat} {s t : State} (h : SameBytes p s t) (a len align : Nat) :
    addrFits (part t p) a len align = addrFits (part s p) a len align := by
  have hsize : regionSize (part t p) = regionSize (part s p) := funext fun rg => by
    cases rg <;> simp only [regionSize, Partition.units, Partition.sleeveList, h.sleeves, h.granules, h.host]
  simp only [addrFits, hsize]

theorem touchBlocks_lining (s : State) (phys len : Nat) : (touchBlocks s phys len).lining = s.lining := by
  unfold touchBlocks
  dsimp only
  split <;> rfl

theorem touchBlocks_dram (s : State) (phys len : Nat) : (touchBlocks s phys len).dram = s.dram := by
  unfold touchBlocks
  dsimp only
  split <;> rfl

/-- The memories after storing at a list of pieces, from the memories alone. -/
theorem writePieces_congr (cs : List Piece) : ∀ {s t : State} (bs : Bytes), t.lining = s.lining → t.dram = s.dram →
    (writePieces t cs bs).lining = (writePieces s cs bs).lining ∧ (writePieces t cs bs).dram = (writePieces s cs bs).dram := by
  induction cs with
  | nil => exact fun _ hl hd => ⟨hl, hd⟩
  | cons c cs ih =>
    intro s t bs hl hd
    refine ih _ ?_ ?_
    · unfold writePiece
      split
      · simp only [hl]
      · simp only [touchBlocks_lining, hl]
    · unfold writePiece
      split
      · exact hd
      · simp only [touchBlocks_dram, hd]

/-- Counting pieces leaves the memories. -/
theorem pwrite_lining (s : State) (p a : Nat) (bs : Bytes) :
    (pwrite s p a bs).lining = (writePieces s (rangePieces (part s p) a bs.length) bs).lining :=
  (OnlyUsage.foldl (onlyUsage_countPiece p) _ _).sameBytes.lining

theorem pwrite_dram (s : State) (p a : Nat) (bs : Bytes) :
    (pwrite s p a bs).dram = (writePieces s (rangePieces (part s p) a bs.length) bs).dram :=
  (OnlyUsage.foldl (onlyUsage_countPiece p) _ _).sameBytes.dram

/-- The same bytes stored at the same address leave the same memories. -/
theorem SameBytes.pwrite_same {p : Nat} {s t : State} (h : SameBytes p s t) (a : Nat) (bs : Bytes) :
    SameBytes p (pwrite s p a bs) (pwrite t p a bs) := by
  obtain ⟨hl, hd⟩ := writePieces_congr (rangePieces (part s p) a bs.length) bs h.lining h.dram
  have hs := (onlyWrites_pwrite s p a bs).own
  have ht := (onlyWrites_pwrite t p a bs).own
  refine ⟨?_, ?_, ?_, ?_, ?_⟩
  · rw [pwrite_lining, pwrite_lining, h.rangePieces_eq, hl]
  · rw [pwrite_dram, pwrite_dram, h.rangePieces_eq, hd]
  · rw [hs, ht]; exact h.sleeves
  · rw [hs, ht]; exact h.granules
  · rw [hs, ht]; exact h.host

/-- Marks and counters leave the bytes as `pwrite` has stored them. -/
theorem sameBytes_writeMarked (s : State) (p a : Nat) (bs : Bytes) (m : TileMeta) (mark model : Bool) :
    SameBytes p (pwrite s p a bs) (writeMarked s p a bs m mark model) := by
  refine (onlyUsage_countDram (pwrite s p a bs) p a bs.length true).sameBytes.trans ?_
  refine List.foldlRecOn (motive := fun t => SameBytes p (countDram (pwrite s p a bs) p a bs.length true) t) _ _
    (SameBytes.refl p _) (fun t ht c _ => ht.trans ?_)
  unfold markPiece
  split <;> exact ⟨rfl, rfl, rfl, rfl, rfl⟩

theorem sameBytes_dropResident (q : Nat) (s : State) (p first units : Nat) : SameBytes q s (dropResident s p first units) := by
  unfold dropResident
  split
  · exact ⟨rfl, rfl, rfl, rfl, rfl⟩
  · exact SameBytes.refl q s

theorem sameBytes_dropResidentAt (q : Nat) (s : State) (p a len : Nat) : SameBytes q s (dropResidentAt s p a len) := by
  unfold dropResidentAt
  split
  · exact sameBytes_dropResident q s p _ _
  · exact SameBytes.refl q s

/-- A store of no bytes moves counters at most. -/
theorem onlyUsage_writeMarked_nil (s : State) (p a : Nat) (m : TileMeta) (mark model : Bool) :
    OnlyUsage p s (writeMarked s p a [] m mark model) := by
  have hnone : ∀ x : Partition, rangePieces x a 0 = [] := by
    intro x
    unfold rangePieces
    split
    · rfl
    · simp only [piecesFrom, if_true]
  have hsame : pwrite s p a [] = s := by simp only [pwrite, List.length_nil, hnone, writePieces, List.foldl_nil]
  simp only [writeMarked, hsame, List.length_nil, hnone, List.foldl_nil]
  exact onlyUsage_countDram s p a 0 true

end Sys2Proof.Proofs.Writes
end

section
/-! SUPPORT. Descriptors in flight and how they start: a descriptor is found by its number, and one that is dispatched begins its work
in the state that takes it up. -/

namespace Sys2Proof.Proofs.Starting

open Sys2Proof Sys2Proof.Machine
open Sys2Proof.Proofs.Writes

@[simp] theorem takenUp_parts (s : State) (h : DescHdr) (b : DescBody) : (takenUp s h b).parts = s.parts := by
  rw [takenUp_only]

@[simp] theorem takenUp_part (s : State) (h : DescHdr) (b : DescBody) (p : Nat) : part (takenUp s h b) p = part s p :=
  part_congr (takenUp_parts s h b) p

@[simp] theorem takenUp_time (s : State) (h : DescHdr) (b : DescBody) : (takenUp s h b).time = s.time := by
  rw [takenUp_only]

@[simp] theorem takenUp_now (s : State) (h : DescHdr) (b : DescBody) : now (takenUp s h b) = now s := by
  simp only [now, takenUp_time]

@[simp] theorem takenUp_regs (s : State) (h : DescHdr) (b : DescBody) : (takenUp s h b).regs = s.regs := by
  rw [takenUp_only]

@[simp] theorem takenUp_freeCtr (s : State) (h : DescHdr) (b : DescBody) : (takenUp s h b).freeCtr = s.freeCtr := by
  rw [takenUp_only]

@[simp] theorem takenUp_slots (s : State) (h : DescHdr) (b : DescBody) : (takenUp s h b).slots = s.slots := by
  rw [takenUp_only]

@[simp] theorem takenUp_sleeves (s : State) (h : DescHdr) (b : DescBody) : (takenUp s h b).sleeves = s.sleeves := by
  rw [takenUp_only]

@[simp] theorem takenUp_entropy (s : State) (h : DescHdr) (b : DescBody) : (takenUp s h b).entropy = s.entropy := by
  rw [takenUp_only]

theorem sameBytes_takenUp (s : State) (h : DescHdr) (b : DescBody) (p : Nat) : SameBytes p s (takenUp s h b) :=
  ⟨by rw [takenUp_only], by rw [takenUp_only], by rw [takenUp_part], by rw [takenUp_part],
    by rw [takenUp_part]⟩

@[simp] theorem keysReady_takenUp (s : State) (h : DescHdr) (b : DescBody) (x : Partition) :
    keysReady (takenUp s h b) x = keysReady s x := by
  simp only [keysReady, sleeveOf, takenUp_sleeves]

@[simp] theorem samplersRun_takenUp (s : State) (h : DescHdr) (b : DescBody) (p : Nat) :
    samplersRun (takenUp s h b) p = samplersRun s p := by
  simp only [samplersRun, takenUp_part, takenUp_entropy]

/-- What a command that dispatches a descriptor answers, where the descriptor passes its tests. -/
theorem answers_startBody {c : Instr} {s : State} {h : DescHdr} {b : DescBody} (hc : exec c s = .next (dispatchDesc h b s))
    (hd : Dispatches s h b) : Answers c s (startBody (takenUp s h b) s.nextId h b) := by
  rw [Answers, hc, dispatch_runs hd]

/-- A descriptor in flight is the one found under its number. -/
theorem flight_of_mem {s : State} (ho : FlightsOrdered s) {f : InFlight} (hf : f ∈ s.inflight) : flight s f.id = some f := by
  obtain ⟨hids, -⟩ := ho
  unfold flight
  revert hids hf
  induction s.inflight with
  | nil => exact fun h => absurd h List.not_mem_nil
  | cons g gs ih =>
    intro hf hids
    rw [List.map_cons, List.pairwise_cons] at hids
    obtain ⟨hfirst, hrest⟩ := hids
    rcases List.mem_cons.mp hf with rfl | hf
    · exact List.find?_cons_of_pos (beq_self_eq_true f.id)
    · have hlt : g.id < f.id := hfirst f.id (List.mem_map_of_mem hf)
      rw [List.find?_cons_of_neg (by simp only [beq_iff_eq]; omega)]
      exact ih hf hrest

theorem mem_inflight_of_flying {s : State} {p : Nat} {f : InFlight} (hf : f ∈ flying s p) : f ∈ s.inflight ∧ f.h.p.val = p := by
  simpa only [flying, List.mem_filter, beq_iff_eq] using hf

theorem finishRef_completes {s : State} {id : Nat} {f : InFlight} (hf : flight s id = some f) (st : Status) (r ref : Nat) :
    ∃ g, flight (finishRef s id st r ref) id = some g ∧ g.done = some { status := st, result := r, faultRef := ref, ft := now s } := by
  rw [flight_finishRef, hf]
  exact ⟨_, rfl, rfl⟩

@[simp] theorem windowOf_modWindow (s : State) (p : Nat) (k : WinKind) (f : Window → Window) :
    windowOf (part (modWindow s p k f) p) k = (windowOf (part s p) k).map f := by
  cases k <;> simp only [modWindow, setWindow, part_modPart_same, windowOf]

end Sys2Proof.Proofs.Starting
end

section
/-! O15: INGEST of one listed item. -/

namespace Sys2Proof.Proofs.IngestItem

open Sys2Proof Sys2Proof.Machine
open Sys2Proof.Proofs.Writes Sys2Proof.Proofs.Starting

/-! The list of one item -/

theorem memTake_length : ∀ (n : Nat) (m : Memory) (a : Nat), (memTake n m a).length = n
  | 0, _, _ => rfl
  | n + 1, [], a => by rw [memTake, List.length_cons, memTake_length n]
  | n + 1, (j, b) :: t, a => by
    rw [memTake]
    split <;> rw [List.length_cons, memTake_length n]

theorem readPiece_length (s : State) (c : Piece) : (readPiece s c).length = c.len := memTake_length _ _ _

/-- The pieces of a range cover it, where there is fuel for all of its blocks. -/
theorem piecesFrom_lens (x : Partition) (rg : Region) (fuel : Nat) :
    ∀ off len, len = 0 ∨ len + off % (if rg = .pocket then 8192 else 4096) ≤ fuel * (if rg = .pocket then 8192 else 4096) →
      ((piecesFrom x rg fuel off len).map (fun c => c.len)).sum = len := by
  have hblock : (if rg = Region.pocket then 8192 else 4096) = 4096 ∨ (if rg = Region.pocket then 8192 else 4096) = 8192 := by
    split
    · exact .inr rfl
    · exact .inl rfl
  generalize hsize : (if rg = Region.pocket then 8192 else 4096) = block at hblock ⊢
  induction fuel with
  | zero =>
    intro off len hfuel
    simp only [piecesFrom, List.map_nil, List.sum_nil]
    omega
  | succ fuel ih =>
    intro off len hfuel
    simp only [piecesFrom, hsize]
    split
    · next hnone => simp only [List.map_nil, List.sum_nil, hnone]
    · next hsome =>
      have hrest : len - min len (block - off % block) = 0 ∨
          len - min len (block - off % block) + (off + min len (block - off % block)) % block ≤ fuel * block := by
        rcases hblock with rfl | rfl <;> omega
      cases rg <;> simp only [List.map_cons, List.sum_cons, ih _ _ hrest] <;> omega

theorem pread_length {s : State} {p a len : Nat} (ha : (regionOf a).isSome = true) : (pread s p a len).length = len := by
  obtain ⟨⟨rg, off⟩, hregion⟩ := Option.isSome_iff_exists.mp ha
  have hlens : ∀ cs : List Piece, (cs.flatMap (readPiece s)).length = (cs.map (fun c => c.len)).sum := fun cs => by
    simp only [List.length_flatMap, readPiece_length]
  simp only [pread, rangePieces, hregion, hlens]
  refine piecesFrom_lens _ rg _ off len ?_
  split <;> omega

/-- The list of an INGEST of one item holds one address. -/
theorem ingestList_one {s : State} {p : Nat} {o : IngestOps} (hcount : o.count = 1) (hlist : inWindow o.listAddr = true) :
    ingestList s p o = [(ingestList s p o).getD 0 0] := by
  have hregion : (regionOf o.listAddr).isSome = true := by
    simp only [inWindow, beq_iff_eq] at hlist
    simp only [regionOf, hlist, Option.isSome_some]
  have hlen : (pread s p o.listAddr (8 * o.count)).length = 8 := by rw [pread_length hregion, hcount]
  simp only [ingestList, elems, hlen, pieces, Nat.reduceDiv, List.map_cons, List.map_nil, List.getD_cons_zero]

/-- A dispatched INGEST has its list in the window (R221). -/
theorem inWindow_of_dispatches {s : State} {h : DescHdr} {o : IngestOps} (hd : Dispatches s h (.ingest o)) :
    inWindow o.listAddr = true := by
  obtain ⟨-, -, hruns⟩ := hd
  have haddr : addressOk s h (.ingest o) = true := by
    by_contra hno
    simp only [Bool.not_eq_true] at hno
    simp only [decideDesc, hno, Bool.and_false, Bool.not_false, if_true] at hruns
    repeat' split at hruns
    all_goals cases hruns
  simp only [addressOk, ingestAddress, Bool.and_eq_true] at haddr
  exact haddr.1.1.1.1

/-! Judging an item -/

/-- The verdict on a listed submission with header bytes `b` at an address (R39). -/
def itemVerdict (x : Partition) (b : Bytes) (stamp : Instant) (round a : Nat) : Option Verdict :=
  match headVerdict x b stamp (some round) with
  | none => if addrFits x a (statedLen b) 1 then none else some .malformed
  | some y => some y

/-- A listed submission that waits for its number (R239). -/
def listedItem (h : DescHdr) (id item a : Nat) (b : Bytes) : Submission :=
  { clientId := field b 4 4, stamp := h.stamp, rank := 8 + h.ring.val, order := id * 4096 + item, header := b,
    bytes := [], length := statedLen b, complete := true, srcAddr := a, ingestId := some id, item := item, stream := 0,
    entry := 0, lastPacket := 0, number := none, verdict := none, landed := false, slotFree := false,
    consumed := [], sharedKey := none, decapsulated := false, final := false, stage := none, clip := none,
    received := statedLen b, cells := 0, queue := none, gen := 0 }

theorem judgeItem_eq (s : State) (id : Nat) (h : DescHdr) (o : IngestOps) (item a : Nat) :
    judgeItem s id h o item a =
      match itemVerdict (part s h.p.val) (listedBytes s h.p.val a) h.stamp o.roundId a with
      | some y => decideItem s id item (field (listedBytes s h.p.val a) 4 4) y 0xFFFFFFFF h.stamp.ns
      | none => modWindow s h.p.val (formatKind (field (listedBytes s h.p.val a) 0 2)) (fun w =>
          { w with waiting := w.waiting ++ [listedItem h id item a (listedBytes s h.p.val a)] }) := rfl

/-- The checks up to LATE accept nothing, and give no verdict of a later check. -/
theorem headVerdict_cases {x : Partition} {b : Bytes} {stamp : Instant} {operand : Option Nat} {y : Verdict}
    (hy : headVerdict x b stamp operand = some y) : y = .malformed ∨ y = .wrongRound ∨ y = .notOpen ∨ y = .late := by
  unfold headVerdict at hy
  repeat' split at hy
  all_goals simp only [Option.some.injEq, reduceCtorEq] at hy
  all_goals simp only [← hy, true_or, or_true]

theorem itemVerdict_cases {x : Partition} {b : Bytes} {stamp : Instant} {round a : Nat} {y : Verdict}
    (hy : itemVerdict x b stamp round a = some y) : y = .malformed ∨ y = .wrongRound ∨ y = .notOpen ∨ y = .late := by
  unfold itemVerdict at hy
  split at hy
  · split at hy
    · cases hy
    · exact .inl (Option.some.inj hy).symm
  · next hhead => exact headVerdict_cases (hhead.trans hy)

/-- What passes the checks up to LATE has a window of its format. -/
theorem windowOf_of_headVerdict_none {x : Partition} {b : Bytes} {stamp : Instant} {operand : Option Nat}
    (hnone : headVerdict x b stamp operand = none) : ∃ w, windowOf x (formatKind (field b 0 2)) = some w := by
  unfold headVerdict at hnone
  split at hnone
  · cases hnone
  · split at hnone
    · cases hnone
    · next w hw => exact ⟨w, (Option.filter_eq_some_iff.mp hw).1⟩

theorem windowOf_of_itemVerdict_none {x : Partition} {b : Bytes} {stamp : Instant} {round a : Nat}
    (hnone : itemVerdict x b stamp round a = none) : ∃ w, windowOf x (formatKind (field b 0 2)) = some w := by
  unfold itemVerdict at hnone
  split at hnone
  · next hhead => exact windowOf_of_headVerdict_none hhead
  · cases hnone

/-- Usage counters play no part in the checks. -/
theorem itemVerdict_usage (x : Partition) (u : Usage) (b : Bytes) (stamp : Instant) (round a : Nat) :
    itemVerdict { x with usage := u } b stamp round a = itemVerdict x b stamp round a := rfl

theorem listedBytes_congr {s t : State} {p : Nat} (h : SameBytes p s t) (a : Nat) : listedBytes t p a = listedBytes s p a := by
  simp only [listedBytes, h.pread_eq, h.addrFits_eq]

/-! Settling -/

theorem decideItem_ingest {s : State} {id : Nat} {f : InFlight} {o : IngestOps} (hf : flight s id = some f) (hb : f.body = .ingest o)
    (item client : Nat) (v : Verdict) (seq stampNs : Nat) :
    decideItem s id item client v seq stampNs =
      modFlight (writeMarked s f.h.p.val (o.resultAddr + 16 * item) (resultRecord client v.code seq stampNs) (plainMeta 16) false false)
        id (fun g => { g with verdicts := g.verdicts ++ [v.code] }) := by
  simp only [decideItem, hf, hb]

/-- An INGEST with items still to decide goes on. -/
theorem settleIngest_undecided {s : State} {id : Nat} {f : InFlight} {o : IngestOps} (hf : flight s id = some f)
    (hb : f.body = .ingest o) (hopen : f.verdicts.length < o.count) : settleIngest s id = s := by
  simp only [settleIngest, hf, hb, hopen, true_or, if_true]

/-- The status of an INGEST whose items got these verdicts (R40, R221). -/
def ingestStatus (verdicts : List Nat) : Status :=
  if verdicts.all (fun v => v == Verdict.notOpen.code) then stNotOpen
  else if verdicts.all (fun v => v == Verdict.late.code) then stLate else stOk

/-- An INGEST whose items are all decided, none of them accepted and still to land, completes. -/
theorem settleIngest_decided {s : State} {id : Nat} {f : InFlight} {o : IngestOps} (hf : flight s id = some f) (hb : f.body = .ingest o)
    (hopen : o.count ≤ f.verdicts.length) (hdone : f.done = none)
    (hheld : ∀ k w c, windowOf (part s f.h.p.val) k = some w → c ∈ w.subs → c.ingestId ≠ some id) :
    settleIngest s id = finish s id (ingestStatus f.verdicts)
      (verdictWord (f.verdicts.filter (fun v => v == 0)).length
        (f.verdicts.length - (f.verdicts.filter (fun v => v == 0)).length)) := by
  have hland : ∀ k, ((windowOf (part s f.h.p.val) k).map (fun w => w.subs.any (fun b =>
      b.ingestId == some id && b.verdict == some .accepted && !b.landed))).getD false = false := by
    intro k
    cases hw : windowOf (part s f.h.p.val) k with
    | none => rfl
    | some w =>
      simp only [Option.map_some, Option.getD_some, List.any_eq_false, Bool.and_eq_true, beq_iff_eq]
      exact fun c hc hall => hheld k w c hw hc hall.1.1
  simp only [settleIngest, hf, hb, List.any_cons, List.any_nil, hland, Bool.or_false, hdone, Option.isSome_none, Bool.false_eq_true,
    or_false, Nat.not_lt.mpr hopen, if_false]
  rfl

/-- Deciding an item stores its record and notes its verdict. -/
theorem decideItem_frame {s : State} {id p : Nat} {f : InFlight} {o : IngestOps} (hf : flight s id = some f)
    (hb : f.body = .ingest o) (hp : f.h.p.val = p) (item client : Nat) (v : Verdict) (seq stampNs : Nat) :
    let record := resultRecord client v.code seq stampNs
    let t := decideItem s id item client v seq stampNs
    flight t id = some { f with verdicts := f.verdicts ++ [v.code] } ∧
      SameBytes p (pwrite s p (o.resultAddr + 16 * item) record) t ∧
      part t p = { part s p with usage := (part t p).usage } ∧ OthersKept s t p ∧
      t.regs = s.regs ∧ now t = now s := by
  intro record t
  have ht : t = modFlight (writeMarked s p (o.resultAddr + 16 * item) record (plainMeta 16) false false) id
      (fun g => { g with verdicts := g.verdicts ++ [v.code] }) :=
    hp ▸ decideItem_ingest hf hb item client v seq stampNs
  have hwrites := onlyWrites_writeMarked s p (o.resultAddr + 16 * item) record (plainMeta 16) false false
  have hbytes := sameBytes_writeMarked s p (o.resultAddr + 16 * item) record (plainMeta 16) false false
  rw [ht]
  refine ⟨?_, hbytes.trans ⟨rfl, rfl, rfl, rfl, rfl⟩, hwrites.own, hwrites.others, hwrites.regs, hwrites.now⟩
  rw [flight_modFlight_same, hwrites.flight, hf]
  · rfl
  · exact fun _ => rfl

/-! The dispatch of INGEST -/

/-- An INGEST that has read its list and decides its items. -/
def ingestBegun (s : State) (h : DescHdr) (o : IngestOps) : State :=
  waitIn (countDram (takenUp s h (.ingest o)) h.p.val o.listAddr (8 * o.count) false) s.nextId (.ingest (List.range o.count))

/-- The descriptor then. -/
def ingestFlight (s : State) (h : DescHdr) (o : IngestOps) : InFlight :=
  { takenFlight s h (.ingest o) (reserves s h (.ingest o)) with phase := .ingest (List.range o.count) }

/-- Reading the list counts its bytes. -/
theorem onlyUsage_listRead (s : State) (h : DescHdr) (o : IngestOps) :
    OnlyUsage h.p.val (takenUp s h (.ingest o)) (countDram (takenUp s h (.ingest o)) h.p.val o.listAddr (8 * o.count) false) :=
  onlyUsage_countDram _ _ _ _ _

theorem sameBytes_ingestBegun (s : State) (h : DescHdr) (o : IngestOps) : SameBytes h.p.val s (ingestBegun s h o) :=
  ((sameBytes_takenUp s h _ _).trans (onlyUsage_listRead s h o).sameBytes).trans ⟨rfl, rfl, rfl, rfl, rfl⟩

theorem part_ingestBegun (s : State) (h : DescHdr) (o : IngestOps) :
    part (ingestBegun s h o) h.p.val = { part s h.p.val with usage := (part (ingestBegun s h o) h.p.val).usage } := by
  have hown := (onlyUsage_listRead s h o).own
  rw [takenUp_part] at hown
  exact hown

theorem othersKept_ingestBegun (s : State) (h : DescHdr) (o : IngestOps) : OthersKept s (ingestBegun s h o) h.p.val :=
  othersKept_trans (othersKept_of_parts (takenUp_parts s h _) _) (onlyUsage_listRead s h o).others

theorem ingestBegun_regs (s : State) (h : DescHdr) (o : IngestOps) : (ingestBegun s h o).regs = s.regs :=
  (onlyUsage_listRead s h o).regs.trans (takenUp_regs s h _)

theorem ingestBegun_now (s : State) (h : DescHdr) (o : IngestOps) : now (ingestBegun s h o) = now s :=
  (onlyUsage_listRead s h o).now.trans (takenUp_now s h _)

theorem storeKept_ingestBegun (s : State) (h : DescHdr) (o : IngestOps) : StoreKept s (ingestBegun s h o) :=
  storeKept_trans (onlyFlights_takenUp s h (.ingest o)).store (onlyUsage_listRead s h o).storeKept

theorem flight_ingestBegun {s : State} (ho : FlightsOrdered s) (h : DescHdr) (o : IngestOps) :
    flight (ingestBegun s h o) s.nextId = some (ingestFlight s h o) := by
  rw [ingestBegun, waitIn, flight_modFlight_same, (onlyUsage_listRead s h o).flight, flight_takenUp ho]
  · rfl
  · exact fun _ => rfl

/-- INGEST at its dispatch judges its list (R221). -/
theorem answers_ingest {s : State} {h : DescHdr} {o : IngestOps} (hd : Dispatches s h (.ingest o)) :
    Answers (.ingest h o) s
      (settleIngest (judgeItems (ingestBegun s h o) s.nextId h o 0 (ingestList s h.p.val o)) s.nextId) := by
  have hlist : ingestList (takenUp s h (.ingest o)) h.p.val o = ingestList s h.p.val o := by
    simp only [ingestList, (sameBytes_takenUp s h (.ingest o) h.p.val).pread_eq]
  rw [ingestBegun, ← hlist]
  exact answers_startBody rfl hd

section OneItem

variable {s : State} {h : DescHdr} {o : IngestOps} (hordered : FlightsOrdered s) (hcount : o.count = 1)
include hordered hcount

/-- An item that fails a check up to LATE ends an INGEST of one item with its record and the status of its verdict. -/
theorem ingest_ends_of_verdict {y : Verdict} (client : Nat)
    (hy : y = .malformed ∨ y = .wrongRound ∨ y = .notOpen ∨ y = .late)
    (hfresh : ∀ k w c, windowOf (part s h.p.val) k = some w → c ∈ w.subs → c.ingestId ≠ some s.nextId) :
    let record := resultRecord client y.code 0xFFFFFFFF h.stamp.ns
    let t := settleIngest (decideItem (ingestBegun s h o) s.nextId 0 client y 0xFFFFFFFF h.stamp.ns) s.nextId
    Ends s t h (.ingest o) (if y = .notOpen then stNotOpen else if y = .late then stLate else stOk) (verdictWord 0 1) ∧
      t.lining = (pwrite s h.p.val o.resultAddr record).lining ∧ t.dram = (pwrite s h.p.val o.resultAddr record).dram ∧
      (part t h.p.val).submit = (part s h.p.val).submit ∧ (part t h.p.val).recover = (part s h.p.val).recover ∧
      OthersKept s t h.p.val ∧ t.regs = s.regs := by
  intro record
  obtain ⟨hflight, hbytes, hown, hothers, hregs, hnow⟩ :=
    decideItem_frame (p := h.p.val) (flight_ingestBegun hordered h o) rfl rfl 0 client y 0xFFFFFFFF h.stamp.ns
  generalize decideItem (ingestBegun s h o) s.nextId 0 client y 0xFFFFFFFF h.stamp.ns = decided
    at hflight hbytes hown hothers hregs hnow ⊢
  intro t
  have hpart : part decided h.p.val = { part s h.p.val with usage := (part decided h.p.val).usage } := by
    rw [part_ingestBegun] at hown
    exact hown
  have hsettled : t = finish decided s.nextId (if y = .notOpen then stNotOpen else if y = .late then stLate else stOk)
      (verdictWord 0 1) := by
    have hend : t = _ := settleIngest_decided hflight rfl (by rw [hcount]; exact le_refl 1) rfl (by
      intro k w c hw hc
      refine hfresh k w c ?_ hc
      change windowOf (part decided h.p.val) k = some w at hw
      rw [hpart] at hw
      cases k <;> exact hw)
    rw [hend]
    rcases hy with rfl | rfl | rfl | rfl <;> rfl
  have hbytes' : SameBytes h.p.val (pwrite s h.p.val o.resultAddr record) decided :=
    ((sameBytes_ingestBegun s h o).pwrite_same o.resultAddr record).trans hbytes
  rw [hsettled]
  refine ⟨ends_finish _ _ hflight rfl rfl (hnow.trans (ingestBegun_now s h o)), hbytes'.lining, hbytes'.dram, ?_, ?_,
    othersKept_trans (othersKept_ingestBegun s h o) hothers, hregs.trans (ingestBegun_regs s h o)⟩
  · change (part decided h.p.val).submit = _
    rw [hpart]
  · change (part decided h.p.val).recover = _
    rw [hpart]

/-- An item that passes the checks up to LATE waits for its number in its window, and an INGEST of one item with it. -/
theorem ingest_waits_for_number {k : WinKind} {w : Window} (c : Submission) (hw : windowOf (part s h.p.val) k = some w) :
    let t := settleIngest (modWindow (ingestBegun s h o) h.p.val k (fun y => { y with waiting := y.waiting ++ [c] })) s.nextId
    Flies s t h (.ingest o) (.ingest [0]) [] ∧
      windowOf (part t h.p.val) k = some { w with waiting := w.waiting ++ [c] } ∧ StoreKept s t ∧ OthersKept s t h.p.val ∧
      t.regs = s.regs := by
  intro t
  have hflight : flight (modWindow (ingestBegun s h o) h.p.val k (fun y => { y with waiting := y.waiting ++ [c] })) s.nextId =
      some (ingestFlight s h o) :=
    flight_ingestBegun hordered h o
  have hsettled : t = _ := settleIngest_undecided hflight rfl (by rw [hcount]; exact Nat.zero_lt_one)
  rw [hsettled]
  refine ⟨⟨_, hflight, rfl, rfl, rfl, by rw [ingestFlight, hcount]; rfl, rfl⟩, ?_, storeKept_ingestBegun s h o, ?_, ingestBegun_regs s h o⟩
  · have hbefore : windowOf (part (ingestBegun s h o) h.p.val) k = some w := by
      rw [part_ingestBegun]
      cases k <;> exact hw
    rw [windowOf_modWindow, hbefore, Option.map_some]
  · exact othersKept_trans (othersKept_ingestBegun s h o) (othersKept_modPart _ _ _)

end OneItem

/-- Settles O15: the one item's verdict decides between the record of an ended INGEST and the wait for a number. -/
theorem ingestJudgesAnItem : Obligations.IngestJudgesAnItem := by
  intro s h o hordered hd p x a b v
  have hanswers := answers_ingest hd
  refine ⟨hanswers, fun hcount hfresh => ?_⟩
  have hlisted : listedBytes (ingestBegun s h o) h.p.val a = b := listedBytes_congr (sameBytes_ingestBegun s h o) a
  have hv : itemVerdict (part (ingestBegun s h o) h.p.val) (listedBytes (ingestBegun s h o) h.p.val a) h.stamp o.roundId a = v := by
    rw [hlisted, part_ingestBegun, itemVerdict_usage]
    rfl
  have hjudge : judgeItems (ingestBegun s h o) s.nextId h o 0 (ingestList s h.p.val o) =
      judgeItem (ingestBegun s h o) s.nextId h o 0 a := by
    rw [ingestList_one hcount (inWindow_of_dispatches hd)]
    rfl
  rw [hjudge, judgeItem_eq, hv, hlisted] at hanswers
  constructor
  · intro y hy
    rw [hy] at hanswers
    exact ⟨_, hanswers, ingest_ends_of_verdict hordered hcount (field b 4 4) (itemVerdict_cases (hv.trans hy)) hfresh⟩
  · intro hnone
    rw [hnone] at hanswers
    obtain ⟨w, hw⟩ : ∃ w, windowOf (part s h.p.val) (formatKind (field b 0 2)) = some w :=
      windowOf_of_itemVerdict_none (stamp := h.stamp) (round := o.roundId) (a := a) hnone
    obtain ⟨hflies, hwindow, hstore, hothers, hregs⟩ :=
      ingest_waits_for_number hordered hcount (listedItem h s.nextId 0 a b) hw
    exact ⟨_, w, _, listedItem h s.nextId 0 a b, hanswers, hflies, hw, hwindow, rfl, rfl, rfl, rfl, rfl, rfl, rfl, hstore, hothers,
      hregs⟩

end Sys2Proof.Proofs.IngestItem
end

section
/-! O16: `WaitingSubmissionsGoOn` is refuted. Its clause on the next number says of every state with ordered descriptors that no other
partition changes. The record of a listed submission goes to the memory of the partition whose INGEST lists it (R40), and the premises
do not say that this INGEST is the window's own partition's: where it is another one's, that partition's counter of DRAM bytes moves
(Table 12.9). INGEST itself lists items into its own partition's windows alone (`judgeItem`): the clause lacks the premise that
says so. -/

namespace Sys2Proof.Proofs.ForeignIngest

open Sys2Proof Sys2Proof.Machine

/-- An INGEST of partition 1 in flight under number 0, whose one item is still to be decided. -/
def foreignIngest : InFlight :=
  { id := 0, h := { p := 1, ring := 0, slot := 0, gen := 0, hflags := 0, tag := 0, stamp := ⟨0, 0⟩ },
    body := .ingest { roundId := 0, listAddr := 2 ^ 60, count := 1, resultAddr := 2 ^ 60 }, opcode := 0x12, dispatchFt := ⟨0, 0⟩,
    phase := .ingest [0], reserved := [], jobs := [], committed := 0, replays := 0, skipped := 0, saturated := false, lost := false,
    touched := [], stallFrom := none, faultRef := 0, result := 0, verdicts := [], done := none }

/-- A submission listed by that INGEST, without the header of any format: its turn will give it MALFORMED (Table 2.3). -/
def waitingItem : Submission :=
  { clientId := 0, stamp := ⟨0, 0⟩, rank := 8, order := 0, header := [], bytes := [], length := 64, complete := true,
    srcAddr := 2 ^ 60, ingestId := some 0, item := 0, stream := 0, entry := 0, lastPacket := 0, number := none, verdict := none,
    landed := false, slotFree := false, consumed := [], sharedKey := none, decapsulated := false, final := false, stage := none,
    clip := none }

/-- An open SUBMIT window in which it waits. -/
def windowWithItem : Window :=
  { kind := .submit, roundId := 0, mode := .opened, opens := 0, closes := 2000, landingAddr := 0, slotCount := 1, slotSize := 4096,
    paramAddr := 0, paramBlock := [], assigned := 0, subs := [], waiting := [waitingItem], acceptedAtClose := 0, stageFirst := none,
    stageSlots := 0, stageUnits := 0 }

/-- Partition 0 holds the window, partition 1 the INGEST; every frontier has passed the item's key. -/
def windowOfForeignItem : State :=
  { State.reset with
    nextId := 1
    parts := [(0, { mode := .live, submit := some windowWithItem }), (1, { mode := .live })]
    inflight := [foreignIngest]
    time := { ns := 1000 } }

/-- The premises of the clause hold there. -/
theorem windowOfForeignItem_meets_premises :
    FlightsOrdered windowOfForeignItem ∧ windowOf (part windowOfForeignItem 0) .submit = some windowWithItem ∧
      leastWaiting (((part windowOfForeignItem 0).submit.map (fun y => y.waiting)).getD [] ++
        ((part windowOfForeignItem 0).recover.map (fun y => y.waiting)).getD []) = some waitingItem ∧
      belowFrontiers windowOfForeignItem 0 waitingItem = true := by
  refine ⟨⟨by decide, by decide⟩, rfl, rfl, by decide +kernel⟩

/-- The item's record is counted in partition 1's DRAM bytes. -/
theorem assignNext_counts_in_partition_1 :
    (part windowOfForeignItem 1).usage.dramBytes = 0 ∧ (part (assignNext windowOfForeignItem 0) 1).usage.dramBytes = 128 := by
  decide +kernel

/-- Refutes O16: a number given in partition 0's window to an item that an INGEST of partition 1 lists moves partition 1's usage
counters, while the clause keeps every partition but 0. -/
theorem not_waitingSubmissionsGoOn : ¬ Obligations.WaitingSubmissionsGoOn := by
  intro h
  obtain ⟨hordered, hwindow, hleast, hbelow⟩ := windowOfForeignItem_meets_premises
  obtain ⟨hbefore, hafter⟩ := assignNext_counts_in_partition_1
  obtain ⟨-, -, hnumber, -⟩ := h windowOfForeignItem 0 hordered
  obtain ⟨-, hkept, -⟩ := hnumber .submit windowWithItem waitingItem hwindow List.mem_cons_self hleast (fun hk => nomatch hk) hbelow
  have hsame : part (assignNext windowOfForeignItem 0) 1 = part windowOfForeignItem 1 := hkept 1 Nat.one_ne_zero
  rw [hsame, hbefore] at hafter
  exact absurd hafter (by decide)

end Sys2Proof.Proofs.ForeignIngest
end

section
/-! SUPPORT. What a release computes from a partition's memory: it depends on the bytes, the tiles' metadata, the policy and the next free
value alone. -/

namespace Sys2Proof.Proofs.ReleaseViews

open Sys2Proof Sys2Proof.Machine
open Sys2Proof.Proofs.Writes

/-- In both states the partition sees the same bytes, tile metadata, policy and next free value. -/
structure SameView (p : Nat) (s t : State) : Prop extends SameBytes p s t where
  tiles : t.tiles = s.tiles
  policy : (part t p).policy = (part s p).policy
  freeCtr : t.freeCtr = s.freeCtr

section View

variable {p : Nat} {s t : State} (hv : SameView p s t)
include hv

theorem SameView.unitMeta_eq (u : Nat) : unitMeta t p u = unitMeta s p u := by
  simp only [unitMeta, hv.tiles, physUnit_congr hv.sleeves]

theorem SameView.readTile_eq (u w : Nat) : readTile t p u w = readTile s p u w := by
  simp only [readTile, hv.pread_eq]

theorem SameView.releaseElem_eq (o : ReleaseOps) : releaseElem t p o = releaseElem s p o := by
  simp only [releaseElem, rangeWidth, hv.unitMeta_eq, hv.policy]

theorem SameView.releaseUnits_eq (o : ReleaseOps) : releaseUnits t p o = releaseUnits s p o := by
  simp only [releaseUnits, hv.releaseElem_eq]

theorem SameView.noiseAt_eq (mech i : Nat) : noiseAt t mech i = noiseAt s mech i := by
  simp only [noiseAt, hv.freeCtr]

theorem SameView.noisedElems_eq (mech rounding base : Nat) (m : TileMeta) (vs : List Nat) :
    noisedElems t mech rounding base m vs = noisedElems s mech rounding base m vs := by
  simp only [noisedElems, hv.noiseAt_eq]

theorem SameView.releaseWords_eq (o : ReleaseOps) : releaseWords t p o = releaseWords s p o := by
  have hread : readTile t p = readTile s p := funext fun u => funext fun w => hv.readTile_eq u w
  have hnoised : noisedElems t = noisedElems s := by
    funext mech rounding base m vs
    exact hv.noisedElems_eq mech rounding base m vs
  have hregime : (part t p).regime = (part s p).regime := by simp only [Partition.regime, hv.policy]
  unfold releaseWords
  dsimp only
  rw [hread, hnoised, hregime, hv.policy, hv.unitMeta_eq]

theorem SameView.releaseCt_eq (o : ReleaseOps) : releaseCt t p o = releaseCt s p o := by
  simp only [releaseCt, ringAt, headerAt, hv.pread_eq]

theorem SameView.ctLimb_eq (r : RingParams) (base stride i : Nat) : ctLimb t p r base stride i = ctLimb s p r base stride i := by
  simp only [ctLimb, limbElems, hv.pread_eq]

theorem SameView.noisedPart_eq (share : Bool) (r : RingParams) (c : CtRef) (h : CtHeader) :
    noisedPart t p share r c h = noisedPart s p share r c h := by
  simp only [noisedPart, hv.noiseAt_eq, hv.ctLimb_eq, hv.policy]

theorem SameView.ctLimbs_eq (r : RingParams) (base stride n : Nat) : ctLimbs t p r base stride n = ctLimbs s p r base stride n :=
  List.map_congr_left fun _ _ => hv.ctLimb_eq r base stride _

end View

/-- Stores at the same addresses leave the same bytes, whatever marks they give. -/
theorem sameBytes_store {p : Nat} {s t : State} (h : SameBytes p s t) (first units a : Nat) (bs : Bytes) (m : TileMeta)
    (mark model : Bool) :
    SameBytes p (writeMarked (dropResident s p first units) p a bs m mark model)
      (writeMarked (dropResident t p first units) p a bs m mark model) := by
  have hdropped : SameBytes p (dropResident s p first units) (dropResident t p first units) :=
    ((sameBytes_dropResident p s p first units).symm.trans h).trans (sameBytes_dropResident p t p first units)
  exact ((sameBytes_writeMarked _ p a bs m mark model).symm.trans (hdropped.pwrite_same a bs)).trans
    (sameBytes_writeMarked _ p a bs m mark model)

theorem SameBytes.foldl {α : Type} {p : Nat} {f : State → α → State} (hf : ∀ s t a, SameBytes p s t → SameBytes p (f s a) (f t a))
    (l : List α) {s t : State} (h : SameBytes p s t) : SameBytes p (l.foldl f s) (l.foldl f t) :=
  List.foldl_rel h fun a _ s t hst => hf s t a hst

theorem sameBytes_writeReleasedTiles {p : Nat} {s t : State} (hv : SameView p s t) (o : ReleaseOps) (words : List (List Nat)) :
    SameBytes p (writeReleasedTiles s p o words) (writeReleasedTiles t p o words) := by
  unfold writeReleasedTiles
  rw [hv.unitMeta_eq, hv.releaseElem_eq, hv.releaseUnits_eq, hv.policy]
  refine SameBytes.foldl (fun a b i h => ?_) _ hv.toSameBytes
  exact sameBytes_store h _ _ _ _ _ _ _

theorem sameBytes_writeReleasedCt {p : Nat} {s t : State} (hv : SameView p s t) (share : Bool) (o : ReleaseOps) :
    SameBytes p (writeReleasedCt s p share o) (writeReleasedCt t p share o) := by
  unfold writeReleasedCt
  dsimp only
  rw [hv.releaseCt_eq, hv.noisedPart_eq, hv.ctLimbs_eq]
  refine SameBytes.foldl (fun a b i h => ?_) _ hv.toSameBytes
  exact sameBytes_store h _ _ _ _ _ _ _

theorem onlyWrites_writeReleasedTiles (s : State) (p : Nat) (o : ReleaseOps) (words : List (List Nat)) :
    OnlyWrites p s (writeReleasedTiles s p o words) :=
  OnlyWrites.foldl (fun _ _ => (onlyWrites_dropResident p _ p _ _).trans (onlyWrites_writeMarked _ p _ _ _ _ _)) _ _

theorem onlyWrites_writeReleasedCt (s : State) (p : Nat) (share : Bool) (o : ReleaseOps) :
    OnlyWrites p s (writeReleasedCt s p share o) :=
  OnlyWrites.foldl (fun _ _ => (onlyWrites_dropResident p _ p _ _).trans (onlyWrites_writeMarked _ p _ _ _ _ _)) _ _

end Sys2Proof.Proofs.ReleaseViews
end

section
/-! O37: RELEASE, its gate, its noise phase and its output phase. -/

namespace Sys2Proof.Proofs.Release

open Sys2Proof Sys2Proof.Machine
open Sys2Proof.Proofs.Writes Sys2Proof.Proofs.Starting Sys2Proof.Proofs.ReleaseViews

/-! The gate -/

/-- The gate and the state checks let a release pass (R53, R56, R58). -/
def releaseAdmitted (share : Bool) (s : State) (id p : Nat) (o : ReleaseOps) : Bool :=
  gateAdmits (part s p) share o.roundId (now s) &&
    (if (part s p).regime = 2 then releaseCtOk s p share o else releaseTilesOk s p o) &&
    (!toWindow o || (part s p).regime == 2 || !(part s p).sealsOutput || (outputKey s id p).isSome)

/-- A release that has passed the gate and is recorded there (R56). -/
def gatePassed (share : Bool) (s : State) (id p : Nat) (o : ReleaseOps) : State :=
  modFlight (gateRecord (if (part s p).regime = 2 then useRing s p o.paramAddr else s) p share o.roundId (now s)) id
    (fun f => { f with admitted := now s })

theorem startRelease_eq (share : Bool) (s : State) (id : Nat) (h : DescHdr) (o : ReleaseOps) :
    startRelease share s id h o =
      if releaseAdmitted share s id h.p.val o = false then refuse s id stPolicy
      else if (part s h.p.val).regime = 2 ∧ !share ∧ (releaseCt s h.p.val o).2.2.headroom = 0 then refuse s id stHeadroom
      else if drawsNoise (part s h.p.val) share && !samplersRun s h.p.val then
        stallNoise (gatePassed share s id h.p.val o) id (outputKey s id h.p.val)
      else
        releaseNoise share (gatePassed share s id h.p.val o) id h o (now s)
          (((outputKey s id h.p.val).map (fun k => k.key)).getD []) := by
  have hgate : ∀ a b c : Bool, (!a || !b || !c) = true ↔ (a && b && c) = false := by decide
  simp only [startRelease, releaseAdmitted, hgate]
  rfl

theorem part_gatePassed (share : Bool) (s : State) (id p : Nat) (o : ReleaseOps) :
    ∃ epochs ringCache, part (gatePassed share s id p o) p = { part s p with
      released := (part s p).released ++ [(o.roundId, bit share)], epochs := epochs, ringCache := ringCache } := by
  change ∃ epochs ringCache, part (gateRecord _ _ _ _ _) p = _
  simp only [gateRecord, part_modPart_same]
  split
  · simp only [useRing, part_modPart_same]
    exact ⟨_, _, rfl⟩
  · exact ⟨_, _, rfl⟩

theorem sameView_gatePassed (share : Bool) (s : State) (id p : Nat) (o : ReleaseOps) : SameView p s (gatePassed share s id p o) := by
  obtain ⟨epochs, ringCache, hpart⟩ := part_gatePassed share s id p o
  refine ⟨⟨?_, ?_, by rw [hpart], by rw [hpart], by rw [hpart]⟩, ?_, by rw [hpart], ?_⟩
  all_goals
    unfold gatePassed
    split <;> rfl

theorem othersKept_gatePassed (share : Bool) (s : State) (id p : Nat) (o : ReleaseOps) : OthersKept s (gatePassed share s id p o) p := by
  have hring : OthersKept s (if (part s p).regime = 2 then useRing s p o.paramAddr else s) p := by
    split
    · exact othersKept_modPart s p _
    · exact fun _ _ => rfl
  have hrecord : OthersKept s (gateRecord (if (part s p).regime = 2 then useRing s p o.paramAddr else s) p share o.roundId (now s)) p :=
    othersKept_trans hring (othersKept_modPart _ p _)
  exact hrecord

theorem gatePassed_regs (share : Bool) (s : State) (id p : Nat) (o : ReleaseOps) : (gatePassed share s id p o).regs = s.regs := by
  unfold gatePassed
  split <;> rfl

theorem gatePassed_areas (share : Bool) (s : State) (id p : Nat) (o : ReleaseOps) : (gatePassed share s id p o).areas = s.areas := by
  unfold gatePassed
  split <;> rfl

theorem gatePassed_time (share : Bool) (s : State) (id p : Nat) (o : ReleaseOps) : (gatePassed share s id p o).time = s.time := by
  unfold gatePassed
  split <;> rfl

theorem storeKept_gatePassed (share : Bool) (s : State) (id p : Nat) (o : ReleaseOps) : StoreKept s (gatePassed share s id p o) := by
  have hv := sameView_gatePassed share s id p o
  exact ⟨fun _ => ⟨by rw [hv.lining], by rw [hv.dram]⟩, hv.tiles, gatePassed_areas share s id p o⟩

theorem flight_gatePassed {share : Bool} {s : State} {id p : Nat} {o : ReleaseOps} {f : InFlight} (hf : flight s id = some f) :
    flight (gatePassed share s id p o) id = some { f with admitted := now s } := by
  have hinflight : (gateRecord (if (part s p).regime = 2 then useRing s p o.paramAddr else s) p share o.roundId (now s)).inflight =
      s.inflight := by
    split <;> rfl
  rw [gatePassed, flight_modFlight_same, flight_congr hinflight, hf]
  · rfl
  · exact fun _ => rfl

/-! The noise phase -/

/-- The noised values under the pre-gate mark in their staging area (R54, R57). -/
def releaseStaged (share : Bool) (s : State) (p : Nat) (o : ReleaseOps) : State :=
  if (part s p).regime = 2 then
    writeMarked (dropResident s p (tileIx o.stageTile) (((releaseCt s p o).2.2.level + 1) * (releaseCt s p o).1.limbUnits)) p
      (pocketAddr (tileIx o.stageTile))
      ((noisedPart s p share (releaseCt s p o).1 (releaseCt s p o).2.1 (releaseCt s p o).2.2).flatMap (packElems 8)) (plainMeta 64)
      true false
  else
    writeMarked (dropResidentAt s p o.srcRef ((releaseWords s p o).flatMap (packElems (releaseElem s p o))).length) p o.srcRef
      ((releaseWords s p o).flatMap (packElems (releaseElem s p o))) (plainMeta 16) true false

/-- The output of a release to the Pocket (R54). -/
def releaseWritten (share : Bool) (s : State) (p : Nat) (o : ReleaseOps) : State :=
  if (part s p).regime = 2 then writeReleasedCt s p share o else writeReleasedTiles s p o (releaseWords s p o)

/-- A source tile of a masked or sealed release carries the saturation flag (R54). -/
def sourceSaturated (s : State) (p : Nat) (o : ReleaseOps) : Bool :=
  (part s p).regime != 2 &&
    (rangeMetas s p (tileIx o.srcTile) (tileUnits (rangeWidth s p (tileIx o.srcTile))) (releaseTiles o)).any (fun m => m.saturated)

theorem releaseNoise_window {o : ReleaseOps} (hw : toWindow o = true) (share : Bool) (s : State) (id : Nat) (h : DescHdr)
    (admitted : Nat) (key : Bytes) :
    releaseNoise share s id h o admitted key =
      modFlight (spendFree (releaseStaged share s h.p.val o)) id (fun f =>
        { f with phase := .output (releaseHeader s h.p.val share o admitted (sourceSaturated s h.p.val o)) key, stallFrom := none,
                 saturated := sourceSaturated s h.p.val o }) := by
  simp only [releaseNoise, hw, if_true]
  rfl

theorem releaseNoise_pocket {o : ReleaseOps} (hw : toWindow o = false) (share : Bool) (s : State) (id : Nat) (h : DescHdr)
    (admitted : Nat) (key : Bytes) :
    releaseNoise share s id h o admitted key =
      finish (spendFree (releaseWritten share s h.p.val o)) id (if sourceSaturated s h.p.val o then stSaturated else stOk) 0 := by
  simp only [releaseNoise, hw, Bool.false_eq_true, if_false, releaseWritten]
  split <;> rfl

theorem sourceSaturated_eq {p : Nat} {s t : State} (hv : SameView p s t) (o : ReleaseOps) :
    sourceSaturated t p o = sourceSaturated s p o := by
  simp only [sourceSaturated, rangeMetas, rangeWidth, hv.unitMeta_eq, Partition.regime, hv.policy]

theorem onlyWrites_releaseStaged (share : Bool) (s : State) (p : Nat) (o : ReleaseOps) :
    OnlyWrites p s (releaseStaged share s p o) := by
  unfold releaseStaged
  split
  · exact (onlyWrites_dropResident p s p _ _).trans (onlyWrites_writeMarked _ p _ _ _ _ _)
  · exact (onlyWrites_dropResidentAt p s p _ _).trans (onlyWrites_writeMarked _ p _ _ _ _ _)

theorem onlyWrites_releaseWritten (share : Bool) (s : State) (p : Nat) (o : ReleaseOps) :
    OnlyWrites p s (releaseWritten share s p o) := by
  unfold releaseWritten
  split
  · exact onlyWrites_writeReleasedCt s p share o
  · exact onlyWrites_writeReleasedTiles s p o _

/-- What a masked or sealed release stages, from any state with the same view. -/
theorem sameBytes_releaseStaged_tiles {share : Bool} {s t : State} {p : Nat} {o : ReleaseOps} (hv : SameView p s t)
    (hr : (part t p).regime ≠ 2) :
    SameBytes p (pwrite s p o.srcRef ((releaseWords s p o).flatMap (packElems (releaseElem s p o)))) (releaseStaged share t p o) := by
  rw [releaseStaged, if_neg hr, hv.releaseWords_eq, hv.releaseElem_eq]
  exact ((hv.toSameBytes.trans (sameBytes_dropResidentAt p t p _ _)).pwrite_same _ _).trans (sameBytes_writeMarked _ _ _ _ _ _ _)

/-- What a ciphertext release stages, from any state with the same view. -/
theorem sameBytes_releaseStaged_ct {share : Bool} {s t : State} {p : Nat} {o : ReleaseOps} (hv : SameView p s t)
    (hr : (part t p).regime = 2) :
    SameBytes p (pwrite s p (pocketAddr (tileIx o.stageTile))
      ((noisedPart s p share (releaseCt s p o).1 (releaseCt s p o).2.1 (releaseCt s p o).2.2).flatMap (packElems 8)))
      (releaseStaged share t p o) := by
  rw [releaseStaged, if_pos hr, hv.releaseCt_eq, hv.noisedPart_eq]
  exact ((hv.toSameBytes.trans (sameBytes_dropResident p t p _ _)).pwrite_same _ _).trans (sameBytes_writeMarked _ _ _ _ _ _ _)

/-! RELEASE at its dispatch -/

/-- The gate's record of a release stands, and no other partition and no register has changed (R56). -/
def Recorded (share : Bool) (o : ReleaseOps) (p : Nat) (s t : State) : Prop :=
  (part t p).released = (part s p).released ++ [(o.roundId, bit share)] ∧ OthersKept s t p ∧ t.regs = s.regs

/-- The memories hold what they hold in `u`, and one free value has been drawn. -/
def Stored (s u t : State) : Prop := t.lining = u.lining ∧ t.dram = u.dram ∧ t.freeCtr = s.freeCtr + 1

section Dispatched

variable {s : State} {h : DescHdr} {o : ReleaseOps} {share : Bool} {b : DescBody}

/-- The output key at hand is the one in the store at dispatch (R331). -/
theorem outputKey_takenUp (hordered : FlightsOrdered s) (hop : opcodeOf b = 0x59) :
    outputKey (takenUp s h b) s.nextId h.p.val =
      (storedKey s h.p.val 1).filter (fun k => k.keyId == field (part s h.p.val).policy 0x50 8) := by
  have hstore : storedKey (takenUp s h b) h.p.val 1 = storedKey s h.p.val 1 := by
    simp only [storedKey, takenUp_part, expiryOk, takenUp_now]
  have hheld : (flight (takenUp s h b) s.nextId).bind (fun f => f.key) = storedKey s h.p.val 1 := by
    rw [flight_takenUp hordered]
    simp only [Option.bind_some, takenFlight, hop]
    rfl
  have hkey : keyFor (takenUp s h b) s.nextId h.p.val 1 = storedKey s h.p.val 1 := by
    unfold keyFor
    rw [hheld, hstore]
    cases hk : storedKey s h.p.val 1 with
    | none => rfl
    | some k =>
      have hkind := List.find?_some hk
      simp only [Bool.and_eq_true, beq_iff_eq] at hkind
      exact if_pos hkind.1.1
  rw [outputKey, hkey, takenUp_part]

theorem startBody_release (s : State) (id : Nat) (h : DescHdr) (o : ReleaseOps) (share : Bool) :
    startBody s id h (if share then .releaseShare o else .releaseAggregate o) =
      if (part s h.p.val).sealsOutput && !keysReady s (part s h.p.val) then waitIn s id .keyWait
      else startRelease share s id h o := by
  cases share <;> rfl

/-- A release past the gate that has written: the gate's record stands, and beside memory nothing else has changed. -/
theorem recorded_of_writes {W : State} (hW : OnlyWrites h.p.val (gatePassed share (takenUp s h b) s.nextId h.p.val o) W) (id : Nat)
    (f : InFlight → InFlight) : Recorded share o h.p.val s (modFlight (spendFree W) id f) := by
  obtain ⟨epochs, ringCache, hpart⟩ := part_gatePassed share (takenUp s h b) s.nextId h.p.val o
  have hothers : OthersKept s W h.p.val :=
    othersKept_trans (othersKept_trans (othersKept_of_parts (takenUp_parts s h b) _) (othersKept_gatePassed share _ _ _ o)) hW.others
  refine ⟨?_, hothers, ?_⟩
  · change (part W h.p.val).released = _
    rw [hW.own, hpart, takenUp_part]
  · change W.regs = _
    rw [hW.regs, gatePassed_regs, takenUp_regs]

/-- A release past the gate that has written the bytes of `u` and used up the free value of its noise. -/
theorem stored_of_writes {u W : State} (hW : OnlyWrites h.p.val (gatePassed share (takenUp s h b) s.nextId h.p.val o) W)
    (hu : SameBytes h.p.val u W) (id : Nat) (f : InFlight → InFlight) : Stored s u (modFlight (spendFree W) id f) :=
  ⟨hu.lining, hu.dram, by
    change W.freeCtr + 1 = _
    rw [hW.freeCtr, (sameView_gatePassed share _ _ _ o).freeCtr, takenUp_freeCtr]⟩

/-- A release that has passed the gate is still the descriptor taken up. -/
theorem flight_of_writes (hordered : FlightsOrdered s) {W : State}
    (hW : OnlyWrites h.p.val (gatePassed share (takenUp s h b) s.nextId h.p.val o) W) :
    flight W s.nextId = some { takenFlight s h b (reserves s h b) with admitted := now s } := by
  rw [hW.flight, flight_gatePassed (flight_takenUp hordered h b), takenUp_now]

theorem now_of_writes {W : State} (hW : OnlyWrites h.p.val (gatePassed share (takenUp s h b) s.nextId h.p.val o) W) :
    now W = now s := by
  rw [hW.now, now, gatePassed_time, takenUp_time, now]

/-- The noise phase to the window leaves the release in its output phase. -/
theorem flies_output (hordered : FlightsOrdered s) {W : State}
    (hW : OnlyWrites h.p.val (gatePassed share (takenUp s h b) s.nextId h.p.val o) W) (head key : Bytes) (saturated : Bool) :
    Flies s (modFlight (spendFree W) s.nextId (fun f =>
      { f with phase := .output head key, stallFrom := none, saturated := saturated })) h b (.output head key) [] := by
  have hflight : flight (spendFree W) s.nextId = _ := flight_of_writes (W := W) hordered hW
  unfold Flies
  rw [flight_modFlight_same, hflight]
  · exact ⟨_, rfl, rfl, rfl, rfl, rfl, rfl⟩
  · exact fun _ => rfl

/-- The noise phase to the Pocket is the whole release. -/
theorem ends_release (hordered : FlightsOrdered s) {W : State}
    (hW : OnlyWrites h.p.val (gatePassed share (takenUp s h b) s.nextId h.p.val o) W) (st : Status) :
    Ends s (finish (spendFree W) s.nextId st 0) h b st 0 :=
  ends_finish st 0 (flight_of_writes (W := W) hordered hW) rfl rfl (now_of_writes (W := W) hW)

/-- A release whose sampler is not served waits for it, past the gate. -/
theorem flies_stalled (hordered : FlightsOrdered s) (key : Option StoredKey) :
    ∃ f, Flies s (stallNoise (gatePassed share (takenUp s h b) s.nextId h.p.val o) s.nextId key) h b (.noiseStall key) [] ∧
      flight (stallNoise (gatePassed share (takenUp s h b) s.nextId h.p.val o) s.nextId key) s.nextId = some f ∧
      f.admitted = now s ∧ Recorded share o h.p.val s (stallNoise (gatePassed share (takenUp s h b) s.nextId h.p.val o) s.nextId key) := by
  have hflight := flight_of_writes (share := share) (o := o) hordered (OnlyWrites.refl h.p.val (gatePassed share (takenUp s h b) s.nextId h.p.val o))
  obtain ⟨hreleased, hothers, hregs⟩ := recorded_of_writes (OnlyWrites.refl h.p.val (gatePassed share (takenUp s h b) s.nextId h.p.val o)) 0 id
  generalize gatePassed share (takenUp s h b) s.nextId h.p.val o = G at hflight hreleased hothers hregs ⊢
  unfold Flies stallNoise
  rw [flight_modFlight_same, hflight]
  · exact ⟨_, ⟨_, rfl, rfl, rfl, rfl, rfl, rfl⟩, rfl, rfl, hreleased, hothers, hregs⟩
  · exact fun _ => rfl

/-- To the window a release stages bytes that are those of `u`, and goes on to its output phase. -/
theorem releaseNoise_stages (hordered : FlightsOrdered s) (hw : toWindow o = true) (admitted : Nat) (key : Bytes) {u : State}
    (hu : SameBytes h.p.val u (releaseStaged share (gatePassed share (takenUp s h b) s.nextId h.p.val o) h.p.val o)) :
    let t := releaseNoise share (gatePassed share (takenUp s h b) s.nextId h.p.val o) s.nextId h o admitted key
    ∃ head, Flies s t h b (.output head key) [] ∧ Recorded share o h.p.val s t ∧ Stored s u t := by
  intro t
  have hW := onlyWrites_releaseStaged share (gatePassed share (takenUp s h b) s.nextId h.p.val o) h.p.val o
  have ht : t = _ := releaseNoise_window hw share _ s.nextId h admitted key
  rw [ht]
  exact ⟨_, flies_output hordered hW _ key _, recorded_of_writes hW _ _, stored_of_writes hW hu _ _⟩

/-- To the Pocket a release stores bytes that are those of `u`, and completes. -/
theorem releaseNoise_stores (hordered : FlightsOrdered s) (hw : toWindow o = false) (admitted : Nat) (key : Bytes) {u : State}
    (hu : SameBytes h.p.val u (releaseWritten share (gatePassed share (takenUp s h b) s.nextId h.p.val o) h.p.val o)) :
    let t := releaseNoise share (gatePassed share (takenUp s h b) s.nextId h.p.val o) s.nextId h o admitted key
    Ends s t h b (if sourceSaturated (takenUp s h b) h.p.val o then stSaturated else stOk) 0 ∧ Recorded share o h.p.val s t ∧
      Stored s u t := by
  intro t
  have hW := onlyWrites_releaseWritten share (gatePassed share (takenUp s h b) s.nextId h.p.val o) h.p.val o
  have ht : t = _ := releaseNoise_pocket hw share _ s.nextId h admitted key
  rw [ht, sourceSaturated_eq (sameView_gatePassed share (takenUp s h b) s.nextId h.p.val o)]
  exact ⟨ends_release hordered hW _, recorded_of_writes hW _ _, stored_of_writes hW hu _ _⟩

theorem regime_gatePassed : (part (gatePassed share (takenUp s h b) s.nextId h.p.val o) h.p.val).regime = (part s h.p.val).regime := by
  rw [Partition.regime, (sameView_gatePassed share _ _ _ o).policy, takenUp_part]
  rfl

theorem sameBytes_staged_tiles (hr : (part s h.p.val).regime ≠ 2) :
    SameBytes h.p.val (pwrite s h.p.val o.srcRef
        ((releaseWords (takenUp s h b) h.p.val o).flatMap (packElems (releaseElem (takenUp s h b) h.p.val o))))
      (releaseStaged share (gatePassed share (takenUp s h b) s.nextId h.p.val o) h.p.val o) :=
  ((sameBytes_takenUp s h b _).pwrite_same _ _).trans
    (sameBytes_releaseStaged_tiles (sameView_gatePassed share _ _ _ o) (by rw [regime_gatePassed]; exact hr))

theorem sameBytes_staged_ct (hr : (part s h.p.val).regime = 2) :
    let k := releaseCt (takenUp s h b) h.p.val o
    SameBytes h.p.val (pwrite s h.p.val (pocketAddr (tileIx o.stageTile))
        ((noisedPart (takenUp s h b) h.p.val share k.1 k.2.1 k.2.2).flatMap (packElems 8)))
      (releaseStaged share (gatePassed share (takenUp s h b) s.nextId h.p.val o) h.p.val o) :=
  ((sameBytes_takenUp s h b _).pwrite_same _ _).trans
    (sameBytes_releaseStaged_ct (sameView_gatePassed share _ _ _ o) (by rw [regime_gatePassed]; exact hr))

theorem sameBytes_written_tiles (hr : (part s h.p.val).regime ≠ 2) :
    SameBytes h.p.val (writeReleasedTiles (takenUp s h b) h.p.val o (releaseWords (takenUp s h b) h.p.val o))
      (releaseWritten share (gatePassed share (takenUp s h b) s.nextId h.p.val o) h.p.val o) := by
  have hview := sameView_gatePassed share (takenUp s h b) s.nextId h.p.val o
  rw [releaseWritten, if_neg (by rw [regime_gatePassed]; exact hr), hview.releaseWords_eq]
  exact sameBytes_writeReleasedTiles hview o _

theorem sameBytes_written_ct (hr : (part s h.p.val).regime = 2) :
    SameBytes h.p.val (writeReleasedCt (takenUp s h b) h.p.val share o)
      (releaseWritten share (gatePassed share (takenUp s h b) s.nextId h.p.val o) h.p.val o) := by
  have hview := sameView_gatePassed share (takenUp s h b) s.nextId h.p.val o
  rw [releaseWritten, if_pos (by rw [regime_gatePassed]; exact hr)]
  exact sameBytes_writeReleasedCt hview share o

end Dispatched

/-! The output phase -/

/-- A release in its output phase, with its header, key and kind. -/
def outputOf (f : InFlight) : Option (InFlight × ReleaseOps × Bytes × Bytes × Bool) :=
  match f.body, f.phase with
  | .releaseAggregate o, .output head key => some (f, o, head, key, false)
  | .releaseShare o, .output head key => some (f, o, head, key, true)
  | _, _ => none

theorem releaseOutput_eq (s : State) (p : Nat) :
    releaseOutput s p =
      match (flying s p).findSome? outputOf with
      | none => s
      | some (f, o, head, key, share) => outputRelease share s f o head key := rfl

theorem outputOf_eq_none {f : InFlight} (hf : ∀ head key, f.phase ≠ .output head key) : outputOf f = none := by
  unfold outputOf
  split
  · next hphase => exact absurd hphase (hf _ _)
  · next hphase => exact absurd hphase (hf _ _)
  · rfl

theorem outputOf_release {f : InFlight} {o : ReleaseOps} {share : Bool} {head key : Bytes}
    (hbody : f.body = if share then .releaseShare o else .releaseAggregate o) (hphase : f.phase = .output head key) :
    outputOf f = some (f, o, head, key, share) := by
  cases share <;> simp only [outputOf, hbody, hphase, if_true, Bool.false_eq_true, if_false]

/-- The first release in its output phase is the one that goes out. -/
theorem releaseOutput_first {s : State} {p : Nat} {f : InFlight} {o : ReleaseOps} {share : Bool} {head key : Bytes}
    {l r : List InFlight} (hfly : flying s p = l ++ f :: r) (hl : ∀ g ∈ l, ∀ hd k, g.phase ≠ .output hd k)
    (hbody : f.body = if share then .releaseShare o else .releaseAggregate o) (hphase : f.phase = .output head key) :
    releaseOutput s p = outputRelease share s f o head key := by
  have hnone : l.findSome? outputOf = none := List.findSome?_eq_none_iff.mpr fun g hg => outputOf_eq_none (hl g hg)
  rw [releaseOutput_eq, hfly, List.findSome?_append, hnone, Option.none_or, List.findSome?_cons, outputOf_release hbody hphase]

theorem releaseData_eq (s : State) (p : Nat) (share : Bool) (o : ReleaseOps) (head key : Bytes) :
    releaseData s p share o head key =
      if (part s p).regime = 2 then releaseData s p share o head key
      else if (part s p).sealsOutput then
        (gcmSeal key (slice head 0x24 12) head (pread s p o.srcRef (o.count * releaseElem s p o))).1 ++
          (gcmSeal key (slice head 0x24 12) head (pread s p o.srcRef (o.count * releaseElem s p o))).2
      else pread s p o.srcRef (o.count * releaseElem s p o) := by
  split
  · rfl
  · next hr => simp only [releaseData, if_neg hr]

/-- Header and output are stored, and the release completes (R54, R58). -/
theorem outputRelease_completes {s : State} {f : InFlight} (share : Bool) (o : ReleaseOps) (head key : Bytes)
    (hf : flight s f.id = some f) :
    let p := f.h.p.val
    let out := headerNow s p share o head ++ releaseData s p share o (headerNow s p share o head) key
    let t := outputRelease share s f o head key
    (∃ g, flight t f.id = some g ∧
      g.done = some { status := if f.saturated then stSaturated else stOk, result := 0, faultRef := 0, ft := now s }) ∧
      t.lining = (pwrite s p o.dst out).lining ∧ t.dram = (pwrite s p o.dst out).dram ∧ OthersKept s t p ∧ t.regs = s.regs := by
  intro p out t
  have hwrites : OnlyWrites p s (writeMarked s p o.dst out (plainMeta 16) false false) := onlyWrites_writeMarked s p o.dst out _ _ _
  have husage := onlyUsage_modUsage (writeMarked s p o.dst out (plainMeta 16) false false) p (fun u =>
    { u with keystreamBytes := satAdd u.keystreamBytes (if (part s p).sealsOutput then o.count * releaseElem s p o else 0) })
  have hboth := hwrites.trans husage.toOnlyWrites
  have hbytes := (sameBytes_writeMarked s p o.dst out (plainMeta 16) false false).trans husage.sameBytes
  refine ⟨?_, hbytes.lining, hbytes.dram, hboth.others, hboth.regs⟩
  obtain ⟨g, hg, hdone⟩ :=
    finishRef_completes ((hboth.flight f.id).trans hf) (if f.saturated then stSaturated else stOk) 0 0
  rw [hboth.now] at hdone
  exact ⟨g, hg, hdone⟩

/-- Settles O37: the noise phase follows the gate, and the output phase what the noise phase has staged. -/
theorem releasePassesTheGateAndOutputs : Obligations.ReleasePassesTheGateAndOutputs := by
  refine ⟨?_, fun s p => ⟨?_, ?_⟩⟩
  · intro s h o share hordered c b hd p s1 x key wires stateOk keyOk admitted room served recorded stored saturated
    have hop : opcodeOf b = 0x59 := by cases share <;> rfl
    have hkey : outputKey s1 s.nextId p = key := outputKey_takenUp hordered hop
    have hans : Answers c s (startBody s1 s.nextId h b) := answers_startBody (by cases share <;> rfl) hd
    have hstart : startBody s1 s.nextId h b = if wires then waitIn s1 s.nextId .keyWait else startRelease share s1 s.nextId h o := by
      rw [startBody_release, takenUp_part, keysReady_takenUp]
    have hadmitted : releaseAdmitted share s1 s.nextId p o = admitted := by
      simp only [releaseAdmitted, hkey]
      rw [takenUp_part, takenUp_now]
    have hroom : ((part s p).regime = 2 ∧ !share ∧ (releaseCt s1 p o).2.2.headroom = 0) ↔ ¬ room := by
      simp only [room, x, not_or, not_not, Bool.not_eq_true', Bool.not_eq_true, ne_eq]
    have hserved : (drawsNoise (part s p) share && !samplersRun s p) = true ↔ ¬ served := by
      simp only [served, x, not_or, Bool.and_eq_true, Bool.not_eq_true', Bool.not_eq_true, Bool.not_eq_false]
    rw [hstart, startRelease_eq, hkey, hadmitted, takenUp_part, samplersRun_takenUp, takenUp_now] at hans
    simp only [show h.p.val = p from rfl, hroom, hserved] at hans
    refine ⟨fun hw => ?_, fun hw ha => ?_, fun hw ha hr => ?_, fun hw ha hr hs => ?_, fun hw ha hr hs => ?_⟩
    · rw [if_pos hw] at hans
      obtain ⟨hflies, honly⟩ := waitIn_takenUp hordered h b .keyWait
      exact ⟨_, hans, hflies, honly, honly.store⟩
    · rw [if_neg (Bool.eq_false_iff.mp hw), if_pos ha] at hans
      obtain ⟨hends, honly⟩ := finish_takenUp hordered h b stPolicy 0
      exact ⟨_, hans, hends, honly, honly.store⟩
    · rw [if_neg (Bool.eq_false_iff.mp hw), if_neg (by rw [ha]; decide), if_pos hr] at hans
      obtain ⟨hends, honly⟩ := finish_takenUp hordered h b stHeadroom 0
      exact ⟨_, hans, hends, honly, honly.store⟩
    · rw [if_neg (Bool.eq_false_iff.mp hw), if_neg (by rw [ha]; decide), if_neg (not_not.mpr hr), if_pos hs] at hans
      obtain ⟨f, hflies, hf, hnow, hrec⟩ := flies_stalled (share := share) (o := o) (b := b) (h := h) hordered key
      exact ⟨_, f, hans, hflies, hf, hnow, hrec,
        storeKept_trans (onlyFlights_takenUp s h b).store (storeKept_gatePassed share s1 s.nextId p o)⟩
    · rw [if_neg (Bool.eq_false_iff.mp hw), if_neg (by rw [ha]; decide), if_neg (not_not.mpr hr), if_neg (not_not.mpr hs)] at hans
      refine ⟨fun hreg hwin => ?_, fun hreg hwin => ?_, fun hreg hwin => ?_, fun hreg hwin => ?_⟩
      · obtain ⟨head, hflies, hrec, hstored⟩ := releaseNoise_stages (b := b) hordered hwin (now s) _ (sameBytes_staged_tiles hreg)
        exact ⟨_, head, hans, hflies, hrec, hstored⟩
      · have hout := releaseNoise_stores (share := share) (b := b) hordered hwin (now s) ((key.map (fun k => k.key)).getD [])
          (sameBytes_written_tiles (share := share) hreg)
        have hsat : sourceSaturated s1 h.p.val o = saturated := by
          simp only [sourceSaturated, s1, takenUp_part]
          rw [bne_iff_ne.mpr hreg, Bool.true_and]
        rw [hsat] at hout
        exact ⟨_, hans, hout⟩
      · obtain ⟨head, hflies, hrec, hstored⟩ := releaseNoise_stages (b := b) hordered hwin (now s) _ (sameBytes_staged_ct hreg)
        exact ⟨_, head, hans, hflies, hrec, hstored⟩
      · have hout := releaseNoise_stores (share := share) (b := b) hordered hwin (now s) ((key.map (fun k => k.key)).getD [])
          (sameBytes_written_ct (share := share) hreg)
        have hsat : sourceSaturated s1 h.p.val o = false := by
          simp only [sourceSaturated, s1, takenUp_part]
          rw [show (part s h.p.val).regime = 2 from hreg]
          rfl
        rw [hsat] at hout
        exact ⟨_, hans, hout⟩
  · intro f o share head key l r hordered hfly hl hbody hphase x hd plain out
    obtain ⟨hmem, hp⟩ := mem_inflight_of_flying (s := s) (p := p.val) (f := f) (by rw [hfly]; simp)
    obtain ⟨⟨g, hg, hdone⟩, hlining, hdram, hothers, hregs⟩ :=
      outputRelease_completes share o head key (flight_of_mem hordered hmem)
    rw [hp, releaseData_eq] at hlining hdram
    rw [hp] at hothers
    exact ⟨_, g, congrArg Host.Outcome.next (releaseOutput_first hfly hl hbody hphase), hg, hdone, hlining, hdram, hothers, hregs⟩
  · intro hnone
    have hfind : (flying s p.val).findSome? outputOf = none :=
      List.findSome?_eq_none_iff.mpr fun f hf => outputOf_eq_none (hnone f hf)
    have hsame : releaseOutput s p.val = s := by rw [releaseOutput_eq, hfind]
    exact congrArg Host.Outcome.next hsame

end Sys2Proof.Proofs.Release
end

section
/-! SUPPORT. How a descriptor gets its passes: it keeps what it is, it runs them, and beside the descriptors in flight the Cuffs, the
issue record and the debug counters alone move. -/

namespace Sys2Proof.Proofs.Passes

open Sys2Proof Sys2Proof.Machine
open Sys2Proof.Proofs.Writes Sys2Proof.Proofs.Starting

theorem onlyPasses_trans {s t u : State} (h1 : OnlyPasses s t) (h2 : OnlyPasses t u) : OnlyPasses s u := by
  unfold OnlyPasses at *
  rw [h2, h1]

theorem storeKept_of_onlyPasses {s t : State} (h : OnlyPasses s t) : StoreKept s t := by
  rw [h]
  exact ⟨fun _ => ⟨rfl, rfl⟩, rfl, rfl⟩

theorem onlyPasses_of_onlyFlights {s t : State} (h : OnlyFlights s t) : OnlyPasses s t := by
  rw [h]
  rfl

theorem onlyPasses_foldl {α : Type} {f : State → α → State} (hf : ∀ s a, OnlyPasses s (f s a)) (l : List α) (s : State) :
    OnlyPasses s (l.foldl f s) :=
  List.foldlRecOn l f rfl (fun _ ht a _ => onlyPasses_trans ht (hf _ a))

/-! The Cuffs -/

/-- From `s` to `t` the engine slots alone have changed. -/
def OnlySlots (s t : State) : Prop := t = { s with slots := t.slots }

theorem onlySlots_trans {s t u : State} (h1 : OnlySlots s t) (h2 : OnlySlots t u) : OnlySlots s u := by
  unfold OnlySlots at *
  rw [h2, h1]

theorem onlySlots_foldl {α : Type} {f : State → α → State} (hf : ∀ s a, OnlySlots s (f s a)) (l : List α) (s : State) :
    OnlySlots s (l.foldl f s) :=
  List.foldlRecOn (motive := OnlySlots s) l f rfl (fun t ht a _ => onlySlots_trans ht (hf t a))

theorem onlySlots_keepResident (s : State) (l p first units : Nat) : OnlySlots s (keepResident s l p first units) := by
  unfold keepResident
  split <;> rfl

theorem onlySlots_loadPass (f : InFlight) (j : TileJob) (s : State) (l : Nat) : OnlySlots s (loadPass f j s l) := by
  unfold loadPass
  split
  · rfl
  · split
    · generalize hs : modSlot s _ _ = s1
      have hfirst : OnlySlots s s1 := by rw [← hs]; rfl
      exact onlySlots_trans hfirst (onlySlots_foldl (fun t (r : Nat × Nat) => onlySlots_keepResident t l f.h.p.val r.1 r.2) _ s1)
    · rfl

/-! Descriptors and their passes -/

/-- What a pass takes in and writes. -/
def work (j : TileJob) : List Nat × Bytes := (j.summands, j.bytes)

/-- The descriptor `g` is `f` with passes that do the same work. -/
def SameWork (f g : InFlight) : Prop :=
  g = { f with jobs := g.jobs, skipped := g.skipped } ∧ g.jobs.map work = f.jobs.map work

theorem SameWork.trans {f g k : InFlight} (h1 : SameWork f g) (h2 : SameWork g k) : SameWork f k := by
  obtain ⟨hg, hgw⟩ := h1
  obtain ⟨hk, hkw⟩ := h2
  refine ⟨?_, hkw.trans hgw⟩
  rw [hk, hg]

theorem flight_modFlight (s : State) (k id : Nat) {F : InFlight → InFlight} (hF : ∀ x, (F x).id = x.id) :
    flight (modFlight s k F) id = (flight s id).map (fun f => if k = id then F f else f) := by
  by_cases hk : k = id
  · subst hk
    simp only [flight_modFlight_same s k hF, if_true]
  · simp only [flight_modFlight_other s hk hF, if_neg hk, Option.map_id']

theorem flight_noteIssue (s : State) (v id : Nat) : flight (noteIssue s v) id = flight s id := rfl

theorem map_modFirst {test : TileJob → Bool} {F : TileJob → TileJob} (hF : ∀ j, work (F j) = work j) :
    ∀ js, (modFirst test F js).map work = js.map work
  | [] => rfl
  | j :: js => by
    unfold modFirst
    split
    · simp only [List.map_cons, hF]
    · simp only [List.map_cons, map_modFirst hF js]

theorem flight_beginNext {s : State} {id : Nat} {f : InFlight} (hf : flight s id = some f) (l : Nat) :
    ∃ g, flight (beginNext s l) id = some g ∧ SameWork f g := by
  unfold beginNext
  split
  · exact ⟨f, hf, rfl, rfl⟩
  next d j _ =>
    split
    · dsimp only
      have hload : flight (j.engines.foldl (loadPass d j) s) id = some f := by
        rw [onlySlots_foldl (onlySlots_loadPass d j) j.engines s]
        exact hf
      generalize j.engines.foldl (loadPass d j) s = s1 at hload
      rw [flight_noteIssue, modPass, flight_modFlight, flight_modFlight, hload]
      · refine ⟨_, rfl, ?_⟩
        by_cases hd : d.id = id
        · simp only [if_pos hd]
          exact ⟨rfl, map_modFirst (by exact fun _ => rfl) f.jobs⟩
        · simp only [if_neg hd]
          exact ⟨rfl, rfl⟩
      · exact fun _ => rfl
      · exact fun _ => rfl
    · exact ⟨f, hf, rfl, rfl⟩

theorem onlyPasses_beginNext (s : State) (l : Nat) : OnlyPasses s (beginNext s l) := by
  unfold beginNext
  split
  · rfl
  next d j _ =>
    split
    · dsimp only
      rw [onlySlots_foldl (onlySlots_loadPass d j) j.engines s]
      rfl
    · rfl

theorem flight_beginAll {id : Nat} (ls : List Nat) : ∀ {s : State} {f : InFlight}, flight s id = some f →
    ∃ g, flight (ls.foldl beginNext s) id = some g ∧ SameWork f g := by
  induction ls with
  | nil => exact fun {s f} hf => ⟨f, hf, rfl, rfl⟩
  | cons l ls ih =>
    intro s f hf
    obtain ⟨g, hg, hfg⟩ := flight_beginNext hf l
    obtain ⟨k, hk, hgk⟩ := ih hg
    exact ⟨k, hk, hfg.trans hgk⟩

/-- Passes given to a descriptor run in it. -/
theorem startJobs_runs {s : State} {id : Nat} {f : InFlight} (hf : flight s id = some f) {jobs : List TileJob} (hjobs : jobs ≠ [])
    (result : Nat) :
    (∃ g, flight (startJobs s id jobs result) id = some g ∧ g.h = f.h ∧ g.body = f.body ∧ g.done = f.done ∧ g.phase = .running ∧
      g.jobs.map work = jobs.map work) ∧ OnlyPasses s (startJobs s id jobs result) := by
  have hset : ∀ u, setJobs u id jobs stOk result = modFlight u id (fun f => { f with jobs := jobs, phase := .running }) := by
    intro u
    rw [setJobs, if_neg (by rw [List.isEmpty_iff]; exact hjobs)]
  unfold startJobs
  rw [hset]
  constructor
  · have hgiven : flight (modFlight (modFlight s id (fun f => { f with result := result })) id
        (fun f => { f with jobs := jobs, phase := .running })) id =
        some { f with result := result, jobs := jobs, phase := .running } := by
      rw [flight_modFlight_same, flight_modFlight_same, hf]
      · rfl
      · exact fun _ => rfl
      · exact fun _ => rfl
    obtain ⟨g, hg, hsame, hwork⟩ := flight_beginAll (idleEngines s (jobs.flatMap TileJob.engines)) hgiven
    exact ⟨g, hg, by rw [hsame], by rw [hsame], by rw [hsame], by rw [hsame], hwork⟩
  · exact onlyPasses_trans (t := modFlight (modFlight s id _) id _) rfl (onlyPasses_foldl onlyPasses_beginNext _ _)

end Sys2Proof.Proofs.Passes
end

section
/-! SUPPORT. Windows of sealed submissions and bundles: what releasing their areas changes, and which of their items a descriptor
passes over. -/

namespace Sys2Proof.Proofs.SealedWindows

open Sys2Proof Sys2Proof.Machine
open Sys2Proof.Proofs.Writes Sys2Proof.Proofs.Starting

/-! Windows -/

theorem windowOf_of_windowFor {x : Partition} {k : WinKind} {round : Nat} {w : Window} (h : windowFor x k round = some w) :
    windowOf x k = some w := by
  obtain ⟨hw, -⟩ := Option.filter_eq_some_iff.mp h
  exact hw

theorem roundId_of_windowFor {x : Partition} {k : WinKind} {round : Nat} {w : Window} (h : windowFor x k round = some w) :
    w.roundId = round := by
  obtain ⟨-, hround⟩ := Option.filter_eq_some_iff.mp h
  exact beq_iff_eq.mp hround

theorem windowFor_of_windowOf {x : Partition} {k : WinKind} {round : Nat} {w : Window} (h : windowOf x k = some w)
    (hr : w.roundId = round) : windowFor x k round = some w := by
  rw [windowFor, h, Option.filter_some, if_pos (beq_iff_eq.mpr hr)]

@[simp] theorem windowOf_setWindow (s : State) (p : Nat) (k : WinKind) (w : Option Window) :
    windowOf (part (setWindow s p k w) p) k = w := by
  cases k <;> simp only [setWindow, part_modPart_same, windowOf]

/-! Releasing a window's areas (Table 7.2) -/

/-- From `s` to `t` storage has been given back: the Pocket's bytes and its tiles' metadata alone have changed. -/
def OnlyFreed (s t : State) : Prop := t = { s with lining := t.lining, tiles := t.tiles }

theorem onlyFreed_trans {s t u : State} (h1 : OnlyFreed s t) (h2 : OnlyFreed t u) : OnlyFreed s u := by
  unfold OnlyFreed at *
  rw [h2, h1]

theorem onlyFreed_freeUnits (p n : Nat) : ∀ (s : State) (u : Nat), OnlyFreed s (freeUnits s p u n) := by
  induction n with
  | zero => exact fun _ _ => rfl
  | succ n ih => exact fun s u => onlyFreed_trans (show OnlyFreed s { s with lining := _, tiles := _ } from rfl) (ih _ _)

/-- Releasing a window's areas changes nothing, or gives units back and forgets the areas' places in the window. -/
theorem releaseUses_cases (s : State) (p : Nat) (k : WinKind) :
    releaseUses s p k = s ∨ ∃ w a first, windowOf (part s p) k = some w ∧ w.active = false ∧
      OnlyFreed (setWindow s p k (some { w with landingAddr := a, stageFirst := first })) (releaseUses s p k) := by
  unfold releaseUses
  split
  · exact .inl rfl
  next w hw =>
    dsimp only
    generalize hus : (_ ++ _ : List UseRange) = us
    split
    · exact .inl rfl
    next hfreed =>
      refine .inr ⟨w, _, _, hw, ?_, List.foldlRecOn (motive := OnlyFreed (setWindow s p k _)) us _ (by exact rfl)
        (fun t ht u _ => onlyFreed_trans ht (onlyFreed_freeUnits p _ t _))⟩
      by_contra hactive
      apply hfreed
      have hopen : (w.mode == .closed || w.mode == .aborted) = false := by
        unfold Window.active at hactive
        revert hactive
        cases w.mode <;> decide
      rw [← hus]
      simp only [landingIdle, stagingIdle, hopen, Bool.false_and, Bool.false_eq_true, if_false, List.append_nil, List.isEmpty_nil]

theorem releaseUses_active {s : State} {p : Nat} {k : WinKind} {w : Window} (hw : windowOf (part s p) k = some w)
    (ha : w.active = true) : releaseUses s p k = s := by
  rcases releaseUses_cases s p k with h | ⟨v, a, first, hv, hactive, -⟩
  · exact h
  · rw [hw] at hv
    rw [Option.some.inj hv, hactive] at ha
    exact absurd ha (by decide)

theorem releaseUses_inflight (s : State) (p : Nat) (k : WinKind) : (releaseUses s p k).inflight = s.inflight := by
  rcases releaseUses_cases s p k with h | ⟨w, a, first, -, -, h⟩ <;> rw [h]
  rfl

theorem releaseUses_time (s : State) (p : Nat) (k : WinKind) : (releaseUses s p k).time = s.time := by
  rcases releaseUses_cases s p k with h | ⟨w, a, first, -, -, h⟩ <;> rw [h]
  rfl

theorem releaseUses_now (s : State) (p : Nat) (k : WinKind) : now (releaseUses s p k) = now s := by
  simp only [now, releaseUses_time]

theorem releaseUses_dram (s : State) (p : Nat) (k : WinKind) : (releaseUses s p k).dram = s.dram := by
  rcases releaseUses_cases s p k with h | ⟨w, a, first, -, -, h⟩ <;> rw [h]
  rfl

theorem othersKept_setWindow (s : State) (p : Nat) (k : WinKind) (w : Option Window) : OthersKept s (setWindow s p k w) p :=
  othersKept_modPart s p _

theorem othersKept_releaseUses (s : State) (p : Nat) (k : WinKind) : OthersKept s (releaseUses s p k) p := by
  rcases releaseUses_cases s p k with h | ⟨w, a, first, -, -, h⟩
  · rw [h]
    exact fun _ _ => rfl
  · rw [h]
    exact othersKept_setWindow s p k _

theorem setWindow_rounds (s : State) (p : Nat) (k : WinKind) (w : Option Window) :
    (part (setWindow s p k w) p).rounds = (part s p).rounds := by
  cases k <;> simp only [setWindow, part_modPart_same]

theorem releaseUses_rounds (s : State) (p : Nat) (k : WinKind) : (part (releaseUses s p k) p).rounds = (part s p).rounds := by
  rcases releaseUses_cases s p k with h | ⟨w, a, first, -, -, h⟩
  · rw [h]
  · rw [h]
    exact setWindow_rounds s p k _

/-- A released window keeps its round and its submissions. -/
theorem releaseUses_window {s : State} {p : Nat} {k : WinKind} {w : Window} (hw : windowOf (part s p) k = some w) :
    ∃ v, windowOf (part (releaseUses s p k) p) k = some v ∧ v.subs = w.subs ∧ v.roundId = w.roundId := by
  rcases releaseUses_cases s p k with h | ⟨v, a, first, hv, -, h⟩
  · rw [h]
    exact ⟨w, hw, rfl, rfl⟩
  · rw [hw] at hv
    rw [Option.some.inj hv, h]
    exact ⟨_, windowOf_setWindow s p k _, rfl, rfl⟩

/-! Submissions of a range -/

theorem rangeVerdicts_congr {v w : Window} (h : v.subs = w.subs) (first count : Nat) :
    rangeVerdicts v first count = rangeVerdicts w first count := by
  simp only [rangeVerdicts, rangeSubs, h]

theorem mem_rangeSubs {w : Window} {first count : Nat} {b : Submission} (h : b ∈ rangeSubs w first count) :
    b ∈ w.subs ∧ ∃ n, b.number = some n := by
  obtain ⟨hmem, hrange⟩ := List.mem_filter.mp h
  refine ⟨hmem, ?_⟩
  cases hn : b.number with
  | some n => exact ⟨n, rfl⟩
  | none =>
    rw [hn] at hrange
    exact absurd hrange Bool.false_ne_true

/-! What a descriptor passes over -/

/-- Nothing is decapsulated where no listed submission's pass has ended. -/
theorem decapAll_skips {p : Nat} {passed : List Nat} (bs : List Submission) {s : State}
    (h : ∀ b ∈ bs, toDecap b = true → b.number.getD 0 ∉ passed) : decapAll p passed bs s = s := by
  induction bs with
  | nil => rfl
  | cons b bs ih =>
    unfold decapAll
    split
    · rfl
    · have hb : (toDecap b && passed.contains (b.number.getD 0)) = false := by
        by_contra hc
        rw [Bool.not_eq_false, Bool.and_eq_true, List.contains_iff_mem] at hc
        exact h b List.mem_cons_self hc.1 hc.2
      simp only [hb, Bool.false_and, Bool.false_eq_true, if_false]
      exact ih (fun c hc => h c (List.mem_cons_of_mem b hc))

theorem openBundles_skips {p round : Nat} {f : InFlight} (bs : List Submission) {s : State}
    (h : ∀ b ∈ bs, toOpen b = true → b.number.getD 0 ∉ f.passed) : openBundles p round f bs s = s := by
  induction bs with
  | nil => rfl
  | cons b bs ih =>
    unfold openBundles
    split
    · exact ih (fun c hc => h c (List.mem_cons_of_mem b hc))
    next hb =>
      rw [Bool.not_eq_true, Bool.or_eq_false_iff, Bool.not_eq_false'] at hb
      rw [if_neg (by rw [List.contains_iff_mem]; exact h b List.mem_cons_self hb.1)]

theorem openAll_skips {p round : Nat} {f : InFlight} (bs : List Submission) {s : State}
    (h : ∀ b ∈ bs, toOpen b = true → b.number.getD 0 ∉ f.passed) : openAll p round f bs s = s := by
  induction bs with
  | nil => rfl
  | cons b bs ih =>
    unfold openAll
    split
    · rfl
    · split
      · exact ih (fun c hc => h c (List.mem_cons_of_mem b hc))
      next hb =>
        rw [Bool.not_eq_true, Bool.or_eq_false_iff, Bool.not_eq_false'] at hb
        have hpassed : f.passed.contains (b.number.getD 0) = false := by
          rw [Bool.eq_false_iff, ne_eq, List.contains_iff_mem]
          exact h b List.mem_cons_self hb.1
        rw [hpassed, Bool.false_and, if_neg (by decide)]

end Sys2Proof.Proofs.SealedWindows
end

section
/-! SUPPORT. KEM_DECAP and SEALED_OPEN as they are dispatched: they wait, they are refused, they get their passes, or with none to
run they report their range at once (R181, R183). -/

namespace Sys2Proof.Proofs.SealedStart

open Sys2Proof Sys2Proof.Machine
open Sys2Proof.Proofs.Writes Sys2Proof.Proofs.Starting Sys2Proof.Proofs.Passes Sys2Proof.Proofs.SealedWindows

/-- The descriptor waits in a phase, with nothing else changed. -/
def WaitsIn (s : State) (c : Instr) (h : DescHdr) (b : DescBody) (ph : Phase) : Prop :=
  ∃ t, Answers c s t ∧ Flies s t h b ph [] ∧ OnlyFlights s t ∧ StoreKept s t

/-- The descriptor is refused, with nothing else changed. -/
def Refused (s : State) (c : Instr) (h : DescHdr) (b : DescBody) (st : Status) : Prop :=
  ∃ t, Answers c s t ∧ Ends s t h b st 0 ∧ OnlyFlights s t ∧ StoreKept s t

/-- The descriptor runs a pass for each of the numbers `ns`, beside what `u` holds. -/
def Runs (s : State) (c : Instr) (h : DescHdr) (b : DescBody) (ns : List Nat) (u : State) : Prop :=
  ∃ t jobs, Answers c s t ∧ Flies s t h b .running jobs ∧ OnlyPasses u t ∧ StoreKept s t ∧
    jobs.map (fun j => (j.summands, j.bytes)) = ns.map (fun n => ([n], []))

section Dispatched

variable {s : State} {c : Instr} {h : DescHdr} {b : DescBody}

theorem waitsIn_of_answers (hordered : FlightsOrdered s) {ph : Phase} (hans : Answers c s (waitIn (takenUp s h b) s.nextId ph)) :
    WaitsIn s c h b ph := by
  obtain ⟨hflies, honly⟩ := waitIn_takenUp hordered h b ph
  exact ⟨_, hans, hflies, honly, honly.store⟩

theorem refused_of_answers (hordered : FlightsOrdered s) {st : Status} (hans : Answers c s (refuse (takenUp s h b) s.nextId st)) :
    Refused s c h b st := by
  obtain ⟨hends, honly⟩ := finish_takenUp hordered h b st 0
  exact ⟨_, hans, hends, honly, honly.store⟩

theorem subHasEngine_congr {s t : State} {p : Nat} (hslots : t.slots = s.slots)
    (hsleeves : (part t p).sleeves = (part s p).sleeves) : subHasEngine t p = subHasEngine s p := by
  funext n
  simp only [subHasEngine, subSleeve, Partition.sleeveList, hsleeves, enginesOf, slotOfEngine, slotOf, hslots]

theorem subHasEngine_takenUp (p : Nat) : subHasEngine (takenUp s h b) p = subHasEngine s p :=
  subHasEngine_congr (takenUp_slots s h b) (by rw [takenUp_part])

variable {run : State → State} {p : Nat} {ns : List Nat}

theorem refused_of_startPasses (hordered : FlightsOrdered s) (hans : Answers c s (startPasses run (takenUp s h b) s.nextId p ns))
    (hall : ns.all (subHasEngine s p) = false) : Refused s c h b stEngineLost := by
  rw [startPasses, subHasEngine_takenUp, hall, if_pos (by decide)] at hans
  exact refused_of_answers hordered hans

/-- With passes to run a descriptor runs them. -/
theorem runs_of_startPasses {t u : State} (hans : Answers c s (startPasses run t s.nextId p ns))
    (hf : flight t s.nextId = some (takenFlight s h b (reserves s h b))) (hu : OnlyPasses u t) (hs : StoreKept s u) (hns : ns ≠ [])
    (hall : ns.all (subHasEngine t p) = true) : Runs s c h b ns u := by
  rw [startPasses, hall, if_neg (by decide), if_neg (by rw [List.isEmpty_iff]; exact hns)] at hans
  obtain ⟨⟨g, hg, hh, hb, hdone, hphase, hwork⟩, honly⟩ :=
    startJobs_runs hf (jobs := ns.map (subPass t p)) (by simpa only [ne_eq, List.map_eq_nil_iff] using hns) 0
  have hpasses := onlyPasses_trans hu honly
  refine ⟨_, g.jobs, hans, ⟨g, hg, hh, hb, hdone, hphase, rfl⟩, hpasses,
    storeKept_trans hs (storeKept_of_onlyPasses hpasses), ?_⟩
  calc g.jobs.map work = (ns.map (subPass t p)).map work := hwork
    _ = ns.map (fun n => ([n], [])) := by rw [List.map_map]; rfl

theorem startPasses_nil (t : State) (id : Nat) : startPasses run t id p [] = run t := rfl

end Dispatched

/-! How each goes on -/

/-- KEM_DECAP of submissions goes on to `t`, and reports its range where nothing of it is left to do. -/
theorem runDecap_to {s t : State} {id : Nat} {h : DescHdr} {o : KemOps} {w v : Window} {f : InFlight}
    (hw : windowFor (part s h.p.val) .submit o.roundId = some w) (hf : flight s id = some f)
    (hrun : decapAll h.p.val f.passed (rangeSubs w o.seqFirst o.seqCount) s = t)
    (hv : windowFor (part t h.p.val) .submit o.roundId = some v) :
    runDecap s id h o =
      if stillOpen f ((rangeSubs v o.seqFirst o.seqCount).filter toDecap) = [] then
        finishRef t id (doneStatus f)
          (verdictWord ((rangeSubs v o.seqFirst o.seqCount).filter (fun y => y.decapsulated)).length 0) f.faultRef
      else t := by
  simp only [runDecap, hw, hf, hrun, hv, Option.getD_some, List.isEmpty_iff]

theorem runDecap_done {s : State} {id : Nat} {h : DescHdr} {o : KemOps} {w : Window} {f : InFlight}
    (hw : windowFor (part s h.p.val) .submit o.roundId = some w) (hf : flight s id = some f)
    (hnone : (rangeSubs w o.seqFirst o.seqCount).filter toDecap = []) :
    runDecap s id h o = finishRef s id (doneStatus f)
      (verdictWord (((rangeSubs w o.seqFirst o.seqCount).filter (fun y => y.decapsulated)).length) 0) f.faultRef := by
  have hskip : decapAll h.p.val f.passed (rangeSubs w o.seqFirst o.seqCount) s = s :=
    decapAll_skips _ (fun b hb ht => absurd ht (List.filter_eq_nil_iff.mp hnone b hb))
  rw [runDecap_to hw hf hskip hw, hnone, stillOpen, List.filter_nil, if_pos rfl]

/-- KEM_DECAP of bundles goes on to `t`, and writes its records and reports its range where nothing of it is left to open. -/
theorem runBundles_to {s t : State} {id : Nat} {h : DescHdr} {o : KemOps} {w v : Window} {f : InFlight}
    (hw : windowFor (part s h.p.val) .recover o.roundId = some w) (hf : flight s id = some f)
    (hrun : openBundles h.p.val o.roundId f (rangeSubs w o.seqFirst o.seqCount) s = t)
    (hv : windowFor (part t h.p.val) .recover o.roundId = some v) :
    runBundles s id h o =
      if stillOpen f ((rangeSubs v o.seqFirst o.seqCount).filter toOpen) = [] then
        finishRef (if o.resultAddr = 0 then t else writeRecords t h.p.val o.resultAddr v o.seqFirst o.seqCount) id (doneStatus f)
          (rangeVerdicts v o.seqFirst o.seqCount) f.faultRef
      else t := by
  simp only [runBundles, hw, hf, hrun, hv, Option.getD_some, List.isEmpty_iff]

theorem runBundles_done {s : State} {id : Nat} {h : DescHdr} {o : KemOps} {w : Window} {f : InFlight}
    (hw : windowFor (part s h.p.val) .recover o.roundId = some w) (hf : flight s id = some f)
    (hnone : (rangeSubs w o.seqFirst o.seqCount).filter toOpen = []) :
    runBundles s id h o =
      finishRef (if o.resultAddr = 0 then s else writeRecords s h.p.val o.resultAddr w o.seqFirst o.seqCount) id (doneStatus f)
        (rangeVerdicts w o.seqFirst o.seqCount) f.faultRef := by
  have hskip : openBundles h.p.val o.roundId f (rangeSubs w o.seqFirst o.seqCount) s = s :=
    openBundles_skips _ (fun b hb ht => absurd ht (List.filter_eq_nil_iff.mp hnone b hb))
  rw [runBundles_to hw hf hskip hw, hnone, stillOpen, List.filter_nil, if_pos rfl]

/-- SEALED_OPEN goes on to `t`, and writes its records, releases its areas and reports its range where nothing of it is left to
open. -/
theorem runOpen_to {s t : State} {id : Nat} {h : DescHdr} {o : SealedOps} {w v : Window} {f : InFlight}
    (hw : windowFor (part s h.p.val) .submit o.roundId = some w) (hf : flight s id = some f)
    (hrun : openAll h.p.val o.roundId f (rangeSubs w o.seqFirst o.seqCount) s = t)
    (hv : windowFor (part t h.p.val) .submit o.roundId = some v) :
    runOpen s id h o =
      if stillOpen f ((rangeSubs v o.seqFirst o.seqCount).filter toOpen) = [] then
        finishRef (releaseUses (writeRecords t h.p.val o.resultAddr v o.seqFirst o.seqCount) h.p.val .submit) id (doneStatus f)
          (rangeVerdicts v o.seqFirst o.seqCount) f.faultRef
      else t := by
  simp only [runOpen, hw, hf, hrun, hv, Option.getD_some, List.isEmpty_iff]

theorem runOpen_done {s : State} {id : Nat} {h : DescHdr} {o : SealedOps} {w : Window} {f : InFlight}
    (hw : windowFor (part s h.p.val) .submit o.roundId = some w) (hf : flight s id = some f)
    (hnone : (rangeSubs w o.seqFirst o.seqCount).filter toOpen = []) :
    runOpen s id h o =
      finishRef (releaseUses (writeRecords s h.p.val o.resultAddr w o.seqFirst o.seqCount) h.p.val .submit) id (doneStatus f)
        (rangeVerdicts w o.seqFirst o.seqCount) f.faultRef := by
  have hskip : openAll h.p.val o.roundId f (rangeSubs w o.seqFirst o.seqCount) s = s :=
    openAll_skips _ (fun b hb ht => absurd ht (List.filter_eq_nil_iff.mp hnone b hb))
  rw [runOpen_to hw hf hskip hw, hnone, stillOpen, List.filter_nil, if_pos rfl]

/-- A descriptor in flight that is done with its work ends, whatever its work was. -/
theorem ends_of_taken {s t : State} {h : DescHdr} {b : DescBody} (hf : flight t s.nextId = some (takenFlight s h b (reserves s h b)))
    (hnow : now t = now s) (result : Nat) : Ends s (finishRef t s.nextId stOk result 0) h b stOk result := by
  rw [Ends, flight_finishRef, hf, hnow]
  exact ⟨_, rfl, rfl, rfl, rfl, rfl, rfl⟩

theorem storeKept_refl (s : State) : StoreKept s s := ⟨fun _ => ⟨rfl, rfl⟩, rfl, rfl⟩

theorem storeKept_finishRef (s : State) (id : Nat) (st : Status) (r ref : Nat) : StoreKept s (finishRef s id st r ref) :=
  ⟨fun _ => ⟨rfl, rfl⟩, rfl, rfl⟩

/-- A sealed descriptor waits for the wires first (R328). -/
theorem startBody_sealed {s : State} {h : DescHdr} {b : DescBody} (hop : opcodeOf b = 0x50 ∨ opcodeOf b = 0x51) (id : Nat) :
    startBody (takenUp s h b) id h b =
      if keysReady s (part s h.p.val) = true then runBody (takenUp s h b) id h b else waitIn (takenUp s h b) id .keyWait := by
  have hneeds : needsKey (part s h.p.val) (opcodeOf b) = true := by
    rcases hop with hop | hop <;> simp only [needsKey, hop] <;> rfl
  simp only [startBody, takenUp_part, keysReady_takenUp, hneeds, Bool.true_and]
  cases keysReady s (part s h.p.val) <;> rfl

theorem windowFor_of_bound {x : Partition} {k : WinKind} {round : Nat} {w : Window}
    (h : (windowFor x k round).filter Window.readable = some w) : windowFor x k round = some w := by
  obtain ⟨hw, -⟩ := Option.filter_eq_some_iff.mp h
  exact hw

section Dispatches

variable {s : State} {h : DescHdr}

theorem kemSealed_starts {o : KemOps} (hordered : FlightsOrdered s) (hd : Dispatches s h (.kemSealed o)) {w : Window}
    (hkeys : keysReady s (part s h.p.val) = true)
    (hw : (windowFor (part s h.p.val) .submit o.roundId).filter Window.readable = some w) :
    let c := Instr.kemDecapSealed h o
    let b := DescBody.kemSealed o
    let ns := numbersOf ((rangeSubs w o.seqFirst o.seqCount).filter toDecap)
    (rangeReady w o.seqFirst o.seqCount = false → WaitsIn s c h b .numbers) ∧
    (rangeReady w o.seqFirst o.seqCount = true →
      ((ns.all (subHasEngine s h.p.val) = false → Refused s c h b stEngineLost) ∧
        (ns ≠ [] → ns.all (subHasEngine s h.p.val) = true → Runs s c h b ns s)) ∧
      (ns = [] → ∃ t, Answers c s t ∧
        Ends s t h b stOk (verdictWord ((rangeSubs w o.seqFirst o.seqCount).filter (fun y => y.decapsulated)).length 0) ∧
        StoreKept s t)) := by
  intro c b ns
  have hans : Answers c s (startBody (takenUp s h b) s.nextId h b) := answers_startBody rfl hd
  rw [startBody_sealed (.inr rfl), if_pos hkeys] at hans
  have hbody : runBody (takenUp s h b) s.nextId h b =
      if rangeReady w o.seqFirst o.seqCount = true then decapReady (takenUp s h b) s.nextId h o w
      else waitIn (takenUp s h b) s.nextId .numbers := by
    simp only [b, runBody, startKemSealed, takenUp_part, hw]
  rw [hbody] at hans
  refine ⟨fun hready => ?_, fun hready => ?_⟩
  · rw [if_neg (Bool.eq_false_iff.mp hready)] at hans
    exact waitsIn_of_answers hordered hans
  · rw [if_pos hready] at hans
    have hf := flight_takenUp hordered h b
    refine ⟨⟨refused_of_startPasses hordered hans, fun hns hall => ?_⟩, fun hns => ?_⟩
    · exact runs_of_startPasses hans hf (onlyPasses_of_onlyFlights (onlyFlights_takenUp s h b)) (storeKept_refl s) hns
        (by rw [subHasEngine_takenUp]; exact hall)
    · rw [decapReady, show numbersOf _ = [] from hns, startPasses_nil,
        runDecap_done (by rw [takenUp_part]; exact windowFor_of_bound hw) hf (List.map_eq_nil_iff.mp hns)] at hans
      exact ⟨_, hans, ends_of_taken hf (takenUp_now s h b) _,
        storeKept_trans (onlyFlights_takenUp s h b).store (storeKept_finishRef _ _ _ _ _)⟩

theorem sameBytes_writeRecords {p : Nat} {s t : State} (hst : SameBytes p s t) (a : Nat) (w : Window) (first count : Nat) :
    SameBytes p (writeRecords s p a w first count) (writeRecords t p a w first count) := by
  have hstored : ∀ u : State, SameBytes p (pwrite u p a ((List.range count).flatMap (fun i => recordOf w (first + i))))
      (writeRecords u p a w first count) :=
    fun u => (sameBytes_writeMarked u p a _ _ _ _).trans (sameBytes_dropResidentAt p _ p a _)
  exact (hstored s).symm.trans ((hst.pwrite_same a _).trans (hstored t))

theorem kemBundle_starts {o : KemOps} (hordered : FlightsOrdered s) (hd : Dispatches s h (.kemBundle o)) {w : Window} {g : Machine.Graph}
    (hkeys : keysReady s (part s h.p.val) = true)
    (hw : (windowFor (part s h.p.val) .recover o.roundId).filter Window.readable = some w)
    (hg : (roundOf (part s h.p.val) o.roundId).bind (fun r => r.graph) = some g) :
    let c := Instr.kemDecapBundle h o
    let b := DescBody.kemBundle o
    let ns := numbersOf ((rangeSubs w o.seqFirst o.seqCount).filter toOpen)
    (rangeReady w o.seqFirst o.seqCount = false → WaitsIn s c h b .numbers) ∧
    (rangeReady w o.seqFirst o.seqCount = true →
      ((ns.all (subHasEngine s h.p.val) = false → Refused s c h b stEngineLost) ∧
        (ns ≠ [] → ns.all (subHasEngine s h.p.val) = true → Runs s c h b ns s)) ∧
      (ns = [] → ∃ t, Answers c s t ∧ Ends s t h b stOk (rangeVerdicts w o.seqFirst o.seqCount) ∧
        (o.resultAddr = 0 → StoreKept s t) ∧
        (o.resultAddr ≠ 0 → t.lining = (writeRecords s h.p.val o.resultAddr w o.seqFirst o.seqCount).lining ∧
          t.dram = (writeRecords s h.p.val o.resultAddr w o.seqFirst o.seqCount).dram))) := by
  intro c b ns
  have hans : Answers c s (startBody (takenUp s h b) s.nextId h b) := answers_startBody rfl hd
  rw [startBody_sealed (.inr rfl), if_pos hkeys] at hans
  have hbody : runBody (takenUp s h b) s.nextId h b =
      if rangeReady w o.seqFirst o.seqCount = true then bundlesReady (takenUp s h b) s.nextId h o w
      else waitIn (takenUp s h b) s.nextId .numbers := by
    simp only [b, runBody, startKemBundle, takenUp_part, hw, hg, Option.isNone_some, Bool.false_eq_true, if_false]
  rw [hbody] at hans
  refine ⟨fun hready => ?_, fun hready => ?_⟩
  · rw [if_neg (Bool.eq_false_iff.mp hready)] at hans
    exact waitsIn_of_answers hordered hans
  · rw [if_pos hready] at hans
    have hf := flight_takenUp hordered h b
    refine ⟨⟨refused_of_startPasses hordered hans, fun hns hall => ?_⟩, fun hns => ?_⟩
    · exact runs_of_startPasses hans hf (onlyPasses_of_onlyFlights (onlyFlights_takenUp s h b)) (storeKept_refl s) hns
        (by rw [subHasEngine_takenUp]; exact hall)
    · rw [bundlesReady, show numbersOf _ = [] from hns, startPasses_nil,
        runBundles_done (by rw [takenUp_part]; exact windowFor_of_bound hw) hf (List.map_eq_nil_iff.mp hns)] at hans
      have hwrites := onlyWrites_writeRecords (takenUp s h b) h.p.val o.resultAddr w o.seqFirst o.seqCount
      by_cases hnone : o.resultAddr = 0
      · rw [if_pos hnone] at hans
        exact ⟨_, hans, ends_of_taken hf (takenUp_now s h b) _,
          fun _ => storeKept_trans (onlyFlights_takenUp s h b).store (storeKept_finishRef _ _ _ _ _), fun hsome => absurd hnone hsome⟩
      · rw [if_neg hnone] at hans
        have hbytes := sameBytes_writeRecords (sameBytes_takenUp s h b h.p.val) o.resultAddr w o.seqFirst o.seqCount
        exact ⟨_, hans, ends_of_taken ((hwrites.flight _).trans hf) (hwrites.now.trans (takenUp_now s h b)) _,
          fun hz => absurd hz hnone, fun _ => ⟨hbytes.lining, hbytes.dram⟩⟩

/-- A SEALED_OPEN establishes its staging area (R189). -/
def staged (s : State) (p : Nat) (o : SealedOps) : State :=
  modWindow s p .submit (fun y => { y with
    stageFirst := some (tileIx o.stageTile), stageSlots := o.stageSlots, stageUnits := o.stageSlots * vectorUnits (part s p) })

theorem staged_takenUp (b : DescBody) (o : SealedOps) :
    staged (takenUp s h b) h.p.val o =
      { staged s h.p.val o with
        dbg := (takenUp s h b).dbg, nextId := (takenUp s h b).nextId, inflight := (takenUp s h b).inflight } := by
  rw [takenUp_only]
  rfl

theorem sleeves_staged (o : SealedOps) (p : Nat) : (part (staged s p o) p).sleeves = (part s p).sleeves := by
  simp only [staged, modWindow, setWindow, part_modPart_same]

theorem subHasEngine_staged (t : State) (o : SealedOps) (p : Nat) : subHasEngine (staged t p o) p = subHasEngine t p :=
  subHasEngine_congr (by rw [staged, modWindow, setWindow, modPart_slots]) (sleeves_staged o p)

theorem openReady_staged {o : SealedOps} {w : Window} (hother : otherStaging w o = false) (s : State) (id : Nat) (h : DescHdr) :
    openReady s id h o w =
      if (((rangeSubs w o.seqFirst o.seqCount).filter toOpen).any (fun b => !b.decapsulated)) = true then refuse s id stPolicy
      else if (numbersOf ((rangeSubs w o.seqFirst o.seqCount).filter toOpen)).all (subHasEngine s h.p.val) = false then
        refuse s id stEngineLost
      else startPasses (fun t => runOpen t id h o) (staged s h.p.val o) id h.p.val
        (numbersOf ((rangeSubs w o.seqFirst o.seqCount).filter toOpen)) := by
  simp only [openReady, hother, Bool.false_or, Bool.not_eq_true']
  rfl

/-- The staging area changes no submission of its window. -/
theorem windowFor_staged {s : State} {p round : Nat} {w : Window} (o : SealedOps) (hw : windowFor (part s p) .submit round = some w) :
    ∃ v, windowFor (part (staged s p o) p) .submit round = some v ∧ v.subs = w.subs := by
  have hround := roundId_of_windowFor hw
  refine ⟨{ w with
    stageFirst := some (tileIx o.stageTile), stageSlots := o.stageSlots, stageUnits := o.stageSlots * vectorUnits (part s p) },
    windowFor_of_windowOf ?_ hround, rfl⟩
  rw [staged, windowOf_modWindow, windowOf_of_windowFor hw]
  rfl

theorem rangeSubs_congr {v w : Window} (hvw : v.subs = w.subs) (first count : Nat) : rangeSubs v first count = rangeSubs w first count := by
  simp only [rangeSubs, hvw]

theorem writeRecords_congr {v w : Window} (hvw : v.subs = w.subs) (s : State) (p a first count : Nat) :
    writeRecords s p a v first count = writeRecords s p a w first count := by
  have hrecord : recordOf v = recordOf w := funext fun n => by simp only [recordOf, subAt, hvw]
  simp only [writeRecords, hrecord]

theorem flight_staged (t : State) (o : SealedOps) (p id : Nat) : flight (staged t p o) id = flight t id :=
  flight_congr (by rw [staged, modWindow, setWindow, modPart_inflight]) id

theorem now_staged (t : State) (o : SealedOps) (p : Nat) : now (staged t p o) = now t := by
  simp only [now, staged, modWindow, setWindow, modPart_time]

/-- With none to open a SEALED_OPEN reports its range. -/
theorem sealedOpen_done {c : Instr} {b : DescBody} {o : SealedOps} {w : Window} (hordered : FlightsOrdered s)
    (hw : windowFor (part s h.p.val) .submit o.roundId = some w) (hnone : (rangeSubs w o.seqFirst o.seqCount).filter toOpen = [])
    (hans : Answers c s (runOpen (staged (takenUp s h b) h.p.val o) s.nextId h o)) :
    ∃ t, Answers c s t ∧ Ends s t h b stOk (rangeVerdicts w o.seqFirst o.seqCount) ∧
      t.dram = (writeRecords (staged s h.p.val o) h.p.val o.resultAddr w o.seqFirst o.seqCount).dram := by
  obtain ⟨v, hv, hsubs⟩ := windowFor_staged (s := takenUp s h b) o (by rw [takenUp_part]; exact hw)
  have hbytes : SameBytes h.p.val (staged s h.p.val o) (staged (takenUp s h b) h.p.val o) := by
    rw [staged_takenUp]
    exact ⟨rfl, rfl, rfl, rfl, rfl⟩
  have hwrites := onlyWrites_writeRecords (staged (takenUp s h b) h.p.val o) h.p.val o.resultAddr w o.seqFirst o.seqCount
  have hdram := (sameBytes_writeRecords hbytes o.resultAddr w o.seqFirst o.seqCount).dram
  have hf := (flight_staged (takenUp s h b) o h.p.val s.nextId).trans (flight_takenUp hordered h b)
  have hflies := (hwrites.flight s.nextId).trans hf
  have hnow := hwrites.now.trans ((now_staged (takenUp s h b) o h.p.val).trans (takenUp_now s h b))
  rw [runOpen_done hv hf (by rw [rangeSubs_congr hsubs]; exact hnone), rangeVerdicts_congr hsubs, writeRecords_congr hsubs] at hans
  generalize writeRecords (staged (takenUp s h b) h.p.val o) h.p.val o.resultAddr w o.seqFirst o.seqCount = W at *
  exact ⟨_, hans, ends_of_taken ((flight_congr (releaseUses_inflight W _ _) _).trans hflies) ((releaseUses_now W _ _).trans hnow) _,
    (releaseUses_dram W _ _).trans hdram⟩

theorem sealedOpen_starts {o : SealedOps} (hordered : FlightsOrdered s) (hd : Dispatches s h (.sealedOpen o)) {w : Window}
    (hkeys : keysReady s (part s h.p.val) = true)
    (hw : (windowFor (part s h.p.val) .submit o.roundId).filter Window.readable = some w) :
    let c := Instr.sealedOpen h o
    let b := DescBody.sealedOpen o
    let subs := (rangeSubs w o.seqFirst o.seqCount).filter toOpen
    let ns := numbersOf subs
    let u := staged s h.p.val o
    (otherStaging w o = true → Refused s c h b stPolicy) ∧
    (otherStaging w o = false → rangeReady w o.seqFirst o.seqCount = false → WaitsIn s c h b .numbers) ∧
    (otherStaging w o = false → rangeReady w o.seqFirst o.seqCount = true →
      ((∃ y ∈ subs, y.decapsulated = false) → Refused s c h b stPolicy) ∧
      ((∀ y ∈ subs, y.decapsulated = true) →
        ((ns.all (subHasEngine s h.p.val) = false → Refused s c h b stEngineLost) ∧
          (ns ≠ [] → ns.all (subHasEngine s h.p.val) = true → Runs s c h b ns u)) ∧
        (subs = [] → ∃ t, Answers c s t ∧ Ends s t h b stOk (rangeVerdicts w o.seqFirst o.seqCount) ∧
          t.dram = (writeRecords u h.p.val o.resultAddr w o.seqFirst o.seqCount).dram))) := by
  intro c b subs ns u
  have hans : Answers c s (startBody (takenUp s h b) s.nextId h b) := answers_startBody rfl hd
  rw [startBody_sealed (.inl rfl), if_pos hkeys] at hans
  have hbody : runBody (takenUp s h b) s.nextId h b =
      if otherStaging w o = true then refuse (takenUp s h b) s.nextId stPolicy
      else if rangeReady w o.seqFirst o.seqCount = true then openReady (takenUp s h b) s.nextId h o w
      else waitIn (takenUp s h b) s.nextId .numbers := by
    simp only [b, runBody, startSealedOpen, takenUp_part, hw]
  rw [hbody] at hans
  refine ⟨fun hother => ?_, fun hother hready => ?_, fun hother hready => ?_⟩
  · rw [if_pos hother] at hans
    exact refused_of_answers hordered hans
  · rw [if_neg (Bool.eq_false_iff.mp hother), if_neg (Bool.eq_false_iff.mp hready)] at hans
    exact waitsIn_of_answers hordered hans
  · rw [if_neg (Bool.eq_false_iff.mp hother), if_pos hready] at hans
    rw [openReady_staged hother, subHasEngine_takenUp] at hans
    refine ⟨fun hraw => ?_, fun hraw => ?_⟩
    · have hany : subs.any (fun y => !y.decapsulated) = true := by
        simpa only [List.any_eq_true, Bool.not_eq_true'] using hraw
      rw [if_pos hany] at hans
      exact refused_of_answers hordered hans
    · have hany : ¬ subs.any (fun y => !y.decapsulated) = true := by
        simpa only [List.any_eq_true, Bool.not_eq_true', not_exists, not_and, Bool.not_eq_false] using hraw
      rw [if_neg hany] at hans
      refine ⟨⟨fun hall => ?_, fun hns hall => ?_⟩, fun hnone => ?_⟩
      · rw [if_pos hall] at hans
        exact refused_of_answers hordered hans
      · rw [if_neg (by rw [Bool.not_eq_false]; exact hall)] at hans
        have hf := (flight_staged (takenUp s h b) o h.p.val s.nextId).trans (flight_takenUp hordered h b)
        exact runs_of_startPasses hans hf (by rw [staged_takenUp]; rfl) ⟨fun _ => ⟨rfl, rfl⟩, rfl, rfl⟩ hns
          (by rw [subHasEngine_staged, subHasEngine_takenUp]; exact hall)
      · rw [show (rangeSubs w o.seqFirst o.seqCount).filter toOpen = [] from hnone] at hans
        exact sealedOpen_done hordered (windowFor_of_bound hw) hnone hans

end Dispatches

end Sys2Proof.Proofs.SealedStart
end

section
/-! SUPPORT. The commit of a submission's pass: it writes nothing, and the descriptor that waits for it goes on (R181). -/

namespace Sys2Proof.Proofs.SealedCommit

open Sys2Proof Sys2Proof.Machine
open Sys2Proof.Proofs.Writes Sys2Proof.Proofs.Starting Sys2Proof.Proofs.Passes Sys2Proof.Proofs.SealedWindows

/-! The pass that commits -/

theorem mem_of_runnable {f : InFlight} : ∀ (fs : List InFlight) (held : List Nat), f ∈ runnable held fs → f ∈ fs
  | [], _, h => h
  | g :: gs, held, h => by
    unfold runnable at h
    split at h
    · exact List.mem_cons_of_mem g (mem_of_runnable gs _ h)
    · rcases List.mem_cons.mp h with rfl | h
      · exact List.mem_cons_self
      · exact List.mem_cons_of_mem g (mem_of_runnable gs _ h)

/-- The descriptor of an engine's pass is in flight and not done. -/
theorem flying_of_firstPass {s : State} {l : Nat} {test : TileJob → Bool} {f : InFlight} {j : TileJob}
    (h : firstPass s l test = some (f, j)) : f ∈ s.inflight ∧ f.done = none := by
  obtain ⟨g, hg, hpass⟩ := List.exists_of_findSome?_eq_some h
  split at hpass
  · exact absurd hpass (by simp only [reduceCtorEq, not_false_eq_true])
  next hdone =>
    obtain ⟨i, -, hpair⟩ := Option.map_eq_some_iff.mp hpass
    obtain ⟨rfl, -⟩ := Prod.mk.inj hpair
    exact ⟨mem_of_runnable _ _ hg, by simpa only [Option.not_isSome_iff_eq_none] using hdone⟩

/-- A pass that has nothing to write: that of a submission (R181). -/
structure WritesNothing (j : TileJob) : Prop where
  bytes : j.bytes = []
  more : j.more = []
  tmeta : j.tmeta = none
  coord : j.coord = none
  maskNext : j.maskNext = none

theorem onlyUsage_writeJob {j : TileJob} (hj : WritesNothing j) (s : State) (p : Nat) : OnlyUsage p s (writeJob s p j) := by
  simp only [writeJob, TileJob.targets, hj.bytes, hj.more, hj.tmeta, List.map_nil, List.foldl_cons, List.foldl_nil, writeTarget]
  exact onlyUsage_writeMarked_nil s p _ _ _ _

theorem onlySlots_residentAfter {j : TileJob} (hj : WritesNothing j) (s : State) (p : Nat) : OnlySlots s (residentAfter s p j) := by
  have hdrop : j.targets.foldl (dropTarget p) s = s := by
    simp only [TileJob.targets, hj.bytes, hj.more, List.map_nil, List.foldl_cons, List.foldl_nil, dropTarget, dropResidentAt,
      List.length_nil, ne_eq, not_true_eq_false, and_false, if_false]
  unfold residentAfter
  rw [hdrop]
  dsimp only
  split
  · exact onlySlots_keepResident s _ p _ _
  · rfl

/-- The descriptor `f` once the pass of submission `n` has committed, with the passes `jobs` left. -/
def InFlight.took (f : InFlight) (n : Nat) (jobs : List TileJob) (k : Nat) : InFlight :=
  { f with jobs := jobs, committed := k, passed := f.passed ++ [n] }

/-- From `s` to `t` the pass of submission `n` has committed, and its descriptor has not gone on yet. -/
structure Committed (s : State) (f : InFlight) (n : Nat) (t : State) : Prop where
  flies : ∃ jobs k, flight t f.id = some (InFlight.took f n jobs k)
  bytes : SameBytes f.h.p.val s t
  store : StoreKept s t
  time : t.time = s.time
  others : OthersKept s t f.h.p.val
  own : part t f.h.p.val = { part s f.h.p.val with usage := (part t f.h.p.val).usage }

/-- The state in which a descriptor goes on after a commit. -/
def committing (s : State) (f : InFlight) (j : TileJob) (l : Nat) : State :=
  afterCommit (modFlight (residentAfter (writeJob s f.h.p.val j) f.h.p.val j) f.id (fun g =>
    { g with jobs := dropFirst (fun y => y.engine == l && y.passDone) g.jobs, committed := g.committed + bit j.last,
             saturated := g.saturated || j.targets.any (fun t => (t.2.2.map (fun m => m.saturated)).getD false) })) f j

theorem commitTile_eq {s : State} {l : Nat} {f : InFlight} {j : TileJob} (hfirst : firstPass s l (fun i => i.passDone) = some (f, j))
    (hl : j.engine = l) (hj : WritesNothing j) :
    commitTile s l = retryLandings f.h.p.val 256
      (resumeAll (resumeLanding (settlePasses (committing s f j l) f.id) f.h.p.val .submit) f.h.p.val) := by
  have hscaled : alreadyScaled s f.h.p.val j = false := by simp only [alreadyScaled, hj.coord]
  simp only [commitTile, hfirst, Option.filter_some, hl, beq_self_eq_true, if_true, hscaled, Bool.false_eq_true, if_false, committing]

theorem committed {s : State} {l n : Nat} {f : InFlight} {j : TileJob} (hordered : FlightsOrdered s) (hmem : f ∈ s.inflight)
    (hj : WritesNothing j) (hn : j.summands = [n]) (hbody : ∀ o, f.body ≠ .zipRecv o) : Committed s f n (committing s f j l) := by
  have hwrites := onlyUsage_writeJob hj s f.h.p.val
  have hslots := onlySlots_residentAfter hj (writeJob s f.h.p.val j) f.h.p.val
  have htargets : j.targets.any (fun t => (t.2.2.map (fun m => m.saturated)).getD false) = false := by
    simp only [TileJob.targets, hj.more, hj.tmeta, List.map_nil, List.any_cons, List.any_nil, Option.map_none, Option.getD_none,
      Bool.or_false]
  have hafter : ∀ u, afterCommit u f j = modFlight u f.id (fun g => { g with passed := g.passed ++ [n] }) := by
    intro u
    unfold afterCommit
    simp only [hj.coord, hj.maskNext, hn]
    split
    next hmask => exact nomatch hmask
    · rfl
  rw [committing, hafter, htargets, hslots]
  generalize writeJob s f.h.p.val j = W at hwrites
  refine ⟨⟨dropFirst (fun y => y.engine == l && y.passDone) f.jobs, f.committed + bit j.last, ?_⟩, ?_, ?_, ?_, ?_, ?_⟩
  · rw [flight_modFlight_same, flight_modFlight_same]
    · have hf : flight W f.id = some f := (hwrites.flight f.id).trans (flight_of_mem hordered hmem)
      have hf' : flight { W with slots := (residentAfter W f.h.p.val j).slots } f.id = some f := hf
      rw [hf']
      simp only [Option.map_some, InFlight.took, Bool.or_false]
    · exact fun _ => rfl
    · exact fun _ => rfl
  · exact hwrites.sameBytes.trans ⟨rfl, rfl, rfl, rfl, rfl⟩
  · exact storeKept_trans hwrites.storeKept ⟨fun _ => ⟨rfl, rfl⟩, rfl, rfl⟩
  · exact hwrites.time
  · exact hwrites.others
  · exact hwrites.own

theorem Committed.now {s t : State} {f : InFlight} {n : Nat} (h : Committed s f n t) : now t = now s := by
  simp only [Machine.now, h.time]

theorem Committed.windowFor {s t : State} {f : InFlight} {n : Nat} (h : Committed s f n t) (k : WinKind) (round : Nat) :
    windowFor (part t f.h.p.val) k round = windowFor (part s f.h.p.val) k round := by
  rw [h.own]
  cases k <;> rfl

theorem Committed.landedBytes {s t : State} {f : InFlight} {n : Nat} (h : Committed s f n t) (w : Window) (m off len : Nat) :
    landedBytes t f.h.p.val w m off len = landedBytes s f.h.p.val w m off len := h.bytes.pread_eq _ _

/-- A descriptor whose passes are submissions takes what has ended. -/
theorem settlePasses_running {t : State} {id : Nat} {g : InFlight} (hg : flight t id = some g) (hdone : g.done = none)
    (hphase : g.phase = .running) (hop : subPasses g.opcode = true) : settlePasses t id = runPassed t g := by
  simp only [settlePasses, hg, hdone, hphase, hop, Option.isSome_none, Bool.false_eq_true, if_false, if_true]

/-! A window whose numbered submission is changed -/

/-- The submission has a number of the range. -/
def numberIn (first count : Nat) (b : Submission) : Bool :=
  match b.number with
  | some n => decide (first ≤ n) && decide (n < first + count)
  | none => false

theorem rangeSubs_eq (w : Window) (first count : Nat) : rangeSubs w first count = w.subs.filter (numberIn first count) := rfl

section Split

variable {w y : Window} {b c : Submission} {n : Nat} {pre post : List Submission} {first count : Nat}

theorem numberIn_congr (hc : c.number = b.number) : numberIn first count c = numberIn first count b := by
  simp only [numberIn, hc]

/-- The submissions of a range lie around each one of them. -/
theorem rangeSubs_split (hsubs : w.subs = pre ++ b :: post) (hin : numberIn first count b = true) :
    rangeSubs w first count = pre.filter (numberIn first count) ++ b :: post.filter (numberIn first count) := by
  rw [rangeSubs_eq, hsubs, List.filter_append, List.filter_cons_of_pos hin]

theorem numberIn_of_mem (h : b ∈ rangeSubs w first count) : numberIn first count b = true := (List.mem_filter.mp h).2

theorem mem_rangeSubs_of_rest (hsubs : w.subs = pre ++ b :: post) {d : Submission} (hd : d ∈ pre ++ post)
    (hin : numberIn first count d = true) : d ∈ rangeSubs w first count := by
  rw [rangeSubs_eq, hsubs]
  refine List.mem_filter.mpr ⟨?_, hin⟩
  rcases List.mem_append.mp hd with hd | hd
  · exact List.mem_append_left _ hd
  · exact List.mem_append_right _ (List.mem_cons_of_mem b hd)

/-- What the other submissions and the changed one do not meet, none of the range meets. -/
theorem filter_rangeSubs_nil {test : Submission → Bool} (hsubs : w.subs = pre ++ b :: post) (hy : y.subs = pre ++ c :: post)
    (hc : test c = false) (hrest : ∀ d ∈ pre ++ post, d ∈ rangeSubs w first count → test d = false) :
    (rangeSubs y first count).filter test = [] := by
  rw [List.filter_eq_nil_iff]
  intro d hd
  rw [rangeSubs_eq, hy] at hd
  obtain ⟨hmem, hin⟩ := List.mem_filter.mp hd
  rw [Bool.not_eq_true]
  rcases List.mem_append.mp hmem with hpre | hmem
  · exact hrest d (List.mem_append_left _ hpre) (mem_rangeSubs_of_rest hsubs (List.mem_append_left _ hpre) hin)
  · rcases List.mem_cons.mp hmem with rfl | hpost
    · exact hc
    · exact hrest d (List.mem_append_right _ hpost) (mem_rangeSubs_of_rest hsubs (List.mem_append_right _ hpost) hin)

theorem map_numbered (F : Submission → Submission) (hb : b.number = some n) (hrest : ∀ d ∈ pre ++ post, d.number ≠ some n) :
    (pre ++ b :: post).map (fun d => if d.number = some n then F d else d) = pre ++ F b :: post := by
  have hkept : ∀ ds : List Submission, (∀ d ∈ ds, d ∈ pre ++ post) → ds.map (fun d => if d.number = some n then F d else d) = ds :=
    fun ds hds => (List.map_congr_left (fun d hd => if_neg (hrest d (hds d hd)))).trans (List.map_id' ds)
  rw [List.map_append, List.map_cons, if_pos hb, hkept pre (fun d hd => List.mem_append_left _ hd),
    hkept post (fun d hd => List.mem_append_right _ hd)]

end Split

/-- A window after its submission `n` has changed. -/
theorem windowOf_modSub {s : State} {p : Nat} {k : WinKind} {w : Window} {b : Submission} {n : Nat} {pre post : List Submission}
    (F : Submission → Submission) (hw : windowOf (part s p) k = some w) (hsubs : w.subs = pre ++ b :: post) (hb : b.number = some n)
    (hrest : ∀ d ∈ pre ++ post, d.number ≠ some n) :
    windowOf (part (modSub s p k n F) p) k = some { w with subs := pre ++ F b :: post } := by
  rw [modSub, windowOf_modWindow, hw, Option.map_some, hsubs, map_numbered F hb hrest]

theorem othersKept_modSub (s : State) (p : Nat) (k : WinKind) (n : Nat) (F : Submission → Submission) :
    OthersKept s (modSub s p k n F) p := othersKept_setWindow s p k _

end Sys2Proof.Proofs.SealedCommit
end

section
/-! SUPPORT. KEM_DECAP of submissions goes on after the commit of a submission's pass: it holds the submission's key (R51, R181). -/

namespace Sys2Proof.Proofs.SealedKeys

open Sys2Proof Sys2Proof.Machine
open Sys2Proof.Proofs.Writes Sys2Proof.Proofs.Starting Sys2Proof.Proofs.SealedWindows Sys2Proof.Proofs.SealedStart
open Sys2Proof.Proofs.SealedCommit

/-- It is the turn of submission `b`, numbered `n`, in a window `w`: its pass has committed for the descriptor `f`, from `s` to `t`. -/
structure Turn (s : State) (f : InFlight) (w : Window) (b : Submission) (n : Nat) (pre post : List Submission) (t : State) : Prop where
  committed : Committed s f n t
  notDone : f.done = none
  running : f.phase = .running
  kept : n ∉ f.dropped
  subs : w.subs = pre ++ b :: post
  number : b.number = some n
  rest : ∀ c ∈ pre ++ post, c.number ≠ some n
  accepted : b.verdict = some .accepted

/-- The descriptor `f` has ended at the present instant of `s` with a result. -/
def EndsWith (s : State) (f : InFlight) (u : State) (result : Nat) : Prop :=
  ∃ g d, flight u f.id = some g ∧ g.done = some d ∧ d.status = doneStatus f ∧ d.ft = now s ∧ d.result = result

theorem endsWith_finishRef {s W : State} {f : InFlight} {n k : Nat} {jobs : List TileJob}
    (hf : flight W f.id = some (InFlight.took f n jobs k)) (hnow : now W = now s) (result : Nat) :
    EndsWith s f (finishRef W f.id (doneStatus (InFlight.took f n jobs k)) result (InFlight.took f n jobs k).faultRef) result := by
  obtain ⟨g, hg, hdone⟩ := finishRef_completes hf (doneStatus (InFlight.took f n jobs k)) result (InFlight.took f n jobs k).faultRef
  exact ⟨g, _, hg, hdone, rfl, hnow, rfl⟩

section Turn

variable {s t : State} {f : InFlight} {w : Window} {b : Submission} {n : Nat} {pre post : List Submission}

theorem Turn.settles (h : Turn s f w b n pre post t) (hop : subPasses f.opcode = true) :
    ∃ jobs k, flight t f.id = some (InFlight.took f n jobs k) ∧ settlePasses t f.id = runPassed t (InFlight.took f n jobs k) := by
  obtain ⟨jobs, k, hf⟩ := h.committed.flies
  exact ⟨jobs, k, hf, settlePasses_running hf h.notDone h.running hop⟩

/-- The number of another submission of a range is not the one whose pass has committed. -/
theorem Turn.other_notPassed (h : Turn s f w b n pre post t) {first count : Nat} {c : Submission} (hc : c ∈ pre ++ post)
    (hin : numberIn first count c = true) (hpassed : c.number.getD 0 ∉ f.passed) : c.number.getD 0 ∉ f.passed ++ [n] := by
  obtain ⟨-, m, hm⟩ := mem_rangeSubs (mem_rangeSubs_of_rest h.subs hc hin)
  have hne := h.rest c hc
  rw [hm] at hne hpassed ⊢
  simp only [Option.getD_some] at hpassed ⊢
  rw [List.mem_append, List.mem_singleton, not_or]
  exact ⟨hpassed, fun hmn => hne (congrArg some hmn)⟩

theorem decapAll_append {p : Nat} {passed : List Nat} {w : Window} {s : State} (hw : windowOf (part s p) .submit = some w)
    (pre bs : List Submission) (h : ∀ c ∈ pre, toDecap c = true → c.number.getD 0 ∉ passed) :
    decapAll p passed (pre ++ bs) s = decapAll p passed bs s := by
  induction pre with
  | nil => rfl
  | cons c cs ih =>
    have hc : (toDecap c && passed.contains (c.number.getD 0)) = false := by
      by_contra hboth
      rw [Bool.not_eq_false, Bool.and_eq_true, List.contains_iff_mem] at hboth
      exact h c List.mem_cons_self hboth.1 hboth.2
    rw [List.cons_append, decapAll]
    simp only [hw, hc, Bool.false_and, Bool.false_eq_true, if_false]
    exact ih (fun d hd => h d (List.mem_cons_of_mem c hd))

/-- The submission once its key is held. -/
def withKey (s : State) (p : Nat) (w : Window) (b : Submission) : Submission :=
  { b with
    sharedKey := some (sealedKey "BA16/sealed/v1" (kemDecaps (part s p).dk (landedBytes s p w (b.number.getD 0) 64 1088))
      (landedBytes s p w (b.number.getD 0) 0 64))
    decapsulated := true }

variable {o : KemOps}

theorem Turn.decapAll_eq (h : Turn s f w b n pre post t) (hw : windowFor (part s f.h.p.val) .submit o.roundId = some w)
    (hin : b ∈ rangeSubs w o.seqFirst o.seqCount) (hnew : b.decapsulated = false)
    (hroom : contextKeys (part s f.h.p.val) w (n % (part s f.h.p.val).sleeveList.length) < 4096)
    (hothers : ∀ c ∈ pre ++ post, toDecap c = true → c.number.getD 0 ∉ f.passed) :
    decapAll f.h.p.val (f.passed ++ [n]) (rangeSubs w o.seqFirst o.seqCount) t = decapOne t f.h.p.val w b := by
  have hwt : windowOf (part t f.h.p.val) .submit = some w := windowOf_of_windowFor (by rw [h.committed.windowFor]; exact hw)
  have hskip : ∀ c ∈ pre ++ post, numberIn o.seqFirst o.seqCount c = true → toDecap c = true → c.number.getD 0 ∉ f.passed ++ [n] :=
    fun c hc hcin hto => h.other_notPassed hc hcin (hothers c hc hto)
  have hturn : (toDecap b && (f.passed ++ [n]).contains (b.number.getD 0) &&
      decide (contextKeys (part t f.h.p.val) w ((b.number.getD 0) % (part t f.h.p.val).sleeveList.length) < 4096)) = true := by
    have hkeys : contextKeys (part t f.h.p.val) w (n % (part t f.h.p.val).sleeveList.length) < 4096 := by
      rw [h.committed.own]
      exact hroom
    rw [h.number, Option.getD_some, decide_eq_true hkeys, toDecap, hnew, h.accepted, List.contains_iff_mem.mpr (by simp)]
    rfl
  rw [rangeSubs_split h.subs (numberIn_of_mem hin), decapAll_append hwt]
  · rw [decapAll]
    simp only [hwt, hturn, if_true]
    refine decapAll_skips _ (fun c hc hto => ?_)
    obtain ⟨hmem, hcin⟩ := List.mem_filter.mp hc
    exact hskip c (List.mem_append_right _ hmem) hcin hto
  · intro c hc hto
    obtain ⟨hmem, hcin⟩ := List.mem_filter.mp hc
    exact hskip c (List.mem_append_left _ hmem) hcin hto

/-- The window of the submissions once the key of `b` is held. -/
theorem Turn.windowFor_decapOne (h : Turn s f w b n pre post t) (hw : windowFor (part s f.h.p.val) .submit o.roundId = some w) :
    windowFor (part (decapOne t f.h.p.val w b) f.h.p.val) .submit o.roundId =
      some { w with subs := pre ++ withKey s f.h.p.val w b :: post } := by
  have hwt : windowOf (part t f.h.p.val) .submit = some w := windowOf_of_windowFor (by rw [h.committed.windowFor]; exact hw)
  have hround := roundId_of_windowFor hw
  refine windowFor_of_windowOf ?_ hround
  rw [decapOne, windowOf_modSub _ hwt h.subs (by rw [h.number]; rfl) (by rw [h.number]; exact h.rest)]
  rw [h.committed.landedBytes, h.committed.landedBytes, h.committed.own]
  rfl

theorem decapsulated_count (hsubs : w.subs = pre ++ b :: post) {first count : Nat} (hin : b ∈ rangeSubs w first count)
    (hnew : b.decapsulated = false) {c : Submission} (hc : c.decapsulated = true) (hcin : c.number = b.number) {v : Window}
    (hv : v.subs = pre ++ c :: post) :
    ((rangeSubs v first count).filter (fun y => y.decapsulated)).length =
      ((rangeSubs w first count).filter (fun y => y.decapsulated)).length + 1 := by
  have hb := numberIn_of_mem hin
  rw [rangeSubs_split hsubs hb, rangeSubs_split hv ((numberIn_congr hcin).trans hb)]
  simp only [List.filter_append, List.filter_cons, hnew, hc, if_true, Bool.false_eq_true, if_false, List.length_append, List.length_cons]
  omega

/-- KEM_DECAP of submissions holds the key of the one whose pass has committed. -/
theorem Turn.holdsKey (h : Turn s f w b n pre post t) (hop : subPasses f.opcode = true) (hbody : f.body = .kemSealed o)
    (hw : windowFor (part s f.h.p.val) .submit o.roundId = some w) (hin : b ∈ rangeSubs w o.seqFirst o.seqCount)
    (hnew : b.decapsulated = false)
    (hroom : contextKeys (part s f.h.p.val) w (n % (part s f.h.p.val).sleeveList.length) < 4096)
    (hothers : ∀ c ∈ pre ++ post, toDecap c = true → c.number.getD 0 ∉ f.passed) :
    let u := settlePasses t f.id
    OthersKept s u f.h.p.val ∧ StoreKept s u ∧
      (part u f.h.p.val).submit = some { w with subs := pre ++ withKey s f.h.p.val w b :: post } ∧
      ((∀ c ∈ pre ++ post, c ∈ rangeSubs w o.seqFirst o.seqCount → toDecap c = false) →
        EndsWith s f u (verdictWord (((rangeSubs w o.seqFirst o.seqCount).filter (fun y => y.decapsulated)).length + 1) 0)) := by
  intro u
  obtain ⟨jobs, k, hf, hsettle⟩ := h.settles hop
  have hwt : windowFor (part t f.h.p.val) .submit o.roundId = some w := by rw [h.committed.windowFor]; exact hw
  have hv := h.windowFor_decapOne hw
  have hrun : u = runDecap t f.id f.h o := by simp only [u, hsettle, runPassed, InFlight.took, hbody]
  have hu := hrun.trans (runDecap_to hwt hf (h.decapAll_eq hw hin hnew hroom hothers) hv)
  have hparts : u.parts = (decapOne t f.h.p.val w b).parts := by
    rw [hu]
    split <;> rfl
  have hstore : StoreKept t u := by
    rw [hu]
    split <;> exact ⟨fun _ => ⟨rfl, rfl⟩, rfl, rfl⟩
  refine ⟨?_, storeKept_trans h.committed.store hstore, ?_, fun hlast => ?_⟩
  · exact othersKept_trans h.committed.others (othersKept_trans (othersKept_modSub t _ _ _ _) (othersKept_of_parts hparts _))
  · rw [part_congr hparts]
    exact windowOf_of_windowFor hv
  · have hnone := filter_rangeSubs_nil (y := { w with subs := pre ++ withKey s f.h.p.val w b :: post })
      (c := withKey s f.h.p.val w b) h.subs rfl rfl hlast
    rw [hu, hnone, stillOpen, List.filter_nil, if_pos rfl, decapsulated_count (c := withKey s f.h.p.val w b) h.subs hin hnew rfl rfl rfl]
    exact endsWith_finishRef hf h.committed.now _

end Turn

end Sys2Proof.Proofs.SealedKeys
end

section
/-! SUPPORT. What opens in turn: KEM_DECAP opens and judges the bundle, SEALED_OPEN the submission, whose pass has committed, and each
reports its range when none of it is left (R45, R46, R105, R181, R183). -/

namespace Sys2Proof.Proofs.SealedTurns

open Sys2Proof Sys2Proof.Machine
open Sys2Proof.Proofs.Writes Sys2Proof.Proofs.Starting Sys2Proof.Proofs.SealedWindows Sys2Proof.Proofs.SealedStart
open Sys2Proof.Proofs.SealedCommit Sys2Proof.Proofs.SealedKeys

/-! What a report leaves of a window -/

/-- From `s` to `t` a window keeps its submissions and the partition its rounds; other partitions are as they were. -/
structure SameSubs (p : Nat) (k : WinKind) (s t : State) : Prop where
  others : OthersKept s t p
  rounds : (part t p).rounds = (part s p).rounds
  window : ∀ w, windowOf (part s p) k = some w → ∃ v, windowOf (part t p) k = some v ∧ v.subs = w.subs

theorem SameSubs.trans {p : Nat} {k : WinKind} {s t u : State} (h1 : SameSubs p k s t) (h2 : SameSubs p k t u) : SameSubs p k s u := by
  refine ⟨othersKept_trans h1.others h2.others, h2.rounds.trans h1.rounds, fun w hw => ?_⟩
  obtain ⟨v, hv, hvw⟩ := h1.window w hw
  obtain ⟨y, hy, hyv⟩ := h2.window v hv
  exact ⟨y, hy, hyv.trans hvw⟩

theorem sameSubs_of_parts {p : Nat} {k : WinKind} {s t : State} (h : t.parts = s.parts) : SameSubs p k s t :=
  ⟨othersKept_of_parts h p, by rw [part_congr h], fun w hw => ⟨w, by rw [part_congr h]; exact hw, rfl⟩⟩

theorem sameSubs_of_onlyWrites {p : Nat} {k : WinKind} {s t : State} (h : OnlyWrites p s t) : SameSubs p k s t := by
  refine ⟨h.others, by rw [h.own], fun w hw => ⟨w, ?_, rfl⟩⟩
  rw [h.own]
  cases k <;> exact hw

theorem sameSubs_releaseUses (s : State) (p : Nat) (k : WinKind) : SameSubs p k s (releaseUses s p k) := by
  refine ⟨othersKept_releaseUses s p k, releaseUses_rounds s p k, fun w hw => ?_⟩
  obtain ⟨v, hv, hsubs, -⟩ := releaseUses_window hw
  exact ⟨v, hv, hsubs⟩

/-! A slot becomes free (R196) -/

/-- What judging a submission and freeing its slot leave alone. -/
structure OnlyJudged (p : Nat) (s t : State) : Prop where
  inflight : t.inflight = s.inflight
  now : now t = now s
  others : OthersKept s t p
  rounds : (part t p).rounds = (part s p).rounds

theorem OnlyJudged.trans {p : Nat} {s t u : State} (h1 : OnlyJudged p s t) (h2 : OnlyJudged p t u) : OnlyJudged p s u :=
  ⟨h2.inflight.trans h1.inflight, h2.now.trans h1.now, othersKept_trans h1.others h2.others, h2.rounds.trans h1.rounds⟩

theorem onlyJudged_modSub (s : State) (p : Nat) (k : WinKind) (n : Nat) (F : Submission → Submission) :
    OnlyJudged p s (modSub s p k n F) := ⟨rfl, rfl, othersKept_modSub s p k n F, setWindow_rounds s p k _⟩

theorem onlyJudged_releaseUses (s : State) (p : Nat) (k : WinKind) : OnlyJudged p s (releaseUses s p k) :=
  ⟨releaseUses_inflight s p k, releaseUses_now s p k, othersKept_releaseUses s p k, releaseUses_rounds s p k⟩

theorem onlyJudged_freeSlot (s : State) (p : Nat) (k : WinKind) (n : Nat) (F : Submission → Submission) :
    OnlyJudged p s (freeSlot (modSub s p k n F) p k n) :=
  (onlyJudged_modSub s p k n F).trans ((onlyJudged_modSub _ p k n _).trans (onlyJudged_releaseUses _ p k))

/-- The submission `b` once it is judged and its slot is free. -/
def judgedBy (F : Submission → Submission) (b : Submission) : Submission := { F b with slotFree := true }

section Judged

variable {s : State} {p : Nat} {k : WinKind} {w : Window} {b : Submission} {n : Nat} {pre post : List Submission}
  {F : Submission → Submission}

/-- The window of a submission that is judged and whose slot is freed. -/
theorem windowOf_judged (hw : windowOf (part s p) k = some w) (hsubs : w.subs = pre ++ b :: post) (hb : b.number = some n)
    (hrest : ∀ d ∈ pre ++ post, d.number ≠ some n) (hF : (F b).number = some n) :
    ∃ v, windowOf (part (freeSlot (modSub s p k n F) p k n) p) k = some v ∧ v.subs = pre ++ judgedBy F b :: post ∧
      v.roundId = w.roundId :=
  releaseUses_window (windowOf_modSub _ (windowOf_modSub F hw hsubs hb hrest) rfl hF hrest)

theorem freeSlot_active (hw : windowOf (part s p) k = some w) (ha : w.active = true) :
    freeSlot s p k n = modSub s p k n (fun c => { c with slotFree := true }) := by
  refine releaseUses_active (w := { w with
    subs := w.subs.map (fun c => if c.number = some n then { c with slotFree := true } else c) }) ?_ ha
  rw [modSub, windowOf_modWindow, hw]
  rfl

end Judged

/-! Bundles -/

/-- A landed bundle's entries as its key opens them (R45). -/
def bundlePlain (s : State) (p : Nat) (w : Window) (n : Nat) : Option Bytes :=
  let header := landedBytes s p w n 0 64
  let count := field header 16 2
  gcmOpen (sealedKey "BA16/bundle/v1" (kemDecaps (part s p).dk (landedBytes s p w n 64 1088)) header) (zeros 12) header
    (landedBytes s p w n 1152 (40 * count)) (landedBytes s p w n (1152 + 40 * count) 16)

/-- The judgement of a landed bundle. -/
def bundleJudged (s : State) (p : Nat) (w : Window) (r : Round) (b : Submission) (n : Nat) : Verdict × List ShareEntry :=
  bundleVerdict r w b (bundlePlain s p w n) (field (landedBytes s p w n 0 64) 16 2)

/-- A bundle with its verdict. -/
def bundleFinal (v : Verdict) (c : Submission) : Submission := { c with verdict := some v, final := true, decapsulated := true }

/-- A round with the entries of one bundle more. -/
def withEntries (es : List ShareEntry) (r : Round) : Round := { r with entries := r.entries ++ es, bundleOpened := true }

theorem openBundle_eq {s : State} {p round : Nat} {w : Window} {r : Round} {b : Submission} {n : Nat}
    (hw : windowFor (part s p) .recover round = some w) (hr : roundOf (part s p) round = some r) (hb : b.number = some n)
    (hfinal : b.final = false) (haccepted : b.verdict = some .accepted) :
    openBundle s p round b =
      freeSlot (modSub (modRound s p round (withEntries (bundleJudged s p w r b n).2)) p .recover n
        (bundleFinal (bundleJudged s p w r b n).1)) p .recover n := by
  simp only [openBundle, hw, hr, hfinal, haccepted, bne_self_eq_false, Bool.or_self, Bool.false_eq_true, if_false, hb, Option.getD_some]
  rfl

theorem openBundles_append {p round : Nat} {f : InFlight} {s : State} (pre bs : List Submission)
    (h : ∀ c ∈ pre, toOpen c = true → c.number.getD 0 ∈ f.dropped) :
    openBundles p round f (pre ++ bs) s = openBundles p round f bs s := by
  induction pre with
  | nil => rfl
  | cons c cs ih =>
    have hc : (!toOpen c || f.dropped.contains (c.number.getD 0)) = true := by
      cases hto : toOpen c with
      | false => rfl
      | true => exact List.contains_iff_mem.mpr (h c List.mem_cons_self hto)
    rw [List.cons_append, openBundles, if_pos hc]
    exact ih (fun d hd => h d (List.mem_cons_of_mem c hd))

theorem roundOf_modRound {s : State} {p round : Nat} {r : Round} {F : Round → Round} (hF : ∀ y, (F y).roundId = y.roundId)
    (hr : roundOf (part s p) round = some r) : roundOf (part (modRound s p round F) p) round = some (F r) := by
  rw [modRound, part_modPart_same]
  unfold roundOf at hr ⊢
  dsimp only
  revert hr
  induction (part s p).rounds with
  | nil => exact fun h => absurd h (by simp only [List.find?_nil, reduceCtorEq, not_false_eq_true])
  | cons y ys ih =>
    intro hr
    by_cases hy : y.roundId = round
    · rw [List.find?_cons_of_pos (by simpa only [beq_iff_eq] using hy)] at hr
      rw [List.map_cons, if_pos hy, List.find?_cons_of_pos (by rw [hF]; simpa only [beq_iff_eq] using hy), Option.some.inj hr]
    · rw [List.find?_cons_of_neg (by simpa only [beq_iff_eq] using hy)] at hr
      rw [List.map_cons, if_neg hy, List.find?_cons_of_neg (by simpa only [beq_iff_eq] using hy)]
      exact ih hr

theorem windowOf_modRound (s : State) (p round : Nat) (F : Round → Round) (k : WinKind) :
    windowOf (part (modRound s p round F) p) k = windowOf (part s p) k := by
  rw [modRound, part_modPart_same]
  cases k <;> rfl

section Turn

variable {s t : State} {f : InFlight} {w : Window} {b : Submission} {n : Nat} {pre post : List Submission}

theorem bundleJudged_congr (h : Committed s f n t) (w : Window) (r : Round) (b : Submission) (m : Nat) :
    bundleJudged t f.h.p.val w r b m = bundleJudged s f.h.p.val w r b m := by
  have hdk : (part t f.h.p.val).dk = (part s f.h.p.val).dk := by rw [h.own]
  simp only [bundleJudged, bundlePlain, h.landedBytes, hdk]

/-- The bundle in turn, and no other, is opened. -/
theorem openBundles_inTurn (h : Turn s f w b n pre post t) {g : InFlight} {round first count : Nat}
    (hdropped : g.dropped = f.dropped) (hpassed : g.passed = f.passed ++ [n]) (hin : b ∈ rangeSubs w first count)
    (hfinal : b.final = false)
    (hpre : ∀ c ∈ pre, c ∈ rangeSubs w first count → toOpen c = true → c.number.getD 0 ∈ f.dropped)
    (hpost : ∀ c ∈ post, toOpen c = true → c.number.getD 0 ∉ f.passed) :
    openBundles f.h.p.val round g (rangeSubs w first count) t = openBundle t f.h.p.val round b := by
  have hb : toOpen b = true := by rw [toOpen, hfinal, h.accepted]; rfl
  rw [rangeSubs_split h.subs (numberIn_of_mem hin), openBundles_append]
  · rw [openBundles, if_neg, if_pos]
    · refine openBundles_skips _ (fun c hc hto => ?_)
      obtain ⟨hmem, hcin⟩ := List.mem_filter.mp hc
      rw [hpassed]
      exact h.other_notPassed (List.mem_append_right _ hmem) hcin (hpost c hmem hto)
    · rw [hpassed, h.number, List.contains_iff_mem]
      exact List.mem_append_right _ List.mem_cons_self
    · rw [hb, hdropped, h.number, Bool.not_true, Bool.false_or, List.contains_iff_mem]
      exact h.kept
  · intro c hc hto
    obtain ⟨hmem, hcin⟩ := List.mem_filter.mp hc
    rw [hdropped]
    exact hpre c hmem (mem_rangeSubs_of_rest h.subs (List.mem_append_left _ hmem) hcin) hto

/-- The range is reported where nothing of it is left to open. -/
theorem stillOpen_nil (h : Turn s f w b n pre post t) {v : Window} {c : Submission} (hv : v.subs = pre ++ c :: post)
    (hfinal : c.final = true) {first count : Nat} (g : InFlight)
    (hlast : ∀ d ∈ pre ++ post, d ∈ rangeSubs w first count → toOpen d = false) :
    stillOpen g ((rangeSubs v first count).filter toOpen) = [] := by
  rw [filter_rangeSubs_nil h.subs hv (by rw [toOpen, hfinal]; rfl) hlast, stillOpen, List.filter_nil]

/-- A descriptor that has judged the submission in turn, in `T`, reports its range from `W` where nothing of it is left. -/
theorem reports_inTurn (h : Turn s f w b n pre post t) {k : WinKind} {first count m : Nat} {jobs : List TileJob} {T W u : State}
    {x : Window} {c : Submission} (hx : windowOf (part T f.h.p.val) k = some x) (hsubs : x.subs = pre ++ c :: post)
    (hc : c.final = true) (hW : SameSubs f.h.p.val k T W) (hf : flight W f.id = some (InFlight.took f n jobs m))
    (hnow : now W = now s)
    (hu : u = if stillOpen (InFlight.took f n jobs m) ((rangeSubs x first count).filter toOpen) = [] then
        finishRef W f.id (doneStatus (InFlight.took f n jobs m)) (rangeVerdicts x first count) (InFlight.took f n jobs m).faultRef
      else T) :
    SameSubs f.h.p.val k T u ∧ ∃ y, windowOf (part u f.h.p.val) k = some y ∧ c ∈ y.subs ∧
      ((∀ d ∈ pre ++ post, d ∈ rangeSubs w first count → toOpen d = false) → EndsWith s f u (rangeVerdicts y first count)) := by
  have hsame : SameSubs f.h.p.val k T u := by
    rw [hu]
    split
    · exact hW.trans (sameSubs_of_parts rfl)
    · exact sameSubs_of_parts rfl
  obtain ⟨y, hy, hyx⟩ := hsame.window x hx
  refine ⟨hsame, y, hy, ?_, fun hlast => ?_⟩
  · rw [hyx, hsubs]
    exact List.mem_append_right _ List.mem_cons_self
  · rw [hu, if_pos (stillOpen_nil h hsubs hc _ hlast), rangeVerdicts_congr hyx]
    exact endsWith_finishRef hf hnow _

/-- KEM_DECAP of bundles opens and judges the one whose pass has committed. -/
theorem bundle_opens_inTurn (h : Turn s f w b n pre post t) {o : KemOps} {r : Round} (hop : subPasses f.opcode = true)
    (hbody : f.body = .kemBundle o) (hw : windowFor (part s f.h.p.val) .recover o.roundId = some w)
    (hr : roundOf (part s f.h.p.val) o.roundId = some r) (hin : b ∈ rangeSubs w o.seqFirst o.seqCount) (hfinal : b.final = false)
    (hpre : ∀ c ∈ pre, c ∈ rangeSubs w o.seqFirst o.seqCount → toOpen c = true → c.number.getD 0 ∈ f.dropped)
    (hpost : ∀ c ∈ post, toOpen c = true → c.number.getD 0 ∉ f.passed) :
    let u := settlePasses t f.id
    let v := bundleJudged s f.h.p.val w r b n
    OthersKept s u f.h.p.val ∧ roundOf (part u f.h.p.val) o.roundId = some (withEntries v.2 r) ∧
      ∃ y, (part u f.h.p.val).recover = some y ∧ judgedBy (bundleFinal v.1) b ∈ y.subs ∧
        ((∀ c ∈ pre ++ post, c ∈ rangeSubs w o.seqFirst o.seqCount → toOpen c = false) →
          EndsWith s f u (rangeVerdicts y o.seqFirst o.seqCount)) := by
  intro u v
  obtain ⟨jobs, m, hf, hsettle⟩ := h.settles hop
  have hwt : windowFor (part t f.h.p.val) .recover o.roundId = some w := by rw [h.committed.windowFor]; exact hw
  have hrt : roundOf (part t f.h.p.val) o.roundId = some r := by rw [h.committed.own]; exact hr
  -- The bundle in turn is opened and judged, in `R` for its round and in `T` for its window.
  have hopens := (openBundles_inTurn h (g := InFlight.took f n jobs m) (round := o.roundId) rfl rfl hin hfinal hpre hpost).trans
    (openBundle_eq hwt hrt h.number hfinal h.accepted)
  rw [bundleJudged_congr h.committed] at hopens
  let R := modRound t f.h.p.val o.roundId (withEntries v.2)
  let T := freeSlot (modSub R f.h.p.val .recover n (bundleFinal v.1)) f.h.p.val .recover n
  have hwR : windowOf (part R f.h.p.val) .recover = some w :=
    (windowOf_modRound t _ _ _ _).trans (windowOf_of_windowFor hwt)
  have hT : OnlyJudged f.h.p.val R T := onlyJudged_freeSlot R _ _ _ _
  obtain ⟨x, hx, hsubs, hround⟩ := windowOf_judged (F := bundleFinal v.1) hwR h.subs h.number h.rest h.number
  -- It may have been the last of its range.
  have hrun : u = runBundles t f.id f.h o := by simp only [u, hsettle, runPassed, InFlight.took, hbody]
  have hu := hrun.trans (runBundles_to hwt hf hopens (windowFor_of_windowOf hx (hround.trans (roundId_of_windowFor hw))))
  have hW : OnlyWrites f.h.p.val T (if o.resultAddr = 0 then T else writeRecords T f.h.p.val o.resultAddr x o.seqFirst o.seqCount) := by
    split
    · exact OnlyWrites.refl _ T
    · exact onlyWrites_writeRecords T _ _ _ _ _
  obtain ⟨hsame, hreport⟩ := reports_inTurn h hx hsubs rfl (sameSubs_of_onlyWrites hW)
    ((hW.flight f.id).trans ((flight_congr hT.inflight f.id).trans hf)) (hW.now.trans (hT.now.trans h.committed.now)) hu
  refine ⟨?_, ?_, hreport⟩
  · exact othersKept_trans (othersKept_trans h.committed.others (othersKept_modPart t _ _)) (othersKept_trans hT.others hsame.others)
  · rw [roundOf, hsame.rounds, hT.rounds]
    exact roundOf_modRound (F := withEntries v.2) (fun _ => rfl) hrt

end Turn

end Sys2Proof.Proofs.SealedTurns
end

section
/-! SUPPORT. SEALED_OPEN opens the submission in turn into its staging slot and judges it (R51, R183). -/

namespace Sys2Proof.Proofs.SealedItems

open Sys2Proof Sys2Proof.Machine
open Sys2Proof.Proofs.Writes Sys2Proof.Proofs.Starting Sys2Proof.Proofs.SealedWindows Sys2Proof.Proofs.SealedStart
open Sys2Proof.Proofs.SealedCommit Sys2Proof.Proofs.SealedKeys Sys2Proof.Proofs.SealedTurns

/-- A landed submission's plaintext as its key opens it (R51). -/
def submissionPlain (s : State) (p : Nat) (w : Window) (b : Submission) (n : Nat) : Option Bytes :=
  let size := (part s p).dimension * elemBytes (part s p).elemFormat
  gcmOpen (b.sharedKey.getD []) (zeros 12) (landedBytes s p w n 0 64) (landedBytes s p w n 1152 size)
    (landedBytes s p w n (1152 + size) 16)

/-- The first unit of the staging slot of number `n`. -/
def slotUnit (x : Partition) (w : Window) (n : Nat) : Nat := w.stageFirst.getD 0 + n % w.stageSlots * vectorUnits x

/-- The plaintext in its staging slot, under the pre-gate mark (R183). -/
def plainWritten (s : State) (p : Nat) (w : Window) (n : Nat) : Option Bytes → State
  | none => s
  | some d =>
    writeMarked (dropResident s p (slotUnit (part s p) w n) (vectorUnits (part s p))) p (pocketAddr (slotUnit (part s p) w n))
      (fit (8192 * vectorUnits (part s p)) d) { state := .plain, width := policyBits (part s p), mode := .sats, mark := true } true false

/-- The bytes of a submission are counted. -/
def submissionCounted (x : Partition) (u : Usage) : Usage :=
  { u with keystreamBytes := satAdd u.keystreamBytes (x.dimension * elemBytes x.elemFormat) }

/-- The plaintext in its staging slot, with its bytes counted. -/
def plainStaged (s : State) (p : Nat) (w : Window) (n : Nat) (plain : Option Bytes) : State :=
  modUsage (plainWritten s p w n plain) p (submissionCounted (part s p))

/-- A submission with its verdict: its key is erased, and it holds its staging slot where it is accepted. -/
def submissionFinal (v : Verdict) (slot : Nat) (c : Submission) : Submission :=
  { c with sharedKey := none, verdict := some v, final := true, stage := if v = .accepted then some slot else none }

/-- The verdict of a landed submission. -/
def submissionJudged (s : State) (p : Nat) (w : Window) (b : Submission) (n : Nat) : Verdict :=
  openVerdict (part s p) w b (submissionPlain s p w b n).isSome

theorem openSub_eq {s : State} {p round : Nat} {w : Window} {b : Submission} {n : Nat}
    (hw : windowFor (part s p) .submit round = some w) (hb : b.number = some n) :
    openSub s p round b =
      freeSlot (modSub (plainStaged s p w n (submissionPlain s p w b n)) p .submit n
        (submissionFinal (submissionJudged s p w b n) (n % w.stageSlots))) p .submit n := by
  simp only [openSub, hw, hb, Option.getD_some, plainStaged, submissionJudged, submissionPlain]
  generalize gcmOpen _ _ _ _ _ = plain
  cases plain <;> rfl

theorem onlyWrites_plainWritten (s : State) (p : Nat) (w : Window) (n : Nat) (plain : Option Bytes) :
    OnlyWrites p s (plainWritten s p w n plain) := by
  cases plain with
  | none => exact OnlyWrites.refl p s
  | some d => exact (onlyWrites_dropResident p s p _ _).trans (onlyWrites_writeMarked _ p _ _ _ _ _)

theorem onlyWrites_plainStaged (s : State) (p : Nat) (w : Window) (n : Nat) (plain : Option Bytes) :
    OnlyWrites p s (plainStaged s p w n plain) :=
  (onlyWrites_plainWritten s p w n plain).trans (onlyUsage_modUsage _ p _).toOnlyWrites

/-- Staging stores the plaintext's bytes. -/
theorem plainStaged_lining {p : Nat} {s t : State} (hst : SameBytes p s t) (w : Window) (n : Nat) (plain : Option Bytes) :
    (plainStaged t p w n plain).lining =
      ((plain.map (fun d => pwrite s p (pocketAddr (slotUnit (part t p) w n)) (fit (8192 * vectorUnits (part t p)) d))).getD s).lining := by
  rw [plainStaged, (onlyUsage_modUsage _ p _).lining]
  cases plain with
  | none => exact hst.lining
  | some d =>
    have hdrop := hst.trans (sameBytes_dropResident p t p (slotUnit (part t p) w n) (vectorUnits (part t p)))
    exact ((hdrop.pwrite_same _ _).trans (sameBytes_writeMarked _ p _ _ _ true false)).lining

theorem openAll_append {p round : Nat} {f : InFlight} {s : State} {w : Window} (hw : windowFor (part s p) .submit round = some w)
    (pre bs : List Submission) (h : ∀ c ∈ pre, toOpen c = true → c.number.getD 0 ∈ f.dropped) :
    openAll p round f (pre ++ bs) s = openAll p round f bs s := by
  induction pre with
  | nil => rfl
  | cons c cs ih =>
    have hc : (!toOpen c || f.dropped.contains (c.number.getD 0)) = true := by
      cases hto : toOpen c with
      | false => rfl
      | true => exact List.contains_iff_mem.mpr (h c List.mem_cons_self hto)
    rw [List.cons_append, openAll]
    simp only [hw, hc, if_true]
    exact ih (fun d hd => h d (List.mem_cons_of_mem c hd))

section Turn

variable {s t : State} {f : InFlight} {w : Window} {b : Submission} {n : Nat} {pre post : List Submission}

theorem submissionPlain_congr (h : Committed s f n t) (w : Window) (b : Submission) (m : Nat) :
    submissionPlain t f.h.p.val w b m = submissionPlain s f.h.p.val w b m := by
  have hsize : (part t f.h.p.val).dimension * elemBytes (part t f.h.p.val).elemFormat =
      (part s f.h.p.val).dimension * elemBytes (part s f.h.p.val).elemFormat := by
    rw [h.own]
    rfl
  simp only [submissionPlain, h.landedBytes, hsize]

theorem submissionJudged_congr (h : Committed s f n t) (w : Window) (b : Submission) (m : Nat) :
    submissionJudged t f.h.p.val w b m = submissionJudged s f.h.p.val w b m := by
  rw [submissionJudged, submissionPlain_congr h, h.own]
  rfl

theorem vectorUnits_congr (h : Committed s f n t) : vectorUnits (part t f.h.p.val) = vectorUnits (part s f.h.p.val) := by
  rw [h.own]
  rfl

/-- The submission in turn, and no other, is opened. -/
theorem openAll_inTurn (h : Turn s f w b n pre post t) {g : InFlight} {round first count : Nat}
    (hw : windowFor (part t f.h.p.val) .submit round = some w)
    (hdropped : g.dropped = f.dropped) (hpassed : g.passed = f.passed ++ [n]) (hin : b ∈ rangeSubs w first count)
    (hfinal : b.final = false) (hfree : stageFree w n = true)
    (hpre : ∀ c ∈ pre, c ∈ rangeSubs w first count → toOpen c = true → c.number.getD 0 ∈ f.dropped)
    (hpost : ∀ c ∈ post, toOpen c = true → c.number.getD 0 ∉ f.passed) :
    openAll f.h.p.val round g (rangeSubs w first count) t = openSub t f.h.p.val round b := by
  have hb : toOpen b = true := by rw [toOpen, hfinal, h.accepted]; rfl
  rw [rangeSubs_split h.subs (numberIn_of_mem hin), openAll_append hw]
  · rw [openAll]
    simp only [hw]
    rw [if_neg, if_pos]
    · refine openAll_skips _ (fun c hc hto => ?_)
      obtain ⟨hmem, hcin⟩ := List.mem_filter.mp hc
      rw [hpassed]
      exact h.other_notPassed (List.mem_append_right _ hmem) hcin (hpost c hmem hto)
    · rw [hpassed, h.number, Option.getD_some, hfree, Bool.and_true, List.contains_iff_mem]
      exact List.mem_append_right _ List.mem_cons_self
    · rw [hb, hdropped, h.number, Bool.not_true, Bool.false_or, List.contains_iff_mem]
      exact h.kept
  · intro c hc hto
    obtain ⟨hmem, hcin⟩ := List.mem_filter.mp hc
    rw [hdropped]
    exact hpre c hmem (mem_rangeSubs_of_rest h.subs (List.mem_append_left _ hmem) hcin) hto

/-- A range with a submission still to open is not reported. -/
theorem stillOpen_ne_nil {v : Window} {c d : Submission} (hv : v.subs = pre ++ c :: post) (hd : d ∈ post)
    {first count : Nat} (hin : d ∈ rangeSubs w first count) (hto : toOpen d = true) (hlost : d.number.getD 0 ∉ f.dropped)
    {g : InFlight} (hg : g.dropped = f.dropped) : stillOpen g ((rangeSubs v first count).filter toOpen) ≠ [] := by
  refine List.ne_nil_of_mem (a := d) (List.mem_filter.mpr ⟨List.mem_filter.mpr ⟨?_, hto⟩, ?_⟩)
  · exact mem_rangeSubs_of_rest hv (List.mem_append_right _ hd) (numberIn_of_mem hin)
  · rw [hg, Bool.not_eq_true', Bool.eq_false_iff, ne_eq, List.contains_iff_mem]
    exact hlost

/-- SEALED_OPEN opens and judges the submission whose pass has committed. -/
theorem submission_opens_inTurn (h : Turn s f w b n pre post t) {o : SealedOps} (hop : subPasses f.opcode = true)
    (hbody : f.body = .sealedOpen o) (hw : windowFor (part s f.h.p.val) .submit o.roundId = some w)
    (hin : b ∈ rangeSubs w o.seqFirst o.seqCount) (hfinal : b.final = false) (hfree : stageFree w n = true)
    (hpre : ∀ c ∈ pre, c ∈ rangeSubs w o.seqFirst o.seqCount → toOpen c = true → c.number.getD 0 ∈ f.dropped)
    (hpost : ∀ c ∈ post, toOpen c = true → c.number.getD 0 ∉ f.passed) :
    let u := settlePasses t f.id
    let x := part s f.h.p.val
    let plain := submissionPlain s f.h.p.val w b n
    OthersKept s u f.h.p.val ∧
      (w.active = true → (∃ c ∈ post, c ∈ rangeSubs w o.seqFirst o.seqCount ∧ toOpen c = true ∧ c.number.getD 0 ∉ f.dropped) →
        u.lining = ((plain.map (fun d =>
          pwrite s f.h.p.val (pocketAddr (slotUnit x w n)) (fit (8192 * vectorUnits x) d))).getD s).lining) ∧
      ∃ y, (part u f.h.p.val).submit = some y ∧
        judgedBy (submissionFinal (submissionJudged s f.h.p.val w b n) (n % w.stageSlots)) b ∈ y.subs ∧
        ((∀ c ∈ pre ++ post, c ∈ rangeSubs w o.seqFirst o.seqCount → toOpen c = false) →
          EndsWith s f u (rangeVerdicts y o.seqFirst o.seqCount)) := by
  intro u x plain
  obtain ⟨jobs, m, hf, hsettle⟩ := h.settles hop
  have hwt : windowFor (part t f.h.p.val) .submit o.roundId = some w := by rw [h.committed.windowFor]; exact hw
  -- The submission in turn is staged in `R`, and judged in `T`.
  have hopens := (openAll_inTurn h (g := InFlight.took f n jobs m) hwt rfl rfl hin hfinal hfree hpre hpost).trans
    (openSub_eq hwt h.number)
  rw [submissionJudged_congr h.committed, submissionPlain_congr h.committed] at hopens
  let F := submissionFinal (submissionJudged s f.h.p.val w b n) (n % w.stageSlots)
  let R := plainStaged t f.h.p.val w n plain
  let T := freeSlot (modSub R f.h.p.val .submit n F) f.h.p.val .submit n
  have hR : OnlyWrites f.h.p.val t R := onlyWrites_plainStaged t _ w n plain
  have hwR : windowOf (part R f.h.p.val) .submit = some w := by
    rw [hR.own]
    exact windowOf_of_windowFor hwt
  have hT : OnlyJudged f.h.p.val R T := onlyJudged_freeSlot R _ _ _ _
  obtain ⟨v, hv, hsubs, hround⟩ := windowOf_judged (F := F) hwR h.subs h.number h.rest h.number
  -- It may have been the last of its range.
  have hrun : u = runOpen t f.id f.h o := by simp only [u, hsettle, runPassed, InFlight.took, hbody]
  have hu := hrun.trans (runOpen_to hwt hf hopens (windowFor_of_windowOf hv (hround.trans (roundId_of_windowFor hw))))
  have hrecords : OnlyWrites f.h.p.val T (writeRecords T f.h.p.val o.resultAddr v o.seqFirst o.seqCount) :=
    onlyWrites_writeRecords T _ _ _ _ _
  have hfT : flight T f.id = some (InFlight.took f n jobs m) :=
    (flight_congr hT.inflight f.id).trans ((hR.flight f.id).trans hf)
  have hnT : now T = now s := hT.now.trans (hR.now.trans h.committed.now)
  obtain ⟨hsame, hreport⟩ := reports_inTurn h hv hsubs rfl ((sameSubs_of_onlyWrites hrecords).trans (sameSubs_releaseUses _ _ _))
    ((flight_congr (releaseUses_inflight _ _ _) f.id).trans ((hrecords.flight f.id).trans hfT))
    ((releaseUses_now _ _ _).trans (hrecords.now.trans hnT)) hu
  refine ⟨?_, fun hactive hleft => ?_, hreport⟩
  · exact othersKept_trans (othersKept_trans h.committed.others hR.others) (othersKept_trans hT.others hsame.others)
  · obtain ⟨d, hd, hdin, hto, hlost⟩ := hleft
    rw [hu, if_neg (stillOpen_ne_nil (f := f) (g := InFlight.took f n jobs m) hsubs hd hdin hto hlost rfl)]
    have hkept : T.lining = R.lining := by
      rw [show T = _ from freeSlot_active (windowOf_modSub F hwR h.subs h.number h.rest) hactive]
      rfl
    refine hkept.trans ((plainStaged_lining h.committed.bytes w n plain).trans ?_)
    rw [slotUnit, vectorUnits_congr h.committed]
    rfl

end Turn

end Sys2Proof.Proofs.SealedItems
end

section
/-! OBLIGATION O34, from how the sealed descriptors start and how they go on after a commit. -/

namespace Sys2Proof.Proofs.SealedItemsOpened

open Sys2Proof Sys2Proof.Machine
open Sys2Proof.Proofs.SealedStart Sys2Proof.Proofs.SealedCommit Sys2Proof.Proofs.SealedKeys Sys2Proof.Proofs.SealedTurns
open Sys2Proof.Proofs.SealedItems Sys2Proof.Proofs.Starting Sys2Proof.Proofs.SealedWindows

/-! Before a sealed descriptor has work -/

section Dispatched

variable {s : State} {h : DescHdr} {c : Instr} {b : DescBody}

theorem waits_for_wires (hordered : FlightsOrdered s) (hc : exec c s = .next (dispatchDesc h b s)) (hd : Dispatches s h b)
    (hop : opcodeOf b = 0x50 ∨ opcodeOf b = 0x51) (hkeys : keysReady s (part s h.p.val) = false) : WaitsIn s c h b .keyWait := by
  have hans := answers_startBody hc hd
  rw [startBody_sealed hop, if_neg (Bool.eq_false_iff.mp hkeys)] at hans
  exact waitsIn_of_answers hordered hans

/-- With its wires loaded, a sealed descriptor whose work refuses it is refused. -/
theorem refused_by_body (hordered : FlightsOrdered s) (hc : exec c s = .next (dispatchDesc h b s)) (hd : Dispatches s h b)
    (hop : opcodeOf b = 0x50 ∨ opcodeOf b = 0x51) (hkeys : keysReady s (part s h.p.val) = true)
    (hbody : runBody (takenUp s h b) s.nextId h b = refuse (takenUp s h b) s.nextId stPolicy) : Refused s c h b stPolicy := by
  have hans := answers_startBody hc hd
  rw [startBody_sealed hop, if_pos hkeys, hbody] at hans
  exact refused_of_answers hordered hans

end Dispatched

/-- Settles O34: the descriptors start as their window, keys and table let them, and after the commit of a pass they take up what it
has found. -/
theorem sealedItemsAreOpened : Obligations.SealedItemsAreOpened := by
  refine ⟨fun s h hordered => ⟨fun o hd => ⟨?_, ?_, ?_⟩, fun o hd => ⟨?_, ?_, ?_⟩, fun o hd => ⟨?_, ?_, ?_⟩⟩, ?_⟩
  · exact waits_for_wires hordered rfl hd (.inr rfl)
  · intro hkeys hnone
    refine refused_by_body hordered rfl hd (.inr rfl) hkeys ?_
    simp only [runBody, startKemSealed, takenUp_part, hnone]
  · exact fun w hkeys hw => kemSealed_starts hordered hd hkeys hw
  · exact waits_for_wires hordered rfl hd (.inr rfl)
  · intro hkeys hnone
    refine refused_by_body hordered rfl hd (.inr rfl) hkeys ?_
    simp only [runBody, startKemBundle, takenUp_part]
    split
    · rfl
    next w hw =>
      rcases hnone with hnone | hnone
      · exact absurd (hw.symm.trans hnone) (Option.some_ne_none w)
      · rw [hnone, Option.isNone_none, if_pos rfl]
  · exact fun w g hkeys hw hg => kemBundle_starts hordered hd hkeys hw hg
  · exact waits_for_wires hordered rfl hd (.inl rfl)
  · intro hkeys hnone
    refine refused_by_body hordered rfl hd (.inl rfl) hkeys ?_
    simp only [runBody, startSealedOpen, takenUp_part, hnone]
  · exact fun w hkeys hw => sealedOpen_starts hordered hd hkeys hw
  · intro s l f j w b n pre post hordered hfirst hengine hphase hbytes hmore htmeta hcoord hmask hsummands hkept hsubs hnumber hrest
      haccepted p x commits ends inRange
    obtain ⟨hmem, hdone⟩ := flying_of_firstPass hfirst
    have hj : WritesNothing j := ⟨hbytes, hmore, htmeta, hcoord, hmask⟩
    have hturn : (∀ o, f.body ≠ .zipRecv o) → Turn s f w b n pre post (committing s f j l.val) := fun hbody =>
      ⟨committed hordered hmem hj hsummands hbody, hdone, hphase, hkept, hsubs, hnumber, hrest, haccepted⟩
    have hanswers : Answers (.tileCommit l) s _ := congrArg Host.Outcome.next (commitTile_eq hfirst hengine hj)
    generalize committing s f j l.val = t at hturn hanswers
    refine ⟨fun o hbody hop hw hin hnew hroom hothers => ?_, fun o r hbody hop hw hr hin hfinal hpre hpost => ?_,
      fun o hbody hop hw hin hfinal hfree hpre hpost => ?_⟩
    · have h := hturn (fun z hz => nomatch hbody.symm.trans hz)
      obtain ⟨hkeptOthers, hstore, hv, hends⟩ := h.holdsKey (by rw [hop]; rfl) hbody hw hin hnew hroom hothers
      refine ⟨_, _, withKey s p w b, ⟨hanswers, hkeptOthers⟩, hv, List.mem_append_right _ List.mem_cons_self, hnumber, rfl, ?_, hstore,
        hends⟩
      rw [withKey, hnumber]
      rfl
    · intro header count opened v
      have hjudged : bundleJudged s p w r b n = v := rfl
      have h := hturn (fun z hz => nomatch hbody.symm.trans hz)
      obtain ⟨hkeptOthers, hround, y, hy, hc, hends⟩ :=
        bundle_opens_inTurn h (by rw [hop]; rfl) hbody hw hr hin hfinal hpre hpost
      rw [hjudged] at hround hc
      exact ⟨_, y, _, _, ⟨hanswers, hkeptOthers⟩, hy, hc, hnumber, rfl, rfl, rfl, hround, rfl, rfl, hends⟩
    · intro size header opened v unit
      have hplain : submissionPlain s p w b n = opened := rfl
      have hjudged : submissionJudged s p w b n = v := by rw [submissionJudged, hplain]
      have hunit : slotUnit (part s p) w n = unit := rfl
      have h := hturn (fun z hz => nomatch hbody.symm.trans hz)
      obtain ⟨hkeptOthers, hlining, y, hy, hc, hends⟩ :=
        submission_opens_inTurn h (by rw [hop]; rfl) hbody hw hin hfinal hfree hpre hpost
      rw [hjudged] at hc
      clear_value v
      rw [hplain, hunit] at hlining
      exact ⟨_, y, _, ⟨hanswers, hkeptOthers⟩, hy, hc, hnumber, rfl, rfl, rfl, rfl, rfl, hlining, hends⟩

end Sys2Proof.Proofs.SealedItemsOpened
end

section
/-! SUPPORT. The passes that a dispatched descriptor gets, pass by pass: an idle engine that begins one sets its begin instant, and nothing
else of it (R78, R79). -/

namespace Sys2Proof.Proofs.TilePasses

open Sys2Proof Sys2Proof.Machine
open Sys2Proof.Proofs.Writes Sys2Proof.Proofs.Starting Sys2Proof.Proofs.Passes

/-! Dispatch -/

/-- A descriptor that passes its tests has its operands within their ranges (R215, step 4). -/
theorem rangeOk_of_dispatches {s : State} {h : DescHdr} {b : DescBody} (hd : Dispatches s h b) :
    rangeOk (part s h.p.val) b = true := by
  obtain ⟨-, -, hruns⟩ := hd
  by_contra hno
  simp only [Bool.not_eq_true] at hno
  simp only [decideDesc, hno, Bool.not_false, if_true] at hruns
  repeat' split at hruns
  all_goals cases hruns

/-- A dispatched descriptor that needs no key does its work at once. -/
theorem answers_runBody {c : Instr} {s : State} {h : DescHdr} {b : DescBody} (hc : exec c s = .next (dispatchDesc h b s))
    (hd : Dispatches s h b) (hkey : ∀ x, needsKey x (opcodeOf b) = false) :
    Answers c s (runBody (takenUp s h b) s.nextId h b) := by
  have hans := answers_startBody hc hd
  simpa only [startBody, hkey, Bool.false_and, Bool.false_eq_true, if_false] using hans

/-! Passes that begin -/

/-- The pass `k` is `j`, begun at another instant perhaps; one that has ended is as it was. -/
def Begun (j k : TileJob) : Prop := k = { j with startFt := k.startFt } ∧ (j.passDone = true → k = j)

theorem Begun.refl (j : TileJob) : Begun j j := ⟨rfl, fun _ => rfl⟩

theorem Begun.trans {i j k : TileJob} (h1 : Begun i j) (h2 : Begun j k) : Begun i k := by
  obtain ⟨hj, hjDone⟩ := h1
  obtain ⟨hk, hkDone⟩ := h2
  refine ⟨by rw [hk, hj], fun hdone => ?_⟩
  have hji : j = i := hjDone hdone
  rw [hkDone (hji ▸ hdone), hji]

theorem begun_refl_list (js : List TileJob) : List.Forall₂ Begun js js := List.forall₂_same.mpr (fun j _ => Begun.refl j)

theorem begun_trans_list {is js ks : List TileJob} (h1 : List.Forall₂ Begun is js) (h2 : List.Forall₂ Begun js ks) :
    List.Forall₂ Begun is ks := by
  induction h1 generalizing ks with
  | nil => exact h2
  | cons hij _ ih =>
    cases h2 with
    | cons hjk hrest => exact .cons (hij.trans hjk) (ih hrest)

/-- A pass at a place of the list is the one given there. -/
theorem exists_of_begun {js ks : List TileJob} (hb : List.Forall₂ Begun js ks) {i : Nat} {k : TileJob} (hk : ks[i]? = some k) :
    ∃ j, js[i]? = some j ∧ Begun j k := by
  induction hb generalizing i with
  | nil => cases hk
  | cons hjk _ ih =>
    cases i with
    | zero => exact ⟨_, rfl, Option.some.inj hk ▸ hjk⟩
    | succ i => exact ih hk

theorem begun_of_exists {js ks : List TileJob} (hb : List.Forall₂ Begun js ks) {i : Nat} {j : TileJob} (hj : js[i]? = some j) :
    ∃ k, ks[i]? = some k ∧ Begun j k := by
  induction hb generalizing i with
  | nil => cases hj
  | cons hjk _ ih =>
    cases i with
    | zero => exact ⟨_, rfl, Option.some.inj hj ▸ hjk⟩
    | succ i => exact ih hj

/-- The descriptor `g` is `f` with some of its passes begun. -/
def SamePasses (f g : InFlight) : Prop :=
  g = { f with jobs := g.jobs, skipped := g.skipped } ∧ List.Forall₂ Begun f.jobs g.jobs

theorem SamePasses.refl (f : InFlight) : SamePasses f f := ⟨rfl, begun_refl_list f.jobs⟩

theorem SamePasses.trans {f g k : InFlight} (h1 : SamePasses f g) (h2 : SamePasses g k) : SamePasses f k := by
  obtain ⟨hg, hgw⟩ := h1
  obtain ⟨hk, hkw⟩ := h2
  refine ⟨?_, begun_trans_list hgw hkw⟩
  rw [hk, hg]

theorem begun_modFirst {test : TileJob → Bool} (htest : ∀ j, test j = true → j.passDone = false) (ft : Nat) :
    ∀ js, List.Forall₂ Begun js (modFirst test (fun j => { j with startFt := ft }) js)
  | [] => .nil
  | j :: js => by
    unfold modFirst
    split
    next hj => exact .cons ⟨rfl, fun hdone => absurd hdone (by simp only [htest j hj, Bool.false_eq_true, not_false_eq_true])⟩ (begun_refl_list js)
    · exact .cons (Begun.refl j) (begun_modFirst htest ft js)

/-- What beginning an engine's next pass does to a descriptor: at most the pass of its group's first engine begins now. -/
theorem flight_beginNext_cases {s : State} {id : Nat} {f : InFlight} (hf : flight s id = some f) (l : Nat) :
    (∃ k, flight (beginNext s l) id = some { f with skipped := k }) ∨
      ∃ d j k, firstPass s l (fun i => !i.passDone) = some (d, j) ∧ d.id = id ∧
        flight (beginNext s l) id = some { f with
          skipped := k
          jobs := modFirst (fun i => i.engine == j.engine && !i.passDone) (fun i => { i with startFt := now s }) f.jobs } := by
  unfold beginNext
  split
  · exact .inl ⟨f.skipped, hf⟩
  next d j hfirst =>
    split
    · dsimp only
      have hload : flight (j.engines.foldl (loadPass d j) s) id = some f := by
        rw [onlySlots_foldl (onlySlots_loadPass d j) j.engines s]
        exact hf
      generalize j.engines.foldl (loadPass d j) s = s1 at hload
      rw [flight_noteIssue, modPass, flight_modFlight, flight_modFlight, hload]
      · by_cases hd : d.id = id
        · simp only [if_pos hd]
          exact .inr ⟨d, j, _, hfirst, hd, rfl⟩
        · simp only [if_neg hd]
          exact .inl ⟨f.skipped, rfl⟩
      · exact fun _ => rfl
      · exact fun _ => rfl
    · exact .inl ⟨f.skipped, hf⟩

theorem samePasses_beginNext {s : State} {id : Nat} {f : InFlight} (hf : flight s id = some f) (l : Nat) :
    ∃ g, flight (beginNext s l) id = some g ∧ SamePasses f g := by
  rcases flight_beginNext_cases hf l with ⟨k, hk⟩ | ⟨d, j, k, -, -, hk⟩
  · exact ⟨_, hk, rfl, begun_refl_list f.jobs⟩
  · refine ⟨_, hk, rfl, begun_modFirst (fun i hi => ?_) _ _⟩
    simp only [Bool.and_eq_true, Bool.not_eq_true'] at hi
    exact hi.2

theorem samePasses_beginAll {id : Nat} (ls : List Nat) : ∀ {s : State} {f : InFlight}, flight s id = some f →
    ∃ g, flight (ls.foldl beginNext s) id = some g ∧ SamePasses f g := by
  induction ls with
  | nil => exact fun {s f} hf => ⟨f, hf, SamePasses.refl f⟩
  | cons l ls ih =>
    intro s f hf
    obtain ⟨g, hg, hfg⟩ := samePasses_beginNext hf l
    obtain ⟨k, hk, hgk⟩ := ih hg
    exact ⟨k, hk, hfg.trans hgk⟩

/-! A descriptor gets its passes -/

/-- The descriptor runs with these passes, but for the instants at which engines have begun them. -/
theorem flight_startJobs {u : State} {id : Nat} {f : InFlight} (hf : flight u id = some f) {jobs : List TileJob} (hjobs : jobs ≠ [])
    (result : Nat) :
    ∃ g, flight (startJobs u id jobs result) id = some g ∧ SamePasses { f with jobs := jobs, phase := .running, result := result } g := by
  have hgiven : flight (setJobs (modFlight u id (fun f => { f with result := result })) id jobs stOk result) id =
      some { f with jobs := jobs, phase := .running, result := result } := by
    rw [setJobs, if_neg (by rw [List.isEmpty_iff]; exact hjobs), flight_modFlight_same, flight_modFlight_same, hf]
    · rfl
    · exact fun _ => rfl
    · exact fun _ => rfl
  exact samePasses_beginAll _ hgiven

/-- A command starts these passes of a descriptor: it answers a state in which the descriptor runs them, and beside the descriptors in
flight the Cuffs, the issue record and the debug counters alone have moved. -/
def StartsPasses (c : Instr) (s : State) (h : DescHdr) (b : DescBody) (jobs : List TileJob) : Prop :=
  ∃ (t : State) (js : List TileJob), Answers c s t ∧ Flies s t h b .running js ∧ OnlyPasses s t ∧ StoreKept s t ∧
    List.Forall₂ Begun jobs js

/-- A descriptor in flight that gets passes. -/
theorem flies_startJobs {s u : State} {h : DescHdr} {b : DescBody} {f : InFlight} (hf : flight u s.nextId = some f) (hh : f.h = h)
    (hb : f.body = b) (hdone : f.done = none) {jobs : List TileJob} (hjobs : jobs ≠ []) (result : Nat) :
    ∃ js, Flies s (startJobs u s.nextId jobs result) h b .running js ∧ List.Forall₂ Begun jobs js := by
  obtain ⟨g, hg, hsame, hbegun⟩ := flight_startJobs hf hjobs result
  refine ⟨g.jobs, ⟨g, hg, ?_, ?_, ?_, ?_, rfl⟩, hbegun⟩ <;> rw [hsame]
  · exact hh
  · exact hb
  · exact hdone

theorem startsPasses_of_answers {c : Instr} {s u : State} {h : DescHdr} {b : DescBody} {f : InFlight} {jobs : List TileJob} {r : Nat}
    (hans : Answers c s (startJobs u s.nextId jobs r)) (hf : flight u s.nextId = some f) (hh : f.h = h) (hb : f.body = b)
    (hdone : f.done = none) (hu : OnlyPasses s u) (hjobs : jobs ≠ []) : StartsPasses c s h b jobs := by
  obtain ⟨js, hflies, hbegun⟩ := flies_startJobs hf hh hb hdone hjobs r
  have honly : OnlyPasses s (startJobs u s.nextId jobs r) := onlyPasses_trans hu (startJobs_runs hf hjobs r).2
  exact ⟨_, js, hans, hflies, honly, storeKept_of_onlyPasses honly, hbegun⟩

theorem startsPasses_takenUp {c : Instr} {s : State} {h : DescHdr} {b : DescBody} {jobs : List TileJob} {r : Nat}
    (hordered : FlightsOrdered s) (hans : Answers c s (startJobs (takenUp s h b) s.nextId jobs r)) (hjobs : jobs ≠ []) :
    StartsPasses c s h b jobs :=
  startsPasses_of_answers hans (flight_takenUp hordered h b) rfl rfl rfl (onlyPasses_of_onlyFlights (onlyFlights_takenUp s h b)) hjobs

/-- A descriptor that notes what it skips before it gets its passes. -/
theorem startsPasses_skipping {c : Instr} {s : State} {h : DescHdr} {b : DescBody} {jobs : List TileJob} {k r : Nat}
    (hordered : FlightsOrdered s)
    (hans : Answers c s (startJobs (modFlight (takenUp s h b) s.nextId (fun f => { f with skipped := k })) s.nextId jobs r))
    (hjobs : jobs ≠ []) : StartsPasses c s h b jobs := by
  refine startsPasses_of_answers (f := { takenFlight s h b (reserves s h b) with skipped := k }) hans ?_ rfl rfl rfl ?_ hjobs
  · rw [flight_modFlight_same, flight_takenUp hordered]
    · rfl
    · exact fun _ => rfl
  · refine onlyPasses_trans (onlyPasses_of_onlyFlights (onlyFlights_takenUp s h b)) rfl

/-! Passes over the tiles of a range -/

theorem tilePlan_getElem? (s : State) (p first units count split i : Nat) (hi : i < count) :
    ∃ e, (tilePlan s p first units count split)[i]? = some (i, first + i * units, e) := by
  simp only [tilePlan, List.getElem?_map, List.getElem?_range hi, Option.map_some]
  exact ⟨_, rfl⟩

@[simp] theorem tilePlan_length (s : State) (p first units count split : Nat) :
    (tilePlan s p first units count split).length = count := by
  simp only [tilePlan, List.length_map, List.length_range]

/-- A pass of a plan is that of its tile. -/
theorem exists_of_getElem?_plan {α : Type} {s : State} {p first units count split i : Nat} {F : Nat × Nat × Nat → α} {x : α}
    (hx : ((tilePlan s p first units count split).map F)[i]? = some x) : ∃ e, i < count ∧ x = F (i, first + i * units, e) := by
  have hi : i < count := by
    obtain ⟨hlt, -⟩ := List.getElem?_eq_some_iff.mp hx
    simpa only [List.length_map, tilePlan_length] using hlt
  obtain ⟨e, he⟩ := tilePlan_getElem? s p first units count split i hi
  rw [List.getElem?_map, he, Option.map_some, Option.some.injEq] at hx
  exact ⟨e, hi, hx.symm⟩

/-- What holds of every tile of a plan. -/
theorem forall_mem_tilePlan {s : State} {p first units count split : Nat} {P : Nat × Nat × Nat → Prop}
    (hP : ∀ i e, i < count → P (i, first + i * units, e)) : ∀ t ∈ tilePlan s p first units count split, P t := by
  intro t ht
  obtain ⟨i, hi, rfl⟩ := List.mem_map.mp ht
  exact hP i _ (List.mem_range.mp hi)

theorem ne_nil_of_length_pos {α : Type} {l : List α} {n : Nat} (hlen : l.length = n) (hn : 0 < n) : l ≠ [] :=
  List.ne_nil_of_length_pos (hlen ▸ hn)

end Sys2Proof.Proofs.TilePasses
end

section
/-! O21: ACCUMULATE. -/

namespace Sys2Proof.Proofs.Accumulating

open Sys2Proof Sys2Proof.Machine
open Sys2Proof.Proofs.Writes Sys2Proof.Proofs.Starting Sys2Proof.Proofs.Passes Sys2Proof.Proofs.SealedStart Sys2Proof.Proofs.TilePasses

/-- An ACCUMULATE names at least one tile (Table 3.4). -/
theorem tileCount_pos_of_accRange {x : Partition} {o : AccOps} (hr : accRange x o = true) : 0 < o.tileCount := by
  simp only [accRange, Bool.and_eq_true, decide_eq_true_eq] at hr
  omega

section Dispatches

variable {s : State} {h : DescHdr} {o : AccOps}

theorem answers_accumulate (hd : Dispatches s h (.accumulate o)) :
    Answers (.accumulate h o) s (startAccumulate (takenUp s h (.accumulate o)) s.nextId h o) :=
  answers_runBody rfl hd (fun _ => rfl)

theorem tileCount_pos (hd : Dispatches s h (.accumulate o)) : 0 < o.tileCount :=
  tileCount_pos_of_accRange (rangeOk_of_dispatches hd)

end Dispatches

/-! The checks -/

/-- The tiles an ACCUMULATE adds to are in the state it asks for (R75, R79). -/
def tilesAgree (s : State) (p : Nat) (o : AccOps) (w : Option Window) : Prop :=
  bvBit o.flags 0 = false → ∀ i, i < o.tileCount →
    accTileOk (unitMeta s p (tileIx o.dstTile + i * tileUnits (widthBits o.width))) o w = true

theorem tileCheck_of_tilesAgree {s : State} {p : Nat} {o : AccOps} {w : Option Window} (hok : tilesAgree s p o w) :
    (!bvBit o.flags 0 && !((List.range o.tileCount).map (fun i =>
      unitMeta s p (tileIx o.dstTile + i * tileUnits (widthBits o.width)))).all (fun m => accTileOk m o w)) = false := by
  rw [Bool.and_eq_false_iff, Bool.not_eq_false', Bool.not_eq_false', List.all_map, List.all_eq_true]
  cases hinit : bvBit o.flags 0 with
  | true => exact .inl rfl
  | false => exact .inr (fun i hi => hok hinit i (List.mem_range.mp hi))

/-- The window an ACCUMULATE of kind 0 takes its summands from. -/
def sourceWindow (x : Partition) (round : Nat) : Option Window := (windowFor x .submit round).filter Window.readable

section Checks

variable {s : State} {id : Nat} {h : DescHdr} {o : AccOps}

theorem startAccumulate_list (hkind : o.srcKind = 1) (hok : tilesAgree s h.p.val o none)
    (hplan : planOk s h.p.val (tileIx o.dstTile) (tileUnits (widthBits o.width)) o.tileCount o.splitWays = true) :
    startAccumulate s id h o = accList s id h o := by
  simp only [startAccumulate, hkind, one_ne_zero, false_and, if_false, tileCheck_of_tilesAgree hok, Bool.false_eq_true, hplan,
    Bool.not_true]

theorem startAccumulate_noWindow (hkind : o.srcKind = 0) (hnone : sourceWindow (part s h.p.val) o.src = none) :
    startAccumulate s id h o = refuse s id stPolicy := by
  simp only [sourceWindow] at hnone
  simp only [startAccumulate, hkind, if_true, hnone, Option.isNone_none, and_self]

theorem startAccumulate_window {w : Window} (hkind : o.srcKind = 0) (hw : sourceWindow (part s h.p.val) o.src = some w)
    (hok : tilesAgree s h.p.val o (some w))
    (hplan : planOk s h.p.val (tileIx o.dstTile) (tileUnits (widthBits o.width)) o.tileCount o.splitWays = true) :
    startAccumulate s id h o = if rangeReady w o.first o.count then accWindow s id h o w else waitIn s id .numbers := by
  simp only [sourceWindow] at hw
  simp only [startAccumulate, hkind, if_true, hw, Option.isNone_some, Bool.false_eq_true, and_false, if_false,
    tileCheck_of_tilesAgree hok, hplan, Bool.not_true]

end Checks

/-! A list of summands -/

/-- A tile to which the pass of the tag has been committed already (R75). -/
def passedTile (s : State) (p : Nat) (o : AccOps) (u : Nat) : Bool :=
  (unitMeta s p u).state == .plain && (unitMeta s p u).passTag == o.first && (unitMeta s p u).width == widthBits o.width

/-- The pass that folds a list's summands into the tile of a plan (R74). -/
def listJob (s : State) (h : DescHdr) (o : AccOps) (t : Nat × Nat × Nat) : TileJob :=
  let p := h.p.val
  let bits := widthBits o.width
  let sb := widthBits o.srcWidth
  let md := modeOf o.mode
  let init := bvBit o.flags 0
  let addrs := listAddrs s p o.src o.count
  let m := unitMeta s p t.2.1
  let at_ := fun a => a + (o.coordTile + t.1) * 512 * sb
  let vals := addrs.map (fun a => (elems (sb / 8) (pread s p (at_ a) (512 * sb))).map (sourceElem md o.modulus sb))
  let marks := addrs.map (fun a => marksOf s p (at_ a) (512 * sb))
  let start := if init then zeroTile else tileInts md bits (readTile s p t.2.1 bits)
  let r := splitFold md bits o.modulus o.splitWays start vals
  let nm : TileMeta :=
    { state := .plain, width := bits, mode := md, modulus := o.modulus, passTag := o.first,
      count := (if init then 0 else m.count) + vals.length, saturated := r.2 || (!init && m.saturated),
      mark := marks.any (fun k => k.1) || (!init && m.mark), model := marks.any (fun k => k.2) || (!init && m.model),
      chain := if init then .none else m.chain, chainDigest := if init then [] else m.chainDigest }
  { tileJob s t.2.2 t.2.1 (intBytes bits r.1) nm with item := t.1, group := groupRest s t.2.2 o.splitWays }

/-- The plan of an ACCUMULATE (R79). -/
def accPlan (s : State) (p : Nat) (o : AccOps) : List (Nat × Nat × Nat) :=
  tilePlan s p (tileIx o.dstTile) (tileUnits (widthBits o.width)) o.tileCount o.splitWays

theorem accList_eq (s : State) (id : Nat) (h : DescHdr) (o : AccOps) :
    accList s id h o =
      startJobs (modFlight s id (fun f =>
          { f with skipped := o.count * ((accPlan s h.p.val o).filter (fun t => passedTile s h.p.val o t.2.1)).length })) id
        (((accPlan s h.p.val o).filter (fun t => !passedTile s h.p.val o t.2.1)).map (listJob s h o))
        (resultWord 0 0 (o.count * ((accPlan s h.p.val o).filter (fun t => passedTile s h.p.val o t.2.1)).length)) := rfl

/-- Where no tile carries the pass's tag, every tile of the plan gets its pass. -/
theorem accPlan_unpassed {s : State} {p : Nat} {o : AccOps}
    (hnew : ∀ i, i < o.tileCount → passedTile s p o (tileIx o.dstTile + i * tileUnits (widthBits o.width)) = false) :
    (accPlan s p o).filter (fun t => !passedTile s p o t.2.1) = accPlan s p o :=
  List.filter_eq_self.mpr (forall_mem_tilePlan (fun i e hi => by rw [hnew i hi]; rfl))

theorem passedTile_eq_false {s : State} {p : Nat} {o : AccOps} {u : Nat}
    (h : (unitMeta s p u).state ≠ .plain ∨ (unitMeta s p u).passTag ≠ o.first ∨ (unitMeta s p u).width ≠ widthBits o.width) :
    passedTile s p o u = false := by
  rw [passedTile, Bool.and_eq_false_iff, Bool.and_eq_false_iff]
  simp only [beq_eq_false_iff_ne]
  tauto

theorem accList_starts {s : State} {h : DescHdr} {o : AccOps} (hordered : FlightsOrdered s) (hd : Dispatches s h (.accumulate o))
    (hstart : startAccumulate (takenUp s h (.accumulate o)) s.nextId h o = accList (takenUp s h (.accumulate o)) s.nextId h o)
    (hnew : ∀ i, i < o.tileCount → passedTile (takenUp s h (.accumulate o)) h.p.val o
      (tileIx o.dstTile + i * tileUnits (widthBits o.width)) = false) :
    StartsPasses (.accumulate h o) s h (.accumulate o)
      ((accPlan (takenUp s h (.accumulate o)) h.p.val o).map (listJob (takenUp s h (.accumulate o)) h o)) := by
  have hans := answers_accumulate hd
  rw [hstart, accList_eq, accPlan_unpassed hnew] at hans
  refine startsPasses_skipping hordered hans (ne_nil_of_length_pos ?_ (tileCount_pos hd))
  rw [List.length_map, accPlan, tilePlan_length]

/-! A window's summands -/

/-- The accepted submissions of the range that a tile takes, from its own next number on (R75). -/
def windowUse (s : State) (p : Nat) (o : AccOps) (w : Window) (u : Nat) : List Submission :=
  (acceptedRange w o.first o.count).filter (fun b =>
    decide ((if bvBit o.flags 0 then o.first else (unitMeta s p u).seqNext) ≤ b.number.getD 0))

/-- The pass that folds them into the tile of a plan (R74). -/
def windowJob (s : State) (h : DescHdr) (o : AccOps) (w : Window) (t : Nat × Nat × Nat) : TileJob :=
  let p := h.p.val
  let bits := widthBits o.width
  let md := modeOf o.mode
  let init := bvBit o.flags 0
  let m := unitMeta s p t.2.1
  let use := windowUse s p o w t.2.1
  let vals := use.map (fun b =>
    (windowElems s p w b (o.coordTile + t.1)).map (sourceElem md o.modulus (widthBits o.srcWidth)))
  let start := if init then zeroTile else tileInts md bits (readTile s p t.2.1 bits)
  let r := splitFold md bits o.modulus o.splitWays start vals
  let endSeq := o.first + o.count
  let nm : TileMeta :=
    { state := .round, width := bits, mode := md, modulus := o.modulus, roundId := o.src,
      seqNext := if init then endSeq else max m.seqNext endSeq, passTag := 0,
      count := (if init then 0 else m.count) + use.length, saturated := r.2 || (!init && m.saturated),
      mark := true, model := !init && m.model, chain := if init then .none else m.chain,
      chainDigest := if init then [] else m.chainDigest }
  { tileJob s t.2.2 t.2.1 (intBytes bits r.1) nm with
      coord := some (o.coordTile + t.1), summands := use.map (fun b => b.number.getD 0), item := t.1,
      group := groupRest s t.2.2 o.splitWays }

/-- What a window's passes leave out. -/
def windowSkips (s : State) (p : Nat) (o : AccOps) (w : Window) : Nat :=
  ((accPlan s p o).map (fun t => (acceptedRange w o.first o.count).length - (windowUse s p o w t.2.1).length)).sum

theorem accWindow_eq {s : State} {h : DescHdr} {o : AccOps} {w : Window} (id : Nat)
    (hready : (part s h.p.val).regime = 3 → ∀ b ∈ acceptedRange w o.first o.count, sealedReady (part s h.p.val) b = true) :
    accWindow s id h o w =
      startJobs (modFlight s id (fun f => { f with skipped := windowSkips s h.p.val o w })) id
        ((accPlan s h.p.val o).map (windowJob s h o w)) (resultWord 0 0 (windowSkips s h.p.val o w)) := by
  have hopen : ¬ ((part s h.p.val).regime = 3 ∧
      (acceptedRange w o.first o.count).any (fun b => !sealedReady (part s h.p.val) b) = true) := by
    rintro ⟨hregime, hany⟩
    obtain ⟨b, hb, hno⟩ := List.any_eq_true.mp hany
    rw [hready hregime b hb] at hno
    exact absurd hno (by decide)
  simp only [accWindow, if_neg hopen, List.map_map]
  rfl

theorem accWindow_starts {s : State} {h : DescHdr} {o : AccOps} {w : Window} (hordered : FlightsOrdered s)
    (hd : Dispatches s h (.accumulate o))
    (hstart : startAccumulate (takenUp s h (.accumulate o)) s.nextId h o = accWindow (takenUp s h (.accumulate o)) s.nextId h o w)
    (hready : (part s h.p.val).regime = 3 → ∀ b ∈ acceptedRange w o.first o.count, sealedReady (part s h.p.val) b = true) :
    StartsPasses (.accumulate h o) s h (.accumulate o)
      ((accPlan (takenUp s h (.accumulate o)) h.p.val o).map (windowJob (takenUp s h (.accumulate o)) h o w)) := by
  have hans := answers_accumulate hd
  rw [hstart, accWindow_eq _ (by rw [takenUp_part]; exact hready)] at hans
  refine startsPasses_skipping hordered hans (ne_nil_of_length_pos ?_ (tileCount_pos hd))
  rw [List.length_map, accPlan, tilePlan_length]

/-! The obligation -/

/-- Settles O21: each tile's pass is the fold that `listJob` or `windowJob` computes for its place in the plan. -/
theorem accumulateFoldsSummands : Obligations.AccumulateFoldsSummands := by
  constructor
  · intro s h o hordered hd hkind p s1 bits sb md init unit at_ addrs fold hok hplan hnew
    obtain ⟨t, jobs, hans, hflies, honly, hstore, hbegun⟩ := accList_starts hordered hd
      (startAccumulate_list hkind hok hplan) (fun i hi => passedTile_eq_false (hnew i hi))
    refine ⟨t, jobs, hans, hflies, honly, hstore, ?_, fun i j hj => ?_⟩
    · rw [← hbegun.length_eq, List.length_map, accPlan, tilePlan_length]
    · obtain ⟨k, hk, hjk, -⟩ := exists_of_begun hbegun hj
      obtain ⟨e, -, rfl⟩ := exists_of_getElem?_plan hk
      rw [hjk]
      refine ⟨rfl, rfl, rfl, _, rfl, rfl, rfl, rfl, rfl, ?_, rfl, ?_⟩
      · simp only [List.length_map]
        rfl
      · simp only [List.any_map]
        rfl
  · intro s h o hordered hd hkind p s1 bits md init unit found use fold
    have hans := answers_accumulate hd
    have hfound : sourceWindow (part (takenUp s h (.accumulate o)) h.p.val) o.src = found := by rw [takenUp_part]; rfl
    constructor
    · intro hnone
      rw [startAccumulate_noWindow hkind (hfound.trans hnone)] at hans
      obtain ⟨u, hu, hends, honly, -⟩ := refused_of_answers hordered hans
      exact ⟨u, hu, hends, honly⟩
    · intro w hw hok hplan
      have hstart := startAccumulate_window (id := s.nextId) hkind (hfound.trans hw) hok hplan
      constructor
      · intro hwait
        rw [hstart, if_neg (by rw [hwait]; decide)] at hans
        obtain ⟨u, hu, hflies, honly, -⟩ := waitsIn_of_answers hordered hans
        exact ⟨u, hu, hflies, honly⟩
      · intro hrange hready
        rw [if_pos hrange] at hstart
        obtain ⟨t, jobs, hans, hflies, honly, hstore, hbegun⟩ := accWindow_starts hordered hd hstart hready
        refine ⟨t, jobs, hans, hflies, honly, hstore, ?_, fun i j hj => ?_⟩
        · rw [← hbegun.length_eq, List.length_map, accPlan, tilePlan_length]
        · obtain ⟨k, hk, hjk, -⟩ := exists_of_begun hbegun hj
          obtain ⟨e, -, rfl⟩ := exists_of_getElem?_plan hk
          rw [hjk]
          exact ⟨rfl, rfl, _, rfl, rfl, rfl, rfl, rfl, rfl⟩

end Sys2Proof.Proofs.Accumulating
end

section
/-! O22: ACC_DRAIN. -/

namespace Sys2Proof.Proofs.Draining

open Sys2Proof Sys2Proof.Machine
open Sys2Proof.Proofs.Writes Sys2Proof.Proofs.Starting Sys2Proof.Proofs.Passes Sys2Proof.Proofs.SealedStart Sys2Proof.Proofs.TilePasses

/-- The tiles of output that an ACC_DRAIN's elements fill (R82). -/
def drainTiles (o : DrainOps) : Nat := (o.elemCount + 4095) / 4096

/-- The fused steps that the operands of an ACC_DRAIN ask for (R57). -/
def drainFused (o : DrainOps) : Fused :=
  { opt := o.flags.toNat, scale := o.scale.toNat, bias := o.bias.toNat, activation := o.activation,
    theta := o.actParam.toNat, fmt := o.outFormat }

/-- The plan of an ACC_DRAIN over its source tiles (R79). -/
def drainPlan (s : State) (p : Nat) (o : DrainOps) : List (Nat × Nat × Nat) :=
  tilePlan s p (tileIx o.srcTile) (tileUnits (rangeWidth s p (tileIx o.srcTile))) (drainTiles o) 1

/-- The pass that stores the drained words of the source tile of a plan. -/
def drainJob (s : State) (p : Nat) (o : DrainOps) (t : Nat × Nat × Nat) : TileJob :=
  let w := rangeWidth s p (tileIx o.srcTile)
  let ob := formatBytes o.outFormat (w / 8)
  let m := unitMeta s p t.2.1
  let vs := (readTile s p t.2.1 w).take (min 4096 (o.elemCount - 4096 * t.1))
  let bs := packElems ob (drainWords s (drainFused o) (if (part s p).regime = 3 then o.fracBits else 0) m vs)
  let nm : TileMeta :=
    { state := .plain, width := max 16 (8 * ob), mode := if o.outFormat = 0 then m.mode else .mod2k,
      modulus := if o.outFormat = 0 then m.modulus else 0, saturated := m.saturated, mark := m.mark, model := m.model }
  if bvBit o.flags 3 then { byteJob s t.2.2 (o.dst + 4096 * ob * t.1) bs m.mark m.model with item := t.1 }
  else { tileJob s t.2.2 (tileIx o.dst + drainUnits s p o * t.1) bs nm with item := t.1 }

theorem startDrain_eq {s : State} (id : Nat) {h : DescHdr} {o : DrainOps}
    (hplan : planOk s h.p.val (tileIx o.srcTile) (tileUnits (rangeWidth s h.p.val (tileIx o.srcTile))) (drainTiles o) 1 = true) :
    startDrain s id h o = startJobs (spendFree s) id ((drainPlan s h.p.val o).map (drainJob s h.p.val o)) 0 := by
  rw [drainTiles] at hplan
  simp only [startDrain, hplan, Bool.not_true, Bool.false_eq_true, if_false]
  rfl

theorem storeKept_spendFree (s : State) : StoreKept s (spendFree s) := ⟨fun _ => ⟨rfl, rfl⟩, rfl, rfl⟩

section Dispatches

variable {s : State} {h : DescHdr} {o : DrainOps}

theorem answers_drain (hd : Dispatches s h (.accDrain o))
    (hplan : planOk (takenUp s h (.accDrain o)) h.p.val (tileIx o.srcTile)
      (tileUnits (rangeWidth (takenUp s h (.accDrain o)) h.p.val (tileIx o.srcTile))) (drainTiles o) 1 = true) :
    Answers (.accDrain h o) s (startJobs (spendFree (takenUp s h (.accDrain o))) s.nextId
      ((drainPlan (takenUp s h (.accDrain o)) h.p.val o).map (drainJob (takenUp s h (.accDrain o)) h.p.val o)) 0) := by
  have hans : Answers (.accDrain h o) s (startDrain (takenUp s h (.accDrain o)) s.nextId h o) := answers_runBody rfl hd (fun _ => rfl)
  rwa [startDrain_eq s.nextId hplan] at hans

/-- With no element to drain there is no pass, and the descriptor is done. -/
theorem startJobs_nil (u : State) (id result : Nat) :
    startJobs u id [] result = finish (modFlight u id (fun f => { f with result := result })) id stOk result := rfl

theorem flight_drained (hordered : FlightsOrdered s) :
    flight (spendFree (takenUp s h (.accDrain o))) s.nextId = some (takenFlight s h (.accDrain o) (reserves s h (.accDrain o))) :=
  flight_takenUp hordered h (.accDrain o)

theorem ends_without_passes (hordered : FlightsOrdered s) :
    Ends s (startJobs (spendFree (takenUp s h (.accDrain o))) s.nextId [] 0) h (.accDrain o) stOk 0 ∧
      StoreKept s (startJobs (spendFree (takenUp s h (.accDrain o))) s.nextId [] 0) := by
  rw [startJobs_nil]
  constructor
  · refine ends_finish (f := { takenFlight s h (.accDrain o) (reserves s h (.accDrain o)) with result := 0 }) stOk 0 ?_ rfl rfl
      (takenUp_now s h (.accDrain o))
    rw [flight_modFlight_same, flight_drained hordered]
    · rfl
    · exact fun _ => rfl
  · exact storeKept_trans (onlyFlights_takenUp s h (.accDrain o)).store ⟨fun _ => ⟨rfl, rfl⟩, rfl, rfl⟩

/-- Taking up the descriptor and spending a free value may come in either order. -/
theorem onlyPasses_spendFree_takenUp : OnlyPasses (spendFree s) (spendFree (takenUp s h (.accDrain o))) := by
  rw [takenUp_only]
  rfl

end Dispatches

/-- Settles O22: each output tile's pass is the one `drainJob` computes for its place in the plan of the source tiles. -/
theorem drainStoresFusedWords : Obligations.DrainStoresFusedWords := by
  intro s h o hordered hd p s1 w n ob unit k hplan
  have hans := answers_drain hd hplan
  constructor
  · intro hzero
    have hnone : drainPlan (takenUp s h (.accDrain o)) h.p.val o = [] :=
      List.eq_nil_of_length_eq_zero (by rw [drainPlan, tilePlan_length, drainTiles, hzero])
    rw [hnone, List.map_nil] at hans
    exact ⟨_, hans, ends_without_passes hordered⟩
  · intro hpos
    have hcount : 0 < drainTiles o := by
      simp only [drainTiles]
      omega
    have hjobs : (drainPlan (takenUp s h (.accDrain o)) h.p.val o).map (drainJob (takenUp s h (.accDrain o)) h.p.val o) ≠ [] :=
      ne_nil_of_length_pos (by rw [List.length_map, drainPlan, tilePlan_length]) hcount
    have hflight := flight_drained (h := h) (o := o) hordered
    obtain ⟨js, hflies, hbegun⟩ := flies_startJobs hflight rfl rfl rfl hjobs 0
    have honly := onlyPasses_trans onlyPasses_spendFree_takenUp (startJobs_runs hflight hjobs 0).2
    refine ⟨_, js, hans, hflies, storeKept_trans (storeKept_spendFree s) (storeKept_of_onlyPasses honly), honly, ?_, ?_⟩
    · rw [← hbegun.length_eq, List.length_map, drainPlan, tilePlan_length]
      rfl
    · intro i j hj
      obtain ⟨x, hx, hjx, -⟩ := exists_of_begun hbegun hj
      obtain ⟨e, -, rfl⟩ := exists_of_getElem?_plan hx
      rw [hjx, drainJob]
      have hregime : (part (takenUp s h (.accDrain o)) h.p.val).regime = (part s p).regime := by rw [takenUp_part]
      dsimp only
      rw [hregime]
      by_cases hdram : bvBit o.flags 3 = true
      · rw [if_pos hdram, if_pos hdram]
        exact ⟨rfl, rfl, rfl, rfl⟩
      · rw [if_neg hdram, if_neg hdram]
        exact ⟨rfl, rfl, rfl, rfl⟩

end Sys2Proof.Proofs.Draining
end

section
/-! SUPPORT. STATS as it is dispatched: its summands, and the passes of each sub-operation (R84, R85). -/

namespace Sys2Proof.Proofs.Statistics

open Sys2Proof Sys2Proof.Machine
open Sys2Proof.Proofs.Writes Sys2Proof.Proofs.Starting Sys2Proof.Proofs.Passes Sys2Proof.Proofs.TilePasses

/-! The summands -/

/-- The window a STATS takes its summands from. -/
def statsWindow (x : Partition) (o : StatsOps) : Option Window :=
  if o.srcKind = 0 then (windowFor x .submit o.src).filter Window.readable else none

/-- The accepted submissions of its range. -/
def statsSubs (x : Partition) (o : StatsOps) : List Submission :=
  ((statsWindow x o).map (fun w => acceptedRange w o.first o.count)).getD []

/-- How many summands it has. -/
def statsCount (x : Partition) (o : StatsOps) : Nat := if o.srcKind = 0 then (statsSubs x o).length else o.count

/-- Summands from a window are there: its range is decided, and each is opened and clipped (R79). -/
def SummandsReady (x : Partition) (o : StatsOps) : Prop :=
  o.srcKind = 0 → ∃ w, statsWindow x o = some w ∧ rangeReady w o.first o.count = true ∧
    ∀ b ∈ statsSubs x o, sealedReady x b = true

section Checks

variable {s : State} {id : Nat} {h : DescHdr} {o : StatsOps}

/-- The checks of a window's summands pass. -/
theorem windowChecks_pass {x : Partition} {from_ : Bool} (hready : SummandsReady x o) :
    (from_ && o.srcKind == 0 && (statsWindow x o).isNone) = false ∧
      (from_ && o.srcKind == 0 && !((statsWindow x o).map (fun w => rangeReady w o.first o.count)).getD true) = false ∧
      (from_ && o.srcKind == 0 && (statsSubs x o).any (fun b => !sealedReady x b)) = false := by
  by_cases hkind : o.srcKind = 0
  · obtain ⟨w, hw, hrange, hsealed⟩ := hready hkind
    have hopen : (statsSubs x o).any (fun b => !sealedReady x b) = false := by
      rw [List.any_eq_false]
      intro b hb
      rw [hsealed b hb]
      decide
    simp only [hw, Option.isNone_some, Option.map_some, Option.getD_some, hrange, hopen, Bool.not_true, Bool.and_false, and_self]
  · have hno : (o.srcKind == 0) = false := beq_eq_false_iff_ne.mpr hkind
    simp only [hno, Bool.and_false, Bool.false_and, and_self]

theorem startStats_sumsq (hready : SummandsReady (part s h.p.val) o) :
    startStats .sumsq s id h o = statsSums s id h o (statsWindow (part s h.p.val) o) (statsCount (part s h.p.val) o) := by
  obtain ⟨hwindow, hrange, hsealed⟩ := windowChecks_pass (from_ := true) hready
  simp only [statsSubs, statsWindow] at hwindow hrange hsealed
  simp only [startStats, startStatsAt, beq_self_eq_true, Bool.true_or, hwindow, hrange, hsealed, Bool.false_eq_true, if_false]
  rfl

theorem startStats_moments (hready : SummandsReady (part s h.p.val) o) (hinit : bvBit o.flags 0 = true)
    (hplan : planOk s h.p.val (tileIx o.tileA) 4 o.tileCount 1 = true) :
    startStats .moments s id h o = statsMoments 0 s id h o (statsWindow (part s h.p.val) o) (statsCount (part s h.p.val) o) := by
  obtain ⟨hwindow, hrange, hsealed⟩ := windowChecks_pass (from_ := true) hready
  simp only [statsSubs, statsWindow] at hwindow hrange hsealed
  simp only [startStats, startStatsAt, beq_self_eq_true, Bool.or_true, hwindow, hrange, hsealed, Bool.false_eq_true, if_false, hinit,
    Bool.not_true, Bool.false_and, hplan]
  rfl

/-- A tile that FINISH may read: a 64-bit SATS tile of some summands (R84; log entry 93). -/
def finishable (m : TileMeta) : Bool := m.width == 64 && m.mode == .sats && m.count != 0

/-- The tiles of a FINISH. -/
def finishMetas (s : State) (p : Nat) (o : StatsOps) : List TileMeta :=
  (List.range o.tileCount).map (fun i => unitMeta s p (tileIx o.tileA + i * 4)) ++
    (List.range o.tileCount).map (fun i => unitMeta s p (tileIx o.tileB + i * 4))

theorem startStats_finishing :
    startStats .finishing s id h o =
      if !(finishMetas s h.p.val o).all finishable then refuse s id stPolicy
      else if !planOk s h.p.val (tileIx o.tileA) 4 o.tileCount 1 then refuse s id stEngineLost
      else statsFinish s id h o := by
  have hfrom : ((StatsSub.finishing == .sumsq) || (StatsSub.finishing == .moments)) = false := by decide
  simp only [startStats, startStatsAt, hfrom, Bool.false_and, Bool.false_eq_true, if_false]
  rfl

theorem startStats_rsqrt (hplan : planOk s h.p.val (tileIx o.tileA) 2 o.tileCount 1 = true) :
    startStats .rsqrt s id h o = statsRsqrt s id h o := by
  have hfrom : ((StatsSub.rsqrt == .sumsq) || (StatsSub.rsqrt == .moments)) = false := by decide
  simp only [startStats, startStatsAt, hfrom, Bool.false_and, Bool.false_eq_true, if_false, hplan, Bool.not_true]

end Checks

/-! Plans with two tiles of a pair -/

theorem getElem?_flatMap_pair {α β : Type} (A B : α → β) : ∀ (l : List α) (c : Nat),
    (l.flatMap (fun t => [A t, B t]))[2 * c]? = l[c]?.map A ∧ (l.flatMap (fun t => [A t, B t]))[2 * c + 1]? = l[c]?.map B
  | [], _ => ⟨rfl, rfl⟩
  | _ :: _, 0 => ⟨rfl, rfl⟩
  | t :: l, c + 1 => by
    have hrest := getElem?_flatMap_pair A B l c
    simpa only [List.flatMap_cons, Nat.mul_succ, List.cons_append, List.nil_append, List.getElem?_cons_succ] using hrest

theorem length_flatMap_pair {α β : Type} (A B : α → β) (l : List α) : (l.flatMap (fun t => [A t, B t])).length = 2 * l.length := by
  induction l with
  | nil => rfl
  | cons t l ih =>
    rw [List.flatMap_cons, List.length_append, ih, List.length_cons]
    simp only [List.length_cons, List.length_nil]
    omega

/-- The two passes of a tile of the plan. -/
theorem exists_of_getElem?_pair {s : State} {p first units count split c : Nat} {A B : Nat × Nat × Nat → TileJob} {ja jb : TileJob}
    {js : List TileJob} (hbegun : List.Forall₂ Begun ((tilePlan s p first units count split).flatMap (fun t => [A t, B t])) js)
    (ha : js[2 * c]? = some ja) (hb : js[2 * c + 1]? = some jb) :
    ∃ e, c < count ∧ Begun (A (c, first + c * units, e)) ja ∧ Begun (B (c, first + c * units, e)) jb := by
  obtain ⟨ka, hka, hba⟩ := exists_of_begun hbegun ha
  obtain ⟨kb, hkb, hbb⟩ := exists_of_begun hbegun hb
  obtain ⟨hfirst, hsecond⟩ := getElem?_flatMap_pair A B (tilePlan s p first units count split) c
  rw [hfirst] at hka
  rw [hsecond] at hkb
  have hc : c < count := by
    by_contra hno
    rw [List.getElem?_eq_none (by rw [tilePlan_length]; omega)] at hka
    cases hka
  obtain ⟨e, he⟩ := tilePlan_getElem? s p first units count split c hc
  rw [he] at hka hkb
  obtain rfl := Option.some.inj hka
  obtain rfl := Option.some.inj hkb
  exact ⟨e, hc, hba, hbb⟩

/-! SUMSQ -/

theorem eq_of_getElem?_map_range {α : Type} {n i : Nat} {F : Nat → α} {x : α} (hx : ((List.range n).map F)[i]? = some x) : F i = x := by
  obtain ⟨hi, hget⟩ := List.getElem?_eq_some_iff.mp hx
  rw [List.getElem_map, List.getElem_range] at hget
  exact hget

/-- The pass that stores the sum of the squares of summand `i` (R84). -/
def sumJob (s : State) (p : Nat) (o : StatsOps) (w : Option Window) (i : Nat) : TileJob :=
  let parts := (List.range o.tileCount).map (statsSummand s p o w i)
  let sum := (parts.map (fun t => (t.1.map (fun v => v * v)).sum)).sum
  { byteJob s ((enginesOf s ((part s p).sleeveList.getD 0 0)).getD 0 0) (o.resultAddr + 16 * i) (natLe 16 sum.toNat)
      (parts.any (fun t => t.2.1)) (parts.any (fun t => t.2.2)) with item := i }

theorem statsSums_eq {s : State} (id : Nat) {h : DescHdr} {o : StatsOps} (w : Option Window) (n : Nat)
    (haddr : inWindow o.resultAddr = false) :
    statsSums s id h o w n = startJobs s id ((List.range n).map (sumJob s h.p.val o w)) 0 := by
  simp only [statsSums, haddr, Bool.false_and, Bool.false_eq_true, if_false]
  rfl

/-! MOMENTS -/

/-- A tile to which MOMENTS of the tag has been committed already (R75). -/
def momentPassed (s : State) (p : Nat) (o : StatsOps) (w : Option Window) (u : Nat) : Bool :=
  w.isNone && (unitMeta s p u).state == .plain && (unitMeta s p u).passTag == o.first && (unitMeta s p u).width == 64

/-- The numbers of a window's summands. -/
def momentNumbers (o : StatsOps) (w : Option Window) (n : Nat) : List Nat :=
  (w.map (fun win => (acceptedRange win o.first o.count).map (fun b => b.number.getD 0))).getD (List.replicate n 0)

/-- The summands that a tile takes. -/
def momentUse (s : State) (p : Nat) (o : StatsOps) (w : Option Window) (n u : Nat) : List Nat :=
  (List.range n).filter (fun i =>
    w.isNone || decide ((if bvBit o.flags 0 then o.first else (unitMeta s p u).seqNext) ≤ (momentNumbers o w n).getD i 0))

/-- The clamped sums of squares and whether one clamped (Table 3.8). -/
def foldSquares (start : List Int × Bool) (vals : List (List Int)) : List Int × Bool :=
  vals.foldl (fun acc v =>
    let r := List.zipWith addSquare acc.1 v
    (r.map (fun e => e.1), acc.2 || r.any (fun e => e.2))) start

theorem foldSquares_fst (vals : List (List Int)) : ∀ start : List Int × Bool,
    (foldSquares start vals).1 = vals.foldl (fun acc v => List.zipWith (fun a b => (addSquare a b).1) acc v) start.1 := by
  induction vals with
  | nil => exact fun _ => rfl
  | cons v vals ih =>
    intro start
    refine (ih _).trans ?_
    simp only [List.foldl_cons, List.map_zipWith]

/-- The pass of MOMENTS over the tile at unit `u`: sums, or sums of squares. -/
def momentJob (s : State) (p : Nat) (o : StatsOps) (w : Option Window) (n : Nat) (square : Bool) (c e u : Nat) : TileJob :=
  let init := bvBit o.flags 0
  let m := unitMeta s p u
  let use := momentUse s p o w n u
  let parts := use.map (fun i => statsSummand s p o w i c)
  let start := if init then zeroTile else tileInts .sats 64 (readTile s p u 64)
  let r :=
    if square then foldSquares (start, false) (parts.map (fun q => q.1))
    else foldTiles .sats 64 0 start (parts.map (fun q => q.1))
  let endSeq := o.first + o.count
  let nm : TileMeta :=
    { state := if w.isSome then .round else .plain, width := 64, mode := .sats,
      roundId := if w.isSome then o.src else 0,
      seqNext := if w.isSome then (if init then endSeq else max m.seqNext endSeq) else 0,
      passTag := if w.isSome then 0 else o.first, count := (if init then 0 else m.count) + use.length,
      saturated := r.2 || (!init && m.saturated),
      mark := parts.any (fun q => q.2.1) || (!init && m.mark),
      model := parts.any (fun q => q.2.2) || (!init && m.model),
      chain := if init then .none else m.chain, chainDigest := if init then [] else m.chainDigest }
  { tileJob s e u (intBytes 64 r.1) nm with item := c }

/-- The tiles of MOMENTS, FINISH and RSQRT, with the engines that tile a's range gives them (R79). -/
def statsPlan (s : State) (p : Nat) (o : StatsOps) (units : Nat) : List (Nat × Nat × Nat) :=
  tilePlan s p (tileIx o.tileA) units o.tileCount 1

theorem statsMoments_eq (s : State) (id : Nat) (h : DescHdr) (o : StatsOps) (w : Option Window) (n : Nat) :
    statsMoments 0 s id h o w n =
      startJobs s id ((statsPlan s h.p.val o 4).flatMap (fun t =>
        (if momentPassed s h.p.val o w t.2.1 then [] else [momentJob s h.p.val o w n false t.1 t.2.2 t.2.1]) ++
          (if momentPassed s h.p.val o w (tileIx o.tileB + 4 * t.1) then []
           else [momentJob s h.p.val o w n true t.1 t.2.2 (tileIx o.tileB + 4 * t.1)]))) 0 := by
  simp only [statsMoments, Nat.zero_add]
  rfl

/-- The passes of MOMENTS where no tile carries its tag. -/
def momentJobs (s : State) (p : Nat) (o : StatsOps) (w : Option Window) (n : Nat) : List TileJob :=
  (statsPlan s p o 4).flatMap (fun t =>
    [momentJob s p o w n false t.1 t.2.2 t.2.1, momentJob s p o w n true t.1 t.2.2 (tileIx o.tileB + 4 * t.1)])

theorem statsMoments_unpassed {s : State} (id : Nat) {h : DescHdr} {o : StatsOps} {w : Option Window} (n : Nat)
    (hnew : ∀ i, i < o.tileCount → momentPassed s h.p.val o w (tileIx o.tileA + i * 4) = false ∧
      momentPassed s h.p.val o w (tileIx o.tileB + 4 * i) = false) :
    statsMoments 0 s id h o w n = startJobs s id (momentJobs s h.p.val o w n) 0 := by
  rw [statsMoments_eq, momentJobs]
  congr 1
  refine List.flatMap_congr (forall_mem_tilePlan (fun i e hi => ?_))
  obtain ⟨ha, hb⟩ := hnew i hi
  simp only [ha, hb, Bool.false_eq_true, if_false, List.cons_append, List.nil_append]

/-- The submissions of a range have numbers from its first on. -/
theorem first_le_of_mem_acceptedRange {w : Window} {first count : Nat} {b : Submission} (hb : b ∈ acceptedRange w first count) :
    first ≤ b.number.getD 0 := by
  obtain ⟨-, hin⟩ := List.mem_filter.mp hb
  cases hnumber : b.number with
  | none => simp only [hnumber, Bool.false_eq_true] at hin
  | some n =>
    simp only [hnumber, Bool.and_eq_true, decide_eq_true_eq] at hin
    exact hin.1

/-- From zero a tile takes every summand. -/
theorem momentUse_init {s : State} {p u : Nat} {o : StatsOps} {x : Partition} (hinit : bvBit o.flags 0 = true) :
    momentUse s p o (statsWindow x o) (statsCount x o) u = List.range (statsCount x o) := by
  refine List.filter_eq_self.mpr (fun i hi => ?_)
  rw [List.mem_range] at hi
  cases hw : statsWindow x o with
  | none => rfl
  | some w =>
    have hkind : o.srcKind = 0 := by
      by_contra hno
      rw [statsWindow, if_neg hno] at hw
      cases hw
    simp only [statsCount, statsSubs, if_pos hkind, hw, Option.map_some, Option.getD_some] at hi
    simp only [hinit, if_true, momentNumbers, Option.map_some, Option.getD_some, List.getD_eq_getElem?_getD, List.getElem?_map,
      List.getElem?_eq_getElem hi, Bool.or_eq_true, decide_eq_true_eq]
    exact .inr (first_le_of_mem_acceptedRange (List.getElem_mem hi))

/-! FINISH and RSQRT -/

/-- The mean and the variance of each element of the tiles of a plan's place (R85). -/
def finishElems (s : State) (p : Nat) (o : StatsOps) (c u : Nat) : List (Nat × Nat) :=
  List.zipWith (finishElem (unitMeta s p u).count (unitMeta s p (tileIx o.tileB + 4 * c)).saturated)
    (tileInts .sats 64 (readTile s p u 64)) (tileInts .sats 64 (readTile s p (tileIx o.tileB + 4 * c) 64))

/-- The metadata of a tile that FINISH writes. -/
def finishMeta (s : State) (p : Nat) (o : StatsOps) (c u : Nat) : TileMeta :=
  let ma := unitMeta s p u
  let mb := unitMeta s p (tileIx o.tileB + 4 * c)
  { state := .plain, width := 64, mode := .f64, count := ma.count, mark := ma.mark || mb.mark, model := ma.model || mb.model }

/-- The pass that stores the means in tile a. -/
def meanJob (s : State) (p : Nat) (o : StatsOps) (t : Nat × Nat × Nat) : TileJob :=
  { tileJob s t.2.2 t.2.1 (packElems 8 ((finishElems s p o t.1 t.2.1).map (fun e => e.1)))
      { finishMeta s p o t.1 t.2.1 with saturated := (unitMeta s p t.2.1).saturated } with item := t.1 }

/-- The pass that stores the variances in tile b. -/
def varianceJob (s : State) (p : Nat) (o : StatsOps) (t : Nat × Nat × Nat) : TileJob :=
  { tileJob s t.2.2 (tileIx o.tileB + 4 * t.1) (packElems 8 ((finishElems s p o t.1 t.2.1).map (fun e => e.2)))
      { finishMeta s p o t.1 t.2.1 with saturated := (unitMeta s p (tileIx o.tileB + 4 * t.1)).saturated } with item := t.1 }

theorem statsFinish_eq (s : State) (id : Nat) (h : DescHdr) (o : StatsOps) :
    statsFinish s id h o = startJobs s id ((statsPlan s h.p.val o 4).flatMap (fun t =>
      [meanJob s h.p.val o t, varianceJob s h.p.val o t])) 0 := rfl

/-- The pass that stores the reciprocal roots of a tile. -/
def rootJob (s : State) (p : Nat) (o : StatsOps) (t : Nat × Nat × Nat) : TileJob :=
  let m := unitMeta s p t.2.1
  let rs := (readTile s p t.2.1 32).map (rsqrtElem o.fracBits (ofF32 o.eps.toNat))
  let nm : TileMeta :=
    { state := .plain, width := 32, mode := .sats, mark := m.mark, model := m.model,
      saturated := rs.any (fun e => e.2) || (tileIx o.tileA == tileIx o.tileB && m.saturated) }
  { tileJob s t.2.2 (tileIx o.tileB + 2 * t.1) (packElems 4 (rs.map (fun e => e.1))) nm with item := t.1 }

theorem statsRsqrt_eq (s : State) (id : Nat) (h : DescHdr) (o : StatsOps) :
    statsRsqrt s id h o = startJobs s id ((statsPlan s h.p.val o 2).map (rootJob s h.p.val o)) 0 := rfl

end Sys2Proof.Proofs.Statistics
end

section
/-! O23: SUMSQ, MOMENTS, FINISH and RSQRT. -/

namespace Sys2Proof.Proofs.StatisticsStored

open Sys2Proof Sys2Proof.Machine
open Sys2Proof.Proofs.Writes Sys2Proof.Proofs.Starting Sys2Proof.Proofs.Passes Sys2Proof.Proofs.SealedStart Sys2Proof.Proofs.TilePasses
open Sys2Proof.Proofs.Statistics

/-- A STATS names at least one tile (Table 3.7). -/
theorem tileCount_pos_of_statsRange {k : StatsSub} {x : Partition} {o : StatsOps} (hr : statsRange k x o = true) : 0 < o.tileCount := by
  simp only [statsRange, Bool.and_eq_true, decide_eq_true_eq] at hr
  omega

/-- A MOMENTS takes its summands from a window or from a list. -/
theorem srcKind_of_moments {x : Partition} {o : StatsOps} (hr : statsRange .moments x o = true) :
    o.srcKind = 0 ∨ o.srcKind = 1 := by
  simp only [statsRange, Bool.and_eq_true, decide_eq_true_eq] at hr
  omega

section Dispatches

variable {s : State} {h : DescHdr} {o : StatsOps} (hordered : FlightsOrdered s)
include hordered

theorem sumsq_starts (hd : Dispatches s h (.statsSumsq o)) (hready : SummandsReady (part s h.p.val) o)
    (hcount : 0 < statsCount (part s h.p.val) o) (haddr : inWindow o.resultAddr = false) :
    StartsPasses (.statsSumsq h o) s h (.statsSumsq o) ((List.range (statsCount (part s h.p.val) o)).map
      (sumJob (takenUp s h (.statsSumsq o)) h.p.val o (statsWindow (part s h.p.val) o))) := by
  have hans : Answers (.statsSumsq h o) s (startStats .sumsq (takenUp s h (.statsSumsq o)) s.nextId h o) :=
    answers_runBody rfl hd (fun _ => rfl)
  rw [startStats_sumsq (by rw [takenUp_part]; exact hready), takenUp_part, statsSums_eq _ _ _ haddr] at hans
  exact startsPasses_takenUp hordered hans
    (ne_nil_of_length_pos (n := statsCount (part s h.p.val) o) (by rw [List.length_map, List.length_range]) hcount)

theorem moments_starts (hd : Dispatches s h (.statsMoments o)) (hready : SummandsReady (part s h.p.val) o)
    (hinit : bvBit o.flags 0 = true) (hplan : planOk (takenUp s h (.statsMoments o)) h.p.val (tileIx o.tileA) 4 o.tileCount 1 = true)
    (hnew : ∀ i, i < o.tileCount →
      momentPassed (takenUp s h (.statsMoments o)) h.p.val o (statsWindow (part s h.p.val) o) (tileIx o.tileA + i * 4) = false ∧
      momentPassed (takenUp s h (.statsMoments o)) h.p.val o (statsWindow (part s h.p.val) o) (tileIx o.tileB + 4 * i) = false) :
    StartsPasses (.statsMoments h o) s h (.statsMoments o) (momentJobs (takenUp s h (.statsMoments o)) h.p.val o
      (statsWindow (part s h.p.val) o) (statsCount (part s h.p.val) o)) := by
  have hans : Answers (.statsMoments h o) s (startStats .moments (takenUp s h (.statsMoments o)) s.nextId h o) :=
    answers_runBody rfl hd (fun _ => rfl)
  rw [startStats_moments (by rw [takenUp_part]; exact hready) hinit hplan, takenUp_part, statsMoments_unpassed _ _ hnew] at hans
  refine startsPasses_takenUp hordered hans (ne_nil_of_length_pos (n := 2 * o.tileCount) ?_ ?_)
  · rw [momentJobs, length_flatMap_pair, statsPlan, tilePlan_length]
  · have := tileCount_pos_of_statsRange (k := .moments) (x := part s h.p.val) (rangeOk_of_dispatches hd)
    omega

theorem finish_starts (hd : Dispatches s h (.statsFinish o))
    (hplan : planOk (takenUp s h (.statsFinish o)) h.p.val (tileIx o.tileA) 4 o.tileCount 1 = true)
    (hmetas : (finishMetas (takenUp s h (.statsFinish o)) h.p.val o).all finishable = true) :
    StartsPasses (.statsFinish h o) s h (.statsFinish o) ((statsPlan (takenUp s h (.statsFinish o)) h.p.val o 4).flatMap (fun t =>
      [meanJob (takenUp s h (.statsFinish o)) h.p.val o t, varianceJob (takenUp s h (.statsFinish o)) h.p.val o t])) := by
  have hans : Answers (.statsFinish h o) s (startStats .finishing (takenUp s h (.statsFinish o)) s.nextId h o) :=
    answers_runBody rfl hd (fun _ => rfl)
  rw [startStats_finishing, hmetas, hplan, if_neg (by decide), if_neg (by decide), statsFinish_eq] at hans
  refine startsPasses_takenUp hordered hans (ne_nil_of_length_pos (n := 2 * o.tileCount) ?_ ?_)
  · rw [length_flatMap_pair, statsPlan, tilePlan_length]
  · have := tileCount_pos_of_statsRange (k := .finishing) (x := part s h.p.val) (rangeOk_of_dispatches hd)
    omega

theorem finish_refused (hd : Dispatches s h (.statsFinish o))
    (hmetas : (finishMetas (takenUp s h (.statsFinish o)) h.p.val o).all finishable = false) :
    Refused s (.statsFinish h o) h (.statsFinish o) stPolicy := by
  have hans : Answers (.statsFinish h o) s (startStats .finishing (takenUp s h (.statsFinish o)) s.nextId h o) :=
    answers_runBody rfl hd (fun _ => rfl)
  rw [startStats_finishing, hmetas, if_pos (by decide)] at hans
  exact refused_of_answers hordered hans

theorem rsqrt_starts (hd : Dispatches s h (.statsRsqrt o))
    (hplan : planOk (takenUp s h (.statsRsqrt o)) h.p.val (tileIx o.tileA) 2 o.tileCount 1 = true) :
    StartsPasses (.statsRsqrt h o) s h (.statsRsqrt o) ((statsPlan (takenUp s h (.statsRsqrt o)) h.p.val o 2).map
      (rootJob (takenUp s h (.statsRsqrt o)) h.p.val o)) := by
  have hans : Answers (.statsRsqrt h o) s (startStats .rsqrt (takenUp s h (.statsRsqrt o)) s.nextId h o) :=
    answers_runBody rfl hd (fun _ => rfl)
  rw [startStats_rsqrt hplan, statsRsqrt_eq] at hans
  exact startsPasses_takenUp hordered hans (ne_nil_of_length_pos (n := o.tileCount)
    (by rw [List.length_map, statsPlan, tilePlan_length]) (tileCount_pos_of_statsRange (k := .rsqrt) (x := part s h.p.val) (rangeOk_of_dispatches hd)))

end Dispatches

/-- A tile in another state than a committed pass of the tag leaves takes its pass; from a window every tile does. -/
theorem momentPassed_eq_false {s : State} {p u : Nat} {x : Partition} {o : StatsOps}
    (hnew : o.srcKind ≠ 0 → (unitMeta s p u).state ≠ .plain ∨ (unitMeta s p u).passTag ≠ o.first ∨ (unitMeta s p u).width ≠ 64)
    (hready : SummandsReady x o) : momentPassed s p o (statsWindow x o) u = false := by
  by_cases hkind : o.srcKind = 0
  · obtain ⟨w, hw, -, -⟩ := hready hkind
    simp only [momentPassed, hw, Option.isNone_some, Bool.false_and]
  · have := hnew hkind
    simp only [momentPassed, Bool.and_eq_false_iff, beq_eq_false_iff_ne]
    tauto

/-- FINISH may read its tiles where it may read each pair. -/
theorem finishMetas_all_of_pairs {s : State} {p : Nat} {o : StatsOps}
    (hok : ∀ i, i < o.tileCount → finishable (unitMeta s p (tileIx o.tileA + i * 4)) = true ∧
      finishable (unitMeta s p (tileIx o.tileB + i * 4)) = true) : (finishMetas s p o).all finishable = true := by
  rw [finishMetas, List.all_append, List.all_map, List.all_map, Bool.and_eq_true, List.all_eq_true, List.all_eq_true]
  exact ⟨fun i hi => (hok i (List.mem_range.mp hi)).1, fun i hi => (hok i (List.mem_range.mp hi)).2⟩

theorem finishMetas_not_all {s : State} {p i : Nat} {o : StatsOps} (hi : i < o.tileCount)
    (hzero : (unitMeta s p (tileIx o.tileA + i * 4)).count = 0) : (finishMetas s p o).all finishable = false := by
  rw [List.all_eq_false]
  refine ⟨_, List.mem_append_left _ (List.mem_map.mpr ⟨i, List.mem_range.mpr hi, rfl⟩), ?_⟩
  simp only [finishable, hzero, bne_self_eq_false, Bool.and_false, Bool.false_eq_true, not_false_eq_true]

/-- Settles O23: the passes of each sub-operation are those that `sumJob`, `momentJob`, `meanJob`, `varianceJob` and `rootJob` compute. -/
theorem statsStoreTheirResults : Obligations.StatsStoreTheirResults := by
  constructor
  · intro s h o hordered p win subs n hready
    have hready : SummandsReady (part s h.p.val) o := hready
    constructor
    · intro hd s1 parts hcount haddr
      obtain ⟨t, jobs, hans, hflies, honly, hstore, hbegun⟩ := sumsq_starts hordered hd hready hcount haddr
      refine ⟨t, jobs, hans, hflies, honly, hstore, ?_, fun i j hj => ?_⟩
      · rw [← hbegun.length_eq, List.length_map, List.length_range]
        rfl
      · obtain ⟨k, hk, hjk, -⟩ := exists_of_begun hbegun hj
        obtain rfl := eq_of_getElem?_map_range hk
        rw [hjk]
        exact ⟨rfl, rfl, rfl⟩
    · intro hd hinit s1 vals hplan hnew
      have hkind := srcKind_of_moments (rangeOk_of_dispatches hd)
      have hpassed : ∀ i, i < o.tileCount →
          momentPassed s1 p o (statsWindow (part s p) o) (tileIx o.tileA + i * 4) = false ∧
          momentPassed s1 p o (statsWindow (part s p) o) (tileIx o.tileB + 4 * i) = false := by
        refine fun i hi => ⟨momentPassed_eq_false (fun hno => ?_) hready, momentPassed_eq_false (fun hno => ?_) hready⟩
        · exact hnew (by omega) i o.tileA hi (.inl rfl)
        · rw [Nat.mul_comm]
          exact hnew (by omega) i o.tileB hi (.inr rfl)
      obtain ⟨t, jobs, hans, hflies, honly, hstore, hbegun⟩ := moments_starts hordered hd hready hinit hplan hpassed
      refine ⟨t, jobs, hans, hflies, honly, hstore, ?_, fun c ja jb ha hb => ?_⟩
      · rw [← hbegun.length_eq, momentJobs, length_flatMap_pair, statsPlan, tilePlan_length]
      · obtain ⟨e, -, ⟨hja, -⟩, hjb, -⟩ := exists_of_getElem?_pair hbegun ha hb
        rw [hja, hjb]
        simp only [momentJob, momentUse_init hinit, hinit, if_true, Bool.false_eq_true, if_false, foldSquares_fst, List.map_map]
        exact ⟨rfl, rfl, rfl, rfl⟩
  · intro s h o hordered p
    constructor
    · intro hd s1 ma mb xs hplan
      constructor
      · intro hok
        have hmetas : (finishMetas s1 p o).all finishable = true := by
          refine finishMetas_all_of_pairs (fun i hi => ?_)
          obtain ⟨haw, ham, hac, hbw, hbm, hbc⟩ := hok i hi
          simp only [finishable, Bool.and_eq_true, beq_iff_eq, bne_iff_ne]
          exact ⟨⟨⟨haw, ham⟩, hac⟩, ⟨hbw, hbm⟩, hbc⟩
        obtain ⟨t, jobs, hans, hflies, honly, hstore, hbegun⟩ := finish_starts hordered hd hplan hmetas
        refine ⟨t, jobs, hans, hflies, honly, hstore, ?_, fun i ja jb ha hb => ?_⟩
        · rw [← hbegun.length_eq, length_flatMap_pair, statsPlan, tilePlan_length]
        · obtain ⟨e, -, ⟨hja, -⟩, hjb, -⟩ := exists_of_getElem?_pair hbegun ha hb
          rw [hja, hjb]
          have hunit : tileIx o.tileB + i * 4 = tileIx o.tileB + 4 * i := by omega
          simp only [xs, ma, mb, hunit]
          exact ⟨rfl, rfl, rfl, rfl⟩
      · rintro ⟨i, hi, hzero⟩
        obtain ⟨t, hans, hends, honly, -⟩ := finish_refused hordered hd (finishMetas_not_all hi hzero)
        exact ⟨t, hans, hends, honly⟩
    · intro hd s1 rs hplan
      obtain ⟨t, jobs, hans, hflies, honly, hstore, hbegun⟩ := rsqrt_starts hordered hd hplan
      refine ⟨t, jobs, hans, hflies, honly, hstore, ?_, fun i j hj => ?_⟩
      · rw [← hbegun.length_eq, List.length_map, statsPlan, tilePlan_length]
      · obtain ⟨k, hk, hjk, -⟩ := exists_of_begun hbegun hj
        obtain ⟨e, -, rfl⟩ := exists_of_getElem?_plan hk
        rw [hjk]
        exact ⟨rfl, rfl, rfl⟩

end Sys2Proof.Proofs.StatisticsStored
end

section
/-! O24: RANK. -/

namespace Sys2Proof.Proofs.Ranking

open Sys2Proof Sys2Proof.Machine
open Sys2Proof.Proofs.Writes Sys2Proof.Proofs.Starting Sys2Proof.Proofs.Passes Sys2Proof.Proofs.SealedStart Sys2Proof.Proofs.TilePasses

/-- The values that a RANK reads, in the order of their places (R86). -/
def rankValues (s : State) (p : Nat) (o : RankOps) : List Int :=
  let w := rangeWidth s p (tileIx o.srcTile)
  (((List.range o.tileCount).map (fun i => tileIx o.srcTile + i * tileUnits w)).flatMap (fun u =>
    signedElems (unitMeta s p u) (readTile s p u w))).take o.elemCount

/-- The entries that it stores (R87). -/
def rankEntries (s : State) (p : Nat) (o : RankOps) : List (Nat × Int) := rankList (bvBit o.flags 0) o.k (rankValues s p o)

/-- The marks of its source. -/
def rankMarks (s : State) (p : Nat) (o : RankOps) : Bool × Bool :=
  marksOf s p (pocketAddr (tileIx o.srcTile)) (o.tileCount * 512 * rangeWidth s p (tileIx o.srcTile))

/-- The one pass of a RANK, on the first engine of the Lapel unit's Sleeve. -/
def rankJob (s : State) (p : Nat) (o : RankOps) : TileJob :=
  byteJob s ((slotOf s (9 * o.lapelSleeve)).logical.getD (8 * o.lapelSleeve)) o.dstAddr
    ((rankEntries s p o).flatMap (fun e => natLe 4 e.1 ++ zeros 4 ++ natLe 8 (toWord 64 e.2))) (rankMarks s p o).1 (rankMarks s p o).2

theorem startRank_eq (s : State) (id : Nat) (h : DescHdr) (o : RankOps) :
    startRank s id h o =
      if lapelUsable s o.lapelSleeve = false then refuse s id stRank
      else if inWindow o.dstAddr && ((rankMarks s h.p.val o).1 || (rankMarks s h.p.val o).2) then refuse s id stPolicy
      else startJobs s id [rankJob s h.p.val o] (rankEntries s h.p.val o).length := rfl

theorem answers_rank {s : State} {h : DescHdr} {o : RankOps} (hd : Dispatches s h (.rank o)) :
    Answers (.rank h o) s (startRank (takenUp s h (.rank o)) s.nextId h o) :=
  answers_runBody rfl hd (fun _ => rfl)

/-- Settles O24: the one pass is `rankJob`, and the descriptor reports the number of its entries. -/
theorem rankStoresTheGreatest : Obligations.RankStoresTheGreatest := by
  intro s h o hordered hd p s1 w vals entries marks
  have hans := answers_rank hd
  rw [startRank_eq] at hans
  constructor
  · intro hlost
    rw [if_pos hlost] at hans
    exact refused_of_answers hordered hans
  · intro husable hmarks
    rw [if_neg (by rw [husable]; decide), if_neg (by rw [Bool.not_eq_true]; exact hmarks)] at hans
    have htaken := flight_takenUp hordered h (.rank o)
    obtain ⟨g, hg, hsame, hbegun⟩ := flight_startJobs htaken (jobs := [rankJob s1 p o]) (List.cons_ne_nil _ _) entries.length
    have honly : OnlyPasses s _ := onlyPasses_trans (onlyPasses_of_onlyFlights (onlyFlights_takenUp s h (.rank o)))
      (startJobs_runs htaken (List.cons_ne_nil (rankJob s1 p o) []) entries.length).2
    obtain ⟨j, hj, hjobs⟩ : ∃ j, Begun (rankJob s1 p o) j ∧ g.jobs = [j] := by
      obtain ⟨j, _, hj, hnil, hjobs⟩ := List.forall₂_cons_left_iff.mp hbegun
      rw [List.forall₂_nil_left_iff.mp hnil] at hjobs
      exact ⟨j, hj, hjobs⟩
    refine ⟨_, j, g, hans, ⟨g, hg, ?_, ?_, ?_, ?_, hjobs⟩, honly, storeKept_of_onlyPasses honly, ?_, ?_, ?_, hg, ?_⟩
    · rw [hsame]; rfl
    · rw [hsame]; rfl
    · rw [hsame]; rfl
    · rw [hsame]
    · rw [hj.1]; rfl
    · rw [hj.1]; rfl
    · rw [hj.1]; rfl
    · rw [hsame]

end Sys2Proof.Proofs.Ranking
end

section
/-! SUPPORT. What the log, the notices it posts and the counters of a pass leave as they were: the descriptors in flight, the time, the
memories with their marks, and every partition's engine time. -/

namespace Sys2Proof.Proofs.LoggedWork

open Sys2Proof Sys2Proof.Machine
open Sys2Proof.Proofs.Writes

/-- From `s` to `t` nothing that passes depend on has changed: the descriptors in flight, the time, the memories and the engine time
charged to each partition. -/
structure WorkKept (s t : State) : Prop where
  inflight : t.inflight = s.inflight
  time : t.time = s.time
  lining : t.lining = s.lining
  dram : t.dram = s.dram
  tiles : t.tiles = s.tiles
  areas : t.areas = s.areas
  engineNs : ∀ p, (part t p).usage.engineNs = (part s p).usage.engineNs

theorem WorkKept.refl (s : State) : WorkKept s s := ⟨rfl, rfl, rfl, rfl, rfl, rfl, fun _ => rfl⟩

theorem WorkKept.trans {s t u : State} (h1 : WorkKept s t) (h2 : WorkKept t u) : WorkKept s u :=
  ⟨h2.inflight.trans h1.inflight, h2.time.trans h1.time, h2.lining.trans h1.lining, h2.dram.trans h1.dram, h2.tiles.trans h1.tiles,
    h2.areas.trans h1.areas, fun p => (h2.engineNs p).trans (h1.engineNs p)⟩

theorem WorkKept.storeKept {s t : State} (h : WorkKept s t) : StoreKept s t :=
  ⟨fun _ => ⟨by rw [h.lining], by rw [h.dram]⟩, h.tiles, h.areas⟩

theorem WorkKept.flight {s t : State} (h : WorkKept s t) (id : Nat) : flight t id = flight s id := flight_congr h.inflight id

theorem WorkKept.now {s t : State} (h : WorkKept s t) : now t = now s := by simp only [Machine.now, h.time]

theorem WorkKept.ite {s t u : State} {c : Prop} [Decidable c] (h1 : WorkKept s t) (h2 : WorkKept s u) :
    WorkKept s (if c then t else u) := by
  split
  · exact h1
  · exact h2

theorem workKept_foldl {α : Type} {f : State → α → State} (hf : ∀ s a, WorkKept s (f s a)) (l : List α) (s : State) :
    WorkKept s (l.foldl f s) :=
  List.foldlRecOn l f (WorkKept.refl s) (fun _ ht a _ => ht.trans (hf _ a))

/-- A change of what passes do not depend on. -/
theorem workKept_update {s : State} {out : List Output} {freeCtr : Nat} {regs : Tab Nat} {slots : Tab Slot} {faults : Faults}
    {dbg : Debug} :
    WorkKept s { s with out := out, freeCtr := freeCtr, regs := regs, slots := slots, faults := faults, dbg := dbg } :=
  ⟨rfl, rfl, rfl, rfl, rfl, rfl, fun _ => rfl⟩

theorem workKept_countEvent (s : State) (ev : Nat) (sc : List (Nat × Nat)) (n : Nat) : WorkKept s (countEvent s ev sc n) := by
  rw [countEvent_only]
  exact workKept_update

theorem workKept_modPart (s : State) (p : Nat) {f : Partition → Partition} (hf : ∀ x, (f x).usage.engineNs = x.usage.engineNs) :
    WorkKept s (modPart s p f) := by
  refine ⟨rfl, rfl, rfl, rfl, rfl, rfl, fun q => ?_⟩
  by_cases hq : p = q
  · subst hq
    rw [part_modPart_same, hf]
  · rw [part_modPart_other s f hq]

theorem workKept_modUsage (s : State) (p : Nat) {f : Usage → Usage} (hf : ∀ u, (f u).engineNs = u.engineNs) :
    WorkKept s (modUsage s p f) := by
  refine WorkKept.trans ?_ ((workKept_countEvent _ _ _ _).trans (workKept_countEvent _ _ _ _))
  refine ⟨rfl, rfl, rfl, rfl, rfl, rfl, fun q => ?_⟩
  by_cases hq : p = q
  · subst hq
    simp only [part_modPart_same, hf]
  · rw [part_modPart_other s _ hq]

theorem workKept_modCq (s : State) (p c : Nat) (f : CqRing → CqRing) : WorkKept s (modCq s p c f) :=
  workKept_modPart s p (fun _ => rfl)

theorem workKept_emit (s : State) (o : Output) : WorkKept s (emit s o) := workKept_update

theorem workKept_raiseIrq (s : State) (bits : Nat) : WorkKept s (raiseIrq s bits) := by
  unfold raiseIrq
  exact WorkKept.ite workKept_update (WorkKept.ite workKept_update (WorkKept.trans workKept_update (workKept_emit _ _)))

/-! Completion records -/

theorem workKept_cqInterrupt (s : State) (p c : Nat) : WorkKept s (cqInterrupt s p c) := by
  unfold cqInterrupt
  dsimp only
  refine WorkKept.trans ?_ (workKept_modCq _ p c _)
  exact (workKept_emit s _).trans (workKept_modUsage _ p (f := fun u => { u with cclOut := satAdd u.cclOut 4 }) (fun _ => rfl))

theorem workKept_cqAfterRecord (s : State) (p c : Nat) (r : Record) : WorkKept s (cqAfterRecord s p c r) := by
  unfold cqAfterRecord
  exact WorkKept.ite (WorkKept.refl s) (WorkKept.ite (workKept_cqInterrupt s p c) (workKept_modCq s p c _))

theorem workKept_cqWrite (s : State) (p c : Nat) (r : Record) : WorkKept s (cqWrite s p c r) := by
  unfold cqWrite
  dsimp only
  refine WorkKept.trans ?_ (workKept_cqAfterRecord _ p c r)
  refine WorkKept.trans ?_ (workKept_modUsage _ p (f := fun u => { u with cclOut := satAdd u.cclOut 32 }) (fun _ => rfl))
  refine WorkKept.trans ?_ (workKept_modCq _ p c _)
  exact WorkKept.ite ((workKept_emit s _).trans workKept_update) (workKept_emit s _)

theorem workKept_postRecord (s : State) (p c : Nat) (r : Record) : WorkKept s (postRecord s p c r) := by
  unfold postRecord
  exact WorkKept.ite (workKept_cqWrite s p c r) (WorkKept.ite (workKept_modCq s p c _)
    (WorkKept.ite (WorkKept.refl s) (workKept_modPart s p (fun _ => rfl))))

/-! The fault log -/

theorem workKept_notice (s : State) (r : Report) (seq : Nat) : WorkKept s (notice s r seq) := by
  unfold notice
  exact WorkKept.ite (workKept_postRecord s _ _ _) (WorkKept.refl s)

theorem workKept_logNew (s : State) (r : Report) : WorkKept s (logFault.logNew s r) := by
  unfold logFault.logNew
  dsimp only
  refine WorkKept.trans ?_ (workKept_notice _ r _)
  refine WorkKept.ite (WorkKept.trans ?_ (workKept_raiseIrq _ 1)) ?_ <;> exact workKept_update

theorem workKept_logFault (s : State) (r : Report) : WorkKept s (logFault s r) := by
  unfold logFault
  split
  · exact WorkKept.refl s
  · split
    · exact WorkKept.ite workKept_update (workKept_logNew s r)
    · exact workKept_logNew s r

theorem workKept_correctCuff (s : State) (l corrected : Nat) : WorkKept s (correctCuff s l corrected) := by
  unfold correctCuff
  split
  · exact WorkKept.refl s
  · exact workKept_foldl (fun t _ => WorkKept.trans workKept_update (workKept_logFault _ _)) _ s

/-- A pass without corrected errors leaves no entry. -/
theorem correctCuff_zero (s : State) (l : Nat) : correctCuff s l 0 = s := by
  unfold correctCuff
  split <;> rfl

end Sys2Proof.Proofs.LoggedWork
end

section
/-! SUPPORT. How a pass ends: it is charged and waits for its commit, or runs again after a mismatch (R78, R145, R315). -/

namespace Sys2Proof.Proofs.PassEnds

open Sys2Proof Sys2Proof.Machine
open Sys2Proof.Proofs.Writes Sys2Proof.Proofs.Starting Sys2Proof.Proofs.Passes Sys2Proof.Proofs.SealedCommit
open Sys2Proof.Proofs.TilePasses Sys2Proof.Proofs.LoggedWork

/-! Charging a pass -/

/-- From `s` to `t` partition `p` has been charged for work: its counters, the debug counters and the next free value have moved. -/
structure OnlyCharged (p : Nat) (s t : State) : Prop where
  eq : t = { s with parts := t.parts, dbg := t.dbg, freeCtr := t.freeCtr }
  others : OthersKept s t p

theorem OnlyCharged.refl (p : Nat) (s : State) : OnlyCharged p s s := ⟨rfl, fun _ _ => rfl⟩

theorem OnlyCharged.trans {p : Nat} {s t u : State} (h1 : OnlyCharged p s t) (h2 : OnlyCharged p t u) : OnlyCharged p s u :=
  ⟨by rw [h2.eq, h1.eq], othersKept_trans h1.others h2.others⟩

theorem OnlyCharged.storeKept {p : Nat} {s t : State} (h : OnlyCharged p s t) : StoreKept s t := by
  rw [h.eq]
  exact ⟨fun _ => ⟨rfl, rfl⟩, rfl, rfl⟩

theorem OnlyCharged.flight {p : Nat} {s t : State} (h : OnlyCharged p s t) (id : Nat) : flight t id = flight s id := by
  rw [h.eq]
  rfl

theorem OnlyCharged.now {p : Nat} {s t : State} (h : OnlyCharged p s t) : now t = now s := by
  rw [h.eq]
  rfl

theorem OnlyCharged.foldl {α : Type} {p : Nat} {f : State → α → State} (hf : ∀ s a, OnlyCharged p s (f s a)) (l : List α) (s : State) :
    OnlyCharged p s (l.foldl f s) :=
  List.foldlRecOn l f (OnlyCharged.refl p s) (fun _ ht a _ => ht.trans (hf _ a))

theorem onlyCharged_countEvent (p : Nat) (s : State) (ev : Nat) (sc : List (Nat × Nat)) (n : Nat) :
    OnlyCharged p s (countEvent s ev sc n) := by
  rw [countEvent_only]
  exact ⟨rfl, fun _ _ => rfl⟩

theorem onlyCharged_modUsage (s : State) (p : Nat) (f : Usage → Usage) : OnlyCharged p s (modUsage s p f) := by
  refine OnlyCharged.trans ?_ ((onlyCharged_countEvent p _ _ _ _).trans (onlyCharged_countEvent p _ _ _ _))
  exact ⟨rfl, othersKept_modPart s p _⟩

theorem parts_countEvent (s : State) (ev : Nat) (sc : List (Nat × Nat)) (n : Nat) : (countEvent s ev sc n).parts = s.parts := by
  rw [countEvent_only]

theorem usage_modUsage (s : State) (p : Nat) (f : Usage → Usage) : (part (modUsage s p f) p).usage = f (part s p).usage := by
  simp only [modUsage, part_congr (parts_countEvent _ _ _ _), part_modPart_same]

/-- What a pass charges beside engine time. -/
theorem countPass_counts (p : Nat) (j : TileJob) (s : State) (l : Nat) :
    ∃ u, u = (if j.replays = 0 then modUsage s p (fun v => { v with engineNs := satAdd v.engineNs (now s - j.startFt) }) else s) ∧
      OnlyCharged p u (countPass p j s l) ∧ (countPass p j s l).parts = u.parts := by
  refine ⟨_, rfl, ?_⟩
  unfold countPass
  dsimp only
  generalize (if j.replays = 0 then modUsage s p (fun v => { v with engineNs := satAdd v.engineNs (now s - j.startFt) }) else s) = u
  have hcounts : ∀ (evs : List Nat) (t : State) (sc : List (Nat × Nat)),
      (evs.foldl (fun t ev => countEvent t ev sc (freeNat t 4)) t).parts = t.parts := fun evs t sc =>
    List.foldlRecOn (motive := fun v => v.parts = t.parts) evs _ rfl (fun v hv ev _ => (parts_countEvent v _ _ _).trans hv)
  constructor
  · refine OnlyCharged.trans ?_ ⟨rfl, fun _ _ => rfl⟩
    exact (onlyCharged_countEvent p u _ _ _).trans (OnlyCharged.foldl (fun t ev => onlyCharged_countEvent p t _ _ _) _ _)
  · exact (hcounts _ _ _).trans (parts_countEvent _ _ _ _)

theorem onlyCharged_countPass (p : Nat) (j : TileJob) (s : State) (l : Nat) : OnlyCharged p s (countPass p j s l) := by
  obtain ⟨u, hu, hcharged, -⟩ := countPass_counts p j s l
  refine OnlyCharged.trans ?_ hcharged
  rw [hu]
  split
  · exact onlyCharged_modUsage s p _
  · exact OnlyCharged.refl p s

/-- A first run charges an engine's time; one that runs again is not charged twice (R315). -/
theorem engineNs_countPass (p : Nat) (j : TileJob) (s : State) (l : Nat) :
    (part (countPass p j s l) p).usage.engineNs =
      if j.replays = 0 then satAdd (part s p).usage.engineNs (now s - j.startFt) else (part s p).usage.engineNs := by
  obtain ⟨u, hu, -, hparts⟩ := countPass_counts p j s l
  rw [part_congr hparts, hu]
  split
  · rw [usage_modUsage]
  · rfl

theorem engineNs_countPasses (p : Nat) (j : TileJob) (ls : List Nat) : ∀ s : State,
    (part (ls.foldl (countPass p j) s) p).usage.engineNs =
      if j.replays = 0 then ls.foldl (fun n _ => satAdd n (now s - j.startFt)) (part s p).usage.engineNs
      else (part s p).usage.engineNs := by
  induction ls with
  | nil => exact fun s => (ite_self _).symm
  | cons l ls ih =>
    intro s
    rw [List.foldl_cons, ih, engineNs_countPass, (onlyCharged_countPass p j s l).now]
    split <;> rfl

/-! The pass at hand -/

/-- The first of a list that meets a test is the first that meets a stronger one, where it does. -/
theorem find?_of_imp {α : Type} {P Q : α → Bool} (himp : ∀ a, P a = true → Q a = true) {a : α} (hP : P a = true) :
    ∀ {l : List α}, l.find? Q = some a → l.find? P = some a
  | b :: l, h => by
    cases hQ : Q b with
    | true =>
      rw [List.find?_cons_of_pos hQ] at h
      obtain rfl := Option.some.inj h
      exact List.find?_cons_of_pos hP
    | false =>
      rw [List.find?_cons_of_neg (by rw [hQ]; decide)] at h
      rw [List.find?_cons_of_neg (fun hb => by rw [himp b hb] at hQ; cases hQ)]
      exact find?_of_imp himp hP h

@[simp] theorem length_modFirst (test : TileJob → Bool) (F : TileJob → TileJob) : ∀ js, (modFirst test F js).length = js.length
  | [] => rfl
  | j :: js => by
    unfold modFirst
    split
    · rfl
    · rw [List.length_cons, length_modFirst test F js, List.length_cons]

/-- The pass that is changed stays in its place. -/
theorem getElem?_modFirst {test : TileJob → Bool} (F : TileJob → TileJob) {j : TileJob} :
    ∀ {js : List TileJob}, js.find? test = some j → ∃ i : Nat, js[i]? = some j ∧ (modFirst test F js)[i]? = some (F j)
  | k :: js, h => by
    unfold modFirst
    split
    next hk =>
      rw [List.find?_cons_of_pos hk] at h
      obtain rfl := Option.some.inj h
      exact ⟨0, rfl, rfl⟩
    next hk =>
      rw [List.find?_cons_of_neg hk] at h
      obtain ⟨i, hi, hmod⟩ := getElem?_modFirst F h
      exact ⟨i + 1, hi, hmod⟩

/-- The first pass of an engine in its descriptor's list. -/
theorem find?_of_firstPass {s : State} {l : Nat} {test : TileJob → Bool} {f : InFlight} {j : TileJob}
    (h : firstPass s l test = some (f, j)) : f.jobs.find? (fun i => i.uses l && test i) = some j := by
  obtain ⟨g, hg, hpass⟩ := List.exists_of_findSome?_eq_some h
  split at hpass
  · cases hpass
  · obtain ⟨i, hi, hpair⟩ := Option.map_eq_some_iff.mp hpass
    obtain ⟨rfl, rfl⟩ := Prod.mk.inj hpair
    exact hi

/-- The pass that an engine runs as the first of its group is the first of the engine's own that meets the test. -/
theorem leads_of_firstPass {s : State} {l : Nat} {test : TileJob → Bool} {f : InFlight} {j : TileJob}
    (h : firstPass s l test = some (f, j)) (hl : j.engine = l) : f.jobs.find? (fun i => i.engine == l && test i) = some j := by
  have hfind := find?_of_firstPass h
  have htest := List.find?_some hfind
  simp only [Bool.and_eq_true] at htest
  refine find?_of_imp (fun i hi => ?_) ?_ hfind
  · simp only [Bool.and_eq_true] at hi ⊢
    exact ⟨by rw [TileJob.uses, hi.1, Bool.true_or], hi.2⟩
  · rw [htest.2, hl, beq_self_eq_true, Bool.and_self]

/-- The pass at hand of a running engine. -/
theorem firstPass_of_runningPass {s : State} {l : Nat} {f : InFlight} {j : TileJob} (h : runningPass s l = some (f, j)) :
    firstPass s l (fun i => !i.passDone) = some (f, j) ∧ j.engine = l := by
  obtain ⟨hfirst, hruns⟩ := Option.filter_eq_some_iff.mp h
  simp only [Bool.and_eq_true, beq_iff_eq] at hruns
  exact ⟨hfirst, hruns.1⟩

/-! A pass ends -/

/-- What a descriptor notes of a pass that has ended: whether it ran again, and the slots it ran on. -/
def noteEnd (s : State) (j : TileJob) (g : InFlight) : InFlight :=
  { g with replays := g.replays + bit j.mismatched, touched := g.touched ++ (passSlots s j).filter (fun n => !g.touched.contains n) }

theorem endPass_eq (s : State) (f : InFlight) (j : TileJob) :
    endPass s f j = j.engines.foldl beginNext (modPass (modFlight (j.engines.foldl (countPass f.h.p.val j) s) f.id (noteEnd s j))
      f.id j.engine (fun i => { i with passDone := true })) := rfl

/-- The log entry of a mismatch (R145; log entry 107). -/
def mismatchReport (s s1 : State) (f : InFlight) (j : TileJob) : Report :=
  { cls := 1, code := freeNat s1 1, p := f.h.p.val, unitKind := 1, unitIndex := (slotOfEngine s j.engine).getD 0, tag := f.h.tag,
    opcode := f.opcode, ring := f.h.ring.val, detail := j.engine }

theorem rerunPass_eq (s : State) (f : InFlight) (j : TileJob) :
    rerunPass s f j =
      modPass (modFlight (logFault (spendFree (j.engines.foldl (countPass f.h.p.val j) s))
          (mismatchReport s (j.engines.foldl (countPass f.h.p.val j) s) f j)) f.id (fun g => { g with skipped := g.skipped + 1 }))
        f.id j.engine (fun i => { i with mismatched := true, replays := i.replays + 1, startFt := now s }) := rfl

/-- A descriptor and its pass at hand are changed together. -/
theorem flight_modPass {s : State} {id : Nat} {f : InFlight} (hf : flight s id = some f) (l : Nat) {F : InFlight → InFlight}
    (hF : ∀ x, (F x).id = x.id) (G : TileJob → TileJob) :
    flight (modPass (modFlight s id F) id l G) id =
      some { F f with jobs := modFirst (fun i => i.engine == l && !i.passDone) G (F f).jobs } := by
  rw [modPass, flight_modFlight_same, flight_modFlight_same _ _ hF, hf]
  · rfl
  · exact fun _ => rfl

section Ends

variable {s : State} {l : Nat} {f : InFlight} {j : TileJob} (hordered : FlightsOrdered s) (hrun : runningPass s l = some (f, j))
include hrun

include hordered in
theorem flight_of_running : flight s f.id = some f :=
  flight_of_mem hordered (flying_of_firstPass (firstPass_of_runningPass hrun).1).1

/-- The running pass is the one of its list that a change of its engine's pass meets. -/
theorem running_changes (F : TileJob → TileJob) :
    ∃ i : Nat, f.jobs[i]? = some j ∧ (modFirst (fun i => i.engine == j.engine && !i.passDone) F f.jobs)[i]? = some (F j) := by
  obtain ⟨hfirst, hl⟩ := firstPass_of_runningPass hrun
  exact getElem?_modFirst F (hl.symm ▸ leads_of_firstPass hfirst hl)

include hordered in
/-- The pass waits for its commit, is charged, and engines go on. -/
theorem endPass_ends {u : State} (hu : WorkKept s u) :
    ∃ (g : InFlight) (i : Nat), flight (endPass u f j) f.id = some g ∧ f.jobs[i]? = some j ∧
      g.jobs[i]? = some { j with passDone := true } ∧ g.jobs.length = f.jobs.length ∧ g.replays = f.replays + bit j.mismatched ∧
      StoreKept u (endPass u f j) ∧
      (part (endPass u f j) f.h.p.val).usage.engineNs =
        (if j.replays = 0 then j.engines.foldl (fun n _ => satAdd n (now s - j.startFt)) (part s f.h.p.val).usage.engineNs
         else (part s f.h.p.val).usage.engineNs) ∧
      (endPass u f j).regs = u.regs ∧ (endPass u f j).faults = u.faults ∧ OthersKept u (endPass u f j) f.h.p.val := by
  have hcharged := OnlyCharged.foldl (onlyCharged_countPass f.h.p.val j) j.engines u
  have hns := engineNs_countPasses f.h.p.val j j.engines u
  obtain ⟨i, hi, hmod⟩ := running_changes hrun (fun i => { i with passDone := true })
  rw [endPass_eq]
  generalize j.engines.foldl (countPass f.h.p.val j) u = v at hcharged hns
  have hflight : flight v f.id = some f := (hcharged.flight f.id).trans ((hu.flight f.id).trans (flight_of_running hordered hrun))
  have hgiven := flight_modPass hflight j.engine (F := noteEnd u j) (fun _ => rfl) (fun i => { i with passDone := true })
  generalize hw : modPass (modFlight v f.id (noteEnd u j)) f.id j.engine (fun i => { i with passDone := true }) = w at hgiven
  have hvw : OnlyPasses v w := by
    rw [← hw]
    rfl
  have honly : OnlyPasses v (j.engines.foldl beginNext w) := onlyPasses_trans hvw (onlyPasses_foldl onlyPasses_beginNext _ _)
  obtain ⟨g, hg, hsame, hbegun⟩ := samePasses_beginAll j.engines hgiven
  obtain ⟨k, hk, -, hkept⟩ := begun_of_exists hbegun hmod
  have hparts : (j.engines.foldl beginNext w).parts = v.parts := by rw [honly]
  refine ⟨g, i, hg, hi, ?_, ?_, ?_, storeKept_trans hcharged.storeKept (storeKept_of_onlyPasses honly), ?_, ?_, ?_, ?_⟩
  · rw [hk, hkept rfl]
  · rw [← hbegun.length_eq, length_modFirst]
    rfl
  · rw [hsame]
    rfl
  · rw [part_congr hparts, hns, hu.now, hu.engineNs]
  · rw [honly, hcharged.eq]
  · rw [honly, hcharged.eq]
  · exact othersKept_trans hcharged.others (othersKept_of_parts hparts _)

include hordered in
/-- A pass whose residue differs for the first time runs again on its slot. -/
theorem rerunPass_reruns {u : State} (hu : WorkKept s u) :
    ∃ (g : InFlight) (i : Nat), flight (rerunPass u f j) f.id = some g ∧ f.jobs[i]? = some j ∧
      g.jobs[i]? = some { j with mismatched := true, replays := j.replays + 1, startFt := now s } ∧
      g.jobs.length = f.jobs.length ∧ g.skipped = f.skipped + 1 ∧ StoreKept u (rerunPass u f j) := by
  have hcharged := OnlyCharged.foldl (onlyCharged_countPass f.h.p.val j) j.engines u
  obtain ⟨i, hi, hmod⟩ := running_changes hrun (fun i => { i with mismatched := true, replays := i.replays + 1, startFt := now s })
  rw [rerunPass_eq, hu.now]
  generalize j.engines.foldl (countPass f.h.p.val j) u = v at hcharged
  have hlogged : WorkKept v (logFault (spendFree v) (mismatchReport u v f j)) := workKept_update.trans (workKept_logFault _ _)
  have hflight : flight (logFault (spendFree v) (mismatchReport u v f j)) f.id = some f :=
    (hlogged.flight f.id).trans ((hcharged.flight f.id).trans ((hu.flight f.id).trans (flight_of_running hordered hrun)))
  exact ⟨_, i, flight_modPass hflight j.engine (F := fun g => { g with skipped := g.skipped + 1 }) (fun _ => rfl) _, hi, hmod,
    length_modFirst _ _ _, rfl, storeKept_trans hcharged.storeKept hlogged.storeKept⟩

end Ends

end Sys2Proof.Proofs.PassEnds
end

section
/-! O25: passes end and commit. -/

namespace Sys2Proof.Proofs.PassesCommit

open Sys2Proof Sys2Proof.Machine
open Sys2Proof.Proofs.Writes Sys2Proof.Proofs.Starting Sys2Proof.Proofs.Passes Sys2Proof.Proofs.SealedCommit
open Sys2Proof.Proofs.TilePasses Sys2Proof.Proofs.LoggedWork Sys2Proof.Proofs.PassEnds

/-! What a commit writes -/

theorem onlyWrites_setUnitMetas (p q : Nat) (m : TileMeta) (n : Nat) : ∀ (s : State) (u : Nat),
    OnlyWrites q s (setUnitMetas s p u m n) := by
  induction n with
  | zero => exact fun s _ => OnlyWrites.refl q s
  | succ n ih => exact fun s u => OnlyWrites.trans onlyWrites_update (ih (setUnitMeta s p u m) (u + 1))

theorem onlyWrites_writeTarget (p : Nat) (j : TileJob) (s : State) (t : Nat × Bytes × Option TileMeta) :
    OnlyWrites p s (writeTarget p j s t) := by
  unfold writeTarget
  split
  · split
    · exact (onlyWrites_pwrite s p _ _).trans (onlyWrites_setUnitMetas p p _ _ _ _)
    · exact onlyWrites_writeMarked s p _ _ _ _ _
  · exact onlyWrites_writeMarked s p _ _ _ _ _

theorem onlyWrites_writeJob (s : State) (p : Nat) (j : TileJob) : OnlyWrites p s (writeJob s p j) :=
  OnlyWrites.foldl (onlyWrites_writeTarget p j) _ _

theorem onlySlots_dropTarget (p : Nat) (s : State) (t : Nat × Bytes × Option TileMeta) : OnlySlots s (dropTarget p s t) := by
  unfold dropTarget dropResidentAt dropResident
  split
  · split <;> rfl
  · rfl

/-- After a commit the Cuffs alone change beside what it wrote. -/
theorem onlySlots_afterWrite (s : State) (p : Nat) (j : TileJob) : OnlySlots s (residentAfter s p j) := by
  have hdropped : OnlySlots s (j.targets.foldl (dropTarget p) s) := onlySlots_foldl (onlySlots_dropTarget p) _ s
  unfold residentAfter
  dsimp only
  split
  · exact onlySlots_trans hdropped (onlySlots_keepResident _ _ _ _ _)
  · exact hdropped

/-! The list of passes after a commit -/

theorem length_dropFirst {test : TileJob → Bool} : ∀ {js : List TileJob}, (∃ j ∈ js, test j = true) →
    (dropFirst test js).length + 1 = js.length
  | [], h => by
    obtain ⟨j, hj, -⟩ := h
    exact absurd hj List.not_mem_nil
  | i :: js, h => by
    unfold dropFirst
    split
    · rfl
    next hi =>
      have hrest : ∃ j ∈ js, test j = true := by
        obtain ⟨j, hj, htest⟩ := h
        rcases List.mem_cons.mp hj with rfl | hj
        · exact absurd htest hi
        · exact ⟨j, hj, htest⟩
      rw [List.length_cons, length_dropFirst hrest, List.length_cons]

/-! The commit -/

/-- A commit's passes saturate a tile. -/
def clampsTile (j : TileJob) : Bool := j.targets.any (fun t => (t.2.2.map (fun m => m.saturated)).getD false)

/-- The descriptor after the commit of its pass, before it goes on. -/
def committedFlight (f : InFlight) (j : TileJob) (l : Nat) : InFlight :=
  { f with jobs := dropFirst (fun y => y.engine == l && y.passDone) f.jobs, committed := f.committed + bit j.last,
           saturated := f.saturated || clampsTile j, passed := f.passed ++ j.summands }

theorem commitTile_to {s : State} {l : Nat} {f : InFlight} {j : TileJob} (hfirst : firstPass s l (fun i => i.passDone) = some (f, j))
    (hl : j.engine = l) (hcoord : j.coord = none) :
    commitTile s l = retryLandings f.h.p.val 256
      (resumeAll (resumeLanding (settlePasses (committing s f j l) f.id) f.h.p.val .submit) f.h.p.val) := by
  have hscaled : alreadyScaled s f.h.p.val j = false := by simp only [alreadyScaled, hcoord]
  simp only [commitTile, hfirst, Option.filter_some, hl, beq_self_eq_true, if_true, hscaled, Bool.false_eq_true, if_false, committing]

/-- A pass that is none of a round's, a mask's or a chain's only notes its summands. -/
theorem afterCommit_plain {s : State} {f : InFlight} {j : TileJob} (hcoord : j.coord = none) (hmask : j.maskNext = none)
    (hbody : ∀ o, f.body ≠ .zipRecv o) :
    afterCommit s f j = modFlight s f.id (fun g => { g with passed := g.passed ++ j.summands }) := by
  unfold afterCommit
  simp only [hcoord, hmask]
  split
  next hsome => exact nomatch hsome
  next => rfl

section Commits

variable {s : State} {l : Nat} {f : InFlight} {j : TileJob} (hordered : FlightsOrdered s)
  (hfirst : firstPass s l (fun i => i.passDone) = some (f, j)) (hl : j.engine = l)

/-- What a commit leaves beside the descriptor. -/
theorem committing_frame (hcoord : j.coord = none) (hmask : j.maskNext = none) (hbody : ∀ o, f.body ≠ .zipRecv o) :
    (committing s f j l).lining = (writeJob s f.h.p.val j).lining ∧ (committing s f j l).dram = (writeJob s f.h.p.val j).dram ∧
      (committing s f j l).tiles = (writeJob s f.h.p.val j).tiles ∧ (committing s f j l).regs = s.regs ∧
      (committing s f j l).time = s.time := by
  have hwrites := onlyWrites_writeJob s f.h.p.val j
  have hslots := onlySlots_afterWrite (writeJob s f.h.p.val j) f.h.p.val j
  rw [committing, afterCommit_plain hcoord hmask hbody, hslots]
  exact ⟨rfl, rfl, rfl, hwrites.regs, hwrites.time⟩

include hordered hfirst in
theorem flight_committing (hcoord : j.coord = none) (hmask : j.maskNext = none) (hbody : ∀ o, f.body ≠ .zipRecv o) :
    flight (committing s f j l) f.id = some (committedFlight f j l) := by
  have hwrites := onlyWrites_writeJob s f.h.p.val j
  have hslots := onlySlots_afterWrite (writeJob s f.h.p.val j) f.h.p.val j
  have hflight : flight (residentAfter (writeJob s f.h.p.val j) f.h.p.val j) f.id = some f := by
    rw [hslots]
    exact (hwrites.flight f.id).trans (flight_of_mem hordered (flying_of_firstPass hfirst).1)
  rw [committing, afterCommit_plain hcoord hmask hbody, flight_modFlight_same, flight_modFlight_same, hflight]
  · rfl
  · exact fun _ => rfl
  · exact fun _ => rfl

/-- A descriptor whose passes have all committed is done. -/
theorem settlePasses_plain {t : State} {id : Nat} {g : InFlight} (hg : flight t id = some g) (hdone : g.done = none)
    (hphase : g.phase = .running) (hop : subPasses g.opcode = false) :
    settlePasses t id = if !g.jobs.isEmpty then t else finishRef t id (doneStatus g) (doneResult t g) g.faultRef := by
  simp only [settlePasses, hg, hdone, hphase, hop, Option.isSome_none, Bool.false_eq_true, if_false]

end Commits

/-- Nothing is running or finished where no pass is found. -/
theorem commitTile_none {s : State} {l : Nat} (hnone : ∀ g i, firstPass s l (fun y => y.passDone) = some (g, i) → i.engine ≠ l) :
    commitTile s l = s := by
  have hfilter : (firstPass s l (fun y => y.passDone)).filter (fun e => e.2.engine == l) = none := by
    rw [Option.filter_eq_none_iff]
    rintro ⟨g, i⟩ hpass
    simp only [beq_iff_eq]
    exact hnone g i hpass
  simp only [commitTile, hfilter]

section Done

variable {s : State} {l : Nat} {f : InFlight} {j : TileJob}

/-- The status of a descriptor whose last pass has committed, where none was lost or refused (R80). -/
theorem doneStatus_committed (hlost : f.lost = false) (hfailed : f.failed = none) :
    doneStatus (committedFlight f j l) =
      if f.saturated || clampsTile j then stSaturated else if f.replays ≠ 0 then stReplayed else stOk := by
  simp only [doneStatus, committedFlight, hlost, hfailed, precedence, Bool.false_eq_true, if_false]

/-- A descriptor goes on after the commit of a pass: with passes left it stays as it is, with none it is done. -/
theorem settlePasses_committed {t : State} (ht : flight t f.id = some (committedFlight f j l)) (hnow : now t = now s)
    (hdone : f.done = none) (hphase : f.phase = .running) (hop : subPasses f.opcode = false) (hmem : j ∈ f.jobs)
    (hj : j.engine = l ∧ j.passDone = true) :
    ∃ g, flight (settlePasses t f.id) f.id = some g ∧ g.committed = f.committed + bit j.last ∧
      (1 < f.jobs.length → g.jobs.length + 1 = f.jobs.length ∧ g.done = none) ∧
      (f.jobs = [j] → f.lost = false → f.failed = none → ∃ d, g.done = some d ∧ d.ft = now s ∧
        d.status = if f.saturated || clampsTile j then stSaturated else if f.replays ≠ 0 then stReplayed else stOk) := by
  have htest : (j.engine == l && j.passDone) = true := by rw [hj.1, hj.2, beq_self_eq_true, Bool.and_self]
  have hlength : (committedFlight f j l).jobs.length + 1 = f.jobs.length := length_dropFirst ⟨j, hmem, htest⟩
  rw [settlePasses_plain (g := committedFlight f j l) ht hdone hphase hop]
  cases hempty : (committedFlight f j l).jobs.isEmpty with
  | false =>
    rw [if_pos (by decide)]
    refine ⟨_, ht, rfl, fun _ => ⟨hlength, hdone⟩, fun hone => ?_⟩
    rw [List.isEmpty_eq_false_iff, ← List.length_pos_iff] at hempty
    rw [hone, List.length_singleton] at hlength
    omega
  | true =>
    rw [if_neg (by decide), flight_finishRef, ht]
    refine ⟨_, rfl, rfl, fun hmore => ?_, fun _ hlost hfailed => ⟨_, rfl, hnow, doneStatus_committed hlost hfailed⟩⟩
    rw [List.isEmpty_iff_length_eq_zero] at hempty
    omega

theorem settlePasses_frame {t : State} {g : InFlight} (hg : flight t f.id = some g) (hdone : g.done = none) (hphase : g.phase = .running)
    (hop : subPasses g.opcode = false) : settlePasses t f.id = { t with inflight := (settlePasses t f.id).inflight } := by
  rw [settlePasses_plain hg hdone hphase hop]
  split <;> rfl

end Done

/-! The obligation -/

theorem answers_passEnd (e : PassEnd) (s : State) :
    Answers (.tilePassEnd e) s (passEnds s e.engine.val e.corrected e.mismatch) := rfl

theorem answers_commit (engine : Fin 128) (s : State) : Answers (.tileCommit engine) s (commitTile s engine.val) := rfl

theorem passEnds_of_running {s : State} {l corrected : Nat} {mismatch : Bool} {f : InFlight} {j : TileJob}
    (hrun : runningPass s l = some (f, j)) :
    passEnds s l corrected mismatch =
      if mismatch && checksResidue f.opcode then
        if j.mismatched then failSlot (correctCuff s l corrected) ((slotOfEngine s l).getD 0)
        else rerunPass (correctCuff s l corrected) f j
      else endPass (correctCuff s l corrected) f j := by
  simp only [passEnds, hrun]

/-- Settles O25, from how a pass ends (`endPass_ends`, `rerunPass_reruns`) and how its descriptor goes on after its commit. -/
theorem passesEndAndCommit : Obligations.PassesEndAndCommit := by
  intro s e f j l p
  refine ⟨fun hrun hordered => ?_, fun hnone => ?_, fun hfirst hl hordered hphase hop hcoord hmask hbody => ?_, fun hnone => ?_⟩
  · have hans := answers_passEnd e s
    rw [passEnds_of_running hrun] at hans
    have hcorrected := workKept_correctCuff s l e.corrected
    refine ⟨fun hends => ?_, fun hmiss hchecks hfirst => ?_, fun hmiss hchecks hsecond => ?_⟩
    · have htest : (e.mismatch && checksResidue f.opcode) = false := by
        rcases hends with hno | hno <;> rw [hno]
        · rw [Bool.false_and]
        · rw [Bool.and_false]
      rw [htest, if_neg (by decide)] at hans
      obtain ⟨g, i, hg, hi, hdone, hlength, hreplays, hstore, hns, hregs, hfaults, hothers⟩ :=
        endPass_ends hordered hrun hcorrected
      refine ⟨_, g, i, hans, hg, hi, hdone, hlength, hreplays, storeKept_trans hcorrected.storeKept hstore, hns, fun hzero => ?_⟩
      rw [show correctCuff s e.engine.val e.corrected = s by rw [hzero, correctCuff_zero]] at hregs hfaults hothers ⊢
      exact ⟨hregs, hfaults, hothers⟩
    · rw [hmiss, hchecks, hfirst, Bool.and_self, if_pos rfl, if_neg (by decide)] at hans
      obtain ⟨g, i, hg, hi, hagain, hlength, hskipped, hstore⟩ := rerunPass_reruns hordered hrun hcorrected
      exact ⟨_, g, i, hans, hg, hi, hagain, hlength, hskipped, storeKept_trans hcorrected.storeKept hstore⟩
    · rwa [hmiss, hchecks, hsecond, Bool.and_self, if_pos rfl, if_pos rfl] at hans
  · have hans := answers_passEnd e s
    simpa only [passEnds, show runningPass s e.engine.val = none from hnone] using hans
  · have hans := answers_commit e.engine s
    rw [commitTile_to hfirst hl hcoord] at hans
    obtain ⟨-, hdone⟩ := flying_of_firstPass hfirst
    have hcommitted := flight_committing hordered hfirst hcoord hmask hbody
    obtain ⟨hlining, hdram, htiles, hregs, htime⟩ := committing_frame (s := s) (l := l) hcoord hmask hbody
    have hfind := leads_of_firstPass hfirst hl
    have hj := List.find?_some hfind
    simp only [Bool.and_eq_true, beq_iff_eq] at hj
    obtain ⟨g, hg, hcount, hmore, hlast⟩ := settlePasses_committed (s := s) hcommitted (by simp only [now, htime]) hdone hphase hop
      (List.mem_of_find?_eq_some hfind) hj
    have hframe := settlePasses_frame hcommitted hdone hphase hop
    refine ⟨_, g, hans, ?_, ?_, ?_, hg, hcount, hmore, hlast, ?_⟩ <;> rw [hframe]
    · exact hlining
    · exact hdram
    · exact htiles
    · exact hregs
  · have hans := answers_commit e.engine s
    rwa [commitTile_none hnone] at hans

end Sys2Proof.Proofs.PassesCommit
end

section
/-! O39: the tiles of a chain are combined. -/

namespace Sys2Proof.Proofs.ChainTiles

open Sys2Proof Sys2Proof.Machine
open Sys2Proof.Proofs.Writes Sys2Proof.Proofs.Starting Sys2Proof.Proofs.Passes Sys2Proof.Proofs.SealedCommit
open Sys2Proof.Proofs.TilePasses Sys2Proof.Proofs.PassEnds Sys2Proof.Proofs.PassesCommit

/-! Packets -/

theorem answers_zipTileReceive (s : State) (a : Arrival) :
    Answers (.zipTileReceive a) s (takePacket s a 16 (fun t stamp payload => receiveZipTile t a.pkt stamp payload)) := rfl

theorem takePacket_gone {s u : State} {a : Arrival} {ptype : Nat} (hgone : arrivalVerdict s a ptype = .gone u)
    (use : State → Instant → Bytes → State) : takePacket s a ptype use = u := by
  simp only [takePacket, hgone]

theorem takePacket_here {s u : State} {a : Arrival} {ptype : Nat} {stamp : Instant} {pl : Bytes} {key : Option Nat}
    (hhere : arrivalVerdict s a ptype = .here u stamp pl key) (use : State → Instant → Bytes → State) :
    takePacket s a ptype use = packetUsed (releaseCells (use u stamp pl) key a.pkt) a.pkt := by
  simp only [takePacket, hhere]

/-- A tile packet that is taken in leaves what `receiveZipTile` makes of it. -/
theorem leaves_of_receive {s u v : State} {a : Arrival} {stamp : Instant} {pl : Bytes} {key : Option Nat}
    (hhere : arrivalVerdict s a 16 = .here u stamp pl key) (hv : receiveZipTile u a.pkt stamp pl = v) :
    Answers (.zipTileReceive a) s (packetUsed (releaseCells v key a.pkt) a.pkt) := by
  have hans := answers_zipTileReceive s a
  rwa [takePacket_here hhere, hv] at hans

/-! A tile lands -/

theorem lining_of_mem_pocket (x : Partition) (fuel : Nat) : ∀ {off len : Nat} {c : Piece},
    c ∈ piecesFrom x .pocket fuel off len → c.lining = true := by
  induction fuel with
  | zero => exact fun h => absurd h List.not_mem_nil
  | succ fuel ih =>
    intro off len c hc
    unfold piecesFrom at hc
    split at hc
    · exact absurd hc List.not_mem_nil
    · rcases List.mem_cons.mp hc with rfl | hc
      · rfl
      · exact ih hc

/-- No byte at or past the Pocket's first address lies in DRAM (Table 7.4). -/
theorem lining_of_mem_pieces {x : Partition} {a len : Nat} (ha : 2 * 2 ^ 60 ≤ a) {c : Piece} (hc : c ∈ rangePieces x a len) :
    c.lining = true := by
  unfold rangePieces regionOf at hc
  split at hc
  · exact absurd hc List.not_mem_nil
  next rg off hregion =>
    split at hregion
    · omega
    · omega
    · obtain ⟨rfl, rfl⟩ := Prod.mk.inj (Option.some.inj hregion)
      exact lining_of_mem_pocket x _ hc
    · cases hregion

theorem writePieces_dram_of_lining : ∀ {cs : List Piece} (s : State) (bs : Bytes), (∀ c ∈ cs, c.lining = true) →
    (writePieces s cs bs).dram = s.dram
  | [], _, _, _ => rfl
  | c :: cs, s, bs, hcs => by
    have hrest := writePieces_dram_of_lining (writePiece s c (bs.take c.len)) (bs.drop c.len)
      (fun d hd => hcs d (List.mem_cons_of_mem c hd))
    rw [writePieces, hrest, writePiece, if_pos (hcs c List.mem_cons_self)]

/-- What is stored in the Pocket leaves DRAM. -/
theorem pwrite_pocket_dram (s : State) (p u : Nat) (bs : Bytes) : (pwrite s p (pocketAddr u) bs).dram = s.dram := by
  rw [pwrite_dram]
  exact writePieces_dram_of_lining s bs (fun c hc => lining_of_mem_pieces (Nat.le_add_right _ _) hc)

theorem sameBytes_setUnitMetas (q p : Nat) (m : TileMeta) (n : Nat) : ∀ (s : State) (u : Nat),
    SameBytes q s (setUnitMetas s p u m n) := by
  induction n with
  | zero => exact fun s _ => SameBytes.refl q s
  | succ n ih =>
    intro s u
    have hfirst : SameBytes q s (setUnitMeta s p u m) := ⟨rfl, rfl, rfl, rfl, rfl⟩
    exact hfirst.trans (ih (setUnitMeta s p u m) (u + 1))

/-- The tile in its place of the landing area, which no Cuff holds any longer (R91, R130). -/
def landed (s : State) (p u units : Nat) (bs : Bytes) (m : TileMeta) : State :=
  writeTile (dropResident s p u units) p u bs m

theorem onlyWrites_landed (s : State) (p u units : Nat) (bs : Bytes) (m : TileMeta) : OnlyWrites p s (landed s p u units bs m) :=
  ((onlyWrites_dropResident p s p u units).trans (onlyWrites_pwrite _ p _ bs)).trans (onlyWrites_setUnitMetas p p m _ _ u)

theorem sameBytes_landed (s : State) (p u units : Nat) (bs : Bytes) (m : TileMeta) :
    SameBytes p (pwrite s p (pocketAddr u) bs) (landed s p u units bs m) :=
  ((sameBytes_dropResident p s p u units).pwrite_same (pocketAddr u) bs).trans (sameBytes_setUnitMetas p p m _ _ u)

/-! A pass is added -/

/-- The descriptor with one more pass, behind those it has. -/
def addJob (job : TileJob) (g : InFlight) : InFlight := { g with jobs := g.jobs ++ [job] }

theorem runnable_map {F : InFlight → InFlight} (hh : ∀ x, (F x).h = x.h) (hc : ∀ x, (F x).chaining = x.chaining) :
    ∀ (held : List Nat) (fs : List InFlight), runnable held (fs.map F) = (runnable held fs).map F
  | _, [] => rfl
  | held, f :: fs => by
    simp only [List.map_cons, runnable, hh, hc]
    split
    · exact runnable_map hh hc held fs
    · rw [List.map_cons, runnable_map hh hc]

/-- An engine that a list of one names is idle where no pass of it has not ended. -/
theorem idleEngines_one (s : State) (e : Nat) :
    idleEngines s [e] = if firstPass s e (fun j => !j.passDone) = none then [e] else [] := by
  have hone : [e].eraseDups = [e] := rfl
  simp only [idleEngines, hone, List.filter_cons, List.filter_nil, Option.isNone_iff_eq_none]

theorem unmet_of_firstPass {s : State} {l : Nat} {test : TileJob → Bool} (hnone : firstPass s l test = none) {f : InFlight}
    (hf : f ∈ runnable [] s.inflight) (hdone : f.done = none) : f.jobs.find? (fun j => j.uses l && test j) = none := by
  have hpass := List.findSome?_eq_none_iff.mp hnone f hf
  simpa only [hdone, Option.isSome_none, Bool.false_eq_true, if_false, Option.map_eq_none_iff] using hpass

theorem runnable_of_firstPass {s : State} {l : Nat} {test : TileJob → Bool} {f : InFlight} {j : TileJob}
    (h : firstPass s l test = some (f, j)) : f ∈ runnable [] s.inflight := by
  obtain ⟨g, hg, hpass⟩ := List.exists_of_findSome?_eq_some h
  split at hpass
  · cases hpass
  · obtain ⟨i, -, hpair⟩ := Option.map_eq_some_iff.mp hpass
    obtain ⟨rfl, -⟩ := Prod.mk.inj hpair
    exact hg

theorem modFirst_append {test : TileJob → Bool} (F : TileJob → TileJob) (ks : List TileJob) : ∀ {js : List TileJob},
    (∀ j ∈ js, test j = false) → modFirst test F (js ++ ks) = js ++ modFirst test F ks
  | [], _ => rfl
  | j :: js, h => by
    have hj : ¬ test j = true := by simp only [h j List.mem_cons_self, Bool.false_eq_true, not_false_eq_true]
    simp only [List.cons_append, modFirst, if_neg hj, modFirst_append F ks (fun i hi => h i (List.mem_cons_of_mem j hi))]

section Added

variable {s v : State} {f : InFlight} {job : TileJob} (hordered : FlightsOrdered s) (hmem : f ∈ s.inflight) (hdone : f.done = none)
  (hv : v.inflight = (modFlight s f.id (addJob job)).inflight)
include hordered hmem hv

theorem flight_added : flight v f.id = some (addJob job f) := by
  rw [flight_congr hv, flight_modFlight_same s f.id (f := addJob job) (fun _ => rfl), flight_of_mem hordered hmem, Option.map_some]

include hdone in
/-- Where the new pass's engine was idle, its first pass is the new one, and no pass before it in its descriptor runs on that engine. -/
theorem firstPass_added {d : InFlight} {j : TileJob} (hidle : firstPass s job.engine (fun i => !i.passDone) = none)
    (hfirst : firstPass v job.engine (fun i => !i.passDone) = some (d, j)) (hd : d.id = f.id) :
    j = job ∧ ∀ i ∈ f.jobs, (i.engine == job.engine && !i.passDone) = false := by
  have hrun : runnable [] v.inflight = (runnable [] s.inflight).map (fun x => if x.id = f.id then addJob job x else x) := by
    rw [hv]
    exact runnable_map (fun x => by split <;> rfl) (fun x => by split <;> rfl) [] s.inflight
  have hx := runnable_of_firstPass hfirst
  rw [hrun] at hx
  obtain ⟨g, hg, rfl⟩ := List.mem_map.mp hx
  have hid : g.id = f.id := by
    by_contra hne
    rw [if_neg hne] at hd
    exact hne hd
  have hgf : g = f := by
    have hgs := flight_of_mem hordered (mem_of_runnable _ _ hg)
    rw [hid, flight_of_mem hordered hmem] at hgs
    exact (Option.some.inj hgs).symm
  subst hgf
  have hunmet := unmet_of_firstPass hidle hg hdone
  have hfound := find?_of_firstPass hfirst
  rw [if_pos rfl, addJob, List.find?_append, hunmet, Option.none_or] at hfound
  refine ⟨List.mem_singleton.mp (List.mem_of_find?_eq_some hfound), fun k hk => ?_⟩
  have hno := List.find?_eq_none.mp hunmet k hk
  by_contra hyes
  rw [Bool.not_eq_false, Bool.and_eq_true] at hyes
  exact hno (by rw [TileJob.uses, hyes.1, Bool.true_or, hyes.2, Bool.and_self])

include hdone in
/-- The descriptor gets the pass behind those it has, and an idle engine begins it (R78, R93). -/
theorem flight_begun (hnew : job.passDone = false) :
    ∃ (g : InFlight) (k : TileJob), flight ((idleEngines s [job.engine]).foldl beginNext v) f.id = some g ∧
      g.jobs = f.jobs ++ [k] ∧ Begun job k := by
  have hgiven := flight_added hordered hmem hv
  rw [idleEngines_one]
  split
  next hidle =>
    rw [List.foldl_cons, List.foldl_nil]
    rcases flight_beginNext_cases hgiven job.engine with ⟨k, hk⟩ | ⟨d, j, k, hfirst, hd, hk⟩
    · exact ⟨_, job, hk, rfl, Begun.refl job⟩
    · obtain ⟨rfl, hothers⟩ := firstPass_added hordered hmem hdone hv hidle hfirst hd
      refine ⟨_, { j with startFt := now v }, hk, ?_, rfl, fun hended => absurd (hnew.symm.trans hended) Bool.false_ne_true⟩
      simp only [addJob, modFirst_append _ _ hothers, modFirst, hnew, beq_self_eq_true, Bool.not_false, Bool.and_self, if_true]
  · exact ⟨_, job, hgiven, rfl, Begun.refl job⟩

end Added

/-! A tile is combined -/

/-- The unit of tile `i` of a range of the chain's tiles. -/
def chainUnit (first : Nat) (r : ZipRx) (i : Nat) : Nat := tileIx first + i * tileUnits r.width

/-- The place of tile `i` in the landing area (R91). -/
def landUnit (o : ZipRecvOps) (r : ZipRx) (i : Nat) : Nat := chainUnit o.landingTile r (i % o.landingDepth)

/-- The metadata of a tile that has landed (log entry 94). -/
def landedMeta (r : ZipRx) : TileMeta :=
  { state := .plain, width := r.width, mode := r.mode, modulus := r.modulus, mark := r.mark, model := r.model }

/-- The received value on the left, the member's own partial on the right (R91). -/
def chainSum (s : State) (p : Nat) (o : ZipRecvOps) (r : ZipRx) (i : Nat) (bytes : Bytes) : List Int × Bool :=
  addTiles r.mode r.width r.modulus (tileInts r.mode r.width (elems (r.width / 8) bytes), false)
    (tileInts r.mode r.width (readTile s p (chainUnit o.ownTile r i) r.width), false)

/-- The pass that stores a tile's sum. -/
def chainJob (s : State) (p : Nat) (o : ZipRecvOps) (r : ZipRx) (i : Nat) (bytes : Bytes) : TileJob :=
  { tileJob s (groupEngine s p (chainUnit o.ownTile r i) 1 (rankInSleeve s p (tileIx o.ownTile) (tileUnits r.width) i))
      (chainUnit o.dstTile r i) (intBytes r.width (chainSum s p o r i bytes).1)
      (combinedMeta (unitMeta s p (chainUnit o.ownTile r i)) r (chainSum s p o r i bytes).2) with item := i }

theorem combineTile_eq (s : State) (id : Nat) (f : InFlight) (o : ZipRecvOps) (r : ZipRx) (i : Nat) (bytes : Bytes) :
    combineTile s id f o r i bytes =
      (idleEngines s [(chainJob s f.h.p.val o r i bytes).engine]).foldl beginNext
        (modFlight (landed s f.h.p.val (landUnit o r i) (tileUnits r.width) bytes (landedMeta r)) id
          (addJob (chainJob s f.h.p.val o r i bytes))) := rfl

/-- A combined tile is in the landing area and its sum is a pass of the descriptor. -/
theorem combineTile_combines {s : State} {f : InFlight} (hordered : FlightsOrdered s) (hmem : f ∈ s.inflight) (hdone : f.done = none)
    (o : ZipRecvOps) (r : ZipRx) (i : Nat) (bytes : Bytes) :
    ∃ (g : InFlight) (k : TileJob), flight (combineTile s f.id f o r i bytes) f.id = some g ∧ g.jobs = f.jobs ++ [k] ∧
      Begun (chainJob s f.h.p.val o r i bytes) k ∧
      (combineTile s f.id f o r i bytes).lining = (pwrite s f.h.p.val (pocketAddr (landUnit o r i)) bytes).lining ∧
      (combineTile s f.id f o r i bytes).dram = s.dram ∧ (combineTile s f.id f o r i bytes).regs = s.regs := by
  rw [combineTile_eq]
  have hwrites := onlyWrites_landed s f.h.p.val (landUnit o r i) (tileUnits r.width) bytes (landedMeta r)
  have hbytes := sameBytes_landed s f.h.p.val (landUnit o r i) (tileUnits r.width) bytes (landedMeta r)
  generalize landed s f.h.p.val (landUnit o r i) (tileUnits r.width) bytes (landedMeta r) = u at hwrites hbytes
  have hadded : (modFlight u f.id (addJob (chainJob s f.h.p.val o r i bytes))).inflight =
      (modFlight s f.id (addJob (chainJob s f.h.p.val o r i bytes))).inflight := by
    simp only [modFlight, hwrites.inflight]
  obtain ⟨g, k, hg, hjobs, hbegun⟩ := flight_begun hordered hmem hdone hadded rfl
  refine ⟨g, k, hg, hjobs, hbegun, ?_⟩
  rw [onlyPasses_foldl onlyPasses_beginNext]
  exact ⟨hbytes.lining, hbytes.dram.trans (pwrite_pocket_dram s _ _ _), hwrites.regs⟩

/-! A piece joins its tile -/

/-- The bytes of a packet behind those at hand, and the sender's marks (R93, R260). -/
def joined (r : ZipRx) (data : Bytes) (flags : Nat) : ZipRx :=
  { r with received := r.received + data.length, buffer := r.buffer ++ data, mark := r.mark || flags.testBit 0,
           model := r.model || flags.testBit 1 }

/-- The ZIP_RECV behind a tile: what is left of the buffer, and its marks where something is left. -/
def tileTaken (r : ZipRx) : ZipRx :=
  { r with buffer := r.buffer.drop (tileBytes r.width), mark := !(r.buffer.drop (tileBytes r.width)).isEmpty && r.mark,
           model := !(r.buffer.drop (tileBytes r.width)).isEmpty && r.model }

theorem landTiles_short {s : State} {id : Nat} {f : InFlight} {o : ZipRecvOps} {r : ZipRx} (hshort : r.buffer.length < tileBytes r.width) :
    ∀ fuel, landTiles s id f o fuel r = (s, r)
  | 0 => rfl
  | fuel + 1 => by simp only [landTiles, if_pos hshort]

/-- Bytes that complete one tile and not another land that tile. -/
theorem landTiles_one {s : State} {id : Nat} {f : InFlight} {o : ZipRecvOps} {r : ZipRx} (hfull : tileBytes r.width ≤ r.buffer.length)
    (hone : r.buffer.length < 2 * tileBytes r.width) (fuel : Nat) :
    landTiles s id f o (fuel + 1) r =
      (combineTile s id f o r ((r.received - r.buffer.length) / tileBytes r.width) (r.buffer.take (tileBytes r.width)), tileTaken r) := by
  have hshort : (tileTaken r).buffer.length < tileBytes (tileTaken r).width := by
    simp only [tileTaken, List.length_drop]
    omega
  simp only [landTiles, if_neg (Nat.not_lt.mpr hfull)]
  exact landTiles_short hshort fuel

/-- The ZIP_RECV that takes a chain's tiles is in flight and waits for them. -/
theorem receiverOf_eq_some {s : State} {p : Nat} {digest : Bytes} {f : InFlight} {o : ZipRecvOps} {r : ZipRx} {x : Option ZipTx}
    (h : receiverOf s p digest = some (f, o, r, x)) : f ∈ s.inflight ∧ f.h.p.val = p ∧ f.done = none := by
  obtain ⟨g, hg, htakes⟩ := List.exists_of_findSome?_eq_some h
  obtain ⟨hmem, hp⟩ := List.mem_filter.mp hg
  split at htakes
  · split at htakes
    next hgood =>
      cases htakes
      exact ⟨hmem, beq_iff_eq.mp hp, Option.isNone_iff_eq_none.mp hgood.2⟩
    · cases htakes
  · cases htakes

section Received

variable {u : State} {k : Packet} {stamp : Instant} {pl : Bytes}

theorem receiveZipTile_stale (hgen : k.gen ≠ (part u (addrPart k.dst)).gen) : receiveZipTile u k stamp pl = dropStale u := by
  simp only [receiveZipTile, if_pos hgen]

variable (hgen : k.gen = (part u (addrPart k.dst)).gen)
include hgen

theorem receiveZipTile_unreceived (hnone : receiverOf u (addrPart k.dst) k.body = none) :
    receiveZipTile u k stamp pl = zipReply u k (unreceived u (addrPart k.dst) k) := by
  simp only [receiveZipTile, hgen, ne_eq, not_true_eq_false, if_false, hnone]

variable {f : InFlight} {o : ZipRecvOps} {r : ZipRx} {x : Option ZipTx}
  (hrecv : receiverOf u (addrPart k.dst) k.body = some (f, o, r, x))
include hrecv

/-- A packet that finds its receiver is judged by its instant, its sender and its place (R93, R95). -/
theorem receiveZipTile_received :
    receiveZipTile u k stamp pl =
      if o.deadline ≠ 0 ∧ o.deadline ≤ stamp.ns then zipReply u k stLate
      else if k.src ≠ r.prevDst then zipReply u k stPolicy
      else if field pl 0 8 ≠ r.received ∨ r.tiles * tileBytes r.width < r.received + (pl.drop 16).length ∨ 4 ≤ field pl 8 1 then u
      else
        let y := landTiles u f.id f o ((pl.drop 16).length / tileBytes r.width + 2) (joined r (pl.drop 16) (field pl 8 1))
        waitIn y.1 f.id (.zipRecv y.2 x) := by
  simp only [receiveZipTile, hgen, ne_eq, not_true_eq_false, if_false, hrecv]
  rfl

theorem receiveZipTile_late (hlate : ¬ (o.deadline = 0 ∨ stamp.ns < o.deadline)) :
    receiveZipTile u k stamp pl = zipReply u k stLate := by
  rw [receiveZipTile_received hgen hrecv, if_pos (by omega)]

variable (htimely : o.deadline = 0 ∨ stamp.ns < o.deadline)
include htimely

theorem receiveZipTile_stranger (hsrc : k.src ≠ r.prevDst) : receiveZipTile u k stamp pl = zipReply u k stPolicy := by
  rw [receiveZipTile_received hgen hrecv, if_neg (by omega), if_pos hsrc]

variable (hsrc : k.src = r.prevDst)
include hsrc

theorem receiveZipTile_misplaced
    (hplace : ¬ (field pl 0 8 = r.received ∧ r.received + (pl.drop 16).length ≤ r.tiles * tileBytes r.width ∧ field pl 8 1 < 4)) :
    receiveZipTile u k stamp pl = u := by
  rw [receiveZipTile_received hgen hrecv, if_neg (by omega), if_neg (not_not.mpr hsrc), if_pos (by omega)]

theorem receiveZipTile_placed
    (hplace : field pl 0 8 = r.received ∧ r.received + (pl.drop 16).length ≤ r.tiles * tileBytes r.width ∧ field pl 8 1 < 4) :
    receiveZipTile u k stamp pl =
      let y := landTiles u f.id f o ((pl.drop 16).length / tileBytes r.width + 2) (joined r (pl.drop 16) (field pl 8 1))
      waitIn y.1 f.id (.zipRecv y.2 x) := by
  rw [receiveZipTile_received hgen hrecv, if_neg (by omega), if_neg (not_not.mpr hsrc), if_neg (by omega)]

end Received

/-- Settles O39: what each branch of R93 leaves, and where the last piece of a tile comes, the one pass that it adds. -/
theorem chainTilesAreCombined : Obligations.ChainTilesAreCombined := by
  unfold Obligations.ChainTilesAreCombined
  intro s u a stamp pl key hordered
  dsimp only
  refine ⟨fun hgone => ?_, fun hhere => ⟨fun hgen => ?_, fun hgen hnone => ?_, fun f o r x hgen hrecv => ⟨fun hlate => ?_,
    fun htimely hsrc => ?_, fun htimely hsrc hplace => ?_, fun htimely hsrc hplace => ⟨fun hshort => ?_, fun hfull hone => ?_⟩⟩⟩⟩
  · have hans := answers_zipTileReceive s a
    rwa [takePacket_gone hgone] at hans
  · exact leaves_of_receive hhere (receiveZipTile_stale hgen)
  · refine leaves_of_receive hhere ((receiveZipTile_unreceived hgen hnone).trans ?_)
    simp only [unreceived, List.contains_iff_mem]
  · exact leaves_of_receive hhere (receiveZipTile_late hgen hrecv hlate)
  · exact leaves_of_receive hhere (receiveZipTile_stranger hgen hrecv htimely hsrc)
  · exact leaves_of_receive hhere (receiveZipTile_misplaced hgen hrecv htimely hsrc hplace)
  · refine leaves_of_receive hhere ((receiveZipTile_placed hgen hrecv htimely hsrc hplace).trans ?_)
    rw [landTiles_short (r := joined r _ _) hshort]
    rfl
  · obtain ⟨hmem, hp, hdone⟩ := receiverOf_eq_some hrecv
    have hv := receiveZipTile_placed hgen hrecv htimely hsrc hplace
    rw [landTiles_one (r := joined r _ _) hfull hone] at hv
    obtain ⟨g, k, hg, hjobs, ⟨hk, -⟩, hlining, hdram, hregs⟩ :=
      combineTile_combines hordered hmem hdone o (joined r (pl.drop 16) (field pl 8 1))
        ((r.received + (pl.drop 16).length - (r.buffer ++ pl.drop 16).length) / tileBytes r.width)
        ((r.buffer ++ pl.drop 16).take (tileBytes r.width))
    rw [hp] at hk hlining
    refine ⟨_, { g with phase := .zipRecv (tileTaken (joined r (pl.drop 16) (field pl 8 1))) x }, k, leaves_of_receive hhere hv, ?_,
      hjobs, ?_, ?_, ?_, rfl, hlining, hdram, hregs⟩
    · rw [waitIn, flight_modFlight_same]
      · exact congrArg (Option.map _) hg
      · exact fun _ => rfl
    all_goals rw [hk]; rfl

end Sys2Proof.Proofs.ChainTiles
end

section
/-! O38: `ChainDescriptorsStartAndFinish` is refuted. Its clause on a late ZIP_SEND asks for LATE wherever the deadline has passed and the
link key sends and is neither torn nor marked dying. By R333 a descriptor dispatched at or after the instant of its key's expiry completes
POLICY_DENIED; at that instant the command that marks the key dying (R245) may have yet to come, and the model refuses the descriptor for
the key before it looks at the deadline. -/

namespace Sys2Proof.Proofs.ExpiredChainKey

open Sys2Proof Sys2Proof.Machine
open Sys2Proof.Proofs.Starting Sys2Proof.Proofs.TilePasses

theorem keyDying_of_expired {s : State} {p key : Nat} {e : LinkKey} (hkey : linkKey s p key = some e)
    (hexpired : expiryOk s e.expiry = false) : keyDying s p key = true := by
  simp only [keyDying, hkey, hexpired, Bool.not_false, Bool.or_true, Option.map_some, Option.getD_some]

/-- A ZIP_SEND under a key that has expired is refused, whatever its deadline. -/
theorem startZipSend_of_expired {s : State} {id key : Nat} {h : DescHdr} {o : ZipSendOps} {e : LinkKey}
    (hchain : chainKey s h.p.val (declAt s h.p.val o.declAddr).spaceId = some key) (hkey : linkKey s h.p.val key = some e)
    (htorn : e.torn = false) (hexpired : expiryOk s e.expiry = false) : startZipSend s id h o = refuse s id stPolicy := by
  unfold startZipSend
  dsimp only
  split
  · rfl
  · simp only [hchain, hkey, htorn, keyDying_of_expired hkey hexpired, Option.map_some, Option.getD_some, Bool.or_true, if_true,
      Bool.false_eq_true, if_false]

/-- What a dispatched ZIP_SEND reads of its key is as it was before its dispatch. -/
theorem chainKey_takenUp (s : State) (h : DescHdr) (b : DescBody) (p space : Nat) :
    chainKey (takenUp s h b) p space = chainKey s p space := by
  simp only [chainKey, takenUp_part, reg, regField, takenUp_regs]

theorem linkKey_takenUp (s : State) (h : DescHdr) (b : DescBody) (p key : Nat) : linkKey (takenUp s h b) p key = linkKey s p key := by
  rw [takenUp_only]
  rfl

theorem declAt_takenUp (s : State) (h : DescHdr) (b : DescBody) (p a : Nat) : declAt (takenUp s h b) p a = declAt s p a := by
  simp only [declAt, (sameBytes_takenUp s h b p).pread_eq]

theorem expiryOk_takenUp (s : State) (h : DescHdr) (b : DescBody) (t : Nat) : expiryOk (takenUp s h b) t = expiryOk s t := by
  simp only [expiryOk, takenUp_now]

/-- A dispatched ZIP_SEND under a key that has expired ends POLICY_DENIED. -/
theorem zipSend_ends_of_expired {s t : State} {key : Nat} {h : DescHdr} {o : ZipSendOps} {e : LinkKey} (hordered : FlightsOrdered s)
    (hd : Dispatches s h (.zipSend o)) (hchain : chainKey s h.p.val (declAt s h.p.val o.declAddr).spaceId = some key)
    (hkey : linkKey s h.p.val key = some e) (htorn : e.torn = false) (hexpired : expiryOk s e.expiry = false)
    (hans : Answers (.zipSend h o) s t) : Ends s t h (.zipSend o) stPolicy 0 := by
  have hrefused : Answers (.zipSend h o) s (startZipSend (takenUp s h (.zipSend o)) s.nextId h o) :=
    answers_runBody rfl hd (fun _ => rfl)
  rw [startZipSend_of_expired (key := key) (e := e) (by rw [chainKey_takenUp, declAt_takenUp, hchain])
    (by rw [linkKey_takenUp, hkey]) htorn (by rw [expiryOk_takenUp, hexpired])] at hrefused
  rw [Host.Outcome.next.inj (hans.symm.trans hrefused)]
  exact ends_finish stPolicy 0 (flight_takenUp hordered h (.zipSend o)) rfl rfl (takenUp_now s h (.zipSend o))

theorem status_eq_of_ends {s t : State} {h : DescHdr} {b : DescBody} {st st' : Status} {r r' : Nat} (h1 : Ends s t h b st r)
    (h2 : Ends s t h b st' r') : st = st' := by
  obtain ⟨f, hf, -, -, -, -, hdone⟩ := h1
  obtain ⟨g, hg, -, -, -, -, hdone'⟩ := h2
  obtain rfl := Option.some.inj (hf.symm.trans hg)
  exact congrArg Done.status (Option.some.inj (hdone.symm.trans hdone'))

/-! A chain at the instant its key expires -/

/-- A sealed policy of dimension 4,096. -/
def chainPolicy : Bytes :=
  natLe 2 1 ++ natLe 1 3 ++ natLe 1 6 ++ natLe 4 4096 ++ zeros 12 ++ natLe 4 16 ++ natLe 8 1 ++ zeros 8 ++ natLe 8 4 ++
    natLe 8 1000000000 ++ zeros 8 ++ natLe 1 1 ++ zeros 63

/-- A LIVE partition with Sleeve 0, a granule of DRAM and one of the window, and its space slot 0 LIVE. -/
def chainMember : Partition :=
  { mode := .live, gen := 1, sleeves := 1#16, dram := [0], host := [1], cclSlots := 8, policy := chainPolicy,
    spaces := [(0, { mode := .live })] }

/-- A declaration of round 5 over one 16-bit tile and two members, this partition the first, in space 3 (R89). -/
def chainDeclaration : Bytes :=
  natLe 2 0x0401 ++ zeros 2 ++ natLe 2 2 ++ zeros 2 ++ natLe 8 5 ++ natLe 4 1 ++ zeros 12 ++ natLe 8 3 ++ zeros 24 ++
    natLe 4 0 ++ natLe 4 4096

/-- Its link key, which expires at 100,000 ns. -/
def expiringKey : LinkKey :=
  { p := 0, keyId := 1, key := zeros 32, ctr := 1, torn := false, expiry := 100000, dying := false }

/-- A module in RUN at 100,000 ns with the declaration in the window, a PLAIN tile of the round, and space 3 in slot 0 under the key. -/
def keyExpiresNow : State :=
  setReg (setReg (pwrite { State.reset with
    parts := [(0, chainMember)]
    slots := (List.range 8).map (fun i => (i, { logical := some i }))
    faults := { mode := .run }
    collar := { bootStatus := 0 }
    time := { mode := .locked, ns := 100000, hops := 0, source := 0 }
    tiles := [(0, { state := .plain, width := 16, roundId := 5 })]
    shawl := { State.reset.shawl with keys := [expiringKey] } } 0 (2 ^ 60) chainDeclaration) (.spId 0 0) 3) (.spCtrl 0 0) 1

def lateHeader : DescHdr := { p := 0, ring := 0, slot := 0, gen := 1, hflags := 0, tag := 7, stamp := ⟨90000, 0⟩ }

/-- A ZIP_SEND of the tile, whose deadline is the present instant. -/
def lateSend : ZipSendOps := { declAddr := 2 ^ 60, roundId := 5, srcTile := 0, tileCount := 1, deadline := 100000 }

theorem lateSend_dispatches : FlightsOrdered keyExpiresNow ∧ Dispatches keyExpiresNow lateHeader (.zipSend lateSend) := by
  have hnone : keyExpiresNow.inflight = [] := by decide +kernel
  refine ⟨⟨by simp only [hnone, List.map_nil, List.Pairwise.nil], by simp only [hnone, List.not_mem_nil, false_imp_iff, implies_true]⟩,
    by decide +kernel, by decide +kernel, by decide +kernel⟩

/-- The declaration names this partition and its tile agrees with it (R90). -/
theorem lateSend_agrees :
    declOk keyExpiresNow 0 (declAt keyExpiresNow 0 lateSend.declAddr) = true ∧
      (declAt keyExpiresNow 0 lateSend.declAddr).roundId = 5 ∧ (declAt keyExpiresNow 0 lateSend.declAddr).tiles = 1 ∧
      chainPlace keyExpiresNow 0 (declAt keyExpiresNow 0 lateSend.declAddr) + 1 < (declAt keyExpiresNow 0 lateSend.declAddr).count ∧
      (rangeMetas keyExpiresNow 0 (tileIx 0) (tileUnits (widthBits (declAt keyExpiresNow 0 lateSend.declAddr).width)) 1).all
        (chainTileOk (declAt keyExpiresNow 0 lateSend.declAddr)) = true ∧
      roundUnmasked (part keyExpiresNow 0) 5 = true := by
  decide +kernel

/-- Its key sends, and has expired by the present instant, which is the deadline. -/
theorem lateSend_key :
    chainKey keyExpiresNow 0 (declAt keyExpiresNow 0 lateSend.declAddr).spaceId = some 1 ∧
      linkKey keyExpiresNow 0 1 = some expiringKey ∧ keySends keyExpiresNow 0 1 = true ∧
      expiryOk keyExpiresNow expiringKey.expiry = false ∧ lateSend.deadline ≤ now keyExpiresNow := by
  decide +kernel

/-- Refutes O38: where the link key expires at the instant of a ZIP_SEND whose deadline has come, the model ends the descriptor
POLICY_DENIED, while the clause asks for LATE. -/
theorem not_chainDescriptorsStartAndFinish : ¬ Obligations.ChainDescriptorsStartAndFinish := by
  intro h
  obtain ⟨hordered, hd⟩ := lateSend_dispatches
  obtain ⟨hchain, hkey, hsends, hexpired, hlate⟩ := lateSend_key
  obtain ⟨hsend, -⟩ := h.1 keyExpiresNow lateHeader hordered
  obtain ⟨-, hagreeing⟩ := hsend lateSend hd
  obtain ⟨-, -, hkeyed⟩ := hagreeing 1 expiringKey lateSend_agrees hchain hkey
  obtain ⟨hends, -⟩ := hkeyed rfl hsends rfl
  obtain ⟨t, hans, hendsLate, -⟩ := hends (by decide) hlate
  have hendsPolicy := zipSend_ends_of_expired hordered hd hchain hkey rfl hexpired hans
  exact absurd (status_eq_of_ends hendsLate hendsPolicy) (by decide)

end Sys2Proof.Proofs.ExpiredChainKey
end

section
/-! SUPPORT. What recovery work leaves of a partition (R102 to R117): the units of an old area given back, bytes stored, and the rounds'
records changed, while the descriptors in flight, the time and the registers stand. -/

namespace Sys2Proof.Proofs.RecoveryRounds

open Sys2Proof Sys2Proof.Machine
open Sys2Proof.Proofs.Writes Sys2Proof.Proofs.Starting Sys2Proof.Proofs.SealedWindows Sys2Proof.Proofs.SealedTurns
open Sys2Proof.Proofs.SealedStart Sys2Proof.Proofs.ChainTiles

/-! Dispatch -/

/-- A descriptor that passes its tests has its addresses where its opcode wants them (R215, step 5). -/
theorem addressOk_of_dispatches {s : State} {h : DescHdr} {b : DescBody} (hd : Dispatches s h b) : addressOk s h b = true := by
  obtain ⟨-, -, hruns⟩ := hd
  by_contra hno
  simp only [Bool.not_eq_true] at hno
  simp only [decideDesc, hno, Bool.and_false, Bool.not_false, if_true] at hruns
  repeat' split at hruns
  all_goals cases hruns

/-- A refused descriptor ends with nothing else changed. -/
theorem ends_of_refused {s : State} {c : Instr} {h : DescHdr} {b : DescBody} {st : Status} (hr : Refused s c h b st) :
    ∃ t, Answers c s t ∧ Ends s t h b st 0 ∧ OnlyFlights s t := by
  obtain ⟨t, hans, hends, honly, -⟩ := hr
  exact ⟨t, hans, hends, honly⟩

/-! The frame -/

/-- From `s` to `t` recovery work of partition `p` has been stored: beside memory, its counters and its rounds' records may have changed,
and no descriptor in flight, no time, no register and no other partition. -/
structure OnlyRecovers (p : Nat) (s t : State) : Prop where
  inflight : t.inflight = s.inflight
  time : t.time = s.time
  regs : t.regs = s.regs
  others : OthersKept s t p
  own : part t p = { part s p with usage := (part t p).usage, rounds := (part t p).rounds }

theorem OnlyRecovers.trans {p : Nat} {s t u : State} (h1 : OnlyRecovers p s t) (h2 : OnlyRecovers p t u) : OnlyRecovers p s u :=
  ⟨h2.inflight.trans h1.inflight, h2.time.trans h1.time, h2.regs.trans h1.regs, othersKept_trans h1.others h2.others,
    by rw [h2.own, h1.own]⟩

theorem onlyRecovers_of_onlyWrites {p : Nat} {s t : State} (h : OnlyWrites p s t) : OnlyRecovers p s t :=
  ⟨h.inflight, h.time, h.regs, h.others, by rw [h.own]⟩

theorem onlyRecovers_of_onlyFreed {s t : State} (p : Nat) (h : OnlyFreed s t) : OnlyRecovers p s t := by
  rw [h]
  exact ⟨rfl, rfl, rfl, fun _ _ => rfl, rfl⟩

theorem onlyRecovers_modRound (s : State) (p round : Nat) (F : Round → Round) : OnlyRecovers p s (modRound s p round F) :=
  ⟨rfl, rfl, rfl, othersKept_modPart s p _, by rw [modRound, part_modPart_same]⟩

/-- A change that leaves the memories. -/
theorem OnlyRecovers.sameBytes {p : Nat} {s t : State} (h : OnlyRecovers p s t) (hl : t.lining = s.lining) (hd : t.dram = s.dram) :
    SameBytes p s t :=
  ⟨hl, hd, by rw [h.own], by rw [h.own], by rw [h.own]⟩

theorem sameBytes_modRound (s : State) (p round : Nat) (F : Round → Round) : SameBytes p s (modRound s p round F) :=
  (onlyRecovers_modRound s p round F).sameBytes rfl rfl

/-- The descriptor taken up ends after its work with a status and a result. -/
theorem OnlyRecovers.ends {s t : State} {h : DescHdr} {b : DescBody} {p : Nat} (hrec : OnlyRecovers p (takenUp s h b) t)
    (hordered : FlightsOrdered s) (st : Status) (r : Nat) :
    Ends s (finish t s.nextId st r) h b st r ∧ OthersKept s (finish t s.nextId st r) p ∧
      (finish t s.nextId st r).regs = s.regs := by
  refine ⟨ends_finish st r ((flight_congr hrec.inflight _).trans (flight_takenUp hordered h b)) rfl rfl ?_, ?_, ?_⟩
  · simp only [now, hrec.time, takenUp_time]
  · exact othersKept_trans (othersKept_of_parts (takenUp_parts s h b) p) hrec.others
  · exact hrec.regs.trans (takenUp_regs s h b)

/-! The rounds -/

theorem rounds_of_onlyWrites {p : Nat} {s t : State} (h : OnlyWrites p s t) : (part t p).rounds = (part s p).rounds := by
  rw [h.own]

theorem roundOf_of_onlyWrites {p round : Nat} {s t : State} {r : Round} (h : OnlyWrites p s t) (hr : roundOf (part s p) round = some r) :
    roundOf (part t p) round = some r := by
  rw [← hr, roundOf, rounds_of_onlyWrites h, roundOf]

theorem part_of_onlyFreed {s t : State} (h : OnlyFreed s t) (p : Nat) : part t p = part s p := by
  rw [h]
  rfl

/-! Areas given back -/

/-- A round without what its recovery area held (R123). -/
def erased (r : Round) : Round := { r with graph := none, entries := [], secrets := [], seeds := [], maskNext := [] }

/-- Erasing a round's area forgets what it held and gives its units back. -/
theorem onlyFreed_eraseArea (s : State) (p round : Nat) : OnlyFreed (modRound s p round erased) (eraseArea s p round) := by
  unfold eraseArea
  dsimp only
  split
  · exact onlyFreed_freeUnits p _ _ _
  · rfl

theorem onlyRecovers_eraseArea (s : State) (p round : Nat) : OnlyRecovers p s (eraseArea s p round) :=
  (onlyRecovers_modRound s p round erased).trans (onlyRecovers_of_onlyFreed p (onlyFreed_eraseArea s p round))

theorem roundOf_eraseArea {s : State} {p round : Nat} {r : Round} (hr : roundOf (part s p) round = some r) :
    roundOf (part (eraseArea s p round) p) round = some (erased r) := by
  rw [part_of_onlyFreed (onlyFreed_eraseArea s p round)]
  exact roundOf_modRound (fun _ => rfl) hr

theorem eraseArea_dram (s : State) (p round : Nat) : (eraseArea s p round).dram = s.dram := by
  rw [onlyFreed_eraseArea s p round]
  rfl

/-- The units given back depend on the Pocket's bytes and the partition's Sleeves only. -/
theorem freeUnits_same (p n : Nat) : ∀ {s t : State} (_ : SameBytes p s t) (u : Nat),
    SameBytes p (freeUnits s p u n) (freeUnits t p u n) := by
  induction n with
  | zero => exact fun h _ => h
  | succ n ih =>
    intro s t h u
    unfold freeUnits
    refine ih ⟨?_, ?_, ?_, ?_, ?_⟩ (u + 1)
    · simp only [h.lining, physUnit_congr h.sleeves]
    · exact h.dram
    · exact h.sleeves
    · exact h.granules
    · exact h.host

theorem onlyFreed_dropOldArea (s : State) (p : Nat) (old : Graph) (first units : Nat) :
    OnlyFreed s (dropOldArea s p old first units) := by
  refine List.foldlRecOn (motive := OnlyFreed s) _ _ rfl (fun t ht i _ => ?_)
  dsimp only
  split
  · exact ht
  · exact onlyFreed_trans ht (onlyFreed_freeUnits p 1 t _)

theorem dropOldArea_same {p : Nat} {s t : State} (h : SameBytes p s t) (old : Graph) (first units : Nat) :
    SameBytes p (dropOldArea s p old first units) (dropOldArea t p old first units) := by
  unfold dropOldArea
  generalize List.range old.recUnits = is
  induction is generalizing s t with
  | nil => exact h
  | cons i is ih =>
    simp only [List.foldl_cons]
    refine ih ?_
    split
    · exact h
    · exact freeUnits_same p 1 h _

/-! Where bytes go -/

theorem dram_of_mem_pieces {x : Partition} {a len : Nat} (ha : a / 2 ^ 60 = 0) {c : Piece} (hc : c ∈ rangePieces x a len) :
    c.lining = false := by
  simp only [rangePieces, regionOf, ha] at hc
  generalize len / 4096 + 2 = fuel at hc
  generalize a % 2 ^ 60 = off at hc
  induction fuel generalizing off len with
  | zero => exact absurd hc List.not_mem_nil
  | succ fuel ih =>
    unfold piecesFrom at hc
    split at hc
    · exact absurd hc List.not_mem_nil
    · rcases List.mem_cons.mp hc with rfl | hc
      · rfl
      · exact ih _ hc

theorem writePieces_lining_of_dram : ∀ {cs : List Piece} (s : State) (bs : Bytes), (∀ c ∈ cs, c.lining = false) →
    (writePieces s cs bs).lining = s.lining
  | [], _, _, _ => rfl
  | c :: cs, s, bs, hcs => by
    have hrest := writePieces_lining_of_dram (writePiece s c (bs.take c.len)) (bs.drop c.len)
      (fun d hd => hcs d (List.mem_cons_of_mem c hd))
    rw [writePieces, hrest, writePiece, if_neg (by rw [hcs c List.mem_cons_self]; decide), touchBlocks_lining]

/-- What is stored in partition DRAM leaves the Pocket. -/
theorem pwrite_dram_lining {a : Nat} (ha : a / 2 ^ 60 = 0) (s : State) (p : Nat) (bs : Bytes) : (pwrite s p a bs).lining = s.lining := by
  rw [pwrite_lining]
  exact writePieces_lining_of_dram s bs (fun c hc => dram_of_mem_pieces ha hc)

theorem writePieces_dram_congr : ∀ (cs : List Piece) {s t : State} (bs : Bytes), t.dram = s.dram →
    (writePieces t cs bs).dram = (writePieces s cs bs).dram
  | [], _, _, _, hd => hd
  | c :: cs, _, _, _, hd => by
    refine writePieces_dram_congr cs _ ?_
    unfold writePiece
    split
    · exact hd
    · simp only [touchBlocks_dram, hd]

/-- What DRAM holds after a store depends on DRAM and on the partition's layout alone. -/
theorem OnlyRecovers.pwrite_dram_eq {p : Nat} {s t : State} (h : OnlyRecovers p s t) (hd : t.dram = s.dram) (a : Nat) (bs : Bytes) :
    (pwrite t p a bs).dram = (pwrite s p a bs).dram := by
  have hpieces : rangePieces (part t p) a bs.length = rangePieces (part s p) a bs.length := by
    have hlayout := piecesFrom_congr (x := part s p) (y := part t p) (by rw [h.own]) (by rw [h.own]) (by rw [h.own])
    simp only [rangePieces, hlayout]
  rw [pwrite_dram, pwrite_dram, hpieces]
  exact writePieces_dram_congr _ bs hd

theorem writePiece_tiles (s : State) (c : Piece) (bs : Bytes) : (writePiece s c bs).tiles = s.tiles := by
  unfold writePiece touchBlocks
  dsimp only
  split
  · rfl
  · split <;> rfl

theorem writePieces_tiles : ∀ (cs : List Piece) (s : State) (bs : Bytes), (writePieces s cs bs).tiles = s.tiles
  | [], _, _ => rfl
  | c :: cs, s, _ => (writePieces_tiles cs _ _).trans (writePiece_tiles s c _)

/-- Bytes alone leave the tiles' metadata. -/
theorem pwrite_tiles (s : State) (p a : Nat) (bs : Bytes) : (pwrite s p a bs).tiles = s.tiles :=
  (OnlyUsage.foldl (onlyUsage_countPiece p) _ _).tiles.trans (writePieces_tiles _ s bs)

end Sys2Proof.Proofs.RecoveryRounds
end

section
/-! SUPPORT. SHARE_RECON as it is dispatched: it is refused, or it reports what it finds for each owner and the round is reconstructed or
lost (R115 to R117). -/

namespace Sys2Proof.Proofs.Reconstruction

open Sys2Proof Sys2Proof.Machine
open Sys2Proof.Proofs.Writes Sys2Proof.Proofs.Starting Sys2Proof.Proofs.SealedTurns Sys2Proof.Proofs.SealedStart
open Sys2Proof.Proofs.TilePasses Sys2Proof.Proofs.RecoveryRounds

/-- What SHARE_RECON finds for the owners of a round. -/
def reconFound (x : Partition) (r : Round) : List Recon :=
  (reconOwners r).map (fun w => reconOwner r.entries (field x.policy 17 1) w.1 w.2)

/-- The owners found short of shares, or with shares that disagree. -/
def countOf (status : Nat) (found : List Recon) : Nat := (found.filter (fun k => k.status == status)).length

/-- A round whose owners' secrets are all rebuilt. -/
def reconstructedRound (found : List Recon) (r : Round) : Round :=
  { r with mode := .reconstructed, entries := [],
           secrets := found.map (fun k => { owner := k.owner, kind := k.kind, index := 0, share := k.secret }) }

/-- The round after its report: reconstructed, or lost where an owner is short of shares. -/
def judgedRound (found : List Recon) (r : Round) : Round :=
  if countOf 1 found = 0 then reconstructedRound found r else erased { r with mode := .unrecoverable }

theorem judgedRound_of_whole {found : List Recon} (hwhole : countOf 1 found = 0) (r : Round) :
    judgedRound found r = reconstructedRound found r := if_pos hwhole

theorem judgedRound_of_short {found : List Recon} (hshort : countOf 1 found ≠ 0) (r : Round) :
    judgedRound found r = erased { r with mode := .unrecoverable } := if_neg hshort

/-- The result of a SHARE_RECON (R117). -/
def reconResult (found : List Recon) : Nat :=
  (found.length - countOf 1 found) % 2 ^ 24 + countOf 1 found % 2 ^ 24 * 2 ^ 24 + min (countOf 2 found) 0xFFFF * 2 ^ 48

/-- The report stands in memory. -/
def reported (s : State) (p : Nat) (o : ShareOps) (found : List Recon) : State :=
  writeMarked s p o.reportAddr (found.flatMap reconRecord) (plainMeta 16) false false

/-- The state after the report: the round has its secrets, or it is lost with its area. -/
def judged (s : State) (p : Nat) (o : ShareOps) (found : List Recon) : State :=
  if countOf 1 found = 0 then modRound (reported s p o found) p o.roundId (reconstructedRound found)
  else eraseArea (modRound (reported s p o found) p o.roundId (fun y => { y with mode := .unrecoverable })) p o.roundId

/-- SHARE_RECON admits the round (R117, Table 4.8). -/
def reconAdmits (s : State) (p : Nat) (o : ShareOps) (r : Round) : Prop :=
  r.mode = .recoverClosed ∧ bundlesOpened (part s p) o.roundId = true ∧ bundleWork s p o.roundId = false

section Dispatches

variable {s : State} {h : DescHdr} {o : ShareOps}

theorem answers_shareRecon (hd : Dispatches s h (.shareRecon o)) :
    Answers (.shareRecon h o) s (startShareRecon (takenUp s h (.shareRecon o)) s.nextId h o) :=
  answers_runBody rfl hd (fun _ => rfl)

theorem startShareRecon_noRound {id : Nat} (hr : roundOf (part s h.p.val) o.roundId = none) :
    startShareRecon s id h o = refuse s id stPolicy := by
  simp only [startShareRecon, hr]

theorem startShareRecon_refused {id : Nat} {r : Round} (hr : roundOf (part s h.p.val) o.roundId = some r)
    (hno : ¬ reconAdmits s h.p.val o r) : startShareRecon s id h o = refuse s id stPolicy := by
  simp only [startShareRecon, hr]
  refine if_pos ?_
  by_contra hadmitted
  simp only [not_or, not_not, Bool.not_eq_true, Bool.not_eq_false'] at hadmitted
  exact hno hadmitted

theorem startShareRecon_admitted {id : Nat} {r : Round} (hr : roundOf (part s h.p.val) o.roundId = some r)
    (hyes : reconAdmits s h.p.val o r) :
    startShareRecon s id h o =
      finish (judged s h.p.val o (reconFound (part s h.p.val) r)) id stOk (reconResult (reconFound (part s h.p.val) r)) := by
  obtain ⟨hmode, hopened, hidle⟩ := hyes
  simp only [startShareRecon, hr, hmode, hopened, hidle]
  rfl

/-- Taking a SHARE_RECON up is no work on bundles. -/
theorem bundleWork_takenUp (p round : Nat) : bundleWork (takenUp s h (.shareRecon o)) p round = bundleWork s p round := by
  simp only [bundleWork, flying, takenUp_only, List.filter_append, List.any_append, List.filter_cons, takenFlight]
  split <;> simp

theorem reconAdmits_takenUp (p : Nat) (r : Round) : reconAdmits (takenUp s h (.shareRecon o)) p o r ↔ reconAdmits s p o r := by
  simp only [reconAdmits, takenUp_part, bundleWork_takenUp]

end Dispatches

/-! The round and memory after the report -/

section Judged

variable {s : State} {p : Nat} {o : ShareOps} {r : Round} (found : List Recon)

theorem onlyRecovers_judged : OnlyRecovers p s (judged s p o found) := by
  have hreport := onlyRecovers_of_onlyWrites (onlyWrites_writeMarked s p o.reportAddr (found.flatMap reconRecord) (plainMeta 16) false false)
  unfold judged
  split
  · exact hreport.trans (onlyRecovers_modRound _ _ _ _)
  · exact hreport.trans ((onlyRecovers_modRound _ _ _ _).trans (onlyRecovers_eraseArea _ _ _))

theorem roundOf_reported (hr : roundOf (part s p) o.roundId = some r) : roundOf (part (reported s p o found) p) o.roundId = some r :=
  roundOf_of_onlyWrites (onlyWrites_writeMarked s p _ _ _ _ _) hr

theorem roundOf_judged (hr : roundOf (part s p) o.roundId = some r) :
    roundOf (part (judged s p o found) p) o.roundId = some (judgedRound found r) := by
  unfold judged judgedRound
  split
  · exact roundOf_modRound (F := reconstructedRound found) (fun _ => rfl) (roundOf_reported found hr)
  · exact roundOf_eraseArea (roundOf_modRound (F := fun y => { y with mode := .unrecoverable }) (fun _ => rfl) (roundOf_reported found hr))

/-- Beside the report, DRAM is as it was, and the Pocket too where no area is given back. -/
theorem judged_memories : (judged s p o found).dram = (pwrite s p o.reportAddr (found.flatMap reconRecord)).dram ∧
    (countOf 1 found = 0 → (judged s p o found).lining = (pwrite s p o.reportAddr (found.flatMap reconRecord)).lining) := by
  have hreport := sameBytes_writeMarked s p o.reportAddr (found.flatMap reconRecord) (plainMeta 16) false false
  unfold judged
  split
  · exact ⟨hreport.dram, fun _ => hreport.lining⟩
  next hshort => exact ⟨(eraseArea_dram _ _ _).trans hreport.dram, fun hnone => absurd hnone hshort⟩

end Judged

/-! SHARE_RECON at its dispatch -/

section Dispatched

variable {s : State} {h : DescHdr} {o : ShareOps} (hordered : FlightsOrdered s) (hd : Dispatches s h (.shareRecon o))
include hordered hd

theorem shareRecon_refused_of_noRound (hr : roundOf (part s h.p.val) o.roundId = none) :
    Refused s (.shareRecon h o) h (.shareRecon o) stPolicy := by
  have hans := answers_shareRecon hd
  rw [startShareRecon_noRound (by rw [takenUp_part]; exact hr)] at hans
  exact refused_of_answers hordered hans

theorem shareRecon_refused {r : Round} (hr : roundOf (part s h.p.val) o.roundId = some r) (hno : ¬ reconAdmits s h.p.val o r) :
    Refused s (.shareRecon h o) h (.shareRecon o) stPolicy := by
  have hans := answers_shareRecon hd
  rw [startShareRecon_refused (by rw [takenUp_part]; exact hr) (mt (reconAdmits_takenUp _ r).mp hno)] at hans
  exact refused_of_answers hordered hans

/-- A round that is admitted is reported, and reconstructed or lost. -/
theorem shareRecon_reports {r : Round} (hr : roundOf (part s h.p.val) o.roundId = some r) (hyes : reconAdmits s h.p.val o r)
    (found : List Recon) (hfound : reconFound (part s h.p.val) r = found) :
    ∃ t, Answers (.shareRecon h o) s t ∧ Ends s t h (.shareRecon o) stOk (reconResult found) ∧
      roundOf (part t h.p.val) o.roundId = some (judgedRound found r) ∧ OthersKept s t h.p.val ∧ t.regs = s.regs ∧
      t.dram = (pwrite s h.p.val o.reportAddr (found.flatMap reconRecord)).dram ∧
      (countOf 1 found = 0 → t.lining = (pwrite s h.p.val o.reportAddr (found.flatMap reconRecord)).lining) := by
  have hans := answers_shareRecon hd
  rw [startShareRecon_admitted (by rw [takenUp_part]; exact hr) ((reconAdmits_takenUp _ r).mpr hyes), takenUp_part, hfound] at hans
  obtain ⟨hends, hothers, hregs⟩ := (onlyRecovers_judged (p := h.p.val) (o := o) found).ends hordered stOk (reconResult found)
  have hstored := (sameBytes_takenUp s h (.shareRecon o) h.p.val).pwrite_same o.reportAddr (found.flatMap reconRecord)
  obtain ⟨hdram, hlining⟩ := judged_memories (s := takenUp s h (.shareRecon o)) (p := h.p.val) (o := o) found
  exact ⟨_, hans, hends, roundOf_judged found (by rw [takenUp_part]; exact hr), hothers, hregs, hdram.trans hstored.dram,
    fun hnone => (hlining hnone).trans hstored.lining⟩

end Dispatched

end Sys2Proof.Proofs.Reconstruction
end

section
/-! SUPPORT. SEED_DERIVE as it is dispatched: GRAPH binds a neighbour table to its round, DERIVE turns the round's secrets into seeds, and
each is refused where the round or its input does not fit (R104 to R111). -/

namespace Sys2Proof.Proofs.SeedDerivation

open Sys2Proof Sys2Proof.Machine
open Sys2Proof.Proofs.Writes Sys2Proof.Proofs.Starting Sys2Proof.Proofs.SealedWindows Sys2Proof.Proofs.SealedTurns
open Sys2Proof.Proofs.SealedStart Sys2Proof.Proofs.TilePasses Sys2Proof.Proofs.ChainTiles Sys2Proof.Proofs.RecoveryRounds

/-! GRAPH -/

/-- The neighbour table that a SEED_DERIVE GRAPH names. -/
def tableBytes (s : State) (p : Nat) (o : SeedOps) : Bytes := pread s p o.srcAddr (graphLen (pread s p o.srcAddr 64))

/-- The round takes a table, and the table passes its checks (R104, R105). -/
def graphAdmits (s : State) (p : Nat) (o : SeedOps) : Bool :=
  graphState (part s p) o.roundId && graphOk (part s p) (graphOf (tableBytes s p o))

/-- The graph that a table gives a round (R105, R106). -/
def boundGraph (b : Bytes) (o : SeedOps) : Graph :=
  { degree := (graphOf b).degree, graphId := (graphOf b).graphId, records := (graphOf b).records, recTile := tileIx o.recTile,
    recUnits := o.recUnits }

/-- The round's old area, if it has one, is free where the new one does not cover it. -/
def areaDropped (s : State) (p : Nat) (o : SeedOps) (old : Option Graph) : State :=
  match old with
  | some g => dropOldArea s p g (tileIx o.recTile) o.recUnits
  | none => s

/-- The round has its graph. -/
def graphBound (s : State) (p : Nat) (o : SeedOps) (old : Option Graph) (b : Bytes) : State :=
  dropResident (modRound (areaDropped s p o old) p o.roundId (fun r => { r with graph := some (boundGraph b o) })) p
    (tileIx o.recTile) o.recUnits

/-- The table stands in partition DRAM too. -/
def graphCopied (s : State) (p : Nat) (o : SeedOps) (old : Option Graph) (b : Bytes) : State :=
  countDram (writeMarked (graphBound s p o old b) p o.graphAddr b (plainMeta 16) false false) p o.srcAddr (2 * b.length) false

theorem areaDropped_same {p : Nat} {s t : State} (hst : SameBytes p s t) (o : SeedOps) (old : Option Graph) :
    SameBytes p (areaDropped s p o old) (areaDropped t p o old) := by
  cases old with
  | none => exact hst
  | some g => exact dropOldArea_same hst g _ _

theorem onlyFreed_areaDropped (s : State) (p : Nat) (o : SeedOps) (old : Option Graph) : OnlyFreed s (areaDropped s p o old) := by
  cases old with
  | none => rfl
  | some g => exact onlyFreed_dropOldArea s p g _ _

theorem onlyRecovers_graphBound (s : State) (p : Nat) (o : SeedOps) (old : Option Graph) (b : Bytes) :
    OnlyRecovers p s (graphBound s p o old b) :=
  ((onlyRecovers_of_onlyFreed p (onlyFreed_areaDropped s p o old)).trans (onlyRecovers_modRound _ p _ _)).trans
    (onlyRecovers_of_onlyWrites (onlyWrites_dropResident p _ p _ _))

theorem sameBytes_graphBound (s : State) (p : Nat) (o : SeedOps) (old : Option Graph) (b : Bytes) :
    SameBytes p (areaDropped s p o old) (graphBound s p o old b) :=
  (sameBytes_modRound _ p _ _).trans (sameBytes_dropResident p _ p _ _)

theorem onlyWrites_graphCopied (s : State) (p : Nat) (o : SeedOps) (old : Option Graph) (b : Bytes) :
    OnlyWrites p (graphBound s p o old b) (graphCopied s p o old b) :=
  (onlyWrites_writeMarked _ p _ _ _ _ _).trans (onlyUsage_countDram _ p _ _ _).toOnlyWrites

theorem sameBytes_graphCopied (s : State) (p : Nat) (o : SeedOps) (old : Option Graph) (b : Bytes) :
    SameBytes p (pwrite (graphBound s p o old b) p o.graphAddr b) (graphCopied s p o old b) :=
  (sameBytes_writeMarked _ p _ _ _ _ _).trans (onlyUsage_countDram _ p _ _ _).sameBytes

theorem onlyRecovers_graphCopied (s : State) (p : Nat) (o : SeedOps) (old : Option Graph) (b : Bytes) :
    OnlyRecovers p s (graphCopied s p o old b) :=
  (onlyRecovers_graphBound s p o old b).trans (onlyRecovers_of_onlyWrites (onlyWrites_graphCopied s p o old b))

theorem roundOf_graphCopied {s : State} {p : Nat} {o : SeedOps} {r : Round} (old : Option Graph) (b : Bytes)
    (hr : roundOf (part s p) o.roundId = some r) :
    roundOf (part (graphCopied s p o old b) p) o.roundId = some { r with graph := some (boundGraph b o) } := by
  refine roundOf_of_onlyWrites (onlyWrites_graphCopied s p o old b) (roundOf_of_onlyWrites (onlyWrites_dropResident p _ p _ _) ?_)
  refine roundOf_modRound (F := fun r => { r with graph := some (boundGraph b o) }) (fun _ => rfl) ?_
  rw [part_of_onlyFreed (onlyFreed_areaDropped s p o old)]
  exact hr

/-- The copy goes to DRAM; the Pocket keeps what the old area has left of it. -/
theorem graphCopied_lining {s : State} {p : Nat} {o : SeedOps} (old : Option Graph) (b : Bytes) (haddr : o.graphAddr / 2 ^ 60 = 0) :
    (graphCopied s p o old b).lining = (areaDropped s p o old).lining := by
  rw [(sameBytes_graphCopied s p o old b).lining, pwrite_dram_lining haddr, (sameBytes_graphBound s p o old b).lining]

theorem graphCopied_dram (s : State) (p : Nat) (o : SeedOps) (old : Option Graph) (b : Bytes) :
    (graphCopied s p o old b).dram = (pwrite s p o.graphAddr b).dram := by
  have hbound : (graphBound s p o old b).dram = s.dram := by
    rw [(sameBytes_graphBound s p o old b).dram, onlyFreed_areaDropped s p o old]
  rw [(sameBytes_graphCopied s p o old b).dram, (onlyRecovers_graphBound s p o old b).pwrite_dram_eq hbound]

section Graph

variable {s : State} {h : DescHdr} {o : SeedOps}

theorem answers_seedGraph (hd : Dispatches s h (.seedGraph o)) :
    Answers (.seedDeriveGraph h o) s (startSeedGraph (takenUp s h (.seedGraph o)) s.nextId h o) :=
  answers_runBody rfl hd (fun _ => rfl)

/-- The copy of a dispatched table goes to partition DRAM (R104). -/
theorem graphAddr_of_dispatches (hd : Dispatches s h (.seedGraph o)) : o.graphAddr / 2 ^ 60 = 0 := by
  have haddr := addressOk_of_dispatches hd
  simp only [addressOk, seedGraphAddress, Bool.and_eq_true, beq_iff_eq] at haddr
  obtain ⟨⟨⟨⟨-, hdram⟩, -⟩, -⟩, -⟩ := haddr
  exact hdram

theorem startSeedGraph_refused {id : Nat} (hno : graphAdmits s h.p.val o = false) :
    startSeedGraph s id h o = refuse s id stPolicy := by
  refine if_pos ?_
  rw [graphAdmits, Bool.and_eq_false_iff] at hno
  simpa only [Bool.or_eq_true, Bool.not_eq_true', tableBytes] using hno

theorem startSeedGraph_admitted {id : Nat} {r : Round} (hr : roundOf (part s h.p.val) o.roundId = some r)
    (hyes : graphAdmits s h.p.val o = true) :
    startSeedGraph s id h o = finish (graphCopied s h.p.val o r.graph (tableBytes s h.p.val o)) id stOk 0 := by
  rw [graphAdmits, Bool.and_eq_true] at hyes
  obtain ⟨hstate, htable⟩ := hyes
  simp only [tableBytes] at htable
  simp only [startSeedGraph, hstate, htable, hr, Option.bind_some, Bool.not_true, Bool.or_self, Bool.false_eq_true, if_false]
  rfl

theorem tableBytes_takenUp (b : DescBody) (p : Nat) : tableBytes (takenUp s h b) p o = tableBytes s p o := by
  simp only [tableBytes, (sameBytes_takenUp s h b p).pread_eq]

theorem graphAdmits_takenUp (b : DescBody) (p : Nat) : graphAdmits (takenUp s h b) p o = graphAdmits s p o := by
  simp only [graphAdmits, takenUp_part, tableBytes_takenUp]

theorem seedGraph_refused (hordered : FlightsOrdered s) (hd : Dispatches s h (.seedGraph o)) (hno : graphAdmits s h.p.val o = false) :
    Refused s (.seedDeriveGraph h o) h (.seedGraph o) stPolicy := by
  have hans := answers_seedGraph hd
  rw [startSeedGraph_refused (by rw [graphAdmits_takenUp]; exact hno)] at hans
  exact refused_of_answers hordered hans

/-- A table that is admitted is bound and copied. -/
theorem seedGraph_binds (hordered : FlightsOrdered s) (hd : Dispatches s h (.seedGraph o)) {r : Round}
    (hr : roundOf (part s h.p.val) o.roundId = some r) (hyes : graphAdmits s h.p.val o = true) :
    ∃ t, Answers (.seedDeriveGraph h o) s t ∧ Ends s t h (.seedGraph o) stOk 0 ∧
      roundOf (part t h.p.val) o.roundId = some { r with graph := some (boundGraph (tableBytes s h.p.val o) o) } ∧
      t.lining = (areaDropped s h.p.val o r.graph).lining ∧
      t.dram = (pwrite s h.p.val o.graphAddr (tableBytes s h.p.val o)).dram ∧ OthersKept s t h.p.val ∧ t.regs = s.regs := by
  have hans := answers_seedGraph hd
  have hround : roundOf (part (takenUp s h (.seedGraph o)) h.p.val) o.roundId = some r := by rw [takenUp_part]; exact hr
  rw [startSeedGraph_admitted hround (by rw [graphAdmits_takenUp]; exact hyes), tableBytes_takenUp] at hans
  have hbytes := sameBytes_takenUp s h (.seedGraph o) h.p.val
  obtain ⟨hends, hothers, hregs⟩ :=
    (onlyRecovers_graphCopied (takenUp s h (.seedGraph o)) h.p.val o r.graph (tableBytes s h.p.val o)).ends hordered stOk 0
  exact ⟨_, hans, hends, roundOf_graphCopied r.graph _ hround,
    (graphCopied_lining r.graph _ (graphAddr_of_dispatches hd)).trans (areaDropped_same hbytes o r.graph).lining,
    (graphCopied_dram _ _ o r.graph _).trans (hbytes.pwrite_same _ _).dram, hothers, hregs⟩

end Graph

/-! DERIVE -/

/-- The transcript records that a SEED_DERIVE DERIVE names. -/
def transcript (s : State) (p : Nat) (o : SeedOps) : List Bytes :=
  pieces 1200 o.recTile (pread s p o.srcAddr (1200 * o.recTile))

/-- The round's secrets stand and the transcript fits its edges (R110). -/
def deriveAdmits (r : Round) (o : SeedOps) (recs : List Bytes) : Prop :=
  r.mode = .reconstructed ∧ o.recTile = (droppedEdges r).length ∧
    (List.zipWith transcriptOk (droppedEdges r) recs).all (fun ok => ok) = true

/-- The self-mask seeds of a round's survivors (R110). -/
def selfSeeds (r : Round) : List Seed :=
  r.survivors.map (fun i => { bytes := selfSeed (secretOf r i 1) r.roundId i, plus := false })

/-- The pair seeds of a round's dropped edges (R111). -/
def pairSeeds (r : Round) (recs : List Bytes) : List Seed :=
  List.zipWith (edgeSeed r ((r.graph.map (fun g => g.graphId)).getD 0)) (droppedEdges r) recs

/-- A round whose seeds are derived. -/
def derivedRound (r : Round) (recs : List Bytes) (y : Round) : Round :=
  { y with mode := .derived, seeds := selfSeeds r ++ pairSeeds r recs, secrets := [], selfCount := (selfSeeds r).length,
           edgeCount := (pairSeeds r recs).length }

/-- Seeds stand in the round's recovery area, where it has one. -/
def seedsStored (s : State) (p : Nat) (area : Option Graph) (seeds : List Seed) : State :=
  match area with
  | some g => pwrite s p (seedArea g) (seeds.flatMap seedEntry)
  | none => s

/-- The round's seeds are derived, and its transcript has been counted. -/
def seedsDerived (s : State) (p : Nat) (o : SeedOps) (r : Round) (recs : List Bytes) : State :=
  countDram (modRound s p o.roundId (derivedRound r recs)) p o.srcAddr (1200 * o.recTile) false

theorem pieces_length (n : Nat) : ∀ (c : Nat) (b : Bytes), (pieces n c b).length = c
  | 0, _ => rfl
  | c + 1, b => congrArg (· + 1) (pieces_length n c (b.drop n))

theorem pairSeeds_length {s : State} {p : Nat} {o : SeedOps} {r : Round} (hcount : o.recTile = (droppedEdges r).length) :
    (pairSeeds r (transcript s p o)).length = (droppedEdges r).length := by
  rw [pairSeeds, List.length_zipWith, transcript, pieces_length, hcount, min_self]

theorem selfSeeds_length (r : Round) : (selfSeeds r).length = r.survivors.length := List.length_map _

theorem onlyWrites_seedsStored (s : State) (p : Nat) (area : Option Graph) (seeds : List Seed) :
    OnlyWrites p s (seedsStored s p area seeds) := by
  cases area with
  | none => exact OnlyWrites.refl p s
  | some g => exact onlyWrites_pwrite s p _ _

theorem seedsStored_tiles (s : State) (p : Nat) (area : Option Graph) (seeds : List Seed) :
    (seedsStored s p area seeds).tiles = s.tiles := by
  cases area with
  | none => rfl
  | some g => exact pwrite_tiles s p _ _

/-- A recovery area lies in the Pocket (R106). -/
theorem seedsStored_dram (s : State) (p : Nat) (area : Option Graph) (seeds : List Seed) :
    (seedsStored s p area seeds).dram = s.dram := by
  cases area with
  | none => rfl
  | some g =>
    have hpocket : 2 * 2 ^ 60 ≤ seedArea g := by
      rw [seedArea, pocketAddr]
      omega
    exact (pwrite_dram s p _ _).trans (writePieces_dram_of_lining s _ (fun c hc => lining_of_mem_pieces hpocket hc))

theorem seedsStored_lining {p : Nat} {s t : State} (hst : SameBytes p s t) (area : Option Graph) (seeds : List Seed) :
    (seedsStored t p area seeds).lining = ((area.map (fun g => pwrite s p (seedArea g) (seeds.flatMap seedEntry))).getD s).lining := by
  cases area with
  | none => exact hst.lining
  | some g => exact (hst.pwrite_same _ _).lining

theorem onlyUsage_seedsDerived (s : State) (p : Nat) (o : SeedOps) (r : Round) (recs : List Bytes) :
    OnlyUsage p (modRound s p o.roundId (derivedRound r recs)) (seedsDerived s p o r recs) :=
  onlyUsage_countDram _ p _ _ _

theorem onlyRecovers_seedsDerived (s : State) (p : Nat) (o : SeedOps) (r : Round) (recs : List Bytes) :
    OnlyRecovers p s (seedsDerived s p o r recs) :=
  (onlyRecovers_modRound s p _ _).trans (onlyRecovers_of_onlyWrites (onlyUsage_seedsDerived s p o r recs).toOnlyWrites)

theorem sameBytes_seedsDerived (s : State) (p : Nat) (o : SeedOps) (r : Round) (recs : List Bytes) :
    SameBytes p s (seedsDerived s p o r recs) :=
  (sameBytes_modRound s p _ _).trans (onlyUsage_seedsDerived s p o r recs).sameBytes

theorem roundOf_seedsDerived {s : State} {p : Nat} {o : SeedOps} {r : Round} (recs : List Bytes)
    (hr : roundOf (part s p) o.roundId = some r) :
    roundOf (part (seedsDerived s p o r recs) p) o.roundId = some (derivedRound r recs r) :=
  roundOf_of_onlyWrites (onlyUsage_seedsDerived s p o r recs).toOnlyWrites
    (roundOf_modRound (F := derivedRound r recs) (fun _ => rfl) hr)

section Derive

variable {s : State} {h : DescHdr} {o : SeedOps} {r : Round}

theorem answers_seedDerive (hd : Dispatches s h (.seedDerive o)) :
    Answers (.seedDeriveDerive h o) s (startSeedDerive (takenUp s h (.seedDerive o)) s.nextId h o) :=
  answers_runBody rfl hd (fun _ => rfl)

theorem startSeedDerive_refused {id : Nat} (hr : roundOf (part s h.p.val) o.roundId = some r)
    (hno : ¬ deriveAdmits r o (transcript s h.p.val o)) : startSeedDerive s id h o = refuse s id stPolicy := by
  simp only [startSeedDerive, hr]
  refine if_pos ?_
  by_contra hadmitted
  simp only [not_or, not_not, Bool.not_eq_true, Bool.not_eq_false'] at hadmitted
  exact hno hadmitted

theorem startSeedDerive_admitted {id : Nat} (hr : roundOf (part s h.p.val) o.roundId = some r)
    (hyes : deriveAdmits r o (transcript s h.p.val o)) :
    startSeedDerive s id h o =
      finish (seedsStored (seedsDerived s h.p.val o r (transcript s h.p.val o)) h.p.val r.graph
          (selfSeeds r ++ pairSeeds r (transcript s h.p.val o))) id stOk
        (r.survivors.length % 2 ^ 24 + (droppedEdges r).length % 2 ^ 24 * 2 ^ 24) := by
  obtain ⟨hmode, hcount, hfits⟩ := hyes
  rw [← selfSeeds_length r, ← pairSeeds_length (s := s) (p := h.p.val) hcount]
  simp only [transcript] at hfits
  simp only [startSeedDerive, hr, hmode, hfits, ← hcount, ne_eq, not_true_eq_false, Bool.not_true, Bool.false_eq_true, or_self, if_false]
  rfl

theorem transcript_takenUp (b : DescBody) (p : Nat) : transcript (takenUp s h b) p o = transcript s p o := by
  simp only [transcript, (sameBytes_takenUp s h b p).pread_eq]

theorem seedDerive_refused (hordered : FlightsOrdered s) (hd : Dispatches s h (.seedDerive o))
    (hr : roundOf (part s h.p.val) o.roundId = some r) (hno : ¬ deriveAdmits r o (transcript s h.p.val o)) :
    Refused s (.seedDeriveDerive h o) h (.seedDerive o) stPolicy := by
  have hans := answers_seedDerive hd
  rw [startSeedDerive_refused (by rw [takenUp_part]; exact hr) (by rw [transcript_takenUp]; exact hno)] at hans
  exact refused_of_answers hordered hans

/-- A transcript that fits gives the round its seeds, which stand in its recovery area. -/
theorem seedDerive_derives (hordered : FlightsOrdered s) (hd : Dispatches s h (.seedDerive o))
    (hr : roundOf (part s h.p.val) o.roundId = some r) (hyes : deriveAdmits r o (transcript s h.p.val o)) :
    ∃ t, Answers (.seedDeriveDerive h o) s t ∧
      Ends s t h (.seedDerive o) stOk (r.survivors.length % 2 ^ 24 + (droppedEdges r).length % 2 ^ 24 * 2 ^ 24) ∧
      roundOf (part t h.p.val) o.roundId = some (derivedRound r (transcript s h.p.val o) r) ∧ t.dram = s.dram ∧ t.tiles = s.tiles ∧
      t.lining = ((r.graph.map (fun g => pwrite s h.p.val (seedArea g)
        ((selfSeeds r ++ pairSeeds r (transcript s h.p.val o)).flatMap seedEntry))).getD s).lining ∧
      OthersKept s t h.p.val ∧ t.regs = s.regs := by
  have hans := answers_seedDerive hd
  have hround : roundOf (part (takenUp s h (.seedDerive o)) h.p.val) o.roundId = some r := by rw [takenUp_part]; exact hr
  rw [startSeedDerive_admitted hround (by rw [transcript_takenUp]; exact hyes), transcript_takenUp] at hans
  have hderived := onlyRecovers_seedsDerived (takenUp s h (.seedDerive o)) h.p.val o r (transcript s h.p.val o)
  have hbytes := (sameBytes_takenUp s h (.seedDerive o) h.p.val).trans
    (sameBytes_seedsDerived (takenUp s h (.seedDerive o)) h.p.val o r (transcript s h.p.val o))
  have hwrites := onlyWrites_seedsStored (seedsDerived (takenUp s h (.seedDerive o)) h.p.val o r (transcript s h.p.val o)) h.p.val r.graph
    (selfSeeds r ++ pairSeeds r (transcript s h.p.val o))
  obtain ⟨hends, hothers, hregs⟩ := (hderived.trans (onlyRecovers_of_onlyWrites hwrites)).ends hordered stOk
    (r.survivors.length % 2 ^ 24 + (droppedEdges r).length % 2 ^ 24 * 2 ^ 24)
  have hseeded := roundOf_of_onlyWrites hwrites (roundOf_seedsDerived _ hround)
  refine ⟨_, hans, hends, hseeded,
    (seedsStored_dram _ _ _ _).trans hbytes.dram, (seedsStored_tiles _ _ _ _).trans ?_, seedsStored_lining hbytes _ _, hothers, hregs⟩
  exact (onlyUsage_seedsDerived _ _ o r _).tiles.trans (by rw [takenUp_only]; rfl)

end Derive

end Sys2Proof.Proofs.SeedDerivation
end

section
/-! SUPPORT. The passes of a MASK_EXPAND, tile by tile: each takes at most 64 seeds more than the one before it and carries the next
mask_next (R118, R119). -/

namespace Sys2Proof.Proofs.MaskPasses

open Sys2Proof Sys2Proof.Machine
open Sys2Proof.Proofs.TilePasses

/-! One tile -/

/-- The pass that leaves a tile with the first `k` of its seeds applied. -/
def maskPass (s : State) (x : Partition) (engine unit c item : Nat) (m : TileMeta) (next : Nat) (seeds : List Seed) (vs : List Nat)
    (k : Nat) : TileJob :=
  { tileJob s engine unit (packElems (m.width / 8) ((seeds.take k).foldl (applySeed x c) vs)) { m with release := none } with
      maskNext := some (c, next + k), item := item, last := decide (k = seeds.length) }

section Tile

variable {s : State} {x : Partition} {engine unit c item : Nat} {m : TileMeta}

/-- The pass of a later batch is that of all its tile's seeds up to the batch. -/
theorem maskPass_drop {next : Nat} {seeds : List Seed} {vs : List Nat} {n k : Nat} (hn : n ≤ seeds.length) :
    maskPass s x engine unit c item m (next + n) (seeds.drop n) ((seeds.take n).foldl (applySeed x c) vs) k =
      maskPass s x engine unit c item m next seeds vs (n + k) := by
  have hlast : (k = (seeds.drop n).length) ↔ (n + k = seeds.length) := by
    rw [List.length_drop]
    omega
  simp only [maskPass, List.take_add, List.foldl_append, Nat.add_assoc, hlast]

/-- A batch's pass stands before those of the seeds behind it. -/
theorem maskPasses_step {fuel next : Nat} {seeds : List Seed} {vs : List Nat} (hseeds : 0 < seeds.length) :
    maskPasses s x engine unit c item m (fuel + 1) next seeds vs =
      maskPass s x engine unit c item m next seeds vs (min 64 seeds.length) ::
        maskPasses s x engine unit c item m fuel (next + min 64 seeds.length) (seeds.drop 64)
          ((seeds.take 64).foldl (applySeed x c) vs) := by
  have hsome : ¬ seeds.isEmpty = true := by
    rw [List.isEmpty_iff_length_eq_zero]
    omega
  have hlast : (seeds.drop 64).isEmpty = decide (min 64 seeds.length = seeds.length) := by
    rw [Bool.eq_iff_iff, List.isEmpty_iff_length_eq_zero, List.length_drop, decide_eq_true_eq]
    omega
  have htake : seeds.take (min 64 seeds.length) = seeds.take 64 := by rw [List.take_eq_take_iff]; omega
  simp only [maskPasses, if_neg hsome, List.length_take, hlast, maskPass, htake]

theorem maskPasses_nil (fuel next : Nat) (vs : List Nat) : maskPasses s x engine unit c item m fuel next [] vs = [] := by
  cases fuel <;> rfl

/-- A tile's seeds take a pass for each 64 of them. -/
theorem maskPasses_length {fuel : Nat} : ∀ {next : Nat} {seeds : List Seed} {vs : List Nat}, seeds.length < 64 * fuel →
    (maskPasses s x engine unit c item m fuel next seeds vs).length = (seeds.length + 63) / 64 := by
  induction fuel with
  | zero => exact fun h => absurd h (Nat.not_lt_zero _)
  | succ fuel ih =>
    intro next seeds vs hfuel
    rcases Nat.eq_zero_or_pos seeds.length with hnone | hseeds
    · rw [List.eq_nil_of_length_eq_zero hnone, maskPasses_nil]
      rfl
    · rcases Nat.le_total seeds.length 64 with hfew | hmany
      · rw [maskPasses_step hseeds, List.drop_eq_nil_of_le hfew, maskPasses_nil, List.length_singleton]
        omega
      · rw [maskPasses_step hseeds, List.length_cons, ih (by rw [List.length_drop]; omega), List.length_drop]
        omega

/-- Every pass of a tile ends on a multiple of 64 seeds or on the last one. -/
theorem exists_of_mem_maskPasses {j : TileJob} {fuel : Nat} : ∀ {next : Nat} {seeds : List Seed} {vs : List Nat},
    j ∈ maskPasses s x engine unit c item m fuel next seeds vs →
    ∃ k, 0 < k ∧ k ≤ seeds.length ∧ (k = seeds.length ∨ k % 64 = 0) ∧ j = maskPass s x engine unit c item m next seeds vs k := by
  induction fuel with
  | zero => exact fun h => absurd h List.not_mem_nil
  | succ fuel ih =>
    intro next seeds vs hj
    rcases Nat.eq_zero_or_pos seeds.length with hnone | hseeds
    · rw [List.eq_nil_of_length_eq_zero hnone, maskPasses_nil] at hj
      exact absurd hj List.not_mem_nil
    · rw [maskPasses_step hseeds] at hj
      rcases List.mem_cons.mp hj with rfl | hrest
      · exact ⟨min 64 seeds.length, by omega, by omega, by omega, rfl⟩
      · obtain ⟨k, hpos, hle, hend, rfl⟩ := ih hrest
        rw [List.length_drop] at hle hend
        have hmany : 64 ≤ seeds.length := by omega
        refine ⟨64 + k, by omega, by omega, by omega, ?_⟩
        rw [min_eq_left hmany, maskPass_drop hmany]

end Tile

/-! The tiles of a range -/

/-- The seed at which the descriptor's passes end. -/
def seedStop (o : MaskOps) : Nat := o.seedFirst + o.seedCount

/-- The seed from which tile `i` still has to be worked on: its mask_next (R119). -/
def seedStart (r : Round) (o : MaskOps) (i : Nat) : Nat := min (seedStop o) (tabGet 0 r.maskNext (o.coordTile + i))

/-- The seeds that tile `i` still has to take. -/
def seedsLeft (r : Round) (o : MaskOps) (i : Nat) : List Seed := (r.seeds.drop (seedStart r o i)).take (seedStop o - seedStart r o i)

/-- The passes of the tile of a plan. -/
def tilePasses (s : State) (p : Nat) (r : Round) (o : MaskOps) (t : Nat × Nat × Nat) : List TileJob :=
  maskPasses s (part s p) t.2.2 t.2.1 (o.coordTile + t.1) t.1 (unitMeta s p t.2.1)
    ((seedStop o - seedStart r o t.1) / 64 + 1) (seedStart r o t.1) (seedsLeft r o t.1) (readTile s p t.2.1 (policyBits (part s p)))

/-- The plan of a MASK_EXPAND (R79). -/
def maskPlan (s : State) (p : Nat) (o : MaskOps) : List (Nat × Nat × Nat) :=
  tilePlan s p (tileIx o.dstTile) (tileUnits (policyBits (part s p))) o.tileCount 1

/-- The passes of a MASK_EXPAND. -/
def maskJobs (s : State) (p : Nat) (r : Round) (o : MaskOps) : List TileJob := (maskPlan s p o).flatMap (tilePasses s p r o)

/-- What of the range's seeds its tiles have taken already. -/
def seedsSkipped (r : Round) (o : MaskOps) : Nat := ((List.range o.tileCount).map (fun i => seedStart r o i - o.seedFirst)).sum

/-- The seeds that the range's tiles still have to take, one by one. -/
def seedsToApply (r : Round) (o : MaskOps) : Nat := ((List.range o.tileCount).map (fun i => seedStop o - seedStart r o i)).sum

section Range

variable {s : State} {p : Nat} {r : Round} {o : MaskOps}

theorem seedsLeft_length (hseeds : seedStop o ≤ r.seeds.length) (i : Nat) : (seedsLeft r o i).length = seedStop o - seedStart r o i := by
  rw [seedsLeft, List.length_take, List.length_drop]
  omega

theorem tilePasses_length (hseeds : seedStop o ≤ r.seeds.length) (t : Nat × Nat × Nat) :
    (tilePasses s p r o t).length = (seedStop o - seedStart r o t.1 + 63) / 64 := by
  rw [tilePasses, maskPasses_length (by rw [seedsLeft_length hseeds]; omega), seedsLeft_length hseeds]

theorem item_of_mem_tilePasses {j : TileJob} {t : Nat × Nat × Nat} (hj : j ∈ tilePasses s p r o t) : j.item = t.1 := by
  obtain ⟨k, -, -, -, rfl⟩ := exists_of_mem_maskPasses hj
  rfl

/-- The passes of a range that belong to tile `i` are those of its place in the plan. -/
theorem filter_item_flatMap {F : Nat → List TileJob} (hF : ∀ k, ∀ j ∈ F k, j.item = k) {i n : Nat} :
    ((List.range n).flatMap F).filter (fun j => j.item == i) = if i < n then F i else [] := by
  have hone : ∀ k, (F k).filter (fun j => j.item == i) = if k = i then F i else [] := by
    intro k
    split
    next hk =>
      rw [hk]
      exact List.filter_eq_self.mpr (fun j hj => beq_iff_eq.mpr (hF i j hj))
    next hk => exact List.filter_eq_nil_iff.mpr (fun j hj => by rw [hF k j hj, beq_iff_eq]; exact hk)
  induction n with
  | zero => rfl
  | succ n ih =>
    rw [List.range_succ, List.flatMap_append, List.filter_append, ih, List.flatMap_singleton, hone]
    rcases Nat.lt_trichotomy i n with hlt | rfl | hgt
    · rw [if_pos hlt, if_neg (by omega), if_pos (by omega), List.append_nil]
    · rw [if_neg (by omega), if_pos rfl, if_pos (by omega), List.nil_append]
    · rw [if_neg (by omega), if_neg (by omega), if_neg (by omega), List.nil_append]

theorem maskJobs_item_length (hseeds : seedStop o ≤ r.seeds.length) {i : Nat} (hi : i < o.tileCount) :
    ((maskJobs s p r o).filter (fun j => j.item == i)).length = (seedStop o - seedStart r o i + 63) / 64 := by
  rw [maskJobs, maskPlan, tilePlan, List.flatMap_map, filter_item_flatMap (fun k j hj => item_of_mem_tilePasses hj), if_pos hi]
  exact tilePasses_length hseeds _

/-- Where every tile has taken the range's seeds already, there is no pass. -/
theorem maskJobs_eq_nil (hseeds : seedStop o ≤ r.seeds.length) (hdone : ∀ i, i < o.tileCount → seedStart r o i = seedStop o) :
    maskJobs s p r o = [] := by
  rw [maskJobs, List.flatMap_eq_nil_iff]
  refine forall_mem_tilePlan (fun i e hi => List.eq_nil_of_length_eq_zero ?_)
  rw [tilePasses_length hseeds, hdone i hi, Nat.sub_self]

theorem maskJobs_ne_nil (hseeds : seedStop o ≤ r.seeds.length) (hleft : ∃ i, i < o.tileCount ∧ seedStart r o i < seedStop o) :
    maskJobs s p r o ≠ [] := by
  obtain ⟨i, hi, hlt⟩ := hleft
  intro hnil
  have hlength := maskJobs_item_length (s := s) (p := p) hseeds hi
  rw [hnil, List.filter_nil, List.length_nil] at hlength
  omega

theorem seedsSkipped_of_done (hdone : ∀ i, i < o.tileCount → seedStart r o i = seedStop o) :
    seedsSkipped r o = o.tileCount * o.seedCount := by
  have hall : (List.range o.tileCount).map (fun i => seedStart r o i - o.seedFirst) = List.replicate o.tileCount o.seedCount := by
    rw [List.eq_replicate_iff, List.length_map, List.length_range]
    refine ⟨rfl, fun n hn => ?_⟩
    obtain ⟨i, hi, rfl⟩ := List.mem_map.mp hn
    rw [hdone i (List.mem_range.mp hi), seedStop, Nat.add_sub_cancel_left]
  rw [seedsSkipped, hall, List.sum_replicate, smul_eq_mul]

/-- What a pass of a range writes and carries. -/
theorem exists_of_mem_maskJobs (hseeds : seedStop o ≤ r.seeds.length) {j : TileJob} (hj : j ∈ maskJobs s p r o) :
    ∃ i e k, i < o.tileCount ∧ 0 < k ∧ k ≤ seedStop o - seedStart r o i ∧ (k = seedStop o - seedStart r o i ∨ k % 64 = 0) ∧
      j = maskPass s (part s p) e (tileIx o.dstTile + i * tileUnits (policyBits (part s p))) (o.coordTile + i) i
        (unitMeta s p (tileIx o.dstTile + i * tileUnits (policyBits (part s p)))) (seedStart r o i) (seedsLeft r o i)
        (readTile s p (tileIx o.dstTile + i * tileUnits (policyBits (part s p))) (policyBits (part s p))) k := by
  obtain ⟨t, ht, hjt⟩ := List.mem_flatMap.mp hj
  obtain ⟨i, hi, rfl⟩ := List.mem_map.mp ht
  obtain ⟨k, hpos, hle, hend, rfl⟩ := exists_of_mem_maskPasses hjt
  rw [seedsLeft_length hseeds] at hle hend
  exact ⟨i, _, k, List.mem_range.mp hi, hpos, hle, hend, rfl⟩

/-- The seeds of a pass are the round's, from the tile's start on. -/
theorem take_seedsLeft {i k : Nat} (hk : k ≤ seedStop o - seedStart r o i) :
    (seedsLeft r o i).take k = (r.seeds.drop (seedStart r o i)).take k := by
  rw [seedsLeft, List.take_take, min_eq_left hk]

end Range

/-! The passes of a range, begun or not -/

theorem filter_item_begun {js ks : List TileJob} (hb : List.Forall₂ Begun js ks) (i : Nat) :
    (ks.filter (fun j => j.item == i)).length = (js.filter (fun j => j.item == i)).length := by
  induction hb with
  | nil => rfl
  | cons hjk _ ih =>
    obtain ⟨hk, -⟩ := hjk
    rw [hk]
    simp only [List.filter_cons]
    split
    · rw [List.length_cons, List.length_cons, ih]
    · exact ih

theorem mem_of_begun {js ks : List TileJob} (hb : List.Forall₂ Begun js ks) {k : TileJob} (hk : k ∈ ks) : ∃ j ∈ js, Begun j k := by
  obtain ⟨i, hi⟩ := List.mem_iff_getElem?.mp hk
  obtain ⟨j, hj, hjk⟩ := exists_of_begun hb hi
  exact ⟨j, List.mem_of_getElem? hj, hjk⟩

/-- The pass stores tile `i` of the range with its seeds up to `n` applied, and carries `n` as the tile's next mask_next (R119). -/
def AppliesSeeds (s : State) (p : Nat) (r : Round) (o : MaskOps) (i : Nat) (j : TileJob) : Prop :=
  let x := part s p
  let unit := tileIx o.dstTile + i * tileUnits (policyBits x)
  ∃ n, i < o.tileCount ∧ j.addr = pocketAddr unit ∧ j.maskNext = some (o.coordTile + i, n) ∧ seedStart r o i < n ∧ n ≤ seedStop o ∧
    (n = seedStop o ∨ (n - seedStart r o i) % 64 = 0) ∧ j.last = (n == seedStop o) ∧
    j.bytes = packElems (policyBits x / 8) (((r.seeds.drop (seedStart r o i)).take (n - seedStart r o i)).foldl
      (applySeed x (o.coordTile + i)) (readTile s p unit (policyBits x)))

theorem width_of_maskTileOk {x : Partition} {r : Round} {m : TileMeta} (h : maskTileOk x r m = true) : m.width = policyBits x := by
  simp only [maskTileOk, Bool.and_eq_true, beq_iff_eq] at h
  obtain ⟨⟨⟨-, hwidth⟩, -⟩, -⟩ := h
  exact hwidth

theorem appliesSeeds_of_mem {s : State} {p : Nat} {r : Round} {o : MaskOps} (hseeds : seedStop o ≤ r.seeds.length)
    (htiles : ∀ i, i < o.tileCount →
      maskTileOk (part s p) r (unitMeta s p (tileIx o.dstTile + i * tileUnits (policyBits (part s p)))) = true)
    {j : TileJob} (hj : j ∈ maskJobs s p r o) : AppliesSeeds s p r o j.item j := by
  obtain ⟨i, e, k, hi, hpos, hle, hend, rfl⟩ := exists_of_mem_maskJobs hseeds hj
  have hlast : k = (seedsLeft r o i).length ↔ seedStart r o i + k = seedStop o := by
    rw [seedsLeft_length hseeds]
    omega
  refine ⟨seedStart r o i + k, hi, rfl, rfl, Nat.lt_add_of_pos_right hpos, ?_⟩
  simp only [maskPass, tileJob, Nat.add_sub_cancel_left, hlast, beq_eq_decide, take_seedsLeft hle, width_of_maskTileOk (htiles i hi),
    and_true]
  omega

theorem appliesSeeds_begun {s : State} {p : Nat} {r : Round} {o : MaskOps} {j k : TileJob} (hj : AppliesSeeds s p r o j.item j)
    (hjk : Begun j k) : AppliesSeeds s p r o k.item k := by
  obtain ⟨hk, -⟩ := hjk
  rw [hk]
  exact hj

end Sys2Proof.Proofs.MaskPasses
end

section
/-! SUPPORT. MASK_EXPAND as it is dispatched: it is refused, or its tiles get their passes, or it is done where they have taken its seeds
already (R118, R119). -/

namespace Sys2Proof.Proofs.MaskExpansion

open Sys2Proof Sys2Proof.Machine
open Sys2Proof.Proofs.Writes Sys2Proof.Proofs.Starting Sys2Proof.Proofs.Passes Sys2Proof.Proofs.SealedStart Sys2Proof.Proofs.TilePasses
open Sys2Proof.Proofs.Draining Sys2Proof.Proofs.PassEnds Sys2Proof.Proofs.RecoveryRounds Sys2Proof.Proofs.MaskPasses

/-- The round's seeds are derived and every tile of the range may take them (R118). -/
def maskAdmits (s : State) (p : Nat) (r : Round) (o : MaskOps) : Prop :=
  r.mode = .derived ∧ seedStop o ≤ r.seeds.length ∧ ∀ i, i < o.tileCount →
    maskTileOk (part s p) r (unitMeta s p (tileIx o.dstTile + i * tileUnits (policyBits (part s p)))) = true ∧
      o.seedFirst ≤ tabGet 0 r.maskNext (o.coordTile + i)

/-- The keystream of a range's passes is charged (R119, R315). -/
def streamCharged (s : State) (p : Nat) (r : Round) (o : MaskOps) : State :=
  modUsage s p (fun u => { u with keystreamBytes := satAdd u.keystreamBytes (seedsToApply r o * 512 * policyBits (part s p)) })

/-- The state in which the passes of a range start. -/
def maskCharged (s : State) (id p : Nat) (r : Round) (o : MaskOps) : State :=
  modFlight (streamCharged s p r o) id (fun f => { f with skipped := seedsSkipped r o })

section Checks

variable {s : State} {id : Nat} {h : DescHdr} {o : MaskOps} {r : Round}

theorem startMaskExpand_noRound (hr : roundOf (part s h.p.val) o.roundId = none) : startMaskExpand s id h o = refuse s id stPolicy := by
  simp only [startMaskExpand, hr]

/-- The model's test of a range, over the list of its tiles. -/
theorem maskAdmits_iff (p : Nat) :
    maskAdmits s p r o ↔
      ¬ (r.mode ≠ .derived ∨ r.seeds.length < o.seedFirst + o.seedCount ∨
        (!((List.range o.tileCount).map (fun i => (o.coordTile + i, tileIx o.dstTile + i * tileUnits (policyBits (part s p))))).all
          (fun t => maskTileOk (part s p) r (unitMeta s p t.2))) = true ∨
        ((List.range o.tileCount).map (fun i => (o.coordTile + i, tileIx o.dstTile + i * tileUnits (policyBits (part s p))))).any
          (fun t => tabGet 0 r.maskNext t.1 < o.seedFirst) = true) := by
  simp only [maskAdmits, seedStop, not_or, not_not, not_lt, Bool.not_eq_true, Bool.not_eq_false', List.all_map, List.all_eq_true,
    List.any_map, List.any_eq_false, List.mem_range, Function.comp_apply, decide_eq_true_eq, forall_and]

theorem startMaskExpand_refused (hr : roundOf (part s h.p.val) o.roundId = some r) (hno : ¬ maskAdmits s h.p.val r o) :
    startMaskExpand s id h o = refuse s id stPolicy := by
  rw [maskAdmits_iff, not_not] at hno
  simp only [startMaskExpand, hr]
  exact if_pos hno

theorem startMaskExpand_admitted (hr : roundOf (part s h.p.val) o.roundId = some r) (hyes : maskAdmits s h.p.val r o)
    (hplan : planOk s h.p.val (tileIx o.dstTile) (tileUnits (policyBits (part s h.p.val))) o.tileCount 1 = true) :
    startMaskExpand s id h o =
      startJobs (maskCharged s id h.p.val r o) id (maskJobs s h.p.val r o) (resultWord 0 0 (seedsSkipped r o)) := by
  have ⟨_, hseeds, _⟩ := hyes
  have hstop : o.seedFirst + o.seedCount = seedStop o := rfl
  have hstart : ∀ i, min (seedStop o) (tabGet 0 r.maskNext (o.coordTile + i)) = seedStart r o i := fun _ => rfl
  have hleft : ∀ i, ((r.seeds.drop (seedStart r o i)).take (seedStop o - seedStart r o i)).length = seedStop o - seedStart r o i :=
    seedsLeft_length hseeds
  simp only [startMaskExpand, hr, if_neg ((maskAdmits_iff h.p.val).mp hyes), hplan, Bool.not_true, Bool.false_eq_true, if_false]
  simp only [hstop, hstart, hleft, tilePlan, List.map_map, Function.comp_def, List.flatMap_map, maskJobs, maskPlan]
  rfl

end Checks

/-! The state in which the passes start -/

section Charged

variable {s : State} {h : DescHdr} {o : MaskOps} {r : Round}

theorem answers_maskExpand (hd : Dispatches s h (.maskExpand o)) :
    Answers (.maskExpand h o) s (startMaskExpand (takenUp s h (.maskExpand o)) s.nextId h o) :=
  answers_runBody rfl hd (fun _ => rfl)

theorem onlyUsage_streamCharged (s : State) (p : Nat) (r : Round) (o : MaskOps) : OnlyUsage p s (streamCharged s p r o) :=
  onlyUsage_modUsage s p _

theorem onlyFlights_maskCharged (s : State) (id p : Nat) (r : Round) (o : MaskOps) :
    OnlyFlights (streamCharged s p r o) (maskCharged s id p r o) := rfl

theorem parts_maskCharged (s : State) (id p : Nat) (r : Round) (o : MaskOps) :
    (maskCharged s id p r o).parts = (streamCharged s p r o).parts := rfl

theorem storeKept_maskCharged (id p : Nat) : StoreKept s (maskCharged s id p r o) :=
  storeKept_trans (onlyUsage_streamCharged s p r o).storeKept (onlyFlights_maskCharged s id p r o).store

/-- Of the partition the keystream's count alone has moved. -/
theorem part_maskCharged (id p : Nat) :
    (part (maskCharged s id p r o) p).rounds = (part s p).rounds ∧
      (part (maskCharged s id p r o) p).usage.keystreamBytes =
        satAdd (part s p).usage.keystreamBytes (seedsToApply r o * 512 * policyBits (part s p)) := by
  rw [part_congr (parts_maskCharged s id p r o)]
  constructor
  · exact rounds_of_onlyWrites (onlyUsage_streamCharged s p r o).toOnlyWrites
  · rw [streamCharged, usage_modUsage]

theorem othersKept_maskCharged (id p : Nat) : OthersKept s (maskCharged s id p r o) p :=
  othersKept_trans (onlyUsage_streamCharged s p r o).others (othersKept_of_parts (parts_maskCharged s id p r o) p)

theorem regs_maskCharged (id p : Nat) : (maskCharged s id p r o).regs = s.regs := by
  rw [onlyFlights_maskCharged s id p r o]
  exact (onlyUsage_streamCharged s p r o).regs

theorem now_maskCharged (id p : Nat) : now (maskCharged s id p r o) = now s := by
  rw [onlyFlights_maskCharged s id p r o]
  exact (onlyUsage_streamCharged s p r o).now

theorem flight_maskCharged (hordered : FlightsOrdered s) (p : Nat) :
    flight (maskCharged (takenUp s h (.maskExpand o)) s.nextId p r o) s.nextId =
      some { takenFlight s h (.maskExpand o) (reserves s h (.maskExpand o)) with skipped := seedsSkipped r o } := by
  rw [maskCharged, flight_modFlight_same, (onlyUsage_streamCharged _ p r o).flight, flight_takenUp hordered, Option.map_some]
  exact fun _ => rfl

theorem onlyFlights_startJobs_nil (u : State) (id n : Nat) : OnlyFlights u (startJobs u id [] n) := by
  rw [startJobs_nil]
  rfl

theorem othersKept_of_onlyFlights {u t : State} (honly : OnlyFlights u t) (p : Nat) : OthersKept u t p := by
  rw [honly]
  exact fun _ _ => rfl

theorem maskExpand_refused_of_noRound (hordered : FlightsOrdered s) (hd : Dispatches s h (.maskExpand o))
    (hr : roundOf (part s h.p.val) o.roundId = none) : Refused s (.maskExpand h o) h (.maskExpand o) stPolicy := by
  have hans := answers_maskExpand hd
  rw [startMaskExpand_noRound (by rw [takenUp_part]; exact hr)] at hans
  exact refused_of_answers hordered hans

theorem maskExpand_refused (hordered : FlightsOrdered s) (hd : Dispatches s h (.maskExpand o))
    (hr : roundOf (part s h.p.val) o.roundId = some r) (hno : ¬ maskAdmits (takenUp s h (.maskExpand o)) h.p.val r o) :
    Refused s (.maskExpand h o) h (.maskExpand o) stPolicy := by
  have hans := answers_maskExpand hd
  rw [startMaskExpand_refused (by rw [takenUp_part]; exact hr) hno] at hans
  exact refused_of_answers hordered hans

/-- The range's passes start from its charge. -/
theorem answers_maskJobs (hd : Dispatches s h (.maskExpand o)) (hr : roundOf (part s h.p.val) o.roundId = some r)
    (hyes : maskAdmits (takenUp s h (.maskExpand o)) h.p.val r o)
    (hplan : planOk (takenUp s h (.maskExpand o)) h.p.val (tileIx o.dstTile) (tileUnits (policyBits (part s h.p.val))) o.tileCount 1
      = true) :
    Answers (.maskExpand h o) s (startJobs (maskCharged (takenUp s h (.maskExpand o)) s.nextId h.p.val r o) s.nextId
      (maskJobs (takenUp s h (.maskExpand o)) h.p.val r o) (resultWord 0 0 (seedsSkipped r o))) := by
  have hans := answers_maskExpand hd
  rwa [startMaskExpand_admitted (by rw [takenUp_part]; exact hr) hyes (by rw [takenUp_part]; exact hplan)] at hans

/-- A range that has taken its seeds already is done at once. -/
theorem maskExpand_done (hordered : FlightsOrdered s) (p n : Nat) :
    Ends s (startJobs (maskCharged (takenUp s h (.maskExpand o)) s.nextId p r o) s.nextId [] n) h (.maskExpand o) stOk n ∧
      StoreKept s (startJobs (maskCharged (takenUp s h (.maskExpand o)) s.nextId p r o) s.nextId [] n) ∧
      OthersKept s (startJobs (maskCharged (takenUp s h (.maskExpand o)) s.nextId p r o) s.nextId [] n) p := by
  have honly := onlyFlights_startJobs_nil (maskCharged (takenUp s h (.maskExpand o)) s.nextId p r o) s.nextId n
  refine ⟨?_, ?_, ?_⟩
  · rw [startJobs_nil]
    refine ends_finish (f := { takenFlight s h (.maskExpand o) (reserves s h (.maskExpand o)) with
      skipped := seedsSkipped r o, result := n }) stOk n ?_ rfl rfl ((now_maskCharged s.nextId p).trans (takenUp_now s h _))
    rw [flight_modFlight_same, flight_maskCharged hordered, Option.map_some]
    exact fun _ => rfl
  · exact storeKept_trans (onlyFlights_takenUp s h _).store (storeKept_trans (storeKept_maskCharged s.nextId p) honly.store)
  · exact othersKept_trans (othersKept_of_onlyFlights (onlyFlights_takenUp s h _) p)
      (othersKept_trans (othersKept_maskCharged s.nextId p) (othersKept_of_onlyFlights honly p))

/-- What the passes of a range leave of the state in which they start, and what they themselves are. -/
theorem maskExpand_runs (hordered : FlightsOrdered s) (p n : Nat) {jobs : List TileJob} (hjobs : jobs ≠ []) :
    ∃ (t : State) (js : List TileJob), t = startJobs (maskCharged (takenUp s h (.maskExpand o)) s.nextId p r o) s.nextId jobs n ∧
      Flies s t h (.maskExpand o) .running js ∧ List.Forall₂ Begun jobs js ∧ StoreKept s t ∧ OthersKept s t p ∧ t.regs = s.regs ∧
      (part t p).rounds = (part s p).rounds ∧
      (part t p).usage.keystreamBytes =
        satAdd (part s p).usage.keystreamBytes (seedsToApply r o * 512 * policyBits (part s p)) := by
  have hflight := flight_maskCharged (h := h) (o := o) (r := r) hordered p
  obtain ⟨js, hflies, hbegun⟩ := flies_startJobs hflight rfl rfl rfl hjobs n
  obtain ⟨-, honly⟩ := startJobs_runs hflight hjobs n
  have hparts : (startJobs (maskCharged (takenUp s h (.maskExpand o)) s.nextId p r o) s.nextId jobs n).parts =
      (maskCharged (takenUp s h (.maskExpand o)) s.nextId p r o).parts := by rw [honly]
  obtain ⟨hrounds, hstream⟩ := part_maskCharged (s := takenUp s h (.maskExpand o)) (r := r) (o := o) s.nextId p
  refine ⟨_, js, rfl, hflies, hbegun, ?_, ?_, ?_, ?_, ?_⟩
  · exact storeKept_trans (onlyFlights_takenUp s h _).store
      (storeKept_trans (storeKept_maskCharged s.nextId p) (storeKept_of_onlyPasses honly))
  · exact othersKept_trans (othersKept_of_onlyFlights (onlyFlights_takenUp s h _) p)
      (othersKept_trans (othersKept_maskCharged s.nextId p) (othersKept_of_parts hparts p))
  · rw [honly]
    exact (regs_maskCharged s.nextId p).trans (takenUp_regs s h _)
  · rw [part_congr hparts, hrounds, takenUp_part]
  · rw [part_congr hparts, hstream, takenUp_part]

end Charged

end Sys2Proof.Proofs.MaskExpansion
end

section
/-! OBLIGATION O33, from what each of its four commands does once it is dispatched. -/

namespace Sys2Proof.Proofs.MaskedRounds

open Sys2Proof Sys2Proof.Machine
open Sys2Proof.Proofs.Starting Sys2Proof.Proofs.SealedStart
open Sys2Proof.Proofs.RecoveryRounds Sys2Proof.Proofs.Reconstruction Sys2Proof.Proofs.SeedDerivation
open Sys2Proof.Proofs.MaskPasses Sys2Proof.Proofs.MaskExpansion

/-- Settles O33, form by form: each is refused (`shareRecon_refused` and its like) or does its work (`shareRecon_reports`,
`seedGraph_binds`, `seedDerive_derives`, `maskExpand_done`, `maskExpand_runs`). -/
theorem masksAreRecoveredAndApplied : Obligations.MasksAreRecoveredAndApplied := by
  refine ⟨?_, ?_, ?_⟩
  · intro s h o hordered hd p x
    refine ⟨fun hr => ends_of_refused (shareRecon_refused_of_noRound hordered hd hr),
      fun r hr hno => ends_of_refused (shareRecon_refused hordered hd hr ?_), ?_⟩
    · rintro ⟨hmode, hopened, hidle⟩
      rcases hno with hno | hno | hno
      · exact hno hmode
      · exact absurd (hopened.symm.trans hno) (by decide)
      · exact absurd (hidle.symm.trans hno) (by decide)
    · intro r hr hmode hopened hidle found short bad
      obtain ⟨t, hans, hends, hround, hothers, hregs, hdram, hlining⟩ :=
        shareRecon_reports hordered hd hr ⟨hmode, hopened, hidle⟩ found rfl
      refine ⟨t, _, hans, hends, hround, hothers, hregs, fun hwhole => ?_, fun hshort => ?_⟩
      · rw [judgedRound_of_whole hwhole]
        refine ⟨rfl, rfl, ?_, hlining hwhole, hdram⟩
        simp only [reconstructedRound, List.map_map, Function.comp_def]
      · rw [judgedRound_of_short hshort]
        exact ⟨rfl, rfl, rfl, rfl, rfl, hdram⟩
  · intro s h o hordered p x
    refine ⟨fun hd => ⟨fun hno => ends_of_refused (seedGraph_refused hordered hd hno), fun r hr hyes => ?_⟩,
      fun hd r hr => ⟨fun hno => ends_of_refused (seedDerive_refused hordered hd hr ?_), fun hmode hcount hfits => ?_⟩⟩
    · obtain ⟨t, hans, hends, hround, hlining, hdram, hothers, hregs⟩ := seedGraph_binds hordered hd hr hyes
      exact ⟨t, _, _, hans, hends, hround, rfl, rfl, rfl, rfl, rfl, rfl, hlining, hdram, hothers, hregs⟩
    · rintro ⟨hmode, hcount, hfits⟩
      rcases hno with hno | hno | hno
      · exact hno hmode
      · exact hno hcount
      · exact absurd (hfits.symm.trans hno) (by decide)
    · obtain ⟨t, hans, hends, hround, hdram, htiles, hlining, hothers, hregs⟩ :=
        seedDerive_derives hordered hd hr ⟨hmode, hcount, hfits⟩
      exact ⟨t, _, hans, hends, hround, rfl, rfl, selfSeeds_length r, rfl, hdram, htiles, hlining, hothers, hregs⟩
  · intro s h o hordered hd p s1 x w unit
    refine ⟨fun hr => maskExpand_refused_of_noRound hordered hd hr, fun r hr => ⟨fun hno => maskExpand_refused hordered hd hr ?_, ?_⟩⟩
    · rintro ⟨hmode, hseeds, htiles⟩
      rcases hno with hno | hno | ⟨i, hi, hbehind⟩
      · exact hno hmode
      · exact absurd hno (Nat.not_lt.mpr hseeds)
      · obtain ⟨-, hahead⟩ := htiles i hi
        exact absurd hbehind (Nat.not_lt.mpr hahead)
    · intro hmode hseeds htiles hplan stop start
      have hx : part s1 p = x := takenUp_part s h (.maskExpand o) p
      have hyes : maskAdmits s1 p r o := ⟨hmode, hseeds, by rw [hx]; exact htiles⟩
      have hans := answers_maskJobs hd hr hyes hplan
      constructor
      · intro hdone
        rw [maskJobs_eq_nil hseeds hdone, seedsSkipped_of_done hdone] at hans
        obtain ⟨hends, hstore, hothers⟩ :=
          maskExpand_done (h := h) (o := o) (r := r) hordered p (resultWord 0 0 (o.tileCount * o.seedCount))
        exact ⟨_, hans, hends, hstore, hothers⟩
      · intro hleft
        obtain ⟨t, js, ht, hflies, hbegun, hstore, hothers, hregs, hrounds, hstream⟩ := maskExpand_runs (h := h) (o := o) (r := r)
          hordered p (resultWord 0 0 (seedsSkipped r o)) (maskJobs_ne_nil (s := s1) (p := p) hseeds hleft)
        refine ⟨t, js, ht ▸ hans, hflies, hstore, hothers, hregs, hrounds, hstream, fun i hi => ?_, fun k hk => ?_⟩
        · exact (filter_item_begun hbegun i).trans (maskJobs_item_length hseeds hi)
        · obtain ⟨j, hj, hjk⟩ := mem_of_begun hbegun hk
          have hfree : ∀ i, i < o.tileCount →
              maskTileOk (part s1 p) r (unitMeta s1 p (tileIx o.dstTile + i * tileUnits (policyBits (part s1 p)))) = true := by
            rw [hx]
            exact fun i hi => (htiles i hi).left
          have hpass := appliesSeeds_begun (appliesSeeds_of_mem hseeds hfree hj) hjk
          rw [AppliesSeeds, hx] at hpass
          exact hpass

end Sys2Proof.Proofs.MaskedRounds
end

section
/-! SUPPORT. Limbs in a claimed range of Pocket units hold as many elements as are read (R135), and lists of passes computed limb by limb
and tile by tile have each pass at its place. -/

namespace Sys2Proof.Proofs.LimbPasses

open Sys2Proof Sys2Proof.Machine
open Sys2Proof.Proofs.IngestItem Sys2Proof.Proofs.SeedDerivation

/-! Elements -/

theorem regionOf_pocketAddr {u : Nat} (hu : u < 2 ^ 47) : (regionOf (pocketAddr u)).isSome = true := by
  have hregion : pocketAddr u / 2 ^ 60 = 2 := by
    rw [pocketAddr]
    omega
  rw [regionOf, hregion]
  rfl

theorem limbElems_length {u bits : Nat} (hu : u < 2 ^ 47) (hbits : 8 ≤ bits) (s : State) (p count : Nat) :
    (limbElems s p u count bits).length = count := by
  rw [limbElems, elems, List.length_map, pieces_length, pread_length (regionOf_pocketAddr hu)]
  exact Nat.mul_div_cancel count (by omega)

/-! Claims -/

theorem units_le (x : Partition) : x.units ≤ 24576 * 16 :=
  Nat.mul_le_mul_left _ ((List.length_filter_le _ _).trans_eq List.length_range)

/-- A descriptor that passes its tests names only ranges that it may name (R215, step 5). -/
theorem claimOk_of_dispatches {s : State} {h : DescHdr} {b : DescBody} (hd : Dispatches s h b) :
    ∀ c ∈ claimsOf s h b, claimOk (part s h.p.val) c = true := by
  obtain ⟨-, -, hruns⟩ := hd
  rw [← List.all_eq_true]
  by_contra hno
  simp only [Bool.not_eq_true] at hno
  simp only [decideDesc, hno, Bool.false_and, Bool.not_false, if_true] at hruns
  repeat' split at hruns
  all_goals cases hruns

/-- A unit of an admitted claim is one of the Pocket's. -/
theorem unit_lt_of_claimOk {x : Partition} {c : Claim} (hc : claimOk x c = true) {k : Nat} (hk : k < c.units) : c.first + k < 2 ^ 47 := by
  simp only [claimOk, Bool.and_eq_true, decide_eq_true_eq] at hc
  obtain ⟨⟨hfits, -⟩, -⟩ := hc
  have := units_le x
  omega

/-! Lists of passes -/

/-- An entry of a list computed from the numbers below `n` is the one of its place. -/
theorem eq_of_getElem?_range {α : Type} {F : Nat → α} {n i : Nat} {y : α} (h : ((List.range n).map F)[i]? = some y) :
    y = F i := by
  obtain ⟨k, hk, rfl⟩ := Option.map_eq_some_iff.mp (List.getElem?_map .. ▸ h)
  obtain ⟨_, hki⟩ := List.getElem?_eq_some_iff.mp hk
  rw [← hki, List.getElem_range]

theorem length_flatMap_range {α : Type} (F : Nat → Nat → α) (m n : Nat) :
    ((List.range m).flatMap (fun i => (List.range n).map (F i))).length = m * n := by
  simp only [List.length_flatMap, List.length_map, List.length_range, List.map_const', List.sum_replicate, smul_eq_mul]

/-- Row by row, entry `y` of row `i` stands at place `i * n + y`. -/
theorem getElem?_flatMap_range {α : Type} (F : Nat → Nat → α) {i n y : Nat} (hy : y < n) : ∀ {m : Nat}, i < m →
    ((List.range m).flatMap (fun i => (List.range n).map (F i)))[i * n + y]? = some (F i y)
  | m + 1, hi => by
    rw [List.range_succ, List.flatMap_append, List.flatMap_singleton]
    rcases Nat.lt_succ_iff_lt_or_eq.mp hi with hlt | rfl
    · have hbelow : i * n + y < m * n := calc
        i * n + y < i * n + n := Nat.add_lt_add_left hy _
        _ = (i + 1) * n := (Nat.succ_mul i n).symm
        _ ≤ m * n := Nat.mul_le_mul_right n hlt
      rw [List.getElem?_append_left (by rw [length_flatMap_range]; exact hbelow)]
      exact getElem?_flatMap_range F hy hlt
    · rw [List.getElem?_append_right (by rw [length_flatMap_range]; omega), length_flatMap_range, Nat.add_sub_cancel_left,
        List.getElem?_map, List.getElem?_range hy, Option.map_some]

end Sys2Proof.Proofs.LimbPasses
end

section
/-! O26: NTT and INTT. -/

namespace Sys2Proof.Proofs.Transforms

open Sys2Proof Sys2Proof.Machine
open Sys2Proof.Proofs.Starting Sys2Proof.Proofs.SealedStart Sys2Proof.Proofs.TilePasses Sys2Proof.Proofs.LimbPasses

theorem limbCount_pos_of_nttRange {o : NttOps} (hr : nttRange o = true) : 0 < o.limbCount := by
  simp only [nttRange, Bool.and_eq_true, decide_eq_true_eq] at hr
  omega

/-- The pass of limb `i` of a transform: the whole limb, computed from its source (R136, R137). -/
def transformJob (f : Nat → Nat → Nat → List Nat → List Nat) (s : State) (p : Nat) (o : NttOps) (i : Nat) : TileJob :=
  let u := nttUnits o
  let bits := laneBits o.laneMode
  let src := limbUnit o.src o.limbStride u i
  let dst := limbUnit o.dst o.limbStride u i
  let r := (modRecords s p o.modAddr o.limbCount).getD i (0, 0)
  let m := modMeta bits r.1 (marksOf s p (pocketAddr src) (8192 * u))
  { tileJob s (limbEngine s p src u) dst (packElems (bits / 8) (f r.1 r.2 o.log2N (limbElems s p src (2 ^ o.log2N) bits))) m with
      item := i, sources := [(src, u)], hold := if bvBit o.flags 0 then some (dst, u) else none,
      consts := [.twiddle o.laneMode r.1 r.2] }

/-- The passes of a transform, limb by limb. -/
def transformJobs (f : Nat → Nat → Nat → List Nat → List Nat) (s : State) (p : Nat) (o : NttOps) : List TileJob :=
  (List.range o.limbCount).map (transformJob f s p o)

section Starts

variable {f : Nat → Nat → Nat → List Nat → List Nat} {s : State} {id : Nat} {h : DescHdr} {o : NttOps}

theorem startTransform_refused (hno : (modRecords s h.p.val o.modAddr o.limbCount).all (nttRecordOk o) = false) :
    startTransform f s id h o = refuse s id stPolicy := by
  simp only [startTransform, hno, Bool.not_false, if_true]

theorem startTransform_admitted (hok : (modRecords s h.p.val o.modAddr o.limbCount).all (nttRecordOk o) = true)
    (hthere : ∀ i, i < o.limbCount → limbThere s h.p.val (limbUnit o.src o.limbStride (nttUnits o) i) (nttUnits o) = true) :
    startTransform f s id h o = startJobs s id (transformJobs f s h.p.val o) 0 := by
  have hall : (List.range o.limbCount).all (fun i =>
      limbThere s h.p.val (limbUnit o.src o.limbStride (nttUnits o) i) (nttUnits o)) = true :=
    List.all_eq_true.mpr (fun i hi => hthere i (List.mem_range.mp hi))
  simp only [startTransform, hok, hall, Bool.not_true, Bool.false_eq_true, if_false]
  rfl

end Starts

/-- Settles O26: both directions start through `startTransform`, and each limb's pass is its `transformJob`. -/
theorem transformsStoreTheirLimbs : Obligations.TransformsStoreTheirLimbs := by
  intro s h o inverse hordered c b f hd p s1 recs u bits src
  have hans : Answers c s (startTransform f s1 s.nextId h o) := by
    cases inverse
    · exact answers_runBody (c := .ntt h o) rfl hd (fun _ => rfl)
    · exact answers_runBody (c := .intt h o) rfl hd (fun _ => rfl)
  have hpos : 0 < o.limbCount := by
    cases inverse
    · exact limbCount_pos_of_nttRange (rangeOk_of_dispatches (b := .ntt o) hd)
    · exact limbCount_pos_of_nttRange (rangeOk_of_dispatches (b := .intt o) hd)
  constructor
  · intro hno
    rw [startTransform_refused hno] at hans
    exact refused_of_answers hordered hans
  · intro hok hthere
    have hlen : (transformJobs f s1 p o).length = o.limbCount := by rw [transformJobs, List.length_map, List.length_range]
    rw [startTransform_admitted hok hthere] at hans
    obtain ⟨t, jobs, ht, hflies, honly, hstore, hbegun⟩ := startsPasses_takenUp hordered hans (ne_nil_of_length_pos hlen hpos)
    refine ⟨t, jobs, ht, hflies, honly, hstore, hbegun.length_eq ▸ hlen, fun i j hj => ?_⟩
    obtain ⟨k, hk, hjk, -⟩ := exists_of_begun hbegun hj
    obtain rfl := eq_of_getElem?_range hk
    rw [hjk]
    exact ⟨rfl, rfl, rfl, rfl, rfl⟩

end Sys2Proof.Proofs.Transforms
end

section
/-! SUPPORT. The passes of a PMUL: what its tiles read, what each sub-operation computes from them, and how they start (R140). -/

namespace Sys2Proof.Proofs.ProductPasses

open Sys2Proof Sys2Proof.Machine
open Sys2Proof.Proofs.LimbPasses

/-! Tiles of a limb -/

/-- A PMUL has limbs, and each is a number of whole tiles (Table 5.7). -/
theorem tiles_of_pmulRange {k : PmulSub} {o : PmulOps} (hr : pmulRange k o = true) :
    0 < o.limbCount ∧ 0 < o.elemCount / 4096 ∧ o.elemCount % 4096 = 0 := by
  simp only [pmulRange, Bool.and_eq_true, decide_eq_true_eq, beq_iff_eq] at hr
  obtain ⟨⟨⟨⟨⟨⟨helems, -⟩, hwhole⟩, hlimbs⟩, -⟩, -⟩, -⟩ := hr
  omega

theorem laneBits_cases (mode : Nat) : laneBits mode = 64 ∨ laneBits mode = 32 ∨ laneBits mode = 16 := by
  unfold laneBits
  split
  · exact .inl rfl
  · exact .inr (.inl rfl)
  · exact .inr (.inr rfl)

/-- The units of one tile of a limb. -/
def tileStep (o : PmulOps) : Nat := limbUnits 4096 (laneBits o.laneMode)

/-- The first unit of tile `t` of limb `i` of an operand (R135). -/
def tileUnit (o : PmulOps) (base i t : Nat) : Nat := limbUnit base o.limbStride (pmulUnits o) i + t * tileStep o

/-- The tiles of a limb lie within its units. -/
theorem tile_lt_pmulUnits {o : PmulOps} (hwhole : o.elemCount % 4096 = 0) {t : Nat} (ht : t < o.elemCount / 4096) :
    t * tileStep o < pmulUnits o := by
  rcases laneBits_cases o.laneMode with hbits | hbits | hbits
  all_goals
    simp only [tileStep, pmulUnits, limbUnits, hbits]
    omega

/-- A tile of an operand whose limbs are claimed holds 4,096 elements. -/
theorem limbElems_tile_length {x : Partition} {o : PmulOps} {base : Nat}
    (hclaims : ∀ c ∈ limbClaims base o.limbStride (pmulUnits o) o.limbCount, claimOk x c = true) (hwhole : o.elemCount % 4096 = 0)
    {i t : Nat} (hi : i < o.limbCount) (ht : t < o.elemCount / 4096) (s : State) (p : Nat) :
    (limbElems s p (tileUnit o base i t) 4096 (laneBits o.laneMode)).length = 4096 := by
  refine limbElems_length ?_ ?_ s p 4096
  · exact unit_lt_of_claimOk (hclaims _ (List.mem_map_of_mem (List.mem_range.mpr hi))) (tile_lt_pmulUnits hwhole ht)
  · have := laneBits_cases o.laneMode
    omega

/-! The elements of each sub-operation (Table 5.6) -/

theorem zip3_eq_zipWith {α : Type} (f : Nat → Nat → α) : ∀ {xs ys zs : List Nat}, xs.length ≤ zs.length →
    zip3 (fun x y _ => f x y) xs ys zs = List.zipWith f xs ys
  | [], _, _, _ => by rw [zip3.eq_def, List.zipWith_nil_left]
  | _ :: _, [], _, _ => by rw [zip3.eq_def, List.zipWith_nil_right]
  | _ :: xs, _ :: ys, _ :: zs, h => by
    rw [zip3, List.zipWith_cons_cons, zip3_eq_zipWith f (Nat.le_of_succ_le_succ h)]

/-- One element of FXMUL before it is cut to a word, and whether it was clamped (R140). -/
def fxClamped (frac x y : Nat) : Int × Bool := clampWord 32 (divEven (signed 32 x * signed 32 y) (2 ^ frac))

theorem zipWith_fxmulElem (frac : Nat) (xs ys : List Nat) :
    List.zipWith (fxmulElem frac) xs ys = (List.zipWith (fxClamped frac) xs ys).map (fun r => (toWord 32 r.1, r.2)) := by
  rw [List.map_zipWith]
  rfl

section Elements

variable {s : State} {p : Nat} {o : PmulOps} {a b count : Nat}

theorem pmulRun_mul {d : Nat} (q : Nat)
    (hlen : (limbElems s p a count (laneBits o.laneMode)).length ≤ (limbElems s p d count (laneBits o.laneMode)).length) :
    (pmulRun s p .mul o q a b d count).1 = packElems (laneBits o.laneMode / 8) (List.zipWith (fun x y => x * y % modulusOf o.laneMode q)
      (limbElems s p a count (laneBits o.laneMode)) (limbElems s p b count (laneBits o.laneMode))) :=
  congrArg (packElems _) (zip3_eq_zipWith _ hlen)

theorem pmulRun_mac (q d : Nat) :
    (pmulRun s p .mac o q a b d count).1 = packElems (laneBits o.laneMode / 8) (zip3 (fun x y z => (z + x * y) % modulusOf o.laneMode q)
      (limbElems s p a count (laneBits o.laneMode)) (limbElems s p b count (laneBits o.laneMode))
      (limbElems s p d count (laneBits o.laneMode))) := rfl

theorem pmulRun_smul {d : Nat} (q : Nat)
    (hlen : (limbElems s p a count (laneBits o.laneMode)).length ≤ (limbElems s p d count (laneBits o.laneMode)).length) :
    (pmulRun s p .smul o q a b d count).1 = packElems (laneBits o.laneMode / 8) ((limbElems s p a count (laneBits o.laneMode)).map
      (fun x => x * (o.scalar % modulusOf o.laneMode q) % modulusOf o.laneMode q)) :=
  congrArg (packElems _) ((zip3_eq_zipWith (fun x _ => x * (o.scalar % modulusOf o.laneMode q) % modulusOf o.laneMode q) hlen).trans
    List.zipWith_self)

theorem pmulRun_fxmul (q d : Nat) :
    (pmulRun s p .fxmul o q a b d count).1 = packElems 4 ((List.zipWith (fxClamped o.fracBits) (limbElems s p a count (laneBits o.laneMode))
      (limbElems s p b count (laneBits o.laneMode))).map (fun r => toWord 32 r.1)) := by
  refine congrArg (packElems 4) ((congrArg (List.map _) (zipWith_fxmulElem o.fracBits _ _)).trans ?_)
  rw [List.map_map]
  rfl

/-- A tile of FXMUL in which an element was clamped is saturated (R73, R140). -/
theorem saturated_pmulRun_fxmul (q d : Nat) (hany : (List.zipWith (fxClamped o.fracBits) (limbElems s p a count (laneBits o.laneMode))
      (limbElems s p b count (laneBits o.laneMode))).any (fun r => r.2) = true) :
    (pmulRun s p .fxmul o q a b d count).2.saturated = true := by
  refine Bool.or_eq_true_iff.mpr (.inl ?_)
  simp only [reduceCtorEq, if_false, zipWith_fxmulElem, List.any_map]
  exact hany

end Elements

/-! How a PMUL starts -/

/-- The modulus records of a PMUL; FXMUL has none (R140). -/
def productRecords (k : PmulSub) (s : State) (p : Nat) (o : PmulOps) : List (Nat × Nat) :=
  if k = .fxmul then List.replicate o.limbCount (0, 0) else modRecords s p o.modAddr o.limbCount

/-- The passes of a PMUL, limb by limb and tile by tile. -/
def productJobs (k : PmulSub) (s : State) (p : Nat) (o : PmulOps) : List TileJob :=
  (List.range o.limbCount).flatMap (fun i => (List.range (o.elemCount / 4096)).map (pmulJob s p k o (productRecords k s p o) i))

theorem startPmul_admitted {k : PmulSub} {s : State} {id : Nat} {h : DescHdr} {o : PmulOps}
    (hok : k ≠ .fxmul → (modRecords s h.p.val o.modAddr o.limbCount).all (fun r => laneModulus o.laneMode r.1 && r.2 == 0) = true)
    (hthere : ∀ i, i < o.limbCount → limbThere s h.p.val (limbUnit o.dst o.limbStride (pmulUnits o) i) (pmulUnits o) = true) :
    startPmul k s id h o = startJobs s id (productJobs k s h.p.val o) 0 := by
  have hrecs : (k == .fxmul || (productRecords k s h.p.val o).all (fun r => laneModulus o.laneMode r.1 && r.2 == 0)) = true := by
    by_cases hk : k = .fxmul
    · rw [beq_iff_eq.mpr hk, Bool.true_or]
    · rw [productRecords, if_neg hk, hok hk, Bool.or_true]
  have hall : (List.range o.limbCount).all (fun i =>
      limbThere s h.p.val (limbUnit o.dst o.limbStride (pmulUnits o) i) (pmulUnits o)) = true :=
    List.all_eq_true.mpr (fun i hi => hthere i (List.mem_range.mp hi))
  rw [productRecords] at hrecs
  simp only [startPmul, hrecs, hall, Bool.not_true, Bool.false_eq_true, if_false]
  rfl

end Sys2Proof.Proofs.ProductPasses
end

section
/-! O27: PMUL. -/

namespace Sys2Proof.Proofs.Products

open Sys2Proof Sys2Proof.Machine
open Sys2Proof.Proofs.Starting Sys2Proof.Proofs.TilePasses Sys2Proof.Proofs.LimbPasses Sys2Proof.Proofs.ProductPasses

/-- The descriptor of a sub-operation. -/
def productBody (o : PmulOps) : PmulSub → DescBody
  | .mul => .pmulMul o
  | .mac => .pmulMac o
  | .smul => .pmulSmul o
  | .fxmul => .pmulFxmul o

/-- The command of a sub-operation. -/
def productCommand (h : DescHdr) (o : PmulOps) : PmulSub → Instr
  | .mul => .pmulMul h o
  | .mac => .pmulMac h o
  | .smul => .pmulSmul h o
  | .fxmul => .pmulFxmul h o

section Dispatches

variable {s : State} {h : DescHdr} {o : PmulOps} {k : PmulSub}

theorem answers_product (hd : Dispatches s h (productBody o k)) :
    Answers (productCommand h o k) s (startPmul k (takenUp s h (productBody o k)) s.nextId h o) := by
  cases k <;> exact answers_runBody rfl hd (fun _ => rfl)

theorem pmulRange_of_dispatches (hd : Dispatches s h (productBody o k)) : pmulRange k o = true := by
  have hr := rangeOk_of_dispatches hd
  cases k <;> exact hr

/-- Every sub-operation claims the limbs of its first source and of its destination. -/
theorem limbClaims_of_dispatches (hd : Dispatches s h (productBody o k)) {base : Nat} (hbase : base = o.a ∨ base = o.dst) :
    ∀ c ∈ limbClaims base o.limbStride (pmulUnits o) o.limbCount, claimOk (part s h.p.val) c = true := by
  have hclaims : ∀ c ∈ pmulClaims k o, claimOk (part s h.p.val) c = true := by
    have hc := claimOk_of_dispatches hd
    cases k <;> exact hc
  intro c hc
  refine hclaims c ?_
  rw [pmulClaims, List.append_assoc, List.mem_append, List.mem_append]
  rcases hbase with rfl | rfl
  · exact .inl hc
  · exact .inr (.inr hc)

end Dispatches

/-- Settles O27: each tile's pass is its `pmulJob`, whose bytes `pmulRun_mul` and its like give for each sub-operation. -/
theorem productsStoreTheirLimbs : Obligations.ProductsStoreTheirLimbs := by
  intro s h o k hordered c b hd p s1 u bits recs n tu at_ tile hok hthere
  replace hd : Dispatches s h (productBody o k) := hd
  obtain ⟨hlimbs, htiles, hwhole⟩ := tiles_of_pmulRange (pmulRange_of_dispatches hd)
  have hans : Answers c s (startPmul k s1 s.nextId h o) := answers_product hd
  rw [startPmul_admitted hok hthere] at hans
  have hlen : (productJobs k s1 p o).length = o.limbCount * n := length_flatMap_range _ _ _
  obtain ⟨t, jobs, ht, hflies, honly, hstore, hbegun⟩ :=
    startsPasses_takenUp hordered hans (ne_nil_of_length_pos hlen (Nat.mul_pos hlimbs htiles))
  refine ⟨t, jobs, ht, hflies, honly, hstore, hbegun.length_eq ▸ hlen, fun i y j hi hy hj => ?_⟩
  obtain ⟨j0, hj0, hjk, -⟩ := exists_of_begun hbegun hj
  obtain rfl : pmulJob s1 p k o (productRecords k s1 p o) i y = j0 :=
    Option.some.inj ((getElem?_flatMap_range _ hy hi).symm.trans hj0)
  have hfull : (tile o.a i y).length ≤ (tile o.dst i y).length := by
    refine le_of_eq ((?_ : _ = 4096).trans (?_ : _ = 4096).symm)
    · exact limbElems_tile_length (limbClaims_of_dispatches hd (.inl rfl)) hwhole hi hy s1 p
    · exact limbElems_tile_length (limbClaims_of_dispatches hd (.inr rfl)) hwhole hi hy s1 p
  rw [hjk]
  refine ⟨rfl, ?_, ?_, ?_, ?_⟩
  · rintro rfl
    exact pmulRun_mul _ hfull
  · rintro rfl
    exact pmulRun_mac _ _
  · rintro rfl
    exact pmulRun_smul _ hfull
  · rintro rfl
    let q := ((productRecords .fxmul s1 p o).getD i (0, 0)).1
    exact ⟨pmulRun_fxmul q (at_ o.dst i y), _, rfl, saturated_pmulRun_fxmul q (at_ o.dst i y)⟩

end Sys2Proof.Proofs.Products
end

section
/-! O28: BASECONV. -/

namespace Sys2Proof.Proofs.BaseConversion

open Sys2Proof Sys2Proof.Machine
open Sys2Proof.Proofs.Starting Sys2Proof.Proofs.SealedStart Sys2Proof.Proofs.TilePasses Sys2Proof.Proofs.LimbPasses

/-- A BASECONV has coefficient tiles (Table 5.8). -/
theorem tiles_pos_of_baseRange {o : BaseOps} (hr : baseRange o = true) : 0 < 2 ^ o.log2N / 4096 := by
  simp only [baseRange, Bool.and_eq_true, decide_eq_true_eq] at hr
  obtain ⟨⟨-, hlog⟩, -⟩ := hr
  exact Nat.div_pos (Nat.pow_le_pow_right (by decide : 0 < 2) hlog : 2 ^ 12 ≤ 2 ^ o.log2N) (by decide)

/-- A modulus record that R132 and R143 admit for a base conversion. -/
def baseRecordOk (r : Nat × Nat) : Bool := r.1 != 0 && laneModulus 0 r.1 && isPrime64 r.1 && r.2 == 0

/-- The source moduli. -/
def sourceModuli (s : State) (p : Nat) (o : BaseOps) : List Nat := (modRecords s p o.inMod o.inLimbs).map (fun r => r.1)

/-- The target moduli. -/
def targetModuli (s : State) (p : Nat) (o : BaseOps) : List Nat := (modRecords s p o.outMod o.outLimbs).map (fun r => r.1)

/-- Every record is admitted, and no modulus comes twice (R143). -/
def baseAdmits (s : State) (p : Nat) (o : BaseOps) : Prop :=
  (modRecords s p o.inMod o.inLimbs ++ modRecords s p o.outMod o.outLimbs).all baseRecordOk = true ∧
    (sourceModuli s p o ++ targetModuli s p o).Nodup

/-- The test by which a base conversion refuses its records. -/
theorem refuses_iff_not_baseAdmits (s : State) (p : Nat) (o : BaseOps) :
    (!(modRecords s p o.inMod o.inLimbs ++ modRecords s p o.outMod o.outLimbs).all baseRecordOk ||
      !decide (sourceModuli s p o ++ targetModuli s p o).Nodup) = true ↔ ¬ baseAdmits s p o := by
  simp only [baseAdmits, not_and_or, Bool.not_eq_true, Bool.or_eq_true, Bool.not_eq_true', decide_eq_false_iff_not]

/-- The Sleeve of a BASECONV. -/
def baseSleeve (s : State) (p : Nat) (o : BaseOps) : Nat := physUnit (part s p) (tileIx o.src) / 24576

/-- The limbs in the target basis (R143). -/
def convertedLimbs (s : State) (p : Nat) (o : BaseOps) : List (List Nat) :=
  baseConvert (2 ^ o.log2N) (sourceModuli s p o) (targetModuli s p o)
    ((List.range o.inLimbs).map (fun i => limbElems s p (limbUnit o.src o.limbStride (baseUnits o) i) (2 ^ o.log2N) 64))

/-- The marks of the source limbs. -/
def sourceMarks (s : State) (p : Nat) (o : BaseOps) : Bool × Bool :=
  let marks := (List.range o.inLimbs).map (fun i =>
    marksOf s p (pocketAddr (limbUnit o.src o.limbStride (baseUnits o) i)) (8192 * baseUnits o))
  (marks.any (fun m => m.1), marks.any (fun m => m.2))

/-- The pass of coefficient tile `c` of a BASECONV. -/
def conversionJob (s : State) (p : Nat) (o : BaseOps) (c : Nat) : TileJob :=
  baseJob s o (enginesOf s (baseSleeve s p o)) (sourceModuli s p o) (targetModuli s p o) (baseSleeve s p o) (convertedLimbs s p o)
    (sourceMarks s p o) c

/-- A pass of a base conversion stores its tile of every target limb (R145). -/
theorem targets_conversionJob (s : State) (p : Nat) (o : BaseOps) (c : Nat) : ∀ {i : Nat}, i < o.outLimbs →
    (conversionJob s p o c).targets[i]? = some (pocketAddr (limbUnit o.dst o.limbStride (baseUnits o) i + 4 * c),
      packElems 8 ((((convertedLimbs s p o).getD i []).drop (4096 * c)).take 4096),
      some (modMeta 64 ((targetModuli s p o).getD i 0) (sourceMarks s p o)))
  | 0, _ => rfl
  | i + 1, hi => by
    have hmore : (List.range (o.outLimbs - 1))[i]? = some i := List.getElem?_range (by omega)
    simp only [TileJob.targets, conversionJob, baseJob, List.getElem?_cons_succ, List.getElem?_map, hmore, Option.map_some]

section Starts

variable {s : State} {id : Nat} {h : DescHdr} {o : BaseOps}

theorem startBaseconv_refused (hno : ¬ baseAdmits s h.p.val o) : startBaseconv s id h o = refuse s id stPolicy :=
  if_pos ((refuses_iff_not_baseAdmits s h.p.val o).mpr hno)

theorem startBaseconv_admitted (hyes : baseAdmits s h.p.val o)
    (hsleeve : (baseClaims o).all (inSleeve (part s h.p.val) (baseSleeve s h.p.val o)) = true)
    (hengines : enginesOf s (baseSleeve s h.p.val o) ≠ []) :
    startBaseconv s id h o = startJobs s id ((List.range (2 ^ o.log2N / 4096)).map (conversionJob s h.p.val o)) 0 := by
  calc startBaseconv s id h o
      = if !(baseClaims o).all (inSleeve (part s h.p.val) (baseSleeve s h.p.val o)) then refuse s id stPolicy
        else if (enginesOf s (baseSleeve s h.p.val o)).isEmpty then refuse s id stEngineLost
        else startJobs s id ((List.range (2 ^ o.log2N / 4096)).map (conversionJob s h.p.val o)) 0 :=
        if_neg (fun hbad => (refuses_iff_not_baseAdmits s h.p.val o).mp hbad hyes)
    _ = startJobs s id ((List.range (2 ^ o.log2N / 4096)).map (conversionJob s h.p.val o)) 0 := by
        rw [hsleeve, if_neg (by decide), if_neg (by rw [List.isEmpty_iff]; exact hengines)]

end Starts

/-- Settles O28: the pass of each coefficient tile is its `conversionJob`, whose targets lie in every target limb. -/
theorem baseConversionStoresItsTargets : Obligations.BaseConversionStoresItsTargets := by
  intro s h o hordered hd p s1 u n rin rout qs ps ok v out
  have hans : Answers (.baseconv h o) s (startBaseconv s1 s.nextId h o) := answers_runBody rfl hd (fun _ => rfl)
  constructor
  · intro hbad
    have hno : ¬ baseAdmits s1 p o := by
      rintro ⟨hok, hnodup⟩
      rcases hbad with hrec | htwice
      · exact absurd (hrec.symm.trans hok) (by decide)
      · exact htwice hnodup
    rw [startBaseconv_refused hno] at hans
    exact refused_of_answers hordered hans
  · intro hok hnodup hsleeve hengines
    rw [startBaseconv_admitted ⟨hok, hnodup⟩ hsleeve hengines] at hans
    have hlen : ((List.range (n / 4096)).map (conversionJob s1 p o)).length = n / 4096 := by rw [List.length_map, List.length_range]
    obtain ⟨t, jobs, ht, hflies, honly, hstore, hbegun⟩ :=
      startsPasses_takenUp hordered hans (ne_nil_of_length_pos hlen (tiles_pos_of_baseRange (rangeOk_of_dispatches hd)))
    refine ⟨t, jobs, ht, hflies, honly, hstore, hbegun.length_eq ▸ hlen, fun c i j hi hj => ?_⟩
    obtain ⟨k, hk, hjk, -⟩ := exists_of_begun hbegun hj
    obtain rfl := eq_of_getElem?_range hk
    rw [hjk]
    exact ⟨_, targets_conversionJob s1 p o c hi⟩

end Sys2Proof.Proofs.BaseConversion
end

section
/-! SUPPORT. How a ciphertext descriptor starts (R159, R165): its passes are given at the instant at which idle engines begin them, so
that they stand in it as they were computed, and its headers wait for the last commit. -/

namespace Sys2Proof.Proofs.CiphertextStart

open Sys2Proof Sys2Proof.Machine
open Sys2Proof.Proofs.Writes Sys2Proof.Proofs.Starting Sys2Proof.Proofs.Passes Sys2Proof.Proofs.TilePasses
open Sys2Proof.Proofs.ReleaseViews

/-! Passes that begin at the instant they were given -/

/-- Every pass was given at instant `ft`. -/
def GivenAt (ft : Nat) (jobs : List TileJob) : Prop := ∀ j ∈ jobs, j.startFt = ft

theorem GivenAt.append {ft : Nat} {js ks : List TileJob} (hjs : GivenAt ft js) (hks : GivenAt ft ks) : GivenAt ft (js ++ ks) :=
  fun j hj => (List.mem_append.mp hj).elim (hjs j) (hks j)

theorem GivenAt.flatMap {α : Type} {ft : Nat} {F : α → List TileJob} (hF : ∀ a, GivenAt ft (F a)) (l : List α) :
    GivenAt ft (l.flatMap F) := by
  intro j hj
  obtain ⟨a, -, hja⟩ := List.mem_flatMap.mp hj
  exact hF a j hja

theorem GivenAt.map {α : Type} {ft : Nat} {F : α → TileJob} (hF : ∀ a, (F a).startFt = ft) (l : List α) : GivenAt ft (l.map F) := by
  intro j hj
  obtain ⟨a, -, rfl⟩ := List.mem_map.mp hj
  exact hF a

theorem modFirst_eq_self {test : TileJob → Bool} {F : TileJob → TileJob} : ∀ {js : List TileJob}, (∀ j ∈ js, F j = j) →
    modFirst test F js = js
  | [], _ => rfl
  | j :: js, h => by
    unfold modFirst
    split
    · rw [h j List.mem_cons_self]
    · rw [modFirst_eq_self (fun i hi => h i (List.mem_cons_of_mem j hi))]

theorem now_of_onlyPasses {s t : State} (h : OnlyPasses s t) : now t = now s := by
  rw [h]
  rfl

theorem parts_of_onlyPasses {s t : State} (h : OnlyPasses s t) : t.parts = s.parts := by
  rw [h]

theorem regs_of_onlyPasses {s t : State} (h : OnlyPasses s t) : t.regs = s.regs := by
  rw [h]

/-- Passes that begin leave both memories. -/
theorem memories_of_onlyPasses {s t : State} (h : OnlyPasses s t) : t.lining = s.lining ∧ t.dram = s.dram := by
  rw [h]
  exact ⟨rfl, rfl⟩

/-- Beginning an engine's next pass leaves the passes of a descriptor that were given at this instant. -/
theorem flight_beginNext_given {s : State} {id : Nat} {f : InFlight} (hf : flight s id = some f) (hgiven : GivenAt (now s) f.jobs)
    (l : Nat) : ∃ k, flight (beginNext s l) id = some { f with skipped := k } := by
  rcases flight_beginNext_cases hf l with hk | ⟨d, j, k, -, -, hk⟩
  · exact hk
  · refine ⟨k, hk.trans ?_⟩
    rw [modFirst_eq_self (fun i hi => by rw [← hgiven i hi])]

theorem flight_beginAll_given {id : Nat} (ls : List Nat) : ∀ {s : State} {f : InFlight}, flight s id = some f →
    GivenAt (now s) f.jobs → ∃ k, flight (ls.foldl beginNext s) id = some { f with skipped := k } := by
  induction ls with
  | nil => exact fun {s f} hf _ => ⟨f.skipped, hf⟩
  | cons l ls ih =>
    intro s f hf hgiven
    obtain ⟨k, hk⟩ := flight_beginNext_given hf hgiven l
    rw [← now_of_onlyPasses (onlyPasses_beginNext s l)] at hgiven
    exact ih (f := { f with skipped := k }) hk hgiven

/-- A descriptor that gets passes given at this instant runs them as they are. -/
theorem flight_startJobs_given {u : State} {id : Nat} {f : InFlight} (hf : flight u id = some f) {jobs : List TileJob}
    (hjobs : jobs ≠ []) (hgiven : GivenAt (now u) jobs) (result : Nat) :
    ∃ k, flight (startJobs u id jobs result) id = some { f with jobs := jobs, phase := .running, result := result, skipped := k } := by
  refine flight_beginAll_given _ (f := { f with jobs := jobs, phase := .running, result := result }) ?_ ?_
  · rw [setJobs, if_neg (by rw [List.isEmpty_iff]; exact hjobs), flight_modFlight_same, flight_modFlight_same, hf]
    · rfl
    · exact fun _ => rfl
    · exact fun _ => rfl
  · rw [setJobs, if_neg (by rw [List.isEmpty_iff]; exact hjobs)]
    exact hgiven

/-! The start of a ciphertext descriptor -/

theorem startCt_passes {jobs : List TileJob} (hjobs : jobs ≠ []) (u : State) (id p : Nat) (heads : List (Nat × Bytes)) (count : Nat) :
    startCt u id p jobs heads count =
      (idleEngines u (jobs.flatMap TileJob.engines)).foldl beginNext
        (modFlight u id (fun f => { f with jobs := jobs, phase := .headers heads, result := resultWord count 0 0 })) :=
  if_neg (by rw [List.isEmpty_iff]; exact hjobs)

/-- The descriptor has its passes, and its headers wait for the last commit. -/
theorem flies_startCt {s u : State} {h : DescHdr} {b : DescBody} {f : InFlight} (hf : flight u s.nextId = some f) (hh : f.h = h)
    (hb : f.body = b) (hdone : f.done = none) {jobs : List TileJob} (hjobs : jobs ≠ []) (hgiven : GivenAt (now u) jobs) (p : Nat)
    (heads : List (Nat × Bytes)) (count : Nat) :
    Flies s (startCt u s.nextId p jobs heads count) h b (.headers heads) jobs := by
  rw [startCt_passes hjobs]
  obtain ⟨k, hk⟩ := flight_beginAll_given (idleEngines u (jobs.flatMap TileJob.engines))
    (s := modFlight u s.nextId (fun f => { f with jobs := jobs, phase := .headers heads, result := resultWord count 0 0 }))
    (id := s.nextId) (f := { f with jobs := jobs, phase := .headers heads, result := resultWord count 0 0 })
    (by
      rw [flight_modFlight_same, hf]
      · rfl
      · exact fun _ => rfl)
    hgiven
  exact ⟨_, hk, hh, hb, hdone, rfl, rfl⟩

theorem onlyPasses_startCt {jobs : List TileJob} (hjobs : jobs ≠ []) (u : State) (id p : Nat) (heads : List (Nat × Bytes))
    (count : Nat) : OnlyPasses u (startCt u id p jobs heads count) := by
  rw [startCt_passes hjobs]
  exact onlyPasses_trans (t := modFlight u id _) rfl (onlyPasses_foldl onlyPasses_beginNext _ _)

/-! The passes of a part -/

@[simp] theorem partJobs_length (k : Nat) (s : State) (p : Nat) (r : RingParams) (base stride : Nat) (limbs : List (List Nat))
    (marks : Bool × Bool) : (partJobs k s p r base stride limbs marks).length = limbs.length := by
  rw [partJobs, List.length_map, List.length_range]

theorem givenAt_partJobs (k : Nat) (s : State) (p : Nat) (r : RingParams) (base stride : Nat) (limbs : List (List Nat))
    (marks : Bool × Bool) : GivenAt (now s) (partJobs k s p r base stride limbs marks) :=
  GivenAt.map (F := fun i => limbJob k s p r base stride i (limbs.getD i []) marks) (fun _ => rfl) _

/-! The parameter block at hand (R152) -/

/-- Using a parameter block changes the partition's list of blocks used last, and nothing else. -/
structure RingUsed (p : Nat) (s t : State) : Prop where
  eq : t = { s with parts := t.parts }
  others : OthersKept s t p
  own : part t p = { part s p with ringCache := (part t p).ringCache }

theorem ringUsed_useRing (s : State) (p a : Nat) : RingUsed p s (useRing s p a) :=
  ⟨rfl, othersKept_modPart s p _, by rw [useRing, part_modPart_same]⟩

theorem sameBytes_useRing (s : State) (p a : Nat) : SameBytes p s (useRing s p a) := by
  have hown := (ringUsed_useRing s p a).own
  exact ⟨rfl, rfl, by rw [hown], by rw [hown], by rw [hown]⟩

theorem storeKept_useRing (s : State) (p a : Nat) : StoreKept s (useRing s p a) := ⟨fun _ => ⟨rfl, rfl⟩, rfl, rfl⟩

/-- Taking up the descriptor and using its parameter block may come in either order. -/
theorem onlyFlights_useRing_takenUp (s : State) (h : DescHdr) (b : DescBody) (p a : Nat) :
    OnlyFlights (useRing s p a) (useRing (takenUp s h b) p a) := by
  have hread : pread (takenUp s h b) p = pread s p := by
    funext x len
    exact (sameBytes_takenUp s h b p).pread_eq x len
  rw [useRing, useRing, hread, takenUp_only]
  rfl

/-! Headers -/

theorem onlyWrites_writeHeaders (s : State) (p : Nat) (ws : List (Nat × Bytes)) : OnlyWrites p s (writeHeaders s p ws) :=
  OnlyWrites.foldl (fun t _ => (onlyWrites_writeMarked t p _ _ _ _ _).trans (onlyWrites_dropResidentAt p _ p _ _)) _ _

/-- The same headers written leave the same memories. -/
theorem sameBytes_writeHeaders {p : Nat} {s t : State} (hst : SameBytes p s t) (ws : List (Nat × Bytes)) :
    SameBytes p (writeHeaders s p ws) (writeHeaders t p ws) := by
  refine SameBytes.foldl (fun s t w h => ?_) ws hst
  have hwritten := ((sameBytes_writeMarked s p w.1 w.2 (plainMeta 16) false false).symm.trans (h.pwrite_same w.1 w.2)).trans
    (sameBytes_writeMarked t p w.1 w.2 (plainMeta 16) false false)
  exact ((sameBytes_dropResidentAt p _ p w.1 w.2.length).symm.trans hwritten).trans (sameBytes_dropResidentAt p _ p w.1 w.2.length)

end Sys2Proof.Proofs.CiphertextStart
end

section
/-! O29: CT_ADD ADD and SUB. -/

namespace Sys2Proof.Proofs.CiphertextPairs

open Sys2Proof Sys2Proof.Machine
open Sys2Proof.Proofs.Writes Sys2Proof.Proofs.Starting Sys2Proof.Proofs.Passes Sys2Proof.Proofs.SealedStart Sys2Proof.Proofs.TilePasses
open Sys2Proof.Proofs.CiphertextStart

/-- The sum or difference of two residues (R164). -/
def combined (sub : Bool) (q x y : Nat) : Nat := if sub then (x + (q - y)) % q else (x + y) % q

/-- Two parts combined limb by limb. -/
def pairLimbs (sub : Bool) (s : State) (p : Nat) (r : RingParams) (stride n xs ys : Nat) : List (List Nat) :=
  (List.range n).map (fun i => List.zipWith (combined sub (r.q i)) (ctLimb s p r xs stride i) (ctLimb s p r ys stride i))

/-- Pairing limbs before they are combined makes no difference. -/
theorem pairLimbs_of_pairs (sub : Bool) (s : State) (p : Nat) (r : RingParams) (stride n xs ys : Nat) :
    (List.range n).map (fun i =>
      ((List.zipWith (List.zipWith (fun u v => (u, v))) (ctLimbs s p r xs stride n) (ctLimbs s p r ys stride n)).getD i []).map
        (fun e => combined sub (r.q i) e.1 e.2)) = pairLimbs sub s p r stride n xs ys := by
  refine List.map_congr_left (fun i hi => ?_)
  have hlimb : (List.zipWith (List.zipWith (fun u v => (u, v))) (ctLimbs s p r xs stride n) (ctLimbs s p r ys stride n)).getD i [] =
      List.zipWith (fun u v => (u, v)) (ctLimb s p r xs stride i) (ctLimb s p r ys stride i) := by
    simp only [ctLimbs, List.zipWith_map, List.zipWith_self, List.getD_eq_getElem?_getD, List.getElem?_map,
      List.getElem?_range (List.mem_range.mp hi), Option.map_some, Option.getD_some]
  rw [hlimb, List.map_zipWith]

/-- The passes of an ADD or SUB: both parts of the destination. -/
def pairJobs (sub : Bool) (s : State) (p : Nat) (o : CtAddOps) : List TileJob :=
  let r := ringAt s p o.paramAddr
  let rs := ctPairRefs s p o
  let n := (headerAt s p rs.2.1).level + 1
  let marks := fun xs ys => joinMarks (ctMarks s p r xs o.limbStride n) (ctMarks s p r ys o.limbStride n)
  partJobs 0 s p r rs.1.c0 o.limbStride (pairLimbs sub s p r o.limbStride n rs.2.1.c0 rs.2.2.c0) (marks rs.2.1.c0 rs.2.2.c0) ++
    partJobs 0 s p r rs.1.c1 o.limbStride (pairLimbs sub s p r o.limbStride n rs.2.1.c1 rs.2.2.c1) (marks rs.2.1.c1 rs.2.2.c1)

/-- The header of a sum or difference (R157, R164; log entry 42). -/
def pairHeader (r : RingParams) (x y : CtHeader) : CtHeader :=
  { x with headroom := x.headroom + y.headroom - r.budget, share := 0, seqNext := 0,
           roundId := if x.roundId = y.roundId then x.roundId else 0 }

theorem pairJobs_ne_nil (sub : Bool) (s : State) (p : Nat) (o : CtAddOps) : pairJobs sub s p o ≠ [] := by
  intro hnil
  have hlength := congrArg List.length hnil
  simp only [pairJobs, List.length_append, partJobs_length, pairLimbs, List.length_map, List.length_range, List.length_nil] at hlength
  omega

theorem givenAt_pairJobs (sub : Bool) (s : State) (p : Nat) (o : CtAddOps) : GivenAt (now s) (pairJobs sub s p o) :=
  GivenAt.append (givenAt_partJobs _ _ _ _ _ _ _ _) (givenAt_partJobs _ _ _ _ _ _ _ _)

/-- The two ciphertexts have one form, level, domain and, for CKKS, scale (R159). -/
structure PairAgrees (r : RingParams) (x y : CtHeader) : Prop where
  valid : r.valid = true
  left : ctFormOk r x = true
  right : ctFormOk r y = true
  level : x.level = y.level
  ntt : x.ntt = y.ntt
  scale : r.scheme = 3 → x.scaleExp = y.scaleExp

/-- The test by which an ADD or SUB refuses its operands' forms. -/
theorem PairAgrees.passes {r : RingParams} {x y : CtHeader} (h : PairAgrees r x y) :
    (!r.valid || !ctFormOk r x || !ctFormOk r y || x.level != y.level || x.ntt != y.ntt ||
      (r.scheme == 3 && x.scaleExp != y.scaleExp)) = false := by
  have hscale : (r.scheme == 3 && x.scaleExp != y.scaleExp) = false := by
    rw [Bool.and_eq_false_imp, beq_iff_eq, bne_eq_false_iff_eq]
    exact h.scale
  rw [hscale, h.valid, h.left, h.right, h.level, h.ntt]
  simp only [Bool.not_true, bne_self_eq_false, Bool.or_self]

/-- The checks of R159 in their order, and the start of the passes. -/
theorem startCtPair_eq {sub : Bool} {s : State} {id : Nat} {h : DescHdr} {o : CtAddOps} {r : RingParams} {x y : CtHeader}
    (hr : ringAt s h.p.val o.paramAddr = r) (hx : headerAt s h.p.val (ctPairRefs s h.p.val o).2.1 = x)
    (hy : headerAt s h.p.val (ctPairRefs s h.p.val o).2.2 = y) (hagrees : PairAgrees r x y) :
    startCtPair sub s id h o =
      if x.tag ≠ y.tag then refuse s id stKeyTag
      else if x.level = 0 then refuse s id stLevel
      else if x.headroom + y.headroom < r.budget then refuse s id stHeadroom
      else if !enginesAt s h.p.val (pairJobs sub s h.p.val o) then refuse s id stEngineLost
      else startCt (useRing s h.p.val o.paramAddr) id h.p.val (pairJobs sub s h.p.val o)
        [((ctPairRefs s h.p.val o).1.hdr, (pairHeader r x y).bytes)] 1 := by
  subst hr hx hy
  have hlimbs := pairLimbs_of_pairs sub s h.p.val (ringAt s h.p.val o.paramAddr) o.limbStride
    ((headerAt s h.p.val (ctPairRefs s h.p.val o).2.1).level + 1)
  unfold combined at hlimbs
  simp only [startCtPair, hagrees.passes, Bool.false_eq_true, if_false, hlimbs]
  rfl

/-- Settles O29, check by check in the order of `startCtPair_eq`. -/
theorem ciphertextPairsAreCombined : Obligations.CiphertextPairsAreCombined := by
  intro s h o sub hordered c b hd p s1 r rs x y n limbs marks jobs hvalid hx hy hlevel hntt hscale
  have hans : Answers c s (startCtPair sub s1 s.nextId h o) := by
    cases sub
    · exact answers_runBody (c := .ctAddAdd h o) rfl hd (fun _ => rfl)
    · exact answers_runBody (c := .ctAddSub h o) rfl hd (fun _ => rfl)
  rw [startCtPair_eq (r := r) (x := x) (y := y) rfl rfl rfl ⟨hvalid, hx, hy, hlevel, hntt, hscale⟩] at hans
  refine ⟨fun htag => ?_, fun htag hzero => ?_, fun htag hlow hroom => ?_, fun htag hlow hroom hengines => ?_⟩
  · rw [if_pos htag] at hans
    exact refused_of_answers hordered hans
  · rw [if_neg (not_not.mpr htag), if_pos hzero] at hans
    exact refused_of_answers hordered hans
  · rw [if_neg (not_not.mpr htag), if_neg hlow, if_pos hroom] at hans
    exact refused_of_answers hordered hans
  · have hengines' : enginesAt s1 p (pairJobs sub s1 p o) = true := hengines
    rw [if_neg (not_not.mpr htag), if_neg hlow, if_neg (Nat.not_lt.mpr hroom), hengines', if_neg (by decide)] at hans
    have hjobs := pairJobs_ne_nil sub s1 p o
    have hflies := flies_startCt (s := s) (u := useRing s1 p o.paramAddr) (flight_takenUp hordered h b) rfl rfl rfl hjobs
      (givenAt_pairJobs sub s1 p o) p [(rs.1.hdr, (pairHeader r x y).bytes)] 1
    have honly := onlyPasses_trans (onlyPasses_of_onlyFlights (onlyFlights_useRing_takenUp s h b p o.paramAddr))
      (onlyPasses_startCt hjobs (useRing s1 p o.paramAddr) s.nextId p [(rs.1.hdr, (pairHeader r x y).bytes)] 1)
    exact ⟨_, pairHeader r x y, hans, hflies, honly,
      storeKept_trans (storeKept_useRing s p o.paramAddr) (storeKept_of_onlyPasses honly), rfl, rfl, rfl, rfl, rfl, rfl⟩

end Sys2Proof.Proofs.CiphertextPairs
end

section
/-! O31: KEYSWITCH and ROTATE. -/

namespace Sys2Proof.Proofs.KeySwitches

open Sys2Proof Sys2Proof.Machine
open Sys2Proof.Proofs.Writes Sys2Proof.Proofs.Starting Sys2Proof.Proofs.Passes Sys2Proof.Proofs.SealedStart
open Sys2Proof.Proofs.TilePasses Sys2Proof.Proofs.PassesCommit Sys2Proof.Proofs.ChainTiles Sys2Proof.Proofs.CiphertextStart

/-! The working area (R167) -/

/-- The working area as its free values leave it. -/
def scratched (s : State) (p : Nat) (c : Claim) (marks : Bool × Bool) : State :=
  setUnitMetas (dropResident (pwrite s p (pocketAddr c.first) (freeBytes s (8192 * c.units))) p c.first c.units) p c.first
    { plainMeta 16 with mark := marks.1, model := marks.2 } c.units

theorem scratch_eq (s : State) (p : Nat) (c : Claim) (marks : Bool × Bool) : scratch s p c marks = spendFree (scratched s p c marks) := rfl

theorem onlyWrites_scratched (s : State) (p : Nat) (c : Claim) (marks : Bool × Bool) : OnlyWrites p s (scratched s p c marks) :=
  ((onlyWrites_pwrite s p _ _).trans (onlyWrites_dropResident p _ p _ _)).trans (onlyWrites_setUnitMetas p p _ _ _ _)

theorem sameBytes_scratched (s : State) (p : Nat) (c : Claim) (marks : Bool × Bool) :
    SameBytes p (pwrite s p (pocketAddr c.first) (freeBytes s (8192 * c.units))) (scratched s p c marks) :=
  (sameBytes_dropResident p _ p _ _).trans (sameBytes_setUnitMetas p p _ _ _ _)

theorem scratch_dram (s : State) (p : Nat) (c : Claim) (marks : Bool × Bool) : (scratch s p c marks).dram = s.dram :=
  (sameBytes_scratched s p c marks).dram.trans (pwrite_pocket_dram s p _ _)

/-- The block that is used makes no difference to the values in the working area. -/
theorem scratch_useRing_lining (s : State) (p a : Nat) (c : Claim) (marks : Bool × Bool) :
    (scratch (useRing s p a) p c marks).lining = (scratch s p c marks).lining :=
  calc (scratch (useRing s p a) p c marks).lining
      = (pwrite (useRing s p a) p (pocketAddr c.first) (freeBytes s (8192 * c.units))).lining :=
        (sameBytes_scratched (useRing s p a) p c marks).lining
    _ = (pwrite s p (pocketAddr c.first) (freeBytes s (8192 * c.units))).lining :=
        ((sameBytes_useRing s p a).pwrite_same _ _).lining
    _ = (scratch s p c marks).lining := (sameBytes_scratched s p c marks).lining.symm

/-! The start -/

/-- The listed ciphertexts of a KEYSWITCH or ROTATE, inputs with outputs. -/
def switchRefs (s : State) (p : Nat) (o : KsOps) : List (CtRef × CtRef) := ksRefs s p o.inList o.outList o.ctCount

/-- The limbs of an input. -/
def inputLimbs (s : State) (p : Nat) (e : CtRef × CtRef) : Nat := (headerAt s p e.1).level + 1

/-- The marks of an input. -/
def inputMarks (s : State) (p : Nat) (r : RingParams) (stride : Nat) (e : CtRef × CtRef) : Bool × Bool :=
  joinMarks (ctMarks s p r e.1.c0 stride (inputLimbs s p e)) (ctMarks s p r e.1.c1 stride (inputLimbs s p e))

/-- The passes of one listed ciphertext: the two parts of its output (R168, R169). -/
def switchPasses (rotate : Bool) (s : State) (p : Nat) (o : KsOps) (ei : (CtRef × CtRef) × Nat) : List TileJob :=
  let r := ringAt s p o.paramAddr
  let out := ksOutput s p r rotate o ei.1.1 (inputLimbs s p ei.1)
  partJobs ei.2 s p r ei.1.2.c0 o.limbStride out.1 (inputMarks s p r o.limbStride ei.1) ++
    partJobs ei.2 s p r ei.1.2.c1 o.limbStride out.2 (inputMarks s p r o.limbStride ei.1)

/-- The passes of a KEYSWITCH or ROTATE. -/
def switchJobs (rotate : Bool) (s : State) (p : Nat) (o : KsOps) : List TileJob :=
  (switchRefs s p o).zipIdx.flatMap (switchPasses rotate s p o)

/-- The header of an output: under the destination tag, with the key's cost charged (R157, R162). -/
def switchHead (rotate : Bool) (s : State) (p : Nat) (o : KsOps) (k : KeyStream) (e : CtRef × CtRef) : Nat × Bytes :=
  let c := headerAt s p e.1
  let room := if rotate && bvBit o.flags 2 then 2 * c.headroom - (ringAt s p o.paramAddr).budget - k.cost else c.headroom - k.cost
  (e.2.hdr, ({ c with share := 0, headroom := room, tag := k.dst } : CtHeader).bytes)

theorem givenAt_switchJobs (rotate : Bool) (s : State) (p : Nat) (o : KsOps) : GivenAt (now s) (switchJobs rotate s p o) :=
  GivenAt.flatMap (fun _ => GivenAt.append (givenAt_partJobs _ _ _ _ _ _ _ _) (givenAt_partJobs _ _ _ _ _ _ _ _)) _

section Starts

variable {rotate : Bool} {s : State} {id : Nat} {h : DescHdr} {o : KsOps} {k : KeyStream}

theorem startSwitch_noKey (hkey : ksHeader s h.p.val o = none) : startSwitch rotate s id h o = refuse s id stPolicy := by
  simp only [startSwitch, hkey]

variable (hkey : ksHeader s h.p.val o = some k) (hvalid : (ringAt s h.p.val o.paramAddr).valid = true)
  (hspecial : (ringAt s h.p.val o.paramAddr).special ≠ 0)
include hkey hvalid hspecial

theorem startSwitch_refused {st : Status} (hbad : (switchRefs s h.p.val o).findSome? (fun e =>
      ksCheck (ringAt s h.p.val o.paramAddr) k rotate o (headerAt s h.p.val e.1)) = some st) :
    startSwitch rotate s id h o = refuse s id st := by
  rw [switchRefs] at hbad
  simp only [startSwitch, hkey, hvalid, beq_eq_false_iff_ne.mpr hspecial, hbad, Bool.not_true, Bool.or_self, Bool.false_eq_true, if_false]

theorem startSwitch_admitted (hgood : (switchRefs s h.p.val o).findSome? (fun e =>
      ksCheck (ringAt s h.p.val o.paramAddr) k rotate o (headerAt s h.p.val e.1)) = none)
    (hengines : enginesAt s h.p.val (switchJobs rotate s h.p.val o) = true) :
    ∃ marks, startSwitch rotate s id h o =
      startCt (scratch (useRing s h.p.val o.paramAddr) h.p.val (ksWork s h.p.val o) marks) id h.p.val (switchJobs rotate s h.p.val o)
        ((switchRefs s h.p.val o).map (switchHead rotate s h.p.val o k)) o.ctCount := by
  have hheads : (switchRefs s h.p.val o).map (switchHead rotate s h.p.val o k) =
      (switchRefs s h.p.val o).zipIdx.map (fun ei => switchHead rotate s h.p.val o k ei.1) := by
    conv_lhs => rw [← List.zipIdx_map_fst 0 (switchRefs s h.p.val o), List.map_map]
    rfl
  rw [switchRefs] at hgood
  rw [hheads]
  simp only [switchJobs, switchRefs] at hengines ⊢
  simp only [startSwitch, hkey, hvalid, beq_eq_false_iff_ne.mpr hspecial, hgood, Bool.not_true, Bool.or_self, Bool.false_eq_true,
    if_false, List.flatMap_map, List.map_map]
  exact ⟨_, if_neg (by rw [Bool.not_eq_true', Bool.not_eq_false]; exact hengines)⟩

end Starts

/-- Settles O31: refused by the first check that fails (`startSwitch_refused`), else started over the working area
(`startSwitch_admitted`). -/
theorem keySwitchesStoreTheirOutputs : Obligations.KeySwitchesStoreTheirOutputs := by
  intro s h o rotate hordered c b hd p s1 r refs
  have hans : Answers c s (startSwitch rotate s1 s.nextId h o) := by
    cases rotate
    · exact answers_runBody (c := .keyswitch h o) rfl hd (fun _ => rfl)
    · exact answers_runBody (c := .rotate h o) rfl hd (fun _ => rfl)
  refine ⟨fun hkey => ?_, fun k hkey hvalid hspecial => ⟨fun st hbad => ?_, fun hgood => ?_⟩⟩
  · rw [startSwitch_noKey hkey] at hans
    exact refused_of_answers hordered hans
  · rw [startSwitch_refused hkey hvalid hspecial hbad] at hans
    exact refused_of_answers hordered hans
  · intro lvl marks jobs heads hengines hjobs
    obtain ⟨m, hstart⟩ := startSwitch_admitted (id := s.nextId) hkey hvalid hspecial hgood hengines
    rw [hstart] at hans
    have hwrites := onlyWrites_scratched (useRing s1 p o.paramAddr) p (ksWork s1 p o) m
    have hflight : flight (scratch (useRing s1 p o.paramAddr) p (ksWork s1 p o) m) s.nextId =
        some (takenFlight s h b (reserves s h b)) := (hwrites.flight _).trans (flight_takenUp hordered h b)
    have hgiven : GivenAt (now (scratch (useRing s1 p o.paramAddr) p (ksWork s1 p o) m)) (switchJobs rotate s1 p o) :=
      (hwrites.now : now (scratch (useRing s1 p o.paramAddr) p (ksWork s1 p o) m) = now s1) ▸ givenAt_switchJobs rotate s1 p o
    have honly := onlyPasses_startCt hjobs (scratch (useRing s1 p o.paramAddr) p (ksWork s1 p o) m) s.nextId p heads o.ctCount
    obtain ⟨hlining, hdram⟩ := memories_of_onlyPasses honly
    refine ⟨_, m, hans, flies_startCt hflight rfl rfl rfl hjobs hgiven p heads o.ctCount, ?_, ?_, ?_, ?_⟩
    · exact hlining.trans (scratch_useRing_lining s1 p o.paramAddr (ksWork s1 p o) m)
    · exact (hdram.trans (scratch_dram _ p _ m)).trans (sameBytes_takenUp s h b p).dram
    · exact ((regs_of_onlyPasses honly).trans hwrites.regs).trans (takenUp_regs s h b)
    · have hparts := othersKept_of_parts (parts_of_onlyPasses honly) p
      exact othersKept_trans (othersKept_of_parts (takenUp_parts s h b) p)
        (othersKept_trans (ringUsed_useRing s1 p o.paramAddr).others (othersKept_trans hwrites.others hparts))

end Sys2Proof.Proofs.KeySwitches
end

section
/-! SUPPORT. RESCALE and MODSWITCH: the listed ciphertexts lose their top limbs (R172 to R174). -/

namespace Sys2Proof.Proofs.LevelDrops

open Sys2Proof Sys2Proof.Machine
open Sys2Proof.Proofs.Writes Sys2Proof.Proofs.Starting Sys2Proof.Proofs.Passes Sys2Proof.Proofs.SealedStart
open Sys2Proof.Proofs.TilePasses Sys2Proof.Proofs.CiphertextStart

/-- The listed ciphertexts of a RESCALE or MODSWITCH, inputs with outputs. -/
def dropRefs (s : State) (p : Nat) (o : RescaleOps) : List (CtRef × CtRef) := ksRefs s p o.inList o.outList o.ctCount

/-- The limbs that a descriptor drops. -/
def dropCount (mod_ : Bool) (o : RescaleOps) : Nat := if mod_ then o.drop else 1

/-- The tag of the first ciphertext listed (R158). -/
def dropTag (s : State) (p : Nat) (o : RescaleOps) : Nat :=
  ((dropRefs s p o).head?.map (fun e => (headerAt s p e.1).tag)).getD 0

/-- The passes that write one part of an output; CKKS limbs that stay in place are not written again (R174). -/
def dropPart (mod_ : Bool) (s : State) (p : Nat) (o : RescaleOps) (e : CtRef × CtRef) (i src dst : Nat) : List TileJob :=
  let r := ringAt s p o.paramAddr
  let c := headerAt s p e.1
  if mod_ && r.scheme == 3 && src == dst then []
  else partJobs i s p r dst o.limbStride (dropLimbs r mod_ (dropCount mod_ o) c.ntt (ctLimbs s p r src o.limbStride (c.level + 1)))
    (ctMarks s p r src o.limbStride (c.level + 1))

/-- The passes of a RESCALE or MODSWITCH. -/
def dropJobs (mod_ : Bool) (s : State) (p : Nat) (o : RescaleOps) : List TileJob :=
  (dropRefs s p o).zipIdx.flatMap (fun ei =>
    dropPart mod_ s p o ei.1 ei.2 ei.1.1.c0 ei.1.2.c0 ++ dropPart mod_ s p o ei.1 ei.2 ei.1.1.c1 ei.1.2.c1)

/-- The header of an output (R157, R173). -/
def dropHead (mod_ : Bool) (s : State) (p : Nat) (o : RescaleOps) (e : CtRef × CtRef) : Nat × Bytes :=
  let c := headerAt s p e.1
  let scale := if mod_ then c.scaleExp else c.scaleExp - nearestLog2 ((ringAt s p o.paramAddr).q c.level)
  let hd : CtHeader :=
    { c with share := 0, level := c.level - dropCount mod_ o, headroom := c.headroom - dropCount mod_ o, scaleExp := scale }
  (e.2.hdr, { hd with dataLen := hd.len }.bytes)

theorem givenAt_dropPart (mod_ : Bool) (s : State) (p : Nat) (o : RescaleOps) (e : CtRef × CtRef) (i src dst : Nat) :
    GivenAt (now s) (dropPart mod_ s p o e i src dst) := by
  unfold dropPart
  dsimp only
  split
  · exact fun _ hj => absurd hj List.not_mem_nil
  · exact givenAt_partJobs _ _ _ _ _ _ _ _

theorem givenAt_dropJobs (mod_ : Bool) (s : State) (p : Nat) (o : RescaleOps) : GivenAt (now s) (dropJobs mod_ s p o) :=
  GivenAt.flatMap (fun _ => GivenAt.append (givenAt_dropPart _ _ _ _ _ _ _ _) (givenAt_dropPart _ _ _ _ _ _ _ _)) _

section Starts

variable {mod_ : Bool} {s : State} {id : Nat} {h : DescHdr} {o : RescaleOps} (hvalid : (ringAt s h.p.val o.paramAddr).valid = true)
include hvalid

theorem startRescale_refused {st : Status} (hbad : (dropRefs s h.p.val o).findSome? (fun e =>
      rescaleCheck (ringAt s h.p.val o.paramAddr) mod_ (dropCount mod_ o) (dropTag s h.p.val o) (headerAt s h.p.val e.1)) = some st) :
    startRescale mod_ s id h o = refuse s id st := by
  simp only [dropRefs, dropCount, dropTag] at hbad
  simp only [startRescale, hvalid, hbad, Bool.not_true, Bool.false_eq_true, if_false]

theorem startRescale_admitted (hgood : (dropRefs s h.p.val o).findSome? (fun e =>
      rescaleCheck (ringAt s h.p.val o.paramAddr) mod_ (dropCount mod_ o) (dropTag s h.p.val o) (headerAt s h.p.val e.1)) = none)
    (hengines : enginesAt s h.p.val (dropJobs mod_ s h.p.val o) = true) :
    startRescale mod_ s id h o =
      startCt (useRing s h.p.val o.paramAddr) id h.p.val (dropJobs mod_ s h.p.val o)
        ((dropRefs s h.p.val o).map (dropHead mod_ s h.p.val o)) o.ctCount := by
  have hheads : (dropRefs s h.p.val o).map (dropHead mod_ s h.p.val o) =
      (dropRefs s h.p.val o).zipIdx.map (fun ei => dropHead mod_ s h.p.val o ei.1) := by
    conv_lhs => rw [← List.zipIdx_map_fst 0 (dropRefs s h.p.val o), List.map_map]
    rfl
  rw [hheads]
  simp only [dropRefs, dropCount, dropTag] at hgood
  simp only [dropJobs, dropRefs] at hengines ⊢
  simp only [startRescale, hvalid, hgood, Bool.not_true, Bool.false_eq_true, if_false, List.flatMap_map, List.map_map]
  exact if_neg (by rw [Bool.not_eq_true', Bool.not_eq_false]; exact hengines)

end Starts

/-- The descriptor of either opcode. -/
def dropBody (o : RescaleOps) (mod_ : Bool) : DescBody := if mod_ then .modswitch o else .rescale o

/-- The command of either opcode. -/
def dropCommand (h : DescHdr) (o : RescaleOps) (mod_ : Bool) : Instr := if mod_ then .modswitch h o else .rescale h o

theorem answers_rescale {s : State} {h : DescHdr} {o : RescaleOps} {mod_ : Bool} (hd : Dispatches s h (dropBody o mod_)) :
    Answers (dropCommand h o mod_) s (startRescale mod_ (takenUp s h (dropBody o mod_)) s.nextId h o) := by
  cases mod_ <;> exact answers_runBody rfl hd (fun _ => rfl)

/-- What a RESCALE or MODSWITCH without passes leaves: its headers, written at once. -/
theorem headers_written {s : State} (hordered : FlightsOrdered s) (h : DescHdr) (b : DescBody) (p a count : Nat)
    (heads : List (Nat × Bytes)) :
    let t := startCt (useRing (takenUp s h b) p a) s.nextId p [] heads count
    Ends s t h b stOk (resultWord count 0 0) ∧ t.lining = (writeHeaders s p heads).lining ∧ t.dram = (writeHeaders s p heads).dram ∧
      OthersKept s t p ∧ t.regs = s.regs := by
  intro t
  have hwrites := onlyWrites_writeHeaders (useRing (takenUp s h b) p a) p heads
  have hbytes := sameBytes_writeHeaders ((sameBytes_takenUp s h b p).trans (sameBytes_useRing _ p a)) heads
  refine ⟨?_, hbytes.lining, hbytes.dram, ?_, ?_⟩
  · exact ends_finish stOk _ ((hwrites.flight _).trans (flight_takenUp hordered h b)) rfl rfl
      (hwrites.now.trans (takenUp_now s h b))
  · exact othersKept_trans (othersKept_of_parts (takenUp_parts s h b) p)
      (othersKept_trans (ringUsed_useRing _ p a).others hwrites.others)
  · exact hwrites.regs.trans (takenUp_regs s h b)

end Sys2Proof.Proofs.LevelDrops
end

section
/-! SUPPORT. PARTIAL_DEC: the committee's share of a ciphertext (R177 to R179). -/

namespace Sys2Proof.Proofs.PartialShares

open Sys2Proof Sys2Proof.Machine
open Sys2Proof.Proofs.Writes Sys2Proof.Proofs.Starting Sys2Proof.Proofs.Passes Sys2Proof.Proofs.SealedStart
open Sys2Proof.Proofs.TilePasses Sys2Proof.Proofs.CiphertextStart

/-! The key (R331) -/

theorem kind_of_storedKey {s : State} {p kind : Nat} {k : StoredKey} (hk : storedKey s p kind = some k) : k.kind = kind := by
  have hfound := List.find?_some hk
  simp only [Bool.and_eq_true, beq_iff_eq] at hfound
  obtain ⟨⟨hkind, -⟩, -⟩ := hfound
  exact hkind

/-- The key of a descriptor's kind at hand is the one in the store at its dispatch. -/
theorem keyFor_takenUp {s : State} (hordered : FlightsOrdered s) {h : DescHdr} {b : DescBody} {kind : Nat}
    (hkind : keyKind (opcodeOf b) = some kind) : keyFor (takenUp s h b) s.nextId h.p.val kind = storedKey s h.p.val kind := by
  have hstore : storedKey (takenUp s h b) h.p.val kind = storedKey s h.p.val kind := by
    simp only [storedKey, takenUp_part, expiryOk, takenUp_now]
  have hheld : (flight (takenUp s h b) s.nextId).bind (fun f => f.key) = storedKey s h.p.val kind := by
    rw [flight_takenUp hordered]
    simp only [Option.bind_some, takenFlight, hkind]
  unfold keyFor
  rw [hheld, hstore]
  cases hk : storedKey s h.p.val kind with
  | none => rfl
  | some k => exact if_pos (kind_of_storedKey hk)

/-! The share -/

/-- The released ciphertext that a PARTIAL_DEC names. -/
def partialSource (s : State) (p : Nat) (o : PartialOps) : CtRef := refOf (pread s p o.ctRef 16)

/-- Where its share goes. -/
def partialOutput (s : State) (p : Nat) (o : PartialOps) : CtRef := refOf (pread s p o.outRef 16)

/-- The limbs of the ciphertext. -/
def partialLimbs (s : State) (p : Nat) (o : PartialOps) : Nat := (headerAt s p (partialSource s p o)).level + 1

/-- The limbs of the share with its noise, in coefficient form (R179). -/
def shareLimbs (s : State) (p : Nat) (o : PartialOps) (k : StoredKey) : List (List Nat) :=
  let r := ringAt s p o.paramAddr
  let src := partialSource s p o
  (List.range (partialLimbs s p o)).map (fun i =>
    let q := r.q i
    let x := ctLimb s p r src.c1 o.limbStride i
    let xn := if (headerAt s p src).ntt then x else nttFwd q (r.psi i) r.log2N x
    let lambda := if o.lambdaAddr = 0 then 1 else leNat (pread s p (o.lambdaAddr + 8 * i) 8)
    let d := List.zipWith (fun a b => lambda * a % q * b % q) xn (shareLimb r k i)
    List.zipWith (fun (a : Nat) (b : Int) => (((a : Int) + b) % (q : Int)).toNat) (nttInv q (r.psi i) r.log2N d)
      (smudge s k.smudge r.size))

/-- The passes of a PARTIAL_DEC, under the pre-gate mark (R179). -/
def shareJobs (s : State) (p : Nat) (o : PartialOps) (k : StoredKey) : List TileJob :=
  partJobs 0 s p (ringAt s p o.paramAddr) (partialOutput s p o).c0 o.limbStride (shareLimbs s p o k)
    (true, (ctMarks s p (ringAt s p o.paramAddr) (partialSource s p o).c1 o.limbStride (partialLimbs s p o)).2 ||
      (o.lambdaAddr != 0 && (marksOf s p o.lambdaAddr (8 * partialLimbs s p o)).2))

/-- The header of the share (R179). -/
def shareHead (s : State) (p : Nat) (o : PartialOps) : Bytes :=
  let hd : CtHeader :=
    { headerAt s p (partialSource s p o) with parts := 1, share := field (part s p).policy 0x6C 1, ntt := false, seqNext := 0 }
  { hd with dataLen := hd.len }.bytes

/-- The state in which a share is made: its block is used, its noise is drawn, and its round is noted (R178). -/
def shareNoted (s : State) (p : Nat) (o : PartialOps) : State :=
  modPart (spendFree (useRing s p o.paramAddr)) p (fun x => { x with shared := x.shared ++ [o.roundId] })

theorem shareJobs_length (s : State) (p : Nat) (o : PartialOps) (k : StoredKey) : (shareJobs s p o k).length = partialLimbs s p o := by
  rw [shareJobs, partJobs_length, shareLimbs, List.length_map, List.length_range]

theorem shareJobs_ne_nil (s : State) (p : Nat) (o : PartialOps) (k : StoredKey) : shareJobs s p o k ≠ [] :=
  ne_nil_of_length_pos (shareJobs_length s p o k) (Nat.succ_pos _)

/-- A limb of the share lies in the output's part, under the pre-gate mark. -/
theorem shareJobs_place {s : State} {p : Nat} {o : PartialOps} {k : StoredKey} {i : Nat} {j : TileJob}
    (hj : (shareJobs s p o k)[i]? = some j) : i < partialLimbs s p o ∧ j.mark = true ∧
      j.addr = pocketAddr (limbUnit (partialOutput s p o).c0 o.limbStride (ringAt s p o.paramAddr).limbUnits i) := by
  obtain ⟨hi, -⟩ := List.getElem?_eq_some_iff.mp hj
  rw [shareJobs_length] at hi
  obtain rfl := LimbPasses.eq_of_getElem?_range hj
  exact ⟨hi, rfl, rfl⟩

/-- Where every limb's Sleeve has an engine, every pass has. -/
theorem enginesAt_shareJobs {s : State} {p : Nat} {o : PartialOps} (k : StoredKey) (hengines : ∀ i, i < partialLimbs s p o →
      engineAt s p (pocketAddr (limbUnit (partialOutput s p o).c0 o.limbStride (ringAt s p o.paramAddr).limbUnits i) % 2 ^ 60 / 8192)
        = true) : enginesAt s p (shareJobs s p o k) = true := by
  rw [enginesAt, List.all_eq_true]
  intro j hj
  obtain ⟨i, hi⟩ := List.mem_iff_getElem?.mp hj
  obtain ⟨hlt, -, haddr⟩ := shareJobs_place hi
  rw [haddr]
  exact hengines i hlt

/-! What the noted round changes -/

theorem othersKept_shareNoted (s : State) (p : Nat) (o : PartialOps) : OthersKept s (shareNoted s p o) p :=
  othersKept_trans (ringUsed_useRing s p o.paramAddr).others (othersKept_modPart (spendFree (useRing s p o.paramAddr)) p _)

theorem shared_shareNoted (s : State) (p : Nat) (o : PartialOps) :
    (part (shareNoted s p o) p).shared = (part s p).shared ++ [o.roundId] := by
  rw [shareNoted, part_modPart_same]
  change (part (useRing s p o.paramAddr) p).shared ++ [o.roundId] = _
  rw [(ringUsed_useRing s p o.paramAddr).own]

theorem flight_shareNoted (s : State) (p : Nat) (o : PartialOps) (id : Nat) : flight (shareNoted s p o) id = flight s id := rfl

theorem givenAt_shareJobs (s : State) (p : Nat) (o : PartialOps) (k : StoredKey) :
    GivenAt (now (shareNoted s p o)) (shareJobs s p o k) :=
  givenAt_partJobs _ s _ _ _ _ _ _

theorem storeKept_shareNoted (s : State) (p : Nat) (o : PartialOps) : StoreKept s (shareNoted s p o) :=
  ⟨fun _ => ⟨rfl, rfl⟩, rfl, rfl⟩

/-! The start -/

/-- Every factor of Λ is reduced (R179). -/
def lambdaReduced (s : State) (p : Nat) (o : PartialOps) : Prop :=
  o.lambdaAddr = 0 ∨ ∀ i, i < partialLimbs s p o → leNat (pread s p (o.lambdaAddr + 8 * i) 8) < (ringAt s p o.paramAddr).q i

/-- What a PARTIAL_DEC asks of its ciphertext, its round and its policy (R178, R179). -/
structure PartialAdmits (s : State) (p : Nat) (o : PartialOps) : Prop where
  valid : (ringAt s p o.paramAddr).valid = true
  form : ctFormOk (ringAt s p o.paramAddr) (headerAt s p (partialSource s p o)) = true
  member : field (part s p).policy 0x6C 1 ≠ 0
  unmarked : (joinMarks (ctMarks s p (ringAt s p o.paramAddr) (partialSource s p o).c0 o.limbStride (partialLimbs s p o))
    (ctMarks s p (ringAt s p o.paramAddr) (partialSource s p o).c1 o.limbStride (partialLimbs s p o))).1 = false
  released : ctReleased s p (ringAt s p o.paramAddr) (partialSource s p o) o.limbStride (partialLimbs s p o) o.roundId = true
  unshared : (part s p).shared.contains o.roundId = false
  reduced : lambdaReduced s p o

theorem lambdaOk_of_reduced {s : State} {p : Nat} {o : PartialOps} (hreduced : lambdaReduced s p o) :
    (o.lambdaAddr == 0 || (List.range (partialLimbs s p o)).all (fun i =>
      decide (leNat (pread s p (o.lambdaAddr + 8 * i) 8) < (ringAt s p o.paramAddr).q i))) = true := by
  rw [Bool.or_eq_true, beq_iff_eq, List.all_eq_true]
  exact hreduced.imp_right (fun hq i hi => decide_eq_true (hq i (List.mem_range.mp hi)))

section Starts

variable {s : State} {id : Nat} {h : DescHdr} {o : PartialOps}

theorem startPartial_noShare (hnone : shareFor s id h.p.val (headerAt s h.p.val (partialSource s h.p.val o)).tag = none) :
    startPartial s id h o = refuse s id stPolicy := by
  rw [partialSource] at hnone
  simp only [startPartial, hnone]

variable {k : StoredKey} (hkey : shareFor s id h.p.val (headerAt s h.p.val (partialSource s h.p.val o)).tag = some k)
include hkey

theorem startPartial_shared (hshared : (part s h.p.val).shared.contains o.roundId = true) :
    startPartial s id h o = refuse s id stPolicy := by
  rw [partialSource] at hkey
  simp only [startPartial, hkey, hshared, Bool.or_true, Bool.true_or, if_true]

theorem startPartial_admitted (hadmits : PartialAdmits s h.p.val o) :
    startPartial s id h o = if !samplersRun s h.p.val then stallNoise s id (some k) else partialShare s id h o k := by
  have hlambda := lambdaOk_of_reduced hadmits.reduced
  obtain ⟨hvalid, hform, hmember, hunmarked, hreleased, hunshared, -⟩ := hadmits
  simp only [partialLimbs, partialSource] at hkey hform hunmarked hreleased hlambda
  simp only [startPartial, hkey, hvalid, hform, beq_eq_false_iff_ne.mpr hmember, hunmarked, hreleased, hunshared, hlambda,
    Bool.not_true, Bool.or_self, Bool.false_eq_true, if_false]

end Starts

theorem partialShare_made {s : State} {id : Nat} {h : DescHdr} {o : PartialOps} {k : StoredKey}
    (hunshared : (part s h.p.val).shared.contains o.roundId = false) (hengines : enginesAt s h.p.val (shareJobs s h.p.val o k) = true) :
    partialShare s id h o k =
      startCt (shareNoted s h.p.val o) id h.p.val (shareJobs s h.p.val o k)
        [((partialOutput s h.p.val o).hdr, shareHead s h.p.val o)] 1 :=
  calc partialShare s id h o k
      = if (part s h.p.val).shared.contains o.roundId then refuse s id stPolicy
        else if !enginesAt s h.p.val (shareJobs s h.p.val o k) then refuse s id stEngineLost
        else startCt (shareNoted s h.p.val o) id h.p.val (shareJobs s h.p.val o k)
          [((partialOutput s h.p.val o).hdr, shareHead s h.p.val o)] 1 := rfl
    _ = _ := by rw [hunshared, hengines, if_neg (by decide), if_neg (by decide)]

end Sys2Proof.Proofs.PartialShares
end

section
/-! OBLIGATION O32, from what a RESCALE, a MODSWITCH and a PARTIAL_DEC do once they are dispatched. -/

namespace Sys2Proof.Proofs.LevelsAndPartials

open Sys2Proof Sys2Proof.Machine
open Sys2Proof.Proofs.Writes Sys2Proof.Proofs.Starting Sys2Proof.Proofs.Passes Sys2Proof.Proofs.SealedStart
open Sys2Proof.Proofs.CiphertextStart Sys2Proof.Proofs.LevelDrops Sys2Proof.Proofs.PartialShares

section Dispatched

variable {s : State} {h : DescHdr} {o : PartialOps}

/-- A PARTIAL_DEC whose wires are loaded does its work at once (R328). -/
theorem answers_partial (hd : Dispatches s h (.partialDec o)) (hready : keysReady s (part s h.p.val) = true) :
    Answers (.partialDec h o) s (startPartial (takenUp s h (.partialDec o)) s.nextId h o) := by
  have hans := answers_startBody (c := .partialDec h o) rfl hd
  rw [startBody, takenUp_part, keysReady_takenUp, hready, Bool.not_true, Bool.and_false, if_neg (by decide)] at hans
  exact hans

theorem shareFor_takenUp (hordered : FlightsOrdered s) (tag : Nat) :
    shareFor (takenUp s h (.partialDec o)) s.nextId h.p.val tag = (storedKey s h.p.val 5).filter (fun k => k.keyId == tag) := by
  rw [shareFor, keyFor_takenUp hordered rfl]

/-- Without a generator that serves its samplers a PARTIAL_DEC waits with its share (R345, R347). -/
theorem partial_waits (hordered : FlightsOrdered s) (k : StoredKey) :
    Flies s (stallNoise (takenUp s h (.partialDec o)) s.nextId (some k)) h (.partialDec o) (.noiseStall (some k)) [] ∧
      OnlyFlights s (stallNoise (takenUp s h (.partialDec o)) s.nextId (some k)) := by
  constructor
  · rw [Flies, stallNoise, flight_modFlight_same, flight_takenUp hordered]
    · exact ⟨_, rfl, rfl, rfl, rfl, rfl, rfl⟩
    · exact fun _ => rfl
  · have htaken := onlyFlights_takenUp s h (.partialDec o)
    unfold OnlyFlights at htaken ⊢
    rw [stallNoise, modFlight, htaken]

end Dispatched

/-- Settles O32: refused by the first check that fails, else started (`startRescale_admitted`, `partialShare_made`). -/
theorem levelsDropAndPartialsAreShared : Obligations.LevelsDropAndPartialsAreShared := by
  constructor
  · intro s h o mod_ hordered c b hd p s1 r refs d tag hvalid
    have hans : Answers c s (startRescale mod_ s1 s.nextId h o) := answers_rescale hd
    refine ⟨fun st hbad => ?_, fun hgood => ?_⟩
    · rw [startRescale_refused hvalid hbad] at hans
      exact refused_of_answers hordered hans
    · intro x one jobs hd heads hengines
      rw [startRescale_admitted hvalid hgood hengines] at hans
      refine ⟨fun hjobs => ?_, fun hnil => ?_⟩
      · have hflies := flies_startCt (s := s) (u := useRing s1 p o.paramAddr) (flight_takenUp hordered h b) rfl rfl rfl hjobs
          (givenAt_dropJobs mod_ s1 p o) p heads o.ctCount
        have honly := onlyPasses_trans (onlyPasses_of_onlyFlights (onlyFlights_useRing_takenUp s h b p o.paramAddr))
          (onlyPasses_startCt hjobs (useRing s1 p o.paramAddr) s.nextId p heads o.ctCount)
        exact ⟨_, hans, hflies, honly, storeKept_trans (storeKept_useRing s p o.paramAddr) (storeKept_of_onlyPasses honly)⟩
      · rw [show dropJobs mod_ s1 p o = [] from hnil] at hans
        exact ⟨_, hans, headers_written hordered h b p o.paramAddr o.ctCount heads⟩
  · intro s h o hordered hd p s1 r src x n marks share hready
    have hans := answers_partial hd hready
    have hshare := shareFor_takenUp (h := h) (o := o) hordered (headerAt s1 p (partialSource s1 p o)).tag
    have hshared : (part s1 p).shared = (part s p).shared := by rw [takenUp_part]
    refine ⟨fun hnone => ?_, fun k hk hdone => ?_, fun k hk hvalid hform hmember hunmarked hreleased hunshared hreduced => ?_⟩
    · rw [startPartial_noShare (hshare.trans hnone)] at hans
      exact refused_of_answers hordered hans
    · rw [startPartial_shared (hshare.trans hk) (hshared ▸ hdone)] at hans
      exact refused_of_answers hordered hans
    · have hunshared' : (part s1 p).shared.contains o.roundId = false := hshared ▸ hunshared
      have hmember' : field (part s1 p).policy 0x6C 1 ≠ 0 := by rwa [takenUp_part]
      rw [startPartial_admitted (hshare.trans hk) ⟨hvalid, hform, hmember', hunmarked, hreleased, hunshared', hreduced⟩,
        samplersRun_takenUp] at hans
      refine ⟨fun hstalls => ?_, fun hruns hengines => ?_⟩
      · rw [hstalls, Bool.not_false, if_pos rfl] at hans
        obtain ⟨hflies, honly⟩ := partial_waits (h := h) (o := o) hordered k
        exact ⟨_, hans, hflies, honly, honly.store⟩
      · rw [hruns, Bool.not_true, if_neg (by decide), partialShare_made hunshared' (enginesAt_shareJobs k hengines)] at hans
        have hjobs := shareJobs_ne_nil s1 p o k
        have hflight := (flight_shareNoted s1 p o s.nextId).trans (flight_takenUp hordered h (.partialDec o))
        have hflies := flies_startCt hflight rfl rfl rfl hjobs (givenAt_shareJobs s1 p o k) p
          [((partialOutput s1 p o).hdr, shareHead s1 p o)] 1
        have honly := onlyPasses_startCt hjobs (shareNoted s1 p o) s.nextId p [((partialOutput s1 p o).hdr, shareHead s1 p o)] 1
        have hparts := parts_of_onlyPasses honly
        refine ⟨_, _, _, hans, hflies, shareJobs_length s1 p o k, fun i j hj => (shareJobs_place hj).2, ?_, ?_, ?_, ?_⟩
        · rw [part_congr hparts]
          exact (shared_shareNoted s1 p o).trans (congrArg (· ++ [o.roundId]) hshared)
        · exact storeKept_trans (onlyFlights_takenUp s h (.partialDec o)).store
            (storeKept_trans (storeKept_shareNoted s1 p o) (storeKept_of_onlyPasses honly))
        · exact othersKept_trans (othersKept_of_parts (takenUp_parts s h (.partialDec o)) p)
            (othersKept_trans (othersKept_shareNoted s1 p o) (othersKept_of_parts hparts p))
        · exact (congrArg State.freeCtr honly).trans (congrArg (· + 1) (takenUp_freeCtr s h (.partialDec o)))

end Sys2Proof.Proofs.LevelsAndPartials
end

section
/-! O30: CT_ADD FOLD. -/

namespace Sys2Proof.Proofs.CiphertextFold

open Sys2Proof Sys2Proof.Machine
open Sys2Proof.Proofs.Writes Sys2Proof.Proofs.Starting Sys2Proof.Proofs.Passes Sys2Proof.Proofs.SealedStart
open Sys2Proof.Proofs.TilePasses Sys2Proof.Proofs.CiphertextStart

/-- A FOLD that starts from the zero ciphertext. -/
def foldInit (o : CtAddOps) : Bool := bvBit o.flags 0

/-- The window of the round that a FOLD sums. -/
def foldWindow (x : Partition) (o : CtAddOps) : Option Window := (windowFor x .submit o.a).filter Window.readable

/-- The ciphertext that a FOLD sums into. -/
def foldRef (s : State) (p : Nat) (o : CtAddOps) : CtRef := refOf (pread s p o.dstRef 16)

/-- The tag that a partition's policy binds (Table 2.2). -/
def policyTag (x : Partition) : Nat := field x.policy 0x60 8

/-! The checks at dispatch -/

/-- A stored ciphertext that a FOLD may go on with: a sum of its round over the whole chain, without a gap (R164, R165). -/
structure FoldGoesOn (s : State) (p : Nat) (o : CtAddOps) (w : Window) (r : RingParams) (old : CtHeader) : Prop where
  form : ctFormOk r { old with incomplete := false } = true
  ntt : old.ntt = true
  level : old.level + 1 = r.chain
  round : old.roundId = o.a
  tiles : ∀ c ∈ [(foldRef s p o).c0, (foldRef s p o).c1], ∀ i y, i < r.chain → y < r.size / 4096 →
    foldTileOk o w (r.q i) (unitMeta s p (limbUnit c o.limbStride r.limbUnits i + 4 * y)) = true

/-- The units of the limb tiles with their moduli, as a FOLD checks them. -/
def foldMetas (s : State) (p : Nat) (o : CtAddOps) (r : RingParams) : List (Nat × TileMeta) :=
  [(foldRef s p o).c0, (foldRef s p o).c1].flatMap (fun c => (List.range r.chain).flatMap (fun i =>
    (List.range (r.size / 4096)).map (fun t => (r.q i, unitMeta s p (limbUnit c o.limbStride r.limbUnits i + 4 * t)))))

theorem FoldGoesOn.metas {s : State} {p : Nat} {o : CtAddOps} {w : Window} {r : RingParams} {old : CtHeader}
    (h : FoldGoesOn s p o w r old) : (foldMetas s p o r).all (fun e => foldTileOk o w e.1 e.2) = true := by
  rw [List.all_eq_true]
  intro e he
  obtain ⟨c, hc, he⟩ := List.mem_flatMap.mp he
  obtain ⟨i, hi, he⟩ := List.mem_flatMap.mp he
  obtain ⟨y, hy, rfl⟩ := List.mem_map.mp he
  exact h.tiles c hc i y (List.mem_range.mp hi) (List.mem_range.mp hy)

/-- What a FOLD asks of its block, its window and its stored header before the tag and the level (R159, R165). -/
structure FoldAgrees (s : State) (p : Nat) (o : CtAddOps) (w : Window) (r : RingParams) (old : CtHeader) : Prop where
  valid : r.valid = true
  unheld : old.fmt ≠ 0x0110 ∨ old.incomplete = false ∨ old.roundId = o.a
  ring : ringOf w.paramBlock = r
  stored : foldInit o = false → FoldGoesOn s p o w r old

theorem FoldAgrees.passes {s : State} {p : Nat} {o : CtAddOps} {w : Window} {r : RingParams} {old : CtHeader}
    (h : FoldAgrees s p o w r old) :
    ¬ ((!r.valid || (old.fmt == 0x0110 && old.incomplete && old.roundId != o.a) ||
        !(bvBit o.flags 0 || (ctFormOk r { old with incomplete := false } && old.ntt && old.level + 1 == r.chain && old.roundId == o.a &&
          (foldMetas s p o r).all (fun e => foldTileOk o w e.1 e.2)))) = true ∨ ringOf w.paramBlock ≠ r) := by
  have hheld : (old.fmt == 0x0110 && old.incomplete && old.roundId != o.a) = false := by
    rw [Bool.and_eq_false_iff, Bool.and_eq_false_iff, beq_eq_false_iff_ne, bne_eq_false_iff_eq]
    exact or_assoc.mpr h.unheld
  have hform : (bvBit o.flags 0 || (ctFormOk r { old with incomplete := false } && old.ntt && old.level + 1 == r.chain &&
      old.roundId == o.a && (foldMetas s p o r).all (fun e => foldTileOk o w e.1 e.2))) = true := by
    cases hinit : bvBit o.flags 0 with
    | true => rfl
    | false =>
      have hgoes := h.stored hinit
      rw [hgoes.form, hgoes.ntt, hgoes.metas, beq_iff_eq.mpr hgoes.level, beq_iff_eq.mpr hgoes.round]
      rfl
  rw [h.valid, hheld, hform]
  simp only [h.ring, Bool.not_true, Bool.or_self, Bool.false_eq_true, ne_eq, not_true_eq_false, or_self, not_false_eq_true]

/-- The state in which the stored header has its incomplete bit (R165; log entry 101). -/
def foldHeld (s : State) (p : Nat) (o : CtAddOps) : State :=
  writeHeaders (useRing s p o.paramAddr) p
    [((foldRef s p o).hdr, heldHeader (foldInit o) o.a (pread s p (foldRef s p o).hdr 64))]

section Starts

variable {s : State} {id : Nat} {h : DescHdr} {o : CtAddOps}

theorem startCtFold_noWindow (hnone : foldWindow (part s h.p.val) o = none) : startCtFold s id h o = refuse s id stPolicy := by
  rw [foldWindow] at hnone
  simp only [startCtFold, hnone]

/-- The checks behind the forms, in their order, and what a FOLD goes on to. -/
theorem startCtFold_eq {w : Window} {r : RingParams} {old : CtHeader} (hw : foldWindow (part s h.p.val) o = some w)
    (hr : ringAt s h.p.val o.paramAddr = r) (hold : headerAt s h.p.val (foldRef s h.p.val o) = old)
    (hagrees : FoldAgrees s h.p.val o w r old) :
    startCtFold s id h o =
      if !foldInit o && old.tag != policyTag (part s h.p.val) then refuse s id stKeyTag
      else if r.chain = 1 then refuse s id stLevel
      else if rangeReady w o.seqFirst o.seqCount then foldReady (foldHeld s h.p.val o) id h o w
      else waitIn (foldHeld s h.p.val o) id .numbers := by
  subst hr hold
  have hpasses := hagrees.passes
  rw [foldWindow] at hw
  simp only [foldMetas, foldRef] at hpasses
  simp only [startCtFold, hw]
  refine (if_neg ?_).trans rfl
  simpa only [Bool.or_eq_true, decide_eq_true_eq] using hpasses

end Starts

/-! The sum of a ready range -/

/-- The header that the sum starts from. -/
def foldStart (s : State) (p : Nat) (o : CtAddOps) (r : RingParams) : CtHeader := foldBase s p r o (headerAt s p (foldRef s p o))

/-- The charge of the summands on the headroom. -/
def foldCost (s : State) (p : Nat) (o : CtAddOps) (r : RingParams) (w : Window) : Nat := foldCharge s p r o w (foldStart s p o r).seqNext

/-- The passes of a FOLD: the limb tiles of both parts (R164). -/
def foldJobs (s : State) (p : Nat) (o : CtAddOps) (r : RingParams) (w : Window) : List TileJob :=
  [((foldRef s p o).c0, 0), ((foldRef s p o).c1, 1)].flatMap (fun pc => (List.range r.chain).flatMap (fun i =>
    (List.range (r.size / 4096)).map (fun y => (foldJob s p r o w (acceptedRange w o.seqFirst o.seqCount) pc.1 pc.2 i y).1)))

/-- The header of the sum (R165). -/
def foldDone (s : State) (p : Nat) (o : CtAddOps) (r : RingParams) (w : Window) : CtHeader :=
  { foldStart s p o r with
    headroom := (foldStart s p o r).headroom - foldCost s p o r w, seqNext := o.seqFirst + o.seqCount, incomplete := false }

/-- An init writes the zero ciphertext's header before its passes begin (R165). -/
def foldBegun (s : State) (p : Nat) (o : CtAddOps) (r : RingParams) : State :=
  if foldInit o then writeHeaders (spendFree s) p [((foldRef s p o).hdr, (foldStart s p o r).bytes)] else s

section Ready

variable {s : State} {id : Nat} {h : DescHdr} {o : CtAddOps} {w : Window} {r : RingParams} (hring : ringOf w.paramBlock = r)
include hring

/-- A charge that does not fit is refused as a whole. -/
theorem foldReady_over (hover : (foldStart s h.p.val o r).headroom < foldCost s h.p.val o r w) :
    foldReady s id h o w = refuse s id stHeadroom := by
  subst hring
  exact if_pos hover

/-- A charge that fits is admitted, and the passes begin. -/
theorem foldReady_fits (hfits : foldCost s h.p.val o r w ≤ (foldStart s h.p.val o r).headroom)
    (hengines : enginesAt s h.p.val (foldJobs s h.p.val o r w) = true) :
    foldReady s id h o w =
      startCt (foldBegun s h.p.val o r) id h.p.val (foldJobs s h.p.val o r w)
        [((foldRef s h.p.val o).hdr, (foldDone s h.p.val o r w).bytes)] 1 := by
  subst hring
  simp only [foldJobs] at hengines ⊢
  simp only [foldReady, List.map_flatMap, List.map_map]
  exact (if_neg (Nat.not_lt.mpr hfits)).trans (if_neg (by rw [Bool.not_eq_true', Bool.not_eq_false]; exact hengines))

end Ready

/-- A valid block has a chain limb, and a limb has a tile (Table 6.1). -/
theorem tiles_of_valid {r : RingParams} (hvalid : r.valid = true) : 0 < r.chain ∧ 0 < r.size / 4096 := by
  simp only [RingParams.valid, Bool.and_eq_true, decide_eq_true_eq, and_assoc] at hvalid
  obtain ⟨-, -, -, hlog, -, hchain, -⟩ := hvalid
  exact ⟨hchain, Nat.div_pos (Nat.pow_le_pow_right (by decide : 0 < 2) hlog : 2 ^ 12 ≤ 2 ^ r.log2N) (by decide)⟩

theorem foldJobs_ne_nil {r : RingParams} (hvalid : r.valid = true) (s : State) (p : Nat) (o : CtAddOps) (w : Window) :
    foldJobs s p o r w ≠ [] := by
  obtain ⟨hchain, htiles⟩ := tiles_of_valid hvalid
  have hfirst : (foldJob s p r o w (acceptedRange w o.seqFirst o.seqCount) (foldRef s p o).c0 0 0 0).1 ∈ foldJobs s p o r w := by
    refine List.mem_flatMap.mpr ⟨((foldRef s p o).c0, 0), List.mem_cons_self, ?_⟩
    exact List.mem_flatMap.mpr ⟨0, List.mem_range.mpr hchain, List.mem_map.mpr ⟨0, List.mem_range.mpr htiles, rfl⟩⟩
  exact List.ne_nil_of_mem hfirst

theorem startFt_foldJob (s : State) (p : Nat) (r : RingParams) (o : CtAddOps) (w : Window) (subs : List Submission) (dst c i y : Nat) :
    (foldJob s p r o w subs dst c i y).1.startFt = now s := rfl

theorem givenAt_foldJobs (s : State) (p : Nat) (o : CtAddOps) (r : RingParams) (w : Window) : GivenAt (now s) (foldJobs s p o r w) := by
  unfold foldJobs
  refine GivenAt.flatMap (fun pc => GivenAt.flatMap (fun i => ?_) _) _
  exact GivenAt.map (fun y => startFt_foldJob s p r o w _ pc.1 pc.2 i y) _

/-! What is written before the passes -/

/-- Neither descriptors in flight nor time nor registers nor other partitions have changed. -/
structure Prepared (p : Nat) (s t : State) : Prop where
  inflight : t.inflight = s.inflight
  time : t.time = s.time
  regs : t.regs = s.regs
  others : OthersKept s t p

theorem Prepared.trans {p : Nat} {s t u : State} (h1 : Prepared p s t) (h2 : Prepared p t u) : Prepared p s u :=
  ⟨h2.inflight.trans h1.inflight, h2.time.trans h1.time, h2.regs.trans h1.regs, othersKept_trans h1.others h2.others⟩

theorem prepared_of_writes {p : Nat} {s t : State} (h : OnlyWrites p s t) : Prepared p s t := ⟨h.inflight, h.time, h.regs, h.others⟩

theorem prepared_foldHeld (s : State) (p : Nat) (o : CtAddOps) : Prepared p s (foldHeld s p o) :=
  Prepared.trans (t := useRing s p o.paramAddr) ⟨rfl, rfl, rfl, (ringUsed_useRing s p o.paramAddr).others⟩
    (prepared_of_writes (onlyWrites_writeHeaders _ p _))

theorem prepared_foldBegun (s : State) (p : Nat) (o : CtAddOps) (r : RingParams) : Prepared p s (foldBegun s p o r) := by
  unfold foldBegun
  split
  · exact Prepared.trans (t := spendFree s) ⟨rfl, rfl, rfl, fun _ _ => rfl⟩ (prepared_of_writes (onlyWrites_writeHeaders (spendFree s) p _))
  · exact ⟨rfl, rfl, rfl, fun _ _ => rfl⟩

section Dispatched

variable {s u : State} {h : DescHdr} {b : DescBody} {p : Nat}

theorem flight_prepared (hordered : FlightsOrdered s) (hu : Prepared p (takenUp s h b) u) :
    flight u s.nextId = some (takenFlight s h b (reserves s h b)) :=
  (flight_congr hu.inflight _).trans (flight_takenUp hordered h b)

theorem now_prepared (hu : Prepared p (takenUp s h b) u) : now u = now s := by
  rw [now, hu.time, takenUp_time, now]

/-- Passes that start from what has been prepared: what they leave. -/
theorem kept_of_prepared {t : State} (hu : Prepared p (takenUp s h b) u) (honly : OnlyPasses u t) : OthersKept s t p ∧ t.regs = s.regs := by
  constructor
  · exact othersKept_trans (othersKept_of_parts (takenUp_parts s h b) p)
      (othersKept_trans hu.others (othersKept_of_parts (parts_of_onlyPasses honly) p))
  · exact ((regs_of_onlyPasses honly).trans hu.regs).trans (takenUp_regs s h b)

end Dispatched

/-- Settles O30: the checks of `startCtFold_eq`, then over a ready range the charge and the passes of `foldReady_fits`. -/
theorem foldSumsAcceptedCiphertexts : Obligations.FoldSumsAcceptedCiphertexts := by
  intro s h o hordered hd p s1 r d old init tag found
  have hans : Answers (.ctAddFold h o) s (startCtFold s1 s.nextId h o) := answers_runBody rfl hd (fun _ => rfl)
  have hfound : foldWindow (part s1 p) o = found := by rw [takenUp_part]; rfl
  have htag : policyTag (part s1 p) = tag := by rw [takenUp_part]; rfl
  constructor
  · intro hnone
    rw [startCtFold_noWindow (hfound.trans hnone)] at hans
    obtain ⟨t, ht, hends, honly, -⟩ := refused_of_answers hordered hans
    exact ⟨t, ht, hends, honly⟩
  · intro w hw hvalid hunheld hring hstored u e base charge jobs
    have hagrees : FoldAgrees s1 p o w r old := by
      refine ⟨hvalid, hunheld, hring, fun hinit => ?_⟩
      obtain ⟨hform, hntt, hlevel, hround, htiles⟩ := hstored hinit
      exact ⟨hform, hntt, hlevel, hround, htiles⟩
    rw [startCtFold_eq (r := r) (old := old) (hfound.trans hw) rfl rfl hagrees, htag] at hans
    have htagged : init = true ∨ old.tag = tag → (!foldInit o && old.tag != tag) = false := by
      rintro (hinit | heq)
      · rw [show foldInit o = true from hinit, Bool.not_true, Bool.false_and]
      · rw [heq, bne_self_eq_false, Bool.and_false]
    refine ⟨fun hinit hother => ?_, fun hsame hchain => ?_, fun hsame hchain => ?_⟩
    · have hbad : (!foldInit o && old.tag != tag) = true := by
        rw [show foldInit o = false from hinit, bne_iff_ne.mpr hother]
        rfl
      rw [if_pos hbad] at hans
      obtain ⟨t, ht, hends, honly, -⟩ := refused_of_answers hordered hans
      exact ⟨t, ht, hends, honly⟩
    · rw [htagged hsame, if_neg (by decide), if_pos hchain] at hans
      obtain ⟨t, ht, hends, honly, -⟩ := refused_of_answers hordered hans
      exact ⟨t, ht, hends, honly⟩
    · rw [htagged hsame, if_neg (by decide), if_neg hchain] at hans
      rw [show foldHeld s1 h.p.val o = u from rfl] at hans
      have hheld : Prepared p s1 u := prepared_foldHeld s1 p o
      have hflight := flight_prepared hordered hheld
      refine ⟨fun hwait => ?_, fun hready hlow => ?_, fun hready hroom hengines => ?_⟩
      · rw [hwait, if_neg (by decide)] at hans
        exact ⟨_, hans, flies_waitIn .numbers hflight rfl rfl rfl, rfl, rfl⟩
      · rw [hready, if_pos rfl, foldReady_over hring hlow] at hans
        exact ⟨_, hans, ends_finish stHeadroom 0 hflight rfl rfl (now_prepared hheld), rfl, rfl⟩
      · rw [hready, if_pos rfl, foldReady_fits hring hroom hengines] at hans
        have hbegun := hheld.trans (prepared_foldBegun u p o r)
        have hjobs := foldJobs_ne_nil hvalid u p o w
        have hgiven : GivenAt (now (foldBegun u p o r)) (foldJobs u p o r w) := by
          rw [now_prepared hbegun, ← now_prepared hheld]
          exact givenAt_foldJobs u p o r w
        have hflies := flies_startCt (flight_prepared hordered hbegun) rfl rfl rfl hjobs hgiven p [(e.hdr, (foldDone u p o r w).bytes)] 1
        have honly := onlyPasses_startCt hjobs (foldBegun u p o r) s.nextId p [(e.hdr, (foldDone u p o r w).bytes)] 1
        refine ⟨_, foldDone u p o r w, hans, hflies, rfl, rfl, rfl, fun hinit => ?_, fun hinit => ?_, kept_of_prepared hbegun honly⟩
        · have hsame : foldBegun u p o r = u := if_neg (by rw [show foldInit o = false from hinit]; decide)
          rw [hsame] at honly ⊢
          exact memories_of_onlyPasses honly
        · have hzero : foldBegun u p o r = writeHeaders (spendFree u) p [(e.hdr, base.bytes)] := if_pos hinit
          rw [hzero] at honly ⊢
          exact memories_of_onlyPasses honly

end Sys2Proof.Proofs.CiphertextFold
end

section
/-! SUPPORT. CLIP is dispatched: what it refuses or waits for, and the passes of a ready range (R184). -/

namespace Sys2Proof.Proofs.ClipStart

open Sys2Proof Sys2Proof.Machine
open Sys2Proof.Proofs.Writes Sys2Proof.Proofs.Starting Sys2Proof.Proofs.Passes Sys2Proof.Proofs.SealedStart
open Sys2Proof.Proofs.TilePasses Sys2Proof.Proofs.CiphertextStart

/-- The window whose submissions a CLIP works on. -/
def clipWindow (x : Partition) (o : SealedOps) : Option Window := (windowFor x .submit o.roundId).filter Window.readable

/-- The summands of the range that are not fully clipped yet. -/
def clipWork (x : Partition) (w : Window) (o : SealedOps) : List Submission :=
  (acceptedRange w o.seqFirst o.seqCount).filter (fun b => !clipDone x b)

/-- How many summands of the range were fully clipped before. -/
def clippedBefore (x : Partition) (w : Window) (o : SealedOps) : Nat :=
  (acceptedRange w o.seqFirst o.seqCount).length - (clipWork x w o).length

/-- The passes of one summand: the first pass over its tiles, or the scaling passes that are left. -/
def clipPasses (s : State) (p : Nat) (w : Window) (b : Submission) : List TileJob :=
  match b.clip with
  | none => sumJobs s p w b
  | some c => clipJobs s p w b c

/-- The passes of a CLIP. -/
def clipRangeJobs (s : State) (p : Nat) (w : Window) (o : SealedOps) : List TileJob :=
  (clipWork (part s p) w o).flatMap (clipPasses s p w)

/-- The descriptor notes the summands it works on and how many were clipped before. -/
def clipNoted (s : State) (id p : Nat) (w : Window) (o : SealedOps) : State :=
  modFlight s id (fun f =>
    { f with verdicts := numbersOf (clipWork (part s p) w o), result := clippedBefore (part s p) w o })

theorem givenAt_clipJobs (s : State) (p : Nat) (w : Window) (b : Submission) (c : ClipState) : GivenAt (now s) (clipJobs s p w b c) := by
  unfold clipJobs
  dsimp only
  split
  · exact fun _ hj => absurd hj List.not_mem_nil
  · intro j hj
    obtain ⟨t, -, rfl⟩ := List.mem_map.mp hj
    rfl

theorem givenAt_clipPasses (s : State) (p : Nat) (w : Window) (b : Submission) : GivenAt (now s) (clipPasses s p w b) := by
  unfold clipPasses
  split
  · intro j hj
    obtain ⟨t, -, rfl⟩ := List.mem_map.mp hj
    rfl
  · exact givenAt_clipJobs s p w b _

section Starts

variable {s : State} {id : Nat} {h : DescHdr} {o : SealedOps}

theorem startClip_noWindow (hnone : clipWindow (part s h.p.val) o = none) : startClip s id h o = refuse s id stPolicy := by
  rw [clipWindow] at hnone
  simp only [startClip, hnone]

variable {w : Window} (hw : clipWindow (part s h.p.val) o = some w)
include hw

theorem startClip_early (hearly : rangeReady w o.seqFirst o.seqCount = false) : startClip s id h o = waitIn s id .numbers := by
  rw [clipWindow] at hw
  simp only [startClip, hw, hearly, Bool.false_eq_true, if_false]

variable (hready : rangeReady w o.seqFirst o.seqCount = true)
include hready

theorem startClip_ready : startClip s id h o = clipReady s id h o w := by
  rw [clipWindow] at hw
  simp only [startClip, hw, hready, if_true]

/-- A range with a submission that is not opened is refused (R79). -/
theorem startClip_unopened (hopen : ∃ b ∈ acceptedRange w o.seqFirst o.seqCount, b.final = false) :
    startClip s id h o = refuse s id stPolicy := by
  obtain ⟨b, hb, hfinal⟩ := hopen
  have hany : (acceptedRange w o.seqFirst o.seqCount).any (fun b => !b.final) = true :=
    List.any_eq_true.mpr ⟨b, hb, by rw [hfinal]; rfl⟩
  rw [startClip_ready hw hready]
  exact if_pos hany

/-- Over opened submissions whose tiles have engines CLIP starts what is left of its passes. -/
theorem startClip_opened (hopen : ∀ b ∈ acceptedRange w o.seqFirst o.seqCount, b.final = true ∧
      planOk s h.p.val (stageUnit (part s h.p.val) w b) (tileUnits (policyBits (part s h.p.val))) (coordTiles (part s h.p.val)) 1 = true) :
    startClip s id h o =
      if (clipRangeJobs s h.p.val w o).isEmpty then
        finish (clipNoted s id h.p.val w o) id stOk (clippedBefore (part s h.p.val) w o % 2 ^ 24 * 2 ^ 24)
      else startJobs (clipNoted s id h.p.val w o) id (clipRangeJobs s h.p.val w o) (clippedBefore (part s h.p.val) w o) := by
  have hany : (acceptedRange w o.seqFirst o.seqCount).any (fun b => !b.final) = false := by
    rw [List.any_eq_false]
    intro b hb
    rw [(hopen b hb).1]
    decide
  have hall : (acceptedRange w o.seqFirst o.seqCount).all (fun b => planOk s h.p.val (stageUnit (part s h.p.val) w b)
      (tileUnits (policyBits (part s h.p.val))) (coordTiles (part s h.p.val)) 1) = true :=
    List.all_eq_true.mpr (fun b hb => (hopen b hb).2)
  rw [startClip_ready hw hready]
  refine (if_neg (by rw [hany]; decide)).trans ((if_neg (by rw [hall]; decide)).trans rfl)

end Starts

section Dispatched

variable {s : State} {h : DescHdr} {o : SealedOps} (hordered : FlightsOrdered s) (p : Nat) (w : Window)
include hordered

theorem flight_clipNoted : flight (clipNoted (takenUp s h (.clip o)) s.nextId p w o) s.nextId =
    some { takenFlight s h (.clip o) (reserves s h (.clip o)) with
      verdicts := numbersOf (clipWork (part s p) w o), result := clippedBefore (part s p) w o } := by
  rw [clipNoted, flight_modFlight_same, flight_takenUp hordered, Option.map_some, takenUp_part]
  exact fun _ => rfl

/-- With nothing left to clip the descriptor ends, and says how many summands were clipped before. -/
theorem clip_ends (r : Nat) :
    let t := finish (clipNoted (takenUp s h (.clip o)) s.nextId p w o) s.nextId stOk r
    Ends s t h (.clip o) stOk r ∧ OnlyFlights s t := by
  constructor
  · exact ends_finish stOk r (flight_clipNoted hordered p w) rfl rfl (takenUp_now s h (.clip o))
  · rw [OnlyFlights, finish, finishRef, modFlight, clipNoted, modFlight, takenUp_only]

/-- The passes that are left run, and the descriptor keeps how many summands were clipped before. -/
theorem clip_runs {jobs : List TileJob} (hjobs : jobs ≠ []) (hgiven : GivenAt (now (takenUp s h (.clip o))) jobs) (n : Nat) :
    let t := startJobs (clipNoted (takenUp s h (.clip o)) s.nextId p w o) s.nextId jobs n
    ∃ f, Flies s t h (.clip o) .running jobs ∧ flight t s.nextId = some f ∧ f.result = n ∧ OnlyPasses s t ∧ StoreKept s t := by
  intro t
  obtain ⟨k, hk⟩ := flight_startJobs_given (flight_clipNoted (h := h) (o := o) hordered p w) hjobs hgiven n
  have honly : OnlyPasses s t := by
    refine onlyPasses_trans (onlyPasses_of_onlyFlights (onlyFlights_takenUp s h (.clip o))) ?_
    exact onlyPasses_trans (t := clipNoted (takenUp s h (.clip o)) s.nextId p w o) rfl
      (startJobs_runs (flight_clipNoted hordered p w) hjobs n).2
  exact ⟨_, ⟨_, hk, rfl, rfl, rfl, rfl, rfl⟩, hk, rfl, honly, storeKept_of_onlyPasses honly⟩

end Dispatched

end Sys2Proof.Proofs.ClipStart
end

section
/-! SUPPORT. A CLIP pass commits: the last first pass of a summand fixes its sum of squares and its scale, and a scaling pass stores its
tile once (R52, R184). -/

namespace Sys2Proof.Proofs.ClipCommit

open Sys2Proof Sys2Proof.Machine
open Sys2Proof.Proofs.Writes Sys2Proof.Proofs.Starting Sys2Proof.Proofs.Passes Sys2Proof.Proofs.SealedWindows
open Sys2Proof.Proofs.SealedStart Sys2Proof.Proofs.SealedCommit Sys2Proof.Proofs.TilePasses Sys2Proof.Proofs.PassEnds
open Sys2Proof.Proofs.PassesCommit Sys2Proof.Proofs.CiphertextStart

/-! A numbered submission is changed -/

theorem number_of_find? {bs : List Submission} {n : Nat} {b : Submission} (hb : bs.find? (fun b => b.number == some n) = some b) :
    b.number = some n := by
  have htest := List.find?_some hb
  exact beq_iff_eq.mp htest

/-- The numbered submission of a window whose submissions of that number have changed. -/
theorem find?_map_numbered {n : Nat} {F : Submission → Submission} (hF : ∀ b, (F b).number = b.number) (bs : List Submission) :
    (bs.map (fun b => if b.number = some n then F b else b)).find? (fun b => b.number == some n) =
      (bs.find? (fun b => b.number == some n)).map F := by
  have htest : ((fun b : Submission => b.number == some n) ∘ fun b => if b.number = some n then F b else b) =
      fun b => b.number == some n := by
    funext b
    simp only [Function.comp_apply]
    split
    · rw [hF]
    · rfl
  rw [List.find?_map, htest]
  cases hb : bs.find? (fun b => b.number == some n) with
  | none => rfl
  | some b => exact congrArg some (if_pos (number_of_find? hb))

/-- A window's submission `n` after it has changed. -/
theorem submit_modSub {s : State} {p n : Nat} {w : Window} {b : Submission} {F : Submission → Submission}
    (hF : ∀ b, (F b).number = b.number) (hw : (part s p).submit = some w) (hb : subAt w n = some b) :
    ∃ v, (part (modSub s p .submit n F) p).submit = some v ∧ subAt v n = some (F b) := by
  have hv := windowOf_modWindow s p .submit (fun w => { w with subs := w.subs.map (fun b => if b.number = some n then F b else b) })
  rw [show windowOf (part s p) .submit = some w from hw] at hv
  exact ⟨_, hv, (find?_map_numbered hF w.subs).trans (congrArg (Option.map F) hb)⟩

theorem storeKept_modSub (s : State) (p : Nat) (k : WinKind) (n : Nat) (F : Submission → Submission) : StoreKept s (modSub s p k n F) :=
  ⟨fun _ => ⟨rfl, rfl⟩, rfl, rfl⟩

/-! The state in which a pass of a CLIP has been stored -/

/-- The tile is stored, unless it has been scaled before. -/
def clipStored (s : State) (p : Nat) (j : TileJob) : State := if alreadyScaled s p j then s else writeJob s p j

/-- The descriptor without the committed pass. -/
def passTaken (f : InFlight) (j : TileJob) (l : Nat) : InFlight :=
  { f with jobs := dropFirst (fun y => y.engine == l && y.passDone) f.jobs, committed := f.committed + bit j.last,
           saturated := f.saturated || clampsTile j }

/-- The pass has left its descriptor. -/
def clipTaken (s : State) (f : InFlight) (j : TileJob) (l : Nat) : State :=
  modFlight (residentAfter (clipStored s f.h.p.val j) f.h.p.val j) f.id (fun g =>
    { g with jobs := dropFirst (fun y => y.engine == l && y.passDone) g.jobs, committed := g.committed + bit j.last,
             saturated := g.saturated || j.targets.any (fun t => (t.2.2.map (fun m => m.saturated)).getD false) })

theorem onlyWrites_clipStored (s : State) (p : Nat) (j : TileJob) : OnlyWrites p s (clipStored s p j) := by
  unfold clipStored
  split
  · exact OnlyWrites.refl p s
  · exact onlyWrites_writeJob s p j

/-- What a descriptor's pass leaves of the state in which it was stored. -/
theorem clipTaken_only (s : State) (f : InFlight) (j : TileJob) (l : Nat) :
    clipTaken s f j l = { clipStored s f.h.p.val j with
      inflight := (clipTaken s f j l).inflight, slots := (clipTaken s f j l).slots } := by
  have hslots := onlySlots_afterWrite (clipStored s f.h.p.val j) f.h.p.val j
  unfold clipTaken
  rw [hslots]
  rfl

theorem part_clipTaken (s : State) (f : InFlight) (j : TileJob) (l : Nat) :
    part (clipTaken s f j l) f.h.p.val =
      { part s f.h.p.val with usage := (part (clipStored s f.h.p.val j) f.h.p.val).usage } := by
  rw [clipTaken_only]
  exact (onlyWrites_clipStored s f.h.p.val j).own

theorem flight_clipTaken {s : State} {f : InFlight} (hordered : FlightsOrdered s) (hmem : f ∈ s.inflight) (j : TileJob) (l : Nat) :
    flight (clipTaken s f j l) f.id = some (passTaken f j l) := by
  have hslots := onlySlots_afterWrite (clipStored s f.h.p.val j) f.h.p.val j
  have hflight : flight (residentAfter (clipStored s f.h.p.val j) f.h.p.val j) f.id = some f := by
    rw [hslots]
    exact ((onlyWrites_clipStored s f.h.p.val j).flight f.id).trans (flight_of_mem hordered hmem)
  rw [clipTaken, flight_modFlight_same, hflight]
  · rfl
  · exact fun _ => rfl

section Commits

variable {s : State} {l n y : Nat} {f : InFlight} {j : TileJob} {o : SealedOps} (hbody : f.body = .clip o)
  (hcoord : j.coord = some y) (hclip : j.clipOf = some n)
include hbody hcoord hclip

theorem afterCommit_clip (u : State) :
    afterCommit u f j = if j.bytes.isEmpty then clipSummed u f.id n else clipCommitted u f.h.p.val n y := by
  simp only [afterCommit, hbody, hcoord, hclip]

/-- The commit of a CLIP's pass. -/
theorem commitTile_clip (hfirst : firstPass s l (fun i => i.passDone) = some (f, j)) (hl : j.engine = l) :
    commitTile s l = retryLandings f.h.p.val 256 (resumeAll (resumeLanding (settlePasses
      (if j.bytes.isEmpty then clipSummed (clipTaken s f j l) f.id n else clipCommitted (clipTaken s f j l) f.h.p.val n y) f.id)
      f.h.p.val .submit) f.h.p.val) := by
  rw [← afterCommit_clip hbody hcoord hclip]
  simp only [commitTile, hfirst, Option.filter_some, hl, beq_self_eq_true, if_true]
  rfl

end Commits

/-! The first passes of a summand have ended -/

/-- The summand's sum of squares and scale are fixed. -/
def clipFixed (s : State) (p n : Nat) (c : ClipState) : State := modSub s p .submit n (fun b => { b with clip := some c })

/-- The scaling passes are given and begin. -/
def scalingBegun (s : State) (id : Nat) (jobs : List TileJob) : State :=
  (idleEngines s (jobs.flatMap TileJob.engines)).foldl beginNext (modFlight s id (fun g => { g with jobs := g.jobs ++ jobs }))

theorem clipSummed_eq {s : State} {id n : Nat} {f : InFlight} {o : SealedOps} {w : Window} {b : Submission}
    (hf : flight s id = some f) (hbody : f.body = .clip o) (hkept : n ∉ f.dropped)
    (hended : f.jobs.filter (fun i => i.clipOf == some n && i.bytes.isEmpty) = [])
    (hw : windowFor (part s f.h.p.val) .submit o.roundId = some w) (hb : subAt w n = some b) :
    clipSummed s id n = scalingBegun (clipFixed s f.h.p.val n (clipState s f.h.p.val w b)) id
      (clipJobs s f.h.p.val w b (clipState s f.h.p.val w b)) := by
  have hnone : (f.dropped.contains n || f.jobs.any (fun i => i.clipOf == some n && i.bytes.isEmpty)) = false := by
    rw [Bool.or_eq_false_iff]
    exact ⟨by rw [← Bool.not_eq_true, List.contains_iff_mem]; exact hkept, List.any_eq_false.mpr (List.filter_eq_nil_iff.mp hended)⟩
  simp only [clipSummed, hf, hnone, Bool.false_eq_true, if_false, hbody, hw, hb, Option.bind_some, Option.map_some]
  rfl

/-- The list without the only pass that meets a test meets it no longer. -/
theorem filter_dropFirst_eq_nil {test P : TileJob → Bool} {j : TileJob} (hP : P j = true) : ∀ {js : List TileJob},
    js.find? test = some j → js.filter P = [j] → (dropFirst test js).filter P = []
  | i :: js, hfind, honly => by
    unfold dropFirst
    split
    next hi =>
      rw [List.find?_cons_of_pos hi] at hfind
      obtain rfl := Option.some.inj hfind
      rw [List.filter_cons_of_pos hP] at honly
      exact (List.cons.inj honly).2
    next hi =>
      rw [List.find?_cons_of_neg hi] at hfind
      have hmem : j ∈ js.filter P := List.mem_filter.mpr ⟨List.mem_of_find?_eq_some hfind, hP⟩
      cases hPi : P i with
      | true =>
        rw [List.filter_cons_of_pos hPi] at honly
        rw [(List.cons.inj honly).2] at hmem
        exact absurd hmem List.not_mem_nil
      | false =>
        have hno : ¬ P i = true := by rw [hPi]; decide
        rw [List.filter_cons_of_neg hno] at honly ⊢
        exact filter_dropFirst_eq_nil hP hfind honly

/-! What a summand's tiles hold -/

/-- A partition that sees the same bytes and has been charged at most reads the same staged tiles. -/
theorem stagedTile_congr {s t : State} {p : Nat} {v : Usage} (hbytes : SameBytes p s t)
    (hown : part t p = { part s p with usage := v }) (w : Window) (b : Submission) (c : Nat) :
    stagedTile t p w b c = stagedTile s p w b c := by
  simp only [stagedTile, readTile, hbytes.pread_eq, hown]
  rfl

theorem clipSum_congr {s t : State} {p : Nat} {v : Usage} (hbytes : SameBytes p s t)
    (hown : part t p = { part s p with usage := v }) (w : Window) (b : Submission) : clipSum t p w b = clipSum s p w b := by
  simp only [clipSum, stagedTile_congr hbytes hown, hown]
  rfl

/-- What is fixed for a summand: it is within the bound, or its scale. -/
theorem clipState_unfixed {s : State} {p : Nat} {w : Window} {b : Submission} (hb : b.clip = none) :
    clipState s p w b =
      if clipSum s p w b ≤ field (part s p).policy 0x18 8 then { within := true, rm := 0, re := 0, scaled := [] }
      else { within := false, rm := (clipScale (field (part s p).policy 0x18 8) (clipSum s p w b)).1,
             re := (clipScale (field (part s p).policy 0x18 8) (clipSum s p w b)).2, scaled := [] } := by
  simp only [clipState, hb]

/-- The pass that scales tile `t` of a summand. -/
def scalingJob (s : State) (p : Nat) (w : Window) (b : Submission) (c : ClipState) (t : Nat) : TileJob :=
  { tileJob s (clipPlace s p w b t).2 (clipPlace s p w b t).1
      (intBytes (policyBits (part s p)) ((stagedTile s p w b t).map (clipElem c.rm c.re))) (unitMeta s p (clipPlace s p w b t).1) with
    coord := some t, clipOf := b.number, item := b.number.getD 0 }

/-- Every tile of a summand beyond the bound that is not scaled yet gets its pass. -/
theorem scalingJob_mem {s : State} {p : Nat} {w : Window} {b : Submission} {c : ClipState} (hwithin : c.within = false) {t : Nat}
    (ht : t < coordTiles (part s p)) (hscaled : t ∉ c.scaled) : scalingJob s p w b c t ∈ clipJobs s p w b c := by
  rw [clipJobs, if_neg (by rw [hwithin]; decide)]
  refine List.mem_map.mpr ⟨t, List.mem_filter.mpr ⟨List.mem_range.mpr ht, ?_⟩, rfl⟩
  rw [Bool.not_eq_true', ← Bool.not_eq_true, List.contains_iff_mem]
  exact hscaled

end Sys2Proof.Proofs.ClipCommit
end

section
/-! O35: CLIP keeps vectors within the bound and scales the others toward zero (R52, R184). -/

namespace Sys2Proof.Proofs.ClipScales

open Sys2Proof Sys2Proof.Machine
open Sys2Proof.Proofs.Writes Sys2Proof.Proofs.Starting Sys2Proof.Proofs.Passes Sys2Proof.Proofs.SealedWindows
open Sys2Proof.Proofs.SealedStart Sys2Proof.Proofs.SealedCommit Sys2Proof.Proofs.TilePasses Sys2Proof.Proofs.PassEnds
open Sys2Proof.Proofs.PassesCommit Sys2Proof.Proofs.CiphertextStart Sys2Proof.Proofs.ClipStart Sys2Proof.Proofs.ClipCommit

/-! Tiles that have been scaled -/

theorem clipScaled_iff {s : State} {p n y : Nat} {w : Window} {b : Submission} {c : ClipState} (hw : (part s p).submit = some w)
    (hb : subAt w n = some b) (hc : b.clip = some c) : clipScaled s p n y = true ↔ y ∈ c.scaled := by
  simp only [clipScaled, hw, hb, hc, Option.bind_some, Option.map_some, Option.getD_some, List.contains_iff_mem]

theorem alreadyScaled_noBytes {j : TileJob} (hbytes : j.bytes = []) (s : State) (p : Nat) : alreadyScaled s p j = false := by
  unfold alreadyScaled
  split
  · rw [hbytes]
    rfl
  · rfl

theorem alreadyScaled_bytes {j : TileJob} {n y : Nat} (hcoord : j.coord = some y) (hclip : j.clipOf = some n) (hbytes : j.bytes ≠ [])
    (s : State) (p : Nat) : alreadyScaled s p j = clipScaled s p n y := by
  have hsome : j.bytes.isEmpty = false := List.isEmpty_eq_false_iff.mpr hbytes
  simp only [alreadyScaled, hcoord, hclip, hsome, Bool.not_false, Bool.true_and]

/-- A first pass writes nothing. -/
theorem onlyUsage_clipStored {j : TileJob} (hbytes : j.bytes = []) (hmore : j.more = []) (htmeta : j.tmeta = none) (s : State) (p : Nat) :
    OnlyUsage p s (clipStored s p j) := by
  rw [clipStored, alreadyScaled_noBytes hbytes, if_neg (by decide)]
  exact onlyUsage_writeJob (j := { j with coord := none, maskNext := none }) ⟨hbytes, hmore, htmeta, rfl, rfl⟩ s p

/-! The scaling passes begin -/

theorem onlyPasses_scalingBegun (u : State) (id : Nat) (jobs : List TileJob) : OnlyPasses u (scalingBegun u id jobs) :=
  onlyPasses_trans (t := modFlight u id _) rfl (onlyPasses_foldl onlyPasses_beginNext _ _)

theorem flight_scalingBegun {u : State} {id : Nat} {f : InFlight} (hf : flight u id = some f) (jobs : List TileJob) :
    ∃ g, flight (scalingBegun u id jobs) id = some g ∧ SamePasses { f with jobs := f.jobs ++ jobs } g := by
  refine samePasses_beginAll _ ?_
  rw [flight_modFlight_same, hf]
  · rfl
  · exact fun _ => rfl

/-- A pass that a descriptor was given is among the begun ones. -/
theorem exists_begun_of_mem {js ks : List TileJob} (hbegun : List.Forall₂ Begun js ks) {j : TileJob} (hj : j ∈ js) :
    ∃ k ∈ ks, Begun j k := by
  obtain ⟨i, hi⟩ := List.mem_iff_getElem?.mp hj
  obtain ⟨k, hk, hjk⟩ := begun_of_exists hbegun hi
  exact ⟨k, List.mem_of_getElem? hk, hjk⟩

/-- A running descriptor that gets scaling passes goes on with them; with none and no other it is done. -/
theorem settlePasses_scalingBegun {u : State} {id : Nat} {f : InFlight} (hf : flight u id = some f) (hdone : f.done = none)
    (hphase : f.phase = .running) (hop : subPasses f.opcode = false) (jobs : List TileJob) :
    let t := settlePasses (scalingBegun u id jobs) id
    t.parts = u.parts ∧ StoreKept u t ∧ ∃ g, flight t id = some g ∧ ∀ j ∈ jobs, ∃ k ∈ g.jobs, Begun j k := by
  intro t
  obtain ⟨g, hg, hsame, hbegun⟩ := flight_scalingBegun hf jobs
  have hparts := parts_of_onlyPasses (onlyPasses_scalingBegun u id jobs)
  have hstore := storeKept_of_onlyPasses (onlyPasses_scalingBegun u id jobs)
  have hsettled : t = if !g.jobs.isEmpty then scalingBegun u id jobs
      else finishRef (scalingBegun u id jobs) id (doneStatus g) (doneResult (scalingBegun u id jobs) g) g.faultRef := by
    refine settlePasses_plain hg ?_ ?_ ?_ <;> rw [hsame]
    · exact hdone
    · exact hphase
    · exact hop
  have hgiven : ∀ j ∈ jobs, ∃ k ∈ g.jobs, Begun j k := fun j hj => exists_begun_of_mem hbegun (List.mem_append_right _ hj)
  cases hempty : g.jobs.isEmpty with
  | false =>
    rw [hempty, if_pos (by rfl)] at hsettled
    rw [hsettled]
    exact ⟨hparts, hstore, g, hg, hgiven⟩
  | true =>
    rw [hempty, if_neg (by decide)] at hsettled
    rw [hsettled, flight_finishRef, hg]
    refine ⟨hparts, hstore, _, rfl, fun j hj => ?_⟩
    obtain ⟨k, hk, -⟩ := hgiven j hj
    rw [List.isEmpty_iff.mp hempty] at hk
    exact absurd hk List.not_mem_nil

/-! What CLIP finds, where the partition sees the same bytes and was charged at most -/

theorem clipState_congr {s t : State} {p : Nat} {v : Usage} (hbytes : SameBytes p s t) (hown : part t p = { part s p with usage := v })
    (w : Window) (b : Submission) : clipState t p w b = clipState s p w b := by
  simp only [clipState, clipSum_congr hbytes hown, hown]

/-- A scaling pass: its tile, its summand, where it writes and the scaled elements that it writes. -/
theorem scalingJob_writes {s t : State} {p : Nat} {v : Usage} (hbytes : SameBytes p s t) (hown : part t p = { part s p with usage := v })
    (w : Window) (b : Submission) (c : ClipState) (i : Nat) :
    (scalingJob t p w b c i).coord = some i ∧ (scalingJob t p w b c i).clipOf = b.number ∧
      (scalingJob t p w b c i).addr = pocketAddr (stageUnit (part s p) w b + i * tileUnits (policyBits (part s p))) ∧
      (scalingJob t p w b c i).bytes = intBytes (policyBits (part s p)) ((stagedTile s p w b i).map (clipElem c.rm c.re)) := by
  refine ⟨rfl, rfl, ?_, ?_⟩
  · rw [show (scalingJob t p w b c i).addr = pocketAddr (stageUnit (part t p) w b + i * tileUnits (policyBits (part t p))) from rfl, hown]
    rfl
  · rw [← stagedTile_congr hbytes hown,
      show (scalingJob t p w b c i).bytes = intBytes (policyBits (part t p)) ((stagedTile t p w b i).map (clipElem c.rm c.re))
        from rfl, hown]
    rfl

/-! A pass of a CLIP commits -/

section Commits

variable {s : State} {l n : Nat} {f : InFlight} {j : TileJob} (hordered : FlightsOrdered s)
  (hfirst : firstPass s l (fun i => i.passDone) = some (f, j)) (hphase : f.phase = .running) (hop : f.opcode = 0x52)

include hop in
theorem subPasses_passTaken : subPasses (passTaken f j l).opcode = false := by
  rw [show (passTaken f j l).opcode = 0x52 from hop]
  rfl

include hordered hfirst hphase hop in
/-- After a scaling pass the descriptor goes on: nothing else moves. -/
theorem settlePasses_clip {u : State} (hu : u.inflight = (clipTaken s f j l).inflight) :
    settlePasses u f.id = { u with inflight := (settlePasses u f.id).inflight } := by
  obtain ⟨hmem, hdone⟩ := flying_of_firstPass hfirst
  exact settlePasses_frame (g := passTaken f j l) ((flight_congr hu f.id).trans (flight_clipTaken hordered hmem j l)) hdone hphase
    (subPasses_passTaken hop)

/-- A first pass writes nothing. -/
theorem clipTaken_noBytes (hbytes : j.bytes = []) (hmore : j.more = []) (htmeta : j.tmeta = none) :
    SameBytes f.h.p.val s (clipTaken s f j l) ∧ StoreKept s (clipTaken s f j l) := by
  have hstored := onlyUsage_clipStored hbytes hmore htmeta s f.h.p.val
  constructor
  · refine hstored.sameBytes.trans ?_
    rw [clipTaken_only]
    exact ⟨rfl, rfl, rfl, rfl, rfl⟩
  · refine storeKept_trans hstored.storeKept ?_
    rw [clipTaken_only]
    exact ⟨fun _ => ⟨rfl, rfl⟩, rfl, rfl⟩

variable {o : SealedOps} {w : Window} {b : Submission} (hl : j.engine = l) (hbody : f.body = .clip o) (hclip : j.clipOf = some n)
  (hwindow : windowFor (part s f.h.p.val) .submit o.roundId = some w) (hb : subAt w n = some b)
include hordered hfirst hphase hop hl hbody hclip hwindow hb

/-- The last first pass of a summand: what CLIP finds for it is fixed, and the passes that scale it are in the descriptor (R184). -/
theorem clipSummed_settled (hbytes : j.bytes = []) (hmore : j.more = []) (htmeta : j.tmeta = none) (hkept : n ∉ f.dropped)
    (honly : f.jobs.filter (fun i => i.clipOf == some n && i.bytes.isEmpty) = [j]) :
    let p := f.h.p.val
    let c := clipState s p w b
    let u := settlePasses (clipSummed (clipTaken s f j l) f.id n) f.id
    StoreKept s u ∧ (∃ v, (part u p).submit = some v ∧ subAt v n = some { b with clip := some c }) ∧
      ∃ g, flight u f.id = some g ∧ (c.within = false → c.scaled = [] → ∀ i, i < coordTiles (part s p) → ∃ k ∈ g.jobs, k.coord = some i ∧
        k.clipOf = some n ∧ k.addr = pocketAddr (stageUnit (part s p) w b + i * tileUnits (policyBits (part s p))) ∧
        k.bytes = intBytes (policyBits (part s p)) ((stagedTile s p w b i).map (clipElem c.rm c.re))) := by
  intro p c u
  obtain ⟨hmem, hdone⟩ := flying_of_firstPass hfirst
  have hflight := flight_clipTaken hordered hmem j l
  have hown := part_clipTaken s f j l
  obtain ⟨hsame, hstore⟩ := clipTaken_noBytes (s := s) (l := l) (f := f) hbytes hmore htmeta
  have hP : (j.clipOf == some n && j.bytes.isEmpty) = true := by
    rw [hclip, hbytes, beq_self_eq_true]
    rfl
  have hended := filter_dropFirst_eq_nil (P := fun i => i.clipOf == some n && i.bytes.isEmpty) hP (leads_of_firstPass hfirst hl) honly
  have hwindowT : windowFor (part (clipTaken s f j l) p) .submit o.roundId = some w := by
    rw [hown]
    exact hwindow
  have hsummed := clipSummed_eq (f := passTaken f j l) hflight hbody hkept hended hwindowT hb
  have hfound : clipState (clipTaken s f j l) p w b = c := clipState_congr hsame hown w b
  have hfixed : flight (clipFixed (clipTaken s f j l) p n c) f.id = some (passTaken f j l) := hflight
  obtain ⟨hparts, hkeeps, g, hg, hgiven⟩ := settlePasses_scalingBegun hfixed hdone hphase (subPasses_passTaken hop)
    (clipJobs (clipTaken s f j l) p w b c)
  have hu : u = settlePasses (scalingBegun (clipFixed (clipTaken s f j l) p n c) f.id (clipJobs (clipTaken s f j l) p w b c)) f.id := by
    rw [← hfound]
    exact congrArg (settlePasses · f.id) hsummed
  rw [hu]
  refine ⟨storeKept_trans hstore (storeKept_trans (storeKept_modSub _ p .submit n _) hkeeps), ?_, g, hg, ?_⟩
  · rw [part_congr hparts]
    exact submit_modSub (F := fun y => { y with clip := some c }) (fun _ => rfl) (windowOf_of_windowFor hwindowT) hb
  · intro hwithin hscaled i hi
    obtain ⟨k, hk, hsamek, -⟩ := hgiven _ (scalingJob_mem (t := i) hwithin (by rw [hown]; exact hi)
      (by rw [hscaled]; exact List.not_mem_nil))
    obtain ⟨hcoord, hof, haddr, hwrites⟩ := scalingJob_writes hsame hown w b c i
    refine ⟨k, hk, ?_⟩
    rw [hsamek]
    exact ⟨hcoord, hof.trans (number_of_find? hb), haddr, hwrites⟩

end Commits

/-! A tile of a summand is scaled -/

/-- The submission with tile `y` among the scaled ones. -/
def withScaled (y : Nat) (b : Submission) : Submission := { b with clip := b.clip.map (fun c => { c with scaled := c.scaled ++ [y] }) }

/-- A scaling pass has committed: its tile is stored once, and counts as scaled (R184). -/
theorem clipCommitted_clipTaken {s : State} {l n y : Nat} {f : InFlight} {j : TileJob} {o : SealedOps} {w : Window} {b : Submission}
    (hwindow : windowFor (part s f.h.p.val) .submit o.roundId = some w) (hb : subAt w n = some b)
    (hcoord : j.coord = some y) (hclip : j.clipOf = some n) (hbytes : j.bytes ≠ []) {c : ClipState}
    (hc : b.clip = some c) :
    let p := f.h.p.val
    let u := clipCommitted (clipTaken s f j l) p n y
    u.inflight = (clipTaken s f j l).inflight ∧ clipScaled u p n y = true ∧
      (y ∉ c.scaled → u.lining = (writeJob s p j).lining ∧ u.tiles = (writeJob s p j).tiles) ∧ (y ∈ c.scaled → StoreKept s u) := by
  intro p u
  have hsubmit : (part s p).submit = some w := windowOf_of_windowFor hwindow
  have hsubmitT : (part (clipTaken s f j l) p).submit = some w := by
    rw [part_clipTaken]
    exact hsubmit
  have hscaledT := clipScaled_iff (y := y) hsubmitT hb hc
  have hstored : clipStored s p j = if clipScaled s p n y then s else writeJob s p j := by
    rw [clipStored, alreadyScaled_bytes hcoord hclip hbytes]
  by_cases hy : y ∈ c.scaled
  · have hu : u = clipTaken s f j l := if_pos (hscaledT.mpr hy)
    rw [(clipScaled_iff hsubmit hb hc).mpr hy, if_pos rfl] at hstored
    refine ⟨by rw [hu], by rw [hu]; exact hscaledT.mpr hy, fun hno => absurd hy hno, fun _ => ?_⟩
    rw [hu, clipTaken_only, hstored]
    exact ⟨fun _ => ⟨rfl, rfl⟩, rfl, rfl⟩
  · have hu : u = modSub (clipTaken s f j l) p .submit n (withScaled y) := if_neg (mt hscaledT.mp hy)
    rw [if_neg (mt (clipScaled_iff hsubmit hb hc).mp hy)] at hstored
    obtain ⟨v, hv, hbv⟩ := submit_modSub (F := withScaled y) (fun _ => rfl) hsubmitT hb
    rw [← hu] at hv
    refine ⟨by rw [hu]; rfl, ?_, fun _ => ?_, fun hyes => absurd hyes hy⟩
    · exact (clipScaled_iff hv hbv (congrArg (Option.map _) hc)).mpr (List.mem_append_right _ List.mem_cons_self)
    · rw [hu]
      constructor
      · rw [show (modSub (clipTaken s f j l) p .submit n _).lining = (clipTaken s f j l).lining from rfl, clipTaken_only, hstored]
      · rw [show (modSub (clipTaken s f j l) p .submit n _).tiles = (clipTaken s f j l).tiles from rfl, clipTaken_only, hstored]

/-! The obligation -/

/-- Settles O35: at dispatch the cases of `startClip_opened`; at a commit what `clipSummed_settled` fixes after the last first pass, and
`clipCommitted_clipTaken` for a scaling pass. -/
theorem clipScalesVectorsBeyondTheBound : Obligations.ClipScalesVectorsBeyondTheBound := by
  refine ⟨?_, ?_⟩
  · intro s h o hordered hd p s1 x bound refused
    have hans : Answers (.clip h o) s (startClip s1 s.nextId h o) := answers_runBody rfl hd (fun _ => rfl)
    have hpart : part s1 p = x := takenUp_part s h (.clip o) p
    have hbound : clipWindow (part s1 p) o = bound := by rw [hpart]; rfl
    refine ⟨fun hnone => ?_, fun w hw hearly => ?_, ?_⟩
    · rw [startClip_noWindow (hbound.trans hnone)] at hans
      exact refused_of_answers hordered hans
    · rw [startClip_early (hbound.trans hw) hearly] at hans
      obtain ⟨t, ht, hflies, honly, -⟩ := waitsIn_of_answers hordered hans
      exact ⟨t, ht, hflies, honly⟩
    · intro w hw hready subs work jobs
      refine ⟨fun hopen => ?_, fun hopen => ?_⟩
      · rw [startClip_unopened (hbound.trans hw) hready hopen] at hans
        exact refused_of_answers hordered hans
      · rw [startClip_opened (hbound.trans hw) hready (by rw [hpart]; exact hopen)] at hans
        have hwork : clipWork (part s1 p) w o = work := by rw [hpart]; rfl
        have hbefore : clippedBefore (part s1 p) w o = subs.length - work.length := by rw [clippedBefore, hwork]
        have hjobs : clipRangeJobs s1 p w o = jobs := by rw [clipRangeJobs, hwork]; rfl
        rw [hjobs, hbefore] at hans
        refine ⟨fun hnil => ?_, fun hne => ?_⟩
        · rw [hnil, if_pos (by rfl)] at hans
          obtain ⟨hends, honly⟩ := clip_ends (h := h) (o := o) hordered p w ((subs.length - work.length) % 2 ^ 24 * 2 ^ 24)
          exact ⟨_, hans, hends, honly, honly.store⟩
        · rw [if_neg (by rw [List.isEmpty_iff]; exact hne)] at hans
          have hgiven : GivenAt (now s1) jobs := GivenAt.flatMap (givenAt_clipPasses s1 p w) work
          obtain ⟨f, hflies, hf, hresult, honly, hstore⟩ := clip_runs (h := h) (o := o) hordered p w hne hgiven (subs.length - work.length)
          exact ⟨_, f, hans, hflies, hf, hresult, honly, hstore⟩
  · intro s l f j o w b n y hordered hfirst hl hphase hbody hop hmore hcoord hclip p x hwindow hb commits q sc
    have hans := answers_commit l s
    rw [commitTile_clip hbody hcoord hclip hfirst hl] at hans
    refine ⟨fun hbytes htmeta hkept honly hunfixed => ?_, fun c hbytes hc => ?_⟩
    · rw [hbytes, if_pos (by rfl)] at hans
      obtain ⟨hstore, ⟨v, hv, hbv⟩, g, hg, hscaling⟩ :=
        clipSummed_settled hordered hfirst hphase hop hl hbody hclip hwindow hb hbytes hmore htmeta hkept honly
      have hstate := clipState_unfixed (s := s) (p := p) (w := w) hunfixed
      refine ⟨_, v, _, hans, hv, hbv, hstore, fun hwithin => ?_, fun hover => ?_⟩
      · rw [hstate, if_pos hwithin]
        rfl
      · rw [hstate, if_neg (Nat.not_le.mpr hover)] at hscaling
        exact ⟨congrArg some (hstate.trans (if_neg (Nat.not_le.mpr hover))), g, hg, hscaling rfl rfl⟩
    · rw [if_neg (by rw [List.isEmpty_iff]; exact hbytes)] at hans
      obtain ⟨hinflight, hscaled, hfresh, hold⟩ := clipCommitted_clipTaken hwindow hb hcoord hclip hbytes hc
      have hframe := settlePasses_clip hordered hfirst hphase hop hinflight
      refine ⟨_, hans, ?_⟩
      rw [hframe]
      exact ⟨hscaled, hfresh, hold⟩

end Sys2Proof.Proofs.ClipScales
end

section
/-! SUPPORT. The places of a partition's bytes: which byte of the Lining or of DRAM stands behind an offset of a region (R67, R194, R195),
and that different offsets, and the offsets of partitions that share nothing, have different places. -/

namespace Sys2Proof.Proofs.BytePlaces

open Sys2Proof Sys2Proof.Machine

/-! Interleaving -/

/-- Numbers dealt out over a set of homes of `home` numbers each, in blocks in turn: Pocket units over Sleeves (R67), bytes over granules
(R195). -/
def interleave (set : List Nat) (block home u : Nat) : Nat :=
  set.getD (u / block % set.length) 0 * home + u / block / set.length * block + u % block

theorem granule_size : 2 ^ 31 = 524288 * 4096 := by norm_num

theorem physDram_eq_interleave (set : List Nat) (off : Nat) : physDram set off = interleave set 4096 (524288 * 4096) off := by
  rw [← granule_size]
  rfl

theorem physUnit_eq_interleave (x : Partition) (u : Nat) : physUnit x u = interleave x.sleeveList 64 24576 u := by
  simp only [physUnit, interleave, Nat.div_div_eq_div_mul]

section
variable {set : List Nat} {block k u : Nat}

/-- The part of a dealt number within its home stays within the home. -/
theorem interleave_rest_lt (hblock : 0 < block) (hu : u < set.length * (k * block)) :
    u / block / set.length * block + u % block < k * block := by
  have hdiv : u / block / set.length < k := by
    rw [Nat.div_div_eq_div_mul]
    refine Nat.div_lt_of_lt_mul ?_
    calc u < set.length * (k * block) := hu
      _ = block * set.length * k := by ring
  calc u / block / set.length * block + u % block < u / block / set.length * block + block :=
        Nat.add_lt_add_left (Nat.mod_lt _ hblock) _
    _ = (u / block / set.length + 1) * block := by ring
    _ ≤ k * block := Nat.mul_le_mul_right _ hdiv

theorem length_pos_of_lt_mul (hu : u < set.length * (k * block)) : 0 < set.length :=
  Nat.pos_of_ne_zero fun h => by rw [h, Nat.zero_mul] at hu; exact Nat.not_lt_zero _ hu

/-- A dealt number lies in the home whose turn it is. -/
theorem interleave_div (hblock : 0 < block) (hu : u < set.length * (k * block)) :
    interleave set block (k * block) u / (k * block) = set.getD (u / block % set.length) 0 := by
  have hrest := interleave_rest_lt hblock hu
  rw [interleave, Nat.add_assoc, Nat.mul_comm (set.getD _ _), Nat.mul_add_div (Nat.zero_lt_of_lt hrest), Nat.div_eq_of_lt hrest,
    Nat.add_zero]

theorem interleave_mod (hblock : 0 < block) (hu : u < set.length * (k * block)) :
    interleave set block (k * block) u % (k * block) = u / block / set.length * block + u % block := by
  rw [interleave, Nat.add_assoc, Nat.mul_add_mod', Nat.mod_eq_of_lt (interleave_rest_lt hblock hu)]

/-- A dealt number lies in a home of the set. -/
theorem interleave_div_mem (hblock : 0 < block) (hu : u < set.length * (k * block)) :
    interleave set block (k * block) u / (k * block) ∈ set := by
  rw [interleave_div hblock hu, List.getD_eq_getElem _ _ (Nat.mod_lt _ (length_pos_of_lt_mul hu))]
  exact List.getElem_mem _

/-- Where no home comes twice, different numbers are dealt to different places. -/
theorem interleave_injective (hblock : 0 < block) (hset : set.Nodup) {v : Nat} (hu : u < set.length * (k * block))
    (hv : v < set.length * (k * block)) (h : interleave set block (k * block) u = interleave set block (k * block) v) : u = v := by
  have hpos := length_pos_of_lt_mul hu
  have hturn : u / block % set.length = v / block % set.length := by
    have hhome : set.getD (u / block % set.length) 0 = set.getD (v / block % set.length) 0 := by
      rw [← interleave_div hblock hu, ← interleave_div hblock hv, h]
    rw [List.getD_eq_getElem _ _ (Nat.mod_lt _ hpos), List.getD_eq_getElem _ _ (Nat.mod_lt _ hpos)] at hhome
    exact hset.getElem_inj_iff.mp hhome
  have hrest : u / block / set.length * block + u % block = v / block / set.length * block + v % block := by
    rw [← interleave_mod hblock hu, ← interleave_mod hblock hv, h]
  have hround : u / block / set.length = v / block / set.length := by
    have := congrArg (· / block) hrest
    simpa only [Nat.mul_comm _ block, Nat.mul_add_div hblock, Nat.div_eq_of_lt (Nat.mod_lt _ hblock), Nat.add_zero] using this
  have hlow : u % block = v % block := by rw [hround] at hrest; exact Nat.add_left_cancel hrest
  have hblocks : u / block = v / block := by
    rw [← Nat.div_add_mod (u / block) set.length, ← Nat.div_add_mod (v / block) set.length, hround, hturn]
  rw [← Nat.div_add_mod u block, ← Nat.div_add_mod v block, hblocks, hlow]

end

/-! Places -/

/-- A byte of the module's memories: in the Lining or in DRAM, at its physical address. -/
abbrev Place := Bool × Nat

/-- The place behind an offset of a region. -/
def placeOf (x : Partition) (rg : Region) (off : Nat) : Place :=
  match rg with
  | .pocket => (true, physUnit x (off / 8192) * 8192 + off % 8192)
  | .dram => (false, physDram x.dram off)
  | .window => (false, physDram x.host off)

/-- The Sleeve or the granule that holds a place. -/
def Place.home (c : Place) : Nat := if c.1 then c.2 / 201326592 else c.2 / 2 ^ 31

theorem home_pocket (x : Partition) (off : Nat) :
    (placeOf x .pocket off).home = (physUnit x (off / 8192) * 8192 + off % 8192) / 201326592 := by
  simp only [Place.home, placeOf, if_true]

theorem home_dram (x : Partition) (off : Nat) : (placeOf x .dram off).home = physDram x.dram off / 2 ^ 31 := by
  simp only [Place.home, placeOf, Bool.false_eq_true, if_false]

theorem home_window (x : Partition) (off : Nat) : (placeOf x .window off).home = physDram x.host off / 2 ^ 31 := by
  simp only [Place.home, placeOf, Bool.false_eq_true, if_false]

theorem sleeveList_nodup (x : Partition) : x.sleeveList.Nodup := List.nodup_range.filter _

theorem unit_lt {x : Partition} {off : Nat} (h : off < regionSize x .pocket) :
    off / 8192 < x.sleeveList.length * (384 * 64) := by
  rw [regionSize, Partition.units] at h
  exact Nat.div_lt_of_lt_mul (by omega)

theorem pocketHome_mem {x : Partition} {off : Nat} (h : off < regionSize x .pocket) : (placeOf x .pocket off).home ∈ x.sleeveList := by
  have hmem := interleave_div_mem (Nat.zero_lt_succ 63) (unit_lt h)
  rw [← physUnit_eq_interleave] at hmem
  have hhome : (physUnit x (off / 8192) * 8192 + off % 8192) / 201326592 = physUnit x (off / 8192) / (384 * 64) := by omega
  rw [home_pocket, hhome]
  exact hmem

theorem physDram_div_mem {set : List Nat} {off : Nat} (h : off < set.length * 2 ^ 31) : physDram set off / 2 ^ 31 ∈ set := by
  rw [granule_size] at h ⊢
  rw [physDram_eq_interleave]
  exact interleave_div_mem (Nat.zero_lt_succ 4095) h

theorem dramHome_mem {x : Partition} {off : Nat} (h : off < regionSize x .dram) : (placeOf x .dram off).home ∈ x.dram := by
  rw [home_dram]
  exact physDram_div_mem h

theorem windowHome_mem {x : Partition} {off : Nat} (h : off < regionSize x .window) : (placeOf x .window off).home ∈ x.host := by
  rw [home_window]
  exact physDram_div_mem h

theorem placeOf_pocket_injective {x : Partition} {off off' : Nat} (h : off < regionSize x .pocket) (h' : off' < regionSize x .pocket)
    (heq : placeOf x .pocket off = placeOf x .pocket off') : off = off' := by
  have haddr : physUnit x (off / 8192) * 8192 + off % 8192 = physUnit x (off' / 8192) * 8192 + off' % 8192 := congrArg Prod.snd heq
  have hunit : physUnit x (off / 8192) = physUnit x (off' / 8192) := by omega
  rw [physUnit_eq_interleave, physUnit_eq_interleave] at hunit
  have := interleave_injective (Nat.zero_lt_succ 63) (sleeveList_nodup x) (unit_lt h) (unit_lt h') hunit
  omega

theorem physDram_injective {set : List Nat} (hset : set.Nodup) {off off' : Nat} (h : off < set.length * 2 ^ 31)
    (h' : off' < set.length * 2 ^ 31) (heq : physDram set off = physDram set off') : off = off' := by
  rw [granule_size] at h h'
  rw [physDram_eq_interleave, physDram_eq_interleave] at heq
  exact interleave_injective (Nat.zero_lt_succ 4095) hset h h' heq

/-- Where a partition holds no granule twice, each of its bytes has a place of its own. -/
theorem placeOf_injective {x : Partition} (hnodup : (x.dram ++ x.host).Nodup) {rg rg' : Region} {off off' : Nat}
    (h : off < regionSize x rg) (h' : off' < regionSize x rg') (heq : placeOf x rg off = placeOf x rg' off') : rg = rg' ∧ off = off' := by
  obtain ⟨hdram, hhost, hapart⟩ := List.nodup_append.mp hnodup
  have hhome : (placeOf x rg off).home = (placeOf x rg' off').home := congrArg Place.home heq
  cases rg <;> cases rg'
  case dram.dram => exact ⟨rfl, physDram_injective hdram h h' (congrArg Prod.snd heq)⟩
  case window.window => exact ⟨rfl, physDram_injective hhost h h' (congrArg Prod.snd heq)⟩
  case pocket.pocket => exact ⟨rfl, placeOf_pocket_injective h h' heq⟩
  case dram.window => exact absurd hhome (hapart _ (dramHome_mem h) _ (windowHome_mem h'))
  case window.dram => exact absurd hhome.symm (hapart _ (dramHome_mem h') _ (windowHome_mem h))
  case dram.pocket => exact absurd (congrArg Prod.fst heq) Bool.false_ne_true
  case window.pocket => exact absurd (congrArg Prod.fst heq) Bool.false_ne_true
  case pocket.dram => exact absurd (congrArg Prod.fst heq).symm Bool.false_ne_true
  case pocket.window => exact absurd (congrArg Prod.fst heq).symm Bool.false_ne_true

theorem mem_sleeveList {x : Partition} {v : Nat} : v ∈ x.sleeveList ↔ v < 16 ∧ bvBit x.sleeves v = true := by
  simp only [Partition.sleeveList, bitList, List.mem_filter, List.mem_range, bvBit]

theorem sleeveList_disjoint {x y : Partition} (h : x.sleeves &&& y.sleeves = 0#16) {v : Nat} (hx : v ∈ x.sleeveList) : v ∉ y.sleeveList := by
  intro hy
  have hand : (x.sleeves &&& y.sleeves).toNat.testBit v = true := by
    rw [BitVec.toNat_and, Nat.testBit_and]
    exact Bool.and_eq_true_iff.mpr ⟨(mem_sleeveList.mp hx).2, (mem_sleeveList.mp hy).2⟩
  rw [h] at hand
  exact Bool.false_ne_true (Nat.zero_testBit v ▸ hand)

/-- The Sleeve or granule behind an offset is one of the partition's. -/
theorem home_mem_of_dram {x : Partition} {rg : Region} {off : Nat} (h : off < regionSize x rg) (hrg : rg ≠ .pocket) :
    (placeOf x rg off).home ∈ x.dram ++ x.host := by
  cases rg with
  | dram => exact List.mem_append_left _ (dramHome_mem h)
  | window => exact List.mem_append_right _ (windowHome_mem h)
  | pocket => exact absurd rfl hrg

theorem placeOf_fst (x : Partition) (rg : Region) (off : Nat) : (placeOf x rg off).1 = decide (rg = .pocket) := by
  cases rg <;> rfl

/-- Partitions that share no Sleeve and no granule have no place in common. -/
theorem placeOf_ne {x y : Partition} (hsleeves : x.sleeves &&& y.sleeves = 0#16)
    (hgranules : ∀ g ∈ x.dram ++ x.host, g ∉ y.dram ++ y.host) {rg rg' : Region} {off off' : Nat} (h : off < regionSize x rg)
    (h' : off' < regionSize y rg') : placeOf x rg off ≠ placeOf y rg' off' := by
  intro heq
  have hkind : rg = .pocket ↔ rg' = .pocket := by
    have := congrArg Prod.fst heq
    rw [placeOf_fst, placeOf_fst] at this
    exact decide_eq_decide.mp this
  have hhome : (placeOf x rg off).home = (placeOf y rg' off').home := congrArg Place.home heq
  by_cases hrg : rg = .pocket
  · obtain rfl := hrg
    obtain rfl := hkind.mp rfl
    refine sleeveList_disjoint hsleeves (pocketHome_mem h) ?_
    rw [hhome]
    exact pocketHome_mem h'
  · exact hgranules _ (home_mem_of_dram h hrg) (by rw [hhome]; exact home_mem_of_dram h' (mt hkind.mpr hrg))

/-! Pieces -/

/-- The places of a piece, in order. -/
def places (c : Piece) : List Place := (List.range c.len).map (fun i => (c.lining, c.phys + i))

/-- The bytes between two cuts of a region. -/
def cutSize (rg : Region) : Nat := if rg = .pocket then 8192 else 4096

/-- Up to the next cut, places follow one another. -/
theorem placeOf_add (x : Partition) {rg : Region} {off i : Nat} (h : off % cutSize rg + i < cutSize rg) :
    placeOf x rg (off + i) = ((placeOf x rg off).1, (placeOf x rg off).2 + i) := by
  have hdram : ∀ set : List Nat, off % 4096 + i < 4096 → physDram set (off + i) = physDram set off + i := by
    intro set hi
    have hdiv : (off + i) / 4096 = off / 4096 := by omega
    have hmod : (off + i) % 4096 = off % 4096 + i := by omega
    simp only [physDram, hdiv, hmod]
    omega
  cases rg with
  | dram => exact Prod.ext rfl (hdram x.dram h)
  | window => exact Prod.ext rfl (hdram x.host h)
  | pocket =>
    have hi : off % 8192 + i < 8192 := h
    have hdiv : (off + i) / 8192 = off / 8192 := by omega
    have hmod : (off + i) % 8192 = off % 8192 + i := by omega
    simp only [placeOf, hdiv, hmod, Nat.add_assoc]

theorem piecesFrom_cons (x : Partition) (rg : Region) (fuel off : Nat) {len : Nat} (hlen : len ≠ 0) :
    piecesFrom x rg (fuel + 1) off len =
      { lining := (placeOf x rg off).1, phys := (placeOf x rg off).2, len := min len (cutSize rg - off % cutSize rg) } ::
        piecesFrom x rg fuel (off + min len (cutSize rg - off % cutSize rg)) (len - min len (cutSize rg - off % cutSize rg)) := by
  simp only [piecesFrom, if_neg hlen, cutSize]
  cases rg <;> rfl

/-- A range goes to one piece after another, each byte to the place behind its offset. -/
theorem piecesFrom_places (x : Partition) (rg : Region) : ∀ (fuel off len : Nat), (len ≠ 0 → off % 4096 + len ≤ 4096 * fuel) →
    (piecesFrom x rg fuel off len).flatMap places = (List.range len).map (fun i => placeOf x rg (off + i))
  | 0, off, len, h => by
    obtain rfl : len = 0 := by omega
    rfl
  | fuel + 1, off, len, h => by
    by_cases hlen : len = 0
    · subst hlen
      rw [piecesFrom, if_pos rfl]
      rfl
    rw [piecesFrom_cons x rg fuel off hlen, List.flatMap_cons]
    have hcut : cutSize rg = 4096 ∨ cutSize rg = 8192 := by cases rg <;> simp [cutSize]
    have hchoice := min_choice len (cutSize rg - off % cutSize rg)
    have hleft := min_le_left len (cutSize rg - off % cutSize rg)
    have hright := min_le_right len (cutSize rg - off % cutSize rg)
    generalize min len (cutSize rg - off % cutSize rg) = n at hchoice hleft hright
    have hrest : len - n ≠ 0 → (off + n) % 4096 + (len - n) ≤ 4096 * fuel := by
      have := h hlen
      rcases hcut with hcut | hcut <;> rw [hcut] at hchoice <;> omega
    have hwithin : off % cutSize rg + n ≤ cutSize rg := by
      have := Nat.mod_lt off (show 0 < cutSize rg by omega)
      omega
    rw [piecesFrom_places x rg fuel (off + n) (len - n) hrest]
    have hfirst : places { lining := (placeOf x rg off).1, phys := (placeOf x rg off).2, len := n } =
        (List.range n).map (fun i => placeOf x rg (off + i)) :=
      List.map_congr_left fun i hi => (placeOf_add x (lt_of_lt_of_le (Nat.add_lt_add_left (List.mem_range.mp hi) _) hwithin)).symm
    rw [hfirst, show List.range len = List.range (n + (len - n)) by rw [Nat.add_sub_cancel' hleft], List.range_add, List.map_append, List.map_map]
    simp only [Function.comp_def, Nat.add_assoc]

/-- The places of a range of partition addresses. -/
theorem rangePieces_places {x : Partition} {a : Nat} {rg : Region} {off : Nat} (ha : regionOf a = some (rg, off)) (len : Nat) :
    (rangePieces x a len).flatMap places = (List.range len).map (fun i => placeOf x rg (off + i)) := by
  rw [rangePieces, ha]
  exact piecesFrom_places x rg _ off len (fun _ => by omega)

theorem addrFits_iff {x : Partition} {a len : Nat} :
    addrFits x a len 1 = true ↔ ∃ rg off, regionOf a = some (rg, off) ∧ off + len ≤ regionSize x rg := by
  unfold addrFits
  split
  · next h => simp [h]
  · next rg off h => simp [h, Nat.mod_one]

/-! Bytes at their places -/

/-- The byte at a place. -/
def byteAt (s : State) (c : Place) : Byte := memRead (if c.1 then s.lining else s.dram) c.2

theorem byteAt_congr {s t : State} (hl : t.lining = s.lining) (hd : t.dram = s.dram) : byteAt t = byteAt s :=
  funext fun _ => by simp only [byteAt, hl, hd]

theorem readPiece_eq {s : State} (h : MemoryCanonical s) (c : Piece) : readPiece s c = (places c).map (byteAt s) := by
  have hwf : Memory.wf (if c.lining then s.lining else s.dram) = true := by
    split
    · exact h.1
    · exact h.2
  rw [readPiece, memReadRange_eq hwf, places, List.map_map]
  rfl

/-- A range reads as the bytes at its places. -/
theorem pread_eq {s : State} (h : MemoryCanonical s) (p a len : Nat) :
    pread s p a len = ((rangePieces (part s p) a len).flatMap places).map (byteAt s) := by
  rw [pread, List.map_flatMap]
  exact congrArg (fun f => List.flatMap f _) (funext (readPiece_eq h))

theorem mem_places {c : Piece} {x : Place} : x ∈ places c ↔ x.1 = c.lining ∧ c.phys ≤ x.2 ∧ x.2 < c.phys + c.len := by
  simp only [places, List.mem_map, List.mem_range]
  constructor
  · rintro ⟨i, hi, rfl⟩
    exact ⟨rfl, Nat.le_add_right _ _, Nat.add_lt_add_left hi _⟩
  · rintro ⟨hkind, hlo, hhi⟩
    exact ⟨x.2 - c.phys, by omega, Prod.ext hkind.symm (by simp only; omega)⟩

theorem length_places (c : Piece) : (places c).length = c.len := by rw [places, List.length_map, List.length_range]

theorem canonical_writePiece {s : State} (h : MemoryCanonical s) (c : Piece) (bs : Bytes) : MemoryCanonical (writePiece s c bs) := by
  unfold writePiece MemoryCanonical
  split
  · exact ⟨memWriteRange_wf _ _ h.1, h.2⟩
  · rw [Writes.touchBlocks_lining, Writes.touchBlocks_dram]
    exact ⟨h.1, memWriteRange_wf _ _ h.2⟩

theorem canonical_writePieces : ∀ (cs : List Piece) {s : State} (bs : Bytes), MemoryCanonical s → MemoryCanonical (writePieces s cs bs)
  | [], _, _, h => h
  | c :: cs, _, _, h => canonical_writePieces cs _ (canonical_writePiece h c _)

/-- What a piece that is stored leaves at a place. -/
theorem byteAt_writePiece {s : State} (h : MemoryCanonical s) {c : Piece} {bs : Bytes} (hlen : bs.length = c.len) (x : Place) :
    byteAt (writePiece s c bs) x = if x ∈ places c then bs.getD (x.2 - c.phys) memDefault else byteAt s x := by
  obtain ⟨kind, a⟩ := x
  simp only [mem_places, ← hlen]
  unfold writePiece byteAt
  cases hc : c.lining <;> cases kind <;>
    simp [Writes.touchBlocks_lining, Writes.touchBlocks_dram, memRead_write h.1, memRead_write h.2]

/-- The bytes stored at a piece stand at its places. -/
theorem map_byteAt_writePiece {s : State} (h : MemoryCanonical s) {c : Piece} {bs : Bytes} (hlen : bs.length = c.len) :
    (places c).map (byteAt (writePiece s c bs)) = bs := by
  refine List.ext_getElem (by rw [List.length_map, length_places, hlen]) fun i hi hi' => ?_
  have hmem := List.getElem_mem (l := places c) (by simpa using hi)
  rw [List.getElem_map, byteAt_writePiece h hlen, if_pos hmem]
  simp only [places, List.getElem_map, List.getElem_range, Nat.add_sub_cancel_left]
  exact List.getD_eq_getElem _ _ hi'

/-- A place that no piece covers keeps its byte. -/
theorem byteAt_writePieces_of_not_mem : ∀ (cs : List Piece) {s : State} {bs : Bytes} {x : Place}, MemoryCanonical s →
    bs.length = (cs.flatMap places).length → x ∉ cs.flatMap places → byteAt (writePieces s cs bs) x = byteAt s x
  | [], _, _, _, _, _, _ => rfl
  | c :: cs, s, bs, x, h, hlen, hx => by
    rw [List.flatMap_cons, List.mem_append, not_or] at hx
    rw [List.flatMap_cons, List.length_append, length_places] at hlen
    rw [writePieces, byteAt_writePieces_of_not_mem cs (canonical_writePiece h c _) (by rw [List.length_drop]; omega) hx.2,
      byteAt_writePiece h (by rw [List.length_take]; omega), if_neg hx.1]

/-- Bytes stored at pieces without a place in common stand at their places. -/
theorem map_byteAt_writePieces : ∀ (cs : List Piece) {s : State} {bs : Bytes}, MemoryCanonical s →
    bs.length = (cs.flatMap places).length → (cs.flatMap places).Nodup → (cs.flatMap places).map (byteAt (writePieces s cs bs)) = bs
  | [], _, bs, _, hlen, _ => (List.length_eq_zero_iff.mp hlen).symm
  | c :: cs, s, bs, h, hlen, hnodup => by
    rw [List.flatMap_cons, List.length_append, length_places] at hlen
    obtain ⟨-, htail, hapart⟩ := List.nodup_append.mp (List.flatMap_cons ▸ hnodup)
    have htake : (bs.take c.len).length = c.len := by rw [List.length_take]; omega
    have hdrop : (bs.drop c.len).length = (cs.flatMap places).length := by rw [List.length_drop]; omega
    have hcanon := canonical_writePiece h c (bs.take c.len)
    have hhead : (places c).map (byteAt (writePieces (writePiece s c (bs.take c.len)) cs (bs.drop c.len))) = bs.take c.len := by
      rw [← map_byteAt_writePiece h htake]
      refine List.map_congr_left fun x hx => ?_
      rw [map_byteAt_writePiece h htake]
      exact byteAt_writePieces_of_not_mem cs hcanon hdrop fun hx' => hapart x hx x hx' rfl
    rw [List.flatMap_cons, List.map_append, writePieces, hhead, map_byteAt_writePieces cs hcanon hdrop htail, List.take_append_drop]

end Sys2Proof.Proofs.BytePlaces
end

section
/-! O7: ranges of partition memory. -/

namespace Sys2Proof.Proofs.MemoryRanges

open Sys2Proof Sys2Proof.Machine
open Sys2Proof.Proofs.Writes Sys2Proof.Proofs.BytePlaces

theorem byteAt_pwrite (s : State) (p a : Nat) (bs : Bytes) :
    byteAt (pwrite s p a bs) = byteAt (writePieces s (rangePieces (part s p) a bs.length) bs) :=
  byteAt_congr (pwrite_lining s p a bs) (pwrite_dram s p a bs)

theorem canonical_pwrite {s : State} (h : MemoryCanonical s) (p a : Nat) (bs : Bytes) : MemoryCanonical (pwrite s p a bs) := by
  rw [MemoryCanonical, pwrite_lining, pwrite_dram]
  exact canonical_writePieces _ bs h

/-- A write leaves every partition its Sleeves and granules. -/
theorem rangePieces_pwrite (s : State) (p a : Nat) (bs : Bytes) (q b n : Nat) :
    rangePieces (part (pwrite s p a bs) q) b n = rangePieces (part s q) b n := by
  have hw := onlyWrites_pwrite s p a bs
  by_cases hq : q = p
  · subst hq
    rw [hw.own]
    simp only [rangePieces, piecesFrom_congr (x := part s q) (y := { part s q with usage := (part (pwrite s q a bs) q).usage }) rfl rfl rfl]
  · rw [hw.others q hq]

/-- A range that is written reads back, where the partition holds no granule twice (R299). -/
theorem pread_pwrite_same {s : State} {p a : Nat} {bs : Bytes} (h : MemoryCanonical s) (hnodup : ((part s p).dram ++ (part s p).host).Nodup)
    (hfits : addrFits (part s p) a bs.length 1 = true) : pread (pwrite s p a bs) p a bs.length = bs := by
  obtain ⟨rg, off, hregion, hsize⟩ := addrFits_iff.mp hfits
  have hplaces := rangePieces_places (x := part s p) hregion bs.length
  rw [pread_eq (canonical_pwrite h p a bs), rangePieces_pwrite, byteAt_pwrite]
  refine map_byteAt_writePieces _ h (by rw [hplaces, List.length_map, List.length_range]) ?_
  rw [hplaces]
  refine List.Nodup.map_on (fun i hi j hj hij => ?_) List.nodup_range
  have hlt := List.mem_range.mp hi
  have hlt' := List.mem_range.mp hj
  have := (placeOf_injective hnodup (by omega) (by omega) hij).2
  omega

/-- A write leaves the ranges none of whose places it covers. -/
theorem pread_pwrite_of_apart {s : State} {p a : Nat} {bs : Bytes} {q b n : Nat} (h : MemoryCanonical s) {rg rg' : Region} {off off' : Nat}
    (ha : regionOf a = some (rg, off)) (hb : regionOf b = some (rg', off'))
    (hapart : ∀ i < bs.length, ∀ j < n, placeOf (part s p) rg (off + i) ≠ placeOf (part s q) rg' (off' + j)) :
    pread (pwrite s p a bs) q b n = pread s q b n := by
  rw [pread_eq (canonical_pwrite h p a bs), pread_eq h, rangePieces_pwrite, byteAt_pwrite, rangePieces_places hb]
  refine List.map_congr_left fun c hc => byteAt_writePieces_of_not_mem _ h ?_ ?_
  · rw [rangePieces_places ha, List.length_map, List.length_range]
  · rw [rangePieces_places ha]
    intro hc'
    obtain ⟨j, hj, rfl⟩ := List.mem_map.mp hc
    obtain ⟨i, hi, heq⟩ := List.mem_map.mp hc'
    exact hapart i (List.mem_range.mp hi) j (List.mem_range.mp hj) heq

/-- Addresses of one region lie as far apart as their offsets. -/
theorem regionOf_offset {a b : Nat} {rg : Region} {off off' : Nat} (ha : regionOf a = some (rg, off)) (hb : regionOf b = some (rg, off')) :
    a + off' = b + off := by
  have hnumber : ∀ {c : Nat} {r : Region} {o : Nat}, regionOf c = some (r, o) →
      c = (match r with | .dram => 0 | .window => 1 | .pocket => 2) * 2 ^ 60 + o := by
    intro c r o hc
    unfold regionOf at hc
    split at hc <;> simp only [Option.some.injEq, Prod.mk.injEq, reduceCtorEq] at hc <;> obtain ⟨rfl, rfl⟩ := hc <;> simp only <;> omega
  have h1 := hnumber ha
  have h2 := hnumber hb
  omega

/-- Ranges of one partition that do not overlap have no place in common. -/
theorem placeOf_ne_of_not_overlaps {x : Partition} (hnodup : (x.dram ++ x.host).Nodup) {a n b m : Nat} {rg rg' : Region} {off off' : Nat}
    (ha : regionOf a = some (rg, off)) (hb : regionOf b = some (rg', off')) (hsize : off + n ≤ regionSize x rg)
    (hsize' : off' + m ≤ regionSize x rg') (hoverlaps : overlaps a n b m = false) {i j : Nat} (hi : i < n) (hj : j < m) :
    placeOf x rg (off + i) ≠ placeOf x rg' (off' + j) := by
  intro heq
  obtain ⟨rfl, hoff⟩ := placeOf_injective hnodup (by omega) (by omega) heq
  have hdist := regionOf_offset ha hb
  have hmeet : overlaps a n b m = true := by
    simp only [overlaps, Bool.and_eq_true, decide_eq_true_eq]
    omega
  rw [hoverlaps] at hmeet
  exact Bool.false_ne_true hmeet

/-- Settles O7: each byte of a range has a place of its own (`placeOf_injective`), and what a write covers is its range's places. -/
theorem memoryRangesReadBack : Obligations.MemoryRangesReadBack := by
  refine ⟨fun s p a bs h hnodup hfits => pread_pwrite_same h hnodup hfits, ?_⟩
  intro s p a bs q b n h hfits hfits' hcase
  obtain ⟨rg, off, hregion, hsize⟩ := addrFits_iff.mp hfits
  obtain ⟨rg', off', hregion', hsize'⟩ := addrFits_iff.mp hfits'
  refine pread_pwrite_of_apart h hregion hregion' fun i hi j hj => ?_
  rcases hcase with ⟨rfl, hoverlaps, hnodup⟩ | ⟨hsleeves, hgranules⟩
  · exact placeOf_ne_of_not_overlaps hnodup hregion hregion' hsize hsize' hoverlaps hi hj
  · exact placeOf_ne hsleeves hgranules (by omega) (by omega)

end Sys2Proof.Proofs.MemoryRanges
end

section
/-! SUPPORT. Registers, and what a report of the fault log leaves (R373, R374, R376): the newest entry is its own, registers other than
FLT_STAT and GLB_IRQ_SRC read as before, and of the partition it names the completion rings, the counts of lost records and the usage
counters alone may move. -/

namespace Sys2Proof.Proofs.Reports

open Sys2Proof Sys2Proof.Machine
open Sys2Proof.Proofs.Writes

/-! Registers -/

theorem tabGet_tabErase_same {α : Type} (d : α) (k : Nat) : ∀ t : Tab α, tabGet d (tabErase t k) k = d
  | [] => rfl
  | (j, v) :: t => by
    by_cases hj : j = k
    · rw [tabErase, List.filter_cons_of_neg (by simp [hj])]
      exact tabGet_tabErase_same d k t
    · rw [tabErase, List.filter_cons_of_pos (by simp [hj]), tabGet, if_neg hj]
      exact tabGet_tabErase_same d k t

theorem tabGet_tabErase_other {α : Type} (d : α) {k i : Nat} (h : k ≠ i) : ∀ t : Tab α, tabGet d (tabErase t k) i = tabGet d t i
  | [] => rfl
  | (j, v) :: t => by
    by_cases hj : j = k
    · rw [tabErase, List.filter_cons_of_neg (by simp [hj]), tabGet, if_neg (by omega)]
      exact tabGet_tabErase_other d h t
    · rw [tabErase, List.filter_cons_of_pos (by simp [hj]), tabGet, tabGet]
      exact congrArg (fun x => if j = i then v else x) (tabGet_tabErase_other d h t)

@[simp] theorem reg_setReg_same (s : State) (r : Reg) (v : Nat) : reg (setReg s r v) r = v := by
  unfold reg setReg
  split
  · next h => rw [tabGet_tabErase_same, h]
  · rw [tabGet_tabSet_same]

theorem reg_setReg_other (s : State) {r g : Reg} (v : Nat) (h : r.offset ≠ g.offset) : reg (setReg s r v) g = reg s g := by
  unfold reg setReg
  split
  · exact tabGet_tabErase_other _ h _
  · exact tabGet_tabSet_other _ _ h _

theorem reg_congr {s t : State} (h : t.regs = s.regs) (r : Reg) : reg t r = reg s r := by simp only [reg, h]

theorem regField_congr {s t : State} {r : Reg} (h : reg t r = reg s r) (hi lo : Nat) : regField t r hi lo = regField s r hi lo := by
  simp only [regField, h]

theorem instant_congr {s t : State} (h : t.time = s.time) : instant t = instant s := by simp only [instant, h]

@[simp] theorem part_setReg (s : State) (r : Reg) (v p : Nat) : part (setReg s r v) p = part s p := by
  simp only [part, setReg_parts]

@[simp] theorem sqOf_setReg (s : State) (g : Reg) (v p r : Nat) : sqOf (setReg s g v) p r = sqOf s p r := by
  simp only [sqOf, part_setReg]

@[simp] theorem logRuns_setReg (s : State) (r : Reg) (v : Nat) : logRuns (setReg s r v) = logRuns s := by
  simp only [logRuns, setReg_collar]

theorem storeKept_setReg (s : State) (r : Reg) (v : Nat) : StoreKept s (setReg s r v) :=
  ⟨fun _ => ⟨by rw [setReg_lining], by rw [setReg_dram]⟩, setReg_tiles s r v, setReg_areas s r v⟩

theorem othersKept_setReg (s : State) (r : Reg) (v p : Nat) : OthersKept s (setReg s r v) p :=
  othersKept_of_parts (setReg_parts s r v) p

/-! Records of a partition -/

/-- From `s` to `t` partition `p` may have been given records: its completion rings, the counts of records lost and its usage may have
moved, and what has left the module has grown. -/
structure RingsOnly (p : Nat) (s t : State) : Prop where
  out : s.out <+: t.out
  others : OthersKept s t p
  own : part t p = { part s p with sq := (part t p).sq, cq := (part t p).cq, usage := (part t p).usage }
  rings : ∀ r, sqOf t p r = { sqOf s p r with lost := (sqOf t p r).lost }

theorem RingsOnly.trans {p : Nat} {s t u : State} (h1 : RingsOnly p s t) (h2 : RingsOnly p t u) : RingsOnly p s u :=
  ⟨h1.out.trans h2.out, othersKept_trans h1.others h2.others, by rw [h2.own, h1.own], fun r => by rw [h2.rings r, h1.rings r]⟩

theorem ringsOnly_of_parts {p : Nat} {s t : State} (hout : s.out <+: t.out) (hparts : t.parts = s.parts) : RingsOnly p s t :=
  ⟨hout, othersKept_of_parts hparts p, by rw [part_congr hparts], fun r => by simp only [sqOf, part_congr hparts]⟩

/-- From `s` to `t` records have been posted for partition `p`, and beside it only free values and counters have changed. -/
structure Posted (p : Nat) (s t : State) : Prop extends RingsOnly p s t where
  update : t = { s with out := t.out, freeCtr := t.freeCtr, parts := t.parts, dbg := t.dbg }

theorem Posted.refl (p : Nat) (s : State) : Posted p s s := ⟨ringsOnly_of_parts (List.prefix_refl _) rfl, rfl⟩

theorem Posted.trans {p : Nat} {s t u : State} (h1 : Posted p s t) (h2 : Posted p t u) : Posted p s u :=
  ⟨h1.toRingsOnly.trans h2.toRingsOnly, by rw [h2.update, h1.update]⟩

theorem Posted.ite {p : Nat} {s t u : State} {c : Prop} [Decidable c] (h1 : Posted p s t) (h2 : Posted p s u) :
    Posted p s (if c then t else u) := by
  split
  · exact h1
  · exact h2

theorem posted_emit (p : Nat) (s : State) (o : Output) : Posted p s (emit s o) :=
  ⟨ringsOnly_of_parts (List.prefix_append _ _) rfl, rfl⟩

theorem posted_countEvent (p : Nat) (s : State) (ev : Nat) (sc : List (Nat × Nat)) (n : Nat) : Posted p s (countEvent s ev sc n) := by
  rw [countEvent_only]
  exact ⟨ringsOnly_of_parts (List.prefix_refl _) rfl, rfl⟩

/-- A change of a partition's completion rings and usage. -/
theorem posted_modPart (s : State) (p : Nat) {f : Partition → Partition} (hf : ∀ x, f x = { x with cq := (f x).cq, usage := (f x).usage }) :
    Posted p s (modPart s p f) := by
  refine ⟨⟨List.prefix_refl _, othersKept_modPart s p f, ?_, fun r => ?_⟩, rfl⟩
  · rw [part_modPart_same, hf]
  · have hsq : (f (part s p)).sq = (part s p).sq := by rw [hf]
    simp only [sqOf, part_modPart_same, hsq]

theorem posted_modCq (s : State) (p c : Nat) (f : CqRing → CqRing) : Posted p s (modCq s p c f) :=
  posted_modPart s p (fun _ => rfl)

theorem posted_modUsage (s : State) (p : Nat) (f : Usage → Usage) : Posted p s (modUsage s p f) :=
  ((posted_modPart s p (f := fun x => { x with usage := f (part s p).usage }) (fun _ => rfl)).trans (posted_countEvent p _ _ _ _)).trans
    (posted_countEvent p _ _ _ _)

theorem posted_lost (s : State) (p r : Nat) : Posted p s (modSq s p r (fun q => { q with lost := q.lost + 1 })) := by
  refine ⟨⟨List.prefix_refl _, othersKept_modPart s p _, by rw [modSq, part_modPart_same], fun c => ?_⟩, rfl⟩
  by_cases hc : r = c
  · subst hc
    rw [sqOf_modSq_same]
  · simp only [sqOf, modSq, part_modPart_same, tabGet_tabMap_other _ _ _ hc]

theorem posted_cqInterrupt (s : State) (p c : Nat) : Posted p s (cqInterrupt s p c) :=
  ((posted_emit p s _).trans (posted_modUsage _ p _)).trans (posted_modCq _ p c _)

theorem posted_cqAfterRecord (s : State) (p c : Nat) (r : Record) : Posted p s (cqAfterRecord s p c r) :=
  Posted.ite (Posted.refl p s) (Posted.ite (posted_cqInterrupt s p c) (posted_modCq s p c _))

theorem posted_cqWrite (s : State) (p c : Nat) (r : Record) : Posted p s (cqWrite s p c r) := by
  refine Posted.trans ?_ (posted_cqAfterRecord _ p c r)
  refine Posted.trans (Posted.trans ?_ (posted_modCq _ p c _)) (posted_modUsage _ p _)
  exact Posted.ite ((posted_emit p s _).trans ⟨ringsOnly_of_parts (List.prefix_refl _) rfl, rfl⟩) (posted_emit p s _)

theorem posted_postRecord (s : State) (p c : Nat) (r : Record) : Posted p s (postRecord s p c r) :=
  Posted.ite (posted_cqWrite s p c r) (Posted.ite (posted_modCq s p c _) (Posted.ite (Posted.refl p s) (posted_lost s p _)))

theorem posted_notice (s : State) (r : Report) (seq : Nat) : Posted r.p s (notice s r seq) :=
  Posted.ite (posted_postRecord s _ _ _) (Posted.refl _ s)

/-- An entry that names no partition posts no notice. -/
theorem notice_of_foreign (s : State) {r : Report} (h : ¬ r.p < 16) (seq : Nat) : notice s r seq = s :=
  if_neg fun h' => h h'.1

/-! Reports -/

/-- From `s` to `t` entries naming partition `p` may have been written to the fault log. -/
structure Reported (p : Nat) (s t : State) : Prop extends RingsOnly p s t where
  update : t = { s with out := t.out, freeCtr := t.freeCtr, regs := t.regs, parts := t.parts, dbg := t.dbg,
                        faults := { s.faults with log := t.faults.log, head := t.faults.head } }
  regs : ∀ r : Reg, r.offset ≠ Reg.fltStat.offset → r.offset ≠ Reg.glbIrqSrc.offset → reg t r = reg s r

theorem Reported.refl (p : Nat) (s : State) : Reported p s s := ⟨ringsOnly_of_parts (List.prefix_refl _) rfl, rfl, fun _ _ _ => rfl⟩

theorem Reported.trans {p : Nat} {s t u : State} (h1 : Reported p s t) (h2 : Reported p t u) : Reported p s u :=
  ⟨h1.toRingsOnly.trans h2.toRingsOnly, by rw [h2.update, h1.update],
    fun r hstat hirq => (h2.regs r hstat hirq).trans (h1.regs r hstat hirq)⟩

theorem Posted.reported {p : Nat} {s t : State} (h : Posted p s t) : Reported p s t :=
  ⟨h.toRingsOnly, by rw [h.update], fun r _ _ => reg_congr (by rw [h.update]) r⟩

theorem Reported.inflight {p : Nat} {s t : State} (h : Reported p s t) : t.inflight = s.inflight := by rw [h.update]

theorem Reported.regField {p : Nat} {s t : State} (h : Reported p s t) {r : Reg} (hstat : r.offset ≠ Reg.fltStat.offset)
    (hirq : r.offset ≠ Reg.glbIrqSrc.offset) (hi lo : Nat) : regField t r hi lo = regField s r hi lo :=
  regField_congr (h.regs r hstat hirq) hi lo

theorem reported_setReg (p : Nat) (s : State) {r : Reg} (v : Nat)
    (h : r.offset = Reg.fltStat.offset ∨ r.offset = Reg.glbIrqSrc.offset) : Reported p s (setReg s r v) := by
  refine ⟨ringsOnly_of_parts (List.prefix_refl _) rfl, rfl, fun g hstat hirq => reg_setReg_other s v ?_⟩
  rcases h with h | h <;> rw [h]
  · exact hstat.symm
  · exact hirq.symm

theorem reported_raiseIrq (p : Nat) (s : State) (bits : Nat) : Reported p s (raiseIrq s bits) := by
  have hset : Reported p s (setReg s .glbIrqSrc (Nat.lor (reg s .glbIrqSrc) bits)) := reported_setReg p s _ (.inr rfl)
  unfold raiseIrq
  dsimp only
  split
  · exact hset
  · split
    · exact hset
    · exact hset.trans (posted_emit p _ _).reported

/-- The entry that a new report writes (Table 16.3). -/
def entryOf (s : State) (r : Report) : FaultEntry :=
  { seq := if (s.faults.head + 1) % 2 ^ 32 = 0 then 1 else (s.faults.head + 1) % 2 ^ 32, cls := r.cls, code := r.code, p := r.p,
    gen := if r.p < 16 then (part s r.p).gen else 0, stamp := instant s, quality := s.time.mode.code, unitKind := r.unitKind,
    unitIndex := r.unitIndex, tag := r.tag, opcode := r.opcode, ring := r.ring, passes := r.passes, count := 1, detail := r.detail }

/-- The state with a new entry in its log, before status, interrupt and notice. -/
def withEntry (s : State) (r : Report) : State :=
  { s with faults := { s.faults with head := (entryOf s r).seq, log := (entryOf s r :: s.faults.log).take 4096 } }

/-- The state in which the notice of a new entry is written. -/
def flagged (s : State) (r : Report) : State :=
  let s2 := setStatusBits (withEntry s r) .fltStat (if decide (4096 ≤ s.faults.log.length) then 0xC0 else 0x40)
  if regField s .fltCtrl 2 2 = 1 then raiseIrq s2 1 else s2

theorem logNew_eq (s : State) (r : Report) : logFault.logNew s r = notice (flagged s r) r (entryOf s r).seq := rfl

theorem raiseIrq_faults (s : State) (bits : Nat) : (raiseIrq s bits).faults = s.faults := by
  unfold raiseIrq
  dsimp only
  split
  · rfl
  · split <;> rfl

theorem raiseIrq_parts (s : State) (bits : Nat) : (raiseIrq s bits).parts = s.parts := by
  unfold raiseIrq
  dsimp only
  split
  · rfl
  · split <;> rfl

theorem flagged_faults (s : State) (r : Report) : (flagged s r).faults = (withEntry s r).faults := by
  unfold flagged
  dsimp only
  split
  · exact raiseIrq_faults _ _
  · rfl

theorem flagged_parts (s : State) (r : Report) : (flagged s r).parts = s.parts := by
  unfold flagged
  dsimp only
  split
  · exact raiseIrq_parts _ _
  · rfl

theorem reported_flagged (p : Nat) (s : State) (r : Report) : Reported p s (flagged s r) := by
  have hentry : Reported p s (withEntry s r) := ⟨ringsOnly_of_parts (List.prefix_refl _) rfl, rfl, fun _ _ _ => rfl⟩
  have hstat := fun bits => hentry.trans (reported_setReg p (withEntry s r) (Nat.lor (reg (withEntry s r) .fltStat) bits) (.inl rfl))
  unfold flagged
  dsimp only
  split
  · exact (hstat _).trans (reported_raiseIrq p _ 1)
  · exact hstat _

theorem reported_logNew (s : State) (r : Report) : Reported r.p s (logFault.logNew s r) := by
  rw [logNew_eq]
  exact (reported_flagged r.p s r).trans (posted_notice _ r _).reported

/-- What a report does: nothing before boot has finished; a repeat of the newest entry counts it; else an entry is new (R374). -/
theorem logFault_cases (s : State) (r : Report) :
    (logRuns s = false ∧ logFault s r = s) ∨
    (∃ e rest, s.faults.log = e :: rest ∧ e.cls = r.cls ∧ e.code = r.code ∧
      logFault s r = { s with faults := { s.faults with log := { e with count := e.count + 1 } :: rest } }) ∨
    logFault s r = logFault.logNew s r := by
  unfold logFault
  split
  · next h => exact .inl ⟨h, rfl⟩
  · split
    · next e rest hlog =>
      split
      · next hrep =>
        simp only [repeatsNewest, Bool.and_eq_true, beq_iff_eq] at hrep
        obtain ⟨⟨⟨⟨hcls, hcode⟩, -⟩, -⟩, -⟩ := hrep
        exact .inr (.inl ⟨e, rest, hlog, hcls, hcode, rfl⟩)
      · exact .inr (.inr rfl)
    · exact .inr (.inr rfl)

theorem reported_logFault (s : State) (r : Report) : Reported r.p s (logFault s r) := by
  obtain ⟨-, h⟩ | ⟨e, rest, -, -, -, h⟩ | h := logFault_cases s r
  · rw [h]
    exact Reported.refl _ s
  · rw [h]
    exact ⟨ringsOnly_of_parts (List.prefix_refl _) rfl, rfl, fun _ _ _ => rfl⟩
  · rw [h]
    exact reported_logNew s r

/-- While the log runs, a report's class and code are those of the newest entry. -/
theorem logged_logFault {s : State} (h : logRuns s = true) (r : Report) : Logged (logFault s r) r.cls r.code := by
  obtain ⟨hoff, -⟩ | ⟨e, rest, -, hcls, hcode, heq⟩ | heq := logFault_cases s r
  · rw [h] at hoff
    exact absurd hoff Bool.true_eq_false.mp
  · rw [heq]
    exact ⟨_, rest, rfl, hcls, hcode⟩
  · have hfaults : (logFault s r).faults = (withEntry s r).faults := by
      rw [heq, logNew_eq, (posted_notice (flagged s r) r _).update]
      exact flagged_faults s r
    exact ⟨entryOf s r, s.faults.log.take 4095, by rw [hfaults]; rfl, rfl, rfl⟩

/-- A report that names no partition changes none. -/
theorem logFault_parts (s : State) {r : Report} (h : ¬ r.p < 16) : (logFault s r).parts = s.parts := by
  obtain ⟨-, heq⟩ | ⟨e, rest, -, -, -, heq⟩ | heq := logFault_cases s r
  · rw [heq]
  · rw [heq]
  · rw [heq, logNew_eq, notice_of_foreign _ h, flagged_parts]

/-- Whether the log runs depends on boot alone. -/
theorem logRuns_congr {s t : State} (h : t.collar.bootStatus = s.collar.bootStatus) : logRuns t = logRuns s := by
  simp only [logRuns, h]

end Sys2Proof.Proofs.Reports
end

section
/-! SUPPORT. Control registers of rings (R208, R209): what a write does under the lock, what it leaves where a ring is enabled, disabled or
refused. -/

namespace Sys2Proof.Proofs.RingSetUp

open Sys2Proof Sys2Proof.Machine
open Sys2Proof.Proofs.Writes Sys2Proof.Proofs.LoggedWork Sys2Proof.Proofs.Reports

/-- The fields of RING_SQ_CTRL that a value writes. -/
def sqFields (v : Nat) : Nat := v % 2 + bitsOf v 8 3 * 2 ^ 8 + bitsOf v 16 5 * 2 ^ 16

/-- The fields of RING_CQ_CTRL beside its enable bit that a value writes. -/
def cqHeld (v : Nat) : Nat := bitsOf v 1 2 * 2 + bitsOf v 16 5 * 2 ^ 16

/-! The lock -/

section
variable {s : State} {p r v : Nat}

theorem writeRingCtrl_locked_same (hlock : regField s (.ringLock p) 0 0 = 1) (h : sqFields v = reg s (.sqCtrl p r)) :
    writeRingCtrl s p false r v = s := by
  rw [writeRingCtrl, if_pos hlock]
  exact if_pos h

theorem writeRingCtrl_locked_other (hlock : regField s (.ringLock p) 0 0 = 1) (h : sqFields v ≠ reg s (.sqCtrl p r)) :
    writeRingCtrl s p false r v = refuseAccess s := by
  rw [writeRingCtrl, if_pos hlock]
  exact if_neg h

theorem writeRingCtrl_open (hlock : regField s (.ringLock p) 0 0 = 0) (cq : Bool) :
    writeRingCtrl s p cq r v = if cq then writeCqCtrl s p r v else writeSqCtrl s p r v :=
  if_neg (by rw [hlock]; exact Nat.zero_ne_one)

/-! Submission rings -/

theorem readDescs_only (s : State) (p r c n : Nat) :
    s.out <+: (readDescs s p r c n).out ∧ readDescs s p r c n = { s with out := (readDescs s p r c n).out } := by
  unfold readDescs
  dsimp only
  split <;> split
  · exact ⟨List.prefix_refl _, rfl⟩
  · exact ⟨List.prefix_append _ _, rfl⟩
  · exact ⟨List.prefix_append _ _, rfl⟩
  · exact ⟨(List.prefix_append _ _).trans (List.prefix_append _ _), rfl⟩

theorem storeKept_modSq (s : State) (p r : Nat) (f : SqRing → SqRing) : StoreKept s (modSq s p r f) :=
  ⟨fun _ => ⟨by rw [modSq_lining], by rw [modSq_dram]⟩, modSq_tiles s p r f, modSq_areas s p r f⟩

/-- A doorbell line that is taken: its ring fetches, and the line is read. -/
theorem invalidate_takes {q : SqRing} (hq : sqOf s p r = q) (hmode : q.mode = .idle) (i : Instant) :
    sqOf (invalidate s p r i) p r = { q with mode := .fetch, reads := q.reads ++ [i] } ∧
      .lineRead (reg s (.sqDb p r)) ∈ (invalidate s p r i).out ∧ OthersKept s (invalidate s p r i) p ∧
      (invalidate s p r i).regs = s.regs ∧ StoreKept s (invalidate s p r i) := by
  subst hq
  have heq : invalidate s p r i =
      readDescs (emit (modSq s p r (fun y => { y with mode := .fetch, reads := y.reads ++ [i] })) (.lineRead (reg s (.sqDb p r)))) p r
        (sqOf s p r).fetched (min 4 (bufferRoom (sqOf s p r))) := by
    unfold invalidate
    exact if_neg (by rw [hmode]; decide)
  generalize hu : emit (modSq s p r (fun y => { y with mode := .fetch, reads := y.reads ++ [i] })) (.lineRead (reg s (.sqDb p r))) = u at heq
  obtain ⟨hout, honly⟩ := readDescs_only u p r (sqOf s p r).fetched (min 4 (bufferRoom (sqOf s p r)))
  rw [← heq] at hout honly
  have hparts : (invalidate s p r i).parts = u.parts := by rw [honly]
  refine ⟨?_, hout.subset ?_, ?_, ?_, ?_⟩
  · rw [sqOf, part_congr hparts, ← hu]
    exact sqOf_modSq_same s p r _
  · rw [← hu, emit_out]
    exact List.mem_append_right _ List.mem_cons_self
  · intro q hq
    rw [part_congr hparts, ← hu, part_congr (emit_parts _ _)]
    exact othersKept_modPart s p _ q hq
  · rw [honly, ← hu]
    rfl
  · rw [honly, ← hu]
    exact storeKept_modSq s p r (fun y => { y with mode := .fetch, reads := y.reads ++ [i] })

/-- An entry of the log that refuses a ring leaves the ring's control register and its mode. -/
theorem refuseRing_refuses (s : State) (p r : Nat) :
    (logRuns s = true → Logged (refuseRing s p r) 7 0x60) ∧ (∀ g : Reg, g.offset ≠ Reg.fltStat.offset → g.offset ≠ Reg.glbIrqSrc.offset →
      reg (refuseRing s p r) g = reg s g) ∧ (∀ c, (sqOf (refuseRing s p r) p c).mode = (sqOf s p c).mode) ∧
      StoreKept s (refuseRing s p r) := by
  have h := reported_logFault s { cls := 7, code := 0x60, p := p, unitKind := 14, unitIndex := 8 * p + r, ring := r }
  exact ⟨fun hruns => logged_logFault hruns _, h.regs, fun c => by have hring := congrArg SqRing.mode (h.rings c); exact hring,
    (workKept_logFault s _).storeKept⟩

theorem sqCtrl_offset_ne (p r : Nat) :
    (Reg.sqCtrl p r).offset ≠ Reg.fltStat.offset ∧ (Reg.sqCtrl p r).offset ≠ Reg.glbIrqSrc.offset ∧
      (Reg.sqCtrl p r).offset ≠ (Reg.sqDb p r).offset := by
  simp only [Reg.offset]
  omega

theorem cqCtrl_offset_ne (p r : Nat) :
    (Reg.cqCtrl p r).offset ≠ Reg.fltStat.offset ∧ (Reg.cqCtrl p r).offset ≠ Reg.glbIrqSrc.offset := by
  simp only [Reg.offset]
  omega

theorem sqFields_odd (h : v % 2 = 1) : bitsOf v 8 3 * 2 ^ 8 + bitsOf v 16 5 * 2 ^ 16 + 1 = sqFields v := by
  rw [sqFields, h]
  omega

theorem sqFields_even (h : v % 2 = 0) : bitsOf v 8 3 * 2 ^ 8 + bitsOf v 16 5 * 2 ^ 16 = sqFields v := by
  rw [sqFields, h]
  omega

/-- A submission ring that meets R209 is enabled: its doorbell line is taken. -/
theorem writeSqCtrl_enables (hoff : regField s (.sqCtrl p r) 0 0 = 0) (hv : v % 2 = 1) (hset : sqSetUp s p r v = true) :
    writeSqCtrl s p r v =
      invalidate (modSq (setReg s (.sqCtrl p r) (sqFields v)) p r (fun q => { q with mode := .idle })) p r (instant s) := by
  unfold writeSqCtrl
  dsimp only
  rw [if_neg (by rw [hoff]; exact Nat.zero_ne_one), if_neg (by rw [hv]; exact Nat.one_ne_zero), if_pos hset, sqFields_odd hv]
  exact congrArg (invalidate _ p r) (instant_congr ((modSq_time _ _ _ _).trans (setReg_time _ _ _)))

/-- One that does not is refused. -/
theorem writeSqCtrl_refuses (hoff : regField s (.sqCtrl p r) 0 0 = 0) (hv : v % 2 = 1) (hset : sqSetUp s p r v = false) :
    writeSqCtrl s p r v = refuseRing (setReg s (.sqCtrl p r) (bitsOf v 8 3 * 2 ^ 8 + bitsOf v 16 5 * 2 ^ 16)) p r := by
  unfold writeSqCtrl
  dsimp only
  rw [if_neg (by rw [hoff]; exact Nat.zero_ne_one), if_neg (by rw [hv]; exact Nat.one_ne_zero), if_neg (by rw [hset]; exact Bool.false_ne_true)]

/-- An enabled ring that is not STOPPED is disabled. -/
theorem writeSqCtrl_disables (hon : regField s (.sqCtrl p r) 0 0 = 1) (hv : v % 2 = 0) (hmode : (sqOf s p r).mode ≠ .stopped) :
    writeSqCtrl s p r v = modSq (setReg s (.sqCtrl p r) (sqFields v)) p r (fun q =>
      { q with mode := .disabled, reads := [], batches := [], lastTail := q.fetched, burst := 0 }) := by
  unfold writeSqCtrl
  dsimp only
  rw [if_pos hon, if_neg (by rw [hv]; simp [hmode]), sqFields_even hv]

theorem sqEnabled (hoff : regField s (.sqCtrl p r) 0 0 = 0) (hv : v % 2 = 1) (hset : sqSetUp s p r v = true) :
    reg (writeSqCtrl s p r v) (.sqCtrl p r) = sqFields v ∧ (sqOf (writeSqCtrl s p r v) p r).mode = .fetch ∧
      (sqOf (writeSqCtrl s p r v) p r).reads = (sqOf s p r).reads ++ [instant s] ∧
      .lineRead (reg s (.sqDb p r)) ∈ (writeSqCtrl s p r v).out ∧ OthersKept s (writeSqCtrl s p r v) p ∧
      StoreKept s (writeSqCtrl s p r v) := by
  rw [writeSqCtrl_enables hoff hv hset]
  obtain ⟨hring, hread, hothers, hregs, hstore⟩ :=
    invalidate_takes (sqOf_modSq_same (setReg s (.sqCtrl p r) (sqFields v)) p r (fun q => { q with mode := .idle })) rfl (instant s)
  obtain ⟨-, -, hdoorbell⟩ := sqCtrl_offset_ne p r
  refine ⟨?_, by rw [hring], by rw [hring, sqOf_setReg], ?_, ?_, ?_⟩
  · rw [reg_congr hregs, reg_congr (modSq_regs _ _ _ _), reg_setReg_same]
  · rw [reg_congr (modSq_regs _ _ _ _), reg_setReg_other s _ hdoorbell] at hread
    exact hread
  · exact othersKept_trans (othersKept_setReg s _ _ p) (othersKept_trans (othersKept_modPart _ p _) hothers)
  · exact storeKept_trans (storeKept_setReg s _ _) (storeKept_trans (storeKept_modSq _ p r _) hstore)

theorem regField_bit_of_even {g : Reg} {n : Nat} (h : reg s g = 2 * n) : regField s g 0 0 = 0 := by
  simp only [regField, h, bitsOf]
  omega

theorem sqRefused (hruns : logRuns s = true) (hoff : regField s (.sqCtrl p r) 0 0 = 0) (hv : v % 2 = 1) (hset : sqSetUp s p r v = false) :
    Logged (writeSqCtrl s p r v) 7 0x60 ∧ regField (writeSqCtrl s p r v) (.sqCtrl p r) 0 0 = 0 ∧
      (sqOf (writeSqCtrl s p r v) p r).mode = (sqOf s p r).mode ∧ StoreKept s (writeSqCtrl s p r v) := by
  rw [writeSqCtrl_refuses hoff hv hset]
  obtain ⟨hlogged, hregs, hmodes, hstore⟩ := refuseRing_refuses (setReg s (.sqCtrl p r) (bitsOf v 8 3 * 2 ^ 8 + bitsOf v 16 5 * 2 ^ 16)) p r
  obtain ⟨hstat, hirq, -⟩ := sqCtrl_offset_ne p r
  rw [logRuns_setReg] at hlogged
  refine ⟨hlogged hruns, ?_, (hmodes r).trans (by rw [sqOf_setReg]), storeKept_trans (storeKept_setReg s _ _) hstore⟩
  refine regField_bit_of_even (n := bitsOf v 8 3 * 2 ^ 7 + bitsOf v 16 5 * 2 ^ 15) ?_
  rw [hregs _ hstat hirq, reg_setReg_same]
  omega

theorem sqDisabled (hon : regField s (.sqCtrl p r) 0 0 = 1) (hv : v % 2 = 0) (hmode : (sqOf s p r).mode ≠ .stopped) :
    reg (writeSqCtrl s p r v) (.sqCtrl p r) = sqFields v ∧ (sqOf (writeSqCtrl s p r v) p r).mode = .disabled ∧
      (sqOf (writeSqCtrl s p r v) p r).buffer = (sqOf s p r).buffer ∧ (sqOf (writeSqCtrl s p r v) p r).reads = [] ∧
      OthersKept s (writeSqCtrl s p r v) p ∧ StoreKept s (writeSqCtrl s p r v) := by
  rw [writeSqCtrl_disables hon hv hmode, sqOf_modSq_same, sqOf_setReg, reg_congr (modSq_regs _ _ _ _), reg_setReg_same]
  exact ⟨rfl, rfl, rfl, rfl, othersKept_trans (othersKept_setReg s _ _ p) (othersKept_modPart _ p _),
    storeKept_trans (storeKept_setReg s _ _) (storeKept_modSq _ p r _)⟩

/-! Completion rings -/

theorem writeCqCtrl_off (hv : v % 2 = 0) : writeCqCtrl s p r v = setReg s (.cqCtrl p r) (cqHeld v) := if_pos hv

/-- Waiting records of an enabled completion ring are written, and FENCEs no longer wait for them (R224). -/
def drained (u : State) (p r n : Nat) : State := settleFences (drainHeld u p r n) p

theorem writeCqCtrl_again (hv : v % 2 = 1) (hon : regField s (.cqCtrl p r) 0 0 = 1) :
    writeCqCtrl s p r v = drained (setReg s (.cqCtrl p r) (cqHeld v + 1)) p r (cqOf s p r).held.length := by
  unfold writeCqCtrl
  dsimp only
  rw [if_neg (by rw [hv]; exact Nat.one_ne_zero), if_pos (.inl hon), if_pos hon]
  rfl

theorem writeCqCtrl_enables (hv : v % 2 = 1) (hoff : regField s (.cqCtrl p r) 0 0 = 0) (hset : cqSetUp s p r v = true) :
    writeCqCtrl s p r v =
      drained (setReg (emit (countCcl s p 64 0) (.lineRead (reg s (.cqCredit p r)))) (.cqCtrl p r) (cqHeld v + 1)) p r
        (cqOf s p r).held.length := by
  unfold writeCqCtrl
  dsimp only
  rw [if_neg (by rw [hv]; exact Nat.one_ne_zero), if_pos (.inr hset), if_neg (by rw [hoff]; exact Nat.zero_ne_one)]
  rfl

theorem cqRefused (hruns : logRuns s = true) (hv : v % 2 = 1) (hoff : regField s (.cqCtrl p r) 0 0 = 0) (hset : cqSetUp s p r v = false) :
    Logged (writeCqCtrl s p r v) 7 0x60 ∧ regField (writeCqCtrl s p r v) (.cqCtrl p r) 0 0 = 0 ∧ StoreKept s (writeCqCtrl s p r v) := by
  have heq : writeCqCtrl s p r v = refuseRing (setReg s (.cqCtrl p r) (cqHeld v)) p r := by
    unfold writeCqCtrl
    dsimp only
    rw [if_neg (by rw [hv]; exact Nat.one_ne_zero), if_neg (by rw [hoff, hset]; decide)]
    rfl
  rw [heq]
  obtain ⟨hlogged, hregs, -, hstore⟩ := refuseRing_refuses (setReg s (.cqCtrl p r) (cqHeld v)) p r
  obtain ⟨hstat, hirq⟩ := cqCtrl_offset_ne p r
  rw [logRuns_setReg] at hlogged
  refine ⟨hlogged hruns, ?_, storeKept_trans (storeKept_setReg s _ _) hstore⟩
  refine regField_bit_of_even (n := bitsOf v 1 2 + bitsOf v 16 5 * 2 ^ 15) ?_
  rw [hregs _ hstat hirq, reg_setReg_same, cqHeld]
  omega

end

/-- Where no FENCE of the partition is at work, none is settled. -/
theorem settleFences_eq_self {u : State} {p : Nat} (h : ∀ f ∈ flying u p, f.done = none → ∀ w, f.phase ≠ .fence w) : settleFences u p = u := by
  unfold settleFences
  refine List.foldlRecOn (motive := fun t => t = u) _ _ rfl fun t ht f hf => ?_
  subst ht
  split
  · next w hw =>
    split
    · rfl
    · next hdone => exact absurd hw (h f hf (Option.not_isSome_iff_eq_none.mp hdone) w)
  · rfl

/-- With nothing held and no FENCE at work, enabling a completion ring drains nothing. -/
theorem drained_eq_self {u : State} {p : Nat} (r : Nat) (h : ∀ f ∈ flying u p, f.done = none → ∀ w, f.phase ≠ .fence w) :
    drained u p r 0 = u :=
  settleFences_eq_self h

end Sys2Proof.Proofs.RingSetUp
end

section
/-! SUPPORT. The companion's accesses: a register write as it arrives (R405, R407), and the window of a partition (R199). -/

namespace Sys2Proof.Proofs.CompanionAccess

open Sys2Proof Sys2Proof.Machine
open Sys2Proof.Proofs.Writes Sys2Proof.Proofs.LoggedWork Sys2Proof.Proofs.Reports

/-! Register writes -/

section
variable {s : State} {offset size v : Nat}

theorem registerWrite_unserved (h : responds s offset = false) : registerWrite s offset size v = s := if_pos h

theorem registerWrite_noRegister (h : responds s offset = true) (hreg : regAt (offset / 8 * 8) = none) :
    registerWrite s offset size v = refuseAccess s := by
  simp [registerWrite, h, hreg]

theorem registerWrite_badSize {r : Reg} (h : responds s offset = true) (hreg : regAt (offset / 8 * 8) = some r)
    (hwindow : windowReg r = false) (hw : writtenOf offset size v = none) : registerWrite s offset size v = refuseAccess s := by
  simp [registerWrite, h, hreg, hwindow, hw]

theorem registerWrite_served {r : Reg} {w : Written} (h : responds s offset = true) (hreg : regAt (offset / 8 * 8) = some r)
    (hwindow : windowReg r = false) (hw : writtenOf offset size v = some w) : registerWrite s offset size v = writeReg s r w := by
  simp [registerWrite, h, hreg, hwindow, hw]

end

theorem regAt_rmaQpArg1 : ∀ p : Fin 16, regAt ((Reg.rmaQpArg1 p.val).offset / 8 * 8) = some (.rmaQpArg1 p.val) := by decide

/-- All 64 bits of a number replaced. -/
theorem setBits_whole {old v : Nat} (hold : old < 2 ^ 64) (hv : v < 2 ^ 64) : setBits old 0 64 (bitsOf v 0 64) = v := by
  simp only [setBits, bitsOf, Nat.pow_zero, Nat.div_one, Nat.mul_one, Nat.mod_eq_of_lt hold, Nat.mod_eq_of_lt hv, Nat.sub_self, Nat.zero_add]

/-- RMA_QP_ARG1 takes the value of a whole write. -/
theorem writeReg_rmaQpArg1 {s : State} {p v : Nat} (hold : reg s (.rmaQpArg1 p) < 2 ^ 64) (hv : v < 2 ^ 64) :
    writeReg s (.rmaQpArg1 p) ⟨0, 64, v⟩ = setReg s (.rmaQpArg1 p) v := by
  have hnew := setBits_whole hold hv
  have hfields : (Reg.rmaQpArg1 p).fields.foldl (writeField (.rmaQpArg1 p) ⟨0, 64, v⟩) (s, false) =
      (setReg s (.rmaQpArg1 p) (setBits (reg s (.rmaQpArg1 p)) 0 64 (bitsOf v 0 64)), false) := rfl
  rw [hnew] at hfields
  show writeFields s (.rmaQpArg1 p) ⟨0, 64, v⟩ = _
  rw [writeFields, hfields]
  rfl

theorem registerWrite_rmaQpArg1 {s : State} (hruns : logRuns s = true) (p : Fin 16) (v : Word) (hold : reg s (.rmaQpArg1 p.val) < 2 ^ 64) :
    registerWrite s (Reg.rmaQpArg1 p.val).offset 8 v.toNat = setReg s (.rmaQpArg1 p.val) v.toNat := by
  have hwritten : writtenOf (Reg.rmaQpArg1 p.val).offset 8 v.toNat = some ⟨0, 64, v.toNat⟩ := by
    have haligned : (Reg.rmaQpArg1 p.val).offset % 8 = 0 := by simp only [Reg.offset]; omega
    rw [writtenOf, if_pos ⟨rfl, haligned⟩, Nat.mod_eq_of_lt v.isLt]
  have hserved : responds s (Reg.rmaQpArg1 p.val).offset = true := by rw [responds, hruns]; rfl
  rw [registerWrite_served hserved (regAt_rmaQpArg1 p) rfl hwritten]
  exact writeReg_rmaQpArg1 hold v.isLt

/-! What leaves the module while bytes are counted and stored -/

theorem countEvent_out (s : State) (ev : Nat) (sc : List (Nat × Nat)) (n : Nat) : (countEvent s ev sc n).out = s.out := by
  rw [countEvent_only]

theorem modUsage_out (s : State) (p : Nat) (f : Usage → Usage) : (modUsage s p f).out = s.out :=
  (countEvent_out _ _ _ _).trans (countEvent_out _ _ _ _)

theorem foldl_out {α : Type} {f : State → α → State} (hf : ∀ s a, (f s a).out = s.out) (l : List α) (s : State) :
    (l.foldl f s).out = s.out :=
  List.foldlRecOn (motive := fun t => t.out = s.out) l f rfl fun _ ht a _ => (hf _ a).trans ht

theorem countDram_out (s : State) (p a len : Nat) (write : Bool) : (countDram s p a len write).out = s.out := by
  unfold countDram
  split
  · rfl
  · rfl
  · exact (foldl_out (fun _ _ => countEvent_out _ _ _ _) _ _).trans (modUsage_out s p _)

theorem writePiece_out (s : State) (c : Piece) (bs : Bytes) : (writePiece s c bs).out = s.out := by
  unfold writePiece touchBlocks
  dsimp only
  split
  · rfl
  · split <;> rfl

theorem writePieces_out : ∀ (cs : List Piece) (s : State) (bs : Bytes), (writePieces s cs bs).out = s.out
  | [], _, _ => rfl
  | c :: cs, s, _ => (writePieces_out cs _ _).trans (writePiece_out s c _)

theorem pwrite_out (s : State) (p a : Nat) (bs : Bytes) : (pwrite s p a bs).out = s.out := by
  refine (foldl_out (fun t c => ?_) _ _).trans (writePieces_out _ s bs)
  unfold countPiece
  split
  · exact countEvent_out _ _ _ _
  · rfl

/-! The window -/

/-- The state in which an access has been counted (R207, R192). -/
def counted (s : State) (p a n inB outB : Nat) (write : Bool) : State := countCcl (countDram s p a n write) p inB outB

theorem onlyUsage_counted (s : State) (p a n inB outB : Nat) (write : Bool) : OnlyUsage p s (counted s p a n inB outB write) := by
  unfold counted countCcl
  exact (onlyUsage_countDram s p a n write).trans (onlyUsage_modUsage _ p _)

theorem counted_out (s : State) (p a n inB outB : Nat) (write : Bool) : (counted s p a n inB outB write).out = s.out := by
  unfold counted countCcl
  rw [modUsage_out, countDram_out]

section
variable {s : State} {addr p off : Nat}

theorem windowAccess_outside (h : windowAt s addr = none) (data : Option Bytes) (bad : Bool) :
    windowAccess s addr data bad = logFault s { cls := 7, code := 0x68 } := by
  rw [windowAccess, h]

theorem windowAccess_read (h : windowAt s addr = some (p, off)) :
    windowAccess s addr none false =
      emit (counted s p (2 ^ 60 + off / 64 * 64) 64 0 64 false) (.line (pread s p (2 ^ 60 + off / 64 * 64) 64) false) := by
  simp only [windowAccess, h, Bool.false_eq_true, if_false, windowAddr, counted]

/-- The entry of a line that is returned poisoned: its class and code are free values. -/
def poisonReport (s : State) : Report :=
  { cls := leNat ((freeBytes s 65).drop 64), code := leNat ((freeBytes s 66).drop 65), unitKind := 7 }

theorem poisonReport_foreign (s : State) : ¬ (poisonReport s).p < 16 := by
  simp only [poisonReport]
  omega

theorem windowAccess_poisoned (h : windowAt s addr = some (p, off)) :
    windowAccess s addr none true = spendFree (logFault
      (emit (counted s p (2 ^ 60 + off / 64 * 64) 64 0 64 false) (.line (freeBytes s 64) true)) (poisonReport s)) := by
  simp only [windowAccess, h, if_true, windowAddr, counted, poisonReport]

theorem windowAccess_write (h : windowAt s addr = some (p, off)) (bs : Bytes) (bad : Bool) :
    windowAccess s addr (some bs) bad =
      pwrite (counted s p (2 ^ 60 + off) (bs.take (64 - off % 64)).length 64 0 true) p (2 ^ 60 + off) (bs.take (64 - off % 64)) := by
  simp only [windowAccess, h, windowAddr, counted]

end

end Sys2Proof.Proofs.CompanionAccess
end

section
/-! O60: set-up. -/

namespace Sys2Proof.Proofs.SetUp

open Sys2Proof Sys2Proof.Machine
open Sys2Proof.Proofs.Writes Sys2Proof.Proofs.LoggedWork Sys2Proof.Proofs.Reports Sys2Proof.Proofs.RingSetUp Sys2Proof.Proofs.CompanionAccess

/-- A command whose meaning is the next state `t`. -/
theorem answers_of_eq {c : Instr} {s t u : State} (h : exec c s = .next u) (hu : u = t) : Answers c s t := by
  rw [Answers, h, hu]

theorem answers_gated {c : Instr} {s u t : State} (h : exec c s = .next (gate s u)) (hruns : logRuns s = true) (hu : u = t) : Answers c s t :=
  answers_of_eq h ((if_pos hruns).trans hu)

theorem answers_unserved {c : Instr} {s u : State} (h : exec c s = .next (gate s u)) (hruns : logRuns s = false) : Answers c s s :=
  answers_of_eq h (if_neg (by rw [hruns]; exact Bool.false_ne_true))

theorem not_odd_of_even {v : Nat} (h : v % 2 = 0) : ¬ v % 2 = 1 := by omega

/-- The companion's accesses reach one window and no other memory (R199). -/
theorem windowServed {s : State} {addr p off : Nat} (h : windowAt s addr = some (p, off)) :
    (∃ t, Answers (.cclWindowAccess addr none false) s t ∧ t.out = s.out ++ [.line (pread s p (2 ^ 60 + off / 64 * 64) 64) false] ∧
      StoreKept s t ∧ OthersKept s t p ∧ t.regs = s.regs) ∧
    (∃ t line, Answers (.cclWindowAccess addr none true) s t ∧ .line line true ∈ t.out ∧ StoreKept s t ∧ OthersKept s t p) ∧
    (∀ bs bad, ∃ t, Answers (.cclWindowAccess addr (some bs) bad) s t ∧
      t.dram = (pwrite s p (2 ^ 60 + off) (bs.take (64 - off % 64))).dram ∧
      t.lining = (pwrite s p (2 ^ 60 + off) (bs.take (64 - off % 64))).lining ∧ t.out = s.out ∧ OthersKept s t p ∧ t.regs = s.regs) := by
  have hu := onlyUsage_counted s p (2 ^ 60 + off / 64 * 64) 64 0 64 false
  have hpoisoned := windowAccess_poisoned h
  refine ⟨⟨_, answers_of_eq rfl (windowAccess_read h), ?_, hu.storeKept, hu.others, hu.regs⟩, ?_, fun bs bad => ?_⟩
  · rw [emit_out, counted_out]
  · generalize counted s p (2 ^ 60 + off / 64 * 64) 64 0 64 false = u at hu hpoisoned
    refine ⟨_, freeBytes s 64, answers_of_eq rfl hpoisoned, ?_, ?_, ?_⟩
    · refine (reported_logFault (emit u (.line (freeBytes s 64) true)) (poisonReport s)).out.subset ?_
      exact List.mem_append_right _ List.mem_cons_self
    · exact storeKept_trans hu.storeKept (workKept_logFault (emit u (.line (freeBytes s 64) true)) (poisonReport s)).storeKept
    · have hparts := logFault_parts (emit u (.line (freeBytes s 64) true)) (poisonReport_foreign s)
      exact othersKept_trans hu.others (othersKept_of_parts hparts p)
  · have hw := onlyUsage_counted s p (2 ^ 60 + off) (bs.take (64 - off % 64)).length 64 0 true
    have hsame := hw.sameBytes.pwrite_same (2 ^ 60 + off) (bs.take (64 - off % 64))
    have honly := hw.toOnlyWrites.trans (onlyWrites_pwrite _ p (2 ^ 60 + off) (bs.take (64 - off % 64)))
    exact ⟨_, answers_of_eq rfl (windowAccess_write h bs bad), hsame.dram, hsame.lining,
      (pwrite_out _ p _ _).trans (counted_out s p _ _ _ _ _), honly.others, honly.regs⟩

/-- Settles O60, command by command: the ring registers by the cases of `writeSqCtrl` and `writeCqCtrl`, the window by what counting and
storing leave. -/
theorem setUpTakesItsWrites : Obligations.SetUpTakesItsWrites := by
  intro s
  refine ⟨?glbLock, ?sideband, ?beforeBoot, fun hruns => ⟨?ringLock, ?counter, ?submissionRing, ?completionRing⟩, ?unserved, ?noRegister,
    ?badSize, ?plain, ?outside, fun addr p off h => windowServed h⟩
  case glbLock =>
    exact fun v => ⟨fun hv => answers_of_eq rfl (if_pos hv), fun hv => answers_of_eq rfl (if_neg (not_odd_of_even hv))⟩
  case sideband =>
    exact ⟨fun h => answers_of_eq rfl (if_pos h), fun h => answers_of_eq rfl (if_neg (by rw [h]; exact Bool.false_ne_true))⟩
  case beforeBoot =>
    exact fun hruns p i r cq v => ⟨answers_unserved rfl hruns, answers_unserved rfl hruns, answers_unserved rfl hruns⟩
  case ringLock =>
    exact fun p v => ⟨fun hv => answers_gated rfl hruns (if_pos hv), fun hv => answers_gated rfl hruns (if_neg (not_odd_of_even hv))⟩
  case counter =>
    exact fun i v => ⟨_, answers_gated rfl hruns rfl, tabGet_tabSet_same _ _ _ _, fun j hj => tabGet_tabSet_other _ _ (Ne.symm hj) _, rfl⟩
  case submissionRing =>
    intro p r v fields
    refine ⟨fun hlock h => answers_gated rfl hruns (writeRingCtrl_locked_same hlock h),
      fun hlock h => answers_gated rfl hruns (writeRingCtrl_locked_other hlock h), fun hlock hoff hv => ⟨fun hset => ?_, fun hset => ?_⟩,
      fun hlock hon hv hmode => ?_⟩
    · exact ⟨_, answers_gated rfl hruns (writeRingCtrl_open hlock false), sqEnabled hoff hv hset⟩
    · exact ⟨_, answers_gated rfl hruns (writeRingCtrl_open hlock false), sqRefused hruns hoff hv hset⟩
    · exact ⟨_, answers_gated rfl hruns (writeRingCtrl_open hlock false), sqDisabled hon hv hmode⟩
  case completionRing =>
    intro p r v held drain hlock
    have hwrite : ∀ {t}, writeCqCtrl s p.val r.val v.toNat = t → Answers (.ringEnableWrite p true r v) s t :=
      fun ht => answers_gated rfl hruns ((writeRingCtrl_open hlock true).trans ht)
    refine ⟨fun hv => hwrite (writeCqCtrl_off hv), fun hv hon => hwrite (writeCqCtrl_again hv hon),
      fun hv hoff hset => hwrite (writeCqCtrl_enables hv hoff hset), fun hv hoff hset => ⟨_, hwrite rfl, cqRefused hruns hv hoff hset⟩,
      fun u hheld hfences => ?_⟩
    simp only [drain, hheld]
    exact drained_eq_self r.val hfences
  case unserved => exact fun offset size v h => answers_of_eq rfl (registerWrite_unserved h)
  case noRegister => exact fun offset size v h hreg => answers_of_eq rfl (registerWrite_noRegister h hreg)
  case badSize => exact fun offset size v r h hreg hwindow hw => answers_of_eq rfl (registerWrite_badSize h hreg hwindow hw)
  case plain => exact fun hruns p v hold => answers_of_eq rfl (registerWrite_rmaQpArg1 hruns p v hold)
  case outside =>
    exact fun addr data bad h => ⟨_, answers_of_eq rfl (windowAccess_outside h data bad), fun hruns => logged_logFault hruns _,
      (workKept_logFault s _).storeKept, logFault_parts s (by decide)⟩

end Sys2Proof.Proofs.SetUp
end

section
/-! SUPPORT. What leaves every partition in its state, and the fault log as it is: writing memory, posting records, packets that leave, windows
and queues that are emptied. -/

namespace Sys2Proof.Proofs.UndisturbedWork

open Sys2Proof Sys2Proof.Machine
open Sys2Proof.Proofs.Writes Sys2Proof.Proofs.SealedWindows Sys2Proof.Proofs.Reports

/-- From `s` to `t` the fault log has not changed, nor has any partition's state or the cause of its reset (Table 12.5). -/
structure StatesKept (s t : State) : Prop where
  modes : ∀ q, (part t q).mode = (part s q).mode
  causes : ∀ q, (part t q).resetCause = (part s q).resetCause
  log : t.faults.log = s.faults.log

theorem StatesKept.refl (s : State) : StatesKept s s := ⟨fun _ => rfl, fun _ => rfl, rfl⟩

theorem StatesKept.trans {s t u : State} (h1 : StatesKept s t) (h2 : StatesKept t u) : StatesKept s u :=
  ⟨fun q => (h2.modes q).trans (h1.modes q), fun q => (h2.causes q).trans (h1.causes q), h2.log.trans h1.log⟩

/-- Beside that, the descriptors in flight have not changed. -/
structure Undisturbed (s t : State) : Prop extends StatesKept s t where
  inflight : t.inflight = s.inflight

theorem Undisturbed.refl (s : State) : Undisturbed s s := ⟨StatesKept.refl s, rfl⟩

theorem Undisturbed.trans {s t u : State} (h1 : Undisturbed s t) (h2 : Undisturbed t u) : Undisturbed s u :=
  ⟨h1.toStatesKept.trans h2.toStatesKept, h2.inflight.trans h1.inflight⟩

theorem Undisturbed.ite {s t u : State} {c : Prop} [Decidable c] (h1 : Undisturbed s t) (h2 : Undisturbed s u) :
    Undisturbed s (if c then t else u) := by
  split
  · exact h1
  · exact h2

theorem undisturbed_foldl {α : Type} {f : State → α → State} (hf : ∀ s a, Undisturbed s (f s a)) (l : List α) (s : State) :
    Undisturbed s (l.foldl f s) :=
  List.foldlRecOn l f (Undisturbed.refl s) (fun _ ht a _ => ht.trans (hf _ a))

/-- A change of neither partitions nor the log nor descriptors in flight. -/
theorem undisturbed_update {s : State} {out : List Output} {freeCtr : Nat} {regs : Tab Nat} {lining dram : Memory} {tiles : Tab TileMeta}
    {areas : List MarkedArea} {slots : Tab Slot} {devices : Tab Device} {collar : Collar} {shawl : Shawl} {bst : SelfTest} {dbg : Debug} :
    Undisturbed s { s with out := out, freeCtr := freeCtr, regs := regs, lining := lining, dram := dram, tiles := tiles, areas := areas,
                           slots := slots, devices := devices, collar := collar, shawl := shawl, bst := bst, dbg := dbg } :=
  ⟨⟨fun _ => rfl, fun _ => rfl, rfl⟩, rfl⟩

theorem undisturbed_modPart (s : State) (p : Nat) {f : Partition → Partition}
    (hf : ∀ x, (f x).mode = x.mode ∧ (f x).resetCause = x.resetCause) : Undisturbed s (modPart s p f) := by
  refine ⟨⟨fun q => ?_, fun q => ?_, rfl⟩, rfl⟩ <;> by_cases hq : p = q
  · rw [← hq, part_modPart_same, (hf _).1]
  · rw [part_modPart_other s f hq]
  · rw [← hq, part_modPart_same, (hf _).2]
  · rw [part_modPart_other s f hq]

theorem undisturbed_modSq (s : State) (p r : Nat) (f : SqRing → SqRing) : Undisturbed s (modSq s p r f) :=
  undisturbed_modPart s p (fun _ => ⟨rfl, rfl⟩)

theorem undisturbed_setWindow (s : State) (p : Nat) (k : WinKind) (w : Option Window) : Undisturbed s (setWindow s p k w) :=
  undisturbed_modPart s p (fun _ => by cases k <;> exact ⟨rfl, rfl⟩)

theorem undisturbed_modWindow (s : State) (p : Nat) (k : WinKind) (f : Window → Window) : Undisturbed s (modWindow s p k f) :=
  undisturbed_setWindow s p k _

/-! Records and writes -/

theorem undisturbed_posted {p : Nat} {s t : State} (h : Posted p s t) : Undisturbed s t := by
  refine ⟨⟨fun q => ?_, fun q => ?_, by rw [h.update]⟩, by rw [h.update]⟩ <;> by_cases hq : q = p
  · rw [hq, h.own]
  · rw [h.others q hq]
  · rw [hq, h.own]
  · rw [h.others q hq]

theorem undisturbed_countEvent (s : State) (ev : Nat) (sc : List (Nat × Nat)) (n : Nat) : Undisturbed s (countEvent s ev sc n) :=
  undisturbed_posted (posted_countEvent 0 s ev sc n)

theorem undisturbed_modUsage (s : State) (p : Nat) (f : Usage → Usage) : Undisturbed s (modUsage s p f) :=
  undisturbed_posted (posted_modUsage s p f)

theorem undisturbed_countDram (s : State) (p a len : Nat) (write : Bool) : Undisturbed s (countDram s p a len write) := by
  unfold countDram
  split
  · exact Undisturbed.refl s
  · exact Undisturbed.refl s
  · exact (undisturbed_modUsage s p _).trans (undisturbed_foldl (fun t c => undisturbed_countEvent t _ _ _) _ _)

theorem undisturbed_writePiece (s : State) (c : Piece) (bs : Bytes) : Undisturbed s (writePiece s c bs) := by
  unfold writePiece touchBlocks
  dsimp only
  exact Undisturbed.ite undisturbed_update (Undisturbed.ite undisturbed_update undisturbed_update)

theorem undisturbed_writePieces : ∀ (cs : List Piece) (s : State) (bs : Bytes), Undisturbed s (writePieces s cs bs)
  | [], s, _ => Undisturbed.refl s
  | c :: cs, s, _ => (undisturbed_writePiece s c _).trans (undisturbed_writePieces cs _ _)

theorem undisturbed_countPiece (p : Nat) (s : State) (c : Piece) : Undisturbed s (countPiece p s c) :=
  Undisturbed.ite (undisturbed_countEvent s _ _ _) (Undisturbed.refl s)

theorem undisturbed_pwrite (s : State) (p a : Nat) (bs : Bytes) : Undisturbed s (pwrite s p a bs) :=
  (undisturbed_writePieces _ s bs).trans (undisturbed_foldl (undisturbed_countPiece p) _ _)

theorem undisturbed_markPiece (s : State) (m : TileMeta) (mark model : Bool) (c : Piece) : Undisturbed s (markPiece s m mark model c) :=
  Undisturbed.ite undisturbed_update undisturbed_update

theorem undisturbed_writeMarked (s : State) (p a : Nat) (bs : Bytes) (m : TileMeta) (mark model : Bool) :
    Undisturbed s (writeMarked s p a bs m mark model) :=
  ((undisturbed_pwrite s p a bs).trans (undisturbed_countDram _ p a _ true)).trans
    (undisturbed_foldl (fun t c => undisturbed_markPiece t m mark model c) _ _)

theorem undisturbed_dropResident (s : State) (p first units : Nat) : Undisturbed s (dropResident s p first units) :=
  Undisturbed.ite undisturbed_update (Undisturbed.refl s)

theorem undisturbed_dropResidentAt (s : State) (p a len : Nat) : Undisturbed s (dropResidentAt s p a len) :=
  Undisturbed.ite (undisturbed_dropResident s p _ _) (Undisturbed.refl s)

theorem undisturbed_onlyFreed {s t : State} (h : OnlyFreed s t) : Undisturbed s t := by
  rw [h]
  exact undisturbed_update

theorem undisturbed_freeUnits (s : State) (p u n : Nat) : Undisturbed s (freeUnits s p u n) :=
  undisturbed_onlyFreed (onlyFreed_freeUnits p n s u)

theorem undisturbed_releaseUses (s : State) (p : Nat) (k : WinKind) : Undisturbed s (releaseUses s p k) := by
  rcases releaseUses_cases s p k with h | ⟨w, a, first, -, -, h⟩
  · rw [h]
    exact Undisturbed.refl s
  · exact (undisturbed_setWindow s p k _).trans (undisturbed_onlyFreed h)

/-- The staging area of a release that ends is wiped (R54). -/
theorem undisturbed_zeroStaging (s : State) (f : InFlight) : Undisturbed s (zeroStaging s f) := by
  unfold zeroStaging
  dsimp only
  have hwipe : ∀ o : ReleaseOps, Undisturbed s (if !toWindow o then s
      else if (part s f.h.p.val).regime = 2 then
        let k := releaseCt s f.h.p.val o
        freeUnits (dropResident s f.h.p.val (tileIx o.stageTile) ((k.2.2.level + 1) * k.1.limbUnits)) f.h.p.val (tileIx o.stageTile)
          ((k.2.2.level + 1) * k.1.limbUnits)
      else
        let n := o.count * releaseElem s f.h.p.val o
        writeMarked (dropResidentAt s f.h.p.val o.srcRef n) f.h.p.val o.srcRef (zeros n) (plainMeta 16) false false) := fun o =>
    Undisturbed.ite (Undisturbed.refl s) (Undisturbed.ite ((undisturbed_dropResident s _ _ _).trans (undisturbed_freeUnits _ _ _ _))
      ((undisturbed_dropResidentAt s _ _ _).trans (undisturbed_writeMarked _ _ _ _ _ _ _)))
  split
  · exact hwipe _
  · exact hwipe _
  · exact Undisturbed.refl s

/-! Queues and packets -/

theorem undisturbed_modPort (s : State) (i : Nat) (f : Port → Port) : Undisturbed s (modPort s i f) := undisturbed_update

theorem undisturbed_modQueue (s : State) (key : Nat) (f : CellQueue → CellQueue) : Undisturbed s (modQueue s key f) := undisturbed_update

theorem undisturbed_giveCredits (s : State) (key cells : Nat) : Undisturbed s (giveCredits s key cells) :=
  (undisturbed_modQueue s key _).trans (undisturbed_modPort _ _ _)

theorem undisturbed_growQueue (e : State × Nat) (key : Nat) : Undisturbed e.1 (growQueue e key).1 := by
  unfold growQueue
  dsimp only
  split
  · exact Undisturbed.refl _
  · split
    · exact Undisturbed.refl _
    · exact undisturbed_giveCredits _ _ _

theorem undisturbed_growDie (s : State) (d : Nat) : Undisturbed s (growDie s d) :=
  List.foldlRecOn (motive := fun e : State × Nat => Undisturbed s e.1) _ _ (Undisturbed.refl s)
    (fun e he _ _ => he.trans (undisturbed_growQueue e _))

theorem undisturbed_leaveQueue (s : State) (key cells : Nat) : Undisturbed s (leaveQueue s key cells) :=
  ((undisturbed_modQueue s key _).trans (undisturbed_giveCredits _ _ _)).trans (undisturbed_growDie _ _)

theorem undisturbed_leavePool (s : State) (b : Submission) : Undisturbed s (leavePool s b) := by
  unfold leavePool
  split
  · exact undisturbed_leaveQueue s _ _
  · exact Undisturbed.refl s

theorem undisturbed_dropPacket (s : State) (j : Nat) : Undisturbed s (dropPacket s j) := undisturbed_update

theorem undisturbed_sendPacket (s : State) (p : Nat) (k : Packet) : Undisturbed s (sendPacket s p k) := by
  have hcount := undisturbed_modUsage s p (fun u => { u with shawlTx := satAdd u.shawlTx (packetLength k) })
  unfold sendPacket
  dsimp only
  split
  · exact hcount.trans (undisturbed_dropPacket _ 2)
  · have hevent := hcount.trans (undisturbed_countEvent _ 10 [(1, p), (3, ‹Nat›)] (packetLength k))
    exact Undisturbed.ite (hcount.trans (undisturbed_dropPacket _ 2))
      (Undisturbed.ite (hevent.trans undisturbed_update) (hevent.trans (undisturbed_modPort _ _ _)))

theorem undisturbed_replyVerdict (s : State) (p : Nat) (b : Submission) (v : Verdict) : Undisturbed s (replyVerdict s p b v) :=
  undisturbed_sendPacket s p _

theorem undisturbed_dismissShawl (s : State) (p : Nat) (k : WinKind) : Undisturbed s (dismissShawl s p k) := by
  unfold dismissShawl
  split
  · exact Undisturbed.refl s
  · exact (undisturbed_foldl (fun t b => (undisturbed_leavePool t b).trans (undisturbed_replyVerdict _ p b _)) _ s).trans
      (undisturbed_modWindow _ p k _)

theorem undisturbed_modLinkKey (s : State) (p keyId : Nat) (f : LinkKey → LinkKey) : Undisturbed s (modLinkKey s p keyId f) :=
  undisturbed_update

theorem undisturbed_sealPacket (s : State) (p : Nat) (e : LinkKey) (d : Draft) : Undisturbed s (sealPacket s p e d).1 := by
  unfold sealPacket
  dsimp only
  exact (undisturbed_modLinkKey s p _ _).trans (undisturbed_modUsage _ p _)

theorem undisturbed_tearOut (k : Packet) (s : State) (i : Nat) : Undisturbed s (tearOut k s i) :=
  (undisturbed_modPort s i _).trans undisturbed_update

/-- A queue without its packets; one that still arrives is to be discarded with its last cell (R272). -/
def queueEmptied (s : State) (key : Nat) : State :=
  modQueue (if arrivingFor s key then modPort s (queuePort key) (fun x => { x with flushing := true }) else s) key
    (fun q => { q with packets := [] })

/-- A target's held packets and waiting submissions leave with their queue (R272). -/
def heldDropped (s : State) (key : Nat) : State :=
  if queueIdx key < 16 ∧ s.parts.any (fun e => e.1 == queueIdx key) then
    modPart s (queueIdx key) (fun x =>
      { x with landings := x.landings.filter (fun l => !(l.queue == some key)),
               misses := x.misses.map (fun m => { m with held := m.held.filter (fun l => !(l.queue == some key)) }),
               submit := x.submit.map (fun w => { w with waiting := w.waiting.filter (fun b => b.queue != some key) }),
               recover := x.recover.map (fun w => { w with waiting := w.waiting.filter (fun b => b.queue != some key) }) })
  else s

theorem flushQueue_eq (s : State) (key : Nat) :
    flushQueue s key = if (queueOf s key).cells = 0 then heldDropped (queueEmptied s key) key
      else leaveQueue (heldDropped (queueEmptied s key) key) key (queueOf s key).cells := rfl

theorem undisturbed_flushQueue (s : State) (key : Nat) : Undisturbed s (flushQueue s key) := by
  have hempty : Undisturbed s (queueEmptied s key) :=
    (Undisturbed.ite (undisturbed_modPort s _ _) (Undisturbed.refl s)).trans (undisturbed_modQueue _ key _)
  have hheld : Undisturbed s (heldDropped (queueEmptied s key) key) :=
    hempty.trans (Undisturbed.ite (undisturbed_modPart _ _ (fun _ => ⟨rfl, rfl⟩)) (Undisturbed.refl _))
  rw [flushQueue_eq]
  exact Undisturbed.ite hheld (hheld.trans (undisturbed_leaveQueue _ _ _))

theorem undisturbed_flushPartition (s : State) (p : Nat) : Undisturbed s (flushPartition s p) :=
  undisturbed_foldl (fun t _ => undisturbed_flushQueue t _) _ s

/-! A partition's own store -/

theorem undisturbed_raiseIrq (s : State) (bits : Nat) : Undisturbed s (raiseIrq s bits) := by
  unfold raiseIrq
  exact Undisturbed.ite undisturbed_update (Undisturbed.ite undisturbed_update undisturbed_update)

theorem undisturbed_abortTestOf (s : State) (p : Nat) : Undisturbed s (abortTestOf s p) := by
  unfold abortTestOf abortTest
  split
  · exact Undisturbed.ite (Undisturbed.ite (Undisturbed.trans undisturbed_update (undisturbed_raiseIrq _ 64)) (Undisturbed.refl s))
      (Undisturbed.refl s)
  · exact Undisturbed.refl s

theorem undisturbed_endFetched (ref p : Nat) (s : State) (r : Nat) : Undisturbed s (endFetched ref p s r) :=
  (undisturbed_modSq s p r _).trans (undisturbed_foldl (fun t _ => undisturbed_posted (posted_postRecord t p _ _)) _ _)

theorem undisturbed_takeRecord (s : State) (trigger ref : Nat) : Undisturbed s (takeRecord s trigger ref) :=
  ⟨⟨fun _ => rfl, fun _ => rfl, rfl⟩, rfl⟩

theorem undisturbed_sample (s : State) (p trigger ref : Nat) (fs : List InFlight) : Undisturbed s (sample s p trigger ref fs) := by
  unfold sample
  dsimp only
  have hcounted : Undisturbed s (modPart s p (fun y => { y with dumpCtr := y.dumpCtr + 1 })) := undisturbed_modPart s p (fun _ => ⟨rfl, rfl⟩)
  split
  · exact Undisturbed.refl s
  · exact Undisturbed.ite (Undisturbed.refl s) (Undisturbed.ite hcounted (hcounted.trans (undisturbed_writeMarked _ _ _ _ _ _ _)))

theorem undisturbed_emptyWindow (s : State) (p : Nat) (k : WinKind) : Undisturbed s (emptyWindow s p k) := by
  unfold emptyWindow
  split
  · exact Undisturbed.refl s
  · exact Undisturbed.ite ((undisturbed_setWindow s p k _).trans (undisturbed_releaseUses _ p k)) (undisturbed_releaseUses s p k)

theorem undisturbed_modRound (s : State) (p round : Nat) (f : Round → Round) : Undisturbed s (modRound s p round f) :=
  undisturbed_modPart s p (fun _ => ⟨rfl, rfl⟩)

theorem undisturbed_eraseArea (s : State) (p round : Nat) : Undisturbed s (eraseArea s p round) := by
  unfold eraseArea
  dsimp only
  split
  · exact (undisturbed_modRound s p round _).trans (undisturbed_freeUnits _ _ _ _)
  · exact undisturbed_modRound s p round _

theorem undisturbed_loseRounds (s : State) (p : Nat) : Undisturbed s (loseRounds s p) :=
  undisturbed_foldl (fun t _ => (undisturbed_modRound t p _ _).trans (undisturbed_eraseArea _ p _)) _ s

theorem undisturbed_healUnits (s : State) (p : Nat) : Undisturbed s (healUnits s p) :=
  (undisturbed_foldl (fun _ _ => undisturbed_update) _ s).trans (undisturbed_modPart _ p (f := fun x => { x with bad := [] }) (fun _ => ⟨rfl, rfl⟩))

end Sys2Proof.Proofs.UndisturbedWork
end

section
/-! SUPPORT. Descriptors that an event ends (R79, R227, R275 to R277): the descriptors of other partitions go on as they were, and no
partition changes its state. -/

namespace Sys2Proof.Proofs.EndedFlights

open Sys2Proof Sys2Proof.Machine
open Sys2Proof.Proofs.Starting Sys2Proof.Proofs.UndisturbedWork

/-- Descriptors in flight have numbers of their own. -/
def DistinctIds (s : State) : Prop := ∀ f ∈ s.inflight, ∀ g ∈ s.inflight, f.id = g.id → f = g

theorem distinctIds_of_ordered {s : State} (h : FlightsOrdered s) : DistinctIds s := by
  intro f hf g hg hid
  have heq := flight_of_mem h hf
  rw [hid, flight_of_mem h hg] at heq
  exact (Option.some.inj heq).symm

/-- From `s` to `t` descriptors of partitions in `P` may have ended or moved; they keep their numbers and headers, and those of other
partitions are as they were. -/
structure EndsWithin (P : Nat → Prop) (s t : State) : Prop extends StatesKept s t where
  flights : ∃ g : InFlight → InFlight, t.inflight = s.inflight.map g ∧ (∀ f, (g f).id = f.id ∧ (g f).h = f.h) ∧
    (DistinctIds s → ∀ f ∈ s.inflight, ¬ P f.h.p.val → g f = f)

theorem endsWithin_of {P : Nat → Prop} {s t : State} (h : Undisturbed s t) : EndsWithin P s t :=
  ⟨h.toStatesKept, id, by rw [h.inflight, List.map_id], fun _ => ⟨rfl, rfl⟩, fun _ _ _ _ => rfl⟩

theorem EndsWithin.distinct {P : Nat → Prop} {s t : State} (h : EndsWithin P s t) (hs : DistinctIds s) : DistinctIds t := by
  obtain ⟨g, hinflight, hkeep, -⟩ := h.flights
  intro x hx y hy hid
  rw [hinflight] at hx hy
  obtain ⟨f, hf, rfl⟩ := List.mem_map.mp hx
  obtain ⟨f', hf', rfl⟩ := List.mem_map.mp hy
  rw [(hkeep f).1, (hkeep f').1] at hid
  rw [hs f hf f' hf' hid]

theorem EndsWithin.trans {P : Nat → Prop} {s t u : State} (h1 : EndsWithin P s t) (h2 : EndsWithin P t u) : EndsWithin P s u := by
  obtain ⟨g, hinflight, hkeep, hspared⟩ := h1.flights
  obtain ⟨g', hinflight', hkeep', hspared'⟩ := h2.flights
  refine ⟨h1.toStatesKept.trans h2.toStatesKept, g' ∘ g, by rw [hinflight', hinflight, List.map_map],
    fun f => ⟨(hkeep' _).1.trans (hkeep f).1, (hkeep' _).2.trans (hkeep f).2⟩, fun hs f hf hP => ?_⟩
  have hsame := hspared hs f hf hP
  rw [Function.comp_apply, hsame]
  exact hspared' (h1.distinct hs) f (by rw [hinflight]; exact List.mem_map.mpr ⟨f, hf, hsame⟩) hP

theorem EndsWithin.mono {P Q : Nat → Prop} {s t : State} (h : EndsWithin P s t) (hPQ : ∀ p, P p → Q p) : EndsWithin Q s t := by
  obtain ⟨g, hinflight, hkeep, hspared⟩ := h.flights
  exact ⟨h.toStatesKept, g, hinflight, hkeep, fun hs f hf hQ => hspared hs f hf fun hP => hQ (hPQ _ hP)⟩

theorem endsWithin_foldl {α : Type} {P : Nat → Prop} {f : State → α → State} (hf : ∀ s a, EndsWithin P s (f s a)) (l : List α) (s : State) :
    EndsWithin P s (l.foldl f s) :=
  List.foldlRecOn l f (endsWithin_of (Undisturbed.refl s)) (fun _ ht a _ => ht.trans (hf _ a))

/-- How a descriptor is found after others have ended. -/
theorem EndsWithin.flight_map {P : Nat → Prop} {s t : State} (h : EndsWithin P s t) :
    ∃ g : InFlight → InFlight, (∀ f, (g f).h = f.h) ∧ ∀ id, flight t id = (flight s id).map g := by
  obtain ⟨g, hinflight, hkeep, -⟩ := h.flights
  refine ⟨g, fun f => (hkeep f).2, fun id => ?_⟩
  have hid : (fun f : InFlight => f.id == id) ∘ g = fun f => f.id == id := funext fun f => by rw [Function.comp_apply, (hkeep f).1]
  rw [flight, hinflight, List.find?_map, hid]
  rfl

/-- A descriptor of a partition that nothing ends is found as it was. -/
theorem EndsWithin.flight_spared {P : Nat → Prop} {s t : State} (h : EndsWithin P s t) (hs : DistinctIds s) {id : Nat} {f : InFlight}
    (hf : flight s id = some f) (hP : ¬ P f.h.p.val) : flight t id = some f := by
  obtain ⟨g, hinflight, hkeep, hspared⟩ := h.flights
  have hid : (fun f : InFlight => f.id == id) ∘ g = fun f => f.id == id := funext fun f => by rw [Function.comp_apply, (hkeep f).1]
  rw [flight, hinflight, List.find?_map, hid]
  have hfind : s.inflight.find? (fun f => f.id == id) = some f := hf
  rw [hfind, Option.map_some, hspared hs f (List.mem_of_find?_eq_some hfind) hP]

/-! One descriptor ends -/

/-- A number is one of the descriptors of partitions in `P`, where numbers are distinct. -/
def Owned (P : Nat → Prop) (s : State) (id : Nat) : Prop := DistinctIds s → ∀ x ∈ s.inflight, x.id = id → P x.h.p.val

theorem EndsWithin.owned {P Q : Nat → Prop} {s t : State} (h : EndsWithin Q s t) {f : InFlight} (hf : f ∈ s.inflight) (hP : P f.h.p.val) :
    Owned P t f.id := by
  obtain ⟨g, hinflight, hkeep, -⟩ := h.flights
  intro ht x hx hid
  rw [hinflight] at hx
  obtain ⟨y, hy, rfl⟩ := List.mem_map.mp hx
  have hgf : g f ∈ t.inflight := by rw [hinflight]; exact List.mem_map_of_mem hf
  have hgy : g y ∈ t.inflight := by rw [hinflight]; exact List.mem_map_of_mem hy
  have hsame : g y = g f := ht _ hgy _ hgf (hid.trans (hkeep f).1.symm)
  rw [hsame, (hkeep f).2]
  exact hP

theorem owned_congr {P : Nat → Prop} {s t : State} (h : t.inflight = s.inflight) {id : Nat} (hs : Owned P s id) : Owned P t id := by
  unfold Owned DistinctIds at *
  rw [h]
  exact hs

theorem endsWithin_finishRef {P : Nat → Prop} {s : State} {id : Nat} (h : Owned P s id) (st : Status) (r ref : Nat) :
    EndsWithin P s (finishRef s id st r ref) := by
  refine ⟨⟨fun _ => rfl, fun _ => rfl, rfl⟩, _, rfl, fun f => ?_, fun hs f hf hP => if_neg fun hid => hP (h hs f hf hid)⟩
  dsimp only
  split <;> exact ⟨rfl, rfl⟩

theorem undisturbed_staged (s : State) (f : InFlight) : Undisturbed s (if f.done.isNone then zeroStaging s f else s) :=
  Undisturbed.ite (undisturbed_zeroStaging s f) (Undisturbed.refl s)

theorem endsWithin_endFlight {P : Nat → Prop} {s : State} {f : InFlight} (h : Owned P s f.id) (st : Status) (ref : Nat) :
    EndsWithin P s (endFlight s f st ref) :=
  (endsWithin_of (undisturbed_staged s f)).trans (endsWithin_finishRef (owned_congr (undisturbed_staged s f).inflight h) st _ ref)

/-- Ending descriptors of partitions in `P` one after another. -/
theorem endsWithin_endEach {P : Nat → Prop} {step : State → InFlight → State}
    (hstep : ∀ (t : State) (f : InFlight), Owned P t f.id → EndsWithin P t (step t f)) {l : List InFlight} {s : State}
    (hl : ∀ f ∈ l, f ∈ s.inflight ∧ P f.h.p.val) : EndsWithin P s (l.foldl step s) :=
  List.foldlRecOn (motive := EndsWithin P s) l step (endsWithin_of (Undisturbed.refl s)) fun t ht f hf =>
    ht.trans (hstep t f (ht.owned (hl f hf).1 (hl f hf).2))

theorem endsWithin_endFlights (s : State) (p : Nat) (test : InFlight → Bool) (st : Status) (ref : Nat) :
    EndsWithin (· = p) s (endFlights s p test st ref) :=
  endsWithin_endEach (fun _ _ h => endsWithin_endFlight h st ref) fun _ hf => mem_inflight_of_flying (List.mem_filter.mp hf).1

/-- A descriptor has ended with a status and holds no unit. -/
def EndedWith (st : Status) (s : State) (id : Nat) : Prop := ∃ g d, flight s id = some g ∧ g.done = some d ∧ d.status = st ∧ g.reserved = []

theorem endedWith_endFlight_same {s : State} {f : InFlight} {st : Status} (h : (flight s f.id).isSome) (ref : Nat) :
    EndedWith st (endFlight s f st ref) f.id := by
  obtain ⟨g, hg⟩ := Option.isSome_iff_exists.mp h
  rw [EndedWith, endFlight, flight_finishRef, Writes.flight_congr (undisturbed_staged s f).inflight, hg]
  exact ⟨_, _, rfl, rfl, rfl, rfl⟩

theorem EndedWith.endFlight {s : State} {st : Status} {id : Nat} (h : EndedWith st s id) (f : InFlight) (ref : Nat) :
    EndedWith st (endFlight s f st ref) id := by
  obtain ⟨g, d, hg, hended⟩ := h
  by_cases hid : f.id = id
  · subst hid
    exact endedWith_endFlight_same (by rw [hg]; rfl) ref
  · have hother : flight (Machine.endFlight s f st ref) id = flight (if f.done.isNone then zeroStaging s f else s) id :=
      flight_modFlight_other _ hid (fun _ => rfl)
    exact ⟨g, d, by rw [hother, Writes.flight_congr (undisturbed_staged s f).inflight, hg], hended⟩

/-- Each descriptor of a partition that was at work has ended. -/
theorem endedWith_endFlights {s : State} {p : Nat} {st : Status} {f : InFlight} (hs : FlightsOrdered s) (hf : f ∈ flying s p)
    (hdone : f.done = none) (ref : Nat) : EndedWith st (endFlights s p (fun _ => true) st ref) f.id := by
  obtain ⟨hmem, -⟩ := mem_inflight_of_flying hf
  have hwork : f ∈ (flying s p).filter (fun f => f.done.isNone && true) := List.mem_filter.mpr ⟨hf, by rw [hdone]; rfl⟩
  obtain ⟨before, after, hsplit⟩ := List.append_of_mem hwork
  have hbefore : EndsWithin (· = p) s (before.foldl (fun t f => endFlight t f st ref) s) :=
    endsWithin_endEach (fun _ _ h => endsWithin_endFlight h st ref) fun g hg =>
      mem_inflight_of_flying (List.mem_filter.mp (hsplit ▸ List.mem_append_left _ hg)).1
  obtain ⟨g, -, hflight⟩ := hbefore.flight_map
  rw [endFlights, hsplit, List.foldl_append, List.foldl_cons]
  refine List.foldlRecOn (motive := fun t => EndedWith st t f.id) after _ (endedWith_endFlight_same ?_ ref) fun t ht f' _ => ht.endFlight f' ref
  rw [hflight, flight_of_mem hs hmem]
  rfl

/-! Tears -/

theorem endsWithin_errorQp (s : State) (p n : Nat) (st : Status) : EndsWithin (· = p) s (errorQp s p n st) := by
  unfold errorQp
  split
  · exact endsWithin_of (Undisturbed.refl s)
  · split
    · have hqp : Undisturbed s (modQp s p n (fun c => { c with ready := false, errStatus := st })) :=
        undisturbed_modPart s p (fun x => by split <;> exact ⟨rfl, rfl⟩)
      refine (endsWithin_of hqp).trans (endsWithin_endEach (fun _ _ h => endsWithin_finishRef h st 0 0) fun f hf => ?_)
      exact mem_inflight_of_flying (List.mem_filter.mp (List.mem_filter.mp hf).1).1
    · exact endsWithin_of (Undisturbed.refl s)

theorem endsWithin_errorQps (s : State) (p : Nat) (test : Qp → Bool) (st : Status) : EndsWithin (· = p) s (errorQps s p test st) := by
  unfold errorQps
  exact (endsWithin_foldl (fun t (q : Qp) => endsWithin_errorQp t p q.qpn st) _ s).trans
    (endsWithin_of (undisturbed_modPart _ p (fun _ => ⟨rfl, rfl⟩)))

theorem endsWithin_abortWindow (s : State) (p : Nat) (k : WinKind) (st : Status) (ref : Nat) :
    EndsWithin (· = p) s (abortWindow s p k st ref) := by
  unfold abortWindow
  split
  · exact endsWithin_of (Undisturbed.refl s)
  · split
    · exact (endsWithin_endFlights s p _ st ref).trans (endsWithin_of
        (((undisturbed_dismissShawl _ p k).trans (undisturbed_modWindow _ p k _)).trans (undisturbed_releaseUses _ p k)))
    · exact endsWithin_of (Undisturbed.refl s)

theorem endsWithin_abortWindows (s : State) (p : Nat) (st : Status) (ref : Nat) : EndsWithin (· = p) s (abortWindows s p st ref) :=
  (endsWithin_abortWindow s p .submit st ref).trans (endsWithin_abortWindow _ p .recover st ref)

/-- What a member does on a tear touches its own descriptors only (R276). -/
theorem endsWithin_tearMember (s : State) (p keyId : Nat) : EndsWithin (· = p) s (tearMember s p keyId) :=
  (((endsWithin_of (undisturbed_modLinkKey s p keyId _)).trans (endsWithin_endFlights _ p _ stTorn 0)).trans
    (endsWithin_errorQps _ p _ stTorn)).trans (endsWithin_abortWindows _ p stTorn 0)

/-- A tear takes its number and is sealed under its key (R275). -/
def tearSealed (s : State) (p : Nat) (e : LinkKey) (r : TearReason) : State × Packet :=
  sealPacket { s with shawl := { s.shawl with lastTear := (s.shawl.lastTear + 1) % 2 ^ 32 } } p e
    (tearDraft (part s p).gen ((s.shawl.lastTear + 1) % 2 ^ 32) r)

/-- It leaves by every port that carries packets. -/
def tearSent (s : State) (p : Nat) (e : LinkKey) (r : TearReason) : State :=
  (tearPorts (tearSealed s p e r).1 7).foldl (tearOut (tearSealed s p e r).2) (tearSealed s p e r).1

theorem undisturbed_tearSent (s : State) (p : Nat) (e : LinkKey) (r : TearReason) : Undisturbed s (tearSent s p e r) :=
  (Undisturbed.trans undisturbed_update (undisturbed_sealPacket _ p e _)).trans
    (undisturbed_foldl (undisturbed_tearOut (tearSealed s p e r).2) _ _)

theorem originateTear_eq {s : State} {p keyId : Nat} {e : LinkKey} (he : linkKey s p keyId = some e) (hsends : keySends s p keyId = true)
    (r : TearReason) : originateTear s p keyId r =
      ((tearMembers (tearSent s p e r) (tearSealed s p e r).2).filter (fun q => q != p)).foldl (fun t q => tearMember t q keyId)
        (tearSent s p e r) := by
  rw [originateTear, he]
  exact if_neg (by rw [hsends]; exact Bool.false_ne_true)

/-- A tear that a partition originates ends no descriptor of its own (R275). -/
theorem endsWithin_originateTear (s : State) (p keyId : Nat) (r : TearReason) : EndsWithin (· ≠ p) s (originateTear s p keyId r) := by
  cases he : linkKey s p keyId with
  | none =>
    rw [originateTear, he]
    exact endsWithin_of (Undisturbed.refl s)
  | some e =>
    cases hsends : keySends s p keyId with
    | false =>
      have hsilent : originateTear s p keyId r = s := by
        rw [originateTear, he]
        exact if_pos (by rw [hsends]; rfl)
      rw [hsilent]
      exact endsWithin_of (Undisturbed.refl s)
    | true =>
      rw [originateTear_eq he hsends]
      refine List.foldlRecOn (motive := EndsWithin (· ≠ p) s) _ _ (endsWithin_of (undisturbed_tearSent s p e r)) fun t ht q hq => ht.trans ?_
      have hother : q ≠ p := bne_iff_ne.mp (List.mem_filter.mp hq).2
      exact (endsWithin_tearMember t q keyId).mono fun _ h => h ▸ hother

theorem endsWithin_tearOwn (s : State) (p : Nat) (r : TearReason) : EndsWithin (· ≠ p) s (tearOwn s p r) :=
  (endsWithin_foldl (fun t _ => endsWithin_originateTear t p _ r) _ s).trans (endsWithin_of undisturbed_update)

end Sys2Proof.Proofs.EndedFlights
end

section
/-! SUPPORT. How a partition fault goes on (R203, R306, R381): the partition's descriptors end and tears are sent, or its reset begins. -/

namespace Sys2Proof.Proofs.FaultedPartition

open Sys2Proof Sys2Proof.Machine
open Sys2Proof.Proofs.Starting Sys2Proof.Proofs.UndisturbedWork Sys2Proof.Proofs.EndedFlights

/-! The reset -/

/-- Without a descriptor in flight, a reset posts what its rings had fetched. -/
theorem undisturbed_endDescriptors {s : State} {p : Nat} (h : flying s p = []) (ref : Nat) : Undisturbed s (endDescriptors s p ref) := by
  have hlost : Undisturbed s (modPart s p (fun x => { x with sq := x.sq.map (fun e => (e.1, { e.2 with lost := 0 })) })) :=
    undisturbed_modPart s p (fun _ => ⟨rfl, rfl⟩)
  generalize hu : modPart s p (fun x => { x with sq := x.sq.map (fun e => (e.1, { e.2 with lost := 0 })) }) = u at hlost
  have hfree : flying u p = [] := by rw [flying, hlost.inflight]; exact h
  have hcharge : chargePasses u p = u := by rw [chargePasses, busyEngines, hfree]; rfl
  have hcommit : drainCommits u p = u := by rw [drainCommits, hfree]; rfl
  have hend : endFlights u p (fun _ => true) stReset ref = u := by rw [endFlights, hfree]; rfl
  have hpost : postDone u p 256 = u := by simp only [postDone, hfree, firstDone]
  unfold endDescriptors
  simp only [hu, hcharge, hcommit, hpost, hend]
  exact (hlost.trans (undisturbed_foldl (undisturbed_endFetched ref p) _ u)).trans undisturbed_update

/-- The steps of a reset leave every partition's state, where the partition has no descriptor in flight. -/
theorem statesKept_resetSteps {s : State} {p : Nat} (h : flying s p = []) (trigger ref : Nat) (tear : TearReason) :
    StatesKept s (resetSteps s p trigger ref tear) := by
  have hrecord := (undisturbed_takeRecord s trigger ref).trans (undisturbed_abortTestOf _ p)
  have hfree : flying (abortTestOf (takeRecord s trigger ref) p) p = [] := by rw [flying, hrecord.inflight]; exact h
  have hstopped := (hrecord.trans (undisturbed_endDescriptors hfree ref)).trans (undisturbed_flushPartition _ p)
  have htorn := hstopped.toStatesKept.trans (endsWithin_tearOwn _ p tear).toStatesKept
  have hwindows := (htorn.trans (undisturbed_sample _ p trigger ref (flying (takeRecord s trigger ref) p)).toStatesKept).trans
    ((endsWithin_abortWindows _ p stReset ref).toStatesKept.trans
      ((undisturbed_emptyWindow _ p .submit).trans (undisturbed_emptyWindow _ p .recover)).toStatesKept)
  exact hwindows.trans (((undisturbed_loseRounds _ p).trans (undisturbed_healUnits _ p)).trans undisturbed_update).toStatesKept

theorem collarQueue_parts (s : State) (slot : Nat) (j : CollarJob) : (collarQueue s slot j).parts = s.parts := rfl

/-- A reset that begins: the partition is RESETTING, and its Collar slot is asked for step 6 (R382). -/
theorem beginReset_begins {s : State} {p : Nat} (h : flying s p = []) (cause ref : Nat) :
    (part (beginReset s p cause ref) p).mode = .resetting ∧ (part (beginReset s p cause ref) p).resetCause = cause ∧
      ∃ l, (beginReset s p cause ref).collar.waiting = l ++ [(p, .reset p)] := by
  have hfree : flying (modPart s p (fun x => { x with mode := .resetting, resetCause := cause })) p = [] := h
  have hbegun := part_modPart_same s p (fun x => { x with mode := .resetting, resetCause := cause })
  unfold beginReset
  dsimp only
  generalize modPart s p (fun x => { x with mode := .resetting, resetCause := cause }) = u at hbegun hfree ⊢
  have hkept := statesKept_resetSteps hfree (if cause = 2 then 1 else 2) ref (if cause = 2 then .fault else .reset)
  rw [Writes.part_congr (collarQueue_parts _ p _), hkept.modes, hkept.causes, hbegun]
  exact ⟨rfl, rfl, _, rfl⟩

/-! The fault -/

/-- A fault starts the partition's reset where automatic resets are on and nothing stands against them (R381, R387). -/
def Resets (s : State) : Prop :=
  regField s .fltCtrl 0 0 = 1 ∧ servesResets s = true ∧ s.faults.computing = false ∧ s.faults.mode ≠ .boot

/-- The partition as a fault leaves it. -/
def markFaulted (s : State) (p ref : Nat) : State := modPart s p (fun x => { x with mode := .faulted, faultRef := ref })

theorem faultPartition_quiet {s : State} {p : Nat} (h : ¬ ((part s p).mode = .live ∨ (part s p).mode = .faulted)) (ref : Nat) :
    faultPartition s p ref = s :=
  if_pos (not_or.mp h)

theorem faultPartition_resets {s : State} {p : Nat} (h : (part s p).mode = .live ∨ (part s p).mode = .faulted) (hresets : Resets s)
    (ref : Nat) : faultPartition s p ref = beginReset (markFaulted s p ref) p 2 ref := by
  unfold faultPartition
  rw [if_neg (not_and_or.mpr (h.imp not_not_intro not_not_intro))]
  exact if_pos hresets

theorem faultPartition_ends {s : State} {p : Nat} (h : (part s p).mode = .live ∨ (part s p).mode = .faulted) (hresets : ¬ Resets s)
    (ref : Nat) : faultPartition s p ref = tearOwn (endFlights (markFaulted s p ref) p (fun _ => true) stReset ref) p .fault := by
  unfold faultPartition
  rw [if_neg (not_and_or.mpr (h.imp not_not_intro not_not_intro))]
  exact if_neg hresets

/-- Without a reset the partition is FAULTED, the log stands, and each of its descriptors that was at work has ended PARTITION_RESET. -/
theorem faultedPartition {s : State} {p : Nat} (hs : FlightsOrdered s) (ref : Nat) :
    let t := tearOwn (endFlights (markFaulted s p ref) p (fun _ => true) stReset ref) p .fault
    (part t p).mode = .faulted ∧ t.faults.log = s.faults.log ∧ ∀ f ∈ flying s p, f.done = none → EndedWith stReset t f.id := by
  intro t
  have hends := endsWithin_endFlights (markFaulted s p ref) p (fun _ => true) stReset ref
  have htears := endsWithin_tearOwn (endFlights (markFaulted s p ref) p (fun _ => true) stReset ref) p .fault
  have hmarked : FlightsOrdered (markFaulted s p ref) := hs
  refine ⟨?_, htears.log.trans hends.log, fun f hf hdone => ?_⟩
  · rw [htears.modes p, hends.modes p, markFaulted, part_modPart_same]
  · obtain ⟨g, d, hg, hended⟩ := endedWith_endFlights (st := stReset) hmarked hf hdone ref
    obtain ⟨keep, hkeep, hflight⟩ := hends.flight_map
    obtain ⟨hmem, hp⟩ := mem_inflight_of_flying hf
    have hown : g.h.p.val = p := by
      rw [hflight, flight_of_mem hmarked hmem] at hg
      rw [← Option.some.inj hg, hkeep, hp]
    exact ⟨g, d, htears.flight_spared (hends.distinct (distinctIds_of_ordered hmarked)) hg (not_not_intro hown), hended⟩

end Sys2Proof.Proofs.FaultedPartition
end

section
/-! SUPPORT. An uncorrectable error or a fault of a partition's unit (R203, Tables 7.6 and 16.1): how it is logged, and what it does to the
partition whose data it held. -/

namespace Sys2Proof.Proofs.FaultSites

open Sys2Proof Sys2Proof.Machine
open Sys2Proof.Proofs.Writes Sys2Proof.Proofs.Starting Sys2Proof.Proofs.Reports
open Sys2Proof.Proofs.UndisturbedWork Sys2Proof.Proofs.EndedFlights Sys2Proof.Proofs.FaultedPartition

/-- PARTITION_FAULT leaves the state of `faultAt`, and no other. -/
theorem answers_partitionFault_iff {site : FaultSite} {s t : State} : Answers (.partitionFault site) s t ↔ faultAt s site = t :=
  ⟨Host.Outcome.next.inj, congrArg Host.Outcome.next⟩

/-! Data that is a partition's -/

/-- The state in which a partition's error has been logged. -/
def faultLogged (s : State) (site : FaultSite) (p code kind index detail : Nat) : State :=
  logFault (loseUnit s p site) { cls := 4, code := code, p := p, unitKind := kind, unitIndex := index, detail := detail }

section
variable {s : State} {site : FaultSite} {p code kind index detail : Nat}

theorem faultAt_owned (h : siteReport s site = (some p, code, kind, index, detail)) :
    faultAt s site = faultPartition (faultLogged s site p code kind index detail) p
      (faultRef (faultLogged s site p code kind index detail)) := by
  simp only [faultAt, h, faultLogged]

theorem undisturbed_loseUnit (s : State) (p : Nat) (site : FaultSite) : Undisturbed s (loseUnit s p site) := by
  cases site with
  | pocketUnit v u => unfold loseUnit; exact undisturbed_modPart s p (fun _ => ⟨rfl, rfl⟩)
  | granule g burst => exact undisturbed_update
  | poisonedLine q => exact Undisturbed.refl s
  | cipherContext v => exact Undisturbed.refl s
  | privateWire v => exact Undisturbed.refl s

theorem loseUnit_kept (s : State) (p : Nat) (site : FaultSite) :
    (loseUnit s p site).regs = s.regs ∧ (loseUnit s p site).faults = s.faults ∧ (loseUnit s p site).collar = s.collar ∧
      (loseUnit s p site).nextId = s.nextId := by
  cases site <;> exact ⟨rfl, rfl, rfl, rfl⟩

theorem reported_faultLogged (s : State) (site : FaultSite) (p code kind index detail : Nat) :
    Reported p (loseUnit s p site) (faultLogged s site p code kind index detail) :=
  reported_logFault (loseUnit s p site) { cls := 4, code := code, p := p, unitKind := kind, unitIndex := index, detail := detail }

theorem logged_faultLogged (hruns : logRuns s = true) : Logged (faultLogged s site p code kind index detail) 4 code := by
  obtain ⟨-, -, hcollar, -⟩ := loseUnit_kept s p site
  exact logged_logFault ((logRuns_congr (congrArg Collar.bootStatus hcollar)).trans hruns) _

theorem faultLogged_mode : (part (faultLogged s site p code kind index detail) p).mode = (part s p).mode := by
  rw [(reported_faultLogged s site p code kind index detail).own]
  exact (undisturbed_loseUnit s p site).modes p

theorem faultLogged_inflight : (faultLogged s site p code kind index detail).inflight = s.inflight :=
  (reported_faultLogged s site p code kind index detail).inflight.trans (undisturbed_loseUnit s p site).inflight

theorem faultLogged_flying (q : Nat) : flying (faultLogged s site p code kind index detail) q = flying s q := by
  rw [flying, faultLogged_inflight, flying]

theorem faultLogged_ordered (hs : FlightsOrdered s) : FlightsOrdered (faultLogged s site p code kind index detail) := by
  obtain ⟨-, -, -, hnext⟩ := loseUnit_kept s p site
  have hid : (faultLogged s site p code kind index detail).nextId = s.nextId := by
    rw [(reported_faultLogged s site p code kind index detail).update, hnext]
  rw [FlightsOrdered, faultLogged_inflight, hid]
  exact hs

/-- Logging an error does not change whether a fault starts a reset. -/
theorem faultLogged_resets : Resets (faultLogged s site p code kind index detail) ↔ Resets s := by
  obtain ⟨hregs, hfaults, -, -⟩ := loseUnit_kept s p site
  have hreported := reported_faultLogged s site p code kind index detail
  have hctrl : regField (faultLogged s site p code kind index detail) .fltCtrl 0 0 = regField s .fltCtrl 0 0 :=
    (hreported.regField (by decide) (by decide) 0 0).trans (regField_congr (reg_congr hregs _) 0 0)
  have hmode : (faultLogged s site p code kind index detail).faults.mode = s.faults.mode := by rw [hreported.update, hfaults]
  have hcomputing : (faultLogged s site p code kind index detail).faults.computing = s.faults.computing := by
    rw [hreported.update, hfaults]
  simp only [Resets, hctrl, servesResets, hmode, hcomputing]

end

/-- Where an error's data is a partition's: it is logged, and a LIVE or FAULTED partition is faulted (R203). -/
theorem ownedFault {s : State} (hs : FlightsOrdered s) {site : FaultSite} {p code kind index detail : Nat}
    (h : siteReport s site = (some p, code, kind, index, detail)) :
    let runs := (part s p).mode = .live ∨ (part s p).mode = .faulted
    let logged := fun t : State => logRuns s = true → Logged t 4 code
    (¬ runs → ∃ t, Answers (.partitionFault site) s t ∧ logged t ∧ (part t p).mode = (part s p).mode ∧ t.inflight = s.inflight) ∧
    (runs → ¬ Resets s → ∃ t, Answers (.partitionFault site) s t ∧ (part t p).mode = .faulted ∧ logged t ∧
      (∀ f ∈ flying s p, f.done = none → ∃ g d, flight t f.id = some g ∧ g.done = some d ∧ d.status = stReset ∧ g.reserved = [])) ∧
    (runs → Resets s →
      (∃ w, Answers (.partitionFault site) s (beginReset w p 2 (part w p).faultRef) ∧ (part w p).mode = .faulted ∧ logged w) ∧
      (flying s p = [] → ∃ t l, Answers (.partitionFault site) s t ∧ (part t p).mode = .resetting ∧ (part t p).resetCause = 2 ∧
        t.collar.waiting = l ++ [(p, .reset p)])) := by
  have hfault := faultAt_owned h
  have hlogged : logRuns s = true → Logged (faultLogged s site p code kind index detail) 4 code := logged_faultLogged
  have hmode : (part (faultLogged s site p code kind index detail) p).mode = (part s p).mode := faultLogged_mode
  have hflying : flying (faultLogged s site p code kind index detail) p = flying s p := faultLogged_flying p
  have hresets : Resets (faultLogged s site p code kind index detail) ↔ Resets s := faultLogged_resets
  have hordered : FlightsOrdered (faultLogged s site p code kind index detail) := faultLogged_ordered hs
  have hinflight : (faultLogged s site p code kind index detail).inflight = s.inflight := faultLogged_inflight
  generalize faultLogged s site p code kind index detail = u at hfault hlogged hmode hflying hresets hordered hinflight
  intro runs logged
  refine ⟨fun hrest => ?_, fun hruns hno => ?_, fun hruns hyes => ?_⟩
  · rw [faultPartition_quiet (by rw [hmode]; exact hrest)] at hfault
    exact ⟨u, answers_partitionFault_iff.mpr hfault, hlogged, hmode, hinflight⟩
  · rw [faultPartition_ends (by rw [hmode]; exact hruns) (mt hresets.mp hno)] at hfault
    obtain ⟨hfaulted, hlog, hended⟩ := faultedPartition (p := p) hordered (faultRef u)
    rw [hflying] at hended
    exact ⟨_, answers_partitionFault_iff.mpr hfault, hfaulted, fun hr => by rw [Logged, hlog]; exact hlogged hr, hended⟩
  · rw [faultPartition_resets (by rw [hmode]; exact hruns) (hresets.mpr hyes)] at hfault
    have hmarked : part (markFaulted u p (faultRef u)) p = { part u p with mode := .faulted, faultRef := faultRef u } :=
      part_modPart_same u p _
    refine ⟨⟨markFaulted u p (faultRef u), ?_, by rw [hmarked], hlogged⟩, fun hnone => ?_⟩
    · rw [hmarked]
      exact answers_partitionFault_iff.mpr hfault
    · obtain ⟨hmode', hcause, l, hwaiting⟩ :=
        beginReset_begins (s := markFaulted u p (faultRef u)) (p := p) (hflying.trans hnone) 2 (faultRef u)
      exact ⟨_, l, answers_partitionFault_iff.mpr hfault, hmode', hcause, hwaiting⟩

/-! Data that is no partition's -/

/-- A range set to zero reads as zeros, whatever the memory held. -/
theorem memRead_memZero_within {a n x : Nat} (hlo : a ≤ x) (hhi : x < a + n) : ∀ m : Memory, memRead (memZero m a n) x = memDefault
  | [] => rfl
  | (j, b) :: m => by
    by_cases hj : j < a ∨ a + n ≤ j
    · rw [memZero, List.filter_cons_of_pos (by simpa using hj), memRead, if_neg (by omega)]
      exact memRead_memZero_within hlo hhi m
    · rw [memZero, List.filter_cons_of_neg (by simpa using hj)]
      exact memRead_memZero_within hlo hhi m

theorem rewriteSite_kept (s : State) (site : FaultSite) :
    (rewriteSite s site).parts = s.parts ∧ (rewriteSite s site).collar = s.collar := by
  cases site <;> exact ⟨rfl, rfl⟩

/-- Where an error's data is no partition's: it is logged, and a Pocket unit reads as zeros (R200, R201). -/
theorem unownedFault {s : State} {site : FaultSite} {code kind index detail : Nat}
    (h : siteReport s site = (none, code, kind, index, detail)) :
    ∃ t, Answers (.partitionFault site) s t ∧ (logRuns s = true → Logged t 1 0x07) ∧ t.parts = s.parts ∧
      (∀ v u, site = .pocketUnit v u → ∀ a, a / 8192 = v.val * 24576 + u.val → memRead t.lining a = memRead [] a) := by
  have hfault : faultAt s site =
      logFault (rewriteSite s site) { cls := 1, code := 0x07, unitKind := kind, unitIndex := index, detail := detail } := by
    simp only [faultAt, h]
  obtain ⟨hparts, hcollar⟩ := rewriteSite_kept s site
  refine ⟨_, answers_partitionFault_iff.mpr hfault, fun hruns => logged_logFault ((logRuns_congr (congrArg Collar.bootStatus hcollar)).trans hruns) _,
    (logFault_parts _ (show ¬ (255 : Nat) < 16 by decide)).trans hparts, fun v u hsite a ha => ?_⟩
  rw [(reported_logFault (rewriteSite s site) _).update, hsite]
  exact memRead_memZero_within (by omega) (by omega) s.lining

end Sys2Proof.Proofs.FaultSites
end

section
/-! SUPPORT. Patrol scrub and clear-fill (R200, R202): what is counted and logged, and when a device fails. -/

namespace Sys2Proof.Proofs.PatrolScrub

open Sys2Proof Sys2Proof.Machine
open Sys2Proof.Proofs.Writes Sys2Proof.Proofs.LoggedWork Sys2Proof.Proofs.Reports

/-- PATROL_SCRUB leaves the state of `patrol`, and no other. -/
theorem answers_patrolScrub_iff {target : ScrubTarget} {r : ScrubResult} {s t : State} :
    Answers (.patrolScrub target r) s t ↔ patrol s target r = t :=
  ⟨Host.Outcome.next.inj, congrArg Host.Outcome.next⟩

/-- DEVICE_FAILED leaves the state of `failDevice`, and no other. -/
theorem answers_deviceFailed_iff {d : Fin 16} {s t : State} : Answers (.deviceFailed d) s t ↔ failDevice s d.val = t :=
  ⟨Host.Outcome.next.inj, congrArg Host.Outcome.next⟩

theorem logFault_sleeves (s : State) (r : Report) : (logFault s r).sleeves = s.sleeves := by rw [(reported_logFault s r).update]

theorem logFault_devices (s : State) (r : Report) : (logFault s r).devices = s.devices := by rw [(reported_logFault s r).update]

theorem logFault_collar (s : State) (r : Report) : (logFault s r).collar = s.collar := by rw [(reported_logFault s r).update]

theorem storeKept_modSleeve (s : State) (v : Nat) (f : Sleeve → Sleeve) : StoreKept s (modSleeve s v f) := ⟨fun _ => ⟨rfl, rfl⟩, rfl, rfl⟩

theorem storeKept_modDevice (s : State) (d : Nat) (f : Device → Device) : StoreKept s (modDevice s d f) := ⟨fun _ => ⟨rfl, rfl⟩, rfl, rfl⟩

/-! Lines of the Lining -/

/-- The patrol has read a line: the last one of a Pocket ends a pass over it (R202). -/
def linePassed (s : State) (v line : Nat) : State :=
  if line = 98303 then modSleeve s v (fun x => { x with scrubPasses := (x.scrubPasses + 1) % 65536 }) else s

/-- A pass over a Pocket counts, and nothing else. -/
theorem linePassed_kept (s : State) (v line : Nat) : StoreKept s (linePassed s v line) ∧ (linePassed s v line).collar = s.collar ∧
    (sleeveOf (linePassed s v line) v).corrected = (sleeveOf s v).corrected ∧
    (sleeveOf (linePassed s v line) v).rowEvents = (sleeveOf s v).rowEvents := by
  unfold linePassed
  split
  · refine ⟨storeKept_modSleeve s v _, rfl, ?_, ?_⟩ <;> rw [sleeveOf, modSleeve, tabGet_tabMap_same] <;> rfl
  · exact ⟨⟨fun _ => ⟨rfl, rfl⟩, rfl, rfl⟩, rfl, rfl, rfl⟩

/-- A line that corrects is counted for its Pocket and its row, and logged (Table 7.6). -/
theorem correctLine_counts (s : State) (v line : Nat) :
    (logRuns s = true → Logged (correctLine s v line) 1 0x02) ∧ StoreKept s (correctLine s v line) ∧
      (sleeveOf (correctLine s v line) v).corrected = min 65535 ((sleeveOf s v).corrected + 1) ∧
      tabGet 0 (sleeveOf (correctLine s v line) v).rowEvents (Config.liningRow line) =
        tabGet 0 (sleeveOf s v).rowEvents (Config.liningRow line) + 1 := by
  have hsleeve : sleeveOf (correctLine s v line) v = { sleeveOf s v with
      corrected := min 65535 ((sleeveOf s v).corrected + 1),
      rowEvents := tabMap 0 (sleeveOf s v).rowEvents (Config.liningRow line) (fun n => n + 1) } := by
    rw [sleeveOf, correctLine, logFault_sleeves, modSleeve, tabGet_tabMap_same]
    rfl
  refine ⟨fun hruns => logged_logFault (s := modSleeve s v _) hruns _,
    storeKept_trans (storeKept_modSleeve s v _) (workKept_logFault _ _).storeKept, by rw [hsleeve], ?_⟩
  rw [hsleeve, tabGet_tabMap_same]

/-! Bursts of a device -/

/-- Link-ECC errors of one burst, one after another, before a fourth fails the device. -/
def linkCounted (s : State) (d n : Nat) : State := (List.range n).foldl (fun t _ => linkError t d) s

theorem linkCounted_succ (s : State) (d n : Nat) : linkCounted s d (n + 1) = linkError (linkCounted s d n) d := by
  rw [linkCounted, List.range_succ, List.foldl_append]
  rfl

theorem linkError_device (s : State) (d : Nat) :
    tabGet {} (linkError s d).devices d = { tabGet {} s.devices d with linkEcc := min 65535 ((tabGet {} s.devices d).linkEcc + 1) } := by
  rw [linkError, logFault_devices, modDevice, tabGet_tabMap_same]

theorem linkError_parts (s : State) (d : Nat) : (linkError s d).parts = s.parts := by
  rw [linkError, logFault_parts _ (show ¬ (255 : Nat) < 16 by decide), modDevice_parts]

theorem linkError_collar (s : State) (d : Nat) : (linkError s d).collar = s.collar := by
  rw [linkError, logFault_collar, modDevice_collar]

theorem linkError_store (s : State) (d : Nat) : StoreKept s (linkError s d) :=
  storeKept_trans (storeKept_modDevice s d _) (workKept_logFault _ _).storeKept

theorem linkError_logged {s : State} (h : logRuns s = true) (d : Nat) : Logged (linkError s d) 1 0x04 :=
  logged_logFault (s := modDevice s d _) h _

/-- What counting link errors leaves: the store, partitions and the device's state. -/
theorem linkCounted_kept (s : State) (d : Nat) : ∀ n, StoreKept s (linkCounted s d n) ∧ (linkCounted s d n).parts = s.parts ∧
    (linkCounted s d n).collar = s.collar ∧ (tabGet {} (linkCounted s d n).devices d).mode = (tabGet {} s.devices d).mode
  | 0 => ⟨⟨fun _ => ⟨rfl, rfl⟩, rfl, rfl⟩, rfl, rfl, rfl⟩
  | n + 1 => by
    obtain ⟨hstore, hparts, hcollar, hmode⟩ := linkCounted_kept s d n
    rw [linkCounted_succ, linkError_parts, linkError_collar, linkError_device]
    exact ⟨storeKept_trans hstore (linkError_store _ d), hparts, hcollar, hmode⟩

theorem linkCounted_linkEcc {s : State} {d : Nat} (h : (tabGet {} s.devices d).linkEcc ≤ 65535) :
    ∀ n, (tabGet {} (linkCounted s d n).devices d).linkEcc = min 65535 ((tabGet {} s.devices d).linkEcc + n)
  | 0 => (min_eq_right h).symm
  | n + 1 => by
    rw [linkCounted_succ, linkError_device]
    simp only [linkCounted_linkEcc h n]
    omega

theorem linkCounted_logged {s : State} (hruns : logRuns s = true) (d : Nat) : ∀ {n}, 0 < n → Logged (linkCounted s d n) 1 0x04
  | n + 1, _ => by
    obtain ⟨-, -, hcollar, -⟩ := linkCounted_kept s d n
    rw [linkCounted_succ]
    exact linkError_logged ((logRuns_congr (congrArg Collar.bootStatus hcollar)).trans hruns) d

theorem linkErrors_few (s : State) (d : Nat) {n : Nat} (h : n < 4) : linkErrors s d n = linkCounted s d n := by
  rw [linkErrors, if_neg (Nat.not_le.mpr h), Nat.min_eq_left (Nat.le_of_lt h)]
  rfl

theorem linkErrors_many (s : State) (d : Nat) {n : Nat} (h : 4 ≤ n) : linkErrors s d n = failDevice (linkCounted s d 4) d := by
  rw [linkErrors, if_pos h, Nat.min_eq_right h]
  rfl

/-- A burst that corrects is counted for its device, and logged. -/
def burstCorrected (s : State) (d : Nat) : State :=
  logFault (modDevice s d (fun x => { x with corrected := min 65535 (x.corrected + 1) })) { cls := 1, code := 0x03, unitKind := 4, unitIndex := d }

theorem burstCorrected_counts (s : State) (d : Nat) :
    (logRuns s = true → Logged (burstCorrected s d) 1 0x03) ∧ StoreKept s (burstCorrected s d) ∧
      (tabGet {} (burstCorrected s d).devices d).corrected = min 65535 ((tabGet {} s.devices d).corrected + 1) := by
  refine ⟨fun hruns => logged_logFault (s := modDevice s d _) hruns _,
    storeKept_trans (storeKept_modDevice s d _) (workKept_logFault _ _).storeKept, ?_⟩
  rw [burstCorrected, logFault_devices, modDevice, tabGet_tabMap_same]

theorem patrol_dram_ready {s : State} {d : Fin 16} (h : (tabGet {} s.devices d.val).mode = .ready) (b : Fin 536870912) :
    patrol s (.dram d b) .clean = s ∧ patrol s (.dram d b) .corrected = burstCorrected s d.val ∧
      (∀ n, patrol s (.dram d b) (.link n) = linkErrors s d.val n) ∧
      (∀ (g : Fin 256) (burst : Fin 33554432), g.val = d.val * 16 + b.val / 33554432 → burst.val = b.val % 33554432 →
        patrol s (.dram d b) .uncorrectable = faultAt s (.granule g burst)) := by
  have hready : ¬ (tabGet {} s.devices d.val).mode ≠ .ready := not_not_intro h
  refine ⟨if_neg hready, if_neg hready, fun n => if_neg hready, fun g burst hg hburst => ?_⟩
  obtain ⟨g, hlt⟩ := g
  obtain ⟨burst, hlt'⟩ := burst
  subst hg hburst
  exact if_neg hready

end Sys2Proof.Proofs.PatrolScrub
end

section
/-! O53: memory errors. -/

namespace Sys2Proof.Proofs.MemoryErrors

open Sys2Proof Sys2Proof.Machine
open Sys2Proof.Proofs.Writes Sys2Proof.Proofs.Reports Sys2Proof.Proofs.FaultSites Sys2Proof.Proofs.PatrolScrub

/-- A patrol read of a Pocket's line. -/
theorem linePatrolled (s : State) (v : Fin 16) (line : Fin 98304) (t : State) :
    Answers (.patrolScrub (.lining v line) .clean) s (linePassed s v.val line.val) ∧
      (∀ n, Answers (.patrolScrub (.lining v line) (.link n)) s (linePassed s v.val line.val)) ∧
      (Answers (.patrolScrub (.lining v line) .uncorrectable) s t ↔
        ∀ u : Fin 24576, u.val = line.val / 4 → Answers (.partitionFault (.pocketUnit v u)) (linePassed s v.val line.val) t) ∧
      ∃ t1, Answers (.patrolScrub (.lining v line) .corrected) s t1 ∧ (logRuns s = true → Logged t1 1 0x02) ∧ StoreKept s t1 ∧
        (sleeveOf t1 v.val).corrected = min 65535 ((sleeveOf s v.val).corrected + 1) ∧
        tabGet 0 (sleeveOf t1 v.val).rowEvents (Config.liningRow line.val) =
          tabGet 0 (sleeveOf s v.val).rowEvents (Config.liningRow line.val) + 1 := by
  have hunit : line.val / 4 < 24576 := by omega
  refine ⟨answers_patrolScrub_iff.mpr rfl, fun n => answers_patrolScrub_iff.mpr rfl, ?_, ?_⟩
  · have hpatrol : patrol s (.lining v line) .uncorrectable = faultAt (linePassed s v.val line.val) (.pocketUnit v ⟨line.val / 4, hunit⟩) := rfl
    rw [answers_patrolScrub_iff, hpatrol]
    refine ⟨fun h u hu => ?_, fun h => answers_partitionFault_iff.mp (h ⟨line.val / 4, hunit⟩ rfl)⟩
    obtain rfl : u = ⟨line.val / 4, hunit⟩ := Fin.ext hu
    exact answers_partitionFault_iff.mpr h
  · obtain ⟨hstore, hcollar, hcorrected, hrows⟩ := linePassed_kept s v.val line.val
    obtain ⟨hlogged, hstore', hcorrected', hrows'⟩ := correctLine_counts (linePassed s v.val line.val) v.val line.val
    rw [hcorrected] at hcorrected'
    rw [hrows] at hrows'
    exact ⟨_, answers_patrolScrub_iff.mpr rfl, fun hruns => hlogged ((logRuns_congr (congrArg Collar.bootStatus hcollar)).trans hruns),
      storeKept_trans hstore hstore', hcorrected', hrows'⟩

/-- A patrol read of a READY device's burst. -/
theorem burstPatrolled {s : State} {d : Fin 16} (hready : (tabGet {} s.devices d.val).mode = .ready) (b : Fin 536870912) (g : Fin 256)
    (burst : Fin 33554432) (t : State) (hg : g.val = d.val * 16 + b.val / 33554432) (hburst : burst.val = b.val % 33554432) :
    Answers (.patrolScrub (.dram d b) .clean) s s ∧
      (Answers (.patrolScrub (.dram d b) .uncorrectable) s t ↔ Answers (.partitionFault (.granule g burst)) s t) ∧
      (∃ t, Answers (.patrolScrub (.dram d b) .corrected) s t ∧ (logRuns s = true → Logged t 1 0x03) ∧ StoreKept s t ∧
        (tabGet {} t.devices d.val).corrected = min 65535 ((tabGet {} s.devices d.val).corrected + 1)) ∧
      (∀ n, n < 4 → ∃ t, Answers (.patrolScrub (.dram d b) (.link n)) s t ∧ (0 < n → logRuns s = true → Logged t 1 0x04) ∧ StoreKept s t ∧
        ((tabGet {} s.devices d.val).linkEcc ≤ 65535 →
          (tabGet {} t.devices d.val).linkEcc = min 65535 ((tabGet {} s.devices d.val).linkEcc + n)) ∧ t.parts = s.parts) ∧
      (∀ n, 4 ≤ n → ∃ w, (∀ t, Answers (.patrolScrub (.dram d b) (.link n)) s t ↔ Answers (.deviceFailed d) w t) ∧ StoreKept s w ∧
        w.parts = s.parts ∧ (tabGet {} w.devices d.val).mode = .ready) := by
  obtain ⟨hclean, hcorrected, hlink, huncorrectable⟩ := patrol_dram_ready hready b
  refine ⟨answers_patrolScrub_iff.mpr hclean, ?_, ⟨_, answers_patrolScrub_iff.mpr hcorrected, burstCorrected_counts s d.val⟩,
    fun n hn => ?_, fun n hn => ?_⟩
  · rw [answers_patrolScrub_iff, answers_partitionFault_iff, huncorrectable g burst hg hburst]
  · obtain ⟨hstore, hparts, -, -⟩ := linkCounted_kept s d.val n
    exact ⟨_, answers_patrolScrub_iff.mpr ((hlink n).trans (linkErrors_few s d.val hn)), fun hpos hruns => linkCounted_logged hruns d.val hpos,
      hstore, fun hecc => linkCounted_linkEcc hecc n, hparts⟩
  · obtain ⟨hstore, hparts, -, hmode⟩ := linkCounted_kept s d.val 4
    refine ⟨linkCounted s d.val 4, fun t => ?_, hstore, hparts, hmode.trans hready⟩
    rw [answers_patrolScrub_iff, answers_deviceFailed_iff, hlink, linkErrors_many s d.val hn]

/-- CLEAR_FILL clears a clear bit of a READY device, and nothing else. -/
theorem blockFilled (s : State) (d : Fin 16) (b : Fin 524288) :
    let x := tabGet {} s.devices d.val
    (x.mode = .ready → b.val ∉ x.filled → ∃ t, Answers (.clearFill d b) s t ∧
      tabGet {} t.devices d.val = { x with filled := x.filled ++ [b.val] } ∧ (∀ j, j ≠ d.val → tabGet {} t.devices j = tabGet {} s.devices j) ∧
      t = { s with devices := t.devices }) ∧
    (x.mode ≠ .ready ∨ b.val ∈ x.filled → Answers (.clearFill d b) s s) := by
  intro x
  have hanswers : ∀ {t}, fillBlock s d.val b.val = t → Answers (.clearFill d b) s t := fun h => congrArg Host.Outcome.next h
  refine ⟨fun hready hclear => ⟨_, hanswers (if_pos ⟨hready, by simpa using hclear⟩), ?_,
    fun j hj => ?_, rfl⟩, fun h => hanswers (if_neg ?_)⟩
  · rw [modDevice, tabGet_tabMap_same]
  · rw [modDevice, tabGet_tabMap_other _ _ _ (Ne.symm hj)]
  rintro ⟨hready, hclear⟩
  rcases h with h | h
  · exact h hready
  · simp only [Bool.not_eq_true', List.contains_eq_mem, decide_eq_false_iff_not] at hclear
    exact hclear h

/-- Settles O53: `ownedFault` and `unownedFault` say what an error does, and a patrol read counts, logs or does the same. -/
theorem memoryErrorsFaultTheirPartition : Obligations.MemoryErrorsFaultTheirPartition := by
  intro s hs logged
  refine ⟨fun site p code kind index detail h _ => ownedFault hs h, fun site code kind index detail h => unownedFault h,
    fun v line t => linePatrolled s v line t, fun d b g burst t hg hburst => ⟨fun hmode r => ?_, fun hready => ?_⟩,
    fun d b => blockFilled s d b⟩
  · exact answers_patrolScrub_iff.mpr (if_pos hmode)
  · exact burstPatrolled hready b g burst t hg hburst

end Sys2Proof.Proofs.MemoryErrors
end

section
/-! The invariant of runs (R222, R223, R374): it holds after reset, and every command keeps it. -/

namespace Sys2Proof.Proofs.RunInvariant

open Sys2Proof Sys2Proof.Machine

/-- The queue of commands has no part in the invariant. -/
theorem inv_withPending {s : State} (h : Inv s) (rest : List Instr) : Inv { s with pending := rest } := h

/-- Settles O4: memory lists nothing, no descriptor is in flight, the log is empty and the counter has no part below a nanosecond. -/
theorem resetMeetsInvariant : Obligations.ResetMeetsInvariant := by
  have hmemory : MemoryCanonical State.reset := ⟨rfl, rfl⟩
  have hflights : FlightsOrdered State.reset := ⟨List.Pairwise.nil, fun _ hf => absurd hf List.not_mem_nil⟩
  have hclock : ClockBounded State.reset.time := ⟨by decide, by decide, by decide⟩
  exact ⟨hmemory, hflights, Nat.zero_le _, hclock⟩

/-- Settles O5: an idle step lets a nanosecond pass (`tick_keeps`), any other one runs a command (`exec_keeps`). -/
theorem stepKeepsInvariant : Obligations.StepKeepsInvariant := by
  intro s t hinv hstep
  unfold step at hstep
  split at hstep
  · obtain rfl := Host.Outcome.next.inj hstep
    exact (tick_keeps (Keeps.refl s)).inv hinv
  · exact (exec_keeps hstep).inv (inv_withPending hinv _)

end Sys2Proof.Proofs.RunInvariant
end

section
/-! O19: a dispatch slot (R213, R222). A head that finds a unit reserved is marked as waiting first (R76), which opens or closes no
dispatch and changes nothing where no head waits; the rotation then takes the first ready ring after the one last served. -/

namespace Sys2Proof.Proofs.DispatchSlots

open Sys2Proof Sys2Proof.Machine
open Sys2Proof.Proofs.Writes

/-! Marking the heads that wait -/

/-- A head is marked as waiting, and counted, or nothing happens. -/
theorem markWaiting_cases (s : State) (p r : Nat) :
    markWaiting s p r = s ∨ ∃ F, markWaiting s p r = modSq (countEvent s 14 (servedBy s p) 1) p r F := by
  unfold markWaiting
  split
  · exact .inl rfl
  · split
    · exact .inl rfl
    · split
      · exact .inr ⟨_, rfl⟩
      · exact .inl rfl

theorem dispatchOpen_congr {s t : State} {p : Nat} (hmode : (part t p).mode = (part s p).mode) (hmodule : t.faults.mode = s.faults.mode) :
    dispatchOpen t p = dispatchOpen s p := by
  simp only [dispatchOpen, hmode, hmodule]

theorem dispatchOpen_markWaiting (s : State) (p r : Nat) : dispatchOpen (markWaiting s p r) p = dispatchOpen s p := by
  obtain h | ⟨F, h⟩ := markWaiting_cases s p r
  · rw [h]
  · rw [h, countEvent_only]
    exact dispatchOpen_congr (by rw [modSq, part_modPart_same]; rfl) rfl

/-- The state in which a slot picks its ring: the heads that wait are marked. -/
def headsMarked (s : State) (p : Nat) : State := (List.range 8).foldl (fun t r => markWaiting t p r) s

theorem dispatchOpen_headsMarked (s : State) (p : Nat) : dispatchOpen (headsMarked s p) p = dispatchOpen s p :=
  List.foldlRecOn (motive := fun t => dispatchOpen t p = dispatchOpen s p) (List.range 8) (fun t r => markWaiting t p r) rfl
    (fun t ht r _ => (dispatchOpen_markWaiting t p r).trans ht)

/-- No ring's head waits for a reservation, or finds a unit of its own reserved. -/
def NoHeadWaits (s : State) (p : Nat) : Prop :=
  ∀ r, r < 8 → ∀ g, (sqOf s p r).buffer.head? = some g → g.waited = false ∧ ∀ rs, decideDesc s g.h g.body ≠ .waits rs

theorem markWaiting_eq_self {s : State} {p r : Nat} (hno : NoHeadWaits s p) (hr : r < 8) : markWaiting s p r = s := by
  unfold markWaiting
  split
  · rfl
  · next f rest hbuffer =>
    obtain ⟨-, hwaits⟩ := hno r hr f (by rw [hbuffer]; rfl)
    split
    · rfl
    · split
      · next rs hrs => exact absurd hrs (hwaits rs)
      · rfl

theorem headsMarked_eq_self {s : State} {p : Nat} (hno : NoHeadWaits s p) : headsMarked s p = s :=
  List.foldlRecOn (motive := fun t => t = s) (List.range 8) (fun t r => markWaiting t p r) rfl
    (fun t ht r hr => by rw [ht, markWaiting_eq_self hno (List.mem_range.mp hr)])

/-! Picking a ring -/

theorem headWaited_eq_false {s : State} {p r : Nat} (hno : NoHeadWaits s p) (hr : r < 8) : headWaited s p r = false := by
  unfold headWaited
  cases hhead : (sqOf s p r).buffer.head? with
  | none => rfl
  | some g => exact (hno r hr g hhead).1

/-- Where no head waits the rotation alone picks the ring. -/
theorem pickRing_rotates {s : State} {p : Nat} (hno : NoHeadWaits s p) :
    pickRing s p = ((List.range 8).map (fun i => ((part s p).lastRing + 1 + i) % 8)).find? (fun r => headReady s p r) := by
  have hnone : (List.range 8).find? (fun r => headWaited s p r && headReady s p r) = none := by
    rw [List.find?_eq_none]
    intro r hr
    rw [headWaited_eq_false hno (List.mem_range.mp hr)]
    exact Bool.false_ne_true
  unfold pickRing
  rw [hnone]

theorem pickRing_first {s : State} {p i : Nat} (hno : NoHeadWaits s p) (hi : i < 8)
    (hready : headReady s p (((part s p).lastRing + 1 + i) % 8) = true)
    (hbefore : ∀ j, j < i → headReady s p (((part s p).lastRing + 1 + j) % 8) = false) :
    pickRing s p = some (((part s p).lastRing + 1 + i) % 8) := by
  have hfirst : (List.range 8).find? (fun j => headReady s p (((part s p).lastRing + 1 + j) % 8)) = some i := by
    rw [List.find?_range_eq_some]
    exact ⟨hready, List.mem_range.mpr hi, fun j hj => by rw [hbefore j hj]; rfl⟩
  rw [pickRing_rotates hno, List.find?_map]
  exact congrArg (Option.map _) hfirst

theorem pickRing_none {s : State} {p : Nat} (hno : NoHeadWaits s p) (hidle : ∀ r, r < 8 → headReady s p r = false) :
    pickRing s p = none := by
  rw [pickRing_rotates hno, List.find?_eq_none]
  intro r hr
  obtain ⟨i, -, rfl⟩ := List.mem_map.mp hr
  rw [hidle _ (Nat.mod_lt _ (by decide))]
  exact Bool.false_ne_true

/-! The slot -/

/-- The state after a slot of partition `p` has served the head `f` of ring `r`, before which `rest` waits behind it. -/
def slotServed (s : State) (p r : Nat) (f : Fetched) (rest : List Fetched) : State :=
  askBurst (retryLandings p 256 (dispatchDesc f.h f.body
    (let v := modSq s p r (fun q => { q with buffer := rest })
     if f.waited then v else modPart v p (fun x => { x with lastRing := r })))) p r

theorem dispatchSlot_closed {s : State} {p : Nat} (hclosed : dispatchOpen s p = false) : dispatchSlot s p = s := by
  have h : dispatchOpen (headsMarked s p) p = false := (dispatchOpen_headsMarked s p).trans hclosed
  unfold dispatchSlot
  exact if_pos (by rw [← headsMarked, h]; rfl)

theorem dispatchSlot_serves {s : State} {p r : Nat} {f : Fetched} {rest : List Fetched} (hopen : dispatchOpen s p = true)
    (hpick : pickRing (headsMarked s p) p = some r) (hbuffer : (sqOf (headsMarked s p) p r).buffer = f :: rest) :
    dispatchSlot s p = slotServed (headsMarked s p) p r f rest := by
  have h : dispatchOpen (headsMarked s p) p = true := (dispatchOpen_headsMarked s p).trans hopen
  unfold dispatchSlot
  rw [← headsMarked]
  simp only [h, hpick, hbuffer, Bool.not_true, Bool.false_eq_true, if_false, slotServed]

theorem dispatchSlot_idle {s : State} {p : Nat} (hopen : dispatchOpen s p = true) (hpick : pickRing (headsMarked s p) p = none) :
    dispatchSlot s p = headsMarked s p := by
  have h : dispatchOpen (headsMarked s p) p = true := (dispatchOpen_headsMarked s p).trans hopen
  unfold dispatchSlot
  rw [← headsMarked]
  simp only [h, hpick, Bool.not_true, Bool.false_eq_true, if_false]

theorem answers_dispatchSlot {p : Fin 16} {dt frac : Nat} {s t : State} (h : dispatchSlot (elapseTo s dt frac) p.val = t) :
    Answers (.dispatchSlot p dt frac) s t :=
  congrArg Host.Outcome.next h

/-- Settles O19: a closed dispatch lets time pass only, the ring that `pickRing` names is served, and where no head waits the rotation
names it (`pickRing_first`) or none (`pickRing_none`). -/
theorem dispatchSlotServesInRotation : Obligations.DispatchSlotServesInRotation := by
  intro s p dt frac
  dsimp only
  rw [← headsMarked]
  refine ⟨fun hclosed => answers_dispatchSlot (dispatchSlot_closed hclosed),
    fun hopen r f rest hpick hbuffer => answers_dispatchSlot (dispatchSlot_serves hopen hpick hbuffer), fun hopen hno => ⟨?_, ?_⟩⟩
  all_goals have hsame := headsMarked_eq_self hno
  · intro i f rest hi hbuffer hready hbefore
    have hpick := pickRing_first hno hi hready hbefore
    rw [← hsame] at hpick hbuffer
    have hserves := dispatchSlot_serves hopen hpick hbuffer
    rw [hsame] at hserves
    exact answers_dispatchSlot hserves
  · intro hidle
    have hpick := pickRing_none hno hidle
    rw [← hsame] at hpick
    exact answers_dispatchSlot ((dispatchSlot_idle hopen hpick).trans hsame)

end Sys2Proof.Proofs.DispatchSlots
end

section
/-! O10: NOP, FENCE, WAIT_FT and HINT (R216 to R219, R360). Each does its work in the state that takes it up, where beside the descriptor
itself nothing that it reads has changed. -/

namespace Sys2Proof.Proofs.ControlDescriptors

open Sys2Proof Sys2Proof.Machine
open Sys2Proof.Proofs.Writes Sys2Proof.Proofs.Starting Sys2Proof.Proofs.TilePasses

section Dispatched

variable {s : State} {h : DescHdr} {b : DescBody} (hordered : FlightsOrdered s)
include hordered

/-- A descriptor that ends as it is taken up ends, and leaves everything but descriptors and counters. -/
theorem ends_at_once (st : Status) (r : Nat) :
    Ends s (finish (takenUp s h b) s.nextId st r) h b st r ∧ OnlyFlights s (finish (takenUp s h b) s.nextId st r) ∧
      StoreKept s (finish (takenUp s h b) s.nextId st r) := by
  obtain ⟨hends, honly⟩ := finish_takenUp hordered h b st r
  exact ⟨hends, honly, honly.store⟩

theorem waits_at_once (ph : Phase) :
    Flies s (waitIn (takenUp s h b) s.nextId ph) h b ph [] ∧ OnlyFlights s (waitIn (takenUp s h b) s.nextId ph) ∧
      StoreKept s (waitIn (takenUp s h b) s.nextId ph) := by
  obtain ⟨hflies, honly⟩ := waitIn_takenUp hordered h b ph
  exact ⟨hflies, honly, honly.store⟩

/-- A number given out already is not the next one. -/
theorem id_ne_nextId {f : InFlight} {p : Nat} (hf : f ∈ flying s p) : f.id ≠ s.nextId := by
  obtain ⟨-, hids⟩ := hordered
  exact Nat.ne_of_lt (hids f (mem_inflight_of_flying hf).1)

end Dispatched

/-! FENCE -/

/-- The descriptor taken up flies behind those of its partition. -/
theorem flying_takenUp (s : State) (h : DescHdr) (b : DescBody) :
    flying (takenUp s h b) h.p.val = flying s h.p.val ++ [takenFlight s h b (reserves s h b)] := by
  rw [takenUp_only, flying, List.filter_append, flying]
  simp only [takenFlight, List.filter_cons, beq_self_eq_true, if_true, List.filter_nil]

theorem unwritten_congr {s t : State} {p : Nat} (h : part t p = part s p) (rings : Nat → Bool) :
    unwritten t p rings = unwritten s p rings := by
  simp only [unwritten, h]

/-- The descriptors that a FENCE dispatched now awaits: those of its ring and the masked ones in flight, and those whose records wait
in a pending buffer (R217). -/
def awaited (s : State) (h : DescHdr) (o : FenceOps) : List Nat :=
  ((flying s h.p.val).filter (fun f => f.h.ring == h.ring || bvBit o.ringMask f.h.ring.val)).map (fun f => f.id) ++
    unwritten s h.p.val (fun r => r == h.ring.val || (decide (r < 8) && bvBit o.ringMask r))

/-- A FENCE does not await itself. -/
theorem fenceAwaits_takenUp {s : State} (hordered : FlightsOrdered s) (h : DescHdr) (o : FenceOps) :
    fenceAwaits (takenUp s h (.fence o)) s.nextId h o = awaited s h o := by
  have hown : ∀ test : InFlight → Bool, ((flying s h.p.val).filter (fun f => f.id != s.nextId && test f)) = (flying s h.p.val).filter test :=
    fun test => List.filter_congr (fun f hf => by
      rw [bne_iff_ne.mpr (id_ne_nextId hordered hf), Bool.true_and])
  rw [fenceAwaits, flying_takenUp, List.filter_append, hown, unwritten_congr (takenUp_part s h _ _), awaited]
  simp only [takenFlight, List.filter_cons, bne_self_eq_false, Bool.false_and, Bool.false_eq_true, if_false, List.filter_nil,
    List.append_nil]

theorem startFence_takenUp {s : State} (hordered : FlightsOrdered s) (h : DescHdr) (o : FenceOps) :
    startFence (takenUp s h (.fence o)) s.nextId h o =
      if awaited s h o = [] then finish (takenUp s h (.fence o)) s.nextId stOk 0
      else waitIn (takenUp s h (.fence o)) s.nextId (.fence (awaited s h o)) := by
  rw [startFence, fenceAwaits_takenUp hordered]
  simp only [List.isEmpty_iff]

/-! HINT -/

/-- The state in which a HINT has set its partition's pre-ramp, where its class asks for one (R360). -/
def hinted (u : State) (h : DescHdr) (o : HintOps) : State :=
  if bvBit o.cls 0 || bvBit o.cls 1 then modPart u h.p.val (fun x => { x with hint := some (hintRamp (now u) o) }) else u

theorem hinted_only (u : State) (h : DescHdr) (o : HintOps) : hinted u h o = { u with parts := (hinted u h o).parts } := by
  unfold hinted
  split <;> rfl

theorem othersKept_hinted (u : State) (h : DescHdr) (o : HintOps) : OthersKept u (hinted u h o) h.p.val := by
  unfold hinted
  split
  · exact othersKept_modPart u _ _
  · exact fun _ _ => rfl

theorem part_hinted (u : State) (h : DescHdr) (o : HintOps) :
    part (hinted u h o) h.p.val =
      if bvBit o.cls 0 || bvBit o.cls 1 then { part u h.p.val with hint := some (hintRamp (now u) o) } else part u h.p.val := by
  unfold hinted
  split
  · exact part_modPart_same u _ _
  · rfl

theorem hint_ends {s : State} (hordered : FlightsOrdered s) (h : DescHdr) (o : HintOps) :
    let t := finish (hinted (takenUp s h (.hint o)) h o) s.nextId stOk 0
    Ends s t h (.hint o) stOk 0 ∧ StoreKept s t ∧ OthersKept s t h.p.val ∧ t.regs = s.regs ∧
      part t h.p.val = if bvBit o.cls 0 || bvBit o.cls 1 then { part s h.p.val with hint := some (hintRamp (now s) o) }
        else part s h.p.val := by
  have honly := hinted_only (takenUp s h (.hint o)) h o
  have hothers := othersKept_hinted (takenUp s h (.hint o)) h o
  have hpart := part_hinted (takenUp s h (.hint o)) h o
  have htaken := flight_takenUp hordered h (.hint o)
  have hstore := (onlyFlights_takenUp s h (.hint o)).store
  rw [takenUp_part, takenUp_now] at hpart
  generalize hinted (takenUp s h (.hint o)) h o = v at honly hothers hpart
  have hinflight : v.inflight = (takenUp s h (.hint o)).inflight := by rw [honly]
  have hnow : now v = now s := by rw [honly]; exact takenUp_now s h (.hint o)
  refine ⟨ends_finish stOk 0 ((flight_congr hinflight _).trans htaken) rfl rfl hnow, ?_, ?_, ?_, hpart⟩
  · rw [honly]
    exact storeKept_trans hstore ⟨fun _ => ⟨rfl, rfl⟩, rfl, rfl⟩
  · exact fun q hq => (hothers q hq).trans (takenUp_part s h (.hint o) q)
  · rw [honly]
    exact takenUp_regs s h (.hint o)

/-- Settles O10: NOP ends at once, FENCE and WAIT_FT end or wait by what they await, HINT sets the pre-ramp and ends. -/
theorem controlDescriptorsComplete : Obligations.ControlDescriptorsComplete := by
  intro s h hordered
  refine ⟨fun hd => ?_, fun o hd => ?_, fun o hd => ?_, fun o hd => ?_⟩
  case refine_1 => exact ⟨_, answers_runBody rfl hd (fun _ => rfl), ends_at_once hordered stOk 0⟩
  case refine_2 =>
    have hans : Answers (.fence h o) s (startFence (takenUp s h (.fence o)) s.nextId h o) := answers_runBody rfl hd (fun _ => rfl)
    rw [startFence_takenUp hordered] at hans
    by_cases hw : awaited s h o = []
    · rw [if_pos hw] at hans
      obtain ⟨hends, honly, hstore⟩ := ends_at_once hordered (h := h) (b := .fence o) stOk 0
      exact ⟨_, hans, honly, hstore, fun _ => hends, fun hne => absurd hw hne⟩
    · rw [if_neg hw] at hans
      obtain ⟨hflies, honly, hstore⟩ := waits_at_once hordered (h := h) (b := .fence o) (.fence (awaited s h o))
      exact ⟨_, hans, honly, hstore, fun he => absurd he hw, fun _ => hflies⟩
  case refine_3 =>
    have hans : Answers (.waitFt h o) s (startWaitFt (takenUp s h (.waitFt o)) s.nextId o) := answers_runBody rfl hd (fun _ => rfl)
    rw [startWaitFt, takenUp_now] at hans
    by_cases htarget : o.target ≤ now s
    · rw [if_pos htarget] at hans
      obtain ⟨hends, honly, hstore⟩ := ends_at_once hordered (h := h) (b := .waitFt o) stOk (now s - o.target)
      exact ⟨_, hans, honly, hstore, fun _ => hends, fun hlater => absurd hlater (Nat.not_lt.mpr htarget)⟩
    · rw [if_neg htarget] at hans
      obtain ⟨hflies, honly, hstore⟩ := waits_at_once hordered (h := h) (b := .waitFt o) (.waitFt o.target)
      exact ⟨_, hans, honly, hstore, fun hle => absurd hle htarget, fun _ => hflies⟩
  case refine_4 =>
    obtain ⟨hends, hstore, hothers, hregs, hpart⟩ := hint_ends hordered h o
    exact ⟨_, answers_runBody rfl hd (fun _ => rfl), hends, hstore, hothers, hregs, hpart⟩

end Sys2Proof.Proofs.ControlDescriptors
end

section
/-! SUPPORT. What a marked write leaves of marks and tile metadata (R53, R66, R70, R436): its range carries at least the marks given, and
every unit of the Pocket that it reaches has the metadata given. -/

namespace Sys2Proof.Proofs.MarkedWrites

open Sys2Proof Sys2Proof.Machine
open Sys2Proof.Proofs.Writes Sys2Proof.Proofs.BytePlaces Sys2Proof.Proofs.MemoryRanges

/-! Pieces -/

/-- A piece is not empty and stays within its block. -/
theorem piece_within (x : Partition) (rg : Region) (fuel : Nat) : ∀ {off len : Nat} {c : Piece}, c ∈ piecesFrom x rg fuel off len →
    0 < c.len ∧ ∃ o, c.phys = (placeOf x rg o).2 ∧ o % cutSize rg + c.len ≤ cutSize rg := by
  induction fuel with
  | zero => exact fun h => absurd h List.not_mem_nil
  | succ fuel ih =>
    intro off len c hc
    by_cases hlen : len = 0
    · rw [piecesFrom, if_pos hlen] at hc
      exact absurd hc List.not_mem_nil
    · rw [piecesFrom_cons x rg fuel off hlen] at hc
      have hcut : 0 < cutSize rg := by cases rg <;> decide
      have hmod := Nat.mod_lt off hcut
      rcases List.mem_cons.mp hc with rfl | hc
      · exact ⟨by dsimp only; omega, off, rfl, by dsimp only; omega⟩
      · exact ih hc

theorem len_pos_of_mem {x : Partition} {a len : Nat} {c : Piece} (hc : c ∈ rangePieces x a len) : 0 < c.len := by
  unfold rangePieces at hc
  split at hc
  · exact absurd hc List.not_mem_nil
  · exact (piece_within x _ _ hc).1

theorem rangePieces_ne_nil {x : Partition} {a len : Nat} (ha : (regionOf a).isSome = true) (hlen : 0 < len) : rangePieces x a len ≠ [] := by
  obtain ⟨⟨rg, off⟩, hregion⟩ := Option.isSome_iff_exists.mp ha
  intro hnil
  have hplaces := congrArg List.length (rangePieces_places (x := x) hregion len)
  rw [hnil, List.flatMap_nil, List.length_nil, List.length_map, List.length_range] at hplaces
  omega

theorem regionOf_pocket {a : Nat} (h : inPocket a = true) : regionOf a = some (.pocket, a % 2 ^ 60) := by
  have ha : a / 2 ^ 60 = 2 := eq_of_beq h
  unfold regionOf
  rw [ha]
  rfl

/-- A piece of a range of the Pocket lies in one unit. -/
theorem unit_of_piece {x : Partition} {a len : Nat} (h : inPocket a = true) {c : Piece} (hc : c ∈ rangePieces x a len) :
    c.phys % 8192 + c.len ≤ 8192 := by
  rw [rangePieces, regionOf_pocket h] at hc
  obtain ⟨-, o, hphys, hwithin⟩ := piece_within x .pocket _ hc
  have hplace : (placeOf x .pocket o).2 = physUnit x (o / 8192) * 8192 + o % 8192 := rfl
  have hcut : cutSize .pocket = 8192 := rfl
  rw [hplace] at hphys
  rw [hcut] at hwithin
  omega

/-- Each unit that a range of the Pocket reaches holds one of its pieces. -/
theorem exists_piece_of_unit {x : Partition} {a len : Nat} (h : inPocket a = true) (hstart : a % 8192 = 0) {i : Nat} (hi : i < unitsOf len) :
    ∃ c ∈ rangePieces x a len, c.lining = true ∧ c.phys / 8192 = physUnit x (a % 2 ^ 60 / 8192 + i) := by
  have hbyte : i * 8192 < len := by
    unfold unitsOf at hi
    omega
  have hmem : placeOf x .pocket (a % 2 ^ 60 + i * 8192) ∈ (rangePieces x a len).flatMap places := by
    rw [rangePieces_places (regionOf_pocket h)]
    exact List.mem_map.mpr ⟨_, List.mem_range.mpr hbyte, rfl⟩
  obtain ⟨c, hc, hplace⟩ := List.mem_flatMap.mp hmem
  obtain ⟨hlining, hlo, hhi⟩ := mem_places.mp hplace
  have hwithin := unit_of_piece h hc
  have hphys : (placeOf x .pocket (a % 2 ^ 60 + i * 8192)).2 =
      physUnit x ((a % 2 ^ 60 + i * 8192) / 8192) * 8192 + (a % 2 ^ 60 + i * 8192) % 8192 := rfl
  have hunit : (a % 2 ^ 60 + i * 8192) / 8192 = a % 2 ^ 60 / 8192 + i := by omega
  rw [hphys, hunit] at hlo hhi
  exact ⟨c, hc, hlining.symm, by omega⟩

/-! Marks -/

/-- A piece just marked carries the marks given. -/
theorem pieceMarks_markPiece (s : State) (m : TileMeta) (mark model : Bool) {c : Piece} (hc : 0 < c.len) :
    (mark = true → (pieceMarks (markPiece s m mark model c) c).1 = true) ∧
      (model = true → (pieceMarks (markPiece s m mark model c) c).2 = true) := by
  by_cases hlining : c.lining = true
  · simp only [pieceMarks, markPiece, hlining, if_true, tabGet_tabSet_same]
    exact ⟨fun h => by rw [h, Bool.true_or], fun h => by rw [h, Bool.true_or]⟩
  · have hself : c.phys < c.phys + c.len := Nat.lt_add_of_pos_right hc
    have hareas : ∀ rest : List MarkedArea,
        (areaMarks ({ lo := c.phys, len := c.len, mark := mark, model := model } :: rest) c.phys c.len).1 =
          (mark || (areaMarks rest c.phys c.len).1) ∧
        (areaMarks ({ lo := c.phys, len := c.len, mark := mark, model := model } :: rest) c.phys c.len).2 =
          (model || (areaMarks rest c.phys c.len).2) := fun rest => by
      simp only [areaMarks, List.filter_cons, decide_eq_true hself, Bool.and_self, if_true, List.any_cons, and_self]
    simp only [pieceMarks, markPiece, if_neg hlining, setAreaMarks]
    constructor <;> intro h
    · rw [h, Bool.true_or, if_pos rfl, ← h, (hareas _).1, h, Bool.true_or]
    · rw [h, Bool.or_true, if_pos rfl, ← h, (hareas _).2, h, Bool.true_or]

/-- The pieces of a range of addresses depend on the Sleeves and granules of the partition alone. -/
theorem rangePieces_congr {x y : Partition} (hs : y.sleeves = x.sleeves) (hd : y.dram = x.dram) (hh : y.host = x.host) (a len : Nat) :
    rangePieces y a len = rangePieces x a len := by
  simp only [rangePieces, piecesFrom_congr hs hd hh]

theorem rangePieces_of_onlyWrites {p : Nat} {s t : State} (h : OnlyWrites p s t) (a len : Nat) :
    rangePieces (part t p) a len = rangePieces (part s p) a len :=
  rangePieces_congr (by rw [h.own]) (by rw [h.own]) (by rw [h.own]) a len

/-- The range of a marked write carries at least the marks given. -/
theorem marksOf_writeMarked (s : State) {p a : Nat} {bs : Bytes} (m : TileMeta) (mark model : Bool) (ha : (regionOf a).isSome = true)
    (hbs : 0 < bs.length) :
    (mark = true → (marksOf (writeMarked s p a bs m mark model) p a bs.length).1 = true) ∧
      (model = true → (marksOf (writeMarked s p a bs m mark model) p a bs.length).2 = true) := by
  have hsome := rangePieces_ne_nil (x := part s p) ha hbs
  obtain ⟨init, c, hinit⟩ : ∃ init c, rangePieces (part s p) a bs.length = init ++ [c] :=
    ⟨_, _, (List.dropLast_append_getLast hsome).symm⟩
  have hmem : c ∈ rangePieces (part s p) a bs.length := by
    rw [hinit]
    exact List.mem_append_right _ List.mem_cons_self
  obtain ⟨v, hv⟩ : ∃ v, writeMarked s p a bs m mark model = markPiece v m mark model c := by
    simp only [writeMarked, hinit, List.foldl_append, List.foldl_cons, List.foldl_nil]
    exact ⟨_, rfl⟩
  obtain ⟨hmark, hmodel⟩ := pieceMarks_markPiece v m mark model (len_pos_of_mem hmem)
  rw [← hv] at hmark hmodel
  have hpieces := rangePieces_of_onlyWrites (onlyWrites_writeMarked s p a bs m mark model) a bs.length
  simp only [marksOf, hpieces, List.any_map, List.any_eq_true]
  exact ⟨fun h => ⟨c, hmem, hmark h⟩, fun h => ⟨c, hmem, hmodel h⟩⟩

theorem marksOf_congr {p : Nat} {s t : State} (hbytes : SameBytes p s t) (htiles : t.tiles = s.tiles) (hareas : t.areas = s.areas)
    (a len : Nat) : marksOf t p a len = marksOf s p a len := by
  have hpiece : pieceMarks t = pieceMarks s := funext fun c => by simp only [pieceMarks, htiles, hareas]
  simp only [marksOf, hbytes.rangePieces_eq, hpiece]

/-! Tile metadata -/

/-- The metadata of a physical unit is that of a PLAIN tile of this width. -/
def PlainUnit (s : State) (w ph : Nat) : Prop := (tabGet {} s.tiles ph).state = .plain ∧ (tabGet {} s.tiles ph).width = w

theorem plainUnit_markPiece_same (s : State) (w : Nat) (mark model : Bool) {c : Piece} (hc : c.lining = true) :
    PlainUnit (markPiece s (plainMeta w) mark model c) w (c.phys / 8192) := by
  simp only [PlainUnit, markPiece, hc, if_true, tabGet_tabSet_same]
  exact ⟨rfl, rfl⟩

theorem PlainUnit.markPiece {s : State} {w ph : Nat} (h : PlainUnit s w ph) (mark model : Bool) (c : Piece) :
    PlainUnit (markPiece s (plainMeta w) mark model c) w ph := by
  by_cases hlining : c.lining = true
  · by_cases hph : c.phys / 8192 = ph
    · exact hph ▸ plainUnit_markPiece_same s w mark model hlining
    · simp only [PlainUnit, Machine.markPiece, hlining, if_true, tabGet_tabSet_other _ _ hph]
      exact h
  · simp only [PlainUnit, Machine.markPiece, if_neg hlining]
    exact h

/-- Every unit that holds one of the pieces is PLAIN in this width once all are marked. -/
theorem plainUnit_markPieces (w : Nat) (mark model : Bool) : ∀ (cs : List Piece) (s : State) {ph : Nat},
    (PlainUnit s w ph ∨ ∃ c ∈ cs, c.lining = true ∧ c.phys / 8192 = ph) →
      PlainUnit (cs.foldl (fun t c => markPiece t (plainMeta w) mark model c) s) w ph
  | [], _, _, h => h.resolve_right (fun ⟨_, hc, _⟩ => absurd hc List.not_mem_nil)
  | d :: cs, s, ph, h => by
    refine plainUnit_markPieces w mark model cs _ ?_
    rcases h with h | ⟨c, hc, hlining, hph⟩
    · exact .inl (h.markPiece mark model d)
    · rcases List.mem_cons.mp hc with rfl | hc
      · exact .inl (hph ▸ plainUnit_markPiece_same s w mark model hlining)
      · exact .inr ⟨c, hc, hlining, hph⟩

/-- The units of the Pocket that a plain write reaches become PLAIN tiles of its width. -/
theorem unitMeta_writeMarked (s : State) {p a : Nat} {bs : Bytes} (w : Nat) (mark model : Bool) (h : inPocket a = true)
    (hstart : a % 8192 = 0) {i : Nat} (hi : i < unitsOf bs.length) :
    (unitMeta (writeMarked s p a bs (plainMeta w) mark model) p (a % 2 ^ 60 / 8192 + i)).state = .plain ∧
      (unitMeta (writeMarked s p a bs (plainMeta w) mark model) p (a % 2 ^ 60 / 8192 + i)).width = w := by
  have hunit : PlainUnit (writeMarked s p a bs (plainMeta w) mark model) w (physUnit (part s p) (a % 2 ^ 60 / 8192 + i)) :=
    plainUnit_markPieces w mark model _ _ (.inr (exists_piece_of_unit h hstart hi))
  have hsleeves : (part (writeMarked s p a bs (plainMeta w) mark model) p).sleeves = (part s p).sleeves := by
    rw [(onlyWrites_writeMarked s p a bs _ mark model).own]
  simp only [unitMeta, physUnit_congr hsleeves]
  exact hunit

end Sys2Proof.Proofs.MarkedWrites
end

section
/-! O11: COPY and FILL (R53, R66, R190, R220, R436). Both write through `moveWrite` in a state where only pins, counters and the
descriptors in flight have changed, so what they read and where they write is as it was at dispatch. -/

namespace Sys2Proof.Proofs.Moves

open Sys2Proof Sys2Proof.Machine
open Sys2Proof.Proofs.Writes Sys2Proof.Proofs.Starting Sys2Proof.Proofs.TilePasses Sys2Proof.Proofs.RecoveryRounds
open Sys2Proof.Proofs.IngestItem Sys2Proof.Proofs.ChainTiles Sys2Proof.Proofs.MarkedWrites

/-- From `s` to `t` bytes have been moved for partition `p`: beside memory its usage counters and its pin table alone have changed. -/
structure OnlyMoved (p : Nat) (s t : State) : Prop where
  inflight : t.inflight = s.inflight
  time : t.time = s.time
  regs : t.regs = s.regs
  others : OthersKept s t p
  own : part t p = { part s p with usage := (part t p).usage, pins := (part t p).pins }

theorem OnlyMoved.trans {p : Nat} {s t u : State} (h1 : OnlyMoved p s t) (h2 : OnlyMoved p t u) : OnlyMoved p s u :=
  ⟨h2.inflight.trans h1.inflight, h2.time.trans h1.time, h2.regs.trans h1.regs, othersKept_trans h1.others h2.others,
    by rw [h2.own, h1.own]⟩

theorem onlyMoved_of_writes {p : Nat} {s t : State} (h : OnlyWrites p s t) : OnlyMoved p s t :=
  ⟨h.inflight, h.time, h.regs, h.others, by rw [h.own]⟩

theorem pins_of_writes {p : Nat} {s t : State} (h : OnlyWrites p s t) : (part t p).pins = (part s p).pins := by rw [h.own]

/-- A change of a partition's pin table. -/
theorem onlyMoved_pins (s : State) (p : Nat) (pins : Partition → List PinEntry) :
    OnlyMoved p s (modPart s p (fun x => { x with pins := pins x })) :=
  ⟨rfl, rfl, rfl, othersKept_modPart s p _, by rw [part_modPart_same]⟩

theorem sameBytes_pins (s : State) (p : Nat) (pins : Partition → List PinEntry) :
    SameBytes p s (modPart s p (fun x => { x with pins := pins x })) :=
  ⟨rfl, rfl, by rw [part_modPart_same], by rw [part_modPart_same], by rw [part_modPart_same]⟩

/-! Pins that a write invalidates -/

theorem onlyMoved_unpin (s : State) (p dst len : Nat) : OnlyMoved p s (unpin s p dst len) := by
  unfold unpin
  split
  · exact onlyMoved_pins s p _
  · exact ⟨rfl, rfl, rfl, fun _ _ => rfl, rfl⟩

theorem sameBytes_unpin (s : State) (p dst len : Nat) : SameBytes p s (unpin s p dst len) := by
  unfold unpin
  split
  · exact sameBytes_pins s p _
  · exact SameBytes.refl p s

/-- What is left of the pin table depends on the pin table alone. -/
theorem pins_unpin_congr {s t : State} {p : Nat} (h : part t p = part s p) (dst len : Nat) :
    (part (unpin t p dst len) p).pins = (part (unpin s p dst len) p).pins := by
  unfold unpin
  split
  · simp only [part_modPart_same, h]
  · rw [h]

/-! The write -/

theorem onlyWrites_moveWrite (s : State) (p : Nat) (o : MoveOps) (bs : Bytes) (marks : Bool × Bool) :
    OnlyWrites p s (moveWrite s p o bs marks) :=
  (onlyWrites_writeMarked s p _ bs _ _ _).trans (onlyWrites_dropResidentAt p _ p _ _)

theorem sameBytes_moveWrite (s : State) (p : Nat) (o : MoveOps) (bs : Bytes) (marks : Bool × Bool) :
    SameBytes p (pwrite s p o.dst bs) (moveWrite s p o bs marks) :=
  (sameBytes_writeMarked s p _ bs _ _ _).trans (sameBytes_dropResidentAt p _ p _ _)

/-- Ranges that are no longer resident leave marks and metadata (R130). -/
theorem dropResidentAt_tiles (s : State) (p a len : Nat) :
    (dropResidentAt s p a len).tiles = s.tiles ∧ (dropResidentAt s p a len).areas = s.areas := by
  unfold dropResidentAt dropResident
  split
  · split <;> exact ⟨rfl, rfl⟩
  · exact ⟨rfl, rfl⟩

theorem marksOf_moveWrite (s : State) {p : Nat} {o : MoveOps} {bs : Bytes} (marks : Bool × Bool) (ha : (regionOf o.dst).isSome = true)
    (hbs : 0 < bs.length) :
    (marks.1 = true → (marksOf (moveWrite s p o bs marks) p o.dst bs.length).1 = true) ∧
      (marks.2 = true → (marksOf (moveWrite s p o bs marks) p o.dst bs.length).2 = true) := by
  obtain ⟨htiles, hareas⟩ := dropResidentAt_tiles (writeMarked s p o.dst bs (plainMeta (widthBits o.width)) marks.1 marks.2) p o.dst bs.length
  rw [moveWrite, marksOf_congr (sameBytes_dropResidentAt p _ p _ _) htiles hareas]
  exact marksOf_writeMarked s _ _ _ ha hbs

theorem unitMeta_moveWrite (s : State) {p : Nat} {o : MoveOps} {bs : Bytes} (marks : Bool × Bool) (h : inPocket o.dst = true)
    (hstart : o.dst % 8192 = 0) {i : Nat} (hi : i < unitsOf bs.length) :
    (unitMeta (moveWrite s p o bs marks) p (o.dst % 2 ^ 60 / 8192 + i)).state = .plain ∧
      (unitMeta (moveWrite s p o bs marks) p (o.dst % 2 ^ 60 / 8192 + i)).width = widthBits o.width := by
  obtain ⟨htiles, -⟩ := dropResidentAt_tiles (writeMarked s p o.dst bs (plainMeta (widthBits o.width)) marks.1 marks.2) p o.dst bs.length
  have hpart := sameBytes_dropResidentAt p (writeMarked s p o.dst bs (plainMeta (widthBits o.width)) marks.1 marks.2) p o.dst bs.length
  have hmeta : ∀ u, unitMeta (moveWrite s p o bs marks) p u =
      unitMeta (writeMarked s p o.dst bs (plainMeta (widthBits o.width)) marks.1 marks.2) p u := fun u => by
    rw [unitMeta, unitMeta, moveWrite, htiles, physUnit_congr hpart.sleeves]
  rw [hmeta]
  exact unitMeta_writeMarked s _ _ _ h hstart hi

/-! COPY -/

/-- A COPY would carry marks to the window (R53, R66). -/
def carriesMarks (s : State) (p : Nat) (o : MoveOps) : Bool :=
  inWindow o.dst && ((marksOf s p o.src o.len).1 || (marksOf s p o.src o.len).2)

/-- The pin table without the pins that a COPY's bytes touch. -/
def pinsLeft (s : State) (p : Nat) (o : MoveOps) : List PinEntry := (part (unpin s p o.dst (copyLen s p o)) p).pins

/-- The state in which a COPY writes: the pins that it touches are gone, and its source has been read. -/
def copyRead (s : State) (p : Nat) (o : MoveOps) : State := countDram (unpin s p o.dst (copyLen s p o)) p o.src o.len false

/-- A COPY's bytes stand at the destination. -/
def copied (s : State) (p : Nat) (o : MoveOps) : State :=
  moveWrite (copyRead s p o) p o (pread s p o.src o.len) (marksOf s p o.src o.len)

/-- A COPY's key data stands in the pin region, its header in the pin table (R190). -/
def copyPinned (s : State) (p : Nat) (o : MoveOps) : State :=
  let bs := (pread s p o.src o.len).drop 64
  modPart (moveWrite (copyRead s p o) p o bs (marksOf s p o.src o.len)) p (fun x => { x with
    pins := x.pins ++ [{ first := o.dst % 2 ^ 60 / 8192, units := unitsOf bs.length, header := (pread s p o.src o.len).take 64 }] })

/-- A key stream that cannot be pinned: its header does not hold, or the table is full (R190). -/
def unpinnable (s : State) (p : Nat) (o : MoveOps) : Prop :=
  let hd := keyStreamOf ((pread s p o.src o.len).take 64)
  hd.len ≠ o.len - 64 ∨ hd.selfOk = false ∨ 16 ≤ (pinsLeft s p o).length

section Cases

variable {s : State} {h : DescHdr} {o : MoveOps} (id : Nat)

theorem startCopy_marked (hmarks : carriesMarks s h.p.val o = true) : startCopy s id h o = refuse s id stPolicy :=
  if_pos hmarks

theorem startCopy_copies (hmarks : carriesMarks s h.p.val o = false) (hpin : wantsPin s h.p.val o = false) :
    startCopy s id h o = finish (copied s h.p.val o) id stOk o.len :=
  (if_neg (by rw [carriesMarks] at hmarks; rw [hmarks]; exact Bool.false_ne_true)).trans (if_neg (by rw [hpin]; exact Bool.false_ne_true))

theorem startCopy_unpinnable (hmarks : carriesMarks s h.p.val o = false) (hpin : wantsPin s h.p.val o = true)
    (hno : unpinnable s h.p.val o) : startCopy s id h o = refuse s id stPolicy := by
  have hcond : 16 ≤ (pinsLeft s h.p.val o).length ∨ (keyStreamOf ((pread s h.p.val o.src o.len).take 64)).len ≠ o.len - 64 ∨
      (!(keyStreamOf ((pread s h.p.val o.src o.len).take 64)).selfOk) = true := by
    rcases hno with hlen | hself | hfull
    · exact .inr (.inl hlen)
    · exact .inr (.inr (by rw [hself]; rfl))
    · exact .inl hfull
  exact ((if_neg (by rw [carriesMarks] at hmarks; rw [hmarks]; exact Bool.false_ne_true)).trans (if_pos hpin)).trans (if_pos hcond)

theorem startCopy_pins (hmarks : carriesMarks s h.p.val o = false) (hpin : wantsPin s h.p.val o = true)
    (hyes : ¬ unpinnable s h.p.val o) : startCopy s id h o = finish (copyPinned s h.p.val o) id stOk o.len := by
  have hcond : ¬ (16 ≤ (pinsLeft s h.p.val o).length ∨ (keyStreamOf ((pread s h.p.val o.src o.len).take 64)).len ≠ o.len - 64 ∨
      (!(keyStreamOf ((pread s h.p.val o.src o.len).take 64)).selfOk) = true) := by
    rintro (hfull | hlen | hself)
    · exact hyes (.inr (.inr hfull))
    · exact hyes (.inl hlen)
    · exact hyes (.inr (.inl (Bool.not_eq_true' _ ▸ hself)))
  exact ((if_neg (by rw [carriesMarks] at hmarks; rw [hmarks]; exact Bool.false_ne_true)).trans (if_pos hpin)).trans (if_neg hcond)

end Cases

theorem onlyMoved_copyRead (s : State) (p : Nat) (o : MoveOps) : OnlyMoved p s (copyRead s p o) :=
  (onlyMoved_unpin s p _ _).trans (onlyMoved_of_writes (onlyUsage_countDram _ p _ _ _).toOnlyWrites)

theorem sameBytes_copyRead (s : State) (p : Nat) (o : MoveOps) : SameBytes p s (copyRead s p o) :=
  (sameBytes_unpin s p _ _).trans (onlyUsage_countDram _ p _ _ _).sameBytes

theorem pins_copyRead (s : State) (p : Nat) (o : MoveOps) : (part (copyRead s p o) p).pins = pinsLeft s p o :=
  pins_of_writes (onlyUsage_countDram _ p _ _ _).toOnlyWrites

/-! What the state that takes up a descriptor shows -/

section TakenUp

variable (s : State) (h : DescHdr) (b : DescBody) (p : Nat) (o : MoveOps)

theorem marksOf_takenUp (a len : Nat) : marksOf (takenUp s h b) p a len = marksOf s p a len :=
  marksOf_congr (sameBytes_takenUp s h b p) (by rw [takenUp_only]) (by rw [takenUp_only]) a len

theorem pread_takenUp (a len : Nat) : pread (takenUp s h b) p a len = pread s p a len := (sameBytes_takenUp s h b p).pread_eq a len

theorem wantsPin_takenUp : wantsPin (takenUp s h b) p o = wantsPin s p o := by
  simp only [wantsPin, takenUp_part, pread_takenUp]

theorem pinsLeft_takenUp : pinsLeft (takenUp s h b) p o = pinsLeft s p o := by
  simp only [pinsLeft, copyLen, wantsPin_takenUp]
  exact pins_unpin_congr (takenUp_part s h b p) _ _

end TakenUp

/-! Addresses -/

theorem region_of_addrFits {x : Partition} {a len align : Nat} (h : addrFits x a len align = true) : (regionOf a).isSome = true := by
  unfold addrFits at h
  split at h
  · exact absurd h Bool.false_ne_true
  · next hregion => rw [hregion]; rfl

/-- The operands of a COPY that passes its tests (R220). -/
theorem copy_operands {s : State} {h : DescHdr} {o : MoveOps} (hd : Dispatches s h (.copy o)) :
    64 ≤ o.len ∧ (regionOf o.src).isSome = true ∧ (regionOf o.dst).isSome = true := by
  have hrange : moveRange o = true := rangeOk_of_dispatches hd
  have haddr : copyAddress s h.p.val o = true := addressOk_of_dispatches hd
  simp only [moveRange, Bool.and_eq_true, decide_eq_true_eq] at hrange
  simp only [copyAddress, moveDstFits, Bool.and_eq_true] at haddr
  obtain ⟨⟨⟨hlen, -⟩, -⟩, -⟩ := hrange
  obtain ⟨⟨hsrc, hdst, -⟩, -⟩ := haddr
  exact ⟨hlen, region_of_addrFits hsrc, region_of_addrFits hdst⟩

/-- The operands of a FILL that passes its tests (R220). -/
theorem fill_operands {s : State} {h : DescHdr} {o : MoveOps} (hd : Dispatches s h (.fill o)) :
    o.len % 64 = 0 ∧ (inPocket o.dst = true → o.dst % 8192 = 0) := by
  have hrange : moveRange o = true := rangeOk_of_dispatches hd
  have haddr : moveDstFits (part s h.p.val) o.dst o.len = true := addressOk_of_dispatches hd
  simp only [moveRange, Bool.and_eq_true, beq_iff_eq] at hrange
  simp only [moveDstFits, Bool.and_eq_true, Bool.or_eq_true, Bool.not_eq_true', beq_iff_eq] at haddr
  obtain ⟨⟨-, hwhole⟩, -⟩ := hrange
  obtain ⟨-, hstart⟩ := haddr
  exact ⟨hwhole, fun hpocket => hstart.resolve_left (by rw [hpocket]; exact Bool.true_eq_false.mp)⟩

/-- What is written in the Pocket leaves DRAM. -/
theorem pwrite_dram_of_pocket {a : Nat} (h : inPocket a = true) (s : State) (p : Nat) (bs : Bytes) : (pwrite s p a bs).dram = s.dram := by
  have ha : a / 2 ^ 60 = 2 := eq_of_beq h
  rw [pwrite_dram]
  exact writePieces_dram_of_lining s bs (fun c hc => lining_of_mem_pieces (by omega) hc)

/-! How a move ends -/

theorem part_finish (s : State) (p id st r : Nat) : part (finish s id st r) p = part s p :=
  rfl

/-- A move that is written ends OK, with everything beside the partition's memory, counters and pins as it was. -/
theorem ends_moved {s W : State} {h : DescHdr} {b : DescBody} (hordered : FlightsOrdered s) (hW : OnlyMoved h.p.val (takenUp s h b) W)
    (r : Nat) :
    Ends s (finish W s.nextId stOk r) h b stOk r ∧ OthersKept s (finish W s.nextId stOk r) h.p.val ∧
      (finish W s.nextId stOk r).regs = s.regs := by
  have hflight : flight W s.nextId = some (takenFlight s h b (reserves s h b)) :=
    (flight_congr hW.inflight _).trans (flight_takenUp hordered h b)
  have hnow : now W = now s := by
    rw [Machine.now, hW.time]
    exact takenUp_now s h b
  exact ⟨ends_finish stOk r hflight rfl rfl hnow, fun q hq => (hW.others q hq).trans (takenUp_part s h b q),
    hW.regs.trans (takenUp_regs s h b)⟩

theorem refused_at_once {s : State} (hordered : FlightsOrdered s) (h : DescHdr) (b : DescBody) :
    Ends s (refuse (takenUp s h b) s.nextId stPolicy) h b stPolicy 0 ∧ OnlyFlights s (refuse (takenUp s h b) s.nextId stPolicy) ∧
      StoreKept s (refuse (takenUp s h b) s.nextId stPolicy) := by
  obtain ⟨hends, honly⟩ := finish_takenUp hordered h b stPolicy 0
  exact ⟨hends, honly, honly.store⟩

theorem onlyMoved_moveWrite {s v : State} {h : DescHdr} {b : DescBody} (hv : OnlyMoved h.p.val (takenUp s h b) v) (o : MoveOps) (bs : Bytes)
    (marks : Bool × Bool) : OnlyMoved h.p.val (takenUp s h b) (moveWrite v h.p.val o bs marks) :=
  hv.trans (onlyMoved_of_writes (onlyWrites_moveWrite v h.p.val o bs marks))

/-- The memories after a move's write, from those before its dispatch. -/
theorem sameBytes_moved {s v : State} {h : DescHdr} {b : DescBody} (hv : SameBytes h.p.val (takenUp s h b) v) (o : MoveOps) (bs : Bytes)
    (marks : Bool × Bool) : SameBytes h.p.val (pwrite s h.p.val o.dst bs) (moveWrite v h.p.val o bs marks) :=
  (((sameBytes_takenUp s h b h.p.val).trans hv).pwrite_same o.dst bs).trans (sameBytes_moveWrite v h.p.val o bs marks)

section Copy

variable {s : State} {h : DescHdr} {o : MoveOps} (hordered : FlightsOrdered s) (hd : Dispatches s h (.copy o))
include hd

theorem answers_startCopy : Answers (.copy h o) s (startCopy (takenUp s h (.copy o)) s.nextId h o) :=
  answers_runBody rfl hd (fun _ => rfl)

include hordered

theorem copy_refused_marked (hmarks : carriesMarks s h.p.val o = true) :
    ∃ t, Answers (.copy h o) s t ∧ Ends s t h (.copy o) stPolicy 0 ∧ OnlyFlights s t ∧ StoreKept s t := by
  have hans := answers_startCopy hd
  rw [startCopy_marked _ (by rw [carriesMarks, marksOf_takenUp]; exact hmarks)] at hans
  exact ⟨_, hans, refused_at_once hordered h _⟩

theorem copy_writes (hmarks : carriesMarks s h.p.val o = false) (hpin : wantsPin s h.p.val o = false) :
    ∃ t, Answers (.copy h o) s t ∧ Ends s t h (.copy o) stOk o.len ∧
      t.lining = (pwrite s h.p.val o.dst (pread s h.p.val o.src o.len)).lining ∧
      t.dram = (pwrite s h.p.val o.dst (pread s h.p.val o.src o.len)).dram ∧
      ((marksOf s h.p.val o.src o.len).1 = true → (marksOf t h.p.val o.dst o.len).1 = true) ∧
      ((marksOf s h.p.val o.src o.len).2 = true → (marksOf t h.p.val o.dst o.len).2 = true) ∧
      (part t h.p.val).pins = pinsLeft s h.p.val o ∧ OthersKept s t h.p.val ∧ t.regs = s.regs := by
  have hans := answers_startCopy hd
  rw [startCopy_copies _ (by rw [carriesMarks, marksOf_takenUp]; exact hmarks) (by rw [wantsPin_takenUp]; exact hpin), copied,
    pread_takenUp, marksOf_takenUp] at hans
  obtain ⟨hlen, hsrc, hdst⟩ := copy_operands hd
  have hbytes : (pread s h.p.val o.src o.len).length = o.len := pread_length hsrc
  have hread := onlyMoved_copyRead (takenUp s h (.copy o)) h.p.val o
  have hsame := sameBytes_moved (sameBytes_copyRead (takenUp s h (.copy o)) h.p.val o) o (pread s h.p.val o.src o.len)
    (marksOf s h.p.val o.src o.len)
  have hmarked := marksOf_moveWrite (copyRead (takenUp s h (.copy o)) h.p.val o) (p := h.p.val) (bs := pread s h.p.val o.src o.len)
    (marksOf s h.p.val o.src o.len) hdst (by omega)
  rw [hbytes] at hmarked
  obtain ⟨hends, hothers, hregs⟩ := ends_moved hordered (onlyMoved_moveWrite hread o _ _) o.len
  have hpins := (pins_copyRead (takenUp s h (.copy o)) h.p.val o).trans (pinsLeft_takenUp s h _ _ o)
  exact ⟨_, hans, hends, hsame.lining, hsame.dram, hmarked.1, hmarked.2,
    (pins_of_writes (onlyWrites_moveWrite _ h.p.val o _ _)).trans hpins, hothers, hregs⟩

theorem copy_refused_unpinnable (hmarks : carriesMarks s h.p.val o = false) (hpin : wantsPin s h.p.val o = true)
    (hno : unpinnable s h.p.val o) :
    ∃ t, Answers (.copy h o) s t ∧ Ends s t h (.copy o) stPolicy 0 ∧ OnlyFlights s t ∧ StoreKept s t := by
  have hans := answers_startCopy hd
  rw [startCopy_unpinnable _ (by rw [carriesMarks, marksOf_takenUp]; exact hmarks) (by rw [wantsPin_takenUp]; exact hpin)
    (by simp only [unpinnable, pread_takenUp, pinsLeft_takenUp]; exact hno)] at hans
  exact ⟨_, hans, refused_at_once hordered h _⟩

theorem copy_pins (hmarks : carriesMarks s h.p.val o = false) (hpin : wantsPin s h.p.val o = true) (hyes : ¬ unpinnable s h.p.val o) :
    ∃ t, Answers (.copy h o) s t ∧ Ends s t h (.copy o) stOk o.len ∧
      t.lining = (pwrite s h.p.val o.dst ((pread s h.p.val o.src o.len).drop 64)).lining ∧
      t.dram = s.dram ∧ OthersKept s t h.p.val ∧ t.regs = s.regs ∧
      (part t h.p.val).pins = pinsLeft s h.p.val o ++
        [{ first := o.dst % 2 ^ 60 / 8192, units := unitsOf (o.len - 64), header := (pread s h.p.val o.src o.len).take 64 }] := by
  have hans := answers_startCopy hd
  rw [startCopy_pins _ (by rw [carriesMarks, marksOf_takenUp]; exact hmarks) (by rw [wantsPin_takenUp]; exact hpin)
    (by simp only [unpinnable, pread_takenUp, pinsLeft_takenUp]; exact hyes), copyPinned, pread_takenUp, marksOf_takenUp] at hans
  obtain ⟨-, hsrc, -⟩ := copy_operands hd
  have hbytes : ((pread s h.p.val o.src o.len).drop 64).length = o.len - 64 := by rw [List.length_drop, pread_length hsrc]
  rw [hbytes] at hans
  have hpocket : inPocket o.dst = true := by
    simp only [wantsPin, inPin, Bool.and_eq_true] at hpin
    exact hpin.1.1.1.1.1
  have hread := onlyMoved_copyRead (takenUp s h (.copy o)) h.p.val o
  have hsame := sameBytes_moved (sameBytes_copyRead (takenUp s h (.copy o)) h.p.val o) o ((pread s h.p.val o.src o.len).drop 64)
    (marksOf s h.p.val o.src o.len)
  have hpins := (pins_copyRead (takenUp s h (.copy o)) h.p.val o).trans (pinsLeft_takenUp s h _ _ o)
  have hwritten := (pins_of_writes (onlyWrites_moveWrite (copyRead (takenUp s h (.copy o)) h.p.val o) h.p.val o
    ((pread s h.p.val o.src o.len).drop 64) (marksOf s h.p.val o.src o.len))).trans hpins
  obtain ⟨hends, hothers, hregs⟩ := ends_moved hordered ((onlyMoved_moveWrite hread o _ _).trans (onlyMoved_pins _ h.p.val (fun x =>
    x.pins ++ [{ first := o.dst % 2 ^ 60 / 8192, units := unitsOf (o.len - 64), header := (pread s h.p.val o.src o.len).take 64 }]))) o.len
  refine ⟨_, hans, hends, hsame.lining, hsame.dram.trans (pwrite_dram_of_pocket hpocket s _ _), hothers, hregs, ?_⟩
  rw [part_finish, part_modPart_same, ← hwritten]

end Copy

/-! FILL -/

theorem fillBytes_length {len : Nat} (h : len % 64 = 0) (pattern : Nat) : (fillBytes pattern len).length = len := by
  have hword : (natLe 8 pattern).length = 8 := Tests.natLe_length 8 pattern
  rw [fillBytes, List.length_flatten, List.map_replicate, List.sum_replicate, hword, smul_eq_mul]
  omega

theorem fill_writes {s : State} {h : DescHdr} {o : MoveOps} (hordered : FlightsOrdered s) (hd : Dispatches s h (.fill o)) :
    ∃ t, Answers (.fill h o) s t ∧ Ends s t h (.fill o) stOk o.len ∧
      t.lining = (pwrite s h.p.val o.dst (fillBytes o.src o.len)).lining ∧ t.dram = (pwrite s h.p.val o.dst (fillBytes o.src o.len)).dram ∧
      (inPocket o.dst = true → ∀ i, i < unitsOf o.len → (unitMeta t h.p.val (o.dst % 2 ^ 60 / 8192 + i)).state = .plain ∧
        (unitMeta t h.p.val (o.dst % 2 ^ 60 / 8192 + i)).width = widthBits o.width) ∧
      (part t h.p.val).pins = (part (unpin s h.p.val o.dst o.len) h.p.val).pins ∧ OthersKept s t h.p.val ∧ t.regs = s.regs := by
  have hans : Answers (.fill h o) s (startFill (takenUp s h (.fill o)) s.nextId h o) := answers_runBody rfl hd (fun _ => rfl)
  rw [startFill] at hans
  obtain ⟨hwhole, hstart⟩ := fill_operands hd
  have hlength := fillBytes_length hwhole o.src
  have hsame := sameBytes_moved (sameBytes_unpin (takenUp s h (.fill o)) h.p.val o.dst o.len) o (fillBytes o.src o.len) (false, false)
  obtain ⟨hends, hothers, hregs⟩ := ends_moved hordered
    (onlyMoved_moveWrite (onlyMoved_unpin (takenUp s h (.fill o)) h.p.val o.dst o.len) o (fillBytes o.src o.len) (false, false)) o.len
  refine ⟨_, hans, hends, hsame.lining, hsame.dram, fun hpocket i hi => ?_, ?_, hothers, hregs⟩
  · exact unitMeta_moveWrite (unpin (takenUp s h (.fill o)) h.p.val o.dst o.len) (false, false) hpocket (hstart hpocket) (by rw [hlength]; exact hi)
  · exact (pins_of_writes (onlyWrites_moveWrite _ h.p.val o _ _)).trans (pins_unpin_congr (takenUp_part s h _ _) _ _)

/-- Settles O11, case by case of `startCopy` (`copy_refused_marked`, `copy_writes`, `copy_refused_unpinnable`, `copy_pins`) and by
`fill_writes`. -/
theorem movesStoreBytesAndMarks : Obligations.MovesStoreBytesAndMarks := by
  refine ⟨fun s h o hordered hd => ⟨copy_refused_marked hordered hd, copy_writes hordered hd, fun hmarks hpin => ⟨?_, ?_⟩⟩,
    fun s h o hordered hd => fill_writes hordered hd⟩
  · exact copy_refused_unpinnable hordered hd hmarks hpin
  · intro hlen hself hroom
    refine copy_pins hordered hd hmarks hpin ?_
    rintro (hno | hno | hno)
    · exact hno hlen
    · exact absurd (hself.symm.trans hno) Bool.true_eq_false.mp
    · exact absurd hroom (Nat.not_lt.mpr hno)

end Sys2Proof.Proofs.Moves
end

section
/-! O20: `CompletionsReachTheirRings` is refuted. Its clause on the moderation timer keeps everything but the outputs, the partitions and
time. The interrupt is a posted write of 4 bytes over the CCL, so a debug counter that counts CCL bytes (R402, event 13) counts it. -/

namespace Sys2Proof.Proofs.Completions

open Sys2Proof Sys2Proof.Machine

/-- CQ_MOD_TIMER_EXPIRY leaves the state of `moderationExpired`, and no other. -/
theorem answers_cqModTimerExpiry_iff {p : Fin 16} {c : Fin 8} {s t : State} :
    Answers (.cqModTimerExpiry p c) s t ↔ moderationExpired s p.val c.val = t :=
  ⟨Host.Outcome.next.inj, congrArg Host.Outcome.next⟩

/-- What the obligation claims of a moderation timer that runs out: the debug block is as it was. -/
theorem moderationExpired_dbg_of_completionsReachTheirRings (h : Obligations.CompletionsReachTheirRings) {s : State} {p : Fin 16}
    {c : Fin 8} {t0 : Nat} (htimer : (cqOf s p.val c.val).timerFrom = some t0) (hmod : regField s (.cqMod p.val c.val) 31 16 ≠ 0)
    (henabled : regField s (.cqCtrl p.val c.val) 1 1 = 1) : (moderationExpired s p.val c.val).dbg = s.dbg := by
  obtain ⟨-, hrings⟩ := h
  obtain ⟨hexpires, -⟩ := hrings s p c
  obtain ⟨t, hanswer, -, -, -, -, hkept⟩ := hexpires t0 htimer hmod henabled
  rw [answers_cqModTimerExpiry_iff.mp hanswer, hkept]

/-- Completion ring 0 of partition 0 has its interrupts enabled (CQ_CTRL bit 1) and a moderation timer of 1 us that runs; debug counter 0
is enabled (bit 31) and counts event 13, the CCL bytes of all scopes. -/
def countedTimer : State :=
  setReg (setReg (setReg { State.reset with parts := [(0, { cq := [(0, { timerFrom := some 99000 })] })] } (.cqMod 0 0) (2 ^ 16))
    (.cqCtrl 0 0) 2) (.dbgCntSel 0) (2 ^ 31 + 13)

/-- The premises of the clause hold there. -/
theorem countedTimer_meets_premises :
    (cqOf countedTimer 0 0).timerFrom = some 99000 ∧ regField countedTimer (.cqMod 0 0) 31 16 ≠ 0 ∧
      regField countedTimer (.cqCtrl 0 0) 1 1 = 1 := by
  decide +kernel

/-- The interrupt's 4 bytes are counted: the counter stood at 0 and stands at 4. -/
theorem moderationExpired_countedTimer_counts_bytes :
    tabGet 0 countedTimer.dbg.counts 0 = 0 ∧ tabGet 0 (moderationExpired countedTimer 0 0).dbg.counts 0 = 4 := by
  decide +kernel

/-- Refutes O20: where a debug counter counts the CCL bytes, the interrupt of a moderation timer raises it by 4, while the clause keeps
the debug block as it was. -/
theorem not_completionsReachTheirRings : ¬ Obligations.CompletionsReachTheirRings := by
  intro h
  obtain ⟨htimer, hmod, henabled⟩ := countedTimer_meets_premises
  obtain ⟨hbefore, hafter⟩ := moderationExpired_countedTimer_counts_bytes
  have hdbg : (moderationExpired countedTimer 0 0).dbg = countedTimer.dbg :=
    moderationExpired_dbg_of_completionsReachTheirRings h (p := 0) (c := 0) htimer hmod henabled
  rw [hdbg, hbefore] at hafter
  exact absurd hafter (by decide)

end Sys2Proof.Proofs.Completions
end

section
/-! O18: doorbells, batches and bursts (R209 to R213). What feeds a ring changes the partition's rings and its usage counters alone;
each descriptor of a burst is one step (`fetchOne`) of an induction over the burst. -/

namespace Sys2Proof.Proofs.Doorbells

open Sys2Proof Sys2Proof.Machine
open Sys2Proof.Proofs.Writes Sys2Proof.Proofs.LoggedWork Sys2Proof.Proofs.Reports Sys2Proof.Proofs.RingSetUp

/-! What feeds a ring changes -/

/-- From `s` to `t` submission rings and usage of partition `p` have changed at most, and debug counters. -/
structure OnlyFeeds (p : Nat) (s t : State) : Prop where
  update : t = { s with parts := t.parts, dbg := t.dbg }
  others : OthersKept s t p
  own : part t p = { part s p with sq := (part t p).sq, usage := (part t p).usage }

theorem OnlyFeeds.refl (p : Nat) (s : State) : OnlyFeeds p s s := ⟨rfl, fun _ _ => rfl, rfl⟩

theorem OnlyFeeds.trans {p : Nat} {s t u : State} (h1 : OnlyFeeds p s t) (h2 : OnlyFeeds p t u) : OnlyFeeds p s u :=
  ⟨by rw [h2.update, h1.update], othersKept_trans h1.others h2.others, by rw [h2.own, h1.own]⟩

theorem OnlyFeeds.out {p : Nat} {s t : State} (h : OnlyFeeds p s t) : t.out = s.out := by rw [h.update]

theorem OnlyFeeds.regs {p : Nat} {s t : State} (h : OnlyFeeds p s t) : t.regs = s.regs := by rw [h.update]

theorem OnlyFeeds.storeKept {p : Nat} {s t : State} (h : OnlyFeeds p s t) : StoreKept s t := by
  rw [h.update]
  exact ⟨fun _ => ⟨rfl, rfl⟩, rfl, rfl⟩

theorem onlyFeeds_modSq (s : State) (p r : Nat) (f : SqRing → SqRing) : OnlyFeeds p s (modSq s p r f) :=
  ⟨rfl, othersKept_modPart s p _, by rw [modSq, part_modPart_same]⟩

theorem modUsage_only (s : State) (p : Nat) (f : Usage → Usage) :
    modUsage s p f = { s with parts := (modUsage s p f).parts, dbg := (modUsage s p f).dbg } := by
  rw [modUsage, countEvent_only, countEvent_only]
  rfl

theorem onlyFeeds_countCcl (s : State) (p i o : Nat) : OnlyFeeds p s (countCcl s p i o) := by
  have h := onlyUsage_modUsage s p (fun u => { u with cclIn := satAdd u.cclIn i, cclOut := satAdd u.cclOut o })
  exact ⟨modUsage_only s p _, h.others, by rw [countCcl, h.own]⟩

@[simp] theorem sqOf_countCcl (s : State) (p i o r : Nat) : sqOf (countCcl s p i o) p r = sqOf s p r := by
  rw [sqOf, countCcl, (onlyUsage_modUsage s p _).own]
  rfl

theorem onlyFeeds_settleRing (s : State) (p r : Nat) : OnlyFeeds p s (settleRing s p r) := by
  unfold settleRing
  dsimp only
  split
  · exact onlyFeeds_modSq s p r _
  · exact OnlyFeeds.refl p s

/-- Settling a ring leaves its counts and its buffer. -/
theorem sqOf_settleRing (s : State) (p r : Nat) :
    sqOf (settleRing s p r) p r = { sqOf s p r with mode := (sqOf (settleRing s p r) p r).mode } := by
  unfold settleRing
  dsimp only
  split
  · rw [sqOf_modSq_same]
  · rfl

/-- A ring with a batch to fetch stays as it is. -/
theorem settleRing_of_batches {s : State} {p r : Nat} (h : (sqOf s p r).batches ≠ []) : settleRing s p r = s :=
  if_neg fun ⟨_, _, hempty⟩ => h (List.isEmpty_iff.mp hempty)

/-! The head line -/

theorem posted_countCcl (s : State) (p i o : Nat) : Posted p s (countCcl s p i o) := by
  rw [countCcl]
  exact posted_modUsage s p _

@[simp] theorem sqOf_emit (s : State) (o : Output) (p r : Nat) : sqOf (emit s o) p r = sqOf s p r := rfl

@[simp] theorem sqOf_writeHead (s : State) (p r c : Nat) : sqOf (writeHead s p r) p c = sqOf s p c :=
  sqOf_countCcl (emit s _) p 0 64 c

theorem writeHead_out (s : State) (p r : Nat) : (writeHead s p r).out = s.out ++ [.cclWrite (reg s (.sqHeadln p r)) (headLine s p r)] :=
  (onlyFeeds_countCcl (emit s _) p 0 64).out

/-- The head line is posted: beside what leaves the module, usage alone changes. -/
theorem posted_writeHead (s : State) (p r : Nat) : Posted p s (writeHead s p r) :=
  (posted_emit p s _).trans (posted_countCcl _ p 0 64)

theorem writeHead_regs (s : State) (p r : Nat) : (writeHead s p r).regs = s.regs := by rw [(posted_writeHead s p r).update]

theorem writeHead_faults (s : State) (p r : Nat) : (writeHead s p r).faults = s.faults := by rw [(posted_writeHead s p r).update]

theorem storeKept_writeHead (s : State) (p r : Nat) : StoreKept s (writeHead s p r) := by
  rw [(posted_writeHead s p r).update]
  exact ⟨fun _ => ⟨rfl, rfl⟩, rfl, rfl⟩

/-- The line tells the ring's counts, its mode and the partition's generation, which writing it leaves. -/
theorem headLine_writeHead (s : State) (p r : Nat) : headLine (writeHead s p r) p r = headLine s p r := by
  have hgen : (part (writeHead s p r) p).gen = (part s p).gen := by rw [(posted_writeHead s p r).own]
  simp only [headLine, sqOf_writeHead, hgen]

/-! Invalidations -/

theorem invalidate_of_stopped {s : State} {p r : Nat} (h : (sqOf s p r).mode = .disabled ∨ (sqOf s p r).mode = .stopped) (i : Instant) :
    invalidate s p r i = s :=
  if_pos h

theorem invalidate_of_fetching {s : State} {p r : Nat} (hdisabled : (sqOf s p r).mode ≠ .disabled) (hstopped : (sqOf s p r).mode ≠ .stopped)
    (i : Instant) :
    invalidate s p r i =
      readDescs (emit (modSq s p r (fun y => { y with mode := .fetch, reads := y.reads ++ [i] })) (.lineRead (reg s (.sqDb p r)))) p r
        (sqOf s p r).fetched (min 4 (bufferRoom (sqOf s p r))) :=
  if_neg fun h => h.elim hdisabled hstopped

/-- Which lines are read depends on what has left before and on the registers. -/
theorem readDescs_out_congr {s t : State} (hout : t.out = s.out) (hregs : t.regs = s.regs) (p r c n : Nat) :
    (readDescs t p r c n).out = (readDescs s p r c n).out := by
  have hbase : reg t (.sqBase p r) = reg s (.sqBase p r) := reg_congr hregs _
  have hsize : sqSize t p r = sqSize s p r := by simp only [sqSize, regField_congr (reg_congr hregs _)]
  simp only [readDescs, hbase, hsize]
  generalize min n (sqSize s p r - c % sqSize s p r) = k
  by_cases hk : k = 0
  · rw [if_pos hk, if_pos hk]
    split
    · exact hout
    · rw [emit_out, emit_out, hout]
  · rw [if_neg hk, if_neg hk]
    split
    · rw [emit_out, emit_out, hout]
    · rw [emit_out, emit_out, emit_out, emit_out, hout]

/-! A burst, descriptor by descriptor -/

/-- The buffered descriptor read as `b`, the ring's next, with the stamp of batch `a`. -/
def fetchedAs (s : State) (p : Fin 16) (r : Fin 8) (c : Nat) (a : Batch) (b : Bytes) : Fetched :=
  { h := headOf p r (c % sqSize s p.val r.val) a.stamp b, body := bodyOf b, waited := false }

/-- One descriptor of batch `a` is taken. -/
def fetchOne (s : State) (p : Fin 16) (r : Fin 8) (a : Batch) (rest : List Batch) (b : Bytes) : State :=
  countCcl (modSq s p.val r.val (fun y =>
    { y with fetched := ((sqOf s p.val r.val).fetched + 1) % 2 ^ 32,
             buffer := y.buffer ++ [fetchedAs s p r (sqOf s p.val r.val).fetched a b],
             batches := if ((sqOf s p.val r.val).fetched + 1) % 2 ^ 32 = a.tail then rest else y.batches })) p.val 64 0

theorem takeDescs_nil (s : State) (p : Fin 16) (r : Fin 8) : ∀ n, takeDescs s p r n [] = s
  | 0 => rfl
  | _ + 1 => rfl

theorem takeDescs_cons {s : State} {p : Fin 16} {r : Fin 8} {a : Batch} {rest : List Batch} (hbatches : (sqOf s p.val r.val).batches = a :: rest)
    (hmore : unfetched (sqOf s p.val r.val) ≠ 0) (hroom : bufferRoom (sqOf s p.val r.val) ≠ 0) (n : Nat) (b : Bytes) (bs : List Bytes) :
    takeDescs s p r (n + 1) (b :: bs) = takeDescs (fetchOne s p r a rest b) p r n bs := by
  rw [takeDescs]
  dsimp only
  rw [if_neg (by simp [hmore, hroom]), hbatches]
  rfl

theorem onlyFeeds_fetchOne (s : State) (p : Fin 16) (r : Fin 8) (a : Batch) (rest : List Batch) (b : Bytes) :
    OnlyFeeds p.val s (fetchOne s p r a rest b) :=
  (onlyFeeds_modSq s p.val r.val _).trans (onlyFeeds_countCcl _ p.val 64 0)

theorem sqOf_fetchOne (s : State) (p : Fin 16) (r : Fin 8) (a : Batch) (rest : List Batch) (b : Bytes) :
    sqOf (fetchOne s p r a rest b) p.val r.val =
      { sqOf s p.val r.val with
        fetched := ((sqOf s p.val r.val).fetched + 1) % 2 ^ 32,
        buffer := (sqOf s p.val r.val).buffer ++ [fetchedAs s p r (sqOf s p.val r.val).fetched a b],
        batches := if ((sqOf s p.val r.val).fetched + 1) % 2 ^ 32 = a.tail then rest else (sqOf s p.val r.val).batches } := by
  rw [fetchOne, sqOf_countCcl, sqOf_modSq_same]

/-- A ring takes `n` descriptors of its batch with tail `tail`: the buffer has room, and so many are not fetched. -/
structure CanTake (q : SqRing) (tail n : Nat) : Prop where
  countBound : q.fetched < 2 ^ 32
  tailBound : tail < 2 ^ 32
  room : n ≤ bufferRoom q
  more : n ≤ unfetched q
  batch : n ≤ countDiff tail q.fetched

/-- A count that has not been reached is one nearer after one more descriptor. -/
theorem countDiff_succ {a c : Nat} (h : countDiff a c ≠ 0) (hc : c < 2 ^ 32) : countDiff a ((c + 1) % 2 ^ 32) = countDiff a c - 1 := by
  unfold countDiff at *
  omega

/-- The next count is the batch's tail where one descriptor of the batch is left. -/
theorem countDiff_of_last {a c : Nat} (h : (c + 1) % 2 ^ 32 = a) : countDiff a c = 1 := by
  unfold countDiff
  omega

/-- After one descriptor the ring takes one less. -/
theorem canTake_fetchOne {s : State} {p : Fin 16} {r : Fin 8} {tail n : Nat} (h : CanTake (sqOf s p.val r.val) tail (n + 1)) (a : Batch)
    (rest : List Batch) (b : Bytes) : CanTake (sqOf (fetchOne s p r a rest b) p.val r.val) tail n := by
  obtain ⟨hfetched, htail, hroom, hunfetched, hbatch⟩ := h
  rw [sqOf_fetchOne]
  refine ⟨Nat.mod_lt _ (by decide), htail, ?_, ?_, ?_⟩
  · simp only [bufferRoom, List.length_append, List.length_singleton] at hroom ⊢
    omega
  · simp only [unfetched] at hunfetched ⊢
    rw [countDiff_succ (by omega) hfetched]
    omega
  · dsimp only
    rw [countDiff_succ (by omega) hfetched]
    omega

/-- What a burst leaves that its ring takes. -/
structure Took (p : Fin 16) (r : Fin 8) (a : Batch) (descs : List Bytes) (s t : State) : Prop where
  feeds : OnlyFeeds p.val s t
  fetched : (sqOf t p.val r.val).fetched = ((sqOf s p.val r.val).fetched + descs.length) % 2 ^ 32
  buffer : (sqOf t p.val r.val).buffer = (sqOf s p.val r.val).buffer ++
    descs.mapIdx (fun i b => fetchedAs s p r (((sqOf s p.val r.val).fetched + i) % 2 ^ 32) a b)

theorem fetchedAs_congr {s t : State} {p : Fin 16} (h : OnlyFeeds p.val s t) (r : Fin 8) : fetchedAs t p r = fetchedAs s p r := by
  funext c a b
  simp only [fetchedAs, sqSize, regField, reg, h.regs]

theorem took_nil {s : State} {p : Fin 16} {r : Fin 8} (h : (sqOf s p.val r.val).fetched < 2 ^ 32) (a : Batch) : Took p r a [] s s :=
  ⟨OnlyFeeds.refl _ s, (Nat.mod_eq_of_lt h).symm, (List.append_nil _).symm⟩

theorem took_cons {s t : State} {p : Fin 16} {r : Fin 8} {a : Batch} {rest : List Batch} {b : Bytes} {bs : List Bytes}
    (hfetched : (sqOf s p.val r.val).fetched < 2 ^ 32) (h : Took p r a bs (fetchOne s p r a rest b) t) : Took p r a (b :: bs) s t := by
  have hone := onlyFeeds_fetchOne s p r a rest b
  have hring := sqOf_fetchOne s p r a rest b
  refine ⟨hone.trans h.feeds, ?_, ?_⟩
  · rw [h.fetched, hring, List.length_cons, Nat.mod_add_mod]
    congr 1
    omega
  · have hcount : ∀ i, (((sqOf s p.val r.val).fetched + 1) % 2 ^ 32 + i) % 2 ^ 32 = ((sqOf s p.val r.val).fetched + (i + 1)) % 2 ^ 32 := by
      intro i
      omega
    rw [h.buffer, hring, fetchedAs_congr hone]
    simp only [List.mapIdx_cons, Nat.add_zero, Nat.mod_eq_of_lt hfetched, hcount, List.append_assoc, List.singleton_append]

/-- A burst within the batch and the buffer's room is taken whole. -/
theorem takeDescs_takes {p : Fin 16} {r : Fin 8} {a : Batch} {rest : List Batch} (descs : List Bytes) :
    ∀ (n : Nat) (s : State), descs.length ≤ n → (sqOf s p.val r.val).batches = a :: rest →
      CanTake (sqOf s p.val r.val) a.tail descs.length → Took p r a descs s (takeDescs s p r n descs) := by
  induction descs with
  | nil =>
    intro n s _ _ hcan
    rw [takeDescs_nil]
    exact took_nil hcan.countBound a
  | cons b bs ih =>
    intro n s hn hbatches hcan
    obtain ⟨m, rfl⟩ : ∃ m, n = m + 1 := ⟨n - 1, by rw [List.length_cons] at hn; omega⟩
    have hsome : 0 < (b :: bs).length := List.length_pos_iff.mpr (List.cons_ne_nil b bs)
    have hcan' := canTake_fetchOne hcan a rest b
    rw [takeDescs_cons hbatches (by have := hcan.more; omega) (by have := hcan.room; omega)]
    refine took_cons (rest := rest) hcan.countBound ?_
    by_cases hlast : ((sqOf s p.val r.val).fetched + 1) % 2 ^ 32 = a.tail
    · have hone := countDiff_of_last hlast
      have hbatch := hcan.batch
      obtain rfl : bs = [] := List.eq_nil_of_length_eq_zero (by rw [List.length_cons] at hbatch; omega)
      rw [takeDescs_nil]
      exact took_nil hcan'.countBound a
    · exact ih m _ (Nat.le_of_succ_le_succ hn) (by rw [sqOf_fetchOne, if_neg hlast]; exact hbatches) hcan'

/-! The commands -/

/-- An invalidation of a ring that fetches: it is stamped, and the reads of R211 go out. -/
theorem invalidation_takes (s : State) (p : Fin 16) (r : Fin 8) (dt frac : Nat) (hdisabled : (sqOf s p.val r.val).mode ≠ .disabled)
    (hstopped : (sqOf s p.val r.val).mode ≠ .stopped) :
    ∃ t, Answers (.doorbellInvalidation p r dt frac) s t ∧
      sqOf t p.val r.val = { sqOf s p.val r.val with mode := .fetch, reads := (sqOf s p.val r.val).reads ++ [instant t] } ∧
      t.out = (readDescs (emit s (.lineRead (reg s (.sqDb p.val r.val)))) p.val r.val (sqOf s p.val r.val).fetched
        (min 4 (bufferRoom (sqOf s p.val r.val)))).out ∧
      t.time = (elapseTo s dt frac).time ∧ t = { s with out := t.out, parts := t.parts, time := t.time } ∧ OthersKept s t p.val := by
  generalize hv : elapseTo s dt frac = v
  have hupdate : v = { s with time := v.time } := by rw [← hv]; rfl
  have hring : sqOf v p.val r.val = sqOf s p.val r.val := by rw [hupdate]; rfl
  generalize hu : emit (modSq v p.val r.val (fun y => { y with mode := .fetch, reads := y.reads ++ [instant v] }))
    (.lineRead (reg v (.sqDb p.val r.val))) = u
  have honly := (readDescs_only u p.val r.val (sqOf s p.val r.val).fetched (min 4 (bufferRoom (sqOf s p.val r.val)))).2
  have hreads := readDescs_out_congr (s := emit s (.lineRead (reg s (.sqDb p.val r.val)))) (t := u) (by rw [← hu, hupdate]; rfl)
    (by rw [← hu, hupdate]; rfl) p.val r.val (sqOf s p.val r.val).fetched (min 4 (bufferRoom (sqOf s p.val r.val)))
  have hans : Answers (.doorbellInvalidation p r dt frac) s
      (readDescs u p.val r.val (sqOf s p.val r.val).fetched (min 4 (bufferRoom (sqOf s p.val r.val)))) := by
    change Host.Outcome.next (invalidate (elapseTo s dt frac) p.val r.val (instant (elapseTo s dt frac))) = _
    rw [hv, invalidate_of_fetching (by rw [hring]; exact hdisabled) (by rw [hring]; exact hstopped), hring, hu]
  generalize readDescs u p.val r.val (sqOf s p.val r.val).fetched (min 4 (bufferRoom (sqOf s p.val r.val))) = t at honly hreads hans
  have htime : t.time = v.time := by rw [honly, ← hu]; rfl
  have hparts : t.parts = (modSq v p.val r.val (fun y => { y with mode := .fetch, reads := y.reads ++ [instant v] })).parts := by
    rw [honly, ← hu]; rfl
  refine ⟨t, hans, ?_, hreads, htime, ?_, ?_⟩
  · rw [sqOf, part_congr hparts, instant_congr htime, ← hring]
    exact sqOf_modSq_same v p.val r.val _
  · rw [honly, ← hu, hupdate]
    rfl
  · refine othersKept_trans (t := v) (othersKept_of_parts (by rw [hupdate]) _) fun q hq => ?_
    rw [part_congr hparts]
    exact othersKept_modPart v p.val _ q hq

section Return

variable {s : State} {p : Fin 16} {r : Fin 8} {tail : Nat} {descs : List Bytes} {i : Instant} {rest : List Instant}

/-- The state in which a returned line has been counted and its read is over. -/
def returned (s : State) (p : Fin 16) (r : Fin 8) (rest : List Instant) : State :=
  countCcl (modSq s p.val r.val (fun y => { y with reads := rest })) p.val 64 0

theorem onlyFeeds_returned (s : State) (p : Fin 16) (r : Fin 8) (rest : List Instant) : OnlyFeeds p.val s (returned s p r rest) :=
  (onlyFeeds_modSq s p.val r.val _).trans (onlyFeeds_countCcl _ p.val 64 0)

theorem sqOf_returned (s : State) (p : Fin 16) (r : Fin 8) (rest : List Instant) :
    sqOf (returned s p r rest) p.val r.val = { sqOf s p.val r.val with reads := rest } := by
  rw [returned, sqOf_countCcl, sqOf_modSq_same]

/-- The state in which a ring has been stopped for a tail beyond it. -/
def stoppedAt (s : State) (p : Fin 16) (r : Fin 8) (rest : List Instant) (t : Nat) : State :=
  modSq (returned s p r rest) p.val r.val (fun y =>
    { y with mode := .stopped, reads := [], batches := [], lastTail := t, burst := 0 })

/-- The entry a tail beyond the ring writes (0x62). -/
def beyondReport (p : Fin 16) (r : Fin 8) : Report :=
  { cls := 7, code := 0x62, p := p.val, unitKind := 14, unitIndex := 8 * p.val + r.val, ring := r.val }

/-- The state in which a returned tail has formed its batch. -/
def batched (s : State) (p : Fin 16) (r : Fin 8) (rest : List Instant) (i : Instant) (t : Nat) : State :=
  modSq (returned s p r rest) p.val r.val (fun y =>
    { y with mode := .fetch, lastTail := t, batches := y.batches ++ [{ stamp := i, tail := t }] })

theorem doorbellReturn_beyond (hreads : (sqOf s p.val r.val).reads = i :: rest) (hmode : (sqOf s p.val r.val).mode ≠ .disabled)
    (hbeyond : sqSize s p.val r.val < countDiff (tail % 2 ^ 32) (sqOf s p.val r.val).fetched) :
    doorbellReturn s p r tail descs =
      writeHead (logFault (stoppedAt s p r rest (tail % 2 ^ 32)) (beyondReport p r)) p.val r.val := by
  unfold doorbellReturn
  simp only [hreads]
  rw [if_neg hmode, if_pos hbeyond]
  rfl

theorem doorbellReturn_batch (hreads : (sqOf s p.val r.val).reads = i :: rest) (hmode : (sqOf s p.val r.val).mode ≠ .disabled)
    (hwithin : countDiff (tail % 2 ^ 32) (sqOf s p.val r.val).fetched ≤ sqSize s p.val r.val)
    (hnew : countDiff (tail % 2 ^ 32) (sqOf s p.val r.val).lastTail ≠ 0) :
    doorbellReturn s p r tail descs =
      askBurst (writeHead (settleRing (fetchDescs (batched s p r rest i (tail % 2 ^ 32)) p r 4 descs) p.val r.val) p.val r.val)
        p.val r.val := by
  unfold doorbellReturn
  simp only [hreads]
  rw [if_neg hmode, if_neg (Nat.not_lt.mpr hwithin), if_neg hnew]
  rfl

theorem fetchDescs_nil (s : State) (p : Fin 16) (r : Fin 8) (n : Nat) : fetchDescs s p r n [] = s := by
  rw [fetchDescs, takeDescs_nil, ite_self]

/-- A tail within the ring forms a batch with the stamp of its invalidation. -/
theorem return_forms_batch (hreads : (sqOf s p.val r.val).reads = i :: rest) (hmode : (sqOf s p.val r.val).mode ≠ .disabled)
    (hwithin : countDiff (tail % 2 ^ 32) (sqOf s p.val r.val).fetched ≤ sqSize s p.val r.val)
    (hnew : countDiff (tail % 2 ^ 32) (sqOf s p.val r.val).lastTail ≠ 0) :
    ∃ u, Answers (.doorbellReadReturn p r tail []) s (askBurst u p.val r.val) ∧
      sqOf u p.val r.val = { sqOf s p.val r.val with
        mode := .fetch, reads := rest, lastTail := tail % 2 ^ 32,
        batches := (sqOf s p.val r.val).batches ++ [{ stamp := i, tail := tail % 2 ^ 32 }] } ∧
      u.out = s.out ++ [.cclWrite (reg s (.sqHeadln p.val r.val)) (headLine u p.val r.val)] ∧ OthersKept s u p.val ∧
      StoreKept s u ∧ u.regs = s.regs := by
  have hans : Answers (.doorbellReadReturn p r tail []) s (doorbellReturn s p r tail []) := rfl
  have hring : sqOf (batched s p r rest i (tail % 2 ^ 32)) p.val r.val = { sqOf s p.val r.val with
      mode := .fetch, reads := rest, lastTail := tail % 2 ^ 32,
      batches := (sqOf s p.val r.val).batches ++ [{ stamp := i, tail := tail % 2 ^ 32 }] } := by
    rw [batched, sqOf_modSq_same, sqOf_returned]
  have hfeeds : OnlyFeeds p.val s (batched s p r rest i (tail % 2 ^ 32)) :=
    (onlyFeeds_returned s p r rest).trans (onlyFeeds_modSq _ p.val r.val _)
  rw [doorbellReturn_batch hreads hmode hwithin hnew, fetchDescs_nil, settleRing_of_batches (by rw [hring]; exact List.append_ne_nil_of_right_ne_nil _ (List.cons_ne_nil _ _))] at hans
  generalize batched s p r rest i (tail % 2 ^ 32) = v at hans hring hfeeds
  refine ⟨_, hans, by rw [sqOf_writeHead, hring], ?_, othersKept_trans hfeeds.others (posted_writeHead v p.val r.val).others,
    storeKept_trans hfeeds.storeKept (storeKept_writeHead v p.val r.val), (writeHead_regs v _ _).trans hfeeds.regs⟩
  rw [writeHead_out, headLine_writeHead, hfeeds.out, reg_congr hfeeds.regs]

/-- A report that no entry of its code precedes names its partition in the newest entry. -/
theorem newest_of_logFault {s : State} {rep : Report} (hruns : logRuns s = true)
    (hfresh : ∀ e l, s.faults.log = e :: l → e.code ≠ rep.code) :
    ∃ e l, (logFault s rep).faults.log = e :: l ∧ e.cls = rep.cls ∧ e.code = rep.code ∧ e.p = rep.p := by
  obtain ⟨hoff, -⟩ | ⟨e, l, hlog, -, hcode, -⟩ | heq := logFault_cases s rep
  · exact absurd (hruns.symm.trans hoff) Bool.true_eq_false.mp
  · exact absurd hcode (hfresh e l hlog)
  · have hfaults : (logFault s rep).faults = (withEntry s rep).faults := by
      rw [heq, logNew_eq, (posted_notice (flagged s rep) rep _).update]
      exact flagged_faults s rep
    exact ⟨entryOf s rep, s.faults.log.take 4095, by rw [hfaults]; rfl, rfl, rfl, rfl⟩

/-- A tail beyond the ring stops it. -/
theorem return_stops (hreads : (sqOf s p.val r.val).reads = i :: rest) (hmode : (sqOf s p.val r.val).mode ≠ .disabled)
    (hbeyond : sqSize s p.val r.val < countDiff (tail % 2 ^ 32) (sqOf s p.val r.val).fetched) (hruns : logRuns s = true)
    (hfresh : ∀ e l, s.faults.log = e :: l → e.code ≠ 0x62) :
    ∃ t e l, Answers (.doorbellReadReturn p r tail descs) s t ∧ (sqOf t p.val r.val).mode = .stopped ∧
      (sqOf t p.val r.val).buffer = (sqOf s p.val r.val).buffer ∧ t.faults.log = e :: l ∧ e.cls = 7 ∧ e.code = 0x62 ∧
      e.p = p.val ∧ OthersKept s t p.val ∧ StoreKept s t := by
  have hans : Answers (.doorbellReadReturn p r tail descs) s (doorbellReturn s p r tail descs) := rfl
  have hring : sqOf (stoppedAt s p r rest (tail % 2 ^ 32)) p.val r.val = { sqOf s p.val r.val with
      mode := .stopped, reads := [], batches := [], lastTail := tail % 2 ^ 32, burst := 0 } := by
    rw [stoppedAt, sqOf_modSq_same, sqOf_returned]
  have hfeeds : OnlyFeeds p.val s (stoppedAt s p r rest (tail % 2 ^ 32)) :=
    (onlyFeeds_returned s p r rest).trans (onlyFeeds_modSq _ p.val r.val _)
  rw [doorbellReturn_beyond hreads hmode hbeyond] at hans
  generalize stoppedAt s p r rest (tail % 2 ^ 32) = v at hans hring hfeeds
  have hfaults : v.faults = s.faults := by rw [hfeeds.update]
  have hlogs : logRuns v = true := (logRuns_congr (by rw [hfeeds.update])).trans hruns
  have hreport : Reported p.val v (logFault v (beyondReport p r)) := reported_logFault v (beyondReport p r)
  obtain ⟨e, l, hlog, hcls, hcode, hp⟩ :=
    newest_of_logFault (rep := beyondReport p r) hlogs (fun e l h => hfresh e l (hfaults ▸ h))
  have hstopped := hreport.rings r.val
  rw [hring] at hstopped
  refine ⟨_, e, l, hans, ?_, ?_, (congrArg Faults.log (writeHead_faults _ _ _)).trans hlog, hcls, hcode, hp, ?_, ?_⟩
  · rw [sqOf_writeHead, hstopped]
  · rw [sqOf_writeHead, hstopped]
  · exact othersKept_trans (othersKept_trans hfeeds.others hreport.others) (posted_writeHead _ _ _).others
  · exact storeKept_trans (storeKept_trans hfeeds.storeKept (workKept_logFault v _).storeKept) (storeKept_writeHead _ _ _)

end Return

section Burst

variable {s : State} {p : Fin 16} {r : Fin 8} {descs : List Bytes}

theorem burstFetch_taken (hmode : (sqOf s p.val r.val).mode = .idle ∨ (sqOf s p.val r.val).mode = .fetch)
    (hopen : dispatchOpen s p.val = true) (hsome : descs ≠ []) (hroom : bufferRoom (sqOf s p.val r.val) ≠ 0)
    (hmore : unfetched (sqOf s p.val r.val) ≠ 0) :
    burstFetch s p r descs =
      askBurst (writeHead (settleRing (takeDescs (modSq s p.val r.val (fun y => { y with burst := 0 })) p r 32 descs) p.val r.val) p.val r.val)
        p.val r.val := by
  have hopen' : dispatchOpen (modSq s p.val r.val (fun y => { y with burst := 0 })) p.val = true := by
    rw [dispatchOpen, modSq, part_modPart_same]
    exact hopen
  unfold burstFetch
  dsimp only
  rw [if_neg (by rcases hmode with h | h <;> simp [h, hmore, hroom, hsome, hopen]), fetchDescs, if_pos hopen']

/-- A burst within the oldest batch and the buffer's room is in the buffer, in ring order. -/
theorem burst_fills_buffer {a : Batch} {rest : List Batch}
    (hmode : (sqOf s p.val r.val).mode = .idle ∨ (sqOf s p.val r.val).mode = .fetch) (hopen : dispatchOpen s p.val = true)
    (hbatches : (sqOf s p.val r.val).batches = a :: rest) (hsome : descs ≠ [])
    (hcan : CanTake (sqOf s p.val r.val) a.tail descs.length) :
    ∃ u, Answers (.descriptorBurstFetch p r descs) s (askBurst u p.val r.val) ∧
      (sqOf u p.val r.val).fetched = ((sqOf s p.val r.val).fetched + descs.length) % 2 ^ 32 ∧
      (sqOf u p.val r.val).buffer = (sqOf s p.val r.val).buffer ++
        descs.mapIdx (fun i b => fetchedAs s p r (((sqOf s p.val r.val).fetched + i) % 2 ^ 32) a b) ∧
      (∃ line, u.out = s.out ++ [.cclWrite (reg s (.sqHeadln p.val r.val)) line]) ∧ OthersKept s u p.val ∧ StoreKept s u ∧
      u.regs = s.regs := by
  have hans : Answers (.descriptorBurstFetch p r descs) s (burstFetch s p r descs) := rfl
  have hpos := List.length_pos_iff.mpr hsome
  rw [burstFetch_taken hmode hopen hsome (by have := hcan.room; omega) (by have := hcan.more; omega)] at hans
  have hfirst := onlyFeeds_modSq s p.val r.val (fun y => { y with burst := 0 })
  have hring := sqOf_modSq_same s p.val r.val (fun y => { y with burst := 0 })
  generalize modSq s p.val r.val (fun y => { y with burst := 0 }) = v at hans hfirst hring
  have hlimit : descs.length ≤ 32 := by
    have := hcan.room
    simp only [bufferRoom] at this
    omega
  have htook : Took p r a descs v (takeDescs v p r 32 descs) := by
    refine takeDescs_takes (rest := rest) descs 32 v hlimit (by rw [hring]; exact hbatches) ?_
    rw [hring]
    exact ⟨hcan.countBound, hcan.tailBound, hcan.room, hcan.more, hcan.batch⟩
  generalize takeDescs v p r 32 descs = w at hans htook
  have hfeeds : OnlyFeeds p.val s (settleRing w p.val r.val) := (hfirst.trans htook.feeds).trans (onlyFeeds_settleRing w p.val r.val)
  refine ⟨_, hans, ?_, ?_, ⟨headLine (settleRing w p.val r.val) p.val r.val, ?_⟩, othersKept_trans hfeeds.others (posted_writeHead _ p.val r.val).others,
    storeKept_trans hfeeds.storeKept (storeKept_writeHead _ p.val r.val), (writeHead_regs _ _ _).trans hfeeds.regs⟩
  · rw [sqOf_writeHead, sqOf_settleRing]
    dsimp only
    rw [htook.fetched, hring]
  · rw [sqOf_writeHead, sqOf_settleRing]
    dsimp only
    rw [htook.buffer, hring, fetchedAs_congr hfirst]
  · rw [writeHead_out, hfeeds.out, reg_congr hfeeds.regs]

end Burst

/-- Settles O18: an invalidation (`invalidation_takes`), a returned line (`return_stops`, `return_forms_batch`) and a burst
(`burst_fills_buffer`). -/
theorem doorbellsAndBurstsFeedTheRings : Obligations.DoorbellsAndBurstsFeedTheRings := by
  refine ⟨fun s p r => ⟨fun dt frac hmode => ?_, fun dt frac => invalidation_takes s p r dt frac,
    fun tail descs i rest hreads hmode hbeyond hruns hfresh => return_stops hreads hmode hbeyond hruns hfresh,
    fun tail i rest hreads hmode hwithin hnew => return_forms_batch hreads hmode hwithin hnew⟩,
    fun s p r descs a rest hmode hopen hbatches hsome hfetched htail hroom hmore hbatch =>
      burst_fills_buffer hmode hopen hbatches hsome ⟨hfetched, htail, hroom, hmore, hbatch⟩⟩
  exact congrArg Host.Outcome.next (invalidate_of_stopped (s := elapseTo s dt frac) hmode _)

end Sys2Proof.Proofs.Doorbells
end

section
/-! SUPPORT. Bringing federation time to an instant (R228, R235, R236): a nanosecond of the oscillator moves the counter by at most 1/256 ns
more or less than itself, so the search of `FedTime.below` ends at the last nanosecond before the instant. -/

namespace Sys2Proof.Proofs.Clock

open Sys2Proof Sys2Proof.Machine

/-- The counter in units of 1/256 ns after `n` nanoseconds of the oscillator. -/
def units (c : FedTime) (n : Nat) : Nat := (c.pass n).ns * 256 + (c.pass n).sub

/-- The counter moves in HOLDOVER and FREERUN at the frequency learned before (R236). -/
def runsFree (c : FedTime) : Bool := c.mode == .holdover || c.mode == .freerun

/-- The units by which the counter is corrected while `n` nanoseconds pass (R235, R236). -/
def correction (c : FedTime) (n : Nat) : Nat :=
  if runsFree c then (c.slewDebt + c.learned.natAbs * n) / 10000 else min ((c.slewDebt + 128 * n) / 10000) c.slew.natAbs

/-- The counter is corrected downwards. -/
def slowed (c : FedTime) : Bool := if runsFree c then decide (c.learned < 0) else decide (c.slew < 0)

theorem correction_zero {c : FedTime} (h : ClockBounded c) : correction c 0 = 0 := by
  obtain ⟨-, hdebt, -⟩ := h
  have hnone : c.slewDebt / 10000 = 0 := Nat.div_eq_of_lt hdebt
  simp only [correction, Nat.mul_zero, Nat.add_zero, hnone, Nat.zero_min, ite_self]

/-- One more nanosecond corrects the counter by at most one more unit. -/
theorem correction_step {c : FedTime} (h : ClockBounded c) (n : Nat) :
    correction c n ≤ correction c (n + 1) ∧ correction c (n + 1) ≤ correction c n + 1 := by
  obtain ⟨-, -, hlearned⟩ := h
  unfold correction
  split
  · rw [Nat.mul_add, Nat.mul_one]
    omega
  · omega

theorem correction_le {c : FedTime} (h : ClockBounded c) : ∀ n, correction c n ≤ n
  | 0 => (correction_zero h).le
  | n + 1 => (correction_step h n).2.trans (Nat.succ_le_succ (correction_le h n))

theorem units_eq {c : FedTime} (h : ClockBounded c) (n : Nat) :
    units c n = if slowed c then c.ns * 256 + c.sub + n * 256 - correction c n else c.ns * 256 + c.sub + n * 256 + correction c n := by
  have hsplit : units c n = ((c.ns * 256 + c.sub + n * 256 : Nat) +
      (if slowed c then -(correction c n : Int) else (correction c n : Int))).toNat := by
    cases hfree : runsFree c <;> rw [runsFree] at hfree <;>
      simp only [units, correction, slowed, runsFree, FedTime.pass, hfree, Bool.false_eq_true, if_true, if_false] <;>
      exact Nat.div_add_mod' _ 256
  have hle := correction_le h n
  rw [hsplit]
  split <;> omega

theorem units_zero {c : FedTime} (h : ClockBounded c) : units c 0 = c.ns * 256 + c.sub := by
  rw [units_eq h, correction_zero h]
  split <;> omega

/-- A nanosecond of the oscillator moves the counter by 255 to 257 units. -/
theorem units_step {c : FedTime} (h : ClockBounded c) (n : Nat) : units c n + 255 ≤ units c (n + 1) ∧ units c (n + 1) ≤ units c n + 257 := by
  have hstep := correction_step h n
  have hle := correction_le h n
  rw [units_eq h, units_eq h]
  split <;> omega

theorem units_ge {c : FedTime} (h : ClockBounded c) : ∀ n, 255 * n ≤ units c n
  | 0 => Nat.zero_le _
  | n + 1 => by
    have hstep := units_step h n
    have ih := units_ge h n
    omega

theorem sub_lt (c : FedTime) (n : Nat) : (c.pass n).sub < 256 := Nat.mod_lt _ (by decide)

/-- What `FedTime.below` finds: the counter lies before the instant, and a nanosecond later no longer. -/
theorem below_spec (c : FedTime) (d k : Nat) : ∀ lo, (c.pass lo).ns < d → d ≤ (c.pass (lo + 2 ^ k)).ns →
    (c.pass (c.below d k lo)).ns < d ∧ d ≤ (c.pass (c.below d k lo + 1)).ns := by
  induction k with
  | zero => exact fun lo hlo hhi => ⟨hlo, hhi⟩
  | succ k ih =>
    intro lo hlo hhi
    rw [FedTime.below]
    split
    · next hmid => exact ih _ hmid (by rw [Nat.add_assoc, ← Nat.two_mul, ← Nat.pow_succ']; exact hhi)
    · next hmid => exact ih lo hlo (Nat.le_of_not_lt hmid)

/-- The last nanosecond before an instant of the counter's 64 bits that it has not passed. -/
theorem below_reaches {c : FedTime} (h : ClockBounded c) {d : Nat} (hlater : c.ns < d) (hd : d < 2 ^ 64) :
    (c.pass (c.below d 66 0)).ns < d ∧ d ≤ (c.pass (c.below d 66 0 + 1)).ns := by
  refine below_spec c d 66 0 ?_ ?_
  · have h0 := units_zero h
    have hsub := sub_lt c 0
    obtain ⟨hsub0, -, -⟩ := h
    unfold units at h0
    omega
  · have hfar := units_ge h (0 + 2 ^ 66)
    have hsub := sub_lt c (0 + 2 ^ 66)
    unfold units at hfar
    omega

/-- Where the counter neither slews nor runs free, it follows the oscillator. -/
theorem pass_exact {c : FedTime} (h : ClockBounded c) (hslew : c.slew = 0) (hfree : runsFree c = false) (n : Nat) :
    (c.pass n).ns = c.ns + n := by
  have hnone : correction c n = 0 := by
    rw [correction, hfree, hslew]
    exact Nat.min_zero _
  have hunits := units_eq h n
  have hsub := sub_lt c n
  obtain ⟨hsub0, -, -⟩ := h
  rw [hnone] at hunits
  unfold units at hunits
  split at hunits <;> omega

/-- A later counter that shows what another one shows has reached the same instants. -/
theorem reached_of_now {s t u : State} {d : Nat} (h : Reached s t d) (hnow : now u = now t) : Reached s u d := by
  unfold Reached at h ⊢
  rw [hnow]
  exact h

/-- An instant that has come is reached. -/
theorem reached_reach (s : State) (d : Nat) : Reached s (reach s d) d := by
  intro hd hc
  unfold reach
  split
  · next hcome =>
    have hle : d ≤ s.time.ns := hcome.resolve_right (by omega)
    exact ⟨hle, fun _ _ _ => (max_eq_left hle).symm⟩
  · next hcome =>
    obtain ⟨hlater, -⟩ := not_or.mp hcome
    obtain ⟨hbefore, hafter⟩ := below_reaches hc (Nat.lt_of_not_le hlater) (by omega)
    generalize s.time.below d 66 0 = m at hbefore hafter
    have hunits := units_step hc m
    have hsub := sub_lt s.time m
    have hsub' := sub_lt s.time (m + 1)
    unfold units at hunits
    have hnow : now (elapse s (m + 1)) = (s.time.pass (m + 1)).ns := Nat.mod_eq_of_lt (by omega)
    rw [hnow]
    refine ⟨hafter, fun hslew hhold hfree => ?_⟩
    have hfollows : runsFree s.time = false := by
      simp only [runsFree, Bool.or_eq_false_iff, beq_eq_false_iff_ne]
      exact ⟨hhold, hfree⟩
    rw [pass_exact hc hslew hfollows] at hbefore hafter ⊢
    have : now s = s.time.ns := rfl
    omega

/-- An instant that has been reached is not brought about again. -/
theorem reach_of_le {s : State} {d : Nat} (h : d ≤ now s) : reach s d = s := if_pos (.inl h)

/-- Bringing federation time to an instant changes federation time alone. -/
theorem reach_only (s : State) (d : Nat) : reach s d = { s with time := (reach s d).time } := by
  unfold reach
  split <;> rfl

end Sys2Proof.Proofs.Clock
end

section
/-! O14: windows, WAIT_FT and HINT at their instants (R218, R241, R242, R360). The expiries of an instant (R245) leave a window that has
not opened; a window that closes takes the WINDOW_CLOSEs that wait for it along. -/

namespace Sys2Proof.Proofs.TimedEvents

open Sys2Proof Sys2Proof.Machine
open Sys2Proof.Proofs.Writes Sys2Proof.Proofs.Starting Sys2Proof.Proofs.SealedWindows Sys2Proof.Proofs.SealedTurns
open Sys2Proof.Proofs.Clock

/-! Reaching an instant -/

theorem part_reach (s : State) (d p : Nat) : part (reach s d) p = part s p := by
  rw [reach_only]
  rfl

theorem othersKept_reach (s : State) (d p : Nat) : OthersKept s (reach s d) p := fun q _ => part_reach s d q

theorem reach_regs (s : State) (d : Nat) : (reach s d).regs = s.regs := by rw [reach_only]

theorem storeKept_reach (s : State) (d : Nat) : StoreKept s (reach s d) := by
  rw [reach_only]
  exact ⟨fun _ => ⟨rfl, rfl⟩, rfl, rfl⟩

/-- An instant reached twice is reached once. -/
theorem reached_reach_reach (s : State) (d : Nat) : Reached s (reach (reach s d) d) d := by
  intro hd hc
  have hreached := reached_reach s d
  obtain ⟨hle, -⟩ := hreached hd hc
  rw [reach_of_le hle]
  exact hreached hd hc

/-! Expiries of an instant -/

/-- From `s` to `t` windows, registers and memory are as they were. -/
structure WindowsKept (s t : State) : Prop where
  regs : t.regs = s.regs
  store : StoreKept s t
  windows : ∀ q k, windowOf (part t q) k = windowOf (part s q) k

theorem WindowsKept.refl (s : State) : WindowsKept s s := ⟨rfl, ⟨fun _ => ⟨rfl, rfl⟩, rfl, rfl⟩, fun _ _ => rfl⟩

theorem WindowsKept.trans {s t u : State} (h1 : WindowsKept s t) (h2 : WindowsKept t u) : WindowsKept s u :=
  ⟨h2.regs.trans h1.regs, storeKept_trans h1.store h2.store, fun q k => (h2.windows q k).trans (h1.windows q k)⟩

theorem windowsKept_foldl {α : Type} {f : State → α → State} (hf : ∀ s a, WindowsKept s (f s a)) (l : List α) (s : State) :
    WindowsKept s (l.foldl f s) :=
  List.foldlRecOn l f (WindowsKept.refl s) (fun _ ht a _ => ht.trans (hf _ a))

/-- A change of neither registers nor memory nor partitions. -/
theorem windowsKept_update {s : State} {inflight : List InFlight} {time : FedTime} {collar : Collar} {shawl : Shawl} {manager : Manager} :
    WindowsKept s { s with inflight := inflight, time := time, collar := collar, shawl := shawl, manager := manager } :=
  ⟨rfl, ⟨fun _ => ⟨rfl, rfl⟩, rfl, rfl⟩, fun _ _ => rfl⟩

theorem windowsKept_reach (s : State) (d : Nat) : WindowsKept s (reach s d) := by
  rw [reach_only]
  exact windowsKept_update

theorem windowOf_congr {x y : Partition} (hsubmit : y.submit = x.submit) (hrecover : y.recover = x.recover) (k : WinKind) :
    windowOf y k = windowOf x k := by
  cases k
  · exact hsubmit
  · exact hrecover

/-- A change of a partition beside its windows. -/
theorem windowsKept_modPart (s : State) (p : Nat) {f : Partition → Partition} (hsubmit : ∀ x, (f x).submit = x.submit)
    (hrecover : ∀ x, (f x).recover = x.recover) : WindowsKept s (modPart s p f) := by
  refine ⟨rfl, ⟨fun _ => ⟨rfl, rfl⟩, rfl, rfl⟩, fun q k => ?_⟩
  by_cases hq : p = q
  · subst hq
    rw [part_modPart_same]
    exact windowOf_congr (hsubmit _) (hrecover _) k
  · rw [part_modPart_other s f hq]

theorem windowsKept_of_usage {p : Nat} {s t : State} (h : OnlyUsage p s t) : WindowsKept s t := by
  refine ⟨h.regs, h.storeKept, fun q k => ?_⟩
  by_cases hq : q = p
  · subst hq
    rw [h.own]
    exact windowOf_congr rfl rfl k
  · rw [h.others q hq]

theorem windowsKept_expireAt (s : State) (p d : Nat) : WindowsKept s (expireAt s p d) :=
  windowsKept_foldl (fun _ _ => windowsKept_update) _ s

theorem windowsKept_settleDeadlines (s : State) (t : Nat) : WindowsKept s (settleDeadlines s t) :=
  windowsKept_foldl (fun u p => windowsKept_expireAt u p t) _ s

theorem windowsKept_markDying (s : State) (p kind link : Nat) : WindowsKept s (markDying s p kind link) :=
  (windowsKept_modPart s p
    (f := fun x => { x with keys := x.keys.map (fun k => if kindHit kind k.kind then { k with dying := true } else k) })
    (fun _ => rfl) (fun _ => rfl)).trans windowsKept_update

theorem windowsKept_expireKey (s : State) (p kind link : Nat) : WindowsKept s (expireKey s p kind link) := by
  unfold expireKey
  split
  · exact WindowsKept.refl s
  · exact ((windowsKept_reach s _).trans (windowsKept_markDying _ p kind link)).trans windowsKept_update

theorem windowsKept_settleKeys (s : State) (t : Nat) : WindowsKept s (settleKeys s t) := by
  unfold settleKeys
  split
  · exact WindowsKept.refl s
  · refine windowsKept_foldl (fun u p => ?_) _ s
    exact windowsKept_foldl (fun v (k : Nat × Nat) => windowsKept_expireKey v p k.1 k.2) _ u

theorem windowsKept_chargeEngine (s : State) (l : Nat) : WindowsKept s (chargeEngine s l) := by
  unfold chargeEngine
  split
  · exact WindowsKept.refl s
  · exact (windowsKept_of_usage (onlyUsage_modUsage s _ _)).trans windowsKept_update

theorem windowsKept_closeMinute (s : State) (p ftEnd : Nat) : WindowsKept s (closeMinute s p ftEnd) :=
  have hqueued : WindowsKept s (queueUsage (chargePasses s p) p ftEnd false false) :=
    WindowsKept.trans (t := chargePasses s p) (windowsKept_foldl windowsKept_chargeEngine _ s) windowsKept_update
  hqueued.trans (windowsKept_modPart _ p
    (f := fun x => { x with usage := freshUsage (queueUsage (chargePasses s p) p ftEnd false false) ftEnd false })
    (fun _ => rfl) (fun _ => rfl))

theorem windowsKept_settleMinute (s : State) (t : Nat) : WindowsKept s (settleMinute s t) := by
  unfold settleMinute
  split
  · exact WindowsKept.trans (t := { s with manager := { s.manager with lastMinute := t / minuteNs } }) windowsKept_update
      (windowsKept_foldl (fun u p => windowsKept_closeMinute u p _) _ _)
  · exact WindowsKept.refl s

/-- From `s` to `t` the window of partition `p` and kind `k` stays as it is where it is `w`; registers and memory stay. -/
structure WindowStays (p : Nat) (k : WinKind) (w : Window) (s t : State) : Prop where
  regs : t.regs = s.regs
  store : StoreKept s t
  window : windowOf (part s p) k = some w → windowOf (part t p) k = some w

theorem WindowsKept.stays {s t : State} (h : WindowsKept s t) (p : Nat) (k : WinKind) (w : Window) : WindowStays p k w s t :=
  ⟨h.regs, h.store, (h.windows p k).trans⟩

theorem WindowStays.trans {p : Nat} {k : WinKind} {w : Window} {s t u : State} (h1 : WindowStays p k w s t) (h2 : WindowStays p k w t u) :
    WindowStays p k w s u :=
  ⟨h2.regs.trans h1.regs, storeKept_trans h1.store h2.store, fun h => h2.window (h1.window h)⟩

theorem windowStays_foldl {α : Type} {p : Nat} {k : WinKind} {w : Window} {f : State → α → State}
    (hf : ∀ s a, WindowStays p k w s (f s a)) (l : List α) (s : State) : WindowStays p k w s (l.foldl f s) :=
  List.foldlRecOn l f ((WindowsKept.refl s).stays p k w) (fun _ ht a _ => ht.trans (hf _ a))

theorem storeKept_setWindow (s : State) (p : Nat) (k : WinKind) (w : Option Window) : StoreKept s (setWindow s p k w) :=
  ⟨fun _ => ⟨rfl, rfl⟩, rfl, rfl⟩

/-- Setting another window leaves a window. -/
theorem windowOf_setWindow_other (s : State) {p q : Nat} {k l : WinKind} (h : ¬ (q = p ∧ l = k)) (v : Option Window) :
    windowOf (part (setWindow s q l v) p) k = windowOf (part s p) k := by
  by_cases hq : q = p
  · subst hq
    have hl : l ≠ k := fun hl => h ⟨rfl, hl⟩
    rw [setWindow, part_modPart_same]
    match l, k, hl with
    | .submit, .recover, _ | .recover, .submit, _ => rfl
    | .submit, .submit, hl | .recover, .recover, hl => exact absurd rfl hl
  · rw [setWindow, part_modPart_other s _ hq]

/-- Of the windows only an open one closes. -/
theorem windowStays_reachClose {p : Nat} {k : WinKind} {w : Window} (hw : w.mode ≠ .opened) (s : State) (q : Nat) (l : WinKind) :
    WindowStays p k w s (reachClose s q l) := by
  unfold reachClose
  split
  · next v hv =>
    split
    · next hopened =>
      refine ⟨reach_regs s _, storeKept_trans (storeKept_reach s _) (storeKept_setWindow _ _ _ _), fun h => ?_⟩
      have hother : ¬ (q = p ∧ l = k) := by
        rintro ⟨rfl, rfl⟩
        rw [hv] at h
        exact hw (Option.some.inj h ▸ hopened)
      rw [windowOf_setWindow_other _ hother, part_reach]
      exact h
    · exact (WindowsKept.refl s).stays p k w
  · exact (WindowsKept.refl s).stays p k w

theorem windowStays_settleCloses {p : Nat} {k : WinKind} {w : Window} (hw : w.mode ≠ .opened) (s : State) (t : Nat) :
    WindowStays p k w s (settleCloses s t) := by
  refine windowStays_foldl (fun u q => windowStays_foldl (fun v l => ?_) _ u) _ s
  split
  · exact windowStays_reachClose hw v q l
  · exact (WindowsKept.refl v).stays p k w

/-- The expiries of an instant leave a window that is not open. -/
theorem windowStays_settleTies {p : Nat} {k : WinKind} {w : Window} (hw : w.mode ≠ .opened) (s : State) (t : Nat) :
    WindowStays p k w s (settleTies s t 4) :=
  ((((windowsKept_reach s t).stays p k w).trans (windowStays_settleCloses hw _ t)).trans
      ((windowsKept_settleDeadlines _ t).stays p k w)).trans
    (((windowsKept_settleKeys _ t).stays p k w).trans ((windowsKept_settleMinute _ t).stays p k w))

/-! Opening and closing -/

theorem answers_windowOpenInstant {s : State} {p : Fin 16} {k : WinKind} {w : Window} (hw : windowOf (part s p.val) k = some w)
    (hmode : w.mode = .scheduled) :
    Answers (.windowOpenInstant p k) s
      (setWindow (reach (settleTies s w.opens 4) w.opens) p.val k (some { w with mode := .opened })) := by
  have hties := (windowStays_settleTies (p := p.val) (k := k) (w := w) (by rw [hmode]; decide) s w.opens).window hw
  change Host.Outcome.next (openInstant s p.val k) = _
  simp only [openInstant, hw, if_pos hmode, reachOpen, hties]

theorem answers_windowCloseInstant {s : State} {p : Fin 16} {k : WinKind} {w : Window} (hw : windowOf (part s p.val) k = some w)
    (hmode : w.mode = .opened) :
    Answers (.windowCloseInstant p k) s (setWindow (reach s w.closes) p.val k (some { w with mode := .closing })) := by
  change Host.Outcome.next (reachClose s p.val k) = _
  simp only [reachClose, hw, if_pos hmode]

theorem window_opens {s : State} {p : Fin 16} {k : WinKind} {w : Window} (hw : windowOf (part s p.val) k = some w)
    (hmode : w.mode = .scheduled) :
    ∃ t, Answers (.windowOpenInstant p k) s t ∧ windowOf (part t p.val) k = some { w with mode := .opened } ∧ StoreKept s t ∧
      t.regs = s.regs ∧ (settleTies s w.opens 4 = reach s w.opens → Reached s t w.opens) ∧
      (∀ q, q ≠ p.val → part t q = part (settleTies s w.opens 4) q) := by
  have hties := windowStays_settleTies (p := p.val) (k := k) (w := w) (by rw [hmode]; decide) s w.opens
  refine ⟨_, answers_windowOpenInstant hw hmode, windowOf_setWindow _ _ _ _,
    storeKept_trans hties.store (storeKept_trans (storeKept_reach _ _) (storeKept_setWindow _ _ _ _)),
    (reach_regs _ _).trans hties.regs, fun hties => ?_, fun q hq => ?_⟩
  · rw [hties]
    exact reached_of_now (reached_reach_reach s w.opens) rfl
  · exact (othersKept_setWindow _ p.val k _ q hq).trans (part_reach _ _ q)

theorem window_begins_closing {s : State} {p : Fin 16} {k : WinKind} {w : Window} (hw : windowOf (part s p.val) k = some w)
    (hmode : w.mode = .opened) :
    ∃ t, Answers (.windowCloseInstant p k) s t ∧ windowOf (part t p.val) k = some { w with mode := .closing } ∧
      OthersKept s t p.val ∧ StoreKept s t ∧ t.regs = s.regs ∧ Reached s t w.closes :=
  ⟨_, answers_windowCloseInstant hw hmode, windowOf_setWindow _ _ _ _,
    othersKept_trans (othersKept_reach s _ _) (othersKept_setWindow _ _ _ _),
    storeKept_trans (storeKept_reach _ _) (storeKept_setWindow _ _ _ _), reach_regs _ _, reached_of_now (reached_reach s w.closes) rfl⟩

/-! WINDOW_CLOSEs that wait for a closed window -/

/-- From `s` to `t` descriptors have been completed at most: of a partition its usage alone has changed, and a descriptor that was done
is done. -/
structure OnlyCompletes (p : Nat) (s t : State) : Prop where
  regs : t.regs = s.regs
  others : OthersKept s t p
  own : part t p = { part s p with usage := (part t p).usage }
  flights : ∀ id g, flight s id = some g → ∃ g', flight t id = some g' ∧ (g.done.isSome = true → g'.done.isSome = true)

theorem OnlyCompletes.refl (p : Nat) (s : State) : OnlyCompletes p s s := ⟨rfl, fun _ _ => rfl, rfl, fun _ g hg => ⟨g, hg, id⟩⟩

theorem OnlyCompletes.trans {p : Nat} {s t u : State} (h1 : OnlyCompletes p s t) (h2 : OnlyCompletes p t u) : OnlyCompletes p s u := by
  refine ⟨h2.regs.trans h1.regs, othersKept_trans h1.others h2.others, by rw [h2.own, h1.own], fun id g hg => ?_⟩
  obtain ⟨g', hg', hdone⟩ := h1.flights id g hg
  obtain ⟨g'', hg'', hdone'⟩ := h2.flights id g' hg'
  exact ⟨g'', hg'', fun h => hdone' (hdone h)⟩

theorem OnlyCompletes.windowOf {p : Nat} {s t : State} (h : OnlyCompletes p s t) (k : WinKind) :
    windowOf (part t p) k = windowOf (part s p) k := by
  rw [h.own]
  exact windowOf_congr rfl rfl k

theorem onlyCompletes_of_writes {p : Nat} {s t : State} (h : OnlyWrites p s t) : OnlyCompletes p s t :=
  ⟨h.regs, h.others, h.own, fun id g hg => ⟨g, (h.flight id).trans hg, fun hdone => hdone⟩⟩

theorem onlyCompletes_finishRef (p : Nat) (s : State) (n : Nat) (st : Status) (r ref : Nat) : OnlyCompletes p s (finishRef s n st r ref) := by
  refine ⟨rfl, fun _ _ => rfl, rfl, fun id g hg => ?_⟩
  by_cases hid : n = id
  · subst hid
    obtain ⟨g', hg', hdone⟩ := finishRef_completes hg st r ref
    exact ⟨g', hg', fun _ => by rw [hdone]; rfl⟩
  · have hother : flight (finishRef s n st r ref) id = flight s id := flight_modFlight_other s hid (fun _ => rfl)
    exact ⟨g, hother.trans hg, fun hdone => hdone⟩

/-- WINDOW_CLOSE completes in one way or another: its descriptor is done. -/
theorem completeClose_completes (s : State) (id p : Nat) (k : WinKind) (o : WindowCloseOps) :
    OnlyCompletes p s (completeClose s id p k o) ∧
      ((flight s id).isSome = true → ∃ g, flight (completeClose s id p k o) id = some g ∧ g.done.isSome = true) := by
  have hfinish : ∀ {t : State} (_ : OnlyWrites p s t) (st : Status) (r : Nat), OnlyCompletes p s (finish t id st r) ∧
      ((flight s id).isSome = true → ∃ g, flight (finish t id st r) id = some g ∧ g.done.isSome = true) := by
    intro t ht st r
    refine ⟨(onlyCompletes_of_writes ht).trans (onlyCompletes_finishRef p t id st r 0), fun hsome => ?_⟩
    obtain ⟨f, hf⟩ := Option.isSome_iff_exists.mp hsome
    obtain ⟨g, hg, hdone⟩ := finishRef_completes ((ht.flight id).trans hf) st r 0
    exact ⟨g, hg, by rw [hdone]; rfl⟩
  unfold completeClose
  split
  · exact hfinish (OnlyWrites.refl p s) _ _
  · dsimp only
    split
    · exact hfinish (onlyWrites_writeMarked s p _ _ _ _ _) _ _
    · exact hfinish (OnlyWrites.refl p s) _ _

/-- What `finishCloses` does about one descriptor. -/
def closeStep (p : Nat) (t : State) (f : InFlight) : State :=
  match f.body, f.phase with
  | .windowClose o, .closeWait =>
    match windowFor (part t p) (kindOf o.kind) o.roundId with
    | some w => if w.mode = .closed then completeClose t f.id p (kindOf o.kind) o else t
    | none => t
  | _, _ => t

theorem finishCloses_eq (s : State) (p : Nat) : finishCloses s p = (flying s p).foldl (closeStep p) s := rfl

theorem onlyCompletes_closeStep (p : Nat) (t : State) (f : InFlight) : OnlyCompletes p t (closeStep p t f) := by
  unfold closeStep
  split
  · split
    · split
      · exact (completeClose_completes t f.id p _ _).1
      · exact OnlyCompletes.refl p t
    · exact OnlyCompletes.refl p t
  · exact OnlyCompletes.refl p t

theorem onlyCompletes_foldl (p : Nat) (l : List InFlight) (s : State) : OnlyCompletes p s (l.foldl (closeStep p) s) :=
  List.foldlRecOn l _ (OnlyCompletes.refl p s) (fun _ ht f _ => ht.trans (onlyCompletes_closeStep p _ f))

/-- A WINDOW_CLOSE that waits for a window that is closed completes. -/
theorem closeStep_done {p : Nat} {t : State} {f : InFlight} {o : WindowCloseOps} {w : Window} (hbody : f.body = .windowClose o)
    (hphase : f.phase = .closeWait) (hw : windowFor (part t p) (kindOf o.kind) o.roundId = some w) (hmode : w.mode = .closed)
    (hf : (flight t f.id).isSome = true) : ∃ g, flight (closeStep p t f) f.id = some g ∧ g.done.isSome = true := by
  have hstep : closeStep p t f = completeClose t f.id p (kindOf o.kind) o := by
    simp only [closeStep, hbody, hphase, hw, if_pos hmode]
  rw [hstep]
  exact (completeClose_completes t f.id p _ o).2 hf

theorem finishCloses_done {s : State} {p : Nat} {f : InFlight} {o : WindowCloseOps} {w : Window} (hmem : f ∈ flying s p)
    (hbody : f.body = .windowClose o) (hphase : f.phase = .closeWait) (hw : windowFor (part s p) (kindOf o.kind) o.roundId = some w)
    (hmode : w.mode = .closed) (hf : (flight s f.id).isSome = true) :
    ∃ g, flight (finishCloses s p) f.id = some g ∧ g.done.isSome = true := by
  obtain ⟨before, after, hsplit⟩ := List.append_of_mem hmem
  have hbefore := onlyCompletes_foldl p before s
  rw [finishCloses_eq, hsplit, List.foldl_append, List.foldl_cons]
  generalize before.foldl (closeStep p) s = t at hbefore
  obtain ⟨g0, hg0⟩ := Option.isSome_iff_exists.mp hf
  obtain ⟨g1, hg1, -⟩ := hbefore.flights f.id g0 hg0
  obtain ⟨g2, hg2, hdone⟩ := closeStep_done (w := w) hbody hphase
    (by rw [windowFor, hbefore.windowOf]; exact hw) hmode (Option.isSome_iff_exists.mpr ⟨g1, hg1⟩)
  obtain ⟨g3, hg3, hkeeps⟩ := (onlyCompletes_foldl p after (closeStep p t f)).flights f.id g2 hg2
  exact ⟨g3, hg3, hkeeps hdone⟩

/-! A window with nothing outstanding -/

/-- The window as it is when closed: its counts are fixed. -/
def closedWindow (w : Window) : Window :=
  { w with mode := .closed, acceptedAtClose := (w.subs.filter (fun b => b.provisional)).length }

/-- What closing a window leaves: the window closed, and beside it rounds of the partition alone may have moved. -/
structure WindowCloses (p : Nat) (k : WinKind) (w : Window) (s t : State) : Prop where
  window : windowOf (part t p) k = some (closedWindow w)
  others : OthersKept s t p
  regs : t.regs = s.regs
  inflight : t.inflight = s.inflight

/-- The mode of a round whose window closes (Table 4.8). -/
def closedRound (w : Window) (r : Round) : Round :=
  { r with mode := if (acceptedSubs w).isEmpty then .unrecoverable else .closed, survivors := (acceptedSubs w).map (fun b => b.clientId) }

theorem windowCloses_setWindow (s : State) (p : Nat) (k : WinKind) (w : Window) :
    WindowCloses p k w s (setWindow s p k (some (closedWindow w))) :=
  ⟨windowOf_setWindow s p k _, othersKept_setWindow s p k _, rfl, rfl⟩

theorem windowCloses_modRound {s t : State} {p : Nat} {k : WinKind} {w : Window} (h : WindowCloses p k w s t) (round : Nat)
    (f : Round → Round) : WindowCloses p k w s (modRound t p round f) :=
  ⟨(windowOf_modRound t p round f k).trans h.window, othersKept_trans h.others (othersKept_modPart t p _), h.regs, h.inflight⟩

theorem closeWindow_closes {s : State} {p : Nat} {k : WinKind} {w : Window} (hw : windowOf (part s p) k = some w) :
    WindowCloses p k w s (closeWindow s p k) := by
  have hset := windowCloses_setWindow s p k w
  simp only [closeWindow, hw]
  split
  · exact hset
  · cases k with
    | submit => exact windowCloses_modRound hset _ _
    | recover => exact windowCloses_modRound hset _ _

/-- The round of a SUBMIT window in the sealed regime closes with it. -/
theorem closeWindow_round {s : State} {p : Nat} {w : Window} {r : Round} (hw : windowOf (part s p) .submit = some w)
    (hregime : (part s p).regime = 1) (hr : roundOf (part s p) w.roundId = some r) :
    roundOf (part (closeWindow s p .submit) p) w.roundId = some (closedRound w r) := by
  have hclose : closeWindow s p .submit = modRound (setWindow s p .submit (some (closedWindow w))) p w.roundId (closedRound w) := by
    simp only [closeWindow, hw, if_neg (not_not.mpr hregime)]
    rfl
  rw [hclose]
  refine roundOf_modRound (fun _ => rfl) ?_
  rw [roundOf, setWindow_rounds]
  exact hr

theorem reachClosed_done {s : State} {p : Nat} {k : WinKind} {w : Window} (hw : windowOf (part s p) k = some w) (hmode : w.mode = .closing)
    (hdone : closingDone w = true) (hpast : frontiersPast s p w.closes = true) :
    reachClosed s p k = releaseUses (finishCloses (closeWindow s p k) p) p k := by
  simp only [reachClosed, hw]
  exact if_pos ⟨hmode, hdone, hpast⟩

theorem reachClosed_waits {s : State} {p : Nat} {k : WinKind} {w : Window} (hw : windowOf (part s p) k = some w)
    (h : (closingDone w && frontiersPast s p w.closes) = false) : reachClosed s p k = s := by
  simp only [reachClosed, hw]
  refine if_neg ?_
  rintro ⟨-, hdone, hpast⟩
  rw [hdone, hpast] at h
  exact Bool.true_eq_false.mp h

/-- Releasing a window's areas leaves what closing fixed. -/
theorem releaseUses_closed {s : State} {p : Nat} {k : WinKind} {w : Window} (hw : windowOf (part s p) k = some w) :
    ∃ v, windowOf (part (releaseUses s p k) p) k = some v ∧ v.mode = w.mode ∧ v.subs = w.subs ∧ v.acceptedAtClose = w.acceptedAtClose := by
  rcases releaseUses_cases s p k with h | ⟨v, a, first, hv, -, h⟩
  · rw [h]
    exact ⟨w, hw, rfl, rfl, rfl⟩
  · rw [hw] at hv
    rw [Option.some.inj hv, h]
    exact ⟨_, windowOf_setWindow s p k _, rfl, rfl, rfl⟩

theorem releaseUses_regs (s : State) (p : Nat) (k : WinKind) : (releaseUses s p k).regs = s.regs := by
  rcases releaseUses_cases s p k with h | ⟨w, a, first, -, -, h⟩ <;> rw [h]
  rfl

theorem window_closes {s : State} {p : Fin 16} {k : WinKind} {w : Window} (hw : windowOf (part s p.val) k = some w)
    (hmode : w.mode = .closing) (hdone : closingDone w = true) (hpast : frontiersPast s p.val w.closes = true) (hordered : FlightsOrdered s) :
    ∃ u v, Answers (.windowClosed p k) s (windowsMoved u p.val) ∧ windowOf (part u p.val) k = some v ∧ v.mode = .closed ∧
      v.subs = w.subs ∧ v.acceptedAtClose = (w.subs.filter (fun b => b.provisional)).length ∧ OthersKept s u p.val ∧
      u.regs = s.regs ∧
      (∀ r0, k = .submit → (part s p.val).regime = 1 → acceptedSubs w ≠ [] → roundOf (part s p.val) w.roundId = some r0 →
        ∃ r, roundOf (part u p.val) w.roundId = some r ∧ r.mode = .closed ∧
          r.survivors = (acceptedSubs w).map (fun b => b.clientId)) ∧
      (∀ f ∈ flying s p.val, ∀ o, f.phase = .closeWait → f.body = .windowClose o → kindOf o.kind = k → o.roundId = w.roundId →
        ∃ g, flight u f.id = some g ∧ g.done.isSome = true) := by
  have hans : Answers (.windowClosed p k) s (windowsMoved (reachClosed s p.val k) p.val) := rfl
  rw [reachClosed_done hw hmode hdone hpast] at hans
  have hcloses := closeWindow_closes hw
  have hcompletes : OnlyCompletes p.val (closeWindow s p.val k) (finishCloses (closeWindow s p.val k) p.val) :=
    onlyCompletes_foldl p.val _ _
  obtain ⟨v, hv, hvmode, hvsubs, hvcount⟩ := releaseUses_closed ((hcompletes.windowOf k).trans hcloses.window)
  refine ⟨_, v, hans, hv, hvmode, hvsubs, hvcount,
    othersKept_trans (othersKept_trans hcloses.others hcompletes.others) (othersKept_releaseUses _ _ _),
    (releaseUses_regs _ _ _).trans (hcompletes.regs.trans hcloses.regs), ?_, ?_⟩
  · rintro r0 rfl hregime hsome hr
    refine ⟨closedRound w r0, ?_, if_neg (by rwa [List.isEmpty_iff]), rfl⟩
    rw [roundOf, releaseUses_rounds, hcompletes.own]
    exact closeWindow_round hw hregime hr
  · rintro f hf o hphase hbody rfl hround
    obtain ⟨hmem, -⟩ := mem_inflight_of_flying hf
    have hflying : f ∈ flying (closeWindow s p.val (kindOf o.kind)) p.val := by rwa [flying, hcloses.inflight]
    have hflight : flight (closeWindow s p.val (kindOf o.kind)) f.id = some f :=
      (flight_congr hcloses.inflight f.id).trans (flight_of_mem hordered hmem)
    obtain ⟨g, hg, hgdone⟩ := finishCloses_done hflying hbody hphase (windowFor_of_windowOf hcloses.window hround.symm) rfl
      (by rw [hflight]; rfl)
    exact ⟨g, (flight_congr (releaseUses_inflight _ _ _) f.id).trans hg, hgdone⟩

/-! WAIT_FT -/

/-- What `expireWaits` does about one descriptor. -/
def waitStep (p r : Nat) (t : State) (f : InFlight) : State :=
  match f.phase with
  | .waitFt target =>
    if f.h.p.val = p ∧ f.h.ring.val = r ∧ f.done.isNone then finish (reach t target) f.id stOk (now (reach t target) - target) else t
  | _ => t

theorem expireWaits_eq (s : State) (p r : Nat) : expireWaits s p r = s.inflight.foldl (waitStep p r) s := rfl

/-- A descriptor that does not hold the ring as a WAIT_FT is passed over. -/
theorem waitStep_other {p r : Nat} {f : InFlight}
    (h : f.h.p.val = p → f.h.ring.val = r → f.done = none → ∀ u, f.phase ≠ .waitFt u) (t : State) : waitStep p r t f = t := by
  unfold waitStep
  split
  · next u hphase => exact if_neg fun ⟨hp, hr, hdone⟩ => h hp hr (Option.isNone_iff_eq_none.mp hdone) u hphase
  · rfl

theorem foldl_waitStep_others {p r : Nat} {l : List InFlight}
    (h : ∀ f ∈ l, f.h.p.val = p → f.h.ring.val = r → f.done = none → ∀ u, f.phase ≠ .waitFt u) (t : State) :
    l.foldl (waitStep p r) t = t :=
  List.foldlRecOn (motive := fun u => u = t) l _ rfl (fun u hu f hf => by rw [hu]; exact waitStep_other (h f hf) t)

/-- Descriptors in flight differ. -/
theorem nodup_inflight {s : State} (h : FlightsOrdered s) : s.inflight.Nodup := by
  obtain ⟨hids, -⟩ := h
  exact List.Pairwise.of_map (S := (· < ·)) (fun f : InFlight => f.id) (fun a b hlt hab => by rw [hab] at hlt; exact Nat.lt_irrefl _ hlt) hids

theorem expireWaits_one {s : State} {p : Fin 16} {ring : Fin 8} {f : InFlight} {target : Nat} (hordered : FlightsOrdered s)
    (hmem : f ∈ s.inflight) (hp : f.h.p = p) (hring : f.h.ring = ring) (hdone : f.done = none) (hphase : f.phase = .waitFt target)
    (honly : ∀ g ∈ s.inflight, g.h.p = p → g.h.ring = ring → g.done = none → ∀ u, g.phase = .waitFt u → g = f) :
    expireWaits s p.val ring.val = finish (reach s target) f.id stOk (now (reach s target) - target) := by
  obtain ⟨before, after, hsplit⟩ := List.append_of_mem hmem
  have hnodup := nodup_inflight hordered
  rw [hsplit, List.nodup_append, List.nodup_cons] at hnodup
  obtain ⟨-, ⟨hafter, -⟩, hbefore⟩ := hnodup
  have hothers : ∀ g ∈ s.inflight, g ≠ f → g.h.p.val = p.val → g.h.ring.val = ring.val → g.done = none → ∀ u, g.phase ≠ .waitFt u :=
    fun g hg hne hgp hgr hgd u hu => hne (honly g hg (Fin.ext hgp) (Fin.ext hgr) hgd u hu)
  have hstep : waitStep p.val ring.val s f = finish (reach s target) f.id stOk (now (reach s target) - target) := by
    simp only [waitStep, hphase, hp, hring, hdone, Option.isNone_none, and_self, if_true]
  have hpassed : before.foldl (waitStep p.val ring.val) s = s := foldl_waitStep_others (fun g hg =>
    hothers g (by rw [hsplit]; exact List.mem_append_left _ hg) (hbefore g hg f List.mem_cons_self)) s
  rw [expireWaits_eq, hsplit, List.foldl_append, List.foldl_cons, hpassed, hstep]
  exact foldl_waitStep_others (fun g hg =>
    hothers g (by rw [hsplit]; exact List.mem_append_right _ (List.mem_cons_of_mem f hg)) (fun h => hafter (h ▸ hg))) _

theorem wait_expires {s : State} {p : Fin 16} {ring : Fin 8} {f : InFlight} {target : Nat} (hordered : FlightsOrdered s)
    (hmem : f ∈ s.inflight) (hp : f.h.p = p) (hring : f.h.ring = ring) (hdone : f.done = none) (hphase : f.phase = .waitFt target)
    (honly : ∀ g ∈ s.inflight, g.h.p = p → g.h.ring = ring → g.done = none → ∀ u, g.phase = .waitFt u → g = f) :
    ∃ t g, Answers (.waitFtExpiry p ring) s t ∧ flight t f.id = some g ∧ Reached s t target ∧
      g.done = some { status := stOk, result := now t - target, faultRef := 0, ft := now t } ∧
      t = { s with inflight := t.inflight, time := t.time } := by
  have hans : Answers (.waitFtExpiry p ring) s (expireWaits s p.val ring.val) := rfl
  rw [expireWaits_one hordered hmem hp hring hdone hphase honly] at hans
  have hflight : flight (reach s target) f.id = some f := by
    rw [reach_only]
    exact flight_of_mem hordered hmem
  obtain ⟨g, hg, hgdone⟩ := finishRef_completes hflight stOk (now (reach s target) - target) 0
  refine ⟨_, g, hans, hg, reached_of_now (reached_reach s target) rfl, hgdone, ?_⟩
  rw [finish, finishRef, modFlight, reach_only]

/-! HINT -/

/-- At an instant of a HINT federation time reaches it and the pre-ramp alone changes. -/
theorem hint_reached (s : State) (p d : Nat) (g : Option HintRamp) {t : State}
    (ht : t = modPart (reach s d) p (fun x => { x with hint := g })) :
    (part t p).hint = g ∧ Reached s t d ∧ OthersKept s t p ∧ t = { s with parts := t.parts, time := t.time } := by
  subst ht
  refine ⟨by rw [part_modPart_same], reached_of_now (reached_reach s d) rfl,
    othersKept_trans (othersKept_reach s d p) (othersKept_modPart _ p _), ?_⟩
  rw [reach_only]
  rfl

theorem hint_ramps {s : State} {p : Fin 16} {g : HintRamp} (hhint : (part s p.val).hint = some g) (hramping : g.ramping = false) :
    ∃ t, Answers (.hintRampStart p) s t ∧
      (part t p.val).hint = some { g with ramping := true, holding := true, filler := g.units } ∧ Reached s t g.rampAt ∧
      OthersKept s t p.val ∧ t = { s with parts := t.parts, time := t.time } := by
  refine ⟨_, ?_, hint_reached s p.val g.rampAt _ rfl⟩
  change Host.Outcome.next (hintRampStart s p.val) = _
  simp only [hintRampStart, hhint, hramping, Bool.false_eq_true, if_false]

theorem hint_ends {s : State} {p : Fin 16} {g : HintRamp} (hhint : (part s p.val).hint = some g) (hholding : g.holding = true) :
    ∃ t, Answers (.hintHoldEnd p) s t ∧ (part t p.val).hint = none ∧ Reached s t g.endAt ∧ OthersKept s t p.val ∧
      t = { s with parts := t.parts, time := t.time } := by
  refine ⟨_, ?_, hint_reached s p.val g.endAt none rfl⟩
  change Host.Outcome.next (hintHoldEnd s p.val) = _
  simp only [hintHoldEnd, hhint, hholding, if_true]

/-- Settles O14, instant by instant: windows (`window_opens`, `window_begins_closing`, `reachClosed_waits`, `window_closes`), WAIT_FT
(`wait_expires`) and HINT (`hint_ramps`, `hint_ends`). -/
theorem timedEventsAreReached : Obligations.TimedEventsAreReached := by
  refine ⟨fun s p k w hw => ⟨window_opens hw, window_begins_closing hw, fun _ hwaits => ?_, window_closes hw⟩,
    fun s p => ⟨fun ring f target hordered hmem hp hring hdone hphase honly =>
      wait_expires hordered hmem hp hring hdone hphase honly, fun g => hint_ramps, fun g => hint_ends⟩⟩
  exact congrArg (fun u => Host.Outcome.next (windowsMoved u p.val)) (reachClosed_waits hw hwaits)

end Sys2Proof.Proofs.TimedEvents
end

section
/-! SUPPORT. The start of a descriptor that may be chained (R76) leaves it in a phase of its own: it does not wait as a chained one that
has no piece left to take. Each operator's start is followed once; most give the descriptor passes, end it or let it wait. -/

namespace Sys2Proof.Proofs.Chains

open Sys2Proof Sys2Proof.Machine
open Sys2Proof.Proofs.Writes Sys2Proof.Proofs.SealedWindows Sys2Proof.Proofs.Passes Sys2Proof.Proofs.ReleaseViews
open Sys2Proof.Proofs.CiphertextStart Sys2Proof.Proofs.KeySwitches Sys2Proof.Proofs.UndisturbedWork Sys2Proof.Proofs.Moves

/-- A phase that is not that of a chained descriptor. -/
def OwnPhase (ph : Phase) : Prop := ∀ l, ph ≠ .chained l

/-- The descriptor is in flight, and not in the phase of a chained one. -/
def Unchained (id : Nat) (s : State) : Prop := ∃ f, flight s id = some f ∧ OwnPhase f.phase

section Steps

variable {id : Nat} {s t u : State}

theorem Unchained.ite {c : Prop} [Decidable c] (h1 : Unchained id t) (h2 : Unchained id u) : Unchained id (if c then t else u) := by
  split
  · exact h1
  · exact h2

theorem Unchained.congr (h : Unchained id s) (hinflight : t.inflight = s.inflight) : Unchained id t := by
  obtain ⟨f, hf, hphase⟩ := h
  exact ⟨f, (flight_congr hinflight id).trans hf, hphase⟩

theorem Unchained.writes {p : Nat} (h : Unchained id s) (hst : OnlyWrites p s t) : Unchained id t := h.congr hst.inflight

theorem Unchained.undisturbed (h : Unchained id s) (hst : Undisturbed s t) : Unchained id t := h.congr hst.inflight

/-- A change of a descriptor beside its phase. -/
theorem unchained_modFlight (h : Unchained id s) (n : Nat) {F : InFlight → InFlight} (hid : ∀ x, (F x).id = x.id)
    (hphase : ∀ x, (F x).phase = x.phase) : Unchained id (modFlight s n F) := by
  obtain ⟨f, hf, hown⟩ := h
  refine ⟨if n = id then F f else f, by rw [flight_modFlight s n id hid, hf]; rfl, ?_⟩
  split
  · rw [hphase]
    exact hown
  · exact hown

/-- A change that puts a descriptor into a phase of its own. -/
theorem unchained_modFlight_own (h : Unchained id s) (n : Nat) {F : InFlight → InFlight} (hid : ∀ x, (F x).id = x.id)
    (hphase : ∀ x, OwnPhase (F x).phase) : Unchained id (modFlight s n F) := by
  obtain ⟨f, hf, hown⟩ := h
  refine ⟨if n = id then F f else f, by rw [flight_modFlight s n id hid, hf]; rfl, ?_⟩
  split
  · exact hphase f
  · exact hown

theorem ownPhase_running : OwnPhase .running := fun _ h => Phase.noConfusion h

theorem unchained_finishRef (h : Unchained id s) (n : Nat) (st : Status) (r ref : Nat) : Unchained id (finishRef s n st r ref) :=
  unchained_modFlight_own h n (fun _ => rfl) (fun _ => ownPhase_running)

theorem unchained_finish (h : Unchained id s) (n : Nat) (st : Status) (r : Nat) : Unchained id (finish s n st r) :=
  unchained_finishRef h n st r 0

theorem unchained_refuse (h : Unchained id s) (n : Nat) (st : Status) : Unchained id (refuse s n st) := unchained_finish h n st 0

theorem unchained_waitIn (h : Unchained id s) (n : Nat) {ph : Phase} (hph : OwnPhase ph) : Unchained id (waitIn s n ph) :=
  unchained_modFlight_own h n (fun _ => rfl) (fun _ => hph)

theorem unchained_spendFree (h : Unchained id s) : Unchained id (spendFree s) := h.congr rfl

theorem unchained_modPart (h : Unchained id s) (p : Nat) (f : Partition → Partition) : Unchained id (modPart s p f) := h.congr rfl

theorem unchained_useRing (h : Unchained id s) (p a : Nat) : Unchained id (useRing s p a) := h.congr rfl

theorem unchained_modUsage (h : Unchained id s) (p : Nat) (f : Usage → Usage) : Unchained id (modUsage s p f) :=
  h.writes (onlyUsage_modUsage s p f).toOnlyWrites

theorem unchained_beginNext (h : Unchained id s) (l : Nat) : Unchained id (beginNext s l) := by
  obtain ⟨f, hf, hown⟩ := h
  obtain ⟨g, hg, hsame, -⟩ := flight_beginNext hf l
  exact ⟨g, hg, by rw [hsame]; exact hown⟩

theorem unchained_beginAll (h : Unchained id s) (ls : List Nat) : Unchained id (ls.foldl beginNext s) :=
  List.foldlRecOn ls beginNext h (fun _ ht l _ => unchained_beginNext ht l)

/-! Passes -/

theorem unchained_setJobs (h : Unchained id s) (n : Nat) (jobs : List TileJob) (st : Status) (r : Nat) : Unchained id (setJobs s n jobs st r) :=
  Unchained.ite (unchained_finish h n st r) (unchained_modFlight_own h n (fun _ => rfl) (fun _ => ownPhase_running))

theorem unchained_startJobs (h : Unchained id s) (n : Nat) (jobs : List TileJob) (r : Nat) : Unchained id (startJobs s n jobs r) :=
  unchained_beginAll (unchained_setJobs (unchained_modFlight h n (F := fun f => { f with result := r }) (fun _ => rfl) (fun _ => rfl))
    n jobs stOk r) _

/-- Passes of a descriptor whose skipped ones have been counted. -/
theorem unchained_startJobs_skipping (h : Unchained id s) (n k : Nat) (jobs : List TileJob) (r : Nat) :
    Unchained id (startJobs (modFlight s n (fun f => { f with skipped := k })) n jobs r) :=
  unchained_startJobs (unchained_modFlight h n (F := fun f => { f with skipped := k }) (fun _ => rfl) (fun _ => rfl)) n jobs r

theorem unchained_writeHeaders (h : Unchained id s) (p : Nat) (ws : List (Nat × Bytes)) : Unchained id (writeHeaders s p ws) :=
  h.writes (onlyWrites_writeHeaders s p ws)

theorem unchained_startCt (h : Unchained id s) (n p : Nat) (jobs : List TileJob) (heads : List (Nat × Bytes)) (count : Nat) :
    Unchained id (startCt s n p jobs heads count) :=
  Unchained.ite (unchained_finish (unchained_writeHeaders h p heads) n _ _)
    (unchained_beginAll (unchained_modFlight_own h n (F := fun f => { f with jobs := jobs, phase := .headers heads, result := _ })
      (fun _ => rfl) (fun _ _ heq => Phase.noConfusion heq)) _)

theorem unchained_stallNoise (h : Unchained id s) (n : Nat) (key : Option StoredKey) : Unchained id (stallNoise s n key) :=
  unchained_modFlight_own h n (fun _ => rfl) (fun _ _ heq => Phase.noConfusion heq)

theorem unchained_numbers (h : Unchained id s) (n : Nat) : Unchained id (waitIn s n .numbers) :=
  unchained_waitIn h n (fun _ heq => Phase.noConfusion heq)

/-! Each operator's start -/

variable (h : Unchained id s) (d : DescHdr)
include h

theorem unchained_startCopy (o : MoveOps) : Unchained id (startCopy s id d o) := by
  have hread : Unchained id (countDram (unpin s d.p.val o.dst (copyLen s d.p.val o)) d.p.val o.src o.len false) := by
    refine Unchained.writes ?_ (onlyUsage_countDram _ _ _ _ _).toOnlyWrites
    exact Unchained.ite (unchained_modPart h _ _) h
  have hwrite : ∀ bs marks, Unchained id (moveWrite (countDram (unpin s d.p.val o.dst (copyLen s d.p.val o)) d.p.val o.src o.len false)
      d.p.val o bs marks) := fun bs marks => hread.writes (onlyWrites_moveWrite _ _ _ _ _)
  refine Unchained.ite (unchained_refuse h id _) (Unchained.ite (Unchained.ite (unchained_refuse h id _) ?_) ?_)
  · exact unchained_finish (unchained_modPart (hwrite _ _) _ _) id _ _
  · exact unchained_finish (hwrite _ _) id _ _

theorem unchained_startFill (o : MoveOps) : Unchained id (startFill s id d o) := by
  refine unchained_finish (Unchained.writes (Unchained.ite ?_ h) (onlyWrites_moveWrite _ _ _ _ _)) id _ _
  exact unchained_modPart h _ _

theorem unchained_accWindow (o : AccOps) (w : Window) : Unchained id (accWindow s id d o w) :=
  Unchained.ite (unchained_refuse h id _) (unchained_startJobs_skipping h id _ _ _)

theorem unchained_startAccumulate (o : AccOps) : Unchained id (startAccumulate s id d o) := by
  refine Unchained.ite (unchained_refuse h id _) (Unchained.ite (unchained_refuse h id _) (Unchained.ite (unchained_refuse h id _) ?_))
  split
  · exact unchained_startJobs_skipping h id _ _ _
  · exact Unchained.ite (unchained_accWindow h d o _) (unchained_numbers h id)

theorem unchained_startDrain (o : DrainOps) : Unchained id (startDrain s id d o) :=
  Unchained.ite (unchained_refuse h id _) (unchained_startJobs (unchained_spendFree h) id _ 0)

theorem unchained_startStats (k : StatsSub) (o : StatsOps) : Unchained id (startStats k s id d o) := by
  refine Unchained.ite (unchained_refuse h id _) (Unchained.ite (unchained_numbers h id) (Unchained.ite (unchained_refuse h id _) ?_))
  cases k with
  | sumsq => exact Unchained.ite (unchained_refuse h id _) (unchained_startJobs h id _ 0)
  | moments => exact Unchained.ite (unchained_refuse h id _) (Unchained.ite (unchained_refuse h id _) (unchained_startJobs h id _ 0))
  | finishing => exact Unchained.ite (unchained_refuse h id _) (Unchained.ite (unchained_refuse h id _) (unchained_startJobs h id _ 0))
  | rsqrt => exact Unchained.ite (unchained_refuse h id _) (unchained_startJobs h id _ 0)

theorem unchained_startMaskExpand (o : MaskOps) : Unchained id (startMaskExpand s id d o) := by
  unfold startMaskExpand
  dsimp only
  split
  · exact unchained_refuse h id _
  · exact Unchained.ite (unchained_refuse h id _) (Unchained.ite (unchained_refuse h id _)
      (unchained_startJobs_skipping (unchained_modUsage h _ _) id _ _ _))

theorem unchained_startTransform (f : Nat → Nat → Nat → List Nat → List Nat) (o : NttOps) : Unchained id (startTransform f s id d o) :=
  Unchained.ite (unchained_refuse h id _) (Unchained.ite (unchained_refuse h id _) (unchained_startJobs h id _ 0))

theorem unchained_startPmul (k : PmulSub) (o : PmulOps) : Unchained id (startPmul k s id d o) :=
  Unchained.ite (unchained_refuse h id _) (Unchained.ite (unchained_refuse h id _) (unchained_startJobs h id _ 0))

theorem unchained_startBaseconv (o : BaseOps) : Unchained id (startBaseconv s id d o) :=
  Unchained.ite (unchained_refuse h id _) (Unchained.ite (unchained_refuse h id _) (Unchained.ite (unchained_refuse h id _)
    (unchained_startJobs h id _ 0)))

theorem unchained_foldReady (o : CtAddOps) (w : Window) : Unchained id (foldReady s id d o w) :=
  Unchained.ite (unchained_refuse h id _) (Unchained.ite (unchained_refuse h id _)
    (unchained_startCt (Unchained.ite (unchained_writeHeaders (unchained_spendFree h) _ _) h) id _ _ _ _))

theorem unchained_startCtFold (o : CtAddOps) : Unchained id (startCtFold s id d o) := by
  unfold startCtFold
  dsimp only
  split
  · exact unchained_refuse h id _
  · have hheld := fun ws => unchained_writeHeaders (unchained_useRing h d.p.val o.paramAddr) d.p.val ws
    exact Unchained.ite (unchained_refuse h id _) (Unchained.ite (unchained_refuse h id _) (Unchained.ite (unchained_refuse h id _)
      (Unchained.ite (unchained_foldReady (hheld _) d o _) (unchained_numbers (hheld _) id))))

theorem unchained_startCtPair (sub : Bool) (o : CtAddOps) : Unchained id (startCtPair sub s id d o) :=
  Unchained.ite (unchained_refuse h id _) (Unchained.ite (unchained_refuse h id _) (Unchained.ite (unchained_refuse h id _)
    (Unchained.ite (unchained_refuse h id _) (Unchained.ite (unchained_refuse h id _)
      (unchained_startCt (unchained_useRing h _ _) id _ _ _ _)))))

theorem unchained_scratch (p : Nat) (c : Claim) (marks : Bool × Bool) : Unchained id (scratch s p c marks) :=
  unchained_spendFree (h.writes (onlyWrites_scratched s p c marks))

theorem unchained_startSwitch (rotate : Bool) (o : KsOps) : Unchained id (startSwitch rotate s id d o) := by
  unfold startSwitch
  dsimp only
  split
  · exact unchained_refuse h id _
  · refine Unchained.ite (unchained_refuse h id _) ?_
    split
    · exact unchained_refuse h id _
    · exact Unchained.ite (unchained_refuse h id _)
        (unchained_startCt (unchained_scratch (unchained_useRing h _ _) _ _ _) id _ _ _ _)

theorem unchained_startRescale (mod_ : Bool) (o : RescaleOps) : Unchained id (startRescale mod_ s id d o) := by
  unfold startRescale
  dsimp only
  refine Unchained.ite (unchained_refuse h id _) ?_
  split
  · exact unchained_refuse h id _
  · exact Unchained.ite (unchained_refuse h id _) (unchained_startCt (unchained_useRing h _ _) id _ _ _ _)

theorem unchained_startNoise (o : NoiseOps) : Unchained id (startNoise s id d o) :=
  Unchained.ite (unchained_refuse h id _) (Unchained.ite (unchained_refuse h id _) (Unchained.ite (unchained_stallNoise h id none)
    (unchained_startJobs (unchained_spendFree h) id _ _)))

theorem unchained_releaseNoise (share : Bool) (o : ReleaseOps) (admitted : Nat) (key : Bytes) :
    Unchained id (releaseNoise share s id d o admitted key) := by
  refine Unchained.ite ?_ (Unchained.ite ?_ ?_)
  · refine unchained_modFlight_own (unchained_spendFree (Unchained.ite ?_ ?_)) id (fun _ => rfl) (fun _ _ heq => Phase.noConfusion heq)
    · exact h.writes ((onlyWrites_dropResident d.p.val s _ _ _).trans (onlyWrites_writeMarked _ d.p.val _ _ _ _ _))
    · exact h.writes ((onlyWrites_dropResidentAt d.p.val s _ _ _).trans (onlyWrites_writeMarked _ d.p.val _ _ _ _ _))
  · exact unchained_finish (unchained_spendFree (h.writes (onlyWrites_writeReleasedCt s d.p.val share o))) id _ 0
  · exact unchained_finish (unchained_spendFree (h.writes (onlyWrites_writeReleasedTiles s d.p.val o _))) id _ 0

theorem unchained_startRelease (share : Bool) (o : ReleaseOps) : Unchained id (startRelease share s id d o) := by
  refine Unchained.ite (unchained_refuse h id _) (Unchained.ite (unchained_refuse h id _) ?_)
  have hring : Unchained id (if (part s d.p.val).regime = 2 then useRing s d.p.val o.paramAddr else s) :=
    Unchained.ite (unchained_useRing h _ _) h
  have hrecord : Unchained id (gateRecord (if (part s d.p.val).regime = 2 then useRing s d.p.val o.paramAddr else s) d.p.val share
      o.roundId (now s)) := hring.congr rfl
  have hgate := unchained_modFlight (F := fun f => { f with admitted := now s }) hrecord id (fun _ => rfl) (fun _ => rfl)
  exact Unchained.ite (unchained_stallNoise hgate id _) (unchained_releaseNoise hgate d share o _ _)

omit h in
/-- Sending what a queue pair has to send ends descriptors or counts what they have sent. -/
theorem unchained_pumpQp (p n : Nat) : ∀ (fuel : Nat) {s : State}, Unchained id s → Unchained id (pumpQp p n fuel s) := by
  intro fuel
  induction fuel with
  | zero => exact fun h => h
  | succ fuel ih =>
    intro s h
    rw [pumpQp]
    split
    · exact h
    · split
      · exact h
      next f o _ =>
        refine Unchained.ite ?_ h
        dsimp only
        split
        · exact ih (unchained_finish h f.id _ _)
        next e _ =>
          refine Unchained.ite (ih (unchained_finish h f.id _ _)) (Unchained.ite (ih (unchained_finish h f.id _ _)) (ih ?_))
          refine unchained_modFlight (Unchained.writes ?_ (onlyUsage_countDram _ p _ _ false).toOnlyWrites) f.id
            (fun _ => rfl) (fun _ => rfl)
          exact unchained_modPart ((h.undisturbed (undisturbed_sealPacket s p e _)).undisturbed (undisturbed_sendPacket _ p _)) p _

theorem unchained_fetchContext (p n : Nat) (stamp : Instant) (held : List HeldPacket) : Unchained id (fetchContext s p n stamp held) :=
  (h.writes (onlyUsage_countEvent p s _ _ _).toOnlyWrites).congr rfl

theorem unchained_rmaStart (right : Nat) (o : RmaOps) : Unchained id (rmaStart right s id d o) := by
  have hkey : ∀ {t : State}, Unchained id t → Unchained id (waitIn t id .keyWait) :=
    fun ht => unchained_waitIn ht id (fun _ heq => Phase.noConfusion heq)
  unfold rmaStart
  dsimp only
  split
  · exact Unchained.ite (unchained_refuse h id _) (Unchained.ite (hkey h) (hkey (unchained_fetchContext h _ _ _ _)))
  · exact Unchained.ite (unchained_refuse h id _) (Unchained.ite (unchained_refuse h id _) (Unchained.ite (unchained_refuse h id _)
      (unchained_pumpQp _ _ _ (unchained_waitIn h id (fun _ heq => Phase.noConfusion heq)))))

/-- The work of a descriptor with the chain flag. -/
theorem unchained_runBody {b : DescBody} (hflag : chainFlag b = true) : Unchained id (runBody s id d b) := by
  cases b with
  | copy o => exact unchained_startCopy h d o
  | fill o => exact unchained_startFill h d o
  | accumulate o => exact unchained_startAccumulate h d o
  | accDrain o => exact unchained_startDrain h d o
  | statsSumsq o | statsMoments o | statsFinish o | statsRsqrt o => exact unchained_startStats h d _ o
  | maskExpand o => exact unchained_startMaskExpand h d o
  | ntt o | intt o => exact unchained_startTransform h d _ o
  | pmulMul o | pmulMac o | pmulSmul o | pmulFxmul o => exact unchained_startPmul h d _ o
  | baseconv o => exact unchained_startBaseconv h d o
  | ctAddFold o => exact unchained_startCtFold h d o
  | ctAddAdd o | ctAddSub o => exact unchained_startCtPair h d _ o
  | keyswitch o | rotate o => exact unchained_startSwitch h d _ o
  | rescale o | modswitch o => exact unchained_startRescale h d _ o
  | dpNoise o => exact unchained_startNoise h d o
  | releaseAggregate o | releaseShare o => exact unchained_startRelease h d _ o
  | rmaWrite o | rmaRead o | rmaAdd o => exact unchained_rmaStart h d _ o
  | _ => exact absurd hflag Bool.false_ne_true

theorem unchained_startBody {b : DescBody} (hflag : chainFlag b = true) : Unchained id (startBody s id d b) :=
  Unchained.ite (unchained_waitIn h id (fun _ heq => Phase.noConfusion heq)) (unchained_runBody h d hflag)

end Steps

end Sys2Proof.Proofs.Chains
end

section
/-! O8: dispatch (R215, R76, R225). A refusal ends the descriptor as it enters; a head that waits for units stays in its ring; a chained
descriptor waits with its pieces, or does its work where it is one piece that nothing holds. -/

namespace Sys2Proof.Proofs.Dispatching

open Sys2Proof Sys2Proof.Machine
open Sys2Proof.Proofs.Writes Sys2Proof.Proofs.LoggedWork Sys2Proof.Proofs.Reports Sys2Proof.Proofs.Passes Sys2Proof.Proofs.Chains

/-! Refusals -/

section Tests

variable {s : State} {h : DescHdr} {b : DescBody}

theorem decideDesc_stale (hgen : h.gen ≠ (part s h.p.val).gen) : decideDesc s h b = .refused stStale := if_pos hgen

theorem decideDesc_unknown (hgen : h.gen = (part s h.p.val).gen) (hknown : opcodeKnown b = false) : decideDesc s h b = .refused stPolicy := by
  unfold decideDesc
  dsimp only
  rw [if_neg (not_not.mpr hgen), if_pos (by rw [hknown]; rfl)]

/-- With a live partition in a running module the state refuses nothing: the regime is the next test. -/
theorem decideDesc_live (hgen : h.gen = (part s h.p.val).gen) (hknown : opcodeKnown b = true) (hrun : s.faults.mode = .run)
    (hlive : (part s h.p.val).mode = .live) :
    decideDesc s h b =
      if !regimeAdmits (part s h.p.val).regime (opcodeOf b) then .refused stPolicy
      else if !rangeOk (part s h.p.val) b then .refused stPolicy
      else if !((claimsOf s h b).all (claimOk (part s h.p.val)) && addressOk s h b) then .refused stAccess
      else if rangesMeet (reserves s h b ++ dramTouched s h b) (standing s h b (reserves s h b)) then .waits (reserves s h b)
      else if s.time.mode == .unset && needsTime (opcodeOf b) then .refused stPolicy
      else .runs (reserves s h b) (isChained s h b (reserves s h b)) := by
  unfold decideDesc
  dsimp only
  rw [if_neg (not_not.mpr hgen), if_neg (by rw [hknown]; decide), if_neg (by rw [hrun, hlive]; simp), hrun]
  rfl

theorem decideDesc_regime (hgen : h.gen = (part s h.p.val).gen) (hknown : opcodeKnown b = true) (hrun : s.faults.mode = .run)
    (hlive : (part s h.p.val).mode = .live) (hregime : regimeAdmits (part s h.p.val).regime (opcodeOf b) = false) :
    decideDesc s h b = .refused stPolicy := by
  rw [decideDesc_live hgen hknown hrun hlive, hregime]
  rfl

theorem decideDesc_range (hgen : h.gen = (part s h.p.val).gen) (hknown : opcodeKnown b = true) (hrun : s.faults.mode = .run)
    (hlive : (part s h.p.val).mode = .live) (hregime : regimeAdmits (part s h.p.val).regime (opcodeOf b) = true)
    (hrange : rangeOk (part s h.p.val) b = false) : decideDesc s h b = .refused stPolicy := by
  rw [decideDesc_live hgen hknown hrun hlive, hregime, hrange]
  rfl

theorem decideDesc_address (hgen : h.gen = (part s h.p.val).gen) (hknown : opcodeKnown b = true) (hrun : s.faults.mode = .run)
    (hlive : (part s h.p.val).mode = .live) (hregime : regimeAdmits (part s h.p.val).regime (opcodeOf b) = true)
    (hrange : rangeOk (part s h.p.val) b = true)
    (haddress : ((claimsOf s h b).all (claimOk (part s h.p.val)) && addressOk s h b) = false) :
    decideDesc s h b = .refused stAccess := by
  rw [decideDesc_live hgen hknown hrun hlive, hregime, hrange, haddress]
  rfl

/-- A descriptor that runs has its reservation, and one that runs chained has the chain flag. -/
theorem decideDesc_runs {rs : List (Nat × Nat)} {chained : Bool} (hruns : decideDesc s h b = .runs rs chained) :
    rs = reserves s h b ∧ chained = isChained s h b rs := by
  unfold decideDesc at hruns
  dsimp only at hruns
  split_ifs at hruns
  obtain ⟨rfl, rfl⟩ := Decision.runs.inj hruns
  exact ⟨rfl, rfl⟩

theorem chainFlag_of_isChained {rs : List (Nat × Nat)} (hchained : isChained s h b rs = true) : chainFlag b = true :=
  (Bool.and_eq_true_iff.mp hchained).1

/-- Refusing a descriptor may write an entry of the log; work and the next number stay. -/
theorem logForeign_keeps (st : Status) : WorkKept s (logForeign s h b st) ∧ (logForeign s h b st).nextId = s.nextId := by
  unfold logForeign
  split
  · split
    · exact ⟨workKept_logFault s _, by rw [(reported_logFault s _).update]⟩
    · exact ⟨WorkKept.refl s, rfl⟩
  · exact ⟨WorkKept.refl s, rfl⟩

/-- The log entry that a refusal names. -/
def refusalRef (s : State) (h : DescHdr) (b : DescBody) (st : Status) : Nat :=
  if (logForeign s h b st).faults.head ≠ s.faults.head then faultRef (logForeign s h b st)
  else if st = stReset then stateRef s h.p.val else 0

/-- The state in which a refused descriptor has entered. -/
def enteredRefused (s : State) (h : DescHdr) (b : DescBody) (st : Status) : State :=
  enter (countEvent (logForeign s h b st) 1 (servedBy s h.p.val) 1) h b []

theorem dispatchDesc_refused {st : Status} (hopen : dispatchOpen s h.p.val = true) (hheld : heldBack s h b = false)
    (hdec : decideDesc s h b = .refused st) :
    dispatchDesc h b s = finishRef (enteredRefused s h b st) s.nextId st 0 (refusalRef s h b st) := by
  unfold dispatchDesc
  simp only [hopen, hheld, hdec, Bool.not_true, Bool.false_eq_true, if_false]
  rfl

/-- A descriptor that enters is the one in flight under its number. -/
theorem flight_enter {u : State} (hordered : FlightsOrdered u) (h : DescHdr) (b : DescBody) (rs : List (Nat × Nat)) :
    flight (enter u h b rs) u.nextId = some (takenFlight u h b rs) := by
  have hnew := find_none_of_ordered hordered
  change (u.inflight ++ [takenFlight u h b rs]).find? (fun f => f.id == u.nextId) = _
  have hfound : (takenFlight u h b rs).id == u.nextId := beq_self_eq_true _
  rw [List.find?_append, hnew, Option.none_or]
  exact List.find?_cons_of_pos hfound

theorem flightsOrdered_congr {u : State} (hordered : FlightsOrdered s) (hinflight : u.inflight = s.inflight) (hnext : u.nextId = s.nextId) :
    FlightsOrdered u := by
  unfold FlightsOrdered at *
  rw [hinflight, hnext]
  exact hordered

/-- A refused descriptor ends as it enters, and memory is as it was. -/
theorem refused_ends {st : Status} (hordered : FlightsOrdered s) (hopen : dispatchOpen s h.p.val = true) (hheld : heldBack s h b = false)
    (hdec : decideDesc s h b = .refused st) :
    ∃ ref f, flight (dispatchDesc h b s) s.nextId = some f ∧ f.h = h ∧ f.body = b ∧ f.jobs = [] ∧
      f.done = some { status := st, result := 0, faultRef := ref, ft := now s } ∧ StoreKept s (dispatchDesc h b s) := by
  obtain ⟨hlog, hnext⟩ := logForeign_keeps (s := s) (h := h) (b := b) st
  have hkept := hlog.trans (workKept_countEvent _ 1 (servedBy s h.p.val) 1)
  have hnextCounted : (countEvent (logForeign s h b st) 1 (servedBy s h.p.val) 1).nextId = s.nextId := by rw [countEvent_only]; exact hnext
  have hflight := flight_enter (flightsOrdered_congr hordered hkept.inflight hnextCounted) h b []
  rw [hnextCounted] at hflight
  rw [dispatchDesc_refused hopen hheld hdec]
  have hnow : now (enteredRefused s h b st) = now s := hkept.now
  have hstore : StoreKept s (enteredRefused s h b st) := storeKept_trans hkept.storeKept ⟨fun _ => ⟨rfl, rfl⟩, rfl, rfl⟩
  change flight (enteredRefused s h b st) s.nextId = _ at hflight
  generalize enteredRefused s h b st = u at hflight hnow hstore
  refine ⟨refusalRef s h b st, _, (flight_finishRef u s.nextId st 0 _).trans (by rw [hflight]; rfl), rfl, rfl, rfl, by rw [hnow], ?_⟩
  exact storeKept_trans hstore ⟨fun _ => ⟨rfl, rfl⟩, rfl, rfl⟩

/-! A head that waits for units -/

theorem dispatchDesc_waits {rs : List (Nat × Nat)} (hopen : dispatchOpen s h.p.val = true) (hheld : heldBack s h b = false)
    (hdec : decideDesc s h b = .waits rs) :
    dispatchDesc h b s = holdHead (countEvent s 14 (servedBy s h.p.val) 1) h b true rs := by
  unfold dispatchDesc
  simp only [hopen, hheld, hdec, Bool.not_true, Bool.false_eq_true, if_false]

theorem waiting_stays {rs : List (Nat × Nat)} (hopen : dispatchOpen s h.p.val = true) (hheld : heldBack s h b = false)
    (hdec : decideDesc s h b = .waits rs) :
    (sqOf (dispatchDesc h b s) h.p.val h.ring.val).buffer =
        { h := h, body := b, waited := true, names := rs } :: (sqOf s h.p.val h.ring.val).buffer ∧
      dispatchDesc h b s = { s with parts := (dispatchDesc h b s).parts, dbg := (dispatchDesc h b s).dbg } ∧
      OthersKept s (dispatchDesc h b s) h.p.val := by
  have hcount := countEvent_only s 14 (servedBy s h.p.val) 1
  rw [dispatchDesc_waits hopen hheld hdec]
  generalize countEvent s 14 (servedBy s h.p.val) 1 = u at hcount
  have hparts : u.parts = s.parts := by rw [hcount]
  refine ⟨?_, ?_, othersKept_trans (othersKept_of_parts hparts _) (othersKept_modPart u h.p.val _)⟩
  · rw [holdHead, sqOf_modSq_same, sqOf, part_congr hparts]
    rfl
  · rw [hcount]
    rfl

/-! Chained descriptors -/

/-- The chained descriptor in flight with all its pieces to take. -/
def chainedAll (s : State) (h : DescHdr) (b : DescBody) : State :=
  waitIn (takenUp s h b) s.nextId (.chained (List.range (pieceCount b)))

/-- The chained descriptor as it is in flight. -/
def chainedFlight (s : State) (h : DescHdr) (b : DescBody) : InFlight :=
  { takenFlight s h b (reserves s h b) with phase := .chained (List.range (pieceCount b)) }

theorem flight_chainedAll (hordered : FlightsOrdered s) : flight (chainedAll s h b) s.nextId = some (chainedFlight s h b) := by
  rw [chainedAll, waitIn, flight_modFlight_same, flight_takenUp hordered]
  · rfl
  · exact fun _ => rfl

theorem dispatchDesc_chained {rs : List (Nat × Nat)} (hopen : dispatchOpen s h.p.val = true) (hheld : heldBack s h b = false)
    (hdec : decideDesc s h b = .runs rs true) : dispatchDesc h b s = takePieces (chainedAll s h b) s.nextId := by
  obtain ⟨rfl, -⟩ := decideDesc_runs hdec
  unfold dispatchDesc
  simp only [hopen, hheld, hdec, Bool.not_true, Bool.false_eq_true, if_false, if_true]
  rfl

/-- A piece that an earlier descriptor of the chain holds a tile of is not taken. -/
theorem takePiece_waits {id i : Nat} {f : InFlight} (hf : flight s id = some f) (hwaits : pieceWaits s f i = true) : takePiece id s i = s := by
  unfold takePiece
  rw [hf]
  exact if_pos (.inr hwaits)

theorem foldl_takePiece_waits {id : Nat} {f : InFlight} (hf : flight s id = some f) {l : List Nat}
    (hwaits : ∀ i ∈ l, pieceWaits s f i = true) : l.foldl (takePiece id) s = s :=
  List.foldlRecOn (motive := fun t => t = s) l _ rfl (fun t ht i hi => by rw [ht]; exact takePiece_waits hf (hwaits i hi))

/-- While a piece is left, taking pieces ends with the last of them. -/
theorem takePieces_eq {id : Nat} {f : InFlight} {left : List Nat} (hf : flight s id = some f) (hphase : f.phase = .chained left)
    {t : State} (htaken : left.foldl (takePiece id) s = t) (hleft : ∀ g, flight t id = some g → g.phase ≠ .chained []) :
    takePieces s id = t := by
  simp only [takePieces, hf, hphase, htaken]
  split
  · next g hg => exact if_neg (hleft g hg)
  · rfl

/-- A descriptor that runs, put into another phase and back, is as it was. -/
theorem waitIn_waitIn_running {u : State} {id : Nat} (hrunning : ∀ f ∈ u.inflight, f.id = id → f.phase = .running) (ph : Phase) :
    waitIn (waitIn u id ph) id .running = u := by
  have hback : ∀ f ∈ u.inflight, ((fun x : InFlight => if x.id = id then { x with phase := .running } else x) ∘
      (fun x : InFlight => if x.id = id then { x with phase := ph } else x)) f = f := by
    intro f hf
    by_cases hid : f.id = id
    · have hphase := hrunning f hf hid
      simp only [Function.comp, if_pos hid]
      rw [← hphase]
    · simp only [Function.comp, if_neg hid]
  have hinflight : (waitIn (waitIn u id ph) id .running).inflight = u.inflight := by
    simp only [waitIn, modFlight, List.map_map]
    exact (List.map_congr_left hback).trans (List.map_id _)
  calc waitIn (waitIn u id ph) id .running = { u with inflight := (waitIn (waitIn u id ph) id .running).inflight } := rfl
    _ = u := by rw [hinflight]

theorem takenUp_running (hordered : FlightsOrdered s) : ∀ f ∈ (takenUp s h b).inflight, f.id = s.nextId → f.phase = .running := by
  obtain ⟨-, hearlier⟩ := hordered
  rw [takenUp_only]
  intro f hf hid
  rcases List.mem_append.mp hf with hf | hf
  · exact absurd hid (Nat.ne_of_lt (hearlier f hf))
  · rw [List.mem_singleton.mp hf]
    rfl

/-- A single piece that nothing holds is taken: the descriptor does its work. -/
theorem takePiece_single (hordered : FlightsOrdered s) (hone : pieceCount b = 1)
    (hfree : pieceWaits (chainedAll s h b) (chainedFlight s h b) 0 = false) :
    takePiece s.nextId (chainedAll s h b) 0 = startBody (takenUp s h b) s.nextId h b := by
  have hbody : pieceCount (chainedFlight s h b).body ≤ 1 := hone.le
  unfold takePiece
  rw [flight_chainedAll hordered]
  dsimp only
  rw [if_neg, if_pos hbody, chainedAll, waitIn_waitIn_running (takenUp_running hordered)]
  · rfl
  · rintro (hchaining | hwaits)
    · exact absurd hchaining Bool.true_eq_false.mp
    · rw [hfree] at hwaits
      exact absurd hwaits Bool.false_ne_true

/-- A chained descriptor waits while its chain holds a tile of each piece. -/
theorem chained_waits (hordered : FlightsOrdered s) (hpieces : 0 < pieceCount b)
    (hwaits : ∀ i, i < pieceCount b → pieceWaits (chainedAll s h b) (chainedFlight s h b) i = true) :
    takePieces (chainedAll s h b) s.nextId = chainedAll s h b := by
  have hflight := flight_chainedAll (h := h) (b := b) hordered
  refine takePieces_eq hflight rfl (foldl_takePiece_waits hflight fun i hi => hwaits i (List.mem_range.mp hi)) ?_
  intro g hg hdone
  rw [hflight] at hg
  rw [← Option.some.inj hg] at hdone
  have hnone : List.range (pieceCount b) = [] := Phase.chained.inj hdone
  rw [List.range_eq_nil] at hnone
  omega

/-- One that is a single piece does its work once its chain holds no tile of it. -/
theorem chained_single (hordered : FlightsOrdered s) (hflag : chainFlag b = true) (hone : pieceCount b = 1)
    (hfree : pieceWaits (chainedAll s h b) (chainedFlight s h b) 0 = false) :
    takePieces (chainedAll s h b) s.nextId = startBody (takenUp s h b) s.nextId h b := by
  have htaken : (List.range (pieceCount b)).foldl (takePiece s.nextId) (chainedAll s h b) = startBody (takenUp s h b) s.nextId h b := by
    rw [hone]
    exact takePiece_single hordered hone hfree
  have hown : Unchained s.nextId (takenUp s h b) := ⟨_, flight_takenUp hordered h b, ownPhase_running⟩
  obtain ⟨g, hg, hphase⟩ := unchained_startBody hown h hflag
  refine takePieces_eq (flight_chainedAll hordered) rfl htaken fun g' hg' => ?_
  rw [hg] at hg'
  rw [← Option.some.inj hg']
  exact hphase []

theorem chainedAll_onlyFlights (s : State) (h : DescHdr) (b : DescBody) : OnlyFlights s (chainedAll s h b) := by
  rw [OnlyFlights, chainedAll, takenUp_only]
  rfl

end Tests

/-- Settles O8: refusals (`refused_ends`, by the `decideDesc_…` lemma of each test), waiting heads (`waiting_stays`) and chained
descriptors (`chained_waits`, `chained_single`). -/
theorem dispatchRefusesOrHolds : Obligations.DispatchRefusesOrHolds := by
  refine ⟨fun s h b hordered hopen hheld hrun hlive => ⟨fun hgen => ?_, fun hgen hknown => ?_, fun hgen hknown hregime => ?_,
    fun hgen hknown hregime hrange => ?_, fun hgen hknown hregime hrange haddress => ?_⟩,
    fun s h b rs hopen hheld hdec => waiting_stays hopen hheld hdec,
    fun s h b rs hordered hopen hheld hdec hpieces => ?_⟩
  · exact refused_ends hordered hopen hheld (decideDesc_stale hgen)
  · exact refused_ends hordered hopen hheld (decideDesc_unknown hgen hknown)
  · exact refused_ends hordered hopen hheld (decideDesc_regime hgen hknown hrun hlive hregime)
  · exact refused_ends hordered hopen hheld (decideDesc_range hgen hknown hrun hlive hregime hrange)
  · exact refused_ends hordered hopen hheld (decideDesc_address hgen hknown hrun hlive hregime hrange haddress)
  · obtain ⟨hrs, hchained⟩ := decideDesc_runs hdec
    refine ⟨chainedFlight s h b, flight_chainedAll hordered, rfl, rfl, rfl, rfl, hrs.symm, fun hwaits => ?_, fun hone hfree => ?_⟩
    · exact ⟨(dispatchDesc_chained hopen hheld hdec).trans (chained_waits hordered hpieces hwaits), chainedAll_onlyFlights s h b⟩
    · exact (dispatchDesc_chained hopen hheld hdec).trans
        (chained_single hordered (chainFlag_of_isChained hchained.symm) hone hfree)

end Sys2Proof.Proofs.Dispatching
end

section
/-! O9: dispatch while federation time is UNSET (R237). Of the tests of R215 the last alone reads the state of time; where it refuses, the
descriptor ends as it enters. -/

namespace Sys2Proof.Proofs.UnsetTime

open Sys2Proof Sys2Proof.Machine
open Sys2Proof.Proofs.Dispatching

section Tests

variable {s : State} {h : DescHdr} {b : DescBody}

/-- The state with federation time in another state (Table 9.1). -/
def withTimeMode (s : State) (m : TimeMode) : State := { s with time := { s.time with mode := m } }

theorem claimsOf_withTimeMode (s : State) (m : TimeMode) (h : DescHdr) (b : DescBody) :
    claimsOf (withTimeMode s m) h b = claimsOf s h b := by
  cases b <;> rfl

theorem addressOk_withTimeMode (s : State) (m : TimeMode) (h : DescHdr) (b : DescBody) :
    addressOk (withTimeMode s m) h b = addressOk s h b := by
  cases b <;> rfl

theorem reserveOf_withTimeMode (s : State) (m : TimeMode) (h : DescHdr) (b : DescBody) (cs : List Claim) :
    reserveOf (withTimeMode s m) h b cs = reserveOf s h b cs := by
  cases b <;> rfl

theorem dramTouched_withTimeMode (s : State) (m : TimeMode) (h : DescHdr) (b : DescBody) :
    dramTouched (withTimeMode s m) h b = dramTouched s h b := by
  cases b <;> rfl

/-- A descriptor that would run with time runs where it does not need time, and is refused where it does. -/
theorem decideDesc_of_runs_with_time {m : TimeMode} {rs : List (Nat × Nat)} {chained : Bool} (hunset : s.time.mode = .unset)
    (hruns : decideDesc (withTimeMode s m) h b = .runs rs chained) :
    decideDesc s h b = if needsTime (opcodeOf b) then .refused stPolicy else .runs rs chained := by
  have hpart : part (withTimeMode s m) h.p.val = part s h.p.val := rfl
  have hmode : (withTimeMode s m).faults = s.faults := rfl
  have hchained : ∀ us, isChained (withTimeMode s m) h b us = isChained s h b us := fun _ => rfl
  have hstanding : ∀ us, standing (withTimeMode s m) h b us = standing s h b us := fun _ => rfl
  unfold decideDesc at hruns ⊢
  dsimp only at hruns ⊢
  rw [hpart, hmode, claimsOf_withTimeMode, addressOk_withTimeMode, reserveOf_withTimeMode, dramTouched_withTimeMode, hstanding, hchained] at hruns
  rw [hunset, beq_self_eq_true, Bool.true_and]
  split_ifs at hruns ⊢
  · rfl
  · exact hruns

/-- A descriptor refused for want of time ends as it enters, and nothing else happens (R225). -/
theorem refused_without_time (hordered : FlightsOrdered s) (hopen : dispatchOpen s h.p.val = true) (hheld : heldBack s h b = false)
    (hdec : decideDesc s h b = .refused stPolicy) (hforeign : ∀ o, b ≠ .rank o) :
    Ends s (dispatchDesc h b s) h b stPolicy 0 ∧ OnlyFlights s (dispatchDesc h b s) := by
  have hlog : logForeign s h b stPolicy = s := by
    cases b with
    | rank o => exact absurd rfl (hforeign o)
    | _ => rfl
  have hcount := countEvent_only s 1 (servedBy s h.p.val) 1
  have hstate : enteredRefused s h b stPolicy = enter (countEvent s 1 (servedBy s h.p.val) 1) h b [] := by rw [enteredRefused, hlog]
  have href : refusalRef s h b stPolicy = 0 := by
    rw [refusalRef, hlog, if_neg (not_not.mpr rfl)]
    rfl
  rw [dispatchDesc_refused hopen hheld hdec, hstate, href]
  generalize countEvent s 1 (servedBy s h.p.val) 1 = u at hcount
  rw [hcount]
  exact ⟨ends_finish stPolicy 0 (flight_enter (flightsOrdered_congr hordered rfl rfl) h b []) rfl rfl rfl, rfl⟩

/-- A descriptor that needs time, and would run with it, is refused without it. -/
theorem answers_refused_without_time {rs : List (Nat × Nat)} {chained : Bool} {c : Instr} (hordered : FlightsOrdered s)
    (hopen : dispatchOpen s h.p.val = true) (hheld : heldBack s h b = false) (hunset : s.time.mode = .unset)
    (hruns : decideDesc (withTimeMode s .acquiring) h b = .runs rs chained) (hneeds : needsTime (opcodeOf b) = true)
    (hc : exec c s = .next (dispatchDesc h b s)) :
    ∃ t, Answers c s t ∧ Ends s t h b stPolicy 0 ∧ OnlyFlights s t ∧ StoreKept s t := by
  have hdec := decideDesc_of_runs_with_time hunset hruns
  rw [if_pos hneeds] at hdec
  have hforeign : ∀ o, b ≠ .rank o := by
    rintro o rfl
    exact Bool.false_ne_true hneeds
  obtain ⟨hends, honly⟩ := refused_without_time hordered hopen hheld hdec hforeign
  exact ⟨_, hc, hends, honly, honly.store⟩

end Tests

/-- Settles O9: the last test of R215 refuses the three opcodes that need time (`answers_refused_without_time`) and no other
(`decideDesc_of_runs_with_time`). -/
theorem unsetTimeRefuses : Obligations.UnsetTimeRefuses := by
  intro s h b rs chained hordered hopen hheld hunset hruns
  dsimp only
  refine ⟨?_, ?_, ?_, ?_, fun hopens hwaits hreleases => ?_⟩
  case refine_5 =>
    have hneeds : needsTime (opcodeOf b) = false := by
      simp only [needsTime, Bool.or_eq_false_iff, beq_eq_false_iff_ne]
      exact ⟨⟨hwaits, hopens⟩, hreleases⟩
    have hdec := decideDesc_of_runs_with_time hunset hruns
    rwa [hneeds, if_neg Bool.false_ne_true] at hdec
  all_goals
    rintro o rfl
    exact answers_refused_without_time hordered hopen hheld hunset hruns rfl rfl

end Sys2Proof.Proofs.UnsetTime
end

section
/-! O12: WINDOW_OPEN (R37, R121, R241). What opening a window does is the same whatever descriptors are in flight, so it is described from
the state of the dispatch: the window before it gives up what it holds of the Pocket, the round begins or moves on, and a window of kind
RECOVER first displaces the other rounds in recovery (Table 4.8). -/

namespace Sys2Proof.Proofs.WindowOpening

open Sys2Proof Sys2Proof.Machine
open Sys2Proof.Proofs.Writes Sys2Proof.Proofs.Starting Sys2Proof.Proofs.SealedWindows Sys2Proof.Proofs.RecoveryRounds
open Sys2Proof.Proofs.TilePasses Sys2Proof.Proofs.ControlDescriptors

/-! The window before -/

/-- What the window of a kind still holds of the Pocket is given back (R189). -/
def released (s : State) (p : Nat) (k : WinKind) : State :=
  (((windowOf (part s p) k).map windowAreas).getD []).foldl (fun t u => freeUnits t p u.1 u.2) s

theorem onlyFreed_released (s : State) (p : Nat) (k : WinKind) : OnlyFreed s (released s p k) :=
  List.foldlRecOn (motive := OnlyFreed s) _ _ rfl (fun t ht u _ => onlyFreed_trans ht (onlyFreed_freeUnits p u.2 t u.1))

/-! Rounds -/

/-- Changing the rounds of one number, seen through any number. -/
theorem find_round_map {F : Round → Round} (hF : ∀ y, (F y).roundId = y.roundId) (rs : List Round) (round j : Nat) :
    (rs.map (fun r => if r.roundId = round then F r else r)).find? (fun r => r.roundId == j) =
      (rs.find? (fun r => r.roundId == j)).map (fun y => if j = round then F y else y) := by
  have hid : (fun r : Round => r.roundId == j) ∘ (fun r => if r.roundId = round then F r else r) = fun r => r.roundId == j := by
    funext r
    simp only [Function.comp]
    split
    · rw [hF]
    · rfl
  rw [List.find?_map, hid]
  refine Option.map_congr fun y hy => ?_
  have hj : y.roundId = j := by simpa only [beq_iff_eq] using List.find?_some hy
  rw [hj]

/-! Binding a window (Table 4.8, Table 9.4) -/

/-- A round that begins collecting. -/
def freshRound (round : Nat) : Round :=
  { roundId := round, mode := .collecting, survivors := [], graph := none, bundleOpened := false, entries := [], secrets := [],
    seeds := [], selfCount := 0, edgeCount := 0, maskNext := [] }

/-- A partition whose round begins. -/
def beginRound (round : Nat) (x : Partition) : Partition :=
  { x with rounds := x.rounds.filter (fun r => r.roundId != round) ++ [freshRound round] }

/-- A round that is recovering. -/
def recovering (r : Round) : Round := { r with mode := .recovering }

variable {s : State} {p : Nat} {w : Window}

theorem bindWindow_submit (hk : w.kind = .submit) :
    bindWindow s p w =
      if (part s p).regime = 1 then modPart (setWindow (released s p .submit) p .submit (some w)) p (beginRound w.roundId)
      else setWindow (released s p .submit) p .submit (some w) := by
  unfold bindWindow
  rw [hk]
  rfl

theorem bindWindow_recover (hk : w.kind = .recover) :
    bindWindow s p w = modRound (setWindow (released s p .recover) p .recover (some w)) p w.roundId recovering := by
  unfold bindWindow
  rw [hk]
  rfl

/-- Beside the Pocket's units given back partitions alone change. -/
theorem bindWindow_only (s : State) (p : Nat) (w : Window) :
    bindWindow s p w = { released s p w.kind with parts := (bindWindow s p w).parts } := by
  cases hk : w.kind with
  | submit =>
    rw [bindWindow_submit hk]
    split <;> rfl
  | recover =>
    rw [bindWindow_recover hk]
    rfl

theorem bindWindow_frame (s : State) (p : Nat) (w : Window) :
    (bindWindow s p w).lining = (released s p w.kind).lining ∧ (bindWindow s p w).tiles = (released s p w.kind).tiles ∧
      (bindWindow s p w).dram = s.dram ∧ (bindWindow s p w).areas = s.areas ∧ (bindWindow s p w).regs = s.regs ∧
      now (bindWindow s p w) = now s := by
  have hfreed := onlyFreed_released s p w.kind
  rw [bindWindow_only]
  refine ⟨rfl, rfl, ?_, ?_, ?_, ?_⟩ <;> rw [hfreed]
  rfl

theorem othersKept_released (s : State) (p : Nat) (k : WinKind) : OthersKept s (released s p k) p :=
  fun q _ => part_of_onlyFreed (onlyFreed_released s p k) q

theorem othersKept_bindWindow (s : State) (p : Nat) (w : Window) : OthersKept s (bindWindow s p w) p := by
  cases hk : w.kind with
  | submit =>
    have hset := othersKept_trans (othersKept_released s p .submit) (othersKept_setWindow _ p .submit (some w))
    rw [bindWindow_submit hk]
    split
    · exact othersKept_trans hset (othersKept_modPart _ p _)
    · exact hset
  | recover =>
    rw [bindWindow_recover hk]
    exact othersKept_trans (othersKept_trans (othersKept_released s p .recover) (othersKept_setWindow _ p .recover (some w)))
      (othersKept_modPart _ p _)

theorem part_bindWindow_submit (hk : w.kind = .submit) :
    part (bindWindow s p w) p =
      if (part s p).regime = 1 then beginRound w.roundId { part s p with submit := some w } else { part s p with submit := some w } := by
  have hset : part (setWindow (released s p .submit) p .submit (some w)) p = { part s p with submit := some w } := by
    rw [setWindow, part_modPart_same, part_of_onlyFreed (onlyFreed_released s p .submit)]
  rw [bindWindow_submit hk]
  split
  · rw [part_modPart_same, hset]
  · exact hset

theorem part_bindWindow_recover (hk : w.kind = .recover) :
    part (bindWindow s p w) p = { part s p with
      recover := some w, rounds := (part s p).rounds.map (fun r => if r.roundId = w.roundId then recovering r else r) } := by
  rw [bindWindow_recover hk, modRound, part_modPart_same, setWindow, part_modPart_same, part_of_onlyFreed (onlyFreed_released s p .recover)]

theorem roundOf_bindWindow_recover (hk : w.kind = .recover) (j : Nat) :
    roundOf (part (bindWindow s p w) p) j = (roundOf (part s p) j).map (fun y => if j = w.roundId then recovering y else y) := by
  rw [part_bindWindow_recover hk]
  exact find_round_map (F := recovering) (fun _ => rfl) _ w.roundId j

/-- The round that begins is the partition's under its number. -/
theorem roundOf_beginRound (round : Nat) (x : Partition) :
    ∃ r, roundOf (beginRound round x) round = some r ∧ r.mode = .collecting ∧ r.survivors = [] := by
  have hgone : (x.rounds.filter (fun r => r.roundId != round)).find? (fun r => r.roundId == round) = none := by
    rw [List.find?_eq_none]
    intro r hr
    have hne := (List.mem_filter.mp hr).2
    simpa only [bne_iff_ne, beq_iff_eq] using hne
  have hfound : roundOf (beginRound round x) round = [freshRound round].find? (fun r => r.roundId == round) := by
    rw [roundOf, beginRound, List.find?_append, hgone, Option.none_or]
  exact ⟨freshRound round, hfound.trans (List.find?_cons_of_pos (beq_self_eq_true round)), rfl, rfl⟩

/-- What binding a SUBMIT window leaves of its partition. -/
theorem bindWindow_submits (hk : w.kind = .submit) :
    (part (bindWindow s p w) p).submit = some w ∧ (part (bindWindow s p w) p).recover = (part s p).recover ∧
      ((part s p).regime = 1 →
        ∃ r, roundOf (part (bindWindow s p w) p) w.roundId = some r ∧ r.mode = .collecting ∧ r.survivors = []) ∧
      ((part s p).regime ≠ 1 → (part (bindWindow s p w) p).rounds = (part s p).rounds) := by
  rw [part_bindWindow_submit hk]
  by_cases hregime : (part s p).regime = 1
  · rw [if_pos hregime]
    exact ⟨rfl, rfl, fun _ => roundOf_beginRound w.roundId _, fun hno => absurd hregime hno⟩
  · rw [if_neg hregime]
    exact ⟨rfl, rfl, fun hyes => absurd hyes hregime, fun _ => rfl⟩

/-! Rounds that are displaced -/

theorem roundOf_modRound_any {F : Round → Round} (hF : ∀ y, (F y).roundId = y.roundId) (s : State) (p round j : Nat) :
    roundOf (part (modRound s p round F) p) j = (roundOf (part s p) j).map (fun y => if j = round then F y else y) := by
  rw [modRound, part_modPart_same]
  exact find_round_map hF _ round j

/-- A round that has become UNRECOVERABLE. -/
def abandoned (r : Round) : Round := { r with mode := .unrecoverable }

/-- One without what its recovery area held. -/
def lost (r : Round) : Round := erased (abandoned r)

/-- One round is displaced. -/
def displaceOne (p : Nat) (t : State) (r : Round) : State :=
  eraseArea (modRound t p r.roundId abandoned) p r.roundId

theorem displaceRounds_eq (s : State) (p round : Nat) :
    displaceRounds s p round = (displaced (part s p) round).foldl (displaceOne p) s := rfl

theorem roundOf_displaceOne (p : Nat) (t : State) (r : Round) (j : Nat) :
    roundOf (part (displaceOne p t r) p) j = (roundOf (part t p) j).map (fun y => if j = r.roundId then lost y else y) := by
  rw [displaceOne, part_of_onlyFreed (onlyFreed_eraseArea _ p r.roundId), roundOf_modRound_any (F := erased) (fun _ => rfl),
    roundOf_modRound_any (F := abandoned) (fun _ => rfl), Option.map_map]
  refine congrArg (fun f => Option.map f _) (funext fun y => ?_)
  simp only [Function.comp]
  split <;> rfl

theorem roundOf_displaceAll (p j : Nat) (l : List Round) : ∀ t : State,
    roundOf (part (l.foldl (displaceOne p) t) p) j =
      (roundOf (part t p) j).map (fun y => if j ∈ l.map (fun r => r.roundId) then lost y else y) := by
  induction l with
  | nil =>
    intro t
    simp only [List.foldl_nil, List.map_nil, List.not_mem_nil, if_false, Option.map_id']
  | cons r l ih =>
    intro t
    rw [List.foldl_cons, ih, roundOf_displaceOne, Option.map_map]
    refine congrArg (fun f => Option.map f _) (funext fun y => ?_)
    simp only [Function.comp, List.map_cons, List.mem_cons]
    by_cases hr : j = r.roundId
    · simp only [hr, if_true, true_or]
      split <;> rfl
    · simp only [hr, if_false, false_or]

/-- A displaced round is lost. -/
theorem roundOf_displaced {round : Nat} {r : Round} (hr : r ∈ displaced (part s p) round) :
    r.roundId ≠ round ∧ ∃ y, roundOf (part (displaceRounds s p round) p) r.roundId = some (lost y) := by
  obtain ⟨hmem, hother⟩ := List.mem_filter.mp hr
  rw [Bool.and_eq_true, bne_iff_ne] at hother
  obtain ⟨hne, -⟩ := hother
  have hsome : (roundOf (part s p) r.roundId).isSome = true := List.find?_isSome.mpr ⟨r, hmem, beq_self_eq_true _⟩
  obtain ⟨y, hy⟩ := Option.isSome_iff_exists.mp hsome
  refine ⟨hne, y, ?_⟩
  rw [displaceRounds_eq, roundOf_displaceAll, hy, Option.map_some, if_pos (List.mem_map_of_mem hr)]

theorem onlyRecovers_displaceOne (p : Nat) (t : State) (r : Round) : OnlyRecovers p t (displaceOne p t r) :=
  (onlyRecovers_modRound t p r.roundId _).trans (onlyRecovers_eraseArea _ p r.roundId)

theorem displaceRounds_recovers (s : State) (p round : Nat) :
    OnlyRecovers p s (displaceRounds s p round) ∧ (displaceRounds s p round).dram = s.dram :=
  List.foldlRecOn (motive := fun t => OnlyRecovers p s t ∧ t.dram = s.dram) _ (displaceOne p)
    ⟨⟨rfl, rfl, rfl, fun _ _ => rfl, rfl⟩, rfl⟩
    (fun t ⟨ht, hdram⟩ r _ => ⟨ht.trans (onlyRecovers_displaceOne p t r), (eraseArea_dram _ p r.roundId).trans hdram⟩)

/-! Work that does not see the descriptors in flight -/

/-- The state `u` with the descriptors in flight, the next number and the debug counters of `v`. -/
def withFlights (v u : State) : State := { u with inflight := v.inflight, nextId := v.nextId, dbg := v.dbg }

theorem takenUp_eq_withFlights (s : State) (h : DescHdr) (b : DescBody) : takenUp s h b = withFlights (takenUp s h b) s :=
  onlyFlights_takenUp s h b

theorem freeUnits_withFlights (v : State) (p n : Nat) : ∀ (s : State) (u : Nat),
    freeUnits (withFlights v s) p u n = withFlights v (freeUnits s p u n) := by
  induction n with
  | zero => exact fun _ _ => rfl
  | succ n ih =>
    intro s u
    unfold freeUnits
    exact ih { s with lining := memZero s.lining (8192 * physUnit (part s p) u) 8192, tiles := tabErase s.tiles (physUnit (part s p) u) } (u + 1)

theorem eraseArea_withFlights (v s : State) (p round : Nat) : eraseArea (withFlights v s) p round = withFlights v (eraseArea s p round) := by
  unfold eraseArea
  dsimp only
  rw [show part (withFlights v s) p = part s p from rfl]
  split
  · exact freeUnits_withFlights v p _ (modRound s p round erased) _
  · rfl

theorem displaceRounds_withFlights (v s : State) (p round : Nat) :
    displaceRounds (withFlights v s) p round = withFlights v (displaceRounds s p round) :=
  List.foldl_hom (withFlights v) (fun t r => eraseArea_withFlights v (modRound t p r.roundId _) p r.roundId)

theorem released_withFlights (v s : State) (p : Nat) (k : WinKind) : released (withFlights v s) p k = withFlights v (released s p k) :=
  List.foldl_hom (withFlights v) (fun t u => freeUnits_withFlights v p u.2 t u.1)

theorem bindWindow_withFlights (v s : State) (p : Nat) (w : Window) :
    bindWindow (withFlights v s) p w = withFlights v (bindWindow s p w) := by
  cases hk : w.kind with
  | submit =>
    rw [bindWindow_submit hk, bindWindow_submit hk, released_withFlights, apply_ite (withFlights v)]
    rfl
  | recover =>
    rw [bindWindow_recover hk, bindWindow_recover hk, released_withFlights]
    rfl

/-! WINDOW_OPEN -/

/-- The state in which a WINDOW_OPEN is decided: one of kind RECOVER has displaced the other rounds. -/
def decidedIn (s : State) (p : Nat) (o : WindowOpenOps) : State :=
  if kindOf o.kind = .recover then displaceRounds s p o.roundId else s

theorem decidedIn_withFlights (v s : State) (p : Nat) (o : WindowOpenOps) :
    decidedIn (withFlights v s) p o = withFlights v (decidedIn s p o) := by
  unfold decidedIn
  rw [displaceRounds_withFlights, apply_ite (withFlights v)]

/-- The window that an admitted WINDOW_OPEN binds at the instant `d`. -/
def openedWindow (u : State) (h : DescHdr) (o : WindowOpenOps) (d : Nat) : Window := newWindow u h o (max o.opens d) (decide (o.opens ≤ d))

theorem openedWindow_mode (u : State) (h : DescHdr) (o : WindowOpenOps) (d : Nat) :
    (openedWindow u h o d).mode = if o.opens ≤ d then .opened else .scheduled := by
  simp only [openedWindow, newWindow, decide_eq_true_eq]

theorem decideOpen_eq (s : State) (id : Nat) (h : DescHdr) (o : WindowOpenOps) :
    decideOpen s id h o =
      if openAdmitted (decidedIn s h.p.val o) h.p.val o (ceilNs (instant s)) then
        finish (bindWindow (decidedIn s h.p.val o) h.p.val (openedWindow (decidedIn s h.p.val o) h o (ceilNs (instant s)))) id stOk
          (max o.opens (ceilNs (instant s)))
      else refuse (decidedIn s h.p.val o) id stPolicy := by
  unfold decideOpen
  simp only [Bool.not_eq_true', ite_not, ← Bool.not_eq_true]
  rfl

theorem openedWindow_kind (u : State) (h : DescHdr) {o : WindowOpenOps} (d : Nat) {k : Nat} (hkind : o.kind = k) :
    (openedWindow u h o d).kind = kindOf k :=
  congrArg kindOf hkind

section Dispatched

variable {s : State} {h : DescHdr} {o : WindowOpenOps}

theorem decideOpen_refused (hno : openAdmitted (decidedIn s h.p.val o) h.p.val o (ceilNs (instant s)) = false) (id : Nat) :
    decideOpen (takenUp s h (.windowOpen o)) id h o =
      refuse (withFlights (takenUp s h (.windowOpen o)) (decidedIn s h.p.val o)) id stPolicy := by
  rw [takenUp_eq_withFlights, decideOpen_eq, decidedIn_withFlights]
  exact if_neg (by rw [Bool.not_eq_true]; exact hno)

theorem decideOpen_admitted (hyes : openAdmitted (decidedIn s h.p.val o) h.p.val o (ceilNs (instant s)) = true) (id : Nat) :
    decideOpen (takenUp s h (.windowOpen o)) id h o =
      finish (withFlights (takenUp s h (.windowOpen o))
        (bindWindow (decidedIn s h.p.val o) h.p.val (openedWindow (decidedIn s h.p.val o) h o (ceilNs (instant s))))) id stOk
        (max o.opens (ceilNs (instant s))) := by
  rw [takenUp_eq_withFlights, decideOpen_eq, decidedIn_withFlights]
  refine (if_pos hyes).trans ?_
  rw [← bindWindow_withFlights]
  rfl

/-- A descriptor whose work has left `t` ends in `t`, with the flights of its dispatch. -/
theorem ends_withFlights (hordered : FlightsOrdered s) {b : DescBody} {t : State} (hnow : now t = now s) (st : Status) (r : Nat) :
    Ends s (finish (withFlights (takenUp s h b) t) s.nextId st r) h b st r :=
  ends_finish st r ((flight_congr rfl s.nextId).trans (flight_takenUp hordered h b)) rfl rfl hnow

/-! Kind SUBMIT -/

theorem answers_submit (hd : Dispatches s h (.windowOpen o)) (hkind : o.kind = 0) :
    Answers (.windowOpen h o) s (decideOpen (takenUp s h (.windowOpen o)) s.nextId h o) ∧ decidedIn s h.p.val o = s := by
  have hk : kindOf o.kind = .submit := by rw [hkind]; rfl
  have hans : Answers (.windowOpen h o) s (startWindowOpen (takenUp s h (.windowOpen o)) s.nextId h o) := answers_runBody rfl hd (fun _ => rfl)
  refine ⟨hans.trans (congrArg Host.Outcome.next (if_pos hk)), if_neg ?_⟩
  rw [hk]
  decide

theorem submit_refused (hordered : FlightsOrdered s) (hd : Dispatches s h (.windowOpen o)) (hkind : o.kind = 0)
    (hno : openAdmitted s h.p.val o (ceilNs (instant s)) = false) :
    ∃ t, Answers (.windowOpen h o) s t ∧ Ends s t h (.windowOpen o) stPolicy 0 ∧ OnlyFlights s t := by
  obtain ⟨hans, hin⟩ := answers_submit hd hkind
  rw [decideOpen_refused (by rw [hin]; exact hno), hin] at hans
  exact ⟨_, hans, ends_withFlights hordered rfl stPolicy 0, rfl⟩

theorem submit_opens (hordered : FlightsOrdered s) (hd : Dispatches s h (.windowOpen o)) (hkind : o.kind = 0)
    (hyes : openAdmitted s h.p.val o (ceilNs (instant s)) = true) :
    ∃ t w, Answers (.windowOpen h o) s t ∧ Ends s t h (.windowOpen o) stOk (max o.opens (ceilNs (instant s))) ∧
      (part t h.p.val).submit = some w ∧ w.roundId = o.roundId ∧ w.opens = max o.opens (ceilNs (instant s)) ∧ w.closes = o.closes ∧
      w.mode = (if o.opens ≤ ceilNs (instant s) then .opened else .scheduled) ∧ w.subs = [] ∧ w.assigned = 0 ∧
      w.landingAddr = o.landingAddr ∧ w.slotCount = o.slotCount ∧ (part t h.p.val).recover = (part s h.p.val).recover ∧
      ((part s h.p.val).regime = 1 → ∃ r, roundOf (part t h.p.val) o.roundId = some r ∧ r.mode = .collecting ∧ r.survivors = []) ∧
      ((part s h.p.val).regime ≠ 1 → (part t h.p.val).rounds = (part s h.p.val).rounds) ∧
      t.lining = (released s h.p.val .submit).lining ∧ t.tiles = (released s h.p.val .submit).tiles ∧
      t.dram = s.dram ∧ t.areas = s.areas ∧ OthersKept s t h.p.val ∧ t.regs = s.regs := by
  obtain ⟨hans, hin⟩ := answers_submit hd hkind
  rw [decideOpen_admitted (by rw [hin]; exact hyes), hin] at hans
  have hk := openedWindow_kind s h (ceilNs (instant s)) hkind
  have hmode := openedWindow_mode s h o (ceilNs (instant s))
  obtain ⟨hsubmit, hrecover, hbegins, hrounds⟩ := bindWindow_submits (s := s) (p := h.p.val) hk
  have hothers := othersKept_bindWindow s h.p.val (openedWindow s h o (ceilNs (instant s)))
  obtain ⟨hlining, htiles, hdram, hareas, hregs, hnow⟩ := bindWindow_frame s h.p.val (openedWindow s h o (ceilNs (instant s)))
  rw [hk] at hlining htiles
  exact ⟨_, openedWindow s h o (ceilNs (instant s)), hans, ends_withFlights hordered hnow _ _, hsubmit, rfl, rfl, rfl, hmode, rfl, rfl, rfl,
    rfl, hrecover, hbegins, hrounds, hlining, htiles, hdram, hareas, hothers, hregs⟩

/-! Kind RECOVER -/

/-- Rounds displaced in a WINDOW_OPEN's state are gone from it. -/
def Gone (x : Partition) (rs : List Round) : Prop :=
  ∀ r ∈ rs, ∃ y, roundOf x r.roundId = some y ∧ y.mode = .unrecoverable ∧ y.graph = none ∧ y.entries = [] ∧ y.secrets = [] ∧ y.seeds = []

theorem gone_displaceRounds (s : State) (p round : Nat) : Gone (part (displaceRounds s p round) p) (displaced (part s p) round) := by
  intro r hr
  obtain ⟨-, y, hy⟩ := roundOf_displaced hr
  exact ⟨_, hy, rfl, rfl, rfl, rfl, rfl⟩

/-- What a WINDOW_OPEN of kind RECOVER waits for: its round's SUBMIT window and the work of the rounds it displaces. -/
def waitsToRecover (s : State) (p round : Nat) : Bool :=
  recoverWaits (part s p) round || (displaced (part s p) round).any (fun r => recoveryInFlight s p r.roundId)

/-- A WINDOW_OPEN is no recovery work. -/
theorem recoveryInFlight_takenUp (s : State) (h : DescHdr) (o : WindowOpenOps) (round : Nat) :
    recoveryInFlight (takenUp s h (.windowOpen o)) h.p.val round = recoveryInFlight s h.p.val round := by
  rw [recoveryInFlight, flying_takenUp, List.any_append]
  exact Bool.or_false _

theorem waitsToRecover_takenUp (s : State) (h : DescHdr) (o : WindowOpenOps) :
    waitsToRecover (takenUp s h (.windowOpen o)) h.p.val o.roundId = waitsToRecover s h.p.val o.roundId := by
  simp only [waitsToRecover, recoveryInFlight_takenUp, takenUp_part]

theorem answers_recover (hd : Dispatches s h (.windowOpen o)) (hkind : o.kind = 1) :
    Answers (.windowOpen h o) s
        (if waitsToRecover s h.p.val o.roundId then waitIn (takenUp s h (.windowOpen o)) s.nextId .recoverWait
         else decideOpen (takenUp s h (.windowOpen o)) s.nextId h o) ∧
      decidedIn s h.p.val o = displaceRounds s h.p.val o.roundId := by
  have hk : kindOf o.kind = .recover := by rw [hkind]; rfl
  have hans : Answers (.windowOpen h o) s (startWindowOpen (takenUp s h (.windowOpen o)) s.nextId h o) := answers_runBody rfl hd (fun _ => rfl)
  refine ⟨?_, if_pos hk⟩
  rw [← waitsToRecover_takenUp]
  refine hans.trans (congrArg Host.Outcome.next (if_neg ?_))
  rw [hk]
  decide

theorem recover_waits (hordered : FlightsOrdered s) (hd : Dispatches s h (.windowOpen o)) (hkind : o.kind = 1)
    (hwaits : waitsToRecover s h.p.val o.roundId = true) :
    ∃ t, Answers (.windowOpen h o) s t ∧ Flies s t h (.windowOpen o) .recoverWait [] ∧ OnlyFlights s t := by
  obtain ⟨hans, -⟩ := answers_recover hd hkind
  rw [if_pos hwaits] at hans
  obtain ⟨hflies, honly⟩ := waitIn_takenUp hordered h (.windowOpen o) .recoverWait
  exact ⟨_, hans, hflies, honly⟩

theorem recover_refused (hordered : FlightsOrdered s) (hd : Dispatches s h (.windowOpen o)) (hkind : o.kind = 1)
    (hwaits : waitsToRecover s h.p.val o.roundId = false)
    (hno : openAdmitted (displaceRounds s h.p.val o.roundId) h.p.val o (ceilNs (instant s)) = false) :
    ∃ t, Answers (.windowOpen h o) s t ∧ Ends s t h (.windowOpen o) stPolicy 0 ∧
      Gone (part t h.p.val) (displaced (part s h.p.val) o.roundId) ∧ (part t h.p.val).submit = (part s h.p.val).submit ∧
      (part t h.p.val).recover = (part s h.p.val).recover ∧ t.lining = (displaceRounds s h.p.val o.roundId).lining ∧
      t.dram = s.dram ∧ OthersKept s t h.p.val ∧ t.regs = s.regs := by
  obtain ⟨hans, hin⟩ := answers_recover hd hkind
  obtain ⟨hrecovers, hdram⟩ := displaceRounds_recovers s h.p.val o.roundId
  have hgone := gone_displaceRounds s h.p.val o.roundId
  rw [hwaits, if_neg Bool.false_ne_true, decideOpen_refused (by rw [hin]; exact hno), hin] at hans
  generalize displaceRounds s h.p.val o.roundId = u at hans hrecovers hdram hgone
  have hnow : now u = now s := congrArg (fun c : FedTime => c.ns) hrecovers.time
  have hsubmit : (part u h.p.val).submit = (part s h.p.val).submit := by rw [hrecovers.own]
  have hrecover : (part u h.p.val).recover = (part s h.p.val).recover := by rw [hrecovers.own]
  exact ⟨_, hans, ends_withFlights hordered hnow stPolicy 0, hgone, hsubmit, hrecover, rfl, hdram, hrecovers.others, hrecovers.regs⟩

/-- An admitted WINDOW_OPEN of kind RECOVER has a round. -/
theorem round_of_openAdmitted {u : State} {p d : Nat} (hkind : o.kind = 1) (hyes : openAdmitted u p o d = true) :
    ∃ r, roundOf (part u p) o.roundId = some r := by
  cases hr : roundOf (part u p) o.roundId with
  | some r => exact ⟨r, rfl⟩
  | none =>
    have hno : openAdmitted u p o d = false := by
      simp only [openAdmitted, hr, hkind]
      simp [kindOf]
    rw [hno] at hyes
    exact absurd hyes Bool.false_ne_true

theorem recover_opens (hordered : FlightsOrdered s) (hd : Dispatches s h (.windowOpen o)) (hkind : o.kind = 1)
    (hwaits : waitsToRecover s h.p.val o.roundId = false)
    (hyes : openAdmitted (displaceRounds s h.p.val o.roundId) h.p.val o (ceilNs (instant s)) = true) :
    ∃ t w r, Answers (.windowOpen h o) s t ∧ Ends s t h (.windowOpen o) stOk (max o.opens (ceilNs (instant s))) ∧
      Gone (part t h.p.val) (displaced (part s h.p.val) o.roundId) ∧ (part t h.p.val).recover = some w ∧ w.roundId = o.roundId ∧
      w.opens = max o.opens (ceilNs (instant s)) ∧ w.closes = o.closes ∧ roundOf (part t h.p.val) o.roundId = some r ∧
      r.mode = .recovering ∧ (part t h.p.val).submit = (part s h.p.val).submit ∧ t.dram = s.dram ∧ OthersKept s t h.p.val ∧
      t.regs = s.regs := by
  obtain ⟨hans, hin⟩ := answers_recover hd hkind
  obtain ⟨hrecovers, hdram⟩ := displaceRounds_recovers s h.p.val o.roundId
  have hgone := gone_displaceRounds s h.p.val o.roundId
  obtain ⟨r, hr⟩ := round_of_openAdmitted hkind hyes
  rw [hwaits, if_neg Bool.false_ne_true, decideOpen_admitted (by rw [hin]; exact hyes), hin] at hans
  generalize displaceRounds s h.p.val o.roundId = u at hans hrecovers hdram hgone hr
  have hk := openedWindow_kind u h (ceilNs (instant s)) hkind
  have hrounds := roundOf_bindWindow_recover (s := u) (p := h.p.val) hk
  have hpart := part_bindWindow_recover (s := u) (p := h.p.val) hk
  have hothers := othersKept_bindWindow u h.p.val (openedWindow u h o (ceilNs (instant s)))
  obtain ⟨-, -, hdram', -, hregs, hnow⟩ := bindWindow_frame u h.p.val (openedWindow u h o (ceilNs (instant s)))
  have hround : (openedWindow u h o (ceilNs (instant s))).roundId = o.roundId := rfl
  rw [hround] at hrounds
  have hnow' : now u = now s := congrArg (fun c : FedTime => c.ns) hrecovers.time
  refine ⟨_, openedWindow u h o (ceilNs (instant s)), recovering r, hans, ends_withFlights hordered (hnow.trans hnow') _ _, ?_, ?_,
    rfl, rfl, rfl, ?_, rfl, ?_, hdram'.trans hdram, othersKept_trans hrecovers.others hothers, hregs.trans hrecovers.regs⟩
  · intro j hj
    obtain ⟨hne, -⟩ := roundOf_displaced hj
    obtain ⟨y, hy, hgoneY⟩ := hgone j hj
    refine ⟨y, (hrounds j.roundId).trans ?_, hgoneY⟩
    rw [hy, Option.map_some, if_neg hne]
  · exact congrArg Partition.recover hpart
  · refine (hrounds o.roundId).trans ?_
    rw [hr, Option.map_some, if_pos rfl]
  · have hsubmit : (part u h.p.val).submit = (part s h.p.val).submit := by rw [hrecovers.own]
    exact (congrArg Partition.submit hpart).trans hsubmit

end Dispatched

/-- Settles O12: kind SUBMIT is refused or opens its window (`submit_refused`, `submit_opens`), kind RECOVER waits, is refused or opens its
window (`recover_waits`, `recover_refused`, `recover_opens`). -/
theorem windowsOpenForTheirRounds : Obligations.WindowsOpenForTheirRounds :=
  ⟨fun _ _ _ hordered hd hkind => ⟨submit_refused hordered hd hkind, submit_opens hordered hd hkind⟩,
    fun _ _ _ hordered hd hkind => ⟨recover_waits hordered hd hkind, recover_opens hordered hd hkind, recover_refused hordered hd hkind⟩⟩

end Sys2Proof.Proofs.WindowOpening
end

section
/-! O48: federation time and its references (R229 to R236). An estimate of the counter's error steps or slews it and moves the state of time
on (Table 9.2); an FT_PPS edge and a TIME message bring their estimates, and a silence of either source moves to another or holds over. -/

namespace Sys2Proof.Proofs.TimeReferences

open Sys2Proof Sys2Proof.Machine
open Sys2Proof.Proofs.Writes Sys2Proof.Proofs.Reports Sys2Proof.Proofs.SetUp Sys2Proof.Proofs.Clock Sys2Proof.Proofs.TimedEvents

/-! States of time -/

/-- The operator interrupt changes its register and what leaves the module. -/
theorem raiseIrq_only (s : State) (bits : Nat) :
    raiseIrq s bits = { s with out := (raiseIrq s bits).out, regs := (raiseIrq s bits).regs } := by
  unfold raiseIrq
  dsimp only
  split
  · rfl
  · split <;> rfl

theorem setTimeMode_only (s : State) (m : TimeMode) :
    setTimeMode s m =
      { s with out := (setTimeMode s m).out, regs := (setTimeMode s m).regs, time := { s.time with mode := m } } := by
  unfold setTimeMode
  split
  · next h =>
    subst h
    rfl
  · rw [raiseIrq_only]

theorem setTimeMode_same {s : State} {m : TimeMode} (h : s.time.mode = m) : setTimeMode s m = s := if_pos h

/-- A change of time, with what leaves the module, registers and free values beside it. -/
theorem storeKept_of_only {s t : State} (h : t = { s with out := t.out, freeCtr := t.freeCtr, regs := t.regs, time := t.time }) :
    StoreKept s t := by
  rw [h]
  exact ⟨fun _ => ⟨rfl, rfl⟩, rfl, rfl⟩

/-- Losing the source changes time alone, beside the operator interrupt. -/
theorem loseSource_only (s : State) (m : TimeMode) :
    loseSource s m = { s with
      out := (loseSource s m).out, regs := (loseSource s m).regs,
      time := { s.time with mode := m, hops := 31, source := 3, port := 7, goodRun := 0, slew := 0, slewDebt := 0 } } := by
  unfold loseSource
  dsimp only
  rw [setTimeMode_only]

/-! Estimates (R235, Table 9.2) -/

/-- The estimate lies within 4 ns. -/
def near (err : Int) : Bool := decide (err.natAbs ≤ 4 * 256)

/-- The estimates in a row within 4 ns that ACQUIRING has seen after this one. -/
def goodRunAfter (s : State) (err : Int) : Nat := if s.time.mode = .acquiring ∧ near err then s.time.goodRun + 1 else 0

/-- The state of time that an estimate leads to (Table 9.2). -/
def nextMode (m : TimeMode) (run : Nat) : TimeMode :=
  match m with
  | .acquiring => if 16 ≤ run then .locked else .acquiring
  | .locked => .locked
  | _ => .acquiring

def modeAfter (s : State) (err : Int) : TimeMode := nextMode s.time.mode (goodRunAfter s err)

/-- The counter with its correction begun: stepped out of UNSET, slewed otherwise. -/
def corrected (s : State) (err : Int) : State := if s.time.mode = .unset then stepCounter s (-err) else slewBy s (-err)

/-- The state with the counter's correction begun and the estimate's source kept. -/
def followed (s : State) (source port : Nat) (err : Int) : State :=
  { corrected s err with time := { (corrected s err).time with
      source := source, port := port, lastUsable := now (corrected s err), goodRun := goodRunAfter s err } }

/-- The hops that a LOCKED module announces: one more than its source (R233). -/
def withHops (u : State) (source hops : Nat) : State :=
  { u with time := { u.time with hops := if u.time.mode = .locked then (if source = 0 then 0 else hops + 1) else 31 } }

/-- Federation time after an estimate. -/
def timeAfter (s : State) (source port hops : Nat) (err : Int) : FedTime :=
  { (followed s source port err).time with
    mode := modeAfter s err, hops := if modeAfter s err = .locked then (if source = 0 then 0 else hops + 1) else 31 }

variable {s : State} {source port hops : Nat} {err : Int}

theorem followed_mode (s : State) (source port : Nat) (err : Int) : (followed s source port err).time.mode = s.time.mode := by
  unfold followed corrected
  split <;> rfl

/-- The state of time moves on from `m`, which it shows. -/
def moveOn (u : State) (m : TimeMode) (run : Nat) : State :=
  match m with
  | .acquiring => if 16 ≤ run then setTimeMode u .locked else u
  | .locked => u
  | _ => setTimeMode u .acquiring

theorem moveOn_eq {u : State} {m : TimeMode} (hu : u.time.mode = m) (run : Nat) : moveOn u m run = setTimeMode u (nextMode m run) := by
  cases m with
  | acquiring =>
    change (if 16 ≤ run then setTimeMode u .locked else u) = setTimeMode u (if 16 ≤ run then .locked else .acquiring)
    split
    · rfl
    · exact (setTimeMode_same hu).symm
  | locked => exact (setTimeMode_same hu).symm
  | unset | holdover | freerun => rfl

/-- An estimate is used by correcting the counter and then moving the state of time on. -/
theorem useEstimate_eq (s : State) (source port hops : Nat) (err : Int) :
    useEstimate s source port hops err = withHops (setTimeMode (followed s source port err) (modeAfter s err)) source hops := by
  have hmoves : useEstimate s source port hops err =
      withHops (moveOn (followed s source port err) s.time.mode (goodRunAfter s err)) source hops := rfl
  rw [hmoves, moveOn_eq (followed_mode s source port err), modeAfter]

theorem useEstimate_only (s : State) (source port hops : Nat) (err : Int) :
    useEstimate s source port hops err = { corrected s err with
      out := (useEstimate s source port hops err).out, regs := (useEstimate s source port hops err).regs,
      time := timeAfter s source port hops err } := by
  rw [useEstimate_eq, setTimeMode_only]
  rfl

/-- Where the state of time stays, no interrupt is raised. -/
theorem useEstimate_stays (h : modeAfter s err = s.time.mode) :
    useEstimate s source port hops err = { corrected s err with time := timeAfter s source port hops err } := by
  have hframe : (useEstimate s source port hops err).out = (corrected s err).out ∧
      (useEstimate s source port hops err).regs = (corrected s err).regs := by
    rw [useEstimate_eq, setTimeMode_same ((followed_mode s source port err).trans h.symm)]
    exact ⟨rfl, rfl⟩
  obtain ⟨hout, hregs⟩ := hframe
  rw [useEstimate_only, hout, hregs]

theorem useEstimate_time (s : State) (source port hops : Nat) (err : Int) :
    (useEstimate s source port hops err).time = timeAfter s source port hops err := by
  rw [useEstimate_only]

theorem corrected_of_unset (h : s.time.mode = .unset) : corrected s err = stepCounter s (-err) := if_pos h

theorem corrected_of_set (h : s.time.mode ≠ .unset) : corrected s err = slewBy s (-err) := if_neg h

theorem storeKept_useEstimate (s : State) (source port hops : Nat) (err : Int) : StoreKept s (useEstimate s source port hops err) := by
  have hstore : StoreKept s (corrected s err) := by
    unfold corrected
    split <;> exact ⟨fun _ => ⟨rfl, rfl⟩, rfl, rfl⟩
  rw [useEstimate_only]
  exact storeKept_trans hstore ⟨fun _ => ⟨rfl, rfl⟩, rfl, rfl⟩

/-- An estimate that does not find the counter UNSET slews it. -/
theorem useEstimate_slews (h : s.time.mode ≠ .unset) :
    (useEstimate s source port hops err).time.slew = -err ∧ (useEstimate s source port hops err).time.ns = s.time.ns ∧
      (useEstimate s source port hops err).time.frac = s.time.frac ∧ (useEstimate s source port hops err).parts = s.parts := by
  rw [useEstimate_only, timeAfter, followed, corrected_of_set h]
  exact ⟨rfl, rfl, rfl, rfl⟩

theorem total256_stepCounter (s : State) (d : Int) : total256 (stepCounter s d) = (((total256 s : Nat) : Int) + d).toNat % 2 ^ 72 :=
  Nat.div_add_mod _ 256

/-- One that finds it UNSET steps it. -/
theorem useEstimate_steps (h : s.time.mode = .unset) :
    total256 (useEstimate s source port hops err) = (((total256 s : Nat) : Int) - err).toNat % 2 ^ 72 := by
  have htime : total256 (useEstimate s source port hops err) = total256 (stepCounter s (-err)) := by
    rw [useEstimate_only, timeAfter, followed, corrected_of_unset h]
    rfl
  rw [htime, total256_stepCounter, sub_eq_add_neg]

/-- The timers move with a counter that is stepped (R246). -/
theorem useEstimate_shifts (h : s.time.mode = .unset) :
    (useEstimate s source port hops err).parts = s.parts.map (fun e => (e.1, shiftPart (-err) e.2)) ∧
      (useEstimate s source port hops err).inflight = s.inflight.map (shiftFlight (-err)) := by
  rw [useEstimate_only, corrected_of_unset h]
  exact ⟨rfl, rfl⟩

/-! The state of time that an estimate leads to -/

theorem near_iff {err : Int} : near err = true ↔ err.natAbs ≤ 1024 := decide_eq_true_iff

theorem modeAfter_locked (h : s.time.mode = .locked) : modeAfter s err = .locked := by
  rw [modeAfter, h]
  rfl

theorem modeAfter_unfollowed (h : s.time.mode = .unset ∨ s.time.mode = .holdover ∨ s.time.mode = .freerun) :
    modeAfter s err = .acquiring ∧ goodRunAfter s err = 0 := by
  have hrun : goodRunAfter s err = 0 := if_neg fun ⟨hm, _⟩ => by rcases h with h | h | h <;> rw [h] at hm <;> exact TimeMode.noConfusion hm
  refine ⟨?_, hrun⟩
  rcases h with h | h | h <;> rw [modeAfter, h] <;> rfl

/-- The sixteenth estimate in a row within 4 ns locks. -/
theorem modeAfter_locks (h : s.time.mode = .acquiring) (hnear : err.natAbs ≤ 1024) (hrun : 15 ≤ s.time.goodRun) :
    modeAfter s err = .locked := by
  have hgood : goodRunAfter s err = s.time.goodRun + 1 := if_pos ⟨h, near_iff.mpr hnear⟩
  rw [modeAfter, h, hgood]
  exact if_pos (by omega)

theorem goodRunAfter_acquiring (h : s.time.mode = .acquiring) :
    goodRunAfter s err = if err.natAbs ≤ 1024 then s.time.goodRun + 1 else 0 := by
  simp only [goodRunAfter, h, true_and, near_iff]

theorem modeAfter_acquires (h : s.time.mode = .acquiring) (hno : 1024 < err.natAbs ∨ s.time.goodRun < 15) :
    modeAfter s err = .acquiring := by
  have hgood := goodRunAfter_acquiring (err := err) h
  rw [modeAfter, h, hgood]
  refine if_neg ?_
  split <;> omega

theorem timeAfter_locked (h : modeAfter s err = .locked) :
    (timeAfter s source port hops err).mode = .locked ∧ (timeAfter s source port hops err).hops = if source = 0 then 0 else hops + 1 :=
  ⟨h, if_pos h⟩

theorem timeAfter_acquiring (h : modeAfter s err = .acquiring) :
    (timeAfter s source port hops err).mode = .acquiring ∧ (timeAfter s source port hops err).hops = 31 :=
  ⟨h, if_neg (by rw [h]; decide)⟩

/-! The end of a source (R236) -/

/-- The counter comes to the instant of a loss and no longer follows its source. -/
theorem loseSource_reach (s : State) (d : Nat) (m : TimeMode) :
    let t := loseSource (reach s d) m
    t.time.mode = m ∧ t.time.hops = 31 ∧ t.time.source = 3 ∧ t.time.slew = 0 ∧ Reached s t d ∧ StoreKept s t ∧ t.parts = s.parts := by
  have hlost := loseSource_only (reach s d) m
  have hreach := reach_only s d
  have hnow : now (loseSource (reach s d) m) = now (reach s d) := by
    rw [hlost]
    rfl
  refine ⟨?_, ?_, ?_, ?_, reached_of_now (reached_reach s d) hnow, ?_, ?_⟩
  case refine_5 => exact storeKept_trans (storeKept_reach s d) (storeKept_of_only (by rw [hlost]))
  case refine_6 =>
    rw [hlost, hreach]
  all_goals rw [hlost]

/-! FT_PPS (R230, R231) -/

/-- An edge that comes when the loss timer has expired comes after the expiry (R244). -/
def beforeEdge (s : State) : State :=
  if needsPps s && decide (s.time.lastUsable + ppsLossNs ≤ now s) then ppsLost s else s

/-- The state that an edge finds: after the loss where its timer has expired. -/
theorem beforeEdge_eq {s u : State}
    (h : ((needsPps s = true ∧ s.time.lastUsable + 1500000000 ≤ now s) ∧ Answers .ppsLossTimeout s u) ∨
      (¬ (needsPps s = true ∧ s.time.lastUsable + 1500000000 ≤ now s) ∧ u = s)) : beforeEdge s = u := by
  have hiff : (needsPps s && decide (s.time.lastUsable + ppsLossNs ≤ now s)) = true ↔
      needsPps s = true ∧ s.time.lastUsable + 1500000000 ≤ now s := by
    rw [Bool.and_eq_true, decide_eq_true_iff, ppsLossNs]
  unfold beforeEdge
  rcases h with ⟨hlost, hans⟩ | ⟨hkept, rfl⟩
  · rw [if_pos (hiff.mpr hlost)]
    exact Host.Outcome.next.inj hans
  · exact if_neg (mt hiff.mp hkept)

/-- The counter's error that an edge of a time of day shows. -/
def edgeError (s : State) (tod : Nat) : Int := ((total256 s : Nat) : Int) - ((256 * tod : Nat) : Int)

/-- A used edge is the preceding one of the next, and nothing is bound. -/
def edgeUsed (u : State) : State := { u with time := { u.time with bound := none, lastEdge := some (total256 u) } }

section Edges

variable {u : State} {dt frac tod : Nat} (hu : beforeEdge (elapseTo s dt frac) = u)
include hu

theorem ppsEdge_masked (hsource : timeSource u = 1) : ppsEdge s dt frac = u := by
  rw [← hu] at hsource ⊢
  exact if_pos hsource

theorem ppsEdge_unbound (hsource : timeSource u ≠ 1) (hbound : u.time.bound = none) : ppsEdge s dt frac = rejectEdge u := by
  unfold beforeEdge at hu
  unfold ppsEdge
  dsimp only
  rw [hu, if_neg hsource, hbound]

theorem ppsEdge_far (hsource : timeSource u ≠ 1) (hbound : u.time.bound = some tod) (hmode : u.time.mode = .locked ∨ u.time.mode = .holdover)
    (hfar : 25600000 < (edgeError u tod).natAbs) : ppsEdge s dt frac = rejectEdge u := by
  unfold beforeEdge at hu
  unfold ppsEdge
  dsimp only
  rw [hu, if_neg hsource, hbound]
  exact if_pos ⟨hmode, decide_eq_true hfar⟩

theorem ppsEdge_used (hsource : timeSource u ≠ 1) (hbound : u.time.bound = some tod)
    (hnear : (u.time.mode = .locked ∨ u.time.mode = .holdover) → (edgeError u tod).natAbs ≤ 25600000) :
    ppsEdge s dt frac = edgeUsed (useEstimate u 0 7 0 (edgeError u tod)) := by
  unfold beforeEdge at hu
  unfold ppsEdge
  dsimp only
  rw [hu, if_neg hsource, hbound]
  refine if_neg fun ⟨hmode, hfar⟩ => ?_
  exact absurd (of_decide_eq_true hfar) (Nat.not_lt.mpr (hnear hmode))

end Edges

/-! The cases of a used edge -/

section Used

variable {u : State} {tod : Nat}

theorem edge_steps (hmode : u.time.mode = .unset) :
    let t := edgeUsed (useEstimate u 0 7 0 (edgeError u tod))
    t.time.ns = tod % 2 ^ 64 ∧ t.time.frac = 0 ∧ t.time.mode = .acquiring ∧ t.time.bound = none ∧
      t.time.lastEdge = some (256 * (tod % 2 ^ 64)) ∧ t.time.source = 0 ∧ t.time.hops = 31 ∧ StoreKept u t ∧
      t.parts = u.parts.map (fun e => (e.1, shiftPart (-(edgeError u tod)) e.2)) ∧
      t.inflight = u.inflight.map (shiftFlight (-(edgeError u tod))) := by
  have htotal : total256 (useEstimate u 0 7 0 (edgeError u tod)) = 256 * (tod % 2 ^ 64) := by
    rw [useEstimate_steps hmode, edgeError]
    omega
  have hfrac : (useEstimate u 0 7 0 (edgeError u tod)).time.frac < 256 := by
    rw [useEstimate_time, timeAfter, followed, corrected_of_unset hmode]
    exact Nat.mod_lt _ (by decide)
  have htimers := useEstimate_shifts (source := 0) (port := 7) (hops := 0) (err := edgeError u tod) hmode
  have hstore := storeKept_useEstimate u 0 7 0 (edgeError u tod)
  have htime := useEstimate_time u 0 7 0 (edgeError u tod)
  obtain ⟨hacquiring, -⟩ := modeAfter_unfollowed (err := edgeError u tod) (.inl hmode)
  have hafter := timeAfter_acquiring (source := 0) (port := 7) (hops := 0) hacquiring
  have hsource : (timeAfter u 0 7 0 (edgeError u tod)).source = 0 := rfl
  rw [← htime] at hafter hsource
  generalize useEstimate u 0 7 0 (edgeError u tod) = w at htotal hfrac htimers hstore hafter hsource
  obtain ⟨hafter, hhops⟩ := hafter
  obtain ⟨hparts, hinflight⟩ := htimers
  have hns : w.time.ns = tod % 2 ^ 64 ∧ w.time.frac = 0 := by
    unfold total256 at htotal
    omega
  obtain ⟨hns, hzero⟩ := hns
  exact ⟨hns, hzero, hafter, rfl, congrArg some htotal, hsource, hhops, hstore, hparts, hinflight⟩

theorem edge_slews (hmode : u.time.mode = .locked) :
    let t := edgeUsed (useEstimate u 0 7 0 (edgeError u tod))
    t.time.ns = u.time.ns ∧ t.time.frac = u.time.frac ∧ t.time.slew = -(edgeError u tod) ∧ t.time.mode = .locked ∧ t.time.hops = 0 ∧
      t.time.source = 0 ∧ t.time.lastUsable = now u ∧ t.time.bound = none ∧ t = { u with time := t.time, freeCtr := t.freeCtr } := by
  have hlocked := modeAfter_locked (err := edgeError u tod) hmode
  have hset : u.time.mode ≠ .unset := by rw [hmode]; decide
  obtain ⟨hafter, hhops⟩ := timeAfter_locked (source := 0) (port := 7) (hops := 0) hlocked
  rw [useEstimate_stays (hlocked.trans hmode.symm), corrected_of_set hset]
  refine ⟨?_, ?_, ?_, hafter, hhops, rfl, ?_, rfl, rfl⟩ <;>
    simp only [edgeUsed, timeAfter, followed, corrected_of_set hset] <;> rfl

theorem edge_locks (hmode : u.time.mode = .acquiring) (hnear : (edgeError u tod).natAbs ≤ 1024) (hrun : 15 ≤ u.time.goodRun) :
    let t := edgeUsed (useEstimate u 0 7 0 (edgeError u tod))
    t.time.mode = .locked ∧ t.time.hops = 0 ∧ t.time.slew = -(edgeError u tod) ∧ t.time.ns = u.time.ns ∧ StoreKept u t ∧
      t.parts = u.parts := by
  obtain ⟨hslew, hns, -, hparts⟩ := useEstimate_slews (source := 0) (port := 7) (hops := 0) (err := edgeError u tod)
    (s := u) (by rw [hmode]; decide)
  have hstore := storeKept_useEstimate u 0 7 0 (edgeError u tod)
  obtain ⟨hafter, hhops⟩ := timeAfter_locked (source := 0) (port := 7) (hops := 0) (modeAfter_locks hmode hnear hrun)
  rw [← useEstimate_time] at hafter hhops
  exact ⟨hafter, hhops, hslew, hns, hstore, hparts⟩

theorem edge_acquires (hmode : u.time.mode = .acquiring) (hno : 1024 < (edgeError u tod).natAbs ∨ u.time.goodRun < 15) :
    let t := edgeUsed (useEstimate u 0 7 0 (edgeError u tod))
    t.time.mode = .acquiring ∧ t.time.goodRun = (if (edgeError u tod).natAbs ≤ 1024 then u.time.goodRun + 1 else 0) ∧
      t.time.hops = 31 ∧ t.time.slew = -(edgeError u tod) ∧ t = { u with time := t.time, freeCtr := t.freeCtr } := by
  have hacquiring := modeAfter_acquires (err := edgeError u tod) hmode hno
  have hset : u.time.mode ≠ .unset := by rw [hmode]; decide
  obtain ⟨hafter, hhops⟩ := timeAfter_acquiring (source := 0) (port := 7) (hops := 0) hacquiring
  rw [useEstimate_stays (hacquiring.trans hmode.symm), corrected_of_set hset]
  refine ⟨hafter, goodRunAfter_acquiring hmode, hhops, ?_, rfl⟩
  simp only [edgeUsed, timeAfter, followed, corrected_of_set hset]
  rfl

theorem edge_reacquires (hmode : u.time.mode = .holdover ∨ u.time.mode = .freerun) :
    let t := edgeUsed (useEstimate u 0 7 0 (edgeError u tod))
    t.time.mode = .acquiring ∧ t.time.goodRun = 0 ∧ t.time.hops = 31 ∧ t.time.slew = -(edgeError u tod) ∧ t.time.ns = u.time.ns ∧
      StoreKept u t ∧ t.parts = u.parts := by
  obtain ⟨hslew, hns, -, hparts⟩ := useEstimate_slews (source := 0) (port := 7) (hops := 0) (err := edgeError u tod)
    (s := u) (by rcases hmode with h | h <;> rw [h] <;> decide)
  have hstore := storeKept_useEstimate u 0 7 0 (edgeError u tod)
  obtain ⟨hacquiring, hrun⟩ := modeAfter_unfollowed (err := edgeError u tod) (.inr hmode)
  obtain ⟨hafter, hhops⟩ := timeAfter_acquiring (source := 0) (port := 7) (hops := 0) hacquiring
  have hgood : (timeAfter u 0 7 0 (edgeError u tod)).goodRun = 0 := hrun
  rw [← useEstimate_time] at hafter hhops hgood
  exact ⟨hafter, hgood, hhops, hslew, hns, hstore, hparts⟩

end Used

/-! Registers (R231, R413) -/

theorem writeTod_binds (s : State) (v : Nat) :
    (s.time.lastEdge = none → (writeTod s v).time.bound = some v) ∧
      (∀ e, s.time.lastEdge = some e → (writeTod s v).time.bound =
        if e + 25600000000 ≤ total256 s ∧ total256 s ≤ e + 230400000000 then some v else none) ∧
      writeTod s v = { s with regs := (setReg s .ftTodNext v).regs, time := { s.time with bound := (writeTod s v).time.bound } } := by
  refine ⟨fun hedge => ?_, fun e hedge => ?_, rfl⟩
  · simp only [writeTod, hedge, if_true]
  · simp only [writeTod, hedge, Bool.and_eq_true, decide_eq_true_eq, Nat.add_comm e]

theorem writeSource_ignores {v : Nat} (h : v % 4 = 3 ∨ v % 4 = timeSource s) : writeSource s v = s := if_pos h

theorem writeSource_changes {v : Nat} (h3 : v % 4 ≠ 3) (hsame : v % 4 ≠ timeSource s) :
    writeSource s v = { s with regs := (setReg s .ftCtrl (v % 4)).regs, time := { s.time with lastEdge := none } } :=
  if_neg (not_or.mpr ⟨h3, hsame⟩)

/-! TIME messages (R232, R233) -/

theorem timeTimer_idle {i frac : Nat} (h : (portOf s i).mode.carries = false) : timeTimer s i frac = s := if_pos h

/-- The state in which a port has been handed its TIME message. -/
def timeHanded (s : State) (i frac : Nat) : State :=
  modPort { s with time := { s.time with timeSeq := tabSet s.time.timeSeq i ((tabGet 0 s.time.timeSeq i + 1) % 2 ^ 32) } } i
    (fun x => { x with timeOut := x.timeOut ++ [(frac % 256, timeBytes s i (tabGet 0 s.time.timeSeq i))] })

theorem timeTimer_hands {i frac : Nat} (h : (portOf s i).mode.carries = true) : timeTimer s i frac = timeHanded s i frac :=
  if_neg (by rw [h]; decide)

theorem timeHanded_spec (s : State) (i frac : Nat) :
    tabGet 0 (timeHanded s i frac).time.timeSeq i = (tabGet 0 s.time.timeSeq i + 1) % 2 ^ 32 ∧
      (portOf (timeHanded s i frac) i).timeOut = (portOf s i).timeOut ++ [(frac % 256, timeBytes s i (tabGet 0 s.time.timeSeq i))] ∧
      timeHanded s i frac = { s with time := (timeHanded s i frac).time, shawl := (timeHanded s i frac).shawl } := by
  refine ⟨tabGet_tabSet_same 0 i _ _, ?_, rfl⟩
  rw [portOf, timeHanded, modPort, tabGet_tabMap_same]
  rfl

/-! The loss of the chosen neighbour (R236) -/

/-- The instant at which the chosen neighbour has been silent for 10 ms. -/
def silentAt (s : State) : Nat := (neighbour s s.time.port).usedAt + 10000000

/-- The port that is followed in its place, if any. -/
def otherPort (s : State) : Option Nat := bestPort (reach s (silentAt s)) ((List.range 6).filter (fun i => i != s.time.port))

theorem shawlTimeLost_idle (h : s.time.mode ≠ .locked ∨ s.time.source ≠ 1) : shawlTimeLost s = s :=
  if_neg fun ⟨hmode, hsource⟩ => h.elim (absurd hmode) (absurd hsource)

theorem reach_follows (s : State) (d : Nat) :
    (reach s d).time.mode = s.time.mode ∧ ∀ j, neighbour (reach s d) j = neighbour s j := by
  unfold reach
  split
  · exact ⟨rfl, fun _ => rfl⟩
  · exact ⟨rfl, fun _ => rfl⟩

/-- The counter follows the neighbour of another port. -/
def onPort (w : State) (j : Nat) : State := { w with time := { w.time with port := j, hops := (neighbour w j).hops + 1 } }

theorem onPort_spec (w : State) (j : Nat) :
    now (onPort w j) = now w ∧ StoreKept w (onPort w j) ∧ (onPort w j).parts = w.parts ∧ (onPort w j).time.port = j ∧
      (onPort w j).time.hops = (neighbour w j).hops + 1 ∧ (onPort w j).time.mode = w.time.mode :=
  ⟨rfl, ⟨fun _ => ⟨rfl, rfl⟩, rfl, rfl⟩, rfl, rfl, rfl, rfl⟩

section Silent

variable (hmode : s.time.mode = .locked) (hsource : s.time.source = 1)
include hmode hsource

theorem shawlTimeLost_moves {j : Nat} (hother : otherPort s = some j) :
    shawlTimeLost s = onPort (reach s (silentAt s)) j := by
  unfold otherPort silentAt at hother
  unfold shawlTimeLost exchangeLossNs
  rw [if_pos ⟨hmode, hsource⟩]
  dsimp only
  rw [hother]
  rfl

theorem shawlTimeLost_holds (hother : otherPort s = none) : shawlTimeLost s = loseSource (reach s (silentAt s)) .holdover := by
  unfold otherPort silentAt at hother
  unfold shawlTimeLost exchangeLossNs
  rw [if_pos ⟨hmode, hsource⟩]
  dsimp only
  rw [hother]
  rfl

/-- At the loss another neighbour is followed, or the counter holds over. -/
theorem shawlTimeLost_spec :
    Reached s (shawlTimeLost s) (silentAt s) ∧ StoreKept s (shawlTimeLost s) ∧ (shawlTimeLost s).parts = s.parts ∧
      (∀ j, otherPort s = some j → (shawlTimeLost s).time.port = j ∧ (shawlTimeLost s).time.hops = (neighbour s j).hops + 1 ∧
        (shawlTimeLost s).time.mode = .locked) ∧
      (otherPort s = none → (shawlTimeLost s).time.mode = .holdover ∧ (shawlTimeLost s).time.hops = 31 ∧
        (shawlTimeLost s).time.source = 3 ∧ (shawlTimeLost s).time.slew = 0) := by
  cases hother : otherPort s with
  | none =>
    obtain ⟨hafter, hhops, hsource', hslew, hreached, hstore, hparts⟩ := loseSource_reach s (silentAt s) .holdover
    rw [shawlTimeLost_holds hmode hsource hother]
    exact ⟨hreached, hstore, hparts, nofun, fun _ => ⟨hafter, hhops, hsource', hslew⟩⟩
  | some j =>
    obtain ⟨hstays, hsame⟩ := reach_follows s (silentAt s)
    obtain ⟨hnow, hstore, hparts, hport, hhops, hafter⟩ := onPort_spec (reach s (silentAt s)) j
    rw [shawlTimeLost_moves hmode hsource hother]
    refine ⟨reached_of_now (reached_reach s _) hnow, storeKept_trans (storeKept_reach s _) hstore, hparts.trans ?_, ?_, nofun⟩
    · rw [reach_only]
    · intro k hk
      obtain rfl := Option.some.inj hk
      exact ⟨hport, hhops.trans (by rw [hsame]), hafter.trans (hstays.trans hmode)⟩

end Silent

theorem shawlTimeLost_parts (s : State) : (shawlTimeLost s).parts = s.parts := by
  by_cases h : s.time.mode = .locked ∧ s.time.source = 1
  · obtain ⟨hmode, hsource⟩ := h
    obtain ⟨-, -, hparts, -⟩ := shawlTimeLost_spec hmode hsource
    exact hparts
  · rw [shawlTimeLost_idle (not_and_or.mp h)]

/-! A message received -/

/-- The chosen neighbour has been silent for 10 ms. -/
def exchangeLost (s : State) : Prop :=
  s.time.mode = .locked ∧ s.time.source = 1 ∧ (neighbour s s.time.port).usedAt + 10000000 ≤ now s

/-- The state that a message finds: after the loss where its timer has expired (R244). -/
theorem beforeExchange_eq {u : State}
    (h : (exchangeLost s ∧ Answers .shawlTimeLossTimeout s u) ∨ (¬ exchangeLost s ∧ u = s)) : beforeExchange s = u := by
  rcases h with ⟨hlost, hans⟩ | ⟨hkept, rfl⟩
  · exact (if_pos hlost).trans (Host.Outcome.next.inj hans)
  · exact if_neg hkept

theorem beforeExchange_parts (s : State) : (beforeExchange s).parts = s.parts := by
  unfold beforeExchange
  split
  · exact shawlTimeLost_parts s
  · rfl

/-- What a neighbour's message leaves of it. -/
def heardOf (u : State) (i : Nat) (m : TimeMsg) (n : Neighbour) : Neighbour :=
  { n with
    hops := m.hops, moduleId := m.moduleId, locked := m.quality == 2, follows := m.follows,
    exchanges := if exchangeValid (neighbour u i) m then n.exchanges + 1 else n.exchanges,
    usedAt := if exchangeValid (neighbour u i) m then now u else n.usedAt,
    arrived := m.arrival, arrivedQuality := u.time.mode.code, arrivedOrder := (portOf u i).order, heard := true }

/-- The state that has heard a neighbour's message. -/
def heardFrom (u : State) (i : Nat) (m : TimeMsg) : State :=
  modPort (modNeighbour u i (heardOf u i m)) i (fun x => { x with order := x.order + 1 })

theorem neighbour_heardFrom (u : State) (i : Nat) (m : TimeMsg) : neighbour (heardFrom u i m) i = heardOf u i m (neighbour u i) := by
  rw [neighbour, heardFrom, modPort, modNeighbour]
  exact tabGet_tabMap_same {} u.time.neighbours i _

theorem order_heardFrom (u : State) (i : Nat) (m : TimeMsg) : (portOf (heardFrom u i m) i).order = (portOf u i).order + 1 := by
  rw [portOf, heardFrom, modPort, tabGet_tabMap_same]
  rfl

theorem heardFrom_only (u : State) (i : Nat) (m : TimeMsg) :
    heardFrom u i m = { u with time := { u.time with neighbours := (heardFrom u i m).time.neighbours }, shawl := (heardFrom u i m).shawl } := rfl

theorem exchangeValid_iff {n : Neighbour} {m : TimeMsg} :
    exchangeValid n m = true ↔ n.heard = true ∧ n.sent = true ∧ m.quality = 2 ∧ m.hops ≤ 23 ∧ m.follows = false := by
  simp only [exchangeValid, Bool.and_eq_true, beq_iff_eq, decide_eq_true_eq, Bool.not_eq_true', and_assoc]

/-- A valid exchange is used where its port is the chosen one. -/
def usesExchange (u : State) (i : Nat) (m : TimeMsg) : Prop :=
  exchangeValid (neighbour u i) m = true ∧ followsShawl (heardFrom u i m) = true ∧ chosenPort (heardFrom u i m) = some i

section Messages

variable {u : State} {i : Nat} {m : TimeMsg} (hu : beforeExchange s = u) (hcarries : (portOf s i).mode.carries = true)
include hu hcarries

theorem timeArrives_heard (hno : ¬ usesExchange u i m) : timeArrives s i m = heardFrom u i m := by
  subst hu
  refine (if_neg (by rw [hcarries]; decide)).trans ?_
  exact if_neg hno

theorem timeArrives_used (hyes : usesExchange u i m) :
    timeArrives s i m = useEstimate (heardFrom u i m) 1 i m.hops (exchangeOffset u i m) := by
  subst hu
  refine (if_neg (by rw [hcarries]; decide)).trans ?_
  exact if_pos hyes

end Messages

/-- A used exchange follows its port, as an edge follows FT_PPS. -/
theorem exchange_followed (v : State) (i hops : Nat) (err : Int) :
    let t := useEstimate v 1 i hops err
    t.time.source = 1 ∧ t.time.port = i ∧ t.time.lastUsable = now t ∧ StoreKept v t ∧
      (v.time.mode = .unset →
        total256 t = (((total256 v : Nat) : Int) - err).toNat % 2 ^ 72 ∧ t.time.mode = .acquiring ∧ t.time.hops = 31) ∧
      (v.time.mode ≠ .unset → t.time.slew = -err ∧ t.time.ns = v.time.ns ∧ t.parts = v.parts) ∧
      (v.time.mode = .locked → t.time.mode = .locked ∧ t.time.hops = hops + 1) ∧
      (v.time.mode = .acquiring → err.natAbs ≤ 1024 → 15 ≤ v.time.goodRun → t.time.mode = .locked ∧ t.time.hops = hops + 1) ∧
      (v.time.mode = .acquiring → 1024 < err.natAbs ∨ v.time.goodRun < 15 → t.time.mode = .acquiring ∧ t.time.hops = 31) ∧
      (v.time.mode = .holdover ∨ v.time.mode = .freerun → t.time.mode = .acquiring ∧ t.time.hops = 31) := by
  have htime := useEstimate_time v 1 i hops err
  dsimp only
  refine ⟨by rw [htime]; rfl, by rw [htime]; rfl, by rw [now, htime]; rfl, storeKept_useEstimate v 1 i hops err,
    fun hmode => ⟨useEstimate_steps hmode, ?_⟩, fun hmode => ?_, fun hmode => ?_, fun hmode hnear hrun => ?_, fun hmode hno => ?_,
    fun hmode => ?_⟩
  case refine_2 =>
    obtain ⟨hslew, hns, -, hparts⟩ := useEstimate_slews (source := 1) (port := i) (hops := hops) (err := err) hmode
    exact ⟨hslew, hns, hparts⟩
  all_goals rw [htime]
  · exact timeAfter_acquiring (modeAfter_unfollowed (.inl hmode)).1
  · exact timeAfter_locked (modeAfter_locked hmode)
  · exact timeAfter_locked (modeAfter_locks hmode hnear hrun)
  · exact timeAfter_acquiring (modeAfter_acquires hmode hno)
  · exact timeAfter_acquiring (modeAfter_unfollowed (.inr hmode)).1

/-! The end of holdover (R236) -/

theorem holdoverEnds_idle (h : s.time.mode ≠ .holdover) : holdoverEnds s = s := if_neg h

/-- The entry that ends a holdover. -/
def holdoverReport (s : State) : Report := { cls := freeNat s 1, code := leNat ((freeBytes s 2).drop 1) }

theorem holdoverEnds_eq (h : s.time.mode = .holdover) :
    holdoverEnds s = spendFree (logFault (loseSource s .freerun) (holdoverReport s)) := if_pos h

theorem logFault_time (u : State) (r : Report) : (logFault u r).time = u.time := by
  rw [(reported_logFault u r).update]

theorem storeKept_logFault (u : State) (r : Report) : StoreKept u (logFault u r) := by
  rw [(reported_logFault u r).update]
  exact ⟨fun _ => ⟨rfl, rfl⟩, rfl, rfl⟩

theorem logRuns_loseSource (s : State) (m : TimeMode) : logRuns (loseSource s m) = logRuns s :=
  logRuns_congr (by rw [loseSource_only])

theorem holdoverEnds_spec (h : s.time.mode = .holdover) :
    (holdoverEnds s).time.mode = .freerun ∧ (holdoverEnds s).time.hops = 31 ∧
      (logRuns s = true → Logged (holdoverEnds s) (freeNat s 1) (leNat ((freeBytes s 2).drop 1))) ∧ StoreKept s (holdoverEnds s) := by
  have htime : (holdoverEnds s).time = (loseSource s .freerun).time := by
    rw [holdoverEnds_eq h]
    exact logFault_time _ _
  have hstore : StoreKept s (loseSource s .freerun) := storeKept_of_only (by rw [loseSource_only])
  refine ⟨by rw [htime, loseSource_only], by rw [htime, loseSource_only], fun hruns => ?_, ?_⟩
  · rw [holdoverEnds_eq h]
    exact logged_logFault ((logRuns_loseSource s .freerun).trans hruns) (holdoverReport s)
  · rw [holdoverEnds_eq h]
    exact storeKept_trans hstore (storeKept_logFault _ _)

/-! The commands -/

theorem ppsEdge_answers {t : State} {dt frac : Nat} (h : ppsEdge s dt frac = t) : Answers (.ftPpsEdge dt frac) s t := answers_of_eq rfl h

theorem timeArrives_answers {t : State} {i : Fin 6} {m : TimeMsg} (h : timeArrives s i.val m = t) : Answers (.timeReceive i m) s t :=
  answers_of_eq rfl h

theorem ppsLost_due (h : needsPps s = true) : ppsLost s = loseSource (reach s (s.time.lastUsable + 1500000000)) .holdover := if_pos h

theorem ppsLost_idle (h : needsPps s = false) : ppsLost s = s := if_neg (by rw [h]; exact Bool.false_ne_true)

theorem timeArrives_idle {i : Nat} {m : TimeMsg} (h : (portOf s i).mode.carries = false) : timeArrives s i m = s := if_pos h

/-- What a message leaves of its neighbour, but for the exchange's count and instant. -/
theorem heardOf_eq (u : State) (i : Nat) (m : TimeMsg) (n : Neighbour) :
    heardOf u i m n = { n with
      hops := m.hops, moduleId := m.moduleId, locked := m.quality == 2, follows := m.follows, arrived := m.arrival,
      arrivedQuality := u.time.mode.code, arrivedOrder := (portOf u i).order, heard := true,
      exchanges := (heardOf u i m n).exchanges, usedAt := (heardOf u i m n).usedAt } := rfl

theorem heardOf_valid {u : State} {i : Nat} {m : TimeMsg} (h : exchangeValid (neighbour u i) m = true) (n : Neighbour) :
    (heardOf u i m n).exchanges = n.exchanges + 1 ∧ (heardOf u i m n).usedAt = now u := ⟨if_pos h, if_pos h⟩

theorem heardOf_invalid {u : State} {i : Nat} {m : TimeMsg} (h : ¬ exchangeValid (neighbour u i) m = true) (n : Neighbour) :
    (heardOf u i m n).exchanges = n.exchanges ∧ (heardOf u i m n).usedAt = n.usedAt := ⟨if_neg h, if_neg h⟩

/-- Settles O48: edges and messages are estimates, which move time on by Table 9.2; a silence loses the source. -/
theorem timeFollowsItsReferences : Obligations.TimeFollowsItsReferences := by
  unfold Obligations.TimeFollowsItsReferences
  refine ⟨fun s => ⟨?edges, fun hlog v frac => ⟨answers_unserved rfl hlog, answers_unserved rfl hlog, answers_unserved rfl hlog⟩,
      fun hlog => ⟨fun v => ?tod, fun v => ⟨fun hkeep => ?_, fun h3 hsame => ?_⟩, fun frac => answers_gated rfl hlog rfl⟩,
      fun hneeds => ?pps, fun hneeds => answers_of_eq rfl (ppsLost_idle hneeds)⟩,
    fun s => ⟨fun i frac => ⟨fun hidle => answers_of_eq rfl (timeTimer_idle hidle), fun hcarries => ?timer⟩,
      fun i m => ⟨fun hidle => timeArrives_answers (timeArrives_idle hidle), fun hcarries => ?receive⟩,
      fun hmode hsource => ?silent, fun hidle => answers_of_eq rfl (shawlTimeLost_idle hidle), fun hmode => ?holdover,
      fun hmode => answers_of_eq rfl (holdoverEnds_idle hmode)⟩⟩
  case edges =>
    intro dt frac
    dsimp only
    intro u hfound
    have hu := beforeEdge_eq hfound
    refine ⟨fun hmasked => ppsEdge_answers (ppsEdge_masked hu hmasked),
      fun hsource hbound => ppsEdge_answers (ppsEdge_unbound hu hsource hbound), fun tod hsource hbound => ?_⟩
    have hused := fun hnear => ppsEdge_answers (ppsEdge_used hu hsource hbound hnear)
    refine ⟨fun hmode hfar => ppsEdge_answers (ppsEdge_far hu hsource hbound hmode hfar),
      fun hmode => ⟨_, hused ?_, edge_steps hmode⟩, fun hmode hnear => ⟨_, hused fun _ => hnear, edge_slews hmode⟩,
      fun hmode hnear hrun => ⟨_, hused ?_, edge_locks hmode hnear hrun⟩,
      fun hmode hno => ⟨_, hused ?_, edge_acquires hmode hno⟩,
      fun hmode => hmode.elim (fun ⟨hmode, hnear⟩ => ⟨_, hused fun _ => hnear, edge_reacquires (.inl hmode)⟩)
        fun hmode => ⟨_, hused ?_, edge_reacquires (.inr hmode)⟩⟩
    all_goals
      rw [hmode]
      nofun
  case tod =>
    obtain ⟨hfirst, hnext, honly⟩ := writeTod_binds s v.toNat
    exact ⟨_, answers_gated rfl hlog rfl, rfl, hfirst, hnext, honly⟩
  case pps =>
    obtain ⟨hmode, hhops, hsource, hslew, hreached, hstore, hparts⟩ := loseSource_reach s (s.time.lastUsable + 1500000000) .holdover
    exact ⟨_, answers_of_eq rfl (ppsLost_due hneeds), hmode, hhops, hsource, hslew, hreached, hstore, hparts⟩
  case timer =>
    exact ⟨_, answers_of_eq rfl (timeTimer_hands hcarries), timeHanded_spec s i.val frac⟩
  case receive =>
    dsimp only
    intro u hfound
    have hu := beforeExchange_eq hfound
    have hparts : u.parts = s.parts := by rw [← hu, beforeExchange_parts]
    refine ⟨heardFrom u i.val m, ?_, ?_, ?_, order_heardFrom u i.val m, heardFrom_only u i.val m, ?_, ?_⟩
    · rw [neighbour_heardFrom]
      exact heardOf_eq u i.val m _
    · intro hvalid
      rw [neighbour_heardFrom]
      exact heardOf_valid (exchangeValid_iff.mpr hvalid) _
    · intro hvalid
      rw [neighbour_heardFrom]
      exact heardOf_invalid (mt exchangeValid_iff.mp hvalid) _
    · intro hno
      exact timeArrives_answers (timeArrives_heard hu hcarries fun ⟨hvalid, hrest⟩ => hno ⟨exchangeValid_iff.mp hvalid, hrest⟩)
    · intro hvalid hfollows hchosen
      have hused := timeArrives_used hu hcarries ⟨exchangeValid_iff.mpr hvalid, hfollows, hchosen⟩
      obtain ⟨hsource, hport, husable, hstore, hsteps, hslews, hrest⟩ :=
        exchange_followed (heardFrom u i.val m) i.val m.hops (exchangeOffset u i.val m)
      refine ⟨_, timeArrives_answers hused, hsource, hport, husable, hstore, hsteps, fun hset => ?_, hrest⟩
      obtain ⟨hslew, hns, hkept⟩ := hslews hset
      exact ⟨hslew, hns, hkept.trans hparts⟩
  case silent => exact ⟨_, answers_of_eq rfl rfl, shawlTimeLost_spec hmode hsource⟩
  case holdover => exact ⟨_, answers_of_eq rfl rfl, holdoverEnds_spec hmode⟩
  · exact answers_gated rfl hlog (writeSource_ignores hkeep)
  · exact ⟨_, answers_gated rfl hlog (writeSource_changes h3 hsame), rfl, rfl, rfl⟩

end Sys2Proof.Proofs.TimeReferences
end

section
/-! O13: `WindowCloseSetsTheClose` is refuted. Its last clause says of every state with ordered descriptors that a WINDOW_CLOSE which leaves
its window empty changes no other partition. What waits in the window is then judged (R242), and the record of a listed submission goes to
the memory of the partition whose INGEST lists it (R40), which the premises do not say to be the window's own. As for O16, INGEST itself
lists items into its own partition's windows alone (`judgeItem`): the clause lacks the premise that says so. -/

namespace Sys2Proof.Proofs.ForeignClose

open Sys2Proof Sys2Proof.Machine
open Sys2Proof.Proofs.ForeignIngest

/-- The window in which partition 1's item waits, opened at the present instant. -/
def openedNow : Window := { windowWithItem with opens := 1000 }

/-- Partition 0 holds the window and a Sleeve, partition 1 the INGEST; the module runs. -/
def foreignItemWaits : State :=
  { windowOfForeignItem with
    parts := [(0, { mode := .live, sleeves := 1#16, submit := some openedNow }), (1, { mode := .live })]
    faults := { windowOfForeignItem.faults with mode := .run } }

def closeHeader : DescHdr := { p := 0, ring := 0, slot := 0, gen := 0, hflags := 0, tag := 0, stamp := ⟨0, 0⟩ }

/-- It asks for a close that has passed and a list in the Pocket. -/
def closeAtOnce : WindowCloseOps := { roundId := 0, kind := 0, closeAt := 1, listAddr := 2 * 2 ^ 60 }

theorem closeAtOnce_dispatches :
    FlightsOrdered foreignItemWaits ∧ Dispatches foreignItemWaits closeHeader (.windowClose closeAtOnce) := by
  refine ⟨⟨by decide, by decide⟩, ?_, ?_, ?_⟩ <;> decide +kernel

/-- The close leaves the open window empty. -/
theorem closeAtOnce_empties :
    windowFor (part foreignItemWaits 0) (kindOf closeAtOnce.kind) closeAtOnce.roundId = some openedNow ∧
      effectiveClose openedNow closeAtOnce.closeAt (ceilNs (instant foreignItemWaits)) = openedNow.opens := by
  decide +kernel

/-- The item's record is counted in partition 1's DRAM bytes. -/
theorem closeAtOnce_counts_in_partition_1 :
    (part foreignItemWaits 1).usage.dramBytes = 0 ∧
      (part (dispatchDesc closeHeader (.windowClose closeAtOnce) foreignItemWaits) 1).usage.dramBytes = 128 := by
  decide +kernel

/-- Refutes O13: a WINDOW_CLOSE that leaves partition 0's window empty gives its verdict to an item that an INGEST of partition 1 lists,
and moves partition 1's usage counters, while the clause keeps every partition but 0. -/
theorem not_windowCloseSetsTheClose : ¬ Obligations.WindowCloseSetsTheClose := by
  intro h
  obtain ⟨hordered, hdispatches⟩ := closeAtOnce_dispatches
  obtain ⟨hwindow, hempty⟩ := closeAtOnce_empties
  obtain ⟨hbefore, hafter⟩ := closeAtOnce_counts_in_partition_1
  obtain ⟨-, -, -, -, -, hcloses⟩ := h foreignItemWaits closeHeader closeAtOnce hordered hdispatches
  obtain ⟨t, -, -, -, hans, -, -, -, -, -, -, hkept⟩ := hcloses openedNow hwindow (.inr rfl) hempty
  have ht : dispatchDesc closeHeader (.windowClose closeAtOnce) foreignItemWaits = t := Host.Outcome.next.inj hans
  have hsame : part t 1 = part foreignItemWaits 1 := hkept 1 Nat.one_ne_zero
  rw [ht, hsame, hbefore] at hafter
  exact absurd hafter (by decide)

end Sys2Proof.Proofs.ForeignClose
end

section
/-! O49: `MeteringClosesItsIntervals` is refuted. Its clause on a minute's end says of every state that federation time comes to the boundary
and, where the counter neither slews nor runs free, to no later instant. The keys that expire at the boundary are taken first (R245), each by
its kind: `expireKey` brings the first key of that kind about. A store that holds two keys of one kind, of which the second expires at the
boundary and the first a minute later, brings time to the later instant. A KEY_IMPORT replaces the key of its kind (`installKey`): the clause
lacks the premise that a partition holds one key of each kind. -/

namespace Sys2Proof.Proofs.MinuteEnds

open Sys2Proof Sys2Proof.Machine

/-- A release key that expires at an instant (Table 13.9). -/
def keyUntil (t : Nat) : StoredKey := { kind := 1, keyId := 0, key := [], smudge := 0, expiry := t, dying := false }

/-- Partition 0 holds two release keys: the first expires at the end of the second minute, the other at that of the first. -/
def twoReleaseKeys : State :=
  { State.reset with parts := [(0, { mode := .live, keys := [keyUntil (2 * minuteNs), keyUntil minuteNs] })] }

/-- The first minute is the next to end, within the counter's bits, and the counter is within its bounds and follows the oscillator. -/
theorem firstMinute_ends :
    nextMark twoReleaseKeys minuteNs twoReleaseKeys.manager.lastMinute = 1 ∧ ClockBounded twoReleaseKeys.time ∧
      twoReleaseKeys.time.slew = 0 ∧ twoReleaseKeys.time.mode = .unset ∧ now twoReleaseKeys = 0 := by
  refine ⟨by decide, ⟨by decide, by decide, by decide⟩, rfl, rfl, rfl⟩

/-- Its end brings time to the end of the second. -/
theorem firstMinute_ends_late : now (minuteInstant twoReleaseKeys) = 2 * minuteNs := by decide +kernel

/-- Refutes O49: with two keys of one kind the expiry of the second at a minute's end brings time to the expiry of the first, a minute
later, while the clause keeps time at the boundary. -/
theorem not_meteringClosesItsIntervals : ¬ Obligations.MeteringClosesItsIntervals := by
  intro h
  obtain ⟨hmark, hbounded, hslew, hmode, hnow⟩ := firstMinute_ends
  obtain ⟨⟨-, hends⟩, -⟩ := h twoReleaseKeys
  obtain ⟨-, hreached, -⟩ := hends (minuteInstant twoReleaseKeys) rfl
  rw [hmark] at hreached
  obtain ⟨-, hexact⟩ := hreached (by decide) hbounded
  have hat := hexact hslew (by rw [hmode]; decide) (by rw [hmode]; decide)
  rw [firstMinute_ends_late, hnow] at hat
  exact absurd hat (by decide)

end Sys2Proof.Proofs.MinuteEnds
end
